-- ==== Sys2Proof/Word.lean ====
section
/-!
DEFINITION. The word types of the Talyathen 9400 and the plain containers of the model's state.
R5: memory is byte addressed and little-endian, bit 0 is the least significant bit of any field.
-/

namespace Sys2Proof

/-- A scalar register's contents (R110): 64 bits. -/
abbrev Word := BitVec 64

/-- A byte of memory (R5). -/
abbrev Byte := BitVec 8

/-- A 32-bit element: a tile element (R184), a word lane (R126), a rounding generator (R50). -/
abbrev Word32 := BitVec 32

/-- A vector register (R125): 512 bytes, byte `k` in bits `8*k+7 .. 8*k`. -/
abbrev VReg := BitVec 4096

/-- A predicate register (R125): bit `k` belongs to byte `k` of a vector register. -/
abbrev PReg := BitVec 512

/-- A map from numbers to values: at most one entry a number, numbers rising.
An unlisted number holds the default that its reader names. -/
abbrev SMap (α : Type) := List (Nat × α)

/-- Bits `lo + n - 1` down to `lo` of a number. -/
abbrev fld (w lo n : Nat) : Nat := w / 2 ^ lo % 2 ^ n

end Sys2Proof
end

