-- ==== Sys2Proof/Config.lean ====
section
/-!
DEFINITION. What an implementation fixes and the spec leaves open, and the free values.
An opaque constant has no value that a proof could use: a statement about it holds for every value.
-/

namespace Sys2Proof.Config

/-- The number of scratchpad bytes of a core (R88). -/
abbrev spadBytes : Nat := 0x400000

/-- The number of HBM bytes (R66, R301): 768 GiB. -/
abbrev hbmBytes : Nat := 768 * 2 ^ 30

/-- IMEM bytes of a core (R3, R32). -/
abbrev imemBytes : Nat := 0x80000

/-- The physical HBM address of the ASID table (R64 gives no value; log 11). -/
opaque asidBase : Nat

/-- What decryption and encryption give for an access that was translated before its key slot was emptied (R310 has the controller
use the slot as it stands; log 16): by key slot, address and value of the 16-byte word. -/
opaque emptyDec : Nat → Nat → Nat → BitVec 128
opaque emptyEnc : Nat → Nat → Nat → BitVec 128

/-- The sum of a cell of a product that only an image can bring, a streamed one or one with a part of a block in the MX class (R322, log
51): by product, cell and position. -/
opaque imageSum : Nat → Nat → Nat → Nat

/-- The PCIe link that carries a write to a host-memory address: its parity (R228, log 107). -/
opaque hostLink : Nat → Nat

/-- The bytes of a save image's hardware sections (R305, log 12): by the image's key and the offset. -/
opaque hiddenByte : Nat → Nat → BitVec 8

/-- The code in a field of FMT (0 rm, 1 afmt, 2 bfmt) whose word in a save image holds a reserved code (R52, log 110). -/
opaque imageCode : Nat → Nat → Nat

/-- What an uncorrectable storage element reads as, by the number of the draw (R360, log 31). -/
opaque storedBits : Nat → Nat

/-- The HBM stack of an address, of twelve (log 31). -/
opaque hbmStack : Nat → Nat

/-- Free words, by the number of the draw (log 5). -/
opaque freeWord : Nat → Word

/-- Free choices between two outcomes, by the number of the draw (log 5). -/
opaque freeBit : Nat → Bool

/-- The particles that the neighbour-list engine meets in a cell whose bins another agent has written (R160, log 13): by epoch
and cell. -/
opaque foreignBin : Nat → Nat → List Nat

/-- What TADDR receives where a check fails on an operand that is no address (an unbound handle, a queue that is not the
launch's): the spec calls it the faulting or misaligned address and names none (log 21). By the operand. -/
opaque openAddr : Nat → Word

/-- A record's line outside the group of its operand, which only the image of a restored product can name (R173, R322; log 104): by
core and line. -/
opaque strayLine : Nat → BitVec 512

/-- The rate at which module time is slewed, in parts per million (R354: at most 1,000; log 28). -/
opaque slewPpm : Nat

/-- Link `l` trains at the reset of this draw number, and its flight time in ticks (R355: the spec gives no values). -/
opaque linkUp : Nat → Nat → Bool
opaque linkFlight : Nat → Nat → Nat

/-- The boot ROM accepts the firmware image at the reset of this draw number (R363: the images and fuses are outside the machine). -/
opaque fwAccepted : Nat → Bool

/-- What an attestation report takes from the module (R364): the measurement of bytes, the firmware's measurement, serial number,
security version, the signatures of a report by the two identity keys, the one-time leaves of the LMS key, and the mailbox's
status after a report. The spec gives none of the values. -/
opaque measure : List Byte → Nat
opaque fwMeasure : Nat
opaque serial : Nat
opaque secVersion : Nat
opaque signP384 : List Nat → Nat
opaque signLms : List Nat → Nat
opaque lmsLeaves : Nat
opaque mbOk : Nat

end Sys2Proof.Config
end

