-- ==== Sys2Proof/Syntax.lean ====
section
/-!
DEFINITION. The syntax of the Talyathen 9400: one constructor for each row of the table of operations and events.
The first 197 rows are the syllables of R33; the others are the events that file 95 names.
A register is named by its number; WellFormed says which numbers exist.
-/

namespace Sys2Proof

/-- The ten slots of a bundle in template order (R17, R18). -/
inductive Slot where
  | b | x | y | v | w | l | m | c | q | f
  deriving DecidableEq, Repr

/-- Element types by their codes (R34); codes 7, 11 and 15 name none. -/
inductive ETy where
  | b | h | w | d | ub | uh | uw | bf | hf | f | mx8 | mx6 | mx4
  deriving DecidableEq, Repr

/-- Operand b of an N-R syllable: a scalar register or the slot's literal (R24). -/
inductive Src where
  | reg (n : Nat)
  | lit (v : Nat)
  deriving DecidableEq, Repr

/-- The immediate of an N-I syllable: imm10 (signed) or the slot's literal (R24). -/
inductive Imm where
  | imm (v : Int)
  | lit (v : Nat)
  deriving DecidableEq, Repr

/-- A vector shift's amount: a register of amounts or an immediate `#n` (R136). -/
inductive Amt where
  | reg (n : Nat)
  | imm (n : Nat)
  deriving DecidableEq, Repr

/-- Format N-B with a tested register (R21, R22). -/
structure NBr where
  r : Nat
  drain : Bool
  disp : Int
  deriving DecidableEq, Repr

/-- Format N-B of BRC: the tested condition and its negation. -/
structure NBc where
  c : Nat
  neg : Bool
  drain : Bool
  disp : Int
  deriving DecidableEq, Repr

/-- Format N-B with a guard (CALL; JMP has guard 0). -/
structure NBg where
  g : Nat
  drain : Bool
  disp : Int
  deriving DecidableEq, Repr

/-- JMPI, CALLI: guard, target register, drain bit (R196). -/
structure NJ where
  g : Nat
  a : Nat
  drain : Bool
  deriving DecidableEq, Repr

/-- SVC, BRK: guard and 22-bit code (R196). -/
structure NCode where
  g : Nat
  code : Nat
  deriving DecidableEq, Repr

/-- Format N-R with its literal alternative. -/
structure NR where
  g : Nat
  d : Nat
  a : Nat
  b : Src
  deriving DecidableEq, Repr

/-- Format N-R of an instruction without operand b (MOV, CLZ, POPC). -/
structure N2 where
  g : Nat
  d : Nat
  a : Nat
  deriving DecidableEq, Repr

/-- Format N-I with its literal alternative. -/
structure NI where
  g : Nat
  d : Nat
  a : Nat
  b : Imm
  deriving DecidableEq, Repr

/-- LI: no register operand (R114). -/
structure NL where
  g : Nat
  d : Nat
  b : Imm
  deriving DecidableEq, Repr

/-- BFX, BFI: position 0 to 63 and length 1 to 16 (R117). -/
structure NBit where
  g : Nat
  d : Nat
  a : Nat
  pos : Nat
  len : Nat
  deriving DecidableEq, Repr

/-- MFC, MTC: a scalar register and a control register number (R120). -/
structure NCtl where
  g : Nat
  r : Nat
  num : Nat
  deriving DecidableEq, Repr

/-- Format W-V with two register sources. -/
structure V3 where
  g : Nat
  t : ETy
  d : Nat
  a : Nat
  b : Nat
  step : Nat
  deriving DecidableEq, Repr

/-- Format W-V with one register source. -/
structure V2 where
  g : Nat
  t : ETy
  d : Nat
  a : Nat
  step : Nat
  deriving DecidableEq, Repr

/-- The three-operand predicate instructions (R144): no type. -/
structure VP where
  g : Nat
  d : Nat
  a : Nat
  b : Nat
  step : Nat
  deriving DecidableEq, Repr

/-- PNOT (R144). -/
structure VP2 where
  g : Nat
  d : Nat
  a : Nat
  step : Nat
  deriving DecidableEq, Repr

/-- The tests of VCMP (R136): codes 0 to 5. -/
inductive ICmp where
  | eq | ne | lt | le | gt | ge
  deriving DecidableEq, Repr

/-- The tests of VFCMP (R137): codes 0 to 7. -/
inductive FCmp where
  | eq | ne | lt | le | gt | ge | un | ord
  deriving DecidableEq, Repr

/-- The tests of CMPC (R116): codes 0 to 7. -/
inductive CCmp where
  | eq | ne | lt | ge | ltu | geu | tst | ntst
  deriving DecidableEq, Repr

/-- The operations of VRED (R145): codes 0 to 5. -/
inductive RedOp where
  | add | min | max | and | or | xor
  deriving DecidableEq, Repr

/-- The operations of SFOP (R155): codes 0 to 6. -/
inductive SfOp where
  | add | swap | cas | max | min | and | or
  deriving DecidableEq, Repr

/-- Format W-L: offset in bytes, step in units of 16 bytes (R21, R94). -/
structure LD where
  g : Nat
  v : Nat
  base : Nat
  off : Int
  step : Int
  deriving DecidableEq, Repr

/-- VLDS, VSTS: the off22 field holds the stride in units of 32 bytes (R94). -/
structure LS where
  g : Nat
  v : Nat
  base : Nat
  stride : Int
  step : Int
  deriving DecidableEq, Repr

/-- VLDX, VSTX: the step13 field names the index register (R94). -/
structure LX where
  g : Nat
  v : Nat
  base : Nat
  off : Int
  vi : Nat
  deriving DecidableEq, Repr

/-- FILL: pattern register and length code (m / 16 - 1) (R94, R100). -/
structure LF where
  g : Nat
  sc : Nat
  len : Nat
  base : Nat
  off : Int
  step : Int
  deriving DecidableEq, Repr

/-- MMUL, MACC, MMULS, MACCS (R180): pitches in units of 64 bytes. -/
structure MM where
  tile : Nat
  a : Nat
  b : Nat
  k : Nat
  zone : Nat
  prod : Nat
  cons : Nat
  step : Nat
  apitch : Nat
  bpitch : Nat
  deriving DecidableEq, Repr

/-- MSTRM (R180, R183). -/
structure MS where
  tile : Nat
  a : Nat
  k : Nat
  zone : Nat
  prod : Nat
  cons : Nat
  step : Nat
  apitch : Nat
  acc : Bool
  deriving DecidableEq, Repr

/-- MZERO (R186). -/
structure MZ where
  tile : Nat
  zone : Nat
  prod : Nat
  cons : Nat
  step : Nat
  deriving DecidableEq, Repr

/-- MRDV, MWRV (R187): tile rows and a vector register. -/
structure MV where
  tile : Nat
  row : Nat
  prod : Nat
  cons : Nat
  step : Nat
  v : Nat
  deriving DecidableEq, Repr

/-- MRDS, MWRS (R188, R189): pitch in units of 64 bytes; MWRS has shift 0. -/
structure MX where
  tile : Nat
  addr : Nat
  zone : Nat
  prod : Nat
  cons : Nat
  step : Nat
  u : ETy
  pitch : Nat
  shift : Nat
  deriving DecidableEq, Repr

/-- MSEAM, MRESUME (R326). -/
structure MI where
  a : Nat
  prod : Nat
  cons : Nat
  deriving DecidableEq, Repr

/-- CPLVL (R78). -/
structure CL where
  sq : Nat
  cnt : Nat
  ss : Nat
  ds : Nat
  prod : Nat
  cons : Nat
  level : Nat
  deriving DecidableEq, Repr

/-- CPBASE (R78): a space is true for the cluster scratchpad, false for device virtual. -/
structure CB where
  sq : Nat
  src : Nat
  dst : Nat
  len : Nat
  prod : Nat
  cons : Nat
  sspad : Bool
  dspad : Bool
  deriving DecidableEq, Repr

/-- CPGO, CPSTRM, CPCAN: a sequencer handle and tokens (R78, R79). -/
structure CS where
  sq : Nat
  prod : Nat
  cons : Nat
  deriving DecidableEq, Repr

/-- CPSTAT (R79). -/
structure CT where
  sq : Nat
  addr : Nat
  prod : Nat
  cons : Nat
  deriving DecidableEq, Repr

/-- LKSEND, LKRECV (R84). -/
structure CK where
  link : Nat
  addr : Nat
  len : Nat
  tick : Nat
  prod : Nat
  cons : Nat
  deriving DecidableEq, Repr

/-- Link formats of LKRED (R85): codes 0 to 2. -/
inductive LkFmt where
  | f | bf | mx8
  deriving DecidableEq, Repr

/-- LKRED (R85). -/
structure CR where
  link : Nat
  addr : Nat
  cnt : Nat
  tick : Nat
  prod : Nat
  cons : Nat
  out : Nat
  deliver : Bool
  infmt : LkFmt
  outfmt : LkFmt
  deriving DecidableEq, Repr

/-- LKTIME (R86). -/
structure CLt where
  tick : Nat
  prod : Nat
  cons : Nat
  deriving DecidableEq, Repr

/-- The modes of TLBINV (R80): codes 0 to 2. -/
inductive TlbMode where
  | range | asid | all
  deriving DecidableEq, Repr

/-- TLBINV (R80). -/
structure CI where
  asid : Nat
  start : Nat
  len : Nat
  prod : Nat
  cons : Nat
  mode : TlbMode
  wide : Bool
  deriving DecidableEq, Repr

/-- GPUSH (R151): element size is 2^z bytes; space true for device virtual. -/
structure QG where
  g : Nat
  vi : Nat
  sb : Nat
  z : Nat
  virt : Bool
  prod : Nat
  deriving DecidableEq, Repr

/-- The element types of SACC (R151): codes 0 to 2. -/
inductive SaTy where
  | w | d | f
  deriving DecidableEq, Repr

/-- SACC (R151). -/
structure QA where
  g : Nat
  vx : Nat
  sb : Nat
  t : SaTy
  virt : Bool
  prod : Nat
  deriving DecidableEq, Repr

/-- SFOP (R151): `wide` is type d. -/
structure QF where
  g : Nat
  sa : Nat
  sv : Nat
  wide : Bool
  virt : Bool
  prod : Nat
  op : SfOp
  deriving DecidableEq, Repr

/-- A Q syllable with one register and a token: NLBIN, NLPOS, NLSTAT, UNWATCH. -/
structure Q1 where
  g : Nat
  r : Nat
  prod : Nat
  deriving DecidableEq, Repr

/-- A Q syllable with two registers and a token: NLREQ, SPAWN, TAKE, WATCH. -/
structure Q2 where
  g : Nat
  r : Nat
  t : Nat
  prod : Nat
  deriving DecidableEq, Repr

/-- A guarded syllable with one number: GPOP, and the one-field F syllables. -/
structure G1 where
  g : Nat
  n : Nat
  deriving DecidableEq, Repr

/-- A guarded syllable with two numbers: NLPOP, BAR, ZSET, PERF, KEYLD. -/
structure G2 where
  g : Nat
  n : Nat
  m : Nat
  deriving DecidableEq, Repr

/-- WFE (R216): result register, time register, mask. -/
structure FW where
  g : Nat
  sd : Nat
  st : Nat
  mask : Nat
  deriving DecidableEq, Repr

/-- A piece of engine work that an event moves on. -/
inductive EngineAct where
  /-- the engine command number `id` of context `hw` -/
  | command (hw id : Nat)
  /-- perform parts `first` to `first + n - 1` (elements of a gather, updates of an SACC) of command `id` of context `hw` -/
  | elements (hw id first n : Nat)
  /-- read the old value of the SFOP number `id` of context `hw` ahead of its update -/
  | early (hw id : Nat)
  /-- make `n` pair tests of the NLREQ number `id` of context `hw` -/
  | pairTests (hw id n : Nat)
  /-- read `words` 16-byte words of in-flight copy number `copy` of a sequencer slot, from the one that holds its byte `byte` on -/
  | copyRead (cl slot copy byte words : Nat)
  /-- write `words` 16-byte words of that copy -/
  | copyWrite (cl slot copy byte words : Nat)
  /-- move `lines` lines of a stream-context eviction or pin load -/
  | sctLines (cl entry lines : Nat)
  /-- move `lines` lines of a context's dispatch preload -/
  | preload (hw lines : Nat)
  /-- write `lines` lines of the bias images that context `hw` has to write -/
  | image (hw lines : Nat)
  /-- every HBM controller holds the key slot content that the KEYLD of context `hw` waits for -/
  | keyHeld (hw : Nat)
  /-- the debugger sets or clears the debug bit of the header at offset `at_` of a core's IMEM -/
  | breakpoint (core at_ : Nat) (on : Bool)
  /-- read up to `n` packets of queue `q` ahead -/
  | packetRead (q n : Nat)
  /-- take the packets of queue `q` that are skipped or err -/
  | packetSkip (q : Nat)
  /-- read, check and prepare the packet that an AT of queue `q` holds -/
  | prepare (q : Nat)
  /-- the copies in flight of the team of context `hw`, stopped for a rollback, have completed -/
  | rollback (hw : Nat)
  /-- the zero-length read of a DRAIN.sys or TDONE of context `hw` on a PCIe link completes -/
  | linkRead (hw link : Nat)
  /-- read `lines` lines of the slot that the MRESUME of context `hw` waits for -/
  | slotRead (hw lines : Nat)
  deriving DecidableEq, Repr

/-- Who issued the read that met an uncorrectable error (R359, R360): the bundle that a context issues next; work of a context that is
under way (an engine command, a product, a transfer); the host, a command processor, an eviction. -/
inductive ErrReader where
  | context (hw : Nat)
  | command (hw : Nat)
  | host
  | processor (q : Nat)
  | sct (cl entry : Nat)
  deriving DecidableEq, Repr

/-- A flit as it arrives: its valid bytes, 1 to 128, and its data (R81, R84). -/
structure FlitData where
  len : Nat
  bits : Nat
  deriving DecidableEq, Repr

/-- The unit behind an uncorrectable error (R359): a scratchpad word, an array row, a lane group or an HBM word whose unit passes its
self-test, checkpoint storage, or a bank, an array row or a lane group that fails it. -/
inductive ErrUnit where
  | transient
  | transientRow (core row : Nat)
  | transientLane (core : Nat)
  | hbm
  | checkpoint
  | bank (core bank : Nat)
  | arrayRow (core row : Nat)
  | laneGroup (core : Nat)
  deriving DecidableEq, Repr

/-- The Talyathen 9400's operations and events, one constructor for each row of the table. -/
inductive Instr where
  -- B slot (R196)
  | brEqz (o : NBr)
  | brNez (o : NBr)
  | brLtz (o : NBr)
  | brGez (o : NBr)
  | brGtz (o : NBr)
  | brLez (o : NBr)
  | brc (o : NBc)
  | brpAll (o : NBr)
  | brpNone (o : NBr)
  | jmp (o : NBg)
  | call (o : NBg)
  | loopb (o : NBr)
  | jmpi (o : NJ)
  | calli (o : NJ)
  | ret (o : NJ)
  | svc (o : NCode)
  | brk (o : NCode)
  | eret
  -- X and Y slots (R114 to R120)
  | add (o : NR)
  | sub (o : NR)
  | and (o : NR)
  | or (o : NR)
  | xor (o : NR)
  | addsh (o : NR) (sh : Nat)
  | mov (o : N2)
  | addi (o : NI)
  | li (o : NL)
  | andi (o : NI)
  | ori (o : NI)
  | xori (o : NI)
  | slti (o : NI)
  | shl (o : NR)
  | shr (o : NR)
  | sra (o : NR)
  | shli (o : NI)
  | shri (o : NI)
  | srai (o : NI)
  | clz (o : N2)
  | popc (o : N2)
  | mul (o : NR)
  | mulh (o : NR)
  | mulhs (o : NR)
  | div (o : NR)
  | divs (o : NR)
  | rem (o : NR)
  | rems (o : NR)
  | min (o : NR)
  | max (o : NR)
  | mins (o : NR)
  | maxs (o : NR)
  | slt (o : NR)
  | slts (o : NR)
  | seq (o : NR)
  | sel (o : NR) (c : Nat) (neg : Bool)
  | cmpc (o : NR) (cc : CCmp)
  | bfx (o : NBit)
  | bfi (o : NBit)
  | mfc (o : NCtl)
  | mtc (o : NCtl)
  | ldb (o : NI)
  | ldbs (o : NI)
  | ldh (o : NI)
  | ldhs (o : NI)
  | ldw (o : NI)
  | ldws (o : NI)
  | ldd (o : NI)
  | stb (o : NI)
  | sth (o : NI)
  | stw (o : NI)
  | std (o : NI)
  | idleXy
  -- V and W slots (R132 to R145)
  | vadd (o : V3) (sat : Bool)
  | vsub (o : V3) (sat : Bool)
  | vmul (o : V3)
  | vmulh (o : V3)
  | vmac (o : V3)
  | vmacs (o : V3)
  | vabs (o : V2) (sat : Bool)
  | vneg (o : V2) (sat : Bool)
  | vmin (o : V3)
  | vmax (o : V3)
  | vsat (o : V2) (n : Nat)
  | vnrw (o : V2) (sh : Nat) (sat rnd : Bool)
  | vwid (o : V2)
  | vand (o : V3)
  | vor (o : V3)
  | vxor (o : V3)
  | vnot (o : V2)
  | vshl (o : V2) (b : Amt)
  | vshr (o : V2) (b : Amt)
  | vsra (o : V2) (b : Amt)
  | vcmp (o : V3) (cc : ICmp)
  | vsel (o : V3) (c : Nat)
  | vfadd (o : V3)
  | vfsub (o : V3)
  | vfmul (o : V3)
  | vfma (o : V3) (c : Nat)
  | vfms (o : V3) (c : Nat)
  | vfmin (o : V3)
  | vfmax (o : V3)
  | vfcmp (o : V3) (cc : FCmp)
  | vfcls (o : V2)
  | vcvt (o : V2) (u : ETy) (hi : Bool)
  | vrcp (o : V2)
  | vrsq (o : V2)
  | vexp (o : V2)
  | vlog (o : V2)
  | vtanh (o : V2)
  | vqnt (o : V2) (c q : Nat)
  | vdqnt (o : V2) (c q : Nat)
  | vred (o : V2) (op : RedOp)
  | vperm (o : V3)
  | vsld (o : V3) (sh : Nat)
  | vbcstScalar (o : V2)
  | vbcstElement (o : V2) (idx : Nat)
  | vins (o : V2) (idx : Nat)
  | vext (o : V2) (idx : Nat)
  | vmov (o : V2)
  | viota (o : V2)
  | pand (o : VP)
  | por (o : VP)
  | pxor (o : VP)
  | pnot (o : VP2)
  | pset (o : V2)
  | pcnt (o : V2)
  | idleVw
  -- L slot (R94)
  | vld (o : LD)
  | vst (o : LD)
  | vlds (o : LS)
  | vsts (o : LS)
  | vldb (o : LD)
  | vldx (o : LX)
  | vstx (o : LX)
  | pld (o : LD)
  | pst (o : LD)
  | fill (o : LF)
  | idleL
  -- M slot (R180, R326)
  | mmul (o : MM)
  | macc (o : MM)
  | mmuls (o : MM) (sel : Nat)
  | maccs (o : MM) (sel : Nat)
  | mstrm (o : MS)
  | mzero (o : MZ)
  | mrdv (o : MV)
  | mwrv (o : MV)
  | mrds (o : MX)
  | mwrs (o : MX)
  | mseam (o : MI)
  | mresume (o : MI)
  | idleM
  -- C slot (R77)
  | cplvl (o : CL)
  | cpbase (o : CB)
  | cpgo (o : CS)
  | cpstrm (o : CS)
  | cpstrmOff (o : CS)
  | cpcan (o : CS)
  | cpstat (o : CT)
  | lksend (o : CK)
  | lkrecv (o : CK)
  | lkred (o : CR)
  | lktime (o : CLt)
  | tlbinv (o : CI)
  | idleC
  -- Q slot (R151, R259)
  | gpush (o : QG)
  | gpop (o : G1)
  | sacc (o : QA)
  | sfop (o : QF)
  | nlbin (o : Q1)
  | nlpos (o : Q1)
  | nlreq (o : Q2)
  | nlpop (o : G2)
  | nlstat (o : Q1)
  | spawn (o : Q2)
  | take (o : Q2)
  | watch (o : Q2)
  | unwatch (o : Q1)
  | idleQ
  -- F slot (R172, R216, R259, R284, R307)
  | setfmtImm (o : G1)
  | setfmtReg (o : G1)
  | waitt (o : G1)
  | slack (o : G1)
  | drain (o : G1)
  | bar (o : G2)
  | yield (g : Nat)
  | yieldNw (g : Nat)
  | tdone (g : Nat)
  | ovl (o : G1)
  | zset (o : G2)
  | time (o : G1)
  | perf (o : G2)
  | getflg (o : G1)
  | clrflg (o : G1)
  | spflag (o : G1) (keep : Bool)
  | wfe (o : FW)
  | halt (g : Nat)
  | keyld (o : G2)
  | keyldClr (o : G1)
  -- events of a core and its contexts
  | bundleIssue (hw : Nat)
  | ifetchStallEnd (hw : Nat)
  | resultLand (hw : Nat)
  | productCommit (core : Nat)
  | streamSliceArrive (core : Nat)
  | contextUnblock (hw : Nat)
  | primarySwitch (core : Nat)
  | wfeWake (hw : Nat)
  | preemption (hw : Nat)
  | hemovr (hw : Nat)
  | budgetOverrun (hw : Nat)
  | trapEntry (hw : Nat)
  | minorFault (hw va : Nat) (write : Bool) (eng : Nat)
  | liningRun (core : Nat)
  | liningEnd (core : Nat)
  | pageWalk (cl eng asid va : Nat) (write : Bool)
  | engineMajorFault (e : EngineAct)
  | streamFaultDeliver (core : Nat)
  | elementaryCopyEmit (cl slot : Nat)
  | engineCommandComplete (e : EngineAct)
  | engineTakesCommand (hw id : Nat)
  | dataQueueEntryArrive (hw : Nat)
  | stitchPushDeferred (cl entry : Nat)
  | watchWindowStart (cl : Nat)
  | dispatch (hw : Nat)
  | barrierRelease (cl team : Nat)
  | segmentCopyDone (core seg : Nat)
  | linkWindowStart (link : Nat) (send : Bool)
  | linkFlitReceive (link tick : Nat) (flit : FlitData) (bad : Bool)
  | lktimeReached (hw id : Nat)
  | sctExpiry (cl entry : Nat)
  | evictionDone (cl entry : Nat)
  | evictionFailed (cl entry : Nat)
  -- command packets (R275); `ahead` packets are then read ahead (R278)
  | nop (q ahead : Nat)
  | launch (q ahead : Nat)
  | launchComplete (n : Nat)
  | task (q ahead : Nat)
  | signal (q ahead : Nat)
  | waitsig (q ahead : Nat)
  | waitsigHolds (q : Nat)
  | waitsigTimeout (q : Nat)
  | pred (q ahead : Nat)
  | loop (q ahead : Nat)
  | indir (q ahead : Nat)
  | ffence (q ahead : Nat)
  | atPkt (q ahead : Nat)
  | atTimeReached (q : Nat)
  | streamPin (q ahead : Nat)
  | streamTouch (q ahead : Nat)
  | streamEvict (q ahead : Nat)
  | event (q ahead : Nat)
  -- host acts
  | qtailWrite (q v : Nat)
  | queueEnable (q : Nat)
  | queueDisable (q : Nat)
  | qstatClear (q : Nat)
  | evheadWrite (v : Nat)
  | trheadWrite (cl v : Nat)
  | registerWrite (off v : Nat)
  | ingressWrite (off len data : Nat)
  | hostScratchpadRead (off len : Nat)
  | liningStoreWrite (core off len data : Nat)
  | attestRequest (nonce : Nat)
  | dbgRun (hw : Nat)
  | dbgStep (hw : Nat)
  | dbgStopreq (hw : Nat)
  | debugBreak (hw : Nat)
  | stepLimit (hw : Nat)
  | accountingClear (core : Nat)
  -- events of the module
  | moduleReset
  | fullService
  | uncorrectableError (who : ErrReader) (addr : Nat) (unit : ErrUnit)
  | ppsEdge
  | ptmExchange (ns : Nat)
  | powerThrottleStep (avg : Nat)
  | hostAtomicToBar (bar off : Nat)
  | mrdsMwrsRow (core : Nat)
  | correctableError (hbm : Bool) (n : Nat)
  deriving DecidableEq, Repr

end Sys2Proof
end

