-- ==== Sys2Proof/WellFormed.lean ====
section
/-!
DEFINITION. Which terms of `Instr` stand for an encoding or an event of the machine: every field within its
field's range, and every decode check of R24, R33 to R35, R94, R128, R151, R180, R196 and R216 met.
-/

namespace Sys2Proof

/-- Element width in bytes (R126); MX types have no element of their own in a register view, R128. -/
def ETy.width : ETy → Nat
  | .b | .ub => 1
  | .h | .uh | .bf | .hf => 2
  | .w | .uw | .f => 4
  | .d => 8
  | .mx8 | .mx6 | .mx4 => 1

/-- Elements of a vector register (R126). -/
def ETy.count (t : ETy) : Nat := 512 / t.width

/-- The integer types (R39). -/
def ETy.isInt : ETy → Bool
  | .b | .h | .w | .d | .ub | .uh | .uw => true
  | _ => false

/-- The signed integer types. -/
def ETy.isSigned : ETy → Bool
  | .b | .h | .w | .d => true
  | _ => false

/-- The floating-point types (R41). -/
def ETy.isFloat : ETy → Bool
  | .bf | .hf | .f => true
  | _ => false

/-- The block types (R45). -/
def ETy.isMx : ETy → Bool
  | .mx8 | .mx6 | .mx4 => true
  | _ => false

/-- The source types of VNRW (R134). -/
def ETy.narrows : ETy → Bool
  | .h | .w | .d | .uh | .uw => true
  | _ => false

/-- The source types of VWID (R135). -/
def ETy.widens : ETy → Bool
  | .b | .h | .w | .ub | .uh | .uw => true
  | _ => false

/-- The types of MRDS and MWRS (R188). -/
def ETy.moves : ETy → Bool
  | .d | .ub | .uh | .uw => false
  | _ => true

/-- Set bits among the low 8 of a mask. -/
def ones8 (m : Nat) : Nat :=
  fld m 0 1 + fld m 1 1 + fld m 2 1 + fld m 3 1 + fld m 4 1 + fld m 5 1 + fld m 6 1 + fld m 7 1

/-- A consume mask is 8 bits with at most three set (R21). -/
def consOk (m : Nat) : Bool := decide (m < 256) && decide (ones8 m ≤ 3)

/-- A signed field of `n` bits. -/
def fitsInt (n : Nat) (v : Int) : Bool := decide (-(2 ^ (n - 1) : Int) ≤ v) && decide (v < (2 ^ (n - 1) : Int))

/-- The assigned control registers (R121). -/
def ctlOk (n : Nat) : Bool := decide (n ≤ 0x00D)

def Src.wf : Src → Bool
  | .reg n => decide (n < 64)
  | .lit v => decide (v < 2 ^ 32)

def Imm.wf : Imm → Bool
  | .imm v => fitsInt 10 v
  | .lit v => decide (v < 2 ^ 32)

/-- An amount of SHLI, SHRI, SRAI (R114). -/
def Imm.amount : Imm → Bool
  | .imm v => decide (0 ≤ v) && decide (v < 64)
  | .lit v => decide (v < 64)

def NBr.wf (o : NBr) : Bool := decide (o.r < 16) && fitsInt 21 o.disp
def NBc.wf (o : NBc) : Bool := decide (o.c < 8) && fitsInt 21 o.disp
def NBg.wf (o : NBg) : Bool := decide (o.g < 16) && fitsInt 21 o.disp
def NJ.wf (o : NJ) : Bool := decide (o.g < 16) && decide (o.a < 64)
def NCode.wf (o : NCode) : Bool := decide (o.g < 16) && decide (o.code < 2 ^ 22)
def NR.wf (o : NR) : Bool := decide (o.g < 16) && decide (o.d < 64) && decide (o.a < 64) && o.b.wf
def N2.wf (o : N2) : Bool := decide (o.g < 16) && decide (o.d < 64) && decide (o.a < 64)
def NI.wf (o : NI) : Bool := decide (o.g < 16) && decide (o.d < 64) && decide (o.a < 64) && o.b.wf
def NL.wf (o : NL) : Bool := decide (o.g < 16) && decide (o.d < 64) && o.b.wf
def NBit.wf (o : NBit) : Bool :=
  decide (o.g < 16) && decide (o.d < 64) && decide (o.a < 64) && decide (o.pos < 64) && decide (1 ≤ o.len) &&
    decide (o.len ≤ 16)
def NCtl.wf (o : NCtl) : Bool := decide (o.g < 16) && decide (o.r < 64) && ctlOk o.num

/-- A W-V or W-L guard. -/
def wg (g : Nat) : Bool := decide (g < 32)
/-- A vector register number (R128). -/
def vr (n : Nat) : Bool := decide (n < 768)
/-- A predicate register number. -/
def pr (n : Nat) : Bool := decide (n < 16)
/-- A scalar register number. -/
def sr (n : Nat) : Bool := decide (n < 64)

/-- All three register fields are vector registers. -/
def V3.wf (o : V3) (p : ETy → Bool) : Bool :=
  wg o.g && p o.t && vr o.d && vr o.a && vr o.b && decide (o.step < 4)
def V2.wf (o : V2) (p : ETy → Bool) (dOk aOk : Nat → Bool) : Bool :=
  wg o.g && p o.t && dOk o.d && aOk o.a && decide (o.step < 4)
def VP.wf (o : VP) : Bool := wg o.g && pr o.d && pr o.a && pr o.b && decide (o.step < 4)
def VP2.wf (o : VP2) : Bool := wg o.g && pr o.d && pr o.a && decide (o.step < 4)

def LD.wf (o : LD) (vOk : Nat → Bool) : Bool :=
  wg o.g && vOk o.v && sr o.base && fitsInt 22 o.off && fitsInt 13 o.step
def LS.wf (o : LS) : Bool := wg o.g && vr o.v && sr o.base && fitsInt 22 o.stride && fitsInt 13 o.step
def LX.wf (o : LX) : Bool := wg o.g && vr o.v && sr o.base && fitsInt 22 o.off && vr o.vi
def LF.wf (o : LF) : Bool :=
  wg o.g && sr o.sc && decide (o.len < 16) && sr o.base && fitsInt 22 o.off && fitsInt 13 o.step

/-- Tile, tokens and step of an M syllable. -/
def mHead (tile prod cons step : Nat) : Bool :=
  decide (tile < 16) && decide (prod < 8) && consOk cons && decide (step < 4)
def MM.wf (o : MM) : Bool :=
  mHead o.tile o.prod o.cons o.step && sr o.a && sr o.b && sr o.k && decide (o.zone < 8) &&
    decide (o.apitch < 512) && decide (o.bpitch < 512)
def MS.wf (o : MS) : Bool :=
  mHead o.tile o.prod o.cons o.step && sr o.a && sr o.k && decide (o.zone < 8) && decide (o.apitch < 512)
def MZ.wf (o : MZ) : Bool := mHead o.tile o.prod o.cons o.step && decide (o.zone < 8)
def MV.wf (o : MV) : Bool := mHead o.tile o.prod o.cons o.step && sr o.row && vr o.v
/-- The shift of MRDS (R188): 0 to 31 for b, h and w, else 0. -/
def MX.wf (o : MX) (shifts : Bool) : Bool :=
  mHead o.tile o.prod o.cons o.step && sr o.addr && decide (o.zone < 8) && o.u.moves && decide (o.pitch < 512) &&
    (decide (o.shift = 0) || (shifts && decide (o.shift < 32) && (o.u == .b || o.u == .h || o.u == .w)))
def MI.wf (o : MI) : Bool := sr o.a && decide (o.prod < 8) && consOk o.cons

/-- Handle or link, and tokens of a C syllable. -/
def cHead (q prod cons : Nat) : Bool := decide (q < 16) && decide (prod < 8) && consOk cons
def CL.wf (o : CL) : Bool := cHead o.sq o.prod o.cons && sr o.cnt && sr o.ss && sr o.ds && decide (o.level < 6)
def CB.wf (o : CB) : Bool := cHead o.sq o.prod o.cons && sr o.src && sr o.dst && sr o.len
def CS.wf (o : CS) : Bool := cHead o.sq o.prod o.cons
def CT.wf (o : CT) : Bool := cHead o.sq o.prod o.cons && sr o.addr
def CK.wf (o : CK) : Bool := cHead o.link o.prod o.cons && sr o.addr && sr o.len && sr o.tick
def CR.wf (o : CR) : Bool :=
  cHead o.link o.prod o.cons && sr o.addr && sr o.cnt && sr o.tick && decide (o.out < 16) &&
    (!o.deliver || decide (o.out = 0))
def CLt.wf (o : CLt) : Bool := cHead 0 o.prod o.cons && sr o.tick
def CI.wf (o : CI) : Bool :=
  cHead 0 o.prod o.cons && sr o.asid && sr o.start && sr o.len &&
    (match o.mode with
     | .range => true
     | .asid => decide (o.start = 0) && decide (o.len = 0)
     | .all => decide (o.asid = 0) && decide (o.start = 0) && decide (o.len = 0))

/-- An N-F guard. -/
def ng (g : Nat) : Bool := decide (g < 16)
/-- A token number. -/
def tk (t : Nat) : Bool := decide (t < 8)
def QG.wf (o : QG) : Bool := ng o.g && vr o.vi && sr o.sb && decide (o.z < 4) && tk o.prod
def QA.wf (o : QA) : Bool := ng o.g && decide (o.vx < 767) && sr o.sb && tk o.prod
def QF.wf (o : QF) : Bool :=
  ng o.g && sr o.sa && sr o.sv && tk o.prod && !(o.op == .cas && decide (o.sv = 63))
def Q1.wf (o : Q1) (ok : Nat → Bool) : Bool := ng o.g && ok o.r && tk o.prod
def Q2.wf (o : Q2) (okR okT : Nat → Bool) : Bool := ng o.g && okR o.r && okT o.t && tk o.prod
def G1.wf (o : G1) (n : Nat) : Bool := ng o.g && decide (o.n < n)
def G2.wf (o : G2) (n m : Nat) : Bool := ng o.g && decide (o.n < n) && decide (o.m < m)
def FW.wf (o : FW) : Bool := ng o.g && sr o.sd && sr o.st && decide (1 ≤ o.mask) && decide (o.mask < 8)

/-- A value of FMT with no reserved code (R52). -/
def fmtCodes (v : Nat) : Bool := decide (fld v 0 3 ≤ 4) && decide (fld v 5 3 ≤ 4) && decide (fld v 8 3 ≤ 4)
/-- No reserved bit of FMT is set. -/
def fmtBits (v : Nat) : Bool := decide (fld v 3 2 = 0) && decide (v < 2 ^ 11)

/-- Hardware contexts (R2): number 4 * core + ctx. -/
def hwOk (n : Nat) : Bool := decide (n < 1536)
/-- A context number for engine work: also that of an ended context whose place a later launch has taken (log 105). -/
def ctxOk (n : Nat) : Bool := decide (n % 2048 < 1536)
def coreOk (n : Nat) : Bool := decide (n < 384)
def clOk (n : Nat) : Bool := decide (n < 8)
/-- Command queues (R270). -/
def qOk (n : Nat) : Bool := decide (n < 4096)
/-- A 64-bit value on a bus or in a register. -/
def w64 (n : Nat) : Bool := decide (n < 2 ^ 64)

def EngineAct.wf : EngineAct → Bool
  | .command hw _ => ctxOk hw
  | .elements hw _ _ _ => ctxOk hw
  | .early hw _ => ctxOk hw
  | .pairTests hw _ _ => ctxOk hw
  | .copyRead cl slot _ _ _ => clOk cl && decide (slot < 96)
  | .copyWrite cl slot _ _ _ => clOk cl && decide (slot < 96)
  | .sctLines cl e _ => clOk cl && decide (e < 4096)
  | .preload hw _ => hwOk hw
  | .image hw _ => ctxOk hw
  | .slotRead hw _ => hwOk hw
  | .keyHeld hw => hwOk hw
  | .rollback hw => hwOk hw
  | .breakpoint c a _ => coreOk c && decide (a < 0x80000) && decide (a % 4 = 0)
  | .packetRead q _ | .packetSkip q | .prepare q => qOk q
  | .linkRead hw link => hwOk hw && decide (link < 2)

def ErrReader.wf : ErrReader → Bool
  | .context hw | .command hw => hwOk hw
  | .host => true
  | .processor q => qOk q
  | .sct cl e => clOk cl && decide (e < 4096)

def ErrUnit.wf : ErrUnit → Bool
  | .transient | .hbm | .checkpoint => true
  | .bank c b => coreOk c && decide (b < 32)
  | .arrayRow c r | .transientRow c r => coreOk c && decide (r < 64)
  | .laneGroup c | .transientLane c => coreOk c

/-- Types that the moves and the logical operations accept (R136, R143). -/
def plainTy (t : ETy) : Bool := !t.isMx

/-- Well-formedness of an instruction (a syllable's encoding exists) or an event (its agents exist). -/
def Instr.wf : Instr → Bool
  | .brEqz o | .brNez o | .brLtz o | .brGez o | .brGtz o | .brLez o | .brpAll o | .brpNone o => o.wf
  | .brc o => o.wf
  | .jmp o => o.wf && decide (o.g = 0)
  | .call o => o.wf
  | .loopb o => o.wf && decide (1 ≤ o.r)
  | .jmpi o | .calli o => o.wf
  | .ret o => o.wf && decide (o.a = 0)
  | .svc o | .brk o => o.wf
  | .eret => true
  | .add o | .sub o | .and o | .or o | .xor o | .shl o | .shr o | .sra o | .mul o | .mulh o | .mulhs o | .div o
  | .divs o | .rem o | .rems o | .min o | .max o | .mins o | .maxs o | .slt o | .slts o | .seq o => o.wf
  | .addsh o sh => o.wf && decide (sh < 16)
  | .mov o | .clz o | .popc o => o.wf
  | .addi o | .andi o | .ori o | .xori o | .slti o | .ldb o | .ldbs o | .ldh o | .ldhs o | .ldw o | .ldws o | .ldd o
  | .stb o | .sth o | .stw o | .std o => o.wf
  | .li o => o.wf
  | .shli o | .shri o | .srai o => o.wf && o.b.amount
  | .sel o c _ => o.wf && decide (c < 8)
  | .cmpc o _ => o.wf && decide (o.d < 8)
  | .bfx o | .bfi o => o.wf
  | .mfc o | .mtc o => o.wf
  | .idleXy => true
  | .vadd o _ | .vsub o _ => o.wf ETy.isInt
  | .vmul o | .vmulh o | .vmac o | .vmacs o | .vmin o | .vmax o => o.wf ETy.isInt
  | .vabs o _ | .vneg o _ => o.wf ETy.isSigned vr vr
  | .vsat o n => o.wf ETy.isInt vr vr && decide (1 ≤ n) && decide (n ≤ 8 * o.t.width)
  | .vnrw o sh _ _ => o.wf ETy.narrows vr (fun n => decide (n < 767)) && decide (sh < 8 * o.t.width)
  | .vwid o => o.wf ETy.widens (fun n => decide (n < 767)) vr
  | .vand o | .vor o | .vxor o => o.wf plainTy
  | .vnot o => o.wf plainTy vr vr
  | .vshl o b | .vshr o b | .vsra o b => o.wf ETy.isInt vr vr &&
      (match b with
       | .reg n => vr n
       | .imm n => decide (n < 8 * o.t.width))
  | .vcmp o _ => wg o.g && o.t.isInt && pr o.d && vr o.a && vr o.b && decide (o.step < 4)
  | .vsel o c => o.wf plainTy && pr c
  | .vfadd o | .vfsub o | .vfmul o | .vfmin o | .vfmax o => o.wf ETy.isFloat
  | .vfma o c | .vfms o c => o.wf ETy.isFloat && vr c
  | .vfcmp o _ => wg o.g && o.t.isFloat && pr o.d && vr o.a && vr o.b && decide (o.step < 4)
  | .vfcls o | .vrcp o | .vrsq o | .vexp o | .vlog o | .vtanh o => o.wf ETy.isFloat vr vr
  | .vcvt o u hi => o.wf plainTy vr vr && plainTy u && (o.t.isFloat || u.isFloat) &&
      !(hi && decide (o.t.width = u.width))
  | .vqnt o c q => o.wf ETy.isMx vr vr && vr c && decide (q < 4) && !decide (o.d = c)
  | .vdqnt o c q => o.wf ETy.isMx vr vr && vr c && decide (q < 4)
  | .vred o op => o.wf (fun t => t.isInt ||
      (t.isFloat && (op == .add || op == .min || op == .max))) vr vr
  | .vperm o => o.wf plainTy
  | .vsld o sh => o.wf plainTy && decide (sh < o.t.count)
  | .vbcstScalar o => o.wf plainTy vr sr
  | .vbcstElement o i => o.wf plainTy vr vr && decide (i < o.t.count)
  | .vins o i => o.wf plainTy vr sr && decide (i < o.t.count)
  | .vext o i => o.wf plainTy sr vr && decide (i < o.t.count)
  | .vmov o => o.wf plainTy vr vr
  | .viota o => o.wf ETy.isInt vr pr
  | .pand o | .por o | .pxor o => o.wf
  | .pnot o => o.wf
  | .pset o => o.wf ETy.isInt pr sr
  | .pcnt o => o.wf ETy.isInt sr pr
  | .idleVw => true
  | .vld o | .vst o | .vldb o => o.wf vr
  | .vlds o | .vsts o => o.wf
  | .vldx o | .vstx o => o.wf
  | .pld o | .pst o => o.wf pr
  | .fill o => o.wf
  | .idleL => true
  | .mmul o | .macc o => o.wf
  | .mmuls o x | .maccs o x => o.wf && w64 x
  | .mstrm o => o.wf
  | .mzero o => o.wf
  | .mrdv o | .mwrv o => o.wf
  | .mrds o => o.wf true
  | .mwrs o => o.wf false
  | .mseam o | .mresume o => o.wf
  | .idleM => true
  | .cplvl o => o.wf
  | .cpbase o => o.wf
  | .cpgo o | .cpstrm o | .cpstrmOff o | .cpcan o => o.wf
  | .cpstat o => o.wf
  | .lksend o | .lkrecv o => o.wf
  | .lkred o => o.wf
  | .lktime o => o.wf
  | .tlbinv o => o.wf
  | .idleC => true
  | .gpush o => o.wf
  | .gpop o => o.wf 768
  | .sacc o => o.wf
  | .sfop o => o.wf
  | .nlbin o | .nlstat o | .unwatch o => o.wf sr
  | .nlpos o => o.wf vr
  | .nlreq o | .take o => o.wf sr sr
  | .nlpop o => o.wf 768 64
  | .spawn o | .watch o => o.wf vr sr
  | .idleQ => true
  | .setfmtImm o => o.wf (2 ^ 11) && fmtCodes o.n && fmtBits o.n
  | .setfmtReg o => o.wf 64
  | .waitt o => o.wf 256
  | .slack o => o.wf 65536
  | .drain o => o.wf 5
  | .bar o => o.wf 768 256 && decide (o.n + o.m ≤ 768)
  | .yield g | .yieldNw g | .tdone g | .halt g => ng g
  | .ovl o => o.wf 256
  | .zset o => o.wf 8 64
  | .time o | .getflg o => o.wf 64
  | .perf o => o.wf 64 8
  | .clrflg o => o.wf 64
  | .spflag o _ => o.wf 63
  | .wfe o => o.wf
  | .keyld o => o.wf 64 64
  | .keyldClr o => o.wf 64
  | .bundleIssue hw | .ifetchStallEnd hw | .resultLand hw | .contextUnblock hw | .wfeWake hw | .preemption hw
  | .hemovr hw | .budgetOverrun hw | .trapEntry hw | .dispatch hw | .dbgRun hw
  | .dbgStep hw | .dbgStopreq hw | .debugBreak hw | .stepLimit hw => hwOk hw
  | .engineTakesCommand hw _ | .lktimeReached hw _ | .dataQueueEntryArrive hw => ctxOk hw
  | .productCommit c | .streamSliceArrive c | .primarySwitch c | .liningRun c | .liningEnd c
  | .streamFaultDeliver c | .accountingClear c | .mrdsMwrsRow c => coreOk c
  | .minorFault hw va _ eng => ctxOk hw && w64 va && decide (eng < 64)
  | .pageWalk cl eng asid va _ => clOk cl && decide (eng < 64) && decide (asid < 2 ^ 14) && w64 va
  | .engineMajorFault e | .engineCommandComplete e => e.wf
  | .elementaryCopyEmit cl slot => clOk cl && decide (slot < 96)
  | .stitchPushDeferred cl e => clOk cl && decide (e < 512)
  | .watchWindowStart cl => clOk cl
  | .barrierRelease cl team => clOk cl && decide (team < 64)
  | .segmentCopyDone c _ => coreOk c
  | .linkWindowStart l _ => decide (l < 16)
  | .linkFlitReceive l t f _ => decide (l < 16) && w64 t && decide (0 < f.len) && decide (f.len ≤ 128) && decide (f.bits < 2 ^ 1024)
  | .sctExpiry cl e | .evictionDone cl e | .evictionFailed cl e => clOk cl && decide (e < 4096)
  | .nop q _ | .launch q _ | .task q _ | .signal q _ | .waitsig q _ | .pred q _ | .loop q _ | .indir q _ | .ffence q _
  | .atPkt q _ | .streamPin q _ | .streamTouch q _ | .streamEvict q _ | .event q _ => qOk q
  | .launchComplete _ => true
  | .waitsigHolds q | .waitsigTimeout q | .atTimeReached q | .queueEnable q | .queueDisable q | .qstatClear q => qOk q
  | .qtailWrite q v => qOk q && w64 v
  | .evheadWrite v => w64 v
  | .trheadWrite cl v => clOk cl && w64 v
  | .registerWrite off v => w64 off && w64 v
  | .ingressWrite off len data => w64 off && decide (len ≤ 64) && decide (data < 2 ^ (8 * len))
  | .hostScratchpadRead off len => w64 off && decide (len ≤ 4096)
  | .liningStoreWrite c off len data => coreOk c && decide (off + len ≤ 4096) && decide (data < 2 ^ (8 * len))
  | .attestRequest n => decide (n < 2 ^ 512)
  | .moduleReset | .fullService | .ppsEdge => true
  | .uncorrectableError who addr u => who.wf && w64 addr && u.wf
  | .ptmExchange ns => w64 ns
  | .powerThrottleStep _ => true
  | .hostAtomicToBar r off => decide (r < 6) && w64 off
  | .correctableError _ n => decide (n < 12)

/-- The slot whose opcode map holds a syllable (R33): X stands for X and Y, V for V and W; an event has none. -/
def Instr.slot? : Instr → Option Slot
  | .brEqz _ | .brNez _ | .brLtz _ | .brGez _ | .brGtz _ | .brLez _ | .brc _ | .brpAll _ | .brpNone _ | .jmp _ | .call _
  | .loopb _ | .jmpi _ | .calli _ | .ret _ | .svc _ | .brk _ | .eret => some .b
  | .add _ | .sub _ | .and _ | .or _ | .xor _ | .addsh _ _ | .mov _ | .addi _ | .li _ | .andi _ | .ori _ | .xori _
  | .slti _ | .shl _ | .shr _ | .sra _ | .shli _ | .shri _ | .srai _ | .clz _ | .popc _ | .mul _ | .mulh _ | .mulhs _
  | .div _ | .divs _ | .rem _ | .rems _ | .min _ | .max _ | .mins _ | .maxs _ | .slt _ | .slts _ | .seq _ | .sel _ _ _
  | .cmpc _ _ | .bfx _ | .bfi _ | .mfc _ | .mtc _ | .ldb _ | .ldbs _ | .ldh _ | .ldhs _ | .ldw _ | .ldws _ | .ldd _
  | .stb _ | .sth _ | .stw _ | .std _ | .idleXy => some .x
  | .vadd _ _ | .vsub _ _ | .vmul _ | .vmulh _ | .vmac _ | .vmacs _ | .vabs _ _ | .vneg _ _ | .vmin _ | .vmax _
  | .vsat _ _ | .vnrw _ _ _ _ | .vwid _ | .vand _ | .vor _ | .vxor _ | .vnot _ | .vshl _ _ | .vshr _ _ | .vsra _ _
  | .vcmp _ _ | .vsel _ _ | .vfadd _ | .vfsub _ | .vfmul _ | .vfma _ _ | .vfms _ _ | .vfmin _ | .vfmax _ | .vfcmp _ _
  | .vfcls _ | .vcvt _ _ _ | .vrcp _ | .vrsq _ | .vexp _ | .vlog _ | .vtanh _ | .vqnt _ _ _ | .vdqnt _ _ _ | .vred _ _
  | .vperm _ | .vsld _ _ | .vbcstScalar _ | .vbcstElement _ _ | .vins _ _ | .vext _ _ | .vmov _ | .viota _ | .pand _
  | .por _ | .pxor _ | .pnot _ | .pset _ | .pcnt _ | .idleVw => some .v
  | .vld _ | .vst _ | .vlds _ | .vsts _ | .vldb _ | .vldx _ | .vstx _ | .pld _ | .pst _ | .fill _ | .idleL => some .l
  | .mmul _ | .macc _ | .mmuls _ _ | .maccs _ _ | .mstrm _ | .mzero _ | .mrdv _ | .mwrv _ | .mrds _ | .mwrs _ | .mseam _
  | .mresume _ | .idleM => some .m
  | .cplvl _ | .cpbase _ | .cpgo _ | .cpstrm _ | .cpstrmOff _ | .cpcan _ | .cpstat _ | .lksend _ | .lkrecv _ | .lkred _
  | .lktime _ | .tlbinv _ | .idleC => some .c
  | .gpush _ | .gpop _ | .sacc _ | .sfop _ | .nlbin _ | .nlpos _ | .nlreq _ | .nlpop _ | .nlstat _ | .spawn _ | .take _
  | .watch _ | .unwatch _ | .idleQ => some .q
  | .setfmtImm _ | .setfmtReg _ | .waitt _ | .slack _ | .drain _ | .bar _ | .yield _ | .yieldNw _ | .tdone _ | .ovl _
  | .zset _ | .time _ | .perf _ | .getflg _ | .clrflg _ | .spflag _ _ | .wfe _ | .halt _ | .keyld _ | .keyldClr _ => some .f
  | _ => none

end Sys2Proof
end

