-- ==== Sys2Proof/Decode.lean ====
section
/-!
DEFINITION. The opcode maps: decoding a syllable to an instruction (R21 to R38) and encoding it again.
A syllable that is not an instruction is rejected by the cause R38 gives it: ILLOP before ILLBND.
Reduced service (R37) and privilege (R36) depend on the machine and are checked where a bundle issues.
-/

namespace Sys2Proof

/-- The two decode causes of one syllable (R38). -/
inductive DErr where
  | illop
  | illbnd
  deriving DecidableEq, Repr

/-- R38: of the faults of one syllable an ILLOP is reported before an ILLBND. -/
def judge (illop illbnd : Bool) (i : Instr) : Except DErr Instr :=
  if illop then .error .illop else if illbnd then .error .illbnd else .ok i

/-- A two's complement field of `n` bits. -/
def sextN (n u : Nat) : Int := if u < 2 ^ (n - 1) then (u : Int) else (u : Int) - (2 ^ n : Nat)

/-- The field that holds a signed value. -/
def unsext (n : Nat) (v : Int) : Nat := (v % (2 ^ n : Nat)).toNat

/-- Type codes (R34). -/
def tyOf : Nat → Option ETy
  | 0 => some .b
  | 1 => some .h
  | 2 => some .w
  | 3 => some .d
  | 4 => some .ub
  | 5 => some .uh
  | 6 => some .uw
  | 8 => some .bf
  | 9 => some .hf
  | 10 => some .f
  | 12 => some .mx8
  | 13 => some .mx6
  | 14 => some .mx4
  | _ => none

/-- The code of a type (R34). -/
def tyCode : ETy → Nat
  | .b => 0
  | .h => 1
  | .w => 2
  | .d => 3
  | .ub => 4
  | .uh => 5
  | .uw => 6
  | .bf => 8
  | .hf => 9
  | .f => 10
  | .mx8 => 12
  | .mx6 => 13
  | .mx4 => 14

/-- A defined type code that the instruction does not accept (ILLOP). -/
def tyRefused (p : ETy → Bool) (code : Nat) : Bool :=
  match tyOf code with
  | some t => !p t
  | none => false

/-- A reserved type code (ILLBND). -/
def tyReserved (code : Nat) : Bool := (tyOf code).isNone

/-- The type a code stands for; for a reserved code any, since the syllable is rejected. -/
def tyD (code : Nat) : ETy := (tyOf code).getD .b

/-! ## Formats (R21) -/

/-- Format N-R; formats N-I and N-F with the same field places use it too. -/
def packN (op g d a b fn : Nat) : Nat := op * 2 ^ 26 + g * 2 ^ 22 + d * 2 ^ 16 + a * 2 ^ 10 + b * 2 ^ 4 + fn

/-- Format N-I: the immediate's ten bits. -/
def packI (op g d a u : Nat) : Nat := op * 2 ^ 26 + g * 2 ^ 22 + d * 2 ^ 16 + a * 2 ^ 10 + u

/-- Format N-B. -/
def packB (op g : Nat) (drain : Bool) (disp : Int) : Nat :=
  op * 2 ^ 26 + g * 2 ^ 22 + drain.toNat * 2 ^ 21 + unsext 21 disp

/-- Format N-F with one field up to bit 21. -/
def packF (op g x : Nat) : Nat := op * 2 ^ 26 + g * 2 ^ 22 + x

/-- Format W-V. -/
def packV (op g d a b c t st m : Nat) : Nat :=
  op * 2 ^ 56 + g * 2 ^ 51 + d * 2 ^ 41 + a * 2 ^ 31 + b * 2 ^ 21 + c * 2 ^ 11 + t * 2 ^ 7 + st * 2 ^ 5 + m

/-- Format W-L. -/
def packL (op g v base off step : Nat) : Nat :=
  op * 2 ^ 56 + g * 2 ^ 51 + v * 2 ^ 41 + base * 2 ^ 35 + off * 2 ^ 13 + step

/-- Format W-M. -/
def packM (op tile a b k zone prod cons st m : Nat) : Nat :=
  op * 2 ^ 56 + tile * 2 ^ 52 + a * 2 ^ 46 + b * 2 ^ 40 + k * 2 ^ 34 + zone * 2 ^ 31 + prod * 2 ^ 28 + cons * 2 ^ 20 +
    st * 2 ^ 18 + m

/-- Format W-C. -/
def packC (op sq a b c prod cons x : Nat) : Nat :=
  op * 2 ^ 56 + sq * 2 ^ 52 + a * 2 ^ 46 + b * 2 ^ 40 + c * 2 ^ 34 + prod * 2 ^ 31 + cons * 2 ^ 23 + x

/-! ## B slot (R196) -/

/-- An N-B syllable's drain bit and displacement. -/
def bDrain (w : Nat) : Bool := decide (fld w 21 1 = 1)
def bDisp (w : Nat) : Int := sextN 21 (fld w 0 21)
def bNBr (w : Nat) : NBr := ⟨fld w 22 4, bDrain w, bDisp w⟩

/-- Decoding of a B syllable. -/
def decodeB (w : Nat) : Except DErr Instr :=
  let g := fld w 22 4
  match fld w 26 6 with
  | 0x01 => .ok (.brEqz (bNBr w))
  | 0x02 => .ok (.brNez (bNBr w))
  | 0x03 => .ok (.brLtz (bNBr w))
  | 0x04 => .ok (.brGez (bNBr w))
  | 0x05 => .ok (.brGtz (bNBr w))
  | 0x06 => .ok (.brLez (bNBr w))
  | 0x08 => .ok (.brc ⟨fld w 23 3, decide (fld w 22 1 = 1), bDrain w, bDisp w⟩)
  | 0x09 => .ok (.brpAll (bNBr w))
  | 0x0A => .ok (.brpNone (bNBr w))
  | 0x0C => judge false (!decide (g = 0)) (.jmp ⟨0, bDrain w, bDisp w⟩)
  | 0x0D => .ok (.call ⟨g, bDrain w, bDisp w⟩)
  | 0x0E => judge false (decide (g = 0)) (.loopb (bNBr w))
  | 0x10 => judge false (!decide (fld w 16 6 = 0 ∧ fld w 1 9 = 0)) (.jmpi ⟨g, fld w 10 6, decide (fld w 0 1 = 1)⟩)
  | 0x11 => judge false (!decide (fld w 16 6 = 0 ∧ fld w 1 9 = 0)) (.calli ⟨g, fld w 10 6, decide (fld w 0 1 = 1)⟩)
  | 0x12 => judge false (!decide (fld w 1 21 = 0)) (.ret ⟨g, 0, decide (fld w 0 1 = 1)⟩)
  | 0x14 => .ok (.svc ⟨g, fld w 0 22⟩)
  | 0x15 => .ok (.brk ⟨g, fld w 0 22⟩)
  | 0x16 => judge false (!decide (fld w 0 26 = 0)) .eret
  | _ => .error .illop

/-! ## X and Y slots (R113 to R123) -/

/-- Operand b of an N-R syllable, or the literal in its place (R24). -/
def xSrc (w : Nat) : Option Nat → Src
  | none => .reg (fld w 4 6)
  | some v => .lit v

/-- The immediate of an N-I syllable, or the literal in its place (R24). -/
def xImm (w : Nat) : Option Nat → Imm
  | none => .imm (sextN 10 (fld w 0 10))
  | some v => .lit v

/-- A literal flag needs zero operand bits: b of an N-R syllable. -/
def litNR (w : Nat) (x : Option Nat) : Bool := x.isSome && !decide (fld w 4 6 = 0)
/-- The same for imm10. -/
def litNI (w : Nat) (x : Option Nat) : Bool := x.isSome && !decide (fld w 0 10 = 0)

/-- N-R with fn zero. -/
def xR (w : Nat) (x : Option Nat) (k : NR → Instr) : Except DErr Instr :=
  judge false (litNR w x || !decide (fld w 0 4 = 0)) (k ⟨fld w 22 4, fld w 16 6, fld w 10 6, xSrc w x⟩)

/-- N-R without operand b: MOV, CLZ, POPC. -/
def x2 (w : Nat) (x : Option Nat) (k : N2 → Instr) : Except DErr Instr :=
  judge false (x.isSome || !decide (fld w 0 10 = 0)) (k ⟨fld w 22 4, fld w 16 6, fld w 10 6⟩)

/-- N-I. -/
def xI (w : Nat) (x : Option Nat) (k : NI → Instr) : Except DErr Instr :=
  judge false (litNI w x) (k ⟨fld w 22 4, fld w 16 6, fld w 10 6, xImm w x⟩)

/-- An immediate shift (R114): an amount outside 0 to 63 is refused. -/
def xSh (w : Nat) (x : Option Nat) (k : NI → Instr) : Except DErr Instr :=
  judge false (litNI w x || !(xImm w x).amount) (k ⟨fld w 22 4, fld w 16 6, fld w 10 6, xImm w x⟩)

/-- The tests of CMPC by fn. -/
def ccOf : Nat → CCmp
  | 0 => .eq
  | 1 => .ne
  | 2 => .lt
  | 3 => .ge
  | 4 => .ltu
  | 5 => .geu
  | 6 => .tst
  | _ => .ntst

def ccCode : CCmp → Nat
  | .eq => 0
  | .ne => 1
  | .lt => 2
  | .ge => 3
  | .ltu => 4
  | .geu => 5
  | .tst => 6
  | .ntst => 7

/-- Decoding of an X or Y syllable with its literal. -/
def decodeXY (w : Nat) (x : Option Nat) : Except DErr Instr :=
  let nr : NR := ⟨fld w 22 4, fld w 16 6, fld w 10 6, xSrc w x⟩
  let bit : NBit := ⟨fld w 22 4, fld w 16 6, fld w 10 6, fld w 4 6, fld w 0 4 + 1⟩
  match fld w 26 6 with
  | 0x01 => xR w x .add
  | 0x02 => xR w x .sub
  | 0x03 => xR w x .and
  | 0x04 => xR w x .or
  | 0x05 => xR w x .xor
  | 0x06 => judge false (litNR w x) (.addsh nr (fld w 0 4))
  | 0x07 => x2 w x .mov
  | 0x09 => xI w x .addi
  | 0x0A => judge false (litNI w x || !decide (fld w 10 6 = 0)) (.li ⟨fld w 22 4, fld w 16 6, xImm w x⟩)
  | 0x0B => xI w x .andi
  | 0x0C => xI w x .ori
  | 0x0D => xI w x .xori
  | 0x0E => xI w x .slti
  | 0x10 => xR w x .shl
  | 0x11 => xR w x .shr
  | 0x12 => xR w x .sra
  | 0x13 => xSh w x .shli
  | 0x14 => xSh w x .shri
  | 0x15 => xSh w x .srai
  | 0x16 => x2 w x .clz
  | 0x17 => x2 w x .popc
  | 0x18 => xR w x .mul
  | 0x19 => xR w x .mulh
  | 0x1A => xR w x .mulhs
  | 0x1B => xR w x .div
  | 0x1C => xR w x .divs
  | 0x1D => xR w x .rem
  | 0x1E => xR w x .rems
  | 0x20 => xR w x .min
  | 0x21 => xR w x .max
  | 0x22 => xR w x .mins
  | 0x23 => xR w x .maxs
  | 0x24 => xR w x .slt
  | 0x25 => xR w x .slts
  | 0x26 => xR w x .seq
  | 0x27 => judge false (litNR w x) (.sel nr (fld w 1 3) (decide (fld w 0 1 = 1)))
  | 0x28 => judge (decide (8 ≤ fld w 0 4)) (litNR w x || !decide (fld w 19 3 = 0))
      (.cmpc ⟨fld w 22 4, fld w 16 3, fld w 10 6, xSrc w x⟩ (ccOf (fld w 0 4)))
  | 0x29 => judge false x.isSome (.bfx bit)
  | 0x2A => judge false x.isSome (.bfi bit)
  | 0x2C => judge (!ctlOk (fld w 0 10)) (x.isSome || !decide (fld w 10 6 = 0))
      (.mfc ⟨fld w 22 4, fld w 16 6, fld w 0 10⟩)
  | 0x2D => judge (!ctlOk (fld w 0 10)) (x.isSome || !decide (fld w 16 6 = 0))
      (.mtc ⟨fld w 22 4, fld w 10 6, fld w 0 10⟩)
  | 0x30 => xI w x .ldb
  | 0x31 => xI w x .ldbs
  | 0x32 => xI w x .ldh
  | 0x33 => xI w x .ldhs
  | 0x34 => xI w x .ldw
  | 0x35 => xI w x .ldws
  | 0x36 => xI w x .ldd
  | 0x38 => xI w x .stb
  | 0x39 => xI w x .sth
  | 0x3A => xI w x .stw
  | 0x3B => xI w x .std
  | 0x3F => judge false (x.isSome || !decide (fld w 0 26 = 0)) .idleXy
  | _ => .error .illop

/-! ## V and W slots (R128 to R145) -/

/-- The fields of a W-V syllable as V3 and V2 operands. -/
def v3Of (w : Nat) : V3 := ⟨fld w 51 5, tyD (fld w 7 4), fld w 41 10, fld w 31 10, fld w 21 10, fld w 5 2⟩
def v2Of (w : Nat) : V2 := ⟨fld w 51 5, tyD (fld w 7 4), fld w 41 10, fld w 31 10, fld w 5 2⟩

/-- Checks of fields d, a, b, c and mod: each a set of allowed values. -/
def vChk (w : Nat) (p : ETy → Bool) (dOk aOk bOk cOk mOk : Nat → Bool) (k : Instr) : Except DErr Instr :=
  judge (tyRefused p (fld w 7 4))
    (tyReserved (fld w 7 4) || !(dOk (fld w 41 10) && aOk (fld w 31 10) && bOk (fld w 21 10) && cOk (fld w 11 10) &&
      mOk (fld w 0 5))) k

/-- The same with a selector among the mod values. -/
def vSelChk (w : Nat) (named : Bool) (p : ETy → Bool) (dOk aOk bOk cOk mOk : Nat → Bool) (k : Instr) :
    Except DErr Instr :=
  if named then vChk w p dOk aOk bOk cOk mOk k else .error .illop

/-- A field that must be zero. -/
def zf (n : Nat) : Bool := decide (n = 0)
/-- A field that may hold anything. -/
def anyF (_ : Nat) : Bool := true
/-- A mod field with only bit 0 defined. -/
def m1 (n : Nat) : Bool := decide (n < 2)
/-- The first register of a pair (R128). -/
def pairF (n : Nat) : Bool := decide (n < 767)

/-- Three vector registers and mod zero. -/
def vRRR (w : Nat) (p : ETy → Bool) (k : V3 → Instr) : Except DErr Instr :=
  vChk w p vr vr vr zf zf (k (v3Of w))
/-- Two vector registers and mod zero. -/
def vRR (w : Nat) (p : ETy → Bool) (k : V2 → Instr) : Except DErr Instr :=
  vChk w p vr vr zf zf zf (k (v2Of w))
/-- A vector shift (R136). -/
def vShift (w : Nat) (k : V2 → Amt → Instr) : Except DErr Instr :=
  if fld w 0 1 = 1 then
    vChk w ETy.isInt vr vr zf (fun c => decide (c < 8 * (tyD (fld w 7 4)).width)) m1 (k (v2Of w) (.imm (fld w 11 10)))
  else vChk w ETy.isInt vr vr vr zf m1 (k (v2Of w) (.reg (fld w 21 10)))
/-- A predicate instruction without a type (R144): any type code other than 0 is refused with ILLOP, the codes that R34 reserves
among them. -/
def vPred (w : Nat) (bOk : Nat → Bool) (k : Instr) : Except DErr Instr :=
  judge (!zf (fld w 7 4)) (!(pr (fld w 41 10) && pr (fld w 31 10) && bOk (fld w 21 10) && zf (fld w 11 10) && zf (fld w 0 5))) k

def icOf : Nat → ICmp
  | 0 => .eq
  | 1 => .ne
  | 2 => .lt
  | 3 => .le
  | 4 => .gt
  | _ => .ge
def icCode : ICmp → Nat
  | .eq => 0
  | .ne => 1
  | .lt => 2
  | .le => 3
  | .gt => 4
  | .ge => 5
def fcOf : Nat → FCmp
  | 0 => .eq
  | 1 => .ne
  | 2 => .lt
  | 3 => .le
  | 4 => .gt
  | 5 => .ge
  | 6 => .un
  | _ => .ord
def fcCode : FCmp → Nat
  | .eq => 0
  | .ne => 1
  | .lt => 2
  | .le => 3
  | .gt => 4
  | .ge => 5
  | .un => 6
  | .ord => 7
def redOf : Nat → RedOp
  | 0 => .add
  | 1 => .min
  | 2 => .max
  | 3 => .and
  | 4 => .or
  | _ => .xor
def redCode : RedOp → Nat
  | .add => 0
  | .min => 1
  | .max => 2
  | .and => 3
  | .or => 4
  | .xor => 5

/-- The types that VRED accepts for an operation (R145). -/
def redTy (op : RedOp) (t : ETy) : Bool := t.isInt || (t.isFloat && (op == .add || op == .min || op == .max))

/-- VCVT (R139): ILLOP for an MX type or two integer types; ILLBND for a reserved code, or `.hi` at equal widths. -/
def decodeVcvt (w : Nat) : Except DErr Instr :=
  let tc := fld w 7 4
  let uc := fld w 0 4
  let t := tyD tc
  let u := tyD uc
  let hi := decide (fld w 4 1 = 1)
  judge (tyRefused plainTy tc || tyRefused plainTy uc ||
      (!tyReserved tc && !tyReserved uc && !(t.isFloat || u.isFloat)))
    (tyReserved tc || tyReserved uc || (hi && decide (t.width = u.width)) ||
      !(vr (fld w 41 10) && vr (fld w 31 10) && zf (fld w 21 10) && zf (fld w 11 10)))
    (.vcvt (v2Of w) u hi)

/-- Decoding of a V or W syllable. -/
def decodeVW (w : Nat) : Except DErr Instr :=
  let t := tyD (fld w 7 4)
  let c := fld w 11 10
  let m := fld w 0 5
  let b0 := decide (fld w 0 1 = 1)
  match fld w 56 8 with
  | 0x01 => vChk w ETy.isInt vr vr vr zf m1 (.vadd (v3Of w) b0)
  | 0x02 => vChk w ETy.isInt vr vr vr zf m1 (.vsub (v3Of w) b0)
  | 0x03 => vRRR w ETy.isInt .vmul
  | 0x04 => vRRR w ETy.isInt .vmulh
  | 0x05 => vRRR w ETy.isInt .vmac
  | 0x06 => vRRR w ETy.isInt .vmacs
  | 0x07 => vChk w ETy.isSigned vr vr zf zf m1 (.vabs (v2Of w) b0)
  | 0x08 => vChk w ETy.isSigned vr vr zf zf m1 (.vneg (v2Of w) b0)
  | 0x09 => vRRR w ETy.isInt .vmin
  | 0x0A => vRRR w ETy.isInt .vmax
  | 0x0B => vChk w ETy.isInt vr vr zf (fun n => decide (1 ≤ n) && decide (n ≤ 8 * t.width)) zf (.vsat (v2Of w) c)
  | 0x0C => vChk w ETy.narrows vr pairF zf (fun n => decide (n < 8 * t.width)) (fun n => decide (n < 4))
      (.vnrw (v2Of w) c b0 (decide (fld w 1 1 = 1)))
  | 0x0D => vChk w ETy.widens pairF vr zf zf zf (.vwid (v2Of w))
  | 0x10 => vRRR w plainTy .vand
  | 0x11 => vRRR w plainTy .vor
  | 0x12 => vRRR w plainTy .vxor
  | 0x13 => vRR w plainTy .vnot
  | 0x14 => vShift w .vshl
  | 0x15 => vShift w .vshr
  | 0x16 => vShift w .vsra
  | 0x17 => vSelChk w (decide (m < 6)) ETy.isInt pr vr vr zf anyF (.vcmp (v3Of w) (icOf m))
  | 0x18 => vChk w plainTy vr vr vr pr zf (.vsel (v3Of w) c)
  | 0x20 => vRRR w ETy.isFloat .vfadd
  | 0x21 => vRRR w ETy.isFloat .vfsub
  | 0x22 => vRRR w ETy.isFloat .vfmul
  | 0x23 => vChk w ETy.isFloat vr vr vr vr zf (.vfma (v3Of w) c)
  | 0x24 => vChk w ETy.isFloat vr vr vr vr zf (.vfms (v3Of w) c)
  | 0x25 => vRRR w ETy.isFloat .vfmin
  | 0x26 => vRRR w ETy.isFloat .vfmax
  | 0x27 => vSelChk w (decide (m < 8)) ETy.isFloat pr vr vr zf anyF (.vfcmp (v3Of w) (fcOf m))
  | 0x28 => vRR w ETy.isFloat .vfcls
  | 0x29 => decodeVcvt w
  | 0x30 => vRR w ETy.isFloat .vrcp
  | 0x31 => vRR w ETy.isFloat .vrsq
  | 0x32 => vRR w ETy.isFloat .vexp
  | 0x33 => vRR w ETy.isFloat .vlog
  | 0x34 => vRR w ETy.isFloat .vtanh
  | 0x38 => vChk w ETy.isMx vr vr zf (fun n => vr n && !decide (fld w 41 10 = n)) (fun n => decide (n < 4))
      (.vqnt (v2Of w) c m)
  | 0x39 => vChk w ETy.isMx vr vr zf vr (fun n => decide (n < 4)) (.vdqnt (v2Of w) c m)
  | 0x3A => vSelChk w (decide (m < 6)) (redTy (redOf m)) vr vr zf zf anyF (.vred (v2Of w) (redOf m))
  | 0x40 => vRRR w plainTy .vperm
  | 0x41 => vChk w plainTy vr vr vr (fun n => decide (n < t.count)) zf (.vsld (v3Of w) c)
  | 0x42 =>
    if m = 0 then vChk w plainTy vr sr zf zf anyF (.vbcstScalar (v2Of w))
    else vSelChk w (decide (m = 1)) plainTy vr vr zf (fun n => decide (n < t.count)) anyF (.vbcstElement (v2Of w) c)
  | 0x43 => vChk w plainTy vr zf sr (fun n => decide (n < t.count)) zf
      (.vins ⟨fld w 51 5, t, fld w 41 10, fld w 21 10, fld w 5 2⟩ c)
  | 0x44 => vChk w plainTy sr vr zf (fun n => decide (n < t.count)) zf (.vext (v2Of w) c)
  | 0x45 => vRR w plainTy .vmov
  | 0x46 => vChk w ETy.isInt vr pr zf zf zf (.viota (v2Of w))
  | 0x50 => vPred w pr (.pand ⟨fld w 51 5, fld w 41 10, fld w 31 10, fld w 21 10, fld w 5 2⟩)
  | 0x51 => vPred w pr (.por ⟨fld w 51 5, fld w 41 10, fld w 31 10, fld w 21 10, fld w 5 2⟩)
  | 0x52 => vPred w pr (.pxor ⟨fld w 51 5, fld w 41 10, fld w 31 10, fld w 21 10, fld w 5 2⟩)
  | 0x53 => vPred w zf (.pnot ⟨fld w 51 5, fld w 41 10, fld w 31 10, fld w 5 2⟩)
  | 0x54 => vChk w ETy.isInt pr sr zf zf zf (.pset (v2Of w))
  | 0x55 => vChk w ETy.isInt sr pr zf zf zf (.pcnt (v2Of w))
  | 0xFF => judge false (!decide (fld w 0 56 = 0)) .idleVw
  | _ => .error .illop

/-! ## L slot (R94) -/

def lD (w : Nat) (vOk : Nat → Bool) (k : LD → Instr) : Except DErr Instr :=
  judge false (!vOk (fld w 41 10))
    (k ⟨fld w 51 5, fld w 41 10, fld w 35 6, sextN 22 (fld w 13 22), sextN 13 (fld w 0 13)⟩)
def lS (w : Nat) (k : LS → Instr) : Except DErr Instr :=
  judge false (!vr (fld w 41 10))
    (k ⟨fld w 51 5, fld w 41 10, fld w 35 6, sextN 22 (fld w 13 22), sextN 13 (fld w 0 13)⟩)
def lX (w : Nat) (k : LX → Instr) : Except DErr Instr :=
  judge false (!(vr (fld w 41 10) && vr (fld w 3 10) && zf (fld w 0 3)))
    (k ⟨fld w 51 5, fld w 41 10, fld w 35 6, sextN 22 (fld w 13 22), fld w 3 10⟩)

/-- Decoding of an L syllable. -/
def decodeL (w : Nat) : Except DErr Instr :=
  match fld w 56 8 with
  | 0x01 => lD w vr .vld
  | 0x02 => lD w vr .vst
  | 0x03 => lS w .vlds
  | 0x04 => lS w .vsts
  | 0x05 => lD w vr .vldb
  | 0x06 => lX w .vldx
  | 0x07 => lX w .vstx
  | 0x08 => lD w pr .pld
  | 0x09 => lD w pr .pst
  | 0x0A => .ok (.fill ⟨fld w 51 5, fld w 45 6, fld w 41 4, fld w 35 6, sextN 22 (fld w 13 22), sextN 13 (fld w 0 13)⟩)
  | 0xFF => judge false (!decide (fld w 0 56 = 0)) .idleL
  | _ => .error .illop

/-! ## M slot (R180, R326) -/

def mmOf (w : Nat) : MM :=
  ⟨fld w 52 4, fld w 46 6, fld w 40 6, fld w 34 6, fld w 31 3, fld w 28 3, fld w 20 8, fld w 18 2, fld w 9 9, fld w 0 9⟩

/-- A product syllable; a select extension belongs to MMULS and MACCS only (R18). -/
def mP (w : Nat) (k : MM → Instr) : Except DErr Instr := judge false (!consOk (fld w 20 8)) (k (mmOf w))

def mV (w : Nat) (k : MV → Instr) : Except DErr Instr :=
  judge false (!(consOk (fld w 20 8) && zf (fld w 40 6) && zf (fld w 34 6) && zf (fld w 31 3) && zf (fld w 10 8) &&
      vr (fld w 0 10)))
    (k ⟨fld w 52 4, fld w 46 6, fld w 28 3, fld w 20 8, fld w 18 2, fld w 0 10⟩)

/-- MRDS and MWRS (R188, R189). -/
def mX (w : Nat) (shifts : Bool) (k : MX → Instr) : Except DErr Instr :=
  let u := tyD (fld w 14 4)
  judge (tyRefused ETy.moves (fld w 14 4))
    (tyReserved (fld w 14 4) || !(consOk (fld w 20 8) && zf (fld w 40 6) && zf (fld w 34 6) &&
      (zf (fld w 0 5) || (shifts && (u == .b || u == .h || u == .w)))))
    (k ⟨fld w 52 4, fld w 46 6, fld w 31 3, fld w 28 3, fld w 20 8, fld w 18 2, u, fld w 5 9, fld w 0 5⟩)

def mI (w : Nat) (k : MI → Instr) : Except DErr Instr :=
  judge false (!(consOk (fld w 20 8) && zf (fld w 52 4) && zf (fld w 31 15) && zf (fld w 0 20)))
    (k ⟨fld w 46 6, fld w 28 3, fld w 20 8⟩)

/-- Decoding of an M syllable with its select extension (0 where the bundle carries none). -/
def decodeM (w ext : Nat) : Except DErr Instr :=
  match fld w 56 8 with
  | 0x01 => mP w .mmul
  | 0x02 => mP w .macc
  | 0x03 => mP w (fun o => .mmuls o ext)
  | 0x04 => mP w (fun o => .maccs o ext)
  | 0x05 => judge false (!(consOk (fld w 20 8) && zf (fld w 40 6) && zf (fld w 0 8)))
      (.mstrm ⟨fld w 52 4, fld w 46 6, fld w 34 6, fld w 31 3, fld w 28 3, fld w 20 8, fld w 18 2, fld w 9 9,
        decide (fld w 8 1 = 1)⟩)
  | 0x06 => judge false (!(consOk (fld w 20 8) && zf (fld w 34 18) && zf (fld w 0 18)))
      (.mzero ⟨fld w 52 4, fld w 31 3, fld w 28 3, fld w 20 8, fld w 18 2⟩)
  | 0x08 => mV w .mrdv
  | 0x09 => mV w .mwrv
  | 0x0A => mX w true .mrds
  | 0x0B => mX w false .mwrs
  | 0x10 => mI w .mseam
  | 0x11 => mI w .mresume
  | 0xFF => judge false (!decide (fld w 0 56 = 0)) .idleM
  | _ => .error .illop

/-! ## C slot (R77 to R86) -/

def lkOf : Nat → LkFmt
  | 0 => .f
  | 1 => .bf
  | _ => .mx8
def lkCode : LkFmt → Nat
  | .f => 0
  | .bf => 1
  | .mx8 => 2
def tlbOf : Nat → TlbMode
  | 0 => .range
  | 1 => .asid
  | _ => .all
def tlbCode : TlbMode → Nat
  | .range => 0
  | .asid => 1
  | .all => 2

/-- Decoding of a C syllable. -/
def decodeC (w : Nat) : Except DErr Instr :=
  let sq := fld w 52 4
  let a := fld w 46 6
  let b := fld w 40 6
  let c := fld w 34 6
  let p := fld w 31 3
  let k := fld w 23 8
  let noRegs := zf (fld w 34 18)
  match fld w 56 8 with
  | 0x01 => judge (decide (6 ≤ fld w 20 3)) (!(consOk k && zf (fld w 0 20))) (.cplvl ⟨sq, a, b, c, p, k, fld w 20 3⟩)
  | 0x02 => judge false (!(consOk k && zf (fld w 0 21)))
      (.cpbase ⟨sq, a, b, c, p, k, decide (fld w 22 1 = 1), decide (fld w 21 1 = 1)⟩)
  | 0x03 => judge false (!(consOk k && noRegs && zf (fld w 0 23))) (.cpgo ⟨sq, p, k⟩)
  | 0x04 => judge false (!(consOk k && noRegs && zf (fld w 0 22)))
      (if fld w 22 1 = 1 then .cpstrmOff ⟨sq, p, k⟩ else .cpstrm ⟨sq, p, k⟩)
  | 0x05 => judge false (!(consOk k && noRegs && zf (fld w 0 23))) (.cpcan ⟨sq, p, k⟩)
  | 0x06 => judge false (!(consOk k && zf (fld w 34 12) && zf (fld w 0 23))) (.cpstat ⟨sq, a, p, k⟩)
  | 0x08 => judge false (!(consOk k && zf (fld w 0 23))) (.lksend ⟨sq, a, b, c, p, k⟩)
  | 0x09 => judge false (!(consOk k && zf (fld w 0 23))) (.lkrecv ⟨sq, a, b, c, p, k⟩)
  | 0x0A => judge (decide (fld w 16 2 = 3) || decide (fld w 14 2 = 3))
      (!(consOk k && zf (fld w 0 14) && (zf (fld w 18 1) || zf (fld w 19 4))))
      (.lkred ⟨sq, a, b, c, p, k, fld w 19 4, decide (fld w 18 1 = 1), lkOf (fld w 16 2), lkOf (fld w 14 2)⟩)
  | 0x0B => judge false (!(consOk k && zf sq && zf (fld w 34 12) && zf (fld w 0 23))) (.lktime ⟨a, p, k⟩)
  | 0x10 => judge (decide (fld w 21 2 = 3))
      (!(consOk k && zf sq && zf (fld w 0 20) && (zf (fld w 21 2) || zf (fld w 34 12)) &&
        (!decide (fld w 21 2 = 2) || zf a)))
      (.tlbinv ⟨a, b, c, p, k, tlbOf (fld w 21 2), decide (fld w 20 1 = 1)⟩)
  | 0xFF => judge false (!decide (fld w 0 56 = 0)) .idleC
  | _ => .error .illop

/-! ## Q slot (R151, R259) -/

def saOf : Nat → SaTy
  | 0 => .w
  | 1 => .d
  | _ => .f
def saCode : SaTy → Nat
  | .w => 0
  | .d => 1
  | .f => 2
def sfOf : Nat → SfOp
  | 0 => .add
  | 1 => .swap
  | 2 => .cas
  | 3 => .max
  | 4 => .min
  | 5 => .and
  | _ => .or
def sfCode : SfOp → Nat
  | .add => 0
  | .swap => 1
  | .cas => 2
  | .max => 3
  | .min => 4
  | .and => 5
  | .or => 6

/-- Decoding of a Q syllable. -/
def decodeQ (w : Nat) : Except DErr Instr :=
  let g := fld w 22 4
  let v := fld w 12 10
  let s := fld w 16 6
  let p := fld w 0 3
  match fld w 26 6 with
  | 0x01 => judge false (!vr v) (.gpush ⟨g, v, fld w 6 6, fld w 4 2, decide (fld w 3 1 = 1), p⟩)
  | 0x02 => judge false (!(vr v && zf (fld w 0 12))) (.gpop ⟨g, v⟩)
  | 0x03 => judge (decide (fld w 4 2 = 3)) (!pairF v)
      (.sacc ⟨g, v, fld w 6 6, saOf (fld w 4 2), decide (fld w 3 1 = 1), p⟩)
  | 0x04 => judge (decide (2 ≤ fld w 8 2) || decide (7 ≤ fld w 0 4))
      (decide (fld w 0 4 = 2) && decide (fld w 10 6 = 63))
      (.sfop ⟨g, s, fld w 10 6, decide (fld w 8 2 = 1), decide (fld w 7 1 = 1), fld w 4 3, sfOf (fld w 0 4)⟩)
  | 0x08 => judge false (!zf (fld w 3 13)) (.nlbin ⟨g, s, p⟩)
  | 0x09 => judge false (!(vr v && zf (fld w 3 9))) (.nlpos ⟨g, v, p⟩)
  | 0x0A => judge false (!zf (fld w 3 7)) (.nlreq ⟨g, s, fld w 10 6, p⟩)
  | 0x0B => judge false (!(vr v && zf (fld w 0 6))) (.nlpop ⟨g, v, fld w 6 6⟩)
  | 0x0C => judge false (!zf (fld w 3 13)) (.nlstat ⟨g, s, p⟩)
  | 0x10 => judge false (!(vr v && zf (fld w 3 3))) (.spawn ⟨g, v, fld w 6 6, p⟩)
  | 0x11 => judge false (!zf (fld w 3 7)) (.take ⟨g, s, fld w 10 6, p⟩)
  | 0x12 => judge false (!(vr v && zf (fld w 3 3))) (.watch ⟨g, v, fld w 6 6, p⟩)
  | 0x13 => judge false (!zf (fld w 3 13)) (.unwatch ⟨g, s, p⟩)
  | 0x3F => judge false (!decide (fld w 0 26 = 0)) .idleQ
  | _ => .error .illop

/-! ## F slot (R172, R216, R259, R284, R307) -/

/-- Decoding of an F syllable. -/
def decodeF (w : Nat) : Except DErr Instr :=
  let g := fld w 22 4
  let s := fld w 16 6
  match fld w 26 6 with
  | 0x01 =>
    if fld w 21 1 = 1 then judge false (!(zf (fld w 16 5) && zf (fld w 0 10))) (.setfmtReg ⟨g, fld w 10 6⟩)
    else judge (!fmtCodes (fld w 0 11)) (!(zf (fld w 11 10) && fmtBits (fld w 0 11))) (.setfmtImm ⟨g, fld w 0 11⟩)
  | 0x02 => judge false (!zf (fld w 8 14)) (.waitt ⟨g, fld w 0 8⟩)
  | 0x03 => judge false (!zf (fld w 16 6)) (.slack ⟨g, fld w 0 16⟩)
  | 0x04 => judge (decide (5 ≤ fld w 0 3)) (!zf (fld w 3 19)) (.drain ⟨g, fld w 0 3⟩)
  | 0x05 => judge false (!(zf (fld w 0 4) && vr (fld w 12 10) && decide (fld w 12 10 + fld w 4 8 ≤ 768)))
      (.bar ⟨g, fld w 12 10, fld w 4 8⟩)
  | 0x06 => judge false (!zf (fld w 1 21)) (if fld w 0 1 = 1 then .yieldNw g else .yield g)
  | 0x07 => judge false (!zf (fld w 0 22)) (.tdone g)
  | 0x08 => judge false (!zf (fld w 8 14)) (.ovl ⟨g, fld w 0 8⟩)
  | 0x09 => judge false (!zf (fld w 0 13)) (.zset ⟨g, fld w 19 3, fld w 13 6⟩)
  | 0x0A => judge false (!zf (fld w 0 16)) (.time ⟨g, s⟩)
  | 0x0B => judge (decide (8 ≤ fld w 0 8)) (!zf (fld w 8 8)) (.perf ⟨g, s, fld w 0 8⟩)
  | 0x0C => judge false (!zf (fld w 0 16)) (.getflg ⟨g, s⟩)
  | 0x0D => judge false (!zf (fld w 6 16)) (.clrflg ⟨g, fld w 0 6⟩)
  | 0x0E => judge false (!(zf (fld w 1 15) && decide (s < 63))) (.spflag ⟨g, s⟩ (decide (fld w 0 1 = 1)))
  | 0x0F => judge false (!(zf (fld w 3 7) && decide (1 ≤ fld w 0 3))) (.wfe ⟨g, s, fld w 10 6, fld w 0 3⟩)
  | 0x30 => judge false (!zf (fld w 0 22)) (.halt g)
  | 0x31 =>
    if fld w 0 1 = 1 then judge false (!(zf (fld w 1 9) && zf (fld w 10 6))) (.keyldClr ⟨g, s⟩)
    else judge false (!zf (fld w 1 9)) (.keyld ⟨g, s, fld w 10 6⟩)
  | _ => .error .illop

/-- Decoding of a syllable by its slot (R33): `x` is the slot's literal or, for M, the select extension. -/
def decodeSyllable (sl : Slot) (w : Nat) (x : Option Nat) : Except DErr Instr :=
  match sl with
  | .b => decodeB w
  | .x | .y => decodeXY w x
  | .v | .w => decodeVW w
  | .l => decodeL w
  | .m => decodeM w (x.getD 0)
  | .c => decodeC w
  | .q => decodeQ w
  | .f => decodeF w

/-! ## The encoder -/

/-- A syllable with the literal or select extension that follows it (R18). -/
structure Syl where
  w : Nat
  x : Option Nat
  deriving DecidableEq, Repr

def Src.bits : Src → Nat
  | .reg n => n
  | .lit _ => 0
def Src.ext : Src → Option Nat
  | .reg _ => none
  | .lit v => some v
def Imm.bits : Imm → Nat
  | .imm v => unsext 10 v
  | .lit _ => 0
def Imm.ext : Imm → Option Nat
  | .imm _ => none
  | .lit v => some v

def eNBr (op : Nat) (o : NBr) : Syl := ⟨packB op o.r o.drain o.disp, none⟩
def eNJ (op : Nat) (o : NJ) : Syl := ⟨packN op o.g 0 o.a 0 o.drain.toNat, none⟩
def eNR (op : Nat) (o : NR) (fn : Nat) : Syl := ⟨packN op o.g o.d o.a o.b.bits fn, o.b.ext⟩
def eN2 (op : Nat) (o : N2) : Syl := ⟨packN op o.g o.d o.a 0 0, none⟩
def eNI (op : Nat) (o : NI) : Syl := ⟨packI op o.g o.d o.a o.b.bits, o.b.ext⟩
def eV3 (op : Nat) (o : V3) (c m : Nat) : Syl := ⟨packV op o.g o.d o.a o.b c (tyCode o.t) o.step m, none⟩
def eV2 (op : Nat) (o : V2) (c m : Nat) : Syl := ⟨packV op o.g o.d o.a 0 c (tyCode o.t) o.step m, none⟩
def eVP (op : Nat) (o : VP) : Syl := ⟨packV op o.g o.d o.a o.b 0 0 o.step 0, none⟩
def eSh (op : Nat) (o : V2) : Amt → Syl
  | .reg n => ⟨packV op o.g o.d o.a n 0 (tyCode o.t) o.step 0, none⟩
  | .imm n => ⟨packV op o.g o.d o.a 0 n (tyCode o.t) o.step 1, none⟩
def eLD (op : Nat) (o : LD) : Syl := ⟨packL op o.g o.v o.base (unsext 22 o.off) (unsext 13 o.step), none⟩
def eLS (op : Nat) (o : LS) : Syl := ⟨packL op o.g o.v o.base (unsext 22 o.stride) (unsext 13 o.step), none⟩
def eLX (op : Nat) (o : LX) : Syl := ⟨packL op o.g o.v o.base (unsext 22 o.off) (o.vi * 8), none⟩
def eMM (op : Nat) (o : MM) (x : Option Nat) : Syl :=
  ⟨packM op o.tile o.a o.b o.k o.zone o.prod o.cons o.step (o.apitch * 2 ^ 9 + o.bpitch), x⟩
def eMV (op : Nat) (o : MV) : Syl := ⟨packM op o.tile o.row 0 0 0 o.prod o.cons o.step o.v, none⟩
def eMX (op : Nat) (o : MX) : Syl :=
  ⟨packM op o.tile o.addr 0 0 o.zone o.prod o.cons o.step (tyCode o.u * 2 ^ 14 + o.pitch * 2 ^ 5 + o.shift), none⟩
def eMI (op : Nat) (o : MI) : Syl := ⟨packM op 0 o.a 0 0 0 o.prod o.cons 0 0, none⟩
def eCS (op : Nat) (o : CS) (x : Nat) : Syl := ⟨packC op o.sq 0 0 0 o.prod o.cons x, none⟩
def eCK (op : Nat) (o : CK) : Syl := ⟨packC op o.link o.addr o.len o.tick o.prod o.cons 0, none⟩
/-- N-F with one token and one s-register in bits 21-16. -/
def eQs (op : Nat) (o : Q1) : Syl := ⟨packF op o.g (o.r * 2 ^ 16 + o.prod), none⟩

/-- The syllable of an instruction, from the encodings of R21, R33, R94, R117, R151, R180, R196, R216, R259 and R307.
An event has no encoding; its image here is the zero word, which no map assigns. -/
def encode : Instr → Syl
  | .brEqz o => eNBr 0x01 o
  | .brNez o => eNBr 0x02 o
  | .brLtz o => eNBr 0x03 o
  | .brGez o => eNBr 0x04 o
  | .brGtz o => eNBr 0x05 o
  | .brLez o => eNBr 0x06 o
  | .brc o => ⟨packB 0x08 (o.c * 2 + o.neg.toNat) o.drain o.disp, none⟩
  | .brpAll o => eNBr 0x09 o
  | .brpNone o => eNBr 0x0A o
  | .jmp o => ⟨packB 0x0C 0 o.drain o.disp, none⟩
  | .call o => ⟨packB 0x0D o.g o.drain o.disp, none⟩
  | .loopb o => eNBr 0x0E o
  | .jmpi o => eNJ 0x10 o
  | .calli o => eNJ 0x11 o
  | .ret o => ⟨packN 0x12 o.g 0 0 0 o.drain.toNat, none⟩
  | .svc o => ⟨packF 0x14 o.g o.code, none⟩
  | .brk o => ⟨packF 0x15 o.g o.code, none⟩
  | .eret => ⟨packF 0x16 0 0, none⟩
  | .add o => eNR 0x01 o 0
  | .sub o => eNR 0x02 o 0
  | .and o => eNR 0x03 o 0
  | .or o => eNR 0x04 o 0
  | .xor o => eNR 0x05 o 0
  | .addsh o sh => eNR 0x06 o sh
  | .mov o => eN2 0x07 o
  | .addi o => eNI 0x09 o
  | .li o => ⟨packI 0x0A o.g o.d 0 o.b.bits, o.b.ext⟩
  | .andi o => eNI 0x0B o
  | .ori o => eNI 0x0C o
  | .xori o => eNI 0x0D o
  | .slti o => eNI 0x0E o
  | .shl o => eNR 0x10 o 0
  | .shr o => eNR 0x11 o 0
  | .sra o => eNR 0x12 o 0
  | .shli o => eNI 0x13 o
  | .shri o => eNI 0x14 o
  | .srai o => eNI 0x15 o
  | .clz o => eN2 0x16 o
  | .popc o => eN2 0x17 o
  | .mul o => eNR 0x18 o 0
  | .mulh o => eNR 0x19 o 0
  | .mulhs o => eNR 0x1A o 0
  | .div o => eNR 0x1B o 0
  | .divs o => eNR 0x1C o 0
  | .rem o => eNR 0x1D o 0
  | .rems o => eNR 0x1E o 0
  | .min o => eNR 0x20 o 0
  | .max o => eNR 0x21 o 0
  | .mins o => eNR 0x22 o 0
  | .maxs o => eNR 0x23 o 0
  | .slt o => eNR 0x24 o 0
  | .slts o => eNR 0x25 o 0
  | .seq o => eNR 0x26 o 0
  | .sel o c neg => eNR 0x27 o (c * 2 + neg.toNat)
  | .cmpc o cc => eNR 0x28 o (ccCode cc)
  | .bfx o => ⟨packN 0x29 o.g o.d o.a o.pos (o.len - 1), none⟩
  | .bfi o => ⟨packN 0x2A o.g o.d o.a o.pos (o.len - 1), none⟩
  | .mfc o => ⟨packI 0x2C o.g o.r 0 o.num, none⟩
  | .mtc o => ⟨packI 0x2D o.g 0 o.r o.num, none⟩
  | .ldb o => eNI 0x30 o
  | .ldbs o => eNI 0x31 o
  | .ldh o => eNI 0x32 o
  | .ldhs o => eNI 0x33 o
  | .ldw o => eNI 0x34 o
  | .ldws o => eNI 0x35 o
  | .ldd o => eNI 0x36 o
  | .stb o => eNI 0x38 o
  | .sth o => eNI 0x39 o
  | .stw o => eNI 0x3A o
  | .std o => eNI 0x3B o
  | .idleXy => ⟨packF 0x3F 0 0, none⟩
  | .vadd o sat => eV3 0x01 o 0 sat.toNat
  | .vsub o sat => eV3 0x02 o 0 sat.toNat
  | .vmul o => eV3 0x03 o 0 0
  | .vmulh o => eV3 0x04 o 0 0
  | .vmac o => eV3 0x05 o 0 0
  | .vmacs o => eV3 0x06 o 0 0
  | .vabs o sat => eV2 0x07 o 0 sat.toNat
  | .vneg o sat => eV2 0x08 o 0 sat.toNat
  | .vmin o => eV3 0x09 o 0 0
  | .vmax o => eV3 0x0A o 0 0
  | .vsat o n => eV2 0x0B o n 0
  | .vnrw o sh sat rnd => eV2 0x0C o sh (rnd.toNat * 2 + sat.toNat)
  | .vwid o => eV2 0x0D o 0 0
  | .vand o => eV3 0x10 o 0 0
  | .vor o => eV3 0x11 o 0 0
  | .vxor o => eV3 0x12 o 0 0
  | .vnot o => eV2 0x13 o 0 0
  | .vshl o b => eSh 0x14 o b
  | .vshr o b => eSh 0x15 o b
  | .vsra o b => eSh 0x16 o b
  | .vcmp o cc => eV3 0x17 o 0 (icCode cc)
  | .vsel o c => eV3 0x18 o c 0
  | .vfadd o => eV3 0x20 o 0 0
  | .vfsub o => eV3 0x21 o 0 0
  | .vfmul o => eV3 0x22 o 0 0
  | .vfma o c => eV3 0x23 o c 0
  | .vfms o c => eV3 0x24 o c 0
  | .vfmin o => eV3 0x25 o 0 0
  | .vfmax o => eV3 0x26 o 0 0
  | .vfcmp o cc => eV3 0x27 o 0 (fcCode cc)
  | .vfcls o => eV2 0x28 o 0 0
  | .vcvt o u hi => eV2 0x29 o 0 (hi.toNat * 16 + tyCode u)
  | .vrcp o => eV2 0x30 o 0 0
  | .vrsq o => eV2 0x31 o 0 0
  | .vexp o => eV2 0x32 o 0 0
  | .vlog o => eV2 0x33 o 0 0
  | .vtanh o => eV2 0x34 o 0 0
  | .vqnt o c q => eV2 0x38 o c q
  | .vdqnt o c q => eV2 0x39 o c q
  | .vred o op => eV2 0x3A o 0 (redCode op)
  | .vperm o => eV3 0x40 o 0 0
  | .vsld o sh => eV3 0x41 o sh 0
  | .vbcstScalar o => eV2 0x42 o 0 0
  | .vbcstElement o i => eV2 0x42 o i 1
  | .vins o i => ⟨packV 0x43 o.g o.d 0 o.a i (tyCode o.t) o.step 0, none⟩
  | .vext o i => eV2 0x44 o i 0
  | .vmov o => eV2 0x45 o 0 0
  | .viota o => eV2 0x46 o 0 0
  | .pand o => eVP 0x50 o
  | .por o => eVP 0x51 o
  | .pxor o => eVP 0x52 o
  | .pnot o => ⟨packV 0x53 o.g o.d o.a 0 0 0 o.step 0, none⟩
  | .pset o => eV2 0x54 o 0 0
  | .pcnt o => eV2 0x55 o 0 0
  | .idleVw => ⟨packV 0xFF 0 0 0 0 0 0 0 0, none⟩
  | .vld o => eLD 0x01 o
  | .vst o => eLD 0x02 o
  | .vlds o => eLS 0x03 o
  | .vsts o => eLS 0x04 o
  | .vldb o => eLD 0x05 o
  | .vldx o => eLX 0x06 o
  | .vstx o => eLX 0x07 o
  | .pld o => eLD 0x08 o
  | .pst o => eLD 0x09 o
  | .fill o => ⟨packL 0x0A o.g (o.sc * 16 + o.len) o.base (unsext 22 o.off) (unsext 13 o.step), none⟩
  | .idleL => ⟨packL 0xFF 0 0 0 0 0, none⟩
  | .mmul o => eMM 0x01 o none
  | .macc o => eMM 0x02 o none
  | .mmuls o x => eMM 0x03 o (some x)
  | .maccs o x => eMM 0x04 o (some x)
  | .mstrm o => ⟨packM 0x05 o.tile o.a 0 o.k o.zone o.prod o.cons o.step (o.apitch * 2 ^ 9 + o.acc.toNat * 2 ^ 8), none⟩
  | .mzero o => ⟨packM 0x06 o.tile 0 0 0 o.zone o.prod o.cons o.step 0, none⟩
  | .mrdv o => eMV 0x08 o
  | .mwrv o => eMV 0x09 o
  | .mrds o => eMX 0x0A o
  | .mwrs o => eMX 0x0B o
  | .mseam o => eMI 0x10 o
  | .mresume o => eMI 0x11 o
  | .idleM => ⟨packM 0xFF 0 0 0 0 0 0 0 0 0, none⟩
  | .cplvl o => ⟨packC 0x01 o.sq o.cnt o.ss o.ds o.prod o.cons (o.level * 2 ^ 20), none⟩
  | .cpbase o => ⟨packC 0x02 o.sq o.src o.dst o.len o.prod o.cons (o.sspad.toNat * 2 ^ 22 + o.dspad.toNat * 2 ^ 21), none⟩
  | .cpgo o => eCS 0x03 o 0
  | .cpstrm o => eCS 0x04 o 0
  | .cpstrmOff o => eCS 0x04 o (2 ^ 22)
  | .cpcan o => eCS 0x05 o 0
  | .cpstat o => ⟨packC 0x06 o.sq o.addr 0 0 o.prod o.cons 0, none⟩
  | .lksend o => eCK 0x08 o
  | .lkrecv o => eCK 0x09 o
  | .lkred o => ⟨packC 0x0A o.link o.addr o.cnt o.tick o.prod o.cons
      (o.out * 2 ^ 19 + o.deliver.toNat * 2 ^ 18 + lkCode o.infmt * 2 ^ 16 + lkCode o.outfmt * 2 ^ 14), none⟩
  | .lktime o => ⟨packC 0x0B 0 o.tick 0 0 o.prod o.cons 0, none⟩
  | .tlbinv o => ⟨packC 0x10 0 o.asid o.start o.len o.prod o.cons (tlbCode o.mode * 2 ^ 21 + o.wide.toNat * 2 ^ 20), none⟩
  | .idleC => ⟨packC 0xFF 0 0 0 0 0 0 0, none⟩
  | .gpush o => ⟨packF 0x01 o.g (o.vi * 2 ^ 12 + o.sb * 2 ^ 6 + o.z * 2 ^ 4 + o.virt.toNat * 2 ^ 3 + o.prod), none⟩
  | .gpop o => ⟨packF 0x02 o.g (o.n * 2 ^ 12), none⟩
  | .sacc o => ⟨packF 0x03 o.g (o.vx * 2 ^ 12 + o.sb * 2 ^ 6 + saCode o.t * 2 ^ 4 + o.virt.toNat * 2 ^ 3 + o.prod), none⟩
  | .sfop o => ⟨packF 0x04 o.g (o.sa * 2 ^ 16 + o.sv * 2 ^ 10 + o.wide.toNat * 2 ^ 8 + o.virt.toNat * 2 ^ 7 +
      o.prod * 2 ^ 4 + sfCode o.op), none⟩
  | .nlbin o => eQs 0x08 o
  | .nlpos o => ⟨packF 0x09 o.g (o.r * 2 ^ 12 + o.prod), none⟩
  | .nlreq o => ⟨packF 0x0A o.g (o.r * 2 ^ 16 + o.t * 2 ^ 10 + o.prod), none⟩
  | .nlpop o => ⟨packF 0x0B o.g (o.n * 2 ^ 12 + o.m * 2 ^ 6), none⟩
  | .nlstat o => eQs 0x0C o
  | .spawn o => ⟨packF 0x10 o.g (o.r * 2 ^ 12 + o.t * 2 ^ 6 + o.prod), none⟩
  | .take o => ⟨packF 0x11 o.g (o.r * 2 ^ 16 + o.t * 2 ^ 10 + o.prod), none⟩
  | .watch o => ⟨packF 0x12 o.g (o.r * 2 ^ 12 + o.t * 2 ^ 6 + o.prod), none⟩
  | .unwatch o => eQs 0x13 o
  | .idleQ => ⟨packF 0x3F 0 0, none⟩
  | .setfmtImm o => ⟨packF 0x01 o.g o.n, none⟩
  | .setfmtReg o => ⟨packF 0x01 o.g (2 ^ 21 + o.n * 2 ^ 10), none⟩
  | .waitt o => ⟨packF 0x02 o.g o.n, none⟩
  | .slack o => ⟨packF 0x03 o.g o.n, none⟩
  | .drain o => ⟨packF 0x04 o.g o.n, none⟩
  | .bar o => ⟨packF 0x05 o.g (o.n * 2 ^ 12 + o.m * 2 ^ 4), none⟩
  | .yield g => ⟨packF 0x06 g 0, none⟩
  | .yieldNw g => ⟨packF 0x06 g 1, none⟩
  | .tdone g => ⟨packF 0x07 g 0, none⟩
  | .ovl o => ⟨packF 0x08 o.g o.n, none⟩
  | .zset o => ⟨packF 0x09 o.g (o.n * 2 ^ 19 + o.m * 2 ^ 13), none⟩
  | .time o => ⟨packF 0x0A o.g (o.n * 2 ^ 16), none⟩
  | .perf o => ⟨packF 0x0B o.g (o.n * 2 ^ 16 + o.m), none⟩
  | .getflg o => ⟨packF 0x0C o.g (o.n * 2 ^ 16), none⟩
  | .clrflg o => ⟨packF 0x0D o.g o.n, none⟩
  | .spflag o keep => ⟨packF 0x0E o.g (o.n * 2 ^ 16 + keep.toNat), none⟩
  | .wfe o => ⟨packF 0x0F o.g (o.sd * 2 ^ 16 + o.st * 2 ^ 10 + o.mask), none⟩
  | .halt g => ⟨packF 0x30 g 0, none⟩
  | .keyld o => ⟨packF 0x31 o.g (o.n * 2 ^ 16 + o.m * 2 ^ 10), none⟩
  | .keyldClr o => ⟨packF 0x31 o.g (o.n * 2 ^ 16 + 1), none⟩
  | _ => ⟨0, none⟩

/-! ## The table's view of a word -/

/-- The first map that reads the word as an instruction. A table word does not name its slot: the maps are tried in
the order X/Y, B, Q, F for 32-bit syllables and V/W, L, M, C for 64-bit syllables (DESIGN CHOICE, log 14). -/
def firstOk : List (Except DErr Instr) → Option Instr
  | [] => none
  | .ok i :: _ => some i
  | .error _ :: r => firstOk r

/-- The instruction that the decoder reads from a table word of `nbits` bits. -/
def decodeTableWord (nbits w : Nat) : Option Instr :=
  if nbits ≤ 32 then
    let u := w % 2 ^ 32
    firstOk [decodeXY u none, decodeB u, decodeQ u, decodeF u]
  else
    let u := w % 2 ^ 64
    firstOk [decodeVW u, decodeL u, decodeM u (w / 2 ^ 64 % 2 ^ 64), decodeC u]

end Sys2Proof
end

