-- ==== Sys2Proof/Machine/Maps.lean ====
section
/-!
DEFINITION. The containers of the state: sorted maps from numbers, and sparse memory.
-/

namespace Sys2Proof.Machine

/-- The entry at a number. -/
def SMap.get? {α : Type} : SMap α → Nat → Option α
  | [], _ => none
  | (j, a) :: r, i => if i = j then some a else if i < j then none else SMap.get? r i

/-- The entry at a number, or the reader's default. -/
def SMap.getD {α : Type} (m : SMap α) (i : Nat) (d : α) : α := (SMap.get? m i).getD d

/-- Store at a number, keeping the numbers rising. -/
def SMap.put {α : Type} : SMap α → Nat → α → SMap α
  | [], i, a => [(i, a)]
  | (j, b) :: r, i, a =>
    if i < j then (i, a) :: (j, b) :: r else if i = j then (i, a) :: r else (j, b) :: SMap.put r i a

/-- Remove a number. -/
def SMap.del {α : Type} : SMap α → Nat → SMap α
  | [], _ => []
  | (j, b) :: r, i => if i = j then r else if i < j then (j, b) :: r else (j, b) :: SMap.del r i

/-- The numbers of a map rise. -/
def SMap.wf {α : Type} : SMap α → Bool
  | [] => true
  | [_] => true
  | (i, _) :: (j, b) :: r => decide (i < j) && SMap.wf ((j, b) :: r)

/-- Sparse memory: pairs of address and byte, addresses rising, no byte equal to what an unlisted address reads. -/
abbrev Memory := List Host.Cell

/-- What an unlisted address reads as (DESIGN CHOICE, log 2: the spec gives no contents after power-on). -/
def blank : Byte := 0#8

/-- The byte at an address. -/
def Memory.read : Memory → Nat → Byte
  | [], _ => blank
  | (j, b) :: r, i => if i = j then b else if i < j then blank else Memory.read r i

/-- Put a pair in front unless it holds the blank byte. -/
def Memory.cons (i : Nat) (b : Byte) (r : Memory) : Memory := if b = blank then r else (i, b) :: r

/-- Write a byte; the canonical form is kept. -/
def Memory.write : Memory → Nat → Byte → Memory
  | [], i, b => Memory.cons i b []
  | (j, c) :: r, i, b =>
    if i < j then Memory.cons i b ((j, c) :: r)
    else if i = j then Memory.cons i b r else (j, c) :: Memory.write r i b

/-- Write bytes at their addresses, in the order of the list. -/
def Memory.putAll (m : Memory) : List (Nat × Byte) → Memory
  | [] => m
  | x :: r => Memory.putAll (m.write x.1 x.2) r

/-- The canonical form of memory. -/
def Memory.wf : Memory → Bool
  | [] => true
  | [(_, b)] => b != blank
  | (i, b) :: (j, c) :: r => b != blank && decide (i < j) && Memory.wf ((j, c) :: r)

/-- The little-endian number in `n` bytes from an address (R5). -/
def Memory.readN (m : Memory) (a : Nat) : Nat → Nat
  | 0 => 0
  | n + 1 => (m.read a).toNat + 256 * Memory.readN m (a + 1) n

/-- Write `n` bytes of a number, little-endian (R5). -/
def Memory.writeN (m : Memory) (a v : Nat) : Nat → Memory
  | 0 => m
  | n + 1 => Memory.writeN (m.write a (BitVec.ofNat 8 v)) (a + 1) (v / 256) n

/-- Byte `k` of a number. -/
def byteOf (v k : Nat) : Byte := BitVec.ofNat 8 (v / 256 ^ k)

/-- The number whose bytes, low first, are the list. -/
def ofBytes : List Byte → Nat
  | [] => 0
  | b :: r => b.toNat + 256 * ofBytes r

/-- The `n` low bytes of a number. -/
def toBytes (v : Nat) : Nat → List Byte
  | 0 => []
  | n + 1 => BitVec.ofNat 8 v :: toBytes (v / 256) n

/-- The position of the first element that a test accepts. -/
def findIdx {α : Type} (p : α → Bool) : List α → Option Nat
  | [] => none
  | a :: r => if p a then some 0 else (findIdx p r).map (· + 1)

/-- Replace the first element that a test accepts. -/
def updFirst {α : Type} (p : α → Bool) (f : α → α) : List α → List α
  | [] => []
  | a :: r => if p a then f a :: r else a :: updFirst p f r

/-- Drop the first element that a test accepts. -/
def dropFirst {α : Type} (p : α → Bool) : List α → List α
  | [] => []
  | a :: r => if p a then r else a :: dropFirst p r

/-- Put an element into a list sorted by a key, after those of its key. -/
def insertBy {α : Type} (key : α → Nat) (a : α) : List α → List α
  | [] => [a]
  | b :: r => if key a < key b then a :: b :: r else b :: insertBy key a r

/-- Sort by a key; equal keys keep their order. -/
def sortBy {α : Type} (key : α → Nat) (l : List α) : List α := l.foldl (fun acc a => insertBy key a acc) []

/-- Apply a step `n` times, the counter rising from `k`. -/
def iter {α : Type} (f : Nat → α → α) (k : Nat) : Nat → α → α
  | 0, a => a
  | n + 1, a => iter f (k + 1) n (f k a)

end Sys2Proof.Machine
end

