-- ==== Sys2Proof/Machine/State.lean ====
section
/-!
DEFINITION. Everything the spec gives the machine, as plain data, and the state after module reset.
Registers and memories hold the values the spec gives; counters, cycles and queues hold numbers and lists.
-/

namespace Sys2Proof.Machine

/-! ## How a step can stop -/

/-- Why the model's step stops. -/
inductive Fault where
  /-- Raised by `step` for an agenda entry that names an agent the module does not have (a context above 1,535, a
  core above 383, a field wider than its bus). Safe: such an event is no event of the machine. -/
  | noSuchAgent
  /-- Raised by `step` for an agenda entry that is no agent's or input's event: a syllable, which only a bundle can bring, or
  an event that a real cycle of the core brings of itself. Safe: the real cycle performs it. -/
  | notOnAgenda
  deriving DecidableEq, Repr

/-- What the model has no meaning for. -/
inductive Refusal where
  /-- Raised by `exec` for an instruction that has no meaning yet. Safe: no next state is claimed. -/
  | notModelled (mnemonic : String)
  deriving DecidableEq, Repr

/-! ## Context -/

/-- Sticky flags (R54), bit numbers of FLG: sat 5, nv 4, dz 3, of 2, uf 1, nx 0. -/
abbrev Flags := BitVec 6

/-- The register files of a context. An unlisted register holds its launch value: 0 for s, v and p registers
(R110, R125), the seed of R50 for a rounding generator. Bit `i` of `c` is condition register ci (R111). -/
structure Regs where
  s : SMap Word
  c : BitVec 8
  v : SMap VReg
  p : SMap PReg
  lfsr : SMap Word32
  deriving DecidableEq, Repr

/-- A zone register (R171). -/
structure Zone where
  row0 : Nat
  col0 : Nat
  rows : Nat
  cols : Nat
  deriving DecidableEq, Repr

/-- FMT (R52), FLG (R54), the flags that landed at the present schedule cycle (R56), SPFAULT (R93), zones, tokens. -/
structure Fmt where
  fmt : BitVec 32
  flg : Flags
  flgNow : Flags
  spSet : Bool
  spAddr : Word
  z : SMap Zone
  tok : SMap Nat
  deriving DecidableEq, Repr

/-- The control registers that hold a value of their own (R121); CTXID, CAPBASE, POCKETN and SLACKREM are views. -/
structure Ctl where
  tvec : Word
  tcause : Word
  tbundle : Word
  tcycle : Word
  taddr : Word
  tinfo : Word
  hembound : Word
  seambase : Word
  asid : Word
  team : Word
  deriving DecidableEq, Repr

/-- A sticky latch that is not idle (R25): syllable, literal or extension, re-issue count of its next re-issue. -/
structure Latch where
  w : Nat
  x : Option Nat
  n : Nat
  deriving DecidableEq, Repr

/-- Branch state (R192): `st` 0 free, 1 delay 1, 2 delay 2. -/
structure Branch where
  st : Nat
  taken : Bool
  drain : Bool
  target : Nat
  deriving DecidableEq, Repr

/-- Where a context stands (R289, step 1): position, repetition, branch state, latches by slot number 1 X to 8 Q,
stop-group set (s, c, v, p bits in that order, R305), drain wait of a taken branch (R193), flags landed now. -/
structure Frame where
  pos : Nat
  rep : Nat
  br : Branch
  latches : SMap Latch
  group : BitVec 856
  drainWait : Bool
  flgNow : Flags
  deriving DecidableEq, Repr

/-- Where a value result lands (R306). -/
inductive Dest where
  | s (n : Nat)
  | c (n : Nat)
  | v (n : Nat)
  | p (n : Nat)
  | fmt
  deriving DecidableEq, Repr

/-- A pending value result (R11, R297): destination, bytes written, value, flags, landing schedule cycle, the array
cycle at which its pipeline ends (R296), issuing bundle; `acs` names the tile rows an MRDV still reads (R185);
`tok` is the token that completes at the landing (R187); `kept` names bits of the written bytes that keep what the register holds
at the landing (R141). In a frozen list `land` counts the cycles remaining. -/
structure Pend where
  dest : Dest
  mask : PReg
  val : VReg
  flags : Flags
  land : Nat
  fin : Nat
  bundle : Nat
  acs : Option (Nat × Nat)
  tok : Nat
  kept : VReg
  deriving DecidableEq, Repr

/-- A pending flag-only update (R296); `job` names the product or transfer that raises its flags, 0 when settled; `prod` says
that a product raises it, which does not hold back a hem point (R211). -/
structure FPend where
  flags : Flags
  land : Nat
  fin : Nat
  job : Nat
  prod : Bool
  deriving DecidableEq, Repr

/-- Pending results of the program or routine that runs, and the frozen ones of a trapped program (R289, R296). -/
structure Pending where
  val : List Pend
  flg : List FPend
  frozenVal : List Pend
  frozenFlg : List FPend
  deriving DecidableEq, Repr

/-- A pending asynchronous trap (R291): cause code, TADDR, detail, engine, level, slot, major, escalated. -/
structure Async where
  code : Nat
  addr : Word
  detail : Nat
  engine : Nat
  level : Nat
  slot : Nat
  major : Bool
  esc : Bool
  deriving DecidableEq, Repr

/-- Context states (R205). -/
inductive CtxState where
  | inactive
  | ready
  | blocked
  | waiting
  deriving DecidableEq, Repr

/-- What a waiting context waits for, and the steps of a save, a trap entry or a dispatch in progress. -/
inductive Stage where
  /-- none -/
  | none
  /-- a WFE (R224) -/
  | wfe
  /-- the search for a record (R252) -/
  | search
  /-- a record taken and not yet started (R252) -/
  | got (d : Nat)
  /-- the preload of the current record, from this line on (R253) -/
  | preload (line : Nat)
  /-- a major fault's trap entry waits for its bias images (R303) -/
  | entry
  /-- the copies of its team complete before a rollback (R359) -/
  | rolling
  /-- a save that waits for products and copies to finish; the flag says whether a resume record follows (R304) -/
  | save (push : Bool)
  deriving DecidableEq, Repr

/-- A fetched bundle: its syllables by slot number (R293) with literal or extension, and the address after two delay
bundles, which a CALL or CALLI needs. -/
structure Bundle where
  addr : Nat
  hdr : Nat
  len : Nat
  sel : Bool
  syls : List (Nat × Nat × Option Nat)
  ret : Nat
  deriving DecidableEq, Repr

/-- Execution state of a context. `phase` is the wait phase of R373 that the next bundle has reached; `window` the
entries of a host-window application left; `await` the place, in the order of R373, of the wait that has blocked the context; `stall` whether the last cycle charged it a stall;
`cuts` the slots whose images a return from the present trap resumes (R303), slot n in bit n,
and `cutBase` where they lie; `released` a TDONE has released
the current record (R265); `barPass` the barrier of the bundle has released the context (R214); `pre` the preload line
from which a dispatch goes on after a trap that its preload raised (R253); `got` the bundle fetched, which stands once the phase of
its fetch is passed (R373); `tookFrom` the queue that the context's task came from (R253). -/
structure Run where
  st : CtxState
  stage : Stage
  sched : Nat
  h : Nat
  slackRem : Nat
  slack : Nat
  phase : Nat
  window : Nat
  await : Nat
  launch : Option Nat
  priv : Bool
  trap : Bool
  curRec : Option Nat
  released : Bool
  ran : Nat
  earliest : Nat
  cuts : Nat
  cutBase : Word
  barPass : Bool
  pre : Option Nat
  got : Option Bundle
  tookFrom : Option Nat
  deriving DecidableEq, Repr

/-- PERF counters 1, 2, 4 and 5 (R222); counter 0 is the schedule counter. -/
structure Perf where
  stall : Nat
  wait : Nat
  cand : Nat
  prim : Nat
  deriving DecidableEq, Repr

/-- A copy nest: bases, spaces, length and six levels (R71, R72), with the command it belongs to. -/
structure Nest where
  src : Word
  dst : Word
  sspad : Bool
  dspad : Bool
  len : Nat
  cnt : List Nat
  ss : List Word
  ds : List Word
  deriving DecidableEq, Repr

/-- A physical place (R66): space 0 HBM, 1 host memory, 2 scratchpad (address 0x1000_0000 * cluster + offset);
`key` names the key slot of an encrypted leaf. -/
structure Place where
  sp : Nat
  a : Nat
  key : Option Nat
  deriving DecidableEq, Repr

/-- A run of bytes at consecutive physical addresses of one page. -/
structure Piece where
  pl : Place
  len : Nat
  deriving DecidableEq, Repr

/-- What an engine command asks (R77, R151, R259), with the operands read at issue. -/
inductive CmdOp where
  | cplvl (slot level cnt : Nat) (ss ds : Word)
  | cpbase (slot : Nat) (src dst : Word) (sspad dspad : Bool) (len : Nat)
  | cpgo (slot : Nat)
  | cpstrm (slot : Nat)
  | cpstrmOff (slot : Nat)
  | cpcan (slot : Nat)
  | cpstat (slot addr : Nat)
  | lksend (link addr len tick : Nat)
  | lkrecv (link addr len tick : Nat)
  | lkred (link addr cnt tick out : Nat) (deliver : Bool) (infmt outfmt : LkFmt)
  | lktime (tick : Nat)
  | tlbinv (mode : TlbMode) (wide : Bool) (asid start len : Nat)
  | gpush (idx : VReg) (base : Word) (z : Nat) (virt : Bool)
  | sacc (idx val : VReg) (base : Word) (t : SaTy) (virt : Bool)
  | sfop (addr x y : Word) (wide virt : Bool) (op : SfOp)
  | nlbin (addr : Nat)
  | nlpos (v : VReg)
  | nlreq (first count : Word)
  | nlstat (addr : Nat)
  | spawn (r : Nat) (queue : Nat)
  | take (queue addr : Nat)
  | watch (base info : Nat) (tmpl : Nat)
  | unwatch (entry : Nat)
  deriving DecidableEq, Repr

/-- The stitch that a write counts for (R256): cluster and number of its watch entry, and its generation. -/
abbrev Writer := Nat × Nat × Nat

/-- An engine command of a context. `at` counts the parts performed; `held` marks a command stopped on a major fault;
`res` is a data-queue entry not yet delivered; `gen` is the stitch generation and entry of its writer (R256); `aux` holds the parts
performed, or the pairs of an NLREQ; `places` are the places of a request that has begun, every page translated (R157). -/
structure Cmd where
  id : Nat
  op : CmdOp
  asid : Nat
  prod : Nat
  cons : Nat
  started : Bool
  pos : Nat
  held : Bool
  performed : Bool
  res : Option VReg
  gen : Option Writer
  aux : List Nat
  places : List (List Piece)
  deriving DecidableEq, Repr

/-- A data-queue entry (R147, R164). -/
structure DEntry where
  pair : Bool
  data : VReg
  count : Nat
  last : Bool
  stale : Bool
  err : Bool
  deriving DecidableEq, Repr

/-- Engine-side state of a context: requests not retired, in order, true for pair kind (R146); data queue (R147);
gussets (R210); commands taken and not completed; the stream port's buffer (R183), its bound slot and the slices a
product still keeps (R319); handle bindings (R70); `hostLinks` are the PCIe links that carried its writes (R228). -/
structure Eng where
  addrQ : List (Nat × Bool)
  dataQ : List DEntry
  cG : List Cmd
  qG : List Cmd
  work : List Cmd
  stream : List Byte
  bound : Option Nat
  handles : SMap Nat
  tiles : Nat
  links : Nat
  ownQ : Option Nat
  hostLinks : List Nat
  deriving DecidableEq, Repr

/-- A checkpoint (R214): the context just before its BAR bundle. Entries that arrive later for a request issued before it join
its data queue; the mode, the trap bank and the record that runs are kept with it (log 29). -/
structure Ckpt where
  regs : Regs
  vlist : List Nat
  fmt : Fmt
  frame : Frame
  sched : Nat
  h : Nat
  slackRem : Nat
  slack : Nat
  dataQ : List DEntry
  addrQ : List (Nat × Bool)
  recId : Nat
  usable : Bool
  trap : Bool
  bank : SMap Word
  curRec : Option Nat
  released : Bool
  ran : Nat
  deriving DecidableEq, Repr

/-- Debug control (R336) and a step in progress (R338): the counter to leave and real cycles used; `skip` names the
stopped bundle, which issues without its break (R337). -/
structure Dbg where
  why : Nat
  st : Nat
  trace : Nat
  bken : Bool
  stopreq : Bool
  step : Option (Nat × Nat)
  skip : Option Nat
  deriving DecidableEq, Repr

/-- A hardware context (R205); `soon` holds the traps of an uncorrectable error that the bundle it issues next meets in a read: they
pend once that bundle has issued (R360). -/
structure Ctx where
  regs : Regs
  fmt : Fmt
  ctl : Ctl
  frame : Frame
  tframe : Frame
  bank : SMap Word
  pend : Pending
  async : List Async
  soon : List Async
  run : Run
  perf : Perf
  eng : Eng
  ckpt : Option Ckpt
  energy : Word
  dbg : Dbg
  deriving DecidableEq, Repr

/-! ## Core -/

/-- Product kinds by the codes of R323. -/
inductive PKind where
  | mmul
  | macc
  | mmuls
  | maccs
  | mstrm
  | mstrmAcc
  deriving DecidableEq, Repr

/-- What a product is (R170 to R183): fixed at issue. -/
structure PSpec where
  kind : PKind
  tile : Nat
  zone : Zone
  fa : Nat
  fb : Nat
  g : Nat
  p : Nat
  s : Nat
  a : Nat
  b : Nat
  pa : Nat
  pb : Nat
  sel : Nat
  tok : Nat
  bundle : Nat
  deriving DecidableEq, Repr

/-- A cut (R315, R316): the array cycle of the cut, whether it is a fault cut, the slot and the address of its image, what
caused it (0 a major fault, 1 MSEAM, 2 a save), the fault list as step, stream, index (R325), and MSEAM's number. -/
structure Cut where
  at_ : Nat
  fault : Bool
  slot : Nat
  base : Word
  why : Nat
  faults : List (Nat × Nat × Nat)
  grp : Nat
  deriving DecidableEq, Repr

/-- A product in flight. `issue` counts array cycles (as an integer: a resumed product may have issued before the
array's first cycle), `sched` is the schedule cycle of issue. Operand lines are kept as fetched (R174), keyed
`row * 2 ^ 32 + line`; stream steps by step number; seeds and resumed counts and sums by cell `64 * i + j`; `ra` and `rb`
are the restart steps (R320), 0 where the list ends; `port` is the first step that comes from the stream port (R330).
`orphan` marks a product whose context has ended; `late` one that has been restored and whose commits before the restored counter are yet
to be made (R322). -/
structure Prod where
  id : Nat
  hw : Nat
  orphan : Bool
  spec : PSpec
  issue : Int
  sched : Int
  ra : List Nat
  rb : List Nat
  port : Nat
  aLines : SMap Nat
  bLines : SMap Nat
  bSteps : SMap Nat
  seeds : SMap Word32
  cnt : SMap Nat
  sums : SMap Word32
  resumed : Bool
  flags : Flags
  cut : Option Cut
  late : Bool
  deriving DecidableEq, Repr

/-- An MRDS or MWRS transfer in flight (R188, R189); `next` is the next zone row, `rm` FMT.rm at issue; `flags` those
raised so far; `orphan` marks a transfer whose context has ended, `bundle` the issuing bundle. -/
structure Xfer where
  id : Nat
  hw : Nat
  orphan : Bool
  write : Bool
  tile : Nat
  zone : Zone
  addr : Word
  pitch : Nat
  u : ETy
  shift : Nat
  rm : Nat
  issue : Nat
  next : Nat
  flags : Flags
  tok : Nat
  frozen : Bool
  writer : Option Writer
  bundle : Nat
  deriving DecidableEq, Repr

/-- Why a core's clock is held (R209, R299, R337). -/
inductive Hold where
  /-- a minor fault of this context, engine, address, direction (R299) -/
  | fault (hw eng asid va : Nat) (write : Bool) (level : Nat) (pte : Nat)
  /-- a debug stop of this context (R337) -/
  | debug (hw : Nat)
  /-- a stream slice is missing (R183) -/
  | slice (hw : Nat)
  deriving DecidableEq, Repr

/-- A segment of a core's IMEM, with the launch whose table lists it (R283). -/
structure Seg where
  launch : Nat
  ipage : Nat
  npages : Nat
  paddr : Nat
  src : Word
  mapped : Bool
  inflight : Bool
  asid : Nat
  by_ : Option Nat
  deriving DecidableEq, Repr

/-- An entry of the ingress buffer (R101). -/
structure Ingress where
  line : Nat
  data : Nat
  mask : Nat
  deriving DecidableEq, Repr

/-- The lining (R300, R301). `run` is the fault in service; `times` counts successive runs of one request (R302); `writes`
are the host's writes to the store that are held until the run ends (R351). -/
structure Lining where
  ln : SMap Word
  pc : Nat
  run : Bool
  times : Nat
  last : List Nat
  writes : List (Nat × Byte)
  deriving DecidableEq, Repr

/-- A slot of bias images that hardware writes (R303, R317, R326): context, slot, address, the product whose sums it
waits for (0 when `bytes` is complete), its bytes by offset, the next line to write, whether a major fault has stopped it;
`why` as in a cut; MSEAM's token and number, and the cut product's token, which completes with the image. -/
structure ImgJob where
  hw : Nat
  slot : Nat
  base : Word
  prod : Nat
  bytes : Memory
  next : Nat
  held : Bool
  why : Nat
  tok : Nat
  doneTok : Option Nat
  grp : Nat
  deriving DecidableEq, Repr

/-- An MRESUME that waits for its slot (R326): context, address, lines of the slot read so far with their bytes; `st` 0
while it is read, then 1 unusable, 2 empty, 3 a product, with the product and the operand lines still to read before issue, as (re-timed cycle, B side, row or column, line). -/
structure Resume where
  hw : Nat
  addr : Word
  next : Nat
  bytes : Memory
  held : Bool
  st : Nat
  prod : Option Prod
  todo : List (Nat × Bool × Nat × Nat)
  deriving DecidableEq, Repr

/-- A core (R2). `sw` says that the next real cycle is a switch cycle, since the primary left through a bundle that it issued
(R207). `acsNow` names the tile rectangles that this cycle's bundles have written (R185). `past` holds the latest products
that have left the array, without their data: an MRESUME meets those of its own context by schedule cycles (R326, R329). -/
structure Core where
  prim : Option Nat
  lastPrim : Nat
  lastCand : Nat
  arr : Nat
  held : Nat
  sw : Bool
  holds : List Hold
  prods : List Prod
  xfers : List Xfer
  segs : List Seg
  ingress : List Ingress
  journal : SMap (Nat × Nat)
  jteam : Option Nat
  jfull : Bool
  imgs : List ImgJob
  resumes : List Resume
  acsNow : List (Nat × Zone)
  past : List Prod
  deriving DecidableEq, Repr

/-- Accounting and energy of a core (R344 to R347), the lining, and mapped-out units (R359); `clock` is the real cycle up to which its
cycles have their classes. -/
structure CoreAux where
  lining : Lining
  weights : SMap Nat
  ebank : Word
  acct : SMap (Nat × SMap Nat)
  acctOvf : SMap Nat
  acctClear : Bool
  rowMap : SMap Nat
  bankMap : SMap Nat
  rowsLost : Bool
  excluded : Bool
  clock : Nat
  deriving DecidableEq, Repr

/-! ## Cluster -/

/-- A TLB entry (R68): engine number, 0 for the shared TLB; ASID; page address and size; the leaf. -/
structure Tlb where
  eng : Nat
  asid : Nat
  page : Nat
  size : Nat
  pte : Nat
  deriving DecidableEq, Repr

/-- An elementary copy emitted and not completed (R72 to R74): pieces of source and destination, the bytes read so far by offset,
the number of bytes written so far, and the offsets of the destination words that have been written; a stream copy has no
destination. `trig` names the watch entries that its bytes have changed so far
(cluster, entry, lowest address): they take one trigger when it completes (R255); `pages` the TLB entries that it was translated
through (R80). -/
structure Copy where
  id : Nat
  cmd : Nat
  src : List Piece
  dst : List Piece
  stream : Bool
  len : Nat
  data : SMap Byte
  written : Nat
  gone : List Nat
  trig : List (Nat × Nat × Nat)
  pages : List Tlb
  deriving DecidableEq, Repr

/-- A major fault of a stream slot that is held until the array needs a missing byte (R331): code, address, level, escalated. -/
structure SFault where
  code : Nat
  addr : Nat
  level : Nat
  esc : Bool
  deriving DecidableEq, Repr

/-- A sequencer slot (R70 to R76): owner context and handle; pending settings; the active nest with its indices and
the command that started it; the waiting CPGO; state code of R79; copies in flight; the copy whose walk is
outstanding; whether a major fault has stopped it, and the faults of its stream that are yet to be delivered (R331); the CPCAN commands that wait. -/
structure SeqSlot where
  owner : Nat
  handle : Nat
  pend : Nest
  act : Option (Nest × Nat)
  idx : List Nat
  wait : Option (Nest × Nat)
  strm : Bool
  unbind : Bool
  st : Nat
  copies : List Copy
  walk : Bool
  fault : Bool
  ferr : List SFault
  cans : List Nat
  deriving DecidableEq, Repr

/-- A task record in a queue: its number and its 64 bytes (R247). -/
structure TRec where
  id : Nat
  d : Nat
  deriving DecidableEq, Repr

/-- A push that waits for room (R249): the pushing context and command, or context 1,536 and the watch entry that made
the record. -/
structure PushWait where
  hw : Nat
  cmd : Nat
  r : TRec
  deriving DecidableEq, Repr

/-- A task queue (R248 to R250): owner context, capacities, ring address, SRAM records oldest first, ring position
ring records oldest first (their bytes lie in memory; the numbers of the records stay here), and triggers that have yet to reach a
ring record: its number, address and generation (R256). -/
structure TaskQ where
  owner : Nat
  launch : Nat
  c : Nat
  f : Nat
  ring : Word
  sram : List TRec
  rhead : Nat
  rids : List Nat
  edits : List (Nat × Nat × Nat)
  deriving DecidableEq, Repr

/-- A watch entry (R254 to R258): state 0 free, 1 armed, 2 pending, 3 disarmed; `saved` is the key of the save image that its arming
context has been moved to (R257). -/
structure Watch where
  st : Nat
  launch : Nat
  armer : Nat
  base : Nat
  lg : Nat
  limit : Nat
  scope : Nat
  tmpl : Nat
  pendId : Nat
  held : Option TRec
  count : Nat
  saved : Option Nat
  deriving DecidableEq, Repr

/-- A stream-context entry (R104 to R108): `moved` lines of a load or eviction done, `load` a pin load in progress,
`req` the queues and packets that wait on its eviction, `lreq` those that wait on its load. -/
structure Sct where
  sid : Nat
  st : Nat
  asid : Nat
  home : Word
  len : Nat
  region : Nat
  timeout : Nat
  remain : Nat
  load : Bool
  moved : Nat
  queue : Nat
  req : List (Nat × Nat)
  lreq : List (Nat × Nat)
  deriving DecidableEq, Repr

/-- The neighbour-list engine (R159 to R166): the last valid descriptor's fields, the bins as built (particles of a
cell, slots then overflow), the wrap counts of the particles, and its marks. -/
structure Nl where
  desc : Nat
  have_ : Bool
  valid : Bool
  stale : Bool
  err : Nat
  ovf : Nat
  drop : Nat
  wrap : Nat
  staleN : Nat
  epoch : Nat
  pairs : Nat
  bins : SMap (List Nat)
  fa : SMap (List Int)
  deriving DecidableEq, Repr

/-- Progress of a binning (R161): particles by cell, wrap counts, overflow entries oldest first as particle and cell, particles dropped
and particles wrapped. -/
structure Binning where
  bins : SMap (List Nat)
  fa : SMap (List Int)
  extra : List (Nat × Nat)
  drop : Nat
  wrap : Nat
  deriving DecidableEq, Repr

/-- A command of the neighbour-list engine that has begun and holds later ones back (R166): its context and number, the descriptor of an
NLBIN, the particles whose positions it reads, those of them that are binned (all below `upto`) and the coordinates read of others,
the binning so far, and its writes that are yet to perform: by part the place that holds it, the offset in it and the bytes. `strict`
says that arrays overlap, so that its parts keep their order. -/
structure NlJob where
  hw : Nat
  cmd : Nat
  desc : Nat
  reads : Nat
  upto : Nat
  early : SMap (List Nat)
  bin : Binning
  left : SMap (Nat × Nat × List Byte)
  strict : Bool
  deriving DecidableEq, Repr

/-- The job is that of a command. -/
def NlJob.isOf (j : NlJob) (hw id : Nat) : Bool := decide (j.hw = hw) && decide (j.cmd = id)

/-- Trace registers of a cluster (R343). -/
structure Trace where
  base : Word
  head : Nat
  tail : Nat
  lost : Nat
  deriving DecidableEq, Repr

/-- A team that has stopped for a rollback (R359): its members, its number, the number of its release and the unit that failed. -/
structure Roll where
  hws : List Nat
  team : Nat
  mark : Nat
  unit : ErrUnit
  deriving DecidableEq, Repr

/-- A cluster (R2). `bars` holds, by team, the contexts that have arrived at a barrier, each with the registers that its
BAR lists (first times 256 plus number); `win` is the window of 1,024 real cycles that the watch counts belong to (R257);
`rolls` are the teams that have stopped for a rollback. -/
structure Cluster where
  slots : SMap SeqSlot
  watch : SMap Watch
  tq : SMap TaskQ
  waits : List (Nat × PushWait)
  sct : SMap Sct
  evq : List Nat
  nl : Nl
  nlq : List (Nat × Nat)
  nljob : Option NlJob
  bars : SMap (List (Nat × Nat))
  tlbs : List Tlb
  trace : Trace
  win : Nat
  rolls : List Roll
  deriving DecidableEq, Repr

/-! ## Front end and module -/

/-- A reading level of a queue (R277): the ring or a buffer at an address, the next packet and the packets in it; the
loop that runs in it (first packet, packets, iterations left with the present one), the LOOP's and the INDIR's number. -/
structure Level where
  ring : Bool
  buf : Word
  idx : Nat
  cnt : Nat
  loop : Option (Nat × Nat × Nat)
  lpar : Nat
  ipar : Nat
  deriving DecidableEq, Repr

/-- A packet that has been read (R273): its number, its 64 bytes, the ring packet that it belongs to, the depth of its
buffer, the LOOP and INDIR packets that hold it, whether a loop body of its own buffer holds it, the packets that its buffer
still has after it (none for the ring), whether its read failed, and the reader's levels just after it. -/
structure Pkt where
  id : Nat
  w : Nat
  num : Nat
  depth : Nat
  par : List Nat
  inLoop : Bool
  room : Option Nat
  bad : Bool
  next : List Level
  deriving DecidableEq, Repr

/-- A packet that has begun and not completed: `prog` counts a TASK's pushed records, or is a WAITSIG's deadline, or says
that an AT's time has come (1, or 2 when it had passed at its start). -/
structure Begun where
  pkt : Pkt
  prog : Nat
  deriving DecidableEq, Repr

/-! ### Placement maps (R281, R283) -/

/-- A context entry. -/
structure MapCtx where
  core : Nat
  ctx : Nat
  team : Nat
  entry : Nat
  tvec : Nat
  hembound : Nat
  seambase : Nat
  tiles : Nat
  queue : Nat
  links : Nat
  sq : Nat
  deriving DecidableEq, Repr

/-- A queue entry. -/
structure MapQ where
  num : Nat
  owner : Nat
  cap : Nat
  f : Nat
  ring : Nat
  deriving DecidableEq, Repr

/-- A segment entry (R283). -/
structure MapSeg where
  core : Nat
  ipage : Nat
  npages : Nat
  paddr : Nat
  src : Nat
  deriving DecidableEq, Repr

/-- A placement map with its segment table and argument block. -/
structure PlaceMap where
  ctxs : List MapCtx
  qs : List MapQ
  wfirst : Nat
  wcount : Nat
  segs : List MapSeg
  args : Nat
  rsvd : Bool
  deriving DecidableEq, Repr

/-- A LAUNCH that its processor has checked and prepared before its time (R285): the packet, the queue error found or 0, the map, and
the bytes of the segments that are loaded. -/
structure Prep where
  pkt : Nat
  code : Nat
  map : Option PlaceMap
  segs : List (List Byte)
  deriving DecidableEq, Repr

/-- A command queue (R270): register fields and execution. `lv` are the reader's levels, innermost first; `here` those just after
the last packet that was begun or skipped; `skip` packets at depth `skipAt` are yet to be skipped; `prep` is the held LAUNCH as
prepared. -/
structure Queue where
  qbase : Word
  tol : Nat
  asid : Nat
  en : Bool
  enPend : Bool
  stopping : Bool
  tail : Nat
  head : Nat
  count : Nat
  first : Nat
  fpkt : Nat
  lv : List Level
  here : List Level
  ahead : List Pkt
  begun : List Begun
  skip : Nat
  skipAt : Nat
  prep : Option Prep
  deriving DecidableEq, Repr

/-- The event ring and its registers (R280), and the MSI-X vectors raised. -/
structure EvRing where
  base : Word
  head : Nat
  tail : Nat
  lost : Nat
  ovf : Bool
  vec : Nat
  raised : List Nat
  deriving DecidableEq, Repr

/-- A running launch (R281, R282): what the placement map gave it, its teams as 64 * cluster + team. -/
structure Launch where
  id : Nat
  queue : Nat
  pkt : Nat
  hws : List Nat
  ended : List Nat
  tqs : List (Nat × Nat)
  wfirst : Nat
  wcount : Nat
  clusters : List Nat
  links : List Nat
  slots : List Nat
  tiles : List Nat
  cores : List Nat
  teams : List Nat
  deriving DecidableEq, Repr

/-- A transfer window on one direction of a link (R83): first tick, ticks, the command; `begun` its first tick has come,
`done` flits sent or received well, `miss` the command has missed its slot, `out` the output window of an LKRED; `data` what an
LKRED has received; `trig` the watch entries that the received bytes have changed. -/
structure Window where
  start : Nat
  len : Nat
  hw : Nat
  cmd : Nat
  begun : Bool
  done : Nat
  miss : Bool
  data : List Byte
  out : Bool
  trig : List (Nat × Nat × Nat)
  deriving DecidableEq, Repr

/-- A link (R355): misses, trained, flight time, the next tick that its engine works on, windows of each direction, flits
sent as tick, valid bytes, data, the flits that arrive in ticks to come as tick, valid bytes, data, good, and the ticks in which a
flit has arrived. -/
structure Link where
  pos : Nat
  miss : Nat
  up : Bool
  flight : Nat
  send : List Window
  recv : List Window
  sent : List (Nat × Nat × Nat)
  due : List (Nat × Nat × Nat × Bool)
  heard : List Nat
  deriving DecidableEq, Repr

/-- Time (R81, R354): module time in units of 1/6486480 ns, TIMECTL, the slew still to apply (positive forward), the
host's seconds count, the shared link clock in ticks times 16 * 6486480 / 25. -/
structure Time where
  now : Nat
  src : Nat
  period : Nat
  locked : Bool
  slew : Int
  secs : Nat
  link : Nat
  deriving DecidableEq, Repr

/-- An attestation report (R364): nonce, measurements of the firmware and of every lining store, the capability list, serial
number, security version, and the two signatures. -/
structure Report where
  nonce : Nat
  firmware : Nat
  linings : List Nat
  caps : List Word
  serial : Nat
  version : Nat
  signP384 : Nat
  signLms : Nat
  deriving DecidableEq, Repr

/-- A KEYLD whose bundle waits until every HBM controller holds the slot's content (R310): its context, the slot, the key or none for
the clear form, and whether they hold it. -/
structure KeyLoad where
  hw : Nat
  slot : Nat
  key : Option Nat
  done : Bool
  deriving DecidableEq, Repr

/-- Module registers and trust (R351 to R364). `lmsUsed` counts the one-time leaves of the LMS key that reports have used. -/
structure Trust where
  keys : SMap Nat
  vf : SMap Word
  errlog : SMap Word
  pwrlim : Nat
  pwrnow : Nat
  mbStatus : Nat
  mbNonce : Nat
  mbReport : Option Report
  lmsUsed : Nat
  fwOk : Bool
  loads : List KeyLoad
  deriving DecidableEq, Repr

/-- Module state (R4, R356, R357). -/
structure Mod where
  full : Bool
  hbmFull : Bool
  level : Nat
  rows : Nat
  cols : Nat
  cycles : Nat
  time : Time
  trust : Trust
  deriving DecidableEq, Repr

/-- The memories (R66, R88, R32, R300): a scratchpad byte lies at 0x40_0000 * core + offset, an IMEM byte at
0x8_0000 * core + offset, a lining byte at 0x1000 * core + offset. ACS and bias buffer hold 32-bit elements
(R184): ACS element 65536 * core + 4096 * tile + 64 * row + col. -/
structure Mem where
  hbm : Memory
  host : Memory
  spad : Memory
  imem : Memory
  lining : Memory
  acs : SMap Word32
  bias : SMap Word32
  deriving DecidableEq, Repr

/-- Every memory has its canonical form. -/
def Mem.wf (m : Mem) : Bool := m.hbm.wf && m.host.wf && m.spad.wf && m.imem.wf && m.lining.wf

/-- What hardware keeps beside a save image (R305, log 12): the context saved, gussets and commands (their slots by handle),
address queue, sequencer slots by handle, the stream port's bytes and the handle bound to it, pending asynchronous traps, the
tokens of pocket entries that carry one (0 for none, else one more than the token), the data queue's marks, drain waits and
landed flags of the two frames, whether the record is released, the preload line and the barrier's pass, the cut slots of a
trap with their place, the bits that pocket entries keep (R141), the results that a routine's YIELD bundle has left pending, the
links that carried host-memory writes, and the images of an MSEAM that a major fault has stopped (R326). -/
structure Hidden where
  hw : Nat
  cG : List Cmd
  qG : List Cmd
  work : List Cmd
  addrQ : List (Nat × Bool)
  slots : SMap SeqSlot
  stream : List Byte
  bound : Option Nat
  async : List Async
  toks : List Nat
  marks : List DEntry
  waits : Bool × Bool
  flgNow : Flags × Flags
  released : Bool
  pre : Option Nat
  barPass : Bool
  cuts : Nat
  cutBase : Word
  kept : List VReg
  own : List Pend × List FPend
  hostLinks : List Nat
  jobs : List ImgJob
  deriving DecidableEq, Repr, Inhabited

/-- The PCIe port: what the last read of a scratchpad returned, and whether the last request that a BAR could not serve was
completed as Unsupported Request (R103, R349). -/
structure HostPort where
  data : List Byte
  ur : Bool
  deriving DecidableEq, Repr

/-- Front end; `pings` are the zero-length reads that a context waits for, by PCIe link (R228). -/
structure Front where
  queues : SMap Queue
  ev : EvRing
  launches : List Launch
  baseQ : SMap TaskQ
  baseWaits : List (Nat × PushWait)
  links : SMap Link
  hidden : SMap Hidden
  host : HostPort
  nextId : Nat
  pings : List (Nat × List Nat)
  deriving DecidableEq, Repr

/-- An issue check that fails: cause, TADDR, TINFO detail (R294, rank 4). -/
structure Chk where
  code : Nat
  addr : Word
  detail : Nat
  deriving DecidableEq, Repr

/-- The classes of a wait that holds back issue (R209), and a WFE that finds none of its conditions (R224). -/
inductive Wait where
  | fixed
  | engine
  | wfe
  deriving DecidableEq, Repr

/-- How a syllable met its bundle: it ran or was nullified, a decode fault, a wait, an issue check (R294). -/
inductive Verdict where
  | ran
  | mode (k : Chk)
  | wait (w : Wait)
  | chk (k : Chk)
  deriving DecidableEq, Repr

/-- The issue cursor (model's own, log 4): the context whose bundle issues, the slot of the present syllable (R293
numbers), its re-issue count, the bundle's address and repetition, whether the issue is a candidate's; `spSlot` is one
more than the slot whose access this bundle has recorded in SPFAULT, 0 when none; `verdict` how the last syllable met
it; `go` says that the bundle has met its waits and checks and now commits. -/
structure Cursor where
  hw : Nat
  slot : Nat
  n : Nat
  bundle : Nat
  rep : Nat
  cand : Bool
  spSlot : Nat
  verdict : Verdict
  go : Bool
  deriving DecidableEq, Repr

/-- What happens next (model's own, log 3): one real cycle of the module, one event of an agent before it, or one event of an engine
that accesses a scratchpad in that same cycle and is placed beside the cycle that comes next (R91, R156). -/
inductive Act where
  | tick
  | ev (i : Instr)
  | within (i : Instr)
  deriving DecidableEq, Repr

/-- The machine. `agenda` orders agents and inputs (log 3); `draw` numbers the free values (log 5); `oldBytes` holds what the bytes
that the core ports have written in the present real cycle held before, and `shared` the engine events that access a scratchpad in the
real cycle to come (R91, log 37). -/
structure State where
  mod : Mod
  front : Front
  clusters : SMap Cluster
  cores : SMap Core
  aux : SMap CoreAux
  ctxs : SMap Ctx
  mem : Mem
  cur : Cursor
  agenda : List Act
  draw : Nat
  oldBytes : SMap Byte
  shared : List Instr
  deriving DecidableEq, Repr

/-! ## Reset values -/

def Regs.reset : Regs := ⟨[], 1#8, [], [], []⟩
def Zone.whole : Zone := ⟨0, 0, 64, 64⟩
def Fmt.reset : Fmt := ⟨0, 0, 0, false, 0, [], []⟩
def Ctl.reset : Ctl := ⟨0, 0, 0, 0, 0, 0, 0, 0, 0, 0⟩
def Branch.free : Branch := ⟨0, false, false, 0⟩
def Frame.reset : Frame := ⟨0, 0, Branch.free, [], 0, false, 0⟩
def Pending.none : Pending := ⟨[], [], [], []⟩
def Run.reset : Run := ⟨.inactive, .none, 0, 0, 0, 0, 1, 0, 0, none, false, false, none, false, 0, 0, 0, 0, false, none, none, none⟩
def Perf.reset : Perf := ⟨0, 0, 0, 0⟩
def Nest.reset : Nest := ⟨0, 0, false, false, 0, [1, 1, 1, 1, 1, 1], [0, 0, 0, 0, 0, 0], [0, 0, 0, 0, 0, 0]⟩
def Eng.reset : Eng := ⟨[], [], [], [], [], [], none, [], 0, 0, none, []⟩
def Dbg.reset : Dbg := ⟨0, 0, 0, false, false, none, none⟩
def Ctx.reset : Ctx :=
  ⟨Regs.reset, Fmt.reset, Ctl.reset, Frame.reset, Frame.reset, [], Pending.none, [], [], Run.reset, Perf.reset, Eng.reset,
    none, 0, Dbg.reset⟩
def Lining.reset : Lining := ⟨[], 0, false, 0, [], []⟩
/-- The first context of the cyclic choices is CTX0 (log 124). -/
def Core.reset : Core := ⟨none, 3, 3, 0, 0, false, [], [], [], [], [], [], none, false, [], [], [], []⟩
def CoreAux.reset : CoreAux := ⟨Lining.reset, [], 0, [], [], false, [], [], false, false, 0⟩
def Nl.reset : Nl := ⟨0, false, false, true, 0, 0, 0, 0, 0, 0, 0, [], []⟩
def Trace.reset : Trace := ⟨0, 0, 0, 0⟩
def Cluster.reset : Cluster := ⟨[], [], [], [], [], [], Nl.reset, [], none, [], [], Trace.reset, 0, []⟩
def Queue.reset : Queue := ⟨0, 0, 0, false, false, false, 0, 0, 0, 0, 0, [], [], [], [], 0, 0, none⟩
def EvRing.reset : EvRing := ⟨0, 0, 0, 0, false, 0, []⟩
def Link.reset : Link := ⟨0, 0, false, 0, [], [], [], [], []⟩
def Time.reset : Time := ⟨0, 0, 125, false, 0, 0, 0⟩
def Trust.reset : Trust := ⟨[], [], [], 1500, 0, 0, 0, none, 0, true, []⟩
def Mod.reset : Mod := ⟨false, false, 8, 64, 64, 0, Time.reset, Trust.reset⟩
def Mem.reset : Mem := ⟨[], [], [], [], [], [], []⟩
def Front.reset : Front := ⟨[], EvRing.reset, [], [], [], [], [], ⟨[], false⟩, 1, []⟩
def Cursor.reset : Cursor := ⟨0, 0, 0, 0, 0, false, 0, .ran, false⟩

/-- The machine right after module reset (R4, R104, R165, R205, R270, R354 to R357; logs 2 to 10). -/
def State.reset : State :=
  ⟨Mod.reset, Front.reset, [], [], [], [], Mem.reset, Cursor.reset, [], 0, [], []⟩

/-- What a meaning answers. -/
abbrev Out := Host.Outcome State Fault Refusal

end Sys2Proof.Machine
end

