-- ==== Sys2Proof/Machine/Access.lean ====
section
/-!
DEFINITION. The accessors of the state: agents, registers with their hard-wired values, pending results and landing.
-/

namespace Sys2Proof.Machine

/-! ## Agents -/

/-- The hardware context that a number stands for: an ended context that has been set aside goes under a number above 2047
(log 105). -/
def seatOf (hw : Nat) : Nat := hw % 2048
/-- The core of a hardware context (R122). -/
def coreOf (hw : Nat) : Nat := seatOf hw / 4
/-- The cluster of a core. -/
def clOf (core : Nat) : Nat := core / 48
/-- The cluster of a hardware context. -/
def clusterOf (hw : Nat) : Nat := clOf (coreOf hw)

def State.ctx (s : State) (hw : Nat) : Ctx := SMap.getD s.ctxs hw Ctx.reset
def State.setCtx (s : State) (hw : Nat) (c : Ctx) : State := { s with ctxs := SMap.put s.ctxs hw c }
def State.modCtx (s : State) (hw : Nat) (f : Ctx → Ctx) : State := s.setCtx hw (f (s.ctx hw))
def State.core (s : State) (n : Nat) : Core := SMap.getD s.cores n Core.reset
def State.setCore (s : State) (n : Nat) (c : Core) : State := { s with cores := SMap.put s.cores n c }
def State.modCore (s : State) (n : Nat) (f : Core → Core) : State := s.setCore n (f (s.core n))
def State.auxOf (s : State) (n : Nat) : CoreAux := SMap.getD s.aux n CoreAux.reset
def State.modAux (s : State) (n : Nat) (f : CoreAux → CoreAux) : State :=
  { s with aux := SMap.put s.aux n (f (s.auxOf n)) }
def State.cluster (s : State) (n : Nat) : Cluster := SMap.getD s.clusters n Cluster.reset
def State.modCl (s : State) (n : Nat) (f : Cluster → Cluster) : State :=
  { s with clusters := SMap.put s.clusters n (f (s.cluster n)) }
def State.queue (s : State) (q : Nat) : Queue := SMap.getD s.front.queues q Queue.reset
def State.modQueue (s : State) (q : Nat) (f : Queue → Queue) : State :=
  { s with front := { s.front with queues := SMap.put s.front.queues q (f (s.queue q)) } }
def State.link (s : State) (n : Nat) : Link := SMap.getD s.front.links n Link.reset
def State.modLink (s : State) (n : Nat) (f : Link → Link) : State :=
  { s with front := { s.front with links := SMap.put s.front.links n (f (s.link n)) } }

/-- A new number, for a command, record, packet, product or launch. -/
def State.fresh (s : State) : Nat × State :=
  (s.front.nextId, { s with front := { s.front with nextId := s.front.nextId + 1 } })

/-- The context whose bundle issues. -/
def State.me (s : State) : Ctx := s.ctx s.cur.hw
/-- The core on which the present bundle issues. -/
def State.myCore (s : State) : Nat := coreOf s.cur.hw

/-- A free value: the draw's number, and the state that has made the draw (log 5). -/
def State.drawn (s : State) : Nat × State := (s.draw, { s with draw := s.draw + 1 })

/-! ## Registers -/

/-- The names that reach the trap bank in trap mode (R290). -/
def inBank (trap : Bool) (n : Nat) : Bool := trap && decide (56 ≤ n) && decide (n ≤ 61)

/-- A scalar register: s0 reads zero (R110), s56 to s61 the trap bank in trap mode (R290). -/
def Ctx.sreg (c : Ctx) (n : Nat) : Word :=
  if n = 0 then 0 else if inBank c.run.trap n then SMap.getD c.bank n 0 else SMap.getD c.regs.s n 0

/-- Write a scalar register: a write to s0 is discarded. -/
def Ctx.setS (c : Ctx) (n : Nat) (v : Word) : Ctx :=
  if n = 0 then c
  else if inBank c.run.trap n then { c with bank := SMap.put c.bank n v }
  else { c with regs := { c.regs with s := SMap.put c.regs.s n v } }

/-- A condition register: c0 reads true (R111). -/
def Ctx.creg (c : Ctx) (n : Nat) : Bool := decide (n = 0) || c.regs.c.getLsbD n

/-- Write a condition register: a write to c0 is discarded. -/
def Ctx.setC (c : Ctx) (n : Nat) (b : Bool) : Ctx :=
  if n = 0 then c
  else
    let bit : BitVec 8 := 1#8 <<< n
    { c with regs := { c.regs with c := if b then c.regs.c ||| bit else c.regs.c &&& ~~~bit } }

/-- A vector register (R125). -/
def Ctx.vreg (c : Ctx) (n : Nat) : VReg := SMap.getD c.regs.v n 0

/-- A predicate register: p0 reads all ones (R125). -/
def Ctx.preg (c : Ctx) (n : Nat) : PReg := if n = 0 then BitVec.allOnes 512 else SMap.getD c.regs.p n 0

/-- Spread a byte mask over the bits of the bytes. -/
def spread (m : PReg) : VReg :=
  if m = BitVec.allOnes 512 then BitVec.allOnes 4096
  else BitVec.ofNat 4096 ((List.range 512).foldr (fun k a => if m.getLsbD k then a + 255 * 2 ^ (8 * k) else a) 0)

/-- The bytes of `v` where the mask holds, elsewhere those of `old` (R130). -/
def mergeV (old v : VReg) (m : PReg) : VReg :=
  let b := spread m
  (old &&& ~~~b) ||| (v &&& b)

def Ctx.setV (c : Ctx) (n : Nat) (v : VReg) (m : PReg) : Ctx :=
  { c with regs := { c.regs with v := SMap.put c.regs.v n (mergeV (c.vreg n) v m) } }

/-- Write bits of a predicate register: a write to p0 is discarded (R125). -/
def Ctx.setP (c : Ctx) (n : Nat) (v m : PReg) : Ctx :=
  if n = 0 then c
  else { c with regs := { c.regs with p := SMap.put c.regs.p n ((c.preg n &&& ~~~m) ||| (v &&& m)) } }

/-- The seed of a lane's generator (R50). -/
def lfsrSeed (hw lane : Nat) : Word32 :=
  0x6A09E667#32 ^^^ BitVec.ofNat 32 (coreOf hw * 0x10000) ^^^ BitVec.ofNat 32 (hw % 4 * 0x100) ^^^ BitVec.ofNat 32 lane

def Ctx.lfsr (c : Ctx) (hw lane : Nat) : Word32 := SMap.getD c.regs.lfsr lane (lfsrSeed hw lane)

/-- A zone register; every zone is the whole array when a launch starts a context (R171). -/
def Ctx.zone (c : Ctx) (n : Nat) : Zone := SMap.getD c.fmt.z n Zone.whole

/-- A token counter (R15). -/
def Ctx.token (c : Ctx) (n : Nat) : Nat := SMap.getD c.fmt.tok n 0
def Ctx.tokUp (c : Ctx) (n : Nat) : Ctx :=
  { c with fmt := { c.fmt with tok := SMap.put c.fmt.tok n (c.token n + 1) } }
def Ctx.tokDown (c : Ctx) (n : Nat) : Ctx :=
  { c with fmt := { c.fmt with tok := SMap.put c.fmt.tok n (c.token n - 1) } }
/-- Every token in a mask reads zero. -/
def Ctx.tokensZero (c : Ctx) (mask : Nat) : Bool :=
  (List.range 8).all (fun t => decide (fld mask t 1 = 0) || decide (c.token t = 0))

/-- FMT.rm (R52). -/
def Ctx.rm (c : Ctx) : Nat := c.fmt.fmt.toNat % 8
/-- FMT.afmt and FMT.bfmt (R52). -/
def Ctx.afmt (c : Ctx) : Nat := fld c.fmt.fmt.toNat 5 3
def Ctx.bfmt (c : Ctx) : Nat := fld c.fmt.fmt.toNat 8 3

/-! ## Guards (R22, R23) -/

/-- A guard of the N formats. -/
def Ctx.guardN (c : Ctx) (g : Nat) : Bool := xor (c.creg (g / 2)) (decide (g % 2 = 1))
/-- A guard of the W-V and W-L formats, bit by bit. -/
def Ctx.guardW (c : Ctx) (g : Nat) : PReg := if g % 2 = 1 then ~~~(c.preg (g / 2)) else c.preg (g / 2)

/-! ## Landing (R11, R31, R56, R130) -/

/-- OR flags into FLG (R54). -/
def Ctx.orFlags (c : Ctx) (f : Flags) : Ctx :=
  { c with fmt := { c.fmt with flg := c.fmt.flg ||| f, flgNow := c.fmt.flgNow ||| f } }

/-- The value of a pending result as it would land now: the bits that it keeps are the register's (R141). -/
def Ctx.landing (c : Ctx) (p : Pend) : VReg :=
  match p.dest with
  | .v n => (p.val &&& ~~~p.kept) ||| (c.vreg n &&& p.kept)
  | _ => p.val

/-- A value result reaches its register (log 69). -/
def Ctx.landOne (c : Ctx) (p : Pend) : Ctx :=
  let c1 :=
    match p.dest with
    | .s n => c.setS n (BitVec.ofNat 64 p.val.toNat)
    | .c n => c.setC n (p.val.getLsbD 0)
    | .v n => c.setV n (c.landing p) p.mask
    | .p n => c.setP n (BitVec.ofNat 512 p.val.toNat) p.mask
    | .fmt => { c with fmt := { c.fmt with fmt := BitVec.ofNat 32 p.val.toNat } }
  let c2 := c1.orFlags p.flags
  match p.acs with
  | none => c2
  | some _ => c2.tokDown p.tok

/-- Every result that lands at or before the schedule counter reaches its register, in issue order. -/
def Ctx.land (c : Ctx) : Ctx :=
  let dueV := c.pend.val.filter (fun p => decide (p.land ≤ c.run.sched))
  let dueF := c.pend.flg.filter (fun p => decide (p.land ≤ c.run.sched))
  let c1 := { c with pend := { c.pend with
    val := c.pend.val.filter (fun p => !decide (p.land ≤ c.run.sched))
    flg := c.pend.flg.filter (fun p => !decide (p.land ≤ c.run.sched)) } }
  let c2 := dueV.foldl Ctx.landOne c1
  dueF.foldl (fun c f => c.orFlags f.flags) c2

/-- Pending results in landing order. -/
def landOrder (l : List Pend) : List Pend := sortBy (fun p => p.land) l

/-- The pipelines of all pending results have finished by array cycle `arr` (R296). -/
def Ctx.finished (c : Ctx) (arr : Nat) : Bool :=
  c.pend.val.all (fun p => decide (p.fin ≤ arr)) && c.pend.flg.all (fun p => decide (p.fin ≤ arr))

/-- The wait for every result of the context to have landed is over (R214, R264, R309). The counter of a blocked context stands
still, so that it would reach no landing cycle: such a context waits until the pipelines have finished (R332, log 32). -/
def Ctx.landed (c : Ctx) (arr : Nat) : Bool :=
  if c.run.st = .blocked then c.finished arr else c.pend.val.isEmpty && c.pend.flg.isEmpty

/-- Every pending result reaches its register, in landing order: what the end of such a wait of a blocked context does. -/
def Ctx.landAll (c : Ctx) : Ctx :=
  let fs := c.pend.flg
  let c1 := (landOrder c.pend.val).foldl Ctx.landOne { c with pend := { c.pend with val := [], flg := [] } }
  fs.foldl (fun c f => c.orFlags f.flags) c1

/-- A pending result with the schedule cycles that remain and the value that it would land now. -/
def Ctx.remaining (c : Ctx) (p : Pend) : Pend := { p with val := c.landing p, land := p.land - c.run.sched }

/-- The pending results of the program or routine that runs, in landing order. -/
def Ctx.ownVals (c : Ctx) : List Pend := landOrder (c.pend.val.map c.remaining)

/-- The pocket as a save image holds it, in landing order (R305): the program's results, those of a trapped program frozen. -/
def Ctx.pocketVals (c : Ctx) : List Pend :=
  if c.run.trap then landOrder (c.pend.frozenVal.map (fun p => { p with val := c.landing p })) else c.ownVals

/-- The flag pocket: one entry for each landing cycle, in order. -/
def flagPocket (l : List FPend) : List (Nat × Flags) :=
  (sortBy (fun t => t) (l.map (fun f => f.land)).dedup).map (fun t =>
    (t, (l.filter (fun f => decide (f.land = t))).foldl (fun a f => a ||| f.flags) 0))

/-- The flag-only updates of the program or routine that runs whose pipelines have finished by array cycle `arr` (R296). -/
def Ctx.ownFlgs (c : Ctx) (arr : Nat) : List (Nat × Flags) :=
  flagPocket ((c.pend.flg.filter (fun f => decide (f.fin ≤ arr))).map (fun f => { f with land := f.land - c.run.sched }))

/-- The program's flag pocket at array cycle `arr`: a frozen update too enters it when its pipeline has finished (R296). -/
def Ctx.pocketFlgs (c : Ctx) (arr : Nat) : List (Nat × Flags) :=
  if c.run.trap then flagPocket (c.pend.frozenFlg.filter (fun f => decide (f.fin ≤ arr))) else c.ownFlgs arr

/-- The program's flag pocket as a save image holds it: the last of the frozen updates too, whose pipeline ends after the context's
last product has committed (R304). -/
def Ctx.imageFlgs (c : Ctx) (arr : Nat) : List (Nat × Flags) :=
  if c.run.trap then flagPocket c.pend.frozenFlg else c.ownFlgs arr

/-- The schedule counter advances by one (R206); what lands at the new count lands before its reads (R130). A task's
budget counts the cycles that it runs outside trap mode (R253). -/
def Ctx.advance (c : Ctx) : Ctx :=
  let c1 := { c with
    run := { c.run with sched := c.run.sched + 1, ran := if c.run.trap then c.run.ran else c.run.ran + 1 }
    fmt := { c.fmt with flgNow := 0 } }
  c1.land

/-- A stall cycle charged to the context (R209). -/
def Ctx.stall (c : Ctx) : Ctx := { c with perf := { c.perf with stall := c.perf.stall + 1 } }.advance

/-- Pocket entries held (R296): pending value results whose pipelines have finished. In trap mode the program's
frozen entries (R297). -/
def Ctx.pocketN (c : Ctx) (arr : Nat) : Nat :=
  if c.run.trap then c.pend.frozenVal.length
  else (c.pend.val.filter (fun p => decide (p.fin ≤ arr))).length

/-! ## Pending results of the bundle that issues -/

/-- The issue cycle of the present bundle. -/
def State.now (s : State) : Nat := s.me.run.sched

/-- Add a pending value result with latency `lat`. -/
def State.pushVal (s : State) (dest : Dest) (mask : PReg) (val : VReg) (flags : Flags) (lat : Nat) : State :=
  s.modCtx s.cur.hw (fun c => { c with pend := { c.pend with val := c.pend.val ++
    [⟨dest, mask, val, flags, c.run.sched + lat, (s.core s.myCore).arr + lat, s.cur.bundle, none, 0, 0⟩] } })

/-- A scalar result. -/
def State.pushS (s : State) (n : Nat) (v : Word) (flags : Flags) (lat : Nat) : State :=
  s.pushVal (.s n) 0 (BitVec.ofNat 4096 v.toNat) flags lat

/-- A condition result. -/
def State.pushC (s : State) (n : Nat) (b : Bool) (lat : Nat) : State :=
  s.pushVal (.c n) 0 (if b then 1 else 0) 0 lat

/-- A vector result under a byte mask. -/
def State.pushV (s : State) (n : Nat) (mask : PReg) (v : VReg) (flags : Flags) (lat : Nat) : State :=
  s.pushVal (.v n) mask v flags lat

/-- A result of a vector register whose written bytes keep the bits of `kept` as they stand at the landing (R141). -/
def State.pushKept (s : State) (n : Nat) (mask : PReg) (kept v : VReg) (flags : Flags) (lat : Nat) : State :=
  s.modCtx s.cur.hw (fun c => { c with pend := { c.pend with val := c.pend.val ++
    [⟨.v n, mask, v, flags, c.run.sched + lat, (s.core s.myCore).arr + lat, s.cur.bundle, none, 0, kept⟩] } })

/-- A predicate result under a bit mask. -/
def State.pushP (s : State) (n : Nat) (mask v : PReg) (flags : Flags) (lat : Nat) : State :=
  s.pushVal (.p n) mask (BitVec.ofNat 4096 v.toNat) flags lat

/-! ## Control registers as read (R121, R122) -/

/-- CTXID of a hardware context. -/
def ctxId (hw : Nat) : Word :=
  BitVec.ofNat 64 (coreOf hw % 48 * 2 ^ 14 + clusterOf hw * 2 ^ 11 + coreOf hw * 2 ^ 2 + hw % 4)

/-- The value that MFC reads (R120): reserved bits as zero. -/
def State.ctlRead (s : State) (hw num : Nat) : Word :=
  let c := s.ctx hw
  match num with
  | 0x000 => c.ctl.tvec
  | 0x001 => c.ctl.tcause
  | 0x002 => c.ctl.tbundle
  | 0x003 => c.ctl.tcycle
  | 0x004 => c.ctl.taddr
  | 0x005 => c.ctl.tinfo
  | 0x006 => c.ctl.hembound
  | 0x007 => c.ctl.seambase
  | 0x008 => ctxId hw
  | 0x009 => c.ctl.asid
  | 0x00A => c.ctl.team
  | 0x00B => 0x03C0000#64
  | 0x00C => BitVec.ofNat 64 (c.pocketN (s.core (coreOf hw)).arr)
  | 0x00D => BitVec.ofNat 64 c.run.slackRem
  | _ => 0

/-- The bits of TCAUSE and TINFO that are not reserved (R292, R293). -/
def tcauseBits : Word := 0xFF#64
def tinfoBits : Word := 0xFFFFF8F0#64

/-- MTC (R120): reserved bits are ignored (R7), a write to a read-only register has no effect (log 52). -/
def Ctx.ctlWrite (c : Ctx) (num : Nat) (v : Word) : Ctx :=
  match num with
  | 0x000 => { c with ctl := { c.ctl with tvec := v } }
  | 0x001 => { c with ctl := { c.ctl with tcause := v &&& tcauseBits } }
  | 0x002 => { c with ctl := { c.ctl with tbundle := v } }
  | 0x003 => { c with ctl := { c.ctl with tcycle := v } }
  | 0x004 => { c with ctl := { c.ctl with taddr := v } }
  | 0x005 => { c with ctl := { c.ctl with tinfo := v &&& tinfoBits } }
  | 0x006 => { c with ctl := { c.ctl with hembound := v } }
  | 0x007 => { c with ctl := { c.ctl with seambase := v } }
  | 0x009 => { c with ctl := { c.ctl with asid := v &&& 0x3FFF#64 } }
  | _ => c

/-! ## Energy (R346, R347) -/

/-- `n` events of a code charged to a hardware context (log 53). -/
def State.charge (s : State) (hw code n : Nat) : State :=
  let w := SMap.getD (s.auxOf (coreOf hw)).weights code 0
  if w = 0 ∨ n = 0 then s
  else s.modCtx hw (fun c => { c with energy := c.energy + BitVec.ofNat 64 (w * n) })

/-- `n` events of a code charged to a core's own bank. -/
def State.chargeCore (s : State) (core code n : Nat) : State :=
  let w := SMap.getD (s.auxOf core).weights code 0
  if w = 0 ∨ n = 0 then s
  else s.modAux core (fun a => { a with ebank := a.ebank + BitVec.ofNat 64 (w * n) })

end Sys2Proof.Machine
end

