-- ==== Sys2Proof/Machine/Flags.lean ====
section
/-!
DEFINITION. The sticky flags and the clamps that set them (R40, R54, R55).
-/

namespace Sys2Proof.Machine

/-- Bit positions of FLG (R54). -/
def fNx : Flags := 0x01#6
def fUf : Flags := 0x02#6
def fOf : Flags := 0x04#6
def fDz : Flags := 0x08#6
def fNv : Flags := 0x10#6
def fSat : Flags := 0x20#6

/-- A flag when a condition holds. -/
def flagIf (b : Bool) (f : Flags) : Flags := if b then f else 0

/-- The range of an integer type (R39). -/
def tyLo (t : ETy) : Int := if t.isSigned then -(2 ^ (8 * t.width - 1) : Nat) else 0
def tyHi (t : ETy) : Int :=
  if t.isSigned then (2 ^ (8 * t.width - 1) : Nat) - 1 else (2 ^ (8 * t.width) : Nat) - 1

/-- Clamp to a range, setting sat when the value changes (R40). -/
def clampTo (lo hi r : Int) : Int × Flags :=
  let c := if r < lo then lo else if hi < r then hi else r
  (c, flagIf (decide (c ≠ r)) fSat)

/-- A value modulo 2^bits. -/
def wrapN (bits : Nat) (r : Int) : Nat := (r % (2 ^ bits : Nat)).toNat

/-- The signed reading of a field of `bits` bits. -/
def signed (bits x : Nat) : Int := if x < 2 ^ (bits - 1) then (x : Int) else (x : Int) - (2 ^ bits : Nat)

/-- An element read by the signedness of its type. -/
def tyRead (t : ETy) (x : Nat) : Int := if t.isSigned then signed (8 * t.width) x else (x : Int)

end Sys2Proof.Machine
end

