-- ==== Sys2Proof/Machine/Operands.lean ====
section
/-!
DEFINITION. Operand forms: scalar operands and literals (R24, R113), effective addresses (R94, R119), elements of
vector registers, guards and byte masks of elements (R126, R127).
-/

namespace Sys2Proof.Machine

/-! ## Scalar operands -/

/-- A 32-bit literal extended with sign (R24). -/
def litS (v : Nat) : Word := BitVec.ofInt 64 (signed 32 v)
/-- A 32-bit literal extended with zeros (ORI, XORI). -/
def litZ (v : Nat) : Word := BitVec.ofNat 64 v

/-- Operand b of an N-R syllable. -/
def Ctx.src (c : Ctx) : Src → Word
  | .reg n => c.sreg n
  | .lit v => litS v

/-- The immediate of an N-I syllable, sign-extended. -/
def immS : Imm → Word
  | .imm v => BitVec.ofInt 64 v
  | .lit v => litS v

/-- The immediate of ORI and XORI: a literal is zero-extended (R113). -/
def immZ : Imm → Word
  | .imm v => BitVec.ofInt 64 v
  | .lit v => litZ v

/-- The effective address of a scalar load or store (R119). -/
def Ctx.ea (c : Ctx) (o : NI) : Word := c.sreg o.a + immS o.b

/-- The effective address of an L instruction at re-issue count `n` (R94). -/
def Ctx.eaL (c : Ctx) (base : Nat) (off step : Int) (n : Nat) : Word :=
  c.sreg base + BitVec.ofInt 64 off + BitVec.ofInt 64 (n * step * 16)

/-! ## Elements -/

/-- Element `e` of width `w` bytes of a register's bits. -/
def elem (v w e : Nat) : Nat := v / 2 ^ (8 * w * e) % 2 ^ (8 * w)

/-- A register's bits from its elements, element 0 lowest. -/
def assemble (w : Nat) : List Nat → Nat
  | [] => 0
  | x :: r => x + 2 ^ (8 * w) * assemble w r

/-- Element `e` of a register read by its type. -/
def vElem (v : VReg) (t : ETy) (e : Nat) : Int := tyRead t (elem v.toNat t.width e)

/-- The governing bit of element `e` (R126). -/
def activeE (m : PReg) (w e : Nat) : Bool := m.getLsbD (e * w)

/-- The bytes of the active elements of width `w` (R130). -/
def elemMask (m : PReg) (w : Nat) : PReg :=
  if m = BitVec.allOnes 512 then m
  else BitVec.ofNat 512 (((List.range (512 / w)).foldr (fun e a =>
    if activeE m w e then a + (2 ^ w - 1) * 2 ^ (e * w) else a) 0))

/-- Elements computed one by one where active, with their flags ORed; an inactive element holds 0 and counts none. -/
def mapElems (m : PReg) (w n : Nat) (f : Nat → Nat × Flags) : VReg × Flags :=
  let rs := (List.range n).map (fun e => if activeE m w e then f e else (0, (0 : Flags)))
  (BitVec.ofNat 4096 (assemble w (rs.map (fun r => r.1))), rs.foldl (fun a r => a ||| r.2) 0)

/-- The bits of element groups for which a test holds: all `w` bits of each group (R136, R144). -/
def groupBits (w n : Nat) (test : Nat → Bool) : PReg :=
  BitVec.ofNat 512 ((List.range n).foldr (fun e a => if test e then a + (2 ^ w - 1) * 2 ^ (e * w) else a) 0)

/-- Set bits of a predicate at the governing positions of the elements. -/
def countBits (p : PReg) (w n : Nat) : Nat := ((List.range n).filter (fun e => activeE p w e)).length

end Sys2Proof.Machine
end

