-- ==== Sys2Proof/Machine/Aes.lean ====
section
/-!
DEFINITION. AES-XTS-256 for encrypted HBM leaves (R310, R362). The spec names the cipher; its definition is the
published one (FIPS 197, IEEE 1619), which stands outside the spec (PRESUMED, log 15).
-/

namespace Sys2Proof.Machine.Aes

/-- The AES substitution table, 32 bytes a row, the first byte lowest. -/
def sboxRows : List Nat :=
  [0xC072A49CAFA2D4ADF04759FA7DC982CA76ABD7FE2B670130C56F6BF27B777C63,
    0x75B227EBE28012079A059618C323C7041531D871F1E5A534CCF73F362693FDB7,
    0xCF584C4A39BECB6A5BB1FC20ED00D153842FE329B3D63B52A05A6E1B1A2C8309,
    0xD2F3FF1021DAB6BCF5389D928F40A351A89F3C507F02F94585334D43FBAAEFD0,
    0xDB0B5EDE14B8EE4688902A22DC4F816073195D643D7EA7C41744975FEC130CCD,
    0x08AE7A65EAF4566CA94ED58D6D37C8E779E4959162ACD3C25C2406490A3A32E0,
    0x9E1DC186B95735610EF6034866B53E708A8BBD4B1F74DDE8C6B4A61C2E2578BA,
    0x16BB54B00F2D99416842E6BF0D89A18CDF2855CEE9871E9B948ED9691198F8E1]

/-- The inverse table. -/
def invRows : List Nat :=
  [0xCBE9DEC444438E3487FF2F9B8239E37CFBD7F3819EA340BF38A53630D56A0952,
    0x25D18B6D49A25B76B224D92866A12E084EC3FA420B954CEE3D23C2A632947B54,
    0x849D8DA75746155EDAB9EDFD5048706C92B6655DCC5CA4D41698688664F6F872,
    0x6B8A130103BDAFC1020F3FCA8F1E2CD00645B3B80558E4F70AD3BC8C00ABD890,
    0x6EDF751CE837F9E28535ADE72274AC9673E6B4F0CECFF297EADC674F4111913A,
    0xF45ACD78FEC0DB9A2079D2C64B3E56FC1BBE18AA0E62B76F89C5291D711AF147,
    0xEF9CC9939F7AE52D0D4AB519A97F51605FEC8027591012B131C7078833A8DD1F,
    0x7D0C2155631469E126D677BA7E042B17619953833CBBEBC8B0F52AAE4D3BE0A0]

/-- An entry of a table. -/
def look (rows : List Nat) (b : Nat) : Nat := rows.getD (b / 32) 0 / 256 ^ (b % 32) % 256

/-- Multiplication by x in GF(2^8). -/
def xt (a : Nat) : Nat := if a < 128 then 2 * a else Nat.xor (2 * a - 256) 0x1B

/-- Multiplication by a small constant in GF(2^8). -/
def mulc (c a : Nat) : Nat :=
  let a2 := xt a
  let a4 := xt a2
  let a8 := xt a4
  let t (b : Nat) (v : Nat) : Nat := if c / b % 2 = 1 then v else 0
  Nat.xor (Nat.xor (t 1 a) (t 2 a2)) (Nat.xor (t 4 a4) (t 8 a8))

/-- A block of 16 bytes, byte `k` at index `k`. -/
abbrev Block := List Nat

def xorB (a b : Block) : Block := List.zipWith Nat.xor a b

/-- ShiftRows: byte `r + 4 * c` comes from column `c + r`. -/
def shiftRows (b : Block) : Block :=
  (List.range 16).map (fun k => b.getD ((k % 4) + 4 * ((k / 4 + k % 4) % 4)) 0)
def unshiftRows (b : Block) : Block :=
  (List.range 16).map (fun k => b.getD ((k % 4) + 4 * ((k / 4 + 4 - k % 4) % 4)) 0)

/-- A column mix by the circulant row `m`. -/
def mix (m : List Nat) (b : Block) : Block :=
  (List.range 16).map (fun k =>
    (List.range 4).foldl (fun a j => Nat.xor a (mulc (m.getD ((j + 4 - k % 4) % 4) 0) (b.getD (4 * (k / 4) + j) 0))) 0)

/-- The round keys of AES-256: 15 blocks from 32 key bytes, four-byte words made one after another. -/
def expand : Nat → List (List Nat) → Nat → List (List Nat)
  | 0, ws, _ => ws
  | n + 1, ws, rcon =>
    let i := ws.length
    let prev := ws.getD (i - 1) []
    let t :=
      if i % 8 = 0 then
        let r := (prev.drop 1 ++ prev.take 1).map (look sboxRows)
        List.zipWith Nat.xor r [rcon, 0, 0, 0]
      else if i % 8 = 4 then prev.map (look sboxRows) else prev
    expand n (ws ++ [List.zipWith Nat.xor (ws.getD (i - 8) []) t]) (if i % 8 = 0 then xt rcon else rcon)

def roundKeys (key : Nat) : List Block :=
  let ws := expand 52 ((List.range 8).map (fun w => (List.range 4).map (fun k => key / 256 ^ (4 * w + k) % 256))) 1
  (List.range 15).map (fun r => ((ws.drop (4 * r)).take 4).flatten)

/-- Encrypt one block with 32 key bytes (low byte first). -/
def encrypt (key : Nat) (b : Block) : Block :=
  let ks := roundKeys key
  let start := xorB b (ks.getD 0 [])
  let mid := (List.range 13).foldl (fun b r =>
    xorB (mix [2, 3, 1, 1] (shiftRows (b.map (look sboxRows)))) (ks.getD (r + 1) [])) start
  xorB (shiftRows (mid.map (look sboxRows))) (ks.getD 14 [])

/-- Decrypt one block. -/
def decrypt (key : Nat) (b : Block) : Block :=
  let ks := roundKeys key
  let start := (unshiftRows (xorB b (ks.getD 14 []))).map (look invRows)
  let mid := (List.range 13).foldl (fun b r =>
    (unshiftRows (mix [14, 11, 13, 9] (xorB b (ks.getD (13 - r) [])))).map (look invRows)) start
  xorB mid (ks.getD 0 [])

def blockOf (n : Nat) : Block := (List.range 16).map (fun k => n / 256 ^ k % 256)
def numOf : Block → Nat
  | [] => 0
  | b :: r => b + 256 * numOf r

/-- Multiplication of a tweak by x in GF(2^128). -/
def alpha (t : Nat) : Nat := if t < 2 ^ 127 then 2 * t else Nat.xor (2 * t - 2 ^ 128) 0x87

/-- The tweak of 16-byte word `a / 16`: the line address encrypted with the tweak key, times x for each word (R362). -/
def tweak (key64 a : Nat) : Nat :=
  let t := numOf (encrypt (key64 / 2 ^ 256) (blockOf (a / 64)))
  (List.range (a / 16 % 4)).foldl (fun t _ => alpha t) t

/-- A 16-byte word as HBM holds it, and back. `key64` holds the data key low and the tweak key high (R310). -/
def enc (key64 a w : Nat) : Nat :=
  let t := tweak key64 a
  Nat.xor (numOf (encrypt (key64 % 2 ^ 256) (blockOf (Nat.xor w t)))) t
def dec (key64 a w : Nat) : Nat :=
  let t := tweak key64 a
  Nat.xor (numOf (decrypt (key64 % 2 ^ 256) (blockOf (Nat.xor w t)))) t

end Sys2Proof.Machine.Aes
end

