-- ==== Sys2Proof/Machine/Translate.lean ====
section
/-!
DEFINITION. Device virtual addresses: walks, TLBs and the places that a leaf names (R63 to R69), and reading a place.
-/

namespace Sys2Proof.Machine

/-- What a walk ends in (R67): a leaf with its page size, a refill fault with the level and the entry's address, or a
major fault with its cause code (7 XLAT, 8 ACCV) and level. -/
inductive Walk where
  | leaf (pte size : Nat)
  | refill (level entry : Nat)
  | major (code level : Nat)
  deriving DecidableEq, Repr

/-- A device virtual address (R63). -/
def va56 (a : Nat) : Nat := a % 2 ^ 56

/-- The reserved bits of every entry, 52, 6 and 2 (R65). -/
def pteReserved (e : Nat) : Bool := decide (fld e 52 1 = 1) || decide (fld e 6 1 = 1) || decide (fld e 2 1 = 1)

/-- The next table of a non-leaf entry, aligned to `size` and lying in HBM, or none (R65). -/
def nextTable (e size : Nat) : Option Nat :=
  let a := fld e 8 44 * 256
  if a % size = 0 ∧ a < Config.hbmBytes then some a else none

/-- A leaf's own checks (R65, R66): reserved bits 15-9, frame bits below the page size, type, encryption. -/
def leafOk (keys : SMap Nat) (e size : Nat) : Bool :=
  let frame := fld e 16 36 * 65536
  let ty := fld e 3 2
  decide (fld e 9 7 = 0) && decide (frame % size = 0) && decide (ty ≠ 3) &&
    (decide (fld e 8 1 = 0) || (decide (ty = 0) && (SMap.get? keys (fld e 53 11)).isSome))

/-- The levels of a walk (R64): level, lowest address bit indexed, index bits. -/
def levels : List (Nat × Nat × Nat) := [(4, 48, 8), (3, 39, 9), (2, 30, 9), (1, 21, 9), (0, 16, 5)]

/-- Descend from the table at `tab` through the given levels (log 83). -/
def walkFrom (hbm : Memory) (keys : SMap Nat) (va : Nat) : List (Nat × Nat × Nat) → Nat → Walk
  | [], _ => .major 8 0
  | (lv, lo, bits) :: rest, tab =>
    let ea := tab + 8 * fld va lo bits
    let e := hbm.readN ea 8
    if fld e 0 1 = 0 then (if fld e 5 1 = 1 then .refill lv ea else .major 7 lv)
    else if pteReserved e then .major 8 lv
    else if decide (lv = 0) || decide (fld e 7 1 = 1) then
      if 3 ≤ lv then .major 8 lv
      else if leafOk keys e (2 ^ lo) then .leaf e (2 ^ lo) else .major 8 lv
    else
      match rest with
      | [] => .major 8 lv
      | (_, _, b2) :: _ =>
        match nextTable e (8 * 2 ^ b2) with
        | some t => walkFrom hbm keys va rest t
        | none => .major 8 lv

/-- A walk for an ASID from the root pointer (R64); a fault there reports level 4. -/
def State.walk (s : State) (asid va : Nat) : Walk :=
  let ea := Config.asidBase + 8 * asid
  let e := s.mem.hbm.readN ea 8
  if fld e 0 1 = 0 then (if fld e 5 1 = 1 then .refill 4 ea else .major 7 4)
  else if pteReserved e || decide (fld e 7 1 = 1) then .major 8 4
  else
    match nextTable e 2048 with
    | some t => walkFrom s.mem.hbm s.mod.trust.keys va levels t
    | none => .major 8 4

/-- The place of an address in a leaf's page (R66); none where the physical address does not exist. R66 names bits 30 to 0 of a
scratchpad leaf's address; the bits above them are not looked at (log 89). -/
def leafPlace (pte size va : Nat) : Option Place :=
  let a := fld pte 16 36 * 65536 / size * size + va % size
  let key := if fld pte 8 1 = 1 then some (fld pte 53 11) else none
  match fld pte 3 2 with
  | 0 => if a < Config.hbmBytes then some ⟨0, a, key⟩ else none
  | 1 => some ⟨1, a, none⟩
  | _ => if a % 2 ^ 28 < 0xC000000 then some ⟨2, a % 2 ^ 31, none⟩ else none

/-- A translation (R67): a place and the bytes left in its page, a refill fault, or a major fault. -/
inductive Tr where
  | ok (pl : Place) (left : Nat)
  | refill (level entry : Nat)
  | major (code level : Nat)
  deriving DecidableEq, Repr

/-- Use a leaf for an access. -/
def useLeaf (pte size va : Nat) (write : Bool) (level : Nat) : Tr :=
  if write && decide (fld pte 1 1 = 0) then .major 8 level
  else
    match leafPlace pte size va with
    | some pl => .ok pl (size - va % size)
    | none => .major 8 level

/-- The level of a leaf by its page size. -/
def levelOfSize (size : Nat) : Nat := if size = 2 ^ 30 then 2 else if size = 2 ^ 21 then 1 else 0

/-- The TLB entry of an engine for an address: its own TLB first, then the cluster's shared TLB (R68). -/
def findTlb (tlbs : List Tlb) (eng asid va : Nat) : Option Tlb :=
  let hit (e : Nat) (t : Tlb) : Bool :=
    decide (t.eng = e) && decide (t.asid = asid) && decide (va / t.size * t.size = t.page)
  match tlbs.find? (hit eng) with
  | some t => some t
  | none => tlbs.find? (hit 0)

/-- A leaf names a key slot that holds no key (R66, R310). -/
def noKey (keys : SMap Nat) (pte : Nat) : Bool := decide (fld pte 8 1 = 1) && (SMap.get? keys (fld pte 53 11)).isNone

/-- The entries that serve an engine for an address have been replaced by others (R68; log 40). -/
def State.dropTlb (s : State) (cl eng asid va : Nat) : State :=
  if (findTlb (s.cluster cl).tlbs eng asid va).isNone then s
  else s.modCl cl (fun c => { c with tlbs := c.tlbs.filter (fun t =>
    !((decide (t.eng = eng) || decide (t.eng = 0)) && decide (t.asid = asid) && decide (va / t.size * t.size = t.page))) })

/-- Translate one address for an engine of a cluster: a TLB entry serves while it stands (R69) but for its key slot, which must hold
a key (R66, R310); else a walk. -/
def State.translate1 (s : State) (cl eng asid va : Nat) (write : Bool) : Tr :=
  match findTlb (s.cluster cl).tlbs eng asid va with
  | some t => if noKey s.mod.trust.keys t.pte then .major 8 15 else useLeaf t.pte t.size va write 15
  | none =>
    match s.walk asid va with
    | .leaf pte size => useLeaf pte size va write (levelOfSize size)
    | .refill l e => .refill l e
    | .major c l => .major c l

/-- At most `cap` entries of an engine's TLB: the oldest leaves first (R68). -/
def trimTlb (tlbs : List Tlb) (eng cap : Nat) : List Tlb :=
  if (tlbs.filter (fun t => decide (t.eng = eng))).length ≤ cap then tlbs
  else dropFirst (fun t => decide (t.eng = eng)) tlbs

/-- Keep a walk's leaf in the engine's TLB and in the shared TLB. -/
def fillTlb (tlbs : List Tlb) (eng asid va pte size : Nat) : List Tlb :=
  let page := va / size * size
  let keep := tlbs.filter (fun t => !(decide (t.asid = asid) && decide (t.page = page) &&
    (decide (t.eng = eng) || decide (t.eng = 0))))
  trimTlb (trimTlb (keep ++ [⟨eng, asid, page, size, pte⟩, ⟨0, asid, page, size, pte⟩]) eng 256) 0 8192

/-- The table entries that a walk reads below the root (R64). -/
def walkReadsFrom (hbm : Memory) (va : Nat) : List (Nat × Nat × Nat) → Nat → Nat
  | [], _ => 0
  | (lv, lo, bits) :: rest, tab =>
    let e := hbm.readN (tab + 8 * fld va lo bits) 8
    if fld e 0 1 = 0 || pteReserved e || decide (lv = 0) || decide (fld e 7 1 = 1) then 1
    else
      match rest with
      | [] => 1
      | (_, _, b2) :: _ =>
        match nextTable e (8 * 2 ^ b2) with
        | some t => 1 + walkReadsFrom hbm va rest t
        | none => 1

/-- The entries that a walk reads, each of them HBM traffic (R64, R346, log 53). -/
def State.walkReads (s : State) (asid va : Nat) : Nat :=
  let e := s.mem.hbm.readN (Config.asidBase + 8 * asid) 8
  if fld e 0 1 = 0 || pteReserved e || decide (fld e 7 1 = 1) then 1
  else
    match nextTable e 2048 with
    | some t => 1 + walkReadsFrom s.mem.hbm va levels t
    | none => 1

/-- The entries that a translation reads: none where a TLB serves it. -/
def State.tlbReads (s : State) (cl eng asid va : Nat) : Nat :=
  if (findTlb (s.cluster cl).tlbs eng asid va).isSome then 0 else s.walkReads asid va

/-- The energy of a walk for work of context `hw`, where there is one. -/
def State.chargeWalk (s : State) (hw : Option Nat) (asid va : Nat) : State :=
  match hw with
  | some h => s.charge (seatOf h) 12 (s.walkReads asid va)
  | none => s

/-- The energy of a walk that ends in a major fault; a fault of a page that a TLB holds has made none (level 15). -/
def State.chargeFailed (s : State) (hw asid va level : Nat) : State :=
  if level = 15 then s else s.chargeWalk (some hw) asid (va56 va)

/-- Remember the walk that served an address. -/
def State.remember (s : State) (cl eng asid va : Nat) : State :=
  match findTlb (s.cluster cl).tlbs eng asid va with
  | some _ => s
  | none =>
    match s.walk asid va with
    | .leaf pte size => s.modCl cl (fun c => { c with tlbs := fillTlb c.tlbs eng asid va pte size })
    | _ => s

/-- A failed translation: address, and refill level and entry, or cause and level. -/
inductive TrFault where
  | refill (va level entry : Nat)
  | major (va code level : Nat)
  deriving DecidableEq, Repr

/-- Translate `n` bytes from a device virtual address, page by page (R63, R73); addresses wrap at 2^56. -/
def State.translate (s : State) (cl eng asid : Nat) (write : Bool) : Nat → Nat → Nat → Except TrFault (List Piece)
  | 0, _, _ => .ok []
  | fuel + 1, va, n =>
    if n = 0 then .ok []
    else
      match s.translate1 cl eng asid (va56 va) write with
      | .refill l e => .error (.refill (va56 va) l e)
      | .major c l => .error (.major (va56 va) c l)
      | .ok pl left =>
        let k := min left n
        match State.translate s cl eng asid write fuel (va + k) (n - k) with
        | .ok r => .ok (⟨pl, k⟩ :: r)
        | .error e => .error e

/-- Pages that `n` bytes can touch. -/
def pageFuel (n : Nat) : Nat := n / 65536 + 2

/-- Remember every page of a range, for work of context `hw`. -/
def State.rememberAll (s : State) (hw : Option Nat) (cl eng asid : Nat) : Nat → Nat → Nat → State
  | 0, _, _ => s
  | fuel + 1, va, n =>
    if n = 0 then s
    else
      let s1 := if (findTlb (s.cluster cl).tlbs eng asid (va56 va)).isSome then s
        else (s.chargeWalk hw asid (va56 va)).remember cl eng asid (va56 va)
      let k := min (65536 - va % 65536) n
      State.rememberAll s1 hw cl eng asid fuel (va + k) (n - k)

/-- The TLB entries of every page of a range. -/
def State.pagesOf (s : State) (cl eng asid : Nat) : Nat → Nat → Nat → List Tlb
  | 0, _, _ => []
  | fuel + 1, va, n =>
    if n = 0 then []
    else
      let k := min (65536 - va % 65536) n
      (findTlb (s.cluster cl).tlbs eng asid (va56 va)).toList ++ State.pagesOf s cl eng asid fuel (va + k) (n - k)

/-- Some page of a range is in no TLB that serves the engine: a walk is needed (R68). -/
def State.missing (s : State) (cl eng asid : Nat) : Nat → Nat → Nat → Bool
  | 0, _, _ => false
  | fuel + 1, va, n =>
    if n = 0 then false
    else
      let k := min (65536 - va % 65536) n
      (findTlb (s.cluster cl).tlbs eng asid (va56 va)).isNone || State.missing s cl eng asid fuel (va + k) (n - k)

/-- `n` bytes of a cluster's scratchpad space (R92), or the ACCV of a byte outside it. -/
def spadPieces (cl a n : Nat) : Except TrFault (List Piece) :=
  if n = 0 then .ok []
  else if a + n ≤ 0xC000000 then .ok [⟨⟨2, cl * 2 ^ 28 + a, none⟩, n⟩]
  else .error (.major (max a 0xC000000) 8 15)

/-- The index of a scratchpad place among all scratchpad bytes. -/
def spadIndex (a : Nat) : Nat := a / 2 ^ 28 * 0xC000000 + a % 2 ^ 28

/-- The plain value of a 16-byte HBM word under a key slot; with the slot emptied since the translation the value is open and free
(log 16). -/
def State.hbmWord (s : State) (key a : Nat) : Nat :=
  let raw := s.mem.hbm.readN (a / 16 * 16) 16
  match SMap.get? s.mod.trust.keys key with
  | some k => Aes.dec k (a / 16 * 16) raw
  | none => (Config.emptyDec key (a / 16 * 16) raw).toNat

/-- The byte at a place. -/
def State.readPlace (s : State) (pl : Place) : Byte :=
  match pl.sp with
  | 0 =>
    match pl.key with
    | none => s.mem.hbm.read pl.a
    | some k => byteOf (s.hbmWord k pl.a) (pl.a % 16)
  | 1 => s.mem.host.read pl.a
  | _ => s.mem.spad.read (spadIndex pl.a)

/-- The bytes of a piece. -/
def State.readPiece (s : State) (p : Piece) : List Byte :=
  (List.range p.len).map (fun k => s.readPlace { p.pl with a := p.pl.a + k })

/-- The bytes of pieces in order. -/
def State.readPieces (s : State) (ps : List Piece) : List Byte := ps.flatMap (fun p => s.readPiece p)

/-- The place of byte `k` of pieces. -/
def placeAt : List Piece → Nat → Option Place
  | [], _ => none
  | p :: r, k => if k < p.len then some { p.pl with a := p.pl.a + k } else placeAt r (k - p.len)

/-- The pieces of bytes `k` to `k + n - 1`. -/
def slicePieces : List Piece → Nat → Nat → List Piece
  | [], _, _ => []
  | p :: r, k, n =>
    if n = 0 then []
    else if p.len ≤ k then slicePieces r (k - p.len) n
    else
      let m := min (p.len - k) n
      ⟨{ p.pl with a := p.pl.a + k }, m⟩ :: slicePieces r 0 (n - m)

/-- Two pieces share a byte. -/
def pieceMeets (p q : Piece) : Bool :=
  decide (p.pl.sp = q.pl.sp) && decide (p.pl.a < q.pl.a + q.len) && decide (q.pl.a < p.pl.a + p.len)

/-- Two lists of pieces share a byte. -/
def piecesMeet (ps qs : List Piece) : Bool := ps.any (fun p => qs.any (pieceMeets p))

end Sys2Proof.Machine
end

