-- ==== Sys2Proof/Machine/Ops.lean ====
section
/-!
DEFINITION. The shared operations over memory, queues, events and traps: one write of scratchpad bytes with its journal
and watches (R91, R214, R255 to R257), task queues (R248 to R251), event records and queue errors (R279, R280), trace
(R342, R343), waits (R209), taking a trap (R289) and returning from one (R308).
-/

namespace Sys2Proof.Machine

/-! ## Module time and event records -/

/-- Module time in nanoseconds (R354). -/
def State.ns (s : State) : Nat := s.mod.time.now / 6486480 % 2 ^ 64

/-- A window of the host's side takes effect only in a module that has it: one with an accepted firmware image (R363, log 106). -/
def State.ifOpen (s : State) (f : State → State) : State := if s.mod.trust.fwOk then f s else s

/-- Write bytes of host memory in address order. -/
def hostPut (m : Memory) (a : Nat) : List Byte → Memory
  | [] => m
  | b :: r => hostPut (m.write a b) (a + 1) r

/-- Post an event record (R280). -/
def State.postEvent (s : State) (kind queue detail arg code : Nat) : State :=
  let e := s.front.ev
  let size := 2 ^ (fld e.base.toNat 0 5)
  let raise (e : EvRing) : EvRing := { e with raised := e.raised ++ [e.vec] }
  if e.tail - e.head = size then
    { s with front := { s.front with ev := raise { e with lost := min (e.lost + 1) (2 ^ 32 - 1), ovf := true } } }
  else
    let at_ := fld e.base.toNat 5 59 * 32 + 32 * (e.tail % size)
    let rec32 := toBytes kind 2 ++ toBytes queue 2 ++ toBytes detail 4 ++ toBytes s.ns 8 ++ toBytes arg 8 ++ toBytes code 8
    { s with
      mem := { s.mem with host := hostPut s.mem.host at_ rec32 }
      front := { s.front with ev := raise { e with tail := e.tail + 1 } } }

/-- A queue error (R279): counted in QSTAT, the first one kept, and posted. -/
def State.queueErr (s : State) (q code pkt extra : Nat) : State :=
  let s1 := s.modQueue q (fun u => { u with
    count := min (u.count + 1) 0xFFFF
    first := if u.count = 0 then code else u.first
    fpkt := if u.count = 0 then pkt % 2 ^ 39 else u.fpkt })
  s1.postEvent 2 q code pkt extra

/-- The running launch of a context. -/
def State.launchOf (s : State) (hw : Nat) : Option Launch :=
  match (s.ctx hw).run.launch with
  | none => none
  | some l => s.front.launches.find? (fun x => decide (x.id = l))

/-- A queue error of the queue that launched a context. -/
def State.launchErr (s : State) (hw code extra : Nat) : State :=
  match s.launchOf hw with
  | some l => s.queueErr l.queue code l.pkt extra
  | none => s

/-! ## Asynchronous traps (R205, R291) -/

/-- A pending asynchronous trap ends a block or a WFE wait at once (R205); so does a fault of a dispatch's preload, which is
delivered before the copy goes on (R253). A context that has ended takes no trap (R309). -/
def State.raise (s : State) (hw : Nat) (a : Async) : State :=
  if (s.ctx hw).run.st = .inactive then s
  else s.modCtx hw (fun c =>
    let wake := decide (c.run.st = .blocked) || (decide (c.run.st = .waiting) && decide (c.run.stage = .wfe))
    { c with
      async := c.async ++ [a]
      run := if wake then { c.run with st := .ready, stage := .none }
        else if a.engine = 8 then { c.run with st := .ready } else c.run })

/-! ## Writes -/

/-- The context's writer mark of R256: the cluster, entry and generation of the stitch it runs. -/
def Ctx.writer (c : Ctx) : Option Writer :=
  match c.run.curRec with
  | none => none
  | some d => if fld d 32 8 = 1 then some (fld d 144 8, fld d 48 16, fld d 152 8) else none

/-- Record the old content of each line on its first write since the release (R214). -/
def journalLine (s : State) (line : Nat) : State :=
  let core := line / 0x10000
  let k := s.core core
  match k.jteam with
  | none => s
  | some team =>
    if (SMap.get? k.journal line).isSome then s
    else if k.journal.length < 4096 then
      s.setCore core { k with journal := SMap.put k.journal line (s.mem.spad.readN (line * 64) 64, 0) }
    else
      let s1 := s.setCore core { k with jfull := true }
      (List.range 4).foldl (fun s x =>
        s.modCtx (4 * core + x) (fun c => if fld c.ctl.team.toNat 0 6 = team then
          { c with ckpt := c.ckpt.map (fun q => { q with usable := false }) } else c)) s1

/-- The distinct lines of written cells. -/
def linesOf (cells : List (Nat × Byte)) : List Nat := (cells.map (fun c => c.1 / 64)).dedup

/-- Put cells into the scratchpads without any further effect (a rollback's restore, R255). -/
def State.spadRaw (s : State) (cells : List (Nat × Byte)) : State :=
  { s with mem := { s.mem with spad := cells.foldl (fun m c => m.write c.1 c.2) s.mem.spad } }

/-- Replace bytes `lo` to `lo + n - 1` of a 64-byte record. -/
def setField (d lo n v : Nat) : Nat := d - fld d (8 * lo) (8 * n) * 2 ^ (8 * lo) + v % 2 ^ (8 * n) * 2 ^ (8 * lo)

/-- Write bytes at HBM or host places; scratchpad cells are returned for the bank to apply. -/
def State.writePlace (s : State) (pl : Place) (b : Byte) : State :=
  match pl.sp with
  | 0 =>
    match pl.key with
    | none => { s with mem := { s.mem with hbm := s.mem.hbm.write pl.a b } }
    | some k =>
      let w1 := setField (s.hbmWord k pl.a) (pl.a % 16) 1 b.toNat
      let w2 := match SMap.get? s.mod.trust.keys k with
        | none => (Config.emptyEnc k (pl.a / 16 * 16) w1).toNat
        | some key => Aes.enc key (pl.a / 16 * 16) w1
      { s with mem := { s.mem with hbm := s.mem.hbm.writeN (pl.a / 16 * 16) w2 16 } }
  | 1 => { s with mem := { s.mem with host := s.mem.host.write pl.a b } }
  | _ => s

/-- The bytes of pieces, paired with their places. -/
def placeBytes : List Piece → List Byte → List (Place × Byte)
  | [], _ => []
  | p :: r, bs =>
    (List.zipWith (fun k b => ({ p.pl with a := p.pl.a + k }, b)) (List.range p.len) bs) ++ placeBytes r (bs.drop p.len)

/-! ## Task queues (R248 to R251) -/

def State.taskQ (s : State) (cl qn : Nat) : Option TaskQ :=
  if qn < 0x100 then SMap.get? (s.cluster cl).tq qn else SMap.get? s.front.baseQ qn

def State.setTaskQ (s : State) (cl qn : Nat) (q : TaskQ) : State :=
  if qn < 0x100 then s.modCl cl (fun c => { c with tq := SMap.put c.tq qn q })
  else { s with front := { s.front with baseQ := SMap.put s.front.baseQ qn q } }

/-- Outcome of a queue operation: done, no room (or no record), or a spill-engine fault (R249). -/
inductive QRes (α : Type) where
  | ok (a : α)
  | empty
  | fault (va code level : Nat)
  deriving DecidableEq, Repr

/-- The engine number of the spill engine in a cluster's TLBs. -/
def engSpill : Nat := 10

/-- The ring place of record number `k` from the oldest: hardware walks only, so a refill leaf is a fault (R249). -/
def State.ringPieces (s : State) (cl : Nat) (q : TaskQ) (k : Nat) (write : Bool) : Except (Nat × Nat × Nat) (List Piece) :=
  let asid := (s.ctx q.owner).ctl.asid.toNat
  let va := q.ring.toNat + 64 * ((q.rhead + k) % q.f)
  match s.translate cl engSpill asid write 3 va 64 with
  | .ok ps => .ok ps
  | .error (.refill va l _) => .error (va, 7, l)
  | .error (.major va c l) => .error (va, c, l)

/-- Write plain bytes of HBM or host memory (a ring). -/
def State.writeFar (s : State) (ps : List Piece) (bs : List Byte) : State :=
  (placeBytes ps bs).foldl (fun s x => s.writePlace x.1 x.2) s

/-- Move `n` of the oldest SRAM records to the newest end of the ring. -/
def State.spill (s : State) (cl : Nat) (q : TaskQ) : Nat → QRes (State × TaskQ)
  | 0 => .ok (s, q)
  | n + 1 =>
    match q.sram with
    | [] => .ok (s, q)
    | r :: rest =>
      match s.ringPieces cl q q.rids.length true with
      | .error (va, c, l) => .fault va c l
      | .ok ps => State.spill (s.writeFar ps (toBytes r.d 64)) cl { q with sram := rest, rids := q.rids ++ [r.id] } n

/-- Push a record at the newest end (R248 to R250). -/
def State.pushRec (s : State) (cl qn : Nat) (r : TRec) : QRes State :=
  match s.taskQ cl qn with
  | none => .empty
  | some q =>
    if q.sram.length < q.c then .ok (s.setTaskQ cl qn { q with sram := q.sram ++ [r] })
    else if qn < 0x100 ∧ q.c / 4 ≤ q.f - q.rids.length ∧ 0 < q.f then
      match s.spill cl q (q.c / 4) with
      | .ok (s1, q1) => .ok (s1.setTaskQ cl qn { q1 with sram := q1.sram ++ [r] })
      | .empty => .empty
      | .fault va c l => .fault va c l
    else .empty

/-- Push a resume record at the oldest end (R253): in the ring when it holds records, else below the SRAM part. -/
def State.pushOldest (s : State) (cl qn : Nat) (r : TRec) : QRes State :=
  match s.taskQ cl qn with
  | none => .empty
  | some q =>
    if q.rids.isEmpty ∧ q.sram.length < q.c then .ok (s.setTaskQ cl qn { q with sram := r :: q.sram })
    else if qn < 0x100 ∧ q.rids.length < q.f then
      let q1 := { q with rhead := (q.rhead + q.f - 1) % q.f }
      match s.ringPieces cl q1 0 true with
      | .error (va, c, l) => .fault va c l
      | .ok ps => .ok ((s.writeFar ps (toBytes r.d 64)).setTaskQ cl qn { q1 with rids := r.id :: q1.rids })
    else .empty

/-- A pending watch entry whose record has been taken becomes armed (R258). -/
def Cluster.recTaken (c : Cluster) (id : Nat) : Cluster :=
  { c with watch := c.watch.map (fun x =>
      if x.2.st = 2 ∧ x.2.pendId = id then (x.1, { x.2 with st := 1, pendId := 0 }) else x) }

/-- A trigger of a pending entry changes its record (R256). -/
def coalesce (a g d : Nat) : Nat :=
  setField (setField (setField d 20 4 (fld d 160 32 + 1)) 32 8 a) 19 1 (max (fld d 152 8) g)

/-- A record read from the ring, with the triggers that have yet to reach it. -/
def TaskQ.edited (q : TaskQ) (id d : Nat) : Nat :=
  (q.edits.filter (fun e => decide (e.1 = id))).foldl (fun d e => coalesce e.2.1 e.2.2 d) d

/-- Take a record: the newest for the owner, the oldest for a thief (R248, R249). -/
def State.takeRec (s : State) (cl qn : Nat) (newest : Bool) : QRes (TRec × State) :=
  match s.taskQ cl qn with
  | none => .empty
  | some q =>
    let done (r : TRec) (q : TaskQ) : QRes (TRec × State) :=
      .ok (r, { (s.setTaskQ cl qn q) with clusters := (s.setTaskQ cl qn q).clusters.map (fun c => (c.1, c.2.recTaken r.id)) })
    let fromRing (k : Nat) (q2 : TaskQ) : QRes (TRec × State) :=
      match s.ringPieces cl q k false with
      | .error (va, c, l) => .fault va c l
      | .ok ps =>
        let id := q.rids.getD k 0
        done ⟨id, q.edited id (ofBytes (s.readPieces ps))⟩ { q2 with edits := q2.edits.filter (fun e => decide (e.1 ≠ id)) }
    if newest then
      match q.sram.getLast? with
      | some r => done r { q with sram := q.sram.dropLast }
      | none =>
        if q.rids.isEmpty then .empty else fromRing (q.rids.length - 1) { q with rids := q.rids.dropLast }
    else
      match q.rids with
      | _ :: rest => fromRing 0 { q with rids := rest, rhead := (q.rhead + 1) % q.f }
      | [] =>
        match q.sram with
        | r :: rest => done r { q with sram := rest }
        | [] => .empty

/-- Pushes to a queue that wait for room, by record number: in arrival order their numbers rise (R248, R256). -/
def State.waitingIds (s : State) (cl qn : Nat) : List Nat :=
  let held (c : Cluster) : List Nat := c.watch.filterMap (fun x => match x.2.held with
    | some r => if fld r.d 128 16 = qn then some r.id else none
    | none => none)
  if qn < 0x100 then
    ((s.cluster cl).waits.filter (fun w => decide (w.1 = qn))).map (fun w => w.2.r.id) ++ held (s.cluster cl)
  else (s.front.baseWaits.filter (fun w => decide (w.1 = qn))).map (fun w => w.2.r.id) ++
    s.clusters.flatMap (fun c => held c.2)

/-- Push a record unless an earlier push to the queue still waits. -/
def State.pushInTurn (s : State) (cl qn : Nat) (r : TRec) : QRes State :=
  if (s.waitingIds cl qn).any (fun i => decide (i < r.id)) then .empty else s.pushRec cl qn r

/-- A trigger of a pending entry coalesces into its record wherever that lies in a queue. Where a page of the ring does not translate
it joins the record at its take, and every later one after it: no trigger is lost, and the last address is the latest one's (R256,
log 41). -/
def State.editRec (s : State) (cl qn id a g : Nat) : State :=
  match s.taskQ cl qn with
  | none => s
  | some q =>
    match findIdx (fun x => decide (x = id)) q.rids with
    | some k =>
      let later := s.setTaskQ cl qn { q with edits := q.edits ++ [(id, a, g)] }
      if q.edits.any (fun e => decide (e.1 = id)) then later
      else
        match s.ringPieces cl q k true with
        | .ok ps => s.writeFar ps (toBytes (coalesce a g (ofBytes (s.readPieces ps))) 64)
        | .error _ => later
    | none => s.setTaskQ cl qn { q with sram := q.sram.map (fun r => if r.id = id then { r with d := coalesce a g r.d } else r) }

/-! ## Energy of engine traffic (R346, R347) -/

/-- The lines of scratchpad pieces, and 64-byte units of HBM pieces (R346, codes 10 and 12). -/
def spadLines (ps : List Piece) : List Nat :=
  (ps.filter (fun p => decide (p.pl.sp = 2))).flatMap (fun p =>
    (List.range ((p.pl.a % 64 + p.len + 63) / 64)).map (fun k => spadIndex p.pl.a / 64 + k))
def hbmUnits (ps : List Piece) : Nat :=
  (ps.filter (fun p => decide (p.pl.sp = 0))).foldl (fun n p => n + (p.len + 63) / 64) 0

/-- Lines that an agent of a context accesses: those of another core are charged to that core's bank (R347). -/
def State.chargeLines (s : State) (hw : Nat) (ls : List Nat) : State :=
  let far := ls.filter (fun l => decide (l / 0x10000 ≠ coreOf hw))
  far.foldl (fun s l => s.chargeCore (l / 0x10000) 10 1) (s.charge (seatOf hw) 10 (ls.length - far.length))

/-- Energy of engine traffic over pieces. -/
def State.chargePieces (s : State) (hw : Nat) (ps : List Piece) : State :=
  (s.chargeLines hw (spadLines ps)).charge (seatOf hw) 12 (hbmUnits ps)

/-- The records of a queue's ring that have moved between two states are HBM traffic of a context, each with its walk (R249, log 53). -/
def State.chargeRing (t s : State) (cl qn hw : Nat) : State :=
  match s.taskQ cl qn with
  | none => t
  | some q =>
    let n (s : State) : Nat := ((s.taskQ cl qn).map (fun q => q.rids.length)).getD 0
    t.charge (seatOf hw) 12 (((n t - n s) + (n s - n t)) * (1 + s.tlbReads cl engSpill (s.ctx q.owner).ctl.asid.toNat (va56 q.ring.toNat)))

/-- The owner of a queue. -/
def State.queueOwner (s : State) (cl qn : Nat) : Nat := ((s.taskQ cl qn).map (fun q => q.owner)).getD 0

/-! ## Watches (R254 to R258) -/

/-- Field positions of a task record (R247), in bits. -/
def recCounter (d : Nat) : Nat := fld d 64 32
def recCcl (d : Nat) : Nat := fld d 144 8
def recQueue (d : Nat) : Nat := fld d 128 16

/-- R257: the entry is disarmed; its arming context traps, at its resume where it has been saved, or its launch's queue records the
error. -/
def State.disarm (s : State) (cl e : Nat) (w : Watch) : State :=
  let s1 := s.modCl cl (fun c => { c with watch := SMap.put c.watch e { w with st := 3 } })
  let a : Async := ⟨13, BitVec.ofNat 64 e, e % 256, 9, 15, 15, false, false⟩
  match w.saved with
  | some key =>
    match SMap.get? s1.front.hidden key with
    | some h => { s1 with front := { s1.front with hidden := SMap.put s1.front.hidden key { h with async := h.async ++ [a] } } }
    | none => s1
  | none =>
    match s.front.launches.find? (fun l => decide (l.id = w.launch)) with
    | none => s1
    | some l => if l.ended.contains w.armer then s1.queueErr l.queue 12 l.pkt e else s1.raise w.armer a

/-- The watch entries whose arming context `p` picks out have it saved, or resumed, as `f` says (R257). -/
def State.modArmed (s : State) (p : Watch → Bool) (f : Watch → Watch) : State :=
  { s with clusters := s.clusters.map (fun c => (c.1, { c.2 with
    watch := c.2.watch.map (fun x => if p x.2 then (x.1, f x.2) else x) })) }

/-- The watch entries that a write changes, with the lowest changed address in their range (R247, R255). -/
def triggered (c : Cluster) (changed : List Nat) (skip : Option Nat) : List (Nat × Nat) :=
  c.watch.filterMap (fun x =>
    let w := x.2
    if (w.st = 1 ∨ w.st = 2) ∧ skip ≠ some x.1 then
      let inside := changed.filter (fun a => decide (w.base ≤ a) && decide (a < w.base + 2 ^ w.lg))
      match inside with
      | [] => none
      | a :: r => some (x.1, r.foldl min a)
    else none)

/-- The watch counts belong to window `w`: at the start of a window they restart (R257). -/
def Cluster.roll (c : Cluster) (w : Nat) : Cluster :=
  if c.win = w then c else { c with win := w, watch := c.watch.map (fun x => (x.1, { x.2 with count := 0 })) }
def State.rollWatch (s : State) (cl : Nat) : State := s.modCl cl (fun c => c.roll (s.mod.cycles / 1024))

/-- The record that a trigger of an armed entry creates: from the template, with address `a` and generation `g` (R256). -/
def newRec (tmpl cl e a g : Nat) : Nat :=
  setField (setField (setField (setField (setField (setField (setField tmpl 4 1 1) 6 2 e) 20 4 1) 24 8 a) 32 8 a) 19 1 g) 18 1 cl

/-- Add 1 to the counter of a record that is being created. -/
def countNew (again : State → List (Nat × Byte) → Nat × Nat → State) (cl e d : Nat) (s : State) : State :=
  if recCounter d = 0xFFFFFFFF then s
  else
    let ca := cl * 0xC000000 + recCounter d
    again s (List.zipWith (fun k b => (ca + k, b)) (List.range 8) (toBytes (s.mem.spad.readN ca 8 + 1) 8)) (cl, e)

/-- A pending trap is raised once. -/
def State.raiseOnce (s : State) (hw : Nat) (a : Async) : State :=
  if (s.ctx hw).async.contains a then s else s.raise hw a

/-- A fault of a ring at a push that a watch entry makes goes to the queue's owner (R249, log 41). -/
def State.ringFault (s : State) (cl qn va code level : Nat) : State :=
  match s.taskQ cl qn with
  | some q => s.raiseOnce q.owner ⟨code, BitVec.ofNat 64 va, 0, engSpill, level, 15, true, false⟩
  | none => s

/-- Push the record of an entry, which holds it where there is no room or the ring faults. -/
def pushNew (cl e d : Nat) (w : Watch) (s : State) : State :=
  let f := s.fresh
  let r : TRec := ⟨f.1, d⟩
  match (f.2.modCl cl (fun c => { c with watch := SMap.put c.watch e { w with pendId := f.1, held := none } })).pushInTurn cl
      (recQueue w.tmpl) r with
  | .ok s1 => s1.chargeRing f.2 cl (recQueue w.tmpl) (f.2.queueOwner cl (recQueue w.tmpl))
  | .empty => f.2.modCl cl (fun c => { c with watch := SMap.put c.watch e { w with pendId := f.1, held := some r } })
  | .fault va code l =>
    (f.2.modCl cl (fun c => { c with watch := SMap.put c.watch e { w with pendId := f.1, held := some r } })).ringFault cl
      (recQueue w.tmpl) va code l

/-- A trigger of an armed entry creates a record (R256). The entry is pending and holds the record while the counter changes,
under a number after all others, so that a trigger which that change brings about coalesces into it. -/
def fireNew (again : State → List (Nat × Byte) → Nat × Nat → State) (cl e a g : Nat) (w : Watch) (s : State) : State :=
  let d := newRec w.tmpl cl e a g
  let w2 := { w with st := 2, pendId := 0, held := some ⟨18446744073709551616, d⟩ }
  let s1 := countNew again cl e d (s.modCl cl (fun c => { c with watch := SMap.put c.watch e w2 }))
  let w3 := SMap.getD (s1.cluster cl).watch e w2
  pushNew cl e ((w3.held.map (fun x => x.d)).getD d) w3 s1

/-- One trigger of watch entry `e` at cluster address `a` (R256, R257); `again` writes a counter's bytes. -/
def fireOne (again : State → List (Nat × Byte) → Nat × Nat → State) (wr : Option Writer) (cl e a : Nat) (s0 : State) :
    State :=
  let s := s0.rollWatch cl
  match SMap.get? (s.cluster cl).watch e with
  | none => s
  | some w =>
    if w.st ≠ 1 ∧ w.st ≠ 2 then s
    else
      let g := match wr with
        | some (wc, we, gs) => if wc = cl ∧ we = e then gs + 1 else 0
        | none => 0
      let w1 := { w with count := w.count + 1 }
      if g = 9 ∨ w.limit < w1.count then s.disarm cl e w1
      else if w.st = 2 then
        match w1.held with
        | some r =>
          let w2 := { w1 with held := some { r with d := coalesce a g r.d } }
          s.modCl cl (fun c => { c with watch := SMap.put c.watch e w2 })
        | none =>
          let s3 := s.modCl cl (fun c => { c with watch := SMap.put c.watch e w1 })
          s3.editRec cl (recQueue w.tmpl) w.pendId a g
      else fireNew again cl e a g w1 s

/-- The bytes of a write that differ from what they replace. -/
def State.changedBy (s : State) (cells : List (Nat × Byte)) : List Nat :=
  (cells.map (fun c => c.1)).dedup.filter (fun a =>
    decide ((s.mem.spad.read a) ≠ (((cells.reverse.find? (fun c => decide (c.1 = a))).map (fun c => c.2)).getD blank)))

/-- The triggers of changed bytes: cluster, entry, lowest changed address in its range. -/
def State.triggersOf (s : State) (changed : List Nat) (skip : Option (Nat × Nat)) : List (Nat × Nat × Nat) :=
  ((changed.map (fun a => a / 0xC000000)).dedup).flatMap (fun cl =>
    let offs := (changed.filter (fun a => decide (a / 0xC000000 = cl))).map (fun a => a % 0xC000000)
    let sk := match skip with
      | some (c, e) => if c = cl then some e else none
      | none => none
    (triggered (s.cluster cl) offs sk).map (fun t => (cl, t.1, t.2)))

/-- Write bytes and journal the lines, with no trigger; the triggers that the write would make. -/
def State.spadQuiet (s : State) (cells : List (Nat × Byte)) (skip : Option (Nat × Nat)) : State × List (Nat × Nat × Nat) :=
  let s2 := ((linesOf cells).foldl journalLine s).spadRaw cells
  if s.clusters.all (fun c => c.2.watch.isEmpty) then (s2, []) else (s2, s.triggersOf (s.changedBy cells) skip)

/-- One write of scratchpad bytes (R91): the journal keeps the old lines, the bytes change, and each watch entry whose
range changed takes one trigger (R255 to R257). `wr` is the writer's stitch; `skip` the entry that a counter update
does not trigger (R256). The fuel bounds the chain of creations: each makes one more entry pending. -/
def State.spadWriteF (s : State) (cells : List (Nat × Byte)) (wr : Option Writer) (skip : Option (Nat × Nat)) :
    Nat → State
  | 0 => s.spadRaw cells
  | fuel + 1 =>
    let r := s.spadQuiet cells skip
    r.2.foldl (fun s t =>
      fireOne (fun s cs sk => State.spadWriteF s cs none (some sk) fuel) wr t.1 t.2.1 t.2.2 s) r.1

/-- Fire triggers that were held back while a write went on piece by piece. -/
def State.fireAll (s : State) (ts : List (Nat × Nat × Nat)) (wr : Option Writer) : State :=
  ts.foldl (fun s t => fireOne (fun s cs sk => s.spadWriteF cs none (some sk) 4096) wr t.1 t.2.1 t.2.2 s) s

/-- Join trigger lists, keeping the lowest address of an entry. -/
def joinTriggers (old new : List (Nat × Nat × Nat)) : List (Nat × Nat × Nat) :=
  new.foldl (fun l t =>
    if l.any (fun x => decide (x.1 = t.1) && decide (x.2.1 = t.2.1)) then
      l.map (fun x => if x.1 = t.1 ∧ x.2.1 = t.2.1 then (x.1, x.2.1, min x.2.2 t.2.2) else x)
    else l ++ [t]) old

/-- One write of scratchpad bytes. -/
def State.spadWrite (s : State) (cells : List (Nat × Byte)) (wr : Option Writer) : State :=
  if cells.isEmpty then s else s.spadWriteF cells wr none 4097

/-- The old values that the bytes written through the core ports in the present real cycle had, with those of `cells` (R91). -/
def State.keepOld (s : State) (cells : List (Nat × Byte)) : SMap Byte :=
  cells.foldl (fun m c => if (SMap.get? m c.1).isSome then m else SMap.put m c.1 (s.mem.spad.read c.1)) s.oldBytes

/-- One write through the core port. -/
def State.coreWrite (s : State) (cells : List (Nat × Byte)) (wr : Option Writer) : State :=
  { s with oldBytes := s.keepOld cells }.spadWrite cells wr

/-- A scratchpad byte as a port of its core reads it. -/
def State.portByte (s : State) (a : Nat) : Byte := s.mem.spad.read a

/-- The scratchpad cells of a write through the engine port: a byte that a core port writes in the same real cycle keeps the core
port's value (R91). -/
def State.engineCells (s : State) (xs : List (Place × Byte)) : List (Nat × Byte) :=
  (xs.filterMap (fun x => if 2 ≤ x.1.sp then some (spadIndex x.1.a, x.2) else none)).filter (fun c =>
    (SMap.get? s.oldBytes c.1).isNone)

/-- One write of bytes to pieces: HBM and host bytes are applied, scratchpad bytes as one write of their banks. -/
def State.writePieces (s : State) (ps : List Piece) (bs : List Byte) (wr : Option Writer) : State :=
  let xs := placeBytes ps bs
  let s1 := xs.foldl (fun s x => s.writePlace x.1 x.2) s
  s1.spadWrite (s.engineCells xs) wr

/-- Write bytes to pieces as a part of a larger write: the triggers that it would make are returned. -/
def State.writeQuiet (s : State) (ps : List Piece) (bs : List Byte) : State × List (Nat × Nat × Nat) :=
  let xs := placeBytes ps bs
  let s1 := xs.foldl (fun s x => s.writePlace x.1 x.2) s
  s1.spadQuiet (s.engineCells xs) none

/-- Write bytes to pieces by an agent whose writes R255 does not count: nothing triggers. -/
def State.writeMute (s : State) (ps : List Piece) (bs : List Byte) : State := (s.writeQuiet ps bs).1

/-- The 64-bit task counter of a cluster changes by `add` (R251). -/
def State.counterAdd (s : State) (ccl off : Nat) (add : Nat) (wr : Option Writer) : State :=
  let a := ccl * 0xC000000 + off
  s.spadWrite (List.zipWith (fun k b => (a + k, b)) (List.range 8) (toBytes (s.mem.spad.readN a 8 + add) 8)) wr

/-! ## Trace (R342, R343) -/

/-- Write a trace record when the context traces at this level. -/
def State.trace (s : State) (hw kind bundle rep : Nat) (cand : Bool) : State :=
  let c := s.ctx hw
  let on := if kind = 0 then decide (c.dbg.trace = 2) else decide (1 ≤ c.dbg.trace)
  if !on then s
  else
    let cl := clusterOf hw
    let t := (s.cluster cl).trace
    let size := 2 ^ (fld t.base.toNat 0 6)
    let lose (s : State) : State :=
      s.modCl cl (fun c => { c with trace := { c.trace with lost := min (c.trace.lost + 1) (2 ^ 64 - 1) } })
    if t.tail - t.head = size then lose s
    else
      let va := fld t.base.toNat 6 58 * 64 + 16 * (t.tail % size)
      match s.translate cl 30 0 true 2 va 16 with
      | .error _ => lose s
      | .ok ps =>
        let bs := toBytes c.run.sched 8 ++ toBytes bundle 4 ++ toBytes (coreOf hw) 2 ++
          [BitVec.ofNat 8 (hw % 4 + 4 * rep + (if cand then 128 else 0)), BitVec.ofNat 8 kind]
        (((s.writeMute ps bs).chargePieces hw ps).charge (seatOf hw) 12 (s.tlbReads cl 30 0 (va56 va))).modCl cl (fun c => { c with trace := { c.trace with tail := c.trace.tail + 1 } })

/-! ## Waits (R209) -/

/-- A context stops being its core's primary (R207). -/
def State.leavePrimary (s : State) (hw : Nat) : State :=
  s.modCore (coreOf hw) (fun k => if k.prim = some hw then { k with prim := none, lastPrim := hw % 4 } else k)

/-- The primary has been taken away between two real cycles: the next one is the switch cycle (R207). -/
def State.switchNext (t s : State) (hw : Nat) : State :=
  if (s.core (coreOf hw)).prim = some hw ∧ (t.core (coreOf hw)).prim ≠ some hw then
    t.modCore (coreOf hw) (fun k => { k with sw := true })
  else t

/-- A context that leaves its BAR bundle before the release has not arrived: it arrives anew when it meets the bundle again (R214,
log 117). -/
def State.leaveBars (s : State) (hw : Nat) : State :=
  s.modCl (clusterOf hw) (fun k => { k with bars := k.bars.map (fun x => (x.1, x.2.filter (fun m => decide (m.1 ≠ hw)))) })

/-- A cycle of a fixed wait: charged to the context; a candidate is charged nothing (R208). -/
def State.fixedWait (s : State) (hw : Nat) (cand : Bool) : State := if cand then s else s.modCtx hw Ctx.stall

/-- A cycle of an engine wait: within the slack a stall cycle, beyond it the context blocks (R209). -/
def State.engineWait (s : State) (hw : Nat) (cand : Bool) : State :=
  if cand then s
  else
    let c := s.ctx hw
    if 0 < c.run.slackRem then
      s.modCtx hw (fun c => { c with run := { c.run with slackRem := c.run.slackRem - 1 } }.stall)
    else
      let s1 := s.modCtx hw (fun c => { c with run := { c.run with st := .blocked } })
      (s1.leavePrimary hw).trace hw 4 c.frame.pos c.frame.rep cand

/-- A WFE that finds none of its conditions (R224): the primary enters the waiting state, a candidate stays ready. -/
def State.wfeWait (s : State) (hw : Nat) (cand : Bool) : State :=
  if cand then s
  else (s.modCtx hw (fun c => { c with run := { c.run with st := .waiting, stage := .wfe } })).leavePrimary hw

/-! ## Ending a context (R282, R290, R309) -/

/-- A command that acts on a sequencer slot. -/
def CmdOp.onSlot : CmdOp → Bool
  | .cplvl .. | .cpbase .. | .cpgo _ | .cpstrm _ | .cpstrmOff _ | .cpcan _ | .cpstat _ _ => true
  | _ => false

/-- A command goes on when its context has ended: it acts on no sequencer slot, and no fault has stopped it (log 24). -/
def Cmd.goesOn (c : Cmd) : Bool := !c.op.onSlot && !c.held

/-- The commands under way that are dropped when a context ends. -/
def Eng.endDrops (e : Eng) : List Nat := (e.work.filter (fun c => !c.goesOn)).map (fun c => c.id)

/-- What is left of a context's engine work when it ends: its data queue is emptied, its slots' commands and those stopped
on a fault are dropped, the others go on (log 24). -/
def Eng.ended (e : Eng) : Eng :=
  { e with
    dataQ := []
    cG := e.cG.filter Cmd.goesOn
    work := e.work.filter Cmd.goesOn
    addrQ := e.addrQ.filter (fun a => !e.endDrops.contains a.1)
    stream := []
    bound := none }

/-! ## Key loads under way (R310) -/

def State.modLoads (s : State) (f : List KeyLoad → List KeyLoad) : State :=
  { s with mod := { s.mod with trust := { s.mod.trust with loads := f s.mod.trust.loads } } }
def State.loadOf (s : State) (hw : Nat) : Option KeyLoad := s.mod.trust.loads.find? (fun l => decide (l.hw = hw))
def State.dropLoad (s : State) (hw : Nat) : State := s.modLoads (fun l => l.filter (fun x => decide (x.hw ≠ hw)))

/-! ## Zero-length reads under way (R228) -/

def State.modPings (s : State) (f : List (Nat × List Nat) → List (Nat × List Nat)) : State :=
  { s with front := { s.front with pings := f s.front.pings } }
def State.pingsOf (s : State) (hw : Nat) : Option (List Nat) := (s.front.pings.find? (fun x => decide (x.1 = hw))).map (fun x => x.2)
def State.dropPings (s : State) (hw : Nat) : State := s.modPings (fun l => l.filter (fun x => decide (x.1 ≠ hw)))

/-- A bundle that waits for a key load or for zero-length reads is left: it asks anew when it issues again. -/
def State.dropAsks (s : State) (hw : Nat) : State := (s.dropLoad hw).dropPings hw

/-- The PCIe links that writes of a context have used (R228, log 107). -/
def State.sentHost (s : State) (hw : Nat) (ps : List Piece) : State :=
  let ls := (ps.filter (fun p => decide (p.pl.sp = 1))).map (fun p => Config.hostLink p.pl.a % 2)
  if ls.isEmpty then s
  else s.modCtx hw (fun c => { c with eng := { c.eng with hostLinks := (ls ++ c.eng.hostLinks).dedup } })

/-- A major fault has stopped the writing that a job belongs to (R326): it waits for its context's ERET, both slots of it. -/
def Core.stoppedJob (k : Core) (j : ImgJob) : Bool :=
  k.imgs.any (fun x => decide (x.hw = j.hw) && decide (x.grp = j.grp) && x.held)

/-- The pushes of dropped commands of a context wait no longer (R249). -/
def State.dropPushes (s : State) (hw : Nat) (ids : List Nat) : State :=
  let keep (w : Nat × PushWait) : Bool := !(decide (w.2.hw = hw) && ids.contains w.2.cmd)
  let s1 := s.modCl (clusterOf hw) (fun c => { c with waits := c.waits.filter keep })
  { s1 with front := { s1.front with baseWaits := s1.front.baseWaits.filter keep } }

/-- A context ends: it is inactive, its results and pending traps are discarded, its sequencer slots are freed (R76),
and its launch counts it as ended. -/
def State.endContext (s : State) (hw : Nat) : State :=
  let c := s.ctx hw
  let cl := clusterOf hw
  let s0 := s.dropPushes hw c.eng.endDrops
  let s1 := s0.setCtx hw { c with
    pend := Pending.none
    async := []
    soon := []
    eng := c.eng.ended
    run := { c.run with st := .inactive, stage := .none, trap := false }
    ckpt := none }
  let s2 := (s1.dropAsks hw).leavePrimary hw
  let s3 := s2.modCl cl (fun k => { k with slots := k.slots.map (fun x =>
    if x.2.owner = hw then (x.1, { x.2 with
      act := none, wait := none, st := 0, fault := false, walk := false, ferr := [], cans := [] }) else x) })
  let s4 := s3.modCore (coreOf hw) (fun k => { k with
    prods := k.prods.map (fun p => if p.hw = hw then { p with orphan := true } else p)
    past := k.past.filter (fun p => decide (p.hw ≠ hw))
    xfers := k.xfers.map (fun x => if x.hw = hw then { x with orphan := true } else x)
    resumes := k.resumes.filter (fun r => decide (r.hw ≠ hw))
    imgs := k.imgs.filter (fun j => decide (j.hw ≠ hw) || !k.stoppedJob j) })
  { s4 with front := { s4.front with launches := s4.front.launches.map (fun l =>
      if some l.id = c.run.launch then { l with ended := hw :: l.ended } else l) } }

/-! ## Taking a trap (R289) and returning from one (R308) -/

/-- What a trap writes (R291 to R293). -/
structure TrapInfo where
  code : Nat
  addr : Word
  detail : Nat
  engine : Nat
  level : Nat
  slot : Nat
  async : Bool
  major : Bool
  esc : Bool
  deriving DecidableEq, Repr

/-- A synchronous trap of a slot: no detail, no engine, no walk. -/
def syncTrap (code : Nat) (addr : Word) (slot : Nat) : TrapInfo := ⟨code, addr, 0, 0, 15, slot, false, false, false⟩

/-- TCAUSE (R292). -/
def TrapInfo.tcause (t : TrapInfo) : Word :=
  BitVec.ofNat 64 (t.code + t.esc.toNat * 32 + t.major.toNat * 64 + t.async.toNat * 128)

/-- TINFO (R293). -/
def TrapInfo.tinfo (t : TrapInfo) (rep : Nat) : Word :=
  BitVec.ofNat 64 (t.detail % 256 * 2 ^ 24 + t.engine % 16 * 2 ^ 20 + t.level % 16 * 2 ^ 16 + rep % 32 * 2 ^ 11 +
    t.slot % 16 * 2 ^ 4)

/-- Freeze results at a trap (R289, step 3): `land` becomes the schedule cycles that remain. -/
def freezeVal (sched : Nat) (p : Pend) : Pend := { p with land := p.land - sched }
def freezeFlg (sched : Nat) (p : FPend) : FPend := { p with land := p.land - sched }
/-- Release them again (R298). -/
def thawVal (sched : Nat) (p : Pend) : Pend := { p with land := sched + p.land }
def thawFlg (sched : Nat) (p : FPend) : FPend := { p with land := sched + p.land }

/-- Trap entry of R289 for a context outside trap mode: the frame is saved, the trap registers are written, results
after TCYCLE are frozen, latches go idle, the branch state is free, a new stop group begins, and the routine at TVEC
is next. `tb` is TBUNDLE. Step 4, the cut of a major fault, is the caller's. -/
def Ctx.enterTrap (c : Ctx) (t : TrapInfo) (tb : Nat) : Ctx :=
  { c with
    tframe := { c.frame with flgNow := c.fmt.flgNow }
    frame := ⟨c.ctl.tvec.toNat % 2 ^ 32, 0, Branch.free, [], 0, false, 0⟩
    ctl := { c.ctl with
      tcause := t.tcause
      tbundle := BitVec.ofNat 64 tb
      tcycle := BitVec.ofNat 64 c.run.sched
      taddr := t.addr
      tinfo := t.tinfo c.frame.rep }
    pend := ⟨[], [], c.pend.val.map (freezeVal c.run.sched), c.pend.flg.map (freezeFlg c.run.sched)⟩
    run := { c.run with
      st := .ready
      stage := .none
      trap := true
      phase := 1
      window := 0
      pre := match c.run.stage with
        | .preload k => some k
        | _ => none } }

/-- A context takes a trap (R289). A synchronous trap in trap mode ends the context, as HALT does, with queue error
0x80 + cause code (R290). The primary leaves the ready state by it (R207); what an MRESUME has read for its
bundle is dropped, and an arrival at a barrier is withdrawn. -/
def State.takeTrap (s : State) (hw : Nat) (t : TrapInfo) (tb : Nat) : State :=
  let c := s.ctx hw
  if c.run.trap && !t.async then (s.launchErr hw (0x80 + t.code) 0).endContext hw
  else
    let s1 := s.setCtx hw (c.enterTrap t tb)
    let s2 := ((s1.dropAsks hw).leaveBars hw).modCore (coreOf hw) (fun k => { k with
      xfers := k.xfers.map (fun x => if x.hw = hw then { x with frozen := true } else x)
      resumes := k.resumes.filter (fun x => decide (x.hw ≠ hw)) })
    (s2.leavePrimary hw).trace hw 2 tb c.frame.rep s.cur.cand

/-! ## Performing a syllable -/

/-- The context has system privilege (R288). -/
def Ctx.privileged (c : Ctx) : Bool := c.run.priv || c.run.trap

/-- PRIV for a context without system privilege (R36). -/
def Ctx.privChk (c : Ctx) : Option Chk := if c.privileged then none else some ⟨10, 0, 0⟩

/-- The cursor says how the syllable met its bundle. -/
def State.met (s : State) (v : Verdict) : State := { s with cur := { s.cur with verdict := v } }

/-- The trap of a failed check of the syllable that stands in the cursor. -/
def State.chkTrap (s : State) (k : Chk) : State :=
  s.takeTrap s.cur.hw { syncTrap k.code k.addr s.cur.slot with detail := k.detail } s.cur.bundle

/-- A syllable performs: a decode fault that depends on the machine's mode traps whatever the guard says (R36 to R38); a
guard that does not hold nullifies it (R27); then its wait, its issue check, and its effect. When the whole bundle has
passed these and commits, the effect alone. -/
def State.perform (s : State) (mode : Option Chk) (on : Bool) (wait : Option Wait) (chk : Option Chk)
    (eff : State → State) : Out :=
  if s.cur.go then .next (if on then eff s else s)
  else match mode with
  | some k => .next ((s.met (.mode k)).chkTrap k)
  | none =>
    if on then
      match wait with
      | some .fixed => .next ((s.met (.wait .fixed)).fixedWait s.cur.hw s.cur.cand)
      | some .engine => .next ((s.met (.wait .engine)).engineWait s.cur.hw s.cur.cand)
      | some .wfe => .next ((s.met (.wait .wfe)).wfeWait s.cur.hw s.cur.cand)
      | none =>
        match chk with
        | some k => .next ((s.met (.chk k)).chkTrap k)
        | none => .next (eff s)
    else .next s

/-- A slot's latch becomes idle (R10, R25). -/
def Ctx.emptyLatch (c : Ctx) (slot : Nat) : Ctx :=
  { c with frame := { c.frame with latches := SMap.del c.frame.latches slot } }

/-! ## The own scratchpad through the core port (R88, R91, R93) -/

/-- A byte of an access lies at 0x40_0000 or above (R93): the first such byte of the bundle in template order sets
SPFAULT and its address. -/
def State.noteSp (s : State) (a : Word) : State :=
  let c := s.me
  if c.fmt.spSet && !(decide (s.cur.slot + 1 < s.cur.spSlot)) then s
  else
    { s.modCtx s.cur.hw (fun c => { c with fmt := { c.fmt with spSet := true, spAddr := a } }) with
      cur := { s.cur with spSlot := s.cur.slot + 1 } }

/-- A byte of the own scratchpad as an access reads it: zero out of range. -/
def State.ownByte (s : State) (core a : Nat) : Byte :=
  if a < Config.spadBytes then s.portByte (core * Config.spadBytes + a) else 0

/-- Store bytes at offsets of the own scratchpad: those out of range are dropped. -/
def State.ownStore (s : State) (cells : List (Nat × Byte)) : State :=
  s.coreWrite ((cells.filter (fun c => decide (c.1 < Config.spadBytes))).map
    (fun c => (s.myCore * Config.spadBytes + c.1, c.2))) s.me.writer

/-- A result of the bundle that holds ERET whose destination is a name of the trap bank reaches the bank (log 18). -/
def bankResult (c : Ctx) (p : Pend) : Ctx :=
  match p.dest with
  | .s n => if inBank true n then { c with bank := SMap.put c.bank n (BitVec.ofNat 64 p.val.toNat) } else c
  | _ => c

/-- Its flags still land with it. -/
def bankFlags (p : Pend) : FPend := ⟨p.flags, p.land, p.fin, 0, false⟩

/-- Return from a trap (R308, steps 1 to 5): counter, frame and names s56 to s61 as the trap saved them, frozen
results released at their remaining cycles (R298). Results of ERET's own bundle keep their remaining cycles (log 18). -/
def Ctx.trapReturn (c : Ctx) : Ctx :=
  let n := c.ctl.tcycle.toNat
  let toBank (p : Pend) : Bool := match p.dest with
    | .s k => inBank true k
    | _ => false
  let own := c.pend.val.map (fun p => { p with land := n + (p.land - c.run.sched) })
  let ownF := c.pend.flg.map (fun p => { p with land := n + (p.land - c.run.sched) })
  let c0 := (own.filter toBank).foldl bankResult c
  let c1 := { c0 with
    frame := c.tframe
    fmt := { c.fmt with flgNow := c.fmt.flg &&& c.tframe.flgNow }
    pend := ⟨c.pend.frozenVal.map (thawVal n) ++ own.filter (fun p => !toBank p),
      c.pend.frozenFlg.map (thawFlg n) ++ ownF ++
        (own.filter toBank).map bankFlags, [], []⟩
    run := { c.run with
      sched := n
      trap := false
      phase := 1
      window := 0
      pre := none
      st := if c.run.pre.isSome && !c.async.any (fun a => decide (a.engine = 8)) then .waiting else c.run.st
      stage := match c.run.pre with
        | some k => .preload k
        | none => c.run.stage } }
  c1.land

end Sys2Proof.Machine
end

