-- ==== Sys2Proof/Machine/Scalar.lean ====
section
/-!
DEFINITION. The X and Y slots (R110 to R123): integer arithmetic, division, conditions, bit fields, scalar loads and
stores, control registers.
-/

namespace Sys2Proof.Machine

/-! ## Shapes -/

/-- An X or Y operation whose guard holds (R346, code 1). -/
def State.xy (s : State) (g : Nat) (eff : State → State) : Out :=
  s.perform none (s.me.guardN g) none none (fun s => (eff s).charge s.cur.hw 1 1)

/-- d := f A B for format N-R (R113, R114). -/
def aluR (o : NR) (f : Word → Word → Word) (lat : Nat) (s : State) : Out :=
  s.xy o.g (fun s => s.pushS o.d (f (s.me.sreg o.a) (s.me.src o.b)) 0 lat)

/-- d := f A for format N-R without operand b. -/
def aluU (o : N2) (f : Word → Word) (s : State) : Out :=
  s.xy o.g (fun s => s.pushS o.d (f (s.me.sreg o.a)) 0 1)

/-- d := f A B for format N-I with a sign-extended immediate. -/
def aluI (o : NI) (f : Word → Word → Word) (s : State) : Out :=
  s.xy o.g (fun s => s.pushS o.d (f (s.me.sreg o.a) (immS o.b)) 0 1)

/-- As `aluI`, a literal zero-extended (ORI, XORI). -/
def aluZ (o : NI) (f : Word → Word → Word) (s : State) : Out :=
  s.xy o.g (fun s => s.pushS o.d (f (s.me.sreg o.a) (immZ o.b)) 0 1)

/-- A division: latency 12; a zero divisor raises dz at the landing (R112, R115). -/
def divR (o : NR) (f : Word → Word → Word) (s : State) : Out :=
  s.xy o.g (fun s =>
    let b := s.me.src o.b
    s.pushS o.d (f (s.me.sreg o.a) b) (if b = 0 then 0x08#6 else 0) 12)

/-! ## Values -/

def bool64 (b : Bool) : Word := if b then 1 else 0

def shlW (a b : Word) : Word := a <<< (b.toNat % 64)
def shrW (a b : Word) : Word := a >>> (b.toNat % 64)
def sraW (a b : Word) : Word := a.sshiftRight (b.toNat % 64)

/-- Leading zero bits; 64 for zero. -/
def clzW (a : Word) : Word := BitVec.ofNat 64 (if a = 0 then 64 else 63 - Nat.log2 a.toNat)
/-- Number of 1 bits. -/
def popcW (a : Word) : Word := BitVec.ofNat 64 ((List.range 64).filter (fun k => a.getLsbD k)).length

def mulhW (a b : Word) : Word := BitVec.ofNat 64 (a.toNat * b.toNat / 2 ^ 64)
def mulhsW (a b : Word) : Word := BitVec.ofInt 64 (a.toInt * b.toInt / 2 ^ 64)

/-- R115: all ones for a zero divisor; the signed overflow wraps. -/
def divW (a b : Word) : Word := if b = 0 then -1 else BitVec.ofNat 64 (a.toNat / b.toNat)
def divsW (a b : Word) : Word := if b = 0 then -1 else BitVec.ofInt 64 (a.toInt.tdiv b.toInt)
def remW (a b : Word) : Word := if b = 0 then a else BitVec.ofNat 64 (a.toNat % b.toNat)
def remsW (a b : Word) : Word := if b = 0 then a else BitVec.ofInt 64 (a.toInt.tmod b.toInt)

/-- The tests of CMPC (R116). -/
def ccmpW (cc : CCmp) (a b : Word) : Bool :=
  match cc with
  | .eq => a == b
  | .ne => a != b
  | .lt => decide (a.toInt < b.toInt)
  | .ge => decide (b.toInt ≤ a.toInt)
  | .ltu => decide (a.toNat < b.toNat)
  | .geu => decide (b.toNat ≤ a.toNat)
  | .tst => (a &&& b) != 0
  | .ntst => (a &&& b) == 0

/-- BFX (R117). -/
def bfxW (a : Word) (pos len : Nat) : Word := BitVec.ofNat 64 (a.toNat / 2 ^ pos % 2 ^ len)
/-- BFI (R117): bits that would pass 63 are dropped. -/
def bfiW (old a : Word) (pos len : Nat) : Word :=
  let f := 2 ^ len - 1
  let m : Word := BitVec.ofNat 64 (f * 2 ^ pos)
  (old &&& ~~~m) ||| (BitVec.ofNat 64 (a.toNat % 2 ^ len * 2 ^ pos) &&& m)

/-! ## Integer and logical (R114) -/

def execAdd (o : NR) (s : State) : Out := aluR o (fun a b => a + b) 1 s
def execSub (o : NR) (s : State) : Out := aluR o (fun a b => a - b) 1 s
def execAnd (o : NR) (s : State) : Out := aluR o (fun a b => a &&& b) 1 s
def execOr (o : NR) (s : State) : Out := aluR o (fun a b => a ||| b) 1 s
def execXor (o : NR) (s : State) : Out := aluR o (fun a b => a ^^^ b) 1 s
def execAddsh (o : NR) (sh : Nat) (s : State) : Out := aluR o (fun a b => a + (b <<< sh)) 1 s
def execMov (o : N2) (s : State) : Out := aluU o (fun a => a) s
def execAddi (o : NI) (s : State) : Out := aluI o (fun a b => a + b) s
def execLi (o : NL) (s : State) : Out := s.xy o.g (fun s => s.pushS o.d (immS o.b) 0 1)
def execAndi (o : NI) (s : State) : Out := aluI o (fun a b => a &&& b) s
def execOri (o : NI) (s : State) : Out := aluZ o (fun a b => a ||| b) s
def execXori (o : NI) (s : State) : Out := aluZ o (fun a b => a ^^^ b) s
def execSlti (o : NI) (s : State) : Out := aluI o (fun a b => bool64 (decide (a.toInt < b.toInt))) s
def execShl (o : NR) (s : State) : Out := aluR o shlW 1 s
def execShr (o : NR) (s : State) : Out := aluR o shrW 1 s
def execSra (o : NR) (s : State) : Out := aluR o sraW 1 s
def execShli (o : NI) (s : State) : Out := aluI o shlW s
def execShri (o : NI) (s : State) : Out := aluI o shrW s
def execSrai (o : NI) (s : State) : Out := aluI o sraW s
def execClz (o : N2) (s : State) : Out := aluU o clzW s
def execPopc (o : N2) (s : State) : Out := aluU o popcW s
def execMin (o : NR) (s : State) : Out := aluR o (fun a b => if a.toNat < b.toNat then a else b) 1 s
def execMax (o : NR) (s : State) : Out := aluR o (fun a b => if a.toNat < b.toNat then b else a) 1 s
def execMins (o : NR) (s : State) : Out := aluR o (fun a b => if a.toInt < b.toInt then a else b) 1 s
def execMaxs (o : NR) (s : State) : Out := aluR o (fun a b => if a.toInt < b.toInt then b else a) 1 s
def execSlt (o : NR) (s : State) : Out := aluR o (fun a b => bool64 (decide (a.toNat < b.toNat))) 1 s
def execSlts (o : NR) (s : State) : Out := aluR o (fun a b => bool64 (decide (a.toInt < b.toInt))) 1 s
def execSeq (o : NR) (s : State) : Out := aluR o (fun a b => bool64 (a == b)) 1 s
def execSel (o : NR) (c : Nat) (neg : Bool) (s : State) : Out :=
  let t := xor (s.me.creg c) neg
  aluR o (fun a b => if t then a else b) 1 s

/-! ## Multiply and divide (R115) -/

def execMul (o : NR) (s : State) : Out := aluR o (fun a b => a * b) 3 s
def execMulh (o : NR) (s : State) : Out := aluR o mulhW 3 s
def execMulhs (o : NR) (s : State) : Out := aluR o mulhsW 3 s
def execDiv (o : NR) (s : State) : Out := divR o divW s
def execDivs (o : NR) (s : State) : Out := divR o divsW s
def execRem (o : NR) (s : State) : Out := divR o remW s
def execRems (o : NR) (s : State) : Out := divR o remsW s

/-! ## Conditions and bit fields (R116, R117) -/

def execCmpc (o : NR) (cc : CCmp) (s : State) : Out :=
  s.xy o.g (fun s => s.pushC o.d (ccmpW cc (s.me.sreg o.a) (s.me.src o.b)) 1)
def execBfx (o : NBit) (s : State) : Out := s.xy o.g (fun s => s.pushS o.d (bfxW (s.me.sreg o.a) o.pos o.len) 0 1)
def execBfi (o : NBit) (s : State) : Out :=
  s.xy o.g (fun s => s.pushS o.d (bfiW (s.me.sreg o.d) (s.me.sreg o.a) o.pos o.len) 0 1)

/-! ## Control registers (R120) -/

/-- The registers whose MTC is privileged (R121): 0x000 to 0x007 and 0x009. -/
def ctlPriv (num : Nat) : Bool := decide (num ≤ 7) || decide (num = 9)

def execMfc (o : NCtl) (s : State) : Out := s.xy o.g (fun s => s.pushS o.r (s.ctlRead s.cur.hw o.num) 0 1)
def execMtc (o : NCtl) (s : State) : Out :=
  s.perform (if ctlPriv o.num then s.me.privChk else none) (s.me.guardN o.g) none none
    (fun s => (s.modCtx s.cur.hw (fun c => c.ctlWrite o.num (c.sreg o.r))).charge s.cur.hw 1 1)

/-! ## Loads and stores (R119) -/

/-- ALIGN at a misaligned address. -/
def alignChk (a : Word) (size : Nat) : Option Chk := if a.toNat % size = 0 then none else some ⟨9, a, 0⟩

/-- The lines of the core port that a scalar access uses. -/
def Ctx.scalarLines (c : Ctx) (o : NI) : List Nat :=
  if c.guardN o.g && decide ((c.ea o).toNat < Config.spadBytes) then [(c.ea o).toNat / 64] else []

/-- A scalar access charges an operation and its line (R346). -/
def State.chargeAccess (s : State) (a : Word) : State :=
  (s.charge s.cur.hw 1 1).charge s.cur.hw 5 (if a.toNat < Config.spadBytes then 1 else 0)

/-- A load of `size` bytes, extended by `ext`: read at issue, landing after 5 schedule cycles. -/
def loadX (o : NI) (size : Nat) (ext : Nat → Word) (s : State) : Out :=
  let a := s.me.ea o
  s.perform none (s.me.guardN o.g) none (alignChk a size) (fun s =>
    let bytes := (List.range size).map (fun k => s.ownByte s.myCore (a.toNat + k))
    let s1 := if a.toNat < Config.spadBytes then s else s.noteSp a
    (s1.pushS o.d (ext (ofBytes bytes)) 0 5).chargeAccess a)

/-- A store of the low `size` bytes of s[d]. -/
def storeX (o : NI) (size : Nat) (s : State) : Out :=
  let a := s.me.ea o
  s.perform none (s.me.guardN o.g) none (alignChk a size) (fun s =>
    let s1 := if a.toNat < Config.spadBytes then s else s.noteSp a
    (s1.ownStore (List.zipWith (fun k b => (a.toNat + k, b)) (List.range size)
      (toBytes (s.me.sreg o.d).toNat size))).chargeAccess a)

def zext (v : Nat) : Word := BitVec.ofNat 64 v
def sextW (bits v : Nat) : Word := BitVec.ofInt 64 (signed bits v)

def execLdb (o : NI) (s : State) : Out := loadX o 1 zext s
def execLdbs (o : NI) (s : State) : Out := loadX o 1 (sextW 8) s
def execLdh (o : NI) (s : State) : Out := loadX o 2 zext s
def execLdhs (o : NI) (s : State) : Out := loadX o 2 (sextW 16) s
def execLdw (o : NI) (s : State) : Out := loadX o 4 zext s
def execLdws (o : NI) (s : State) : Out := loadX o 4 (sextW 32) s
def execLdd (o : NI) (s : State) : Out := loadX o 8 zext s
def execStb (o : NI) (s : State) : Out := storeX o 1 s
def execSth (o : NI) (s : State) : Out := storeX o 2 s
def execStw (o : NI) (s : State) : Out := storeX o 4 s
def execStd (o : NI) (s : State) : Out := storeX o 8 s

/-- IDLE (R123): the slot's latch becomes idle. -/
def execIdleXy (s : State) : Out := .next (s.modCtx s.cur.hw (fun c => c.emptyLatch s.cur.slot))

end Sys2Proof.Machine
end

