-- ==== Sys2Proof/Machine/Vector.lean ====
section
/-!
DEFINITION. The integer, logical, shift, move and predicate instructions of the V and W slots (R125 to R136, R143, R144).
-/

namespace Sys2Proof.Machine

/-! ## Shapes -/

/-- Some element is active (R127). -/
def anyE (m : PReg) (w : Nat) : Bool :=
  decide (m = BitVec.allOnes 512) || (List.range (512 / w)).any (fun e => activeE m w e)

/-- A V or W operation with elements of `w` bytes: nullified when no element is active; charged by its class. -/
def State.vw (s : State) (g w code : Nat) (eff : State → State) : Out :=
  s.perform none (anyE (s.me.guardW g) w) none none (fun s => (eff s).charge s.cur.hw code 1)

/-- An element result that is kept modulo the element's width. -/
def keepE (t : ETy) (r : Int) : Nat × Flags := (wrapN (8 * t.width) r, 0)

/-- An element result that is clamped to the type, or wrapped (R132). -/
def satE (t : ETy) (sat : Bool) (r : Int) : Nat × Flags :=
  if sat then
    let c := clampTo (tyLo t) (tyHi t) r
    (wrapN (8 * t.width) c.1, c.2)
  else keepE t r

/-- vD elements := f e for the active elements, landing after `lat`. -/
def State.mapV (s : State) (g : Nat) (t : ETy) (d lat code : Nat) (f : State → Nat → Nat × Flags) : Out :=
  s.vw g t.width code (fun s =>
    let m := s.me.guardW g
    let r := mapElems m t.width t.count (f s)
    s.pushV d (elemMask m t.width) r.1 r.2 lat)

/-- Integer operation on elements of vA and vB. -/
def intBin (o : V3) (f : Int → Int → Nat × Flags) (s : State) : Out :=
  s.mapV o.g o.t o.d 2 2 (fun s e => f (vElem (s.me.vreg o.a) o.t e) (vElem (s.me.vreg o.b) o.t e))

/-- Integer operation on elements of vD, vA and vB. -/
def intAcc (o : V3) (f : Int → Int → Int → Nat × Flags) (s : State) : Out :=
  s.mapV o.g o.t o.d 2 2 (fun s e =>
    f (vElem (s.me.vreg o.d) o.t e) (vElem (s.me.vreg o.a) o.t e) (vElem (s.me.vreg o.b) o.t e))

/-- Integer operation on elements of vA. -/
def intUn (o : V2) (f : Int → Nat × Flags) (s : State) : Out :=
  s.mapV o.g o.t o.d 2 2 (fun s e => f (vElem (s.me.vreg o.a) o.t e))

/-- Bitwise operation on whole registers, by active elements (R136). -/
def bitBin (o : V3) (f : VReg → VReg → VReg) (s : State) : Out :=
  s.vw o.g o.t.width 2 (fun s =>
    s.pushV o.d (elemMask (s.me.guardW o.g) o.t.width) (f (s.me.vreg o.a) (s.me.vreg o.b)) 0 2)

/-! ## Integer arithmetic (R132 to R135) -/

def execVadd (o : V3) (sat : Bool) (s : State) : Out := intBin o (fun x y => satE o.t sat (x + y)) s
def execVsub (o : V3) (sat : Bool) (s : State) : Out := intBin o (fun x y => satE o.t sat (x - y)) s
def execVmul (o : V3) (s : State) : Out := intBin o (fun x y => keepE o.t (x * y)) s
def execVmulh (o : V3) (s : State) : Out := intBin o (fun x y => keepE o.t (x * y / (2 ^ (8 * o.t.width) : Nat))) s
def execVmac (o : V3) (s : State) : Out := intAcc o (fun d x y => keepE o.t (d + x * y)) s
def execVmacs (o : V3) (s : State) : Out := intAcc o (fun d x y => satE o.t true (d + x * y)) s
def execVabs (o : V2) (sat : Bool) (s : State) : Out := intUn o (fun x => satE o.t sat (if x < 0 then -x else x)) s
def execVneg (o : V2) (sat : Bool) (s : State) : Out := intUn o (fun x => satE o.t sat (-x)) s
def execVmin (o : V3) (s : State) : Out := intBin o (fun x y => keepE o.t (if x < y then x else y)) s
def execVmax (o : V3) (s : State) : Out := intBin o (fun x y => keepE o.t (if x < y then y else x)) s

/-- VSAT (R133): the range of `n` bits of the type's signedness. -/
def execVsat (o : V2) (n : Nat) (s : State) : Out :=
  let lo : Int := if o.t.isSigned then -(2 ^ (n - 1) : Nat) else 0
  let hi : Int := if o.t.isSigned then (2 ^ (n - 1) : Nat) - 1 else (2 ^ n : Nat) - 1
  intUn o (fun x => let c := clampTo lo hi x; (wrapN (8 * o.t.width) c.1, c.2)) s

/-- VNRW (R134): the guard is read at the result elements, of half the source width. -/
def execVnrw (o : V2) (sh : Nat) (sat rnd : Bool) (s : State) : Out :=
  let w := o.t.width / 2
  s.vw o.g w 2 (fun s =>
    let m := s.me.guardW o.g
    let ns := o.t.count
    let lo : Int := if o.t.isSigned then -(2 ^ (8 * w - 1) : Nat) else 0
    let hi : Int := if o.t.isSigned then (2 ^ (8 * w - 1) : Nat) - 1 else (2 ^ (8 * w) : Nat) - 1
    let r := mapElems m w (2 * ns) (fun e =>
      let x := if e < ns then vElem (s.me.vreg o.a) o.t e else vElem (s.me.vreg (o.a + 1)) o.t (e - ns)
      let x := if rnd && decide (0 < sh) then x + (2 ^ (sh - 1) : Nat) else x
      let r := x / (2 ^ sh : Nat)
      if sat then
        let c := clampTo lo hi r
        (wrapN (8 * w) c.1, c.2)
      else (wrapN (8 * w) r, 0))
    s.pushV o.d (elemMask m w) r.1 r.2 2)

/-- VWID (R135): the guard is read at the source elements. -/
def execVwid (o : V2) (s : State) : Out :=
  let w := o.t.width
  let half := o.t.count / 2
  s.vw o.g w 2 (fun s =>
    let m := s.me.guardW o.g
    let part (base : Nat) : VReg × PReg :=
      (BitVec.ofNat 4096 (assemble (2 * w) ((List.range half).map (fun e =>
        wrapN (16 * w) (vElem (s.me.vreg o.a) o.t (base + e))))),
        groupBits (2 * w) half (fun e => activeE m w (base + e)))
    let p0 := part 0
    let p1 := part half
    (s.pushV o.d p0.2 p0.1 0 2).pushV (o.d + 1) p1.2 p1.1 0 2)

/-! ## Logical operations, shifts, compare and select (R136) -/

def execVand (o : V3) (s : State) : Out := bitBin o (fun a b => a &&& b) s
def execVor (o : V3) (s : State) : Out := bitBin o (fun a b => a ||| b) s
def execVxor (o : V3) (s : State) : Out := bitBin o (fun a b => a ^^^ b) s
def execVnot (o : V2) (s : State) : Out :=
  s.vw o.g o.t.width 2 (fun s => s.pushV o.d (elemMask (s.me.guardW o.g) o.t.width) (~~~(s.me.vreg o.a)) 0 2)

/-- A shift: the amount is an immediate or element e of vB modulo the width. -/
def shiftV (o : V2) (b : Amt) (f : Nat → Nat → Nat) (s : State) : Out :=
  let w := o.t.width
  s.mapV o.g o.t o.d 2 2 (fun s e =>
    let n := match b with
      | .imm n => n
      | .reg r => elem (s.me.vreg r).toNat w e % (8 * w)
    (f (elem (s.me.vreg o.a).toNat w e) n, 0))

def execVshl (o : V2) (b : Amt) (s : State) : Out := shiftV o b (fun x n => x * 2 ^ n % 2 ^ (8 * o.t.width)) s
def execVshr (o : V2) (b : Amt) (s : State) : Out := shiftV o b (fun x n => x / 2 ^ n) s
def execVsra (o : V2) (b : Amt) (s : State) : Out :=
  shiftV o b (fun x n => wrapN (8 * o.t.width) (signed (8 * o.t.width) x / (2 ^ n : Nat))) s

/-- The tests of VCMP. -/
def icmp (cc : ICmp) (x y : Int) : Bool :=
  match cc with
  | .eq => decide (x = y)
  | .ne => decide (x ≠ y)
  | .lt => decide (x < y)
  | .le => decide (x ≤ y)
  | .gt => decide (y < x)
  | .ge => decide (y ≤ x)

def execVcmp (o : V3) (cc : ICmp) (s : State) : Out :=
  s.vw o.g o.t.width 2 (fun s =>
    s.pushP o.d (elemMask (s.me.guardW o.g) o.t.width) (groupBits o.t.width o.t.count (fun e =>
      icmp cc (vElem (s.me.vreg o.a) o.t e) (vElem (s.me.vreg o.b) o.t e))) 0 2)

def execVsel (o : V3) (c : Nat) (s : State) : Out :=
  s.vw o.g o.t.width 2 (fun s =>
    s.pushV o.d (elemMask (s.me.guardW o.g) o.t.width)
      (mergeV (s.me.vreg o.b) (s.me.vreg o.a) (elemMask (s.me.preg c) o.t.width)) 0 2)

/-! ## Moving elements (R143) -/

def execVperm (o : V3) (s : State) : Out :=
  let w := o.t.width
  s.mapV o.g o.t o.d 3 2 (fun s e =>
    let i := elem (s.me.vreg o.b).toNat w e
    (if i < o.t.count then elem (s.me.vreg o.a).toNat w i else 0, 0))

def execVsld (o : V3) (sh : Nat) (s : State) : Out :=
  let w := o.t.width
  s.mapV o.g o.t o.d 3 2 (fun s e =>
    (if e + sh < o.t.count then elem (s.me.vreg o.a).toNat w (e + sh)
      else elem (s.me.vreg o.b).toNat w (e + sh - o.t.count), 0))

def execVbcstScalar (o : V2) (s : State) : Out :=
  s.mapV o.g o.t o.d 3 2 (fun s _ => ((s.me.sreg o.a).toNat % 2 ^ (8 * o.t.width), 0))

def execVbcstElement (o : V2) (idx : Nat) (s : State) : Out :=
  s.mapV o.g o.t o.d 3 2 (fun s _ => (elem (s.me.vreg o.a).toNat o.t.width idx, 0))

/-- VINS: element `idx` only, if active; the scalar register stands in field b. -/
def execVins (o : V2) (idx : Nat) (s : State) : Out :=
  let w := o.t.width
  s.vw o.g w 2 (fun s =>
    let m := groupBits w o.t.count (fun e => decide (e = idx) && activeE (s.me.guardW o.g) w e)
    s.pushV o.d m (BitVec.ofNat 4096 ((s.me.sreg o.a).toNat % 2 ^ (8 * w) * 2 ^ (8 * w * idx))) 0 3)

/-- VEXT: sign-extended for b, h and w, zero-extended otherwise; an inactive element writes nothing. -/
def execVext (o : V2) (idx : Nat) (s : State) : Out :=
  let w := o.t.width
  s.vw o.g w 2 (fun s =>
    if activeE (s.me.guardW o.g) w idx then
      s.pushS o.d (BitVec.ofInt 64 (vElem (s.me.vreg o.a) o.t idx)) 0 3
    else s)

def execVmov (o : V2) (s : State) : Out :=
  s.vw o.g o.t.width 2 (fun s => s.pushV o.d (elemMask (s.me.guardW o.g) o.t.width) (s.me.vreg o.a) 0 3)

/-- Counts of set governing bits below each element. -/
def prefixCounts (p : PReg) (w n : Nat) : List Nat :=
  ((List.range n).foldl (fun (a : List Nat × Nat) e =>
    (a.2 :: a.1, if activeE p w e then a.2 + 1 else a.2)) ([], 0)).1.reverse

/-- VIOTA: field a is a predicate register. -/
def execViota (o : V2) (s : State) : Out :=
  let w := o.t.width
  s.vw o.g w 2 (fun s =>
    let xs := (prefixCounts (s.me.preg o.a) w o.t.count).map (fun k => k % 2 ^ (8 * w))
    s.pushV o.d (elemMask (s.me.guardW o.g) w) (BitVec.ofNat 4096 (assemble w xs)) 0 3)

/-! ## Predicate operations (R144) -/

/-- An operation on predicate registers, bit by bit under the guard. -/
def predOp (g d : Nat) (f : Ctx → PReg) (s : State) : Out :=
  s.vw g 1 2 (fun s => s.pushP d (s.me.guardW g) (f s.me) 0 2)

def execPand (o : VP) (s : State) : Out := predOp o.g o.d (fun c => c.preg o.a &&& c.preg o.b) s
def execPor (o : VP) (s : State) : Out := predOp o.g o.d (fun c => c.preg o.a ||| c.preg o.b) s
def execPxor (o : VP) (s : State) : Out := predOp o.g o.d (fun c => c.preg o.a ^^^ c.preg o.b) s
def execPnot (o : VP2) (s : State) : Out := predOp o.g o.d (fun c => ~~~(c.preg o.a)) s

/-- PSET: field a is a scalar register. -/
def execPset (o : V2) (s : State) : Out :=
  let w := o.t.width
  s.vw o.g w 2 (fun s =>
    s.pushP o.d (elemMask (s.me.guardW o.g) w)
      (groupBits w o.t.count (fun e => decide (e < (s.me.sreg o.a).toNat))) 0 2)

/-- PCNT: field d is a scalar register, field a a predicate register. -/
def execPcnt (o : V2) (s : State) : Out :=
  let w := o.t.width
  s.vw o.g w 2 (fun s =>
    s.pushS o.d (BitVec.ofNat 64 (countBits (s.me.preg o.a &&& s.me.guardW o.g) w o.t.count)) 0 2)

/-- IDLE: the slot's latch becomes idle. -/
def execIdleVw (s : State) : Out := .next (s.modCtx s.cur.hw (fun c => c.emptyLatch s.cur.slot))

end Sys2Proof.Machine
end

