-- ==== Sys2Proof/Machine/Local.lean ====
section
/-!
DEFINITION. The L slot (R94 to R100): vector, predicate and pattern accesses to the own scratchpad, and the lines and
banks that an access uses (R88, R90).
-/

namespace Sys2Proof.Machine

/-! ## Lines and banks -/

/-- The elements of a list, each at its first place. -/
def distinct (l : List Nat) : List Nat := (l.foldl (fun a x => if a.contains x then a else x :: a) []).reverse

/-- The bank of an own line, numbered from the first byte of the scratchpad (R88). -/
def bankOf (line : Nat) : Nat := 16 * (line / 0x8000 % 2) + line % 16

/-- The first line of a list that needs a bank in which another line is claimed already (R90). -/
def firstConflict : List Nat → List Nat → Option Nat
  | _, [] => none
  | claimed, l :: r =>
    if claimed.any (fun k => decide (bankOf k = bankOf l) && decide (k ≠ l)) then some l
    else firstConflict (l :: claimed) r

/-! ## The bytes of an access -/

/-- The bytes that an access moves: byte of the register and address of the byte, for the active bytes. -/
abbrev Moves := List (Nat × Word)

/-- The active bytes of VLD, VST: byte b at ea + b. -/
def movesPlain (m : PReg) (ea : Word) (n : Nat) : Moves :=
  ((List.range n).filter (fun b => m.getLsbD b)).map (fun b => (b, ea + BitVec.ofNat 64 b))

/-- Rows or chunks of `w` bytes, row j at `at_ j`, governed by the bit at its first byte. -/
def movesRows (m : PReg) (w n : Nat) (at_ : Nat → Word) : Moves :=
  ((List.range n).filter (fun j => m.getLsbD (w * j))).flatMap (fun j =>
    (List.range w).map (fun k => (w * j + k, at_ j + BitVec.ofNat 64 k)))

/-- VLDB: byte b at ea + b mod 64. -/
def movesLine (m : PReg) (ea : Word) : Moves :=
  ((List.range 512).filter (fun b => m.getLsbD b)).map (fun b => (b, ea + BitVec.ofNat 64 (b % 64)))

/-- The in-range lines of an access, in order of first use. -/
def linesOfMoves (ms : Moves) : List Nat :=
  distinct ((ms.filter (fun x => decide (x.2.toNat < Config.spadBytes))).map (fun x => x.2.toNat / 64))

/-- The first byte of an access that lies out of range (R93, log 45). -/
def offender (ms : Moves) : Option Word :=
  (ms.find? (fun x => !decide (x.2.toNat < Config.spadBytes))).map (fun x => x.2)

/-- The value that a load of these bytes reads: bytes that are not moved hold 0. -/
def State.loadMoves (s : State) (ms : Moves) : VReg :=
  BitVec.ofNat 4096 (ms.foldl (fun a x => a + (s.ownByte s.myCore x.2.toNat).toNat * 2 ^ (8 * x.1)) 0)

/-- Record an offending byte and charge the lines of an access. -/
def State.accessed (s : State) (ms : Moves) : State :=
  let s1 := match offender ms with
    | some a => s.noteSp a
    | none => s
  s1.charge s.cur.hw 5 (linesOfMoves ms).length

/-- An access that conflicts with itself (R90, R96, R98). -/
def selfConflict (ms : Moves) : Option Chk :=
  (firstConflict [] (linesOfMoves ms)).map (fun l => ⟨3, BitVec.ofNat 64 (64 * l), 0⟩)

/-! ## Addresses of the instructions (R94) -/

def Ctx.eaD (c : Ctx) (o : LD) (n : Nat) : Word := c.eaL o.base o.off o.step n
def Ctx.eaS (c : Ctx) (o : LS) (n : Nat) : Word := c.eaL o.base 0 o.step n
def Ctx.eaX (c : Ctx) (o : LX) : Word := c.eaL o.base o.off 0 0
def Ctx.eaF (c : Ctx) (o : LF) (n : Nat) : Word := c.eaL o.base o.off o.step n

def Ctx.movesD (c : Ctx) (o : LD) (n : Nat) : Moves := movesPlain (c.guardW o.g) (c.eaD o n) 512
def Ctx.movesS (c : Ctx) (o : LS) (n : Nat) : Moves :=
  let ea := c.eaS o n
  movesRows (c.guardW o.g) 32 16 (fun j => ea + BitVec.ofInt 64 (j * o.stride * 32))
def Ctx.movesB (c : Ctx) (o : LD) (n : Nat) : Moves := movesLine (c.guardW o.g) (c.eaD o n)
/-- Index j is word lane j of vI. -/
def Ctx.chunkAt (c : Ctx) (o : LX) (j : Nat) : Word := c.eaX o + BitVec.ofNat 64 (elem (c.vreg o.vi).toNat 4 j)
def Ctx.movesX (c : Ctx) (o : LX) : Moves := movesRows (c.guardW o.g) 16 32 (c.chunkAt o)
/-- PLD, PST: the byte of bit i is i / 8; a byte moves when one of its bits is guarded on. -/
def Ctx.movesP (c : Ctx) (o : LD) (n : Nat) : Moves :=
  let m := c.guardW o.g
  let ea := c.eaD o n
  ((List.range 64).filter (fun b => decide (m.toNat / 2 ^ (8 * b) % 256 ≠ 0))).map (fun b => (b, ea + BitVec.ofNat 64 b))
/-- FILL covers 16 * (len + 1) bytes (R100). -/
def Ctx.movesF (c : Ctx) (o : LF) (n : Nat) : Moves := movesPlain (c.guardW o.g) (c.eaF o n) (16 * (o.len + 1))

/-- ALIGN of VLDX and VSTX: the effective address, then the first active chunk that is misaligned (log 44). -/
def Ctx.alignX (c : Ctx) (o : LX) : Option Chk :=
  match alignChk (c.eaX o) 16 with
  | some k => some k
  | none =>
    (((List.range 32).filter (fun j => (c.guardW o.g).getLsbD (16 * j))).find? (fun j =>
      decide ((c.chunkAt o j).toNat % 16 ≠ 0))).map (fun j => ⟨9, c.chunkAt o j, 0⟩)

/-! ## Shapes -/

/-- A load into a vector register: read at issue, landing after `lat`. -/
def loadV (v lat : Nat) (ms : Moves) (mask : PReg) (chk : Option Chk) (s : State) : Out :=
  s.perform none (!ms.isEmpty) none (chk <|> selfConflict ms) (fun s =>
    (s.pushV v mask (s.loadMoves ms) 0 lat).accessed ms)

/-- A store of bytes, performed at issue; a later byte of the list wins. -/
def storeV (ms : Moves) (chk : Option Chk) (byte : Nat → Byte) (s : State) : Out :=
  s.perform none (!ms.isEmpty) none (chk <|> selfConflict ms) (fun s =>
    (s.ownStore (ms.map (fun x => (x.2.toNat, byte x.1)))).accessed ms)

/-- Byte `b` of a register. -/
def vByte (v : VReg) (b : Nat) : Byte := BitVec.ofNat 8 (v.toNat / 2 ^ (8 * b))

/-! ## Meanings -/

def execVld (o : LD) (s : State) : Out :=
  loadV o.v 6 (s.me.movesD o s.cur.n) (s.me.guardW o.g) (alignChk (s.me.eaD o s.cur.n) 16) s
def execVst (o : LD) (s : State) : Out :=
  let v := s.me.vreg o.v
  storeV (s.me.movesD o s.cur.n) (alignChk (s.me.eaD o s.cur.n) 16) (vByte v) s
def execVlds (o : LS) (s : State) : Out :=
  loadV o.v 6 (s.me.movesS o s.cur.n) (elemMask (s.me.guardW o.g) 32) (alignChk (s.me.eaS o s.cur.n) 32) s
def execVsts (o : LS) (s : State) : Out :=
  let v := s.me.vreg o.v
  storeV (s.me.movesS o s.cur.n) (alignChk (s.me.eaS o s.cur.n) 32) (vByte v) s
def execVldb (o : LD) (s : State) : Out :=
  loadV o.v 6 (s.me.movesB o s.cur.n) (s.me.guardW o.g) (alignChk (s.me.eaD o s.cur.n) 64) s
def execVldx (o : LX) (s : State) : Out :=
  loadV o.v 7 (s.me.movesX o) (elemMask (s.me.guardW o.g) 16) (s.me.alignX o) s
def execVstx (o : LX) (s : State) : Out :=
  let v := s.me.vreg o.v
  storeV (s.me.movesX o) (s.me.alignX o) (vByte v) s

/-- PLD (R99): bit i of the predicate is bit i of the 64 bytes. -/
def execPld (o : LD) (s : State) : Out :=
  let ms := s.me.movesP o s.cur.n
  s.perform none (!ms.isEmpty) none (alignChk (s.me.eaD o s.cur.n) 64) (fun s =>
    (s.pushP o.v (s.me.guardW o.g) (BitVec.ofNat 512 (s.loadMoves ms).toNat) 0 6).accessed ms)

/-- PST (R99): memory is written bit by bit. -/
def execPst (o : LD) (s : State) : Out :=
  let ms := s.me.movesP o s.cur.n
  s.perform none (!ms.isEmpty) none (alignChk (s.me.eaD o s.cur.n) 64) (fun s =>
    let m := (s.me.guardW o.g).toNat
    let p := (s.me.preg o.v).toNat
    (s.ownStore (ms.map (fun x =>
      let g : Byte := BitVec.ofNat 8 (m / 2 ^ (8 * x.1))
      let b : Byte := BitVec.ofNat 8 (p / 2 ^ (8 * x.1))
      (x.2.toNat, (s.ownByte s.myCore x.2.toNat &&& ~~~g) ||| (b &&& g))))).accessed ms)

/-- FILL (R100): the pattern is the low 32 bits of sC. -/
def execFill (o : LF) (s : State) : Out :=
  let p := (s.me.sreg o.sc).toNat
  storeV (s.me.movesF o s.cur.n) (alignChk (s.me.eaF o s.cur.n) 16) (fun b => byteOf p (b % 4)) s

/-- IDLE: the slot's latch becomes idle. -/
def execIdleL (s : State) : Out := .next (s.modCtx s.cur.hw (fun c => c.emptyLatch s.cur.slot))

end Sys2Proof.Machine
end

