-- ==== Sys2Proof/Machine/Float.lean ====
section
/-!
DEFINITION. Floating point to the bit: formats (R41, R42), rounding (R49, R50), flags (R55), and the correctly rounded
functions (R140). A finite value is a sign and an exact dyadic magnitude `m * 2^e`; every operation is exact until its
one rounding.
-/

namespace Sys2Proof.Machine

/-- A binary format: significand bits with the hidden one, exponent bits (R41). -/
structure FFmt where
  p : Nat
  eb : Nat
  deriving DecidableEq, Repr

def f32 : FFmt := ⟨24, 8⟩
def f16 : FFmt := ⟨11, 5⟩
def bf16 : FFmt := ⟨8, 8⟩

/-- The format of a float type. -/
def ffmtOf : ETy → FFmt
  | .hf => f16
  | .bf => bf16
  | _ => f32

def FFmt.width (f : FFmt) : Nat := f.p + f.eb
def FFmt.bias (f : FFmt) : Nat := 2 ^ (f.eb - 1) - 1
/-- The exponent of the smallest normal value. -/
def FFmt.emin (f : FFmt) : Int := 1 - (f.bias : Int)
/-- Bits of infinity, of the canonical NaN (R43) and of the largest finite value, sign clear. -/
def FFmt.inf (f : FFmt) : Nat := (2 ^ f.eb - 1) * 2 ^ (f.p - 1)
def FFmt.nan (f : FFmt) : Nat := f.inf + 2 ^ (f.p - 2)
def FFmt.maxFin (f : FFmt) : Nat := f.inf - 1
def FFmt.signBit (f : FFmt) (neg : Bool) : Nat := if neg then 2 ^ (f.width - 1) else 0

/-- What an encoding stands for (R42). -/
inductive FV where
  | nan (sig : Bool)
  | inf (neg : Bool)
  | fin (neg : Bool) (m : Nat) (e : Int)
  deriving DecidableEq, Repr

/-- Reading an encoding. -/
def FFmt.decode (f : FFmt) (x : Nat) : FV :=
  let neg := decide (x / 2 ^ (f.width - 1) % 2 = 1)
  let ex := x / 2 ^ (f.p - 1) % 2 ^ f.eb
  let fr := x % 2 ^ (f.p - 1)
  if ex = 2 ^ f.eb - 1 then
    if fr = 0 then .inf neg else .nan (decide (fr < 2 ^ (f.p - 2)))
  else if ex = 0 then .fin neg fr (f.emin - (f.p - 1 : Nat))
  else .fin neg (fr + 2 ^ (f.p - 1)) ((ex : Int) - f.bias - (f.p - 1 : Nat))

def FV.isSig : FV → Bool
  | .nan s => s
  | _ => false
def FV.isNan : FV → Bool
  | .nan _ => true
  | _ => false

/-- Significant bits of a magnitude. -/
def bitLen (m : Nat) : Nat := if m = 0 then 0 else Nat.log2 m + 1

/-- Round a magnitude `m * 2^e` (m > 0) to multiples of `2^q` by a mode (R49); `u` is the generator's 24-bit draw of
R50. Answers the multiple and whether the value was inexact. -/
def roundMag (rm : Nat) (neg : Bool) (u m : Nat) (e q : Int) : Nat × Bool :=
  if q ≤ e then (m * 2 ^ (e - q).toNat, false)
  else
    let sh := (q - e).toNat
    let lo := m / 2 ^ sh
    let rem := m % 2 ^ sh
    if rem = 0 then (lo, false)
    else
      let up :=
        match rm with
        | 0 => decide (2 ^ sh < 2 * rem) || (decide (2 * rem = 2 ^ sh) && decide (lo % 2 = 1))
        | 1 => false
        | 2 => !neg
        | 3 => neg
        | _ => decide (u * 2 ^ sh < rem * 2 ^ 24)
      (if up then lo + 1 else lo, true)

/-- A rounded result: encoding, flags, and whether it was inexact (the generator advances, R50). -/
structure FRes where
  bits : Nat
  flags : Flags
  inexact : Bool
  deriving DecidableEq, Repr

/-- Encode `n * 2^q` with `n < 2^p` or `n = 2^p`, not above the largest finite value. -/
def FFmt.encodeMag (f : FFmt) (n : Nat) (q : Int) : Nat :=
  let (n, q) := if n = 2 ^ f.p then (2 ^ (f.p - 1), q + 1) else (n, q)
  if n < 2 ^ (f.p - 1) then n
  else (q + (f.p - 1 : Nat) + f.bias).toNat * 2 ^ (f.p - 1) + (n - 2 ^ (f.p - 1))

/-- The quantum exponent of a magnitude in a format, with denormals. -/
def FFmt.quantum (f : FFmt) (m : Nat) (e : Int) : Int :=
  max (e + bitLen m - f.p) (f.emin - (f.p - 1 : Nat))

/-- Round a finite value to a format (R49, R50, R55). A rounding is inexact where it sets nx: so is every overflow, the value that an
unbounded exponent would hold exactly too (log 87). Under SR the draw that rounds the value also rounds it as if the exponent range
were unbounded, for the test of uf (log 88). -/
def FFmt.round (f : FFmt) (rm : Nat) (u : Nat) (neg : Bool) (m : Nat) (e : Int) : FRes :=
  if m = 0 then ⟨f.signBit neg, 0, false⟩
  else
    let q := f.quantum m e
    let (n, ix) := roundMag rm neg u m e q
    let big := decide (f.maxFin < f.encodeMag n q)
    if big then
      let toInf :=
        match rm with
        | 1 => false
        | 2 => !neg
        | 3 => neg
        | _ => true
      ⟨f.signBit neg + (if toInf then f.inf else f.maxFin), fOf ||| fNx, true⟩
    else
      -- the magnitude rounded as if the exponent range were unbounded lies below the smallest normal
      let q2 := e + bitLen m - f.p
      let n2 := (roundMag rm neg u m e q2).1
      let tiny := decide (bitLen n2 + q2 ≤ f.emin)
      ⟨f.signBit neg + f.encodeMag n q, flagIf ix fNx ||| flagIf (ix && tiny) fUf, ix⟩

/-- The canonical NaN with a set of flags. -/
def FFmt.nanRes (f : FFmt) (fl : Flags) : FRes := ⟨f.nan, fl, false⟩
def FFmt.infRes (f : FFmt) (neg : Bool) (fl : Flags) : FRes := ⟨f.signBit neg + f.inf, fl, false⟩

/-- The exact sum of two dyadic values: sign and magnitude; an exact zero is +0 by this sign. -/
def addMag (na : Bool) (ma : Nat) (ea : Int) (nb : Bool) (mb : Nat) (eb : Int) : Bool × Nat × Int :=
  let e := min ea eb
  let a : Int := (ma * 2 ^ (ea - e).toNat : Nat)
  let b : Int := (mb * 2 ^ (eb - e).toNat : Nat)
  let r := (if na then -a else a) + (if nb then -b else b)
  (decide (r < 0), r.natAbs, e)

/-- Round the sum of two finite addends; an exact zero sum takes its sign as IEEE 754 gives it (R137, log 116). -/
def FFmt.sum (f : FFmt) (rm u : Nat) (na : Bool) (ma : Nat) (ea : Int) (nb : Bool) (mb : Nat) (eb : Int) : FRes :=
  let (n, m, e) := addMag na ma ea nb mb eb
  if m = 0 then
    let neg := if ma = 0 ∧ mb = 0 ∧ na = nb then na else decide (rm = 3)
    ⟨f.signBit neg, 0, false⟩
  else f.round rm u n m e

/-- a + b of two values, rounded once. -/
def FFmt.addV (f : FFmt) (rm u : Nat) (a b : FV) : FRes :=
  let sn := flagIf (a.isSig || b.isSig) fNv
  match a, b with
  | .nan _, _ => f.nanRes sn
  | _, .nan _ => f.nanRes sn
  | .inf x, .inf y => if x = y then f.infRes x sn else f.nanRes (sn ||| fNv)
  | .inf x, _ => f.infRes x sn
  | _, .inf y => f.infRes y sn
  | .fin na ma ea, .fin nb mb eb => f.sum rm u na ma ea nb mb eb

def FV.negate : FV → FV
  | .nan s => .nan s
  | .inf n => .inf (!n)
  | .fin n m e => .fin (!n) m e

/-- a × b, rounded once. -/
def FFmt.mulV (f : FFmt) (rm u : Nat) (a b : FV) : FRes :=
  let sn := flagIf (a.isSig || b.isSig) fNv
  match a, b with
  | .nan _, _ => f.nanRes sn
  | _, .nan _ => f.nanRes sn
  | .inf x, .inf y => f.infRes (xor x y) sn
  | .inf x, .fin y m _ => if m = 0 then f.nanRes (sn ||| fNv) else f.infRes (xor x y) sn
  | .fin x m _, .inf y => if m = 0 then f.nanRes (sn ||| fNv) else f.infRes (xor x y) sn
  | .fin x ma ea, .fin y mb eb => f.round rm u (xor x y) (ma * mb) (ea + eb)

/-- a × b + c with one rounding (R137): infinity times zero is invalid even beside a NaN addend. -/
def FFmt.fmaV (f : FFmt) (rm u : Nat) (a b c : FV) : FRes :=
  let sn := flagIf (a.isSig || b.isSig || c.isSig) fNv
  let bad :=
    match a, b with
    | .inf _, .fin _ 0 _ => true
    | .fin _ 0 _, .inf _ => true
    | _, _ => false
  if bad then f.nanRes (sn ||| fNv)
  else
    match a, b, c with
    | .nan _, _, _ => f.nanRes sn
    | _, .nan _, _ => f.nanRes sn
    | _, _, .nan _ => f.nanRes sn
    | .fin x ma ea, .fin y mb eb, .fin z mc ec => f.sum rm u (xor x y) (ma * mb) (ea + eb) z mc ec
    | .fin _ _ _, .fin _ _ _, .inf z => f.infRes z sn
    | .inf x, .inf y, c => addInf (xor x y) c sn
    | .inf x, .fin y _ _, c => addInf (xor x y) c sn
    | .fin x _ _, .inf y, c => addInf (xor x y) c sn
where
  addInf (neg : Bool) (c : FV) (sn : Flags) : FRes :=
    match c with
    | .inf z => if z = neg then f.infRes neg sn else f.nanRes (sn ||| fNv)
    | _ => f.infRes neg sn

/-- Order of two values that are not NaN; -0 counts as equal to +0. -/
def FV.cmp (a b : FV) : Ordering :=
  let key (x : FV) : Int × Nat × Int :=
    match x with
    | .fin n m e => (if m = 0 then 0 else if n then -1 else 1, m, e)
    | .inf n => (if n then -2 else 2, 0, 0)
    | .nan _ => (0, 0, 0)
  match a, b with
  | .fin na ma ea, .fin nb mb eb =>
    let (n, m, _) := addMag na ma ea (!nb) mb eb
    if m = 0 then .eq else if n then .lt else .gt
  | a, b => compare (key a).1 (key b).1

/-- VFMIN and VFMAX (R137): a copy of one operand's bits; -0 counts as smaller than +0. -/
def FFmt.minmax (f : FFmt) (isMax : Bool) (x y : Nat) : Nat × Flags :=
  let a := f.decode x
  let b := f.decode y
  let sn := flagIf (a.isSig || b.isSig) fNv
  if a.isNan && b.isNan then (f.nan, sn)
  else if a.isNan then (y, sn)
  else if b.isNan then (x, sn)
  else
    let aLess :=
      match a.cmp b with
      | .lt => true
      | .gt => false
      | .eq => decide (x / 2 ^ (f.width - 1) % 2 = 1)
    (if xor aLess isMax then x else y, sn)

/-- The tests of VFCMP (R137). -/
def fcmpV (cc : FCmp) (a b : FV) : Bool :=
  if a.isNan || b.isNan then (match cc with
    | .ne | .un => true
    | _ => false)
  else
    let o := a.cmp b
    match cc with
    | .eq => o == .eq
    | .ne => o != .eq
    | .lt => o == .lt
    | .le => o != .gt
    | .gt => o == .gt
    | .ge => o != .lt
    | .un => false
    | .ord => true

/-- The class bit of VFCLS (R138). -/
def FFmt.classOf (f : FFmt) (x : Nat) : Nat :=
  match f.decode x with
  | .nan s => if s then 8 else 9
  | .inf n => if n then 0 else 7
  | .fin n m _ =>
    if m = 0 then (if n then 3 else 4)
    else if m < 2 ^ (f.p - 1) then (if n then 2 else 5)
    else if n then 1 else 6

/-- Float to float (R139): a NaN becomes the canonical NaN. -/
def FFmt.convert (f g : FFmt) (rm u x : Nat) : FRes :=
  match f.decode x with
  | .nan s => g.nanRes (flagIf s fNv)
  | .inf n => g.infRes n 0
  | .fin n m e => g.round rm u n m e

/-- Round a finite value to an integer by a mode; the flag says inexact. -/
def roundInt (rm u : Nat) (neg : Bool) (m : Nat) (e : Int) : Int × Bool :=
  if m = 0 then (0, false)
  else
    let (n, ix) := roundMag rm neg u m e 0
    (if neg then -(n : Int) else n, ix)

/-- Float to integer (R139): NaN gives 0, a value out of range the nearer bound; both set nv. -/
def FFmt.toInt (f : FFmt) (t : ETy) (rm u x : Nat) : FRes :=
  let w := 8 * t.width
  match f.decode x with
  | .nan _ => ⟨0, fNv, false⟩
  | .inf n => ⟨wrapN w (if n then tyLo t else tyHi t), fNv, false⟩
  | .fin n m e =>
    let (r, ix) := roundInt rm u n m e
    if r < tyLo t then ⟨wrapN w (tyLo t), fNv, ix⟩
    else if tyHi t < r then ⟨wrapN w (tyHi t), fNv, ix⟩
    else ⟨wrapN w r, flagIf ix fNx, ix⟩

/-- Integer to float (R139). -/
def FFmt.ofInt (f : FFmt) (rm u : Nat) (v : Int) : FRes := f.round rm u (decide (v < 0)) v.natAbs 0

/-! ## The generators (R50) -/

/-- One step of the Galois LFSR. -/
def lfsrStep (g : Word32) : Word32 := if g.getLsbD 0 then (g >>> 1) ^^^ 0x80200003#32 else g >>> 1
/-- One advance: 32 steps. -/
def lfsrAdvance (g : Word32) : Word32 := (List.range 32).foldl (fun g _ => lfsrStep g) g
/-- The 24-bit draw of a new state. -/
def lfsrDraw (g : Word32) : Nat := g.toNat / 256

/-- Run one rounding of a lane: under SR the draw is the lane's next state, kept when the rounding was inexact. -/
def srLane (rm hw : Nat) (c : Ctx) (lane : Nat) (f : Nat → FRes) : FRes × Ctx :=
  if rm = 4 then
    let g := lfsrAdvance (c.lfsr hw lane)
    let r := f (lfsrDraw g)
    (r, if r.inexact then { c with regs := { c.regs with lfsr := SMap.put c.regs.lfsr lane g } } else c)
  else (f 0, c)

/-- Float elements in ascending order where active (R127, R137): bits, flags ORed, and the context with its generators
advanced. `lane` gives an element's lane (R50). -/
def mapFloat (rm hw : Nat) (m : PReg) (w n : Nat) (lane : Nat → Nat) (f : Nat → Nat → FRes) (c : Ctx) :
    VReg × Flags × Ctx :=
  let r := (List.range n).foldl (fun (a : List Nat × Flags × Ctx) e =>
    if activeE m w e then
      let (x, c1) := srLane rm hw a.2.2 (lane e) (fun u => f e u)
      (x.bits :: a.1, a.2.1 ||| x.flags, c1)
    else (0 :: a.1, a.2.1, a.2.2)) ([], 0, c)
  (BitVec.ofNat 4096 (assemble w r.1.reverse), r.2.1, r.2.2)

/-! ## Correctly rounded functions (R140): exact where the value is a dyadic number, else an approximation with more
than 190 good bits and a sticky bit, which no format's rounding can tell from the value -/

/-- ln 2 in units of 2^-256. -/
def ln2 : Nat := 0xB17217F7D1CF79ABC9E3B39803F2F6AF40F343267298B62D8A0D175B8BAAFA2B

/-- Integer square root by bits. -/
def isqrt (n : Nat) : Nat :=
  (List.range (bitLen n / 2 + 1)).foldr (fun k r => if (r + 2 ^ k) * (r + 2 ^ k) ≤ n then r + 2 ^ k else r) 0

/-- A positive number `y * 2^e` known to lie strictly between `y` and `y + 1` units. -/
def sticky (y : Nat) (e : Int) : Nat × Int := (2 * y + 1, e - 1)

/-- 1 / (m * 2^e). -/
def recipMag (m : Nat) (e : Int) : Nat × Int :=
  let k := bitLen m + 200
  let y := 2 ^ k / m
  if 2 ^ k % m = 0 then (y, -e - k) else sticky y (-e - k)

/-- 1 / sqrt (m * 2^e). -/
def rsqrtMag (m : Nat) (e : Int) : Nat × Int :=
  let (m, e) := if e % 2 = 0 then (m, e) else (2 * m, e - 1)
  let k := bitLen m + 400
  let k := k + k % 2
  let r := 2 ^ k / m
  let y := isqrt r
  if 2 ^ k % m = 0 ∧ y * y = r then (y, -(e / 2) - (k / 2 : Nat)) else sticky y (-(e / 2) - (k / 2 : Nat))

/-- The sum of the exponential series at `r` (units of 2^-256), from term `n` on, by Horner's rule. -/
def expHorner (r : Nat) : Nat → Nat → Nat
  | 0, _ => 2 ^ 256
  | fuel + 1, n => 2 ^ 256 + r * expHorner r fuel (n + 1) / 2 ^ 256 / n

/-- e^x for x = ± m * 2^e, x not zero. -/
def expMag (neg : Bool) (m : Nat) (e : Int) : Nat × Int :=
  if 9 ≤ e + bitLen m then (if neg then (1, -2000) else (1, 2000))
  else
    let fx : Int := if 0 ≤ e + 256 then (m * 2 ^ (e + 256).toNat : Nat) else (m / 2 ^ (-(e + 256)).toNat : Nat)
    let x := if neg then -fx else fx
    let k := x / (ln2 : Int)
    let r := (x - k * ln2).toNat
    sticky (expHorner r 70 1) (k - 256)

/-- The odd terms of the atanh series at `z`, `z2 = z * z` (units of 2^-300). -/
def atanhSum (z2 : Nat) : Nat → Nat → Nat → Nat
  | 0, _, _ => 0
  | fuel + 1, t, n => t / n + atanhSum z2 fuel (t * z2 / 2 ^ 300) (n + 2)

/-- ln x for x = m * 2^e, x positive and not 1: sign and magnitude. -/
def logMag (m : Nat) (e : Int) : Bool × Nat × Int :=
  let L := bitLen m
  let k := e + L - 1
  -- x = (m / 2^(L-1)) * 2^k with the first factor in [1, 2)
  let num := (m - 2 ^ (L - 1)) * 2 ^ 300
  let z := num / (m + 2 ^ (L - 1))
  let lm : Int := (2 * atanhSum (z * z / 2 ^ 300) 100 z 1 : Nat)
  let y := k * (ln2 * 2 ^ 44 : Nat) + lm
  let (n, x) := sticky y.natAbs (-300)
  (decide (y < 0), n, x)

/-- tanh of a positive m * 2^e. -/
def tanhMag (m : Nat) (e : Int) : Nat × Int :=
  let top := e + bitLen m
  if top ≤ -60 then (m * 2 ^ 64 - 1, e - 64)
  else if 8 ≤ top then (2 ^ 300 - 1, -300)
  else
    let (y, x) := expMag false m (e + 1)
    -- t = (E - 1) / (E + 1) with E = y * 2^x
    let s := (x + 300).toNat
    let E := y * 2 ^ s
    let one := 2 ^ 300
    sticky ((E - one) * 2 ^ 260 / (E + one)) (-260)

/-- VRCP, VRSQ, VEXP, VLOG, VTANH as selected by 0 to 4, rounded by a mode that is never SR (R140, log 82). -/
def FFmt.func (f : FFmt) (which rm x : Nat) : FRes :=
  let rnd (neg : Bool) (v : Nat × Int) : FRes := f.round rm 0 neg v.1 v.2
  let one : FRes := f.round rm 0 false 1 0
  match f.decode x with
  | .nan s => f.nanRes (flagIf s fNv)
  | .inf neg =>
    match which with
    | 0 => ⟨f.signBit neg, 0, false⟩
    | 1 => if neg then f.nanRes fNv else ⟨0, 0, false⟩
    | 2 => if neg then ⟨0, 0, false⟩ else f.infRes false 0
    | 3 => if neg then f.nanRes fNv else f.infRes false 0
    | _ => { one with bits := one.bits + f.signBit neg }
  | .fin neg m e =>
    if m = 0 then
      match which with
      | 0 | 1 => f.infRes neg fDz
      | 2 => one
      | 3 => f.infRes true fDz
      | _ => ⟨f.signBit neg, 0, false⟩
    else
      match which with
      | 0 => rnd neg (recipMag m e)
      | 1 => if neg then f.nanRes fNv else rnd false (rsqrtMag m e)
      | 2 => rnd false (expMag neg m e)
      | 3 =>
        if neg then f.nanRes fNv
        else if (f.decode (f.round 0 0 false 1 0).bits).cmp (.fin neg m e) == .eq then ⟨0, 0, false⟩
        else
          let (n, y) := logMag m e
          rnd n y
      | _ => rnd neg (tanhMag m e)

end Sys2Proof.Machine
end

