-- ==== Sys2Proof/Machine/VecFloat.lean ====
section
/-!
DEFINITION. The floating-point instructions of the V and W slots: arithmetic, compare, classify (R137, R138), conversion
(R139), transcendentals (R140), MX quantisation (R141, R142) and reduction (R145).
-/

namespace Sys2Proof.Machine

/-- vD elements := roundings under FMT.rm at the elements where `m` holds; generators advance (R50). -/
def State.roundV (s : State) (m : PReg) (t : ETy) (d lat : Nat) (lane : Nat → Nat) (f : Nat → Nat → FRes) : State :=
  let hw := s.cur.hw
  let r := mapFloat s.me.rm hw m t.width t.count lane f s.me
  (s.setCtx hw r.2.2).pushV d (elemMask m t.width) r.1 r.2.1 lat

/-- The lane that holds a destination element's first byte (R50). -/
def laneOf (t : ETy) (e : Nat) : Nat := e * t.width / 4

/-- Element `e` of a register as a value of its format. -/
def fElem (v : VReg) (t : ETy) (e : Nat) : FV := (ffmtOf t).decode (elem v.toNat t.width e)

/-- A float operation with three operand registers; `f` gets the format, the mode, the draw and the operands. -/
def fltOp (g : Nat) (t : ETy) (d : Nat) (f : Ctx → Nat → Nat → FRes) (s : State) : Out :=
  s.vw g t.width 3 (fun s => s.roundV (s.me.guardW g) t d 4 (laneOf t) (f s.me))

/-! ## Arithmetic (R137) -/

def execVfadd (o : V3) (s : State) : Out :=
  fltOp o.g o.t o.d (fun c e u => (ffmtOf o.t).addV c.rm u (fElem (c.vreg o.a) o.t e) (fElem (c.vreg o.b) o.t e)) s
def execVfsub (o : V3) (s : State) : Out :=
  fltOp o.g o.t o.d (fun c e u =>
    (ffmtOf o.t).addV c.rm u (fElem (c.vreg o.a) o.t e) (fElem (c.vreg o.b) o.t e).negate) s
def execVfmul (o : V3) (s : State) : Out :=
  fltOp o.g o.t o.d (fun c e u => (ffmtOf o.t).mulV c.rm u (fElem (c.vreg o.a) o.t e) (fElem (c.vreg o.b) o.t e)) s
def execVfma (o : V3) (c : Nat) (s : State) : Out :=
  fltOp o.g o.t o.d (fun x e u => (ffmtOf o.t).fmaV x.rm u (fElem (x.vreg o.a) o.t e) (fElem (x.vreg o.b) o.t e)
    (fElem (x.vreg c) o.t e)) s
def execVfms (o : V3) (c : Nat) (s : State) : Out :=
  fltOp o.g o.t o.d (fun x e u => (ffmtOf o.t).fmaV x.rm u (fElem (x.vreg o.a) o.t e) (fElem (x.vreg o.b) o.t e)
    (fElem (x.vreg c) o.t e).negate) s

/-- VFMIN and VFMAX copy one operand's bits. -/
def fltPick (isMax : Bool) (o : V3) (s : State) : Out :=
  let w := o.t.width
  s.mapV o.g o.t o.d 4 3 (fun s e =>
    (ffmtOf o.t).minmax isMax (elem (s.me.vreg o.a).toNat w e) (elem (s.me.vreg o.b).toNat w e))

def execVfmin (o : V3) (s : State) : Out := fltPick false o s
def execVfmax (o : V3) (s : State) : Out := fltPick true o s

/-- VFCMP: only a signalling NaN of an active element sets nv. -/
def execVfcmp (o : V3) (cc : FCmp) (s : State) : Out :=
  let w := o.t.width
  s.vw o.g w 3 (fun s =>
    let m := s.me.guardW o.g
    let va := s.me.vreg o.a
    let vb := s.me.vreg o.b
    let sig := (List.range o.t.count).any (fun e =>
      activeE m w e && ((fElem va o.t e).isSig || (fElem vb o.t e).isSig))
    s.pushP o.d (elemMask m w) (groupBits w o.t.count (fun e => fcmpV cc (fElem va o.t e) (fElem vb o.t e)))
      (flagIf sig fNv) 4)

def execVfcls (o : V2) (s : State) : Out :=
  let w := o.t.width
  s.mapV o.g o.t o.d 4 3 (fun s e => (2 ^ (ffmtOf o.t).classOf (elem (s.me.vreg o.a).toNat w e), 0))

/-! ## Conversion (R139) -/

/-- One converted element. -/
def cvtOne (t u : ETy) (rm draw x : Nat) : FRes :=
  if t.isFloat then
    if u.isFloat then FFmt.convert (ffmtOf t) (ffmtOf u) rm draw x else FFmt.toInt (ffmtOf t) u rm draw x
  else FFmt.ofInt (ffmtOf u) rm draw (tyRead t x)

def execVcvt (o : V2) (u : ETy) (hi : Bool) (s : State) : Out :=
  s.vw o.g u.width 3 (fun s =>
    let ns := o.t.count
    let nd := u.count
    let m := min ns nd
    let h := if hi then m else 0
    let g := s.me.guardW o.g
    let va := (s.me.vreg o.a).toNat
    let rm := s.me.rm
    let live := groupBits u.width nd (fun e =>
      activeE g u.width e && (decide (nd ≤ ns) || (decide (h ≤ e) && decide (e < h + m))))
    let src (e : Nat) : Nat := if nd ≤ ns then h + e else e - h
    s.roundV live u o.d 4 (laneOf u) (fun e draw => cvtOne o.t u rm draw (elem va o.t.width (src e))))

/-! ## Transcendentals (R140) -/

/-- In reduced service a transcendental or an MX quantisation traps with ILLOP (R37). -/
def State.fullChk (s : State) (needs : Bool) : Option Chk := if needs && !s.mod.full then some ⟨1, 0, 0⟩ else none

/-- A transcendental: correctly rounded; under SR it rounds RNE and advances no generator. -/
def transOp (which : Nat) (o : V2) (s : State) : Out :=
  let w := o.t.width
  s.perform (s.fullChk true) (anyE (s.me.guardW o.g) w) none none (fun s =>
    let m := s.me.guardW o.g
    let rm := if s.me.rm = 4 then 0 else s.me.rm
    let r := mapElems m w o.t.count (fun e =>
      let x := (ffmtOf o.t).func which rm (elem (s.me.vreg o.a).toNat w e)
      (x.bits, x.flags))
    (s.pushV o.d (elemMask m w) r.1 r.2 8).charge s.cur.hw 4 1)

def execVrcp (o : V2) (s : State) : Out := transOp 0 o s
def execVrsq (o : V2) (s : State) : Out := transOp 1 o s
def execVexp (o : V2) (s : State) : Out := transOp 2 o s
def execVlog (o : V2) (s : State) : Out := transOp 3 o s
def execVtanh (o : V2) (s : State) : Out := transOp 4 o s

/-! ## MX blocks (R46 to R48, R141, R142) -/

/-- Bits of an MX element. -/
def mxBits : ETy → Nat
  | .mx6 => 6
  | .mx4 => 4
  | _ => 8

/-- R48: the scale of a block of FP32 values (its active ones), none where one is NaN or infinite. -/
def mxScale (xs : List FV) : Option Nat :=
  xs.foldl (fun (a : Option Nat) x =>
    match a, x with
    | some s, .fin _ m e => if m = 0 then some s else some (max s (min 254 ((e + bitLen m + 126).toNat)))
    | _, _ => none) (some 0)

/-- One quantised element under scale `s` (R48): value, flags, and whether the rounding was inexact. -/
def mxQuant (k s rm u : Nat) (x : FV) : FRes :=
  match x with
  | .fin n m e =>
    let (y, ix) := roundInt rm u n m (e + (k - 2 : Nat) + 127 - s)
    let hi : Int := (2 ^ (k - 1) : Nat) - 1
    let lo : Int := -(2 ^ (k - 1) : Nat)
    if hi < y then ⟨wrapN k hi, fSat, ix⟩
    else if y < lo then ⟨wrapN k lo, fSat, ix⟩
    else ⟨wrapN k y, flagIf ix fNx, ix⟩
  | _ => ⟨0, 0, false⟩

/-- The quantisation of four blocks: for each j the scale (none where no element is active), and for each active element
its bits; flags; the context with its generators advanced. -/
structure MxOut where
  elems : List (Nat × Nat)
  scales : List (Nat × Nat)
  flags : Flags
  ctx : Ctx

/-- Quantise 128 FP32 words in four blocks of 32; `lane` and `active` are by word number. -/
def mxQuantise (k rm hw : Nat) (lane : Nat → Nat) (active : Nat → Bool) (x : Nat → FV) (c : Ctx) : MxOut :=
  (List.range 4).foldl (fun (a : MxOut) j =>
    let es := ((List.range 32).map (fun i => 32 * j + i)).filter active
    if es.isEmpty then a
    else
      match mxScale (es.map x) with
      | none =>
        { a with elems := a.elems ++ es.map (fun e => (e, 0)), scales := a.scales ++ [(j, 255)], flags := a.flags ||| fNv }
      | some sc =>
        es.foldl (fun (a : MxOut) e =>
          let (r, c1) := srLane rm hw a.ctx (lane e) (fun u => mxQuant k sc rm u (x e))
          { a with elems := a.elems ++ [(e, r.bits)], flags := a.flags ||| r.flags, ctx := c1 })
          { a with scales := a.scales ++ [(j, sc)] }) ⟨[], [], 0, c⟩

/-- VQNT: field c of the syllable is the register of the scale bytes. Bits of an
element that is not active, in a byte that it shares with an active one, stay as they are when the result lands. -/
def execVqnt (o : V2) (c q : Nat) (s : State) : Out :=
  let k := mxBits o.t
  s.perform (s.fullChk (k != 8)) (anyE (s.me.guardW o.g) 4) none none (fun s =>
    let hw := s.cur.hw
    let m := s.me.guardW o.g
    let va := s.me.vreg o.a
    let r := mxQuantise k s.me.rm hw (fun e => e) (fun e => activeE m 4 e) (fun e => fElem va .f e) s.me
    let base := 4 * q * 32 * k
    let val := r.elems.foldl (fun v x => v + x.2 * 2 ^ (base + x.1 * k)) 0
    let cover := r.elems.foldl (fun v x => v + (2 ^ k - 1) * 2 ^ (base + x.1 * k)) 0
    let bytes := r.elems.flatMap (fun x =>
      let p := base + x.1 * k
      [p / 8, (p + k - 1) / 8])
    let mask : Nat := (bytes.foldl (fun a b => if Nat.testBit a b then a else a + 2 ^ b) 0)
    let tail : Nat := if k = 8 then 0 else 2 ^ 512 - 2 ^ (64 * k)
    let sc := r.scales.foldl (fun a x => a + x.2 * 2 ^ (8 * (4 * q + x.1))) 0
    let scMask := r.scales.foldl (fun a x => a + 2 ^ (4 * q + x.1)) 0
    let s1 := s.setCtx hw r.ctx
    let s2 := s1.pushKept o.d (BitVec.ofNat 512 (mask + tail)) (spread (BitVec.ofNat 512 mask) &&& ~~~BitVec.ofNat 4096 cover)
      (BitVec.ofNat 4096 val) r.flags 4
    (s2.pushV c (BitVec.ofNat 512 scMask) (BitVec.ofNat 4096 sc) 0 4).charge hw 3 1)

/-- VDQNT: element `e` of the quarter, scaled by its block's scale byte. -/
def execVdqnt (o : V2) (c q : Nat) (s : State) : Out :=
  let k := mxBits o.t
  s.perform (s.fullChk (k != 8)) (anyE (s.me.guardW o.g) 4) none none (fun s =>
    let va := (s.me.vreg o.a).toNat
    let vc := (s.me.vreg c).toNat
    let rm := s.me.rm
    let s1 := s.roundV (s.me.guardW o.g) .f o.d 4 (laneOf .f) (fun e u =>
      let sc := elem vc 1 (4 * q + e / 32)
      let x := signed k (va / 2 ^ ((4 * q * 32 + e) * k) % 2 ^ k)
      if sc = 255 then ⟨f32.nan, fNv, false⟩
      else f32.round rm u (decide (x < 0)) x.natAbs ((sc : Int) - 127 - (k - 2 : Nat)))
    s1.charge s.cur.hw 3 1)

/-! ## Reduction (R145) -/

/-- One level of the tree: neighbours are combined; an absent one passes the other through. -/
def redLevel {α σ : Type} (f : Nat → α → α → σ → α × σ) : Nat → List (Option α) → σ → List (Option α) × σ
  | i, some a :: some b :: r, st =>
    let (x, st1) := f i a b st
    let (xs, st2) := redLevel f (i + 1) r st1
    (some x :: xs, st2)
  | i, some a :: none :: r, st =>
    let (xs, st1) := redLevel f (i + 1) r st
    (some a :: xs, st1)
  | i, none :: b :: r, st =>
    let (xs, st1) := redLevel f (i + 1) r st
    (b :: xs, st1)
  | _, [x], st => ([x], st)
  | _, [], st => ([], st)

/-- The whole tree: nine levels reach one element from 512. -/
def redTree {α σ : Type} (f : Nat → α → α → σ → α × σ) : Nat → List (Option α) → σ → Option α × σ
  | 0, xs, st => (xs.headD none, st)
  | n + 1, xs, st =>
    let (ys, st1) := redLevel f 0 xs st
    redTree f n ys st1

/-- Combine two integer elements. -/
def redInt (op : RedOp) (t : ETy) (x y : Nat) : Nat :=
  match op with
  | .add => (x + y) % 2 ^ (8 * t.width)
  | .min => if tyRead t x ≤ tyRead t y then x else y
  | .max => if tyRead t x < tyRead t y then y else x
  | .and => x &&& y
  | .or => x ||| y
  | .xor => x ^^^ y

/-- An element widened to FP32: a NaN enters as the canonical NaN. -/
def widenF (t : ETy) (x : Nat) : Nat × Flags :=
  let r := FFmt.convert (ffmtOf t) f32 0 0 x
  (r.bits, r.flags)

/-- Combine two FP32 nodes; node `i` of a level uses the generator of lane i mod 128. -/
def redFlt (op : RedOp) (rm hw : Nat) (i x y : Nat) (st : Flags × Ctx) : Nat × (Flags × Ctx) :=
  match op with
  | .min =>
    let r := f32.minmax false x y
    (r.1, (st.1 ||| r.2, st.2))
  | .max =>
    let r := f32.minmax true x y
    (r.1, (st.1 ||| r.2, st.2))
  | _ =>
    let (r, c) := srLane rm hw st.2 (i % 128) (fun u => f32.addV rm u (f32.decode x) (f32.decode y))
    (r.bits, (st.1 ||| r.flags, c))

def execVred (o : V2) (op : RedOp) (s : State) : Out :=
  let w := o.t.width
  s.vw o.g w 3 (fun s =>
    let hw := s.cur.hw
    let m := s.me.guardW o.g
    let va := (s.me.vreg o.a).toNat
    let es := List.range o.t.count
    if o.t.isFloat then
      let xs := es.map (fun e => if activeE m w e then some (widenF o.t (elem va w e)) else none)
      let fl := xs.foldl (fun a x => match x with
        | some p => a ||| p.2
        | none => a) (0 : Flags)
      let r := redTree (redFlt op s.me.rm hw) 9 (xs.map (fun x => x.map (fun p => p.1))) (fl, s.me)
      (s.setCtx hw r.2.2).pushV o.d 0xF#512 (BitVec.ofNat 4096 (r.1.getD 0)) r.2.1 6
    else
      let xs := es.map (fun e => if activeE m w e then some (elem va w e) else none)
      let r := redTree (fun _ x y (_ : Unit) => (redInt op o.t x y, ())) 9 xs ()
      s.pushV o.d (BitVec.ofNat 512 (2 ^ w - 1)) (BitVec.ofNat 4096 (r.1.getD 0)) 0 6)

end Sys2Proof.Machine
end

