-- ==== Sys2Proof/Machine/Array.lean ====
section
/-!
DEFINITION. The array and the accumulator store (R57 to R62, R168 to R189): records and their fetch schedule, the checks
at issue, the sums of a cell, the cycle-by-cycle work of products and transfers, and the M instructions but for MSEAM
and MRESUME. Cuts (R312 to R318) appear here as far as they change a running product.
-/

namespace Sys2Proof.Machine

/-! ## Formats (R57, R170) -/

/-- The class of a product. -/
inductive PClass where
  | bf
  | int
  | mx
  deriving DecidableEq, Repr

/-- Element bits of an FMT code: bf, b, mx8, mx6, mx4. -/
def opBits : Nat → Nat
  | 0 => 16
  | 1 => 8
  | 2 => 8
  | 3 => 6
  | _ => 4

/-- The class of a format pair, none where the pair mixes classes. -/
def classOf (fa fb : Nat) : Option PClass :=
  if fa = 0 ∧ fb = 0 then some .bf
  else if fa = 1 ∧ fb = 1 then some .int
  else if 2 ≤ fa ∧ 2 ≤ fb then some .mx
  else none

/-- The gang: products that a cell forms in an array cycle. -/
def gangOf (fa fb : Nat) : Nat :=
  match classOf fa fb with
  | some .int => 2
  | some .mx => 32 / (opBits fa / 2 * (opBits fb / 2))
  | _ => 1

/-- Steps of a product over `p` positions. -/
def stepsOf (g p : Nat) : Nat := (p + g - 1) / g

/-! ## Records and their lines (R173, R174) -/

/-- Lines of scale bytes that stand before the elements of a record. -/
def scaleLines (f p : Nat) : Nat := if 2 ≤ f then (p / 32 + 63) / 64 else 0
/-- Lines of elements. -/
def elemLines (f p : Nat) : Nat := (p * opBits f + 511) / 512
/-- Bytes of a record. -/
def recBytes (f p : Nat) : Nat := 64 * scaleLines f p + p * opBits f / 8

/-- The lines of a record that step `q` is the first to use, if a step from `r` on uses them too. -/
def linesAtStep (f g p q r : Nat) : List Nat :=
  let ns := scaleLines f p
  let k := opBits f
  let sc := (g * q + 2047) / 2048
  let el := (k * g * q + 511) / 512
  (if sc < ns ∧ 2048 * sc / g = q ∧ r ≤ (2048 * (sc + 1) - 1) / g then [sc] else []) ++
    (if el < elemLines f p ∧ 512 * el / (k * g) = q ∧ r ≤ (512 * (el + 1) - 1) / k / g then [ns + el] else [])

/-- A line that the array port reads: B side, row or column, line of the record, line of the own scratchpad. -/
structure LRef where
  b : Bool
  idx : Nat
  l : Nat
  line : Nat
  deriving DecidableEq, Repr

/-! ## Cuts as a running product sees them (R314 to R316) -/

/-- The index of a voluntary cut (R315). -/
def Prod.cutIndex (p : Prod) (h : Nat) : Nat := min p.spec.s ((h : Int) - p.issue - 3).toNat

/-- The seam index of row `i` (A side) or column `i` (B side). -/
def Prod.seamIndex (p : Prod) (c : Cut) (b : Bool) (i : Nat) : Nat :=
  max ((if b then p.rb else p.ra).getD i 0)
    (if c.fault then min p.spec.s ((c.at_ : Int) - p.issue - 3 - i).toNat else p.cutIndex c.at_)

/-- A product that has injected no step and is no resumed one (logs 50 and 34). -/
def Prod.unstarted (p : Prod) (c : Cut) : Bool :=
  !p.resumed && decide (p.seamIndex c false 0 = 0) && decide (p.seamIndex c true 0 = 0)

def cellKey (i j : Nat) : Nat := 64 * i + j

/-- The count that a cell held when its product was resumed. -/
def Prod.cellCnt (p : Prod) (i j : Nat) : Nat := SMap.getD p.cnt (cellKey i j) 0

/-- A cell that took no part in the resume of its product. -/
def Prod.idle (p : Prod) (i j : Nat) : Bool := p.resumed && decide (p.cellCnt i j = p.spec.p)

/-- The consumed count of a cell at a cut. -/
def Prod.consumed (p : Prod) (c : Cut) (i j : Nat) : Nat :=
  let k := p.spec.g * min (p.seamIndex c false i) (p.seamIndex c true j)
  let n := match classOf p.spec.fa p.spec.fb with
    | some .mx => min p.spec.p (32 * (k / 32))
    | _ => min p.spec.p k
  max n (p.cellCnt i j)

/-- The array cycle at which a cell of a cut product surrenders, none where it commits or takes no part. -/
def Prod.surrenderAt (p : Prod) (c : Cut) (i j : Nat) : Option Int :=
  if p.unstarted c || p.idle i j || decide (p.consumed c i j = p.spec.p) then none
  else if c.fault then some ((c.at_ : Int) + 1 + i + j)
  else some (p.issue + 4 + i + j + p.seamIndex c false i)

/-- The array cycle at which a cell commits, none where it does not (R176, R320). -/
def Prod.commitAt (p : Prod) (i j : Nat) : Option Int :=
  if p.idle i j then none
  else
    match p.cut with
    | none => some (p.issue + p.spec.s + i + j + 4)
    | some c =>
      if p.unstarted c || decide (p.consumed c i j < p.spec.p) then none
      else some (p.issue + p.spec.s + i + j + 4)

/-- Steps that the streams of a product still inject: none after a fault cut, up to the marker after a voluntary one. -/
def Prod.lastIndex (p : Prod) : Nat :=
  match p.cut with
  | none => p.spec.s
  | some c => if c.fault then 0 else p.cutIndex c.at_

/-- Steps are left to inject at an array cycle (R312). -/
def Prod.stepsLeft (p : Prod) (t : Int) : Bool :=
  match p.cut with
  | some c => !c.fault && decide (t ≤ p.issue + max p.spec.zone.rows p.spec.zone.cols + p.cutIndex c.at_ + 1)
  | none => decide (t ≤ p.issue + max p.spec.zone.rows p.spec.zone.cols + p.spec.s + 1)

/-! ## The fetch schedule (R174, R175) -/

/-- The lines of one side that a product reads at array cycle `t`. -/
def Prod.sideAt (p : Prod) (b : Bool) (t : Int) : List LRef :=
  let n := if b then p.spec.zone.cols else p.spec.zone.rows
  let f := if b then p.spec.fb else p.spec.fa
  let base := if b then p.spec.b else p.spec.a
  let pitch := if b then p.spec.pb else p.spec.pa
  let r := if b then p.rb else p.ra
  (List.range n).flatMap (fun (i : Nat) =>
    let q := t - p.issue - 1 - i
    if 0 ≤ q ∧ q < p.lastIndex then
      (linesAtStep f p.spec.g p.spec.p q.toNat (r.getD i 0)).map (fun l => ⟨b, i, l, (base + i * pitch) / 64 + l⟩)
    else [])

def PKind.streams : PKind → Bool
  | .mstrm => true
  | .mstrmAcc => true
  | _ => false

def PKind.accs : PKind → Bool
  | .macc => true
  | .maccs => true
  | .mstrmAcc => true
  | _ => false

/-- The lines that a product reads at array cycle `t`. -/
def Prod.linesAt (p : Prod) (t : Int) : List LRef :=
  p.sideAt false t ++ (if p.spec.kind.streams then [] else p.sideAt true t)

/-- The first line of a new product that needs a bank in which another line is needed in the same cycle, over `n` array
cycles from `t`. -/
def portConflict (old : List Prod) (new : Prod) (t : Int) : Nat → Option Nat
  | 0 => none
  | n + 1 =>
    match firstConflict ((old.flatMap (fun p => p.linesAt t)).map (fun r => r.line))
        ((new.linesAt t).map (fun r => r.line)) with
    | some l => some l
    | none => portConflict old new (t + 1) n

/-- Array cycles over which a product reads lines. -/
def Prod.fetchSpan (p : Prod) : Nat := p.spec.s + max p.spec.zone.rows p.spec.zone.cols

/-! ## Shared cells (R178, R318) and the limit of two (R313) -/

/-- The array cycle of the last step at a cell, as R178 counts it; none where the cell is free. -/
def Prod.lastStep (p : Prod) (i j : Nat) : Option Int :=
  if p.idle i j then none
  else
    match p.cut with
    | none => some (p.issue + 3 + i + j + p.spec.s)
    | some c =>
      match p.surrenderAt c i j with
      | some t => some (t - 1)
      | none => if p.unstarted c then none else some (p.issue + 3 + i + j + p.spec.s)

/-- The array cycle of a product's first step at a cell. -/
def Prod.firstStep (p : Prod) (i j : Nat) : Int := p.issue + 4 + i + j + max (p.ra.getD i 0) (p.rb.getD j 0)

/-- The cells of a zone. -/
def Zone.cells (z : Zone) : List (Nat × Nat) :=
  (List.range z.rows).flatMap (fun i => (List.range z.cols).map (fun j => (i, j)))

/-- The zone-relative coordinates of a logical cell, where it lies in the zone. -/
def Zone.rel (z : Zone) (r c : Nat) : Option (Nat × Nat) :=
  if z.row0 ≤ r ∧ r < z.row0 + z.rows ∧ z.col0 ≤ c ∧ c < z.col0 + z.cols then some (r - z.row0, c - z.col0) else none

/-- R178 holds between a product in flight and a later one. -/
def Prod.clearOf (new old : Prod) : Bool :=
  new.spec.zone.cells.all (fun x =>
    if new.idle x.1 x.2 then true
    else
      match old.spec.zone.rel (new.spec.zone.row0 + x.1) (new.spec.zone.col0 + x.2) with
      | none => true
      | some (i, j) =>
        match old.lastStep i j with
        | none => true
        | some t => decide (t < new.firstStep x.1 x.2))

/-- Two products of the context have steps left already. -/
def tooMany (old : List Prod) (hw : Nat) (t : Int) : Bool :=
  decide (2 ≤ (old.filter (fun p => decide (p.hw = hw) && !p.orphan && p.stepsLeft t)).length)

/-- A line of a scratchpad lies in the group of its operand: A below 0x20_0000, B from there on (R173). -/
def inGroup (b : Bool) (line : Nat) : Bool := if b then decide (0x8000 ≤ line) && decide (line < 0x10000) else decide (line < 0x8000)

/-- The first record that breaks the group rule of R173: its start, which TADDR reports (log 122). -/
def groupBreach (p : PSpec) : Option Nat :=
  let la := recBytes p.fa p.p
  let lb := recBytes p.fb p.p
  if p.p = 0 then none
  else
    match (List.range p.zone.rows).find? (fun i => decide (0x200000 < p.a + i * p.pa + la)) with
    | some i => some (p.a + i * p.pa)
    | none =>
      if p.kind.streams then none
      else
        ((List.range p.zone.cols).find? (fun j =>
          decide (p.b + j * p.pb < 0x200000) || decide (0x400000 < p.b + j * p.pb + lb))).map (fun j => p.b + j * p.pb)

/-- BANKCF by the group rule. The mark in its detail, which the trap does not show, tells it from a conflict that only holds a
candidate back (R173, R175). -/
def groupChk (a : Nat) : Chk := ⟨3, BitVec.ofNat 64 a, 1⟩
def Chk.isGroup (k : Chk) : Bool := decide (k.code = 3) && decide (k.detail = 1)

/-- A product whose timing is counted in schedule cycles. -/
def Prod.bySched (p : Prod) : Prod :=
  { p with
    issue := p.sched
    cut := p.cut.map (fun c => { c with at_ := ((c.at_ : Int) + p.sched - p.issue).toNat }) }

/-- R178 for a product that MRESUME re-times: its own context's products are met by schedule cycles, since its wait advances
the array and not the counter (R326, R329), the others by array cycles (log 33). -/
def Prod.resumeClear (p : Prod) (old past : List Prod) : Bool :=
  (old.filter (fun q => decide (q.hw ≠ p.hw) || q.orphan)).all p.clearOf &&
    ((past ++ old).filter (fun q => decide (q.hw = p.hw) && !q.orphan)).all (fun q => p.bySched.clearOf q.bySched)

/-- What refuses a product in the array port and the cells from array cycle `t` on (R175, R178, R313); `clear` says that R178 holds. -/
def State.portMeets (s : State) (core : Nat) (p : Prod) (clear : Bool) (t : Int) : Option Chk :=
  let old := (s.core core).prods
  match portConflict old p t p.fetchSpan with
  | some l => some ⟨3, BitVec.ofNat 64 (64 * l), 0⟩
  | none => if clear && !tooMany old p.hw (t - 1) then none else some ⟨3, 0, 0⟩

/-- The checks of a product's records and ports at issue: the group rule, which traps any bundle (R173), then what R175 settles. -/
def State.portChk (s : State) (core : Nat) (p : Prod) (clear : Bool) : Option Chk :=
  match groupBreach p.spec with
  | some a => some (groupChk a)
  | none => s.portMeets core p clear ((s.core core).arr + 1)

/-! ## The sum of a cell (R58 to R62, R181, R182) -/

/-- A BF16 operand of the array: denormals are flushed to a zero of their sign (R44). -/
def bfOperand (x : Nat) : FV :=
  match bf16.decode x with
  | .fin n m e => .fin n (if m < 128 then 0 else m) e
  | v => v

/-- An accumulator's bits and the flags raised. -/
abbrev Acc := Nat × Flags

/-- One BF16 term: a product formed exactly and one rounding (R58, R62). -/
def termBf (acc : Acc) (a b : Nat) : Acc :=
  let r := f32.fmaV 0 0 (bfOperand a) (bfOperand b) (f32.decode acc.1)
  (r.bits, acc.2 ||| r.flags)

/-- One INT8 term: the exact sum clamped (R59). -/
def termInt (acc : Acc) (a b : Nat) : Acc :=
  let r := clampTo (-(2 ^ 31 : Nat)) ((2 ^ 31 : Nat) - 1) (signed 32 acc.1 + signed 8 a * signed 8 b)
  (wrapN 32 r.1, acc.2 ||| r.2)

/-- One MX block: an exact dot product, rounded, added with a second rounding (R60). -/
def termMx (ka kb sa sb : Nat) (acc : Acc) (terms : List (Nat × Nat)) : Acc :=
  if terms.isEmpty then acc
  else if sa = 255 ∨ sb = 255 then (f32.nan, acc.2 ||| fNv)
  else
    let d := terms.foldl (fun (d : Int) t => d + signed ka t.1 * signed kb t.2) 0
    let x := f32.round 0 0 (decide (d < 0)) d.natAbs ((sa : Int) + sb - 254 - (ka - 2 : Nat) - (kb - 2 : Nat))
    let r := f32.addV 0 0 (f32.decode acc.1) (f32.decode x.bits)
    (r.bits, acc.2 ||| x.flags ||| r.flags)

/-- The flags that a product can raise (R181). -/
def prodFlags (f : Flags) : Flags := f &&& (fNv ||| fOf ||| fSat)

/-- The code of position `pos` in the captured lines of a record. -/
def recElem (lines : SMap Nat) (row ns k pos : Nat) : Nat :=
  let bit := pos * k
  let l := ns + bit / 512
  let o := bit % 512
  let v := SMap.getD lines (row * 2 ^ 32 + l) 0
  (if 512 < o + k then v + 2 ^ 512 * SMap.getD lines (row * 2 ^ 32 + l + 1) 0 else v) / 2 ^ o % 2 ^ k

/-- The scale byte of block `b`. -/
def recScale (lines : SMap Nat) (row b : Nat) : Nat := byteAt (SMap.getD lines (row * 2 ^ 32 + b / 64) 0) (b % 64)
where
  byteAt (v k : Nat) : Nat := v / 2 ^ (8 * k) % 256

/-- Operand A at a position of row `i`, operand B at a position of column `j`. -/
def Prod.opA (p : Prod) (i pos : Nat) : Nat := recElem p.aLines i (scaleLines p.spec.fa p.spec.p) (opBits p.spec.fa) pos
def Prod.opB (p : Prod) (j pos : Nat) : Nat :=
  if p.spec.kind.streams then
    SMap.getD p.bSteps (pos / p.spec.g) 0 / 2 ^ (16 * j) % 65536 / 2 ^ (opBits p.spec.fb * (pos % p.spec.g)) %
      2 ^ opBits p.spec.fb
  else recElem p.bLines j (scaleLines p.spec.fb p.spec.p) (opBits p.spec.fb) pos

/-- A position is kept by the select mask (R182). -/
def Prod.kept (p : Prod) (pos : Nat) : Bool := Nat.testBit p.spec.sel (pos % 64)

/-- The positions `lo` to `hi - 1` that are kept. -/
def Prod.keptIn (p : Prod) (lo hi : Nat) : List Nat := ((List.range (hi - lo)).map (fun d => lo + d)).filter p.kept

/-- A starting value counts as an operand of a product that has positions (R62, R181, log 49). -/
def Prod.startAcc (p : Prod) (v : Nat) : Acc :=
  if p.spec.p = 0 ∨ p.spec.fa = 1 then (v, 0)
  else
    match f32.decode v with
    | .nan sg => (f32.nan, flagIf sg fNv)
    | _ => (v, 0)

/-- The accumulator of cell (i, j) after positions `lo` to `hi - 1`, from a starting value. Where `lo` lies inside a block of an MX
product, that block's earlier positions are discarded (R320). -/
def Prod.sum (p : Prod) (i j lo hi start : Nat) : Acc :=
  let acc := p.startAcc start
  match classOf p.spec.fa p.spec.fb with
  | some .bf => (p.keptIn lo hi).foldl (fun a pos => termBf a (p.opA i pos) (p.opB j pos)) acc
  | some .int => (p.keptIn lo hi).foldl (fun a pos => termInt a (p.opA i pos) (p.opB j pos)) acc
  | some .mx =>
    if p.spec.kind.streams || decide (p.spec.p % 32 ≠ 0) then (Config.imageSum p.id (cellKey i j) hi % 2 ^ 32, 0)
    else ((List.range (hi / 32 - lo / 32)).map (fun d => lo / 32 + d)).foldl (fun a b =>
      termMx (opBits p.spec.fa) (opBits p.spec.fb) (recScale p.aLines i b) (recScale p.bLines j b) a
        ((p.keptIn (max lo (32 * b)) (32 * b + 32)).map (fun pos => (p.opA i pos, p.opB j pos)))) acc
  | none => acc

/-- The starting value of a cell: a saved sum, the seed, or zero (R179, R320). -/
def Prod.startOf (p : Prod) (i j : Nat) : Nat :=
  if p.resumed then (SMap.getD p.sums (cellKey i j) 0).toNat
  else if p.spec.kind.accs then (SMap.getD p.seeds (cellKey i j) 0).toNat
  else 0

/-- The accumulator of a cell that has taken the positions below `hi`. -/
def Prod.cellSum (p : Prod) (i j hi : Nat) : Acc := p.sum i j (p.cellCnt i j) hi (p.startOf i j)

/-! ## Accumulator store (R184) -/

/-- The place of element (r, c) of a tile. -/
def acsKey (core tile r c : Nat) : Nat := 65536 * core + 4096 * tile + 64 * r + c
def State.acsRead (s : State) (core tile r c : Nat) : Word32 := SMap.getD s.mem.acs (acsKey core tile r c) 0
def State.acsWrite (s : State) (core tile r c : Nat) (v : Word32) : State :=
  { s with mem := { s.mem with acs := SMap.put s.mem.acs (acsKey core tile r c) v } }

/-- A word of the bias buffer. -/
def State.biasWrite (s : State) (key : Nat) (v : Word32) : State :=
  { s with mem := { s.mem with bias := SMap.put s.mem.bias key v } }

/-! ## What products do in an array cycle -/

/-- Bytes of a stream slice (R183). -/
def Prod.sliceBytes (p : Prod) : Nat := 2 * p.spec.zone.cols

/-- The steps of a streamed product whose slices are due at array cycle `t` or before and have not been taken. -/
def Prod.slicesDue (p : Prod) (t : Int) : List Nat :=
  if p.spec.kind.streams && p.cut.isNone then
    let last : Nat := min p.spec.s (t - p.issue).toNat
    let next := match p.bSteps.getLast? with
      | some x => max (x.1 + 1) p.port
      | none => p.port
    (List.range (last - next)).map (fun d => next + d)
  else []

/-- A free slice: a product whose context has ended has no stream port to read, and the spec names no value (log 22). -/
def freeSlice (draw : Nat) : Nat := (List.range 16).foldl (fun v k => v * 2 ^ 64 + (Config.freeWord (draw + k)).toNat) 0

/-- Take slices from the context's stream buffer while whole ones are there. -/
def State.takeSlices (s : State) (core : Nat) (p : Prod) : List Nat → State × Prod
  | [] => (s, p)
  | k :: r =>
    let e := (s.ctx p.hw).eng
    let n := p.sliceBytes
    if p.orphan then
      State.takeSlices { s with draw := s.draw + 16 } core
        { p with bSteps := SMap.put p.bSteps k (freeSlice s.draw % 2 ^ (8 * n)) } r
    else if n ≤ e.stream.length then
      let s1 := s.modCtx p.hw (fun c => { c with eng := { c.eng with stream := c.eng.stream.drop n } })
      State.takeSlices s1 core { p with bSteps := SMap.put p.bSteps k (ofBytes (e.stream.take n)) } r
    else (s, p)

/-- Products take the slices due at an array cycle, in order; of two that are due the older product takes its own first (log 121). -/
def State.sliceStage (s : State) (core : Nat) (t : Int) : State :=
  let r := (s.core core).prods.foldl (fun (a : State × List Prod) p =>
    let (s1, p1) := a.1.takeSlices core p (p.slicesDue t)
    (s1, a.2 ++ [p1])) (s, [])
  r.1.modCore core (fun k => { k with prods := r.2 })

/-- The products that miss a slice at an array cycle. -/
def State.sliceMissing (s : State) (core : Nat) (t : Int) : List Prod :=
  (s.core core).prods.filter (fun p => !(p.slicesDue t).isEmpty)

/-- A line of a core's scratchpad. -/
def State.spadLine (s : State) (core line : Nat) : Nat :=
  s.mem.spad.readN (core * Config.spadBytes + 64 * line) 64

/-- Keep a line in the product. -/
def Prod.keep (p : Prod) (r : LRef) (v : Nat) : Prod :=
  if r.b then { p with bLines := SMap.put p.bLines (r.idx * 2 ^ 32 + r.l) v }
  else { p with aLines := SMap.put p.aLines (r.idx * 2 ^ 32 + r.l) v }

/-- A line of a product's record; one outside its operand's group, which only a resumed product can name, is free (log 104). -/
def State.recLine (s : State) (core : Nat) (b : Bool) (line : Nat) : Nat :=
  if inGroup b line then s.spadLine core line else (Config.strayLine (core * 0x100000 + line)).toNat

/-- A product reads the lines of an array cycle. -/
def State.capture (s : State) (core : Nat) (t : Int) (p : Prod) : Prod :=
  (p.linesAt t).foldl (fun p r => p.keep r (s.recLine core r.b r.line)) p

/-- The array port's line reads of an array cycle, before its stores (R174). -/
def State.lineStage (s : State) (core : Nat) (t : Int) : State :=
  s.modCore core (fun k => { k with prods := k.prods.map (s.capture core t) })

/-- The cells (i, j) of a zone with i + j = d. -/
def Zone.diagonal (z : Zone) (d : Int) : List (Nat × Nat) :=
  (List.range z.rows).filterMap (fun (i : Nat) =>
    if (i : Int) ≤ d ∧ d - i < z.cols then some (i, (d - i).toNat) else none)

/-- The cells of a product that commit at an array cycle (R176): of a restored product also those that are due from before (R322). -/
def Prod.commitCells (p : Prod) (t : Int) : List (Nat × Nat) :=
  if p.late then p.spec.zone.cells.filter (fun x => (p.commitAt x.1 x.2).any (fun u => decide (u ≤ t)))
  else (p.spec.zone.diagonal (t - p.issue - p.spec.s - 4)).filter (fun x => decide (p.commitAt x.1 x.2 = some t))

/-- The commits of one product at an array cycle. -/
def State.commitProd (s : State) (core : Nat) (t : Int) (p : Prod) : State × Prod :=
  let cells := p.commitCells t
  let r := cells.foldl (fun (a : State × Prod) x =>
    let v := a.2.cellSum x.1 x.2 a.2.spec.p
    (a.1.acsWrite core p.spec.tile (p.spec.zone.row0 + x.1) (p.spec.zone.col0 + x.2) (BitVec.ofNat 32 v.1),
      { a.2 with flags := a.2.flags ||| prodFlags v.2 })) (s, p)
  (r.1.charge (seatOf p.hw) 9 cells.length, { r.2 with late := false })

/-- The surrenders of one product at an array cycle go to the bias buffer (R317). -/
def State.surrenderProd (s : State) (core : Nat) (t : Int) (p : Prod) : State :=
  match p.cut with
  | none => s
  | some c =>
    (p.spec.zone.cells.filter (fun x => decide (p.surrenderAt c x.1 x.2 = some t))).foldl (fun s x =>
      s.biasWrite (8192 * core + 4096 * c.slot + cellKey x.1 x.2)
        (BitVec.ofNat 32 (p.cellSum x.1 x.2 (p.consumed c x.1 x.2)).1)) s

/-- The flags of a job are settled (R56): its pending flag updates take the value. -/
def Ctx.settle (c : Ctx) (job : Nat) (f : Flags) : Ctx :=
  let upd (x : FPend) : FPend := if x.job = job then { x with flags := f, job := 0 } else x
  { c with pend := { c.pend with flg := c.pend.flg.map upd, frozenFlg := c.pend.frozenFlg.map upd } }

/-- The array cycle after which a product that is not cut has committed everywhere (R181). -/
def Prod.lastCommit (p : Prod) : Int := p.issue + p.spec.s + p.spec.zone.rows + p.spec.zone.cols + 2

/-- Commits and surrenders of an array cycle, the older product first. -/
def State.commitStage (s : State) (core : Nat) (t : Int) : State :=
  let r := (s.core core).prods.foldl (fun (a : State × List Prod) p =>
    let (s1, p1) := a.1.commitProd core t p
    let s2 := if p.late && !p.orphan && p.cut.isNone && decide (p.lastCommit ≤ t) then
        s1.modCtx p.hw (fun c => (c.settle p.id p1.flags).land) else s1
    (s2.surrenderProd core t p1, a.2 ++ [p1])) (s, [])
  r.1.modCore core (fun k => { k with prods := r.2 })

/-- The latest of some products that works at a physical cell, with the cell's place in its zone. -/
def latestAt (ps : List Prod) (r c : Nat) : Option (Prod × Nat × Nat) :=
  ps.reverse.findSome? (fun q =>
    match q.spec.zone.rel r c with
    | some (i, j) => if (q.lastStep i j).isSome then some (q, i, j) else none
    | none => none)

/-- The result that the previous product on a cell will commit to the tile element in the array cycle after `t`, where it writes this
element (R179). -/
def forwarded (earlier : List Prod) (tile r c : Nat) (t : Int) : Option Nat :=
  match latestAt earlier r c with
  | some (q, i, j) =>
    if q.spec.tile = tile ∧ (q.commitAt i j = some (t + 1) ∨ q.late ∧ (q.commitAt i j).any (fun u => decide (u ≤ t))) then
      some (q.cellSum i j q.spec.p).1
    else none
  | none => none

/-- A cell takes its starting value. -/
def Prod.seed (p : Prod) (i j : Nat) (v : Word32) : Prod := { p with seeds := SMap.put p.seeds (cellKey i j) v }

/-- The seeds that a product takes in an array cycle, after its writes (R179, R185); `earlier` are the older products with their
seeds of the cycle. -/
def State.seedProd (s : State) (core : Nat) (t : Int) (earlier : List Prod) (p : Prod) : State × Prod :=
  if p.spec.kind.accs && !p.resumed then
    let cells := p.spec.zone.diagonal (t - p.issue - 3)
    let p1 := cells.foldl (fun (q : Prod) x =>
      let r := p.spec.zone.row0 + x.1
      let c := p.spec.zone.col0 + x.2
      let v := match forwarded earlier p.spec.tile r c t with
        | some v => BitVec.ofNat 32 v
        | none => s.acsRead core p.spec.tile r c
      q.seed x.1 x.2 v) p
    (s.charge (seatOf p.hw) 9 cells.length, p1)
  else (s, p)

def State.seedStage (s : State) (core : Nat) (t : Int) : State :=
  let ps := (s.core core).prods
  let r := ps.foldl (fun (a : State × List Prod) p =>
    let (s1, p1) := a.1.seedProd core t a.2 p
    (s1, a.2 ++ [p1])) (s, [])
  r.1.modCore core (fun k => { k with prods := r.2 })

/-- Positions that the cells of a product multiply in an array cycle (R346, codes 6 to 8). -/
def Prod.multiplied (p : Prod) (t : Int) : Nat :=
  p.spec.zone.cells.foldl (fun n x =>
    let k := t - p.issue - 4 - x.1 - x.2
    let hi := match p.cut with
      | none => p.spec.p
      | some c => if p.unstarted c then 0 else p.consumed c x.1 x.2
    if 0 ≤ k ∧ k < p.spec.s ∧ !p.idle x.1 x.2 then
      let lo := p.spec.g * k.toNat
      n + (p.keptIn (max lo (p.cellCnt x.1 x.2)) (min (lo + p.spec.g) hi)).length
    else n) 0

/-- Energy of the positions multiplied in an array cycle. -/
def State.multiplyEnergy (s : State) (core : Nat) (t : Int) : State :=
  (s.core core).prods.foldl (fun s p =>
    let code := match classOf p.spec.fa p.spec.fb with
      | some .int => 7
      | some .mx => 8
      | _ => 6
    if SMap.getD (s.auxOf core).weights code 0 = 0 then s else s.charge (seatOf p.hw) code (p.multiplied t)) s

/-- A product leaves the array: its timing is kept while a product that its context resumes could still meet its steps in
schedule cycles. -/
def State.retire (s : State) (core : Nat) (p : Prod) : State :=
  if p.orphan then s
  else
    let n : Int := (s.ctx p.hw).run.sched
    let lean : Prod := { p with aLines := [], bLines := [], bSteps := [], seeds := [], sums := [] }
    s.modCore core (fun k => { k with past :=
      (k.past.filter (fun q => decide (q.hw ≠ p.hw) || decide (n < q.sched + q.spec.s + q.spec.zone.rows + q.spec.zone.cols + 4))) ++
        [lean] })

/-- Products that have committed everywhere complete: token and flags (R181). -/
def State.finishStage (s : State) (core : Nat) (t : Int) : State :=
  let done := (s.core core).prods.filter (fun p => p.cut.isNone && decide (p.lastCommit ≤ t))
  let s1 := done.foldl (fun s p =>
    if p.orphan then s else (s.retire core p).modCtx p.hw (fun c => (c.settle p.id p.flags).tokDown p.spec.tok)) s
  if done.isEmpty then s1
  else s1.modCore core (fun k => { k with prods := k.prods.filter (fun p =>
    !(p.cut.isNone && decide (p.lastCommit ≤ t))) })

/-! ## Transfers between tiles and scratchpad (R188, R189) -/

/-- Bytes of a record of `n` columns. -/
def xferBytes (u : ETy) (n : Nat) : Nat := if u.isMx then n * mxBits u / 8 + n / 32 else n * u.width

/-- The address of a zone row's record. -/
def Xfer.rowAddr (x : Xfer) (i : Nat) : Word := x.addr + BitVec.ofNat 64 (i * x.pitch)

/-- The bytes of a zone row's record as moves of the core port (R93). -/
def Xfer.rowMoves (x : Xfer) (i : Nat) : Moves :=
  (List.range (xferBytes x.u x.zone.cols)).map (fun b => (b, x.rowAddr i + BitVec.ofNat 64 b))

/-- The lines that transfers use in an array cycle. -/
def xferLines (xs : List Xfer) (t : Nat) : List Nat :=
  xs.flatMap (fun x =>
    if x.issue < t ∧ t ≤ x.issue + x.zone.rows then linesOfMoves (x.rowMoves (t - x.issue - 1)) else [])

/-- The first line of a new transfer that conflicts with a transfer in flight, over `n` array cycles from `t`. -/
def xferConflict (old : List Xfer) (new : Xfer) (t : Nat) : Nat → Option Nat
  | 0 => none
  | n + 1 =>
    match firstConflict (xferLines old t) (xferLines [new] t) with
    | some l => some l
    | none => xferConflict old new (t + 1) n

/-- One tile element converted for MRDS (not an MX type). -/
def storeOne (u : ETy) (shift rm draw : Nat) (v : Word32) : FRes :=
  if u.isFloat then
    if u = .f then ⟨v.toNat, 0, false⟩ else FFmt.convert f32 (ffmtOf u) rm draw v.toNat
  else
    let x := v.toInt
    let r := roundInt rm draw (decide (x < 0)) x.natAbs (-(shift : Int))
    let y := clampTo (tyLo u) (tyHi u) r.1
    ⟨wrapN (8 * u.width) y.1, y.2, r.2⟩

/-- The lane of a tile coordinate under SR (R188). -/
def tileLane (r c : Nat) : Nat := (64 * r + c) % 128

/-- The record of a zone row as one number, with flags and generators (R188). -/
def storeRow (x : Xfer) (i : Nat) (val : Nat → Word32) (c : Ctx) : Nat × Flags × Ctx :=
  let r := x.zone.row0 + i
  let lane (j : Nat) : Nat := tileLane r (x.zone.col0 + j)
  let n := x.zone.cols
  if x.u.isMx then
    let k := mxBits x.u
    let q := mxQuantise k x.rm x.hw lane (fun j => decide (j < n)) (fun j => f32.decode (val j).toNat) c
    let es := q.elems.foldl (fun a e => a + e.2 * 2 ^ (e.1 * k)) 0
    let sc := q.scales.foldl (fun a e => a + e.2 * 2 ^ (8 * e.1)) 0
    (es + 2 ^ (n * k) * sc, q.flags, q.ctx)
  else
    (List.range n).foldl (fun (a : Nat × Flags × Ctx) j =>
      let (f, c1) := srLane x.rm x.hw a.2.2 (lane j) (fun u => storeOne x.u x.shift x.rm u (val j))
      (a.1 + f.bits * 2 ^ (8 * x.u.width * j), a.2.1 ||| f.flags, c1)) (0, 0, c)

/-- One element of a record converted for MWRS, exactly but for an MX product outside FP32 (R189). -/
def loadOne (u : ETy) (rm n rec_ j : Nat) : Nat × Flags :=
  match u with
  | .mx8 | .mx6 | .mx4 =>
    let k := mxBits u
    let sc := rec_ / 2 ^ (n * k + 8 * (j / 32)) % 256
    let q := signed k (rec_ / 2 ^ (k * j) % 2 ^ k)
    if sc = 255 then (f32.nan, fNv)
    else
      let r := f32.round (if rm = 4 then 0 else rm) 0 (decide (q < 0)) q.natAbs ((sc : Int) - 127 - (k - 2 : Nat))
      (r.bits, r.flags)
  | .bf | .hf =>
    let r := FFmt.convert (ffmtOf u) f32 0 0 (elem rec_ u.width j)
    (r.bits, r.flags)
  | .b | .h => (wrapN 32 (tyRead u (elem rec_ u.width j)), 0)
  | _ => (elem rec_ 4 j, 0)

/-- An access of a transfer meets a byte out of range (R93). -/
def State.noteXfer (s : State) (x : Xfer) (ms : Moves) : State :=
  match offender ms with
  | some a =>
    if x.orphan then s
    else s.modCtx x.hw (fun c =>
      if c.fmt.spSet then c else { c with fmt := { c.fmt with spSet := true, spAddr := a } })
  | none => s

/-- One row of a transfer: MRDS writes its record after the bundles of the cycle, MWRS writes its tile row but for
elements that this cycle's bundles have written (R185, R188, R189). -/
def State.xferRow (s : State) (core : Nat) (x : Xfer) : State × Xfer :=
  let i := x.next
  let r := x.zone.row0 + i
  let ms := x.rowMoves i
  let s0 := ((s.noteXfer x ms).charge (seatOf x.hw) 5 (linesOfMoves ms).length).charge (seatOf x.hw) 9 1
  if x.write then
    let rec_ := ofBytes (ms.map (fun m => s.ownByte core m.2.toNat))
    let later := (s.core core).acsNow
    let out := (List.range x.zone.cols).foldl (fun (a : State × Flags) j =>
      let c := x.zone.col0 + j
      let v := loadOne x.u x.rm x.zone.cols rec_ j
      let hidden := later.any (fun w => decide (w.1 = x.tile) && (w.2.rel r c).isSome)
      (if hidden then a.1 else a.1.acsWrite core x.tile r c (BitVec.ofNat 32 v.1), a.2 ||| v.2)) (s0, 0)
    (out.1, { x with next := i + 1, flags := x.flags ||| out.2 })
  else
    let q := storeRow x i (fun j => s.acsRead core x.tile r (x.zone.col0 + j)) (s0.ctx x.hw)
    let s1 := if x.rm = 4 then s0.setCtx x.hw q.2.2 else s0
    let cells := (ms.filter (fun m => decide (m.2.toNat < Config.spadBytes))).map
      (fun m => (core * Config.spadBytes + m.2.toNat, byteOf q.1 m.1))
    (s1.coreWrite cells x.writer, { x with next := i + 1, flags := x.flags ||| q.2.1 })

/-- The rows that transfers of one direction move in array cycle `t`; a transfer whose last row is done completes. A generator that they
share with bundles or with one another advances for the bundles of the cycle first, then for the older transfer (log 118). -/
def State.xferStage (s : State) (core t : Nat) (write : Bool) : State :=
  let r := (s.core core).xfers.foldl (fun (a : State × List Xfer) x =>
    if x.write = write ∧ x.issue + 1 + x.next = t ∧ x.next < x.zone.rows then
      let (s1, x1) := a.1.xferRow core x
      if x1.next = x.zone.rows then
        (if x.orphan then s1 else s1.modCtx x.hw (fun c => (c.settle x.id x1.flags).tokDown x.tok), a.2)
      else (s1, a.2 ++ [x1])
    else (a.1, a.2 ++ [x])) (s, [])
  r.1.modCore core (fun k => { k with xfers := r.2 })

/-- The value of an MRDV: two tile rows (R187). -/
def State.mrdvValue (s : State) (core tile q : Nat) : VReg :=
  BitVec.ofNat 4096 (assemble 4 ((List.range 128).map (fun l => (s.acsRead core tile (q + l / 64) (l % 64)).toNat)))

/-- The result of an MRDV issued in array cycle `t` reads the tile. -/
def State.mrdvRead (s : State) (core t : Nat) (p : Pend) : Pend :=
  match p.acs with
  | some (tile, q) => if p.fin = t + 4 then { p with val := s.mrdvValue core tile q } else p
  | none => p

/-- The MRDVs issued in array cycle `t` read the tile after the cycle's writes (R185), those that a trap of their own bundle has
frozen too. -/
def State.mrdvStage (s : State) (core t : Nat) : State :=
  (List.range 4).foldl (fun s x =>
    let hw := 4 * core + x
    let c := s.ctx hw
    if (c.pend.val ++ c.pend.frozenVal).any (fun p => p.acs.isSome && decide (p.fin = t + 4)) then
      s.setCtx hw { c with pend := { c.pend with
        val := c.pend.val.map (s.mrdvRead core t)
        frozenVal := c.pend.frozenVal.map (s.mrdvRead core t) } }
    else s) s

/-! ## The M instructions (R180 to R189) -/

/-- The consume tokens of an M bundle (R180): an engine wait. -/
def State.consWait (s : State) (cons : Nat) : Option Wait := if s.me.tokensZero cons then none else some .engine

/-- The product of an instruction at issue. `stream` products have no B record. -/
def State.prodOf (s : State) (kind : PKind) (tile a b k zone tok pa pb sel : Nat) : Prod :=
  let c := s.me
  let fa := c.afmt
  let fb := c.bfmt
  let g := gangOf fa fb
  let p := (c.sreg k).toNat
  let core := s.core s.myCore
  ⟨s.front.nextId, s.cur.hw, false,
    ⟨kind, tile, c.zone zone, fa, fb, g, p, stepsOf g p, (c.sreg a).toNat, (c.sreg b).toNat, 64 * pa, 64 * pb, sel, tok,
      s.cur.bundle⟩,
    core.arr, c.run.sched, [], [], 0, [], [], [], [], [], [], false, 0, none, false⟩

/-- Formats that reduced service does not offer (R37). -/
def reducedFmt (f : Nat) : Bool := decide (f = 3) || decide (f = 4)

/-- The checks of a product at issue in the order of R180. -/
def State.prodChk (s : State) (p : Prod) : Option Chk :=
  let q := p.spec
  match classOf q.fa q.fb with
  | none => some ⟨1, 0, 0⟩
  | some cl =>
    if (q.kind.streams && decide (cl = .mx)) || (!s.mod.full && (reducedFmt q.fa || reducedFmt q.fb)) ||
        (decide (cl = .mx) && decide (q.p % 32 ≠ 0)) then some ⟨1, 0, 0⟩
    else if 65536 < q.p then some ⟨2, 0, 0⟩
    else if q.a % 64 ≠ 0 then some ⟨9, BitVec.ofNat 64 q.a, 0⟩
    else if !q.kind.streams && decide (q.b % 64 ≠ 0) then some ⟨9, BitVec.ofNat 64 q.b, 0⟩
    else s.portChk s.myCore p ((s.core s.myCore).prods.all p.clearOf)

/-- Schedule cycles from issue to the ready cycle (R16 with R170). -/
def Prod.readyAfter (p : Prod) : Nat := p.spec.s + p.spec.zone.rows + p.spec.zone.cols + 5

/-- The flags of a job land `n` schedule cycles from now. -/
def Ctx.laterFlags (c : Ctx) (job n arr : Nat) (prod : Bool) : Ctx :=
  let f : FPend := ⟨0, c.run.sched + n, arr + n, job, prod⟩
  { c with pend := { c.pend with flg := c.pend.flg ++ [f] } }

/-- A product enters the array: its token counts up and its flags wait for the ready cycle. -/
def State.startProd (s : State) (p : Prod) : State :=
  let s1 := s.fresh.2.modCore s.myCore (fun k => { k with prods := k.prods ++ [p] })
  s1.modCtx s.cur.hw (fun c => (c.laterFlags p.id p.readyAfter (s.core s.myCore).arr true).tokUp p.spec.tok)

/-- A product instruction. -/
def State.product (s : State) (cons : Nat) (p : Prod) : Out :=
  s.perform none true (s.consWait cons) (s.prodChk p) (fun s => s.startProd p)

def execMmul (o : MM) (s : State) : Out :=
  s.product o.cons (s.prodOf .mmul o.tile o.a o.b o.k o.zone o.prod o.apitch o.bpitch (2 ^ 64 - 1))
def execMacc (o : MM) (s : State) : Out :=
  s.product o.cons (s.prodOf .macc o.tile o.a o.b o.k o.zone o.prod o.apitch o.bpitch (2 ^ 64 - 1))
def execMmuls (o : MM) (sel : Nat) (s : State) : Out :=
  s.product o.cons (s.prodOf .mmuls o.tile o.a o.b o.k o.zone o.prod o.apitch o.bpitch sel)
def execMaccs (o : MM) (sel : Nat) (s : State) : Out :=
  s.product o.cons (s.prodOf .maccs o.tile o.a o.b o.k o.zone o.prod o.apitch o.bpitch sel)
def execMstrm (o : MS) (s : State) : Out :=
  s.product o.cons (s.prodOf (if o.acc then .mstrmAcc else .mstrm) o.tile o.a 0 o.k o.zone o.prod o.apitch 0 (2 ^ 64 - 1))

/-- The elements of a zone of a tile take values, and the cycle remembers the write (R185). -/
def State.acsZone (s : State) (tile : Nat) (z : Zone) (v : Nat → Nat → Word32) : State :=
  let core := s.myCore
  let s1 := z.cells.foldl (fun s x => s.acsWrite core tile (z.row0 + x.1) (z.col0 + x.2) (v x.1 x.2)) s
  (s1.modCore core (fun k => { k with acsNow := (tile, z) :: k.acsNow })).charge s.cur.hw 9 z.rows

/-- MZERO: its token completes in the cycle of issue (R186). -/
def execMzero (o : MZ) (s : State) : Out :=
  s.perform none true (s.consWait o.cons) none (fun s => s.acsZone o.tile (s.me.zone o.zone) (fun _ _ => 0))

/-- The row limit of MRDV and MWRV (R187). -/
def rowChk (m : Mod) (q : Word) : Option Chk := if m.rows < q.toNat + 2 then some ⟨2, 0, 0⟩ else none

/-- MRDV: the copy is taken at issue and again after the cycle's other writes. -/
def execMrdv (o : MV) (s : State) : Out :=
  s.perform none true (s.consWait o.cons) (rowChk s.mod (s.me.sreg o.row)) (fun s =>
    let q := (s.me.sreg o.row).toNat
    let v := s.mrdvValue s.myCore o.tile q
    let arr := (s.core s.myCore).arr
    let p : Pend := ⟨.v o.v, BitVec.allOnes 512, v, 0, s.now + 4, arr + 4, s.cur.bundle, some (o.tile, q), o.prod, 0⟩
    let add (c : Ctx) : Ctx := { c with pend := { c.pend with val := c.pend.val ++ [p] } }
    (s.modCtx s.cur.hw (fun c => (add c).tokUp o.prod)).charge s.cur.hw 9 2)

def execMwrv (o : MV) (s : State) : Out :=
  s.perform none true (s.consWait o.cons) (rowChk s.mod (s.me.sreg o.row)) (fun s =>
    let q := (s.me.sreg o.row).toNat
    let v := (s.me.vreg o.v).toNat
    s.acsZone o.tile ⟨q, 0, 2, 64⟩ (fun h c => BitVec.ofNat 32 (elem v 4 (64 * h + c))))

/-- The transfer of an MRDS or MWRS at issue. -/
def State.xferOf (s : State) (write : Bool) (o : MX) : Xfer :=
  let c := s.me
  ⟨s.front.nextId, s.cur.hw, false, write, o.tile, c.zone o.zone, c.sreg o.addr, 64 * o.pitch, o.u, o.shift, c.rm,
    (s.core s.myCore).arr, 0, 0, o.prod, false, c.writer, s.cur.bundle⟩

/-- The checks of a transfer: whole MX blocks, alignment, and the core port against transfers in flight (R188). -/
def State.xferChk (s : State) (x : Xfer) : Option Chk :=
  if x.u.isMx && decide (x.zone.cols % 32 ≠ 0) then some ⟨1, 0, 0⟩
  else if x.addr.toNat % 64 ≠ 0 then some ⟨9, x.addr, 0⟩
  else (xferConflict (s.core s.myCore).xfers x (x.issue + 1) x.zone.rows).map (fun l => ⟨3, BitVec.ofNat 64 (64 * l), 0⟩)

/-- A transfer starts: its token counts up and its flags wait for schedule cycle issue + rows + 1. -/
def State.startXfer (s : State) (x : Xfer) : State :=
  let s1 := s.fresh.2.modCore s.myCore (fun k => { k with xfers := k.xfers ++ [x] })
  s1.modCtx s.cur.hw (fun c => (c.laterFlags x.id (x.zone.rows + 1) x.issue false).tokUp x.tok)

def State.transfer (s : State) (write : Bool) (o : MX) : Out :=
  s.perform none true (s.consWait o.cons) (s.xferChk (s.xferOf write o)) (fun s => s.startXfer (s.xferOf write o))

def execMrds (o : MX) (s : State) : Out := s.transfer false o
def execMwrs (o : MX) (s : State) : Out := s.transfer true o

/-- IDLE: the slot's latch becomes idle. -/
def execIdleM (s : State) : Out := .next (s.modCtx s.cur.hw (fun c => c.emptyLatch s.cur.slot))

end Sys2Proof.Machine
end

