-- ==== Sys2Proof/Machine/Fetch.lean ====
section
/-!
DEFINITION. Instruction fetch (R17, R18, R32, R199): program pages, the bytes a bundle needs, and its syllables.
-/

namespace Sys2Proof.Machine

/-- The segment that maps a program address of a core (R283, log 59). -/
def State.segAt (s : State) (core va : Nat) : Option Seg :=
  (s.core core).segs.find? (fun g => g.mapped && decide ((va + 2 ^ 32 - g.paddr) % 2 ^ 32 < 4096 * g.npages))

/-- The IMEM byte at a program address; an unmapped address has none and reads 0 here. -/
def State.imemByte (s : State) (core va : Nat) : Byte :=
  match s.segAt core va with
  | none => 0
  | some g => s.mem.imem.read (core * Config.imemBytes + g.ipage * 4096 + (va + 2 ^ 32 - g.paddr) % 2 ^ 32)

/-- `n` bytes from a program address, little-endian. -/
def State.imemN (s : State) (core va : Nat) : Nat → Nat
  | 0 => 0
  | n + 1 => (s.imemByte core (va % 2 ^ 32)).toNat + 256 * State.imemN s core (va + 1) n

/-- What a fetch answers: a value, a stall for a copy in flight, or IFETCH with the lowest failing page (R32). -/
inductive Got (α : Type) where
  | ok (a : α)
  | stall
  | trap (page : Nat)
  deriving DecidableEq, Repr

/-- Bytes `va` to `va + n - 1` are resident (n at most 4096). -/
def State.need (s : State) (core va n : Nat) : Got Unit :=
  let p0 := va / 4096 * 4096
  let p1 := (va + n - 1) / 4096 * 4096 % 2 ^ 32
  match s.segAt core p0, s.segAt core p1 with
  | none, _ => .trap p0
  | some _, none => .trap p1
  | some a, some b => if a.inflight || b.inflight then .stall else .ok ()

/-- A header names slot `k` (R17). -/
def hasSlot (hdr k : Nat) : Bool := decide (fld hdr (31 - k) 1 = 1)
def hdrStop (hdr : Nat) : Bool := decide (fld hdr 21 1 = 1)
def hdrRep (hdr : Nat) : Nat := fld hdr 16 5
def hdrDebug (hdr : Nat) : Bool := decide (fld hdr 15 1 = 1)
def hdrHem (hdr : Nat) : Bool := decide (fld hdr 14 1 = 1)
def hdrSync (hdr : Nat) : Bool := decide (fld hdr 13 1 = 1)
def hdrHost (hdr : Nat) : Bool := decide (fld hdr 12 1 = 1)

/-- Bytes of a slot's syllable, then of what follows it: a literal or the select extension (R18). -/
def sylBytes (k : Nat) : Nat := if 3 ≤ k ∧ k ≤ 7 then 8 else 4
def extBytes (hdr : Nat) (sel : Bool) (k : Nat) : Nat :=
  match k with
  | 1 => if fld hdr 11 1 = 1 then 4 else 0
  | 2 => if fld hdr 10 1 = 1 then 4 else 0
  | 6 => if sel then 8 else 0
  | _ => 0

/-- Slot, offset of its syllable and bytes after it, for the slots from `k` on, and the bundle's length. -/
def layoutFrom (hdr : Nat) (sel : Bool) : Nat → Nat → Nat → List (Nat × Nat × Nat) × Nat
  | 0, _, off => ([], off)
  | n + 1, k, off =>
    if hasSlot hdr k then
      let e := extBytes hdr sel k
      let (r, len) := layoutFrom hdr sel n (k + 1) (off + sylBytes k + e)
      ((k, off, e) :: r, len)
    else layoutFrom hdr sel n (k + 1) off

def layout (hdr : Nat) (sel : Bool) : List (Nat × Nat × Nat) × Nat := layoutFrom hdr sel 10 0 4

/-- The offset of the M opcode's byte: the syllable's highest. -/
def mOpAt (hdr : Nat) : Option Nat := ((layout hdr false).1.find? (fun x => decide (x.1 = 6))).map (fun x => x.2.1 + 7)

/-- Header, select extension and length of the bundle at an address: from its header and its M opcode (R18). -/
def State.bundleHead (s : State) (core a : Nat) : Got (Nat × Bool × Nat) :=
  match s.need core a 4 with
  | .trap p => .trap p
  | .stall => .stall
  | .ok _ =>
    let hdr := s.imemN core a 4
    match mOpAt hdr with
    | none => .ok (hdr, false, (layout hdr false).2)
    | some o =>
      match s.need core ((a + o) % 2 ^ 32) 1 with
      | .trap p => .trap p
      | .stall => .stall
      | .ok _ =>
        let op := (s.imemByte core ((a + o) % 2 ^ 32)).toNat
        let sel := decide (op = 3) || decide (op = 4)
        .ok (hdr, sel, (layout hdr sel).2)

/-- The header at an address, where its bundle's bytes are resident. -/
def State.memHead (s : State) (core a : Nat) : Got Nat :=
  match s.bundleHead core a with
  | .trap p => .trap p
  | .stall => .stall
  | .ok (hdr, _, _) => .ok hdr

/-- The opcode of the B syllable is CALL or CALLI. -/
def isCall (syls : List (Nat × Nat × Option Nat)) : Bool :=
  syls.any (fun x => decide (x.1 = 0) && (decide (fld x.2.1 26 6 = 0x0D) || decide (fld x.2.1 26 6 = 0x11)))

/-- Fetch the bundle at an address (R32). -/
def State.fetch (s : State) (core a : Nat) : Got Bundle :=
  match s.bundleHead core a with
  | .trap p => .trap p
  | .stall => .stall
  | .ok (hdr, sel, len) =>
    match s.need core a len with
    | .trap p => .trap p
    | .stall => .stall
    | .ok _ =>
      let syls := (layout hdr sel).1.map (fun x =>
        (x.1, s.imemN core (a + x.2.1) (sylBytes x.1),
          if x.2.2 = 0 then none else some (s.imemN core (a + x.2.1 + sylBytes x.1) x.2.2)))
      if isCall syls then
        let d1 := (a + len) % 2 ^ 32
        match s.bundleHead core d1 with
        | .trap p => .trap p
        | .stall => .stall
        | .ok (_, _, n1) =>
          let d2 := (d1 + n1) % 2 ^ 32
          match s.bundleHead core d2 with
          | .trap p => .trap p
          | .stall => .stall
          | .ok (_, _, n2) => .ok ⟨a, hdr, len, sel, syls, (d2 + n2) % 2 ^ 32⟩
      else .ok ⟨a, hdr, len, sel, syls, 0⟩

/-- The bundle of a context at an address: the one that it has fetched, once the phase of the fetch is passed (R373), else as IMEM
holds it. -/
def State.bundleAt (s : State) (hw a : Nat) : Got Bundle :=
  match (s.ctx hw).run.got with
  | some b => if (s.ctx hw).run.phase ≠ 1 ∧ b.addr = a then .ok b else s.fetch (coreOf hw) a
  | none => s.fetch (coreOf hw) a

/-- The header of a context's bundle at an address. -/
def State.headAt (s : State) (hw a : Nat) : Got Nat :=
  match (s.ctx hw).run.got with
  | some b => if (s.ctx hw).run.phase ≠ 1 ∧ b.addr = a then .ok b.hdr else s.memHead (coreOf hw) a
  | none => s.memHead (coreOf hw) a

/-- Literal flag of an absent slot, reserved bits, or a literal beside a select extension: the header's faults (R38). -/
def Bundle.headerBad (b : Bundle) : Bool :=
  decide (fld b.hdr 0 10 ≠ 0) || (decide (fld b.hdr 11 1 = 1) && (!hasSlot b.hdr 1 || b.sel)) ||
    (decide (fld b.hdr 10 1 = 1) && (!hasSlot b.hdr 2 || b.sel))

/-- The slots by number (R293). -/
def slotOf : Nat → Slot
  | 0 => .b
  | 1 => .x
  | 2 => .y
  | 3 => .v
  | 4 => .w
  | 5 => .l
  | 6 => .m
  | 7 => .c
  | 8 => .q
  | _ => .f

end Sys2Proof.Machine
end

