-- ==== Sys2Proof/Machine/Control.lean ====
section
/-!
DEFINITION. The branches and trap instructions of the B slot but for ERET (R191 to R201).
-/

namespace Sys2Proof.Machine

/-- A B syllable in a delay bundle traps with ILLBND (R194). -/
def Ctx.delayChk (c : Ctx) : Option Chk := if c.frame.br.st = 0 then none else some ⟨2, 0, 0⟩

/-- A branch commits: delay 1, with its target, taken bit and drain bit (R192). -/
def State.branchTo (s : State) (taken drain : Bool) (target : Nat) : State :=
  s.modCtx s.cur.hw (fun c => { c with frame := { c.frame with br := ⟨1, taken, drain, target % 2 ^ 32⟩ } })

/-- The target of an N-B branch (R191). -/
def relTarget (bundle : Nat) (disp : Int) : Nat := (((bundle : Int) + 4 * disp) % (2 ^ 32 : Nat)).toNat

/-- A branch of format N-B whose test is `t`. -/
def brWhen (drain : Bool) (disp : Int) (t : Ctx → Bool) (s : State) : Out :=
  s.perform s.me.delayChk true none none (fun s => s.branchTo (t s.me) drain (relTarget s.cur.bundle disp))

/-! ## Conditional branches (R197) -/

def execBrEqz (o : NBr) (s : State) : Out := brWhen o.drain o.disp (fun c => decide ((c.sreg o.r).toInt = 0)) s
def execBrNez (o : NBr) (s : State) : Out := brWhen o.drain o.disp (fun c => decide ((c.sreg o.r).toInt ≠ 0)) s
def execBrLtz (o : NBr) (s : State) : Out := brWhen o.drain o.disp (fun c => decide ((c.sreg o.r).toInt < 0)) s
def execBrGez (o : NBr) (s : State) : Out := brWhen o.drain o.disp (fun c => decide (0 ≤ (c.sreg o.r).toInt)) s
def execBrGtz (o : NBr) (s : State) : Out := brWhen o.drain o.disp (fun c => decide (0 < (c.sreg o.r).toInt)) s
def execBrLez (o : NBr) (s : State) : Out := brWhen o.drain o.disp (fun c => decide ((c.sreg o.r).toInt ≤ 0)) s
def execBrc (o : NBc) (s : State) : Out := brWhen o.drain o.disp (fun c => xor (c.creg o.c) o.neg) s

/-- NUNIF of a mixed predicate (R14). -/
def nunif (p : PReg) : Option Chk := if p = 0 ∨ p = BitVec.allOnes 512 then none else some ⟨4, 0, 0⟩

/-- BRP: the whole predicate, which must be uniform. -/
def brpWhen (o : NBr) (want : PReg) (s : State) : Out :=
  s.perform s.me.delayChk true none (nunif (s.me.preg o.r))
    (fun s => s.branchTo (decide (s.me.preg o.r = want)) o.drain (relTarget s.cur.bundle o.disp))

def execBrpAll (o : NBr) (s : State) : Out := brpWhen o (BitVec.allOnes 512) s
def execBrpNone (o : NBr) (s : State) : Out := brpWhen o 0 s

/-! ## Jumps, calls, loops (R198 to R200) -/

def execJmp (o : NBg) (s : State) : Out := brWhen o.drain o.disp (fun _ => true) s

/-- The low 32 bits of a register name a target; a set low bit traps with ALIGN, when the guard holds. -/
def targetOf (v : Word) : Nat := v.toNat % 2 ^ 32
def targetChk (on : Bool) (v : Word) : Option Chk :=
  if on && decide (targetOf v % 4 ≠ 0) then some ⟨9, BitVec.ofNat 64 (targetOf v), 0⟩ else none

/-- What keeps a CALL from issuing: a delay bundle's header in an unmapped page, or in one being copied (R32). -/
def State.callMode (s : State) : Option Chk :=
  match s.bundleAt s.cur.hw s.cur.bundle with
  | .trap p => some ⟨6, BitVec.ofNat 64 p, 0⟩
  | _ => none
def State.callWait (s : State) : Option Wait :=
  match s.bundleAt s.cur.hw s.cur.bundle with
  | .stall => some .fixed
  | _ => none
/-- The return address R of R199. -/
def State.returnAddr (s : State) : Word :=
  match s.bundleAt s.cur.hw s.cur.bundle with
  | .ok b => BitVec.ofNat 64 b.ret
  | _ => 0

def execCall (o : NBg) (s : State) : Out :=
  s.perform (s.me.delayChk <|> s.callMode) true s.callWait none (fun s =>
    let on := s.me.guardN o.g
    let s1 := s.branchTo on o.drain (relTarget s.cur.bundle o.disp)
    if on then s1.pushS 62 s.returnAddr 0 1 else s1)

/-- LOOPB (R200): a count of 0 writes nothing. -/
def execLoopb (o : NBr) (s : State) : Out :=
  s.perform s.me.delayChk true none none (fun s =>
    let n := s.me.sreg o.r
    let s1 := s.branchTo (decide (1 < n.toNat)) o.drain (relTarget s.cur.bundle o.disp)
    if n = 0 then s1 else s1.pushS o.r (n - 1) 0 1)

def execJmpi (o : NJ) (s : State) : Out :=
  s.perform s.me.delayChk true none (targetChk (s.me.guardN o.g) (s.me.sreg o.a))
    (fun s => s.branchTo (s.me.guardN o.g) o.drain (targetOf (s.me.sreg o.a)))

def execCalli (o : NJ) (s : State) : Out :=
  s.perform (s.me.delayChk <|> s.callMode) true s.callWait (targetChk (s.me.guardN o.g) (s.me.sreg o.a)) (fun s =>
    let on := s.me.guardN o.g
    let s1 := s.branchTo on o.drain (targetOf (s.me.sreg o.a))
    if on then s1.pushS 62 s.returnAddr 0 1 else s1)

/-- RET: the target is lk, s62. -/
def execRet (o : NJ) (s : State) : Out :=
  s.perform s.me.delayChk true none (targetChk (s.me.guardN o.g) (s.me.sreg 62))
    (fun s => s.branchTo (s.me.guardN o.g) o.drain (targetOf (s.me.sreg 62)))

/-! ## SVC and BRK (R201) -/

/-- The trap that follows the bundle's commit: the issue logic has moved the context to the next bundle. -/
def State.codeEff (s : State) (hw bundle cause code : Nat) : State :=
  s.takeTrap hw (syncTrap cause (BitVec.ofNat 64 code) 0) bundle

def codeTrap (cause : Nat) (o : NCode) (s : State) : Out :=
  s.perform s.me.delayChk (s.me.guardN o.g) none none (fun s => s.codeEff s.cur.hw s.cur.bundle cause o.code)

def execSvc (o : NCode) (s : State) : Out := codeTrap 11 o s
def execBrk (o : NCode) (s : State) : Out := codeTrap 12 o s

end Sys2Proof.Machine
end

