-- ==== Sys2Proof/Machine/Seam.lean ====
section
/-!
DEFINITION. Seams and bias images (R312 to R326, R330): cutting products, the image of a cut product, reading one back,
writing images, MSEAM and MRESUME, the cut of a major fault (R303), and ERET (R308).
-/

namespace Sys2Proof.Machine

/-! ## The image of a cut product (R323, R324) -/

/-- Bytes of an image slot. -/
def slotBytes : Nat := 0x20000

/-- The kind codes of R323. -/
def PKind.code : PKind → Nat
  | .mmul => 1
  | .macc => 2
  | .mmuls => 3
  | .maccs => 4
  | .mstrm => 5
  | .mstrmAcc => 6

def kindOf : Nat → Option PKind
  | 1 => some .mmul
  | 2 => some .macc
  | 3 => some .mmuls
  | 4 => some .maccs
  | 5 => some .mstrm
  | 6 => some .mstrmAcc
  | _ => none

/-- The least of a list, 0 for none. -/
def leastOf (l : List Nat) : Nat := l.foldl min (l.headD 0)

/-- The restart steps of rows and of columns (R320). -/
def restartA (z : Zone) (g : Nat) (c : Nat → Nat → Nat) : List Nat :=
  (List.range z.rows).map (fun i => leastOf ((List.range z.cols).map (c i)) / g)
def restartB (z : Zone) (g : Nat) (c : Nat → Nat → Nat) : List Nat :=
  (List.range z.cols).map (fun j => leastOf ((List.range z.rows).map (fun i => c i j)) / g)

/-- Bytes of fields (offset, width, value) that lie in rising order. -/
def fieldBytes (fs : List (Nat × Nat × Nat)) : Memory :=
  fs.flatMap (fun f => (List.range f.2.1).filterMap (fun k =>
    if byteOf f.2.2 k = blank then none else some (f.1 + k, byteOf f.2.2 k)))

/-- An empty slot: kind 0. The logical shape is the module's (R168, R323). -/
def emptyImage (m : Mod) : Memory := fieldBytes [(0, 4, 1), (4, 2, m.rows), (6, 2, m.cols)]

/-- The flags that the cells of a cut product have raised, with those of its earlier commits. -/
def Prod.imageFlags (p : Prod) (c : Cut) : Flags :=
  p.spec.zone.cells.foldl (fun f x =>
    if (p.surrenderAt c x.1 x.2).isSome then f ||| prodFlags (p.cellSum x.1 x.2 (p.consumed c x.1 x.2)).2 else f) p.flags

/-- The replay area (R319): steps of a column from its restart step up to those that the port keeps. -/
def Prod.replay (p : Prod) (c : Cut) (rb : List Nat) : List (Nat × Nat × Nat) :=
  if p.spec.kind.streams then
    let kb := leastOf ((List.range p.spec.zone.cols).map (p.seamIndex c true))
    (List.range 64).flatMap (fun t =>
      (List.range p.spec.zone.cols).filterMap (fun j =>
        let k := rb.getD j 0 + t
        if k < kb then some (0x8800 + 128 * t + 2 * j, 2, SMap.getD p.bSteps k 0 / 2 ^ (16 * j) % 65536) else none))
  else []

/-- The image of a cut product. `fill` gives the words of cells that surrender nothing in a zone where others do: the
spec states none for them (log 19). An unstarted product's slot holds the header alone, no fault list (R315, R316). -/
def Prod.image (p : Prod) (m : Mod) (c : Cut) (fill : Nat → Word32) : Memory :=
  let q := p.spec
  let z := q.zone
  let un := p.unstarted c
  let cnt (i j : Nat) : Nat := p.consumed c i j
  let ra := restartA z q.g cnt
  let rb := restartB z q.g cnt
  let k0 := if un then 0 else min (leastOf ra) (leastOf rb)
  let fl := if un then [] else c.faults
  let head : List (Nat × Nat × Nat) :=
    [(0, 4, 1), (4, 2, m.rows), (6, 2, m.cols), (8, 1, q.kind.code), (9, 1, q.tile), (10, 1, c.fault.toNat + 2 * un.toNat),
      (11, 1, q.tok), (12, 1, z.row0), (13, 1, z.col0), (14, 1, z.rows), (15, 1, z.cols), (16, 1, q.fa), (17, 1, q.fb),
      (18, 1, q.g), (19, 1, (p.imageFlags c).toNat), (20, 4, q.p), (24, 4, q.s), (28, 4, fl.length),
      (32, 8, (p.sched % (2 ^ 64 : Nat)).toNat), (40, 8, q.a), (48, 8, q.b), (56, 4, q.pa), (60, 4, q.pb), (64, 8, q.sel),
      (72, 4, k0), (76, 4, ((c.at_ : Int) - p.issue).toNat)]
  let faults := (List.range fl.length).map (fun n =>
    let f := fl.getD n (0, 0, 0)
    (0x300 + 8 * n, 8, f.1 * 2 ^ 32 + f.2.1 * 2 ^ 24 + f.2.2 * 2 ^ 16))
  if un then fieldBytes head
  else
    let ka := (List.range z.rows).map (fun i => (0x100 + 4 * i, 4, p.seamIndex c false i))
    let kb := (List.range z.cols).map (fun j => (0x200 + 4 * j, 4, p.seamIndex c true j))
    let counts := z.cells.map (fun x => (0x800 + 4 * cellKey x.1 x.2, 4, cnt x.1 x.2))
    let sums := z.cells.map (fun x =>
      let v := if (p.surrenderAt c x.1 x.2).isSome then (p.cellSum x.1 x.2 (cnt x.1 x.2)).1
        else (fill (cellKey x.1 x.2)).toNat
      (0x4800 + 4 * cellKey x.1 x.2, 4, v))
    fieldBytes (head ++ ka ++ kb ++ faults ++ counts ++ sums ++ p.replay c rb)

/-! ## Reading an image back (R320, R322, R330) -/

/-- What a slot holds: nothing that the array can resume, an empty slot, or a product whose issue is not yet timed, with
its smallest restart step. -/
inductive SlotRead where
  | bad
  | empty
  | prod (p : Prod) (k0 : Nat)
  deriving DecidableEq, Repr

/-- The steps that come from the replay area. -/
def replayed (m : Memory) (rb : List Nat) (kb : Nat) : SMap Nat :=
  let lo := leastOf rb
  (List.range (kb - lo)).map (fun d =>
    let k := lo + d
    (k, (List.range rb.length).foldl (fun v j =>
      let r := rb.getD j 0
      if r ≤ k ∧ k - r < 64 then v + m.readN (0x8800 + 128 * (k - r) + 2 * j) 2 * 2 ^ (16 * j) else v) 0))

/-- Read a slot from its bytes, on an array of the module's logical shape (log 51). -/
def readSlot (sh : Mod) (m : Memory) : SlotRead :=
  let rd (o n : Nat) : Nat := m.readN o n
  if rd 0 4 ≠ 1 ∨ rd 4 2 ≠ sh.rows ∨ rd 6 2 ≠ sh.cols then .bad
  else if rd 8 1 = 0 then .empty
  else
    match kindOf (rd 8 1), classOf (rd 16 1) (rd 17 1) with
    | some kind, some _ =>
      let z : Zone := ⟨rd 12 1, rd 13 1, rd 14 1, rd 15 1⟩
      let fa := rd 16 1
      let fb := rd 17 1
      let g := rd 18 1
      let p := rd 20 4
      let s := rd 24 4
      if z.rows = 0 ∨ z.cols = 0 ∨ sh.rows < z.row0 + z.rows ∨ sh.cols < z.col0 + z.cols ∨ 4 < fa ∨ 4 < fb ∨
          g ≠ gangOf fa fb ∨ s ≠ stepsOf g p then .bad
      else
        let cnt (i j : Nat) : Nat := rd (0x800 + 4 * cellKey i j) 4
        let kbs := (List.range z.cols).map (fun j => rd (0x200 + 4 * j) 4)
        let kas := (List.range z.rows).map (fun i => rd (0x100 + 4 * i) 4)
        let ra := restartA z g cnt
        let rb := restartB z g cnt
        let k0 := min (leastOf ra) (leastOf rb)
        if z.cells.any (fun x => decide (p < cnt x.1 x.2)) || (kas ++ kbs).any (fun k => decide (s < k)) ||
            decide (rd 72 4 ≠ k0) || decide (s < k0) then .bad
        else
          let un := fld (rd 10 1) 1 1 = 1
          let spec : PSpec := ⟨kind, rd 9 1 % 16, z, fa, fb, g, p, s, rd 40 8, rd 48 8, rd 56 4, rd 60 4, rd 64 8, rd 11 1 % 8, 0⟩
          let issue := signed 64 (rd 32 8)
          let fl : Flags := BitVec.ofNat 6 (rd 19 1)
          let pr : Prod :=
            if un then ⟨0, 0, false, spec, 0, issue, [], [], 0, [], [], [], [], [], [], false, fl, none, false⟩
            else
              let kb := leastOf kbs
              ⟨0, 0, false, spec, 0, issue, ra, rb, kb, [], [], if kind.streams then replayed m rb kb else [], [],
                z.cells.map (fun x => (cellKey x.1 x.2, cnt x.1 x.2)),
                z.cells.map (fun x => (cellKey x.1 x.2, BitVec.ofNat 32 (rd (0x4800 + 4 * cellKey x.1 x.2) 4))), true, fl,
                none, false⟩
          .prod pr k0
    | _, _ => .bad

/-- Memory from bytes that start at offset 0. -/
def memOfBytes (bs : List Byte) : Memory :=
  (List.zip (List.range bs.length) bs).filter (fun x => decide (x.2 ≠ blank))

/-- The engine number under which image accesses use the TLBs (log 77). -/
def engImage : Nat := 11

/-- Read a slot at a device virtual address of a context. -/
def State.slotAt (s : State) (hw : Nat) (va : Word) : Except TrFault SlotRead :=
  match s.translate (clusterOf hw) engImage (s.ctx hw).ctl.asid.toNat false (pageFuel slotBytes) va.toNat slotBytes with
  | .ok ps => .ok (readSlot s.mod (memOfBytes (s.readPieces ps)))
  | .error e => .error e

/-! ## Cutting (R312 to R319) -/

/-- The products of a context with steps left, with their slots (R313). -/
def cutSlots (ps : List Prod) (hw : Nat) (t : Int) : List (Nat × Prod) :=
  let left := ps.filter (fun p => decide (p.hw = hw) && !p.orphan && p.stepsLeft t)
  List.zip (List.range left.length) left

/-- A cut takes hold of a product: one that has steps and, at a voluntary cut, one that has some left on row 0 (R315). -/
def Prod.takesCut (p : Prod) (fault : Bool) (t : Nat) : Bool :=
  p.cut.isNone && decide (p.spec.s ≠ 0) && (fault || decide (p.cutIndex t < p.spec.s))

/-- The product whose operand a stream fault concerns: the oldest of the context's that misses a slice (R316). -/
def State.streamVictim (s : State) (hw : Nat) (t : Int) : Option Nat :=
  ((s.sliceMissing (coreOf hw) t).find? (fun p => decide (p.hw = hw))).map (fun p => p.id)

/-- The fault list of a stream: the columns whose bytes of the first incomplete slice are missing (R325, R331). -/
def State.streamFaults (s : State) (p : Prod) (t : Int) : List (Nat × Nat × Nat) :=
  match p.slicesDue t with
  | [] => []
  | k :: _ =>
    let n := (s.ctx p.hw).eng.stream.length
    ((List.range p.spec.zone.cols).filter (fun j => decide (n < 2 * j + 2))).map (fun j => (k, 1, j))

/-- The slices that the port still holds at a cut: from the least seam index of the columns on (R319). -/
def Prod.keptSlices (p : Prod) (c : Cut) : List Byte :=
  if p.spec.kind.streams then
    let kb := leastOf ((List.range p.spec.zone.cols).map (p.seamIndex c true))
    (p.bSteps.filter (fun x => decide (kb ≤ x.1))).flatMap (fun x => toBytes x.2 p.sliceBytes)
  else []

/-- The words of an image that the spec leaves open, by draw. -/
def State.fillWords (s : State) (key : Nat) : Word32 := BitVec.ofNat 32 (Config.freeWord (s.draw + key)).toNat

/-- One product is cut: its pending flags go to the image, its kept slices return to the port, and its image is due. -/
def State.cutOne (s : State) (p : Prod) (c : Cut) (doneTok : Option Nat) (tok : Nat) : State :=
  let core := coreOf p.hw
  let keep := p.keptSlices c
  let s1 := s.modCtx p.hw (fun x =>
    let gone (f : FPend) : Bool := decide (f.job = p.id)
    { x with
      pend := { x.pend with
        flg := x.pend.flg.filter (fun f => !gone f)
        frozenFlg := x.pend.frozenFlg.filter (fun f => !gone f) }
      eng := { x.eng with stream := keep ++ x.eng.stream } })
  let un := p.unstarted c
  let job : ImgJob := ⟨p.hw, c.slot, c.base, if un then 0 else p.id, if un then p.image s.mod c s.fillWords else [], 0, false,
    c.why, tok, doneTok, c.grp⟩
  s1.modCore core (fun k => { k with
    prods := if un then k.prods.filter (fun q => decide (q.id ≠ p.id))
      else k.prods.map (fun q => if q.id = p.id then { q with cut := some c } else q)
    imgs := k.imgs ++ [job] })

/-- Cut the products of a context at the present array cycle: a fault cut, or a voluntary one. The younger is cut first,
so that the older one's slices come to stand first in the port. -/
def State.cutProducts (s : State) (hw : Nat) (fault : Bool) (stream : Bool) (why : Nat) (base : Word) (tok grp : Nat) :
    State :=
  let core := coreOf hw
  let t := (s.core core).arr
  let cs := (cutSlots (s.core core).prods hw t).filter (fun x => x.2.takesCut fault t)
  cs.reverse.foldl (fun st x =>
    let c : Cut := ⟨t, fault, x.1, base + BitVec.ofNat 64 (slotBytes * x.1), why,
      if stream && decide (s.streamVictim hw t = some x.2.id) then s.streamFaults x.2 t else [], grp⟩
    st.cutOne x.2 c (if why = 1 then some x.2.spec.tok else none) tok) s

/-- The array cycle by which every cell of a cut product has surrendered or committed. -/
def Prod.cutEnd (p : Prod) (c : Cut) : Int :=
  if c.fault then (c.at_ : Int) + p.spec.zone.rows + p.spec.zone.cols - 1
  else p.issue + 2 + p.spec.zone.rows + p.spec.zone.cols +
    ((List.range p.spec.zone.rows).foldl (fun n i => max n (p.seamIndex c false i)) 0 : Nat)

/-- Cut products whose cells have all surrendered leave the array; their images are then complete (R317). -/
def State.surrenderStage (s : State) (core : Nat) (t : Int) : State :=
  (s.core core).prods.foldl (fun s p =>
    match p.cut with
    | none => s
    | some c =>
      if p.cutEnd c ≤ t then
        let s1 := (s.retire core p).modCore core (fun k => { k with
          prods := k.prods.filter (fun q => decide (q.id ≠ p.id))
          imgs := k.imgs.map (fun j =>
            if j.prod = p.id then { j with prod := 0, bytes := p.image s.mod c s.fillWords } else j) })
        { s1 with draw := s1.draw + 4096 }
      else s) s

/-! ## Writing images (R303, R317, R326) -/

/-- A write of images stops for good: the context ends as a double trap does, with the code of ACCV (R303). -/
def State.imageDead (s : State) (hw : Nat) : State :=
  let s1 := s.modCore (coreOf hw) (fun k => { k with imgs := k.imgs.filter (fun j => decide (j.hw ≠ hw)) })
  (s1.launchErr hw 0x88 0).endContext hw

/-- A save cannot be written: the context stays resident and takes the fault; its return resumes the products that the save has
cut from what their slots hold (R304, log 26). -/
def State.saveFail (s : State) (hw code va engine level : Nat) : State :=
  let core := coreOf hw
  let mine (j : ImgJob) : Bool := decide (j.hw = hw) && decide (j.why = 2)
  let ours := ((s.core core).imgs.filter mine).map (fun j => j.slot) ++
    (((s.core core).prods.filter (fun p => decide (p.hw = hw))).filterMap (fun p => p.cut.map (fun c => c.slot)))
  let s1 := s.modCore core (fun k => { k with imgs := k.imgs.filter (fun j => !mine j) })
  let s2 := s1.modCtx hw (fun c => { c with run := { c.run with
    st := .ready
    stage := .none
    cuts := if c.run.trap then c.run.cuts else ours.foldl (fun a n => a ||| 2 ^ n) 0
    cutBase := if c.run.trap then c.run.cutBase else c.ctl.seambase + 0x90000#64 } })
  s2.raise hw ⟨code, BitVec.ofNat 64 va, 0, engine, level, 15, true, false⟩

/-- The job whose next line is to be written. -/
def State.imageJob (s : State) (hw : Nat) : Option ImgJob :=
  (s.core (coreOf hw)).imgs.find? (fun j => decide (j.hw = hw) && decide (j.prod = 0) && !(s.core (coreOf hw)).stoppedJob j)

def State.modJob (s : State) (j : ImgJob) (f : ImgJob → ImgJob) : State :=
  s.modCore (coreOf j.hw) (fun k => { k with imgs := k.imgs.map (fun x =>
    if x.hw = j.hw ∧ x.slot = j.slot ∧ x.grp = j.grp then f x else x) })

/-- A slot has been written: the cut product's token and MSEAM's complete, and a trap entry that waited ends. -/
def State.imageDone (s : State) (j : ImgJob) : State :=
  let core := coreOf j.hw
  let s1 := s.modCore core (fun k => { k with imgs := k.imgs.filter (fun x =>
    !(decide (x.hw = j.hw) && decide (x.slot = j.slot) && decide (x.grp = j.grp))) })
  let s2 := match j.doneTok with
    | some t => s1.modCtx j.hw (fun c => c.tokDown t)
    | none => s1
  let more := (s2.core core).imgs.any (fun x => decide (x.hw = j.hw) && decide (x.grp = j.grp))
  if more then s2
  else if j.why = 1 then s2.modCtx j.hw (fun c => c.tokDown j.tok)
  else if j.why = 0 then s2.modCtx j.hw (fun c =>
    if c.run.stage = .entry then { c with run := { c.run with st := .ready, stage := .none } } else c)
  else s2

/-- The address of a job's next line. -/
def ImgJob.va (j : ImgJob) : Nat := (j.base + BitVec.ofNat 64 (64 * j.next)).toNat

/-- Write one line of a context's images. A refill leaf waits for the lining, but for the images of a major fault, which
translate by hardware walk only; a major fault stops MSEAM's writing and becomes an asynchronous trap. -/
def State.imageLine (s : State) (hw : Nat) : State :=
  match s.imageJob hw with
  | none => s
  | some j =>
    let cl := clusterOf hw
    let asid := (s.ctx hw).ctl.asid.toNat
    match s.translate cl engImage asid true 2 j.va 64 with
    | .ok ps =>
      let bs := (List.range 64).map (fun k => j.bytes.read (64 * j.next + k))
      let s1 := (((s.rememberAll (some hw) cl engImage asid 2 j.va 64).writeMute ps bs).chargePieces hw ps).sentHost hw ps
      if j.next + 1 = slotBytes / 64 then s1.imageDone j else s1.modJob j (fun x => { x with next := x.next + 1 })
    | .error (.refill _ _ _) => if j.why = 0 then s.imageDead hw else s
    | .error (.major va code l) =>
      if j.why = 0 then s.imageDead hw
      else if j.why = 2 then s.saveFail hw code va 0 l
      else ((s.modJob j (fun x => { x with held := true })).chargeFailed hw asid va l).raise hw ⟨code, BitVec.ofNat 64 va, 0, 0, l, 6, true, false⟩

def State.imageLines (s : State) (hw : Nat) : Nat → State
  | 0 => s
  | n + 1 => State.imageLines (s.imageLine hw) hw n

/-! ## MSEAM (R326) -/

/-- The address check of MSEAM and MRESUME. -/
def slotAlign (a : Word) : Option Chk := if a.toNat % slotBytes ≠ 0 then some ⟨9, a, 0⟩ else none

/-- A job for each slot that no cut product fills. -/
def State.emptyJobs (s : State) (hw why : Nat) (base : Word) (tok grp : Nat) : State :=
  let used := ((s.core (coreOf hw)).imgs.filter (fun j => decide (j.hw = hw) && decide (j.grp = grp))).map (fun j => j.slot)
  (List.range 2).foldl (fun s n =>
    if used.contains n then s
    else s.modCore (coreOf hw) (fun k => { k with imgs := k.imgs ++
      [⟨hw, n, base + BitVec.ofNat 64 (slotBytes * n), 0, emptyImage s.mod, 0, false, why, tok, none, grp⟩] })) s

/-- The effect of MSEAM: a voluntary cut now, and both slots to write. -/
def State.mseamEff (s : State) (a : Word) (tok : Nat) : State :=
  let (grp, s1) := s.fresh
  let s2 := (s1.modCtx s.cur.hw (fun c => c.tokUp tok)).cutProducts s.cur.hw false false 1 a tok grp
  s2.emptyJobs s.cur.hw 1 a tok grp

def execMseam (o : MI) (s : State) : Out :=
  s.perform s.me.privChk true (s.consWait o.cons) (slotAlign (s.me.sreg o.a)) (fun s => s.mseamEff (s.me.sreg o.a) o.prod)

/-! ## MRESUME (R326) -/

/-- The lines that a resumed product reads before its issue: re-timed cycle (counted from its re-timed issue) at most k0,
in order of those cycles. -/
def Prod.earlyLines (p : Prod) (k0 : Nat) : List (Nat × Bool × Nat × Nat) :=
  (List.range (k0 + 1)).flatMap (fun (d : Nat) => ((({ p with issue := 0 } : Prod).linesAt d).map (fun r => (d, r.b, r.idx, r.l))))

def State.resumeOf (s : State) (hw : Nat) : Option Resume :=
  (s.core (coreOf hw)).resumes.find? (fun r => decide (r.hw = hw))

def State.setResume (s : State) (r : Resume) : State :=
  s.modCore (coreOf r.hw) (fun k => { k with resumes := r :: k.resumes.filter (fun x => decide (x.hw ≠ r.hw)) })

def State.dropResume (s : State) (hw : Nat) : State :=
  s.modCore (coreOf hw) (fun k => { k with resumes := k.resumes.filter (fun x => decide (x.hw ≠ hw)) })

/-- The slot has been read whole: what it holds, and the lines to read. -/
def Resume.whole (r : Resume) (sh : Mod) : Resume :=
  match readSlot sh r.bytes with
  | .bad => { r with st := 1 }
  | .empty => { r with st := 2 }
  | .prod p k0 =>
    { r with st := 3, prod := some { p with hw := r.hw }, todo := if (groupBreach p.spec).isSome then [] else p.earlyLines k0 }

/-- Read one line of the slot that an MRESUME waits for (log 46). -/
def State.slotLine (s : State) (hw : Nat) : State :=
  match s.resumeOf hw with
  | none => s
  | some r =>
    if r.st ≠ 0 ∨ r.held then s
    else
      let cl := clusterOf hw
      let asid := (s.ctx hw).ctl.asid.toNat
      let va := (r.addr + BitVec.ofNat 64 (64 * r.next)).toNat
      match s.translate cl engImage asid false 2 va 64 with
      | .ok ps =>
        let bs := s.readPieces ps
        let cells := (List.zip (List.range 64) bs).filterMap (fun x =>
          if x.2 = blank then none else some (64 * r.next + x.1, x.2))
        let r1 := { r with next := r.next + 1, bytes := r.bytes ++ cells }
        ((s.rememberAll (some hw) cl engImage asid 2 va 64).chargePieces hw ps).setResume (if r1.next = slotBytes / 64 then (r1.whole s.mod) else r1)
      | .error (.refill _ _ _) => s
      | .error (.major va code l) =>
        ((s.setResume { r with held := true }).chargeFailed hw asid va l).raise hw ⟨code, BitVec.ofNat 64 va, 0, 0, l, 6, true, false⟩

def State.slotLines (s : State) (hw : Nat) : Nat → State
  | 0 => s
  | n + 1 => State.slotLines (s.slotLine hw) hw n

/-- Read lines from the front of the list while no bank is needed twice and no product in flight needs it. Answers the product, the
lines left and the lines that the cycle has used. -/
def State.earlyTake (s : State) (core : Nat) (p : Prod) (used : List Nat) :
    List (Nat × Bool × Nat × Nat) → Prod × List (Nat × Bool × Nat × Nat) × List Nat
  | [] => (p, [], used)
  | x :: r =>
    let base := if x.2.1 then p.spec.b else p.spec.a
    let pitch := if x.2.1 then p.spec.pb else p.spec.pa
    let line := (base + x.2.2.1 * pitch) / 64 + x.2.2.2
    match firstConflict used [line] with
    | some _ => (p, x :: r, used)
    | none =>
      State.earlyTake s core (p.keep ⟨x.2.1, x.2.2.1, x.2.2.2, line⟩ (s.recLine core x.2.1 line)) (line :: used) r

/-- The early line reads of a core's waiting MRESUMEs in a real cycle: together they read no two lines of one bank (R326). The resumes
after them. -/
def State.earlyReads (s : State) (core : Nat) (t : Int) : List Resume :=
  let used := ((s.core core).prods.flatMap (fun p => p.linesAt t)).map (fun r => r.line)
  let r := (s.core core).resumes.foldl (fun (a : List Resume × List Nat) r =>
    match r.prod with
    | none => (a.1 ++ [r], a.2)
    | some p =>
      let x := s.earlyTake core p a.2 r.todo
      (a.1 ++ [{ r with prod := some x.1, todo := x.2.1 }], x.2.2)) ([], used)
  r.1

/-- The reads of a cycle are done at its end: an MRESUME issues in the next one at the earliest. `old` are the resumes before them, of
which some may be gone. -/
def State.earlyDone (s : State) (core : Nat) (old new : List Resume) : State :=
  s.modCore core (fun k => { k with resumes := k.resumes.map (fun r =>
    match (List.zip old new).find? (fun x => decide (x.1 = r)) with
    | some x => x.2
    | none => r) })

/-- The product of a resume as MRESUME issues it now: e := n - k0. -/
def State.resumed (s : State) (p : Prod) (tok k0 : Nat) : Prod :=
  { p with
    id := s.front.nextId
    hw := s.cur.hw
    issue := ((s.core s.myCore).arr : Int) - k0
    sched := (s.now : Int) - k0
    spec := { p.spec with tok := tok, bundle := s.cur.bundle } }

def Prod.k0 (p : Prod) : Nat := min (leastOf p.ra) (leastOf p.rb)

/-- The read of the slot starts with the wait, and the bundle waits until it and the early line reads are done. -/
def State.resumeWait (s : State) (a : Word) : Option Wait :=
  match s.resumeOf s.cur.hw with
  | some r =>
    if r.addr = a ∧ (r.st = 1 ∨ r.st = 2 ∨ (r.st = 3 ∧ r.todo.isEmpty)) then none else some .engine
  | none => some .engine

/-- A waiting MRESUME has its slot read. -/
def State.resumeAsk (s : State) (a : Word) : State :=
  match s.resumeOf s.cur.hw with
  | some r => if r.addr = a then s else s.setResume ⟨s.cur.hw, a, 0, [], false, 0, none, []⟩
  | none => s.setResume ⟨s.cur.hw, a, 0, [], false, 0, none, []⟩

/-- The checks of MRESUME: the slot first, then reduced service, then the port and the cells (R320, R326). -/
def State.resumeChk (s : State) (a : Word) (tok : Nat) : Option Chk :=
  match s.resumeOf s.cur.hw with
  | none => none
  | some r =>
    if r.st = 1 then some ⟨15, a, 0⟩
    else
      match r.prod with
      | none => none
      | some p =>
        if !s.mod.full && (reducedFmt p.spec.fa || reducedFmt p.spec.fb) then some ⟨1, 0, 0⟩
        else
          let q := s.resumed p tok p.k0
          s.portChk s.myCore q (q.resumeClear (s.core s.myCore).prods (s.core s.myCore).past)

/-- The effect of MRESUME. -/
def State.resumeEff (s : State) (tok : Nat) : State :=
  let s0 := s.dropResume s.cur.hw
  match (s.resumeOf s.cur.hw).bind (fun r => r.prod) with
  | none => s0
  | some p =>
    let q := s.resumed p tok p.k0
    let s1 := s0.fresh.2.modCore s.myCore (fun k => { k with prods := k.prods ++ [q] })
    s1.modCtx s.cur.hw (fun c => (c.laterFlags q.id (q.readyAfter - p.k0) (s.core s.myCore).arr true).tokUp tok)

/-- An MRESUME whose consume tokens read zero has its slot read while its bundle waits. -/
def State.resumeAskIf (s : State) (o : MI) : State :=
  let a := s.me.sreg o.a
  if s.me.privileged && s.me.tokensZero o.cons && (slotAlign a).isNone && !s.cur.go then s.resumeAsk a else s

def execMresume (o : MI) (s : State) : Out :=
  let a := s.me.sreg o.a
  let s0 := s.resumeAskIf o
  s0.perform s.me.privChk true (s.consWait o.cons <|> (if (slotAlign a).isSome then none else s.resumeWait a))
    (slotAlign a <|> s.resumeChk a o.prod) (fun s => s.resumeEff o.prod)

/-! ## The cut of a major fault (R289 step 4, R303) -/

/-- The products of a context are cut by a major fault, and its trap entry waits for their images. -/
def State.majorCut (s : State) (hw : Nat) (stream : Bool) : State :=
  let (grp, s1) := s.fresh
  let base := (s.ctx hw).ctl.seambase + 0x90000#64
  let s2 := s1.cutProducts hw true stream 0 base 0 grp
  let mine := (s2.core (coreOf hw)).imgs.filter (fun j => decide (j.hw = hw) && decide (j.grp = grp))
  if mine.isEmpty then s2
  else s2.modCtx hw (fun c => { c with run := { c.run with
    st := .waiting
    stage := .entry
    cuts := mine.foldl (fun a j => a ||| 2 ^ j.slot) 0
    cutBase := base } })

/-- A context takes a trap, with the cut of a major fault (R289). -/
def State.trapWith (s : State) (hw : Nat) (t : TrapInfo) (tb : Nat) : State :=
  let s1 := s.takeTrap hw t tb
  if t.major && (s1.ctx hw).run.trap then s1.majorCut hw (decide (t.engine = 6)) else s1

/-! ## Restoring cut products (R322) -/

/-- The lines that a restored product would have read by array cycle `t` are read now, and an unstarted product's seeds
that are due are taken. Its commits that are due are made in the core's next array cycle, before the context's first bundle (R322). -/
def State.catchUp (s : State) (core : Nat) (p : Prod) (t : Int) : Prod :=
  let p1 := (List.range (min p.fetchSpan (t - p.issue).toNat)).foldl (fun q (d : Nat) => s.capture core (p.issue + 1 + d) q) p
  if p.spec.kind.accs && !p.resumed then
    p1.spec.zone.cells.foldl (fun (q : Prod) x =>
      if p.issue + 3 + x.1 + x.2 ≤ t then
        let r := p.spec.zone.row0 + x.1
        let c := p.spec.zone.col0 + x.2
        q.seed x.1 x.2 (match forwarded (s.core core).prods p.spec.tile r c (p.issue + 3 + x.1 + x.2) with
          | some v => BitVec.ofNat 32 v
          | none => s.acsRead core p.spec.tile r c)
      else q) p1
  else p1

/-- What the restore of a context finds in its slots: an unusable one, a page that a walk does not reach, or the products with
their times aligned to the restored counter. -/
inductive Restore where
  | bad (a : Word)
  | walk (e : TrFault)
  | prods (l : List Prod)
  deriving DecidableEq, Repr

/-- Read the given slots at `base`; `sched` is the restored counter, at which the context stands in array cycle `at_` (log 104). -/
def State.restorePlan (s : State) (hw : Nat) (base : Word) (sched at_ : Nat) : List Nat → Restore
  | [] => .prods []
  | n :: r =>
    let a := base + BitVec.ofNat 64 (slotBytes * n)
    match s.slotAt hw a with
    | .error e => .walk e
    | .ok .bad => .bad a
    | .ok .empty => State.restorePlan s hw base sched at_ r
    | .ok (.prod p _) =>
      match State.restorePlan s hw base sched at_ r with
      | .prods l =>
        .prods ({ p with hw := hw, issue := (at_ : Int) - ((sched : Int) - p.sched) } :: l)
      | o => o

/-- The restored products meet no conflict in the array port or the cells from array cycle `t` on (R320). -/
def State.restoreFits (s : State) (core : Nat) (t : Int) : List Prod → Bool
  | [] => true
  | p :: r =>
    (s.portMeets core p ((s.core core).prods.all p.clearOf) t).isNone &&
      State.restoreFits (s.modCore core (fun k => { k with prods := k.prods ++ [p] })) core t r

/-- Restored products enter the array before array cycle `t`. An image holds no bundle address: the accounting's is free (R344, log 27). -/
def State.restoreProds (s : State) (hw : Nat) (t : Int) (l : List Prod) : State :=
  let core := coreOf hw
  l.foldl (fun s p =>
    let p1 := { p with id := s.front.nextId, spec := { p.spec with bundle := (Config.freeWord s.draw).toNat % 2 ^ 32 } }
    let q := { s.catchUp core p1 (t - 1) with late := true }
    let land : Nat := (p.sched + p.readyAfter).toNat
    let f : FPend := ⟨0, land, (p.issue + p.readyAfter).toNat, q.id, true⟩
    let s1 := { s.fresh.2 with draw := s.draw + 1 }
    (s1.modCore core (fun k => { k with prods := k.prods ++ [q] })).modCtx hw (fun c =>
      { c with pend := { c.pend with flg := c.pend.flg ++ [f] } })) s

/-! ## ERET (R308) -/

/-- The slots in a mask. -/
def slotList (m : Nat) : List Nat := (List.range 2).filter (fun n => Nat.testBit m n)

/-- Energy of reading slots for a return or a resume. -/
def State.chargeSlots (s : State) (hw : Nat) (base : Word) (l : List Nat) : State :=
  l.foldl (fun s n =>
    let cl := clusterOf hw
    let asid := (s.ctx hw).ctl.asid.toNat
    let va := (base + BitVec.ofNat 64 (slotBytes * n)).toNat
    match s.translate cl engImage asid false (pageFuel slotBytes) va slotBytes with
    | .ok ps => (s.rememberAll (some hw) cl engImage asid (pageFuel slotBytes) va slotBytes).chargePieces hw ps
    | .error _ => s) s

/-- The plan of the return: the slots that the trap filled. -/
def State.eretPlan (s : State) (hw : Nat) : Restore :=
  let c := s.ctx hw
  s.restorePlan hw c.run.cutBase c.ctl.tcycle.toNat ((s.core (coreOf hw)).arr + 1) (slotList c.run.cuts)

/-- A major fault of a page of the slots that the return reads, once it has escalated from the lining (R302). -/
def Ctx.slotEsc (c : Ctx) : Bool := c.async.any (fun a => a.esc && decide (a.engine = 0) && decide (a.slot = 0))

/-- ERET's bundle waits for the routine's results and transfers, and for the lining where it has to fill a page of the slots; a
restored product that would meet a conflict holds it back too (logs 20 and 104). -/
def State.eretWait (s : State) (hw : Nat) : Option Wait :=
  let c := s.ctx hw
  let busy := !c.pend.val.isEmpty || !c.pend.flg.isEmpty ||
    (s.core (coreOf hw)).xfers.any (fun x => decide (x.hw = hw) && !x.frozen && !x.orphan)
  let fits := match s.eretPlan hw with
    | .walk (.refill _ _ _) => c.slotEsc
    | .prods l => s.restoreFits (coreOf hw) ((s.core (coreOf hw)).arr + 1) l
    | _ => true
  if c.run.trap && (busy || !fits) then some .fixed else none

/-- Engines take up the commands that a delivered fault has stopped (R75, R157, R326), unless one is yet to be
delivered. -/
def State.releaseEngines (s : State) (hw : Nat) : State :=
  let c := s.ctx hw
  if c.async.any (fun a => decide (a.code = 7) || decide (a.code = 8)) then s
  else
    let free (x : Cmd) : Cmd := { x with held := false }
    let s1 := s.setCtx hw { c with eng := { c.eng with work := c.eng.work.map free } }
    let s2 := s1.modCore (coreOf hw) (fun k => { k with
      imgs := k.imgs.map (fun j => if j.hw = hw then { j with held := false } else j) })
    s2.modCl (clusterOf hw) (fun k => { k with slots := k.slots.map (fun x =>
      if x.2.owner = hw && x.2.ferr.isEmpty then (x.1, { x.2 with fault := false, st := if x.2.st = 2 then 1 else x.2.st }) else x) })

/-- A page of the slots to restore is not to be had: a major fault of the restored context, before its first bundle, or one that has
escalated and is pending (log 104). -/
def State.restoreWalk (s : State) (hw slot : Nat) (e : TrFault) : State :=
  match e with
  | .major va code level => s.trapWith hw ⟨code, BitVec.ofNat 64 va, 0, 0, level, slot, true, true, false⟩ (s.ctx hw).frame.pos
  | .refill _ _ _ => s

/-- The return from a trap: R308, steps 1 to 6. An unusable slot traps the restored context with IMGSHAPE (R322). -/
def State.eretEff (s : State) (hw : Nat) : State :=
  let plan := s.eretPlan hw
  let s1 := (s.modCtx hw Ctx.trapReturn).modCore (coreOf hw) (fun k => { k with xfers := k.xfers.map (fun x =>
    if x.hw = hw then { x with frozen := false } else x) })
  let s2 := s1.releaseEngines hw
  match plan with
  | .bad a => s2.takeTrap hw (syncTrap 15 a 15) (s2.ctx hw).frame.pos
  | .walk e => s2.restoreWalk hw 0 e
  | .prods l =>
    ((s2.chargeSlots hw (s.ctx hw).run.cutBase (slotList (s.ctx hw).run.cuts)).modCtx hw (fun c => { c with
      run := { c.run with cuts := 0 } })).restoreProds hw ((s.core (coreOf hw)).arr + 1) l

/-- ERET: PRIV without system privilege, ILLOP outside trap mode (log 47). -/
def execEret (s : State) : Out :=
  s.perform (s.me.delayChk <|> s.me.privChk) true (s.eretWait s.cur.hw) (if s.me.run.trap then none else some ⟨1, 0, 0⟩)
    (fun s => s.eretEff s.cur.hw)

end Sys2Proof.Machine
end

