-- ==== Sys2Proof/Machine/Commands.lean ====
section
/-!
DEFINITION. The C and Q slots at issue: commands and their gussets (R77, R151, R210), the checks of their operands, and
the pops from the data queue (R149, R153, R164). What the engines then do stands in the files of the engines.
-/

namespace Sys2Proof.Machine

/-! ## Gussets -/

/-- A command of the present context with its operands, token and writer's stitch (R256). -/
def State.cmdOf (s : State) (op : CmdOp) (prod cons : Nat) : Cmd :=
  ⟨s.front.nextId, op, s.me.ctl.asid.toNat, prod, cons, false, 0, false, false, none, s.me.writer, [], []⟩

/-- A command enters the C gusset and its token counts up. -/
def State.putC (s : State) (op : CmdOp) (prod cons : Nat) : State :=
  let c := s.cmdOf op prod cons
  s.fresh.2.modCtx s.cur.hw (fun x => { x with eng := { x.eng with cG := x.eng.cG ++ [c] } }.tokUp prod)

/-- A command enters the Q gusset; a request takes an entry of the address queue, of the given kind. -/
def State.putQ (s : State) (op : CmdOp) (prod : Nat) (kind : Option Bool) : State :=
  let c := s.cmdOf op prod 0
  let s1 := s.fresh.2.modCtx s.cur.hw (fun x =>
    { x with eng := { x.eng with
      qG := x.eng.qG ++ [c]
      addrQ := match kind with
        | some k => x.eng.addrQ ++ [(c.id, k)]
        | none => x.eng.addrQ } }.tokUp prod)
  s1.charge s.cur.hw 13 1

/-- A full gusset is an engine wait (R209, R210). -/
def gussetWait (g : List Cmd) : Option Wait := if 16 ≤ g.length then some .engine else none

/-- A C syllable. -/
def State.cCommand (s : State) (mode chk : Option Chk) (op : CmdOp) (prod cons : Nat) : Out :=
  s.perform mode true (gussetWait s.me.eng.cG) chk (fun s => s.putC op prod cons)

/-- A Q syllable that places a command. -/
def State.qCommand (s : State) (g : Nat) (chk : Option Chk) (op : CmdOp) (prod : Nat) (kind : Option Bool) : Out :=
  s.perform none (s.me.guardN g) (gussetWait s.me.eng.qG) chk (fun s => s.putQ op prod kind)

/-! ## Checks -/

/-- ACCV with an address. -/
def accv (a : Nat) : Chk := ⟨8, BitVec.ofNat 64 a, 0⟩
/-- ACCV on an operand that is no address (log 21). -/
def accvOpen (x : Nat) : Chk := ⟨8, Config.openAddr x, 0⟩
/-- ALIGN unless the value is a multiple of `n`. -/
def alignN (v n : Nat) : Option Chk := if v % n = 0 then none else some ⟨9, BitVec.ofNat 64 v, 0⟩
/-- ACCV at the first byte of a range that leaves the cluster's scratchpad space (R92). -/
def clusterRange (a n : Nat) : Option Chk := if a + n ≤ 0xC000000 then none else some (accv (max a 0xC000000))

/-- The slot of a handle, and the check of R70. -/
def Ctx.slotOf (c : Ctx) (h : Nat) : Nat := SMap.getD c.eng.handles h 0
def Ctx.handleChk (c : Ctx) (h : Nat) : Option Chk :=
  if (SMap.get? c.eng.handles h).isSome then none else some (accvOpen h)

/-- The context owns a direction of a link (R82): bit 2l send, bit 2l + 1 receive. -/
def Ctx.linkChk (c : Ctx) (link : Nat) (send : Bool) : Option Chk :=
  if Nat.testBit c.eng.links (2 * link + (if send then 0 else 1)) then none else some (accvOpen link)

/-! ## C instructions (R77 to R86) -/

/-- The low 32 and the low 21 bits of a register. -/
def low32 (v : Word) : Nat := v.toNat % 2 ^ 32
def low21 (v : Word) : Nat := v.toNat % 2 ^ 21

def execCplvl (o : CL) (s : State) : Out :=
  let c := s.me
  s.cCommand none (c.handleChk o.sq)
    (.cplvl (c.slotOf o.sq) o.level (low32 (c.sreg o.cnt)) (c.sreg o.ss) (c.sreg o.ds)) o.prod o.cons

def execCpbase (o : CB) (s : State) : Out :=
  let c := s.me
  s.cCommand none (c.handleChk o.sq)
    (.cpbase (c.slotOf o.sq) (c.sreg o.src) (c.sreg o.dst) o.sspad o.dspad (low21 (c.sreg o.len))) o.prod o.cons

def execCpgo (o : CS) (s : State) : Out := s.cCommand none (s.me.handleChk o.sq) (.cpgo (s.me.slotOf o.sq)) o.prod o.cons
def execCpstrm (o : CS) (s : State) : Out :=
  s.cCommand none (s.me.handleChk o.sq) (.cpstrm (s.me.slotOf o.sq)) o.prod o.cons
def execCpstrmOff (o : CS) (s : State) : Out :=
  s.cCommand none (s.me.handleChk o.sq) (.cpstrmOff (s.me.slotOf o.sq)) o.prod o.cons
def execCpcan (o : CS) (s : State) : Out :=
  s.cCommand none (s.me.handleChk o.sq) (.cpcan (s.me.slotOf o.sq)) o.prod o.cons

/-- CPSTAT: a record outside the cluster space faults when it is written (R79). -/
def execCpstat (o : CT) (s : State) : Out :=
  let a := (s.me.sreg o.addr).toNat
  s.cCommand none (alignN a 32 <|> s.me.handleChk o.sq) (.cpstat (s.me.slotOf o.sq) a) o.prod o.cons

/-- LKSEND (R84). -/
def execLksend (o : CK) (s : State) : Out :=
  let c := s.me
  let a := (c.sreg o.addr).toNat
  let n := low21 (c.sreg o.len)
  s.cCommand none (alignN a 16 <|> c.linkChk o.link true <|> clusterRange a n)
    (.lksend o.link a n (c.sreg o.tick).toNat) o.prod o.cons

/-- LKRECV (R84). -/
def execLkrecv (o : CK) (s : State) : Out :=
  let c := s.me
  let a := (c.sreg o.addr).toNat
  let n := low21 (c.sreg o.len)
  s.cCommand none (alignN a 16 <|> c.linkChk o.link false <|> clusterRange a n)
    (.lkrecv o.link a n (c.sreg o.tick).toNat) o.prod o.cons

/-- LKRED (R85); a local operand that leaves the cluster space is met as R84 meets those of the other two (log 97). -/
def execLkred (o : CR) (s : State) : Out :=
  let c := s.me
  let a := (c.sreg o.addr).toNat
  let n := (c.sreg o.cnt).toNat
  let blocks : Option Chk :=
    if (o.infmt = .mx8 ∨ o.outfmt = .mx8) ∧ n % 32 ≠ 0 then some ⟨9, Config.openAddr n, 0⟩ else none
  s.cCommand none (alignN a 16 <|> blocks <|> c.linkChk o.link false <|>
      (if o.deliver then none else c.linkChk o.out true) <|> clusterRange a (4 * n))
    (.lkred o.link a n (c.sreg o.tick).toNat o.out o.deliver o.infmt o.outfmt) o.prod o.cons

def execLktime (o : CLt) (s : State) : Out := s.cCommand none none (.lktime (s.me.sreg o.tick).toNat) o.prod o.cons

/-- TLBINV is privileged (R36, R80). -/
def execTlbinv (o : CI) (s : State) : Out :=
  let c := s.me
  s.cCommand c.privChk none
    (.tlbinv o.mode o.wide ((c.sreg o.asid).toNat % 2 ^ 14) (c.sreg o.start).toNat (c.sreg o.len).toNat) o.prod o.cons

/-- IDLE: the slot's latch becomes idle. -/
def execIdleC (s : State) : Out := .next (s.modCtx s.cur.hw (fun c => c.emptyLatch s.cur.slot))

/-! ## Q instructions (R146 to R165) -/

/-- A 65th request (R150, case 0). -/
def Ctx.fullChk (c : Ctx) : Option Chk := if 64 ≤ c.eng.addrQ.length then some ⟨5, 0, 0⟩ else none

/-- Bytes of an element of SACC. -/
def saSize : SaTy → Nat
  | .d => 8
  | _ => 4

def execGpush (o : QG) (s : State) : Out :=
  let c := s.me
  s.qCommand o.g (alignN (c.sreg o.sb).toNat (2 ^ o.z) <|> c.fullChk) (.gpush (c.vreg o.vi) (c.sreg o.sb) o.z o.virt)
    o.prod (some false)

def execSacc (o : QA) (s : State) : Out :=
  let c := s.me
  s.qCommand o.g (alignN (c.sreg o.sb).toNat (saSize o.t))
    (.sacc (c.vreg o.vx) (c.vreg (o.vx + 1)) (c.sreg o.sb) o.t o.virt) o.prod none

def execSfop (o : QF) (s : State) : Out :=
  let c := s.me
  s.qCommand o.g (alignN (c.sreg o.sa).toNat (if o.wide then 8 else 4) <|> c.fullChk)
    (.sfop (c.sreg o.sa) (c.sreg o.sv) (if o.op = .cas then c.sreg (o.sv + 1) else 0) o.wide o.virt o.op) o.prod
    (some false)

def execNlbin (o : Q1) (s : State) : Out :=
  let a := (s.me.sreg o.r).toNat
  s.qCommand o.g (alignN a 64) (.nlbin a) o.prod none

def execNlpos (o : Q1) (s : State) : Out := s.qCommand o.g none (.nlpos (s.me.vreg o.r)) o.prod none

def execNlreq (o : Q2) (s : State) : Out :=
  s.qCommand o.g s.me.fullChk (.nlreq (s.me.sreg o.r) (s.me.sreg o.t)) o.prod (some true)

def execNlstat (o : Q1) (s : State) : Out :=
  let a := (s.me.sreg o.r).toNat
  s.qCommand o.g (alignN a 32) (.nlstat a) o.prod none

/-- The QOVF cases of a pop (R150): nothing outstanding, or a head request of the other kind. -/
def Ctx.popChk (c : Ctx) (pair : Bool) : Option Chk :=
  match c.eng.addrQ with
  | [] => some ⟨5, 0, 1⟩
  | h :: _ => if h.2 = pair then none else some ⟨5, 0, if pair then 3 else 2⟩

/-- A pop of the right kind waits for its data (R149). -/
def Ctx.popWait (c : Ctx) (pair : Bool) : Option Wait :=
  if (c.popChk pair).isNone && c.eng.dataQ.isEmpty then some .engine else none

/-- The head entry leaves the data queue; the last entry of a request retires it. -/
def Ctx.popEntry (c : Ctx) (retire : Bool) : Ctx :=
  { c with eng := { c.eng with
    dataQ := c.eng.dataQ.tail
    addrQ := if retire then c.eng.addrQ.tail else c.eng.addrQ } }

/-- GPOP (R153). -/
def execGpop (o : G1) (s : State) : Out :=
  s.perform none (s.me.guardN o.g) (s.me.popWait false) (s.me.popChk false) (fun s =>
    match s.me.eng.dataQ with
    | [] => s
    | e :: _ => (s.modCtx s.cur.hw (fun c => c.popEntry true)).pushV o.n (BitVec.allOnes 512) e.data 0 2)

/-- The word that NLPOP writes (R164). -/
def DEntry.info (e : DEntry) : Word :=
  BitVec.ofNat 64 (e.count + e.last.toNat * 2 ^ 8 + e.stale.toNat * 2 ^ 9 + e.err.toNat * 2 ^ 10)

/-- NLPOP (R164). -/
def execNlpop (o : G2) (s : State) : Out :=
  s.perform none (s.me.guardN o.g) (s.me.popWait true) (s.me.popChk true) (fun s =>
    match s.me.eng.dataQ with
    | [] => s
    | e :: _ =>
      ((s.modCtx s.cur.hw (fun c => c.popEntry e.last)).pushV o.n (BitVec.allOnes 512) e.data 0 2).pushS o.m e.info 0 2)

/-- IDLE: the slot's latch becomes idle. -/
def execIdleQ (s : State) : Out := .next (s.modCtx s.cur.hw (fun c => c.emptyLatch s.cur.slot))

end Sys2Proof.Machine
end

