-- ==== Sys2Proof/Machine/Copy.lean ====
section
/-!
DEFINITION. The copy engines (R70 to R80, R183): sequencer slots, emission of elementary copies, their reads and writes
in 16-byte words (R226), the stream port's buffer, and the commands that act on a slot or on the TLBs.
-/

namespace Sys2Proof.Machine

/-! ## Slots -/

/-- A slot that no launch has bound. -/
def SeqSlot.fresh : SeqSlot := ⟨1536, 0, Nest.reset, none, [], none, false, false, 0, [], false, false, [], []⟩

def State.slot (s : State) (cl n : Nat) : SeqSlot := SMap.getD (s.cluster cl).slots n SeqSlot.fresh
def State.setSlot (s : State) (cl n : Nat) (q : SeqSlot) : State :=
  s.modCl cl (fun c => { c with slots := SMap.put c.slots n q })
def State.modSlot (s : State) (cl n : Nat) (f : SeqSlot → SeqSlot) : State := s.setSlot cl n (f (s.slot cl n))

/-- A command completes: its token counts down. -/
def State.cmdDone (s : State) (hw id : Nat) : State :=
  match (s.ctx hw).eng.work.find? (fun c => decide (c.id = id)) with
  | none => s
  | some c =>
    s.modCtx hw (fun x => { x with eng := { x.eng with work := x.eng.work.filter (fun y => decide (y.id ≠ id)) } }.tokDown c.prod)

def State.cmdOfId (s : State) (hw id : Nat) : Option Cmd := (s.ctx hw).eng.work.find? (fun c => decide (c.id = id))
def State.modCmd (s : State) (hw id : Nat) (f : Cmd → Cmd) : State :=
  s.modCtx hw (fun x => { x with eng := { x.eng with work := x.eng.work.map (fun c => if c.id = id then f c else c) } })

/-! ## Nests (R71, R72) -/

/-- A nest with a count of 0 at any level emits nothing. -/
def Nest.empty (n : Nest) : Bool := n.cnt.any (fun c => decide (c = 0))

/-- All iterations have been emitted: the index of level 5 has reached its count. -/
def Nest.over (n : Nest) (idx : List Nat) : Bool := n.empty || decide (n.cnt.getD 5 1 ≤ idx.getD 5 0)

/-- The next iteration, level 0 fastest. -/
def nextIdx : List Nat → List Nat → List Nat
  | [_], [i] => [i + 1]
  | c :: cs, i :: is => if i + 1 < c then (i + 1) :: is else 0 :: nextIdx cs is
  | _, is => is

/-- A base plus its strides times the indices, exactly. -/
def nestAddr (base : Word) (st : List Word) (idx : List Nat) : Int :=
  (List.zipWith (fun (w : Word) (i : Nat) => w.toInt * i) st idx).foldl (· + ·) (base.toNat : Int)

/-- The number of a copy engine's TLB: six engines of 16 slots. -/
def engCopy (slot : Nat) : Nat := 20 + slot / 16

/-- The places of `n` bytes at an exact address of a space. -/
def State.spanPieces (s : State) (cl eng asid : Nat) (write spad : Bool) (a : Int) (n : Nat) : Except TrFault (List Piece) :=
  if spad then
    if a < 0 then (if n = 0 then .ok [] else .error (.major (a % (2 ^ 64 : Nat)).toNat 8 15)) else spadPieces cl a.toNat n
  else s.translate cl eng asid write (pageFuel n) (a % (2 ^ 56 : Nat)).toNat n

/-- The ASID of a nest: its CPGO's, as the context held it when it issued the command (R120). -/
def State.nestAsid (s : State) (q : SeqSlot) (cmd : Nat) : Nat :=
  match s.cmdOfId q.owner cmd with
  | some c => c.asid
  | none => (s.ctx q.owner).ctl.asid.toNat

/-- The present iteration of a slot: source and destination pieces, or the fault of its translation (R73). Where both fault, the
source's fault is reported (log 90). -/
def State.slotPieces (s : State) (cl n : Nat) (q : SeqSlot) (nest : Nest) (cmd : Nat) : Except TrFault (List Piece × List Piece) :=
  let asid := s.nestAsid q cmd
  match s.spanPieces cl (engCopy n) asid false nest.sspad (nestAddr nest.src nest.ss q.idx) nest.len with
  | .error e => .error e
  | .ok src =>
    if q.strm then .ok (src, [])
    else
      match s.spanPieces cl (engCopy n) asid true nest.dspad (nestAddr nest.dst nest.ds q.idx) nest.len with
      | .error e => .error e
      | .ok dst => .ok (src, dst)

/-! ## Finishing nests -/

/-- The slot leaves the stream port when its unbinding was asked for (R79). -/
def State.unbindSlot (s : State) (cl n : Nat) : State :=
  let q := s.slot cl n
  let hw := q.owner
  let s1 := s.setSlot cl n { q with strm := false, unbind := false }
  let s2 := s1.modCtx hw (fun c => if c.eng.bound = some n then { c with eng := { c.eng with bound := none } } else c)
  ((s2.ctx hw).eng.work.filter (fun c => decide (c.op = .cpstrmOff n) && c.started)).foldl (fun s c => s.cmdDone hw c.id) s2

/-- A waiting CPGO whose consume tokens have cleared becomes the active nest (R71). -/
def State.startWaiting (s : State) (cl n : Nat) : State :=
  let q := s.slot cl n
  match q.act, q.wait with
  | none, some (nest, id) =>
    match s.cmdOfId q.owner id with
    | some c =>
      if c.started then
        s.setSlot cl n { q with act := some (nest, id), idx := [0, 0, 0, 0, 0, 0], wait := none, st := 1, fault := false }
      else s
    | none => s
  | _, _ => s

/-- What has come to an end in a slot completes: a cancelled nest, or a nest whose copies have all completed (log 81). -/
def State.settleSlot (s : State) (cl n : Nat) : Nat → State
  | 0 => s
  | fuel + 1 =>
    let q := s.slot cl n
    if !q.copies.isEmpty then s
    else
      match q.act with
      | none => s
      | some (nest, id) =>
        if q.st = 3 then
          let s1 := s.cmdDone q.owner id
          let s2 := q.cans.foldl (fun s c => s.cmdDone q.owner c) s1
          let s3 := s2.modSlot cl n (fun x => { x with act := none, idx := [], st := 0, cans := [] })
          let s4 := if q.unbind then s3.unbindSlot cl n else s3
          State.settleSlot (s4.startWaiting cl n) cl n fuel
        else if nest.over q.idx then
          let s1 := (s.cmdDone q.owner id).modSlot cl n (fun x => { x with act := none, idx := [], st := 0 })
          let s2 := if q.unbind then s1.unbindSlot cl n else s1
          State.settleSlot (s2.startWaiting cl n) cl n fuel
        else s

/-! ## Emission (R72 to R75) -/

/-- Bytes that the products of a context keep in its stream port (R319). -/
def State.keptBytes (s : State) (hw : Nat) : Nat :=
  let k := s.core (coreOf hw)
  (k.prods.filter (fun p => decide (p.hw = hw) && !p.orphan && p.spec.kind.streams && p.cut.isNone)).foldl (fun n p =>
    n + p.sliceBytes * (p.bSteps.filter (fun x =>
      decide (p.port ≤ x.1) && decide ((k.arr : Int) - p.issue - 2 - p.spec.zone.cols ≤ x.1))).length) 0

/-- A slot's major fault becomes an asynchronous trap of its owner (R75). -/
def State.raiseSlot (s : State) (q : SeqSlot) (f : SFault) : State :=
  s.raise q.owner ⟨f.code, BitVec.ofNat 64 f.addr, q.handle, 1, f.level, 15, true, f.esc⟩

/-- The slots of a context that hold a fault, bound to its stream port or not any more (R78, R79, R331). -/
def State.faultSlots (s : State) (hw : Nat) : List (Nat × SeqSlot) :=
  (s.cluster (clusterOf hw)).slots.filter (fun x => decide (x.2.owner = hw) && !x.2.ferr.isEmpty)

/-- A slot stops on a major fault (R75); a stream's fault is held, and it is delivered when a product misses its byte, or before the
context's next bundle where no product needs one (R331). -/
def State.slotFault (s : State) (cl n : Nat) (f : SFault) : State :=
  let q := s.slot cl n
  let s1 := s.setSlot cl n { q with st := 2, fault := true, walk := false }
  if q.strm then s1.modSlot cl n (fun x => { x with ferr := x.ferr ++ [f] }) else s1.raiseSlot q f

/-- The slot may emit: running, not stopped, iterations left, and for a stream the earlier copy entered whole (R183). -/
def SeqSlot.canEmit (q : SeqSlot) : Bool :=
  match q.act with
  | none => false
  | some (nest, _) => decide (q.st = 1) && !q.fault && !nest.over q.idx && (!q.strm || q.copies.isEmpty)

/-- The writer's stitch of a slot's nest. -/
def State.slotWriter (s : State) (q : SeqSlot) : Option Writer :=
  (q.act.bind (fun a => s.cmdOfId q.owner a.2)).bind (fun c => c.gen)

/-- The context has stopped for a rollback (R359). -/
def State.rolling (s : State) (hw : Nat) : Bool := decide ((s.ctx hw).run.stage = .rolling)

/-- The context is being saved or has stopped for a rollback: its slots stop at an iteration boundary, and its gussets keep what they
hold (R76, R158, R359). -/
def State.saving (s : State) (hw : Nat) : Bool :=
  match (s.ctx hw).run.stage with
  | .save _ | .rolling => true
  | _ => false

/-- The present iteration of a slot touches a page that no TLB of its engine holds (R68). -/
def State.slotMisses (s : State) (cl n : Nat) (q : SeqSlot) (nest : Nest) (cmd : Nat) : Bool :=
  let asid := s.nestAsid q cmd
  let miss (spad : Bool) (a : Int) : Bool :=
    !spad && s.missing cl (engCopy n) asid (pageFuel nest.len) (a % (2 ^ 56 : Nat)).toNat nest.len
  miss nest.sspad (nestAddr nest.src nest.ss q.idx) || (!q.strm && miss nest.dspad (nestAddr nest.dst nest.ds q.idx))

/-- A walk for a stream is outstanding: it holds the clock of the context's core (R67, R75, R299). -/
def State.walkHeld (s : State) (core : Nat) : Bool :=
  (s.cluster (core / 48)).slots.any (fun x =>
    x.2.strm && x.2.walk && x.2.canEmit && decide (coreOf x.2.owner = core) && !s.saving x.2.owner)

/-- The walks of a slot's present iteration have ended: its copy is emitted, or it stops on a major fault. A refill leaf leaves the
slot waiting for its walk. -/
def State.emitWalked (s : State) (cl n : Nat) : State :=
  let q := s.slot cl n
  match q.act with
  | none => s
  | some (nest, cmd) =>
    if !q.canEmit || s.saving q.owner then s
    else
      match s.slotPieces cl n q nest cmd with
      | .error (.refill _ _ _) => s.setSlot cl n { q with walk := true }
      | .error (.major va code level) =>
        (s.chargeFailed q.owner (s.nestAsid q cmd) va level).slotFault cl n ⟨code, va, level, false⟩
      | .ok (src, dst) =>
        let asid := s.nestAsid q cmd
        let rem (s : State) (spad : Bool) (a : Int) : State :=
          if spad then s else s.rememberAll (some q.owner) cl (engCopy n) asid (pageFuel nest.len) (a % (2 ^ 56 : Nat)).toNat nest.len
        let s1 := rem s nest.sspad (nestAddr nest.src nest.ss q.idx)
        let s2 := if q.strm then s1 else rem s1 nest.dspad (nestAddr nest.dst nest.ds q.idx)
        let pages (spad : Bool) (a : Int) : List Tlb :=
          if spad then [] else s2.pagesOf cl (engCopy n) asid (pageFuel nest.len) (a % (2 ^ 56 : Nat)).toNat nest.len
        let c : Copy := ⟨s.front.nextId, cmd, src, dst, q.strm, nest.len, [], 0, [], [],
          (pages nest.sspad (nestAddr nest.src nest.ss q.idx)) ++
            if q.strm then [] else pages nest.dspad (nestAddr nest.dst nest.ds q.idx)⟩
        let q1 := { q with idx := nextIdx nest.cnt q.idx, walk := false, copies := if nest.len = 0 then q.copies else q.copies ++ [c] }
        (s2.fresh.2.setSlot cl n q1).settleSlot cl n 3

/-- A slot goes on to its next elementary copy: a miss first leaves it with a walk outstanding (R68, R79); then the copy is
emitted. -/
def State.emitCopy (s : State) (cl n : Nat) : State :=
  let q := s.slot cl n
  match q.act with
  | none => s
  | some (nest, cmd) =>
    if !q.canEmit || s.saving q.owner then s
    else if !q.walk && s.slotMisses cl n q nest cmd then s.setSlot cl n { q with walk := true }
    else s.emitWalked cl n

/-! ## Reading and writing an emitted copy (R74, R226) -/

/-- The words of pieces, as offset and length: bytes of one naturally aligned 16-byte word (R226). -/
def wordsFrom : Nat → Nat → Nat → Nat → List (Nat × Nat)
  | 0, _, _, _ => []
  | fuel + 1, off, a, n =>
    if n = 0 then []
    else
      let k := min (16 - a % 16) n
      (off, k) :: wordsFrom fuel (off + k) (a + k) (n - k)
def wordsOf : List Piece → Nat → List (Nat × Nat)
  | [], _ => []
  | p :: r, off => wordsFrom (p.len / 16 + 2) off p.pl.a p.len ++ wordsOf r (off + p.len)

/-- The word that holds byte `k` of pieces, as its offset and length. -/
def wordAt : List Piece → Nat → Nat → Nat × Nat
  | [], _, _ => (0, 0)
  | p :: r, off, k =>
    if k < p.len then
      let back := min k ((p.pl.a + k) % 16)
      (off + k - back, min (16 - (p.pl.a + k - back) % 16) (p.len - (k - back)))
    else wordAt r (off + p.len) (k - p.len)

def State.modCopy (s : State) (cl n id : Nat) (f : Copy → Copy) : State :=
  s.modSlot cl n (fun q => { q with copies := q.copies.map (fun c => if c.id = id then f c else c) })

def State.copyOf (s : State) (cl n id : Nat) : Option Copy := (s.slot cl n).copies.find? (fun c => decide (c.id = id))

/-- Read the word of a copy's source that holds its byte `k`, unless it has been read: words are read in any order (R226, R243). -/
def State.copyReadWord (s : State) (cl n id k : Nat) : State :=
  match s.copyOf cl n id with
  | none => s
  | some c =>
    let w := wordAt c.src 0 k
    if c.len ≤ k ∨ (SMap.get? c.data w.1).isSome then s
    else
      let bs := s.readPieces (slicePieces c.src w.1 w.2)
      s.modCopy cl n id (fun c => { c with data := (List.zip (List.range w.2) bs).foldl (fun m x => SMap.put m (w.1 + x.1) x.2) c.data })

/-- An elementary copy has completed: its triggers fire, and its nest may end. -/
def State.copyDone (s : State) (cl n : Nat) (c : Copy) : State :=
  let q := s.slot cl n
  let wr := (s.cmdOfId q.owner c.cmd).bind (fun x => x.gen)
  let s1 := s.setSlot cl n { q with copies := q.copies.filter (fun x => decide (x.id ≠ c.id)) }
  let s2 := ((s1.charge (seatOf q.owner) 11 ((c.len + 63) / 64)).chargePieces q.owner c.src).chargePieces q.owner c.dst
  (s2.fireAll c.trig wr).settleSlot cl n 3

/-- The bytes that a product's first slice due at the present array cycle still lacks (R183). -/
def State.dueBytes (s : State) (hw : Nat) : Nat :=
  let k := s.core (coreOf hw)
  match (k.prods.filter (fun p => decide (p.hw = hw) && !p.orphan)).find? (fun p => !(p.slicesDue k.arr).isEmpty) with
  | some p => p.sliceBytes - (s.ctx hw).eng.stream.length
  | none => 0

/-- Room in the stream port of a context: 8 KiB less the bytes that wait and the slices that it keeps (R183, R319); a slice that is
due always finds room (log 91). -/
def State.streamRoom (s : State) (hw : Nat) : Nat :=
  max (8192 - ((s.ctx hw).eng.stream.length + s.keptBytes hw)) (s.dueBytes hw)

/-- Bytes `k` to `k + n - 1` of a copy, none where some of them have not been read. -/
def Copy.bytes (c : Copy) (k n : Nat) : Option (List Byte) := (List.range n).mapM (fun d => SMap.get? c.data (k + d))

/-- Earlier copies of the nest that write a byte of this word have yet to write (R74). -/
def earlierWrites (cs : List Copy) (id : Nat) (ps : List Piece) : Bool :=
  (cs.takeWhile (fun c => decide (c.id ≠ id))).any (fun c =>
    piecesMeet c.dst ps && (wordsOf c.dst 0).any (fun w => !c.gone.contains w.1 && piecesMeet (slicePieces c.dst w.1 w.2) ps))

/-- A stream copy enters the port's buffer in byte order, as it has room (R183). -/
def State.copyFeed (s : State) (cl n : Nat) (c : Copy) : State :=
  let q := s.slot cl n
  let most := min 16 (min (c.len - c.written) (s.streamRoom q.owner))
  let bs := ((List.range most).map (fun d => SMap.get? c.data (c.written + d))).takeWhile (fun x => x.isSome) |>.filterMap id
  let s1 := s.modCtx q.owner (fun x => { x with eng := { x.eng with stream := x.eng.stream ++ bs } })
  let c1 := { c with written := c.written + bs.length }
  let s2 := s1.modCopy cl n c.id (fun _ => c1)
  if c1.written = c.len then s2.copyDone cl n c1 else s2

/-- Write the word of a copy's destination that holds its byte `k`, when its bytes have been read and no earlier copy of the nest
has yet to write them (R74); a stream copy goes on in byte order. -/
def State.copyWriteWord (s : State) (cl n id k : Nat) : State :=
  match s.copyOf cl n id with
  | none => s
  | some c =>
    if c.stream then s.copyFeed cl n c
    else
      let w := wordAt c.dst 0 k
      let ps := slicePieces c.dst w.1 w.2
      match c.bytes w.1 w.2 with
      | none => s
      | some bs =>
        if c.len ≤ k ∨ c.gone.contains w.1 ∨
            earlierWrites ((s.slot cl n).copies.filter (fun x => decide (x.cmd = c.cmd))) id ps then s
        else
          let r := (s.sentHost (s.slot cl n).owner ps).writeQuiet ps bs
          let c1 := { c with written := c.written + w.2, gone := c.gone ++ [w.1], trig := joinTriggers c.trig r.2 }
          let s2 := r.1.modCopy cl n id (fun _ => c1)
          if c1.written = c.len then s2.copyDone cl n c1 else s2

/-- Read, or write, `k` words from the one that holds byte `at_` on. -/
def State.copyReads (s : State) (cl n id : Nat) : Nat → Nat → State
  | _, 0 => s
  | at_, k + 1 =>
    let w := match s.copyOf cl n id with
      | some c => wordAt c.src 0 at_
      | none => (at_, 0)
    State.copyReads (s.copyReadWord cl n id at_) cl n id (w.1 + w.2) k
def State.copyWrites (s : State) (cl n id : Nat) : Nat → Nat → State
  | _, 0 => s
  | at_, k + 1 =>
    let w := match s.copyOf cl n id with
      | some c => wordAt c.dst 0 at_
      | none => (at_, 0)
    State.copyWrites (s.copyWriteWord cl n id at_) cl n id (w.1 + w.2) k

/-! ## Commands of a slot (R71, R78, R79) -/

/-- CPCAN (R78). -/
def State.cancel (s : State) (hw cl n id : Nat) : State :=
  let q := s.slot cl n
  let s0 := match q.wait with
    | some (_, w) => (s.cmdDone hw w).modSlot cl n (fun x => { x with wait := none })
    | none => s
  match q.act with
  | none => s0.cmdDone hw id
  | some _ =>
    (s0.modSlot cl n (fun x => { x with st := 3, fault := false, walk := false, cans := x.cans ++ [id] })).settleSlot cl n 3

/-- The status record of CPSTAT as the engine takes it (R79, log 56): an idle slot with a command that waits for its consume
tokens, the CPSTAT among them, shows state 4 (log 92). -/
def State.slotRecord (s : State) (cl n : Nat) (waits : Bool) : List Byte :=
  let q := s.slot cl n
  let idx := if q.act.isSome then q.idx else []
  let st := if q.act.isNone then (if waits then 4 else 0) else q.st
  (List.range 6).flatMap (fun k => toBytes (idx.getD k 0) 4) ++ toBytes st 1 ++
    toBytes (q.strm.toNat + 2 * (q.wait.isSome && q.act.isSome).toNat + 4 * q.walk.toNat) 1 ++ toBytes 0 2 ++
    toBytes q.copies.length 4

/-- CPSTAT writes the record that the engine took with it, or faults where it lies outside the cluster space. -/
def State.cpstat (s : State) (hw cl n a : Nat) (c : Cmd) : State :=
  match spadPieces cl a 32 with
  | .ok ps => ((s.writeMute ps (toBytes (c.aux.headD 0) 32)).chargePieces hw ps).cmdDone hw c.id
  | .error _ =>
    (s.modCmd hw c.id (fun x => { x with held := true })).raise hw
      ⟨8, BitVec.ofNat 64 (max a 0xC000000), (s.slot cl n).handle, 1, 15, 15, true, false⟩

/-- CPSTRM binds the slot at once; the slot bound before is unbound when its active nest finishes, and until then both deliver into
the port (R79, log 93). A bind of a slot whose unbinding still waits for its nest takes that unbinding back, and the token of its
CPSTRM.off completes with the next unbinding (log 94). -/
def State.bindStream (s : State) (hw cl n : Nat) : State :=
  let s1 := match (s.ctx hw).eng.bound with
    | none => s
    | some o =>
      if o = n then s
      else if (s.slot cl o).act.isSome then s.modSlot cl o (fun q => { q with unbind := true })
      else s.unbindSlot cl o
  (s1.modSlot cl n (fun q => { q with strm := true, unbind := false })).modCtx hw (fun c =>
    { c with eng := { c.eng with bound := some n } })

/-- The pending settings of a slot change. -/
def SeqSlot.level (q : SeqSlot) (l cnt : Nat) (ss ds : Word) : SeqSlot :=
  { q with pend := { q.pend with cnt := q.pend.cnt.set l cnt, ss := q.pend.ss.set l ss, ds := q.pend.ds.set l ds } }
def SeqSlot.base (q : SeqSlot) (src dst : Word) (sv dv : Bool) (len : Nat) : SeqSlot :=
  { q with pend := { q.pend with src := src, dst := dst, sspad := sv, dspad := dv, len := len } }

/-! ## TLBINV (R80) -/

/-- A TLB entry that TLBINV drops. A range is taken modulo 2^56 (R63), and one of no bytes overlaps nothing. -/
def tlbMatch (mode : TlbMode) (asid start len : Nat) (t : Tlb) : Bool :=
  match mode with
  | .all => true
  | .asid => decide (t.asid = asid)
  | .range => decide (t.asid = asid) && decide (0 < len) &&
      ((decide (t.page < va56 start + len) && decide (va56 start < t.page + t.size)) ||
        decide (t.page + 2 ^ 56 < va56 start + len))

/-- The clusters in scope. -/
def tlbScope (cl : Nat) (wide : Bool) : List Nat := if wide then List.range 8 else [cl]

/-- Drop entries; the copies in flight that were translated through one of them must complete before the command does. -/
def State.tlbDrop (s : State) (hw : Nat) (c : Cmd) (mode : TlbMode) (wide : Bool) (asid start len : Nat) : State :=
  let cls := tlbScope (clusterOf hw) wide
  let s1 := cls.foldl (fun s k => s.modCl k (fun x => { x with tlbs := x.tlbs.filter (fun t => !tlbMatch mode asid start len t) })) s
  let open_ := cls.flatMap (fun k => (s.cluster k).slots.flatMap (fun x =>
    (x.2.copies.filter (fun y => y.pages.any (tlbMatch mode asid start len))).map (fun y => y.id)))
  s1.modCmd hw c.id (fun x => { x with performed := true, aux := open_ })

/-- The copies that a TLBINV waits for have completed. -/
def State.tlbQuiet (s : State) (c : Cmd) : Bool :=
  !(s.clusters.any (fun k => k.2.slots.any (fun x => x.2.copies.any (fun y => c.aux.contains y.id))))

end Sys2Proof.Machine
end

