-- ==== Sys2Proof/Machine/Tasks.lean ====
section
/-!
DEFINITION. Tasks and stitches (R246 to R265): the checks of records and watches, SPAWN, TAKE, WATCH and UNWATCH at issue
and in the queue logic, the search for a record, YIELD and TDONE, dispatch and preload.
-/

namespace Sys2Proof.Machine

/-! ## Fields of a record (R247) -/

def recEntry (d : Nat) : Nat := fld d 0 32
def recKind (d : Nat) : Nat := fld d 32 8
def recRscope (d : Nat) : Nat := fld d 40 8
def recWent (d : Nat) : Nat := fld d 48 16
def recBudget (d : Nat) : Nat := fld d 96 32
def recGen (d : Nat) : Nat := fld d 152 8
def recTcount (d : Nat) : Nat := fld d 160 32
def recA2 (d : Nat) : Nat := fld d 320 64
def recPsrc (d : Nat) : Nat := fld d 384 64
def recPdst (d : Nat) : Nat := fld d 448 32
def recPlen (d : Nat) : Nat := fld d 480 32
def noCounter : Nat := 0xFFFFFFFF

/-- The 64 bytes of a record in a vector register. -/
def recOf (v : VReg) : Nat := v.toNat % 2 ^ 512

/-! ## Teams and queues of a launch (R213, R248) -/

/-- A context's team number. -/
def Ctx.teamNo (c : Ctx) : Nat := fld c.ctl.team.toNat 0 6

/-- The members of a context's team: contexts of its launch in its cluster with its team number (log 64). -/
def State.teamMates (s : State) (hw : Nat) : List Nat :=
  match s.launchOf hw with
  | none => [hw]
  | some l => l.hws.filter (fun h =>
      decide (clusterOf h = clusterOf hw) && decide ((s.ctx h).teamNo = (s.ctx hw).teamNo))

/-- The cluster under which a launch lists a queue: its own for a cluster queue, 0 for a base-die queue. -/
def queueCl (hw qn : Nat) : Nat := if qn < 0x100 then clusterOf hw else 0

/-- A queue of the context's launch. -/
def State.launchQueue (s : State) (hw qn : Nat) : Bool :=
  match s.launchOf hw with
  | none => false
  | some l => l.tqs.contains (queueCl hw qn, qn)

/-- The context may take from a queue (R248). -/
def State.mayTake (s : State) (hw qn : Nat) : Bool :=
  s.launchQueue hw qn &&
    (decide (0x100 ≤ qn) ||
      match s.taskQ (clusterOf hw) qn with
      | none => false
      | some q => (s.teamMates hw).contains q.owner)

/-- The context owns a queue. -/
def State.ownsQueue (s : State) (hw qn : Nat) : Bool :=
  match s.taskQ (clusterOf hw) qn with
  | none => false
  | some q => decide (q.owner = hw)

/-! ## Checks (R260, R261, R262) -/

/-- ALIGN, with the value of the field as address. -/
def alignField (v n : Nat) : Option Chk := alignN v n

/-- The checks of a record; in a template its kind, went and tcount are ignored. -/
def recIllop (d : Nat) (tmpl : Bool) : Option Chk :=
  if (!tmpl && decide (recKind d ≠ 0) && decide (recKind d ≠ 3)) || decide (4 < recRscope d % 8) then some ⟨1, 0, 0⟩ else none
def recIllbnd (d : Nat) (tmpl : Bool) : Option Chk :=
  if decide (8 ≤ recRscope d) || (!tmpl && (decide (recWent d ≠ 0) || decide (recTcount d ≠ 0))) then some ⟨2, 0, 0⟩ else none
def recAlign (d : Nat) : Option Chk :=
  alignField (recEntry d) 4 <|> (if recCounter d = noCounter then none else alignField (recCounter d) 8) <|>
    alignField (recPsrc d) 64 <|> alignField (recPdst d) 64 <|> alignField (recPlen d) 64
def recAccv (d : Nat) : Option Chk :=
  if recCounter d ≠ noCounter ∧ 0xC000000 ≤ recCounter d then some (accv (recCounter d))
  else if 32768 < recPlen d ∨ 0x400000 < recPdst d + recPlen d then some (accv (recPdst d))
  else none

/-- A queue number: bits 8 to 0 of its register (R259). -/
def queueBits (v : Word) : Option Chk := if 0x200 ≤ v.toNat then some ⟨2, 0, 0⟩ else none
def State.queueChk (s : State) (qn : Nat) : Option Chk :=
  if s.launchQueue s.cur.hw qn then none else some (accvOpen qn)

/-- The fields of a watch's control word (R254). -/
def wLimit (w : Nat) : Nat := fld w 21 11
def wScope (w : Nat) : Nat := fld w 18 3
def wLg (w : Nat) : Nat := fld w 13 5
def wEntry (w : Nat) : Nat := fld w 0 9

/-- A watch entry given to the context's launch. -/
def State.entryChk (s : State) (e : Nat) : Option Chk :=
  match s.launchOf s.cur.hw with
  | some l => if l.wfirst ≤ e ∧ e < l.wfirst + l.wcount then none else some (accvOpen e)
  | none => some (accvOpen e)

/-- The checks of a watch (R262). `two` is false where sR is s63, which has no register after it. -/
def State.watchChk (s : State) (base : Nat) (w t : Nat) (two : Bool) : Option Chk :=
  (if wScope w < 2 ∨ 4 < wScope w then some ⟨1, 0, 0⟩ else none) <|> recIllop t true <|>
  (if !two ∨ 2 ^ 32 ≤ w ∨ fld w 9 4 ≠ 0 ∨ wLg w < 6 ∨ 20 < wLg w ∨ wLimit w = 0 ∨ 1024 < wLimit w then some ⟨2, 0, 0⟩ else none) <|>
  recIllbnd t true <|> alignN base (2 ^ wLg w) <|> recAlign t <|>
  (if 0xC000000 ≤ base then some (accv base) else none) <|> s.entryChk (wEntry w) <|> s.queueChk (recQueue t) <|> recAccv t

/-! ## SPAWN, TAKE, WATCH, UNWATCH at issue -/

def execSpawn (o : Q2) (s : State) : Out :=
  let c := s.me
  let d := recOf (c.vreg o.r)
  let q := c.sreg o.t
  s.qCommand o.g (recIllop d false <|> recIllbnd d false <|> queueBits q <|> recAlign d <|> recAccv d <|> s.queueChk q.toNat)
    (.spawn d q.toNat) o.prod none

def execTake (o : Q2) (s : State) : Out :=
  let c := s.me
  let q := c.sreg o.r
  let a := (c.sreg o.t).toNat
  s.qCommand o.g (queueBits q <|> alignN a 64 <|> clusterRange a 64 <|>
      (if s.mayTake s.cur.hw q.toNat then none else some (accvOpen q.toNat)))
    (.take q.toNat a) o.prod none

/-- WATCH: sR = 63 is refused at issue; its second register does not exist. -/
def execWatch (o : Q2) (s : State) : Out :=
  let c := s.me
  let base := (c.sreg o.t).toNat
  let w := if o.t = 63 then 0 else (c.sreg (o.t + 1)).toNat
  let d := recOf (c.vreg o.r)
  let two := decide (o.t ≠ 63)
  s.qCommand o.g (if two then s.watchChk base w d two else recIllop d true <|> some ⟨2, 0, 0⟩) (.watch base w d) o.prod none

def execUnwatch (o : Q1) (s : State) : Out :=
  let v := (s.me.sreg o.r).toNat
  s.qCommand o.g (s.entryChk v) (.unwatch v) o.prod none

/-! ## What the queue logic does with them -/

/-- Add a push that waits, and drop one that has been made. -/
def State.addWait (s : State) (cl qn : Nat) (w : PushWait) : State :=
  if qn < 0x100 then s.modCl cl (fun c => { c with waits := c.waits ++ [(qn, w)] })
  else { s with front := { s.front with baseWaits := s.front.baseWaits ++ [(qn, w)] } }
def State.dropWait (s : State) (cl qn id : Nat) : State :=
  let keep (l : List (Nat × PushWait)) : List (Nat × PushWait) := l.filter (fun x => decide (x.2.r.id ≠ id))
  if qn < 0x100 then s.modCl cl (fun c => { c with waits := keep c.waits })
  else { s with front := { s.front with baseWaits := keep s.front.baseWaits } }
def State.waitsOn (s : State) (cl qn : Nat) : List PushWait :=
  let l := if qn < 0x100 then (s.cluster cl).waits else s.front.baseWaits
  (l.filter (fun x => decide (x.1 = qn))).map (fun x => x.2)

/-- A command of a context that has ended is dropped, with its entry of the address queue and its waiting push (log 24). -/
def State.dropCmd (s : State) (hw id : Nat) : State :=
  ((s.dropPushes hw [id]).modCtx hw (fun x => { x with eng := { x.eng with
    work := x.eng.work.filter (fun c => decide (c.id ≠ id))
    addrQ := x.eng.addrQ.filter (fun a => decide (a.1 ≠ id)) } })).modCl (clusterOf hw) (fun k =>
      { k with
        nlq := k.nlq.filter (fun q => !(decide (q.1 = hw) && decide (q.2 = id)))
        nljob := k.nljob.filter (fun j => !j.isOf hw id) })

/-- A major fault of the spill engine stops a command (R249, R157, log 41). -/
def State.spillFault (s : State) (hw id va code level : Nat) : State :=
  if (s.ctx hw).run.st = .inactive then s.dropCmd hw id
  else (s.modCmd hw id (fun c => { c with held := true })).raise hw ⟨code, BitVec.ofNat 64 va, 0, 10, level, 15, true, false⟩

/-- A record that waits is pushed when there is room; its SPAWN completes. -/
def State.retryPush (s : State) (hw qn : Nat) (w : PushWait) : State :=
  let cl := clusterOf hw
  match s.pushInTurn cl qn w.r with
  | .ok s1 => ((s1.chargeRing s cl qn hw).dropWait cl qn w.r.id).cmdDone hw w.cmd
  | .empty => s
  | .fault va code level => s.spillFault hw w.cmd va code level

/-- SPAWN: hardware fields, counter, push (R251, R260). A push without room waits. -/
def State.doSpawn (s : State) (hw : Nat) (c : Cmd) (d qn : Nat) : State :=
  let cl := clusterOf hw
  match (s.waitsOn cl qn).find? (fun w => decide (w.hw = hw) && decide (w.cmd = c.id)) with
  | some w => s.retryPush hw qn w
  | none =>
    let r := setField (setField (setField (setField d 16 2 qn) 18 1 cl) 19 1 0) 20 4 0
    let (id, s1) := s.fresh
    let s2 := if recCounter d = noCounter then s1 else s1.counterAdd cl (recCounter d) 1 c.gen
    let w : PushWait := ⟨hw, c.id, ⟨id, r⟩⟩
    ((s2.addWait cl qn w).modCmd hw c.id (fun x => { x with started := true })).retryPush hw qn w

/-- An empty record (R261). -/
def emptyRec : Nat := 0xFF * 2 ^ 32

/-- TAKE writes the record that it takes, or an empty one. -/
def State.doTake (s : State) (hw : Nat) (c : Cmd) (qn a : Nat) : State :=
  let cl := clusterOf hw
  let put (s : State) (d : Nat) : State :=
    match spadPieces cl a 64 with
    | .ok ps => ((s.writeMute ps (toBytes d 64)).chargePieces hw ps).cmdDone hw c.id
    | .error _ => s.cmdDone hw c.id
  match s.takeRec cl qn (s.ownsQueue hw qn) with
  | .ok (r, s1) => put (s1.chargeRing s cl qn hw) r.d
  | .empty => put s emptyRec
  | .fault va code level => s.spillFault hw c.id va code level

/-- A held record that its entry no longer counts waits on its own (R258). -/
def State.freeHeld (s : State) (cl e : Nat) (w : Watch) : State :=
  match w.held with
  | some r => s.addWait cl (recQueue w.tmpl) ⟨1536, e, r⟩
  | none => s

/-- WATCH arms an entry (R254, R258); its count goes on (R257). -/
def State.doWatch (s : State) (hw : Nat) (c : Cmd) (base w t : Nat) : State :=
  let cl := clusterOf hw
  let e := wEntry w
  let old := SMap.getD (s.cluster cl).watch e ⟨0, 0, 0, 0, 0, 0, 0, 0, 0, none, 0, none⟩
  let l := ((s.ctx hw).run.launch).getD 0
  let new : Watch := ⟨1, l, hw, base, wLg w, wLimit w, wScope w, t, 0, none, old.count, none⟩
  ((s.freeHeld cl e old).modCl cl (fun k => { k with watch := SMap.put k.watch e new })).cmdDone hw c.id

/-- UNWATCH frees an entry (R258, R263). -/
def State.doUnwatch (s : State) (hw : Nat) (c : Cmd) (e : Nat) : State :=
  let cl := clusterOf hw
  match SMap.get? (s.cluster cl).watch e with
  | none => s.cmdDone hw c.id
  | some w =>
    ((s.freeHeld cl e w).modCl cl (fun k => { k with
      watch := SMap.put k.watch e { w with st := 0, held := none, pendId := 0 } })).cmdDone hw c.id

/-- The records of a watch entry that wait to be pushed, each with its queue: those that it has left, then the one that it holds. -/
def State.heldRecs (s : State) (cl e : Nat) : List (Nat × TRec) :=
  (((s.cluster cl).waits ++ s.front.baseWaits).filter (fun x => decide (x.2.hw = 1536) && decide (x.2.cmd = e))).map (fun x =>
    (x.1, x.2.r)) ++
    (match SMap.get? (s.cluster cl).watch e with
      | some w => (w.held.map (fun r => (recQueue w.tmpl, r))).toList
      | none => [])

/-- A watch entry holds its record no longer. -/
def Watch.pushed (w : Watch) (id : Nat) : Watch := { w with held := w.held.filter (fun r => decide (r.id ≠ id)) }

/-- A record of a watch entry is pushed. -/
def State.pushOne (s : State) (cl e : Nat) (x : Nat × TRec) : QRes State :=
  match s.pushInTurn cl x.1 x.2 with
  | .ok s1 => .ok (((s1.chargeRing s cl x.1 (s.queueOwner cl x.1)).dropWait cl x.1 x.2.id).modCl cl (fun k => { k with
      watch := k.watch.map (fun y => if y.1 = e then (y.1, y.2.pushed x.2.id) else y) }))
  | .empty => .empty
  | .fault va code l => .fault va code l

/-- A record held in a watch entry, or left by one, is pushed when its queue has room (R256): the first that has; where none has, a
fault of a ring is told. -/
def State.pushHeld (s : State) (cl e : Nat) : State :=
  let rs := s.heldRecs cl e
  match rs.findSome? (fun x => match s.pushOne cl e x with
    | .ok t => some t
    | _ => none) with
  | some t => t
  | none =>
    match rs.findSome? (fun x => match s.pushOne cl e x with
      | .fault va code l => some (x.1, va, code, l)
      | _ => none) with
    | some (qn, va, code, l) => s.ringFault cl qn va code l
    | none => s

def execStitchPushDeferred (cl e : Nat) (s : State) : Out := .next (s.pushHeld cl e)

/-- A window of 1,024 real cycles starts (R257): every entry's count restarts. -/
def execWatchWindowStart (cl : Nat) (s : State) : Out := .next (s.rollWatch cl)

/-! ## The search (R252) -/

/-- Cluster queue numbers in the order of the search. -/
def clusterOrder (own : Option Nat) : List Nat :=
  match own with
  | some n => if n < 0x100 then ((List.range 255).map (fun k => (n + 1 + k) % 256)) else List.range 256
  | none => List.range 256

/-- The queues of the search, each with whether the newest record is taken (log 57). -/
def State.searchList (s : State) (hw : Nat) : List (Nat × Bool) :=
  let own := (s.ctx hw).eng.ownQ
  let first := match own with
    | some n => [(n, true)]
    | none => []
  let team := ((clusterOrder own).filter (fun n => s.mayTake hw n)).map (fun n => (n, false))
  let base := match s.launchOf hw with
    | none => []
    | some l => ((List.range 256).map (fun k => 0x100 + k)).filter (fun n => l.tqs.contains (0, n))
  first ++ team ++ base.map (fun n => (n, decide (own = some n)))

/-- A queue holds a record. -/
def State.holdsRec (s : State) (hw qn : Nat) : Bool :=
  match s.taskQ (clusterOf hw) qn with
  | none => false
  | some q => !(q.sram.isEmpty && q.rids.isEmpty)

/-- The search finds something. -/
def State.searchHit (s : State) (hw : Nat) : Option (Nat × Bool) :=
  (s.searchList hw).find? (fun x => s.holdsRec hw x.1)

/-- Take the record that the search finds: the context then stands with it, and knows the queue that it came from (R253). -/
def State.searchTake (s : State) (hw : Nat) : State :=
  match s.searchHit hw with
  | none => s
  | some (qn, newest) =>
    match s.takeRec (clusterOf hw) qn newest with
    | .ok (r, s1) => (s1.chargeRing s (clusterOf hw) qn hw).modCtx hw (fun c => { c with run := { c.run with
        stage := .got r.d, tookFrom := some qn } })
    | .empty => s
    | .fault va code level => s.raiseOnce hw ⟨code, BitVec.ofNat 64 va, 0, 10, level, 15, true, false⟩

/-! ## YIELD and TDONE (R264, R265) -/

/-- No product or transfer of the context is in flight. -/
def State.arrayQuiet (s : State) (hw : Nat) : Bool :=
  let k := s.core (coreOf hw)
  !(k.prods.any (fun p => decide (p.hw = hw) && !p.orphan)) && !(k.xfers.any (fun x => decide (x.hw = hw) && !x.orphan))

/-- Every result has landed, no product or transfer is in flight, and every token reads zero once the results land (R214,
R264, R309). -/
def State.quiet (s : State) (hw : Nat) : Bool :=
  let c := s.ctx hw
  c.landed (s.core (coreOf hw)).arr && s.arrayQuiet hw && c.landAll.tokensZero 255

def engineWaitIf (b : Bool) : Option Wait := if b then some .engine else none

/-- YIELD's wait; in trap mode it waits for the routine's own results only (R304). -/
def State.yieldWait (s : State) (hw : Nat) : Option Wait :=
  let c := s.ctx hw
  if c.run.trap then engineWaitIf (!c.landed (s.core (coreOf hw)).arr)
  else engineWaitIf (!(s.quiet hw && c.eng.cG.isEmpty && c.eng.qG.isEmpty))

/-- A context goes to search for a record, or in trap mode to be saved (R252, R304); its task's first bundle issues two real
cycles later at the earliest. -/
def State.yieldEff (s : State) (hw : Nat) : State :=
  let s1 := s.modCtx hw (fun c => { c with run := { c.run with
    st := .waiting
    stage := if c.run.trap then .save true else .search
    earliest := s.mod.cycles + 2 } })
  s1.leavePrimary hw

def execYield (g : Nat) (s : State) : Out :=
  s.perform s.me.delayChk (s.me.guardN g) (s.yieldWait s.cur.hw) none (fun s => s.yieldEff s.cur.hw)

/-- YIELD.nw: a search that finds nothing falls through with s48 := 0. -/
def State.yieldNwEff (s : State) (hw : Nat) : State :=
  if (s.ctx hw).run.trap then s.yieldEff hw
  else
    match s.searchHit hw with
    | none => s.modCtx hw (fun c => c.setS 48 0)
    | some _ => (s.yieldEff hw).searchTake hw

def execYieldNw (g : Nat) (s : State) : Out :=
  s.perform s.me.delayChk (s.me.guardN g) (s.yieldWait s.cur.hw) none (fun s => s.yieldNwEff s.cur.hw)

/-- A command that has performed as DRAIN asks; a TLBINV has not before the copies in its scope complete (R80). -/
def Cmd.settled (c : Cmd) : Bool :=
  match c.op with
  | .tlbinv _ _ _ _ _ => false
  | _ => c.performed

/-- Every earlier access of the context has performed, at whatever scope (R220): an access that performs is seen by
every agent at once. -/
def State.drained (s : State) (hw : Nat) : Bool :=
  let e := (s.ctx hw).eng
  let k := s.core (coreOf hw)
  e.cG.isEmpty && e.qG.isEmpty && e.work.all Cmd.settled && !(k.xfers.any (fun x => decide (x.hw = hw) && !x.orphan)) &&
    !(k.imgs.any (fun j => decide (j.hw = hw)))

/-- At scope sys a zero-length read goes out on each PCIe link that carried an earlier write of the context, once the accesses have
performed at every narrower scope (R228). -/
def State.drainAsk (s : State) (on sys : Bool) : State :=
  let hw := s.cur.hw
  if s.cur.go || !on || !sys || !s.drained hw || (s.pingsOf hw).isSome then s
  else s.modPings (fun l => l ++ [(hw, (s.ctx hw).eng.hostLinks)])

/-- The wait of a DRAIN: at scope sys also for the completion of every such read. -/
def State.drainWait (s : State) (sys : Bool) : Option Wait :=
  engineWaitIf (!s.drained s.cur.hw || (sys && s.pingsOf s.cur.hw ≠ some []))

/-- A zero-length read completes. -/
def State.linkRead (s : State) (hw link : Nat) : State :=
  s.modPings (fun l => l.map (fun x => if x.1 = hw then (x.1, x.2.filter (fun k => decide (k ≠ link))) else x))

/-- TDONE has something to release. -/
def Ctx.toRelease (c : Ctx) : Option Nat :=
  match c.run.curRec with
  | none => none
  | some d => if recCounter d = noCounter ∨ c.run.released then none else some d

/-- TDONE subtracts 1 from the counter of the current record. -/
def State.tdoneEff (s : State) (hw : Nat) : State :=
  match (s.ctx hw).toRelease with
  | none => s
  | some d =>
    let wr := (s.ctx hw).writer
    (s.modCtx hw (fun c => { c with run := { c.run with released := true } })).counterAdd (recCcl d) (recCounter d)
      (2 ^ 64 - 1) wr

/-- The current record is to be released at scope sys. -/
def Ctx.releaseSys (c : Ctx) : Bool :=
  match c.toRelease with
  | none => false
  | some d => decide (recRscope d = 4)

/-- TDONE's reads at scope sys (R265). -/
def State.tdoneAsk (s : State) (g : Nat) : State := s.drainAsk (s.me.guardN g) s.me.releaseSys

def execTdone (g : Nat) (s : State) : Out :=
  let s0 := s.tdoneAsk g
  s0.perform none (s.me.guardN g) (if s.me.toRelease.isSome then s0.drainWait s.me.releaseSys else none) none
    (fun s => (s.dropPings s.cur.hw).tdoneEff s.cur.hw)

/-! ## Dispatch (R252, R253) -/

/-- A context starts a task or stitch record: registers s48 to s55, position, latches, h, budget count (R252). -/
def Ctx.startTask (c : Ctx) (d : Nat) : Ctx :=
  let c1 := (List.range 8).foldl (fun (c : Ctx) w =>
    { c with regs := { c.regs with s := SMap.put c.regs.s (48 + w) (BitVec.ofNat 64 (fld d (64 * w) 64)) } }) c
  { c1 with
    frame := ⟨recEntry d, 0, Branch.free, [], 0, false, 0⟩
    run := { c1.run with h := c1.run.sched, curRec := some d, released := false, ran := 0, phase := 1, window := 0 } }

/-- A line of the preload of a context's current record. A refill leaf waits for the lining; a major fault is
delivered before the task's first bundle, and its return lets the copy go on (log 61). -/
def State.preloadLine (s : State) (hw : Nat) : State :=
  let c := s.ctx hw
  match c.run.stage, c.run.curRec with
  | .preload k, some d =>
    if (c.async.any (fun a => decide (a.engine = 8))) || c.run.trap then s
    else
      let cl := clusterOf hw
      let asid := c.ctl.asid.toNat
      let va := recPsrc d + 64 * k
      match s.translate cl 8 asid false 2 va 64 with
      | .error (.refill _ _ _) => s
      | .error (.major va code level) => (s.chargeFailed hw asid va level).raise hw ⟨code, BitVec.ofNat 64 va, 0, 8, level, 15, true, false⟩
      | .ok ps =>
        let core := coreOf hw
        let base := core * Config.spadBytes + recPdst d + 64 * k
        let bs := s.readPieces ps
        let s1 := (s.rememberAll (some hw) cl 8 asid 2 va 64).spadWrite (List.zipWith (fun j b => (base + j, b)) (List.range 64) bs) c.writer
        let last := recPlen d / 64 ≤ k + 1
        (((s1.charge hw 10 1).chargePieces hw ps)).modCtx hw (fun c => { c with run := { c.run with
          stage := if last then .none else .preload (k + 1)
          st := if last then .ready else .waiting } })
  | _, _ => s

def State.preloadLines (s : State) (hw : Nat) : Nat → State
  | 0 => s
  | n + 1 => State.preloadLines (s.preloadLine hw) hw n

/-- Start a task or stitch record that the context has taken. -/
def State.dispatchTask (s : State) (hw d : Nat) : State :=
  let s1 := s.modCtx hw (fun c => c.startTask d)
  if recPlen d = 0 then s1.modCtx hw (fun c => { c with run := { c.run with st := .ready, stage := .none } })
  else s1.modCtx hw (fun c => { c with run := { c.run with stage := .preload 0 } })

end Sys2Proof.Machine
end

