-- ==== Sys2Proof/Machine/FSlot.lean ====
section
/-!
DEFINITION. The F slot but for YIELD and TDONE (R52 to R54, R93, R172, R214 to R224, R284, R309, R310), and the copy of a
segment that OVL or a launch starts (R32, R283).
-/

namespace Sys2Proof.Machine

/-! ## FMT, flags, zones -/

/-- The check of a FMT value in a register: ILLOP before ILLBND (R217). -/
def fmtChk (v : Nat) : Option Chk :=
  if !fmtCodes v then some ⟨1, 0, 0⟩ else if !fmtBits v then some ⟨2, 0, 0⟩ else none

/-- A pending FMT: latency 4 (R53). -/
def State.pushFmt (s : State) (v : Nat) : State := s.pushVal .fmt 0 (BitVec.ofNat 4096 v) 0 4

def execSetfmtImm (o : G1) (s : State) : Out := s.perform none (s.me.guardN o.g) none none (fun s => s.pushFmt o.n)
def execSetfmtReg (o : G1) (s : State) : Out :=
  let v := (s.me.sreg o.n).toNat
  s.perform none (s.me.guardN o.g) none (fmtChk v) (fun s => s.pushFmt v)

/-- GETFLG (R222). -/
def Ctx.getflg (c : Ctx) : Word := BitVec.ofNat 64 (c.fmt.fmt.toNat * 2 ^ 32 + c.fmt.flg.toNat)
def execGetflg (o : G1) (s : State) : Out :=
  s.perform none (s.me.guardN o.g) none none (fun s => s.pushS o.n s.me.getflg 0 1)

/-- CLRFLG: flags that landed at this cycle survive (R56, R223). -/
def Ctx.clearFlags (c : Ctx) (mask : Flags) : Ctx :=
  { c with fmt := { c.fmt with flg := (c.fmt.flg &&& ~~~mask) ||| (c.fmt.flg &&& c.fmt.flgNow) } }
def execClrflg (o : G1) (s : State) : Out :=
  s.perform none (s.me.guardN o.g) none none (fun s =>
    s.modCtx s.cur.hw (fun c => c.clearFlags (BitVec.ofNat 6 o.n)))

/-- SPFLAG reads SPFAULT into a pair, and clears it unless `.keep` is given (R223). -/
def execSpflag (o : G1) (keep : Bool) (s : State) : Out :=
  s.perform none (s.me.guardN o.g) none none (fun s =>
    let f := s.me.fmt
    let s1 := (s.pushS o.n (if f.spSet then 1 else 0) 0 1).pushS (o.n + 1) (if f.spSet then f.spAddr else 0) 0 1
    if keep then s1 else s1.modCtx s.cur.hw (fun c => { c with fmt := { c.fmt with spSet := false } }))

/-- The zone that a ZSET operand names (R172). -/
def zoneOf (v : Nat) : Zone := ⟨fld v 0 6, fld v 8 6, fld v 16 7, fld v 24 7⟩
def zoneChk (m : Mod) (v : Nat) : Option Chk :=
  let z := zoneOf v
  if fld v 6 2 ≠ 0 ∨ fld v 14 2 ≠ 0 ∨ fld v 23 1 ≠ 0 ∨ 2 ^ 31 ≤ v ∨ z.rows = 0 ∨ z.cols = 0 ∨
      m.rows < z.row0 + z.rows ∨ m.cols < z.col0 + z.cols then some ⟨2, 0, 0⟩ else none

def execZset (o : G2) (s : State) : Out :=
  let v := (s.me.sreg o.m).toNat
  s.perform none (s.me.guardN o.g) none (zoneChk s.mod v) (fun s =>
    s.modCtx s.cur.hw (fun c => { c with fmt := { c.fmt with z := SMap.put c.fmt.z o.n (zoneOf v) } }))

/-! ## Waits (R218 to R220, R224) -/

def execWaitt (o : G1) (s : State) : Out :=
  s.perform none (s.me.guardN o.g) (engineWaitIf (!s.me.tokensZero o.n)) none (fun s => s)

def execSlack (o : G1) (s : State) : Out :=
  s.perform none (s.me.guardN o.g) none none (fun s =>
    s.modCtx s.cur.hw (fun c => { c with run := { c.run with slack := o.n, slackRem := o.n } }))

/-- DRAIN's reads at scope sys. -/
def State.drainAskF (s : State) (o : G1) : State := s.drainAsk (s.me.guardN o.g) (decide (o.n = 4))

def execDrain (o : G1) (s : State) : Out :=
  let s0 := s.drainAskF o
  s0.perform none (s.me.guardN o.g) (s0.drainWait (decide (o.n = 4))) none (fun s => s.dropPings s.cur.hw)

/-- The conditions of a WFE that hold (R224). -/
def State.wfeHolds (s : State) (hw mask : Nat) (t : Word) : Nat :=
  let bit (k : Nat) (b : Bool) : Nat := if Nat.testBit mask k && b then 2 ^ k else 0
  bit 0 (!(s.core (coreOf hw)).ingress.isEmpty) + bit 1 (s.searchHit hw).isSome + bit 2 (decide (t.toNat ≤ s.ns))

def execWfe (o : FW) (s : State) : Out :=
  let m := s.wfeHolds s.cur.hw o.mask (s.me.sreg o.st)
  s.perform none (s.me.guardN o.g) (if m = 0 then some .wfe else none) none
    (fun s => s.pushS o.sd (BitVec.ofNat 64 m) 0 1)

/-! ## Barriers (R214, R221) -/

/-- A context arrives at its team's barrier once it is quiet, with the registers that its BAR lists. -/
def State.barArrive (s : State) (hw list : Nat) : State :=
  let team := (s.ctx hw).teamNo
  let here := SMap.getD (s.cluster (clusterOf hw)).bars team []
  if (s.ctx hw).run.barPass || here.any (fun x => decide (x.1 = hw)) || !s.quiet hw then s
  else (s.modCtx hw Ctx.landAll).modCl (clusterOf hw) (fun c => { c with bars := SMap.put c.bars team (here ++ [(hw, list)]) })

/-- A BAR whose guard holds arrives while its bundle waits (log 39). -/
def State.barAsk (s : State) (o : G2) : State :=
  if s.me.guardN o.g && !s.cur.go then s.barArrive s.cur.hw (o.n * 256 + o.m) else s

/-- BAR: arrival and release are one engine wait; the bundle then issues. A trap routine that has run since the release may have left
results, transfers or tokens: the bundle waits for these too (log 117). The checkpoint holds the counter, h and the slack as they
stand then (R214). -/
def execBar (o : G2) (s : State) : Out :=
  let s0 := s.barAsk o
  s0.perform none (s0.me.guardN o.g) (engineWaitIf (!(s0.me.run.barPass && s0.quiet s0.cur.hw))) none (fun s =>
    s.modCtx s.cur.hw (fun c => { c with
      ckpt := c.ckpt.map (fun q => { q with
        sched := c.run.sched
        h := c.run.h
        slackRem := c.run.slackRem
        slack := c.run.slack })
      run := { c.run with barPass := false } }))

/-- A member's checkpoint (R214), with the vector registers that its BAR lists. -/
def Ctx.checkpoint (c : Ctx) (list recId : Nat) : Ckpt :=
  let vs := (List.range (list % 256)).map (fun k => list / 256 + k)
  ⟨{ c.regs with v := c.regs.v.filter (fun x => vs.contains x.1) }, vs, c.fmt, c.frame, c.run.sched, c.run.h, c.run.slackRem,
    c.run.slack, c.eng.dataQ, c.eng.addrQ, recId, true, c.run.trap, c.bank, c.run.curRec, c.run.released, c.run.ran⟩

/-- A member's checkpoint holds its context as it stands just before its BAR bundle commits (R214, log 117). -/
def State.barMark (s : State) (hw list : Nat) : State :=
  s.modCtx hw (fun c => { c with ckpt := c.ckpt.map (fun q => { c.checkpoint list q.recId with usable := q.usable }) })

/-- A core's journal is emptied for the releasing team; other teams' checkpoints on the core can no longer be used. -/
def State.emptyJournal (s : State) (core team : Nat) : State :=
  let s1 := s.modCore core (fun k => { k with journal := [], jteam := some team, jfull := false })
  (List.range 4).foldl (fun s x => s.modCtx (4 * core + x) (fun c =>
    if c.teamNo = team then c else { c with ckpt := c.ckpt.map (fun q => { q with usable := false }) })) s1

/-- The release of a barrier whose members have all arrived. -/
def State.barRelease (s : State) (cl team : Nat) : State :=
  let here := SMap.getD (s.cluster cl).bars team []
  match here with
  | [] => s
  | x :: _ =>
    if here.length < fld (s.ctx x.1).ctl.team.toNat 8 8 then s
    else
      let s1 := s.modCl cl (fun c => { c with bars := SMap.del c.bars team })
      let (mark, s2) := s1.fresh
      let s3 := here.foldl (fun s m => s.modCtx m.1 (fun c =>
        { c with
          ckpt := some ({ c with run := { c.run with
            slackRem := if c.run.st = CtxState.blocked then c.run.slack else c.run.slackRem } }.checkpoint m.2 mark)
          run := { c.run with barPass := true } })) s2
      ((here.map (fun m => coreOf m.1)).dedup).foldl (fun s k => s.emptyJournal k team) s3

def execBarrierRelease (cl team : Nat) (s : State) : Out := .next (s.barRelease cl team)

/-! ## TIME, PERF (R222) -/

def execTime (o : G1) (s : State) : Out :=
  s.perform none (s.me.guardN o.g) none none (fun s => s.pushS o.n (BitVec.ofNat 64 s.ns) 0 1)

/-- The counter that a selector names (log 36), before the bundle's own issue counts in it (log 126). -/
def State.perf (s : State) (hw sel : Nat) : Nat :=
  let c := s.ctx hw
  let k := s.core (coreOf hw)
  match sel with
  | 0 => c.run.sched
  | 1 => c.perf.stall
  | 2 => c.perf.wait
  | 3 => k.held
  | 4 => c.perf.cand
  | 5 => c.perf.prim
  | 6 => s.mod.cycles
  | _ => k.journal.length

def execPerf (o : G2) (s : State) : Out :=
  s.perform none (s.me.guardN o.g) none none (fun s => s.pushS o.n (BitVec.ofNat 64 (s.perf s.cur.hw o.m)) 0 1)

/-! ## OVL (R284) -/

/-- Two segments share an IMEM page. -/
def segsMeet (a b : Seg) : Bool := decide (a.ipage < b.ipage + b.npages) && decide (b.ipage < a.ipage + a.npages)

/-- Segment `k` becomes mapped with its copy in flight; those that share its IMEM pages become unmapped. -/
def State.mapSeg (s : State) (core k asid : Nat) (by_ : Option Nat) : State :=
  match (s.core core).segs[k]? with
  | none => s
  | some g =>
    s.modCore core (fun c =>
      let out := c.segs.map (fun x => if segsMeet g x then { x with mapped := false, inflight := false } else x)
      { c with segs := out.set k { g with mapped := true, inflight := true, asid := asid, by_ := by_ } })

/-- The place of the `k`-th segment that a launch gives a core. -/
def segIndex (segs : List Seg) (launch k : Nat) : Option Nat :=
  (((List.zip (List.range segs.length) segs).filter (fun x => decide (x.2.launch = launch)))[k]?).map (fun x => x.1)

def State.ovlSeg (s : State) (n : Nat) : Option Nat := segIndex (s.core s.myCore).segs (s.me.run.launch.getD 0) n

def execOvl (o : G1) (s : State) : Out :=
  s.perform none (s.me.guardN o.g) none (if (s.ovlSeg o.n).isSome then none else some ⟨2, 0, 0⟩)
    (fun s => match s.ovlSeg o.n with
      | some k => s.mapSeg s.myCore k s.me.ctl.asid.toNat (some s.cur.hw)
      | none => s)

/-- The engine number of IMEM copies in a cluster's TLBs. -/
def engSeg : Nat := 7

/-- Write bytes into IMEM. -/
def State.imemWrite (s : State) (a : Nat) (bs : List Byte) : State :=
  { s with mem := { s.mem with imem := hostPut s.mem.imem a bs } }

/-- The debugger writes bit 15 of a bundle's header in IMEM (R336, log 115). -/
def State.debugBit (s : State) (core a : Nat) (on : Bool) : State :=
  let i := core * Config.imemBytes + a + 1
  let b := s.mem.imem.read i
  s.imemWrite i [if on then b ||| 128#8 else b &&& 127#8]

/-- The copy of a mapped segment completes: its pages are resident (R32). A refill leaf leaves it in flight; a major
fault unmaps the segment and traps the context that asked for it (R284). -/
def State.segDone (s : State) (core k : Nat) : State :=
  match (s.core core).segs[k]? with
  | none => s
  | some g =>
    if !(g.mapped && g.inflight) then s
    else
      let n := 4096 * g.npages
      let va := g.src.toNat / 64 * 64
      let set (s : State) (m : Bool) : State :=
        s.modCore core (fun c => { c with segs := c.segs.set k { g with mapped := m, inflight := false } })
      match s.translate (clOf core) engSeg g.asid false (pageFuel n) va n with
      | .ok ps =>
        let s0 := s.rememberAll g.by_ (clOf core) engSeg g.asid (pageFuel n) va n
        let s1 := match g.by_ with
          | some hw => s0.chargePieces hw ps
          | none => (s0.chargeCore core 10 (spadLines ps).length).chargeCore core 12 (hbmUnits ps)
        set (s1.imemWrite (core * Config.imemBytes + 4096 * g.ipage) (s.readPieces ps)) true
      | .error (.refill _ _ _) => s
      | .error (.major a code level) =>
        match g.by_ with
        | some hw => ((set s false).chargeFailed hw g.asid a level).raise hw ⟨code, BitVec.ofNat 64 a, 0, 7, level, 15, true, false⟩
        | none => set s false

def execSegmentCopyDone (core k : Nat) (s : State) : Out := .next (s.segDone core k)

/-! ## HALT, KEYLD (R309, R310) -/

def execHalt (g : Nat) (s : State) : Out :=
  s.perform s.me.privChk (s.me.guardN g) (engineWaitIf (!s.quiet s.cur.hw)) none (fun s => s.endContext s.cur.hw)

/-- Set or empty a key slot. -/
def State.setKey (s : State) (n : Nat) (k : Option Nat) : State :=
  let keys := match k with
    | some v => SMap.put s.mod.trust.keys n v
    | none => SMap.del s.mod.trust.keys n
  { s with mod := { s.mod with trust := { s.mod.trust with keys := keys } } }

/-- ILLBND of a slot number above 2,047. -/
def keySlotChk (v : Nat) : Option Chk := if 2047 < v then some ⟨2, 0, 0⟩ else none

/-- A key slot's new content goes to the HBM controllers while the bundle waits. -/
def State.keyAsk (s : State) (on : Bool) (chk : Option Chk) (n : Nat) (k : Option Nat) : State :=
  if s.cur.go || !s.me.privileged || !on || chk.isSome || (s.loadOf s.cur.hw).isSome then s
  else s.modLoads (fun l => l ++ [⟨s.cur.hw, n, k, false⟩])

/-- The bundle waits until every controller holds the content (R310). -/
def State.keyWait (s : State) (chk : Option Chk) : Option Wait :=
  if chk.isSome then none
  else
    match s.loadOf s.cur.hw with
    | some l => engineWaitIf (!l.done)
    | none => some .engine

/-- Every controller holds the slot content that a context's KEYLD waits for. -/
def State.keyHeld (s : State) (hw : Nat) : State :=
  match s.loadOf hw with
  | some l =>
    if l.done then s
    else (s.setKey l.slot l.key).modLoads (fun x => x.map (fun y => if y.hw = hw then { y with done := true } else y))
  | none => s

/-- The checks of KEYLD. -/
def keyChk (n a : Nat) : Option Chk :=
  keySlotChk n <|> alignN a 64 <|> (if Config.spadBytes < a + 64 then some (accv (max a Config.spadBytes)) else none)

/-- A KEYLD asks for its load while its bundle waits; the key is read then (log 58). -/
def State.keyldAsk (s : State) (o : G2) : State :=
  let n := (s.me.sreg o.n).toNat
  let a := (s.me.sreg o.m).toNat
  s.keyAsk (s.me.guardN o.g) (keyChk n a) n (some (s.mem.spad.readN (s.myCore * Config.spadBytes + a) 64))

def State.keyldClrAsk (s : State) (o : G1) : State :=
  let n := (s.me.sreg o.n).toNat
  s.keyAsk (s.me.guardN o.g) (keySlotChk n) n none

/-- KEYLD: the key is in force in every controller when its bundle issues. -/
def execKeyld (o : G2) (s : State) : Out :=
  let s0 := s.keyldAsk o
  let chk := keyChk (s.me.sreg o.n).toNat (s.me.sreg o.m).toNat
  s0.perform s.me.privChk (s.me.guardN o.g) (s0.keyWait chk) chk (fun s => s.dropLoad s.cur.hw)

def execKeyldClr (o : G1) (s : State) : Out :=
  let s0 := s.keyldClrAsk o
  let chk := keySlotChk (s.me.sreg o.n).toNat
  s0.perform s.me.privChk (s.me.guardN o.g) (s0.keyWait chk) chk (fun s => s.dropLoad s.cur.hw)

end Sys2Proof.Machine
end

