-- ==== Sys2Proof/Machine/Neighbour.lean ====
section
/-!
DEFINITION. The neighbour-list engine (R159 to R166): grid descriptors, binning, position writes, pair tests in exact
arithmetic, and the status record.
-/

namespace Sys2Proof.Machine

/-! ## Descriptor (R159) -/

def gridP (d : Nat) : Nat := fld d 0 64
def gridB (d : Nat) : Nat := fld d 64 64
def gridO (d : Nat) : Nat := fld d 128 64
def gridN (d : Nat) : Nat := fld d 192 32
/-- Cells along axis 0 x, 1 y, 2 z. -/
def gridCells (d a : Nat) : Nat := fld d (224 + 8 * a) 8
def gridFlags (d : Nat) : Nat := fld d 248 8
def gridPer (d a : Nat) : Bool := Nat.testBit (gridFlags d) a
def gridPVirt (d : Nat) : Bool := Nat.testBit (gridFlags d) 4
def gridBVirt (d : Nat) : Bool := Nat.testBit (gridFlags d) 5
def gridL (d a : Nat) : Nat := fld d (256 + 32 * a) 32
def gridRc (d : Nat) : Nat := fld d 352 32
def gridSize (d : Nat) : Nat := gridCells d 0 * gridCells d 1 * gridCells d 2

/-- A finite FP32 value in units of 2^-149, exactly. -/
def f32Int (x : Nat) : Option Int :=
  match f32.decode x with
  | .fin n m e =>
    let v : Int := (m * 2 ^ (e + 149).toNat : Nat)
    some (if n then -v else v)
  | _ => none

/-- A box length is finite and positive; the cut-off radius is finite and not negative. -/
def lengthOk (x : Nat) : Bool :=
  match f32Int x with
  | some v => decide (0 < v)
  | none => false
def radiusOk (x : Nat) : Bool :=
  match f32Int x with
  | some v => decide (0 ≤ v)
  | none => false
def f32Val (x : Nat) : Int := (f32Int x).getD 0

def axes : List Nat := [0, 1, 2]

/-- The error code of a descriptor, 0 when it is valid (R165). -/
def gridErr (d : Nat) : Nat :=
  let cellsOk := axes.all (fun a => decide (1 ≤ gridCells d a) && decide (gridCells d a ≤ 128))
  let lensOk := axes.all (fun a => lengthOk (gridL d a)) && radiusOk (gridRc d)
  let small := lensOk && cellsOk &&
    axes.any (fun a => decide (f32Val (gridL d a) < f32Val (gridRc d) * gridCells d a))
  let per := axes.any (fun a => gridPer d a && decide (gridCells d a < 3))
  if gridN d = 0 ∨ 4194304 < gridN d then 1
  else if !cellsOk then 2
  else if small || per then 3
  else if !lensOk then 4
  else if gridP d % 64 ≠ 0 ∨ gridB d % 64 ≠ 0 ∨ gridO d % 64 ≠ 0 ∨ fld (gridFlags d) 3 1 ≠ 0 ∨ fld (gridFlags d) 6 2 ≠ 0 ∨
      fld d 384 128 ≠ 0 then 5
  else 0

/-! ## Access to its arrays -/

/-- The number of the engine in TINFO and in the cluster's TLBs. -/
def engNl : Nat := 5

/-- The places of `n` bytes at a base plus offset, in the space that a flag names. -/
def State.nlPieces (s : State) (cl asid : Nat) (write virt : Bool) (a n : Nat) : Except TrFault (List Piece) :=
  if virt then s.translate cl engNl asid write (pageFuel n) (va56 a) n else spadPieces cl a n

/-- Bytes `off` to `off + n - 1` of an array at the places that its request has translated. -/
def State.nlAt (s : State) (ps : List Piece) (off n : Nat) : Nat := ofBytes (s.readPieces (slicePieces ps off n))

/-- A walk for bytes of an array stays in the TLBs (R68). -/
def State.rememberNl (s : State) (hw cl asid : Nat) (virt : Bool) (a n : Nat) : State :=
  if virt then s.rememberAll (some hw) cl engNl asid (pageFuel n) (va56 a) n else s

/-- The arrays of a grid: positions, bins with their counts, `n` entries of the overflow list. An NLBIN writes all but the first. -/
def State.nlArrays (s : State) (cl asid d n : Nat) (write : Bool) : List (Except TrFault (List Piece)) :=
  [s.nlPieces cl asid false (gridPVirt d) (gridP d) (16 * gridN d),
    s.nlPieces cl asid write (gridBVirt d) (gridB d) (129 * gridSize d),
    s.nlPieces cl asid write (gridBVirt d) (gridO d) (8 * n)]

/-- The places of translations, none where one fails. -/
def okPieces (x : Except TrFault (List Piece)) : List Piece :=
  match x with
  | .ok p => p
  | .error _ => []

/-- The three coordinates of a particle as read now from the position array. -/
def State.position (s : State) (ps : List Piece) (p : Nat) : List Nat :=
  let v := s.nlAt ps (16 * p) 12
  [fld v 0 32, fld v 32 32, fld v 64 32]

/-! ## NLBIN (R161) -/

/-- Cell coordinate and wrap count along one axis, none where the particle is dropped. -/
def binAxis (d a x : Nat) : Option (Nat × Int) :=
  match f32Int x with
  | none => none
  | some v =>
    let n : Int := gridCells d a
    let l := f32Val (gridL d a)
    if gridPer d a then
      if -l ≤ v ∧ v < 2 * l then some ((n * v / l % n).toNat, v / l) else none
    else some ((max 0 (min (n * v / l) (n - 1))).toNat, 0)

/-- Cell and wrap counts of a particle. -/
def binOf (d : Nat) (pos : List Nat) : Option (Nat × List Int) :=
  match binAxis d 0 (pos.getD 0 0), binAxis d 1 (pos.getD 1 0), binAxis d 2 (pos.getD 2 0) with
  | some (x, fx), some (y, fy), some (z, fz) =>
    some (x + gridCells d 0 * (y + gridCells d 1 * z), [fx, fy, fz])
  | _, _, _ => none

/-- The start of a binning. -/
def Binning.none_ : Binning := ⟨[], [], [], 0, 0⟩

/-- One particle (R161). -/
def Binning.place (b : Binning) (d p : Nat) (pos : List Nat) : Binning :=
  match binOf d pos with
  | none => { b with drop := b.drop + 1 }
  | some (c, f) =>
    let moved := f.any (fun k => decide (k ≠ 0))
    let b1 := if moved then { b with wrap := b.wrap + 1, fa := SMap.put b.fa p f } else b
    let l := SMap.getD b.bins c []
    if l.length < 32 then { b1 with bins := SMap.put b.bins c (l ++ [p]) }
    else if b.extra.length < 65536 then { b1 with bins := SMap.put b.bins c (l ++ [p]), extra := b.extra ++ [(p, c)] }
    else { b1 with drop := b.drop + 1 }

/-- The write that one particle brings: its slot (in place 1, the bins) or its overflow entry (in place 2), as offset and bytes. -/
def Binning.spot (b : Binning) (d p : Nat) (pos : List Nat) : Option (Nat × Nat × List Byte) :=
  match binOf d pos with
  | none => none
  | some (c, _) =>
    let n := (SMap.getD b.bins c []).length
    if n < 32 then some (1, 128 * c + 4 * n, toBytes p 4)
    else if b.extra.length < 65536 then some (2, 8 * b.extra.length, toBytes p 4 ++ toBytes c 4)
    else none

/-- Bin all particles with the positions as they stand. -/
def State.binAll (s : State) (ps : List Piece) (d : Nat) : Binning :=
  (List.range (gridN d)).foldl (fun b p => b.place d p (s.position ps p)) Binning.none_

def State.setNl (s : State) (cl : Nat) (n : Nl) : State := s.modCl cl (fun c => { c with nl := n })

/-- The first fault among translations. -/
def firstFault : List (Except TrFault (List Piece)) → Option TrFault
  | [] => none
  | .error e :: _ => some e
  | .ok _ :: r => firstFault r

/-- What keeps an NLBIN from performing: the first page of its descriptor or arrays that does not translate (R157).
The overflow list counts as far as it is written. -/
def State.nlbinFault (s : State) (cl asid a : Nat) : Option TrFault :=
  match spadPieces cl a 64 with
  | .error e => some e
  | .ok ps =>
    let d := ofBytes (s.readPieces ps)
    if gridErr d ≠ 0 then none
    else
      match s.nlPieces cl asid false (gridPVirt d) (gridP d) (16 * gridN d) with
      | .error e => some e
      | .ok xs => firstFault (s.nlArrays cl asid d (s.binAll xs d).extra.length true)

/-! ## NLPOS (R162) -/

/-- The positions that an NLPOS writes: particle, 12 bytes. -/
def nlposList (g : Nl) (v : VReg) : List (Nat × List Byte) :=
  if !(g.have_ && g.valid) then []
  else
    let x := v.toNat
    (List.range 32).filterMap (fun e =>
      let p := elem x 4 e
      if p < gridN g.desc then
        some (p, toBytes (elem x 4 (32 + 3 * e)) 4 ++ toBytes (elem x 4 (33 + 3 * e)) 4 ++ toBytes (elem x 4 (34 + 3 * e)) 4)
      else none)

def State.nlposFault (s : State) (cl asid : Nat) (v : VReg) : Option TrFault :=
  let g := (s.cluster cl).nl
  firstFault ((nlposList g v).map (fun x =>
    s.nlPieces cl asid true (gridPVirt g.desc) (gridP g.desc + 16 * x.1) 12))


/-! ## Commands in parts (R161, R162, R165, R243)

The parts of an NLBIN are numbered as its rule orders them: `2p` reads particle p's position, `2p + 1` writes its slot or its overflow
entry, and `2N + c` writes the count byte of cell c. Those of NLPOS and NLSTAT are their writes of up to 16 bytes. -/

/-- The job of the engine. -/
def State.setJob (s : State) (cl : Nat) (j : Option NlJob) : State := s.modCl cl (fun c => { c with nljob := j })

/-- The count bytes are to be written. -/
def NlJob.counts (j : NlJob) : NlJob :=
  { j with left := j.left ++ (List.range (gridSize j.desc)).map (fun c =>
      (2 * j.reads + c, 1, 128 * gridSize j.desc + c, [BitVec.ofNat 8 (min 32 (SMap.getD j.bin.bins c []).length)])) }

/-- The particles whose coordinates have been read are binned in their order, up to `n` of them. -/
def NlJob.advance (j : NlJob) : Nat → NlJob
  | 0 => j
  | n + 1 =>
    match SMap.get? j.early j.upto with
    | none => j
    | some pos =>
      let j1 := { j with
        upto := j.upto + 1
        early := SMap.del j.early j.upto
        bin := j.bin.place j.desc j.upto pos
        left := match j.bin.spot j.desc j.upto pos with
          | some w => SMap.put j.left (2 * j.upto + 1) w
          | none => j.left }
      NlJob.advance (if j1.upto = j1.reads then j1.counts else j1) n

/-- Part `k` is a read. -/
def NlJob.isRead (j : NlJob) (k : Nat) : Bool := decide (k < 2 * j.reads) && decide (k % 2 = 0)

/-- Part `k` may perform: it has not, and where arrays overlap every part before it has (log 128). -/
def NlJob.may (j : NlJob) (k : Nat) : Bool :=
  (if j.isRead k then decide (j.upto ≤ k / 2) && (SMap.get? j.early (k / 2)).isNone else (SMap.get? j.left k).isSome) &&
    (!j.strict || ((decide (k ≤ 2 * j.upto) || decide (j.upto = j.reads)) && j.left.all (fun x => decide (k ≤ x.1))))

/-- The bytes that places hold. -/
def piecesLen (ps : List Piece) : Nat := ps.foldl (fun n p => n + p.len) 0

/-- Part `k` performs; a write whose page has yet to be translated waits. -/
def State.nlPart (s : State) (cl : Nat) (places : List (List Piece)) (k : Nat) : State :=
  match (s.cluster cl).nljob with
  | none => s
  | some j =>
    if !j.may k then s
    else if j.isRead k then
      s.setJob cl (some ({ j with early := SMap.put j.early (k / 2) (s.position (places.getD 0 []) (k / 2)) }.advance
        (j.early.length + 1)))
    else
      match SMap.get? j.left k with
      | none => s
      | some (a, off, bs) =>
        let ps := slicePieces (places.getD a []) off bs.length
        if piecesLen ps < bs.length then s
        else ((s.writeMute ps bs).sentHost j.hw ps).setJob cl (some { j with left := SMap.del j.left k })

/-- Every part has performed. -/
def NlJob.over (j : NlJob) : Bool := decide (j.upto = j.reads) && j.left.isEmpty

/-- A bound on the numbers of a job's parts. -/
def NlJob.total (j : NlJob) : Nat := 2 * j.reads + (if j.reads = 0 then 32 else gridSize j.desc)

/-- The grid of a binning that is over (R161). -/
def NlJob.grid (j : NlJob) (epoch : Nat) : Nl :=
  ⟨j.desc, true, true, false, 0, j.bin.extra.length, j.bin.drop, j.bin.wrap, 0, (epoch + 1) % 2 ^ 32, 0, j.bin.bins, j.bin.fa⟩

/-- The runs of bytes that an NLBIN accesses, at its places (R346, log 53). -/
def NlJob.runs (j : NlJob) (places : List (List Piece)) : List (List Piece) :=
  let bs := places.getD 1 []
  [places.getD 0 [], slicePieces bs (128 * gridSize j.desc) (gridSize j.desc),
    slicePieces (places.getD 2 []) 0 (8 * j.bin.extra.length)] ++
  j.bin.bins.map (fun x => slicePieces bs (128 * x.1) (4 * min 32 x.2.length))

/-- What keeps an NLBIN that has begun from going on: a page of the overflow list that it turns out to need. -/
def State.nlMoreFault (s : State) (cl asid : Nat) (places : List (List Piece)) : Option TrFault :=
  match (s.cluster cl).nljob with
  | none => none
  | some j =>
    if 8 * j.bin.extra.length ≤ piecesLen (places.getD 2 []) then none
    else
      match s.nlPieces cl asid true (gridBVirt j.desc) (gridO j.desc) (8 * j.bin.extra.length) with
      | .error e => some e
      | .ok _ => none

/-! ## Pair tests (R163) -/

/-- The particles of a cell, the request's arrays at the places `pl` (positions, bins, overflow list): as binned, unless another agent has
changed the cell's own bytes, or an overflow entry that names the cell now or did so (R160, log 13). -/
def State.cellList (s : State) (pl : List (List Piece)) (g : Nl) (c : Nat) : List Nat :=
  let l := SMap.getD g.bins c []
  let d := g.desc
  let bs := pl.getD 1 []
  let slots := l.take 32
  let extra := sortBy (fun (e : Nat × Nat) => e.1) (g.bins.flatMap (fun x => (x.2.drop 32).map (fun p => (p, x.1))))
  let entrySame (k : Nat) (x : Nat × Nat) : Bool :=
    let m := s.nlAt (pl.getD 2 []) (8 * k) 8
    decide (m = x.1 + 2 ^ 32 * x.2) || (decide (x.2 ≠ c) && decide (m / 2 ^ 32 ≠ c))
  let same := decide (s.nlAt bs (128 * gridSize d + c) 1 = slots.length) &&
    decide (s.nlAt bs (128 * c) (4 * slots.length) = ofBytes (slots.flatMap (fun p => toBytes p 4))) &&
    (List.zip (List.range extra.length) extra).all (fun x => entrySame x.1 x.2)
  if same then l else (Config.foreignBin g.epoch c).filter (fun p => decide (p < gridN d))

/-- The half-shell offsets in their order. -/
def halfShell : List (List Int) :=
  [[1, 0, 0], [-1, 1, 0], [0, 1, 0], [1, 1, 0], [-1, -1, 1], [0, -1, 1], [1, -1, 1], [-1, 0, 1], [0, 0, 1], [1, 0, 1],
    [-1, 1, 1], [0, 1, 1], [1, 1, 1]]

/-- The neighbour coordinate of an axis and the shift S, none where the offset is skipped. -/
def stepAxis (d a h : Nat) (o : Int) : Option (Nat × Int) :=
  let m : Int := h + o
  let n : Int := gridCells d a
  if m = n then (if gridPer d a then some (0, 1) else none)
  else if m = -1 then (if gridPer d a then some ((n - 1).toNat, -1) else none)
  else some (m.toNat, 0)

/-- A test: particles i and j, shift S. -/
abbrev PairTest := Nat × Nat × List Int

/-- The neighbour of a home cell at an offset. -/
def stepCell (d c : Nat) (o : List Int) : Option (Nat × List Int) :=
  let nx := gridCells d 0
  let ny := gridCells d 1
  match stepAxis d 0 (c % nx) (o.getD 0 0), stepAxis d 1 (c / nx % ny) (o.getD 1 0), stepAxis d 2 (c / nx / ny) (o.getD 2 0) with
  | some (x, sx), some (y, sy), some (z, sz) => some (x + nx * (y + ny * z), [sx, sy, sz])
  | _, _, _ => none

/-- Pairs of one list, each with the later ones. -/
def innerPairs : List Nat → List PairTest
  | [] => []
  | i :: r => r.map (fun j => (i, j, [0, 0, 0])) ++ innerPairs r

/-- The neighbour cell of block `b` of a home cell; block 0 is the cell itself. -/
def blockCell (d c b : Nat) : Option (Nat × List Int) := if b = 0 then some (c, [0, 0, 0]) else stepCell d c (halfShell.getD (b - 1) [])

/-- The tests of block `b` of a home cell in order: its own pairs, or those with the cell at a half-shell offset. -/
def State.blockTests (s : State) (pl : List (List Piece)) (g : Nl) (c b : Nat) : List PairTest :=
  match blockCell g.desc c b with
  | none => []
  | some (m, sh) =>
    let home := s.cellList pl g c
    if b = 0 then innerPairs home
    else
      let other := s.cellList pl g m
      home.flatMap (fun i => other.map (fun j => (i, j, sh)))

/-- The bytes of a cell's list that a block reads: its count, its slots and its overflow entries (R346, log 53). -/
def Nl.cellRuns (g : Nl) (pl : List (List Piece)) (c : Nat) : List Piece :=
  let l := SMap.getD g.bins c []
  slicePieces (pl.getD 1 []) (128 * gridSize g.desc + c) 1 ++ slicePieces (pl.getD 1 []) (128 * c) (4 * min 32 l.length) ++
    slicePieces (pl.getD 2 []) 0 (8 * (l.length - 32))

/-- The bytes of a pair test: the positions of its particles. -/
def testRuns (pl : List (List Piece)) (t : PairTest) : List Piece :=
  slicePieces (pl.getD 0 []) (16 * t.1) 12 ++ slicePieces (pl.getD 0 []) (16 * t.2.1) 12

/-- A pair that passes its test, with its k: exact arithmetic on the positions as read now. -/
def State.pairTest (s : State) (pl : List (List Piece)) (g : Nl) (t : PairTest) : Option (Nat × Nat × List Int) :=
  let d := g.desc
  let fi := SMap.getD g.fa t.1 [0, 0, 0]
  let fj := SMap.getD g.fa t.2.1 [0, 0, 0]
  let k := axes.map (fun a => t.2.2.getD a 0 + fi.getD a 0 - fj.getD a 0)
  let pi := (s.position (pl.getD 0 []) t.1).map f32Int
  let pj := (s.position (pl.getD 0 []) t.2.1).map f32Int
  if pi.any Option.isNone || pj.any Option.isNone then none
  else
    let sq := axes.foldl (fun (acc : Int) a =>
      let x := (pj.getD a none).getD 0 + k.getD a 0 * f32Val (gridL d a) - (pi.getD a none).getD 0
      acc + x * x) 0
    let rc := f32Val (gridRc d)
    if sq ≤ rc * rc then some (t.1, t.2.1, k) else none

/-- The lanes of a pair as one number: i, then j with kx, ky, kz (R164). -/
def pairCode (x : Nat × Nat × List Int) : Nat :=
  let k (a : Nat) : Nat := ((x.2.2.getD a 0) % 8).toNat
  x.1 + 2 ^ 32 * (x.2.1 + 2 ^ 22 * k 0 + 2 ^ 25 * k 1 + 2 ^ 28 * k 2)

/-- A vector register of up to 64 pairs (R164). -/
def pairEntry (l : List Nat) : VReg :=
  BitVec.ofNat 4096 ((List.range l.length).foldl (fun v q =>
    let c := l.getD q 0
    v + c % 2 ^ 32 * 2 ^ (32 * q) + c / 2 ^ 32 * 2 ^ (32 * (64 + q))) 0)

/-! ## The status record (R165) -/

def Nl.record (g : Nl) : List Byte :=
  toBytes g.ovf 4 ++ toBytes g.drop 4 ++ toBytes g.wrap 4 ++ toBytes g.staleN 4 ++
    toBytes (g.valid.toNat + 2 * g.stale.toNat) 1 ++ toBytes g.err 1 ++ toBytes 0 2 ++ toBytes g.epoch 4 ++ toBytes g.pairs 8

end Sys2Proof.Machine
end

