-- ==== Sys2Proof/Machine/Queues.lean ====
section
/-!
DEFINITION. The Q engines (R146 to R158, R163 to R166): when a command may perform, what it does, and how data enters a
context's data queue.
-/

namespace Sys2Proof.Machine

/-! ## Kinds of Q commands -/

/-- Commands of the Q slot. -/
def CmdOp.isQ : CmdOp → Bool
  | .gpush .. | .sacc .. | .sfop .. | .nlbin _ | .nlpos _ | .nlreq _ _ | .nlstat _ | .spawn _ _ | .take _ _ | .watch _ _ _
  | .unwatch _ => true
  | _ => false

/-- Commands of the neighbour-list engine. -/
def CmdOp.isNl : CmdOp → Bool
  | .nlbin _ | .nlpos _ | .nlreq _ _ | .nlstat _ => true
  | _ => false

/-- What a command of the task and watch logic acts on: a queue or a watch entry. -/
def CmdOp.taskKey : CmdOp → Option Nat
  | .spawn _ q | .take q _ => some q
  | .watch _ w _ => some (512 + wEntry w)
  | .unwatch e => some (512 + e)
  | _ => none

/-- The engine that TINFO names for a fault of the command (R293). -/
def CmdOp.engine : CmdOp → Nat
  | .gpush .. => 3
  | .sacc .. | .sfop .. => 4
  | .nlbin _ | .nlpos _ | .nlreq _ _ | .nlstat _ => 5
  | .spawn _ _ | .take _ _ => 10
  | .watch _ _ _ | .unwatch _ => 9
  | .lksend .. | .lkrecv .. | .lkred .. => 2
  | _ => 1

/-! ## Addresses (R152, R154, R155) -/

/-- The accesses of a gather, an accumulation or an atomic operation: address and bytes, in element order. -/
def CmdOp.accesses : CmdOp → List (Nat × Nat)
  | .gpush idx base z _ =>
    let x := idx.toNat
    (List.range (if z = 3 then 64 else 128)).filterMap (fun e =>
      let i := elem x 4 e
      if i = 0xFFFFFFFF then none else some (base.toNat + i * 2 ^ z, 2 ^ z))
  | .sacc idx _ base t _ =>
    let x := idx.toNat
    (List.range (512 / saSize t)).filterMap (fun e =>
      let i := elem x 4 e
      if i = 0xFFFFFFFF then none else some (base.toNat + i * saSize t, saSize t))
  | .sfop a _ _ wide _ _ => [(a.toNat, if wide then 8 else 4)]
  | _ => []

/-- The command's operands lie in the device virtual space. -/
def CmdOp.virt : CmdOp → Bool
  | .gpush _ _ _ v | .sacc _ _ _ _ v | .sfop _ _ _ _ v _ => v
  | _ => false

def CmdOp.writes : CmdOp → Bool
  | .sacc .. | .sfop .. => true
  | _ => false

/-- An atomic operation that PCIe carries (R350). -/
def CmdOp.hostOk : CmdOp → Bool
  | .gpush .. => true
  | .sfop _ _ _ _ _ op => op == .add || op == .swap || op == .cas
  | _ => false

/-- The places of one access. An update that host memory does not offer is an access violation (R350). -/
def State.accessPieces (s : State) (hw : Nat) (c : Cmd) (a n : Nat) : Except TrFault (List Piece) :=
  match s.spanPieces (clusterOf hw) c.op.engine c.asid c.op.writes (!c.op.virt) a n with
  | .error e => .error e
  | .ok ps =>
    if ps.any (fun p => decide (p.pl.sp = 1)) && !c.op.hostOk then .error (.major (va56 a) 8 15) else .ok ps

/-- All places of a request, every page translated before any part performs (R157). -/
def State.requestPieces (s : State) (hw : Nat) (c : Cmd) : List (Nat × Nat) → Except TrFault (List (List Piece))
  | [] => .ok []
  | x :: r =>
    match s.accessPieces hw c x.1 x.2 with
    | .error e => .error e
    | .ok ps =>
      match State.requestPieces s hw c r with
      | .error e => .error e
      | .ok l => .ok (ps :: l)

/-- A request that begins now meets an invalid or stale grid (R163); one that a save has interrupted goes on with the bins. -/
def Nl.answers (g : Nl) (c : Cmd) : Bool := !c.started && (g.stale || !g.valid)

/-- What keeps an NLREQ from testing: the pages of the arrays that it reads. -/
def State.nlreqFault (s : State) (cl : Nat) (c : Cmd) : Option TrFault :=
  let g := (s.cluster cl).nl
  if g.answers c then none else firstFault (s.nlArrays cl c.asid g.desc g.ovf false)

/-- A request has begun: every page is translated, and parts of it may have performed (R157). -/
def Cmd.begun (c : Cmd) : Bool := c.started && !c.places.isEmpty

/-- An SFOP whose old value is in the data queue while its update is yet to perform. -/
def Cmd.handed (c : Cmd) : Bool :=
  match c.op with
  | .sfop .. => decide (c.pos = 1)
  | _ => false

/-- The fault that keeps a Q command from performing; once it has begun, only that of an overflow list that has grown beyond the pages
translated. -/
def State.qFault (s : State) (hw : Nat) (c : Cmd) : Option TrFault :=
  let cl := clusterOf hw
  if c.begun then
    match c.op with
    | .nlbin _ => s.nlMoreFault cl c.asid c.places
    | _ => none
  else match c.op with
  | .nlbin a => s.nlbinFault cl c.asid a
  | .nlpos v => s.nlposFault cl c.asid v
  | .nlreq _ _ => s.nlreqFault cl c
  | .nlstat a =>
    match spadPieces cl a 32 with
    | .ok _ => none
    | .error e => some e
  | _ =>
    match s.requestPieces hw c c.op.accesses with
    | .ok _ => none
    | .error e => some e

/-! ## Order (R148, R156, R166) -/

/-- Data-queue entries that a request still has to fill, none while an NLREQ still tests. -/
def Cmd.toFill (c : Cmd) : Option Nat :=
  match c.op with
  | .nlreq _ _ => if c.performed then some (if c.aux.length = 65 then 2 else 1) else none
  | _ => if c.handed then some 0 else some 1

/-- Entries reserved by requests issued before request `id`, none where one of them has entries yet to reserve. -/
def Ctx.entriesBefore (c : Ctx) (id : Nat) : Option Nat :=
  ((c.eng.addrQ.map (fun x => x.1)).takeWhile (fun i => decide (i ≠ id))).foldl (fun acc i =>
    match acc with
    | none => none
    | some n =>
      match (c.eng.work ++ c.eng.qG).find? (fun x => decide (x.id = i)) with
      | none => some n
      | some x => x.toFill.map (fun k => n + k)) (some 0)

/-- The request holds a data-queue entry. -/
def Ctx.reserved (c : Ctx) (id : Nat) : Bool :=
  match c.entriesBefore id with
  | none => false
  | some n => decide (c.eng.dataQ.length + n < 16)

/-- A request that waits for an entry (R148). -/
def Ctx.awaitsEntry (c : Ctx) (x : Cmd) : Bool :=
  match x.op with
  | .gpush .. => !c.reserved x.id
  | .sfop .. => !x.handed && !c.reserved x.id
  | .nlreq _ _ => decide (x.aux.length = 65) || (decide (x.aux.length < 64) && !c.reserved x.id)
  | _ => false

/-- Translations that all answer, as one list of places. -/
def allPieces : List (Except TrFault (List Piece)) → Option (List Piece)
  | [] => some []
  | .error _ :: _ => none
  | .ok p :: r => (allPieces r).map (fun q => p ++ q)

/-- The bytes that a command other than NLBIN and NLREQ touches, none where they are not known. -/
def State.touchesNow (s : State) (hw : Nat) (c : Cmd) : Option (List Piece) :=
  let near (a n : Nat) : Option (List Piece) :=
    match spadPieces (clusterOf hw) a n with
    | .ok ps => some ps
    | .error _ => none
  if c.begun then some c.places.flatten
  else match c.op with
  | .gpush .. | .sacc .. | .sfop .. =>
    match s.requestPieces hw c c.op.accesses with
    | .ok l => some l.flatten
    | .error _ => none
  | .spawn d _ => if recCounter d = noCounter then some [] else near (recCounter d) 8
  | .take _ a => near a 64
  | .nlstat a => near a 32
  | .watch _ _ _ | .unwatch _ => some []
  | .nlpos v =>
    let g := (s.cluster (clusterOf hw)).nl
    allPieces ((nlposList g v).map (fun x =>
      s.nlPieces (clusterOf hw) c.asid true (gridPVirt g.desc) (gridP g.desc + 16 * x.1) 12))
  | _ => none

/-- Two commands may touch one byte. -/
def mayMeet : Option (List Piece) → Option (List Piece) → Bool
  | some a, some b => piecesMeet a b
  | some [], none => false
  | none, some [] => false
  | _, _ => true

/-- The Q commands taken before a command and not performed; an NLREQ whose last test has found a 65th pair is not over while it
waits for the entry of that pair (R148). -/
def Ctx.qBefore (c : Ctx) (id : Nat) : List Cmd :=
  ((c.eng.work.filter (fun x => x.op.isQ)).takeWhile (fun x => decide (x.id ≠ id))).filter (fun x => !x.performed ||
    match x.op with
    | .nlreq _ _ => c.awaitsEntry x
    | _ => false)

/-- The descriptor that an NLBIN has read or will read: its bytes as they are, none where a command before it may change them. -/
def State.nlbinDesc (s : State) (hw : Nat) (c : Cmd) (a : Nat) : Option Nat :=
  match (s.cluster (clusterOf hw)).nljob.filter (fun j => j.isOf hw c.id), spadPieces (clusterOf hw) a 64 with
  | some x, _ => some x.desc
  | none, .error _ => none
  | none, .ok ps =>
    if ((s.ctx hw).qBefore c.id).any (fun b => match b.op with
        | .nlbin _ | .nlreq _ _ => false
        | _ => mayMeet (s.touchesNow hw b) (some ps)) then none
    else some (ofBytes (s.readPieces ps))

/-- The bytes that a command touches, none where they are not known. An NLREQ that has not begun reads the arrays of the NLBIN
that its context has before it, else those of the grid as it is. -/
def State.touches (s : State) (hw : Nat) (c : Cmd) : Option (List Piece) :=
  let cl := clusterOf hw
  let arrays (d n : Nat) : List (Except TrFault (List Piece)) :=
    if gridErr d ≠ 0 then [] else s.nlArrays cl c.asid d n false
  match c.op with
  | .nlbin a =>
    match s.nlbinDesc hw c a with
    | none => none
    | some d => allPieces (spadPieces cl (if c.begun then 0 else a) (if c.begun then 0 else 64) :: arrays d 65536)
  | .nlreq _ _ =>
    if c.begun then some c.places.flatten
    else
      match (((s.ctx hw).qBefore c.id).filterMap (fun b => match b.op with
          | .nlbin a => some (s.nlbinDesc hw b a)
          | _ => none)).getLast? with
      | some none => none
      | some (some d) => allPieces (arrays d 65536)
      | none =>
        let g := (s.cluster cl).nl
        if g.answers c then some [] else allPieces (arrays g.desc g.ovf)
  | _ => s.touchesNow hw c

/-- A command that holds later Q commands of its context back whatever they touch: one that a major fault has stopped (R157), a
request that waits for an entry (R148), a push that waits for room. -/
def State.holdsBack (s : State) (hw : Nat) (b : Cmd) : Bool :=
  b.held || (s.ctx hw).awaitsEntry b ||
    match b.op with
    | .spawn _ q => (s.waitsOn (clusterOf hw) q).any (fun w => decide (w.hw = hw) && decide (w.cmd = b.id))
    | _ => false

/-- A taken Q command may perform now: it has begun, or nothing before it holds it back and order is kept with what may touch its
bytes and with its own unit (log 60). -/
def State.qMay (s : State) (hw : Nat) (c : Cmd) : Bool :=
  let before := (s.ctx hw).qBefore c.id
  let mine := s.touches hw c
  !c.held && !c.performed && (c.begun || !before.any (fun b => s.holdsBack hw b) &&
    !before.any (fun b => (b.op.isNl && c.op.isNl) || (b.op.taskKey.isSome && decide (b.op.taskKey = c.op.taskKey)) || mayMeet (s.touches hw b) mine))

/-! ## Performing -/

/-- Element `e` of an SACC's values. -/
def saVal (t : SaTy) (v e : Nat) : Nat := elem v (saSize t) e

/-- The sum of two values of an SACC type (R154). -/
def saAdd (t : SaTy) (a b : Nat) : Nat :=
  match t with
  | .w => (a + b) % 2 ^ 32
  | .d => (a + b) % 2 ^ 64
  | .f => (f32.addV 0 0 (f32.decode a) (f32.decode b)).bits

/-- The updates of an SACC: for each window in order, each distinct address with its merged value. -/
def saUpdates (idx val : VReg) (base : Word) (t : SaTy) (virt : Bool) : List (Nat × Nat) :=
  let x := idx.toNat
  let v := val.toNat
  let n := saSize t
  let addr (e : Nat) : Nat := let a := base.toNat + elem x 4 e * n; if virt then va56 a else a
  (List.range (512 / n / 32)).flatMap (fun g =>
    let es := ((List.range 32).map (fun k => 32 * g + k)).filter (fun e => decide (elem x 4 e ≠ 0xFFFFFFFF))
    ((es.map addr).dedup).map (fun a =>
      match es.filter (fun e => decide (addr e = a)) with
      | [] => (a, 0)
      | e :: r => (a, r.foldl (fun u e => saAdd t u (saVal t v e)) (saVal t v e))))

/-- The new value of an SFOP (R155) on `bits`-bit operands. -/
def sfNew (op : SfOp) (bits old x y : Nat) : Nat :=
  match op with
  | .add => (old + x) % 2 ^ bits
  | .swap => x
  | .cas => if old = x then y else old
  | .max => if signed bits old < signed bits x then x else old
  | .min => if signed bits x < signed bits old then x else old
  | .and => Nat.land old x
  | .or => Nat.lor old x

/-- An indivisible update of the `n` bytes at their places. -/
def State.update (s : State) (hw : Nat) (c : Cmd) (ps : List Piece) (n : Nat) (f : Nat → Nat) : State :=
  ((s.writePieces ps (toBytes (f (ofBytes (s.readPieces ps))) n) c.gen).chargePieces hw ps).sentHost hw ps

/-- Remember the walks of a request (R68). -/
def State.rememberReq (s : State) (hw : Nat) (c : Cmd) : State :=
  if c.op.virt then
    c.op.accesses.foldl (fun s x => s.rememberAll (some hw) (clusterOf hw) c.op.engine c.asid (pageFuel x.2) x.1 x.2) s
  else s

/-! ## Requests in parts (R152, R154, R157) -/

/-- The elements of a gather that read memory, in order. -/
def gatherElems (idx : VReg) (z : Nat) : List Nat :=
  (List.range (if z = 3 then 64 else 128)).filter (fun e => decide (elem idx.toNat 4 e ≠ 0xFFFFFFFF))

/-- The parts of a request: the accesses of a gather or an SFOP, the updates of an SACC. -/
def CmdOp.parts : CmdOp → List (Nat × Nat)
  | .sacc idx val base t virt => (saUpdates idx val base t virt).map (fun u => (u.1, saSize t))
  | op => op.accesses

/-- A request begins: every page is translated, and its parts have their places from then on. A gather starts from zeros. -/
def State.reqBegin (s : State) (hw : Nat) (c : Cmd) : State :=
  (s.rememberReq hw c).modCmd hw c.id (fun x => { x with
    started := true
    aux := []
    res := match c.op with
      | .gpush .. => some 0
      | _ => none
    places := match s.requestPieces hw c c.op.parts with
      | .ok l => l
      | .error _ => [] })

/-- Part `k` of a request that has begun performs: a gather reads its `k`-th element, an SACC makes its `k`-th update. -/
def State.reqPart (s : State) (hw : Nat) (c : Cmd) (k : Nat) : State :=
  let ps := c.places.getD k []
  match c.op with
  | .gpush idx _ z _ =>
    let at_ := 2 ^ z * 8 * (gatherElems idx z).getD k 0
    let v : VReg := BitVec.ofNat 4096 (ofBytes (s.readPieces ps) * 2 ^ at_)
    s.modCmd hw c.id (fun x => { x with aux := k :: x.aux, res := x.res.map (fun r => r ||| v) })
  | .sacc idx val base t virt =>
    match (saUpdates idx val base t virt)[k]? with
    | some u =>
      (s.update hw c ps (saSize t) (fun old => saAdd t old u.2)).modCmd hw c.id (fun x => { x with aux := k :: x.aux })
    | none => s
  | _ => s

/-- Part `k` may perform: it has not, and every earlier part at a byte of its own has where the request writes. -/
def Cmd.partMay (c : Cmd) (k : Nat) : Bool :=
  decide (k < c.op.parts.length) && !c.aux.contains k &&
    (!c.op.writes || (List.range k).all (fun j =>
      c.aux.contains j || !piecesMeet (c.places.getD j []) (c.places.getD k [])))

/-- Those of the given parts that may perform do so, in the order given. -/
def State.reqParts (s : State) (hw id : Nat) : List Nat → State
  | [] => s
  | k :: r =>
    let s1 := match s.cmdOfId hw id with
      | some c => if c.partMay k then s.reqPart hw c k else s
      | none => s
    State.reqParts s1 hw id r

/-- A request all of whose parts have performed: a gather's image waits to enter the data queue, an SACC completes. -/
def State.reqEnd (s : State) (hw id : Nat) : State :=
  match s.cmdOfId hw id with
  | none => s
  | some c =>
    if (List.range c.op.parts.length).all (fun k => c.aux.contains k) then
      match c.op with
      | .gpush .. => (s.modCmd hw id (fun x => { x with performed := true })).chargePieces hw c.places.flatten
      | .sacc .. => s.cmdDone hw id
      | _ => s
    else s

/-- Parts of a gather or an SACC perform, the request beginning with the first of them. -/
def State.reqRun (s : State) (hw : Nat) (c : Cmd) (ks : List Nat) : State :=
  let s1 := if c.begun then s else s.reqBegin hw c
  (s1.reqParts hw c.id ks).reqEnd hw c.id

/-- An SFOP reads its old value (R155); its update is to follow before any other write of the word. -/
def State.sfopRead (s : State) (hw : Nat) (c : Cmd) : State :=
  let s1 := s.reqBegin hw c
  match s1.cmdOfId hw c.id with
  | some d => s1.modCmd hw c.id (fun x => { x with res := some (BitVec.ofNat 4096 (ofBytes (s1.readPieces d.places.flatten))) })
  | none => s1

/-- An SFOP performs its update. Its old value waits to enter the data queue, or has entered it, and the command is over. -/
def State.sfopWrite (s : State) (hw : Nat) (c : Cmd) : State :=
  match c.op with
  | .sfop _ x y wide _ op =>
    let n := if wide then 8 else 4
    let s1 := s.update hw c c.places.flatten n (fun old =>
      sfNew op (8 * n) old (x.toNat % 2 ^ (8 * n)) (y.toNat % 2 ^ (8 * n)))
    if c.handed then s1.cmdDone hw c.id else s1.modCmd hw c.id (fun x => { x with performed := true })
  | _ => s

/-- An SFOP performs whole. -/
def State.sfopRun (s : State) (hw : Nat) (c : Cmd) : State :=
  let s1 := if c.begun then s else s.sfopRead hw c
  match s1.cmdOfId hw c.id with
  | some d => s1.sfopWrite hw d
  | none => s1

/-! ## NLBIN, NLPOS and NLSTAT (R161, R162, R165, R166) -/

/-- The command has begun with these places and this job. -/
def State.jobBegin (s : State) (hw : Nat) (c : Cmd) (places : List (List Piece)) (j : NlJob) : State :=
  (s.setJob (clusterOf hw) (some j)).modCmd hw c.id (fun x => { x with started := true, places := places })

/-- The job of a command whose parts are writes alone, one to each of its places. -/
def writesJob (hw id : Nat) (ws : List (List Byte)) : NlJob :=
  ⟨hw, id, 0, 0, 0, [], Binning.none_, (List.zip (List.range ws.length) ws).map (fun x => (x.1, x.1, 0, x.2)), false⟩

/-- NLBIN begins: its descriptor is read; an invalid one ends it (R159). -/
def State.nlbinBegin (s : State) (hw : Nat) (c : Cmd) (a : Nat) : State :=
  let cl := clusterOf hw
  let d := ofBytes (s.readPieces (okPieces (spadPieces cl a 64)))
  let g := (s.cluster cl).nl
  if gridErr d ≠ 0 then (s.setNl cl { g with valid := false, stale := true, err := gridErr d }).cmdDone hw c.id
  else
    let n := (s.binAll (okPieces (s.nlPieces cl c.asid false (gridPVirt d) (gridP d) (16 * gridN d))) d).extra.length
    let ps := (s.nlArrays cl c.asid d n true).map okPieces
    let x := ps.getD 0 []
    let b := ps.getD 1 []
    let o := ps.getD 2 []
    let s1 := ((s.rememberNl hw cl c.asid (gridPVirt d) (gridP d) (16 * gridN d)).rememberNl hw cl c.asid (gridBVirt d) (gridB d)
      (129 * gridSize d)).rememberNl hw cl c.asid (gridBVirt d) (gridO d) (8 * n)
    s1.jobBegin hw c ps ⟨hw, c.id, d, gridN d, 0, [], Binning.none_, [], piecesMeet x (b ++ o) || piecesMeet b o⟩

/-- NLPOS begins; one that writes no position ends (R162). -/
def State.nlposBegin (s : State) (hw : Nat) (c : Cmd) (v : VReg) : State :=
  let cl := clusterOf hw
  let g := (s.cluster cl).nl
  let l := nlposList g v
  if l.isEmpty then s.cmdDone hw c.id
  else
    let at_ (x : Nat × List Byte) : Nat := gridP g.desc + 16 * x.1
    let s1 := l.foldl (fun s x => s.rememberNl hw cl c.asid (gridPVirt g.desc) (at_ x) 12) s
    s1.jobBegin hw c (l.map (fun x => okPieces (s.nlPieces cl c.asid true (gridPVirt g.desc) (at_ x) 12)))
      (writesJob hw c.id (l.map (fun x => x.2)))

/-- NLSTAT begins: the record, in aligned units of 16 bytes (R165, R226). -/
def State.nlstatBegin (s : State) (hw : Nat) (c : Cmd) (a : Nat) : State :=
  let r := (s.cluster (clusterOf hw)).nl.record
  s.jobBegin hw c [okPieces (spadPieces (clusterOf hw) a 16), okPieces (spadPieces (clusterOf hw) (a + 16) 16)]
    (writesJob hw c.id [r.take 16, r.drop 16])

/-- A fence of the neighbour-list engine begins (R166): no request runs, and no other fence. -/
def State.fenceBegin (s : State) (hw : Nat) (c : Cmd) : State :=
  let k := s.cluster (clusterOf hw)
  if !(k.nlq.isEmpty && k.nljob.isNone) then s
  else
    match c.op with
    | .nlbin a => s.nlbinBegin hw c a
    | .nlpos v => s.nlposBegin hw c v
    | .nlstat a => s.nlstatBegin hw c a
    | _ => s

/-- The overflow list of an NLBIN takes as many pages as it has turned out to need. -/
def State.nlMore (s : State) (hw : Nat) (c : Cmd) (j : NlJob) : State :=
  let n := 8 * j.bin.extra.length
  if n ≤ piecesLen (c.places.getD 2 []) ∨ j.reads = 0 then s
  else
    match s.nlPieces (clusterOf hw) c.asid true (gridBVirt j.desc) (gridO j.desc) n with
    | .error _ => s
    | .ok o => (s.rememberNl hw (clusterOf hw) c.asid (gridBVirt j.desc) (gridO j.desc) n).modCmd hw c.id (fun x =>
        { x with places := x.places.take 2 ++ [o] })

/-- A fence all of whose parts have performed completes: NLBIN's grid stands, NLPOS makes the grid stale. -/
def State.fenceEnd (s : State) (hw : Nat) (c : Cmd) (j : NlJob) : State :=
  let cl := clusterOf hw
  let g := (s.cluster cl).nl
  let s1 := match c.op with
    | .nlbin _ => s.setNl cl (j.grid g.epoch)
    | .nlpos _ => s.setNl cl { g with stale := true }
    | _ => s
  let runs := if j.reads = 0 then c.places else j.runs c.places
  ((runs.foldl (fun s ps => s.chargePieces hw ps) s1).setJob cl none).cmdDone hw c.id

/-- Parts of a fence that has begun perform, in the order given, and with the last of them it completes. -/
def State.fenceParts (s : State) (hw : Nat) (c : Cmd) (ks : List Nat) : State :=
  let cl := clusterOf hw
  let s1 := ks.foldl (fun s k => s.nlPart cl c.places k) s
  match (s1.cluster cl).nljob with
  | some j1 => if j1.over then s1.fenceEnd hw c j1 else s1.nlMore hw c j1
  | none => s1

/-- A fence goes on with the parts that `ks` names, beginning with the first of them. -/
def State.fenceRun (s : State) (hw : Nat) (c : Cmd) (ks : NlJob → List Nat) : State :=
  let s1 := if c.begun then s else s.fenceBegin hw c
  match s1.cmdOfId hw c.id, (s1.cluster (clusterOf hw)).nljob with
  | some d, some j => if j.isOf hw c.id then s1.fenceParts hw d (ks j) else s1
  | _, _ => s1

/-- A Q command performs, or all that is left of it. -/
def State.qDo (s : State) (hw : Nat) (c : Cmd) : State :=
  match c.op with
  | .gpush .. | .sacc .. => s.reqRun hw c (List.range c.op.parts.length)
  | .sfop .. => s.sfopRun hw c
  | .nlbin _ | .nlpos _ | .nlstat _ => s.fenceRun hw c (fun j => List.range j.total)
  | .spawn d q => s.doSpawn hw c d q
  | .take q a => s.doTake hw c q a
  | .watch base w t => s.doWatch hw c base w t
  | .unwatch e => s.doUnwatch hw c e
  | _ => s

/-- A command that a fault stops. An NLBIN is to be performed again from its start. -/
def Cmd.stop (c : Cmd) : Cmd :=
  match c.op with
  | .nlbin _ => { c with held := true, started := false, places := [] }
  | _ => { c with held := true }

/-- A major fault stops a command (R157). -/
def State.cmdStop (s : State) (hw id : Nat) (a : Async) : State :=
  if (s.ctx hw).run.st = .inactive then s.dropCmd hw id
  else
    ((s.modCmd hw id Cmd.stop).modCl (clusterOf hw) (fun k => { k with
      nljob := k.nljob.filter (fun j => !j.isOf hw id) })).raise hw a

def State.cmdFault (s : State) (hw : Nat) (c : Cmd) (va code level : Nat) : State :=
  (s.chargeFailed hw c.asid va level).cmdStop hw c.id ⟨code, BitVec.ofNat 64 va, 0, c.op.engine, level, 15, true, false⟩

/-- A Q command makes the given move, stops on a major fault, or waits. -/
def State.qMove (s : State) (hw : Nat) (c : Cmd) (go : State → State) : State :=
  let entry := match c.op with
    | .gpush .. | .sfop .. => c.begun || (s.ctx hw).reserved c.id
    | .nlreq _ _ => false
    | _ => true
  if !(s.qMay hw c && entry) then s
  else
    match s.qFault hw c with
    | none => go s
    | some (.refill _ _ _) => s
    | some (.major va code level) => s.cmdFault hw c va code level

/-- A Q command performs, or what is left of it. -/
def State.qAct (s : State) (hw : Nat) (c : Cmd) : State := s.qMove hw c (fun s => s.qDo hw c)

/-- The event that performs parts `first` to `first + n - 1` of a gather, an SACC or a command in parts of the neighbour-list engine:
parts of one command, and commands that touch different bytes, are not ordered (R243). -/
def State.elementsAct (s : State) (hw id first n : Nat) : State :=
  match s.cmdOfId hw id with
  | none => s
  | some c =>
    match c.op with
    | .gpush .. | .sacc .. =>
      s.qMove hw c (fun s => s.reqRun hw c ((List.range n).map (fun k => first + k)))
    | .nlbin _ | .nlpos _ | .nlstat _ =>
      s.qMove hw c (fun s => s.fenceRun hw c (fun _ => (List.range n).map (fun k => first + k)))
    | _ => s

/-- The SFOPs whose old value has been read and whose update is yet to perform. -/
def State.earlies (s : State) : List (Nat × Cmd) :=
  s.ctxs.flatMap (fun x => (x.2.eng.work.filter (fun c => match c.op with
    | .sfop .. => c.begun && !c.performed
    | _ => false)).map (fun c => (x.1, c)))

/-- The event by which the old value of an SFOP is read for its entry ahead of the update (R243); no other SFOP may then stand between
the two of one at the same bytes, so that each is indivisible (R155, R156). -/
def State.earlyAct (s : State) (hw id : Nat) : State :=
  match s.cmdOfId hw id with
  | none => s
  | some c =>
    match c.op with
    | .sfop .. =>
      if c.begun || s.earlies.any (fun x => mayMeet (some x.2.places.flatten) (s.touchesNow hw c)) then s
      else s.qMove hw c (fun s => s.sfopRead hw c)
    | _ => s

/-! ## NLREQ (R148, R163) -/

/-- The place of an NLREQ in its enumeration: home cell, block and test. -/
def nlPos (cell block test : Nat) : Nat := cell * 2 ^ 64 + block * 2 ^ 56 + test

/-- An NLREQ begins: an invalid or stale grid answers it at once, else its arrays are translated (R157) and its enumeration starts
at its first home cell, or goes on where a save has left it (R158). -/
def State.nlStart (s : State) (hw : Nat) (c : Cmd) (first : Nat) : State :=
  let cl := clusterOf hw
  let g := (s.cluster cl).nl
  let s1 := if c.started then s else s.modCl cl (fun k => { k with nlq := k.nlq ++ [(hw, c.id)] })
  let pl := (s.nlArrays cl c.asid g.desc g.ovf false).map okPieces
  if g.answers c then
    (s1.setNl cl { g with staleN := min (g.staleN + 1) 0xFFFFFFFF }).modCmd hw c.id (fun x =>
      { x with started := true, performed := true, res := some (if g.valid then 1 else 3) })
  else s1.modCmd hw c.id (fun x => { x with
    started := true
    pos := if c.started then c.pos else nlPos first 0 0
    places := pl })

/-- Tests until the entry is full and one more pair is found. `res` says whether the request holds an entry. Answers the
tests made and the pairs kept. -/
def State.runTests (s : State) (pl : List (List Piece)) (g : Nl) (res : Bool) : List PairTest → List Nat → Nat × List Nat
  | [], aux => (0, aux)
  | t :: r, aux =>
    if aux.length = 65 ∨ (aux.length < 64 ∧ !res) then (0, aux)
    else
      let aux1 := match s.pairTest pl g t with
        | some p => aux ++ [pairCode p]
        | none => aux
      let q := State.runTests s pl g res r aux1
      (q.1 + 1, q.2)

/-- What tests within a home cell come to: the block and the test that are next, the pairs kept, and the runs of bytes read. -/
structure NlWalk where
  block : Nat
  test : Nat
  aux : List Nat
  runs : List Piece

/-- Up to `n` tests of home cell `cell`, block by block: what another agent changes in one cell moves no test of other cells (R160). -/
def State.runBlocks (s : State) (pl : List (List Piece)) (g : Nl) (res : Bool) (cell : Nat) : Nat → Nat → NlWalk → NlWalk
  | 0, _, w => w
  | f + 1, n, w =>
    let all := s.blockTests pl g cell w.block
    let now := (all.drop w.test).take n
    let r := s.runTests pl g res now w.aux
    let lists := if w.test = 0 then
        match blockCell g.desc cell w.block with
        | some (m, _) => g.cellRuns pl m
        | none => []
      else []
    let runs := w.runs ++ lists ++ (now.take r.1).flatMap (testRuns pl)
    if all.length ≤ w.test + r.1 then State.runBlocks s pl g res cell f (n - r.1) ⟨w.block + 1, 0, r.2, runs⟩
    else ⟨w.block, w.test + r.1, r.2, runs⟩

/-- Up to `n` pair tests of an NLREQ within its present home cell. -/
def State.nlStep (s : State) (hw : Nat) (c : Cmd) (first count n : Nat) : State :=
  let cl := clusterOf hw
  let g := (s.cluster cl).nl
  let cell := c.pos / 2 ^ 64
  let stop := min (first + count) (gridSize g.desc)
  if c.performed ∨ c.aux.length = 65 then s
  else if stop ≤ cell then s.modCmd hw c.id (fun x => { x with performed := true })
  else
    let block := c.pos / 2 ^ 56 % 2 ^ 8
    let w := s.runBlocks c.places g ((s.ctx hw).reserved c.id) cell (14 - block) n ⟨block, c.pos % 2 ^ 56, c.aux, []⟩
    let ended := decide (14 ≤ w.block)
    let s1 := (s.setNl cl { g with pairs := (g.pairs + (w.aux.length - c.aux.length)) % 2 ^ 64 }).chargePieces hw w.runs
    s1.modCmd hw c.id (fun x => { x with
      aux := w.aux
      pos := if ended then nlPos (cell + 1) 0 0 else nlPos cell w.block w.test
      performed := ended && decide (stop ≤ cell + 1) })

/-- The event that makes pair tests. -/
def State.nlAct (s : State) (hw id n : Nat) : State :=
  match s.cmdOfId hw id with
  | none => s
  | some c =>
    match c.op with
    | .nlreq first count =>
      if !s.qMay hw c then s
      else
        match s.qFault hw c with
        | some (.refill _ _ _) => s
        | some (.major va code level) => s.cmdFault hw c va code level
        | none =>
          if c.begun then s.nlStep hw c first.toNat count.toNat n
          else if (s.cluster (clusterOf hw)).nljob.isSome then s
          else if c.started || (s.ctx hw).reserved id then
            let s1 := s.nlStart hw c first.toNat
            match s1.cmdOfId hw id with
            | some c1 => if c1.performed then s1 else s1.nlStep hw c1 first.toNat count.toNat n
            | none => s1
          else s
    | _ => s

/-! ## Data-queue entries (R147, R148, R164) -/

/-- An entry of request `id` enters the data queue; that of a context that has ended is discarded with its request (log 24). A
checkpoint taken since the request keeps it too (log 29). -/
def Ctx.enter (c : Ctx) (id : Nat) (e : DEntry) : Ctx :=
  if c.run.st = .inactive then
    (if e.last then { c with eng := { c.eng with addrQ := c.eng.addrQ.tail } } else c)
  else { c with
    eng := { c.eng with dataQ := c.eng.dataQ ++ [e] }
    ckpt := c.ckpt.map (fun q => if id < q.recId then { q with dataQ := q.dataQ ++ [e] } else q) }

/-- The marks of an NLREQ's entry: a stale answer carries them in `res`. -/
def Cmd.stale (c : Cmd) : Bool := c.res.isSome
def Cmd.err (c : Cmd) : Bool := decide (c.res = some 3)

/-- The next entry in request order enters the data queue; with its last entry a request completes. -/
def State.dataArrive (s : State) (hw : Nat) : State :=
  let x := s.ctx hw
  if 16 ≤ x.eng.dataQ.length then s
  else
    match (x.eng.addrQ.map (fun a => a.1)).findSome? (fun i =>
        (x.eng.work ++ x.eng.qG).find? (fun c => decide (c.id = i) && !c.handed)) with
    | none => s
    | some c =>
      match c.op with
      | .nlreq _ _ =>
        if c.aux.length = 65 then
          (s.modCtx hw (fun x => x.enter c.id ⟨true, pairEntry (c.aux.take 64), 64, false, false, false⟩)).modCmd hw c.id
            (fun y => { y with aux := y.aux.drop 64 })
        else if c.performed then
          let e : DEntry := ⟨true, pairEntry c.aux, c.aux.length, true, c.stale, c.err⟩
          ((s.modCtx hw (fun x => x.enter c.id e)).modCl (clusterOf hw) (fun k =>
            { k with nlq := k.nlq.filter (fun q => !(decide (q.1 = hw) && decide (q.2 = c.id))) })).cmdDone hw c.id
        else s
      | op =>
        let s1 := s.modCtx hw (fun x => x.enter c.id ⟨false, c.res.getD 0, 0, true, false, false⟩)
        if c.performed then s1.cmdDone hw c.id
        else
          match op, c.res with
          | .sfop .., some _ => s1.modCmd hw c.id (fun y => { y with pos := 1 })
          | _, _ => s

/-! ## Values read ahead of their updates -/

/-- A step that would change a word whose old value an SFOP has read ahead lets that SFOP perform first: the update stays
indivisible (R156, log 101). -/
def State.indivisible (s : State) (run : State → Out) : Out :=
  match s.earlies with
  | [] => run s
  | l =>
    match run s with
    | .next t =>
      let gone (x : Nat × Cmd) : Bool := match t.cmdOfId x.1 x.2.id with
        | none => true
        | some c => c.performed
      if l.all (fun x => gone x ||
          decide (t.readPieces x.2.places.flatten = s.readPieces x.2.places.flatten)) then .next t
      else run (l.foldl (fun s x => s.sfopWrite x.1 x.2) s)
    | o => o

def execDataQueueEntryArrive (hw : Nat) (s : State) : Out := .next (s.dataArrive hw)

end Sys2Proof.Machine
end

