-- ==== Sys2Proof/Machine/Links.lean ====
section
/-!
DEFINITION. The Sweper links (R81 to R86, R355): transfer windows in link time, sends, receives and reductions, misses.
-/

namespace Sys2Proof.Machine

/-! ## Link time (R81) -/

/-- The present tick of the shared clock: 1.5625 GHz. -/
def State.linkTick (s : State) : Nat := s.mod.time.link * 25 / (16 * 6486480) % 2 ^ 64

/-- Ticks of a transfer of `n` bytes. -/
def flits (n : Nat) : Nat := (n + 127) / 128

/-- The wire size of `n` elements (R85). -/
def wireBytes (f : LkFmt) (n : Nat) : Nat :=
  match f with
  | .f => 4 * n
  | .bf => 2 * n
  | .mx8 => n + n / 32

/-! ## Windows (R83, R84) -/

/-- A window of a command that has not begun. -/
def Window.new (start len hw cmd : Nat) (out : Bool) : Window := ⟨start, len, hw, cmd, false, 0, false, [], out, []⟩

/-- Two windows share a tick. -/
def Window.meets (a b : Window) : Bool := decide (a.start < b.start + b.len) && decide (b.start < a.start + a.len)

/-- A window stands on a direction from now on: a link without windows has worked on every tick before the present one. -/
def State.addWindow (s : State) (l : Nat) (send : Bool) (w : Window) : State :=
  let now := s.linkTick
  s.modLink l (fun k =>
    let k1 := if k.send.isEmpty ∧ k.recv.isEmpty then { k with pos := max k.pos now } else k
    if send then { k1 with send := k1.send ++ [w] } else { k1 with recv := k1.recv ++ [w] })

/-- The link engines take a command: its windows stand on the directions that it uses. -/
def State.linkTake (s : State) (hw : Nat) (c : Cmd) : State :=
  match c.op with
  | .lksend l _ n t => s.addWindow l true (Window.new t (flits n) hw c.id false)
  | .lkrecv l _ n t => s.addWindow l false (Window.new (t + (s.link l).flight) (flits n) hw c.id false)
  | .lkred l _ n t out deliver fi fo =>
    let f := (s.link l).flight
    let s1 := s.addWindow l false (Window.new (t + f) (flits (wireBytes fi n)) hw c.id false)
    if deliver then s1 else s1.addWindow out true (Window.new (t + f + 48) (flits (wireBytes fo n)) hw c.id true)
  | _ => s

/-- A miss: counted in the link's status and an error of the launching queue, where there is one (R83, log 55). -/
def State.linkMiss (s : State) (l : Nat) (hw : Option Nat) (n : Nat) : State :=
  if n = 0 then s
  else
    let s1 := s.modLink l (fun k => { k with miss := min (k.miss + n) 0xFFFFFFFF })
    match hw with
    | some h => iter (fun _ s => s.launchErr h 9 0) 0 n s1
    | none => s1

/-- The context that owns a direction: bit 2l of its map entry the send side, bit 2l + 1 the receive side (R82). -/
def State.linkOwner (s : State) (l : Nat) (send : Bool) : Option Nat :=
  (s.front.launches.flatMap (fun x => x.hws)).find? (fun h => ((s.ctx h).linkChk l send).isNone)

def State.modWindow (s : State) (l : Nat) (send : Bool) (hw id : Nat) (f : Window → Window) : State :=
  let g (w : Window) : Window := if w.hw = hw ∧ w.cmd = id then f w else w
  s.modLink l (fun k => if send then { k with send := k.send.map g } else { k with recv := k.recv.map g })

/-- The output window of an LKRED. -/
def State.outWindow (s : State) (hw id : Nat) : Option (Nat × Window) :=
  (List.range 16).findSome? (fun l =>
    ((s.link l).send.find? (fun w => w.out && decide (w.hw = hw) && decide (w.cmd = id))).map (fun w => (l, w)))

/-- A window's first tick has come by tick `t`: the command misses its slot when the engine received it later, when a
consume token is nonzero, or when its window overlaps an earlier command's (R83, log 55). It waits for tokens no longer (R77). -/
def State.beginWindow (s : State) (l : Nat) (send : Bool) (t : Nat) (w : Window) : State :=
  let dir (s : State) (l : Nat) (send : Bool) : List Window := if send then (s.link l).send else (s.link l).recv
  let clash (l : Nat) (send : Bool) (w : Window) : Bool :=
    ((dir s l send).takeWhile (fun x => !(decide (x.hw = w.hw) && decide (x.cmd = w.cmd)))).any (fun x => x.meets w)
  let outW := s.outWindow w.hw w.cmd
  let clash2 := match outW with
    | some (o, x) => clash o true x
    | none => false
  let tokens := match s.cmdOfId w.hw w.cmd with
    | some c => (s.ctx w.hw).tokensZero c.cons
    | none => true
  let miss := decide (w.start < t) || !tokens || clash l send w || clash2
  let s0 := s.modCmd w.hw w.cmd (fun c => { c with started := true })
  let s1 := s0.modWindow l send w.hw w.cmd (fun x => { x with begun := true, miss := miss })
  let s2 := match outW with
    | some (o, _) => s1.modWindow o true w.hw w.cmd (fun x => { x with begun := true, miss := miss })
    | none => s1
  -- the ticks of a receive's window that have passed without a flit
  let gone := if send then 0
    else ((List.range (min t (w.start + w.len) - w.start)).filter (fun k => !(s.link l).heard.contains (w.start + k))).length
  if miss then s2.linkMiss l (some w.hw) (1 + gone) else s2

/-- Windows of one direction whose first tick has come. -/
def State.beginWindows (s : State) (l : Nat) (send : Bool) (t : Nat) : State :=
  let ws := if send then (s.link l).send else (s.link l).recv
  (ws.filter (fun w => !w.begun && !w.out && decide (w.start ≤ t))).foldl (fun s w => s.beginWindow l send t w) s

/-! ## Flits -/

/-- The operands of a command: cluster address and bytes. -/
def Cmd.linkRange (c : Cmd) : Nat × Nat :=
  match c.op with
  | .lksend _ a n _ => (a, n)
  | .lkrecv _ a n _ => (a, n)
  | _ => (0, 0)

/-- Flit `k` of a range: its address and bytes. -/
def flitAt (a n k : Nat) : Nat × Nat := (a + 128 * k, min 128 (n - 128 * k))

/-- The bytes of a cluster range. -/
def State.nearBytes (s : State) (cl a n : Nat) : List Byte :=
  match spadPieces cl a n with
  | .ok ps => s.readPieces ps
  | .error _ => []

/-- Energy of an access to a cluster range. -/
def State.chargeNear (s : State) (hw a n : Nat) : State :=
  match spadPieces (clusterOf hw) a n with
  | .ok ps => s.chargePieces hw ps
  | .error _ => s

/-- A send reads its flit and puts it on the link; a link that is down loses it (R355). -/
def State.sendFlit (s : State) (l t : Nat) (w : Window) : State :=
  match s.cmdOfId w.hw w.cmd with
  | none => s
  | some c =>
    let r := c.linkRange
    let f := flitAt r.1 r.2 (t - w.start)
    let d := ofBytes (s.nearBytes (clusterOf w.hw) f.1 f.2)
    let s1 := (s.modLink l (fun k => { k with sent := k.sent ++ [(t, f.2, d)] })).modWindow l true w.hw w.cmd (fun x =>
      { x with done := x.done + 1 })
    let s2 := s1.chargeNear w.hw f.1 f.2
    if (s.link l).up then s2 else s2.linkMiss l (some w.hw) 1

/-- The bytes that flit `k` of a transfer of `n` bytes holds; its padding is not among them (R81). -/
def flitLen (n k : Nat) : Nat := min 128 (n - 128 * k)

/-- A good flit with `v` valid bytes reaches its window: a receive writes them, a reduction keeps them. A flit that falls short of
the receiver's length leaves the rest of the destination unchanged and is a miss (R84), and a reduction then has no whole block;
bytes of a flit beyond the receiver's length are not written (log 96). -/
def State.recvFlit (s : State) (l t : Nat) (w : Window) (v d : Nat) : State :=
  match s.cmdOfId w.hw w.cmd with
  | none => s
  | some c =>
    let k := t - w.start
    match c.op with
    | .lkrecv _ a n _ =>
      let f := flitAt a n k
      let got := min v f.2
      match spadPieces (clusterOf w.hw) f.1 got with
      | .ok ps =>
        let r := s.writeQuiet ps (toBytes d got)
        let s1 := (r.1.modWindow l false w.hw w.cmd (fun x =>
          { x with done := x.done + 1, trig := joinTriggers x.trig r.2 })).chargePieces w.hw ps
        if v < f.2 then s1.linkMiss l (some w.hw) 1 else s1
      | .error _ => s
    | .lkred _ _ n _ _ _ fi _ =>
      if v < flitLen (wireBytes fi n) k then s.linkMiss l (some w.hw) 1
      else s.modWindow l false w.hw w.cmd (fun x => { x with done := x.done + 1, data := x.data ++ toBytes d 128 })
    | _ => s

/-- What a receive direction meets in a tick: a flit (none, or its valid bytes, its data and whether it is good). It goes to the window
of the command that has not missed its slot; without a flit every window of the tick counts a miss, and a flit that no receive
waits for is one (R83). -/
def State.recvTick (s : State) (l t : Nat) (flit : Option (Nat × Nat × Bool)) : State :=
  let ws := (s.link l).recv.filter (fun w => w.begun && decide (w.start ≤ t) && decide (t < w.start + w.len))
  match flit with
  | none => ws.foldl (fun s w => s.linkMiss l (some w.hw) 1) s
  | some (v, d, good) =>
    match ws.find? (fun w => !w.miss) with
    | none => s.linkMiss l (s.linkOwner l false) 1
    | some x => if good && (s.link l).up then s.recvFlit l t x v d else s.linkMiss l (some x.hw) 1

/-! ## Reductions (R85) -/

/-- Element `e` of a received block, widened to FP32; -128 under a scale of 254, which no FP32 value equals, rounds to -Inf (log 119). -/
def lkIn (f : LkFmt) (n : Nat) (data : Nat) (e : Nat) : Nat :=
  match f with
  | .f => elem data 4 e
  | .bf => elem data 2 e * 65536
  | .mx8 =>
    let sc := elem data 1 (n + e / 32)
    if sc = 255 then f32.nan
    else
      let q := signed 8 (elem data 1 e)
      (f32.round 0 0 (decide (q < 0)) q.natAbs ((sc : Int) - 127 - 6)).bits

/-- The bytes of a block in the output format. -/
def lkOut (f : LkFmt) (ys : List Nat) : List Byte :=
  match f with
  | .f => ys.flatMap (fun y => toBytes y 4)
  | .bf => ys.flatMap (fun y => toBytes (FFmt.convert f32 bf16 0 0 y).bits 2)
  | .mx8 =>
    let blocks := (List.range (ys.length / 32)).map (fun b => ((ys.drop (32 * b)).take 32).map f32.decode)
    let scs := blocks.map (fun b => (mxScale b).getD 255)
    (List.zipWith (fun b sc => b.map (fun x => if sc = 255 then (0 : Byte) else BitVec.ofNat 8 (mxQuant 8 sc 0 0 x).bits)) blocks
      scs).flatten ++ scs.map (fun sc => BitVec.ofNat 8 sc)

/-- The block that a reduction puts out. -/
def lkReduce (fi fo : LkFmt) (n data local_ : Nat) : List Byte :=
  lkOut fo ((List.range n).map (fun e =>
    (f32.addV 0 0 (f32.decode (lkIn fi n data e)) (f32.decode (elem local_ 4 e))).bits))

/-- The input window of a reduction has ended with every flit received: the result is written or sent. -/
def State.reduce (s0 : State) (hw : Nat) (c : Cmd) (w : Window) : State :=
  match c.op with
  | .lkred _ a n _ out deliver fi fo =>
    let cl := clusterOf hw
    let s := s0.chargeNear hw a (4 * n)
    let bs := lkReduce fi fo n (ofBytes w.data) (ofBytes (s.nearBytes cl a (4 * n)))
    if deliver then
      match spadPieces cl a bs.length with
      | .ok ps => (s.writePieces ps bs c.gen).chargePieces hw ps
      | .error _ => s
    else
      match s.outWindow hw c.id with
      | none => s
      | some (_, x) =>
        let fs := (List.range x.len).map (fun k => (x.start + k, flitLen bs.length k, ofBytes ((bs.drop (128 * k)).take 128)))
        let s1 := (s.modLink out (fun k => { k with sent := k.sent ++ fs })).modWindow out true hw c.id (fun y =>
          { y with done := x.len })
        if (s.link out).up then s1 else s1.linkMiss out (some hw) x.len
  | _ => s0

/-! ## Ends -/

/-- A window leaves its direction. -/
def State.dropWindow (s : State) (l : Nat) (send : Bool) (w : Window) : State :=
  let keep (x : Window) : Bool := !(decide (x.hw = w.hw) && decide (x.cmd = w.cmd))
  s.modLink l (fun k => if send then { k with send := k.send.filter keep } else { k with recv := k.recv.filter keep })

/-- No window of a command is left. -/
def State.noWindow (s : State) (hw id : Nat) : Bool :=
  (List.range 16).all (fun l => ((s.link l).send ++ (s.link l).recv).all (fun w => !(decide (w.hw = hw) && decide (w.cmd = id))))

/-- A window whose last tick was before tick `t` ends; with its last window the command completes (R83). -/
def State.endWindow (s : State) (l : Nat) (send : Bool) (w : Window) : State :=
  match s.cmdOfId w.hw w.cmd with
  | none => s.dropWindow l send w
  | some c =>
    let good := !w.miss && decide (w.done = w.len)
    let s1 := match c.op, send with
      | .lkred .., false => if good then s.reduce w.hw c w else s
      | _, _ => s
    let s2 := (s1.dropWindow l send w).fireAll w.trig c.gen
    if s2.noWindow w.hw w.cmd then s2.cmdDone w.hw w.cmd else s2

/-- The input window of an LKRED still stands: its output window ends no earlier (R85, log 54). -/
def State.inputOpen (s : State) (w : Window) : Bool :=
  w.out && (List.range 16).any (fun l => (s.link l).recv.any (fun x => decide (x.hw = w.hw) && decide (x.cmd = w.cmd)))

def State.endWindows (s : State) (l : Nat) (send : Bool) (t : Nat) : State :=
  let ws := if send then (s.link l).send else (s.link l).recv
  (ws.filter (fun w => w.begun && decide (w.start + w.len ≤ t) && !s.inputOpen w)).foldl (fun s w => s.endWindow l send w) s

/-! ## A tick of a link -/

/-- A link works on its next tick, with the flit that arrives in it, if one does. -/
def State.linkStep (s : State) (l : Nat) (flit : Option (Nat × Nat × Bool)) : State :=
  let t := (s.link l).pos
  let s1 := (s.beginWindows l false t).beginWindows l true t
  let s2 := s1.recvTick l t flit
  let sends := (s2.link l).send.filter (fun w => w.begun && !w.miss && !w.out && decide (w.start ≤ t) && decide (t < w.start + w.len))
  let s3 := sends.foldl (fun s w => s.sendFlit l t w) s2
  let s4 := ((s3.endWindows l false (t + 1)).endWindows l true (t + 1))
  s4.modLink l (fun k => { k with
    pos := t + 1
    due := k.due.filter (fun f => decide (t < f.1))
    heard := if flit.isSome then t :: k.heard else k.heard })

/-- The flit that is to arrive in a link's next tick. -/
def Link.dueNow (k : Link) : Option (Nat × Nat × Bool) := (k.due.find? (fun f => decide (f.1 = k.pos))).map (fun f => f.2)

/-- A link works on the ticks up to (not including) tick `t`. One without windows, to which no flit is to come, passes them at once. -/
def State.linkIdle (s : State) (l t : Nat) : State :=
  let k := s.link l
  if t ≤ k.pos then s
  else if k.send.isEmpty ∧ k.recv.isEmpty ∧ k.due.isEmpty then s.modLink l (fun k => { k with pos := t })
  else iter (fun _ s => s.linkStep l (s.link l).dueNow) 0 (t - k.pos) s

/-- A flit arrives in tick `t`: one tick carries one flit of a direction (R81). In the present tick it arrives at once; for a tick to
come it stands ready, since several ticks can pass in one real cycle. -/
def State.flitArrive (s : State) (l t v d : Nat) (bad : Bool) : State :=
  if t < (s.link l).pos then s
  else if s.linkTick < t then
    if (s.link l).due.any (fun f => decide (f.1 = t)) then s
    else s.modLink l (fun k => { k with due := k.due ++ [(t, v, d, !bad)] })
  else (s.linkIdle l t).linkStep l (some (v, d, !bad))

def execLinkFlitReceive (l t : Nat) (f : FlitData) (bad : Bool) (s : State) : Out := .next (s.flitArrive l t f.len f.bits bad)

/-- The windows of a direction whose first tick has come begin. Once the engine has worked on the present tick, the next windows begin
in the next one (R83). -/
def execLinkWindowStart (l : Nat) (send : Bool) (s : State) : Out :=
  .next (if (s.link l).pos ≤ s.linkTick then s.beginWindows l send (s.link l).pos else s)

/-! ## LKTIME (R86) -/

/-- An LKTIME that its timer has started completes when link time has reached its tick. -/
def State.lktime (s : State) (hw id : Nat) : State :=
  match s.cmdOfId hw id with
  | none => s
  | some c =>
    match c.op with
    | .lktime t => if c.started && decide (t ≤ s.linkTick) then s.cmdDone hw id else s
    | _ => s

def execLktimeReached (hw id : Nat) (s : State) : Out := .next (s.lktime hw id)

end Sys2Proof.Machine
end

