-- ==== Sys2Proof/Machine/Engines.lean ====
section
/-!
DEFINITION. The events of the engines (R71 to R80, R148 to R157, R210): a target takes a command, a command moves on, an
elementary copy is emitted, a request fails. And the requests that wait for a translation (R67, R299, R302).
-/

namespace Sys2Proof.Machine

/-! ## Targets (R210) -/

/-- The targets of a command: slots 0 to 95, link directions from 100, the link timer, the invalidation unit, the Q path. -/
def CmdOp.targets : CmdOp → List Nat
  | .cplvl n _ _ _ _ | .cpbase n _ _ _ _ _ | .cpgo n | .cpstrm n | .cpstrmOff n | .cpcan n | .cpstat n _ => [n]
  | .lksend l _ _ _ => [100 + 2 * l]
  | .lkrecv l _ _ _ => [101 + 2 * l]
  | .lkred l _ _ _ out deliver _ _ => if deliver then [101 + 2 * l] else [101 + 2 * l, 100 + 2 * out]
  | .lktime _ => [200]
  | .tlbinv .. => [201]
  | _ => [300]

/-- Two commands have a target in common. -/
def sameTarget (a b : CmdOp) : Bool := a.targets.any (fun t => b.targets.contains t)

/-- A command of a link: its engine receives it when it takes it, and its window stands from then on (R83). -/
def CmdOp.isLink : CmdOp → Bool
  | .lksend .. | .lkrecv .. | .lkred .. => true
  | _ => false

/-- A command of the C gusset may be taken: first for its targets, none of them waits for tokens, and a CPGO finds no
other waiting in its slot (R71, R77). -/
def State.mayTakeC (s : State) (hw : Nat) (c : Cmd) : Bool :=
  let e := (s.ctx hw).eng
  !((e.cG.takeWhile (fun x => decide (x.id ≠ c.id))).any (fun x => sameTarget x.op c.op)) &&
    !(e.work.any (fun x => !x.op.isQ && !x.started && sameTarget x.op c.op)) &&
    (match c.op with
      | .cpgo n => (s.slot (clusterOf hw) n).wait.isNone
      | _ => true)

/-! ## Starting C commands -/

/-- The effect of a C command whose consume tokens read zero. -/
def State.startC (s : State) (hw : Nat) (c : Cmd) : State :=
  let cl := clusterOf hw
  let s1 := s.modCmd hw c.id (fun x => { x with started := true })
  match c.op with
  | .cplvl n l cnt ss ds => (s1.modSlot cl n (fun q => q.level l cnt ss ds)).cmdDone hw c.id
  | .cpbase n src dst sv dv len => (s1.modSlot cl n (fun q => q.base src dst sv dv len)).cmdDone hw c.id
  | .cpgo n => (s1.startWaiting cl n).settleSlot cl n 3
  | .cpstrm n => (s1.bindStream hw cl n).cmdDone hw c.id
  | .cpstrmOff n =>
    let q := s1.slot cl n
    if q.strm && q.act.isSome then s1.modSlot cl n (fun q => { q with unbind := true })
    else if q.strm then (s1.unbindSlot cl n).cmdDone hw c.id
    else s1.cmdDone hw c.id
  | .cpcan n => s1.cancel hw cl n c.id
  | .cpstat n a => s1.cpstat hw cl n a c
  | .lktime _ => s1.lktime hw c.id
  | .tlbinv mode wide asid start len => s1.tlbDrop hw c mode wide asid start len
  | _ => s1

/-- A target takes a command out of the C gusset; a CPGO copies the pending settings of its slot (R71). -/
def State.takeC (s : State) (hw : Nat) (c : Cmd) : State :=
  let cl := clusterOf hw
  let s1 := s.modCtx hw (fun x => { x with eng := { x.eng with
    cG := x.eng.cG.filter (fun y => decide (y.id ≠ c.id))
    work := x.eng.work ++ [c] } })
  let s2 := match c.op with
    | .cpgo n => s1.modSlot cl n (fun q => { q with wait := some (q.pend, c.id) })
    | _ => s1
  let ready := (s2.ctx hw).tokensZero c.cons
  let c1 := match c.op with
    | .cpstat n _ => { c with aux := [ofBytes (s2.slotRecord cl n (!ready))] }
    | _ => c
  let s3 := s2.modCmd hw c.id (fun _ => c1)
  let s4 := if c.op.isLink then s3.linkTake hw c else s3
  if ready then s4.startC hw c1 else s4

/-- The Q path takes the oldest command of the Q gusset (R210). -/
def State.takeQ (s : State) (hw : Nat) (c : Cmd) : State :=
  s.modCtx hw (fun x => { x with eng := { x.eng with
    qG := x.eng.qG.filter (fun y => decide (y.id ≠ c.id))
    work := x.eng.work ++ [c] } })

/-- ENGINE_TAKES_COMMAND. -/
def State.takeCmd (s : State) (hw id : Nat) : State :=
  if s.saving hw then s
  else match (s.ctx hw).eng.cG.find? (fun c => decide (c.id = id)) with
  | some c => if s.mayTakeC hw c then s.takeC hw c else s
  | none =>
    match (s.ctx hw).eng.qG with
    | c :: _ => if c.id = id then s.takeQ hw c else s
    | [] => s

def execEngineTakesCommand (hw id : Nat) (s : State) : Out := .next (s.takeCmd hw id)

/-! ## Requests that need a translation -/

/-- The bytes of a save image but for its bias images (R305). -/
def imageBytes : Nat := 0x90000

/-- A piece of engine work that translates: a command, a sequencer slot, the preload, the images, the slot that an
MRESUME reads, a segment copy, a save image to write or to read. -/
inductive Req where
  | cmd (id : Nat)
  | slot (n : Nat)
  | preload
  | image
  | resume
  | seg (k : Nat)
  | save
  | restore
  | eret
  deriving DecidableEq, Repr

/-- A request that a refill leaf stops: what it is, its engine code, ASID, address, direction, level, entry. -/
structure Stopped where
  req : Req
  eng : Nat
  asid : Nat
  va : Nat
  write : Bool
  level : Nat
  entry : Nat
  deriving DecidableEq, Repr

/-- The direction of an access that a translation names: a write where the page permits no read could not fail so; the
request's own direction. -/
def CmdOp.dir : CmdOp → Bool
  | .sacc .. | .sfop .. | .nlpos _ | .nlbin _ => true
  | _ => false

def refillOf (r : Req) (eng asid : Nat) (write : Bool) (e : Option TrFault) : List Stopped :=
  match e with
  | some (.refill va l en) => [⟨r, eng, asid, va, write, l, en⟩]
  | _ => []

/-- The context is in trap mode, its bundle holds ERET, and nothing but the slots that the return reads holds it back. -/
def State.eretWaits (s : State) (hw : Nat) : Bool :=
  let c := s.ctx hw
  c.run.trap && decide (c.run.st = .ready) && c.pend.val.isEmpty && c.pend.flg.isEmpty && !c.slotEsc &&
    (match s.bundleAt hw c.frame.pos with
    | .ok b =>
      match SMap.get? b.syls 0 with
      | some (w, x) =>
        match decodeSyllable .b w x with
        | .ok .eret => true
        | _ => false
      | none => false
    | _ => false)

/-- The requests of a context that a refill leaf stops now. -/
def State.stopped (s : State) (hw : Nat) : List Stopped :=
  let c := s.ctx hw
  let cl := clusterOf hw
  let core := s.core (coreOf hw)
  let asid := c.ctl.asid.toNat
  let errOf (x : Except TrFault (List Piece)) : Option TrFault := match x with
    | .error e => some e
    | .ok _ => none
  (c.eng.work.filter (fun x => x.op.isQ && s.qMay hw x)).flatMap (fun x =>
      refillOf (.cmd x.id) x.op.engine x.asid x.op.dir (s.qFault hw x)) ++
  ((s.cluster cl).slots.filter (fun x => decide (x.2.owner = hw) && x.2.canEmit && !s.saving hw)).flatMap (fun x =>
      match x.2.act with
      | none => []
      | some (nest, cmd) =>
        let asid := s.nestAsid x.2 cmd
        match s.spanPieces cl (engCopy x.1) asid false nest.sspad (nestAddr nest.src nest.ss x.2.idx) nest.len with
        | .error e => refillOf (.slot x.1) 1 asid false (some e)
        | .ok _ =>
          if x.2.strm then []
          else refillOf (.slot x.1) 1 asid true
            (errOf (s.spanPieces cl (engCopy x.1) asid true nest.dspad (nestAddr nest.dst nest.ds x.2.idx) nest.len))) ++
  (match c.run.stage, c.run.curRec with
    | .preload k, some d => refillOf .preload 8 asid false (errOf (s.translate cl 8 asid false 2 (recPsrc d + 64 * k) 64))
    | _, _ => []) ++
  (match c.run.stage with
    | .save _ =>
      refillOf .save 0 asid true (errOf (s.translate cl engImage asid true (pageFuel imageBytes) c.ctl.seambase.toNat imageBytes))
    | .got d =>
      if recKind d = 2 then
        match s.translate cl engImage asid false (pageFuel imageBytes) (recA2 d) imageBytes with
        | .error e => refillOf .restore 0 asid false (some e)
        | .ok ps =>
          if fld (ofBytes (s.readPieces (slicePieces ps 4 4))) 0 2 = 2 then
            refillOf .restore 0 asid false
              (errOf (s.translate cl engImage asid false (pageFuel (2 * slotBytes)) (recA2 d + imageBytes) (2 * slotBytes)))
          else []
      else []
    | _ => []) ++
  (if s.eretWaits hw then
    match s.eretPlan hw with
    | .walk e => refillOf .eret 0 asid false (some e)
    | _ => []
  else []) ++
  (match s.imageJob hw with
    | some j => if j.why = 0 then [] else refillOf .image 0 asid true (errOf (s.translate cl engImage asid true 2 j.va 64))
    | none => []) ++
  (match s.resumeOf hw with
    | some r =>
      if r.st = 0 ∧ !r.held then
        refillOf .resume 0 asid false (errOf (s.translate cl engImage asid false 2 (r.addr + BitVec.ofNat 64 (64 * r.next)).toNat 64))
      else []
    | none => []) ++
  ((List.zip (List.range core.segs.length) core.segs).filter (fun x => x.2.mapped && x.2.inflight && decide (x.2.by_ = some hw))).flatMap
    (fun x => refillOf (.seg x.1) 7 x.2.asid false
      (errOf (s.translate cl engSeg x.2.asid false (pageFuel (4096 * x.2.npages)) (x.2.src.toNat / 64 * 64) (4096 * x.2.npages))))

/-- A request ends in a major fault that the lining has made of it (R302): as its own major fault, with TCAUSE.esc. -/
def State.failReq (s : State) (hw : Nat) (q : Stopped) (code : Nat) : State :=
  let cl := clusterOf hw
  let a (eng detail slot : Nat) : Async := ⟨code, BitVec.ofNat 64 q.va, detail, eng, q.level, slot, true, true⟩
  match q.req with
  | .cmd id =>
    s.cmdStop hw id (a q.eng 0 15)
  | .slot n =>
    s.slotFault cl n ⟨code, q.va, q.level, true⟩
  | .preload => s.raise hw (a 8 0 15)
  | .image =>
    match s.imageJob hw with
    | some j =>
      if j.why = 2 then s.saveFail hw code q.va 0 q.level
      else (s.modJob j (fun x => { x with held := true })).raise hw (a 0 0 6)
    | none => s
  | .save => s.saveFail hw code q.va 0 q.level
  | .restore =>
    (s.modCtx hw (fun c => { c with run := { c.run with st := .ready, stage := .none } })).raise hw (a 0 0 15)
  | .eret => s.raise hw (a 0 0 0)
  | .resume =>
    match s.resumeOf hw with
    | some r => (s.setResume { r with held := true }).raise hw (a 0 0 6)
    | none => s
  | .seg k =>
    (s.modCore (coreOf hw) (fun c => { c with segs :=
      match c.segs[k]? with
      | some g => c.segs.set k { g with mapped := false, inflight := false }
      | none => c.segs })).raise hw (a 7 0 15)

/-! ## Moving on -/

/-- A command moves on: a C command starts or ends its wait, a Q command performs. -/
def State.cmdAct (s : State) (hw id : Nat) : State :=
  match s.cmdOfId hw id with
  | none => s
  | some c =>
    if c.op.isQ then s.qAct hw c
    else if c.held then s
    else if !c.started then (if (s.ctx hw).tokensZero c.cons && !(s.rolling hw && c.op.onSlot) then s.startC hw c else s)
    else
      match c.op with
      | .cpstat n a => s.cpstat hw (clusterOf hw) n a c
      | .tlbinv .. => if c.performed && s.tlbQuiet c then s.cmdDone hw id else s
      | _ => s.lktime hw id

end Sys2Proof.Machine
end

