-- ==== Sys2Proof/Machine/Sct.lean ====
section
/-!
DEFINITION. The stream context table (R104 to R108): pins, touches, evictions, expiry, and their copies line by line.
-/

namespace Sys2Proof.Machine

def Sct.free : Sct := ⟨0, 0, 0, 0, 0, 0, 0, 0, false, 0, 0, [], []⟩
def State.sctOf (s : State) (cl e : Nat) : Sct := SMap.getD (s.cluster cl).sct e Sct.free
def State.setSct (s : State) (cl e : Nat) (x : Sct) : State := s.modCl cl (fun c => { c with sct := SMap.put c.sct e x })

/-- The four words of an entry as the host reads them (R104). -/
def Sct.word (x : Sct) : Nat → Nat
  | 0 => x.sid * 2 ^ 32 + x.st * 2 ^ 29 + x.asid
  | 1 => x.home.toNat
  | 2 => x.len * 2 ^ 32 + x.region
  | _ => x.timeout * 2 ^ 32 + x.remain

/-- The entry that holds a stream. -/
def Cluster.sctFind (c : Cluster) (sid : Nat) : Option (Nat × Sct) :=
  c.sct.find? (fun x => decide (x.2.st ≠ 0) && decide (x.2.sid = sid))

/-- The entry that a pin of a new stream takes: the lowest free one, else the lowest evicted one (R108). -/
def Cluster.sctRoom (c : Cluster) : Option Nat :=
  match (List.range 4096).find? (fun e => decide ((SMap.getD c.sct e Sct.free).st = 0)) with
  | some e => some e
  | none => (c.sct.find? (fun x => decide (x.2.st = 3))).map (fun x => x.1)

/-- A region overlaps one that is pinned, evicting or failed. -/
def Cluster.sctOverlap (c : Cluster) (region len : Nat) : Bool :=
  c.sct.any (fun x => (decide (x.2.st = 1) || decide (x.2.st = 2) || decide (x.2.st = 4)) &&
    decide (x.2.region < region + len) && decide (region < x.2.region + x.2.len))

/-- What a STREAM packet comes to: done, waiting, or a queue error STREAM. -/
inductive SctRes where
  | done (s : State)
  | wait (s : State)
  | err
  deriving DecidableEq, Repr

/-- The fields of a STREAM packet (R275). -/
structure SctReq where
  sid : Nat
  home : Nat
  region : Nat
  len : Nat
  timeout : Nat
  load : Bool
  asid : Nat
  queue : Nat
  pkt : Nat
  deriving DecidableEq, Repr

/-- A pin writes an entry afresh; a home is an address modulo 2^56 (R63, R104). So does one that returns to an
entry with its sid (R108, log 120). -/
def State.pinFresh (s : State) (cl e : Nat) (r : SctReq) : SctRes :=
  let x : Sct := ⟨r.sid, 1, r.asid, BitVec.ofNat 64 (r.home % 2 ^ 56), r.len, r.region, r.timeout, r.timeout, r.load, 0, r.queue,
    [], if r.load then [(r.queue, r.pkt)] else []⟩
  if r.load then .wait (s.setSct cl e x) else .done (s.setSct cl e x)

/-- STREAM pin (R105, R108). -/
def State.sctPin (s : State) (cl : Nat) (r : SctReq) : SctRes :=
  let c := s.cluster cl
  if r.len % 64 ≠ 0 ∨ r.len < 64 ∨ 65536 < r.len ∨ r.region % 64 ≠ 0 ∨ r.home % 64 ≠ 0 ∨ 0xC000000 < r.region + r.len then .err
  else
    match c.sctFind r.sid with
    | some (e, x) =>
      match x.st with
      | 1 => .done (s.setSct cl e { x with remain := x.timeout })
      | 2 => .wait (s.setSct cl e { x with req := x.req ++ [(r.queue, r.pkt)] })
      | 4 => .done (s.setSct cl e { x with st := 1, remain := x.timeout })
      | _ => if c.sctOverlap r.region r.len then .err else s.pinFresh cl e r
    | none =>
      match c.sctRoom with
      | none => .err
      | some e => if c.sctOverlap r.region r.len then .err else s.pinFresh cl e r

/-- STREAM touch (R105, R108). -/
def State.sctTouch (s : State) (cl sid : Nat) : SctRes :=
  match (s.cluster cl).sctFind sid with
  | none => .err
  | some (e, x) =>
    match x.st with
    | 3 => .err
    | 4 => .done (s.setSct cl e { x with st := 1, remain := x.timeout })
    | _ => .done (s.setSct cl e { x with remain := x.timeout })

/-- An entry goes to state 2 and joins the evictions in order (R106). A pin load in progress goes on to its end first, and the
region is then copied home from its first line (log 99). -/
def State.sctStart (s : State) (cl e : Nat) (x : Sct) : State :=
  (s.setSct cl e { x with st := 2, moved := if x.load then x.moved else 0 }).modCl cl (fun c => { c with evq := c.evq ++ [e] })

/-- STREAM evict (R106, R108). -/
def State.sctEvict (s : State) (cl sid : Nat) (r : Nat × Nat) : SctRes :=
  match (s.cluster cl).sctFind sid with
  | none => .err
  | some (e, x) =>
    match x.st with
    | 3 => .done s
    | 2 => .wait (s.setSct cl e { x with req := x.req ++ [r] })
    | _ => .wait (s.sctStart cl e { x with req := x.req ++ [r] })

/-- An entry whose time is over expires. -/
def State.sctExpire (s : State) (cl e : Nat) : State :=
  let x := s.sctOf cl e
  if x.st = 1 ∧ x.timeout ≠ 0 ∧ x.remain = 0 then s.sctStart cl e x else s

def execSctExpiry (cl e : Nat) (s : State) : Out := .next (s.sctExpire cl e)

/-- Microseconds of module time (R354). -/
def Time.micros (t : Time) : Nat := t.now / (6486480 * 1000)

/-- A microsecond passes for a cluster: timers count down and entries expire in ascending order (R105, R106). -/
def State.sctTick (s : State) (cl : Nat) : State :=
  let s1 := s.modCl cl (fun c => { c with sct := c.sct.map (fun x =>
    if x.2.st = 1 then (x.1, { x.2 with remain := x.2.remain - 1 }) else x) })
  ((s1.cluster cl).sct.map (fun x => x.1)).foldl (fun s e => s.sctExpire cl e) s1

/-- Module time passes from one moment to another: each microsecond of it counts (R105, R354), a step forward too. -/
def State.sctPass (s : State) (t0 t1 : Time) : State :=
  iter (fun _ s => s.clusters.foldl (fun s c => s.sctTick c.1) s) 0 (min (t1.micros - t0.micros) 65536) s

/-- Evictions and pin loads use copy engine 5's TLB. -/
def engSct : Nat := 25

/-- The places of line `k` of an entry's home. -/
def State.homeLine (s : State) (cl : Nat) (x : Sct) (k : Nat) (write : Bool) : Except TrFault (List Piece) :=
  s.translate cl engSct x.asid write 2 (x.home.toNat + 64 * k) 64

/-- The access to line `k` of a home: its walk stays in the TLB, and its HBM traffic is charged to the core of the region (R346, R347). -/
def State.homeWalked (s : State) (cl : Nat) (x : Sct) (k core : Nat) (ps : List Piece) : State :=
  let va := va56 (x.home.toNat + 64 * k)
  (s.chargeCore core 12 (s.tlbReads cl engSct x.asid va + hbmUnits ps)).rememberAll none cl engSct x.asid 2 va 64

/-- The head of the evictions, whose load is over. -/
def State.evicting (s : State) (cl : Nat) : Option (Nat × Sct) :=
  match (s.cluster cl).evq with
  | [] => none
  | e :: _ => let x := s.sctOf cl e; if x.load then none else some (e, x)

/-- One line of an eviction or a pin load; a home that does not translate stops it there. -/
def State.sctLine (s : State) (cl e : Nat) : State :=
  let x := s.sctOf cl e
  let here := cl * 0xC000000 + x.region + 64 * x.moved
  let spad : List Piece := [⟨⟨2, cl * 2 ^ 28 + x.region + 64 * x.moved, none⟩, 64⟩]
  let walked (ps : List Piece) : State := s.homeWalked cl x x.moved (here / 0x400000) ps
  if x.len ≤ 64 * x.moved then s
  else if x.load then
    match s.homeLine cl x x.moved false with
    | .ok ps =>
      let bs := s.readPieces ps
      (((walked ps).spadWrite (List.zipWith (fun k b => (here + k, b)) (List.range 64) bs) none).chargeCore (here / 0x400000) 10 1).setSct cl e { x with moved := x.moved + 1 }
    | .error _ => s
  else
    match s.evicting cl with
    | some (h, _) =>
      if h = e then
        match s.homeLine cl x x.moved true with
        | .ok ps => (((walked ps).writeMute ps (s.readPieces spad)).chargeCore (here / 0x400000) 10 1).setSct cl e { x with moved := x.moved + 1 }
        | .error _ => s
      else s
    | none => s

def State.sctLines (s : State) (cl e : Nat) : Nat → State
  | 0 => s
  | n + 1 => State.sctLines (s.sctLine cl e) cl e n

end Sys2Proof.Machine
end

