-- ==== Sys2Proof/Machine/Packets.lean ====
section
/-!
DEFINITION. Command queues (R269 to R280, R285, R286): reading packets with read-ahead, the order in which packets begin and
complete, the packet types but for LAUNCH, and the host's writes to a queue's tail and control.
-/

namespace Sys2Proof.Machine

/-! ## Fields of a packet (R274, R275) -/

def Pkt.word (p : Pkt) (k : Nat) : Nat := fld p.w (64 * k) 64
def Pkt.type (p : Pkt) : Nat := fld p.w 0 8
def Pkt.wp (p : Pkt) : Bool := decide (fld p.w 8 1 = 1)
def Pkt.ev (p : Pkt) : Bool := decide (fld p.w 9 1 = 1)
def Pkt.field (p : Pkt) (lo n : Nat) : Nat := fld p.w lo n

/-- A run of `n` ones from bit `lo`. -/
def ones (lo n : Nat) : Nat := (2 ^ n - 1) * 2 ^ lo
def full : Nat := ones 0 64

/-- The bits that a type names, word by word (R275). -/
def typeMask : Nat → List Nat
  | 0 => [0]
  | 1 => [0, full, full, full]
  | 2 => [ones 16 9, full, full]
  | 3 => [ones 16 3 + ones 20 2, full, full]
  | 4 => [ones 16 2, full, full, full, full]
  | 5 => [ones 16 2 + ones 24 8, full, full, full]
  | 6 => [ones 16 16, ones 0 32]
  | 7 => [0, full, full]
  | 8 => [0]
  | 9 => [0, full]
  | 10 => [ones 16 3 + ones 24 3, ones 0 32, full, ones 0 28, ones 0 17, ones 0 16]
  | _ => [0, full]

/-- A reserved bit is set. -/
def Pkt.reservedSet (p : Pkt) : Bool :=
  (List.range 8).any (fun k =>
    let m := (typeMask p.type).getD k 0 + (if k = 0 then ones 0 10 else 0)
    decide (Nat.land (p.word k) m ≠ p.word k))

/-- A field is out of range or misaligned, or a selector names nothing. -/
def Pkt.badField (p : Pkt) : Bool :=
  match p.type with
  | 2 => decide (p.word 1 % 64 ≠ 0) || decide (p.word 2 = 0) || decide (65536 < p.word 2)
  | 3 => decide (4 < p.field 16 3) || decide (p.word 1 % 8 ≠ 0)
  | 4 => decide (p.word 1 % 8 ≠ 0)
  | 5 => decide (p.field 24 8 = 0)
  | 6 => decide (p.field 16 16 = 0) || decide (4096 < p.field 16 16)
  | 7 => decide (p.word 1 % 64 ≠ 0) || decide (p.word 2 = 0) || decide (2 ^ 20 < p.word 2)
  | 10 => decide (p.field 16 2 = 3)
  | _ => false

/-- A LOOP in a body or past its buffer's end, an INDIR at depth 2 (R277). -/
def Pkt.nest (p : Pkt) : Bool :=
  match p.type with
  | 6 => p.inLoop || (match p.room with
    | some n => decide (n < p.field 16 16)
    | none => false)
  | 7 => decide (2 ≤ p.depth)
  | _ => false

/-- The queue error that a packet's own bytes make: XLAT, BADTYPE, RSVD, BADFIELD, NEST. -/
def Pkt.err (p : Pkt) : Option Nat :=
  if p.bad then some 4 else if 11 < p.type then some 1 else if p.reservedSet then some 2 else if p.badField then some 3
  else if p.nest then some 6 else none

/-! ## Addresses of the command processors -/

/-- `n` bytes at a device virtual address under an ASID: walked by hardware, no cluster's TLB. -/
def State.procPieces (s : State) (asid : Nat) (write : Bool) (va n : Nat) : Option (List Piece) :=
  match s.translate 8 0 asid write (pageFuel n) va n with
  | .ok ps => some ps
  | .error _ => none
def State.procRead (s : State) (asid va n : Nat) : Option Nat := (s.procPieces asid false va n).map (fun ps => ofBytes (s.readPieces ps))

/-! ## Reading packets (R273, R277) -/

/-- The next position of a level: a loop's end goes back to its start while iterations are left. -/
def Level.step (l : Level) : Level :=
  match l.loop with
  | some (f, b, left) =>
    if l.idx + 1 = f + b then (if 1 < left then { l with idx := f, loop := some (f, b, left - 1) } else { l with idx := l.idx + 1, loop := none })
    else { l with idx := l.idx + 1 }
  | none => { l with idx := l.idx + 1 }

/-- Past an INDIR into its buffer: the loop of whose last packet it is lasts until the buffer has been read. -/
def Level.stepIn (l : Level) : Level := if l.step.loop.isNone then { l with idx := l.idx + 1 } else l.step

/-- Back from a buffer, a loop whose last packet opened it is over. -/
def Level.settle (l : Level) : Level :=
  match l.loop with
  | some (f, b, _) => if l.idx = f + b then { l with loop := none } else l
  | none => l

/-- Buffers that have been read to their end are left. -/
def popLevels : List Level → List Level
  | [] => []
  | l :: r =>
    let m := l.settle
    if !m.ring && decide (m.cnt ≤ m.idx) && m.loop.isNone then popLevels r else m :: r

/-- Past the next packet without entering what it opens. -/
def stepOver : List Level → List Level
  | [] => []
  | l :: r => popLevels (l.step :: r)

/-- Past a packet just read: a sound LOOP or INDIR opens its body or its buffer; a LOOP of count 0 opens none (R277). -/
def enterPkt (p : Pkt) : List Level → List Level
  | [] => []
  | l :: r =>
    let l1 := l.step
    if p.err.isSome then popLevels (l1 :: r)
    else
      match p.type with
      | 6 =>
        let b := p.field 16 16
        let n := p.word 1
        if n = 0 then popLevels (l1 :: r)
        else { l1 with loop := some (l1.idx, b, n), lpar := p.id } :: r
      | 7 => ⟨false, BitVec.ofNat 64 (p.word 1), 0, p.word 2, none, 0, p.id⟩ :: l.stepIn :: r
      | _ => popLevels (l1 :: r)

/-- QBASE's fields (R270). -/
def Queue.size (q : Queue) : Nat := 2 ^ fld q.qbase.toNat 1 5
def Queue.base (q : Queue) : Nat := fld q.qbase.toNat 6 58 * 64
def Queue.host (q : Queue) : Bool := decide (fld q.qbase.toNat 0 1 = 1)

/-- The level of the ring at packet `n`. -/
def Queue.ringAt (q : Queue) (n : Nat) : List Level := [⟨true, BitVec.ofNat 64 q.base, n, 0, none, 0, 0⟩]

/-- The ring's next packet, as QHEAD has it: a body that is to be read again holds it back (R273). -/
def headOf (lv : List Level) : Nat :=
  match lv.getLast? with
  | none => 0
  | some l =>
    match l.loop with
    | some (f, _, left) => if 1 < left then f else l.idx
    | none => l.idx

/-- The ring packet that a position belongs to. -/
def ringNum (lv : List Level) : Nat :=
  match lv with
  | [] => 0
  | [l] => l.idx
  | _ => match lv.getLast? with
    | some l => l.idx - 1
    | none => 0

/-- Read the next packet of a queue in execution order, if there is one (R273). -/
def State.readPkt (s : State) (n : Nat) : State :=
  let q := s.queue n
  match q.lv with
  | [] => s
  | l :: r =>
    if l.ring ∧ q.tail ≤ l.idx then s
    else
      let at_ := l.buf.toNat + 64 * (if l.ring then l.idx % q.size else l.idx)
      let bytes := if l.ring && q.host then some (s.mem.host.readN at_ 64) else s.procRead q.asid at_ 64
      let (id, s1) := s.fresh
      let par := (l :: r).flatMap (fun x => (if x.loop.isSome then [x.lpar] else []) ++ (if x.ring then [] else [x.ipar]))
      let p : Pkt := ⟨id, bytes.getD 0, ringNum q.lv, r.length, par, l.loop.isSome,
        if l.ring then none else some (l.cnt - l.idx - 1), bytes.isNone, []⟩
      let lv := enterPkt p q.lv
      s1.modQueue n (fun q => { q with lv := lv, ahead := q.ahead ++ [{ p with next := lv }] })

/-- Read ahead, at most 16 packets beyond the one that begins (R278, log 38). -/
def State.readAhead (s : State) (n : Nat) : Nat → State
  | 0 => s
  | k + 1 => if (s.queue n).ahead.length < 16 then State.readAhead (s.readPkt n) n k else s

/-! ## Completing (R275, R276) -/

/-- A LOOP or INDIR still holds packets to read, to begin or to complete. -/
def Queue.open_ (q : Queue) (id : Nat) : Bool :=
  q.lv.any (fun l => (l.loop.isSome && decide (l.lpar = id)) || (!l.ring && decide (l.ipar = id))) ||
    q.ahead.any (fun p => p.par.contains id) || q.begun.any (fun b => b.pkt.par.contains id)

/-- A queue comes to rest: nothing has begun, and a stop or a pending enable takes effect (R271). -/
def Queue.rest (q : Queue) : Queue :=
  if !q.begun.isEmpty then q
  else
    let q1 := if q.stopping then { q with stopping := false, head := headOf q.here } else q
    if q1.enPend && !q1.stopping then
      { q1 with en := true, enPend := false, lv := q1.ringAt q1.head, here := q1.ringAt q1.head, ahead := [] }
    else q1

/-- The event record of a completed packet (R280). -/
def State.postDone (s : State) (n : Nat) (p : Pkt) (detail : Nat) : State :=
  if p.ev then s.postEvent 1 n detail p.num 0 else s

/-- Close the LOOPs and INDIRs whose last packet has completed. -/
def State.closeAll (s : State) (n : Nat) : Nat → State
  | 0 => s
  | fuel + 1 =>
    let q := s.queue n
    match q.begun.find? (fun b => (decide (b.pkt.type = 6) || decide (b.pkt.type = 7)) && !q.open_ b.pkt.id) with
    | none => s
    | some b =>
      let s1 := s.modQueue n (fun q => { q with begun := q.begun.filter (fun x => decide (x.pkt.id ≠ b.pkt.id)) })
      State.closeAll (s1.postDone n b.pkt 0) n fuel

def State.tidy (s : State) (n : Nat) : State :=
  (s.closeAll n ((s.queue n).begun.length + 1)).modQueue n Queue.rest

/-- A packet that had begun completes. -/
def State.pktDone (s : State) (n id detail : Nat) : State :=
  match (s.queue n).begun.find? (fun b => decide (b.pkt.id = id)) with
  | none => s
  | some b =>
    let s1 := s.modQueue n (fun q => { q with begun := q.begun.filter (fun x => decide (x.pkt.id ≠ id)) })
    (s1.postDone n b.pkt detail).tidy n

/-- A packet that had begun ends with a queue error. -/
def State.pktFail (s : State) (n id code : Nat) : State :=
  match (s.queue n).begun.find? (fun b => decide (b.pkt.id = id)) with
  | none => s
  | some b =>
    let s1 := s.modQueue n (fun q => { q with begun := q.begun.filter (fun x => decide (x.pkt.id ≠ id)) })
    (s1.queueErr n code b.pkt.num 0).tidy n

/-! ## Beginning (R276) -/

/-- An AT that has begun and whose time has not come holds every later packet (R285). -/
def Queue.heldByAt (q : Queue) : Bool := q.begun.any (fun b => decide (b.pkt.type = 9) && decide (b.prog = 0))

/-- A packet's predecessors allow it to begin. -/
def Queue.mayBegin (q : Queue) (p : Pkt) : Bool :=
  let others := q.begun.filter (fun b => !p.par.contains b.pkt.id && !decide (b.pkt.type = 9))
  let afterAll := p.wp || decide (p.type = 3) || decide (p.type = 8) || decide (p.type = 9)
  (q.en || (q.stopping && (!p.par.isEmpty || q.begun.any (fun b => decide (b.pkt.type = 9))))) && !q.heldByAt &&
    (!afterAll || others.isEmpty) && !(decide (p.type = 2) && q.begun.any (fun b => decide (b.pkt.type = 2)))

/-- The next packet is taken; an AT that has held it completes (R285). -/
def State.popPkt (s : State) (n : Nat) (p : Pkt) : State :=
  let s1 := s.modQueue n (fun q =>
    let q1 := { q with ahead := q.ahead.tail, here := p.next, prep := none }
    { q1 with head := headOf p.next })
  match (s1.queue n).begun.find? (fun b => decide (b.pkt.type = 9)) with
  | some b =>
    (s1.modQueue n (fun q => { q with begun := q.begun.filter (fun x => decide (x.pkt.id ≠ b.pkt.id)) })).postDone n b.pkt
      (if b.prog = 2 then 0xFFFF else 0)
  | none => s1

/-- The next packet, read now if it has not been. -/
def State.nextPkt (s : State) (n : Nat) : State := if (s.queue n).ahead.isEmpty then s.readPkt n else s

/-- Packets that a PRED or an erring LOOP skips are read and not begun; unknown types and unread packets err in their turn
(R277, R279). A skipped LOOP or INDIR is not entered. A LOOP or INDIR whose last packet this is completes. A queue that stops goes on
with the packets of a LOOP or INDIR that has begun, and with the packet that an AT has held (R271, log 84). -/
def State.settleQueue (s : State) (n : Nat) : Nat → State
  | 0 => s
  | fuel + 1 =>
    let q0 := s.queue n
    if !(q0.en || q0.stopping) || q0.heldByAt then s
    else
      let s1 := s.nextPkt n
      let q := s1.queue n
      match q.ahead with
      | [] => s
      | p :: _ =>
        if !q.en && p.par.isEmpty && !q.begun.any (fun b => decide (b.pkt.type = 9)) then s
        else if q.skip ≠ 0 ∧ p.depth = q.skipAt then
          let past := stepOver q.here
          let s2 := if !p.bad && decide (11 < p.type) then s1.queueErr n 1 p.num 0 else s1
          let s3 := s2.popPkt n p
          let s4 := s3.modQueue n (fun q =>
            if p.next = past then { q with skip := q.skip - 1 }
            else { q with skip := q.skip - 1, lv := past, here := past, ahead := [], head := headOf past })
          State.settleQueue (s4.tidy n) n fuel
        else if q.skip ≠ 0 then State.settleQueue (s1.modQueue n (fun q => { q with skip := 0 })) n fuel
        else if p.bad ∨ 11 < p.type then
          State.settleQueue (((s1.popPkt n p).queueErr n (if p.bad then 4 else 1) p.num 0).tidy n) n fuel
        else s1

/-- Packets that can only be skipped or err are taken, as far as they come in a row (log 38). -/
def State.packetSkip (s : State) (n : Nat) : State := s.settleQueue n 8192

/-- Up to `k` packets are read ahead (R273, R278). -/
def State.packetRead (s : State) (n k : Nat) : State :=
  if (s.queue n).en || (s.queue n).stopping then s.readAhead n k else s

/-- A packet of a type begins, with its effect; afterwards `ahead` packets are read. An erring packet is skipped. -/
def State.begin_ (s : State) (n ahead type : Nat) (eff : State → Pkt → State) : State :=
  let s1 := (s.settleQueue n 8192).nextPkt n
  let q := s1.queue n
  match q.ahead with
  | [] => s1
  | p :: _ =>
    if decide (p.type ≠ type) || !q.mayBegin p then s
    else
      let s2 := s1.popPkt n p
      let s3 := match p.err with
        | some code =>
          let s3 := s2.queueErr n code p.num 0
          if p.type = 6 ∧ code = 6 then s3.modQueue n (fun q => { q with skip := p.field 16 16, skipAt := p.depth }) else s3
        | none => eff s2 p
      (s3.readAhead n ahead).tidy n

/-- A packet has begun and goes on. -/
def State.goesOn (s : State) (n : Nat) (p : Pkt) (prog : Nat) : State :=
  s.modQueue n (fun q => { q with begun := q.begun ++ [⟨p, prog⟩] })

/-! ## Packet types (R275) -/

def execNop (q ahead : Nat) (s : State) : Out := .next (s.begin_ q ahead 0 (fun s p => s.postDone q p 0))

/-- The test of WAITSIG and PRED, none where its word cannot be read. -/
def State.test (s : State) (q : Nat) (p : Pkt) : Option Bool :=
  (s.procRead (s.queue q).asid (p.word 1) 8).map (fun v =>
    let x := Nat.land v (p.word 3)
    match p.field 16 2 with
    | 0 => decide (x = p.word 2)
    | 1 => decide (x ≠ p.word 2)
    | 2 => decide (p.word 2 ≤ x)
    | _ => decide (x < p.word 2))

/-- PRED. -/
def State.predEff (s : State) (q : Nat) (p : Pkt) : State :=
  match s.test q p with
  | none => s.queueErr q 4 p.num 0
  | some true => s.postDone q p 0
  | some false => (s.modQueue q (fun u => { u with skip := p.field 24 8, skipAt := p.depth })).postDone q p 0

def execPred (q ahead : Nat) (s : State) : Out := .next (s.begin_ q ahead 5 (fun s p => s.predEff q p))

/-- LOOP and INDIR begin; they complete with their last packets. A LOOP of count 0 skips its body as PRED skips packets. -/
def State.loopEff (s : State) (q : Nat) (p : Pkt) : State :=
  if p.word 1 = 0 then (s.modQueue q (fun u => { u with skip := p.field 16 16, skipAt := p.depth })).postDone q p 0 else s.goesOn q p 0

def execLoop (q ahead : Nat) (s : State) : Out := .next (s.begin_ q ahead 6 (fun s p => s.loopEff q p))
def execIndir (q ahead : Nat) (s : State) : Out := .next (s.begin_ q ahead 7 (fun s p => s.goesOn q p 0))

/-- FFENCE: what has been read ahead is read again (R278). -/
def execFfence (q ahead : Nat) (s : State) : Out :=
  .next (s.begin_ q ahead 8 (fun s p =>
    (s.modQueue q (fun u => { u with ahead := [], lv := u.here })).postDone q p 0))

/-- AT: `prog` 2 marks a time that had passed at its start (R285). -/
def execAtPkt (q ahead : Nat) (s : State) : Out :=
  .next (s.begin_ q ahead 9 (fun s p => s.goesOn q p (if p.word 1 ≤ s.ns then 2 else 0)))

/-- EVENT. -/
def execEvent (q ahead : Nat) (s : State) : Out :=
  .next (s.begin_ q ahead 11 (fun s p => (s.postEvent 3 q 0 p.num (p.word 1)).postDone q p 0))

/-- SIGNAL: a write or an indivisible addition of 8 bytes. -/
def State.signalEff (s : State) (q : Nat) (p : Pkt) : State :=
  let a := p.word 1
  let new (old : Nat) : Nat := if p.field 20 1 = 1 then old + p.word 2 else p.word 2
  if p.field 21 1 = 1 then
    ({ s with mem := { s.mem with host := hostPut s.mem.host a (toBytes (new (s.mem.host.readN a 8)) 8) } }).postDone q p 0
  else
    match s.procPieces (s.queue q).asid true a 8 with
    | none => s.queueErr q 4 p.num 0
    | some ps => (s.writeMute ps (toBytes (new (ofBytes (s.readPieces ps))) 8)).postDone q p 0
def execSignal (q ahead : Nat) (s : State) : Out := .next (s.begin_ q ahead 3 (fun s p => s.signalEff q p))

/-- WAITSIG begins: `prog` is its deadline in ns plus 1, 0 for none. -/
def State.waitsigEff (s : State) (q : Nat) (p : Pkt) : State :=
  match s.test q p with
  | none => s.queueErr q 4 p.num 0
  | some _ => s.goesOn q p (if p.word 4 = 0 then 0 else s.ns + 1000 * p.word 4 + 1)
def execWaitsig (q ahead : Nat) (s : State) : Out := .next (s.begin_ q ahead 4 (fun s p => s.waitsigEff q p))

/-- A WAITSIG's test holds at a polling slot; one whose word does not translate any more errs (R279). -/
def State.waitsigHold (s : State) (q : Nat) : State :=
  match (s.queue q).begun.find? (fun b => decide (b.pkt.type = 4) && decide (s.test q b.pkt ≠ some false)) with
  | some b => if s.test q b.pkt = none then s.pktFail q b.pkt.id 4 else s.pktDone q b.pkt.id 0
  | none => s
def execWaitsigHolds (q : Nat) (s : State) : Out := .next (s.waitsigHold q)

/-- A WAITSIG's timeout has run out: TIMEOUT is recorded, and it completes. -/
def State.waitsigLate (s : State) (q : Nat) : State :=
  match (s.queue q).begun.find? (fun b => decide (b.pkt.type = 4) && decide (b.prog ≠ 0) && decide (b.prog ≤ s.ns + 1)) with
  | some b => (s.queueErr q 7 b.pkt.num 0).pktDone q b.pkt.id 0
  | none => s
def execWaitsigTimeout (q : Nat) (s : State) : Out := .next (s.waitsigLate q)

/-! ## TASK -/

/-- The cluster in which a TASK's queue lies: that of a running launch of the same command queue that names it. -/
def State.taskCl (s : State) (q qn : Nat) : Option Nat :=
  (s.front.launches.filter (fun l => decide (l.queue = q))).findSome? (fun l =>
    ((l.tqs.find? (fun x => decide (x.2 = qn))).map (fun x => x.1)))

/-- The context mark of a push that a command processor waits for. -/
def procMark : Nat := 1537

/-- Push records of a TASK that has begun, as SPAWN pushes them, until one has no room, errs, or all are pushed. A ring that does not
translate is a queue error (R279, log 41). -/
def State.taskPush (s : State) (q : Nat) (b : Begun) : Nat → State
  | 0 => s
  | fuel + 1 =>
    let p := b.pkt
    let qn := p.field 16 9
    let id := p.id
    if p.word 2 ≤ b.prog then s.pktDone q id 0
    else
      match s.taskCl q qn with
      | none => s.pktFail q id 10
      | some cl =>
        let again (s : State) (w : PushWait) : State × Bool :=
          match s.pushInTurn cl qn w.r with
          | .ok s1 => (s1.dropWait cl qn w.r.id, true)
          | .empty => (s, false)
          | .fault _ _ _ => ((s.dropWait cl qn w.r.id).pktFail q id 4, false)
        let next (s : State) : State := s.modQueue q (fun u => { u with begun := u.begun.map (fun x =>
          if x.pkt.id = id then { x with prog := b.prog + 1 } else x) })
        match (s.waitsOn cl qn).find? (fun w => decide (w.hw = procMark) && decide (w.cmd = id)) with
        | some w =>
          let r := again s w
          if r.2 then State.taskPush (next r.1) q { b with prog := b.prog + 1 } fuel else r.1
        | none =>
          match s.procRead (s.queue q).asid (p.word 1 + 64 * b.prog) 64 with
          | none => s.pktFail q id 4
          | some d =>
            if (recIllop d false <|> recIllbnd d false <|> recAlign d <|> recAccv d).isSome then s.pktFail q id 10
            else
              let r := setField (setField (setField (setField d 16 2 qn) 18 1 cl) 19 1 0) 20 4 0
              let (rid, s1) := s.fresh
              let s2 := if recCounter d = noCounter then s1 else s1.counterAdd cl (recCounter d) 1 none
              let w : PushWait := ⟨procMark, id, ⟨rid, r⟩⟩
              let t := again (s2.addWait cl qn w) w
              if t.2 then State.taskPush (next t.1) q { b with prog := b.prog + 1 } fuel else t.1

/-- TASK begins, or goes on when the queue has one that waits for room. -/
def State.taskAct (s : State) (q ahead : Nat) : State :=
  match (s.queue q).begun.find? (fun b => decide (b.pkt.type = 2)) with
  | some b => s.taskPush q b 65537
  | none => s.begin_ q ahead 2 (fun s p => (s.goesOn q p 0).taskPush q ⟨p, 0⟩ 65537)
def execTask (q ahead : Nat) (s : State) : Out := .next (s.taskAct q ahead)

/-! ## STREAM (R286) -/

def State.sctReq (s : State) (q : Nat) (p : Pkt) : SctReq :=
  ⟨p.word 1, p.word 2, p.word 3, p.word 4, p.word 5, decide (p.field 18 1 = 1), (s.queue q).asid, q, p.id⟩

def State.sctEff (q : Nat) (p : Pkt) (r : State → SctRes) (s : State) : State :=
  match r (s.goesOn q p 0) with
  | .done s1 => s1.pktDone q p.id 0
  | .wait s1 => s1
  | .err => s.queueErr q 8 p.num 0

/-- The next STREAM packet has this op. -/
def State.streamOp (s : State) (q op : Nat) : Bool :=
  match (((s.settleQueue q 8192).nextPkt q).queue q).ahead with
  | p :: _ => decide (p.field 16 2 = op) || (decide (op = 0) && decide (p.field 16 2 = 3))
  | [] => false

def State.streamBegin (s : State) (q ahead op : Nat) (r : Pkt → State → SctRes) : State :=
  if s.streamOp q op then s.begin_ q ahead 10 (fun s p => s.sctEff q p (r p)) else s

def execStreamPin (q ahead : Nat) (s : State) : Out :=
  .next (s.streamBegin q ahead 0 (fun p s => s.sctPin (p.field 24 3) (s.sctReq q p)))
def execStreamTouch (q ahead : Nat) (s : State) : Out :=
  .next (s.streamBegin q ahead 1 (fun p s => s.sctTouch (p.field 24 3) (p.word 1)))
def execStreamEvict (q ahead : Nat) (s : State) : Out :=
  .next (s.streamBegin q ahead 2 (fun p s => s.sctEvict (p.field 24 3) (p.word 1) (q, p.id)))

/-- The packets that waited on an entry's eviction: evicts complete or err, pins are made now (R105, R107, R286). -/
def State.sctWake (s : State) (cl : Nat) (reqs : List (Nat × Nat)) (failed : Bool) : State :=
  reqs.foldl (fun s r =>
    match (s.queue r.1).begun.find? (fun b => decide (b.pkt.id = r.2)) with
    | none => s
    | some b =>
      if b.pkt.field 16 2 = 2 then (if failed then s.pktFail r.1 r.2 8 else s.pktDone r.1 r.2 0)
      else
        match s.sctPin cl (s.sctReq r.1 b.pkt) with
        | .done s1 => s1.pktDone r.1 r.2 0
        | .wait s1 => s1
        | .err => s.pktFail r.1 r.2 8) s

/-- The last line of an eviction has reached its home (R106). -/
def State.evictDone (s : State) (cl e : Nat) : State :=
  match s.evicting cl with
  | none => s
  | some (h, x) =>
    if h = e ∧ x.len ≤ 64 * x.moved then
      let s1 := (s.setSct cl e { x with st := 3, req := [] }).modCl cl (fun c => { c with evq := c.evq.tail })
      (s1.postEvent 4 0xFFFF e x.sid 0).sctWake cl x.req false
    else s
def execEvictionDone (cl e : Nat) (s : State) : Out := .next (s.evictDone cl e)

/-- The home of an eviction's next line does not yield a leaf that permits the write (R107). -/
def State.evictFail (s : State) (cl e : Nat) : State :=
  match s.evicting cl with
  | none => s
  | some (h, x) =>
    let stuck := match s.homeLine cl x x.moved true with
      | .ok _ => false
      | .error _ => true
    if decide (h = e) && decide (64 * x.moved < x.len) && stuck then
      let s1 := (s.setSct cl e { x with st := 4, req := [] }).modCl cl (fun c => { c with evq := c.evq.tail })
      (s1.postEvent 5 0xFFFF e x.sid 0).sctWake cl x.req true
    else s
def execEvictionFailed (cl e : Nat) (s : State) : Out := .next (s.evictFail cl e)

/-- Lines of an eviction or a load move. A load that is done ends its pin; a home line that yields no valid leaf ends the load and
fails the packet with XLAT, and the entry stays as it is (log 98). An eviction that waits for the load then copies every line. -/
def State.sctAct (s : State) (cl e n : Nat) : State :=
  let s1 := s.sctLines cl e n
  let x := s1.sctOf cl e
  let stuck := match s1.homeLine cl x x.moved false with
    | .ok _ => false
    | .error _ => true
  if x.load && decide (x.len ≤ 64 * x.moved) then
    x.lreq.foldl (fun s r => s.pktDone r.1 r.2 0) (s1.setSct cl e { x with load := false, moved := 0, lreq := [] })
  else if x.load && stuck then
    x.lreq.foldl (fun s r => s.pktFail r.1 r.2 4) (s1.setSct cl e { x with load := false, moved := 0, lreq := [] })
  else s1

/-! ## The host's side of a queue (R270 to R272) -/

/-- A write to QTAIL (log 63). -/
def State.tailWrite (s : State) (n v : Nat) : State :=
  let q := s.queue n
  if v ≤ q.tail then s
  else if q.head + q.size < v then s.queueErr n 11 0 0
  else s.modQueue n (fun q => { q with tail := v })
def execQtailWrite (q v : Nat) (s : State) : Out := .next (s.ifOpen (fun s => s.tailWrite q v))

/-- QCTL.en from 0 to 1: at once, or when busy clears (R271). -/
def State.enable (s : State) (n : Nat) : State :=
  let q := s.queue n
  if q.en then s else (s.modQueue n (fun q => { q with enPend := true })).modQueue n Queue.rest
def execQueueEnable (q : Nat) (s : State) : Out := .next (s.ifOpen (fun s => s.enable q))

/-- QCTL.en from 1 to 0: the queue stops at a packet boundary of depth 0; what has been read ahead is discarded. -/
def State.disable (s : State) (n : Nat) : State :=
  let q := s.queue n
  if !q.en then s.modQueue n (fun q => { q with enPend := false })
  else (s.modQueue n (fun q =>
    { q with en := false, enPend := false, stopping := true, ahead := [], lv := q.here, prep := none })).tidy n
def execQueueDisable (q : Nat) (s : State) : Out := .next (s.ifOpen (fun s => s.disable q))

/-- QSTAT.clr. -/
def execQstatClear (q : Nat) (s : State) : Out :=
  .next (s.ifOpen (fun s => s.modQueue q (fun u => { u with count := 0, first := 0, fpkt := 0 })))

/-- EVHEAD: the rule of R272 against EVTAIL (R280). -/
def State.evhead (s : State) (v : Nat) : State :=
  let e := s.front.ev
  if v ≤ e.head ∨ e.tail < v then s else { s with front := { s.front with ev := { e with head := v } } }
def execEvheadWrite (v : Nat) (s : State) : Out := .next (s.ifOpen (fun s => s.evhead v))

/-- TRHEAD (R343). -/
def execTrheadWrite (cl v : Nat) (s : State) : Out :=
  .next (s.ifOpen (fun s => s.modCl cl (fun c =>
    if v ≤ c.trace.head ∨ c.trace.tail < v then c else { c with trace := { c.trace with head := v } })))

end Sys2Proof.Machine
end

