-- ==== Sys2Proof/Machine/Placement.lean ====
section
/-!
DEFINITION. What a LAUNCH gives (R213, R281 to R283, R285): the placement map, the segment table and the argument block, their
checks, and the preparation of a packet that an AT holds.
-/

namespace Sys2Proof.Machine

/-! ## The map's entries (R281) -/

def mapCtx (e : Nat) : MapCtx :=
  ⟨fld e 0 16, fld e 16 8, fld e 24 8, fld e 32 32, fld e 64 32, fld e 96 32, fld e 128 64, fld e 192 16, fld e 208 16,
    fld e 224 32, fld e 256 128⟩

def MapCtx.hw (m : MapCtx) : Nat := 4 * m.core + m.ctx % 4
def MapCtx.cl (m : MapCtx) : Nat := clOf m.core
/-- The queue that the context owns. -/
def MapCtx.owns (m : MapCtx) : Option Nat := if fld m.queue 15 1 = 1 then some (fld m.queue 0 9) else none
/-- The handles that it binds, with their slots. -/
def MapCtx.handles (m : MapCtx) : List (Nat × Nat) :=
  (List.range 16).filterMap (fun h =>
    let b := fld m.sq (8 * h) 8
    if 128 ≤ b then some (h, b % 128) else none)

def mapQ (e : Nat) : MapQ := ⟨fld e 0 16, fld e 16 16, fld e 32 32, fld e 64 32, fld e 128 64⟩

def mapSegOf (e : Nat) : MapSeg := ⟨fld e 0 16, fld e 16 8, fld e 24 8, fld e 32 32, fld e 64 64⟩
def MapSeg.load (m : MapSeg) : Bool := decide (m.src % 2 = 1)

/-- Entry `k` of a table of `w`-byte entries. -/
def tableAt (v w k : Nat) : Nat := fld v (8 * w * k) (8 * w)

/-- A LAUNCH's map is read, or the queue error of the read: XLAT, or PLACE for a count out of range. -/
def State.readMap (s : State) (asid m t a : Nat) : Except Nat PlaceMap :=
  match s.procRead asid m 64 with
  | none => .error 4
  | some h =>
    let n := fld h 0 32
    let q := fld h 32 32
    if n = 0 ∨ 1536 < n ∨ 4096 < q then .error 5
    else
      match s.procRead asid (m + 64) (64 * n + 32 * q), s.procRead asid t 8, (if a = 0 then some 0 else s.procRead asid a 64) with
      | some v, some k, some args =>
        if k = 0 ∨ 256 < k then .error 5
        else
          match s.procRead asid (t + 8) (16 * k) with
          | none => .error 4
          | some g =>
            let cs := (List.range n).map (fun i => tableAt v 64 i)
            let qs := (List.range q).map (fun i => tableAt (v / 2 ^ (512 * n)) 32 i)
            let bad := decide (fld h 96 416 ≠ 0) || cs.any (fun e => decide (fld e 18 5 ≠ 0) || decide (fld e 217 6 ≠ 0) ||
                decide (fld e 384 128 ≠ 0)) ||
              qs.any (fun e => decide (fld e 9 7 ≠ 0) || decide (fld e 96 32 ≠ 0) || decide (fld e 192 64 ≠ 0))
            .ok ⟨cs.map mapCtx, qs.map mapQ, fld h 64 16, fld h 80 16, (List.range k).map (fun i => mapSegOf (tableAt g 16 i)),
              args, bad⟩
      | _, _, _ => .error 4

/-! ## The checks (R282) -/

/-- No number stands twice. -/
def noRepeat (l : List Nat) : Bool := decide (l.length = l.dedup.length)

/-- Two lists have no number in common. -/
def apart (a b : List Nat) : Bool := a.all (fun x => !b.contains x)

def PlaceMap.hws (m : PlaceMap) : List Nat := m.ctxs.map (fun c => c.hw)
def PlaceMap.cores (m : PlaceMap) : List Nat := (m.ctxs.map (fun c => c.core)).dedup
def PlaceMap.clusters (m : PlaceMap) : List Nat := (m.ctxs.map (fun c => c.cl)).dedup
/-- Slots as 96 * cluster + slot. -/
def PlaceMap.slots (m : PlaceMap) : List Nat := m.ctxs.flatMap (fun c => c.handles.map (fun h => 96 * c.cl + h.2))
/-- Tiles as 16 * core + tile. -/
def PlaceMap.tiles (m : PlaceMap) : List Nat :=
  m.ctxs.flatMap (fun c => ((List.range 16).filter (fun t => Nat.testBit c.tiles t)).map (fun t => 16 * c.core + t))
/-- Link directions as 2 * link, plus 1 for receive. -/
def PlaceMap.links (m : PlaceMap) : List Nat := m.ctxs.flatMap (fun c => (List.range 32).filter (fun b => Nat.testBit c.links b))
/-- A queue entry's owner. -/
def PlaceMap.ownerOf (m : PlaceMap) (q : MapQ) : Option MapCtx := m.ctxs[q.owner]?
/-- Queues as cluster (0 for a base-die queue) and number. -/
def PlaceMap.tqs (m : PlaceMap) : List (Nat × Nat) :=
  m.qs.map (fun q => (if q.num < 0x100 then ((m.ownerOf q).map (fun c => c.cl)).getD 0 else 0, q.num))
def queueKey (x : Nat × Nat) : Nat := 512 * x.1 + x.2
/-- Team numbers as 64 * cluster + team. -/
def PlaceMap.teams (m : PlaceMap) : List Nat := (m.ctxs.map (fun c => 64 * c.cl + c.team)).dedup

def MapCtx.ok (c : MapCtx) : Bool :=
  decide (c.core < 384) && decide (c.team < 64) && decide (c.entry % 4 = 0) && c.handles.all (fun h => decide (h.2 < 96))

/-- The ranges of a queue entry (R249, R250), and its owner's own entry names it (log 25). -/
def PlaceMap.qOk (m : PlaceMap) (q : MapQ) : Bool :=
  (if q.num < 0x100 then
    decide (q.cap % 4 = 0) && decide (4 ≤ q.cap) && decide (q.cap ≤ 8192) &&
      (decide (q.f = 0) || (List.range 25).any (fun k => decide (q.f = 2 ^ k)))
  else decide (q.cap ≤ 1048576)) &&
  (match m.ownerOf q with
    | some c => decide (c.owns = some q.num)
    | none => false)

/-- A context's queue stands among the queue entries under its index. -/
def PlaceMap.ownOk (m : PlaceMap) (i : Nat) (c : MapCtx) : Bool :=
  match c.owns with
  | none => true
  | some n => m.qs.any (fun q => decide (q.num = n) && decide (q.owner = i))

/-- The ranges of a segment entry. -/
def PlaceMap.segOk (m : PlaceMap) (g : MapSeg) : Bool :=
  m.cores.contains g.core && decide (1 ≤ g.npages) && decide (g.ipage + g.npages ≤ 128) && decide (g.paddr % 4096 = 0) &&
    decide (g.src % 64 < 2)

/-- A segment as a core holds it. -/
def MapSeg.seg (g : MapSeg) (launch asid : Nat) : Seg :=
  ⟨launch, g.ipage, g.npages, g.paddr, BitVec.ofNat 64 g.src, g.load, false, asid, none⟩

/-- Two segments share a program page; addresses wrap at 2^32. -/
def progMeet (a b : Seg) : Bool :=
  decide ((b.paddr + 2 ^ 32 - a.paddr) % 2 ^ 32 < 4096 * a.npages) || decide ((a.paddr + 2 ^ 32 - b.paddr) % 2 ^ 32 < 4096 * b.npages)

/-- Mapped segments of a list break the rule of R283. -/
def segsClash : List Seg → Bool
  | [] => false
  | g :: r => (g.mapped && r.any (fun h => h.mapped && (segsMeet g h || progMeet g h))) || segsClash r

/-- The SRAM records that running launches hold in a cluster's banks. -/
def State.sramHeld (s : State) (cl : Nat) : Nat := (s.cluster cl).tq.foldl (fun n x => n + x.2.c) 0

/-- The map is sound by itself. -/
def PlaceMap.ok (m : PlaceMap) : Bool :=
  !m.rsvd && m.ctxs.all MapCtx.ok && noRepeat m.hws && noRepeat m.slots && noRepeat m.tiles && noRepeat m.links &&
    noRepeat (m.tqs.map queueKey) && noRepeat (m.qs.map (fun q => q.owner)) && m.qs.all m.qOk &&
    (List.zip (List.range m.ctxs.length) m.ctxs).all (fun x => m.ownOk x.1 x.2) &&
    decide (m.wfirst < 512) && decide (m.wfirst + m.wcount ≤ 512) && noRepeat (m.teams.map (fun t => t % 64)) && m.segs.all m.segOk

/-- The map is sound beside the launches that run (log 76). -/
def State.mapFree (s : State) (m : PlaceMap) (launch asid : Nat) : Bool :=
  let ls := s.front.launches
  m.hws.all (fun h => decide ((s.ctx h).run.st = .inactive)) &&
    m.cores.all (fun c => !(s.auxOf c).excluded) &&
    ls.all (fun l => apart m.slots l.slots && apart m.tiles l.tiles && apart m.links l.links &&
      apart (m.tqs.map queueKey) (l.tqs.map queueKey) &&
      (apart m.clusters l.clusters || decide (m.wcount = 0) || decide (l.wcount = 0) ||
        decide (m.wfirst + m.wcount ≤ l.wfirst) || decide (l.wfirst + l.wcount ≤ m.wfirst)) &&
      apart m.teams l.teams) &&
    m.clusters.all (fun cl => decide (s.sramHeld cl +
      ((m.qs.zip m.tqs).filter (fun x => decide (x.1.num < 0x100) && decide (x.2.1 = cl))).foldl (fun n x => n + x.1.cap) 0 ≤ 8192)) &&
    m.cores.all (fun c => !segsClash ((s.core c).segs ++ (m.segs.filter (fun g => decide (g.core = c))).map (fun g => g.seg launch asid)))

/-! ## Preparing (R282, R285) -/

/-- The contents of the segments that are loaded at launch; none where one cannot be read. -/
def State.readSegs (s : State) (asid : Nat) : List MapSeg → Option (List (List Byte))
  | [] => some []
  | g :: r =>
    let rest := State.readSegs s asid r
    if g.load then
      match s.procPieces asid false (g.src / 64 * 64) (4096 * g.npages), rest with
      | some ps, some l => some (s.readPieces ps :: l)
      | _, _ => none
    else rest.map (fun l => [] :: l)

/-- A LAUNCH's map, table and arguments are read and checked. Without an accepted firmware image every LAUNCH records PLACE (R363). -/
def State.prepare (s : State) (q : Nat) (p : Pkt) : Prep :=
  let asid := (s.queue q).asid
  if !s.mod.trust.fwOk then ⟨p.id, 5, none, []⟩
  else
    match s.readMap asid (p.word 1) (p.word 2) (p.word 3) with
    | .error code => ⟨p.id, code, none, []⟩
    | .ok m =>
      if !(m.ok && s.mapFree m p.id asid) then ⟨p.id, 5, none, []⟩
      else
        match s.readSegs asid m.segs with
        | none => ⟨p.id, 4, none, []⟩
        | some bs => ⟨p.id, 0, some m, bs⟩

/-- The packet that an AT holds is read, and a LAUNCH prepared, while its time has not come (R285, log 65). -/
def State.prepareHeld (s : State) (q : Nat) : State :=
  if (s.queue q).heldByAt then
    let s1 := s.nextPkt q
    match (s1.queue q).ahead with
    | [] => s1
    | p :: _ =>
      if decide (p.type = 1) && p.err.isNone && (s1.queue q).prep.isNone then
        s1.modQueue q (fun u => { u with prep := some (s1.prepare q p) })
      else s1
  else s

/-- Module time has reached the time of an AT; what it holds has been prepared (log 65). -/
def State.atReached (s : State) (q : Nat) : State :=
  let due (b : Begun) : Bool := decide (b.pkt.type = 9) && decide (b.prog = 0) && decide (b.pkt.word 1 ≤ s.ns)
  if (s.queue q).begun.any due then
    (s.prepareHeld q).modQueue q (fun u => { u with begun := u.begun.map (fun b => if due b then { b with prog := 1 } else b) })
  else s
def execAtTimeReached (q : Nat) (s : State) : Out := .next (s.atReached q)

end Sys2Proof.Machine
end

