-- ==== Sys2Proof/Machine/Rollback.lean ====
section
/-!
DEFINITION. Uncorrectable errors of a context's read (R242, R359 to R361): mapping out, rollback to the release, ECCU.
-/

namespace Sys2Proof.Machine

/-! ## Mapping out (R359, R361) -/

/-- Spare rows of a core in use. -/
def CoreAux.rowsUsed (a : CoreAux) : Nat := a.rowMap.foldl (fun n x => max n (x.2 - 63)) 0

/-- A unit that fails its self-test is mapped out, with its event; a fifth row or a lane group excludes the core. The flag says
that the unit could not be replaced. -/
def State.mapOut (s : State) : ErrUnit → State × Bool
  | .transient | .transientRow _ _ | .transientLane _ | .hbm | .checkpoint => (s, false)
  | .arrayRow core row =>
    let a := s.auxOf core
    if a.rowsUsed < 4 then
      ((s.modAux core (fun a => { a with rowMap := SMap.put a.rowMap row (64 + a.rowsUsed) })).postEvent 7 0xFFFF
        (1 * 2 ^ 28 + core % 2 ^ 12 * 2 ^ 16 + row % 2 ^ 16) 0 0, false)
    else (s.modAux core (fun a => { a with excluded := true, rowsLost := true }), true)
  | .bank core bank =>
    let a := s.auxOf core
    if a.bankMap.any (fun x => decide (x.1 / 16 = bank / 16)) then (s, true)
    else
      ((s.modAux core (fun a => { a with bankMap := SMap.put a.bankMap bank (32 + bank / 16) })).postEvent 7 0xFFFF
        (2 * 2 ^ 28 + core % 2 ^ 12 * 2 ^ 16 + bank % 2 ^ 16) 0 0, false)
  | .laneGroup core => (s.modAux core (fun a => { a with excluded := true }), true)

/-! ## Rollback (R242, R359) -/

/-- A checkpoint's registers over the present ones: vector registers that BAR does not list keep their values. -/
def Ckpt.regsOver (k : Ckpt) (now : Regs) : Regs :=
  { k.regs with v := k.regs.v.foldl (fun m x => SMap.put m x.1 x.2) (now.v.filter (fun x => !k.vlist.contains x.1)) }

/-- Engine work at a rollback: requests issued since the release and every command on a sequencer slot are dropped. -/
def Eng.rolledBack (e : Eng) (k : Ckpt) : Eng :=
  let keep (c : Cmd) : Bool := decide (c.id < k.recId) && !c.op.onSlot
  { e with
    addrQ := k.addrQ
    dataQ := k.dataQ
    cG := e.cG.filter keep
    qG := e.qG.filter keep
    work := e.work.filter keep
    stream := [] }

/-- A member resumes from its checkpoint, its barrier passed. -/
def Ctx.rollTo (c : Ctx) (k : Ckpt) : Ctx :=
  { c with
    regs := k.regsOver c.regs
    fmt := { k.fmt with tok := [] }
    frame := k.frame
    bank := k.bank
    pend := Pending.none
    soon := []
    eng := c.eng.rolledBack k
    run := { c.run with
      st := .ready
      stage := .none
      sched := k.sched
      h := k.h
      slackRem := k.slackRem
      slack := k.slack
      phase := 1
      window := 0
      await := 0
      trap := k.trap
      curRec := k.curRec
      released := k.released
      ran := k.ran
      cuts := 0
      cutBase := 0
      barPass := true
      pre := none } }

/-- A slot of a rolled-back context emits no further copies; those in flight go on. -/
def SeqSlot.rolledBack (q : SeqSlot) : SeqSlot :=
  { q with act := none, wait := none, unbind := false, st := 0, walk := false, fault := false, ferr := [], cans := [] }

/-- The records created since the release leave a queue: they stand at its ends. -/
def TaskQ.without (q : TaskQ) (mark : Nat) : TaskQ :=
  let n := (q.rids.takeWhile (fun i => decide (mark ≤ i))).length
  { q with
    sram := q.sram.filter (fun r => decide (r.id < mark))
    rhead := if q.f = 0 then q.rhead else (q.rhead + n) % q.f
    rids := q.rids.filter (fun i => decide (i < mark)) }

/-- A watch entry whose record leaves a team's queue is armed again (R258). -/
def Watch.without (w : Watch) (qs : List Nat) (mark : Nat) : Watch :=
  if w.st = 2 ∧ mark ≤ w.pendId ∧ qs.contains (recQueue w.tmpl) then { w with st := 1, pendId := 0, held := none } else w

/-- The queues of a cluster that a team's members own. -/
def Cluster.queuesOf (c : Cluster) (ms : List Nat) : List Nat :=
  (c.tq.filter (fun x => ms.contains x.2.owner)).map (fun x => x.1)

/-- The cluster's part of a rollback: slots, the team's queues, pushes that wait, arrivals at a barrier. -/
def Cluster.rolledBack (c : Cluster) (ms : List Nat) (team mark : Nat) : Cluster :=
  let qs := c.queuesOf ms
  { c with
    slots := c.slots.map (fun x => if ms.contains x.2.owner then (x.1, x.2.rolledBack) else x)
    tq := c.tq.map (fun x => if qs.contains x.1 then (x.1, x.2.without mark) else x)
    waits := c.waits.filter (fun w => !(qs.contains w.1 && decide (mark ≤ w.2.r.id)))
    watch := c.watch.map (fun x => (x.1, x.2.without qs mark))
    nlq := c.nlq.filter (fun x => !(ms.contains x.1 && decide (mark ≤ x.2)))
    nljob := c.nljob.filter (fun j => !(ms.contains j.hw && decide (mark ≤ j.cmd)))
    bars := SMap.del c.bars team
    rolls := c.rolls.filter (fun r => decide (r.hws ≠ ms)) }

/-- The base-die queues that a team's members own: records and pushes that wait since the release leave them (R242). -/
def State.rollBase (s : State) (ms : List Nat) (mark : Nat) : State :=
  let qs := (s.front.baseQ.filter (fun x => ms.contains x.2.owner)).map (fun x => x.1)
  let s1 := { s with front := { s.front with
    baseQ := s.front.baseQ.map (fun x => if ms.contains x.2.owner then (x.1, x.2.without mark) else x)
    baseWaits := s.front.baseWaits.filter (fun w => !(qs.contains w.1 && decide (mark ≤ w.2.r.id))) } }
  (List.range 8).foldl (fun s cl => s.modCl cl (fun c => { c with watch := c.watch.map (fun x => (x.1, x.2.without qs mark)) })) s1

/-- The journal's lines as cells. -/
def Core.journalCells (k : Core) : List (Nat × Byte) :=
  k.journal.flatMap (fun x => (List.range 64).map (fun n => (x.1 * 64 + n, byteOf x.2.1 n)))

/-- The core's part: products, transfers and images of the members are discarded. -/
def Core.rolledBack (k : Core) (ms : List Nat) : Core :=
  { k with
    prods := k.prods.filter (fun p => !ms.contains p.hw)
    xfers := k.xfers.filter (fun x => !ms.contains x.hw)
    imgs := k.imgs.filter (fun j => !ms.contains j.hw)
    resumes := k.resumes.filter (fun r => !ms.contains r.hw) }

/-- A core's lines take their contents of the release, and its contexts' work is discarded. -/
def State.rollCore (s : State) (ms : List Nat) (team core : Nat) : State :=
  let k := s.core core
  let s1 := if k.jteam = some team then s.spadRaw k.journalCells else s
  s1.setCore core (k.rolledBack ms)

/-- A member's context goes back; one that has ended stays so. -/
def State.rollCtx (s : State) (hw : Nat) : State :=
  match (s.ctx hw).ckpt with
  | some k => s.setCtx hw ((s.ctx hw).rollTo k)
  | none => s

/-- The team goes back to its release. -/
def State.rollback (s : State) (ms : List Nat) (cl team mark : Nat) : State :=
  let s1 := ((ms.map coreOf).dedup).foldl (fun s k => s.rollCore ms team k) s
  let s2 := s1.modCl cl (fun c => c.rolledBack ms team mark)
  ms.foldl (fun s h => s.rollCtx h) (s2.rollBase ms mark)

/-- The team's members stop before their next bundles, and their slots emit no further copies; what they have in flight but
copies is discarded (R359, step 1). A primary among them has left its core: the next real cycle is the switch cycle (R207). -/
def State.rollStop (s : State) (ms : List Nat) (cl : Nat) (r : Roll) : State :=
  let s1 := ((ms.map coreOf).dedup).foldl (fun s k => s.modCore k (fun x => x.rolledBack ms)) s
  let s2 := s1.modCl cl (fun c => { c with
    slots := c.slots.map (fun x => if ms.contains x.2.owner then (x.1, x.2.rolledBack) else x)
    rolls := c.rolls ++ [r] })
  ms.foldl (fun s h => (((s.modCtx h (fun c => { c with
    pend := Pending.none
    run := { c.run with st := .waiting, stage := .rolling } })).dropAsks h).leavePrimary h).switchNext s h) s2

/-- No copy of the team's slots is in flight. -/
def State.copiesDone (s : State) (ms : List Nat) (cl : Nat) : Bool :=
  (s.cluster cl).slots.all (fun x => !ms.contains x.2.owner || x.2.copies.isEmpty)

/-- Steps 2 to 5 of a recovery, once the copies have completed: the rollback, and the unit's mapping out. -/
def State.rollEnd (s : State) (cl : Nat) (r : Roll) : State :=
  if s.copiesDone r.hws cl then ((s.rollback r.hws cl r.team r.mark).mapOut r.unit).1 else s

/-- The team of a context that has stopped for a rollback. -/
def State.rollOf (s : State) (hw : Nat) : Option Roll :=
  (s.cluster (clusterOf hw)).rolls.find? (fun r => r.hws.contains hw)

/-- A rollback that has waited for copies goes on. -/
def State.rollAct (s : State) (hw : Nat) : State :=
  match s.rollOf hw with
  | some r => s.rollEnd (clusterOf hw) r
  | none => s

/-- Every member's checkpoint can be used (log 85). -/
def State.canRoll (s : State) (ms : List Nat) : Bool :=
  ms.all (fun h => match (s.ctx h).ckpt with
    | some k => k.usable
    | none => false)

/-- The number that the release gave its checkpoints. -/
def State.releaseMark (s : State) (ms : List Nat) : Nat :=
  ms.foldl (fun m h => match (s.ctx h).ckpt with
    | some k => max m k.recId
    | none => m) 0

/-- Every member that still runs takes ECCU (R360); the context `reader` whose next bundle makes the read takes it after that bundle,
which gets the stored bits. In trap mode it pends in any case. -/
def State.eccu (s : State) (ms : List Nat) (addr : Nat) (reader : Option Nat) : State :=
  let a : Async := ⟨16, BitVec.ofNat 64 addr, 0, 0, 15, 15, false, false⟩
  ms.foldl (fun s h =>
    if (s.ctx h).run.st = .inactive then s
    else if reader = some h ∧ (s.ctx h).run.trap = false then s.modCtx h (fun c => { c with soon := c.soon ++ [a] })
    else s.raise h a) s

/-- A storage element that an uncorrectable error has met reads as its stored bits, which are free: the 16-byte word at the failing
address, or the element of the array row or the vector register of the lane group that the address names (R360, log 31). -/
def State.stored (s : State) (hw : Option Nat) (addr : Nat) (unit : ErrUnit) : State :=
  let (n, s1) := s.drawn
  let v := Config.storedBits n
  let spad := if addr < 0x60000000 then
    s1.spadRaw (List.zipWith (fun k b => (addr / 16 * 16 + k, b)) (List.range 16) (toBytes v 16)) else s1
  match unit with
  | .transient | .bank _ _ => spad
  | .hbm => if addr < Config.hbmBytes then
      { s1 with mem := { s1.mem with hbm := s1.mem.hbm.writeN (addr / 16 * 16) v 16 } } else s1
  | .checkpoint => s1
  | .arrayRow core row | .transientRow core row => s1.acsWrite core (addr / 64 % 16) row (addr % 64) (BitVec.ofNat 32 v)
  | .laneGroup _ | .transientLane _ =>
    match hw with
    | some h => s1.modCtx h (fun c => { c with regs := { c.regs with v := SMap.put c.regs.v (addr % 768) (BitVec.ofNat 4096 v) } })
    | none => s1

/-- An error met by a read of a context, by its next bundle where `bundle` says so: rollback, or ECCU where it is not possible. Whether
a line of a mapped-out bank stays uncorrectable is free (log 31). -/
def State.teamError (s : State) (hw addr : Nat) (unit : ErrUnit) (bundle : Bool) : State :=
  let ms := s.teamMates hw
  let cl := clusterOf hw
  let (n, s1) := s.drawn
  let lost := match unit with
    | .bank _ _ => Config.freeBit n || (s.mapOut unit).2
    | .checkpoint => true
    | _ => false
  if (s.rollOf hw).isSome then (s1.mapOut unit).1
  else if s.canRoll ms && !lost then
    let r : Roll := ⟨ms, (s.ctx hw).teamNo, s.releaseMark ms, unit⟩
    (s1.rollStop ms cl r).rollEnd cl r
  else ((s1.mapOut unit).1.stored (some hw) addr unit).eccu ms addr (if bundle then some hw else none)

end Sys2Proof.Machine
end

