-- ==== Sys2Proof/Machine/Faults.lean ====
section
/-!
DEFINITION. The events by which engine work moves on, stops on a major fault, or holds a core's clock on a minor one (R67 to
R75, R157, R299, R302, R331), and the lining (R300 to R302).
-/

namespace Sys2Proof.Machine

/-! ## Engine work -/

/-- A piece of engine work moves on. -/
def State.engineAct (s : State) : EngineAct → State
  | .command hw id => s.cmdAct hw id
  | .elements hw id first n => s.elementsAct hw id first n
  | .early hw id => s.earlyAct hw id
  | .pairTests hw id n => s.nlAct hw id n
  | .copyRead cl slot copy byte words => s.copyReads cl slot copy byte words
  | .copyWrite cl slot copy byte words => s.copyWrites cl slot copy byte words
  | .sctLines cl e n => s.sctAct cl e n
  | .preload hw n => s.preloadLines hw n
  | .image hw n => s.imageLines hw n
  | .slotRead hw n => s.slotLines hw n
  | .keyHeld hw => s.keyHeld hw
  | .rollback hw => s.rollAct hw
  | .packetRead q n => s.packetRead q n
  | .breakpoint c a on => s.ifOpen (fun s => s.debugBit c a on)
  | .packetSkip q => s.packetSkip q
  | .prepare q => s.prepareHeld q
  | .linkRead hw link => s.linkRead hw link

/-- The context whose request a piece of work makes. -/
def State.actor (s : State) : EngineAct → Nat
  | .command hw _ | .elements hw _ _ _ | .early hw _ | .pairTests hw _ _ | .preload hw _ | .image hw _ | .slotRead hw _ | .keyHeld hw
  | .linkRead hw _ | .rollback hw => hw
  | .copyRead cl slot _ _ _ | .copyWrite cl slot _ _ _ => (s.slot cl slot).owner
  | .sctLines _ _ _ | .breakpoint _ _ _ | .packetRead _ _ | .packetSkip _ | .prepare _ => 1536

/-- The major faults pending for a context. -/
def State.majors (s : State) (hw : Nat) : Nat := ((s.ctx hw).async.filter (fun a => a.major)).length

/-- Between two states a context has met a major fault: one is pending, or its images could not be written (R303). -/
def State.newMajor (s s1 : State) (hw : Nat) : Bool :=
  decide (s.majors hw < s1.majors hw) ||
    (decide ((s.ctx hw).run.st ≠ .inactive) && decide ((s1.ctx hw).run.st = .inactive))

/-- A slot has stopped on a fault. -/
def State.slotStops (s s1 : State) (cl n : Nat) : Bool := !(s.slot cl n).fault && (s1.slot cl n).fault

/-- ENGINE_COMMAND_COMPLETE: work moves on unless it meets a major fault. -/
def State.engineDo (s : State) (e : EngineAct) : State :=
  let s1 := s.engineAct e
  if s.newMajor s1 (s.actor e) then s else s1

/-- ENGINE_MAJOR_FAULT: work that meets a major fault stops; for a sequencer slot it is the next emission. -/
def State.engineFault (s : State) (e : EngineAct) : State :=
  match e with
  | .copyRead cl n _ _ _ | .copyWrite cl n _ _ _ =>
    let s1 := s.emitWalked cl n
    if s.slotStops s1 cl n then s1 else s
  | _ =>
    let s1 := s.engineAct e
    if s.newMajor s1 (s.actor e) then s1 else s

/-- ELEMENTARY_COPY_EMIT: a slot emits its next copy unless the copy faults. -/
def State.emitNext (s : State) (cl n : Nat) : State :=
  let s1 := s.emitCopy cl n
  if s.slotStops s1 cl n then s else s1

def execEngineCommandComplete (e : EngineAct) (s : State) : Out := .next (s.engineDo e)
def execEngineMajorFault (e : EngineAct) (s : State) : Out := .next (s.engineFault e)
def execElementaryCopyEmit (cl slot : Nat) (s : State) : Out := .next (s.emitNext cl slot)

/-! ## Walks (R68) -/

/-- The context of a copy engine's outstanding walk. -/
def State.walker (s : State) (cl eng asid : Nat) : Option Nat :=
  ((s.cluster cl).slots.find? (fun x => decide (engCopy x.1 = eng) && x.2.walk &&
    decide ((x.2.act.map (fun a => s.nestAsid x.2 a.2)) = some asid))).map (fun x => x.2.owner)

/-- A hardware walk completes, which a miss has started: entries that served the address have been replaced. Its leaf, when it
permits the access, fills the TLB of its engine and the shared TLB. -/
def State.pageWalk (s : State) (cl eng asid va : Nat) (write : Bool) : State :=
  let s1 := (s.chargeWalk (s.walker cl eng asid) asid (va56 va)).dropTlb cl eng asid (va56 va)
  match s.walk asid (va56 va) with
  | .leaf pte size =>
    match useLeaf pte size (va56 va) write (levelOfSize size) with
    | .ok _ _ => s1.remember cl eng asid (va56 va)
    | _ => s1
  | _ => s1

def execPageWalk (cl eng asid va : Nat) (write : Bool) (s : State) : Out := .next (s.pageWalk cl eng asid va write)

/-! ## Minor faults (R299) -/

/-- The stopped request of a context that an event names. -/
def State.findStopped (s : State) (hw eng va : Nat) (write : Bool) : Option Stopped :=
  (s.stopped hw).find? (fun q => decide (q.eng = eng) && decide (q.va = va) && decide (q.write = write))

/-- A hold is the minor fault of this request. -/
def Hold.isFault (h : Hold) (hw eng va : Nat) (write : Bool) : Bool :=
  match h with
  | .fault h e _ v w _ _ => decide (h = hw) && decide (e = eng) && decide (v = va) && decide (w = write)
  | _ => false

/-- MINOR_FAULT: a request that a refill leaf stops holds its core's clock; a fault of a held core joins the hold. -/
def State.minorFault (s : State) (hw va : Nat) (write : Bool) (eng : Nat) : State :=
  match s.findStopped hw eng va write with
  | none => s
  | some q =>
    let k := s.core (coreOf hw)
    if k.holds.any (fun h => h.isFault hw eng va write) then s
    else (s.setCore (coreOf hw) { k with holds := k.holds ++ [.fault hw eng q.asid va write q.level q.entry] }).chargeWalk (some hw)
      q.asid va

def execMinorFault (hw va : Nat) (write : Bool) (eng : Nat) (s : State) : Out := .next (s.minorFault hw va write eng)

/-! ## The lining's instructions (R301) -/

/-- The first fault of a core in the order raised. -/
def Core.firstFault (k : Core) : Option Hold := k.holds.find? (fun h => match h with
  | .fault .. => true
  | _ => false)

/-- What a syllable of the lining does: a register write, a store, a branch, nothing, or a trap. -/
inductive LnEff where
  | reg (d : Nat) (v : Word)
  | store (a size v : Nat)
  | branch (taken : Bool) (target : Nat)
  | eret
  | none
  | trap
  deriving DecidableEq, Repr

/-- The lining's view while a bundle runs: its registers, the faulting context, the bundle's address, and a free choice
for a guard on a condition register, which the lining does not have (log 23). -/
structure LnEnv where
  ln : SMap Word
  hw : Nat
  at_ : Nat
  free : Bool

def LnEnv.r (e : LnEnv) (n : Nat) : Word := SMap.getD e.ln n 0
def LnEnv.src (e : LnEnv) : Src → Word
  | .reg n => e.r n
  | .lit v => litS v
/-- A guard: c0 reads true. -/
def LnEnv.guard (e : LnEnv) (g : Nat) : Bool := xor (decide (g / 2 = 0) || e.free) (decide (g % 2 = 1))

/-- A register field of the lining names ln0 to ln15. -/
def lnReg (n : Nat) : Bool := decide (n < 16)
def lnSrc : Src → Bool
  | .reg n => lnReg n
  | .lit _ => true

def lnR (e : LnEnv) (o : NR) (f : Word → Word → Word) : LnEff :=
  if lnReg o.d && lnReg o.a && lnSrc o.b then (if e.guard o.g then .reg o.d (f (e.r o.a) (e.src o.b)) else .none) else .trap
def lnU (e : LnEnv) (o : N2) (f : Word → Word) : LnEff :=
  if lnReg o.d && lnReg o.a then (if e.guard o.g then .reg o.d (f (e.r o.a)) else .none) else .trap
def lnI (e : LnEnv) (o : NI) (imm : Imm → Word) (f : Word → Word → Word) : LnEff :=
  if lnReg o.d && lnReg o.a then (if e.guard o.g then .reg o.d (f (e.r o.a) (imm o.b)) else .none) else .trap

/-- A load or store of the lining: a physical HBM address below 768 GiB, aligned (R119, R301). -/
def lnMem (e : LnEnv) (o : NI) (size : Nat) (f : Nat → LnEff) : LnEff :=
  if !(lnReg o.d && lnReg o.a) then .trap
  else if !e.guard o.g then .none
  else
    let a := (e.r o.a + immS o.b).toNat
    if a % size ≠ 0 ∨ Config.hbmBytes ≤ a then .trap else f a

def lnLoad (e : LnEnv) (hbm : Memory) (o : NI) (size : Nat) (ext : Nat → Word) : LnEff :=
  lnMem e o size (fun a => .reg o.d (ext (hbm.readN a size)))
def lnStore (e : LnEnv) (o : NI) (size : Nat) : LnEff := lnMem e o size (fun a => .store a size (e.r o.d).toNat)
def lnBr (e : LnEnv) (o : NBr) (t : Int → Bool) : LnEff :=
  .branch (t (e.r o.r).toInt) (((e.at_ : Int) + 4 * o.disp) % (2 ^ 32 : Nat)).toNat

/-- The meaning of a syllable in the lining (R301). -/
def lnRun (s : State) (e : LnEnv) : Instr → LnEff
  | .add o => lnR e o (fun a b => a + b)
  | .sub o => lnR e o (fun a b => a - b)
  | .and o => lnR e o (fun a b => a &&& b)
  | .or o => lnR e o (fun a b => a ||| b)
  | .xor o => lnR e o (fun a b => a ^^^ b)
  | .addsh o sh => lnR e o (fun a b => a + (b <<< sh))
  | .mov o => lnU e o (fun a => a)
  | .addi o => lnI e o immS (fun a b => a + b)
  | .li o => if lnReg o.d then (if e.guard o.g then .reg o.d (immS o.b) else .none) else .trap
  | .andi o => lnI e o immS (fun a b => a &&& b)
  | .ori o => lnI e o immZ (fun a b => a ||| b)
  | .xori o => lnI e o immZ (fun a b => a ^^^ b)
  | .slti o => lnI e o immS (fun a b => bool64 (decide (a.toInt < b.toInt)))
  | .shl o => lnR e o shlW
  | .shr o => lnR e o shrW
  | .sra o => lnR e o sraW
  | .shli o => lnI e o immS shlW
  | .shri o => lnI e o immS shrW
  | .srai o => lnI e o immS sraW
  | .clz o => lnU e o clzW
  | .popc o => lnU e o popcW
  | .mul o => lnR e o (fun a b => a * b)
  | .mulh o => lnR e o mulhW
  | .mulhs o => lnR e o mulhsW
  | .div o => lnR e o divW
  | .divs o => lnR e o divsW
  | .rem o => lnR e o remW
  | .rems o => lnR e o remsW
  | .min o => lnR e o (fun a b => if a.toNat < b.toNat then a else b)
  | .max o => lnR e o (fun a b => if a.toNat < b.toNat then b else a)
  | .mins o => lnR e o (fun a b => if a.toInt < b.toInt then a else b)
  | .maxs o => lnR e o (fun a b => if a.toInt < b.toInt then b else a)
  | .slt o => lnR e o (fun a b => bool64 (decide (a.toNat < b.toNat)))
  | .slts o => lnR e o (fun a b => bool64 (decide (a.toInt < b.toInt)))
  | .seq o => lnR e o (fun a b => bool64 (a == b))
  | .bfx o =>
    if lnReg o.d && lnReg o.a then (if e.guard o.g then .reg o.d (bfxW (e.r o.a) o.pos o.len) else .none) else .trap
  | .bfi o =>
    if lnReg o.d && lnReg o.a then
      (if e.guard o.g then .reg o.d (bfiW (e.r o.d) (e.r o.a) o.pos o.len) else .none)
    else .trap
  | .mfc o => if lnReg o.r then (if e.guard o.g then .reg o.r (s.ctlRead e.hw o.num) else .none) else .trap
  | .ldb o => lnLoad e s.mem.hbm o 1 zext
  | .ldbs o => lnLoad e s.mem.hbm o 1 (sextW 8)
  | .ldh o => lnLoad e s.mem.hbm o 2 zext
  | .ldhs o => lnLoad e s.mem.hbm o 2 (sextW 16)
  | .ldw o => lnLoad e s.mem.hbm o 4 zext
  | .ldws o => lnLoad e s.mem.hbm o 4 (sextW 32)
  | .ldd o => lnLoad e s.mem.hbm o 8 zext
  | .stb o => lnStore e o 1
  | .sth o => lnStore e o 2
  | .stw o => lnStore e o 4
  | .std o => lnStore e o 8
  | .brEqz o => lnBr e o (fun v => decide (v = 0))
  | .brNez o => lnBr e o (fun v => decide (v ≠ 0))
  | .brLtz o => lnBr e o (fun v => decide (v < 0))
  | .brGez o => lnBr e o (fun v => decide (0 ≤ v))
  | .brGtz o => lnBr e o (fun v => decide (0 < v))
  | .brLez o => lnBr e o (fun v => decide (v ≤ 0))
  | .jmp o => .branch true (((e.at_ : Int) + 4 * o.disp) % (2 ^ 32 : Nat)).toNat
  | .eret => .eret
  | .time o => if lnReg o.n then (if e.guard o.g then .reg o.n (BitVec.ofNat 64 s.ns) else .none) else .trap
  | _ => .trap

/-! ## A bundle of the lining -/

/-- What a bundle of the lining comes to: its register writes and stores, where the next one lies, whether it returned, and how many
loads and stores of HBM it makes; or a trap condition, a fetch beyond the store among them (R302). -/
structure LnBundle where
  effs : List LnEff
  next : Nat
  ret : Bool
  mem : Nat
  deriving DecidableEq, Repr

/-- A word of the lining store. -/
def State.lnWord (s : State) (core a : Nat) : Nat := s.mem.lining.readN (core * 4096 + a) 4

/-- The lining's slots, their syllables' offsets and literals, and the bundle's length. -/
def lnLayout (hdr : Nat) : List (Nat × Nat × Nat) × Nat := layout hdr false

/-- No two syllables write one register (R29). -/
def lnClash (effs : List (Instr × LnEff)) : Bool :=
  let ds := effs.filterMap (fun x => match x.2 with
    | .reg d _ => some d
    | _ => none)
  ds.any (fun d => decide (1 < (ds.filter (fun e => decide (e = d))).length))

/-- A load or store of the lining. -/
def lnAccess : Instr → Bool
  | .ldb _ | .ldbs _ | .ldh _ | .ldhs _ | .ldw _ | .ldws _ | .ldd _ | .stb _ | .sth _ | .stw _ | .std _ => true
  | _ => false

/-- The bundle at the lining's address, none for a trap condition. -/
def State.lnBundle (s : State) (core hw : Nat) : Option LnBundle :=
  let l := (s.auxOf core).lining
  if 4096 < l.pc + 4 then none
  else
    let hdr := s.lnWord core l.pc
    let lay := lnLayout hdr
    let used := [3, 4, 5, 6, 7, 8].any (fun k => hasSlot hdr k)
    if used ∨ hdrRep hdr ≠ 0 ∨ fld hdr 0 10 ≠ 0 ∨ (fld hdr 11 1 = 1 ∧ !hasSlot hdr 1) ∨ (fld hdr 10 1 = 1 ∧ !hasSlot hdr 2) ∨
        4096 < l.pc + lay.2 then none
    else
      let e : LnEnv := ⟨l.ln, hw, l.pc, Config.freeBit s.draw⟩
      let effs := lay.1.map (fun x =>
        let w := s.lnWord core (l.pc + x.2.1)
        let lit := if x.2.2 = 0 then none else some (s.lnWord core (l.pc + x.2.1 + 4))
        match decodeSyllable (slotOf x.1) w lit with
        | .ok i => (i, lnRun s e i)
        | .error _ => (.idleXy, .trap))
      if effs.any (fun x => decide (x.2 = .trap)) || lnClash effs then none
      else
        let target := effs.findSome? (fun x => match x.2 with
          | .branch true t => some t
          | _ => none)
        some ⟨effs.map (fun x => x.2), target.getD (l.pc + lay.2), effs.any (fun x => decide (x.2 = .eret)),
          (effs.filter (fun x => lnAccess x.1 && decide (x.2 ≠ .none))).length⟩

/-- The effects of a bundle that serves a context, stores in template order; its accesses are HBM traffic (R346). -/
def State.lnCommit (s0 : State) (core hw : Nat) (b : LnBundle) : State :=
  let s := s0.charge (seatOf hw) 12 b.mem
  let regs := b.effs.foldl (fun ln f => match f with
    | .reg d v => SMap.put ln d v
    | _ => ln) (s.auxOf core).lining.ln
  let hbm := b.effs.foldl (fun m f => match f with
    | .store a n v => m.writeN a v n
    | _ => m) s.mem.hbm
  ({ s with mem := { s.mem with hbm := hbm }, draw := s.draw + 1 }).modAux core (fun x =>
    { x with lining := { x.lining with ln := regs, pc := b.next } })

/-! ## Running and ending (R300 to R302) -/

/-- The key of a request. -/
def Hold.key : Hold → List Nat
  | .fault hw eng asid va w _ _ => [hw, eng, asid, va, w.toNat]
  | _ => []

/-- What tells a request from a later one of the same address (R302): its command, the copy's place in its nest, the image's product,
the segment's launch, or the schedule counter at which its context waits for it. -/
def State.reqMark (s : State) (hw : Nat) (q : Req) : List Nat :=
  let at_ := (s.ctx hw).run.sched
  match q with
  | .cmd id => [0, id]
  | .slot n =>
    let x := s.slot (clusterOf hw) n
    1 :: n :: ((x.act.map (fun a => a.2)).getD 0) :: x.idx
  | .image => 2 :: ((s.imageJob hw).map (fun j => [j.slot, j.prod, j.grp, j.next])).getD []
  | .seg k => [3, k, (((s.core (coreOf hw)).segs[k]?).map (fun g => g.launch)).getD 0]
  | .preload => [4, at_]
  | .resume => [5, at_]
  | .save => [6, at_]
  | .restore => [7, at_]
  | .eret => [8, at_]

/-- The request that a hold stands for, to count its runs in succession. -/
def State.holdMark (s : State) (h : Hold) : List Nat :=
  match h with
  | .fault hw eng _ va w _ _ => h.key ++ ((s.findStopped hw eng va w).map (fun q => s.reqMark hw q.req)).getD []
  | _ => []

/-- A hold leaves its core. -/
def State.dropHold (s : State) (core : Nat) (h : Hold) : State :=
  s.modCore core (fun k => { k with holds := dropFirst (fun x => decide (x = h)) k.holds })

/-- The lining stops, and the writes to its store that were held are made (R351). -/
def State.lnStop (s : State) (core : Nat) : State :=
  let w := (s.auxOf core).lining.writes
  ({ s with mem := { s.mem with lining := s.mem.lining.putAll w } }).modAux core (fun x =>
    { x with lining := { x.lining with run := false, writes := [] } })

/-- A fault escalates: the hold ends, and the request meets a major fault with TCAUSE.esc (R302). -/
def State.escalate (s : State) (core : Nat) (h : Hold) (code : Nat) : State :=
  match h with
  | .fault hw eng _ va w _ _ =>
    let s1 := ((s.lnStop core).modAux core (fun x => { x with lining := { x.lining with times := 0, last := [] } })).dropHold core h
    match s.findStopped hw eng va w with
    | some q => s1.failReq hw q code
    | none => s1
  | _ => s

/-- The entry registers of R301. -/
def lnEntry (h : Hold) (old : SMap Word) : SMap Word :=
  match h with
  | .fault hw eng asid va w level pte =>
    let info := level % 8 + w.toNat * 8 + eng % 16 * 16 + hw % 4 * 256
    SMap.put (SMap.put (SMap.put (SMap.put (SMap.put old 0 0) 1 (BitVec.ofNat 64 va)) 2 (BitVec.ofNat 64 asid)) 3
      (BitVec.ofNat 64 pte)) 4 (BitVec.ofNat 64 info)
  | _ => old

/-- LINING_RUN: the lining starts for the first fault of its core, or runs its next bundle. A request that reaches it a
fifth time in succession escalates instead. A bundle that ends the run is LINING_END's. -/
def State.liningRun (s : State) (core : Nat) : State :=
  match (s.core core).firstFault with
  | none => s
  | some h =>
    let l := (s.auxOf core).lining
    if !l.run then
      let m := s.holdMark h
      let n := if l.last = m then l.times + 1 else 1
      if 5 ≤ n then s.escalate core h 7
      else s.modAux core (fun x => { x with lining := ⟨lnEntry h l.ln, 0, true, n, m, l.writes⟩ })
    else
      match s.lnBundle core (h.key.headD 0) with
      | some b => if b.ret then s else s.lnCommit core (h.key.headD 0) b
      | none => s

def execLiningRun (core : Nat) (s : State) : Out := .next (s.liningRun core)

/-- The faulting request walks again: a leaf or a failure ends the hold, a refill leaf leaves it (R302). -/
def State.rewalk (s : State) (core : Nat) (h : Hold) : State :=
  match h with
  | .fault hw eng asid va w _ _ =>
    match s.findStopped hw eng va w with
    | none => s.dropHold core h
    | some q => (s.modCore core (fun k => { k with holds := k.holds.map (fun x =>
        if x = h then .fault hw eng asid va w q.level q.entry else x) })).chargeWalk (some hw) asid va
  | _ => s

/-- LINING_END: the bundle with ERET, or one that raises a trap condition. -/
def State.liningEnd (s : State) (core : Nat) : State :=
  match (s.core core).firstFault with
  | none => s
  | some h =>
    if !(s.auxOf core).lining.run then s
    else
      match s.lnBundle core (h.key.headD 0) with
      | none => s.escalate core h 8
      | some b =>
        if !b.ret then s
        else
          let s1 := s.lnCommit core (h.key.headD 0) b
          let v := SMap.getD (s1.auxOf core).lining.ln 0 0
          if v = 0 then (s1.lnStop core).rewalk core h
          else s1.escalate core h (if v = 7 then 7 else 8)

def execLiningEnd (core : Nat) (s : State) : Out := .next (s.liningEnd core)

/-! ## Streams (R183, R331) -/

/-- Of commands in the order of their issue, some CPGO will feed the stream port: its slot is bound, by then, and neither it nor a
command before it at its target waits for a token of `dead`, a token that the held core keeps from completing. -/
def feeds (dead : Nat → Bool) : List Nat → List CmdOp → List Cmd → Bool
  | _, _, [] => false
  | bound, behind, c :: r =>
    if (List.range 8).any (fun t => decide (fld c.cons t 1 = 1) && dead t) || behind.any (fun o => sameTarget o c.op) then
      feeds (fun t => dead t || decide (t = c.prod)) bound (c.op :: behind) r
    else
      match c.op with
      | .cpgo n => bound.contains n || feeds dead bound behind r
      | .cpstrm n => feeds dead [n] behind r
      | .cpstrmOff n => feeds dead (bound.filter (fun x => decide (x ≠ n))) behind r
      | _ => feeds dead bound behind r

/-- A CPGO that the context has issued for its stream port is yet to start: its target has yet to take it, or it waits for tokens.
One that waits for a token of a streaming product in flight is none, since the product cannot end (R183, log 95). -/
def State.streamToCome (s : State) (hw : Nat) : Bool :=
  let e := (s.ctx hw).eng
  let toks := ((s.core (coreOf hw)).prods.filter (fun p => decide (p.hw = hw) && !p.orphan)).map (fun p => p.spec.tok)
  feeds (fun t => toks.contains t) e.bound.toList [] (e.work.filter (fun c => !c.op.isQ && !c.started) ++ e.cG)

/-- The major fault that a product meets whose slice is missing: one that a slot of the stream holds, or ACCV where there is no
stream to wait for (log 48). -/
def State.streamFault (s : State) (hw : Nat) : Option (Async × Option Nat) :=
  let cl := clusterOf hw
  match (s.faultSlots hw).findSome? (fun x => x.2.ferr.head?.map (fun f => (x, f))) with
  | some (x, f) => some (⟨f.code, BitVec.ofNat 64 f.addr, x.2.handle, 6, f.level, 15, true, f.esc⟩, some x.1)
  | none =>
    let streams := (s.cluster cl).slots.any (fun x =>
      decide (x.2.owner = hw) && x.2.strm && (x.2.act.isSome || x.2.wait.isSome))
    if streams || s.streamToCome hw then none
    else
      let handle := match (s.ctx hw).eng.bound with
        | some n => (s.slot cl n).handle
        | none => 0
      some (⟨8, Config.openAddr hw, handle, 6, 15, 15, true, false⟩, none)

/-- The trap of an asynchronous fault. -/
def Async.trapInfo (a : Async) : TrapInfo := ⟨a.code, a.addr, a.detail, a.engine, a.level, a.slot, true, a.major, a.esc⟩

/-- STREAM_FAULT_DELIVER: in the array cycle at which a slice is missing, each context whose stream has failed takes the trap;
in trap mode the fault stays pending (R290). -/
def State.streamDeliver (s : State) (core : Nat) : State :=
  let t : Int := (s.core core).arr
  (((s.sliceMissing core t).map (fun p => p.hw)).dedup).foldl (fun s hw =>
    match s.streamFault hw with
    | none => s
    | some (a, n) =>
      let s1 := match n with
        | some k => s.modSlot (clusterOf hw) k (fun q => { q with ferr := q.ferr.tail })
        | none => s
      if (s1.ctx hw).run.trap then s1.raiseOnce hw a
      else s1.trapWith hw a.trapInfo (s1.ctx hw).frame.pos) s

def execStreamFaultDeliver (core : Nat) (s : State) : Out := .next (s.streamDeliver core)

end Sys2Proof.Machine
end

