-- ==== Sys2Proof/Machine/Launch.lean ====
section
/-!
DEFINITION. LAUNCH (R213, R281 to R283): the start of contexts and queues, and the completion of a kernel.
-/

namespace Sys2Proof.Machine

/-! ## The start (R282, R283) -/

/-- A context as a launch starts it; every zone is the whole array of the module's shape (R168, R171). -/
def MapCtx.start (m : MapCtx) (sh : Mod) (old : Ctx) (launch asid size args : Nat) : Ctx :=
  let c := Ctx.reset
  { c with
    regs := { c.regs with s := (List.range 8).foldl (fun r k => SMap.put r (48 + k) (BitVec.ofNat 64 (fld args (64 * k) 64))) [] }
    ctl := { c.ctl with
      tvec := BitVec.ofNat 64 m.tvec
      hembound := BitVec.ofNat 64 m.hembound
      seambase := BitVec.ofNat 64 m.seambase
      asid := BitVec.ofNat 64 asid
      team := BitVec.ofNat 64 (m.team + 256 * size) }
    fmt := { c.fmt with z := if sh.rows = 64 ∧ sh.cols = 64 then [] else (List.range 8).map (fun n => (n, ⟨0, 0, sh.rows, sh.cols⟩)) }
    frame := { c.frame with pos := m.entry }
    run := { c.run with st := .ready, launch := some launch, priv := decide (128 ≤ m.ctx) }
    eng := { c.eng with handles := m.handles, tiles := m.tiles, links := m.links, ownQ := m.owns }
    energy := old.energy
    dbg := old.dbg }

/-- The members of a team in a map. -/
def PlaceMap.size (m : PlaceMap) (c : MapCtx) : Nat :=
  (m.ctxs.filter (fun x => decide (x.cl = c.cl) && decide (x.team = c.team))).length

/-- The segments of the table reach IMEM with the bytes that have been read for them. -/
def State.loadSegs (s : State) (launch asid : Nat) (gs : List (MapSeg × List Byte)) : State :=
  gs.foldl (fun s x =>
    let s1 := s.modCore x.1.core (fun k => { k with segs := k.segs ++ [x.1.seg launch asid] })
    if x.1.load then s1.imemWrite (x.1.core * Config.imemBytes + 4096 * x.1.ipage) x.2 else s1) s

/-- A context's commands and transfers have all completed. -/
def State.allDone (s : State) (hw : Nat) : Bool :=
  let e := (s.ctx hw).eng
  let k := s.core (coreOf hw)
  e.cG.isEmpty && e.qG.isEmpty && e.work.isEmpty && !(k.prods.any (fun p => decide (p.hw = hw))) &&
    !(k.xfers.any (fun x => decide (x.hw = hw))) && !(k.imgs.any (fun j => decide (j.hw = hw)))

/-- The number under which an ended context is kept whose place a later launch takes: its own plus a multiple of 2,048. -/
def State.asideNo (s : State) (hw : Nat) : Nat :=
  (((List.range (s.ctxs.length + 1)).map (fun k => hw + 2048 * (k + 1))).find? (fun n => (SMap.get? s.ctxs n).isNone)).getD hw

/-- Everything of context `a` that is to be found in a cluster, a core or the front goes under number `b`. -/
def Cluster.renumber (c : Cluster) (a b : Nat) : Cluster :=
  let r (x : Nat) : Nat := if x = a then b else x
  { c with
    slots := c.slots.map (fun x => (x.1, { x.2 with owner := r x.2.owner }))
    waits := c.waits.map (fun x => (x.1, { x.2 with hw := r x.2.hw }))
    nlq := c.nlq.map (fun x => (r x.1, x.2))
    nljob := c.nljob.map (fun j => { j with hw := r j.hw })
    tq := c.tq.map (fun x => (x.1, { x.2 with owner := r x.2.owner }))
    watch := c.watch.map (fun x => (x.1, { x.2 with armer := r x.2.armer })) }
def Core.renumber (k : Core) (a b : Nat) : Core :=
  let r (x : Nat) : Nat := if x = a then b else x
  { k with
    prods := k.prods.map (fun p => { p with hw := r p.hw })
    xfers := k.xfers.map (fun x => { x with hw := r x.hw })
    imgs := k.imgs.map (fun j => { j with hw := r j.hw })
    segs := k.segs.map (fun g => { g with by_ := g.by_.map r }) }
def Front.renumber (f : Front) (launch a b : Nat) : Front :=
  let r (x : Nat) : Nat := if x = a then b else x
  let w (l : List Window) : List Window := l.map (fun x => { x with hw := r x.hw })
  { f with
    launches := f.launches.map (fun l => if l.id = launch then { l with hws := l.hws.map r, ended := l.ended.map r } else l)
    baseQ := f.baseQ.map (fun x => (x.1, { x.2 with owner := r x.2.owner }))
    baseWaits := f.baseWaits.map (fun x => (x.1, { x.2 with hw := r x.2.hw }))
    links := f.links.map (fun x => (x.1, { x.2 with send := w x.2.send, recv := w x.2.recv })) }

/-- A context that has ended while its kernel still runs is set aside when a later launch takes its place: its commands complete and
its queues go on under another number, with its team and its address space, and its launch waits for them (R248, R249, R282, log 105). -/
def State.setAside (s : State) (hw : Nat) : State :=
  match (s.ctx hw).run.launch with
  | none => s
  | some id =>
    let n := s.asideNo hw
    let s1 := (s.modCl (clusterOf hw) (fun c => c.renumber hw n)).modCore (coreOf hw) (fun k => k.renumber hw n)
    { s1 with ctxs := SMap.put s1.ctxs n (s.ctx hw), front := s1.front.renumber id hw n }

/-- A context entry starts: the context, its slots, its queue. -/
def State.startCtx (s0 : State) (m : PlaceMap) (launch asid : Nat) (c : MapCtx) : State :=
  let s := s0.setAside c.hw
  let s1 := s.setCtx c.hw (c.start s.mod (s.ctx c.hw) launch asid (m.size c) m.args)
  c.handles.foldl (fun s h => s.setSlot c.cl h.2 { SeqSlot.fresh with owner := c.hw, handle := h.1 }) s1

/-- A queue entry is created, empty. -/
def State.startQueue (s : State) (m : PlaceMap) (launch : Nat) (q : MapQ) : State :=
  match m.ownerOf q with
  | none => s
  | some c => s.setTaskQ c.cl q.num ⟨c.hw, launch, q.cap, if q.num < 0x100 then q.f else 0, BitVec.ofNat 64 q.ring, [], 0, [], []⟩

/-- Watch entries `first` to `first + n - 1` of a cluster are free; their counts go on to the end of the window (R257). -/
def Cluster.clearWatch (c : Cluster) (first n : Nat) : Cluster :=
  { c with watch := c.watch.map (fun x =>
      if first ≤ x.1 ∧ x.1 < first + n then (x.1, ⟨0, 0, 0, 0, 0, 0, 0, 0, 0, none, x.2.count, none⟩) else x) }

/-- The kernel starts. -/
def State.launchStart (s : State) (q : Nat) (p : Pkt) (m : PlaceMap) (asid : Nat) : State :=
  let s1 := m.ctxs.foldl (fun s c => s.startCtx m p.id asid c) s
  let s2 := m.qs.foldl (fun s e => s.startQueue m p.id e) s1
  let s3 := m.clusters.foldl (fun s cl => s.modCl cl (fun c => c.clearWatch m.wfirst m.wcount)) s2
  let l : Launch := ⟨p.id, q, p.num, m.hws, [], m.tqs, m.wfirst, m.wcount, m.clusters, m.links, m.slots, m.tiles, m.cores, m.teams⟩
  { s3 with front := { s3.front with launches := s3.front.launches ++ [l] } }

/-- LAUNCH begins: as it has been prepared, or is prepared now, its segments are loaded and its contexts start; an error starts
nothing. -/
def State.launchEff (s : State) (q : Nat) (r : Option Prep) (p : Pkt) : State :=
  let asid := (s.queue q).asid
  let r1 := match r with
    | some x => if x.pkt = p.id then x else s.prepare q p
    | none => s.prepare q p
  match r1.map with
  | none => s.queueErr q r1.code p.num 0
  | some m =>
    if s.mapFree m p.id asid then ((s.loadSegs p.id asid (m.segs.zip r1.segs)).launchStart q p m asid).goesOn q p 0
    else s.queueErr q 5 p.num 0
def execLaunch (q ahead : Nat) (s : State) : Out := .next (s.begin_ q ahead 1 (fun t p => t.launchEff q (s.queue q).prep p))

/-! ## The end (R282) -/

/-- Every context of a launch has ended and every command has completed. -/
def State.launchOver (s : State) (l : Launch) : Bool :=
  l.hws.all (fun h => l.ended.contains h && (decide ((s.ctx h).run.launch ≠ some l.id) || s.allDone h)) &&
    l.slots.all (fun n => (s.slot (n / 96) (n % 96)).copies.isEmpty)

/-- The launch's queues, slots, watch entries, tiles and links are free, and its segments leave IMEM. -/
def State.launchFree (s : State) (l : Launch) : State :=
  let s1 := l.slots.foldl (fun s n => s.modCl (n / 96) (fun c => { c with slots := SMap.del c.slots (n % 96) })) s
  let s2 := l.tqs.foldl (fun s x =>
    if x.2 < 0x100 then s.modCl x.1 (fun c => { c with
      tq := SMap.del c.tq x.2
      waits := c.waits.filter (fun w => decide (w.1 ≠ x.2)) })
    else { s with front := { s.front with
      baseQ := SMap.del s.front.baseQ x.2
      baseWaits := s.front.baseWaits.filter (fun w => decide (w.1 ≠ x.2)) } }) s1
  let s3 := l.clusters.foldl (fun s cl => s.modCl cl (fun c => c.clearWatch l.wfirst l.wcount)) s2
  let s4 := l.cores.foldl (fun s c => s.modCore c (fun k => { k with segs := k.segs.filter (fun g => decide (g.launch ≠ l.id)) })) s3
  let s5 := l.hws.foldl (fun s h => s.modCtx h (fun c =>
    if c.run.launch = some l.id then { c with run := { c.run with launch := none } } else c)) s4
  { s5 with ctxs := s5.ctxs.filter (fun x => decide (x.1 < 2048) || !l.hws.contains x.1), front := { s5.front with launches := s5.front.launches.filter (fun x => decide (x.id ≠ l.id)) } }

/-- LAUNCH_COMPLETE of launch number `n`. -/
def State.launchDone (s : State) (n : Nat) : State :=
  match s.front.launches.find? (fun l => decide (l.id = n)) with
  | none => s
  | some l => if s.launchOver l then (s.launchFree l).pktDone l.queue l.id 0 else s

def execLaunchComplete (n : Nat) (s : State) : Out := .next (s.launchDone n)

end Sys2Proof.Machine
end

