-- ==== Sys2Proof/Machine/SaveImage.lean ====
section
/-!
DEFINITION. Saving a context and restoring it (R76, R158, R211, R252, R253, R304 to R306, R322): the save image, resume records,
pre-emption, budget overrun, and the dispatch of a record.
-/

namespace Sys2Proof.Machine

/-! ## The image's fields (R305, R306) -/

/-- A frame: position, rep, branch state, stop-group set, latches. An idle latch is zeros, and byte 24 of another says whether it has a
literal or an extension (log 108). -/
def Frame.fields (f : Frame) (o : Nat) : List (Nat × Nat × Nat) :=
  [(o, 4, f.pos), (o + 4, 1, f.rep), (o + 5, 1, f.br.st), (o + 6, 1, f.br.taken.toNat), (o + 7, 1, f.br.drain.toNat),
    (o + 8, 4, f.br.target), (o + 16, 107, f.group.toNat)] ++
  (List.range 8).flatMap (fun k =>
    match SMap.get? f.latches (k + 1) with
    | none => []
    | some l => [(o + 128 + 32 * k, 8, l.w), (o + 136 + 32 * k, 8, l.x.getD 0), (o + 144 + 32 * k, 8, l.n),
        (o + 152 + 32 * k, 1, l.x.isSome.toNat)])

/-- A pocket entry (R306). -/
def Pend.fields (p : Pend) (o : Nat) : List (Nat × Nat × Nat) :=
  let k : Nat × Nat := match p.dest with
    | .s n => (1, n)
    | .c n => (2, n)
    | .v n => (3, n)
    | .p n => (4, n)
    | .fmt => (5, 0)
  [(o, 2, k.1), (o + 2, 2, k.2), (o + 4, 4, p.land), (o + 8, 4, p.bundle), (o + 12, 1, p.flags.toNat), (o + 16, 64, p.mask.toNat),
    (o + 96, 512, p.val.toNat)]

/-- The record that stands for "no current record" in an image (log 12): kind 0xFF. -/
def noRecord : Nat := emptyRec

/-- The image of a context (R305) at array cycle `arr`, but for its bias images and the hardware's sections. -/
def Ctx.imageOf (c : Ctx) (hw arr : Nat) : Memory :=
  let cut := decide (c.run.cuts ≠ 0)
  let pocket := c.pocketVals
  let fl := c.imageFlgs arr
  fieldBytes (
    [(0, 4, 1), (4, 4, c.run.trap.toNat + 2 * cut.toNat), (8, 8, c.run.sched), (16, 8, c.run.h), (24, 4, c.run.slackRem),
      (28, 4, c.run.slack), (32, 4, c.fmt.fmt.toNat), (36, 4, c.fmt.flg.toNat), (40, 8, c.fmt.spAddr.toNat),
      (48, 1, c.fmt.spSet.toNat), (49, 1, pocket.length), (50, 1, (c.async ++ c.soon).length), (52, 2, fl.length), (56, 8, c.ctl.tcause.toNat),
      (64, 8, c.ctl.tbundle.toNat), (72, 8, c.ctl.tcycle.toNat), (80, 8, c.ctl.taddr.toNat), (88, 8, c.ctl.tinfo.toNat),
      (96, 8, c.ctl.tvec.toNat), (104, 8, c.ctl.hembound.toNat), (112, 8, c.ctl.seambase.toNat), (120, 8, c.ctl.asid.toNat)] ++
    c.frame.fields 0x100 ++ (if c.run.trap then c.tframe.fields 0x300 else []) ++
    (List.range 64).map (fun n => (0x500 + 8 * n, 8, if n = 0 then 0 else (SMap.getD c.regs.s n 0).toNat)) ++
    (List.range 6).map (fun n => (0x700 + 8 * n, 8, (SMap.getD c.bank (56 + n) 0).toNat)) ++
    (List.range 8).map (fun n =>
      let z := c.zone n
      (0x740 + 8 * n, 8, z.row0 + z.col0 * 2 ^ 8 + z.rows * 2 ^ 16 + z.cols * 2 ^ 24)) ++
    [(0x780, 1, c.regs.c.toNat)] ++ (List.range 8).map (fun n => (0x788 + 4 * n, 4, c.token n)) ++
    (List.range 16).map (fun n => (0x800 + 64 * n, 64, (c.preg n).toNat)) ++
    (List.range 128).map (fun n => (0xC00 + 4 * n, 4, (c.lfsr hw n).toNat)) ++
    [(0xE00, 8, c.run.sched), (0xE08, 8, c.perf.stall), (0xE10, 8, c.perf.wait), (0xE18, 8, c.perf.cand), (0xE20, 8, c.perf.prim),
      (0xE40, 64, c.run.curRec.getD noRecord)] ++
    (List.range pocket.length).flatMap (fun k => match pocket[k]? with
      | some p => p.fields (0x1000 + 640 * k)
      | none => []) ++
    (List.range c.eng.dataQ.length).map (fun k => (0xB000 + 512 * k, 512, ((c.eng.dataQ[k]?).map (fun e => e.data.toNat)).getD 0)) ++
    (List.range fl.length).flatMap (fun k => match fl[k]? with
      | some f => [(0x27800 + 8 * k, 4, f.1), (0x27804 + 8 * k, 1, f.2.toNat)]
      | none => []) ++
    c.regs.v.map (fun x => (0x30000 + 512 * x.1, 512, x.2.toNat)))

/-- Sparse memory as `n` bytes from address `a`. -/
def denseBytes : Nat → Nat → Memory → List Byte
  | 0, _, _ => []
  | n + 1, a, m =>
    match m with
    | [] => blank :: denseBytes n (a + 1) []
    | (i, b) :: r => if i = a then b :: denseBytes n (a + 1) r else blank :: denseBytes n (a + 1) ((i, b) :: r)

/-- An offset lies in a section that only hardware writes and reads: commands, sequencer slots, stream buffer (R305). -/
def hiddenAt (k : Nat) : Bool :=
  (decide (0xD000 ≤ k) && decide (k < 0x27800)) || (decide (0x28000 ≤ k) && decide (k < 0x2B000))

/-- A byte of those sections: the key of what hardware keeps beside the image, and free bytes (log 12). -/
def hiddenByteAt (key k : Nat) : Byte :=
  if k < 0xD008 then byteOf (key % 2 ^ 64) (k - 0xD000) else Config.hiddenByte key k

/-- The bytes of an image with the hardware's sections. -/
def veil (key : Nat) (bs : List Byte) : List Byte :=
  List.zipWith (fun k b => if hiddenAt k then hiddenByteAt key k else b) (List.range bs.length) bs

/-- The hardware's sections of an image stand as they were written. -/
def unchanged (key : Nat) (m : Memory) : Bool :=
  (List.range 0x2B000).all (fun k => !hiddenAt k || decide (m.read k = hiddenByteAt key k))

/-! ## Slots by handle -/

/-- The slot of an operation renamed; none where the new slot does not exist. -/
def CmdOp.mapSlot (f : Nat → Option Nat) : CmdOp → Option CmdOp
  | .cplvl n l c a b => (f n).map (fun m => .cplvl m l c a b)
  | .cpbase n a b x y l => (f n).map (fun m => .cpbase m a b x y l)
  | .cpgo n => (f n).map .cpgo
  | .cpstrm n => (f n).map .cpstrm
  | .cpstrmOff n => (f n).map .cpstrmOff
  | .cpcan n => (f n).map .cpcan
  | .cpstat n a => (f n).map (fun m => .cpstat m a)
  | op => some op

def mapCmds (f : Nat → Option Nat) (l : List Cmd) : List Cmd :=
  l.filterMap (fun c => (c.op.mapSlot f).map (fun op => { c with op := op }))

/-- The handle of a slot. -/
def Ctx.handleOf (c : Ctx) (n : Nat) : Option Nat := (c.eng.handles.find? (fun x => decide (x.2 = n))).map (fun x => x.1)

/-! ## Saving (R76, R158, R304) -/

/-- A save starts: products with steps left are cut, but not those of a routine's save; a misaligned SEAMBASE refuses it. -/
def State.saveStart (s : State) (hw : Nat) (push : Bool) : State :=
  let c := s.ctx hw
  let base := c.ctl.seambase
  if base.toNat % 65536 ≠ 0 then s.saveFail hw 8 base.toNat 0 15
  else
    let s1 := (((s.modCtx hw (fun c => { c with run := { c.run with
      st := .waiting
      stage := .save push
      earliest := s.mod.cycles + 2 } })).leavePrimary hw).dropResume hw).leaveBars hw
    if c.run.trap then s1
    else
      let (grp, s2) := s1.fresh
      let s3 := s2.cutProducts hw false false 2 (base + 0x90000#64) 0 grp
      if (s3.core (coreOf hw)).imgs.any (fun j => decide (j.hw = hw) && decide (j.grp = grp)) then
        (s3.emptyJobs hw 2 (base + 0x90000#64) 0 grp).modCtx hw (fun c => { c with run := { c.run with cuts := 3 } })
      else s3

/-- A command that a save leaves as it is; others that an engine has taken complete first (R158). An SACC or SFOP that cannot begin
before the context runs again is a request not yet performed: what holds it back is a fault to be delivered, an entry that only a pop
frees, or a push that waits for room. -/
def State.keepsCmd (s : State) (hw : Nat) (c : Cmd) : Bool :=
  let stuck := !c.begun && (c.held || ((s.ctx hw).qBefore c.id).any (fun b => s.holdsBack hw b))
  match c.op with
  | .sacc .. => stuck
  | .sfop .. => c.performed || stuck || (!c.begun && !(s.ctx hw).reserved c.id)
  | .tlbinv .. => false
  | .nlbin _ | .nlpos _ | .nlstat _ => !c.begun
  | op => !op.isLink

/-- A command as a save keeps it: an unperformed gather reads memory after the resume, and what a request has translated is translated
anew (R158). -/
def Cmd.saved (c : Cmd) : Cmd :=
  match c.op with
  | .gpush .. => if c.performed then { c with places := [] } else { c with started := false, res := none, aux := [], places := [] }
  | _ => { c with places := [] }

/-- Nothing of a context's that a save waits for is under way (log 66). -/
def State.saveReady (s : State) (hw : Nat) : Bool :=
  let k := s.core (coreOf hw)
  !(k.imgs.any (fun j => decide (j.hw = hw) && !k.stoppedJob j)) && !(k.prods.any (fun p => decide (p.hw = hw) && !p.orphan)) &&
    !(k.xfers.any (fun x => decide (x.hw = hw) && !x.orphan)) && (s.ctx hw).finished k.arr && (s.ctx hw).eng.work.all (fun c => s.keepsCmd hw c) &&
    (s.cluster (clusterOf hw)).slots.all (fun x => decide (x.2.owner ≠ hw) || x.2.copies.isEmpty)

/-- What hardware keeps of a context. -/
def State.hide (s : State) (hw : Nat) : Hidden :=
  let c := s.ctx hw
  let e := c.eng
  let f := c.handleOf
  ⟨hw, mapCmds f e.cG, e.qG, mapCmds f (e.work.map Cmd.saved), e.addrQ,
    ((s.cluster (clusterOf hw)).slots.filter (fun x => decide (x.2.owner = hw))).foldl (fun m x => SMap.put m x.2.handle x.2) [],
    e.stream, e.bound.bind f, c.async ++ c.soon,
    c.pocketVals.map (fun p => if p.acs.isSome then p.tok + 1 else 0), e.dataQ,
    (c.frame.drainWait, c.tframe.drainWait), (c.fmt.flgNow, c.tframe.flgNow), c.run.released, c.run.pre, c.run.barPass,
    c.run.cuts, c.run.cutBase, c.pocketVals.map (fun p => p.kept),
    if c.run.trap then (c.pend.val.map (freezeVal c.run.sched), c.pend.flg.map (freezeFlg c.run.sched)) else ([], []), e.hostLinks,
    (s.core (coreOf hw)).imgs.filter (fun j => decide (j.hw = hw))⟩

/-- A context after its save: its slots and queues are free, and nothing of it is pending. -/
def State.saveClear (s : State) (hw : Nat) : State :=
  let cl := clusterOf hw
  let s1 := s.modCtx hw (fun c => { c with
    pend := Pending.none
    async := []
    soon := []
    fmt := { c.fmt with tok := [], flgNow := 0 }
    eng := { c.eng with addrQ := [], dataQ := [], cG := [], qG := [], work := [], stream := [], bound := none, hostLinks := [] }
    ckpt := none
    run := { c.run with trap := false, cuts := 0, pre := none, barPass := false, curRec := none, released := false } })
  let s2 := (s1.dropAsks hw).modCore (coreOf hw) (fun k => { k with imgs := k.imgs.filter (fun j => decide (j.hw ≠ hw)) })
  s2.modCl cl (fun k => { k with
    slots := k.slots.map (fun x => if x.2.owner = hw then (x.1, { SeqSlot.fresh with owner := hw, handle := x.2.handle }) else x)
    nlq := k.nlq.filter (fun q => decide (q.1 ≠ hw)) })

/-- The queue that receives a resume record (R253): the context's own, else the one that its task came from. -/
def Ctx.resumeQueue (c : Ctx) : Option Nat :=
  match c.eng.ownQ with
  | some q => some q
  | none => c.run.tookFrom

/-- A resume record (R253), with the budget of the task (log 127). -/
def Ctx.resumeRec (c : Ctx) (qn cl : Nat) : Nat :=
  let d := c.run.curRec.getD noRecord
  setField (setField (setField (setField (setField (setField (setField (setField 0 0 4 (recEntry d)) 4 1 2) 5 1 (recRscope d)) 8 4
    (recCounter d)) 16 2 qn) 18 1 (if c.run.curRec.isSome then recCcl d else cl)) 12 4 (recBudget d)) 40 8 c.ctl.seambase.toNat

/-- A save ends: the resume record is pushed where one follows, the image is written, and the context is inactive, or searches
for its next record. A misaligned SEAMBASE refuses it (R304). -/
def State.saveEnd (s : State) (hw : Nat) (push : Bool) : State :=
  if (s.ctx hw).ctl.seambase.toNat % 65536 ≠ 0 then s.saveFail hw 8 (s.ctx hw).ctl.seambase.toNat 0 15
  else if !s.saveReady hw then s
  else
    let c := s.ctx hw
    let cl := clusterOf hw
    let base := c.ctl.seambase.toNat
    match s.translate cl engImage c.ctl.asid.toNat true (pageFuel imageBytes) base imageBytes with
    | .error (.refill _ _ _) => s
    | .error (.major va code l) => s.saveFail hw code va 0 l
    | .ok ps =>
      let (key, s1) := s.fresh
      let pushed : QRes State := if push then
          match c.resumeQueue with
          | some qn =>
            let (id, s2) := s1.fresh
            match s2.pushOldest cl qn ⟨id, c.resumeRec qn cl⟩ with
            | .ok s3 => .ok (s3.chargeRing s2 cl qn hw)
            | r => r
          | none => .ok s1
        else .ok s1
      match pushed with
      | .empty => s
      | .fault va code l => s.saveFail hw code va 10 l
      | .ok s2 =>
        let s3 := ((s2.rememberAll (some hw) cl engImage c.ctl.asid.toNat (pageFuel imageBytes) base imageBytes).writeMute ps
          (veil key (denseBytes imageBytes 0 (c.imageOf hw (s.core (coreOf hw)).arr)))).chargePieces hw ps
        let s4 := { s3 with front := { s3.front with hidden := SMap.put s3.front.hidden key ((s.sentHost hw ps).hide hw) } }.modArmed
          (fun w => decide (w.armer = hw) && w.saved.isNone) (fun w => { w with saved := some key })
        (s4.saveClear hw).modCtx hw (fun c => { c with run := { c.run with
          st := if push then .waiting else .inactive
          stage := if push then .search else .none } })

/-! ## Restoring (R304, R305, R322) -/

/-- A frame from an image: a latch whose syllable is zeros is idle (log 108). -/
def frameAt (m : Memory) (o : Nat) (drainWait : Bool) (flgNow : Flags) : Frame :=
  let rd (k n : Nat) : Nat := m.readN (o + k) n
  ⟨rd 0 4, rd 4 1 % 32, ⟨rd 5 1, decide (rd 6 1 ≠ 0), decide (rd 7 1 ≠ 0), rd 8 4⟩,
    (List.range 8).filterMap (fun k =>
      if rd (128 + 32 * k) 8 = 0 then none
      else some (k + 1, ⟨rd (128 + 32 * k) 8, if rd (152 + 32 * k) 1 = 1 then some (rd (136 + 32 * k) 8) else none,
        rd (144 + 32 * k) 8⟩)),
    BitVec.ofNat 856 (rd 16 107), drainWait, flgNow⟩

/-- A pocket entry from an image, with its token and the bits that it keeps. -/
def pendAt (m : Memory) (o tok : Nat) (kept : VReg) : Pend :=
  let rd (k n : Nat) : Nat := m.readN (o + k) n
  let n := rd 2 2
  ⟨match rd 0 2 with
    | 1 => .s n
    | 2 => .c n
    | 3 => .v n
    | 4 => .p n
    | _ => .fmt,
    BitVec.ofNat 512 (rd 16 64), BitVec.ofNat 4096 (rd 96 512), BitVec.ofNat 6 (rd 12 1), rd 4 4, 0, rd 8 4,
    if tok = 0 then none else some (0, 0), tok - 1, kept⟩

/-- What a context resumes with where the hardware sections of its image have been changed: unspecified (R305). -/
opaque freeHidden : Nat → Hidden

/-- The context could have issued a command itself: an unspecified one never affects another context (R305). -/
def State.mayIssue (s : State) (hw : Nat) (c : Cmd) : Bool :=
  match c.op with
  | .lksend l .. => ((s.ctx hw).linkChk l true).isNone
  | .lkrecv l .. => ((s.ctx hw).linkChk l false).isNone
  | .lkred l _ _ _ out _ _ _ => ((s.ctx hw).linkChk l false).isNone && ((s.ctx hw).linkChk out true).isNone
  | .tlbinv .. => false
  | .spawn _ q => s.launchQueue hw q
  | .take q _ => s.mayTake hw q
  | .watch .. => false
  | .unwatch _ => false
  | _ => true

/-- The kept record that an image names, its hardware sections being as they were written. -/
def State.hiddenOf (s : State) (m : Memory) : Option Hidden :=
  let key := m.readN 0xD000 8
  if unchanged key m then SMap.get? s.front.hidden key else none

/-- What the image's hardware sections give: the kept record, else an unspecified one. -/
def State.unhide (s : State) (hw : Nat) (m : Memory) : Hidden × Bool :=
  match s.hiddenOf m with
  | some h => (h, true)
  | none =>
    let h := freeHidden s.draw
    let ok (c : Cmd) : Bool := s.mayIssue hw c
    ({ h with cG := h.cG.filter ok, qG := h.qG.filter ok, work := h.work.filter ok, slots := [], kept := [], own := ([], []), jobs := [] }, false)

/-- The code that a field of FMT takes from an image word: a reserved code gives a code that the spec does not name (R52, log 110). -/
def fmtCodeOf (w k at_ : Nat) : Nat :=
  let v := fld w at_ 3
  if v ≤ 4 then v else Config.imageCode k v % 5

/-- FMT from an image word: reserved bits read zero (R7, R52). -/
def fmtOf (w : Nat) : BitVec 32 :=
  BitVec.ofNat 32 (fmtCodeOf w 0 0 + 2 ^ 5 * fmtCodeOf w 1 5 + 2 ^ 8 * fmtCodeOf w 2 8)

/-- Tokens, registers and frames of an image enter the taking context (R304), reserved bits of FMT, TCAUSE and TINFO as zero (R7, log
110): CTXID, TEAM and CAPBASE stay its own, and so do the asynchronous traps that it met while it waited in dispatch (R205). The budget count starts at 0 (log 86). -/
def Ctx.fromImage (c : Ctx) (m : Memory) (h : Hidden) (a2 : Word) : Ctx :=
  let rd (o n : Nat) : Nat := m.readN o n
  let w (o : Nat) : Word := BitVec.ofNat 64 (rd o 8)
  let trap := decide (rd 4 4 % 2 = 1)
  let cut := decide (rd 4 4 / 2 % 2 = 1)
  let cur := rd 0xE40 64
  { c with
    regs := ⟨(List.range 63).map (fun n => (n + 1, w (0x508 + 8 * n))), BitVec.ofNat 8 (rd 0x780 1) ||| 1#8,
      (List.range 768).map (fun n => (n, BitVec.ofNat 4096 (rd (0x30000 + 512 * n) 512))),
      (List.range 15).map (fun n => (n + 1, BitVec.ofNat 512 (rd (0x840 + 64 * n) 64))),
      (List.range 128).map (fun n => (n, BitVec.ofNat 32 (rd (0xC00 + 4 * n) 4)))⟩
    fmt := ⟨fmtOf (rd 32 4), BitVec.ofNat 6 (rd 36 4), h.flgNow.1, decide (rd 48 1 ≠ 0), w 40,
      (List.range 8).map (fun n => (n, zoneOf (rd (0x740 + 8 * n) 8))), (List.range 8).map (fun n => (n, rd (0x788 + 4 * n) 4))⟩
    ctl := { c.ctl with
      tcause := w 56 &&& tcauseBits
      tbundle := w 64
      tcycle := w 72
      taddr := w 80
      tinfo := w 88 &&& tinfoBits
      tvec := w 96
      hembound := w 104
      seambase := w 112
      asid := BitVec.ofNat 64 (rd 120 8 % 2 ^ 14) }
    frame := frameAt m 0x100 h.waits.1 0
    tframe := if trap then frameAt m 0x300 h.waits.2 h.flgNow.2 else Frame.reset
    bank := (List.range 6).map (fun n => (56 + n, w (0x700 + 8 * n)))
    pend := ⟨h.own.1, h.own.2,
      (List.range (rd 49 1)).map (fun k => pendAt m (0x1000 + 640 * k) (h.toks.getD k 0) (h.kept.getD k 0)),
      (List.range (rd 52 2)).map (fun k => ⟨BitVec.ofNat 6 (rd (0x27804 + 8 * k) 1), rd (0x27800 + 8 * k) 4, 0, 0, true⟩)⟩
    async := h.async ++ c.async
    perf := ⟨rd 0xE08 8, rd 0xE10 8, rd 0xE18 8, rd 0xE20 8⟩
    run := { c.run with
      st := .ready
      stage := .none
      sched := rd 8 8
      h := rd 16 8
      slackRem := rd 24 4
      slack := rd 28 4
      phase := 1
      window := 0
      trap := trap
      curRec := if cur = noRecord then none else some cur
      released := h.released
      ran := 0
      cuts := if trap && cut then h.cuts else 0
      cutBase := if h.cutBase = w 112 + 0x90000#64 then a2 + 0x90000#64 else h.cutBase
      barPass := h.barPass
      pre := h.pre }
    eng := { c.eng with
      addrQ := h.addrQ
      dataQ := (List.range h.marks.length).filterMap (fun k =>
        (h.marks[k]?).map (fun e => { e with data := BitVec.ofNat 4096 (rd (0xB000 + 512 * k) 512) }))
      stream := h.stream
      hostLinks := h.hostLinks } }

/-- A resumed context's results land at their remaining cycles: a routine's own, or the program's, whose pocket is released (R298). -/
def Ctx.release (c : Ctx) : Ctx :=
  let n := c.run.sched
  let own := c.pend.val.map (thawVal n)
  let ownF := c.pend.flg.map (thawFlg n)
  if c.run.trap then { c with pend := { c.pend with val := own, flg := ownF } }
  else { c with pend := ⟨own ++ c.pend.frozenVal.map (thawVal n), ownF ++ c.pend.frozenFlg.map (thawFlg n), [], []⟩ }

/-- Commands and slots return to the taking context, into the slots that its placement map binds (R76). A nest whose handle the map does
not bind is dropped with its commands, whose tokens then stay (log 109). -/
def State.putHidden (s : State) (hw : Nat) (h : Hidden) : State :=
  let cl := clusterOf hw
  let f (n : Nat) : Option Nat := SMap.get? (s.ctx hw).eng.handles n
  let s1 := s.modCtx hw (fun c => { c with eng := { c.eng with
    cG := mapCmds f h.cG
    qG := h.qG
    work := mapCmds f h.work
    bound := h.bound.bind f } })
  let s2 := h.slots.foldl (fun s x => match f x.1 with
    | some n => s.setSlot cl n { x.2 with owner := hw, handle := x.1 }
    | none => s) s1
  let ren (w : Nat × PushWait) : Nat × PushWait :=
    if w.2.hw = h.hw ∧ h.work.any (fun c => decide (c.id = w.2.cmd)) then (w.1, { w.2 with hw := hw }) else w
  let s3 := (State.modCore { s2 with front := { s2.front with baseWaits := s2.front.baseWaits.map ren } } (coreOf hw)) (fun k => { k with
    imgs := k.imgs ++ h.jobs.map (fun j => { j with hw := hw }) })
  let s4 := s3.modCl cl (fun k => { k with
    waits := k.waits.map ren
    nlq := k.nlq ++ (h.work.filter (fun c => c.op.isNl && c.started)).map (fun c => (hw, c.id)) })
  let left (c : Cmd) : Bool := match c.op with
    | .spawn _ q => c.started && !((s4.waitsOn cl q).any (fun w => decide (w.hw = hw) && decide (w.cmd = c.id)))
    | _ => false
  (h.work.filter left).foldl (fun s c => s.cmdDone hw c.id) s4

/-- The return from the trap that meets a restored context before its first bundle resumes its products (R322). -/
def State.againCuts (s : State) (hw : Nat) (base : Word) : State :=
  s.modCtx hw (fun c => { c with run := { c.run with cuts := 3, cutBase := base } })

/-- A resume record restores the image at a2 into the taking context. -/
def State.restore (s : State) (hw d : Nat) : State :=
  let c := s.ctx hw
  let cl := clusterOf hw
  let a2 : Word := BitVec.ofNat 64 (recA2 d)
  let bad (s : State) (code va level : Nat) : State :=
    (s.modCtx hw (fun c => { c with run := { c.run with st := .ready, stage := .none } })).raise hw
      ⟨code, BitVec.ofNat 64 va, 0, 0, level, 15, true, false⟩
  match s.translate cl engImage c.ctl.asid.toNat false (pageFuel imageBytes) a2.toNat imageBytes with
  | .error (.refill _ _ _) => s
  | .error (.major va code l) => bad s code va l
  | .ok ps =>
    let m := memOfBytes (s.readPieces ps)
    if m.readN 0 4 ≠ 1 then bad s 8 a2.toNat 15
    else
      let (h, known) := s.unhide hw m
      let c1 := (c.fromImage m h a2).release
      let s1 := (((s.setCtx hw c1).putHidden hw h).rememberAll (some hw) cl engImage c.ctl.asid.toNat (pageFuel imageBytes) a2.toNat imageBytes).chargePieces hw ps
      let s2 := if known then
          s1.modArmed (fun w => decide (w.saved = some (m.readN 0xD000 8))) (fun w => { w with armer := hw, saved := none })
        else { s1 with draw := s1.draw + 1 }
      if c1.run.trap || decide (m.readN 4 4 / 2 % 2 = 0) then s2
      else
        let k := s2.core (coreOf hw)
        match s2.restorePlan hw (a2 + 0x90000#64) c1.run.sched (k.arr + (c1.run.earliest - s2.mod.cycles)) [0, 1] with
        | .bad a => (s2.againCuts hw (a2 + 0x90000#64)).takeTrap hw (syncTrap 15 a 15) c1.frame.pos
        | .walk (.refill _ _ _) => s
        | .walk e => (s2.againCuts hw (a2 + 0x90000#64)).restoreWalk hw 15 e
        | .prods l =>
          if s2.restoreFits (coreOf hw) k.arr l then (s2.chargeSlots hw (a2 + 0x90000#64) [0, 1]).restoreProds hw k.arr l else s

/-! ## Dispatch (R252) -/

/-- What a context does with the record that it has taken: kind 2 resumes, kind 3 ends, others start (log 62). -/
def State.startRec (s : State) (hw d : Nat) : State :=
  if recKind d = 2 then s.restore hw d
  else if recKind d = 3 then s.endContext hw
  else s.dispatchTask hw d

/-- DISPATCH: a save that ends, a search that finds a record, or the start of a record taken. -/
def State.dispatch (s : State) (hw : Nat) : State :=
  match (s.ctx hw).run.stage with
  | .save push => s.saveEnd hw push
  | .search =>
    let s1 := s.searchTake hw
    match (s1.ctx hw).run.stage with
    | .got d => s1.startRec hw d
    | _ => s1
  | .got d => s.startRec hw d
  | _ => s

def execDispatch (hw : Nat) (s : State) : Out := .next (s.dispatch hw)

/-! ## Hem points (R211, R212) -/

/-- A context that is about to issue, or is blocked or waiting on, its bundle's first repetition, with its branch state free
and nothing of it in flight but products (R211, log 68). -/
def State.calm (s : State) (hw : Nat) : Bool :=
  let c := s.ctx hw
  let idle := match c.run.st with
    | .inactive => false
    | .waiting => decide (c.run.stage = .wfe)
    | _ => true
  idle && !c.run.trap && decide (c.frame.rep = 0) && decide (c.frame.br.st = 0) && c.pend.val.isEmpty &&
    c.pend.flg.all (fun f => f.prod) && !((s.core (coreOf hw)).xfers.any (fun x => decide (x.hw = hw) && !x.orphan))

/-- The bundle that a context is about to issue, or is blocked or waiting on, is a hem point. -/
def State.atHem (s : State) (hw : Nat) : Bool :=
  s.calm hw && (match s.headAt hw (s.ctx hw).frame.pos with
    | .ok hdr => hdrHem hdr
    | _ => false)

/-- The bundle holds YIELD: the scheduler may pre-empt there as at a hem point (R264). -/
def State.atYield (s : State) (hw : Nat) : Bool :=
  s.calm hw && (match s.bundleAt hw (s.ctx hw).frame.pos with
    | .ok b => b.syls.any (fun x => decide (x.1 = 9) && (match decodeSyllable .f x.2.1 x.2.2 with
      | .ok (.yield _) => true
      | .ok (.yieldNw _) => true
      | _ => false))
    | _ => false)

/-- The core's clock runs. -/
def State.free (s : State) (core : Nat) : Bool := (s.core core).holds.isEmpty && !s.walkHeld core

/-- PREEMPTION: at a hem point, or at a YIELD as at one, the scheduler saves the context; a save under way ends. -/
def State.preempt (s : State) (hw : Nat) : State :=
  if (s.ctx hw).run.stage = .save false then s.saveEnd hw false
  else if !s.free (coreOf hw) then s
  else if s.atHem hw then
    ((s.modCtx hw (fun c => { c with run := { c.run with h := c.run.sched } })).saveStart hw false).switchNext s hw
  else if s.atYield hw then (s.saveStart hw false).switchNext s hw
  else s

def execPreemption (hw : Nat) (s : State) : Out := .next (s.preempt hw)

/-- The task has run more schedule cycles than its budget; 0 sets none (R247, R253). -/
def Ctx.budgetSpent (c : Ctx) : Bool :=
  match c.run.curRec with
  | none => false
  | some d => decide (recBudget d ≠ 0) && decide (recBudget d < c.run.ran)

/-- BUDGET_OVERRUN: at a hem point the task is saved, and a resume record follows. -/
def State.budget (s : State) (hw : Nat) : State :=
  if (s.ctx hw).run.stage = .save true then s.saveEnd hw true
  else if s.free (coreOf hw) && s.atHem hw && (s.ctx hw).budgetSpent then
    (s.modCtx hw (fun c => { c with run := { c.run with h := c.run.sched } })).saveStart hw true
  else s

def execBudgetOverrun (hw : Nat) (s : State) : Out := .next ((s.budget hw).switchNext s hw)

/-- The context has passed HEMBOUND schedule cycles without a hem point (R212). -/
def Ctx.hemLate (c : Ctx) : Bool :=
  !c.run.trap && decide (c.ctl.hembound ≠ 0) && decide (c.run.h + c.ctl.hembound.toNat + 1 ≤ c.run.sched)

/-- HEMOVR in place of the bundle that would issue or stall; a hem point at that cycle is taken instead. -/
def State.hemTrap (s : State) (hw : Nat) : State :=
  let c := s.ctx hw
  if c.run.st = .ready ∧ c.hemLate ∧ !s.atHem hw then s.takeTrap hw (syncTrap 14 0 15) c.frame.pos else s

def execHemovr (hw : Nat) (s : State) : Out := .next (s.hemTrap hw)

end Sys2Proof.Machine
end

