-- ==== Sys2Proof/Machine/Syllables.lean ====
section
/-!
DEFINITION. What the issue logic knows of a syllable: its meaning, the registers that it reads and writes (R29, R30, R113, R128,
R151, R196, R216), its form at a re-issue (R12, R26), its lines of the core port (R90), the place of its wait (R373).
-/

namespace Sys2Proof.Machine

/-! ## Meaning -/

/-- The meaning of a syllable, the same that `exec` gives it; an event is no syllable. -/
def runSyllable (i : Instr) (s : State) : Out :=
  match i with
  | .brEqz o => execBrEqz o s
  | .brNez o => execBrNez o s
  | .brLtz o => execBrLtz o s
  | .brGez o => execBrGez o s
  | .brGtz o => execBrGtz o s
  | .brLez o => execBrLez o s
  | .brc o => execBrc o s
  | .brpAll o => execBrpAll o s
  | .brpNone o => execBrpNone o s
  | .jmp o => execJmp o s
  | .call o => execCall o s
  | .loopb o => execLoopb o s
  | .jmpi o => execJmpi o s
  | .calli o => execCalli o s
  | .ret o => execRet o s
  | .svc o => execSvc o s
  | .brk o => execBrk o s
  | .eret => execEret s
  | .add o => execAdd o s
  | .sub o => execSub o s
  | .and o => execAnd o s
  | .or o => execOr o s
  | .xor o => execXor o s
  | .addsh o sh => execAddsh o sh s
  | .mov o => execMov o s
  | .addi o => execAddi o s
  | .li o => execLi o s
  | .andi o => execAndi o s
  | .ori o => execOri o s
  | .xori o => execXori o s
  | .slti o => execSlti o s
  | .shl o => execShl o s
  | .shr o => execShr o s
  | .sra o => execSra o s
  | .shli o => execShli o s
  | .shri o => execShri o s
  | .srai o => execSrai o s
  | .clz o => execClz o s
  | .popc o => execPopc o s
  | .mul o => execMul o s
  | .mulh o => execMulh o s
  | .mulhs o => execMulhs o s
  | .div o => execDiv o s
  | .divs o => execDivs o s
  | .rem o => execRem o s
  | .rems o => execRems o s
  | .min o => execMin o s
  | .max o => execMax o s
  | .mins o => execMins o s
  | .maxs o => execMaxs o s
  | .slt o => execSlt o s
  | .slts o => execSlts o s
  | .seq o => execSeq o s
  | .sel o c neg => execSel o c neg s
  | .cmpc o cc => execCmpc o cc s
  | .bfx o => execBfx o s
  | .bfi o => execBfi o s
  | .mfc o => execMfc o s
  | .mtc o => execMtc o s
  | .ldb o => execLdb o s
  | .ldbs o => execLdbs o s
  | .ldh o => execLdh o s
  | .ldhs o => execLdhs o s
  | .ldw o => execLdw o s
  | .ldws o => execLdws o s
  | .ldd o => execLdd o s
  | .stb o => execStb o s
  | .sth o => execSth o s
  | .stw o => execStw o s
  | .std o => execStd o s
  | .idleXy => execIdleXy s
  | .vadd o sat => execVadd o sat s
  | .vsub o sat => execVsub o sat s
  | .vmul o => execVmul o s
  | .vmulh o => execVmulh o s
  | .vmac o => execVmac o s
  | .vmacs o => execVmacs o s
  | .vabs o sat => execVabs o sat s
  | .vneg o sat => execVneg o sat s
  | .vmin o => execVmin o s
  | .vmax o => execVmax o s
  | .vsat o n => execVsat o n s
  | .vnrw o sh sat rnd => execVnrw o sh sat rnd s
  | .vwid o => execVwid o s
  | .vand o => execVand o s
  | .vor o => execVor o s
  | .vxor o => execVxor o s
  | .vnot o => execVnot o s
  | .vshl o b => execVshl o b s
  | .vshr o b => execVshr o b s
  | .vsra o b => execVsra o b s
  | .vcmp o cc => execVcmp o cc s
  | .vsel o c => execVsel o c s
  | .vfadd o => execVfadd o s
  | .vfsub o => execVfsub o s
  | .vfmul o => execVfmul o s
  | .vfma o c => execVfma o c s
  | .vfms o c => execVfms o c s
  | .vfmin o => execVfmin o s
  | .vfmax o => execVfmax o s
  | .vfcmp o cc => execVfcmp o cc s
  | .vfcls o => execVfcls o s
  | .vcvt o u hi => execVcvt o u hi s
  | .vrcp o => execVrcp o s
  | .vrsq o => execVrsq o s
  | .vexp o => execVexp o s
  | .vlog o => execVlog o s
  | .vtanh o => execVtanh o s
  | .vqnt o c q => execVqnt o c q s
  | .vdqnt o c q => execVdqnt o c q s
  | .vred o op => execVred o op s
  | .vperm o => execVperm o s
  | .vsld o sh => execVsld o sh s
  | .vbcstScalar o => execVbcstScalar o s
  | .vbcstElement o idx => execVbcstElement o idx s
  | .vins o idx => execVins o idx s
  | .vext o idx => execVext o idx s
  | .vmov o => execVmov o s
  | .viota o => execViota o s
  | .pand o => execPand o s
  | .por o => execPor o s
  | .pxor o => execPxor o s
  | .pnot o => execPnot o s
  | .pset o => execPset o s
  | .pcnt o => execPcnt o s
  | .idleVw => execIdleVw s
  | .vld o => execVld o s
  | .vst o => execVst o s
  | .vlds o => execVlds o s
  | .vsts o => execVsts o s
  | .vldb o => execVldb o s
  | .vldx o => execVldx o s
  | .vstx o => execVstx o s
  | .pld o => execPld o s
  | .pst o => execPst o s
  | .fill o => execFill o s
  | .idleL => execIdleL s
  | .mmul o => execMmul o s
  | .macc o => execMacc o s
  | .mmuls o sel => execMmuls o sel s
  | .maccs o sel => execMaccs o sel s
  | .mstrm o => execMstrm o s
  | .mzero o => execMzero o s
  | .mrdv o => execMrdv o s
  | .mwrv o => execMwrv o s
  | .mrds o => execMrds o s
  | .mwrs o => execMwrs o s
  | .mseam o => execMseam o s
  | .mresume o => execMresume o s
  | .idleM => execIdleM s
  | .cplvl o => execCplvl o s
  | .cpbase o => execCpbase o s
  | .cpgo o => execCpgo o s
  | .cpstrm o => execCpstrm o s
  | .cpstrmOff o => execCpstrmOff o s
  | .cpcan o => execCpcan o s
  | .cpstat o => execCpstat o s
  | .lksend o => execLksend o s
  | .lkrecv o => execLkrecv o s
  | .lkred o => execLkred o s
  | .lktime o => execLktime o s
  | .tlbinv o => execTlbinv o s
  | .idleC => execIdleC s
  | .gpush o => execGpush o s
  | .gpop o => execGpop o s
  | .sacc o => execSacc o s
  | .sfop o => execSfop o s
  | .nlbin o => execNlbin o s
  | .nlpos o => execNlpos o s
  | .nlreq o => execNlreq o s
  | .nlpop o => execNlpop o s
  | .nlstat o => execNlstat o s
  | .spawn o => execSpawn o s
  | .take o => execTake o s
  | .watch o => execWatch o s
  | .unwatch o => execUnwatch o s
  | .idleQ => execIdleQ s
  | .setfmtImm o => execSetfmtImm o s
  | .setfmtReg o => execSetfmtReg o s
  | .waitt o => execWaitt o s
  | .slack o => execSlack o s
  | .drain o => execDrain o s
  | .bar o => execBar o s
  | .yield g => execYield g s
  | .yieldNw g => execYieldNw g s
  | .tdone g => execTdone g s
  | .ovl o => execOvl o s
  | .zset o => execZset o s
  | .time o => execTime o s
  | .perf o => execPerf o s
  | .getflg o => execGetflg o s
  | .clrflg o => execClrflg o s
  | .spflag o keep => execSpflag o keep s
  | .wfe o => execWfe o s
  | .halt g => execHalt g s
  | .keyld o => execKeyld o s
  | .keyldClr o => execKeyldClr o s
  | _ => .next s

/-! ## Registers (R29, R30) -/

/-- Register keys in the order of the stop-group set (R305): s0, c0, v0 and p0 lie at 0, 64, 72 and 840. -/
def cKey (n : Nat) : Nat := 64 + n
def vKey (n : Nat) : Nat := 72 + n
def pKey (n : Nat) : Nat := 840 + n
/-- Guards of the N and W formats as registers read. -/
def gN (g : Nat) : Nat := cKey (g / 2)
def gW (g : Nat) : Nat := pKey (g / 2)
def srcReads : Src → List Nat
  | .reg n => [n]
  | .lit _ => []
def amtReads : Amt → List Nat
  | .reg n => [vKey n]
  | .imm _ => []

/-- Reads and writes of the shapes. -/
abbrev Uses := List Nat × List Nat
def usesNR (o : NR) : Uses := ([gN o.g, o.a] ++ srcReads o.b, [o.d])
def usesN2 (o : N2) : Uses := ([gN o.g, o.a], [o.d])
def usesNI (o : NI) : Uses := ([gN o.g, o.a], [o.d])
def usesSt (o : NI) : Uses := ([gN o.g, o.a, o.d], [])
def usesV3 (o : V3) : Uses := ([gW o.g, vKey o.a, vKey o.b], [vKey o.d])
def usesV2 (o : V2) : Uses := ([gW o.g, vKey o.a], [vKey o.d])
def usesCmp (o : V3) : Uses := ([gW o.g, vKey o.a, vKey o.b], [pKey o.d])
def usesP (o : VP) : Uses := ([gW o.g, pKey o.a, pKey o.b], [pKey o.d])
def usesLd (o : LD) : Uses := ([gW o.g, o.base], [vKey o.v])
def usesLs (o : LD) : Uses := ([gW o.g, o.base, vKey o.v], [])
def usesMM (o : MM) : Uses := ([o.a, o.b, o.k], [])

/-- The registers that a syllable reads, its guard among them, and those that it writes. -/
def usesOf : Instr → Uses
  | .brEqz o | .brNez o | .brLtz o | .brGez o | .brGtz o | .brLez o => ([o.r], [])
  | .brc o => ([cKey o.c], [])
  | .brpAll o | .brpNone o => ([pKey o.r], [])
  | .call o => ([gN o.g], [62])
  | .loopb o => ([o.r], [o.r])
  | .jmpi o => ([gN o.g, o.a], [])
  | .calli o => ([gN o.g, o.a], [62])
  | .ret o => ([gN o.g, 62], [])
  | .svc o | .brk o => ([gN o.g], [])
  | .add o | .sub o | .and o | .or o | .xor o | .shl o | .shr o | .sra o | .mul o | .mulh o | .mulhs o | .div o | .divs o
  | .rem o | .rems o | .min o | .max o | .mins o | .maxs o | .slt o | .slts o | .seq o => usesNR o
  | .addsh o _ => usesNR o
  | .sel o c _ => (cKey c :: (usesNR o).1, [o.d])
  | .cmpc o _ => ((usesNR o).1, [cKey o.d])
  | .mov o | .clz o | .popc o => usesN2 o
  | .addi o | .andi o | .ori o | .xori o | .slti o | .shli o | .shri o | .srai o | .ldb o | .ldbs o | .ldh o | .ldhs o
  | .ldw o | .ldws o | .ldd o => usesNI o
  | .li o => ([gN o.g], [o.d])
  | .bfx o => ([gN o.g, o.a], [o.d])
  | .bfi o => ([gN o.g, o.a, o.d], [o.d])
  | .mfc o => ([gN o.g], [o.r])
  | .mtc o => ([gN o.g, o.r], [])
  | .stb o | .sth o | .stw o | .std o => usesSt o
  | .vadd o _ | .vsub o _ => usesV3 o
  | .vmul o | .vmulh o | .vmin o | .vmax o | .vand o | .vor o | .vxor o | .vfadd o | .vfsub o | .vfmul o | .vfmin o
  | .vfmax o | .vperm o => usesV3 o
  | .vsld o _ => usesV3 o
  | .vmac o | .vmacs o => (vKey o.d :: (usesV3 o).1, [vKey o.d])
  | .vabs o _ | .vneg o _ => usesV2 o
  | .vsat o _ => usesV2 o
  | .vnot o | .vfcls o | .vrcp o | .vrsq o | .vexp o | .vlog o | .vtanh o | .vmov o => usesV2 o
  | .vcvt o _ _ => usesV2 o
  | .vred o _ => usesV2 o
  | .vbcstElement o _ => usesV2 o
  | .vnrw o _ _ _ => ([gW o.g, vKey o.a, vKey (o.a + 1)], [vKey o.d])
  | .vwid o => ([gW o.g, vKey o.a], [vKey o.d, vKey (o.d + 1)])
  | .vshl o b | .vshr o b | .vsra o b => ((usesV2 o).1 ++ amtReads b, [vKey o.d])
  | .vcmp o _ => usesCmp o
  | .vfcmp o _ => usesCmp o
  | .vsel o c => (pKey c :: (usesV3 o).1, [vKey o.d])
  | .vfma o c | .vfms o c => (vKey c :: (usesV3 o).1, [vKey o.d])
  | .vqnt o c _ => ([gW o.g, vKey o.a], [vKey o.d, vKey c])
  | .vdqnt o c _ => ([gW o.g, vKey o.a, vKey c], [vKey o.d])
  | .vbcstScalar o => ([gW o.g, o.a], [vKey o.d])
  | .vins o _ => ([gW o.g, o.a], [vKey o.d])
  | .vext o _ => ([gW o.g, vKey o.a], [o.d])
  | .viota o => ([gW o.g, pKey o.a], [vKey o.d])
  | .pand o | .por o | .pxor o => usesP o
  | .pnot o => ([gW o.g, pKey o.a], [pKey o.d])
  | .pset o => ([gW o.g, o.a], [pKey o.d])
  | .pcnt o => ([gW o.g, pKey o.a], [o.d])
  | .vld o | .vldb o => usesLd o
  | .vst o => usesLs o
  | .vlds o => ([gW o.g, o.base], [vKey o.v])
  | .vsts o => ([gW o.g, o.base, vKey o.v], [])
  | .vldx o => ([gW o.g, o.base, vKey o.vi], [vKey o.v])
  | .vstx o => ([gW o.g, o.base, vKey o.vi, vKey o.v], [])
  | .pld o => ([gW o.g, o.base], [pKey o.v])
  | .pst o => ([gW o.g, o.base, pKey o.v], [])
  | .fill o => ([gW o.g, o.base, o.sc], [])
  | .mmul o | .macc o => usesMM o
  | .mmuls o _ | .maccs o _ => usesMM o
  | .mstrm o => ([o.a, o.k], [])
  | .mrdv o => ([o.row], [vKey o.v])
  | .mwrv o => ([o.row, vKey o.v], [])
  | .mrds o | .mwrs o => ([o.addr], [])
  | .mseam o | .mresume o => ([o.a], [])
  | .cplvl o => ([o.cnt, o.ss, o.ds], [])
  | .cpbase o => ([o.src, o.dst, o.len], [])
  | .cpstat o => ([o.addr], [])
  | .lksend o | .lkrecv o => ([o.addr, o.len, o.tick], [])
  | .lkred o => ([o.addr, o.cnt, o.tick], [])
  | .lktime o => ([o.tick], [])
  | .tlbinv o => ([o.asid, o.start, o.len], [])
  | .gpush o => ([gN o.g, vKey o.vi, o.sb], [])
  | .gpop o => ([gN o.g], [vKey o.n])
  | .sacc o => ([gN o.g, vKey o.vx, vKey (o.vx + 1), o.sb], [])
  | .sfop o => ([gN o.g, o.sa, o.sv] ++ (if o.op = .cas then [o.sv + 1] else []), [])
  | .nlbin o | .nlstat o | .unwatch o => ([gN o.g, o.r], [])
  | .nlpos o => ([gN o.g, vKey o.r], [])
  | .nlreq o | .take o => ([gN o.g, o.r, o.t], [])
  | .nlpop o => ([gN o.g], [vKey o.n, o.m])
  | .spawn o => ([gN o.g, vKey o.r, o.t], [])
  | .watch o => ([gN o.g, vKey o.r, o.t] ++ (if o.t < 63 then [o.t + 1] else []), [])
  | .setfmtReg o => ([gN o.g, o.n], [])
  | .setfmtImm o | .waitt o | .slack o | .drain o | .ovl o | .clrflg o => ([gN o.g], [])
  | .bar o => ([gN o.g], [])
  | .yield g | .yieldNw g | .tdone g | .halt g => ([gN g], [])
  | .zset o => ([gN o.g, o.m], [])
  | .time o | .getflg o => ([gN o.g], [o.n])
  | .perf o => ([gN o.g], [o.n])
  | .spflag o _ => ([gN o.g], [o.n, o.n + 1])
  | .wfe o => ([gN o.g, o.st], [o.sd])
  | .keyld o => ([gN o.g, o.n, o.m], [])
  | .keyldClr o => ([gN o.g, o.n], [])
  | _ => ([], [])

/-- s0, c0 and p0 take no part in the checks: reads of them are constant, writes discarded (R29). -/
def counted (l : List Nat) : List Nat := l.filter (fun k => decide (k ≠ 0) && decide (k ≠ 64) && decide (k ≠ 840))
def readsOf (i : Instr) : List Nat := counted (usesOf i).1
def writesOf (i : Instr) : List Nat := counted (usesOf i).2

/-- What R29 lets only one slot of a bundle write: registers, and control registers, which lie at 1024 and above. -/
def claimsOf (i : Instr) : List Nat :=
  match i with
  | .mtc o => [1024 + o.num]
  | i => writesOf i

/-! ## Re-issue (R12, R26) -/

/-- The advance of a register field per re-issue. -/
def stepInc : Nat → Nat
  | 0 => 0
  | 1 => 1
  | 2 => 2
  | _ => 4
def advV3 (n : Nat) (o : V3) : V3 :=
  { o with d := o.d + n * stepInc o.step, a := o.a + n * stepInc o.step, b := o.b + n * stepInc o.step }
def advV2 (n : Nat) (o : V2) : V2 := { o with d := o.d + n * stepInc o.step, a := o.a + n * stepInc o.step }
def advVP (n : Nat) (o : VP) : VP :=
  { o with d := o.d + n * stepInc o.step, a := o.a + n * stepInc o.step, b := o.b + n * stepInc o.step }
def advAmt (k : Nat) : Amt → Amt
  | .reg r => .reg (r + k)
  | .imm v => .imm v

/-- A syllable at re-issue count `n`: every register field of a V or W syllable advances, and the tile of an M syllable;
nothing else does. It is well-formed unless a field has advanced past its file. -/
def advance (n : Nat) : Instr → Instr
  | .vadd o b => .vadd (advV3 n o) b
  | .vsub o b => .vsub (advV3 n o) b
  | .vmul o => .vmul (advV3 n o)
  | .vmulh o => .vmulh (advV3 n o)
  | .vmac o => .vmac (advV3 n o)
  | .vmacs o => .vmacs (advV3 n o)
  | .vabs o b => .vabs (advV2 n o) b
  | .vneg o b => .vneg (advV2 n o) b
  | .vmin o => .vmin (advV3 n o)
  | .vmax o => .vmax (advV3 n o)
  | .vsat o b => .vsat (advV2 n o) b
  | .vnrw o sh b r => .vnrw (advV2 n o) sh b r
  | .vwid o => .vwid (advV2 n o)
  | .vand o => .vand (advV3 n o)
  | .vor o => .vor (advV3 n o)
  | .vxor o => .vxor (advV3 n o)
  | .vnot o => .vnot (advV2 n o)
  | .vshl o b => .vshl (advV2 n o) (advAmt (n * stepInc o.step) b)
  | .vshr o b => .vshr (advV2 n o) (advAmt (n * stepInc o.step) b)
  | .vsra o b => .vsra (advV2 n o) (advAmt (n * stepInc o.step) b)
  | .vcmp o cc => .vcmp (advV3 n o) cc
  | .vsel o c => .vsel (advV3 n o) (c + n * stepInc o.step)
  | .vfadd o => .vfadd (advV3 n o)
  | .vfsub o => .vfsub (advV3 n o)
  | .vfmul o => .vfmul (advV3 n o)
  | .vfma o c => .vfma (advV3 n o) (c + n * stepInc o.step)
  | .vfms o c => .vfms (advV3 n o) (c + n * stepInc o.step)
  | .vfmin o => .vfmin (advV3 n o)
  | .vfmax o => .vfmax (advV3 n o)
  | .vfcmp o cc => .vfcmp (advV3 n o) cc
  | .vfcls o => .vfcls (advV2 n o)
  | .vcvt o u hi => .vcvt (advV2 n o) u hi
  | .vrcp o => .vrcp (advV2 n o)
  | .vrsq o => .vrsq (advV2 n o)
  | .vexp o => .vexp (advV2 n o)
  | .vlog o => .vlog (advV2 n o)
  | .vtanh o => .vtanh (advV2 n o)
  | .vqnt o c q => .vqnt (advV2 n o) (c + n * stepInc o.step) q
  | .vdqnt o c q => .vdqnt (advV2 n o) (c + n * stepInc o.step) q
  | .vred o op => .vred (advV2 n o) op
  | .vperm o => .vperm (advV3 n o)
  | .vsld o sh => .vsld (advV3 n o) sh
  | .vbcstScalar o => .vbcstScalar (advV2 n o)
  | .vbcstElement o k => .vbcstElement (advV2 n o) k
  | .vins o k => .vins (advV2 n o) k
  | .vext o k => .vext (advV2 n o) k
  | .vmov o => .vmov (advV2 n o)
  | .viota o => .viota (advV2 n o)
  | .pand o => .pand (advVP n o)
  | .por o => .por (advVP n o)
  | .pxor o => .pxor (advVP n o)
  | .pnot o => .pnot { o with d := o.d + n * stepInc o.step, a := o.a + n * stepInc o.step }
  | .pset o => .pset (advV2 n o)
  | .pcnt o => .pcnt (advV2 n o)
  | .mmul o => .mmul { o with tile := o.tile + n * stepInc o.step }
  | .macc o => .macc { o with tile := o.tile + n * stepInc o.step }
  | .mmuls o x => .mmuls { o with tile := o.tile + n * stepInc o.step } x
  | .maccs o x => .maccs { o with tile := o.tile + n * stepInc o.step } x
  | .mstrm o => .mstrm { o with tile := o.tile + n * stepInc o.step }
  | .mzero o => .mzero { o with tile := o.tile + n * stepInc o.step }
  | .mrdv o => .mrdv { o with tile := o.tile + n * stepInc o.step }
  | .mwrv o => .mwrv { o with tile := o.tile + n * stepInc o.step }
  | .mrds o => .mrds { o with tile := o.tile + n * stepInc o.step }
  | .mwrs o => .mwrs { o with tile := o.tile + n * stepInc o.step }
  | i => i

/-! ## Classes of syllables -/

/-- IDLE of a sticky slot (R10). -/
def isIdle : Instr → Bool
  | .idleXy | .idleVw | .idleL | .idleM | .idleC | .idleQ => true
  | _ => false

/-- A branch (R192). -/
def isBranch : Instr → Bool
  | .brEqz _ | .brNez _ | .brLtz _ | .brGez _ | .brGtz _ | .brLez _ | .brc _ | .brpAll _ | .brpNone _ | .jmp _ | .call _
  | .loopb _ | .jmpi _ | .calli _ | .ret _ => true
  | _ => false

/-- A YIELD (R264). -/
def isYield : Instr → Bool
  | .yield _ | .yieldNw _ => true
  | _ => false

/-- A privileged instruction (R36). -/
def isPriv : Instr → Bool
  | .eret | .mseam _ | .mresume _ | .tlbinv _ | .halt _ | .keyld _ | .keyldClr _ => true
  | .mtc o => ctlPriv o.num
  | _ => false

/-- An instruction that acts when its whole bundle has committed: the context then leaves the program (R201, R202, R252,
R309). -/
def isPost : Instr → Bool
  | .svc _ | .brk _ | .eret | .yield _ | .yieldNw _ | .halt _ => true
  | _ => false

/-- SPFLAG, which reads and clears before the accesses of its bundle record (R223). -/
def isFirst : Instr → Bool
  | .spflag _ _ => true
  | _ => false

/-- Stores and MTC, whose bundle reads what stood before them (R91, R120). -/
def isLate : Instr → Bool
  | .stb _ | .sth _ | .stw _ | .std _ | .vst _ | .vsts _ | .vstx _ | .pst _ | .fill _ | .mtc _ | .tdone _ => true
  | _ => false

/-- The value results that a pop would add (R149, R164): none when it is nullified. -/
def popResults (c : Ctx) : Instr → Nat
  | .gpop o => if c.guardN o.g then 1 else 0
  | .nlpop o => if c.guardN o.g then 2 else 0
  | _ => 0

/-- A pop from the data queue. -/
def isPop : Instr → Bool
  | .gpop _ | .nlpop _ => true
  | _ => false

/-- The place of a syllable's wait in the order of R373. -/
def waitRank : Instr → Nat
  | .gpop _ | .nlpop _ => 1
  | .waitt _ => 2
  | .mmul _ | .macc _ | .mmuls _ _ | .maccs _ _ | .mstrm _ | .mzero _ | .mrdv _ | .mwrv _ | .mrds _ | .mwrs _ | .mseam _ => 3
  | .drain _ => 4
  | .bar _ => 5
  | .tdone _ => 6
  | .yield _ | .yieldNw _ => 7
  | .halt _ => 8
  | .keyld _ | .keyldClr _ => 9
  | .mresume _ => 10
  | .eret => 11
  | .wfe _ => 13
  | _ => 0

/-- What a syllable asks for while its bundle waits, in every cycle (R373): a BAR arrives at its barrier, an MRESUME has its
slot read, a KEYLD sends its key to the controllers, a DRAIN or TDONE at scope sys reads on the PCIe links. -/
def State.asks (s : State) : Instr → State
  | .bar o => s.barAsk o
  | .mresume o => s.resumeAskIf o
  | .keyld o => s.keyldAsk o
  | .keyldClr o => s.keyldClrAsk o
  | .drain o => s.drainAskF o
  | .tdone g => s.tdoneAsk g
  | _ => s

/-! ## Lines of the core port (R88, R90) -/

/-- The lines that a syllable needs at re-issue count `n`. -/
def portLines (c : Ctx) (n : Nat) : Instr → List Nat
  | .ldb o | .ldbs o | .ldh o | .ldhs o | .ldw o | .ldws o | .ldd o | .stb o | .sth o | .stw o | .std o => c.scalarLines o
  | .vld o | .vst o => linesOfMoves (c.movesD o n)
  | .vlds o | .vsts o => linesOfMoves (c.movesS o n)
  | .vldb o => linesOfMoves (c.movesB o n)
  | .vldx o | .vstx o => linesOfMoves (c.movesX o)
  | .pld o | .pst o => linesOfMoves (c.movesP o n)
  | .fill o => linesOfMoves (c.movesF o n)
  | _ => []

end Sys2Proof.Machine
end

