-- ==== Sys2Proof/Machine/Issue.lean ====
section
/-!
DEFINITION. One attempt of a context to issue its bundle: what issues (R10, R20, R25), the decode faults in their order (R38),
the waits in their phases (R373), the issue checks (R294) and port conflicts (R90), and the commit (R28, R91, R192, R206).
-/

namespace Sys2Proof.Machine

/-! ## What issues -/

/-- The syllables that a bundle's issue performs, by slot, with their re-issue counts (R10, R20, R25). Nothing holds back a
sticky syllable whose result a program would not want (R204, log 123). -/
def Ctx.plan (c : Ctx) (b : Bundle) : List (Nat × Latch) :=
  (List.range 10).filterMap (fun k =>
    let here := SMap.get? b.syls k
    let fresh := here.map (fun x => (k, (⟨x.1, x.2, 0⟩ : Latch)))
    if k = 0 then fresh
    else if k = 9 then (if c.frame.rep = 0 then fresh else none)
    else
      match (if c.frame.rep = 0 then fresh else none) with
      | some x => some x
      | none => (SMap.get? c.frame.latches k).map (fun l => (k, { l with n := l.n + 1 })))

/-- The slots that a bundle needs (R208, log 67). -/
def slotsNeeded (b : Bundle) (plan : List (Nat × Latch)) : List Nat := b.syls.map (fun x => x.1) ++ plan.map (fun x => x.1)

/-- A syllable that issues: its slot, the instruction as advanced, its re-issue count. -/
structure Issue where
  slot : Nat
  i : Instr
  n : Nat
  deriving DecidableEq, Repr

/-! ## Decode faults (R38) -/

def decoded (k : Nat) (l : Latch) : Except DErr Instr := decodeSyllable (slotOf k) l.w l.x

/-- A V or W operation that reduced service does not offer (R37). -/
def reducedOp (k : Nat) (l : Latch) : Bool :=
  let op := fld l.w 56 8
  let ty := fld l.w 7 4
  (decide (k = 3) || decide (k = 4)) &&
    ((decide (0x30 ≤ op) && decide (op ≤ 0x34)) ||
      ((decide (op = 0x38) || decide (op = 0x39)) && (decide (ty = tyCode .mx6) || decide (ty = tyCode .mx4))))

def isIllop (full : Bool) (x : Nat × Latch) : Bool :=
  (!full && reducedOp x.1 x.2) ||
    match decoded x.1 x.2 with
    | .error .illop => true
    | _ => false

/-- ILLBND of a slot: its encoding, a B syllable in a repeated or delay bundle (R20, R194), a YIELD out of place (R264), a
register past its file (R12). -/
def isIllbnd (b : Bundle) (delay : Bool) (x : Nat × Latch) : Bool :=
  let rep := decide (hdrRep b.hdr ≠ 0)
  (decide (x.1 = 0) && (rep || delay)) ||
    match decoded x.1 x.2 with
    | .error .illbnd => true
    | .error .illop => false
    | .ok i => (isYield i && (rep || delay || hasSlot b.hdr 0)) || !(advance x.2.n i).wf

/-- The instructions of a plan that decodes. -/
def issuesOf (plan : List (Nat × Latch)) : List Issue :=
  plan.filterMap (fun x => match decoded x.1 x.2 with
    | .ok i => some ⟨x.1, advance x.2.n i, x.2.n⟩
    | .error _ => none)

/-- A syllable takes part in a conflict of R29 or R30. -/
def takesPart (group : BitVec 856) (xs : List Issue) (x : Issue) : Bool :=
  (readsOf x.i ++ writesOf x.i).any (fun k => group.getLsbD k) ||
    (claimsOf x.i).any (fun k => decide (1 < ((claimsOf x.i).filter (fun j => decide (j = k))).length) ||
      xs.any (fun y => decide (y.slot ≠ x.slot) && (claimsOf y.i).contains k))

/-- The first decode fault, as cause and slot, or the instructions that issue. -/
def State.decodeBundle (s : State) (hw : Nat) (b : Bundle) (plan : List (Nat × Latch)) : Except (Nat × Nat) (List Issue) :=
  let c := s.ctx hw
  if b.headerBad then .error (2, 15)
  else
    match plan.find? (isIllop s.mod.full) with
    | some x => .error (1, x.1)
    | none =>
      match plan.find? (isIllbnd b (decide (c.frame.br.st ≠ 0))) with
      | some x => .error (2, x.1)
      | none =>
        let xs := issuesOf plan
        match xs.find? (takesPart c.frame.group xs) with
        | some x => .error (2, x.slot)
        | none =>
          match (if c.privileged then none else xs.find? (fun x => isPriv x.i)) with
          | some x => .error (10, x.slot)
          | none => .ok xs

/-! ## Running a syllable of the bundle -/

/-- The cursor stands at a syllable of the bundle. -/
def State.seat (s : State) (hw : Nat) (b : Bundle) (rep : Nat) (cand go : Bool) (x : Issue) : State :=
  { s with cur := ⟨hw, x.slot, x.n, b.addr, rep, cand, s.cur.spSlot, .ran, go⟩ }

/-- The syllable runs. -/
def State.runAt (s : State) (hw : Nat) (b : Bundle) (rep : Nat) (cand go : Bool) (x : Issue) : State :=
  match runSyllable x.i (s.seat hw b rep cand go x) with
  | .next t => t
  | _ => s

/-- The turn of a context as candidate or as primary, which its trace records show (R342). -/
def State.asCand (s : State) (cand : Bool) : State := { s with cur := { Cursor.reset with cand := cand } }

/-- The cursor rests between bundles. -/
def State.unseat (s : State) : State := { s with cur := Cursor.reset }

/-! ## Waits (R373) -/

/-- The number of a slot's wait: its place in the order, then its slot. -/
def waitId (x : Issue) : Nat := 16 * waitRank x.i + x.slot
def syncId : Nat := 1000

/-- The waits of fetch and entry: the drain of a taken branch, then the sync bit. -/
def Ctx.entryWait (c : Ctx) (b : Bundle) : Option (Nat × Wait) :=
  if c.frame.drainWait && !(c.pend.val.isEmpty && c.pend.flg.isEmpty) then some (syncId + 1, .fixed)
  else if decide (c.frame.rep = 0) && hdrSync b.hdr && !(c.eng.cG.isEmpty && c.eng.qG.isEmpty) then some (syncId, .engine)
  else none

/-- What the bundle asks for while it waits. -/
def State.askAll (s : State) (hw : Nat) (b : Bundle) (rep : Nat) (cand : Bool) (xs : List Issue) : State :=
  xs.foldl (fun s x => (s.seat hw b rep cand false x).asks x.i) s

/-- The waits of the bundle's slots that hold, in slot order. -/
def State.slotWaits (s : State) (hw : Nat) (b : Bundle) (rep : Nat) (cand : Bool) (xs : List Issue) : List (Nat × Wait) :=
  xs.filterMap (fun x => match (s.runAt hw b rep cand false x).cur.verdict with
    | .wait w => some (waitId x, w)
    | _ => none)

/-- The first of them in the order of R373. -/
def firstWait (l : List (Nat × Wait)) : Option (Nat × Wait) :=
  l.foldl (fun a x => match a with
    | none => some x
    | some y => if x.1 < y.1 then some x else some y) none

/-- The value results and flag landings that a syllable's issue adds. -/
def State.addedBy (s : State) (hw : Nat) (b : Bundle) (rep : Nat) (x : Issue) : Nat × List Nat :=
  if isPop x.i then (popResults (s.ctx hw) x.i, [])
  else if isPost x.i then (0, [])
  else
    let c := s.ctx hw
    let t := (s.runAt hw b rep true true x).ctx hw
    (t.pend.val.length - c.pend.val.length, (t.pend.flg.drop c.pend.flg.length).map (fun f => f.land))

/-- The pocket limit of R297. A bundle that could not reach it is not looked at closer. -/
def State.pocketFull (s : State) (hw : Nat) (b : Bundle) (rep : Nat) (xs : List Issue) : Bool :=
  let c := s.ctx hw
  let lands := (c.pend.flg.map (fun f => f.land)).dedup
  let most := xs.foldl (fun n x => n + (usesOf x.i).2.length + 1) 0
  if c.pend.val.length + most ≤ 64 ∧ lands.length < 256 then false
  else
    let add := xs.map (s.addedBy hw b rep)
    decide (64 < c.pend.val.length + add.foldl (fun n a => n + a.1) 0) ||
      decide (256 < ((lands ++ add.flatMap (fun a => a.2)).dedup).length && !(add.flatMap (fun a => a.2)).isEmpty)

/-- A cycle of a wait. -/
def State.waitOn (s : State) (hw : Nat) (cand : Bool) (id : Nat) (w : Wait) : State :=
  match w with
  | .fixed => s.fixedWait hw cand
  | .engine =>
    let s1 := if cand then s else s.modCtx hw (fun c => { c with run := { c.run with await := id } })
    s1.engineWait hw cand
  | .wfe => s.wfeWait hw cand

def State.setPhase (s : State) (hw n : Nat) : State := s.modCtx hw (fun c => { c with run := { c.run with phase := n } })

/-- Phase 1 is passed: the bundle as fetched stands from now on. -/
def State.passEntry (s : State) (hw : Nat) (b : Bundle) : State :=
  s.modCtx hw (fun c => { c with run := { c.run with phase := 2, got := some b } })

/-! ## Host window (R102) -/

/-- An entry of the ingress buffer is applied: one write of its masked bytes. -/
def State.applyEntry (s : State) (core : Nat) (e : Ingress) : State :=
  s.coreWrite ((List.range 64).filterMap (fun k =>
    if Nat.testBit e.mask k then some (core * Config.spadBytes + 64 * e.line + k, byteOf e.data k) else none)) none

/-- The oldest `n` entries are applied in arrival order, at the charge of the core's own bank (R347). -/
def State.applyIngress (s : State) (core n : Nat) : State :=
  let es := (s.core core).ingress.take n
  (es.foldl (fun s e => s.applyEntry core e) (s.modCore core (fun k => { k with ingress := k.ingress.drop n }))).chargeCore
    core 5 es.length

/-- What an attempt came to: nothing, an issue, a cycle of waiting, a trap in place of the issue, or a cycle of a host window. -/
inductive TryOut where
  | skip
  | issued
  | waited
  | trapped
  | window
  deriving DecidableEq, Repr

/-- Phase 2: a cycle of the application, or none when it is over. A candidate never applies. -/
def State.meetWindow (s : State) (hw : Nat) (b : Bundle) (cand : Bool) : State × Option TryOut :=
  let c := s.ctx hw
  let core := coreOf hw
  let waiting := (s.core core).ingress.length
  if !(decide (c.frame.rep = 0) && hdrHost b.hdr) then (s.setPhase hw 3, none)
  else if cand then (if waiting = 0 then (s.setPhase hw 3, none) else (s, some .skip))
  else if c.run.phase = 3 then (s, none)
  else
    let n := if c.run.window = 0 then min 256 waiting else c.run.window
    if n = 0 then (s.setPhase hw 3, none)
    else
      let left := n - 8
      let s1 := s.applyIngress core (min 8 n)
      (s1.modCtx hw (fun c => { c with run := { c.run with
        phase := if left = 0 then 3 else 2
        window := left } }.stall), some .window)

/-- The three phases: the state after them, and what the cycle came to when a wait still holds. -/
def State.meetWaits (s : State) (hw : Nat) (b : Bundle) (cand : Bool) (xs : List Issue) : State × Option TryOut :=
  let c := s.ctx hw
  let rep := c.frame.rep
  match (if c.run.phase = 1 then c.entryWait b else none) with
  | some (id, w) => (s.waitOn hw cand id w, some .waited)
  | none =>
    match (if c.run.phase = 1 then s.passEntry hw b else s).meetWindow hw b cand with
    | (s1, some o) => (s1, some o)
    | (s1, none) =>
      let s2 := (s1.askAll hw b rep cand xs).unseat
      if s2.pocketFull hw b rep xs then (s2.waitOn hw cand 0 .fixed, some .waited)
      else
        match firstWait (s2.slotWaits hw b rep cand xs) with
        | some (id, w) => (s2.waitOn hw cand id w, some .waited)
        | none => (s2, none)

/-! ## Issue checks (R294, R90) -/

/-- The checks that fail, in slot order. -/
def State.slotChks (s : State) (hw : Nat) (b : Bundle) (rep : Nat) (cand : Bool) (xs : List Issue) : List (Nat × Chk) :=
  xs.filterMap (fun x => match (s.runAt hw b rep cand false x).cur.verdict with
    | .chk k => some (x.slot, k)
    | .mode k => some (x.slot, k)
    | _ => none)

/-- Conflicts of the core port, as the first slot that takes part and the address of the line that meets an earlier claim.
The rows of transfers claim first and stand in no slot (16). -/
def portConfs : List (Nat × Nat) → List (Nat × Nat) → List (Nat × Nat)
  | _, [] => []
  | claimed, (slot, l) :: r =>
    match claimed.find? (fun k => decide (bankOf k.2 = bankOf l) && decide (k.2 ≠ l)) with
    | some k => (min k.1 slot, 64 * l) :: portConfs claimed r
    | none => portConfs (claimed ++ [(slot, l)]) r

/-- The lines of the bundle, each with its slot. -/
def bundleLines (c : Ctx) (xs : List Issue) : List (Nat × Nat) :=
  xs.flatMap (fun x => (portLines c x.n x.i).map (fun l => (x.slot, l)))

/-- The conflict of the lowest slot. -/
def lowestConf (l : List (Nat × Nat)) : Option (Nat × Nat) :=
  l.foldl (fun a x => match a with
    | none => some x
    | some y => if x.1 < y.1 then some x else some y) none

/-- The trap of a check that fails, the first that is no bank conflict. -/
def firstChk (l : List (Nat × Chk)) : Option (Nat × Chk) := l.find? (fun x => decide (x.2.code ≠ 3))

/-- All bank conflicts of a bundle: those that its products and accesses meet of themselves, then the core port's (log 43). -/
def State.bankConfs (s : State) (hw : Nat) (chks : List (Nat × Chk)) (xs : List Issue) : List (Nat × Nat) :=
  let k := s.core (coreOf hw)
  ((chks.filter (fun x => decide (x.2.code = 3))).map (fun x => (x.1, x.2.addr.toNat))) ++
    portConfs ((xferLines k.xfers k.arr).map (fun l => (16, l))) (bundleLines (s.ctx hw) xs)

/-! ## Commit -/

/-- The effects of the bundle: SPFLAG, then what reads, then what writes the scratchpad and the control registers, each in
template order (R91, R120, R223). -/
def State.effects (s : State) (hw : Nat) (b : Bundle) (rep : Nat) (cand : Bool) (xs : List Issue) : State :=
  let run (s : State) (l : List Issue) : State := l.foldl (fun s x => s.runAt hw b rep cand true x) s
  let mid := xs.filter (fun x => !isFirst x.i && !isLate x.i && !isPost x.i)
  run (run (run s (xs.filter (fun x => isFirst x.i))) mid) (xs.filter (fun x => isLate x.i))

/-- The latches after an issue (R25). -/
def latchesAfter (plan : List (Nat × Latch)) (xs : List Issue) (old : SMap Latch) : SMap Latch :=
  plan.foldl (fun m x =>
    if x.1 = 0 ∨ x.1 = 9 then m
    else if xs.any (fun y => decide (y.slot = x.1) && isIdle y.i) then SMap.del m x.1 else SMap.put m x.1 x.2) old

/-- The stop-group set with the writes of an issue (R28). -/
def groupAfter (old : BitVec 856) (xs : List Issue) : BitVec 856 :=
  xs.foldl (fun g x => (writesOf x.i).foldl (fun g k => g ||| BitVec.ofNat 856 (2 ^ k)) g) old

/-- The frame after an issue: latches, stop group, repetition, position and branch state (R20, R28, R192, R193). `f0` is the
frame before the bundle; `f` holds the branch state of a branch that has just committed. -/
def Frame.after (f0 f : Frame) (b : Bundle) (plan : List (Nat × Latch)) (xs : List Issue) : Frame :=
  let group := if hdrStop b.hdr then 0 else groupAfter f0.group xs
  let f1 : Frame := { f with latches := latchesAfter plan xs f0.latches, group := group, drainWait := false }
  if f0.rep < hdrRep b.hdr then { f1 with rep := f0.rep + 1 }
  else
    let f2 : Frame := { f1 with rep := 0, pos := (b.addr + b.len) % 2 ^ 32 }
    match f0.br.st with
    | 0 => f2
    | 1 => { f2 with br := { f0.br with st := 2 } }
    | _ =>
      if f0.br.taken then
        { f2 with br := Branch.free, pos := f0.br.target, latches := [], group := 0, drainWait := f0.br.drain }
      else { f2 with br := Branch.free }

/-- The issue ends: the frame moves on, the counter advances, and the next bundle meets its waits afresh. -/
def State.endIssue (s : State) (hw : Nat) (f0 : Frame) (b : Bundle) (plan : List (Nat × Latch)) (xs : List Issue)
    (cand : Bool) : State :=
  s.modCtx hw (fun c => ({ c with
    async := if c.run.trap then c.async else c.async ++ c.soon
    soon := if c.run.trap then c.soon else []
    dbg := { c.dbg with skip := if c.dbg.skip = some b.addr then none else c.dbg.skip }
    frame := f0.after c.frame b plan xs
    perf := { c.perf with cand := c.perf.cand + cand.toNat }
    run := { c.run with phase := 1, window := 0, got := none } }).advance)

/-- An instruction that acts when the whole bundle has committed acts: its guard held before the bundle (R29, R201). -/
def postOn (c : Ctx) : Instr → Bool
  | .svc o | .brk o => c.guardN o.g
  | .yield g | .yieldNw g | .halt g => c.guardN g
  | .eret => true
  | _ => false

/-- What it then does. -/
def State.postEff (s : State) (hw bundle : Nat) : Instr → State
  | .svc o => s.codeEff hw bundle 11 o.code
  | .brk o => s.codeEff hw bundle 12 o.code
  | .yield _ => s.yieldEff hw
  | .yieldNw _ => s.yieldNwEff hw
  | .halt _ => s.endContext hw
  | .eret => s.eretEff hw
  | _ => s

/-- What acts when the whole bundle has committed: HALT and YIELD first, then SVC, BRK and ERET of a context that goes on (log 74). -/
def State.afterwards (s : State) (hw : Nat) (b : Bundle) (rep : Nat) (cand : Bool) (xs : List Issue) : State :=
  xs.reverse.foldl (fun s x =>
    if (s.ctx hw).run.st = .inactive then s else (s.seat hw b rep cand true x).postEff hw b.addr x.i) s

/-- The BAR of a bundle that is about to commit brings its checkpoint up to date. -/
def State.barMarks (s : State) (hw : Nat) (xs : List Issue) : State :=
  xs.foldl (fun t x => match x.i with
    | .bar o => if (s.ctx hw).guardN o.g then t.barMark hw (o.n * 256 + o.m) else t
    | _ => t) s

/-- The bundle issues and commits. -/
def State.commitBundle (s : State) (hw : Nat) (b : Bundle) (plan : List (Nat × Latch)) (xs : List Issue) (cand : Bool) :
    State :=
  let f0 := (s.ctx hw).frame
  let s0 := (s.trace hw 0 b.addr f0.rep cand).charge hw 0 1
  let s1 := (s0.unseat.barMarks hw xs).effects hw b f0.rep cand xs
  let br := (s1.ctx hw).frame.br
  let s2 := if xs.any (fun x => isBranch x.i) && br.taken then s1.trace hw 1 b.addr f0.rep cand else s1
  let post := xs.filter (fun x => postOn (s.ctx hw) x.i)
  let s3 := if post.any (fun x => decide (x.i = .eret)) then s2.trace hw 3 b.addr f0.rep cand else s2
  ((s3.endIssue hw f0 b plan xs cand).afterwards hw b f0.rep cand post).unseat

/-! ## The attempt -/

/-- An attempt's result: the state, what it came to, and the slots and lines that the bundle has used. -/
structure Try where
  s : State
  out : TryOut
  slots : List Nat
  lines : List Nat

/-- A trap in place of the issue. -/
def State.trapHere (s : State) (hw : Nat) (cand : Bool) (code slot : Nat) (addr : Word) (detail : Nat) : Try :=
  ⟨((s.asCand cand).takeTrap hw { syncTrap code addr slot with detail := detail } (s.ctx hw).frame.pos).unseat, .trapped, [], []⟩

/-- Checks, conflicts and commit of a bundle whose waits are over. A candidate that would meet a bank conflict does not
issue (R208); a breach of the group rule traps it too (R173). -/
def State.issueNow (s : State) (hw : Nat) (b : Bundle) (plan : List (Nat × Latch)) (xs : List Issue) (cand : Bool)
    (lines : List Nat) : Try :=
  let chks := s.slotChks hw b (s.ctx hw).frame.rep cand xs
  match firstChk chks with
  | some (slot, k) => s.trapHere hw cand k.code slot k.addr k.detail
  | none =>
    let confs := s.bankConfs hw chks xs
    let mine := (bundleLines (s.ctx hw) xs).map (fun x => x.2)
    let group := chks.find? (fun x => x.2.isGroup)
    if cand && group.isNone && (!confs.isEmpty || (firstConflict lines mine).isSome) then ⟨s.unseat, .skip, [], []⟩
    else
      match lowestConf confs with
      | some (slot, a) => s.trapHere hw cand 3 slot (BitVec.ofNat 64 a) 0
      | none => ⟨s.commitBundle hw b plan xs cand, .issued, plan.map (fun x => x.1), mine⟩

/-- One attempt of a context to issue: as primary, or as candidate beside the slots and lines that the primary uses. -/
def State.attempt (s : State) (hw : Nat) (cand : Bool) (busy lines : List Nat) : Try :=
  let c := s.ctx hw
  match s.bundleAt hw c.frame.pos with
  | .trap p => s.trapHere hw cand 6 15 (BitVec.ofNat 64 p) 0
  | .stall => ⟨s.fixedWait hw cand, .waited, [], []⟩
  | .ok b =>
    let plan := c.plan b
    if cand && (slotsNeeded b plan).any (fun k => busy.contains k) then ⟨s, .skip, [], []⟩
    else
      match s.decodeBundle hw b plan with
      | .error (code, slot) => s.trapHere hw cand code slot 0 0
      | .ok xs =>
        match s.meetWaits hw b cand xs with
        | (s1, some o) => ⟨s1.unseat, o, [], []⟩
        | (s1, none) => s1.issueNow hw b plan xs cand lines

/-- The waits that hold back a blocked context's bundle, by number, and the state in which it has asked (R209, R373). -/
def State.heldBy (s : State) (hw : Nat) : State × List Nat :=
  let c := s.ctx hw
  match s.bundleAt hw c.frame.pos with
  | .ok b =>
    match s.decodeBundle hw b (c.plan b) with
    | .ok xs =>
      if c.run.phase = 1 then
        (s, match c.entryWait b with
          | some (id, _) => [id]
          | none => [])
      else
        let s1 := (s.askAll hw b c.frame.rep true xs).unseat
        (s1, (s1.slotWaits hw b c.frame.rep true xs).map (fun x => x.1))
    | .error _ => (s, [])
  | _ => (s, [])

end Sys2Proof.Machine
end

