-- ==== Sys2Proof/Machine/Debug.lean ====
section
/-!
DEFINITION. What comes before a bundle's issue: pending asynchronous traps, HEMOVR, hem points, debug stops (R205, R211, R212,
R253, R294, R336 to R340).
-/

namespace Sys2Proof.Machine

/-! ## Asynchronous traps (R205, R290, R294) -/

/-- The rank of a pending asynchronous trap: ECCU, then XLAT and ACCV, then RUNAWAY. -/
def Async.rank (a : Async) : Nat := if a.code = 16 then 0 else if a.code = 13 then 2 else 1

/-- The pending trap that is taken first: the earliest of the lowest rank. -/
def nextAsync (l : List Async) : Option Async :=
  l.foldl (fun best a => match best with
    | none => some a
    | some b => if a.rank < b.rank then some a else some b) none

/-- A pending asynchronous trap is due: none is taken in trap mode. -/
def Ctx.asyncDue (c : Ctx) : Option Async := if c.run.trap then none else nextAsync c.async

/-- The context takes its next pending asynchronous trap; the bundle that would have issued is the return bundle. -/
def State.takeAsync (s : State) (hw : Nat) : State :=
  match (s.ctx hw).asyncDue with
  | none => s
  | some a =>
    (s.modCtx hw (fun c => { c with async := dropFirst (fun x => decide (x = a)) c.async })).trapWith hw a.trapInfo
      (s.ctx hw).frame.pos

/-! ## Debug stops (R336 to R338) -/

/-- The context stops: its core's clock is held (R337, log 78). -/
def State.debugStop (s : State) (hw st why : Nat) : State :=
  let c := s.ctx hw
  let s1 := s.modCtx hw (fun c => { c with dbg := { c.dbg with why := why, st := st, stopreq := false, step := none } })
  let s2 := s1.modCore (coreOf hw) (fun k => { k with holds := k.holds ++ [.debug hw] })
  s2.trace hw 5 c.frame.pos c.frame.rep false

/-- A stop is due before the context's next bundle, with its cause: a debug bit when breakpoints are enabled, or a stop
request. The bundle at which the last stop was taken does not take its debug break again, but a new stop request holds (R337). -/
def State.stopDue (s : State) (hw : Nat) : Option Nat :=
  let c := s.ctx hw
  if c.dbg.st ≠ 0 then none
  else if c.dbg.stopreq then some 1
  else if c.dbg.skip = some c.frame.pos then none
  else if c.dbg.bken && decide (c.frame.rep = 0) then
    match s.headAt hw c.frame.pos with
    | .ok hdr => if hdrDebug hdr then some 0 else none
    | _ => none
  else none

/-- The debug hold of a context leaves its core. -/
def State.debugRelease (s : State) (hw : Nat) : State :=
  s.modCore (coreOf hw) (fun k => { k with holds := k.holds.filter (fun h => decide (h ≠ .debug hw)) })

/-- Writing run ends the stop. -/
def State.dbgRun (s : State) (hw : Nat) : State :=
  if (s.ctx hw).dbg.st = 0 then s
  else (s.modCtx hw (fun c => { c with dbg := { c.dbg with st := 0, skip := some c.frame.pos } })).debugRelease hw

/-- Writing step releases the core clock until the context's counter has moved. -/
def State.dbgStep (s : State) (hw : Nat) : State :=
  if (s.ctx hw).dbg.st = 0 then s
  else (s.modCtx hw (fun c => { c with dbg := { c.dbg with
    st := 0
    skip := some c.frame.pos
    step := some (c.run.sched, 0) } })).debugRelease hw

/-- Writing stopreq stops the context before its next bundle. -/
def State.dbgStopreq (s : State) (hw : Nat) : State :=
  if (s.ctx hw).dbg.st ≠ 0 then s else s.modCtx hw (fun c => { c with dbg := { c.dbg with stopreq := true } })

/-- A step that has used its 65,536 real cycles stops with state 2. -/
def State.stepLimit (s : State) (hw : Nat) : State :=
  match (s.ctx hw).dbg.step with
  | some (n, used) =>
    if (s.ctx hw).run.sched = n ∧ 65536 ≤ used then s.debugStop hw 2 (s.ctx hw).dbg.why else s
  | none => s

/-- After a real cycle a step in progress ends when the counter has moved, and else counts the cycle. -/
def State.stepEnd (s : State) (hw : Nat) : State :=
  match (s.ctx hw).dbg.step with
  | none => s
  | some (n, used) =>
    if (s.ctx hw).run.sched ≠ n then s.debugStop hw 1 (s.ctx hw).dbg.why
    else (s.modCtx hw (fun c => { c with dbg := { c.dbg with step := some (n, used + 1) } })).stepLimit hw

def execDbgRun (hw : Nat) (s : State) : Out := .next (s.ifOpen (fun s => s.dbgRun hw))
def execDbgStep (hw : Nat) (s : State) : Out := .next (s.ifOpen (fun s => s.dbgStep hw))
def execDbgStopreq (hw : Nat) (s : State) : Out := .next (s.ifOpen (fun s => s.dbgStopreq hw))
def execStepLimit (hw : Nat) (s : State) : Out := .next (s.stepLimit hw)

/-- The debug break of a context that is about to issue (R339). -/
def State.debugBreak (s : State) (hw : Nat) : State :=
  match s.stopDue hw with
  | some why => if (s.ctx hw).run.st = .ready then s.debugStop hw 1 why else s
  | none => s

def execDebugBreak (hw : Nat) (s : State) : Out := .next (s.debugBreak hw)

/-! ## The turn of a context (R294, R339) -/

/-- Something comes before the bundle's decode: an asynchronous trap, HEMOVR or a budget overrun at a hem point. -/
def State.preempts (s : State) (hw : Nat) : Bool :=
  let c := s.ctx hw
  c.asyncDue.isSome || (c.hemLate && !s.atHem hw) || (c.budgetSpent && s.atHem hw)

/-- A hem point that is about to issue sets h (R212), at every turn that its context has there (log 125). -/
def State.hemMark (s : State) (hw : Nat) : State :=
  if s.atHem hw then s.modCtx hw (fun c => { c with run := { c.run with h := c.run.sched } }) else s

/-- The turn of a context in a real cycle: what comes before its bundle, a debug stop, or the attempt to issue (log 42). -/
def State.turn (s : State) (hw : Nat) (cand : Bool) (busy lines : List Nat) : Try :=
  let c := s.ctx hw
  if c.asyncDue.isSome then ⟨((s.asCand cand).takeAsync hw).unseat, .trapped, [], []⟩
  else if c.hemLate && !s.atHem hw then ⟨((s.asCand cand).hemTrap hw).unseat, .trapped, [], []⟩
  else if c.budgetSpent && s.atHem hw then ⟨s.budget hw, .trapped, [], []⟩
  else
    let s1 := s.hemMark hw
    if (s1.stopDue hw).isSome then ⟨s1.debugBreak hw, .skip, [], []⟩ else s1.attempt hw cand busy lines

end Sys2Proof.Machine
end

