-- ==== Sys2Proof/Machine/Cycle.lean ====
section
/-!
DEFINITION. One real cycle of the module: each core's cycle (R169, R185, R205 to R209, R344), the links' ticks, the stream
contexts' microseconds and time (R81, R105, R354), and the events of which a core's cycle is made.
-/

namespace Sys2Proof.Machine

/-! ## Contexts that can issue, and the primary (R207, R252) -/

/-- A ready context whose dispatch cycles are over by real cycle `n`. -/
def Ctx.canIssue (c : Ctx) (n : Nat) : Bool := decide (c.run.st = .ready) && decide (c.run.earliest ≤ n)

/-- The contexts of a core in cyclic order after context `n`. -/
def cyclic (core n : Nat) : List Nat := (List.range 4).map (fun k => 4 * core + (n + 1 + k) % 4)

/-- A core without primary makes the first ready context after the previous primary its primary: it issues from the next
real cycle on. -/
def State.choose (s : State) (core : Nat) : State :=
  let k := s.core core
  if k.prim.isSome then s
  else
    match (cyclic core k.lastPrim).find? (fun hw => (s.ctx hw).canIssue (s.mod.cycles + 1)) with
    | none => s
    | some hw =>
      (s.setCore core { k with prim := some hw }).modCtx hw (fun c => { c with perf := { c.perf with prim := c.perf.prim + 1 } })

def execPrimarySwitch (core : Nat) (s : State) : Out := .next (s.choose core)

/-! ## Held faults of a stream (R331) -/

/-- The bundle that a context is about to issue has an MRESUME. -/
def State.mresumeNext (s : State) (hw : Nat) : Bool :=
  let c := s.ctx hw
  match s.bundleAt hw c.frame.pos with
  | .ok b => (issuesOf (c.plan b)).any (fun x => match x.i with
    | .mresume _ => true
    | _ => false)
  | _ => false

/-- A product of the context still needs bytes that the port does not hold: one in flight, or one that an MRESUME brings; while
the MRESUME has yet to read its slot, or stands in the bundle that the context is about to issue, it may be such a one (R331, R332,
log 35). -/
def State.needsStream (s : State) (hw : Nat) : Bool :=
  let k := s.core (coreOf hw)
  let rs := k.resumes.filter (fun r => decide (r.hw = hw) && !r.held)
  let ps := k.prods.filter (fun p => decide (p.hw = hw) && !p.orphan) ++ rs.filterMap (fun r => r.prod)
  rs.any (fun r => decide (r.st = 0)) || s.mresumeNext hw ||
    decide ((s.ctx hw).eng.stream.length < ps.foldl (fun n p => n + p.sliceBytes * (p.slicesDue (p.issue + p.spec.s)).length) 0)

/-- The held faults of a slot are delivered as R75 gives before the context's next bundle, where no product needs a byte that the slot has not
delivered (R331). In trap mode they stay held: the products that the trap has cut may need such a byte after ERET (R290, log 35). -/
def State.tellFault (s : State) (cl n : Nat) : State :=
  let q := s.slot cl n
  if q.ferr.isEmpty || (s.ctx q.owner).run.trap || s.needsStream q.owner then s
  else q.ferr.foldl (fun s f => s.raiseSlot q f) (s.modSlot cl n (fun x => { x with ferr := [] }))

/-- The same for every slot of a context. -/
def State.tellFaults (s : State) (hw : Nat) : State :=
  (s.faultSlots hw).foldl (fun s x => s.tellFault (clusterOf hw) x.1) s

/-! ## Ends of waits (R205, R209, R224) -/

/-- The wait is one for every result to land, of YIELD or HALT. -/
def resultWait (id : Nat) : Bool := decide (id / 16 = waitRank (.yield 0)) || decide (id / 16 = waitRank (.halt 0))

/-- A blocked context becomes ready, with its slack, when the wait that it has blocked on no longer holds; the results that it has
waited for land (log 32). -/
def State.unblock (s : State) (hw : Nat) : State :=
  if (s.ctx hw).run.st = .blocked then
    let (s1, ids) := s.heldBy hw
    if ids.contains (s.ctx hw).run.await then s1
    else s1.modCtx hw (fun c =>
      let c1 := if resultWait c.run.await then c.landAll else c
      { c1 with run := { c1.run with st := .ready, slackRem := c1.run.slack } })
  else s

def execContextUnblock (hw : Nat) (s : State) : Out := .next (s.unblock hw)

/-- The WFE that a context's bundle holds. -/
def State.wfeOf (s : State) (hw : Nat) : Option FW :=
  match s.bundleAt hw (s.ctx hw).frame.pos with
  | .ok b =>
    match SMap.get? b.syls 9 with
    | some (w, x) =>
      match decodeSyllable .f w x with
      | .ok (.wfe o) => some o
      | _ => none
    | none => none
  | _ => none

/-- A context that waits in a WFE becomes ready when one of its conditions holds. -/
def State.wfeWake (s : State) (hw : Nat) : State :=
  let c := s.ctx hw
  if c.run.st = .waiting ∧ c.run.stage = .wfe then
    let holds := match s.wfeOf hw with
      | some o => decide (s.wfeHolds hw o.mask (c.sreg o.st) ≠ 0)
      | none => true
    if holds then s.modCtx hw (fun c => { c with run := { c.run with st := .ready, stage := .none } }) else s
  else s

def execWfeWake (hw : Nat) (s : State) : Out := .next (s.wfeWake hw)

/-! ## The other events of a core's cycle -/

/-- BUNDLE_ISSUE: the context's bundle issues, when all its waits are over. -/
def State.bundleIssue (s : State) (hw : Nat) : State :=
  let t := s.attempt hw false [] []
  if t.out = .issued then t.s else s
def execBundleIssue (hw : Nat) (s : State) : Out := .next (s.bundleIssue hw)

/-- IFETCH_STALL_END: the copies end that hold back the fetch of the context's bundle. -/
def State.fetchStallEnd (s : State) (hw : Nat) : State :=
  let core := coreOf hw
  match s.fetch core (s.ctx hw).frame.pos with
  | .stall => (List.range (s.core core).segs.length).foldl (fun s k => s.segDone core k) s
  | _ => s
def execIfetchStallEnd (hw : Nat) (s : State) : Out := .next (s.fetchStallEnd hw)

/-- RESULT_LAND: what is due at the context's schedule cycle reaches its registers. -/
def execResultLand (hw : Nat) (s : State) : Out := .next (s.modCtx hw Ctx.land)

/-- PRODUCT_COMMIT: the commits and surrenders of the present array cycle. -/
def execProductCommit (core : Nat) (s : State) : Out := .next (s.commitStage core (s.core core).arr)

/-- STREAM_SLICE_ARRIVE: products take the slices that are due. -/
def execStreamSliceArrive (core : Nat) (s : State) : Out := .next (s.sliceStage core (s.core core).arr)

/-- TRAP_ENTRY: the context takes the pending asynchronous trap that is due, or the trap that its bundle meets. -/
def State.trapEntry (s : State) (hw : Nat) : State :=
  if (s.ctx hw).asyncDue.isSome then s.takeAsync hw
  else
    let t := s.attempt hw false [] []
    if t.out = .trapped then t.s else s
def execTrapEntry (hw : Nat) (s : State) : Out := .next (s.trapEntry hw)

/-- MRDS_MWRS_ROW: the rows of the present array cycle, MWRS before MRDS (R185). -/
def execMrdsMwrsRow (core : Nat) (s : State) : Out :=
  let t := (s.core core).arr
  .next ((s.xferStage core t true).xferStage core t false)

/-! ## Accounting (R344, R345) -/

/-- Some cell of a product meets a step in array cycle `t`. -/
def Prod.meetsAt (p : Prod) (t : Int) : Bool :=
  p.spec.zone.cells.any (fun x =>
    let k := t - p.issue - 4 - x.1 - x.2
    let lo := max (p.ra.getD x.1 0) (p.rb.getD x.2 0)
    let hi := match p.cut with
      | none => p.spec.s
      | some c => min (p.seamIndex c false x.1) (p.seamIndex c true x.2)
    !p.idle x.1 x.2 && decide ((lo : Int) ≤ k) && decide (k < hi))

/-- No cell has met a step yet, and some will. -/
def Prod.loading (p : Prod) (t : Int) : Bool :=
  p.cut.isNone && decide (p.spec.s ≠ 0) && p.spec.zone.cells.all (fun x => p.idle x.1 x.2 || decide (t < p.firstStep x.1 x.2))

/-- The class of an array cycle and the bundle that it is charged to; `issued` is the primary's bundle of the cycle (log 70). -/
def Core.cycleClass (k : Core) (t : Int) (issued : Option Nat) : Nat × Nat :=
  match k.prods.find? (fun p => p.meetsAt t) with
  | some p => (0, p.spec.bundle)
  | none =>
    match k.prods.find? (fun p => p.loading t) with
    | some p => (2, p.spec.bundle)
    | none =>
      match k.prods.find? (fun p => p.cut.isNone && !p.stepsLeft t) with
      | some p => (3, p.spec.bundle)
      | none =>
        match k.xfers.find? (fun x => decide ((x.issue : Int) < t) && decide (t ≤ x.issue + x.zone.rows)) with
        | some x => (3, x.bundle)
        | none => (4, issued.getD 0xFFFFFFFF)

def bump (m : SMap Nat) (cls n : Nat) : SMap Nat := SMap.put m cls ((SMap.getD m cls 0 + n) % 2 ^ 64)

/-- Cycles are charged to the entry of their address, the lowest free entry, or the overflow entry. -/
def CoreAux.accountN (a : CoreAux) (cls addr n : Nat) : CoreAux :=
  match a.acct.find? (fun e => decide (e.2.1 = addr)) with
  | some e => { a with acct := SMap.put a.acct e.1 (addr, bump e.2.2 cls n) }
  | none =>
    match (List.range 64).find? (fun n => (SMap.get? a.acct n).isNone) with
    | some k => { a with acct := SMap.put a.acct k (addr, bump [] cls n) }
    | none => { a with acctOvf := bump a.acctOvf cls n }

def CoreAux.account (a : CoreAux) (cls addr : Nat) : CoreAux := a.accountN cls addr 1

/-- The cycles before `now` in which nothing of the core has ever run are cycles without command (R344, log 70). -/
def CoreAux.upTo (a : CoreAux) (now : Nat) : CoreAux :=
  if a.clock < now then { a.accountN 4 0xFFFFFFFF (now - a.clock) with clock := now } else a

/-- A write to the table clears it from this real cycle on. -/
def CoreAux.acctBegin (a : CoreAux) : CoreAux :=
  if a.acctClear then { a with acct := [], acctOvf := [], acctClear := false } else a

/-! ## A core's real cycle -/

/-- Contexts of a core. -/
def ctxsOf (core : Nat) : List Nat := (List.range 4).map (fun x => 4 * core + x)

/-- Real cycles spent blocked or waiting, dispatch cycles among them (R222, R252). -/
def State.countWaits (s : State) (core : Nat) : State :=
  (ctxsOf core).foldl (fun s hw =>
    let c := s.ctx hw
    let waits := match c.run.st with
      | .blocked | .waiting => true
      | .ready => !c.canIssue s.mod.cycles
      | .inactive => false
    if waits then s.modCtx hw (fun c => { c with perf := { c.perf with wait := c.perf.wait + 1 } }) else s) s

/-- A cycle of clock hold: nothing of the core moves (R169, R209, R299). -/
def State.heldCycle (s : State) (core : Nat) : State :=
  (s.modCore core (fun k => { k with held := k.held + 1 })).countWaits core

/-- The candidate of a cycle: the first ready context but the primary, in cyclic order after the last candidate (R208). -/
def State.candidate (s : State) (core : Nat) (prim : Option Nat) (busy lines : List Nat) : State :=
  let k := s.core core
  match (cyclic core k.lastCand).find? (fun hw => (s.ctx hw).canIssue s.mod.cycles && decide (some hw ≠ prim)) with
  | none => s
  | some hw => ((s.setCore core { k with lastCand := hw % 4 }).turn hw true busy lines).s

/-- The issues of a core's cycle: the primary, then one candidate (R207, R208). No bundle issues in a switch cycle, and none
beside a host window. -/
def State.issueStage (s : State) (core : Nat) : State :=
  let k := s.core core
  if k.sw then s.setCore core { k with sw := false }
  else
    match k.prim with
    | none =>
      let s1 := s.choose core
      s1.candidate core (s1.core core).prim [] []
    | some p =>
      if !(s.ctx p).canIssue s.mod.cycles then s.leavePrimary p
      else
        let t := s.turn p false [] []
        let left := decide ((t.s.core core).prim ≠ some p)
        match t.out with
        | .issued =>
          let s1 := if left then t.s.modCore core (fun k => { k with sw := true }) else t.s
          s1.candidate core (some p) t.slots t.lines
        | .window => t.s
        | _ => if left then t.s else t.s.candidate core (some p) [] []

/-- A core whose contexts are all inactive applies its ingress entries at once (R103). -/
def State.idleIngress (s : State) (core : Nat) : State :=
  if (ctxsOf core).all (fun hw => decide ((s.ctx hw).run.st = .inactive)) then
    s.applyIngress core (s.core core).ingress.length
  else s

/-- An array cycle of a core: line reads, commits, ends of waits, issues, then the accesses that follow them (R174, R185). -/
def State.freeCycle (s : State) (core : Nat) : State :=
  let t := (s.core core).arr
  let s0 := (ctxsOf core).foldl State.tellFaults s
  let s1 := ((s0.lineStage core t).commitStage core t).surrenderStage core t
  let s2 := ((ctxsOf core).foldl (fun s hw => (s.unblock hw).wfeWake hw) s1).countWaits core
  let at_ := (s2.core core).prim.map (fun p => ((s2.ctx p).frame.pos, (s2.ctx p).run.sched, p))
  let s3 := (s2.issueStage core).earlyDone core (s0.core core).resumes (s0.earlyReads core t)
  let issued := match at_ with
    | some (pos, n, p) => if (s3.ctx p).run.sched ≠ n ∧ (s3.ctx p).perf.stall = (s2.ctx p).perf.stall then some pos else none
    | none => none
  let s4 := (((s3.xferStage core t true).seedStage core t).xferStage core t false).mrdvStage core t
  let cls := { s4.core core with xfers := (s3.core core).xfers }.cycleClass t issued
  let s5 := (s4.multiplyEnergy core t).modAux core (fun a => a.account cls.1 cls.2)
  let s7 := (s5.finishStage core t).modCore core (fun k => { k with arr := k.arr + 1, acsNow := [] })
  (if (s7.core core).sw then s7 else s7.choose core).idleIngress core

/-- The primary stops before its bundle: the whole cycle is then held. -/
def State.primStop (s : State) (core : Nat) : Option Nat :=
  let k := s.core core
  match k.prim with
  | some p =>
    if !k.sw && (s.ctx p).canIssue s.mod.cycles && (s.stopDue p).isSome && !s.preempts p then some p else none
  | none => none

/-- One real cycle of a core. -/
def State.coreCycle (s : State) (core : Nat) : State :=
  let s0 := (ctxsOf core).foldl (fun s hw => if (s.ctx hw).run.st = .inactive then s else s.charge hw 14 1)
    (s.modAux core (fun a => { (a.upTo s.mod.cycles).acctBegin with clock := s.mod.cycles + 1 }))
  let s9 :=
    if !(s0.core core).holds.isEmpty || s0.walkHeld core then s0.heldCycle core
    else
      match s0.primStop core with
      | some p => (s0.debugBreak p).heldCycle core
      | none =>
        let t : Int := (s0.core core).arr
        let s1 := s0.sliceStage core t
        match s1.sliceMissing core t with
        | [] => s1.freeCycle core
        | p :: _ => ((s1.streamDeliver core).heldCycle core).modAux core (fun a => a.account 1 p.spec.bundle)
  (ctxsOf core).foldl (fun s hw => s.stepEnd hw) s9

/-! ## Time (R81, R354, R356) -/

/-- The length of a real cycle in units of 1/6486480 ns: level/16 of 2.25 GHz. -/
def Mod.cycleLen (m : Mod) : Nat := 64 * 720720 / m.level

/-- The part of a slew that a cycle removes: at most 1,000 parts per million. -/
def slewPart (len : Nat) (slew : Int) : Int :=
  let most : Nat := len * min 1000 Config.slewPpm / 1000000
  if slew < 0 then -(min slew.natAbs most : Nat) else (min slew.natAbs most : Nat)

/-- Time passes for a cycle; a slew that has brought the time within 100 ns of its source makes it locked (R354). -/
def Time.pass (t : Time) (len : Nat) : Time :=
  let d := slewPart len t.slew
  { t with
    now := ((t.now : Int) + len + d).toNat
    slew := t.slew - d
    locked := if t.slew = 0 then t.locked else decide ((t.slew - d).natAbs ≤ 100 * 6486480)
    link := t.link + len }

/-- The cores that have state. -/
def State.coreList (s : State) : List Nat :=
  (s.cores.map (fun c => c.1) ++ s.ctxs.map (fun c => coreOf c.1) ++ s.aux.map (fun c => c.1)).foldl
    (fun l n => SMap.put l n ()) ([] : SMap Unit) |>.map (fun x => x.1)

/-- The ticks that every link has reached. -/
def State.linkTicks (s : State) : State :=
  s.front.links.foldl (fun s l => s.linkIdle l.1 s.linkTick) s

/-- The LKTIMEs of a context whose timer has started complete as link time reaches their ticks (R86). -/
def State.lktimes (s : State) (hw : Nat) : State := (s.ctx hw).eng.work.foldl (fun s c => s.lktime hw c.id) s

/-- The end of a real cycle: the cycle count, time, the link ticks that have passed, and the stream contexts' microseconds. What
happens after it happens in the new tick (R83). -/
def State.cycleEnd (s : State) : State :=
  let t := s.mod.time.pass s.mod.cycleLen
  let s1 := { s with mod := { s.mod with cycles := s.mod.cycles + 1, time := t } }.linkTicks
  let s2 := (s1.ctxs.map (fun x => x.1)).foldl State.lktimes s1
  { s2.sctPass s.mod.time t with oldBytes := [], shared := [] }

/-- The barriers whose last member arrived in an earlier cycle release (R214). -/
def State.barStage (s : State) : State :=
  s.clusters.foldl (fun s c => c.2.bars.foldl (fun s b => s.barRelease c.1 b.1) s) s

end Sys2Proof.Machine
end

