-- ==== Sys2Proof/Machine/HostRegs.lean ====
section
/-!
DEFINITION. What the host does through the BARs (R349, R351): the registers as it reads and writes them (R104, R270, R280, R336,
R340, R343 to R347, R352 to R356), writes to scratchpads through the ingress buffers and reads of them (R101, R103), and
writes to lining stores. A register is read and written whole, 8 bytes at an offset that is a multiple of 8 (log 30).
-/

namespace Sys2Proof.Machine

/-! ## The capability list (R352, R353) -/

/-- An entry's header word. -/
def capHead (next len id : Nat) : Word := BitVec.ofNat 64 (next * 2 ^ 32 + len * 2 ^ 24 + 1 * 2 ^ 16 + id)

/-- The excluded cores as a number whose bit `n` is core `n` (R353, R361). -/
def State.excludedMask (s : State) : Nat :=
  s.aux.foldl (fun m x => if x.2.excluded && decide (x.1 < 384) then Nat.lor m (2 ^ x.1) else m) 0

/-- A link's status word (R355). -/
def Link.status (l : Link) : Word := BitVec.ofNat 64 (l.miss % 2 ^ 32 * 2 ^ 32 + l.up.toNat * 2 ^ 16 + l.flight % 2 ^ 16)

/-- The service word (R353). -/
def Mod.service (m : Mod) : Nat := m.full.toNat + m.hbmFull.toNat * 2 + m.full.toNat * 4 + m.full.toNat * 8

/-- The entries: id and data words. -/
def State.caps (s : State) : List (Nat × List Word) :=
  [(1, [1]), (2, [BitVec.ofNat 64 (s.mod.rows * 256 + s.mod.cols)]), (3, [1]), (4, [1]), (5, [BitVec.ofNat 64 s.mod.service]),
    (6, (List.range 6).map (fun k => BitVec.ofNat 64 (fld s.excludedMask (64 * k) 64))),
    (7, (List.range 16).map (fun l => (s.link l).status))]

/-- The list as it lies from CAPBASE: each entry directly after the one before it (log 30). -/
def layCaps : Nat → List (Nat × List Word) → List Word
  | _, [] => []
  | off, (id, ws) :: r =>
    let next := off + 8 * (ws.length + 1)
    capHead (if r.isEmpty then 0 else next) (ws.length + 1) id :: ws ++ layCaps next r

def State.capList (s : State) : List Word := layCaps 0 s.caps

/-! ## The queue blocks (R270, R271) -/

/-- QCTL.busy. -/
def Queue.busy (q : Queue) : Bool := !q.begun.isEmpty || q.stopping

/-- A queue's registers as the host reads them. -/
def Queue.read (q : Queue) (o : Nat) : Word :=
  match o with
  | 0x00 => q.qbase
  | 0x08 => BitVec.ofNat 64 (q.tol % 2 ^ 16 * 2 ^ 48 + q.asid % 2 ^ 14 * 2 ^ 34 + q.busy.toNat * 2 + q.en.toNat)
  | 0x10 => BitVec.ofNat 64 q.tail
  | 0x18 => BitVec.ofNat 64 q.head
  | 0x20 => BitVec.ofNat 64 (q.count % 2 ^ 16 * 2 ^ 48 + q.first % 2 ^ 8 * 2 ^ 40 + q.fpkt % 2 ^ 39 * 2)
  | _ => 0

/-- QCTL: tol always, the ASID of a queue neither enabled nor busy, and en. -/
def State.qctlWrite (s : State) (n v : Nat) : State :=
  let s1 := s.modQueue n (fun q => { q with
    tol := fld v 48 16
    asid := if q.en || q.busy then q.asid else fld v 34 14 })
  if fld v 0 1 = 1 then s1.enable n else s1.disable n

/-- A write to a queue's block. -/
def State.queueWrite (s : State) (n o v : Nat) : State :=
  match o with
  | 0x00 => s.modQueue n (fun q => if q.en || q.busy then q else { q with qbase := BitVec.ofNat 64 v })
  | 0x08 => s.qctlWrite n v
  | 0x10 => s.tailWrite n v
  | 0x20 => if fld v 0 1 = 1 then s.modQueue n (fun u => { u with count := 0, first := 0, fpkt := 0 }) else s
  | _ => s

/-! ## The front-end window (R280, R351, R354, R356, R358) -/

/-- TIMECTL as read. -/
def Time.ctl (t : Time) : Word := BitVec.ofNat 64 (t.period % 2 ^ 16 * 2 ^ 16 + t.locked.toNat * 2 ^ 8 + t.src % 4)

/-- TIMECTL written: a period of 0 and a source of 3 are ignored; a new source has yet to be followed. -/
def Time.setCtl (t : Time) (v : Nat) : Time :=
  let t1 := if fld v 16 16 = 0 then t else { t with period := fld v 16 16 }
  if fld v 0 2 = 3 ∨ fld v 0 2 = t.src then t1 else { t1 with src := fld v 0 2, locked := false, slew := 0 }

def State.modTime (s : State) (f : Time → Time) : State := { s with mod := { s.mod with time := f s.mod.time } }
def State.modTrust (s : State) (f : Trust → Trust) : State := { s with mod := { s.mod with trust := f s.mod.trust } }
def State.modEv (s : State) (f : EvRing → EvRing) : State := { s with front := { s.front with ev := f s.front.ev } }

/-- EVSTAT as read. -/
def EvRing.stat (e : EvRing) : Word := BitVec.ofNat 64 (e.lost % 2 ^ 32 * 2 ^ 32 + e.ovf.toNat * 2 ^ 16 + e.vec % 2 ^ 16)

/-- The front-end window as the host reads it, by its offset there. -/
def State.frontRead (s : State) (o : Nat) : Word :=
  let e := s.front.ev
  match o with
  | 0x00 => e.base
  | 0x08 => BitVec.ofNat 64 e.head
  | 0x10 => BitVec.ofNat 64 e.tail
  | 0x18 => e.stat
  | 0x40 => s.mod.time.ctl
  | 0x48 => BitVec.ofNat 64 s.ns
  | 0x50 => BitVec.ofNat 64 s.mod.time.secs
  | 0x80 => BitVec.ofNat 64 s.mod.trust.pwrlim
  | 0x88 => BitVec.ofNat 64 s.mod.trust.pwrnow
  | _ =>
    if 0xC0 ≤ o ∧ o < 0xC0 + 160 then SMap.getD s.mod.trust.errlog ((o - 0xC0) / 8) 0
    else if 0x2000 ≤ o ∧ o < 0x2200 then SMap.getD s.mod.trust.vf ((o - 0x2000) / 8) 0
    else if o = 0x4000 then BitVec.ofNat 64 s.mod.trust.mbStatus
    else 0

/-- A write to the front-end window (log 73); a VF entry keeps all 64 bits (log 112). -/
def State.frontWrite (s : State) (o v : Nat) : State :=
  match o with
  | 0x00 => s.modEv (fun e => { e with base := BitVec.ofNat 64 v })
  | 0x08 => s.evhead v
  | 0x18 => s.modEv (fun e => { e with vec := fld v 0 16, ovf := e.ovf && decide (fld v 16 1 = 0) })
  | 0x40 => s.modTime (fun t => t.setCtl v)
  | 0x50 => s.modTime (fun t => { t with secs := v })
  | 0x80 => if 300 ≤ v ∧ v ≤ 1500 then s.modTrust (fun t => { t with pwrlim := v }) else s
  | _ =>
    if 0x2000 ≤ o ∧ o < 0x2200 then s.modTrust (fun t => { t with vf := SMap.put t.vf ((o - 0x2000) / 8) (BitVec.ofNat 64 v) })
    else s

/-! ## The debug window (R336, R340, R343, R345 to R347) -/

/-- DBGCTL as read. -/
def Dbg.ctl (d : Dbg) : Word := BitVec.ofNat 64 (d.why % 2 * 2 ^ 10 + d.st % 4 * 2 ^ 8 + d.trace % 4 * 4 + d.bken.toNat)

/-- A stopped context's pending results and its flag pocket at array cycle `arr`, as remaining schedule cycles: in trap mode the
routine's own, and then the program's frozen ones (R340, log 111). -/
def Ctx.shown (c : Ctx) (arr : Nat) : Memory :=
  let vs := (if c.run.trap then c.ownVals ++ c.pocketVals else c.ownVals).take 64
  let fs := (if c.run.trap then c.ownFlgs arr ++ c.pocketFlgs arr else c.ownFlgs arr).take 256
  fieldBytes ([(8, 4, vs.length), (12, 4, fs.length)] ++
    (List.range vs.length).flatMap (fun k => match vs[k]? with
      | some p => p.fields (0x1000 + 640 * k)
      | none => []) ++
    (List.range fs.length).flatMap (fun k => match fs[k]? with
      | some f => [(0xB000 + 8 * k, 4, f.1), (0xB004 + 8 * k, 1, f.2.toNat)]
      | none => []))

/-- A context's block. -/
def Ctx.dbgRead (c : Ctx) (arr o : Nat) : Word :=
  if o = 0 then c.dbg.ctl
  else if o = 0x10 then c.energy
  else if c.dbg.st = 0 then 0
  else BitVec.ofNat 64 ((c.shown arr).readN o 8)

/-- DBGCTL written: trace unless 3, the breakpoint enable, then run, step and stopreq. -/
def State.dbgWrite (s : State) (hw v : Nat) : State :=
  let s1 := s.modCtx hw (fun c => { c with dbg := { c.dbg with
    trace := if fld v 2 2 = 3 then c.dbg.trace else fld v 2 2
    bken := decide (fld v 0 1 = 1) } })
  let s2 := if fld v 6 1 = 1 then s1.dbgRun hw else s1
  let s3 := if fld v 5 1 = 1 then s2.dbgStep hw else s2
  if fld v 4 1 = 1 then s3.dbgStopreq hw else s3

/-- An accounting entry's six words: address, valid mark and counters. -/
def acctWord (e : Option (Nat × SMap Nat)) (k : Nat) : Word :=
  match e with
  | none => 0
  | some x => if k = 0 then BitVec.ofNat 64 (x.1 % 2 ^ 32 + 2 ^ 32) else BitVec.ofNat 64 (SMap.getD x.2 (k - 1) 0)

/-- A core's block. -/
def CoreAux.dbgRead (a : CoreAux) (o : Nat) : Word :=
  if o < 0x20 then BitVec.ofNat 64 ((List.range 4).foldl (fun v k => v + SMap.getD a.weights (o / 2 + k) 0 % 2 ^ 16 * 2 ^ (16 * k)) 0)
  else if o = 0x40 then a.ebank
  else if 0x100 ≤ o ∧ o < 0xD00 then acctWord (SMap.get? a.acct ((o - 0x100) / 48)) ((o - 0x100) % 48 / 8)
  else if 0xD08 ≤ o ∧ o < 0xD30 then BitVec.ofNat 64 (SMap.getD a.acctOvf ((o - 0xD08) / 8) 0)
  else 0

/-- A write to a core's block: weights, or the table, which is cleared (R345, R346). -/
def CoreAux.dbgWrite (a : CoreAux) (o v : Nat) : CoreAux :=
  if o < 0x20 then { a with weights := (List.range 4).foldl (fun w k => SMap.put w (o / 2 + k) (fld v (16 * k) 16)) a.weights }
  else if 0x100 ≤ o ∧ o < 0xD30 then { a with acctClear := true }
  else a

/-- A cluster's trace registers. -/
def Trace.read (t : Trace) (o : Nat) : Word :=
  match o with
  | 0x00 => t.base
  | 0x08 => BitVec.ofNat 64 t.head
  | 0x10 => BitVec.ofNat 64 t.tail
  | 0x18 => BitVec.ofNat 64 t.lost
  | _ => 0

def State.traceWrite (s : State) (cl o v : Nat) : State :=
  match o with
  | 0x00 => s.modCl cl (fun c => { c with trace := { c.trace with base := BitVec.ofNat 64 v } })
  | 0x08 => s.modCl cl (fun c =>
      if v ≤ c.trace.head ∨ c.trace.tail < v then c else { c with trace := { c.trace with head := v } })
  | _ => s

/-- The debug window as the host reads it, by its offset there. -/
def State.debugRead (s : State) (o : Nat) : Word :=
  if o < 0x6000000 then (s.ctx (o / 0x10000)).dbgRead (s.core (coreOf (o / 0x10000))).arr (o % 0x10000)
  else if o < 0x6180000 then ((s.auxOf ((o - 0x6000000) / 0x1000)).upTo s.mod.cycles).dbgRead (o % 0x1000)
  else if 0x6200000 ≤ o ∧ o < 0x6200200 then (s.cluster ((o - 0x6200000) / 0x40)).trace.read (o % 0x40)
  else 0

/-- A write to the debug window. -/
def State.debugWrite (s : State) (o v : Nat) : State :=
  if o < 0x6000000 then (if o % 0x10000 = 0 then s.dbgWrite (o / 0x10000) v else s)
  else if o < 0x6180000 then s.modAux ((o - 0x6000000) / 0x1000) (fun a => a.dbgWrite (o % 0x1000) v)
  else if 0x6200000 ≤ o ∧ o < 0x6200200 then s.traceWrite ((o - 0x6200000) / 0x40) (o % 0x40) v
  else s

/-! ## Writes to a lining store (R351) -/

/-- Bytes of a host write reach a lining store, or are held while that lining runs. -/
def State.liningWrite (s : State) (core off : Nat) (bs : List Byte) : State :=
  let cells := List.zipWith (fun k b => (core * 4096 + off + k, b)) (List.range bs.length) bs
  if (s.auxOf core).lining.run then
    s.modAux core (fun x => { x with lining := { x.lining with writes := x.lining.writes ++ cells } })
  else { s with mem := { s.mem with lining := s.mem.lining.putAll cells } }

/-- LINING_STORE_WRITE: dropped where the module has no lining window (R363). -/
def execLiningStoreWrite (core off len data : Nat) (s : State) : Out :=
  .next (if s.mod.trust.fwOk then s.liningWrite core off (toBytes data len) else s)

/-! ## BAR0 (R351) -/

/-- The queue that a VF's BAR0 maps at block `k`: none outside its queues. -/
def Trust.vfQueue (t : Trust) (n k : Nat) : Option Nat :=
  let e := (SMap.getD t.vf n 0).toNat
  if k < min 64 (fld e 12 7) ∧ fld e 0 12 + k < 4096 then some (fld e 0 12 + k) else none

/-- The windows that a module has: all of them, or the capability list and the attestation mailbox alone (R363, log 106). -/
def State.opened (s : State) (off : Nat) : Bool :=
  s.mod.trust.fwOk || (decide (0x3C0000 ≤ off) && decide (off < 0x3C1000)) || (decide (0x44000 ≤ off) && decide (off < 0x50000))

/-- Where a host write to a register goes: offsets below 2^28 lie in a PF's BAR0; from 2^32 on each VF's 4 KiB BAR0 follows, in
the order of their numbers (log 30). -/
def State.regWrite (s : State) (off v : Nat) : State :=
  if off % 8 ≠ 0 ∨ s.opened off = false then s
  else if 2 ^ 32 ≤ off then
    let o := off - 2 ^ 32
    if o < 64 * 4096 then
      match s.mod.trust.vfQueue (o / 4096) (o % 4096 / 64) with
      | some q => s.queueWrite q (o % 64) v
      | none => s
    else s
  else if off < 0x40000 then s.queueWrite (off / 64) (off % 64) v
  else if off < 0x50000 then s.frontWrite (off - 0x40000) v
  else if 0x200000 ≤ off ∧ off < 0x380000 then s.liningWrite ((off - 0x200000) / 4096) (off % 4096) (toBytes v 8)
  else if 0x8000000 ≤ off ∧ off < 0x10000000 then s.debugWrite (off - 0x8000000) v
  else s

/-- REGISTER_WRITE: 8 bytes at an offset of BAR0; read-only registers and offsets without one ignore it (R6). -/
def execRegisterWrite (off v : Nat) (s : State) : Out := .next (s.regWrite off v)

/-- What the host reads at an offset of BAR0. -/
def State.regRead (s : State) (off : Nat) : Word :=
  if off % 8 ≠ 0 ∨ s.opened off = false then 0
  else if 2 ^ 32 ≤ off then
    let o := off - 2 ^ 32
    if o < 64 * 4096 then
      match s.mod.trust.vfQueue (o / 4096) (o % 4096 / 64) with
      | some q => (s.queue q).read (o % 64)
      | none => 0
    else 0
  else if off < 0x40000 then (s.queue (off / 64)).read (off % 64)
  else if off < 0x50000 then s.frontRead (off - 0x40000)
  else if 0x100000 ≤ off ∧ off < 0x200000 then
    BitVec.ofNat 64 ((s.sctOf ((off - 0x100000) / 0x20000) (off % 0x20000 / 32)).word (off % 32 / 8))
  else if 0x200000 ≤ off ∧ off < 0x380000 then BitVec.ofNat 64 (s.mem.lining.readN (off - 0x200000) 8)
  else if 0x3C0000 ≤ off ∧ off < 0x3C1000 then s.capList.getD ((off - 0x3C0000) / 8) 0
  else if 0x8000000 ≤ off ∧ off < 0x10000000 then s.debugRead (off - 0x8000000)
  else 0

/-! ## BAR2: the scratchpads (R101, R103, R351) -/

/-- A write enters the ingress buffers, one entry for each line that it touches; an idle core applies it at once. -/
def State.ingressPut (s : State) (off len data : Nat) : State :=
  if len = 0 ∨ s.mod.trust.fwOk = false then s
  else
    let o := off % 64
    let d := data * 2 ^ (8 * o)
    let m := (2 ^ len - 1) * 2 ^ o
    (List.range ((o + len + 63) / 64)).foldl (fun s k =>
      let a := off / 64 + k
      if 0x60000000 ≤ 64 * a then s
      else
        let core := a / 0x10000
        (s.modCore core (fun c => { c with
          ingress := c.ingress ++ [⟨a % 0x10000, fld d (512 * k) 512, fld m (64 * k) 64⟩] })).idleIngress core) s

def execIngressWrite (off len data : Nat) (s : State) : Out := .next (s.ingressPut off len data)

/-- A scratchpad byte as a PCIe read returns it: merged with every write to it that has not been applied. -/
def State.hostByte (s : State) (a : Nat) : Byte :=
  if 0x60000000 ≤ a ∨ s.mod.trust.fwOk = false then 0
  else
    let line := a / 64 % 0x10000
    (s.core (a / 0x400000)).ingress.foldl (fun b e =>
      if e.line = line ∧ fld e.mask (a % 64) 1 = 1 then byteOf e.data (a % 64) else b) (s.mem.spad.read a)

def State.hostRead (s : State) (off len : Nat) : State :=
  { s with front := { s.front with host := ⟨(List.range len).map (fun k => s.hostByte (off + k)), false⟩ } }
def execHostScratchpadRead (off len : Nat) (s : State) : Out := .next (s.hostRead off len)

/-- An AtomicOp aimed at a BAR completes as Unsupported Request (R349). -/
def execHostAtomicToBar (_bar _off : Nat) (s : State) : Out :=
  .next { s with front := { s.front with host := ⟨[], true⟩ } }

/-- A write to a core's accounting table (R345). -/
def execAccountingClear (core : Nat) (s : State) : Out := 
  .next (s.ifOpen (fun s => s.modAux core (fun a => { a with acctClear := true })))

end Sys2Proof.Machine
end

