-- ==== Sys2Proof/Machine/Module.lean ====
section
/-!
DEFINITION. Events of the module: time sources (R354), power (R356), bring-up (R4, R355, R357, R363), attestation (R364),
corrected and uncorrectable errors (R358 to R360).
-/

namespace Sys2Proof.Machine

/-! ## Time (R354) -/

/-- Module time's units in a nanosecond. -/
def timeUnit : Nat := 6486480

/-- The source names a time: a forward error above 1 ms is removed by one step, any other by slewing. -/
def Time.meet (t : Time) (ns : Nat) : Time :=
  let err : Int := (ns * timeUnit : Nat) - (t.now : Int)
  if err > (1000000 * timeUnit : Nat) then { t with now := ns * timeUnit, slew := 0, locked := true }
  else { t with slew := err, locked := decide (err.natAbs ≤ 100 * timeUnit) }

/-- Module time meets its source; microseconds that it steps over count for the stream contexts (R105). -/
def State.timeMeets (s : State) (ns : Nat) : State :=
  let s1 := s.modTime (fun t => t.meet ns)
  s1.sctPass s.mod.time s1.mod.time

/-- PPS_EDGE: the edge marks the second that the host has written. -/
def execPpsEdge (s : State) : Out :=
  .next (if s.mod.time.src = 2 then s.timeMeets (s.mod.time.secs * 1000000000) else s)

/-- PTM_EXCHANGE: the master's time. -/
def execPtmExchange (ns : Nat) (s : State) : Out := .next (if s.mod.time.src = 1 then s.timeMeets ns else s)

/-! ## Power (R356) -/

/-- A millisecond's average moves the clock by 1/16 of 2.25 GHz: down above the limit, to 1.125 GHz at the least, and up again
below it, to the clock of the service. -/
def Mod.power (m : Mod) (avg : Nat) : Mod :=
  let top := if m.full then 16 else 8
  { m with
    level := if m.trust.pwrlim < avg then max 8 (m.level - 1) else if avg < m.trust.pwrlim then min top (m.level + 1) else m.level
    trust := { m.trust with pwrnow := avg } }

def execPowerThrottleStep (avg : Nat) (s : State) : Out := .next { s with mod := s.mod.power avg }

/-! ## Bring-up (R4, R355, R357, R361 to R363) -/

/-- What a reset leaves of a core: the units mapped out, and its exclusion. -/
def CoreAux.afterReset (a : CoreAux) : CoreAux :=
  { CoreAux.reset with rowMap := a.rowMap, bankMap := a.bankMap, rowsLost := a.rowsLost, excluded := a.excluded }

/-- A link trains. -/
def trainLink (n l : Nat) : Link := { Link.reset with up := Config.linkUp n l, flight := Config.linkFlight n l % 2 ^ 16 }

/-- MODULE_RESET: everything takes its reset value but host memory, which is not the module's, the shared link clock, the units
mapped out, the leaves of the LMS key already used, and the agenda; the links train, and the shape is the smallest of the
cores' (log 71). -/
def State.moduleReset (s : State) : State :=
  let r := State.reset
  { r with
    mod := { r.mod with
      rows := if s.aux.any (fun a => a.2.rowsLost) then 60 else 64
      time := { r.mod.time with link := s.mod.time.link }
      trust := { r.mod.trust with lmsUsed := s.mod.trust.lmsUsed, fwOk := Config.fwAccepted s.draw } }
    front := { r.front with
      links := (List.range 16).foldl (fun m l => SMap.put m l (trainLink s.draw l)) []
      nextId := s.front.nextId }
    aux := s.aux.map (fun a => (a.1, a.2.afterReset))
    mem := { r.mem with host := s.mem.host }
    agenda := s.agenda
    draw := s.draw + 1 }

def execModuleReset (s : State) : Out := .next s.moduleReset

/-- FULL_SERVICE: the rates change, the capability bits are set and the event is posted. -/
def State.fullService (s : State) : State :=
  if s.mod.full then s
  else ({ s with mod := { s.mod with full := true, hbmFull := true, level := 16 } }).postEvent 6 0xFFFF 0 0 0

def execFullService (s : State) : Out := .next s.fullService

/-! ## Attestation (R364) -/

/-- The bytes of a core's lining store. -/
def State.liningBytes (s : State) (core : Nat) : List Byte :=
  (List.range 4096).map (fun k => s.mem.lining.read (core * 4096 + k))

/-- A report on a nonce (log 72). -/
def State.report (s : State) (nonce : Nat) : Report :=
  let ms := (List.range 384).map (fun n => Config.measure (s.liningBytes n))
  let caps := s.capList
  let body := nonce :: Config.fwMeasure :: ms ++ caps.map BitVec.toNat ++ [Config.serial, Config.secVersion]
  ⟨nonce, Config.fwMeasure, ms, caps, Config.serial, Config.secVersion, Config.signP384 body, Config.signLms body⟩

/-- ATTEST_REQUEST: a report, or status 2 when the LMS key's leaves are exhausted. -/
def State.attest (s : State) (nonce : Nat) : State :=
  let n := nonce % 2 ^ 256
  if Config.lmsLeaves ≤ s.mod.trust.lmsUsed then s.modTrust (fun t => { t with mbNonce := n, mbStatus := 2, mbReport := none })
  else s.modTrust (fun t => { t with mbNonce := n, mbStatus := Config.mbOk, mbReport := some (s.report n), lmsUsed := t.lmsUsed + 1 })

def execAttestRequest (nonce : Nat) (s : State) : Out := .next (s.attest nonce)

/-! ## Errors that are corrected (R358) -/

/-- One more in the error log: clusters 0 to 7, then the HBM stacks. -/
def Trust.logError (t : Trust) (n : Nat) : Trust := { t with errlog := SMap.put t.errlog n (SMap.getD t.errlog n 0 + 1) }

def execCorrectableError (hbm : Bool) (n : Nat) (s : State) : Out :=
  .next (s.modTrust (fun t => t.logError (if hbm then 8 + n else n % 8)))

/-! ## Errors that are not corrected (R359, R360) -/

/-- The count of the error log that an error belongs to: its cluster's or its stack's (log 31). -/
def errLog (u : ErrUnit) (addr : Nat) : Nat :=
  match u with
  | .hbm => 8 + Config.hbmStack addr % 12
  | _ => addr / 0xC000000 % 8

/-- The number of a packet that a queue has begun. -/
def State.pktNum (s : State) (q id : Nat) : Nat :=
  (((s.queue q).begun.find? (fun b => decide (b.pkt.id = id))).map (fun b => b.pkt.num)).getD (Config.openAddr id).toNat

/-- UNCORRECTABLE_ERROR (R359, R360). Readers without a team take the stored bits: the host's read completes and the error is logged;
a command processor's and an eviction's is a queue error, code STREAM or XLAT respectively; it names the packet that asked for the
eviction, and of an expiry no packet is given (log 31). -/
def State.uncorrectable (s : State) (who : ErrReader) (addr : Nat) (unit : ErrUnit) : State :=
  let s1 := (s.mapOut unit).1.stored none addr unit
  match who with
  | .context hw => s.teamError hw addr unit true
  | .command hw => s.teamError hw addr unit false
  | .host => s1.modTrust (fun t => t.logError (errLog unit addr))
  | .processor q => s1.queueErr q 8 ((s.queue q).begun.headD ⟨⟨0, 0, (s.queue q).head, 0, [], false, none, false, []⟩, 0⟩).pkt.num 0
  | .sct cl e =>
    let x := s.sctOf cl e
    match x.req with
    | (q, id) :: _ => s1.queueErr q 4 (s.pktNum q id) 0
    | [] => s1.queueErr x.queue 4 (Config.openAddr x.sid).toNat 0

def execUncorrectableError (who : ErrReader) (addr : Nat) (unit : ErrUnit) (s : State) : Out := .next (s.uncorrectable who addr unit)

/-! ## A real cycle of the module -/

/-- An engine's access beside the present real cycle: it meets the bytes as they were before the core ports' writes of the cycle, and
these bytes keep the core ports' values (R91, R156). -/
def State.sharedDo (s : State) (i : Instr) : State :=
  let now := s.oldBytes.map (fun x => (x.1, s.mem.spad.read x.1))
  let u := s.spadRaw s.oldBytes
  let r := match i with
    | .engineCommandComplete e => execEngineCommandComplete e u
    | .linkFlitReceive l t f bad => execLinkFlitReceive l t f bad u
    | _ => .next u
  match r with
  | .next v => v.spadRaw now
  | _ => s

/-- The engines' accesses that were placed beside the present real cycle, in their order (log 37). -/
def State.sharedStage (s : State) : State := s.shared.foldl State.sharedDo s

/-- One real cycle of the module: its cores, lower ones first (R343), the engines' accesses beside it, and its end. -/
def tick (s : State) : Out := .next ((s.coreList.foldl (fun s k => s.coreCycle k) s.barStage).sharedStage.cycleEnd)

end Sys2Proof.Machine
end

