-- ==== Sys2Proof/Machine/Dispatch.lean ====
section
/-!
DEFINITION. The meaning of every instruction and event: one arm for each constructor, one direct call of its meaning.
-/

namespace Sys2Proof.Machine

def exec (i : Instr) (s : State) : Host.Outcome State Fault Refusal :=
  match i with
  | .brEqz o => Sys2Proof.Machine.execBrEqz o s
  | .brNez o => Sys2Proof.Machine.execBrNez o s
  | .brLtz o => Sys2Proof.Machine.execBrLtz o s
  | .brGez o => Sys2Proof.Machine.execBrGez o s
  | .brGtz o => Sys2Proof.Machine.execBrGtz o s
  | .brLez o => Sys2Proof.Machine.execBrLez o s
  | .brc o => Sys2Proof.Machine.execBrc o s
  | .brpAll o => Sys2Proof.Machine.execBrpAll o s
  | .brpNone o => Sys2Proof.Machine.execBrpNone o s
  | .jmp o => Sys2Proof.Machine.execJmp o s
  | .call o => Sys2Proof.Machine.execCall o s
  | .loopb o => Sys2Proof.Machine.execLoopb o s
  | .jmpi o => Sys2Proof.Machine.execJmpi o s
  | .calli o => Sys2Proof.Machine.execCalli o s
  | .ret o => Sys2Proof.Machine.execRet o s
  | .svc o => Sys2Proof.Machine.execSvc o s
  | .brk o => Sys2Proof.Machine.execBrk o s
  | .eret => Sys2Proof.Machine.execEret s
  | .add o => Sys2Proof.Machine.execAdd o s
  | .sub o => Sys2Proof.Machine.execSub o s
  | .and o => Sys2Proof.Machine.execAnd o s
  | .or o => Sys2Proof.Machine.execOr o s
  | .xor o => Sys2Proof.Machine.execXor o s
  | .addsh o sh => Sys2Proof.Machine.execAddsh o sh s
  | .mov o => Sys2Proof.Machine.execMov o s
  | .addi o => Sys2Proof.Machine.execAddi o s
  | .li o => Sys2Proof.Machine.execLi o s
  | .andi o => Sys2Proof.Machine.execAndi o s
  | .ori o => Sys2Proof.Machine.execOri o s
  | .xori o => Sys2Proof.Machine.execXori o s
  | .slti o => Sys2Proof.Machine.execSlti o s
  | .shl o => Sys2Proof.Machine.execShl o s
  | .shr o => Sys2Proof.Machine.execShr o s
  | .sra o => Sys2Proof.Machine.execSra o s
  | .shli o => Sys2Proof.Machine.execShli o s
  | .shri o => Sys2Proof.Machine.execShri o s
  | .srai o => Sys2Proof.Machine.execSrai o s
  | .clz o => Sys2Proof.Machine.execClz o s
  | .popc o => Sys2Proof.Machine.execPopc o s
  | .mul o => Sys2Proof.Machine.execMul o s
  | .mulh o => Sys2Proof.Machine.execMulh o s
  | .mulhs o => Sys2Proof.Machine.execMulhs o s
  | .div o => Sys2Proof.Machine.execDiv o s
  | .divs o => Sys2Proof.Machine.execDivs o s
  | .rem o => Sys2Proof.Machine.execRem o s
  | .rems o => Sys2Proof.Machine.execRems o s
  | .min o => Sys2Proof.Machine.execMin o s
  | .max o => Sys2Proof.Machine.execMax o s
  | .mins o => Sys2Proof.Machine.execMins o s
  | .maxs o => Sys2Proof.Machine.execMaxs o s
  | .slt o => Sys2Proof.Machine.execSlt o s
  | .slts o => Sys2Proof.Machine.execSlts o s
  | .seq o => Sys2Proof.Machine.execSeq o s
  | .sel o c neg => Sys2Proof.Machine.execSel o c neg s
  | .cmpc o cc => Sys2Proof.Machine.execCmpc o cc s
  | .bfx o => Sys2Proof.Machine.execBfx o s
  | .bfi o => Sys2Proof.Machine.execBfi o s
  | .mfc o => Sys2Proof.Machine.execMfc o s
  | .mtc o => Sys2Proof.Machine.execMtc o s
  | .ldb o => Sys2Proof.Machine.execLdb o s
  | .ldbs o => Sys2Proof.Machine.execLdbs o s
  | .ldh o => Sys2Proof.Machine.execLdh o s
  | .ldhs o => Sys2Proof.Machine.execLdhs o s
  | .ldw o => Sys2Proof.Machine.execLdw o s
  | .ldws o => Sys2Proof.Machine.execLdws o s
  | .ldd o => Sys2Proof.Machine.execLdd o s
  | .stb o => Sys2Proof.Machine.execStb o s
  | .sth o => Sys2Proof.Machine.execSth o s
  | .stw o => Sys2Proof.Machine.execStw o s
  | .std o => Sys2Proof.Machine.execStd o s
  | .idleXy => Sys2Proof.Machine.execIdleXy s
  | .vadd o sat => Sys2Proof.Machine.execVadd o sat s
  | .vsub o sat => Sys2Proof.Machine.execVsub o sat s
  | .vmul o => Sys2Proof.Machine.execVmul o s
  | .vmulh o => Sys2Proof.Machine.execVmulh o s
  | .vmac o => Sys2Proof.Machine.execVmac o s
  | .vmacs o => Sys2Proof.Machine.execVmacs o s
  | .vabs o sat => Sys2Proof.Machine.execVabs o sat s
  | .vneg o sat => Sys2Proof.Machine.execVneg o sat s
  | .vmin o => Sys2Proof.Machine.execVmin o s
  | .vmax o => Sys2Proof.Machine.execVmax o s
  | .vsat o n => Sys2Proof.Machine.execVsat o n s
  | .vnrw o sh sat rnd => Sys2Proof.Machine.execVnrw o sh sat rnd s
  | .vwid o => Sys2Proof.Machine.execVwid o s
  | .vand o => Sys2Proof.Machine.execVand o s
  | .vor o => Sys2Proof.Machine.execVor o s
  | .vxor o => Sys2Proof.Machine.execVxor o s
  | .vnot o => Sys2Proof.Machine.execVnot o s
  | .vshl o b => Sys2Proof.Machine.execVshl o b s
  | .vshr o b => Sys2Proof.Machine.execVshr o b s
  | .vsra o b => Sys2Proof.Machine.execVsra o b s
  | .vcmp o cc => Sys2Proof.Machine.execVcmp o cc s
  | .vsel o c => Sys2Proof.Machine.execVsel o c s
  | .vfadd o => Sys2Proof.Machine.execVfadd o s
  | .vfsub o => Sys2Proof.Machine.execVfsub o s
  | .vfmul o => Sys2Proof.Machine.execVfmul o s
  | .vfma o c => Sys2Proof.Machine.execVfma o c s
  | .vfms o c => Sys2Proof.Machine.execVfms o c s
  | .vfmin o => Sys2Proof.Machine.execVfmin o s
  | .vfmax o => Sys2Proof.Machine.execVfmax o s
  | .vfcmp o cc => Sys2Proof.Machine.execVfcmp o cc s
  | .vfcls o => Sys2Proof.Machine.execVfcls o s
  | .vcvt o u hi => Sys2Proof.Machine.execVcvt o u hi s
  | .vrcp o => Sys2Proof.Machine.execVrcp o s
  | .vrsq o => Sys2Proof.Machine.execVrsq o s
  | .vexp o => Sys2Proof.Machine.execVexp o s
  | .vlog o => Sys2Proof.Machine.execVlog o s
  | .vtanh o => Sys2Proof.Machine.execVtanh o s
  | .vqnt o c q => Sys2Proof.Machine.execVqnt o c q s
  | .vdqnt o c q => Sys2Proof.Machine.execVdqnt o c q s
  | .vred o op => Sys2Proof.Machine.execVred o op s
  | .vperm o => Sys2Proof.Machine.execVperm o s
  | .vsld o sh => Sys2Proof.Machine.execVsld o sh s
  | .vbcstScalar o => Sys2Proof.Machine.execVbcstScalar o s
  | .vbcstElement o idx => Sys2Proof.Machine.execVbcstElement o idx s
  | .vins o idx => Sys2Proof.Machine.execVins o idx s
  | .vext o idx => Sys2Proof.Machine.execVext o idx s
  | .vmov o => Sys2Proof.Machine.execVmov o s
  | .viota o => Sys2Proof.Machine.execViota o s
  | .pand o => Sys2Proof.Machine.execPand o s
  | .por o => Sys2Proof.Machine.execPor o s
  | .pxor o => Sys2Proof.Machine.execPxor o s
  | .pnot o => Sys2Proof.Machine.execPnot o s
  | .pset o => Sys2Proof.Machine.execPset o s
  | .pcnt o => Sys2Proof.Machine.execPcnt o s
  | .idleVw => Sys2Proof.Machine.execIdleVw s
  | .vld o => Sys2Proof.Machine.execVld o s
  | .vst o => Sys2Proof.Machine.execVst o s
  | .vlds o => Sys2Proof.Machine.execVlds o s
  | .vsts o => Sys2Proof.Machine.execVsts o s
  | .vldb o => Sys2Proof.Machine.execVldb o s
  | .vldx o => Sys2Proof.Machine.execVldx o s
  | .vstx o => Sys2Proof.Machine.execVstx o s
  | .pld o => Sys2Proof.Machine.execPld o s
  | .pst o => Sys2Proof.Machine.execPst o s
  | .fill o => Sys2Proof.Machine.execFill o s
  | .idleL => Sys2Proof.Machine.execIdleL s
  | .mmul o => Sys2Proof.Machine.execMmul o s
  | .macc o => Sys2Proof.Machine.execMacc o s
  | .mmuls o sel => Sys2Proof.Machine.execMmuls o sel s
  | .maccs o sel => Sys2Proof.Machine.execMaccs o sel s
  | .mstrm o => Sys2Proof.Machine.execMstrm o s
  | .mzero o => Sys2Proof.Machine.execMzero o s
  | .mrdv o => Sys2Proof.Machine.execMrdv o s
  | .mwrv o => Sys2Proof.Machine.execMwrv o s
  | .mrds o => Sys2Proof.Machine.execMrds o s
  | .mwrs o => Sys2Proof.Machine.execMwrs o s
  | .mseam o => Sys2Proof.Machine.execMseam o s
  | .mresume o => Sys2Proof.Machine.execMresume o s
  | .idleM => Sys2Proof.Machine.execIdleM s
  | .cplvl o => Sys2Proof.Machine.execCplvl o s
  | .cpbase o => Sys2Proof.Machine.execCpbase o s
  | .cpgo o => Sys2Proof.Machine.execCpgo o s
  | .cpstrm o => Sys2Proof.Machine.execCpstrm o s
  | .cpstrmOff o => Sys2Proof.Machine.execCpstrmOff o s
  | .cpcan o => Sys2Proof.Machine.execCpcan o s
  | .cpstat o => Sys2Proof.Machine.execCpstat o s
  | .lksend o => Sys2Proof.Machine.execLksend o s
  | .lkrecv o => Sys2Proof.Machine.execLkrecv o s
  | .lkred o => Sys2Proof.Machine.execLkred o s
  | .lktime o => Sys2Proof.Machine.execLktime o s
  | .tlbinv o => Sys2Proof.Machine.execTlbinv o s
  | .idleC => Sys2Proof.Machine.execIdleC s
  | .gpush o => Sys2Proof.Machine.execGpush o s
  | .gpop o => Sys2Proof.Machine.execGpop o s
  | .sacc o => Sys2Proof.Machine.execSacc o s
  | .sfop o => Sys2Proof.Machine.execSfop o s
  | .nlbin o => Sys2Proof.Machine.execNlbin o s
  | .nlpos o => Sys2Proof.Machine.execNlpos o s
  | .nlreq o => Sys2Proof.Machine.execNlreq o s
  | .nlpop o => Sys2Proof.Machine.execNlpop o s
  | .nlstat o => Sys2Proof.Machine.execNlstat o s
  | .spawn o => Sys2Proof.Machine.execSpawn o s
  | .take o => Sys2Proof.Machine.execTake o s
  | .watch o => Sys2Proof.Machine.execWatch o s
  | .unwatch o => Sys2Proof.Machine.execUnwatch o s
  | .idleQ => Sys2Proof.Machine.execIdleQ s
  | .setfmtImm o => Sys2Proof.Machine.execSetfmtImm o s
  | .setfmtReg o => Sys2Proof.Machine.execSetfmtReg o s
  | .waitt o => Sys2Proof.Machine.execWaitt o s
  | .slack o => Sys2Proof.Machine.execSlack o s
  | .drain o => Sys2Proof.Machine.execDrain o s
  | .bar o => Sys2Proof.Machine.execBar o s
  | .yield g => Sys2Proof.Machine.execYield g s
  | .yieldNw g => Sys2Proof.Machine.execYieldNw g s
  | .tdone g => Sys2Proof.Machine.execTdone g s
  | .ovl o => Sys2Proof.Machine.execOvl o s
  | .zset o => Sys2Proof.Machine.execZset o s
  | .time o => Sys2Proof.Machine.execTime o s
  | .perf o => Sys2Proof.Machine.execPerf o s
  | .getflg o => Sys2Proof.Machine.execGetflg o s
  | .clrflg o => Sys2Proof.Machine.execClrflg o s
  | .spflag o keep => Sys2Proof.Machine.execSpflag o keep s
  | .wfe o => Sys2Proof.Machine.execWfe o s
  | .halt g => Sys2Proof.Machine.execHalt g s
  | .keyld o => Sys2Proof.Machine.execKeyld o s
  | .keyldClr o => Sys2Proof.Machine.execKeyldClr o s
  | .bundleIssue hw => Sys2Proof.Machine.execBundleIssue hw s
  | .ifetchStallEnd hw => Sys2Proof.Machine.execIfetchStallEnd hw s
  | .resultLand hw => Sys2Proof.Machine.execResultLand hw s
  | .productCommit core => Sys2Proof.Machine.execProductCommit core s
  | .streamSliceArrive core => Sys2Proof.Machine.execStreamSliceArrive core s
  | .contextUnblock hw => Sys2Proof.Machine.execContextUnblock hw s
  | .primarySwitch core => Sys2Proof.Machine.execPrimarySwitch core s
  | .wfeWake hw => Sys2Proof.Machine.execWfeWake hw s
  | .preemption hw => Sys2Proof.Machine.execPreemption hw s
  | .hemovr hw => Sys2Proof.Machine.execHemovr hw s
  | .budgetOverrun hw => Sys2Proof.Machine.execBudgetOverrun hw s
  | .trapEntry hw => Sys2Proof.Machine.execTrapEntry hw s
  | .minorFault hw va write eng => Sys2Proof.Machine.execMinorFault hw va write eng s
  | .liningRun core => Sys2Proof.Machine.execLiningRun core s
  | .liningEnd core => Sys2Proof.Machine.execLiningEnd core s
  | .pageWalk cl eng asid va write => Sys2Proof.Machine.execPageWalk cl eng asid va write s
  | .engineMajorFault e => Sys2Proof.Machine.execEngineMajorFault e s
  | .streamFaultDeliver core => Sys2Proof.Machine.execStreamFaultDeliver core s
  | .elementaryCopyEmit cl slot => Sys2Proof.Machine.execElementaryCopyEmit cl slot s
  | .engineCommandComplete e => Sys2Proof.Machine.execEngineCommandComplete e s
  | .engineTakesCommand hw id => Sys2Proof.Machine.execEngineTakesCommand hw id s
  | .dataQueueEntryArrive hw => Sys2Proof.Machine.execDataQueueEntryArrive hw s
  | .stitchPushDeferred cl entry => Sys2Proof.Machine.execStitchPushDeferred cl entry s
  | .watchWindowStart cl => Sys2Proof.Machine.execWatchWindowStart cl s
  | .dispatch hw => Sys2Proof.Machine.execDispatch hw s
  | .barrierRelease cl team => Sys2Proof.Machine.execBarrierRelease cl team s
  | .segmentCopyDone core seg => Sys2Proof.Machine.execSegmentCopyDone core seg s
  | .linkWindowStart link send => Sys2Proof.Machine.execLinkWindowStart link send s
  | .linkFlitReceive link tick flit bad => Sys2Proof.Machine.execLinkFlitReceive link tick flit bad s
  | .lktimeReached hw id => Sys2Proof.Machine.execLktimeReached hw id s
  | .sctExpiry cl entry => Sys2Proof.Machine.execSctExpiry cl entry s
  | .evictionDone cl entry => Sys2Proof.Machine.execEvictionDone cl entry s
  | .evictionFailed cl entry => Sys2Proof.Machine.execEvictionFailed cl entry s
  | .nop q ahead => Sys2Proof.Machine.execNop q ahead s
  | .launch q ahead => Sys2Proof.Machine.execLaunch q ahead s
  | .launchComplete n => Sys2Proof.Machine.execLaunchComplete n s
  | .task q ahead => Sys2Proof.Machine.execTask q ahead s
  | .signal q ahead => Sys2Proof.Machine.execSignal q ahead s
  | .waitsig q ahead => Sys2Proof.Machine.execWaitsig q ahead s
  | .waitsigHolds q => Sys2Proof.Machine.execWaitsigHolds q s
  | .waitsigTimeout q => Sys2Proof.Machine.execWaitsigTimeout q s
  | .pred q ahead => Sys2Proof.Machine.execPred q ahead s
  | .loop q ahead => Sys2Proof.Machine.execLoop q ahead s
  | .indir q ahead => Sys2Proof.Machine.execIndir q ahead s
  | .ffence q ahead => Sys2Proof.Machine.execFfence q ahead s
  | .atPkt q ahead => Sys2Proof.Machine.execAtPkt q ahead s
  | .atTimeReached q => Sys2Proof.Machine.execAtTimeReached q s
  | .streamPin q ahead => Sys2Proof.Machine.execStreamPin q ahead s
  | .streamTouch q ahead => Sys2Proof.Machine.execStreamTouch q ahead s
  | .streamEvict q ahead => Sys2Proof.Machine.execStreamEvict q ahead s
  | .event q ahead => Sys2Proof.Machine.execEvent q ahead s
  | .qtailWrite q v => Sys2Proof.Machine.execQtailWrite q v s
  | .queueEnable q => Sys2Proof.Machine.execQueueEnable q s
  | .queueDisable q => Sys2Proof.Machine.execQueueDisable q s
  | .qstatClear q => Sys2Proof.Machine.execQstatClear q s
  | .evheadWrite v => Sys2Proof.Machine.execEvheadWrite v s
  | .trheadWrite cl v => Sys2Proof.Machine.execTrheadWrite cl v s
  | .registerWrite off v => Sys2Proof.Machine.execRegisterWrite off v s
  | .ingressWrite off len data => Sys2Proof.Machine.execIngressWrite off len data s
  | .hostScratchpadRead off len => Sys2Proof.Machine.execHostScratchpadRead off len s
  | .liningStoreWrite core off len data => Sys2Proof.Machine.execLiningStoreWrite core off len data s
  | .attestRequest nonce => Sys2Proof.Machine.execAttestRequest nonce s
  | .dbgRun hw => Sys2Proof.Machine.execDbgRun hw s
  | .dbgStep hw => Sys2Proof.Machine.execDbgStep hw s
  | .dbgStopreq hw => Sys2Proof.Machine.execDbgStopreq hw s
  | .debugBreak hw => Sys2Proof.Machine.execDebugBreak hw s
  | .stepLimit hw => Sys2Proof.Machine.execStepLimit hw s
  | .accountingClear core => Sys2Proof.Machine.execAccountingClear core s
  | .moduleReset => Sys2Proof.Machine.execModuleReset s
  | .fullService => Sys2Proof.Machine.execFullService s
  | .uncorrectableError who addr unit => Sys2Proof.Machine.execUncorrectableError who addr unit s
  | .ppsEdge => Sys2Proof.Machine.execPpsEdge s
  | .ptmExchange ns => Sys2Proof.Machine.execPtmExchange ns s
  | .powerThrottleStep avg => Sys2Proof.Machine.execPowerThrottleStep avg s
  | .hostAtomicToBar bar off => Sys2Proof.Machine.execHostAtomicToBar bar off s
  | .mrdsMwrsRow core => Sys2Proof.Machine.execMrdsMwrsRow core s
  | .correctableError hbm n => Sys2Proof.Machine.execCorrectableError hbm n s

end Sys2Proof.Machine
end

