-- ==== Sys2Proof/Machine/Place.lean ====
section
/-!
DEFINITION. Which terms are no entry of the agenda, and a machine that is about to issue one given syllable.
-/

namespace Sys2Proof.Machine

/-- A syllable, which only a bundle brings, or an event that a real cycle of a core brings of itself: no entry of the agenda (log 79). -/
def ownCycle (i : Instr) : Bool :=
  i.slot?.isSome ||
    match i with
    | .bundleIssue _ | .resultLand _ | .productCommit _ | .streamSliceArrive _ | .contextUnblock _ | .primarySwitch _ | .wfeWake _
    | .hemovr _ | .trapEntry _ | .streamFaultDeliver _ | .debugBreak _ | .stepLimit _ | .mrdsMwrsRow _ => true
    | _ => false

/-- An event by which an engine, or a link, accesses a scratchpad through an engine port: it can share a real cycle with the bundles
that issue in it (R91, R156). -/
def sharesCycle : Instr → Bool
  | .engineCommandComplete _ | .linkFlitReceive .. => true
  | _ => false

/-- The number of a slot (R293). -/
def slotNo : Slot → Nat
  | .b => 0
  | .x => 1
  | .y => 2
  | .v => 3
  | .w => 4
  | .l => 5
  | .m => 6
  | .c => 7
  | .q => 8
  | .f => 9

/-- The bytes of a bundle that holds one syllable and closes its stop group (R17, R18); MMULS and MACCS take their extension. -/
def oneSlot (k w : Nat) : List Byte :=
  let n := if k = 6 ∧ (fld w 56 8 = 3 ∨ fld w 56 8 = 4) then 16 else sylBytes k
  toBytes (2 ^ (31 - k) + 2 ^ 21) 4 ++ toBytes w n

/-- CTX0 of core 0 is its core's primary, at program address 0, in trap mode for ERET. -/
def Ctx.atZero (c : Ctx) (trap : Bool) : Ctx :=
  { c with
    frame := Frame.reset
    async := []
    dbg := { c.dbg with st := 0, stopreq := false, bken := false }
    run := { c.run with st := .ready, stage := .none, phase := 1, window := 0, priv := true, trap := trap, earliest := 0 } }

/-- CTX0 of core 0 issues the given syllable next: its program page 0 holds the bundle, and the core's clock runs. -/
def State.placed (s : State) (i : Instr) (w : Nat) : State :=
  match i.slot? with
  | none => s
  | some sl =>
    let bs := oneSlot (slotNo sl) w
    let s1 := (s.modCtx 0 (fun c => c.atZero (decide (i = .eret)))).modCore 0 (fun k => { k with
      prim := some 0
      sw := false
      holds := []
      segs := [⟨0, 0, 1, 0, 0, true, false, 0, none⟩] })
    { s1.imemWrite 0 bs with agenda := [], oldBytes := [], shared := [] }

end Sys2Proof.Machine
end

