-- ==== Sys2Proof/Machine/Step.lean ====
section
/-!
DEFINITION. The step: the next entry of the agenda (log 3), a real cycle of the module or an event of an agent; and where an
instruction lies that the next step runs.
-/

namespace Sys2Proof.Machine

/-- One step. With nothing on the agenda a real cycle passes. -/
def step (s : State) : Host.Outcome State Fault Refusal :=
  match s.agenda with
  | [] => s.indivisible tick
  | .tick :: r => State.indivisible { s with agenda := r } tick
  | .ev i :: r =>
    if !i.wf then .fault .noSuchAgent
    else if ownCycle i then .fault .notOnAgenda
    else State.indivisible { s with agenda := r } (exec i)
  | .within i :: r =>
    if !i.wf then .fault .noSuchAgent
    else if !sharesCycle i then .fault .notOnAgenda
    else .next { s with agenda := r, shared := s.shared ++ [i] }

/-- The state whose next step runs the given instruction. -/
def State.withFetchWord (s : State) (nbits w : Nat) : State :=
  match decodeTableWord nbits w with
  | some i => s.placed i w
  | none => s

end Sys2Proof.Machine
end

