-- ==== Sys2Proof/Certificates/Slice0/Obligations.lean ====
section
/-!
DEFINITION. The statements for the provers, and the tables of the spec in whose terms they are made.
-/

namespace Sys2Proof.Claims

open Sys2Proof.Machine

/-! ## What the statements speak of -/

/-- A value result as an instruction leaves it pending: destination, bytes written, value, flags, latency (R11, R130). -/
structure Res where
  dest : Dest
  mask : PReg
  val : VReg
  flags : Flags
  lat : Nat

/-- The pending entry of a result: it lands `lat` schedule cycles after its issue (R11); `lat` array cycles later its pipeline
has finished (R296). -/
def Res.pend (r : Res) (s : State) : Pend :=
  ⟨r.dest, r.mask, r.val, r.flags, s.me.run.sched + r.lat, (s.core s.myCore).arr + r.lat, s.cur.bundle, none, 0, 0⟩

/-- A scalar result. -/
def sRes (d : Nat) (v : Word) (flags : Flags) (lat : Nat) : Res := ⟨.s d, 0, BitVec.ofNat 4096 v.toNat, flags, lat⟩
/-- A vector result under a byte mask. -/
def vRes (d : Nat) (mask : PReg) (v : VReg) (flags : Flags) (lat : Nat) : Res := ⟨.v d, mask, v, flags, lat⟩
/-- A predicate result under a bit mask. -/
def pRes (d : Nat) (mask v : PReg) (flags : Flags) (lat : Nat) : Res := ⟨.p d, mask, BitVec.ofNat 4096 v.toNat, flags, lat⟩

/-- Every byte of every memory, and every element of the accumulator store and of the bias buffer, reads as before. -/
structure MemSame (s t : State) : Prop where
  hbm : ∀ a, t.mem.hbm.read a = s.mem.hbm.read a
  host : ∀ a, t.mem.host.read a = s.mem.host.read a
  spad : ∀ a, t.mem.spad.read a = s.mem.spad.read a
  imem : ∀ a, t.mem.imem.read a = s.mem.imem.read a
  lining : ∀ a, t.mem.lining.read a = s.mem.lining.read a
  acs : ∀ n, SMap.getD t.mem.acs n 0 = SMap.getD s.mem.acs n 0
  bias : ∀ n, SMap.getD t.mem.bias n 0 = SMap.getD s.mem.bias n 0

/-- Nothing outside the contexts and the memories has changed. -/
structure RestSame (s t : State) : Prop where
  mod : t.mod = s.mod
  front : t.front = s.front
  clusters : t.clusters = s.clusters
  cores : t.cores = s.cores
  aux : t.aux = s.aux
  agenda : t.agenda = s.agenda
  oldBytes : t.oldBytes = s.oldBytes
  shared : t.shared = s.shared

/-- The registers of a context: scalar, condition, vector, predicate and generator registers, the trap bank, FMT, FLG, SPFAULT,
zones and tokens, and the control registers. -/
structure RegsSame (c d : Ctx) : Prop where
  regs : d.regs = c.regs
  bank : d.bank = c.bank
  fmt : d.fmt = c.fmt
  ctl : d.ctl = c.ctl

/-- What a context holds beside its registers, its pending results, its engine side and its energy. -/
structure CourseSame (c d : Ctx) : Prop where
  frame : d.frame = c.frame
  tframe : d.tframe = c.tframe
  async : d.async = c.async
  run : d.run = c.run
  perf : d.perf = c.perf
  ckpt : d.ckpt = c.ckpt
  dbg : d.dbg = c.dbg

/-- Every other context is as before. -/
def OthersSame (s t : State) : Prop := ∀ hw, hw ≠ s.cur.hw → t.ctx hw = s.ctx hw

/-- The energy counter of a context after `n` events of a code (R346, R347). -/
def charged (s : State) (code n : Nat) : Word :=
  s.me.energy + BitVec.ofNat 64 (SMap.getD (s.auxOf s.myCore).weights code 0 * n)

/-- An instruction that only computes: its results are pending beside the earlier ones, the energy counter has a given value, and
nothing else has changed. -/
structure Gives (s t : State) (rs : List Res) (energy : Word) : Prop where
  results : (t.ctx s.cur.hw).pend = { s.me.pend with val := s.me.pend.val ++ rs.map (fun r => r.pend s) }
  energy : (t.ctx s.cur.hw).energy = energy
  regs : RegsSame s.me (t.ctx s.cur.hw)
  course : CourseSame s.me (t.ctx s.cur.hw)
  eng : (t.ctx s.cur.hw).eng = s.me.eng
  others : OthersSame s t
  rest : RestSame s t
  mem : MemSame s t

/-- The same with one event of an energy code counted. -/
abbrev Computes (s t : State) (rs : List Res) (code : Nat) : Prop := Gives s t rs (charged s code 1)

/-- The instruction answers a next state of which `p` holds. -/
def Answers (i : Instr) (s : State) (p : State → Prop) : Prop := ∃ t, exec i s = .next t ∧ p t

/-- A syllable whose guard does not hold changes nothing (R27). -/
def Nullified (i : Instr) (s : State) : Prop := exec i s = .next s

/-- An X or Y instruction under guard `g` that computes the given results; nullified otherwise. -/
def XyGives (i : Instr) (s : State) (g : Nat) (rs : List Res) : Prop :=
  (s.me.guardN g = true → Answers i s (fun t => Computes s t rs 1)) ∧ (s.me.guardN g = false → Nullified i s)

/-! ## X and Y: integer arithmetic (R110 to R118) -/

/-- A 32-bit literal, sign-extended (R24). -/
def litWord (v : Nat) : Word := BitVec.ofInt 64 (if v < 2 ^ 31 then (v : Int) else (v : Int) - (2 ^ 32 : Nat))

/-- Operand B of format N-R: a register or the sign-extended literal (R24, R113). -/
def opB (c : Ctx) : Src → Word
  | .reg n => c.sreg n
  | .lit v => litWord v

/-- Operand B of format N-I: the sign-extended immediate or literal. -/
def immB : Imm → Word
  | .imm v => BitVec.ofInt 64 v
  | .lit v => litWord v

/-- Operand B of ORI and XORI: their literal is zero-extended (R113, R118). -/
def immZ0 : Imm → Word
  | .imm v => BitVec.ofInt 64 v
  | .lit v => BitVec.ofNat 64 v

/-- An instruction of format N-R with latency 1 that writes `f A B` to s[d]. -/
def RegResult (i : Instr) (s : State) (o : NR) (f : Word → Word → Word) : Prop :=
  XyGives i s o.g [sRes o.d (f (s.me.sreg o.a) (opB s.me o.b)) 0 1]

/-- An instruction of format N-I with latency 1 that writes `f A B` to s[d]. -/
def ImmResult (i : Instr) (s : State) (o : NI) (f : Word → Word → Word) : Prop :=
  XyGives i s o.g [sRes o.d (f (s.me.sreg o.a) (immB o.b)) 0 1]

/-- A division: latency 12; a divisor of zero raises dz (R112, R115). -/
def DivResult (i : Instr) (s : State) (o : NR) (f : Word → Word → Word) : Prop :=
  XyGives i s o.g
    [sRes o.d (f (s.me.sreg o.a) (opB s.me o.b)) (if opB s.me o.b = 0 then 0x08#6 else 0) 12]

/-- The shifts (R114). -/
def shl (a b : Word) : Word := BitVec.ofNat 64 (a.toNat * 2 ^ (b.toNat % 64))
def shr (a b : Word) : Word := BitVec.ofNat 64 (a.toNat / 2 ^ (b.toNat % 64))
def sra (a b : Word) : Word := BitVec.ofInt 64 (a.toInt / (2 : Int) ^ (b.toNat % 64))
def one (b : Bool) : Word := if b = true then 1 else 0


/-! ## X and Y: compare, control registers, loads and stores -/

/-- The test of CMPC (R116). -/
def condTest (cc : CCmp) (a b : Word) : Bool :=
  match cc with
  | .eq => decide (a = b)
  | .ne => decide (a ≠ b)
  | .lt => decide (a.toInt < b.toInt)
  | .ge => decide (b.toInt ≤ a.toInt)
  | .ltu => decide (a.toNat < b.toNat)
  | .geu => decide (b.toNat ≤ a.toNat)
  | .tst => decide (a &&& b ≠ 0)
  | .ntst => decide (a &&& b = 0)

/-- The value that MFC copies (R121, R122). -/
def ctlValue (s : State) (num : Nat) : Word :=
  let c := s.me
  let hw := seatOf s.cur.hw
  if num = 0x000 then c.ctl.tvec else if num = 0x001 then c.ctl.tcause else if num = 0x002 then c.ctl.tbundle
  else if num = 0x003 then c.ctl.tcycle else if num = 0x004 then c.ctl.taddr else if num = 0x005 then c.ctl.tinfo
  else if num = 0x006 then c.ctl.hembound else if num = 0x007 then c.ctl.seambase
  else if num = 0x008 then BitVec.ofNat 64 (hw / 4 % 48 * 2 ^ 14 + hw / 192 * 2 ^ 11 + hw)
  else if num = 0x009 then c.ctl.asid else if num = 0x00A then c.ctl.team else if num = 0x00B then 0x3C0000#64
  else if num = 0x00C then BitVec.ofNat 64 (c.pocketN (s.core s.myCore).arr)
  else if num = 0x00D then BitVec.ofNat 64 c.run.slackRem else 0

/-- The control registers after MTC: the named register takes the value but for its reserved bits; a read-only one keeps its
own (R120, R121, R292, R293). Which bits of ASID and TCAUSE are kept is log 52. -/
def ctlAfter (c : Ctl) (num : Nat) (v : Word) : Ctl :=
  { c with
    tvec := if num = 0 then v else c.tvec
    tcause := if num = 1 then v &&& 0xFF#64 else c.tcause
    tbundle := if num = 2 then v else c.tbundle
    tcycle := if num = 3 then v else c.tcycle
    taddr := if num = 4 then v else c.taddr
    tinfo := if num = 5 then v &&& 0xFFFFF8F0#64 else c.tinfo
    hembound := if num = 6 then v else c.hembound
    seambase := if num = 7 then v else c.seambase
    asid := if num = 9 then v &&& 0x3FFF#64 else c.asid }

/-- The registers whose MTC is privileged (R121). -/
def privReg (num : Nat) : Bool := decide (num ≤ 7 ∨ num = 9)

/-- The effective address of a scalar access (R119). -/
def scalarEa (c : Ctx) (o : NI) : Nat := (c.sreg o.a + immB o.b).toNat

/-- `n` bytes from address `a` of the own scratchpad, the lowest first (R5), as the core's port reads them (R91): a byte out of range
reads as zero (R93). -/
def ownValue (s : State) (a : Nat) : Nat → Nat
  | 0 => 0
  | n + 1 => (s.ownByte s.myCore a).toNat + 256 * ownValue s (a + 1) n

/-- A loaded value of `n` bytes as 64 bits. -/
def extended (sgn : Bool) (n v : Nat) : Word :=
  if sgn then BitVec.ofInt 64 (if v < 2 ^ (8 * n - 1) then (v : Int) else (v : Int) - (2 ^ (8 * n) : Nat)) else BitVec.ofNat 64 v

/-- No watch entry of the module is armed or pending: a write makes no trigger (R255). -/
def NoWatch (s : State) : Prop := ∀ x ∈ s.clusters, ∀ y ∈ x.2.watch, y.2.st ≠ 1 ∧ y.2.st ≠ 2

/-- SPFAULT after an access whose first byte out of range is `bad` (R93): the first such byte of the bundle in template order; the
order of the accesses of a bundle is the model's (log 45). -/
def spAfter (s : State) (bad : Option Word) : Bool × Word :=
  match bad with
  | none => (s.me.fmt.spSet, s.me.fmt.spAddr)
  | some a =>
    if s.me.fmt.spSet = true ∧ ¬ s.cur.slot + 1 < s.cur.spSlot then (s.me.fmt.spSet, s.me.fmt.spAddr) else (true, a)

/-- What an access of the bundle to the own scratchpad may leave changed in its context beside pending results: SPFAULT and
energy. -/
structure AccessCtx (s t : State) (bad : Option Word) : Prop where
  regs : (t.ctx s.cur.hw).regs = s.me.regs
  bank : (t.ctx s.cur.hw).bank = s.me.bank
  ctl : (t.ctx s.cur.hw).ctl = s.me.ctl
  fmt : (t.ctx s.cur.hw).fmt = { s.me.fmt with spSet := (spAfter s bad).1, spAddr := (spAfter s bad).2 }

/-- A load: its results are pending, and nothing has changed but SPFAULT and energy. -/
structure Loads (s t : State) (rs : List Res) (bad : Option Word) : Prop where
  results : (t.ctx s.cur.hw).pend = { s.me.pend with val := s.me.pend.val ++ rs.map (fun r => r.pend s) }
  ctx : AccessCtx s t bad
  course : CourseSame s.me (t.ctx s.cur.hw)
  eng : (t.ctx s.cur.hw).eng = s.me.eng
  others : OthersSame s t
  rest : RestSame s t
  mem : MemSame s t

/-- The byte that a list of stores, the last one counting, leaves at an address of the own scratchpad that held `old`; bytes out of
range are dropped (R91, R93). -/
def byteAfter (s : State) (cells : List (Nat × Byte)) (a : Nat) (old : Byte) : Byte :=
  match (cells.filter (fun x => decide (x.1 < Config.spadBytes))).reverse.find?
      (fun x => decide (s.myCore * Config.spadBytes + x.1 = a)) with
  | some x => x.2
  | none => old

/-- A list of stores writes the byte at an address of the own scratchpad. -/
def Stored (s : State) (cells : List (Nat × Byte)) (a : Nat) : Prop :=
  ∃ x ∈ cells, x.1 < Config.spadBytes ∧ s.myCore * Config.spadBytes + x.1 = a

/-- A store: the stored bytes of the own scratchpad read as stored, in memory and at the core's port, every other byte of every
memory reads as before, and every register of every context is unchanged but SPFAULT. What a byte held before the first write of the
real cycle is kept for the engines' port (R91, log 37). -/
structure Stores (s t : State) (cells : List (Nat × Byte)) (bad : Option Word) : Prop where
  spad : ∀ a, t.mem.spad.read a = byteAfter s cells a (s.mem.spad.read a)
  port : ∀ a, t.portByte a = byteAfter s cells a (s.portByte a)
  hbm : ∀ a, t.mem.hbm.read a = s.mem.hbm.read a
  host : ∀ a, t.mem.host.read a = s.mem.host.read a
  imem : ∀ a, t.mem.imem.read a = s.mem.imem.read a
  lining : ∀ a, t.mem.lining.read a = s.mem.lining.read a
  acs : ∀ n, SMap.getD t.mem.acs n 0 = SMap.getD s.mem.acs n 0
  bias : ∀ n, SMap.getD t.mem.bias n 0 = SMap.getD s.mem.bias n 0
  ctx : AccessCtx s t bad
  pend : ∀ hw, (t.ctx hw).pend = (s.ctx hw).pend
  frame : ∀ hw, (t.ctx hw).frame = (s.ctx hw).frame
  run : ∀ hw, (t.ctx hw).run = (s.ctx hw).run
  eng : ∀ hw, (t.ctx hw).eng = (s.ctx hw).eng
  others : ∀ hw, hw ≠ s.cur.hw → RegsSame (s.ctx hw) (t.ctx hw)
  mod : t.mod = s.mod
  front : t.front = s.front
  agenda : t.agenda = s.agenda
  shared : t.shared = s.shared
  kept : ∀ a, (SMap.get? s.oldBytes a).isSome = true ∨ ¬ Stored s cells a → SMap.get? t.oldBytes a = SMap.get? s.oldBytes a
  noted : ∀ a, SMap.get? s.oldBytes a = none → Stored s cells a → SMap.get? t.oldBytes a = some (s.mem.spad.read a)

/-- The first byte of a scalar access when it lies out of range (R93, R119). -/
def badScalar (a : Nat) : Option Word := if a < Config.spadBytes then none else some (BitVec.ofNat 64 a)

/-- The cells of a scalar store: the low `n` bytes of the data register from the effective address. -/
def scalarCells (c : Ctx) (o : NI) (n : Nat) : List (Nat × Byte) :=
  (List.range n).map (fun k => (scalarEa c o + k, BitVec.ofNat 8 ((c.sreg o.d).toNat / 256 ^ k)))

/-- The state in which a check of the syllable has failed: its trap has been taken (R289, R294). -/
def trapped (s : State) (v : Verdict) (code : Nat) (addr : Word) (detail : Nat) : State :=
  ({ s with cur := { s.cur with verdict := v } } : State).takeTrap s.cur.hw
    ⟨code, addr, detail, 0, 15, s.cur.slot, false, false, false⟩ s.cur.bundle

/-- A load of `n` bytes (R119): the value lands after 5 schedule cycles. -/
def ScalarLoad (i : Instr) (s : State) (o : NI) (n : Nat) (sgn : Bool) : Prop :=
  (s.me.guardN o.g = false → Nullified i s) ∧
  (s.me.guardN o.g = true → scalarEa s.me o % n = 0 →
    Answers i s (fun t => Loads s t [sRes o.d (extended sgn n (ownValue s (scalarEa s.me o) n)) 0 5]
      (badScalar (scalarEa s.me o))))

/-- A store of `n` bytes (R119), while no watch entry is armed. -/
def ScalarStore (i : Instr) (s : State) (o : NI) (n : Nat) : Prop :=
  (s.me.guardN o.g = false → Nullified i s) ∧
  (s.mem.spad.wf = true → NoWatch s → s.me.guardN o.g = true → scalarEa s.me o % n = 0 →
    Answers i s (fun t => Stores s t (scalarCells s.me o n) (badScalar (scalarEa s.me o))))

/-- An access at an address that is no multiple of its size traps with ALIGN (R119, R294). -/
def Misaligned (i : Instr) (s : State) (o : NI) (n : Nat) : Prop :=
  s.cur.go = false → s.me.guardN o.g = true → scalarEa s.me o % n ≠ 0 →
    exec i s = .next (trapped s (.chk ⟨9, BitVec.ofNat 64 (scalarEa s.me o), 0⟩) 9 (BitVec.ofNat 64 (scalarEa s.me o)) 0)


/-! ## The B slot -/

/-- A branch has committed: the branch state is delay 1 with its target, taken bit and drain bit (R192), and the results that
the branch itself gives are pending; nothing else has changed. -/
structure Branches (s t : State) (taken drain : Bool) (target : Nat) (rs : List Res) : Prop where
  frame : (t.ctx s.cur.hw).frame = { s.me.frame with br := ⟨1, taken, drain, target⟩ }
  results : (t.ctx s.cur.hw).pend = { s.me.pend with val := s.me.pend.val ++ rs.map (fun r => r.pend s) }
  regs : RegsSame s.me (t.ctx s.cur.hw)
  run : (t.ctx s.cur.hw).run = s.me.run
  tframe : (t.ctx s.cur.hw).tframe = s.me.tframe
  eng : (t.ctx s.cur.hw).eng = s.me.eng
  others : OthersSame s t
  rest : RestSame s t
  mem : MemSame s t

/-- The target of an N-B branch: the address of the bundle plus 4 times the displacement, modulo 2^32 (R191). -/
def nbTarget (s : State) (disp : Int) : Nat := (((s.cur.bundle : Int) + 4 * disp) % (2 ^ 32 : Nat)).toNat

/-- The B syllable traps with ILLBND, as it does in a delay bundle (R13, R194). -/
def InDelay (i : Instr) (s : State) : Prop := exec i s = .next (trapped s (.mode ⟨2, 0, 0⟩) 2 0 0)

/-- In a bundle that is no delay bundle the branch commits; in a delay bundle it traps with ILLBND (R192, R194). -/
def Branch1 (i : Instr) (s : State) (taken drain : Bool) (target : Nat) (rs : List Res) : Prop :=
  (s.me.frame.br.st = 0 → Answers i s (fun t => Branches s t taken drain target rs)) ∧
  (s.cur.go = false → s.me.frame.br.st ≠ 0 → InDelay i s)

/-- A branch through a register (JMPI, RET): with a target that is no multiple of 4 it traps with ALIGN, when its guard holds
(R198). -/
def Branch2 (i : Instr) (s : State) (on drain : Bool) (v : Word) : Prop :=
  (s.cur.go = false → s.me.frame.br.st ≠ 0 → InDelay i s) ∧
  (s.me.frame.br.st = 0 →
    (on = false ∨ v.toNat % 4 = 0 → Answers i s (fun t => Branches s t on drain (v.toNat % 2 ^ 32) [])) ∧
    (s.cur.go = false → on = true → v.toNat % 4 ≠ 0 → exec i s =
      .next (trapped s (.chk ⟨9, BitVec.ofNat 64 (v.toNat % 2 ^ 32), 0⟩) 9 (BitVec.ofNat 64 (v.toNat % 2 ^ 32)) 0)))

/-- What a trap makes of its context (R289, R292, R293): the frame is saved, the routine at TVEC is next with idle latches, a
free branch state and a new stop group, the trap registers say what happened and where, and the pending results are frozen. -/
structure Entered (c d : Ctx) (cause taddr tinfo : Word) (tb : Nat) : Prop where
  saved : d.tframe = { c.frame with flgNow := c.fmt.flgNow }
  next : d.frame = ⟨c.ctl.tvec.toNat % 2 ^ 32, 0, ⟨0, false, false, 0⟩, [], 0, false, 0⟩
  ctl : d.ctl = { c.ctl with
    tcause := cause, tbundle := BitVec.ofNat 64 tb, tcycle := BitVec.ofNat 64 c.run.sched, taddr := taddr, tinfo := tinfo }
  live : d.pend.val = [] ∧ d.pend.flg = []
  frozen : d.pend.frozenVal = c.pend.val.map (fun p => { p with land := p.land - c.run.sched }) ∧
    d.pend.frozenFlg = c.pend.flg.map (fun p => { p with land := p.land - c.run.sched })
  mode : d.run.trap = true
  ready : d.run.st = .ready
  sched : d.run.sched = c.run.sched
  priv : d.run.priv = c.run.priv
  regs : d.regs = c.regs
  bank : d.bank = c.bank
  fmt : d.fmt = c.fmt
  eng : d.eng = c.eng
  async : d.async = c.async

/-- TINFO of a synchronous trap of a slot: detail in bits 31..24, no engine, level 15, the repetition and the slot (R293). -/
def syncInfo (detail rep slot : Nat) : Word :=
  BitVec.ofNat 64 (detail % 256 * 2 ^ 24 + 15 * 2 ^ 16 + rep % 32 * 2 ^ 11 + slot % 16 * 2 ^ 4)

/-- Module and front end are as before, but that context `hw` waits for no key load and no zero-length read any more (R228, R310). -/
structure OnlyAsks (s t : State) (hw : Nat) : Prop where
  mod : t.mod = { s.mod with trust := { s.mod.trust with loads := s.mod.trust.loads.filter (fun x => decide (x.hw ≠ hw)) } }
  front : t.front = { s.front with pings := s.front.pings.filter (fun x => decide (x.1 ≠ hw)) }

/-- Context `hw` stands at no barrier any more, and nothing else has changed of the clusters (R214, log 117). -/
structure LeavesBars (s t : State) (hw : Nat) : Prop where
  own : t.cluster (clusterOf hw) = { s.cluster (clusterOf hw) with
    bars := (s.cluster (clusterOf hw)).bars.map (fun x => (x.1, x.2.filter (fun m => decide (m.1 ≠ hw)))) }
  others : ∀ k, k ≠ clusterOf hw → t.cluster k = s.cluster k

/-- SVC and BRK take their trap, outside trap mode, when their guard holds (R201, R289); memory, every other context and the
module are as before when the context writes no trace. -/
def CodeTrap (i : Instr) (s : State) (cause : Word) (o : NCode) : Prop :=
  (s.me.frame.br.st = 0 → s.me.run.trap = false → s.me.dbg.trace = 0 → s.me.guardN o.g = true →
    Answers i s (fun t =>
      Entered s.me (t.ctx s.cur.hw) cause (BitVec.ofNat 64 o.code) (syncInfo 0 s.me.frame.rep 0) s.cur.bundle ∧
      OthersSame s t ∧ MemSame s t ∧ OnlyAsks s t s.cur.hw ∧ LeavesBars s t s.cur.hw ∧ t.agenda = s.agenda)) ∧
  (s.me.frame.br.st = 0 → s.me.guardN o.g = false → Nullified i s) ∧
  (s.cur.go = false → s.me.frame.br.st ≠ 0 → InDelay i s)

/-! ## Vector instructions -/

/-- Element `e` of width `w` bytes is active under a guard: its governing bit is set (R126, R127). -/
abbrev Active (m : PReg) (w e : Nat) : Prop := m.getLsbD (e * w) = true
def SomeActive (m : PReg) (w : Nat) : Prop := ∃ e, e < 512 / w ∧ Active m w e

/-- The bytes that a result writes: those of the active elements (R130). -/
def Covers (m : PReg) (w : Nat) (mask : PReg) : Prop := ∀ k, k < 512 → mask.getLsbD k = m.getLsbD (k / w * w)

/-- The flags of a result: each flag that some active element raises (R55). -/
def FlagsOf (m : PReg) (w n : Nat) (f : Nat → Flags) (fl : Flags) : Prop :=
  ∀ k, fl.getLsbD k = true ↔ ∃ e, e < n ∧ Active m w e ∧ (f e).getLsbD k = true

/-- A vector result element by element. -/
def Elements (m : PReg) (w n d lat : Nat) (val : Nat → Nat) (fl : Nat → Flags) (rs : List Res) : Prop :=
  ∃ mask v f, rs = [vRes d mask v f lat] ∧ Covers m w mask ∧ (∀ e, e < n → Active m w e → elem v.toNat w e = val e) ∧
    FlagsOf m w n fl f

/-- A V or W instruction under guard `g` with elements of `w` bytes: with no active element it is nullified. -/
def VwGives (i : Instr) (s : State) (g w code : Nat) (p : List Res → Prop) : Prop :=
  (SomeActive (s.me.guardW g) w → Answers i s (fun t => ∃ rs, p rs ∧ Computes s t rs code)) ∧
  (¬ SomeActive (s.me.guardW g) w → Nullified i s)

/-- An integer instruction of latency 2 whose element `e` is `val e`, with flags `fl e`. -/
def IntVec (i : Instr) (s : State) (g : Nat) (t : ETy) (d : Nat) (val : Nat → Nat) (fl : Nat → Flags) : Prop :=
  VwGives i s g t.width 2 (Elements (s.me.guardW g) t.width t.count d 2 val fl)

/-- The range of an integer type (R39). -/
def loOf (t : ETy) : Int := if t.isSigned = true then -(2 : Int) ^ (8 * t.width - 1) else 0
def hiOf (t : ETy) : Int := if t.isSigned = true then (2 : Int) ^ (8 * t.width - 1) - 1 else (2 : Int) ^ (8 * t.width) - 1

/-- An integer modulo 2 to the width of an element of `w` bytes. -/
def modE (w : Nat) (r : Int) : Nat := (r % (2 : Int) ^ (8 * w)).toNat
/-- A result clamped to a range; sat is set when the clamp changes it (R40). -/
def clampE (lo hi r : Int) : Int := if r < lo then lo else if hi < r then hi else r
def satFlag (lo hi r : Int) : Flags := if clampE lo hi r ≠ r then 0x20#6 else 0

/-- An integer instruction with exact result `r e` at each element, clamped to the type or kept modulo its width (R132). -/
def IntSat (i : Instr) (s : State) (g : Nat) (t : ETy) (d : Nat) (sat : Bool) (r : Nat → Int) : Prop :=
  IntVec i s g t d (fun e => modE t.width (if sat = true then clampE (loOf t) (hiOf t) (r e) else r e))
    (fun e => if sat = true then satFlag (loOf t) (hiOf t) (r e) else 0)

/-- A result that copies a register-wide value in the bytes of the active elements. -/
def Whole (m : PReg) (w d lat : Nat) (v : VReg) (rs : List Res) : Prop :=
  ∃ mask, rs = [vRes d mask v 0 lat] ∧ Covers m w mask

/-- A predicate result: bit `k` of each active element's group is `test` of the element (R136, R144). -/
def Groups (m : PReg) (t : ETy) (d lat : Nat) (test : Nat → Prop) (fl : Flags) (rs : List Res) : Prop :=
  ∃ mask v, rs = [pRes d mask v fl lat] ∧ Covers m t.width mask ∧
    ∀ k, k < 512 → (v.getLsbD k = true ↔ test (k / t.width))

/-- The tests of VCMP (R136). -/
def intTest (cc : ICmp) (x y : Int) : Prop :=
  match cc with
  | .eq => x = y
  | .ne => x ≠ y
  | .lt => x < y
  | .le => x ≤ y
  | .gt => x > y
  | .ge => x ≥ y

/-- Element `e` of a register as an unsigned number. -/
def rawE (v : VReg) (t : ETy) (e : Nat) : Nat := elem v.toNat t.width e

/-- The amount of a vector shift at element `e`: the immediate, or the element of the amount register modulo the width. -/
def amountE (c : Ctx) (b : Amt) (t : ETy) (e : Nat) : Nat :=
  match b with
  | .imm n => n
  | .reg r => rawE (c.vreg r) t e % (8 * t.width)


/-! ## Floating point in the vector slots -/

/-- A result whose elements are laid one after another, an element that is not active as 0, with the flags of the active ones. -/
def Laid (m : PReg) (w n d lat : Nat) (val : Nat → Nat) (fl : Nat → Flags) (rs : List Res) : Prop :=
  ∃ mask f, rs = [vRes d mask (BitVec.ofNat 4096 (assemble w ((List.range n).map (fun e =>
      if m.getLsbD (e * w) = true then val e else 0)))) f lat] ∧
    Covers m w mask ∧ FlagsOf m w n fl f

/-- The registers of a context but for the rounding generators. -/
structure RegsButLfsr (c d : Ctx) : Prop where
  scalar : d.regs.s = c.regs.s
  cond : d.regs.c = c.regs.c
  vector : d.regs.v = c.regs.v
  pred : d.regs.p = c.regs.p
  bank : d.bank = c.bank
  fmt : d.fmt = c.fmt
  ctl : d.ctl = c.ctl

/-- As `Computes`, for an instruction that may advance rounding generators, with the pending entries as they stand. -/
structure RoundedTo (s t : State) (ps : List Pend) (code : Nat) : Prop where
  results : (t.ctx s.cur.hw).pend = { s.me.pend with val := s.me.pend.val ++ ps }
  energy : (t.ctx s.cur.hw).energy = charged s code 1
  regs : RegsButLfsr s.me (t.ctx s.cur.hw)
  course : CourseSame s.me (t.ctx s.cur.hw)
  eng : (t.ctx s.cur.hw).eng = s.me.eng
  others : OthersSame s t
  rest : RestSame s t
  mem : MemSame s t

/-- The same with results. -/
abbrev Rounded (s t : State) (rs : List Res) (code : Nat) : Prop := RoundedTo s t (rs.map (fun r => r.pend s)) code

/-- The roundings of the active elements in ascending order (R49, R50): under SR element `e` draws the next state of the
generator of lane `lane e`, which keeps it when the rounding is inexact; else no generator moves. `gens e` are the generators
before element `e`, `out e` what the element becomes. -/
structure Roundings (s : State) (m : PReg) (w n : Nat) (lane : Nat → Nat) (f : Nat → Nat → FRes) (gens : Nat → Nat → Word32)
    (out : Nat → FRes) : Prop where
  start : ∀ l, gens 0 l = s.me.lfsr s.cur.hw l
  next : ∀ e, e < n → ∀ l, gens (e + 1) l =
    if s.me.rm = 4 ∧ Active m w e ∧ l = lane e ∧ (out e).inexact = true then lfsrAdvance (gens e l) else gens e l
  value : ∀ e, e < n → Active m w e →
    out e = f e (if s.me.rm = 4 then (lfsrAdvance (gens e (lane e))).toNat / 256 else 0)

/-- A float instruction of latency 4: its elements are the roundings of `f`, in the format of type `t` (R137). -/
def FloatVec (i : Instr) (s : State) (m : PReg) (act : Prop) (t : ETy) (d : Nat) (f : Nat → Nat → FRes) : Prop :=
  (act → Answers i s (fun t' => ∃ rs gens out, Roundings s m t.width t.count (fun e => e * t.width / 4) f gens out ∧
      Laid m t.width t.count d 4 (fun e => (out e).bits) (fun e => (out e).flags) rs ∧ Rounded s t' rs 3 ∧
      ∀ l, (t'.ctx s.cur.hw).lfsr s.cur.hw l = gens t.count l)) ∧
  (¬ act → Nullified i s)

/-- The same where the guard governs the result elements. -/
def FloatOp (i : Instr) (s : State) (g : Nat) (t : ETy) (d : Nat) (f : Nat → Nat → FRes) : Prop :=
  FloatVec i s (s.me.guardW g) (SomeActive (s.me.guardW g) t.width) t d f

/-- A transcendental: correctly rounded by FMT.rm, and RNE under SR (R140); ILLOP in reduced service (R37). -/
def Transcendental (i : Instr) (s : State) (o : V2) (which : Nat) : Prop :=
  let m := s.me.guardW o.g
  let r := fun e => (ffmtOf o.t).func which (if s.me.rm = 4 then 0 else s.me.rm) (elem (s.me.vreg o.a).toNat o.t.width e)
  (s.mod.full = true → VwGives i s o.g o.t.width 4
    (Laid m o.t.width o.t.count o.d 8 (fun e => (r e).bits) (fun e => (r e).flags))) ∧
  (s.cur.go = false → s.mod.full = false → exec i s = .next (trapped s (.mode ⟨1, 0, 0⟩) 1 0 0))

/-- What each test of VFCMP says of two values (R137): every test with a NaN is false but ne and un. -/
def floatTest (cc : FCmp) (a b : FV) : Prop :=
  let u := a.isNan = true ∨ b.isNan = true
  match cc with
  | .eq => ¬ u ∧ a.cmp b = .eq
  | .ne => u ∨ a.cmp b ≠ .eq
  | .lt => ¬ u ∧ a.cmp b = .lt
  | .le => ¬ u ∧ a.cmp b ≠ .gt
  | .gt => ¬ u ∧ a.cmp b = .gt
  | .ge => ¬ u ∧ a.cmp b ≠ .lt
  | .un => u
  | .ord => ¬ u

/-- Integer `n` is `m * 2^e` rounded to multiples of `2^q` by a mode (R49): RNE to the nearest, ties to even; RTZ towards
zero; RUP and RDN towards the larger and the smaller. -/
def RoundsTo (rm : Nat) (neg : Bool) (m : Nat) (sh n : Nat) : Prop :=
  let lo := m / 2 ^ sh
  let rem := m % 2 ^ sh
  (rem = 0 → n = lo) ∧
  (rem ≠ 0 → match rm with
    | 0 => (2 * rem < 2 ^ sh → n = lo) ∧ (2 ^ sh < 2 * rem → n = lo + 1) ∧ (2 * rem = 2 ^ sh → n % 2 = 0 ∧ (n = lo ∨ n = lo + 1))
    | 1 => n = lo
    | 2 => n = if neg = true then lo else lo + 1
    | 3 => n = if neg = true then lo + 1 else lo
    | _ => True)

/-! ## Exact values of elements -/

/-- The exact value of a finite number. -/
def vq : FV → ℚ
  | .fin n m e => (if n = true then -1 else 1) * (m : ℚ) * (2 : ℚ) ^ e
  | _ => 0

/-- The result is the one rounding of the exact value `x`, whose sign is taken as `neg` (R49, R50). -/
def RoundingOf (f : FFmt) (rm u : Nat) (neg : Bool) (x : ℚ) (r : FRes) : Prop :=
  ∃ (m : Nat) (e : Int), |x| = (m : ℚ) * (2 : ℚ) ^ e ∧ r = f.round rm u neg m e

/-- A result that is exact, with flags. -/
def Exactly (r : FRes) (bits : Nat) (flags : Flags) : Prop := r.bits = bits ∧ r.flags = flags ∧ r.inexact = false

/-- A finite sum with exact value `x` (R137): a zero sum takes the sign of its addends where they are zeros of one sign, else it is -0
under RDN and +0 otherwise (log 116). -/
def SumIs (f : FFmt) (rm u : Nat) (x y : FV) (nx ny : Bool) (r : FRes) : Prop :=
  (vq x + vq y ≠ 0 → RoundingOf f rm u (decide (vq x + vq y < 0)) (vq x + vq y) r) ∧
  (vq x + vq y = 0 → Exactly r (f.signBit (if vq x = 0 ∧ nx = ny then nx else decide (rm = 3))) 0)

/-- The flag nv when a condition holds. -/
def nvIf (p : Prop) [Decidable p] : Flags := if p then 0x10#6 else 0

/-- The order of two values that are no NaN, by their exact values; every finite number lies between the infinities. -/
def Below : FV → FV → Prop
  | .inf n, .inf k => n = true ∧ k = false
  | .inf n, .fin _ _ _ => n = true
  | .fin _ _ _, .inf k => k = false
  | .fin n m e, .fin k l d => vq (.fin n m e) < vq (.fin k l d)
  | _, _ => False

/-- Integer `r` is the exact value `x` rounded by a mode (R49, R50); `u` is the draw of 24 bits under SR. -/
def RoundsInt (rm u : Nat) (x : ℚ) (r : Int) : Prop :=
  (∀ k : Int, x = k → r = k) ∧
  ((∀ k : Int, x ≠ k) → match rm with
    | 0 => (x - ⌊x⌋ < 1 / 2 → r = ⌊x⌋) ∧ (1 / 2 < x - ⌊x⌋ → r = ⌊x⌋ + 1) ∧
        (x - ⌊x⌋ = 1 / 2 → (r = ⌊x⌋ ∨ r = ⌊x⌋ + 1) ∧ r % 2 = 0)
    | 1 => r = if 0 ≤ x then ⌊x⌋ else ⌊x⌋ + 1
    | 2 => r = ⌊x⌋ + 1
    | 3 => r = ⌊x⌋
    | _ => r = (if 0 ≤ x then 1 else -1) * (⌊|x|⌋ + if (u : ℚ) / 2 ^ 24 < |x| - ⌊|x|⌋ then 1 else 0))

/-- The scale of a block whose largest magnitude is `amax` (R48). -/
def ScaleIs (amax : ℚ) (s : Nat) : Prop :=
  (amax = 0 → s = 0) ∧
  (∀ k : Int, (2 : ℚ) ^ k ≤ amax → amax < (2 : ℚ) ^ (k + 1) → (s : Int) = max 0 (min 254 (k + 127)))

/-- Element `e` of a block with scale `s` quantised (R48), `u` its draw under SR: its `k` bits, whether it is clamped, and whether it
is inexact without a clamp. -/
def QuantIs (k s rm u : Nat) (x : FV) (q : Nat) (sat nx : Prop) : Prop :=
  let y := vq x * (2 : ℚ) ^ ((k : Int) - 2) * (2 : ℚ) ^ ((127 : Int) - s)
  ∃ r : Int, RoundsInt rm u y r ∧
    (q : Int) = (max (-(2 : Int) ^ (k - 1)) (min ((2 : Int) ^ (k - 1) - 1) r)) % (2 : Int) ^ k ∧
    (sat ↔ r < -(2 : Int) ^ (k - 1) ∨ (2 : Int) ^ (k - 1) - 1 < r) ∧
    (nx ↔ -(2 : Int) ^ (k - 1) ≤ r ∧ r ≤ (2 : Int) ^ (k - 1) - 1 ∧ (r : ℚ) ≠ y)

/-- One level of the tree of R145, in ascending order of its nodes: node `i` combines elements 2i and 2i + 1; an absent one passes the
other through. `st i` is the state before node `i`. -/
def LevelOf {α σ : Type} (f : Nat → α → α → σ → α × σ) (xs ys : List (Option α)) (a b : σ) : Prop :=
  2 * ys.length = xs.length ∧ ∃ st : Nat → σ, st 0 = a ∧ st ys.length = b ∧ ∀ i, i < ys.length →
    match xs.getD (2 * i) none, xs.getD (2 * i + 1) none with
    | some x, some y => ys.getD i none = some (f i x y (st i)).1 ∧ st (i + 1) = (f i x y (st i)).2
    | some x, none => ys.getD i none = some x ∧ st (i + 1) = st i
    | none, y => ys.getD i none = y ∧ st (i + 1) = st i

/-- The tree over 2^n elements, level by level. -/
def TreeOf {α σ : Type} (f : Nat → α → α → σ → α × σ) : Nat → List (Option α) → σ → Option α → σ → Prop
  | 0, xs, a, y, b => xs = [y] ∧ b = a
  | n + 1, xs, a, y, b => ∃ ys c, LevelOf f xs ys a c ∧ TreeOf f n ys c y b

/-! ## Accesses of the L slot -/

/-- No two lines of the access share a bank (R88, R90). -/
def NoConflict (ms : Moves) : Prop :=
  ∀ x ∈ ms, ∀ y ∈ ms, x.2.toNat < Config.spadBytes → y.2.toNat < Config.spadBytes →
    x.2.toNat / 64 / 0x8000 % 2 = y.2.toNat / 64 / 0x8000 % 2 → x.2.toNat / 64 % 16 = y.2.toNat / 64 % 16 →
    x.2.toNat / 64 = y.2.toNat / 64

/-- The first byte of an access that lies out of range (R93). -/
def badOf (ms : Moves) : Option Word := (ms.find? (fun x => decide (Config.spadBytes ≤ x.2.toNat))).map (fun x => x.2)

/-- A load through the L slot moves the bytes `ms` (register byte, address): nullified when there are none; else the moved
bytes of the result are those of the own scratchpad, zero out of range (R93 to R98). -/
def LoadL (i : Instr) (s : State) (ms : Moves) (al : Prop) (d lat : Nat) (mask : PReg → Prop) : Prop :=
  (ms = [] → Nullified i s) ∧
  (ms ≠ [] → al → NoConflict ms → Answers i s (fun t => ∃ m v, Loads s t [vRes d m v 0 lat] (badOf ms) ∧ mask m ∧
    ∀ x ∈ ms, elem v.toNat 1 x.1 = (s.ownByte s.myCore x.2.toNat).toNat))

/-- A store through the L slot of the bytes `ms`, while no watch entry is armed. -/
def StoreL (i : Instr) (s : State) (ms : Moves) (al : Prop) (byte : Nat → Byte) : Prop :=
  (ms = [] → Nullified i s) ∧
  (s.mem.spad.wf = true → NoWatch s → ms ≠ [] → al → NoConflict ms →
    Answers i s (fun t => Stores s t (ms.map (fun x => (x.2.toNat, byte x.1))) (badOf ms)))

/-- A misaligned access traps with ALIGN, an aligned one that needs a bank twice with BANKCF (R90, R94). -/
def TrapsL (i : Instr) (s : State) (ms : Moves) (ea : Word) (n : Nat) : Prop :=
  s.cur.go = false → ms ≠ [] →
    (ea.toNat % n ≠ 0 → exec i s = .next (trapped s (.chk ⟨9, ea, 0⟩) 9 ea 0)) ∧
    (ea.toNat % n = 0 → ¬ NoConflict ms → ∃ x ∈ ms, x.2.toNat < Config.spadBytes ∧
      exec i s = .next (trapped s (.chk ⟨3, BitVec.ofNat 64 (64 * (x.2.toNat / 64)), 0⟩) 3
        (BitVec.ofNat 64 (64 * (x.2.toNat / 64))) 0))

/-- The traps of VLDX and VSTX (R90, R98): ALIGN at the effective address, or at the first active chunk that is misaligned (log 44),
then BANKCF. -/
def TrapsX (i : Instr) (s : State) (o : LX) : Prop :=
  s.cur.go = false → s.me.movesX o ≠ [] →
    let bad (j : Nat) : Prop := (s.me.guardW o.g).getLsbD (16 * j) = true ∧ (s.me.chunkAt o j).toNat % 16 ≠ 0
    ((s.me.eaX o).toNat % 16 ≠ 0 → exec i s = .next (trapped s (.chk ⟨9, s.me.eaX o, 0⟩) 9 (s.me.eaX o) 0)) ∧
    ((s.me.eaX o).toNat % 16 = 0 → ∀ j, j < 32 → bad j → (∀ l, l < j → ¬ bad l) →
      exec i s = .next (trapped s (.chk ⟨9, s.me.chunkAt o j, 0⟩) 9 (s.me.chunkAt o j) 0)) ∧
    ((s.me.eaX o).toNat % 16 = 0 → (∀ j, j < 32 → ¬ bad j) → ¬ NoConflict (s.me.movesX o) →
      ∃ x ∈ s.me.movesX o, x.2.toNat < Config.spadBytes ∧
        exec i s = .next (trapped s (.chk ⟨3, BitVec.ofNat 64 (64 * (x.2.toNat / 64)), 0⟩) 3
          (BitVec.ofNat 64 (64 * (x.2.toNat / 64))) 0))

/-- Byte `k` of a vector register. -/
def vb (v : VReg) (k : Nat) : Byte := BitVec.ofNat 8 (v.toNat / 2 ^ (8 * k))


/-! ## The M slot -/

/-- Beside the context whose bundle issues, its core, and the number counter, nothing has changed. -/
structure Elsewhere (s t : State) : Prop where
  others : OthersSame s t
  cores : ∀ k, k ≠ s.myCore → t.core k = s.core k
  mod : t.mod = s.mod
  clusters : t.clusters = s.clusters
  aux : t.aux = s.aux
  agenda : t.agenda = s.agenda
  oldBytes : t.oldBytes = s.oldBytes
  shared : t.shared = s.shared
  hbm : t.mem.hbm = s.mem.hbm
  host : t.mem.host = s.mem.host
  spad : t.mem.spad = s.mem.spad
  imem : t.mem.imem = s.mem.imem
  lining : t.mem.lining = s.mem.lining
  bias : t.mem.bias = s.mem.bias

/-- FMT, FLG, SPFAULT, zones and tokens of a context whose token `n` has counted up by one (R15). -/
def tokenUp (c : Ctx) (n : Nat) : Fmt := { c.fmt with tok := SMap.put c.fmt.tok n (c.token n + 1) }

/-- An engine wait holds the bundle back (R209), from the state that the syllable has left while it waits. -/
def HeldBackFrom (i : Instr) (s s0 : State) : Prop :=
  exec i s = .next ((s0.met (.wait .engine)).engineWait s.cur.hw s.cur.cand)
/-- An engine wait holds the bundle back (R209). -/
def HeldBack (i : Instr) (s : State) : Prop := HeldBackFrom i s s

/-- A check of the syllable fails with a code, at some address (R294). -/
def TrapsCode (i : Instr) (s : State) (code : Nat) : Prop := ∃ addr, exec i s = .next (trapped s (.chk ⟨code, addr, 0⟩) code addr 0)

/-- The first condition of a list that holds traps with its code (R294). -/
def ChecksTrap (i : Instr) (s : State) : List (Prop × Nat) → Prop
  | [] => True
  | (p, code) :: l => (p → TrapsCode i s code) ∧ (¬ p → ChecksTrap i s l)

/-- The product that an M instruction issues: its zone and formats as the context holds them, `positions` and the addresses from
registers, the gang of the formats, ceil(positions / gang) steps, and the array and schedule cycle of its issue (R170 to R180). -/
def newProduct (s : State) (kind : PKind) (tile zone tok pa pb sel : Nat) (a b positions : Word) : Prod :=
  let fa := s.me.fmt.fmt.toNat / 32 % 8
  let fb := s.me.fmt.fmt.toNat / 256 % 8
  let g := gangOf fa fb
  let p := positions.toNat
  { id := s.front.nextId, hw := s.cur.hw, orphan := false
    spec := { kind := kind, tile := tile, zone := s.me.zone zone, fa := fa, fb := fb, g := g, p := p, s := (p + g - 1) / g
              a := a.toNat, b := b.toNat, pa := 64 * pa, pb := 64 * pb, sel := sel, tok := tok, bundle := s.cur.bundle }
    issue := (s.core s.myCore).arr, sched := s.me.run.sched, ra := [], rb := [], port := 0, aLines := [], bLines := []
    bSteps := [], seeds := [], cnt := [], sums := [], resumed := false, flags := 0, cut := none, late := false }

/-- What a product is refused for (R180): formats of two classes, a class that streams do not take, formats that reduced service
does not offer, positions that are no whole MX blocks. -/
def FormatsBad (s : State) (p : Prod) : Prop :=
  classOf p.spec.fa p.spec.fb = none ∨ (p.spec.kind.streams = true ∧ classOf p.spec.fa p.spec.fb = some .mx) ∨
  (s.mod.full = false ∧ (p.spec.fa = 3 ∨ p.spec.fa = 4 ∨ p.spec.fb = 3 ∨ p.spec.fb = 4)) ∨
  (classOf p.spec.fa p.spec.fb = some .mx ∧ p.spec.p % 32 ≠ 0)

/-- The product has entered the array (R16, R170, R180): its token counts up, and its flags land at its ready cycle, issue +
steps + rows + columns + 5. -/
structure Entered2 (s t : State) (p : Prod) : Prop where
  ctx : t.ctx s.cur.hw = { s.me with
    fmt := tokenUp s.me p.spec.tok
    pend := { s.me.pend with flg := s.me.pend.flg ++
      [⟨0, s.me.run.sched + (p.spec.s + p.spec.zone.rows + p.spec.zone.cols + 5),
        (s.core s.myCore).arr + (p.spec.s + p.spec.zone.rows + p.spec.zone.cols + 5), p.id, true⟩] } }
  core : t.core s.myCore = { s.core s.myCore with prods := (s.core s.myCore).prods ++ [p] }
  front : t.front = { s.front with nextId := s.front.nextId + 1 }
  acs : t.mem.acs = s.mem.acs
  rest : Elsewhere s t

/-- A product instruction: it enters, waits for its consume tokens, or traps by the checks of R180 in their order. -/
def ProductIssue (i : Instr) (s : State) (p : Prod) (cons : Nat) : Prop :=
  (s.me.tokensZero cons = true → ¬ FormatsBad s p → p.spec.p ≤ 65536 → p.spec.a % 64 = 0 →
    (p.spec.kind.streams = true ∨ p.spec.b % 64 = 0) →
    s.portChk s.myCore p ((s.core s.myCore).prods.all p.clearOf) = none → Answers i s (fun t => Entered2 s t p)) ∧
  (s.cur.go = false → s.me.tokensZero cons = false → HeldBack i s) ∧
  (s.cur.go = false → s.me.tokensZero cons = true →
    (FormatsBad s p → exec i s = .next (trapped s (.chk ⟨1, 0, 0⟩) 1 0 0)) ∧
    (¬ FormatsBad s p → 65536 < p.spec.p → exec i s = .next (trapped s (.chk ⟨2, 0, 0⟩) 2 0 0)) ∧
    (¬ FormatsBad s p → p.spec.p ≤ 65536 → p.spec.a % 64 ≠ 0 →
      exec i s = .next (trapped s (.chk ⟨9, BitVec.ofNat 64 p.spec.a, 0⟩) 9 (BitVec.ofNat 64 p.spec.a) 0)))

/-- The place of a tile element in the accumulator store (R184). -/
def tileKey (core tile r c : Nat) : Nat := 65536 * core + 4096 * tile + 64 * r + c

/-- A transfer has started (R188, R189): its token counts up and its flags land at issue + rows + 1. -/
structure Transfers (s t : State) (write : Bool) (o : MX) : Prop where
  ctx : t.ctx s.cur.hw = { s.me with
    fmt := tokenUp s.me o.prod
    pend := { s.me.pend with flg := s.me.pend.flg ++
      [⟨0, s.me.run.sched + ((s.me.zone o.zone).rows + 1), (s.core s.myCore).arr + ((s.me.zone o.zone).rows + 1),
        s.front.nextId, false⟩] } }
  core : t.core s.myCore = { s.core s.myCore with xfers := (s.core s.myCore).xfers ++
    [{ id := s.front.nextId, hw := s.cur.hw, orphan := false, write := write, tile := o.tile, zone := s.me.zone o.zone
       addr := s.me.sreg o.addr, pitch := 64 * o.pitch, u := o.u, shift := o.shift, rm := s.me.fmt.fmt.toNat % 8
       issue := (s.core s.myCore).arr, next := 0, flags := 0, tok := o.prod, frozen := false, writer := s.me.writer
       bundle := s.cur.bundle }] }
  front : t.front = { s.front with nextId := s.front.nextId + 1 }
  acs : t.mem.acs = s.mem.acs
  rest : Elsewhere s t

/-- MRDS or MWRS. -/
def TransferIssue (i : Instr) (s : State) (write : Bool) (o : MX) : Prop :=
  (s.me.tokensZero o.cons = true → (o.u.isMx = false ∨ (s.me.zone o.zone).cols % 32 = 0) → (s.me.sreg o.addr).toNat % 64 = 0 →
    xferConflict (s.core s.myCore).xfers (s.xferOf write o) ((s.core s.myCore).arr + 1) (s.me.zone o.zone).rows = none →
    Answers i s (fun t => Transfers s t write o)) ∧
  (s.cur.go = false → s.me.tokensZero o.cons = false → HeldBack i s) ∧
  (s.cur.go = false → s.me.tokensZero o.cons = true → o.u.isMx = true → (s.me.zone o.zone).cols % 32 ≠ 0 →
    exec i s = .next (trapped s (.chk ⟨1, 0, 0⟩) 1 0 0))

/-! ## The C and Q slots -/

/-- A command as it enters a gusset, with its operands, ASID, tokens and writer (R77, R151, R210). -/
def newCmd (s : State) (op : CmdOp) (prod cons : Nat) : Cmd :=
  { id := s.front.nextId, op := op, asid := s.me.ctl.asid.toNat, prod := prod, cons := cons, started := false, pos := 0
    held := false, performed := false, res := none, gen := s.me.writer, aux := [], places := [] }

/-- A command has entered the C gusset, and its token counts up. -/
structure CEnters (s t : State) (op : CmdOp) (prod cons : Nat) : Prop where
  ctx : t.ctx s.cur.hw = { s.me with
    eng := { s.me.eng with cG := s.me.eng.cG ++ [newCmd s op prod cons] }
    fmt := tokenUp s.me prod }
  front : t.front = { s.front with nextId := s.front.nextId + 1 }
  cores : t.cores = s.cores
  acs : t.mem.acs = s.mem.acs
  rest : Elsewhere s t

/-- A C instruction whose checks hold enters its command; a full gusset holds it back (R209, R210). -/
def CIssue (i : Instr) (s : State) (op : CmdOp) (prod cons : Nat) (checks : Prop) : Prop :=
  (s.me.eng.cG.length < 16 → checks → Answers i s (fun t => CEnters s t op prod cons)) ∧
  (s.cur.go = false → 16 ≤ s.me.eng.cG.length → HeldBack i s)

/-- The handle is bound to a slot of the context (R70). -/
def Bound (s : State) (h : Nat) : Prop := (SMap.get? s.me.eng.handles h).isSome = true
/-- The slot that a handle names. -/
def slotOfHandle (s : State) (h : Nat) : Nat := SMap.getD s.me.eng.handles h 0
/-- The context owns the sending or the receiving direction of a link (R82). -/
def Owns (s : State) (link : Nat) (send : Bool) : Prop := Nat.testBit s.me.eng.links (2 * link + (if send = true then 0 else 1)) = true

/-- A command has entered the Q gusset; a request takes an entry of the address queue with its kind (R146, R151). -/
structure QEnters (s t : State) (op : CmdOp) (prod : Nat) (kind : Option Bool) : Prop where
  ctx : t.ctx s.cur.hw = { s.me with
    eng := { s.me.eng with
      qG := s.me.eng.qG ++ [newCmd s op prod 0]
      addrQ := s.me.eng.addrQ ++ (match kind with
        | some k => [(s.front.nextId, k)]
        | none => []) }
    fmt := tokenUp s.me prod
    energy := charged s 13 1 }
  front : t.front = { s.front with nextId := s.front.nextId + 1 }
  cores : t.cores = s.cores
  acs : t.mem.acs = s.mem.acs
  rest : Elsewhere s t

/-- A Q instruction: nullified by its guard, entered when its checks hold, held back by a full gusset. -/
def QIssue (i : Instr) (s : State) (g : Nat) (op : CmdOp) (prod : Nat) (kind : Option Bool) (checks : Prop) : Prop :=
  (s.me.guardN g = false → Nullified i s) ∧
  (s.me.guardN g = true → s.me.eng.qG.length < 16 → checks → Answers i s (fun t => QEnters s t op prod kind)) ∧
  (s.cur.go = false → s.me.guardN g = true → 16 ≤ s.me.eng.qG.length → HeldBack i s)

/-- A request fits: the address queue holds fewer than 64 (R150). -/
def Room (s : State) : Prop := s.me.eng.addrQ.length < 64

/-- The results of a pop, and the queues after it (R149, R153, R164). -/
structure Pops (s t : State) (rs : List Res) (retire : Bool) : Prop where
  ctx : t.ctx s.cur.hw = { s.me with
    eng := { s.me.eng with
      dataQ := s.me.eng.dataQ.tail
      addrQ := if retire = true then s.me.eng.addrQ.tail else s.me.eng.addrQ }
    pend := { s.me.pend with val := s.me.pend.val ++ rs.map (fun r => r.pend s) } }
  front : t.front = s.front
  cores : t.cores = s.cores
  acs : t.mem.acs = s.mem.acs
  rest : Elsewhere s t

/-- A pop of the wrong kind or of an empty address queue traps with QOVF; one whose data has not come waits (R149, R150). -/
def PopStops (i : Instr) (s : State) (g : Nat) (pair : Bool) (detail : Nat) : Prop :=
  (s.me.guardN g = false → Nullified i s) ∧
  (s.cur.go = false → s.me.guardN g = true →
    (s.me.eng.addrQ = [] → exec i s = .next (trapped s (.chk ⟨5, 0, 1⟩) 5 0 1)) ∧
    (∀ n r, s.me.eng.addrQ = (n, !pair) :: r → exec i s = .next (trapped s (.chk ⟨5, 0, detail⟩) 5 0 detail)) ∧
    (∀ n r, s.me.eng.addrQ = (n, pair) :: r → s.me.eng.dataQ = [] → HeldBack i s))

/-- The checks of a record (R260): its release scope; entry, counter and preload fields; their ranges. -/
def RecordScope (d : Nat) : Prop := 4 < fld d 40 8 % 8
def RecordMisaligned (d : Nat) : Prop :=
  fld d 0 32 % 4 ≠ 0 ∨ (fld d 64 32 ≠ 0xFFFFFFFF ∧ fld d 64 32 % 8 ≠ 0) ∨ fld d 384 64 % 64 ≠ 0 ∨ fld d 448 32 % 64 ≠ 0 ∨
  fld d 480 32 % 64 ≠ 0
def RecordOutside (d : Nat) : Prop :=
  (fld d 64 32 ≠ 0xFFFFFFFF ∧ 0xC000000 ≤ fld d 64 32) ∨ 32768 < fld d 480 32 ∨ 0x400000 < fld d 448 32 + fld d 480 32
/-- The checks that SPAWN adds: the kind; reserved bits, went, tcount and the queue number (R259, R260). -/
def SpawnKind (d : Nat) : Prop := fld d 32 8 ≠ 0 ∧ fld d 32 8 ≠ 3
def SpawnBits (d q : Nat) : Prop := 8 ≤ fld d 40 8 ∨ fld d 48 16 ≠ 0 ∨ fld d 160 32 ≠ 0 ∨ 0x200 ≤ q

/-- The checks of WATCH (R254, R262) on its base, control word and template; the launch is given. -/
def WatchScope (w d : Nat) : Prop := fld w 18 3 < 2 ∨ 4 < fld w 18 3 ∨ RecordScope d
def WatchBits (w d : Nat) : Prop :=
  2 ^ 32 ≤ w ∨ fld w 9 4 ≠ 0 ∨ fld w 13 5 < 6 ∨ 20 < fld w 13 5 ∨ fld w 21 11 = 0 ∨ 1024 < fld w 21 11 ∨ 8 ≤ fld d 40 8
def WatchAlign (base w d : Nat) : Prop := base % 2 ^ fld w 13 5 ≠ 0 ∨ RecordMisaligned d
def WatchOutside (s : State) (l : Launch) (base w d : Nat) : Prop :=
  0xC000000 ≤ base ∨ ¬ (l.wfirst ≤ fld w 0 9 ∧ fld w 0 9 < l.wfirst + l.wcount) ∨
  s.launchQueue s.cur.hw (recQueue d) = false ∨ RecordOutside d

/-- A Q syllable that issues and finds room in its gusset. -/
def QFree (s : State) (g : Nat) : Prop := s.cur.go = false ∧ s.me.guardN g = true ∧ s.me.eng.qG.length < 16

/-! ## The F slot -/

/-- An F instruction that leaves the context as `c`, counts no energy, and changes nothing else. -/
def Becomes (i : Instr) (s : State) (c : Ctx) : Prop :=
  Answers i s (fun t => t.ctx s.cur.hw = c ∧ OthersSame s t ∧ RestSame s t ∧ t.mem = s.mem)

/-- An F instruction that computes results; nullified by its guard. -/
def FGives (i : Instr) (s : State) (g : Nat) (rs : List Res) : Prop :=
  (s.me.guardN g = true → Answers i s (fun t => Gives s t rs s.me.energy)) ∧ (s.me.guardN g = false → Nullified i s)

/-- A privileged instruction without system privilege traps with PRIV, whatever its guard says (R36). -/
def Privileged (i : Instr) (s : State) : Prop :=
  s.cur.go = false → s.me.run.priv = false → s.me.run.trap = false → exec i s = .next (trapped s (.mode ⟨10, 0, 0⟩) 10 0 0)

/-- The context has system privilege (R288). -/
def System (s : State) : Prop := s.me.run.priv = true ∨ s.me.run.trap = true

/-- A WFE that finds none of its conditions (R224): the context of the primary waits, a candidate stays as it is. -/
def WfeWaits (w : FW) (s : State) : Prop :=
  Answers (.wfe w) s (fun t =>
    (s.cur.cand = true → t.ctxs = s.ctxs ∧ t.cores = s.cores) ∧
    (s.cur.cand = false → t.ctx s.cur.hw = { s.me with run := { s.me.run with st := .waiting, stage := .wfe } } ∧
      (t.core s.myCore).prim ≠ some s.cur.hw ∧ OthersSame s t) ∧
    t.mem = s.mem ∧ t.mod = s.mod ∧ t.front = s.front ∧ t.clusters = s.clusters)

/-- The contexts that stand at a barrier of the team of the issuing context, with the registers that their BARs list (R214). -/
def atBar (s t : State) (hw : Nat) : List (Nat × Nat) := SMap.getD (t.cluster (clusterOf hw)).bars (s.ctx hw).teamNo []
/-- The context stands at its barrier. -/
def Arrived (s : State) (hw : Nat) : Prop := ∃ x ∈ atBar s s hw, x.1 = hw

/-- The issuing context arrives at its barrier with the registers that its BAR lists: every result has landed, and nothing else has
changed (R214). -/
structure Arrives (s t : State) (list : Nat) : Prop where
  ctx : t.ctx s.cur.hw = s.me.landAll
  still : s.me.run.st ≠ .blocked → t.ctx s.cur.hw = s.me
  bar : atBar s t s.cur.hw = atBar s s s.cur.hw ++ [(s.cur.hw, list)]
  bars : ∀ n, n ≠ s.me.teamNo → SMap.getD (t.cluster (clusterOf s.cur.hw)).bars n [] =
    SMap.getD (s.cluster (clusterOf s.cur.hw)).bars n []
  cluster : t.cluster (clusterOf s.cur.hw) =
    { s.cluster (clusterOf s.cur.hw) with bars := (t.cluster (clusterOf s.cur.hw)).bars }
  clusters : ∀ k, k ≠ clusterOf s.cur.hw → t.cluster k = s.cluster k
  others : OthersSame s t
  cores : t.cores = s.cores
  front : t.front = s.front
  mod : t.mod = s.mod
  mem : t.mem = s.mem

/-- The zone that a ZSET operand names, and what R172 asks of it. -/
def ZoneOk (m : Mod) (v : Nat) : Prop :=
  v < 2 ^ 31 ∧ fld v 6 2 = 0 ∧ fld v 14 2 = 0 ∧ fld v 23 1 = 0 ∧ 1 ≤ fld v 16 7 ∧ 1 ≤ fld v 24 7 ∧
  fld v 0 6 + fld v 16 7 ≤ m.rows ∧ fld v 8 6 + fld v 24 7 ≤ m.cols

/-- What the end of a context leaves (R282, R309): inactive, nothing pending, no checkpoint, registers as they were; its core has
no primary in it. -/
structure Ended (s t : State) (hw : Nat) : Prop where
  st : (t.ctx hw).run.st = .inactive
  pend : (t.ctx hw).pend = ⟨[], [], [], []⟩
  async : (t.ctx hw).async = []
  ckpt : (t.ctx hw).ckpt = none
  mode : (t.ctx hw).run.trap = false
  regs : RegsSame (s.ctx hw) (t.ctx hw)
  dataQ : (t.ctx hw).eng.dataQ = []
  prim : (t.core (coreOf hw)).prim ≠ some hw
  others : ∀ k, k ≠ hw → t.ctx k = s.ctx k
  mem : t.mem = s.mem
  mod : t.mod = { s.mod with trust := { s.mod.trust with loads := s.mod.trust.loads.filter (fun x => decide (x.hw ≠ hw)) } }

/-- The state with other key slots, and nothing else changed (R310). -/
def withKeys (s : State) (keys : SMap Nat) : State := { s with mod := { s.mod with trust := { s.mod.trust with keys := keys } } }
/-- The state with other key loads in progress, and nothing else changed (R310). -/
def withLoads (s : State) (l : List KeyLoad) : State := { s with mod := { s.mod with trust := { s.mod.trust with loads := l } } }
/-- No key load of a context. -/
def loadsWithout (s : State) (hw : Nat) : List KeyLoad := s.mod.trust.loads.filter (fun x => decide (x.hw ≠ hw))

/-- The state with other zero-length reads on PCIe links in progress, and nothing else changed (R228). -/
def withPings (s : State) (l : List (Nat × List Nat)) : State := { s with front := { s.front with pings := l } }
/-- No zero-length read of a context. -/
def pingsWithout (s : State) (hw : Nat) : List (Nat × List Nat) := s.front.pings.filter (fun x => decide (x.1 ≠ hw))

/-- A key load: it is asked for while the bundle waits, the bundle waits until every controller holds the content, and issues
then (R310). -/
def KeyLoads (i : Instr) (s : State) (g slot : Nat) (key : Option Nat) : Prop :=
  s.me.guardN g = true → slot ≤ 2047 →
  (s.cur.go = false → s.loadOf s.cur.hw = none →
    HeldBackFrom i s (withLoads s (s.mod.trust.loads ++ [⟨s.cur.hw, slot, key, false⟩]))) ∧
  (∀ l, s.loadOf s.cur.hw = some l →
    (s.cur.go = false → l.done = false → HeldBack i s) ∧
    (l.done = true → exec i s = .next (withLoads s (loadsWithout s s.cur.hw))))


/-! ## Events of a core's cycle -/

/-- Context `hw` has become `c`, and nothing else of the machine has changed. -/
structure OnlyCtx (s t : State) (hw : Nat) (c : Ctx) : Prop where
  ctx : t.ctx hw = c
  others : ∀ k, k ≠ hw → t.ctx k = s.ctx k
  rest : RestSame s t
  mem : t.mem = s.mem

/-- Of a context nothing has changed but its energy counter (R346). -/
def EnergyOnly (c d : Ctx) : Prop := d = { c with energy := d.energy }

/-- An event that leaves context `hw` as `c`. -/
def Turns (i : Instr) (s : State) (hw : Nat) (c : Ctx) : Prop := Answers i s (fun t => OnlyCtx s t hw c)

/-- A register's value after one result has landed (R12, R110, R111, R125, R130): the hard-wired registers are discarded, vector
and predicate registers take the masked bytes and bits; the bits that a result keeps stay (R141). -/
def LandsAt (c d : Ctx) (p : Pend) : Prop :=
  match p.dest with
  | .s n => d.sreg n = if n = 0 then 0 else BitVec.ofNat 64 p.val.toNat
  | .c n => n < 8 → d.creg n = if n = 0 then true else p.val.getLsbD 0
  | .v n => ∀ b, b < 512 → elem (d.vreg n).toNat 1 b = elem (if p.mask.getLsbD b = true then (p.val &&& ~~~p.kept) ||| (c.vreg n &&& p.kept) else c.vreg n).toNat 1 b
  | .p n => ∀ b, b < 512 → (d.preg n).getLsbD b =
      if n = 0 then true else if p.mask.getLsbD b = true then p.val.getLsbD b else (c.preg n).getLsbD b
  | .fmt => d.fmt.fmt = BitVec.ofNat 32 p.val.toNat

/-- What does not take part in the landing of results. -/
structure NotLanded (c d : Ctx) : Prop where
  frame : d.frame = c.frame
  tframe : d.tframe = c.tframe
  ctl : d.ctl = c.ctl
  run : d.run = c.run
  eng : d.eng = c.eng
  frozen : d.pend.frozenVal = c.pend.frozenVal ∧ d.pend.frozenFlg = c.pend.frozenFlg
  perf : d.perf = c.perf
  energy : d.energy = c.energy

/-- The context in place `k` of the cyclic order after context `n` of a core (R207). -/
def afterCtx (core n k : Nat) : Nat := 4 * core + (n + 1 + k) % 4

/-- A ready context that may issue in the next real cycle (R207, R252). -/
def MayIssue (s : State) (hw : Nat) : Prop := (s.ctx hw).run.st = .ready ∧ (s.ctx hw).run.earliest ≤ s.mod.cycles + 1

/-- A bundle in which no syllable issues: none in it and none latched, no header fault, no sync bit that waits, no host bit. -/
structure NoSyllable (s : State) (hw : Nat) (b : Bundle) : Prop where
  fetched : s.fetch (coreOf hw) (s.ctx hw).frame.pos = .ok b
  none : b.syls = []
  idle : (s.ctx hw).frame.latches = []
  header : b.headerBad = false
  drain : (s.ctx hw).frame.drainWait = false
  sync : fld b.hdr 13 1 = 0 ∨ ((s.ctx hw).eng.cG = [] ∧ (s.ctx hw).eng.qG = [])
  host : fld b.hdr 12 1 = 0
  phase : (s.ctx hw).run.phase = 1
  pocket : (s.ctx hw).pend.val.length ≤ 64
  lands : (s.ctx hw).pend.flg.length < 256
  trace : (s.ctx hw).dbg.trace = 0

/-- The frame after the issue of such a bundle: the stop group ends at a stop bit (R28); the bundle repeats REP times (R20); then
the position moves on, and a branch moves through its two delay bundles to its target (R192, R193). -/
def nextFrame (f : Frame) (b : Bundle) : Frame :=
  let g : Frame := { f with group := if fld b.hdr 21 1 = 1 then 0 else f.group, drainWait := false }
  let on : Frame := { g with rep := 0, pos := (b.addr + b.len) % 2 ^ 32 }
  if f.rep < fld b.hdr 16 5 then { g with rep := f.rep + 1 }
  else if f.br.st = 0 then on
  else if f.br.st = 1 then { on with br := { f.br with st := 2 } }
  else if f.br.taken = true then { on with br := Branch.free, pos := f.br.target, group := 0, drainWait := f.br.drain }
  else { on with br := Branch.free }

/-- The bundle at which a context stands is a hem point (R211): its header has the hem bit, it is at its first repetition, the
branch state is free, and nothing of the context is in flight but products. -/
def HemPoint (s : State) (hw : Nat) : Prop :=
  let c := s.ctx hw
  c.run.trap = false ∧ c.frame.rep = 0 ∧ c.frame.br.st = 0 ∧ c.pend.val = [] ∧ (∀ f ∈ c.pend.flg, f.prod = true) ∧
  (∀ x ∈ (s.core (coreOf hw)).xfers, x.hw = hw → x.orphan = true) ∧
  ∃ hdr, s.headAt hw c.frame.pos = .ok hdr ∧ fld hdr 14 1 = 1

/-- A save has started (R253, R304): the context waits, its counter is recorded as its last hem point, and it is no primary: the next
real cycle of its core is then a switch cycle (R207). -/
structure SaveStarts (s t : State) (hw : Nat) (push : Bool) : Prop where
  ctx : t.ctx hw = { s.ctx hw with run := { (s.ctx hw).run with
    st := .waiting, stage := .save push, h := (s.ctx hw).run.sched, earliest := s.mod.cycles + 2 } }
  prim : (t.core (coreOf hw)).prim ≠ some hw
  switch : (s.core (coreOf hw)).prim = some hw → (t.core (coreOf hw)).sw = true
  others : ∀ k, k ≠ hw → t.ctx k = s.ctx k
  mem : t.mem = s.mem
  mod : t.mod = s.mod

/-- A save of a context without products in flight can start: the clock of its core runs, and SEAMBASE is a multiple of 64 KiB. -/
structure Savable (s : State) (hw : Nat) : Prop where
  ready : (s.ctx hw).run.st = .ready
  free : (s.core (coreOf hw)).holds = [] ∧ s.walkHeld (coreOf hw) = false
  stage : (s.ctx hw).run.stage = .none
  base : (s.ctx hw).ctl.seambase.toNat % 65536 = 0
  prods : ∀ p ∈ (s.core (coreOf hw)).prods, p.hw ≠ hw
  imgs : ∀ j ∈ (s.core (coreOf hw)).imgs, j.hw ≠ hw

/-- A task or stitch record starts without preload (R247, R252): its words in s48 to s55, its entry point next, the hem count and
the budget count from here. -/
structure Starts (s t : State) (hw d : Nat) : Prop where
  args : ∀ w, w < 8 → (t.ctx hw).sreg (48 + w) = BitVec.ofNat 64 (fld d (64 * w) 64)
  sregs : ∀ n, n < 48 ∨ 55 < n → (t.ctx hw).sreg n = (s.ctx hw).sreg n
  frame : (t.ctx hw).frame = ⟨fld d 0 32, 0, ⟨0, false, false, 0⟩, [], 0, false, 0⟩
  state : (t.ctx hw).run.st = .ready ∧ (t.ctx hw).run.stage = .none
  record : (t.ctx hw).run.curRec = some d ∧ (t.ctx hw).run.released = false ∧ (t.ctx hw).run.ran = 0
  hem : (t.ctx hw).run.h = (s.ctx hw).run.sched ∧ (t.ctx hw).run.sched = (s.ctx hw).run.sched
  vregs : (t.ctx hw).regs.v = (s.ctx hw).regs.v ∧ (t.ctx hw).regs.p = (s.ctx hw).regs.p ∧ (t.ctx hw).regs.c = (s.ctx hw).regs.c
  ctl : (t.ctx hw).ctl = (s.ctx hw).ctl
  fmt : (t.ctx hw).fmt = (s.ctx hw).fmt
  others : ∀ k, k ≠ hw → t.ctx k = s.ctx k
  mem : t.mem = s.mem

/-- A record without preload that starts a task or a stitch. -/
def Startable (d : Nat) : Prop := (fld d 32 8 = 0 ∨ fld d 32 8 = 1) ∧ fld d 480 32 = 0

/-- A context has stopped for debug (R337): its cause and state are recorded and its core's clock is held. -/
structure DebugStops (s t : State) (hw st why : Nat) : Prop where
  ctx : t.ctx hw = { s.ctx hw with dbg := { (s.ctx hw).dbg with why := why, st := st, stopreq := false, step := none } }
  held : t.core (coreOf hw) = { s.core (coreOf hw) with holds := (s.core (coreOf hw)).holds ++ [.debug hw] }
  others : ∀ k, k ≠ hw → t.ctx k = s.ctx k
  mem : t.mem = s.mem
  mod : t.mod = s.mod

/-- A context has left its debug stop (R337): the hold is gone, and its bundle issues without a break. -/
structure DebugGoes (s t : State) (hw : Nat) (step : Option (Nat × Nat)) : Prop where
  ctx : t.ctx hw = { s.ctx hw with dbg := { (s.ctx hw).dbg with st := 0, skip := some (s.ctx hw).frame.pos, step := step } }
  held : (t.core (coreOf hw)).holds = (s.core (coreOf hw)).holds.filter (fun h => decide (h ≠ .debug hw))
  others : ∀ k, k ≠ hw → t.ctx k = s.ctx k
  mem : t.mem = s.mem
  mod : t.mod = s.mod

/-- The INT8 sum of a cell (R59): one term for each position that the select mask keeps (R182), each sum clamped. -/
def intCell (p : Prod) (i j : Nat) : Int :=
  let byte (x : Nat) : Int := if x < 128 then (x : Int) else (x : Int) - 256
  let start : Int := if p.spec.kind = .macc ∨ p.spec.kind = .maccs ∨ p.spec.kind = .mstrmAcc then
    (SMap.getD p.seeds (64 * i + j) (0 : Word32)).toInt else 0
  ((List.range p.spec.p).filter (fun n => Nat.testBit p.spec.sel (n % 64))).foldl (fun (a : Int) n =>
    max (-(2 : Int) ^ 31) (min ((2 : Int) ^ 31 - 1) (a + byte (p.opA i n) * byte (p.opB j n)))) start

/-- An uncut product commits cell (i, j) in array cycle `n` (R176); a restored one also the cells that are due from before (R322). -/
def CommitsAt (p : Prod) (i j : Nat) (n : Nat) : Prop :=
  if p.late = true then p.issue + p.spec.s + i + j + 4 ≤ n else p.issue + p.spec.s + i + j + 4 = n

/-- The first step of a streamed product whose slice it has not taken (R183). -/
def nextSlice (p : Prod) : Nat := match p.bSteps.getLast? with
  | some x => max (x.1 + 1) p.port
  | none => p.port

/-- A copy into IMEM has completed (R32, R283, R284): the segment's bytes are those of its source, and it is resident. -/
structure SegmentLoaded (s t : State) (core k : Nat) (g : Seg) (ps : List Piece) : Prop where
  segs : (t.core core).segs = (s.core core).segs.set k { g with mapped := true, inflight := false }
  bytes : ∀ i b, (s.readPieces ps)[i]? = some b → t.mem.imem.read (core * 0x80000 + 4096 * g.ipage + i) = b
  rest : ∀ a, a < core * 0x80000 + 4096 * g.ipage ∨ core * 0x80000 + 4096 * g.ipage + (s.readPieces ps).length ≤ a →
    t.mem.imem.read a = s.mem.imem.read a
  ctxs : ∀ h, EnergyOnly (s.ctx h) (t.ctx h)
  spad : t.mem.spad = s.mem.spad
  hbm : t.mem.hbm = s.mem.hbm
  host : t.mem.host = s.mem.host

/-- `n` bytes of the scratchpads from an address, the lowest first, as the ports of a core read them (R91). -/
def portValue (s : State) (a : Nat) : Nat → Nat
  | 0 => 0
  | n + 1 => (s.portByte a).toNat + 256 * portValue s (a + 1) n

/-- A barrier has released a member (R214): its checkpoint stands before its BAR, with the scalar, condition and predicate registers,
the listed vector registers and the frame, and it passes. -/
structure Released (c d : Ctx) (list : Nat) : Prop where
  pass : d.run = { c.run with barPass := true }
  regs : d.regs = c.regs
  frame : d.frame = c.frame
  ckpt : ∃ k, d.ckpt = some k ∧ k.usable = true ∧ k.frame = c.frame ∧ k.fmt = c.fmt ∧ k.sched = c.run.sched ∧ k.h = c.run.h ∧
    k.regs.s = c.regs.s ∧ k.regs.c = c.regs.c ∧ k.regs.p = c.regs.p ∧
    k.regs.v = c.regs.v.filter (fun x => decide (list / 256 ≤ x.1) && decide (x.1 < list / 256 + list % 256)) ∧
    k.slack = c.run.slack ∧ k.slackRem = (if c.run.st = .blocked then c.run.slack else c.run.slackRem) ∧
    k.dataQ = c.eng.dataQ ∧ k.addrQ = c.eng.addrQ


/-! ## Events of engines, the lining, links and the task logic -/

/-- Nothing but the event record has changed of the front end; it is the record of kind, queue, detail, argument and code at the
ring's tail, with module time, and a vector is raised (R280). -/
structure Posted (s t : State) (kind queue detail arg code : Nat) : Prop where
  tail : t.front.ev.tail = s.front.ev.tail + 1
  vec : t.front.ev.raised = s.front.ev.raised ++ [s.front.ev.vec]
  record : t.mem.host.readN (fld s.front.ev.base.toNat 5 59 * 32 + 32 * (s.front.ev.tail % 2 ^ fld s.front.ev.base.toNat 0 5)) 32 =
    kind % 2 ^ 16 + queue % 2 ^ 16 * 2 ^ 16 + detail % 2 ^ 32 * 2 ^ 32 + s.mod.time.now / 6486480 % 2 ^ 64 * 2 ^ 64 +
      arg % 2 ^ 64 * 2 ^ 128 + code % 2 ^ 64 * 2 ^ 192

/-- The event ring has room for a record. -/
def EventRoom (s : State) : Prop :=
  s.front.ev.tail - s.front.ev.head ≠ 2 ^ fld s.front.ev.base.toNat 0 5 ∧ s.mem.host.wf = true

/-- Only cluster `cl` has changed, to `c`. -/
structure OnlyCl (s t : State) (cl : Nat) (c : Cluster) : Prop where
  it : t.cluster cl = c
  others : ∀ k, k ≠ cl → t.cluster k = s.cluster k
  ctxs : t.ctxs = s.ctxs
  cores : t.cores = s.cores
  front : t.front = s.front
  mod : t.mod = s.mod
  mem : t.mem = s.mem

/-- The walk of an access to cluster `cl` has ended: of everything else only energy counters have changed (R68, R346). -/
structure Walked (s t : State) (cl : Nat) : Prop where
  others : ∀ k, k ≠ cl → t.cluster k = s.cluster k
  slots : (t.cluster cl).slots = (s.cluster cl).slots
  ctxs : ∀ h, EnergyOnly (s.ctx h) (t.ctx h)
  cores : t.cores = s.cores
  front : t.front = s.front
  mod : t.mod = s.mod
  mem : t.mem = s.mem

/-- A command of a context's work has completed: it is gone and its token counts down (R15). -/
def doneCmd (c : Ctx) (id tok : Nat) : Ctx :=
  { c with
    eng := { c.eng with work := c.eng.work.filter (fun x => decide (x.id ≠ id)) }
    fmt := { c.fmt with tok := SMap.put c.fmt.tok tok (c.token tok - 1) } }

/-- The new value of an SFOP on operands of `n` bits (R155). -/
def sfopValue (op : SfOp) (n old x y : Nat) : Nat :=
  let int (v : Nat) : Int := if v < 2 ^ (n - 1) then (v : Int) else (v : Int) - (2 : Int) ^ n
  match op with
  | .add => (old + x) % 2 ^ n
  | .swap => x
  | .cas => if old = x then y else old
  | .max => if int x ≤ int old then old else x
  | .min => if int old ≤ int x then old else x
  | .and => (BitVec.ofNat n old &&& BitVec.ofNat n x).toNat
  | .or => (BitVec.ofNat n old ||| BitVec.ofNat n x).toNat

/-- Bytes `a` to `a + n - 1` of all scratchpads hold the value `v`, little-endian, and every other byte reads as before. -/
def SpadHas (s t : State) (a n v : Nat) : Prop :=
  (∀ k, k < n → t.mem.spad.read (a + k) = BitVec.ofNat 8 (v / 256 ^ k)) ∧
  (∀ b, b < a ∨ a + n ≤ b → t.mem.spad.read b = s.mem.spad.read b)

/-- The same of a write through the engines' port: a byte that a core port writes in the same real cycle keeps the core port's value
(R91, log 37). -/
def EngineHas (s t : State) (a n v : Nat) : Prop :=
  (∀ k, k < n → t.mem.spad.read (a + k) =
    if (SMap.get? s.oldBytes (a + k)).isSome = true then s.mem.spad.read (a + k) else BitVec.ofNat 8 (v / 256 ^ k)) ∧
  (∀ b, b < a ∨ a + n ≤ b → t.mem.spad.read b = s.mem.spad.read b)

/-- A place in the scratchpad space of a cluster (R66, R92). -/
def nearPiece (cl a n : Nat) : Piece := ⟨⟨2, cl * 2 ^ 28 + a, none⟩, n⟩

/-- A copy within a cluster's scratchpad space, its operands whole 16-byte words. -/
structure NearCopy (cl a b : Nat) (c : Copy) : Prop where
  src : c.src = [nearPiece cl a c.len]
  dst : c.dst = [nearPiece cl b c.len]
  plain : c.stream = false
  words : a % 16 = 0 ∧ b % 16 = 0 ∧ c.len % 16 = 0
  range : a + c.len ≤ 0xC000000 ∧ b + c.len ≤ 0xC000000

/-- A slot that may emit its next copy (R72): it runs, iterations are left, and its context is neither being saved nor rolled back
(R76, R359). -/
structure Emits (s : State) (cl n : Nat) (nest : Nest) (cmd : Nat) : Prop where
  act : (s.slot cl n).act = some (nest, cmd)
  runs : (s.slot cl n).st = 1
  fault : (s.slot cl n).fault = false
  counts : ∀ c ∈ nest.cnt, 0 < c
  left : (s.slot cl n).idx.getD 5 0 < nest.cnt.getD 5 1
  plain : (s.slot cl n).strm = false
  stage : (s.ctx (s.slot cl n).owner).run.stage ≠ .rolling ∧ ∀ p, (s.ctx (s.slot cl n).owner).run.stage ≠ .save p

/-- The indices after an iteration: level 0 goes fastest, and a level that has reached its count starts again as the next one
goes on (R72). -/
def stepIdx : List Nat → List Nat → List Nat
  | _, [] => []
  | _, [i] => [i + 1]
  | c, i :: r => if i + 1 < c.headD 1 then (i + 1) :: r else 0 :: stepIdx c.tail r

/-- The command of a window waits for its tokens no longer, and nothing else has changed of the contexts (R77, R83). -/
structure Begins (s t : State) (w : Window) : Prop where
  ctx : t.ctx w.hw = { s.ctx w.hw with eng := { (s.ctx w.hw).eng with
    work := (s.ctx w.hw).eng.work.map (fun x => if x.id = w.cmd then { x with started := true } else x) } }
  others : ∀ k, k ≠ w.hw → t.ctx k = s.ctx k

/-- The ticks of a receive's window that have passed without a flit (R83). -/
def lostTicks (k : Link) (w : Window) : Nat :=
  ((List.range (min k.pos (w.start + w.len) - w.start)).filter (fun i => !k.heard.contains (w.start + i))).length

/-- A pending major fault of an engine (R291, R293). -/
def engineTrap (code va detail engine level : Nat) : Async :=
  ⟨code, BitVec.ofNat 64 va, detail, engine, level, 15, true, false⟩

/-- The stream entry at the head of a cluster's evictions. -/
structure Evicting (s : State) (cl e : Nat) (rest : List Nat) : Prop where
  queue : (s.cluster cl).evq = e :: rest
  load : (s.sctOf cl e).load = false
  waits : (s.sctOf cl e).req = []


/-! ## Command packets, the host, the module -/

/-- Packet `p` stands next in an enabled queue whose earlier packets have all completed (R273, R276), and it does not err
(R279). -/
structure NextUp (s : State) (q : Nat) (p : Pkt) (rest : List Pkt) (type : Nat) : Prop where
  en : (s.queue q).en = true
  begun : (s.queue q).begun = []
  stop : (s.queue q).stopping = false ∧ (s.queue q).enPend = false
  skip : (s.queue q).skip = 0
  ahead : (s.queue q).ahead = p :: rest
  type : fld p.w 0 8 = type
  ok : p.err = none

/-- Queue `q` after packet `p` has begun: QHEAD moves on (R270), the given packets have begun and not completed, and `skip`
packets are yet to be skipped. The read-ahead changes nothing else of the queue (R273). -/
structure Began (s t : State) (q : Nat) (p : Pkt) (begun : List Begun) (skip : Nat) : Prop where
  begun : (t.queue q).begun = begun
  skip : (t.queue q).skip = skip
  head : (t.queue q).head = headOf p.next
  tail : (t.queue q).tail = (s.queue q).tail
  en : (t.queue q).en = true
  regs : (t.queue q).qbase = (s.queue q).qbase ∧ (t.queue q).asid = (s.queue q).asid ∧ (t.queue q).tol = (s.queue q).tol
  others : ∀ k, k ≠ q → t.queue k = s.queue k
  mod : t.mod = s.mod

/-- QSTAT as it was (R279). -/
def NoError (s t : State) (q : Nat) : Prop :=
  (t.queue q).count = (s.queue q).count ∧ (t.queue q).first = (s.queue q).first ∧ (t.queue q).fpkt = (s.queue q).fpkt

/-- A queue error (R279): counted up to 65,535, its code and packet kept if it is the first, and posted as an event. -/
structure ErrorAt (s t : State) (q code pkt : Nat) : Prop where
  count : (t.queue q).count = min ((s.queue q).count + 1) 0xFFFF
  first : (s.queue q).count = 0 → (t.queue q).first = code ∧ (t.queue q).fpkt = pkt % 2 ^ 39
  later : (s.queue q).count ≠ 0 → (t.queue q).first = (s.queue q).first ∧ (t.queue q).fpkt = (s.queue q).fpkt
  event : EventRoom s → Posted s t 2 q code pkt 0

/-- The event of a completed packet whose event bit is set (R274, R280); without it nothing is posted and no memory changes. -/
def DoneEvent (s t : State) (q : Nat) (p : Pkt) (detail : Nat) : Prop :=
  (fld p.w 9 1 = 1 → EventRoom s → Posted s t 1 q detail p.num 0) ∧ (fld p.w 9 1 = 0 → t.front.ev = s.front.ev ∧ t.mem = s.mem)

/-- Contexts, cores, clusters, launches and links are as before. -/
structure Aside (s t : State) : Prop where
  ctxs : t.ctxs = s.ctxs
  cores : t.cores = s.cores
  clusters : t.clusters = s.clusters
  launches : t.front.launches = s.front.launches
  links : t.front.links = s.front.links

/-- The test of WAITSIG and PRED on the word that a read gives (R275). -/
def Tests (p : Pkt) (v : Nat) : Prop :=
  let x := BitVec.ofNat 64 v &&& BitVec.ofNat 64 (fld p.w 192 64)
  let y := BitVec.ofNat 64 (fld p.w 128 64)
  match fld p.w 16 2 with
  | 0 => x = y
  | 1 => x ≠ y
  | 2 => y.toNat ≤ x.toNat
  | _ => x.toNat < y.toNat

/-- Word `k` of a packet. -/
def pw (p : Pkt) (k : Nat) : Nat := fld p.w (64 * k) 64

/-- A packet that has begun alone in its queue, which neither stops nor is to be enabled. -/
structure Alone (s : State) (q : Nat) (b : Begun) : Prop where
  begun : (s.queue q).begun = [b]
  stop : (s.queue q).stopping = false ∧ (s.queue q).enPend = false

/-- The queue after that packet has completed. -/
structure Completes (s t : State) (q : Nat) : Prop where
  queue : t.queue q = { s.queue q with begun := [] }
  others : ∀ k, k ≠ q → t.queue k = s.queue k

/-- A context that a LAUNCH starts (R213, R281, R282): ready at its entry point, with the argument block in s48 to s55, the control
registers of its map entry, c0 true and every other register zero. -/
structure Launched (s t : State) (m : PlaceMap) (c : MapCtx) (id asid : Nat) : Prop where
  args : ∀ k, k < 8 → (t.ctx c.hw).sreg (48 + k) = BitVec.ofNat 64 (fld m.args (64 * k) 64)
  zero : (∀ n, n < 48 ∨ 55 < n → (t.ctx c.hw).sreg n = 0) ∧ (∀ n, (t.ctx c.hw).vreg n = 0) ∧
    (∀ n, n ≠ 0 → (t.ctx c.hw).preg n = 0) ∧ (t.ctx c.hw).regs.c = 1#8
  frame : (t.ctx c.hw).frame = ⟨c.entry, 0, ⟨0, false, false, 0⟩, [], 0, false, 0⟩
  ready : (t.ctx c.hw).run.st = .ready ∧ (t.ctx c.hw).run.launch = some id ∧ (t.ctx c.hw).run.trap = false ∧
    (t.ctx c.hw).run.sched = 0
  priv : (t.ctx c.hw).run.priv = decide (128 ≤ c.ctx)
  ctl : (t.ctx c.hw).ctl.tvec = BitVec.ofNat 64 c.tvec ∧ (t.ctx c.hw).ctl.hembound = BitVec.ofNat 64 c.hembound ∧
    (t.ctx c.hw).ctl.seambase = BitVec.ofNat 64 c.seambase ∧ (t.ctx c.hw).ctl.asid = BitVec.ofNat 64 asid ∧
    (t.ctx c.hw).ctl.team = BitVec.ofNat 64 (c.team +
      256 * (m.ctxs.filter (fun x => decide (x.cl = c.cl) && decide (x.team = c.team))).length)
  own : (t.ctx c.hw).eng.tiles = c.tiles ∧ (t.ctx c.hw).eng.links = c.links ∧ (t.ctx c.hw).eng.handles = c.handles ∧
    (t.ctx c.hw).eng.ownQ = c.owns
  pend : (t.ctx c.hw).pend = ⟨[], [], [], []⟩

/-- The stream that a STREAM packet names stands in entry `e` of its cluster (R104). -/
def Streams (s : State) (p : Pkt) (e : Nat) (x : Sct) : Prop :=
  (s.cluster (fld p.w 24 3)).sctFind (pw p 1) = some (e, x)

/-- A pin that can be made now (R105, R108): its stream has no entry, entry `e` is the lowest free one, its fields are in range
and its region meets no region that is held. -/
structure Pinnable (s : State) (p : Pkt) (e : Nat) : Prop where
  new : (s.cluster (fld p.w 24 3)).sctFind (pw p 1) = none
  free : e < 4096 ∧ (s.sctOf (fld p.w 24 3) e).st = 0 ∧ ∀ k, k < e → (s.sctOf (fld p.w 24 3) k).st ≠ 0
  apart : ∀ x ∈ (s.cluster (fld p.w 24 3)).sct, x.2.st = 1 ∨ x.2.st = 2 ∨ x.2.st = 4 →
    x.2.region + x.2.len ≤ pw p 3 ∨ pw p 3 + pw p 4 ≤ x.2.region
  len : pw p 4 % 64 = 0 ∧ 64 ≤ pw p 4 ∧ pw p 4 ≤ 65536
  place : pw p 2 % 64 = 0 ∧ pw p 3 % 64 = 0 ∧ pw p 3 + pw p 4 ≤ 0xC000000

/-- Only queue `q` has changed, to `u`. -/
structure OnlyQueue (s t : State) (q : Nat) (u : Queue) : Prop where
  it : t.queue q = u
  others : ∀ k, k ≠ q → t.queue k = s.queue k
  aside : Aside s t
  ev : t.front.ev = s.front.ev
  mem : t.mem = s.mem
  mod : t.mod = s.mod

/-- The reader's levels at the ring packet QHEAD. -/
def ringStart (u : Queue) : List Level := [⟨true, BitVec.ofNat 64 (fld u.qbase.toNat 6 58 * 64), u.head, 0, none, 0, 0⟩]

/-- The state with another event ring, time, trust record. -/
def withEv (s : State) (e : EvRing) : State := { s with front := { s.front with ev := e } }
def withTime (s : State) (x : Time) : State := { s with mod := { s.mod with time := x } }
def withTrust (s : State) (x : Trust) : State := { s with mod := { s.mod with trust := x } }

/-- The LAUNCH that an AT holds as it stands prepared: read and checked once, before its time (R285). -/
def held (s : State) (q : Nat) (x : Pkt) : Option Prep :=
  if fld x.w 0 8 = 1 ∧ x.err = none ∧ (s.queue q).prep = none then some (s.prepare q x) else (s.queue q).prep

/-- A scratchpad byte as the host reads it: merged with the writes to it that wait in the ingress buffer of its core, the last one
counting (R103). -/
def mergedByte (s : State) (a : Nat) : Byte :=
  match ((s.core (a / 0x400000)).ingress.filter (fun e =>
      decide (e.line = a / 64 % 0x10000) && Nat.testBit e.mask (a % 64))).getLast? with
  | some e => BitVec.ofNat 8 (e.data / 256 ^ (a % 64))
  | none => s.mem.spad.read a

/-- A read that has met an uncorrectable error gives the stored bits, which nothing constrains, here free value `n`: the scratchpad word of 16 bytes at
the address holds them, and no other byte of any memory has changed (R360, log 31). -/
structure ReadsStored (s t : State) (addr n : Nat) : Prop where
  word : addr < 0x60000000 → ∀ k, k < 16 → t.mem.spad.read (addr / 16 * 16 + k) = BitVec.ofNat 8 (Config.storedBits n / 256 ^ k)
  spad : ∀ a, 0x60000000 ≤ addr ∨ a / 16 ≠ addr / 16 → t.mem.spad.read a = s.mem.spad.read a
  hbm : t.mem.hbm = s.mem.hbm
  host : t.mem.host = s.mem.host
  imem : t.mem.imem = s.mem.imem
  lining : t.mem.lining = s.mem.lining
  acs : t.mem.acs = s.mem.acs

/-- What a time source does (R354): a forward error above 1 ms is removed by one step, any other by slewing. -/
def timeMet (x : Time) (ns : Nat) : Time :=
  let err : Int := (ns : Int) * 6486480 - x.now
  if (1000000 * 6486480 : Int) < err then { x with now := ns * 6486480, slew := 0, locked := true }
  else { x with slew := err, locked := decide (err.natAbs ≤ 100 * 6486480) }

/-- Module time has met its source, and nothing else has changed but the timers of stream contexts that a forward step passes (R105,
R354). -/
structure Meets (s t : State) (ns : Nat) : Prop where
  time : t.mod = { s.mod with time := timeMet s.mod.time ns }
  slews : (ns : Int) * 6486480 - s.mod.time.now ≤ 1000000 * 6486480 → t = withTime s (timeMet s.mod.time ns)
  ctxs : t.ctxs = s.ctxs
  cores : t.cores = s.cores
  front : t.front = s.front
  mem : t.mem = s.mem

/-! ## Parts of the statements that cover several instructions -/

/-- A part of `Obligations.ControlRegisterAccess`. -/
def ControlRegisterRead : Prop :=
  ∀ (o : NCtl) (s : State), XyGives (.mfc o) s o.g [sRes o.r (ctlValue s o.num) 0 1]

/-- A part of `Obligations.ControlRegisterAccess`. -/
def ControlRegisterWrite : Prop :=
  ∀ (o : NCtl) (s : State),
    (privReg o.num = false ∨ s.me.run.priv = true ∨ s.me.run.trap = true →
      (s.me.guardN o.g = true → Answers (.mtc o) s (fun t =>
        (t.ctx s.cur.hw).ctl = ctlAfter s.me.ctl o.num (s.me.sreg o.r) ∧
        (t.ctx s.cur.hw).regs = s.me.regs ∧ (t.ctx s.cur.hw).bank = s.me.bank ∧ (t.ctx s.cur.hw).fmt = s.me.fmt ∧
        (t.ctx s.cur.hw).pend = s.me.pend ∧ (t.ctx s.cur.hw).eng = s.me.eng ∧
        (t.ctx s.cur.hw).energy = charged s 1 1 ∧ CourseSame s.me (t.ctx s.cur.hw) ∧
        OthersSame s t ∧ RestSame s t ∧ MemSame s t)) ∧
      (s.me.guardN o.g = false → Nullified (.mtc o) s)) ∧
    (s.cur.go = false → privReg o.num = true → s.me.run.priv = false → s.me.run.trap = false →
      exec (.mtc o) s = .next (trapped s (.mode ⟨10, 0, 0⟩) 10 0 0))

/-- A part of `Obligations.ScalarStoreFrame`. -/
def ScalarStores : Prop :=
  ∀ (o : NI) (s : State),
    ScalarStore (.stb o) s o 1 ∧ ScalarStore (.sth o) s o 2 ∧ ScalarStore (.stw o) s o 4 ∧ ScalarStore (.std o) s o 8

/-- A part of `Obligations.ScalarStoreFrame`. -/
def ScalarMisaligned : Prop :=
  ∀ (o : NI) (s : State),
    Misaligned (.ldh o) s o 2 ∧ Misaligned (.ldhs o) s o 2 ∧ Misaligned (.ldw o) s o 4 ∧ Misaligned (.ldws o) s o 4 ∧
    Misaligned (.ldd o) s o 8 ∧ Misaligned (.sth o) s o 2 ∧ Misaligned (.stw o) s o 4 ∧ Misaligned (.std o) s o 8

/-- A part of `Obligations.BranchResult`. -/
def BranchTaken : Prop :=
  ∀ (o : NBr) (p : NBc) (q : NBg) (s : State),
    Branch1 (.brEqz o) s (decide ((s.me.sreg o.r).toInt = 0)) o.drain (nbTarget s o.disp) [] ∧
    Branch1 (.brNez o) s (decide ((s.me.sreg o.r).toInt ≠ 0)) o.drain (nbTarget s o.disp) [] ∧
    Branch1 (.brLtz o) s (decide ((s.me.sreg o.r).toInt < 0)) o.drain (nbTarget s o.disp) [] ∧
    Branch1 (.brGez o) s (decide ((s.me.sreg o.r).toInt ≥ 0)) o.drain (nbTarget s o.disp) [] ∧
    Branch1 (.brGtz o) s (decide ((s.me.sreg o.r).toInt > 0)) o.drain (nbTarget s o.disp) [] ∧
    Branch1 (.brLez o) s (decide ((s.me.sreg o.r).toInt ≤ 0)) o.drain (nbTarget s o.disp) [] ∧
    Branch1 (.brc p) s (if p.neg = true then !s.me.creg p.c else s.me.creg p.c) p.drain (nbTarget s p.disp) [] ∧
    Branch1 (.jmp q) s true q.drain (nbTarget s q.disp) [] ∧
    Branch1 (.loopb o) s (decide (1 < (s.me.sreg o.r).toNat)) o.drain (nbTarget s o.disp)
      (if s.me.sreg o.r = 0 then [] else [sRes o.r (s.me.sreg o.r - 1) 0 1])

/-- A part of `Obligations.BranchResult`. -/
def UniformBranch : Prop :=
  ∀ (o : NBr) (s : State), (s.cur.go = false → s.me.frame.br.st ≠ 0 → InDelay (.brpAll o) s ∧ InDelay (.brpNone o) s) ∧
    (s.me.frame.br.st = 0 →
    ((∀ k, k < 512 → (s.me.preg o.r).getLsbD k = true) →
      Answers (.brpAll o) s (fun t => Branches s t true o.drain (nbTarget s o.disp) []) ∧
      Answers (.brpNone o) s (fun t => Branches s t false o.drain (nbTarget s o.disp) [])) ∧
    ((∀ k, k < 512 → (s.me.preg o.r).getLsbD k = false) →
      Answers (.brpAll o) s (fun t => Branches s t false o.drain (nbTarget s o.disp) []) ∧
      Answers (.brpNone o) s (fun t => Branches s t true o.drain (nbTarget s o.disp) [])) ∧
    (s.cur.go = false → (∃ j k, j < 512 ∧ k < 512 ∧ (s.me.preg o.r).getLsbD j = true ∧ (s.me.preg o.r).getLsbD k = false) →
      exec (.brpAll o) s = .next (trapped s (.chk ⟨4, 0, 0⟩) 4 0 0) ∧
      exec (.brpNone o) s = .next (trapped s (.chk ⟨4, 0, 0⟩) 4 0 0)))

/-- A part of `Obligations.RegisterBranchCall`. -/
def RegisterBranchResult : Prop :=
  ∀ (o : NJ) (s : State),
    Branch2 (.jmpi o) s (s.me.guardN o.g) o.drain (s.me.sreg o.a) ∧
    Branch2 (.ret o) s (s.me.guardN o.g) o.drain (s.me.sreg 62)

/-- A part of `Obligations.RegisterBranchCall`. -/
def CallResult : Prop :=
  ∀ (o : NBg) (p : NJ) (s : State) (b : Bundle),
    (s.cur.go = false → s.me.frame.br.st ≠ 0 → InDelay (.call o) s ∧ InDelay (.calli p) s) ∧
    (s.bundleAt s.cur.hw s.cur.bundle = .ok b → s.me.frame.br.st = 0 →
    Answers (.call o) s (fun t => Branches s t (s.me.guardN o.g) o.drain (nbTarget s o.disp)
      (if s.me.guardN o.g = true then [sRes 62 (BitVec.ofNat 64 b.ret) 0 1] else [])) ∧
    ((s.me.guardN p.g = false ∨ (s.me.sreg p.a).toNat % 4 = 0) →
      Answers (.calli p) s (fun t => Branches s t (s.me.guardN p.g) p.drain ((s.me.sreg p.a).toNat % 2 ^ 32)
        (if s.me.guardN p.g = true then [sRes 62 (BitVec.ofNat 64 b.ret) 0 1] else []))) ∧
    (s.cur.go = false → s.me.guardN p.g = true → (s.me.sreg p.a).toNat % 4 ≠ 0 → exec (.calli p) s =
      .next (trapped s (.chk ⟨9, BitVec.ofNat 64 ((s.me.sreg p.a).toNat % 2 ^ 32), 0⟩) 9
        (BitVec.ofNat 64 ((s.me.sreg p.a).toNat % 2 ^ 32)) 0)))

/-- A part of `Obligations.TrapEntryState`. -/
def ServiceCallTraps : Prop :=
  ∀ (o : NCode) (s : State), CodeTrap (.svc o) s 11 o ∧ CodeTrap (.brk o) s 12 o

/-- A part of `Obligations.TrapEntryState`. -/
def TrapEntry : Prop :=
  ∀ (s : State) (hw code detail slot tb : Nat) (addr : Word),
    (s.ctx hw).run.trap = false → (s.ctx hw).dbg.trace = 0 → code < 32 →
      Entered (s.ctx hw) ((s.takeTrap hw ⟨code, addr, detail, 0, 15, slot, false, false, false⟩ tb).ctx hw)
        (BitVec.ofNat 64 code) addr (syncInfo detail (s.ctx hw).frame.rep slot) tb ∧
      (∀ k, k ≠ hw → (s.takeTrap hw ⟨code, addr, detail, 0, 15, slot, false, false, false⟩ tb).ctx k = s.ctx k) ∧
      MemSame s (s.takeTrap hw ⟨code, addr, detail, 0, 15, slot, false, false, false⟩ tb)

/-- A part of `Obligations.VectorNarrowWidenLogicShift`. -/
def VectorNarrowWidenResult : Prop :=
  ∀ (o : V2) (sh : Nat) (sat rnd : Bool) (s : State),
    ((Instr.vnrw o sh sat rnd).wf = true →
      let w := o.t.width / 2
      let n := o.t.count
      let x := fun e => if e < n then vElem (s.me.vreg o.a) o.t e else vElem (s.me.vreg (o.a + 1)) o.t (e - n)
      let r := fun e => (x e + (if rnd = true ∧ 0 < sh then (2 : Int) ^ (sh - 1) else 0)) / (2 : Int) ^ sh
      let lo : Int := if o.t.isSigned = true then -(2 : Int) ^ (8 * w - 1) else 0
      let hi : Int := if o.t.isSigned = true then (2 : Int) ^ (8 * w - 1) - 1 else (2 : Int) ^ (8 * w) - 1
      VwGives (.vnrw o sh sat rnd) s o.g w 2 (Elements (s.me.guardW o.g) w (2 * n) o.d 2
        (fun e => modE w (if sat = true then clampE lo hi (r e) else r e))
        (fun e => if sat = true then satFlag lo hi (r e) else 0))) ∧
    ((Instr.vwid o).wf = true →
      let w := o.t.width
      let half := o.t.count / 2
      VwGives (.vwid o) s o.g w 2 (fun rs => ∃ m0 v0 m1 v1,
        rs = [vRes o.d m0 v0 0 2, vRes (o.d + 1) m1 v1 0 2] ∧
        (∀ k, k < 512 → (m0.getLsbD k = true ↔ Active (s.me.guardW o.g) w (k / (2 * w))) ∧
          (m1.getLsbD k = true ↔ Active (s.me.guardW o.g) w (half + k / (2 * w)))) ∧
        (∀ e, e < half → elem v0.toNat (2 * w) e = modE (2 * w) (vElem (s.me.vreg o.a) o.t e) ∧
          elem v1.toNat (2 * w) e = modE (2 * w) (vElem (s.me.vreg o.a) o.t (half + e)))))

/-- A part of `Obligations.VectorNarrowWidenLogicShift`. -/
def VectorLogicShiftResult : Prop :=
  ∀ (o : V3) (u : V2) (b : Amt) (s : State),
    let g := s.me.guardW o.g
    VwGives (.vand o) s o.g o.t.width 2 (Whole g o.t.width o.d 2 (s.me.vreg o.a &&& s.me.vreg o.b)) ∧
    VwGives (.vor o) s o.g o.t.width 2 (Whole g o.t.width o.d 2 (s.me.vreg o.a ||| s.me.vreg o.b)) ∧
    VwGives (.vxor o) s o.g o.t.width 2 (Whole g o.t.width o.d 2 (s.me.vreg o.a ^^^ s.me.vreg o.b)) ∧
    VwGives (.vnot u) s u.g u.t.width 2 (Whole (s.me.guardW u.g) u.t.width u.d 2 (~~~(s.me.vreg u.a))) ∧
    IntVec (.vshl u b) s u.g u.t u.d
      (fun e => rawE (s.me.vreg u.a) u.t e * 2 ^ amountE s.me b u.t e % 2 ^ (8 * u.t.width)) (fun _ => 0) ∧
    IntVec (.vshr u b) s u.g u.t u.d (fun e => rawE (s.me.vreg u.a) u.t e / 2 ^ amountE s.me b u.t e) (fun _ => 0) ∧
    IntVec (.vsra u b) s u.g u.t u.d
      (fun e => modE u.t.width (signed (8 * u.t.width) (rawE (s.me.vreg u.a) u.t e) / (2 : Int) ^ amountE s.me b u.t e))
      (fun _ => 0)

/-- A part of `Obligations.VectorCompareSelectMove`. -/
def VectorCompareSelectResult : Prop :=
  ∀ (o : V3) (cc : ICmp) (c : Nat) (s : State),
    let g := s.me.guardW o.g
    VwGives (.vcmp o cc) s o.g o.t.width 2 (Groups g o.t o.d 2
      (fun e => intTest cc (vElem (s.me.vreg o.a) o.t e) (vElem (s.me.vreg o.b) o.t e)) 0) ∧
    VwGives (.vsel o c) s o.g o.t.width 2 (Elements g o.t.width o.t.count o.d 2
      (fun e => if (s.me.preg c).getLsbD (e * o.t.width) = true then rawE (s.me.vreg o.a) o.t e else rawE (s.me.vreg o.b) o.t e)
      (fun _ => 0))

/-- A part of `Obligations.VectorCompareSelectMove`. -/
def VectorMoveResult : Prop :=
  ∀ (o : V3) (u : V2) (sh idx : Nat) (s : State),
    let g := s.me.guardW o.g
    let w := o.t.width
    let n := o.t.count
    let h := s.me.guardW u.g
    let z := u.t.width
    VwGives (.vperm o) s o.g w 2 (Elements g w n o.d 3 (fun e =>
      let k := rawE (s.me.vreg o.b) o.t e
      if k < n then rawE (s.me.vreg o.a) o.t k else 0) (fun _ => 0)) ∧
    VwGives (.vsld o sh) s o.g w 2 (Elements g w n o.d 3 (fun e =>
      if e + sh < n then rawE (s.me.vreg o.a) o.t (e + sh) else rawE (s.me.vreg o.b) o.t (e + sh - n)) (fun _ => 0)) ∧
    VwGives (.vbcstScalar u) s u.g z 2
      (Elements h z u.t.count u.d 3 (fun _ => (s.me.sreg u.a).toNat % 2 ^ (8 * z)) (fun _ => 0)) ∧
    VwGives (.vbcstElement u idx) s u.g z 2
      (Elements h z u.t.count u.d 3 (fun _ => rawE (s.me.vreg u.a) u.t idx) (fun _ => 0)) ∧
    (idx < u.t.count → VwGives (.vins u idx) s u.g z 2 (fun rs => ∃ mask v, rs = [vRes u.d mask v 0 3] ∧
      elem v.toNat z idx = (s.me.sreg u.a).toNat % 2 ^ (8 * z) ∧
      ∀ k, k < 512 → (mask.getLsbD k = true ↔ k / z = idx ∧ Active h z idx))) ∧
    (idx < u.t.count → VwGives (.vext u idx) s u.g z 2 (fun rs =>
      (Active h z idx → rs = [sRes u.d (BitVec.ofInt 64 (vElem (s.me.vreg u.a) u.t idx)) 0 3]) ∧
      (¬ Active h z idx → rs = []))) ∧
    VwGives (.vmov u) s u.g z 2 (Whole h z u.d 3 (s.me.vreg u.a)) ∧
    VwGives (.viota u) s u.g z 2 (Elements h z u.t.count u.d 3 (fun e =>
      ((List.range e).filter (fun k => (s.me.preg u.a).getLsbD (k * z))).length % 2 ^ (8 * z)) (fun _ => 0))

/-- A part of `Obligations.FloatArithmeticResult`. -/
def FloatArithmetic : Prop :=
  ∀ (o : V3) (c : Nat) (s : State),
    let f := ffmtOf o.t
    let a := fun e => f.decode (rawE (s.me.vreg o.a) o.t e)
    let b := fun e => f.decode (rawE (s.me.vreg o.b) o.t e)
    let x := fun e => f.decode (rawE (s.me.vreg c) o.t e)
    FloatOp (.vfadd o) s o.g o.t o.d (fun e u => f.addV s.me.rm u (a e) (b e)) ∧
    FloatOp (.vfsub o) s o.g o.t o.d (fun e u => f.addV s.me.rm u (a e) (b e).negate) ∧
    FloatOp (.vfmul o) s o.g o.t o.d (fun e u => f.mulV s.me.rm u (a e) (b e)) ∧
    FloatOp (.vfma o c) s o.g o.t o.d (fun e u => f.fmaV s.me.rm u (a e) (b e) (x e)) ∧
    FloatOp (.vfms o c) s o.g o.t o.d (fun e u => f.fmaV s.me.rm u (a e) (b e) (x e).negate)

/-- A part of `Obligations.FloatArithmeticResult`. -/
def ExactArithmetic : Prop :=
  ∀ (t : ETy) (rm u : Nat) (x y z : FV) (n k l : Bool) (a b c : Nat) (d e g : Int), t.isFloat = true →
    let f := ffmtOf t
    let p := FV.fin n a d
    let q := FV.fin k b e
    let r := FV.fin l c g
    let sig2 := nvIf (x.isSig = true ∨ y.isSig = true)
    let sig3 := nvIf (x.isSig = true ∨ y.isSig = true ∨ z.isSig = true)
    SumIs f rm u p q n k (f.addV rm u p q) ∧
    RoundingOf f rm u (xor n k) (vq p * vq q) (f.mulV rm u p q) ∧
    SumIs f rm u (.fin (xor n k) (a * b) (d + e)) r (xor n k) l (f.fmaV rm u p q r) ∧
    (x.isNan = true ∨ y.isNan = true → Exactly (f.addV rm u x y) f.nan sig2 ∧ Exactly (f.mulV rm u x y) f.nan sig2) ∧
    (∀ i j, Exactly (f.addV rm u (.inf i) (.inf j)) (if i = j then f.signBit i + f.inf else f.nan) (nvIf (i ≠ j)) ∧
      Exactly (f.addV rm u (.inf i) p) (f.signBit i + f.inf) 0 ∧ Exactly (f.addV rm u p (.inf i)) (f.signBit i + f.inf) 0 ∧
      Exactly (f.mulV rm u (.inf i) (.inf j)) (f.signBit (xor i j) + f.inf) 0 ∧
      Exactly (f.mulV rm u (.inf i) p) (if a = 0 then f.nan else f.signBit (xor i n) + f.inf) (nvIf (a = 0)) ∧
      Exactly (f.mulV rm u p (.inf i)) (if a = 0 then f.nan else f.signBit (xor n i) + f.inf) (nvIf (a = 0)) ∧
      Exactly (f.fmaV rm u p q (.inf i)) (f.signBit i + f.inf) 0 ∧
      (a ≠ 0 → Exactly (f.fmaV rm u (.inf i) p r) (f.signBit (xor i n) + f.inf) 0 ∧
        Exactly (f.fmaV rm u (.inf i) p (.inf j)) (if xor i n = j then f.signBit j + f.inf else f.nan) (nvIf (xor i n ≠ j))) ∧
      (a ≠ 0 → Exactly (f.fmaV rm u p (.inf i) r) (f.signBit (xor n i) + f.inf) 0 ∧
        Exactly (f.fmaV rm u p (.inf i) (.inf j)) (if xor n i = j then f.signBit j + f.inf else f.nan) (nvIf (xor n i ≠ j))) ∧
      Exactly (f.fmaV rm u (.inf i) (.inf j) r) (f.signBit (xor i j) + f.inf) 0 ∧
      (∀ h, Exactly (f.fmaV rm u (.inf i) (.inf j) (.inf h)) (if xor i j = h then f.signBit h + f.inf else f.nan)
        (nvIf (xor i j ≠ h))) ∧
      (a = 0 → Exactly (f.fmaV rm u (.inf i) p z) f.nan 0x10#6 ∧ Exactly (f.fmaV rm u p (.inf i) z) f.nan 0x10#6)) ∧
    (x.isNan = true ∨ y.isNan = true → Exactly (f.fmaV rm u x y z) f.nan sig3) ∧
    (z.isNan = true → Exactly (f.fmaV rm u p q z) f.nan (nvIf (z.isSig = true)))

/-- A part of `Obligations.FloatCompareConvert`. -/
def FloatCompareClassResult : Prop :=
  ∀ (o : V3) (u : V2) (cc : FCmp) (s : State),
    let f := ffmtOf o.t
    let w := o.t.width
    let m := s.me.guardW o.g
    let a := fun e => rawE (s.me.vreg o.a) o.t e
    let b := fun e => rawE (s.me.vreg o.b) o.t e
    VwGives (.vfmin o) s o.g w 3 (Laid m w o.t.count o.d 4 (fun e => (f.minmax false (a e) (b e)).1)
      (fun e => (f.minmax false (a e) (b e)).2)) ∧
    VwGives (.vfmax o) s o.g w 3 (Laid m w o.t.count o.d 4 (fun e => (f.minmax true (a e) (b e)).1)
      (fun e => (f.minmax true (a e) (b e)).2)) ∧
    VwGives (.vfcmp o cc) s o.g w 3 (fun rs => ∃ fl : Flags,
      (fl = 0x10#6 ∧ (∃ e, e < o.t.count ∧ Active m w e ∧ ((f.decode (a e)).isSig = true ∨ (f.decode (b e)).isSig = true)) ∨
       fl = 0 ∧ ¬ ∃ e, e < o.t.count ∧ Active m w e ∧ ((f.decode (a e)).isSig = true ∨ (f.decode (b e)).isSig = true)) ∧
      Groups m o.t o.d 4 (fun e => floatTest cc (f.decode (a e)) (f.decode (b e))) fl rs) ∧
    VwGives (.vfcls u) s u.g u.t.width 3 (Laid (s.me.guardW u.g) u.t.width u.t.count u.d 4
      (fun e => 2 ^ (ffmtOf u.t).classOf (rawE (s.me.vreg u.a) u.t e)) (fun _ => 0))

/-- A part of `Obligations.FloatCompareConvert`. -/
def FloatConvertResult : Prop :=
  ∀ (o : V2) (u : ETy) (hi : Bool) (s : State),
    let ns := o.t.count
    let nd := u.count
    let m := min ns nd
    let h := if hi = true then m else 0
    let src := fun e => if nd ≤ ns then h + e else e - h
    ∃ live : PReg,
      (∀ k, k < 512 → (live.getLsbD k = true ↔ Active (s.me.guardW o.g) u.width (k / u.width) ∧
        (nd ≤ ns ∨ h ≤ k / u.width ∧ k / u.width < h + m))) ∧
      FloatVec (.vcvt o u hi) s live (SomeActive (s.me.guardW o.g) u.width) u o.d
        (fun e draw => cvtOne o.t u s.me.rm draw (rawE (s.me.vreg o.a) o.t (src e)))

/-- A part of `Obligations.FloatCompareConvert`. -/
def CompareClassRows : Prop :=
  ∀ (t : ETy) (x y : Nat) (cc : FCmp), t.isFloat = true →
    let f := ffmtOf t
    let a := f.decode x
    let b := f.decode y
    let neg (v : Nat) : Prop := v / 2 ^ (f.width - 1) % 2 = 1
    let ex := x / 2 ^ (f.p - 1) % 2 ^ f.eb
    let fr := x % 2 ^ (f.p - 1)
    (a.isNan = false → b.isNan = false →
      (a.cmp b = .lt ↔ Below a b) ∧ (a.cmp b = .gt ↔ Below b a) ∧ (fcmpV cc a b = true ↔ floatTest cc a b) ∧
      (Below a b → f.minmax false x y = (x, 0) ∧ f.minmax true x y = (y, 0)) ∧
      (Below b a → f.minmax false x y = (y, 0) ∧ f.minmax true x y = (x, 0)) ∧
      (¬ Below a b → ¬ Below b a → f.minmax false x y = (if neg x then x else y, 0) ∧
        f.minmax true x y = (if neg x then y else x, 0))) ∧
    (a.isNan = true → b.isNan = false → ∀ m, f.minmax m x y = (y, nvIf (a.isSig = true)) ∧
      f.minmax m y x = (y, nvIf (a.isSig = true))) ∧
    (a.isNan = true → b.isNan = true → ∀ m, f.minmax m x y = (f.nan, nvIf (a.isSig = true ∨ b.isSig = true))) ∧
    f.classOf x =
      (if ex = 2 ^ f.eb - 1 then (if fr = 0 then (if neg x then 0 else 7) else if fr < 2 ^ (f.p - 2) then 8 else 9)
       else if ex = 0 then (if fr = 0 then (if neg x then 3 else 4) else if neg x then 2 else 5)
       else if neg x then 1 else 6) ∧
    (ex < 2 ^ f.eb - 1 → vq a = (if neg x then -1 else 1) * (2 : ℚ) ^ ((max ex 1 : Nat) - (f.bias : Int)) *
      ((if ex = 0 then 0 else 1) + (fr : ℚ) / 2 ^ (f.p - 1)))

/-- A part of `Obligations.FloatCompareConvert`. -/
def ConversionRows : Prop :=
  ∀ (t u : ETy) (rm d x : Nat) (n : Bool) (m : Nat) (e : Int),
    let f := ffmtOf t
    let g := ffmtOf u
    let r := cvtOne t u rm d x
    (t.isFloat = true → u.isFloat = true →
      (∀ sig, f.decode x = .nan sig → Exactly r g.nan (nvIf (sig = true))) ∧
      (f.decode x = .inf n → Exactly r (g.signBit n + g.inf) 0) ∧
      (f.decode x = .fin n m e → r = g.round rm d n m e)) ∧
    (t.isFloat = true → u.isInt = true →
      (∀ sig, f.decode x = .nan sig → Exactly r 0 0x10#6) ∧
      (f.decode x = .inf n → Exactly r (modE u.width (if n = true then loOf u else hiOf u)) 0x10#6) ∧
      (f.decode x = .fin n m e → ∃ v : Int, RoundsInt rm d (vq (.fin n m e)) v ∧
        r.bits = modE u.width (clampE (loOf u) (hiOf u) v) ∧ (r.inexact = true ↔ (v : ℚ) ≠ vq (.fin n m e)) ∧
        r.flags = if v < loOf u ∨ hiOf u < v then 0x10#6 else if r.inexact = true then 0x01#6 else 0)) ∧
    (t.isInt = true → u.isFloat = true → RoundingOf g rm d (decide (tyRead t x < 0)) (tyRead t x : ℚ) r)

/-- A part of `Obligations.RoundingAndFunctions`. -/
def RoundingModes : Prop :=
  ∀ (rm u m sh : Nat) (neg : Bool) (e : Int), 0 < sh →
    RoundsTo rm neg m sh (roundMag rm neg u m e (e + sh)).1 ∧
    ((roundMag rm neg u m e (e + sh)).2 = true ↔ m % 2 ^ sh ≠ 0) ∧
    (rm = 4 → m % 2 ^ sh ≠ 0 → (roundMag rm neg u m e (e + sh)).1 =
      if u * 2 ^ sh < m % 2 ^ sh * 2 ^ 24 then m / 2 ^ sh + 1 else m / 2 ^ sh)

/-- A part of `Obligations.RoundingAndFunctions`. -/
def TranscendentalResult : Prop :=
  ∀ (o : V2) (s : State),
    Transcendental (.vrcp o) s o 0 ∧ Transcendental (.vrsq o) s o 1 ∧ Transcendental (.vexp o) s o 2 ∧
    Transcendental (.vlog o) s o 3 ∧ Transcendental (.vtanh o) s o 4

/-- A part of `Obligations.RoundingAndFunctions`. -/
def TranscendentalSpecialValues : Prop :=
  ∀ (t : ETy) (which rm x : Nat), t.isFloat = true → which < 5 → rm < 4 →
    let f := ffmtOf t
    let r := f.func which rm x
    let pos0 := 0
    let neg0 := 2 ^ (f.width - 1)
    let posInf := f.inf
    let negInf := 2 ^ (f.width - 1) + f.inf
    let one := f.bias * 2 ^ (f.p - 1)
    (∀ sig, f.decode x = .nan sig → r.bits = f.nan ∧ r.flags = if sig = true then 0x10#6 else 0) ∧
    (f.decode x = .inf false → r.flags = 0 ∧ r.bits = [pos0, pos0, posInf, posInf, one].getD which 0) ∧
    (f.decode x = .inf true → r.bits = [neg0, f.nan, pos0, f.nan, one + neg0].getD which 0 ∧
      r.flags = if which = 1 ∨ which = 3 then 0x10#6 else 0) ∧
    (∀ neg e, f.decode x = .fin neg 0 e →
      r.bits = [if neg = true then negInf else posInf, if neg = true then negInf else posInf, one, negInf,
        if neg = true then neg0 else pos0].getD which 0 ∧
      r.flags = if which = 0 ∨ which = 1 ∨ which = 3 then 0x08#6 else 0) ∧
    (∀ m e, f.decode x = .fin true (m + 1) e → which = 1 ∨ which = 3 → r.bits = f.nan ∧ r.flags = 0x10#6) ∧
    (x = one → which = 0 ∨ which = 1 ∨ which = 3 → Exactly r (if which = 3 then pos0 else one) 0)

/-- A part of `Obligations.QuantiseDequantise`. -/
def QuantiseResult : Prop :=
  ∀ (o : V2) (c q : Nat) (s : State), (Instr.vqnt o c q).wf = true →
    let k := mxBits o.t
    let m := s.me.guardW o.g
    let r := mxQuantise k s.me.rm s.cur.hw (fun e => e) (fun e => m.getLsbD (e * 4))
      (fun e => f32.decode (elem (s.me.vreg o.a).toNat 4 e)) s.me
    let at_ := fun e => (128 * q + e) * k
    (s.mod.full = true ∨ k = 8 → SomeActive m 4 → Answers (.vqnt o c q) s (fun t => ∃ m0 v0 kept m1 v1,
      RoundedTo s t [{ (vRes o.d m0 v0 r.flags 4).pend s with kept := kept }, (vRes c m1 v1 0 4).pend s] 3 ∧
      (∀ x ∈ r.elems, v0.toNat / 2 ^ at_ x.1 % 2 ^ k = x.2) ∧
      (∀ x ∈ r.scales, elem v1.toNat 1 (4 * q + x.1) = x.2) ∧
      (∀ b, b < 512 → (m0.getLsbD b = true ↔
        (∃ e, e < 128 ∧ Active m 4 e ∧ at_ e < 8 * b + 8 ∧ 8 * b < at_ e + k) ∨ k ≠ 8 ∧ 64 * k ≤ b)) ∧
      (∀ n, n < 4096 → (m0.getLsbD (n / 8) = true ∧ kept.getLsbD n = false ↔
        (∃ e, e < 128 ∧ Active m 4 e ∧ at_ e ≤ n ∧ n < at_ e + k) ∨ k ≠ 8 ∧ 512 * k ≤ n)) ∧
      (∀ b, b < 512 → (m1.getLsbD b = true ↔ ∃ j e, b = 4 * q + j ∧ j < 4 ∧ 32 * j ≤ e ∧ e < 32 * j + 32 ∧ Active m 4 e)) ∧
      (∀ b, 64 * k ≤ b → b < 512 → k ≠ 8 → elem v0.toNat 1 b = 0) ∧
      ∀ l, (t.ctx s.cur.hw).lfsr s.cur.hw l = r.ctx.lfsr s.cur.hw l)) ∧
    (s.mod.full = true ∨ k = 8 → ¬ SomeActive m 4 → Nullified (.vqnt o c q) s) ∧
    (s.cur.go = false → s.mod.full = false → k ≠ 8 → exec (.vqnt o c q) s = .next (trapped s (.mode ⟨1, 0, 0⟩) 1 0 0))

/-- A part of `Obligations.QuantiseDequantise`. -/
def DequantiseResult : Prop :=
  ∀ (o : V2) (c q : Nat) (s : State), (Instr.vdqnt o c q).wf = true →
    let k := mxBits o.t
    let m := s.me.guardW o.g
    let sc := fun e => elem (s.me.vreg c).toNat 1 (4 * q + e / 32)
    let qv := fun e => signed k ((s.me.vreg o.a).toNat / 2 ^ ((128 * q + e) * k) % 2 ^ k)
    (s.mod.full = true ∨ k = 8 → FloatVec (.vdqnt o c q) s m (SomeActive m 4) .f o.d (fun e u =>
      if sc e = 255 then ⟨f32.nan, 0x10#6, false⟩
      else f32.round s.me.rm u (decide (qv e < 0)) (qv e).natAbs ((sc e : Int) - 127 - (k - 2 : Nat)))) ∧
    (s.cur.go = false → s.mod.full = false → k ≠ 8 → exec (.vdqnt o c q) s = .next (trapped s (.mode ⟨1, 0, 0⟩) 1 0 0))

/-- A part of `Obligations.QuantiseDequantise`. -/
def QuantiseRows : Prop :=
  ∀ (k rm hw : Nat) (active : Nat → Bool) (x : Nat → FV) (c : Ctx), k = 8 ∨ k = 6 ∨ k = 4 → rm ≤ 4 →
    let r := mxQuantise k rm hw (fun e => e) active x c
    let inBlock (j e : Nat) : Prop := 32 * j ≤ e ∧ e < 32 * j + 32 ∧ active e = true
    let finite (v : FV) : Prop := ∃ n m d, v = .fin n m d
    ∃ (sat nx : Nat → Prop),
      (∀ e, (∃ q, (e, q) ∈ r.elems) ↔ e < 128 ∧ active e = true) ∧ (r.elems.map (fun y => y.1)).Nodup ∧
      (∀ j, (∃ s, (j, s) ∈ r.scales) ↔ j < 4 ∧ ∃ e, inBlock j e) ∧ (r.scales.map (fun y => y.1)).Nodup ∧
      (∀ j s, (j, s) ∈ r.scales → (∃ e, inBlock j e ∧ ¬ finite (x e)) →
        s = 255 ∧ (∀ e, inBlock j e → (e, 0) ∈ r.elems ∧ ¬ sat e ∧ ¬ nx e)) ∧
      (∀ j s, (j, s) ∈ r.scales → (∀ e, inBlock j e → finite (x e)) →
        (∃ e, inBlock j e ∧ ScaleIs |vq (x e)| s ∧ ∀ d, inBlock j d → |vq (x d)| ≤ |vq (x e)|) ∧
        (∀ e q, inBlock j e → (e, q) ∈ r.elems →
          QuantIs k s rm ((lfsrAdvance (c.lfsr hw e)).toNat / 256) (x e) q (sat e) (nx e))) ∧
      (r.flags.getLsbD 4 = true ↔ ∃ e, e < 128 ∧ active e = true ∧ ¬ finite (x e)) ∧
      (r.flags.getLsbD 5 = true ↔ ∃ e, e < 128 ∧ active e = true ∧ sat e) ∧
      (r.flags.getLsbD 0 = true ↔ ∃ e, e < 128 ∧ active e = true ∧ nx e) ∧
      (∀ b, b = 1 ∨ b = 2 ∨ b = 3 → r.flags.getLsbD b = false)

/-- A part of `Obligations.ReductionResult`. -/
def IntegerReductionResult : Prop :=
  ∀ (o : V2) (op : RedOp) (s : State), o.t.isInt = true →
    let w := o.t.width
    let m := s.me.guardW o.g
    let x := fun e => rawE (s.me.vreg o.a) o.t e
    let act := (List.range o.t.count).filter (fun e => m.getLsbD (e * w))
    VwGives (.vred o op) s o.g w 3 (fun rs => ∃ r, r < 2 ^ (8 * w) ∧
      rs = [vRes o.d (BitVec.ofNat 512 (2 ^ w - 1)) (BitVec.ofNat 4096 r) 0 6] ∧
      match op with
      | .add => r = (act.map x).sum % 2 ^ (8 * w)
      | .min => (∃ e ∈ act, r = x e) ∧ ∀ e ∈ act, tyRead o.t r ≤ tyRead o.t (x e)
      | .max => (∃ e ∈ act, r = x e) ∧ ∀ e ∈ act, tyRead o.t (x e) ≤ tyRead o.t r
      | .and => ∀ k, Nat.testBit r k = true ↔ ∀ e ∈ act, Nat.testBit (x e) k = true
      | .or => ∀ k, Nat.testBit r k = true ↔ ∃ e ∈ act, Nat.testBit (x e) k = true
      | .xor => ∀ k, Nat.testBit r k = true ↔ (act.filter (fun e => Nat.testBit (x e) k)).length % 2 = 1)

/-- A part of `Obligations.ReductionResult`. -/
def FloatReductionResult : Prop :=
  ∀ (o : V2) (op : RedOp) (s : State), o.t.isFloat = true →
    let w := o.t.width
    let m := s.me.guardW o.g
    let x := (List.range o.t.count).map (fun e =>
      if m.getLsbD (e * w) = true then some (FFmt.convert (ffmtOf o.t) f32 0 0 (rawE (s.me.vreg o.a) o.t e)) else none)
    let fl := (x.filterMap (fun r => r)).foldl (fun a r => a ||| r.flags) (0 : Flags)
    let r := redTree (redFlt op s.me.rm s.cur.hw) 9 (x.map (fun r => r.map (fun r => r.bits))) (fl, s.me)
    (SomeActive m w → Answers (.vred o op) s (fun t =>
      Rounded s t [vRes o.d 0xF#512 (BitVec.ofNat 4096 (r.1.getD 0)) r.2.1 6] 3 ∧
      ∀ l, (t.ctx s.cur.hw).lfsr s.cur.hw l = r.2.2.lfsr s.cur.hw l)) ∧
    (¬ SomeActive m w → Nullified (.vred o op) s)

/-- A part of `Obligations.ReductionResult`. -/
def ReductionTree : Prop :=
  (∀ (n m : Nat) (xs : List (Option Nat)) (g : Nat → Nat → Nat), xs.length = 2 ^ n → n ≤ m →
    TreeOf (fun _ x y (_ : Unit) => (g x y, ())) n xs () (redTree (fun _ x y (_ : Unit) => (g x y, ())) m xs ()).1 ()) ∧
  (∀ (n m rm hw : Nat) (op : RedOp) (xs : List (Option Nat)) (fl : Flags) (c : Ctx), xs.length = 2 ^ n → n ≤ m →
    let r := redTree (redFlt op rm hw) m xs (fl, c)
    TreeOf (redFlt op rm hw) n xs (fl, c) r.1 r.2) ∧
  (∀ (rm hw i x y : Nat) (fl : Flags) (c : Ctx),
    (∀ top, redFlt (if top = true then .max else .min) rm hw i x y (fl, c) =
      ((f32.minmax top x y).1, (fl ||| (f32.minmax top x y).2, c))) ∧
    (let u := if rm = 4 then (lfsrAdvance (c.lfsr hw (i % 128))).toNat / 256 else 0
     let v := f32.addV rm u (f32.decode x) (f32.decode y)
     let r := redFlt .add rm hw i x y (fl, c)
     r.1 = v.bits ∧ r.2.1 = fl ||| v.flags ∧
     ∀ l, r.2.2.lfsr hw l = if rm = 4 ∧ l = i % 128 ∧ v.inexact = true then lfsrAdvance (c.lfsr hw l) else c.lfsr hw l))

/-- A part of `Obligations.VectorLoadResult`. -/
def AccessAddresses : Prop :=
  ∀ (o : LD) (p : LS) (q : LX) (f : LF) (c : Ctx) (n b : Nat) (a : Word),
    let ea := fun (base : Nat) (off step : Int) => c.sreg base + BitVec.ofInt 64 off + BitVec.ofInt 64 (n * step * 16)
    ((b, a) ∈ c.movesD o n ↔ b < 512 ∧ (c.guardW o.g).getLsbD b = true ∧ a = ea o.base o.off o.step + BitVec.ofNat 64 b) ∧
    ((b, a) ∈ c.movesB o n ↔ b < 512 ∧ (c.guardW o.g).getLsbD b = true ∧ a = ea o.base o.off o.step + BitVec.ofNat 64 (b % 64)) ∧
    ((b, a) ∈ c.movesS p n ↔ b < 512 ∧ (c.guardW p.g).getLsbD (b / 32 * 32) = true ∧
      a = ea p.base 0 p.step + BitVec.ofInt 64 ((b / 32 : Nat) * p.stride * 32) + BitVec.ofNat 64 (b % 32)) ∧
    ((b, a) ∈ c.movesX q ↔ b < 512 ∧ (c.guardW q.g).getLsbD (b / 16 * 16) = true ∧
      a = c.sreg q.base + BitVec.ofInt 64 q.off + BitVec.ofNat 64 (elem (c.vreg q.vi).toNat 4 (b / 16)) + BitVec.ofNat 64 (b % 16)) ∧
    ((b, a) ∈ c.movesP o n ↔ b < 64 ∧ (∃ k, k < 8 ∧ (c.guardW o.g).getLsbD (8 * b + k) = true) ∧
      a = ea o.base o.off o.step + BitVec.ofNat 64 b) ∧
    ((b, a) ∈ c.movesF f n ↔ b < 16 * (f.len + 1) ∧ (c.guardW f.g).getLsbD b = true ∧
      a = ea f.base f.off f.step + BitVec.ofNat 64 b)

/-- A part of `Obligations.VectorLoadResult`. -/
def VectorLoads : Prop :=
  ∀ (o : LD) (p : LS) (q : LX) (s : State),
    let n := s.cur.n
    LoadL (.vld o) s (s.me.movesD o n) ((s.me.eaD o n).toNat % 16 = 0) o.v 6 (fun m => m = s.me.guardW o.g) ∧
    LoadL (.vldb o) s (s.me.movesB o n) ((s.me.eaD o n).toNat % 64 = 0) o.v 6 (fun m => m = s.me.guardW o.g) ∧
    LoadL (.vlds p) s (s.me.movesS p n) ((s.me.eaS p n).toNat % 32 = 0) p.v 6 (Covers (s.me.guardW p.g) 32) ∧
    LoadL (.vldx q) s (s.me.movesX q)
      ((s.me.eaX q).toNat % 16 = 0 ∧ ∀ j, j < 32 → (s.me.guardW q.g).getLsbD (16 * j) = true → (s.me.chunkAt q j).toNat % 16 = 0)
      q.v 7 (Covers (s.me.guardW q.g) 16) ∧
    (s.me.movesP o n = [] → Nullified (.pld o) s) ∧
    (s.me.movesP o n ≠ [] → (s.me.eaD o n).toNat % 64 = 0 → Answers (.pld o) s (fun t => ∃ v,
      Loads s t [pRes o.v (s.me.guardW o.g) v 0 6] (badOf (s.me.movesP o n)) ∧
      ∀ x ∈ s.me.movesP o n, ∀ k, k < 8 →
        v.getLsbD (8 * x.1 + k) = (s.ownByte s.myCore x.2.toNat).getLsbD k))

/-- A part of `Obligations.VectorStoreFrame`. -/
def VectorStores : Prop :=
  ∀ (o : LD) (p : LS) (q : LX) (f : LF) (s : State),
    let n := s.cur.n
    StoreL (.vst o) s (s.me.movesD o n) ((s.me.eaD o n).toNat % 16 = 0) (vb (s.me.vreg o.v)) ∧
    StoreL (.vsts p) s (s.me.movesS p n) ((s.me.eaS p n).toNat % 32 = 0) (vb (s.me.vreg p.v)) ∧
    StoreL (.vstx q) s (s.me.movesX q)
      ((s.me.eaX q).toNat % 16 = 0 ∧ ∀ j, j < 32 → (s.me.guardW q.g).getLsbD (16 * j) = true → (s.me.chunkAt q j).toNat % 16 = 0)
      (vb (s.me.vreg q.v)) ∧
    StoreL (.fill f) s (s.me.movesF f n) ((s.me.eaF f n).toNat % 16 = 0)
      (fun b => BitVec.ofNat 8 ((s.me.sreg f.sc).toNat / 256 ^ (b % 4))) ∧
    (s.me.movesP o n = [] → Nullified (.pst o) s) ∧
    (s.mem.spad.wf = true → NoWatch s → s.me.movesP o n ≠ [] → (s.me.eaD o n).toNat % 64 = 0 →
      Answers (.pst o) s (fun t => ∃ byte : Nat × Word → Byte,
        Stores s t ((s.me.movesP o n).map (fun x => (x.2.toNat, byte x))) (badOf (s.me.movesP o n)) ∧
        ∀ x ∈ s.me.movesP o n, ∀ k, k < 8 → (byte x).getLsbD k =
          if (s.me.guardW o.g).getLsbD (8 * x.1 + k) = true then (s.me.preg o.v).getLsbD (8 * x.1 + k)
          else (s.ownByte s.myCore x.2.toNat).getLsbD k))

/-- A part of `Obligations.VectorStoreFrame`. -/
def VectorAccessTraps : Prop :=
  ∀ (o : LD) (p : LS) (q : LX) (f : LF) (s : State),
    let n := s.cur.n
    TrapsX (.vldx q) s q ∧ TrapsX (.vstx q) s q ∧
    (s.cur.go = false → s.me.movesP o n ≠ [] → (s.me.eaD o n).toNat % 64 ≠ 0 →
      exec (.pld o) s = .next (trapped s (.chk ⟨9, s.me.eaD o n, 0⟩) 9 (s.me.eaD o n) 0) ∧
      exec (.pst o) s = .next (trapped s (.chk ⟨9, s.me.eaD o n, 0⟩) 9 (s.me.eaD o n) 0)) ∧
    TrapsL (.vld o) s (s.me.movesD o n) (s.me.eaD o n) 16 ∧ TrapsL (.vst o) s (s.me.movesD o n) (s.me.eaD o n) 16 ∧
    TrapsL (.vldb o) s (s.me.movesB o n) (s.me.eaD o n) 64 ∧ TrapsL (.vlds p) s (s.me.movesS p n) (s.me.eaS p n) 32 ∧
    TrapsL (.vsts p) s (s.me.movesS p n) (s.me.eaS p n) 32 ∧ TrapsL (.fill f) s (s.me.movesF f n) (s.me.eaF f n) 16

/-- A part of `Obligations.TileAccessResult`. -/
def TileWriteResult : Prop :=
  ∀ (o : MZ) (v : MV) (s : State),
    (s.me.tokensZero o.cons = true → Answers (.mzero o) s (fun t =>
      let z := s.me.zone o.zone
      (∀ i j, i < z.rows → j < z.cols → SMap.getD t.mem.acs (tileKey s.myCore o.tile (z.row0 + i) (z.col0 + j)) 0 = 0) ∧
      (∀ n, (∀ i j, i < z.rows → j < z.cols → n ≠ tileKey s.myCore o.tile (z.row0 + i) (z.col0 + j)) →
        SMap.getD t.mem.acs n 0 = SMap.getD s.mem.acs n 0) ∧
      t.ctx s.cur.hw = { s.me with energy := charged s 9 z.rows } ∧ t.front = s.front ∧
      t.core s.myCore = { s.core s.myCore with acsNow := (o.tile, z) :: (s.core s.myCore).acsNow } ∧ Elsewhere s t)) ∧
    (s.me.tokensZero v.cons = true → (s.me.sreg v.row).toNat + 2 ≤ s.mod.rows → Answers (.mwrv v) s (fun t =>
      let q := (s.me.sreg v.row).toNat
      (∀ h c, h < 2 → c < 64 → SMap.getD t.mem.acs (tileKey s.myCore v.tile (q + h) c) 0 =
        BitVec.ofNat 32 (elem (s.me.vreg v.v).toNat 4 (64 * h + c))) ∧
      (∀ n, (∀ h c, h < 2 → c < 64 → n ≠ tileKey s.myCore v.tile (q + h) c) →
        SMap.getD t.mem.acs n 0 = SMap.getD s.mem.acs n 0) ∧
      t.ctx s.cur.hw = { s.me with energy := charged s 9 2 } ∧ t.front = s.front ∧
      t.core s.myCore = { s.core s.myCore with acsNow := (v.tile, ⟨q, 0, 2, 64⟩) :: (s.core s.myCore).acsNow } ∧
      Elsewhere s t)) ∧
    (s.cur.go = false → s.me.tokensZero v.cons = true → s.mod.rows < (s.me.sreg v.row).toNat + 2 →
      exec (.mwrv v) s = .next (trapped s (.chk ⟨2, 0, 0⟩) 2 0 0) ∧ exec (.mrdv v) s = .next (trapped s (.chk ⟨2, 0, 0⟩) 2 0 0)) ∧
    (s.cur.go = false → s.me.tokensZero o.cons = false → HeldBack (.mzero o) s) ∧
    (s.cur.go = false → s.me.tokensZero v.cons = false → HeldBack (.mwrv v) s ∧ HeldBack (.mrdv v) s)

/-- A part of `Obligations.TileAccessResult`. -/
def TileReadResult : Prop :=
  ∀ (v : MV) (s : State), s.me.tokensZero v.cons = true → (s.me.sreg v.row).toNat + 2 ≤ s.mod.rows →
    Answers (.mrdv v) s (fun t => ∃ val : VReg,
      (∀ h c, h < 2 → c < 64 → elem val.toNat 4 (64 * h + c) =
        (SMap.getD s.mem.acs (tileKey s.myCore v.tile ((s.me.sreg v.row).toNat + h) c) 0).toNat) ∧
      t.ctx s.cur.hw = { s.me with
        pend := { s.me.pend with val := s.me.pend.val ++
          [⟨.v v.v, BitVec.allOnes 512, val, 0, s.me.run.sched + 4, (s.core s.myCore).arr + 4, s.cur.bundle,
            some (v.tile, (s.me.sreg v.row).toNat), v.prod, 0⟩] }
        fmt := tokenUp s.me v.prod
        energy := charged s 9 2 } ∧
      t.front = s.front ∧ t.cores = s.cores ∧ t.mem.acs = s.mem.acs ∧ Elsewhere s t)

/-- A part of `Obligations.TileAccessResult`. -/
def TileTransferStarts : Prop :=
  ∀ (o : MX) (s : State), TransferIssue (.mrds o) s false o ∧ TransferIssue (.mwrs o) s true o

/-- A part of `Obligations.SeamResumeResult`. -/
def SeamResult : Prop :=
  ∀ (o : MI) (s : State),
    (System s → s.me.tokensZero o.cons = true → (s.me.sreg o.a).toNat % 0x20000 = 0 →
      ((s.core s.myCore).prods.map (fun p => p.id)).Nodup → (∀ j ∈ (s.core s.myCore).imgs, j.grp ≠ s.front.nextId) →
      Answers (.mseam o) s (fun t =>
        (t.ctx s.cur.hw).fmt = tokenUp s.me o.prod ∧ (t.ctx s.cur.hw).regs = s.me.regs ∧
        (t.ctx s.cur.hw).pend.val = s.me.pend.val ∧
        (∀ n, n < 2 → ∃ j ∈ (t.core s.myCore).imgs, j.hw = s.cur.hw ∧ j.slot = n ∧ j.tok = o.prod ∧ j.why = 1 ∧
          j.base = s.me.sreg o.a + BitVec.ofNat 64 (0x20000 * n)) ∧
        (∀ p, p.hw ≠ s.cur.hw → (p ∈ (t.core s.myCore).prods ↔ p ∈ (s.core s.myCore).prods)) ∧
        OthersSame s t ∧ t.mem = s.mem ∧ t.mod = s.mod ∧ t.clusters = s.clusters)) ∧
    (s.cur.go = false → System s → s.me.tokensZero o.cons = false → HeldBack (.mseam o) s) ∧
    (s.cur.go = false → System s → s.me.tokensZero o.cons = true → (s.me.sreg o.a).toNat % 0x20000 ≠ 0 →
      exec (.mseam o) s = .next (trapped s (.chk ⟨9, s.me.sreg o.a, 0⟩) 9 (s.me.sreg o.a) 0)) ∧
    Privileged (.mseam o) s ∧ Privileged (.mresume o) s

/-- A part of `Obligations.SeamResumeResult`. -/
def ResumeResult : Prop :=
  ∀ (o : MI) (s : State) (r : Resume),
    System s → s.me.tokensZero o.cons = true → (s.me.sreg o.a).toNat % 0x20000 = 0 → s.resumeOf s.cur.hw = some r →
    r.addr = s.me.sreg o.a →
    (r.st = 2 → r.prod = none → Answers (.mresume o) s (fun t =>
      t.ctxs = s.ctxs ∧ t.front = s.front ∧ t.mem = s.mem ∧ (t.core s.myCore).prods = (s.core s.myCore).prods)) ∧
    (s.cur.go = false → r.st = 1 →
      exec (.mresume o) s = .next (trapped s (.chk ⟨15, s.me.sreg o.a, 0⟩) 15 (s.me.sreg o.a) 0)) ∧
    (∀ p, r.st = 3 → r.todo = [] → r.prod = some p →
      (s.mod.full = true ∨ (p.spec.fa ≠ 3 ∧ p.spec.fa ≠ 4 ∧ p.spec.fb ≠ 3 ∧ p.spec.fb ≠ 4)) →
      let q : Prod := { p with
        id := s.front.nextId
        hw := s.cur.hw
        issue := ((s.core s.myCore).arr : Int) - p.k0
        sched := (s.me.run.sched : Int) - p.k0
        spec := { p.spec with tok := o.prod, bundle := s.cur.bundle } }
      s.portChk s.myCore q (q.resumeClear (s.core s.myCore).prods (s.core s.myCore).past) = none →
      Answers (.mresume o) s (fun t =>
        (t.core s.myCore).prods = (s.core s.myCore).prods ++ [q] ∧ (t.ctx s.cur.hw).fmt = tokenUp s.me o.prod ∧
        (t.ctx s.cur.hw).regs = s.me.regs ∧ (t.ctx s.cur.hw).pend.val = s.me.pend.val ∧ OthersSame s t ∧ t.mem = s.mem)) ∧
    (s.cur.go = false → r.st = 0 ∨ r.st = 3 ∧ r.todo ≠ [] → HeldBack (.mresume o) s)

/-- A part of `Obligations.ChainCommandEnters`. -/
def CopyCommandEnters : Prop :=
  ∀ (l : CL) (b : CB) (c : CS) (q : CT) (s : State),
    CIssue (.cplvl l) s (.cplvl (slotOfHandle s l.sq) l.level ((s.me.sreg l.cnt).toNat % 2 ^ 32) (s.me.sreg l.ss) (s.me.sreg l.ds))
      l.prod l.cons (Bound s l.sq) ∧
    CIssue (.cpbase b) s (.cpbase (slotOfHandle s b.sq) (s.me.sreg b.src) (s.me.sreg b.dst) b.sspad b.dspad
      ((s.me.sreg b.len).toNat % 2 ^ 21)) b.prod b.cons (Bound s b.sq) ∧
    CIssue (.cpgo c) s (.cpgo (slotOfHandle s c.sq)) c.prod c.cons (Bound s c.sq) ∧
    CIssue (.cpstrm c) s (.cpstrm (slotOfHandle s c.sq)) c.prod c.cons (Bound s c.sq) ∧
    CIssue (.cpstrmOff c) s (.cpstrmOff (slotOfHandle s c.sq)) c.prod c.cons (Bound s c.sq) ∧
    CIssue (.cpcan c) s (.cpcan (slotOfHandle s c.sq)) c.prod c.cons (Bound s c.sq) ∧
    CIssue (.cpstat q) s (.cpstat (slotOfHandle s q.sq) (s.me.sreg q.addr).toNat) q.prod q.cons
      (Bound s q.sq ∧ (s.me.sreg q.addr).toNat % 32 = 0)

/-- A part of `Obligations.ChainCommandEnters`. -/
def LinkCommandEnters : Prop :=
  ∀ (k : CK) (r : CR) (l : CLt) (v : CI) (s : State),
    let a := (s.me.sreg k.addr).toNat
    let n := (s.me.sreg k.len).toNat % 2 ^ 21
    let b := (s.me.sreg r.addr).toNat
    let m := (s.me.sreg r.cnt).toNat
    CIssue (.lksend k) s (.lksend k.link a n (s.me.sreg k.tick).toNat) k.prod k.cons
      (a % 16 = 0 ∧ Owns s k.link true ∧ a + n ≤ 0xC000000) ∧
    CIssue (.lkrecv k) s (.lkrecv k.link a n (s.me.sreg k.tick).toNat) k.prod k.cons
      (a % 16 = 0 ∧ Owns s k.link false ∧ a + n ≤ 0xC000000) ∧
    CIssue (.lkred r) s (.lkred r.link b m (s.me.sreg r.tick).toNat r.out r.deliver r.infmt r.outfmt) r.prod r.cons
      (b % 16 = 0 ∧ (r.infmt ≠ .mx8 ∧ r.outfmt ≠ .mx8 ∨ m % 32 = 0) ∧ Owns s r.link false ∧
        (r.deliver = true ∨ Owns s r.out true) ∧ b + 4 * m ≤ 0xC000000) ∧
    CIssue (.lktime l) s (.lktime (s.me.sreg l.tick).toNat) l.prod l.cons True ∧
    (System s → CIssue (.tlbinv v) s (.tlbinv v.mode v.wide ((s.me.sreg v.asid).toNat % 2 ^ 14) (s.me.sreg v.start).toNat
      (s.me.sreg v.len).toNat) v.prod v.cons True) ∧
    Privileged (.tlbinv v) s

/-- A part of `Obligations.QueueCommandEnters`. -/
def GatherCommandEnters : Prop :=
  ∀ (g : QG) (a : QA) (f : QF) (p : Q1) (r : Q2) (s : State),
    QIssue (.gpush g) s g.g (.gpush (s.me.vreg g.vi) (s.me.sreg g.sb) g.z g.virt) g.prod (some false)
      ((s.me.sreg g.sb).toNat % 2 ^ g.z = 0 ∧ Room s) ∧
    QIssue (.sacc a) s a.g (.sacc (s.me.vreg a.vx) (s.me.vreg (a.vx + 1)) (s.me.sreg a.sb) a.t a.virt) a.prod none
      ((s.me.sreg a.sb).toNat % (if a.t = .d then 8 else 4) = 0) ∧
    QIssue (.sfop f) s f.g (.sfop (s.me.sreg f.sa) (s.me.sreg f.sv) (if f.op = .cas then s.me.sreg (f.sv + 1) else 0) f.wide f.virt
      f.op) f.prod (some false) ((s.me.sreg f.sa).toNat % (if f.wide = true then 8 else 4) = 0 ∧ Room s) ∧
    QIssue (.nlbin p) s p.g (.nlbin (s.me.sreg p.r).toNat) p.prod none ((s.me.sreg p.r).toNat % 64 = 0) ∧
    QIssue (.nlpos p) s p.g (.nlpos (s.me.vreg p.r)) p.prod none True ∧
    QIssue (.nlreq r) s r.g (.nlreq (s.me.sreg r.r) (s.me.sreg r.t)) r.prod (some true) (Room s) ∧
    QIssue (.nlstat p) s p.g (.nlstat (s.me.sreg p.r).toNat) p.prod none ((s.me.sreg p.r).toNat % 32 = 0) ∧
    (s.cur.go = false → s.me.guardN g.g = true → s.me.eng.qG.length < 16 → (s.me.sreg g.sb).toNat % 2 ^ g.z = 0 → ¬ Room s →
      exec (.gpush g) s = .next (trapped s (.chk ⟨5, 0, 0⟩) 5 0 0)) ∧
    (QFree s g.g → ChecksTrap (.gpush g) s [((s.me.sreg g.sb).toNat % 2 ^ g.z ≠ 0, 9), (¬ Room s, 5)]) ∧
    (QFree s a.g → ChecksTrap (.sacc a) s [((s.me.sreg a.sb).toNat % (if a.t = .d then 8 else 4) ≠ 0, 9)]) ∧
    (QFree s f.g → ChecksTrap (.sfop f) s [((s.me.sreg f.sa).toNat % (if f.wide = true then 8 else 4) ≠ 0, 9), (¬ Room s, 5)]) ∧
    (QFree s p.g → ChecksTrap (.nlbin p) s [((s.me.sreg p.r).toNat % 64 ≠ 0, 9)] ∧
      ChecksTrap (.nlstat p) s [((s.me.sreg p.r).toNat % 32 ≠ 0, 9)]) ∧
    (QFree s r.g → ¬ Room s → exec (.nlreq r) s = .next (trapped s (.chk ⟨5, 0, 0⟩) 5 0 0))

/-- A part of `Obligations.QueueCommandEnters`. -/
def TaskCommandEnters : Prop :=
  ∀ (p : Q1) (r : Q2) (s : State) (l : Launch), s.launchOf s.cur.hw = some l →
    let d := (s.me.vreg r.r).toNat % 2 ^ 512
    let q := (s.me.sreg r.t).toNat
    let e := (s.me.sreg p.r).toNat
    let a := (s.me.sreg r.t).toNat
    let w := (s.me.sreg (r.t + 1)).toNat
    QIssue (.spawn r) s r.g (.spawn d q) r.prod none (¬ SpawnKind d ∧ ¬ RecordScope d ∧ ¬ SpawnBits d q ∧
      ¬ RecordMisaligned d ∧ ¬ RecordOutside d ∧ s.launchQueue s.cur.hw q = true) ∧
    (QFree s r.g → ChecksTrap (.spawn r) s [(SpawnKind d ∨ RecordScope d, 1), (SpawnBits d q, 2), (RecordMisaligned d, 9),
      (RecordOutside d ∨ s.launchQueue s.cur.hw q = false, 8)]) ∧
    QIssue (.take r) s r.g (.take (s.me.sreg r.r).toNat a) r.prod none
      ((s.me.sreg r.r).toNat < 0x200 ∧ a % 64 = 0 ∧ a + 64 ≤ 0xC000000 ∧ s.mayTake s.cur.hw (s.me.sreg r.r).toNat = true) ∧
    (QFree s r.g → ChecksTrap (.take r) s [(0x200 ≤ (s.me.sreg r.r).toNat, 2), (a % 64 ≠ 0, 9),
      (0xC000000 < a + 64 ∨ s.mayTake s.cur.hw (s.me.sreg r.r).toNat = false, 8)]) ∧
    (r.t ≠ 63 → QIssue (.watch r) s r.g (.watch a w d) r.prod none
      (¬ WatchScope w d ∧ ¬ WatchBits w d ∧ ¬ WatchAlign a w d ∧ ¬ WatchOutside s l a w d)) ∧
    (QFree s r.g → r.t ≠ 63 → ChecksTrap (.watch r) s [(WatchScope w d, 1), (WatchBits w d, 2), (WatchAlign a w d, 9),
      (WatchOutside s l a w d, 8)]) ∧
    (QFree s r.g → r.t = 63 → ChecksTrap (.watch r) s [(RecordScope d, 1), (True, 2)]) ∧
    QIssue (.unwatch p) s p.g (.unwatch e) p.prod none (l.wfirst ≤ e ∧ e < l.wfirst + l.wcount) ∧
    (QFree s p.g → ChecksTrap (.unwatch p) s [(¬ (l.wfirst ≤ e ∧ e < l.wfirst + l.wcount), 8)])

/-- A part of `Obligations.QueueCommandEnters`. -/
def PopResult : Prop :=
  ∀ (o : G1) (p : G2) (s : State),
    (∀ n r e d, s.me.guardN o.g = true → s.me.eng.addrQ = (n, false) :: r → s.me.eng.dataQ = e :: d →
      Answers (.gpop o) s (fun t => Pops s t [vRes o.n (BitVec.allOnes 512) e.data 0 2] true)) ∧
    (∀ n r e d, s.me.guardN p.g = true → s.me.eng.addrQ = (n, true) :: r → s.me.eng.dataQ = e :: d →
      Answers (.nlpop p) s (fun t => Pops s t [vRes p.n (BitVec.allOnes 512) e.data 0 2, sRes p.m (BitVec.ofNat 64
        (e.count + (if e.last = true then 2 ^ 8 else 0) + (if e.stale = true then 2 ^ 9 else 0) + (if e.err = true then 2 ^ 10 else 0)))
        0 2] e.last)) ∧
    PopStops (.gpop o) s o.g false 2 ∧ PopStops (.nlpop p) s p.g true 3

/-- A part of `Obligations.FormatFlagZoneResult`. -/
def FormatRegisterResult : Prop :=
  ∀ (o : G1) (s : State),
    FGives (.setfmtImm o) s o.g [⟨.fmt, 0, BitVec.ofNat 4096 o.n, 0, 4⟩] ∧
    (fmtCodes (s.me.sreg o.n).toNat = true → fmtBits (s.me.sreg o.n).toNat = true →
      FGives (.setfmtReg o) s o.g [⟨.fmt, 0, BitVec.ofNat 4096 (s.me.sreg o.n).toNat, 0, 4⟩]) ∧
    (s.cur.go = false → s.me.guardN o.g = true →
      (fmtCodes (s.me.sreg o.n).toNat = false → exec (.setfmtReg o) s = .next (trapped s (.chk ⟨1, 0, 0⟩) 1 0 0)) ∧
      (fmtCodes (s.me.sreg o.n).toNat = true → fmtBits (s.me.sreg o.n).toNat = false →
        exec (.setfmtReg o) s = .next (trapped s (.chk ⟨2, 0, 0⟩) 2 0 0)))

/-- A part of `Obligations.FormatFlagZoneResult`. -/
def FlagRegisterResult : Prop :=
  ∀ (o : G1) (s : State),
    FGives (.getflg o) s o.g [sRes o.n (BitVec.ofNat 64 (s.me.fmt.fmt.toNat * 2 ^ 32 + s.me.fmt.flg.toNat)) 0 1] ∧
    (s.me.guardN o.g = false → Nullified (.clrflg o) s ∧ Nullified (.spflag o true) s ∧ Nullified (.spflag o false) s) ∧
    (s.me.guardN o.g = true → Answers (.clrflg o) s (fun t =>
      (∀ k, k < 6 → (t.ctx s.cur.hw).fmt.flg.getLsbD k =
        (s.me.fmt.flg.getLsbD k && (!Nat.testBit o.n k || s.me.fmt.flgNow.getLsbD k))) ∧
      t.ctx s.cur.hw = { s.me with fmt := { s.me.fmt with flg := (t.ctx s.cur.hw).fmt.flg } } ∧
      OthersSame s t ∧ RestSame s t ∧ t.mem = s.mem)) ∧
    (∀ keep, s.me.guardN o.g = true → Answers (.spflag o keep) s (fun t =>
      (t.ctx s.cur.hw).pend = { s.me.pend with val := s.me.pend.val ++
        [(sRes o.n (if s.me.fmt.spSet = true then 1 else 0) 0 1).pend s,
         (sRes (o.n + 1) (if s.me.fmt.spSet = true then s.me.fmt.spAddr else 0) 0 1).pend s] } ∧
      (t.ctx s.cur.hw).fmt = { s.me.fmt with spSet := keep && s.me.fmt.spSet } ∧
      (t.ctx s.cur.hw).regs = s.me.regs ∧ OthersSame s t ∧ RestSame s t ∧ t.mem = s.mem))

/-- A part of `Obligations.FormatFlagZoneResult`. -/
def ZoneRegisterResult : Prop :=
  ∀ (o : G2) (s : State),
    let v := (s.me.sreg o.m).toNat
    (s.me.guardN o.g = false → Nullified (.zset o) s) ∧
    (s.me.guardN o.g = true → ZoneOk s.mod v → Becomes (.zset o) s { s.me with fmt := { s.me.fmt with
      z := SMap.put s.me.fmt.z o.n ⟨fld v 0 6, fld v 8 6, fld v 16 7, fld v 24 7⟩ } }) ∧
    (s.cur.go = false → s.me.guardN o.g = true → ¬ ZoneOk s.mod v →
      exec (.zset o) s = .next (trapped s (.chk ⟨2, 0, 0⟩) 2 0 0))

/-- A part of `Obligations.TimeWaitResult`. -/
def TimeAndCounterResult : Prop :=
  ∀ (o : G1) (p : G2) (s : State),
    let k := s.core s.myCore
    FGives (.time o) s o.g [sRes o.n (BitVec.ofNat 64 (s.mod.time.now / 6486480 % 2 ^ 64)) 0 1] ∧
    (p.m < 8 → FGives (.perf p) s p.g [sRes p.n (BitVec.ofNat 64 ([s.me.run.sched, s.me.perf.stall, s.me.perf.wait, k.held,
      s.me.perf.cand, s.me.perf.prim, s.mod.cycles, k.journal.length].getD p.m 0)) 0 1])

/-- A part of `Obligations.TimeWaitResult`. -/
def WaitInstructionResult : Prop :=
  ∀ (o : G1) (w : FW) (b : G2) (s : State),
    (s.me.guardN o.g = false ∨ (∀ k, k < 8 → Nat.testBit o.n k = true → s.me.token k = 0) → Nullified (.waitt o) s) ∧
    (s.cur.go = false → s.me.guardN o.g = true → (∃ k, k < 8 ∧ Nat.testBit o.n k = true ∧ s.me.token k ≠ 0) → HeldBack (.waitt o) s) ∧
    (s.me.guardN o.g = false → Nullified (.drain o) s) ∧
    (s.me.guardN o.g = true → s.drained s.cur.hw = true → (o.n ≠ 4 ∨ s.pingsOf s.cur.hw = some []) →
      exec (.drain o) s = .next (withPings s (pingsWithout s s.cur.hw))) ∧
    (s.cur.go = false → s.me.guardN o.g = true →
      (s.drained s.cur.hw = false → HeldBack (.drain o) s) ∧
      (∀ l, s.drained s.cur.hw = true → o.n = 4 → s.pingsOf s.cur.hw = some l → l ≠ [] → HeldBack (.drain o) s) ∧
      (s.drained s.cur.hw = true → o.n = 4 → s.pingsOf s.cur.hw = none →
        let s0 := withPings s (s.front.pings ++ [(s.cur.hw, s.me.eng.hostLinks)])
        if s.me.eng.hostLinks = [] then exec (.drain o) s = .next (withPings s0 (pingsWithout s0 s.cur.hw))
        else HeldBackFrom (.drain o) s s0)) ∧
    (∀ hw link, exec (.engineCommandComplete (.linkRead hw link)) s = .next (withPings s (s.front.pings.map (fun x =>
      if x.1 = hw then (x.1, x.2.filter (fun k => decide (k ≠ link))) else x)))) ∧
    (s.me.guardN o.g = false → Nullified (.slack o) s) ∧
    (s.me.guardN o.g = true → Becomes (.slack o) s { s.me with run := { s.me.run with slack := o.n, slackRem := o.n } }) ∧
    (s.me.guardN w.g = false → Nullified (.wfe w) s) ∧
    (s.me.guardN w.g = true → s.wfeHolds s.cur.hw w.mask (s.me.sreg w.st) ≠ 0 → Answers (.wfe w) s (fun t =>
      Gives s t [sRes w.sd (BitVec.ofNat 64 (s.wfeHolds s.cur.hw w.mask (s.me.sreg w.st))) 0 1] s.me.energy)) ∧
    (s.cur.go = false → s.me.guardN w.g = true → s.wfeHolds s.cur.hw w.mask (s.me.sreg w.st) = 0 → WfeWaits w s) ∧
    (∀ k, Nat.testBit (s.wfeHolds s.cur.hw w.mask (s.me.sreg w.st)) k = true ↔ Nat.testBit w.mask k = true ∧
      (k = 0 ∧ (s.core s.myCore).ingress ≠ [] ∨ k = 1 ∧ (s.searchHit s.cur.hw).isSome = true ∨
        k = 2 ∧ (s.me.sreg w.st).toNat ≤ s.mod.time.now / 6486480 % 2 ^ 64)) ∧
    (s.me.guardN b.g = false → Nullified (.bar b) s) ∧
    (s.me.guardN b.g = true → s.me.run.barPass = true → s.quiet s.cur.hw = true → Becomes (.bar b) s { s.me with
      ckpt := s.me.ckpt.map (fun q => { q with
        sched := s.me.run.sched, h := s.me.run.h, slackRem := s.me.run.slackRem, slack := s.me.run.slack })
      run := { s.me.run with barPass := false } }) ∧
    (s.cur.go = false → s.me.guardN b.g = true → s.me.run.barPass = true → s.quiet s.cur.hw = false → HeldBack (.bar b) s) ∧
    (s.cur.go = false → s.me.guardN b.g = true → s.me.run.barPass = false →
      ((Arrived s s.cur.hw ∨ s.quiet s.cur.hw = false) → HeldBack (.bar b) s) ∧
      (¬ Arrived s s.cur.hw → s.quiet s.cur.hw = true → ∃ s0, Arrives s s0 (b.n * 256 + b.m) ∧ HeldBackFrom (.bar b) s s0))

/-- A part of `Obligations.ControlInstructionResult`. -/
def TaskControlResult : Prop :=
  ∀ (g : Nat) (s : State),
    (s.me.frame.br.st = 0 → s.me.guardN g = false → Nullified (.yield g) s ∧ Nullified (.yieldNw g) s) ∧
    (s.me.frame.br.st = 0 → s.me.guardN g = true → s.me.run.trap = false → s.quiet s.cur.hw = true → s.me.eng.cG = [] →
      s.me.eng.qG = [] →
      Answers (.yield g) s (fun t =>
        t.ctx s.cur.hw = { s.me with run := { s.me.run with st := .waiting, stage := .search, earliest := s.mod.cycles + 2 } } ∧
        (t.core s.myCore).prim ≠ some s.cur.hw ∧ OthersSame s t ∧ t.mod = s.mod ∧ t.front = s.front ∧ t.mem = s.mem) ∧
      (s.searchHit s.cur.hw = none → Answers (.yieldNw g) s (fun t =>
        t.ctx s.cur.hw = { s.me with regs := { s.me.regs with s := SMap.put s.me.regs.s 48 0 } } ∧ OthersSame s t ∧
        RestSame s t ∧ t.mem = s.mem))) ∧
    (s.cur.go = false → s.me.frame.br.st ≠ 0 → exec (.yield g) s = .next (trapped s (.mode ⟨2, 0, 0⟩) 2 0 0) ∧
      exec (.yieldNw g) s = .next (trapped s (.mode ⟨2, 0, 0⟩) 2 0 0)) ∧
    (s.me.guardN g = false → Nullified (.tdone g) s) ∧
    (s.me.guardN g = true → (∀ d, s.me.run.curRec = some d → recCounter d = 0xFFFFFFFF ∨ s.me.run.released = true) →
      exec (.tdone g) s = .next (withPings s (pingsWithout s s.cur.hw))) ∧
    (∀ d, s.cur.go = false → s.me.guardN g = true → s.me.run.curRec = some d → s.me.run.released = false →
      recCounter d ≠ 0xFFFFFFFF →
      (s.drained s.cur.hw = false → HeldBack (.tdone g) s) ∧
      (s.drained s.cur.hw = true → fld d 40 8 = 4 → s.pingsOf s.cur.hw = none → s.me.eng.hostLinks ≠ [] →
        HeldBackFrom (.tdone g) s (withPings s (s.front.pings ++ [(s.cur.hw, s.me.eng.hostLinks)])))) ∧
    (∀ d, s.me.guardN g = true → s.me.run.curRec = some d → s.me.run.released = false → recCounter d ≠ 0xFFFFFFFF →
      s.drained s.cur.hw = true → (fld d 40 8 ≠ 4 ∨ s.pingsOf s.cur.hw = some []) → s.mem.spad.wf = true → NoWatch s →
      Answers (.tdone g) s (fun t =>
        let a := recCcl d * 0xC000000 + recCounter d
        (∀ k, k < 8 → t.mem.spad.read (a + k) = BitVec.ofNat 8 ((s.mem.spad.readN a 8 + (2 ^ 64 - 1)) / 256 ^ k)) ∧
        (∀ b, b < a ∨ a + 8 ≤ b → t.mem.spad.read b = s.mem.spad.read b) ∧
        (t.ctx s.cur.hw).run = { s.me.run with released := true } ∧ RegsSame s.me (t.ctx s.cur.hw) ∧
        t.mem.hbm = s.mem.hbm ∧ t.mem.host = s.mem.host ∧ t.mod = s.mod ∧
        t.front = { s.front with pings := pingsWithout s s.cur.hw }))

/-- A part of `Obligations.ControlInstructionResult`. -/
def SystemInstructionResult : Prop :=
  ∀ (g : Nat) (o : G1) (k : G2) (s : State),
    Privileged (.halt g) s ∧ Privileged (.keyld k) s ∧ Privileged (.keyldClr o) s ∧
    (System s → s.me.guardN g = true → s.quiet s.cur.hw = true → Answers (.halt g) s (fun t => Ended s t s.cur.hw)) ∧
    (System s → s.me.guardN g = false → Nullified (.halt g) s) ∧
    (s.cur.go = false → System s → s.me.guardN g = true → s.quiet s.cur.hw = false → HeldBack (.halt g) s) ∧
    (System s → (s.me.sreg k.m).toNat % 64 = 0 → (s.me.sreg k.m).toNat + 64 ≤ 0x400000 →
      KeyLoads (.keyld k) s k.g (s.me.sreg k.n).toNat
        (some (s.mem.spad.readN (s.myCore * 0x400000 + (s.me.sreg k.m).toNat) 64))) ∧
    (System s → s.me.guardN k.g = false → Nullified (.keyld k) s) ∧
    (System s → s.cur.go = false → s.me.guardN k.g = true → ChecksTrap (.keyld k) s [(2047 < (s.me.sreg k.n).toNat, 2),
      ((s.me.sreg k.m).toNat % 64 ≠ 0, 9), (0x400000 < (s.me.sreg k.m).toNat + 64, 8)]) ∧
    (System s → KeyLoads (.keyldClr o) s o.g (s.me.sreg o.n).toNat none) ∧
    (System s → s.me.guardN o.g = false → Nullified (.keyldClr o) s) ∧
    (System s → s.cur.go = false → s.me.guardN o.g = true → ChecksTrap (.keyldClr o) s [(2047 < (s.me.sreg o.n).toNat, 2)]) ∧
    (∀ hw l, s.loadOf hw = some l → l.done = false → Answers (.engineCommandComplete (.keyHeld hw)) s (fun t =>
      t = withLoads (withKeys s (match l.key with
        | some k => SMap.put s.mod.trust.keys l.slot k
        | none => SMap.del s.mod.trust.keys l.slot))
        (s.mod.trust.loads.map (fun y => if y.hw = hw then { y with done := true } else y)) ∧
      t.loadOf hw = some { l with done := true } ∧ (∀ k, k ≠ hw → t.loadOf k = s.loadOf k)))

/-- A part of `Obligations.ControlInstructionResult`. -/
def OverlayResult : Prop :=
  ∀ (o : G1) (s : State),
    (s.me.guardN o.g = false → Nullified (.ovl o) s) ∧
    (∀ k seg, s.me.guardN o.g = true → s.ovlSeg o.n = some k → (s.core s.myCore).segs[k]? = some seg →
      Answers (.ovl o) s (fun t =>
        (t.core s.myCore).segs[k]? = some { seg with mapped := true, inflight := true, asid := s.me.ctl.asid.toNat, by_ := some s.cur.hw } ∧
        (∀ j x, j ≠ k → (s.core s.myCore).segs[j]? = some x → (t.core s.myCore).segs[j]? = some
          (if x.ipage < seg.ipage + seg.npages ∧ seg.ipage < x.ipage + x.npages then { x with mapped := false, inflight := false }
           else x)) ∧
        t.ctxs = s.ctxs ∧ t.front = s.front ∧ t.mod = s.mod ∧ t.clusters = s.clusters ∧ t.mem = s.mem)) ∧
    (s.cur.go = false → s.me.guardN o.g = true → s.ovlSeg o.n = none → exec (.ovl o) s = .next (trapped s (.chk ⟨2, 0, 0⟩) 2 0 0))

/-- A part of `Obligations.HemRecordEvents`. -/
def HemPointEvents : Prop :=
  ∀ (hw : Nat) (s : State), Savable s hw → HemPoint s hw →
    Answers (.preemption hw) s (fun t => SaveStarts s t hw false) ∧
    (∀ d, (s.ctx hw).run.curRec = some d → fld d 96 32 ≠ 0 → fld d 96 32 < (s.ctx hw).run.ran →
      Answers (.budgetOverrun hw) s (fun t => SaveStarts s t hw true)) ∧
    (∀ d, (s.ctx hw).run.curRec = some d → fld d 96 32 = 0 ∨ (s.ctx hw).run.ran ≤ fld d 96 32 →
      exec (.budgetOverrun hw) s = .next s)

/-- A part of `Obligations.HemRecordEvents`. -/
def RecordDispatch : Prop :=
  ∀ (hw : Nat) (s : State) (d : Nat),
    ((s.ctx hw).run.stage = .got d → Startable d → Answers (.dispatch hw) s (fun t => Starts s t hw d)) ∧
    ((s.ctx hw).run.stage = .got d → fld d 32 8 = 3 → Answers (.dispatch hw) s (fun t => Ended s t hw)) ∧
    (∀ n q l r, (s.ctx hw).run.stage = .search → (s.ctx hw).eng.ownQ = some n → s.taskQ (clusterOf hw) n = some q →
      q.owner = hw → q.sram = l ++ [r] → Startable r.d → Answers (.dispatch hw) s (fun t =>
        Starts s t hw r.d ∧ t.taskQ (clusterOf hw) n = some { q with sram := l }))

/-- A part of `Obligations.ArrayEvents`. -/
def ProductEvents : Prop :=
  ∀ (core : Nat) (s : State) (p : Prod), (s.core core).prods = [p] →
    let r0 := p.spec.zone.row0
    let c0 := p.spec.zone.col0
    (p.cut = none → p.resumed = false → p.cnt = [] → Answers (.productCommit core) s (fun t =>
      (∀ i j, i < p.spec.zone.rows → j < p.spec.zone.cols → CommitsAt p i j (s.core core).arr →
        SMap.getD t.mem.acs (tileKey core p.spec.tile (r0 + i) (c0 + j)) 0 = BitVec.ofNat 32 (p.cellSum i j p.spec.p).1 ∧
        (p.spec.fa = 1 → p.spec.fb = 1 →
          SMap.getD t.mem.acs (tileKey core p.spec.tile (r0 + i) (c0 + j)) 0 = BitVec.ofInt 32 (intCell p i j))) ∧
      (∀ n, (∀ i j, i < p.spec.zone.rows → j < p.spec.zone.cols → CommitsAt p i j (s.core core).arr →
        n ≠ tileKey core p.spec.tile (r0 + i) (c0 + j)) → SMap.getD t.mem.acs n 0 = SMap.getD s.mem.acs n 0) ∧
      (∃ f, (t.core core).prods = [{ p with flags := p.flags ||| f, late := false }]) ∧
      t.mem.spad = s.mem.spad ∧ t.mem.hbm = s.mem.hbm ∧ (p.late = false → ∀ k, RegsSame (s.ctx k) (t.ctx k)))) ∧
    (∀ k, p.cut = none → p.orphan = false → p.spec.kind.streams = true → nextSlice p = k → k < p.spec.s →
      p.issue + k + 1 = (s.core core).arr → 2 * p.spec.zone.cols ≤ (s.ctx p.hw).eng.stream.length →
      Answers (.streamSliceArrive core) s (fun t =>
        (t.core core).prods =
          [{ p with bSteps := SMap.put p.bSteps k (ofBytes ((s.ctx p.hw).eng.stream.take (2 * p.spec.zone.cols))) }] ∧
        t.ctx p.hw = { s.ctx p.hw with eng := { (s.ctx p.hw).eng with
          stream := (s.ctx p.hw).eng.stream.drop (2 * p.spec.zone.cols) } } ∧
        (∀ x, x ≠ p.hw → t.ctx x = s.ctx x) ∧ t.mem = s.mem ∧ t.mod = s.mod))

/-- A part of `Obligations.ArrayEvents`. -/
def TransferRowMoves : Prop :=
  ∀ (core : Nat) (s : State) (x : Xfer), (s.core core).xfers = [x] → x.orphan = false → x.u = .f → x.rm ≠ 4 →
    x.issue + 1 + x.next = (s.core core).arr → x.next < x.zone.rows → x.zone.col0 + x.zone.cols ≤ 64 →
    x.addr.toNat + x.next * x.pitch + 4 * x.zone.cols ≤ 0x400000 → (s.core core).acsNow = [] → s.mem.spad.wf = true → NoWatch s →
    let r := x.zone.row0 + x.next
    let a := core * 0x400000 + x.addr.toNat + x.next * x.pitch
    Answers (.mrdsMwrsRow core) s (fun t =>
      (if x.write = true then
        (∀ j, j < x.zone.cols → SMap.getD t.mem.acs (tileKey core x.tile r (x.zone.col0 + j)) 0 =
          BitVec.ofNat 32 (portValue s (a + 4 * j) 4)) ∧
        (∀ n, (∀ j, j < x.zone.cols → n ≠ tileKey core x.tile r (x.zone.col0 + j)) →
          SMap.getD t.mem.acs n 0 = SMap.getD s.mem.acs n 0) ∧ t.mem.spad = s.mem.spad
      else
        (∀ j k, j < x.zone.cols → k < 4 → t.mem.spad.read (a + 4 * j + k) =
          BitVec.ofNat 8 ((SMap.getD s.mem.acs (tileKey core x.tile r (x.zone.col0 + j)) 0).toNat / 256 ^ k)) ∧
        (∀ b, b < a ∨ a + 4 * x.zone.cols ≤ b → t.mem.spad.read b = s.mem.spad.read b) ∧ t.mem.acs = s.mem.acs) ∧
      (x.next + 1 < x.zone.rows → ∃ f, (t.core core).xfers = [{ x with next := x.next + 1, flags := f }]) ∧
      (x.next + 1 = x.zone.rows → (t.core core).xfers = [] ∧
        (t.ctx x.hw).token x.tok = (s.ctx x.hw).token x.tok - 1) ∧
      (∀ k, (t.ctx k).regs = (s.ctx k).regs) ∧ t.mem.hbm = s.mem.hbm ∧ t.mem.host = s.mem.host ∧ t.mod = s.mod)

/-- A part of `Obligations.SegmentBarrierEvents`. -/
def SegmentCopyEnds : Prop :=
  ∀ (core hw k : Nat) (s : State) (g : Seg) (ps : List Piece), (s.core core).segs[k]? = some g → g.mapped = true → g.inflight = true →
    s.translate (core / 48) 7 g.asid false (pageFuel (4096 * g.npages)) (g.src.toNat / 64 * 64) (4096 * g.npages) = .ok ps →
    s.mem.imem.wf = true →
    Answers (.segmentCopyDone core k) s (fun t => SegmentLoaded s t core k g ps) ∧
    (core = coreOf hw → s.fetch core (s.ctx hw).frame.pos = .stall →
      (∀ j x, j ≠ k → (s.core core).segs[j]? = some x → x.mapped = false ∨ x.inflight = false) →
      Answers (.ifetchStallEnd hw) s (fun t => SegmentLoaded s t core k g ps))

/-- A part of `Obligations.SegmentBarrierEvents`. -/
def BarrierReleaseResult : Prop :=
  ∀ (cl team : Nat) (s : State) (x : Nat × Nat) (r : List (Nat × Nat)),
    SMap.wf (s.cluster cl).bars = true → SMap.getD (s.cluster cl).bars team [] = x :: r → ((x :: r).map (fun m => m.1)).Nodup →
    (∀ m ∈ x :: r, fld (s.ctx m.1).ctl.team.toNat 0 6 = team) →
    (fld (s.ctx x.1).ctl.team.toNat 8 8 ≤ (x :: r).length → Answers (.barrierRelease cl team) s (fun t =>
      (∀ m ∈ x :: r, Released (s.ctx m.1) (t.ctx m.1) m.2 ∧ (t.core (coreOf m.1)).journal = [] ∧
        (t.core (coreOf m.1)).jteam = some team) ∧
      SMap.getD (t.cluster cl).bars team [] = [] ∧ (∀ k, (t.ctx k).regs = (s.ctx k).regs) ∧ t.mem = s.mem ∧ t.mod = s.mod)) ∧
    ((x :: r).length < fld (s.ctx x.1).ctl.team.toNat 8 8 → exec (.barrierRelease cl team) s = .next s)

/-- A part of `Obligations.TranslationLiningEvents`. -/
def TranslationEvents : Prop :=
  ∀ (cl eng asid va : Nat) (write : Bool) (hw : Nat) (s : State),
    (∀ pte size, s.walk asid (va % 2 ^ 56) = .leaf pte size →
      (write = true → fld pte 1 1 = 1) → leafPlace pte size (va % 2 ^ 56) ≠ none →
      Answers (.pageWalk cl eng asid va write) s (fun t =>
        (∃ e, findTlb (t.cluster cl).tlbs eng asid (va % 2 ^ 56) = some e ∧ e.pte = pte ∧ e.size = size) ∧
        Walked s t cl)) ∧
    (∀ code level, findTlb (s.cluster cl).tlbs eng asid (va % 2 ^ 56) = none → s.walk asid (va % 2 ^ 56) = .major code level →
      Answers (.pageWalk cl eng asid va write) s (fun t => Walked s t cl ∧ t.clusters = s.clusters)) ∧
    (∀ level entry, findTlb (s.cluster cl).tlbs eng asid (va % 2 ^ 56) = none →
      s.walk asid (va % 2 ^ 56) = .refill level entry →
      Answers (.pageWalk cl eng asid va write) s (fun t => Walked s t cl ∧ t.clusters = s.clusters)) ∧
    (∀ h, s.walker cl eng asid = some h → h < 2048 → Answers (.pageWalk cl eng asid va write) s (fun t =>
      (t.ctx h).energy = (s.ctx h).energy + BitVec.ofNat 64 (SMap.getD (s.auxOf (coreOf h)).weights 12 0 *
        s.walkReads asid (va % 2 ^ 56)))) ∧
    (∀ q, s.findStopped hw eng va write = some q →
      (∀ x ∈ (s.core (coreOf hw)).holds, ∀ a l p, x ≠ .fault hw eng a va write l p) →
      Answers (.minorFault hw va write eng) s (fun t =>
        t.core (coreOf hw) = { s.core (coreOf hw) with
          holds := (s.core (coreOf hw)).holds ++ [.fault hw eng q.asid va write q.level q.entry] } ∧
        (∀ k, k ≠ coreOf hw → t.core k = s.core k) ∧ (∀ h, EnergyOnly (s.ctx h) (t.ctx h)) ∧ t.clusters = s.clusters ∧ t.mem = s.mem ∧ t.mod = s.mod)) ∧
    (s.findStopped hw eng va write = none → exec (.minorFault hw va write eng) s = .next s)

/-- A part of `Obligations.TranslationLiningEvents`. -/
def LiningEvents : Prop :=
  ∀ (core hw eng asid va level pte : Nat) (w : Bool) (s : State),
    let h : Hold := .fault hw eng asid va w level pte
    let l := (s.auxOf core).lining
    (s.core core).firstFault = some h →
    (l.run = false → (l.last ≠ s.holdMark h ∨ l.times < 4) → Answers (.liningRun core) s (fun t =>
      let m := (t.auxOf core).lining
      m.run = true ∧ m.pc = 0 ∧ SMap.getD m.ln 0 0 = (0 : Word) ∧ SMap.getD m.ln 1 0 = BitVec.ofNat 64 va ∧
      SMap.getD m.ln 2 0 = BitVec.ofNat 64 asid ∧ SMap.getD m.ln 3 0 = BitVec.ofNat 64 pte ∧
      SMap.getD m.ln 4 0 = BitVec.ofNat 64 (level % 8 + (if w = true then 8 else 0) + eng % 16 * 16 + hw % 4 * 256) ∧
      (∀ n, 5 ≤ n → SMap.getD m.ln n (0 : Word) = SMap.getD l.ln n 0) ∧
      t.ctxs = s.ctxs ∧ t.cores = s.cores ∧ t.mem = s.mem ∧ t.mod = s.mod)) ∧
    (∀ b, l.run = true → s.lnBundle core hw = some b → b.ret = false → Answers (.liningRun core) s (fun t =>
      let m := (t.auxOf core).lining
      m.pc = b.next ∧ m.run = true ∧
      (∀ d v, b.effs = [.reg d v] → SMap.getD m.ln d 0 = v ∧ (∀ n, n ≠ d → SMap.getD m.ln n (0 : Word) = SMap.getD l.ln n 0) ∧
        t.mem = s.mem) ∧
      (∀ a n v, s.mem.hbm.wf = true → b.effs = [.store a n v] → m.ln = l.ln ∧
        (∀ k, k < n → t.mem.hbm.read (a + k) = BitVec.ofNat 8 (v / 256 ^ k)) ∧
        (∀ x, x < a ∨ a + n ≤ x → t.mem.hbm.read x = s.mem.hbm.read x)) ∧
      (∀ h, EnergyOnly (s.ctx h) (t.ctx h)) ∧ t.cores = s.cores ∧ t.mod = s.mod)) ∧
    (∀ n m, l.run = true → s.lnBundle core hw = some ⟨[.eret], n, true, m⟩ → l.writes = [] → (s.core core).holds = [h] →
      Answers (.liningEnd core) s (fun t =>
        (t.auxOf core).lining.run = false ∧
        (SMap.getD l.ln 0 (0 : Word) = 0 → (∀ h, EnergyOnly (s.ctx h) (t.ctx h)) ∧ t.mem = s.mem ∧
          ((t.core core).holds = [] ∨ ∃ l' p', (t.core core).holds = [.fault hw eng asid va w l' p'])) ∧
        (SMap.getD l.ln 0 (0 : Word) ≠ 0 → (t.core core).holds = [])))

/-- A part of `Obligations.CopyEngineEvents`. -/
def EngineCommandEvents : Prop :=
  ∀ (s : State),
    (∀ hw c r a x y wide op tail, (s.ctx hw).eng.work = c :: r → c.op = .sfop a x y wide false op →
      (s.ctx hw).eng.addrQ = (c.id, false) :: tail → c.held = false → c.performed = false → c.started = false → c.pos = 0 →
      (s.ctx hw).eng.dataQ.length < 16 → s.mem.spad.wf = true → NoWatch s →
      let n := if wide = true then 8 else 4
      let at_ := clusterOf hw * 0xC000000 + a.toNat
      let old := s.mem.spad.readN at_ n
      a.toNat + n ≤ 0xC000000 → Answers (.engineCommandComplete (.command hw c.id)) s (fun t =>
        EngineHas s t at_ n (sfopValue op (8 * n) old (x.toNat % 2 ^ (8 * n)) (y.toNat % 2 ^ (8 * n))) ∧
        (t.ctx hw).eng.work.head? = some { c with
          started := true, performed := true, res := some (BitVec.ofNat 4096 old), aux := []
          places := [[nearPiece (clusterOf hw) a.toNat n]] } ∧
        (∀ k, (t.ctx k).regs = (s.ctx k).regs) ∧ t.mem.hbm = s.mem.hbm ∧ t.mem.host = s.mem.host)) ∧
    (∀ cl n c a b m, (s.slot cl n).copies = [c] → NearCopy cl a b c →
      (∀ k, k / 16 = m → k < c.len → SMap.get? c.data (16 * m) = none →
        Answers (.engineCommandComplete (.copyRead cl n c.id k 1)) s (fun t =>
          (∃ d, t.slot cl n = { s.slot cl n with copies := [{ c with data := d }] } ∧
            (∀ j, j < 16 → SMap.get? d (16 * m + j) = some (s.mem.spad.read (cl * 0xC000000 + a + 16 * m + j))) ∧
            (∀ x, x < 16 * m ∨ 16 * m + 16 ≤ x → SMap.get? d x = SMap.get? c.data x)) ∧
          t.ctxs = s.ctxs ∧ t.mem = s.mem)) ∧
      (∀ k (v : Nat → Byte), s.mem.spad.wf = true → NoWatch s → k / 16 = m → k < c.len → c.gone.contains (16 * m) = false →
        (∀ j, j < 16 → SMap.get? c.data (16 * m + j) = some (v j)) → c.written + 16 ≠ c.len →
        Answers (.engineCommandComplete (.copyWrite cl n c.id k 1)) s (fun t =>
          (∀ j, j < 16 → t.mem.spad.read (cl * 0xC000000 + b + 16 * m + j) =
            if (SMap.get? s.oldBytes (cl * 0xC000000 + b + 16 * m + j)).isSome = true then
              s.mem.spad.read (cl * 0xC000000 + b + 16 * m + j) else v j) ∧
          (∀ x, x < cl * 0xC000000 + b + 16 * m ∨ cl * 0xC000000 + b + 16 * m + 16 ≤ x → t.mem.spad.read x = s.mem.spad.read x) ∧
          (∃ g, (t.slot cl n).copies = [{ c with written := c.written + 16, gone := c.gone ++ [16 * m], trig := g }]) ∧
          (∀ k, (t.ctx k).regs = (s.ctx k).regs) ∧ t.mem.hbm = s.mem.hbm ∧ t.mem.host = s.mem.host))) ∧
    (∀ hw c r n level cnt ss ds, (s.ctx hw).eng.work = c :: r → c.op = .cplvl n level cnt ss ds → c.held = false →
      c.started = false → (s.ctx hw).run.stage ≠ .rolling → (s.ctx hw).tokensZero c.cons = true →
      Answers (.engineCommandComplete (.command hw c.id)) s (fun t =>
        let q := s.slot (clusterOf hw) n
        t.slot (clusterOf hw) n = { q with pend := { q.pend with
          cnt := q.pend.cnt.set level cnt, ss := q.pend.ss.set level ss, ds := q.pend.ds.set level ds } } ∧
        t.ctx hw = doneCmd (s.ctx hw) c.id c.prod ∧ (∀ k, k ≠ hw → t.ctx k = s.ctx k) ∧ t.mem = s.mem ∧ t.cores = s.cores))

/-- A part of `Obligations.CopyEngineEvents`. -/
def CopyEmission : Prop :=
  ∀ (cl n : Nat) (nest : Nest) (cmd a b : Nat) (s : State), Emits s cl n nest cmd → nest.sspad = true → nest.dspad = true →
    nestAddr nest.src nest.ss (s.slot cl n).idx = a → nestAddr nest.dst nest.ds (s.slot cl n).idx = b →
    a + nest.len ≤ 0xC000000 → b + nest.len ≤ 0xC000000 → 0 < nest.len → nest.cnt.length = 6 → (s.slot cl n).idx.length = 6 →
    Answers (.elementaryCopyEmit cl n) s (fun t =>
      t.slot cl n = { s.slot cl n with
        idx := stepIdx nest.cnt (s.slot cl n).idx
        walk := false
        copies := (s.slot cl n).copies ++
          [⟨s.front.nextId, cmd, [nearPiece cl a nest.len], [nearPiece cl b nest.len], false, nest.len, [], 0, [], [], []⟩] } ∧
      t.ctxs = s.ctxs ∧ t.cores = s.cores ∧ t.mem = s.mem ∧ t.mod = s.mod)

/-- A part of `Obligations.CommandQueueEvents`. -/
def CommandTaken : Prop :=
  ∀ (hw : Nat) (s : State) (c : Cmd) (r : List Cmd),
    (s.ctx hw).run.stage ≠ .rolling → (∀ p, (s.ctx hw).run.stage ≠ .save p) →
    ((s.ctx hw).eng.qG = c :: r → (∀ x ∈ r, x.id ≠ c.id) → (∀ x ∈ (s.ctx hw).eng.cG, x.id ≠ c.id) →
      Turns (.engineTakesCommand hw c.id) s hw { s.ctx hw with eng := { (s.ctx hw).eng with
        qG := r, work := (s.ctx hw).eng.work ++ [c] } }) ∧
    (∀ t, (s.ctx hw).eng.cG = c :: r → (∀ x ∈ r, x.id ≠ c.id) → c.op = .lktime t →
      (∀ x ∈ (s.ctx hw).eng.work, x.started = true ∧ x.id ≠ c.id) → (s.ctx hw).tokensZero c.cons = false →
      Turns (.engineTakesCommand hw c.id) s hw { s.ctx hw with eng := { (s.ctx hw).eng with
        cG := r, work := (s.ctx hw).eng.work ++ [c] } }) ∧
    (∀ n level cnt ss ds, (s.ctx hw).eng.cG = c :: r → (∀ x ∈ r, x.id ≠ c.id) → c.op = .cplvl n level cnt ss ds →
      (s.ctx hw).eng.work = [] → (s.ctx hw).tokensZero c.cons = true → Answers (.engineTakesCommand hw c.id) s (fun t =>
        let q := s.slot (clusterOf hw) n
        t.slot (clusterOf hw) n = { q with pend := { q.pend with
          cnt := q.pend.cnt.set level cnt, ss := q.pend.ss.set level ss, ds := q.pend.ds.set level ds } } ∧
        (t.ctx hw).eng.cG = r ∧ (t.ctx hw).eng.work = [] ∧ (t.ctx hw).token c.prod = (s.ctx hw).token c.prod - 1 ∧
        (∀ k, k ≠ hw → t.ctx k = s.ctx k) ∧ t.mem = s.mem)) ∧
    (∀ t, (s.ctx hw).eng.work = c :: r → c.op = .lktime t → c.started = true →
      (t ≤ s.mod.time.link * 25 / (16 * 6486480) % 2 ^ 64 →
        Turns (.lktimeReached hw c.id) s hw (doneCmd (s.ctx hw) c.id c.prod)) ∧
      (s.mod.time.link * 25 / (16 * 6486480) % 2 ^ 64 < t → exec (.lktimeReached hw c.id) s = .next s))

/-- A part of `Obligations.CommandQueueEvents`. -/
def DataQueueArrival : Prop :=
  ∀ (hw : Nat) (s : State) (c : Cmd) (r : List Cmd) (tail : List (Nat × Bool)) (v : VReg),
    (s.ctx hw).eng.addrQ = (c.id, false) :: tail → (s.ctx hw).eng.work = c :: r → c.res = some v → c.pos = 0 →
    (∀ a n, c.op ≠ .nlreq a n) → (s.ctx hw).run.st ≠ .inactive → (s.ctx hw).ckpt = none →
    (c.performed = true → (s.ctx hw).eng.dataQ.length < 16 → Answers (.dataQueueEntryArrive hw) s (fun t =>
      (t.ctx hw).eng.dataQ = (s.ctx hw).eng.dataQ ++ [⟨false, v, 0, true, false, false⟩] ∧
      (t.ctx hw).eng.addrQ = (s.ctx hw).eng.addrQ ∧ (t.ctx hw).eng.work = r.filter (fun x => decide (x.id ≠ c.id)) ∧
      (t.ctx hw).token c.prod = (s.ctx hw).token c.prod - 1 ∧ (t.ctx hw).regs = (s.ctx hw).regs ∧
      (∀ k, k ≠ hw → t.ctx k = s.ctx k) ∧ t.mem = s.mem ∧ t.mod = s.mod)) ∧
    (∀ a x y wide virt op, c.performed = false → c.op = .sfop a x y wide virt op → (s.ctx hw).eng.dataQ.length < 16 →
      Answers (.dataQueueEntryArrive hw) s (fun t =>
        (t.ctx hw).eng.dataQ = (s.ctx hw).eng.dataQ ++ [⟨false, v, 0, true, false, false⟩] ∧
        (t.ctx hw).eng.addrQ = (s.ctx hw).eng.addrQ ∧ (t.ctx hw).eng.work.head? = some { c with pos := 1 } ∧
        (t.ctx hw).fmt = (s.ctx hw).fmt ∧ (t.ctx hw).regs = (s.ctx hw).regs ∧
        (∀ k, k ≠ hw → t.ctx k = s.ctx k) ∧ t.mem = s.mem ∧ t.mod = s.mod)) ∧
    (16 ≤ (s.ctx hw).eng.dataQ.length → exec (.dataQueueEntryArrive hw) s = .next s)

/-- A part of `Obligations.WatchStreamEvents`. -/
def WatchEvents : Prop :=
  ∀ (cl e : Nat) (s : State),
    (∀ w r q, (s.cluster cl).waits = [] → s.front.baseWaits = [] → SMap.get? (s.cluster cl).watch e = some w → w.held = some r →
      (∀ x ∈ (s.cluster cl).watch, ∀ r', x.2.held = some r' → r.id ≤ r'.id) → fld w.tmpl 128 16 < 0x100 →
      SMap.get? (s.cluster cl).tq (fld w.tmpl 128 16) = some q → q.sram.length < q.c →
      Answers (.stitchPushDeferred cl e) s (fun t =>
        SMap.get? (t.cluster cl).tq (fld w.tmpl 128 16) = some { q with sram := q.sram ++ [r] } ∧
        SMap.get? (t.cluster cl).watch e = some { w with held := none } ∧ t.ctxs = s.ctxs ∧ t.cores = s.cores ∧ t.mem = s.mem)) ∧
    ((s.cluster cl).win ≠ s.mod.cycles / 1024 → Answers (.watchWindowStart cl) s (fun t =>
      OnlyCl s t cl { s.cluster cl with
        win := s.mod.cycles / 1024
        watch := (s.cluster cl).watch.map (fun x => (x.1, { x.2 with count := 0 })) })) ∧
    ((s.cluster cl).win = s.mod.cycles / 1024 → Answers (.watchWindowStart cl) s (fun t => OnlyCl s t cl (s.cluster cl)))

/-- A part of `Obligations.WatchStreamEvents`. -/
def StreamContextEvents : Prop :=
  ∀ (cl e : Nat) (rest : List Nat) (s : State),
    let x := s.sctOf cl e
    (x.st = 1 → x.timeout ≠ 0 → x.remain = 0 → Answers (.sctExpiry cl e) s (fun t =>
      OnlyCl s t cl { s.cluster cl with
        sct := SMap.put (s.cluster cl).sct e { x with st := 2, moved := if x.load = true then x.moved else 0 }
        evq := (s.cluster cl).evq ++ [e] })) ∧
    (x.st ≠ 1 ∨ x.timeout = 0 ∨ x.remain ≠ 0 → exec (.sctExpiry cl e) s = .next s) ∧
    (Evicting s cl e rest → x.len ≤ 64 * x.moved → EventRoom s → Answers (.evictionDone cl e) s (fun t =>
      t.sctOf cl e = { x with st := 3 } ∧ (t.cluster cl).evq = rest ∧ Posted s t 4 0xFFFF e x.sid 0 ∧ t.ctxs = s.ctxs ∧
      t.mem.spad = s.mem.spad ∧ t.mem.hbm = s.mem.hbm)) ∧
    (Evicting s cl e rest → 64 * x.moved < x.len → (∃ f, s.homeLine cl x x.moved true = .error f) → EventRoom s →
      Answers (.evictionFailed cl e) s (fun t =>
        t.sctOf cl e = { x with st := 4 } ∧ (t.cluster cl).evq = rest ∧ Posted s t 5 0xFFFF e x.sid 0 ∧ t.ctxs = s.ctxs ∧
        t.mem.spad = s.mem.spad ∧ t.mem.hbm = s.mem.hbm))

/-- A part of `Obligations.PacketResult`. -/
def PacketEffects : Prop :=
  ∀ (q ahead : Nat) (s : State) (p : Pkt) (rest : List Pkt),
    (NextUp s q p rest 0 → Answers (.nop q ahead) s (fun t =>
      Began s t q p [] 0 ∧ NoError s t q ∧ DoneEvent s t q p 0 ∧ Aside s t)) ∧
    (∀ v, NextUp s q p rest 5 → s.procRead (s.queue q).asid (pw p 1) 8 = some v → Answers (.pred q ahead) s (fun t =>
      (Tests p v → Began s t q p [] 0) ∧ (¬ Tests p v → Began s t q p [] (fld p.w 24 8) ∧ (t.queue q).skipAt = p.depth) ∧
      NoError s t q ∧ DoneEvent s t q p 0 ∧ Aside s t)) ∧
    (NextUp s q p rest 6 → pw p 1 ≠ 0 → (∃ x ∈ rest, p.id ∈ x.par) → Answers (.loop q ahead) s (fun t =>
      Began s t q p [⟨p, 0⟩] 0 ∧ NoError s t q ∧ t.mem = s.mem ∧ Aside s t)) ∧
    (NextUp s q p rest 6 → pw p 1 = 0 → Answers (.loop q ahead) s (fun t =>
      Began s t q p [] (fld p.w 16 16) ∧ (t.queue q).skipAt = p.depth ∧ NoError s t q ∧ DoneEvent s t q p 0 ∧ Aside s t)) ∧
    (NextUp s q p rest 7 → (∃ x ∈ rest, p.id ∈ x.par) → Answers (.indir q ahead) s (fun t =>
      Began s t q p [⟨p, 0⟩] 0 ∧ NoError s t q ∧ t.mem = s.mem ∧ Aside s t)) ∧
    (NextUp s q p rest 8 → Answers (.ffence q 0) s (fun t =>
      Began s t q p [] 0 ∧ (t.queue q).ahead = [] ∧ (t.queue q).lv = p.next ∧ NoError s t q ∧ DoneEvent s t q p 0 ∧ Aside s t)) ∧
    (NextUp s q p rest 9 → Answers (.atPkt q ahead) s (fun t =>
      Began s t q p [⟨p, if pw p 1 ≤ s.mod.time.now / 6486480 % 2 ^ 64 then 2 else 0⟩] 0 ∧ NoError s t q ∧ t.mem = s.mem ∧
      Aside s t)) ∧
    (NextUp s q p rest 11 → fld p.w 9 1 = 0 → EventRoom s → Answers (.event q ahead) s (fun t =>
      Began s t q p [] 0 ∧ Posted s t 3 q 0 p.num (pw p 1) ∧ NoError s t q ∧ Aside s t))

/-- A part of `Obligations.PacketResult`. -/
def PacketErrors : Prop :=
  ∀ (q ahead type code : Nat) (i : Instr) (s : State) (p : Pkt) (rest : List Pkt),
    ((type, i) ∈ [(0, Instr.nop q ahead), (1, .launch q ahead), (2, .task q ahead), (3, .signal q ahead), (4, .waitsig q ahead),
      (5, .pred q ahead), (7, .indir q ahead), (8, .ffence q ahead), (9, .atPkt q ahead), (11, .event q ahead)]) →
    (s.queue q).en = true → (s.queue q).begun = [] → (s.queue q).stopping = false → (s.queue q).enPend = false →
    (s.queue q).skip = 0 → (s.queue q).ahead = p :: rest → fld p.w 0 8 = type → p.bad = false → p.err = some code →
    Answers i s (fun t => Began s t q p [] 0 ∧ ErrorAt s t q code p.num ∧ Aside s t)

/-- A part of `Obligations.SignalWaitPacketResult`. -/
def SignalPacketResult : Prop :=
  ∀ (q ahead : Nat) (s : State) (p : Pkt) (rest : List Pkt), NextUp s q p rest 3 → fld p.w 9 1 = 0 →
    (fld p.w 21 1 = 1 → s.mem.host.wf = true → Answers (.signal q ahead) s (fun t =>
      let v := if fld p.w 20 1 = 1 then s.mem.host.readN (pw p 1) 8 + pw p 2 else pw p 2
      (∀ k, k < 8 → t.mem.host.read (pw p 1 + k) = BitVec.ofNat 8 (v / 256 ^ k)) ∧
      (∀ b, b < pw p 1 ∨ pw p 1 + 8 ≤ b → t.mem.host.read b = s.mem.host.read b) ∧
      t.mem.hbm = s.mem.hbm ∧ t.mem.spad = s.mem.spad ∧ Began s t q p [] 0 ∧ NoError s t q ∧ Aside s t)) ∧
    (∀ a, fld p.w 21 1 = 0 → s.mem.hbm.wf = true → s.procPieces (s.queue q).asid true (pw p 1) 8 = some [⟨⟨0, a, none⟩, 8⟩] →
      Answers (.signal q ahead) s (fun t =>
        let v := if fld p.w 20 1 = 1 then s.mem.hbm.readN a 8 + pw p 2 else pw p 2
        (∀ k, k < 8 → t.mem.hbm.read (a + k) = BitVec.ofNat 8 (v / 256 ^ k)) ∧
        (∀ b, b < a ∨ a + 8 ≤ b → t.mem.hbm.read b = s.mem.hbm.read b) ∧
        t.mem.host = s.mem.host ∧ t.mem.spad = s.mem.spad ∧ Began s t q p [] 0 ∧ NoError s t q ∧ Aside s t)) ∧
    (fld p.w 21 1 = 0 → s.procPieces (s.queue q).asid true (pw p 1) 8 = none → Answers (.signal q ahead) s (fun t =>
      Began s t q p [] 0 ∧ ErrorAt s t q 4 p.num ∧ Aside s t))

/-- A part of `Obligations.SignalWaitPacketResult`. -/
def WaitPacketResult : Prop :=
  ∀ (q ahead v : Nat) (b : Begun) (s : State) (p : Pkt) (rest : List Pkt),
    let now := s.mod.time.now / 6486480 % 2 ^ 64
    (NextUp s q p rest 4 → s.procRead (s.queue q).asid (pw p 1) 8 = some v → Answers (.waitsig q ahead) s (fun t =>
      Began s t q p [⟨p, if pw p 4 = 0 then 0 else now + 1000 * pw p 4 + 1⟩] 0 ∧ NoError s t q ∧ t.mem = s.mem ∧ Aside s t)) ∧
    (Alone s q b → fld b.pkt.w 0 8 = 4 → s.procRead (s.queue q).asid (pw b.pkt 1) 8 = some v →
      (Tests b.pkt v → Answers (.waitsigHolds q) s (fun t => Completes s t q ∧ DoneEvent s t q b.pkt 0 ∧ Aside s t)) ∧
      (¬ Tests b.pkt v → exec (.waitsigHolds q) s = .next s)) ∧
    (Alone s q b → fld b.pkt.w 0 8 = 4 → s.procRead (s.queue q).asid (pw b.pkt 1) 8 = none → Answers (.waitsigHolds q) s (fun t =>
      (t.queue q).begun = [] ∧ ErrorAt s t q 4 b.pkt.num ∧ (∀ k, k ≠ q → t.queue k = s.queue k) ∧ Aside s t)) ∧
    (Alone s q b → fld b.pkt.w 0 8 = 4 → fld b.pkt.w 9 1 = 0 →
      (b.prog ≠ 0 → b.prog ≤ now + 1 → Answers (.waitsigTimeout q) s (fun t =>
        (t.queue q).begun = [] ∧ ErrorAt s t q 7 b.pkt.num ∧ (∀ k, k ≠ q → t.queue k = s.queue k) ∧ Aside s t)) ∧
      (b.prog = 0 ∨ now + 1 < b.prog → exec (.waitsigTimeout q) s = .next s)) ∧
    (Alone s q b → fld b.pkt.w 0 8 = 9 → b.prog = 0 → pw b.pkt 1 ≤ now → Answers (.atTimeReached q) s (fun t =>
      (t.queue q).begun = [{ b with prog := 1 }] ∧ Aside s t ∧ t.front.ev = s.front.ev ∧ t.mem = s.mem ∧ t.mod = s.mod ∧
      (∀ x r, (s.queue q).ahead = x :: r →
        OnlyQueue s t q { s.queue q with begun := [{ b with prog := 1 }], prep := held s q x }))) ∧
    (∀ x r, Alone s q b → fld b.pkt.w 0 8 = 9 → b.prog = 0 → (s.queue q).ahead = x :: r →
      Answers (.engineCommandComplete (.prepare q)) s (fun t => OnlyQueue s t q { s.queue q with prep := held s q x })) ∧
    (Alone s q b → fld b.pkt.w 0 8 = 9 → now < pw b.pkt 1 → exec (.atTimeReached q) s = .next s)

/-- A part of `Obligations.LaunchResult`. -/
def LaunchPacketResult : Prop :=
  ∀ (q ahead : Nat) (s : State) (p : Pkt) (rest : List Pkt) (m : PlaceMap), NextUp s q p rest 1 → (s.queue q).prep = none →
    s.readMap (s.queue q).asid (pw p 1) (pw p 2) (pw p 3) = .ok m →
    (s.mod.trust.fwOk = true → m.ok = true → s.mapFree m p.id (s.queue q).asid = true → (∀ g ∈ m.segs, g.src % 2 = 0) →
      (∀ h ∈ m.hws, (s.ctx h).run.launch = none ∨ s.allDone h = true) → Answers (.launch q ahead) s (fun t =>
      (∀ c ∈ m.ctxs, Launched s t m c p.id (s.queue q).asid) ∧ (∀ k, k < 2048 → k ∉ m.hws → t.ctx k = s.ctx k) ∧
      (∃ l r, t.front.launches = r ++ [l] ∧ l.id = p.id ∧ l.queue = q ∧ l.hws = m.hws ∧ l.ended = [] ∧ l.teams = m.teams ∧
        r.map (fun x => x.id) = s.front.launches.map (fun x => x.id) ∧
        ((∀ h ∈ m.hws, (s.ctx h).run.launch = none) → r = s.front.launches ∧ ∀ k, k ∉ m.hws → t.ctx k = s.ctx k)) ∧
      Began s t q p [⟨p, 0⟩] 0 ∧ NoError s t q ∧ t.mem = s.mem)) ∧
    (s.mod.trust.fwOk = false ∨ m.ok = false ∨ s.mapFree m p.id (s.queue q).asid = false → Answers (.launch q ahead) s (fun t =>
      Began s t q p [] 0 ∧ ErrorAt s t q 5 p.num ∧ Aside s t))

/-- A part of `Obligations.LaunchResult`. -/
def LaunchCompletes : Prop :=
  ∀ (l : Launch) (b : Begun) (s : State), s.front.launches = [l] → s.launchOver l = true → b.pkt.id = l.id → Alone s l.queue b →
    Answers (.launchComplete l.id) s (fun t =>
      t.front.launches = [] ∧ (∀ h ∈ l.hws, (t.ctx h).run.launch ≠ some l.id) ∧ (∀ h, h < 2048 → (t.ctx h).regs = (s.ctx h).regs) ∧
      (∀ c ∈ l.cores, ∀ g ∈ (t.core c).segs, g.launch ≠ l.id) ∧
      (∀ cl ∈ l.clusters, ∀ x ∈ (t.cluster cl).watch, x.1 < l.wfirst ∨ l.wfirst + l.wcount ≤ x.1 ∨ x.2.st = 0) ∧
      Completes s t l.queue ∧ DoneEvent s t l.queue b.pkt 0)

/-- A part of `Obligations.TaskStreamPacketResult`. -/
def TaskPacketResult : Prop :=
  ∀ (q ahead cl d : Nat) (u : TaskQ) (s : State) (p : Pkt) (rest : List Pkt), NextUp s q p rest 2 → pw p 2 = 1 → fld p.w 9 1 = 0 →
    let n := fld p.w 16 9
    n < 0x100 → s.taskCl q n = some cl → s.procRead (s.queue q).asid (pw p 1) 64 = some d → ¬ SpawnKind d → ¬ RecordScope d →
    ¬ SpawnBits d n → ¬ RecordMisaligned d → ¬ RecordOutside d →
    (s.cluster cl).waits = [] → (∀ x ∈ (s.cluster cl).watch, x.2.held = none) → SMap.get? (s.cluster cl).tq n = some u →
    u.sram.length < u.c → fld d 64 32 = 0xFFFFFFFF →
    Answers (.task q ahead) s (fun t =>
      (∃ r, SMap.get? (t.cluster cl).tq n = some { u with sram := u.sram ++ [r] } ∧ fld r.d 128 16 = n ∧ fld r.d 144 8 = cl % 256 ∧
        fld r.d 152 8 = 0 ∧ fld r.d 160 32 = 0 ∧ (∀ k, k < 16 ∨ (24 ≤ k ∧ k < 64) → fld r.d (8 * k) 8 = fld d (8 * k) 8)) ∧
      Began s t q p [] 0 ∧ NoError s t q ∧ t.ctxs = s.ctxs ∧ t.cores = s.cores ∧ t.mem = s.mem ∧ t.front.ev = s.front.ev)

/-- A part of `Obligations.TaskStreamPacketResult`. -/
def StreamPacketResult : Prop :=
  ∀ (q ahead e : Nat) (x : Sct) (s : State) (p : Pkt) (rest : List Pkt), NextUp s q p rest 10 → fld p.w 9 1 = 0 →
    let cl := fld p.w 24 3
    (fld p.w 16 2 = 0 → fld p.w 18 1 = 0 → Pinnable s p e → Answers (.streamPin q ahead) s (fun t =>
      t.sctOf cl e = ⟨pw p 1, 1, (s.queue q).asid, BitVec.ofNat 64 (pw p 2 % 2 ^ 56), pw p 4, pw p 3, pw p 5, pw p 5, false, 0, q, [],
        []⟩ ∧
      Began s t q p [] 0 ∧ NoError s t q ∧ t.ctxs = s.ctxs ∧ t.mem = s.mem)) ∧
    (fld p.w 16 2 = 1 → Streams s p e x → x.st = 1 ∨ x.st = 2 → Answers (.streamTouch q ahead) s (fun t =>
      t.sctOf cl e = { x with remain := x.timeout } ∧ Began s t q p [] 0 ∧ NoError s t q ∧ t.ctxs = s.ctxs ∧ t.mem = s.mem)) ∧
    (fld p.w 16 2 = 2 → Streams s p e x → x.st = 1 ∨ x.st = 4 → Answers (.streamEvict q ahead) s (fun t =>
      t.sctOf cl e = { x with st := 2, moved := if x.load = true then x.moved else 0, req := x.req ++ [(q, p.id)] } ∧
      (t.cluster cl).evq = (s.cluster cl).evq ++ [e] ∧ Began s t q p [⟨p, 0⟩] 0 ∧ NoError s t q ∧ t.ctxs = s.ctxs ∧ t.mem = s.mem)) ∧
    ((s.cluster cl).sctFind (pw p 1) = none →
      (fld p.w 16 2 = 1 → Answers (.streamTouch q ahead) s (fun t => Began s t q p [] 0 ∧ ErrorAt s t q 8 p.num ∧ Aside s t)) ∧
      (fld p.w 16 2 = 2 → Answers (.streamEvict q ahead) s (fun t => Began s t q p [] 0 ∧ ErrorAt s t q 8 p.num ∧ Aside s t)))

/-- A part of `Obligations.QueueHostRegisterWrites`. -/
def QueueRegisterWrites : Prop :=
  ∀ (q v : Nat) (s : State),
    let u := s.queue q
    (s.mod.trust.fwOk = false → exec (.qtailWrite q v) s = .next s ∧ exec (.queueEnable q) s = .next s ∧
      exec (.queueDisable q) s = .next s ∧ exec (.qstatClear q) s = .next s) ∧
    (s.mod.trust.fwOk = true →
    (v ≤ u.tail → exec (.qtailWrite q v) s = .next s) ∧
    (u.tail < v → v ≤ u.head + 2 ^ fld u.qbase.toNat 1 5 →
      Answers (.qtailWrite q v) s (fun t => OnlyQueue s t q { u with tail := v })) ∧
    (u.tail < v → u.head + 2 ^ fld u.qbase.toNat 1 5 < v → Answers (.qtailWrite q v) s (fun t =>
      (t.queue q).tail = u.tail ∧ ErrorAt s t q 11 0 ∧ Aside s t)) ∧
    (u.en = false → u.begun = [] → u.stopping = false → Answers (.queueEnable q) s (fun t =>
      OnlyQueue s t q { u with en := true, enPend := false, lv := ringStart u, here := ringStart u, ahead := [] })) ∧
    (u.en = false → u.begun ≠ [] → Answers (.queueEnable q) s (fun t => OnlyQueue s t q { u with enPend := true })) ∧
    (u.en = true → u.begun = [] → Answers (.queueDisable q) s (fun t =>
      OnlyQueue s t q { u with
        en := false, enPend := false, stopping := false, ahead := [], lv := u.here, prep := none, head := headOf u.here })) ∧
    (u.en = false → Answers (.queueDisable q) s (fun t => OnlyQueue s t q { u with enPend := false })) ∧
    Answers (.qstatClear q) s (fun t => OnlyQueue s t q { u with count := 0, first := 0, fpkt := 0 }))

/-- A part of `Obligations.QueueHostRegisterWrites`. -/
def HostRegisterWrites : Prop :=
  ∀ (v n cl off : Nat) (s : State),
    let e := s.front.ev
    let x := (s.cluster cl).trace
    (s.mod.trust.fwOk = false → exec (.evheadWrite v) s = .next s ∧ exec (.trheadWrite cl v) s = .next s) ∧
    (s.mod.trust.fwOk = true → e.head < v → v ≤ e.tail → Answers (.evheadWrite v) s (fun t => t = withEv s { e with head := v })) ∧
    (v ≤ e.head ∨ e.tail < v → exec (.evheadWrite v) s = .next s) ∧
    (s.mod.trust.fwOk = true → x.head < v → v ≤ x.tail → Answers (.trheadWrite cl v) s (fun t =>
      OnlyCl s t cl { s.cluster cl with trace := { x with head := v } })) ∧
    (s.mod.trust.fwOk = true → v ≤ x.head ∨ x.tail < v → Answers (.trheadWrite cl v) s (fun t => OnlyCl s t cl (s.cluster cl))) ∧
    (off % 8 ≠ 0 ∨ s.opened off = false → exec (.registerWrite off v) s = .next s) ∧
    (s.opened off = false ↔ s.mod.trust.fwOk = false ∧ ¬ (0x3C0000 ≤ off ∧ off < 0x3C1000) ∧ ¬ (0x44000 ≤ off ∧ off < 0x50000)) ∧
    (s.mod.trust.fwOk = true → n < 4096 → (s.queue n).en = false → (s.queue n).begun = [] → (s.queue n).stopping = false →
      Answers (.registerWrite (64 * n) v) s (fun t => OnlyQueue s t n { s.queue n with qbase := BitVec.ofNat 64 v })) ∧
    (s.mod.trust.fwOk = true → n < 4096 → (s.queue n).en = true → Answers (.registerWrite (64 * n) v) s (fun t => OnlyQueue s t n (s.queue n))) ∧
    (n < 4096 → exec (.registerWrite (64 * n + 0x18) v) s = .next s) ∧
    (s.mod.trust.fwOk = true → 300 ≤ v → v ≤ 1500 → Answers (.registerWrite 0x40080 v) s (fun t => t = withTrust s { s.mod.trust with pwrlim := v })) ∧
    (s.mod.trust.fwOk = true → Answers (.registerWrite 0x40000 v) s (fun t => t = withEv s { e with base := BitVec.ofNat 64 v }))

/-- A part of `Obligations.ModuleErrorEvents`. -/
def ModuleEvents : Prop :=
  ∀ (ns avg n : Nat) (hbm : Bool) (s : State),
    Answers .moduleReset s (fun t =>
      (∀ h, t.ctx h = Ctx.reset) ∧ (∀ k, t.core k = Core.reset) ∧ (∀ q, t.queue q = Queue.reset) ∧ t.front.launches = [] ∧
      t.mod.full = false ∧ t.mod.hbmFull = false ∧ t.mod.level = 8 ∧ t.mod.trust.keys = [] ∧ t.mod.time.now = 0 ∧
      t.mem.host = s.mem.host) ∧
    (s.mod.full = false → EventRoom s → Answers .fullService s (fun t =>
      t.mod = { s.mod with full := true, hbmFull := true, level := 16 } ∧ Posted s t 6 0xFFFF 0 0 0 ∧ t.ctxs = s.ctxs ∧
      t.cores = s.cores ∧ t.mem.spad = s.mem.spad)) ∧
    (s.mod.full = true → exec .fullService s = .next s) ∧
    (s.mod.time.src = 2 → Answers .ppsEdge s (fun t => Meets s t (s.mod.time.secs * 1000000000))) ∧
    (s.mod.time.src ≠ 2 → exec .ppsEdge s = .next s) ∧
    (s.mod.time.src = 1 → Answers (.ptmExchange ns) s (fun t => Meets s t ns)) ∧
    (s.mod.time.src ≠ 1 → exec (.ptmExchange ns) s = .next s) ∧
    Answers (.powerThrottleStep avg) s (fun t =>
      t.mod.trust.pwrnow = avg ∧ t.ctxs = s.ctxs ∧ t.mem = s.mem ∧
      (8 ≤ s.mod.level → s.mod.level ≤ (if s.mod.full = true then 16 else 8) →
        (s.mod.trust.pwrlim < avg → t.mod.level = max 8 (s.mod.level - 1)) ∧
        (avg < s.mod.trust.pwrlim → t.mod.level = min (if s.mod.full = true then 16 else 8) (s.mod.level + 1)) ∧
        (avg = s.mod.trust.pwrlim → t.mod.level = s.mod.level) ∧ 8 ≤ t.mod.level ∧
        t.mod.level ≤ (if s.mod.full = true then 16 else 8))) ∧
    Answers (.correctableError hbm n) s (fun t =>
      let k := if hbm = true then 8 + n else n % 8
      t = withTrust s { s.mod.trust with errlog := SMap.put s.mod.trust.errlog k (SMap.getD s.mod.trust.errlog k 0 + 1) })

/-- A part of `Obligations.ModuleErrorEvents`. -/
def UncorrectableErrors : Prop :=
  ∀ (hw addr row core : Nat) (s : State), s.mem.spad.wf = true →
    ((∀ h ∈ s.teamMates hw, (s.ctx h).ckpt = none) → (s.teamMates hw).Nodup → hw ∈ s.teamMates hw →
    s.rollOf hw = none → ∀ rd, rd = ErrReader.context hw ∨ rd = .command hw → Answers (.uncorrectableError rd addr .transient) s (fun t =>
      let e : Async := ⟨16, BitVec.ofNat 64 addr, 0, 0, 15, 15, false, false⟩
      (∀ h ∈ s.teamMates hw, (s.ctx h).run.st ≠ .inactive →
        if rd = .context hw ∧ h = hw ∧ (s.ctx hw).run.trap = false then
          (t.ctx h).soon = (s.ctx h).soon ++ [e] ∧ (t.ctx h).async = (s.ctx h).async
        else (t.ctx h).async = (s.ctx h).async ++ [e] ∧ (t.ctx h).soon = (s.ctx h).soon) ∧
      (∀ h, h ∉ s.teamMates hw → t.ctx h = s.ctx h) ∧ (∀ h, RegsSame (s.ctx h) (t.ctx h)) ∧ ReadsStored s t addr (s.draw + 1) ∧
      t.mod = s.mod)) ∧
    (∀ k rd, rd = ErrReader.context hw ∨ rd = .command hw → s.teamMates hw = [hw] → s.rollOf hw = none →
      (s.ctx hw).ckpt = some k → k.usable = true →
      s.copiesDone [hw] (clusterOf hw) = true → Answers (.uncorrectableError rd addr .transient) s (fun t =>
        let d := t.ctx hw
        d.regs.s = k.regs.s ∧ d.regs.c = k.regs.c ∧ d.regs.p = k.regs.p ∧ d.fmt = { k.fmt with tok := [] } ∧ d.frame = k.frame ∧
        d.pend = ⟨[], [], [], []⟩ ∧ d.run.st = .ready ∧ d.run.sched = k.sched ∧ d.run.h = k.h ∧ d.run.slack = k.slack ∧
        d.run.slackRem = k.slackRem ∧ d.run.barPass = true ∧ (∀ h, h ≠ hw → t.ctx h = s.ctx h) ∧ t.mem.hbm = s.mem.hbm)) ∧
    (Answers (.uncorrectableError .host addr .transient) s (fun t =>
      let k := addr / 0xC000000 % 8
      t.mod = (withTrust s { s.mod.trust with
        errlog := SMap.put s.mod.trust.errlog k (SMap.getD s.mod.trust.errlog k 0 + 1) }).mod ∧
      ReadsStored s t addr s.draw ∧ t.ctxs = s.ctxs ∧ t.cores = s.cores ∧ t.clusters = s.clusters ∧ t.front = s.front)) ∧
    ((s.auxOf core).rowMap = [] → EventRoom s → Answers (.uncorrectableError .host addr (.arrayRow core row)) s (fun t =>
      (t.auxOf core).rowMap = [(row, 64)] ∧
      (∀ n, SMap.getD t.mem.acs n 0 = if n = tileKey core (addr / 64 % 16) row (addr % 64) then
        BitVec.ofNat 32 (Config.storedBits s.draw) else SMap.getD s.mem.acs n 0) ∧ Posted s t 7 0xFFFF (2 ^ 28 + core % 2 ^ 12 * 2 ^ 16 + row % 2 ^ 16) 0 0 ∧
      t.ctxs = s.ctxs))

end Sys2Proof.Claims

open Sys2Proof Sys2Proof.Machine Sys2Proof.Claims

/-- Results of the N-R integer instructions (R114, R113, R112, R24, R27). ADD, SUB, AND, OR, XOR, ADDSH, SHL, SHR, SRA,
MIN, MAX, MINS, MAXS, SLT, SLTS, SEQ and SEL with a guard that holds answer a next state in which exactly one result,
the effect of the table on A and B, is pending for s[d] with latency 1, one event of energy code 1 is counted, and
nothing else has changed; with a guard that does not hold they change nothing. -/
def Obligations.ScalarRegisterResult : Prop :=
  ∀ (o : NR) (s : State),
    RegResult (.add o) s o (fun a b => a + b) ∧
    RegResult (.sub o) s o (fun a b => a - b) ∧
    RegResult (.and o) s o (fun a b => a &&& b) ∧
    RegResult (.or o) s o (fun a b => a ||| b) ∧
    RegResult (.xor o) s o (fun a b => a ^^^ b) ∧
    (∀ sh, RegResult (.addsh o sh) s o (fun a b => a + BitVec.ofNat 64 (b.toNat * 2 ^ sh))) ∧
    RegResult (.shl o) s o shl ∧
    RegResult (.shr o) s o shr ∧
    RegResult (.sra o) s o sra ∧
    RegResult (.min o) s o (fun a b => if a.toNat < b.toNat then a else b) ∧
    RegResult (.max o) s o (fun a b => if a.toNat < b.toNat then b else a) ∧
    RegResult (.mins o) s o (fun a b => if a.toInt < b.toInt then a else b) ∧
    RegResult (.maxs o) s o (fun a b => if a.toInt < b.toInt then b else a) ∧
    RegResult (.slt o) s o (fun a b => one (decide (a.toNat < b.toNat))) ∧
    RegResult (.slts o) s o (fun a b => one (decide (a.toInt < b.toInt))) ∧
    RegResult (.seq o) s o (fun a b => one (decide (a = b))) ∧
    (∀ n neg, RegResult (.sel o n neg) s o (fun a b => if s.me.creg n ≠ neg then a else b))

/-- Results of the N-I and one-operand integer instructions (R114, R117, R118, R113, R112). ADDI, ANDI, ORI, XORI, SLTI,
SHLI, SHRI, SRAI, LI, MOV, CLZ, POPC, BFX and BFI answer a next state with their one result pending for s[d] with
latency 1 and nothing else changed; ORI and XORI zero-extend a literal; nullified by their guard. -/
def Obligations.ScalarImmediateResult : Prop :=
  ∀ (o : NI) (u : N2) (l : NL) (k : NBit) (s : State),
    ImmResult (.addi o) s o (fun a b => a + b) ∧
    ImmResult (.andi o) s o (fun a b => a &&& b) ∧
    XyGives (.ori o) s o.g [sRes o.d (s.me.sreg o.a ||| immZ0 o.b) 0 1] ∧
    XyGives (.xori o) s o.g [sRes o.d (s.me.sreg o.a ^^^ immZ0 o.b) 0 1] ∧
    ImmResult (.slti o) s o (fun a b => one (decide (a.toInt < b.toInt))) ∧
    ImmResult (.shli o) s o shl ∧
    ImmResult (.shri o) s o shr ∧
    ImmResult (.srai o) s o sra ∧
    XyGives (.li l) s l.g [sRes l.d (immB l.b) 0 1] ∧
    XyGives (.mov u) s u.g [sRes u.d (s.me.sreg u.a) 0 1] ∧
    (∀ n : Nat, (n = 64 ∧ s.me.sreg u.a = 0 ∨ n < 64 ∧ 2 ^ (63 - n) ≤ (s.me.sreg u.a).toNat ∧ (s.me.sreg u.a).toNat < 2 ^ (64 - n)) →
      XyGives (.clz u) s u.g [sRes u.d (BitVec.ofNat 64 n) 0 1]) ∧
    XyGives (.popc u) s u.g
      [sRes u.d (BitVec.ofNat 64 ((List.range 64).foldl (fun n b => n + (s.me.sreg u.a).toNat / 2 ^ b % 2) 0)) 0 1] ∧
    XyGives (.bfx k) s k.g [sRes k.d (BitVec.ofNat 64 ((s.me.sreg k.a).toNat / 2 ^ k.pos % 2 ^ k.len)) 0 1] ∧
    XyGives (.bfi k) s k.g [sRes k.d
      ((s.me.sreg k.d &&& ~~~BitVec.ofNat 64 ((2 ^ k.len - 1) * 2 ^ k.pos)) |||
        (BitVec.ofNat 64 ((s.me.sreg k.a).toNat % 2 ^ k.len * 2 ^ k.pos) &&& BitVec.ofNat 64 ((2 ^ k.len - 1) * 2 ^ k.pos)))
      0 1]

/-- Results of multiplication and division (R115, R112, R27). MUL, MULH, MULHS (latency 3) and DIV, DIVS, REM, REMS
(latency 12) leave their result pending for s[d]; a divisor of zero gives all ones or the dividend and raises dz with
the result; no division traps; nothing else changes. -/
def Obligations.MultiplyDivideResult : Prop :=
  ∀ (o : NR) (s : State),
    XyGives (.mul o) s o.g
      [sRes o.d (BitVec.ofNat 64 ((s.me.sreg o.a).toNat * (opB s.me o.b).toNat)) 0 3] ∧
    XyGives (.mulh o) s o.g
      [sRes o.d (BitVec.ofNat 64 ((s.me.sreg o.a).toNat * (opB s.me o.b).toNat / 2 ^ 64)) 0 3] ∧
    XyGives (.mulhs o) s o.g
      [sRes o.d (BitVec.ofInt 64 ((s.me.sreg o.a).toInt * (opB s.me o.b).toInt / (2 : Int) ^ 64)) 0 3] ∧
    DivResult (.div o) s o (fun a b => if b = 0 then 0xFFFFFFFFFFFFFFFF#64 else BitVec.ofNat 64 (a.toNat / b.toNat)) ∧
    DivResult (.divs o) s o (fun a b =>
      if b = 0 then 0xFFFFFFFFFFFFFFFF#64
      else if a.toInt = -(2 : Int) ^ 63 ∧ b.toInt = -1 then 0x8000000000000000#64
      else BitVec.ofInt 64 (a.toInt.tdiv b.toInt)) ∧
    DivResult (.rem o) s o (fun a b =>
      if b = 0 then a else BitVec.ofNat 64 (a.toNat - a.toNat / b.toNat * b.toNat)) ∧
    DivResult (.rems o) s o (fun a b =>
      if b = 0 then a
      else if a.toInt = -(2 : Int) ^ 63 ∧ b.toInt = -1 then 0
      else BitVec.ofInt 64 (a.toInt - a.toInt.tdiv b.toInt * b.toInt))

/-- CMPC writes one condition register by the test that fn names (R116). CMPC leaves the outcome of its test pending for
c[d] with latency 1 and changes nothing else; its syllable decodes with the test of fn 0 to 7, with bits 21 to 19
nonzero it is ILLBND, and with fn 8 to 15 ILLOP. -/
def Obligations.CompareConditionResult : Prop :=
  (∀ (o : NR) (cc : CCmp) (s : State),
    XyGives (.cmpc o cc) s o.g [⟨.c o.d, 0, if condTest cc (s.me.sreg o.a) (opB s.me o.b) = true then 1 else 0, 0, 1⟩]) ∧
  ∀ w : Nat, fld w 26 6 = 0x28 →
    (fld w 0 4 < 8 → fld w 19 3 = 0 → decodeSyllable .x w none = .ok (.cmpc
      ⟨fld w 22 4, fld w 16 6, fld w 10 6, .reg (fld w 4 6)⟩
      ([CCmp.eq, .ne, .lt, .ge, .ltu, .geu, .tst, .ntst].getD (fld w 0 4) .eq))) ∧
    (fld w 0 4 < 8 → fld w 19 3 ≠ 0 → decodeSyllable .x w none = .error .illbnd) ∧
    (8 ≤ fld w 0 4 → decodeSyllable .x w none = .error .illop)

/-- CTXID reads the position of the context (R122). MFC of CTXID gives a value whose reserved bits are zero and whose
fields are the core within its cluster, the cluster, the module-wide core number 48 x clu + corecl and the context; on
CTX2 of core 5 of cluster 1 it is 0x148D6; MFC s7, CTXID decodes from 0xB0070008. -/
def Obligations.ContextIdentity : Prop :=
  decodeSyllable .x 0xB0070008 none = .ok (.mfc ⟨0, 7, 8⟩) ∧
  ∀ (g r : Nat) (s : State), s.cur.hw < 1536 → ∃ v : Word, XyGives (.mfc ⟨g, r, 8⟩) s g [sRes r v 0 1] ∧
    fld v.toNat 20 44 = 0 ∧ fld v.toNat 14 6 = s.cur.hw / 4 % 48 ∧ fld v.toNat 11 3 = s.cur.hw / 192 ∧
    fld v.toNat 2 9 = s.cur.hw / 4 ∧ fld v.toNat 2 9 = 48 * fld v.toNat 11 3 + fld v.toNat 14 6 ∧
    fld v.toNat 0 2 = s.cur.hw % 4 ∧ (s.cur.hw = 4 * 53 + 2 → v = 0x148D6)

/-- MFC and MTC of every control register (R120, R121, R122, R292, R293, R36, R351, R352). MFC leaves the value of the
named control register pending with latency 1. MTC, with system privilege where the register asks for it, writes the
register but for its reserved bits, leaves a read-only register as it is, and changes nothing else; without the
privilege it traps with PRIV. Which bits of ASID and TCAUSE a write keeps is the model's choice (log 52). -/
def Obligations.ControlRegisterAccess : Prop :=
  ControlRegisterRead ∧ ControlRegisterWrite

/-- Scalar loads (R119, R93, R112, R5). LDB, LDBS, LDH, LDHS, LDW, LDWS and LDD at an aligned address leave the extended
little-endian value pending for s[d] with latency 5; bytes out of range read as zero and the first is recorded in
SPFAULT; no memory changes. Which access of a bundle comes first for SPFAULT is the model's choice (log 45). -/
def Obligations.ScalarLoadResult : Prop :=
  ∀ (o : NI) (s : State),
    ScalarLoad (.ldb o) s o 1 false ∧ ScalarLoad (.ldbs o) s o 1 true ∧
    ScalarLoad (.ldh o) s o 2 false ∧ ScalarLoad (.ldhs o) s o 2 true ∧
    ScalarLoad (.ldw o) s o 4 false ∧ ScalarLoad (.ldws o) s o 4 true ∧
    ScalarLoad (.ldd o) s o 8 false

/-- Scalar stores: the bytes stored, the frame, and misaligned accesses (R119, R93, R91, R294, R5). STB, STH, STW and STD
at an aligned address, while no watch entry is armed, leave the low bytes of the data register at the effective
address of the own scratchpad and every other byte of every memory, register, flag and special register as it was, but
for SPFAULT; bytes out of range are dropped (which access of a bundle comes first for SPFAULT is the model's choice,
log 45). A misaligned halfword, word or doubleword access traps with ALIGN. -/
def Obligations.ScalarStoreFrame : Prop :=
  ScalarStores ∧ ScalarMisaligned

/-- N-B branches (R191, R192, R194, R195, R197, R14, R198, R200, R13). BR, BRC, JMP and LOOPB outside a delay bundle leave
the branch state with the target, the taken bit of their test and the drain bit; LOOPB also leaves the decremented
counter pending unless it is zero. BRP.all and BRP.none are taken by a uniform predicate and trap with NUNIF on a
mixed one. In a delay bundle all of them trap with ILLBND. -/
def Obligations.BranchResult : Prop :=
  BranchTaken ∧ UniformBranch

/-- JMPI, RET, CALL and CALLI (R191, R196, R198, R194, R199, R13). JMPI and RET branch to the low 32 bits of their
register when their guard holds and trap with ALIGN when the target is no multiple of 4; CALL and CALLI branch when
their guard holds and leave the address after their two delay bundles pending for lk; CALLI to a target that is no
multiple of 4 traps with ALIGN. In a delay bundle all four trap with ILLBND. -/
def Obligations.RegisterBranchCall : Prop :=
  RegisterBranchResult ∧ CallResult

/-- What taking a trap saves and where it goes (R289, R201, R292, R293, R296, R13). Taking a synchronous trap outside trap
mode saves the frame, sets the position to TVEC with idle latches, a free branch state and a new stop group, writes
TCAUSE, TBUNDLE, TCYCLE, TADDR and TINFO, freezes the pending results with their remaining delays, enters trap mode,
withdraws the context from a barrier at which it stands (log 117), and changes no register, no other context and no
memory. SVC and BRK whose guard holds take it with causes 11 and 12 and their code in TADDR; nullified they do
nothing; in a delay bundle they trap with ILLBND. -/
def Obligations.TrapEntryState : Prop :=
  ServiceCallTraps ∧ TrapEntry

/-- ERET (R308, R36, R288, R13). ERET in trap mode with nothing of the trap routine in flight restores the saved frame,
sets the schedule counter to TCYCLE, unfreezes the pending results at their remaining delays, leaves trap mode and
changes no register; without privilege it traps with PRIV; with privilege outside trap mode it traps with ILLOP; in a
delay bundle with ILLBND. -/
def Obligations.TrapReturnResult : Prop :=
  ∀ (s : State),
    (s.cur.go = false → s.me.frame.br.st ≠ 0 → InDelay .eret s) ∧
    (s.me.frame.br.st = 0 → Privileged .eret s) ∧
    (s.cur.go = false → s.me.frame.br.st = 0 → s.me.run.priv = true → s.me.run.trap = false →
      exec .eret s = .next (trapped s (.chk ⟨1, 0, 0⟩) 1 0 0)) ∧
    (s.me.frame.br.st = 0 → s.me.run.trap = true → s.me.pend.val = [] → s.me.pend.flg = [] →
      (∀ x ∈ (s.core s.myCore).xfers, x.hw = s.cur.hw → x.frozen = true ∨ x.orphan = true) → s.me.run.cuts = 0 →
      s.me.run.pre = none → (∀ p ∈ s.me.pend.frozenVal, 0 < p.land) → (∀ p ∈ s.me.pend.frozenFlg, 0 < p.land) →
      let n := s.me.ctl.tcycle.toNat
      Answers .eret s (fun t =>
        (t.ctx s.cur.hw).frame = s.me.tframe ∧ (t.ctx s.cur.hw).run.sched = n ∧ (t.ctx s.cur.hw).run.trap = false ∧
        (t.ctx s.cur.hw).run.priv = s.me.run.priv ∧
        (t.ctx s.cur.hw).pend = ⟨s.me.pend.frozenVal.map (fun p => { p with land := n + p.land }),
          s.me.pend.frozenFlg.map (fun p => { p with land := n + p.land }), [], []⟩ ∧
        (t.ctx s.cur.hw).regs = s.me.regs ∧ (t.ctx s.cur.hw).bank = s.me.bank ∧ (t.ctx s.cur.hw).ctl = s.me.ctl ∧
        OthersSame s t ∧ t.mem = s.mem ∧ t.mod = s.mod))

/-- Integer arithmetic of the vector slots (R132, R133, R40, R126, R127, R129, R130). VADD, VSUB, VMUL, VMULH, VMAC,
VMACS, VABS, VNEG, VMIN, VMAX and VSAT leave, at every active element, the exact result wrapped or clamped to the
type, with sat raised by each element that the clamp changes, pending for v[d] with latency 2 in the bytes of the
active elements; nothing else changes; with no active element they are nullified. -/
def Obligations.VectorIntegerResult : Prop :=
  ∀ (o : V3) (u : V2) (sat : Bool) (n : Nat) (s : State),
    let a := fun e => vElem (s.me.vreg o.a) o.t e
    let b := fun e => vElem (s.me.vreg o.b) o.t e
    let d := fun e => vElem (s.me.vreg o.d) o.t e
    let x := fun e => vElem (s.me.vreg u.a) u.t e
    IntSat (.vadd o sat) s o.g o.t o.d sat (fun e => a e + b e) ∧
    IntSat (.vsub o sat) s o.g o.t o.d sat (fun e => a e - b e) ∧
    IntSat (.vmul o) s o.g o.t o.d false (fun e => a e * b e) ∧
    IntSat (.vmulh o) s o.g o.t o.d false (fun e => a e * b e / (2 : Int) ^ (8 * o.t.width)) ∧
    IntSat (.vmac o) s o.g o.t o.d false (fun e => d e + a e * b e) ∧
    IntSat (.vmacs o) s o.g o.t o.d true (fun e => d e + a e * b e) ∧
    IntSat (.vabs u sat) s u.g u.t u.d sat (fun e => |x e|) ∧
    IntSat (.vneg u sat) s u.g u.t u.d sat (fun e => -(x e)) ∧
    IntSat (.vmin o) s o.g o.t o.d false (fun e => min (a e) (b e)) ∧
    IntSat (.vmax o) s o.g o.t o.d false (fun e => max (a e) (b e)) ∧
    (let lo : Int := if u.t.isSigned = true then -(2 : Int) ^ (n - 1) else 0
     let hi : Int := if u.t.isSigned = true then (2 : Int) ^ (n - 1) - 1 else (2 : Int) ^ n - 1
     IntVec (.vsat u n) s u.g u.t u.d (fun e => modE u.t.width (clampE lo hi (x e))) (fun e => satFlag lo hi (x e)))

/-- VNRW, VWID, logical operations and shifts (R134, R135, R136, R129, R130). VNRW and VWID leave the narrowed or widened
elements of two registers or of one; VAND, VOR, VXOR, VNOT, VSHL, VSHR and VSRA leave their bits at the active
elements; latency 2, nothing else changes. -/
def Obligations.VectorNarrowWidenLogicShift : Prop :=
  VectorNarrowWidenResult ∧ VectorLogicShiftResult

/-- VCMP, VSEL and the data movements (R136, R143, R129, R130). VCMP writes the test of each active element to its whole
group of the predicate; VSEL, VPERM, VSLD, VBCST, VINS, VEXT, VMOV and VIOTA leave the elements of their tables with
latency 2 or 3; nothing else changes. -/
def Obligations.VectorCompareSelectMove : Prop :=
  VectorCompareSelectResult ∧ VectorMoveResult

/-- Predicate instructions (R144, R129, R130). PAND, POR, PXOR, PNOT, PSET and PCNT leave their result pending with
latency 2 under the guard and change nothing else. -/
def Obligations.PredicateResult : Prop :=
  ∀ (o : VP) (u : VP2) (v : V2) (s : State),
    VwGives (.pand o) s o.g 1 2 (fun rs => rs = [pRes o.d (s.me.guardW o.g) (s.me.preg o.a &&& s.me.preg o.b) 0 2]) ∧
    VwGives (.por o) s o.g 1 2 (fun rs => rs = [pRes o.d (s.me.guardW o.g) (s.me.preg o.a ||| s.me.preg o.b) 0 2]) ∧
    VwGives (.pxor o) s o.g 1 2 (fun rs => rs = [pRes o.d (s.me.guardW o.g) (s.me.preg o.a ^^^ s.me.preg o.b) 0 2]) ∧
    VwGives (.pnot u) s u.g 1 2 (fun rs => rs = [pRes u.d (s.me.guardW u.g) (~~~(s.me.preg u.a)) 0 2]) ∧
    VwGives (.pset v) s v.g v.t.width 2
      (Groups (s.me.guardW v.g) v.t v.d 2 (fun e => e < (s.me.sreg v.a).toNat) 0) ∧
    VwGives (.pcnt v) s v.g v.t.width 2 (fun rs => rs = [sRes v.d (BitVec.ofNat 64
      ((List.range v.t.count).filter (fun e => (s.me.preg v.a).getLsbD (e * v.t.width) && (s.me.guardW v.g).getLsbD (e * v.t.width))).length)
      0 2])

/-- VFADD, VFSUB, VFMUL, VFMA and VFMS (R137, R49, R50, R55, R41, R129). Each active element is the one rounding of the
exact result in the format of the type, in ascending order of elements under SR with each lane its generator, with the
flags that the roundings raise; latency 4; nothing else changes but the generators. On finite operands the result is
the rounding of the exact sum or product, on infinities and NaNs the rows of the table; the sign of a zero sum is read
as IEEE 754 has it (log 116). -/
def Obligations.FloatArithmeticResult : Prop :=
  FloatArithmetic ∧ ExactArithmetic

/-- VFMIN, VFMAX, VFCMP, VFCLS and VCVT (R137, R138, R139, R49, R55, R129). The minimum, maximum, test and class of each
active element, and each converted element of the source elements that the half names, with their flags, pending with
latency 4. Minimum, maximum, order and class are those of the exact values, and a conversion is the rounding of its
exact value, clamped with nv where an integer type cannot hold it. -/
def Obligations.FloatCompareConvert : Prop :=
  FloatCompareClassResult ∧ FloatConvertResult ∧ CompareClassRows ∧ ConversionRows

/-- The rounding modes and the transcendentals (R49, R140, R37, R129). A magnitude is rounded to a multiple as RNE, RTZ,
RUP, RDN and SR say and is inexact exactly when it was no multiple. VRCP, VRSQ, VEXP, VLOG and VTANH leave the
function of each active element with latency 8 in full service, trap with ILLOP in reduced service, and have the
results and flags of the table at their special operands. -/
def Obligations.RoundingAndFunctions : Prop :=
  RoundingModes ∧ TranscendentalResult ∧ TranscendentalSpecialValues

/-- VQNT and VDQNT (R141, R142, R45, R37, R129, R47, R48, R50). VQNT leaves the quantised elements in its quarter and the
four block scales in their bytes; VDQNT leaves the rounded product of scale and element, NaN with nv under a scale of
255; MXINT6 and MXINT4 trap with ILLOP in reduced service. VQNT writes exactly the bits of the active elements and,
for mx6 and mx4, the zero bytes from 64k up, and the scale bytes of the blocks of its quarter that have an active
element; every other bit stays as it is when the result lands. Scale and elements are those of the exact values of the
block. -/
def Obligations.QuantiseDequantise : Prop :=
  QuantiseResult ∧ DequantiseResult ∧ QuantiseRows

/-- VRED (R145, R129). VRED leaves the sum, minimum, maximum, and, or, exclusive or of the active elements in element 0,
for a float type the tree of fixed order over their FP32 values, pending with latency 6. The tree combines elements 2i
and 2i + 1 level by level, an element that is not active passing the other through. -/
def Obligations.ReductionResult : Prop :=
  IntegerReductionResult ∧ FloatReductionResult ∧ ReductionTree

/-- Addresses of the L slot and its loads (R94, R95, R96, R97, R98, R93, R88, R99, R100, R90). The bytes that an L access
moves and their addresses are those of its table. VLD, VLDB, VLDS, VLDX and PLD at aligned addresses without a bank
conflict leave the bytes of the own scratchpad pending with latency 6 or 7; bytes out of range read as zero; no memory
changes. Which access of a bundle comes first for SPFAULT is the model's choice (log 45). -/
def Obligations.VectorLoadResult : Prop :=
  AccessAddresses ∧ VectorLoads

/-- Stores of the L slot, their frame, and their traps (R94, R95, R96, R99, R100, R90, R93, R294, R98, R91). VST, VSTS,
VSTX, PST and FILL, while no watch entry is armed, leave the register bytes at the computed addresses of the own
scratchpad and every other byte and register as it was, but for SPFAULT. A misaligned access traps with ALIGN, one
that needs a bank twice with BANKCF at the line of one of its bytes (which line is log 43, which misaligned chunk of
VLDX and VSTX is reported log 44, which access comes first for SPFAULT log 45). -/
def Obligations.VectorStoreFrame : Prop :=
  VectorStores ∧ VectorAccessTraps

/-- IDLE empties its latch and does nothing else (R123). IDLE of every sticky slot takes the latch of its slot away and
changes nothing else, under no guard; in X and Y it is the syllable 0xFC000000, and any other bit set is ILLBND. -/
def Obligations.IdleResult : Prop :=
  (∀ (i : Instr) (s : State), i = .idleXy ∨ i = .idleVw ∨ i = .idleL ∨ i = .idleM ∨ i = .idleC ∨ i = .idleQ →
    Answers i s (fun t =>
      (t.ctx s.cur.hw).frame = { s.me.frame with latches := SMap.del s.me.frame.latches s.cur.slot } ∧
      (t.ctx s.cur.hw).pend = s.me.pend ∧ RegsSame s.me (t.ctx s.cur.hw) ∧ (t.ctx s.cur.hw).run = s.me.run ∧
      (t.ctx s.cur.hw).eng = s.me.eng ∧ (t.ctx s.cur.hw).energy = s.me.energy ∧ OthersSame s t ∧ RestSame s t ∧ MemSame s t)) ∧
  decodeSyllable .x 0xFC000000 none = .ok .idleXy ∧
  ∀ w : Nat, fld w 26 6 = 0x3F → fld w 0 26 ≠ 0 → decodeSyllable .x w none = .error .illbnd ∧ decodeSyllable .y w none = .error .illbnd

/-- MMUL, MACC, MMULS, MACCS and MSTRM at issue (R170, R176, R180, R181, R182, R183, R16, R15, R57). With its consume
tokens zero and its checks met a product enters the array with its zone, formats, bases, pitches, positions and select
mask, its token counts up and its flags are due at its ready cycle; with a consume token it holds the bundle back; it
traps with ILLOP, ILLBND and ALIGN by the checks in their order. -/
def Obligations.ProductIssueResult : Prop :=
  ∀ (o : MM) (m : MS) (sel : Nat) (s : State),
    let all := 2 ^ 64 - 1
    let a := s.me.sreg o.a
    let b := s.me.sreg o.b
    let k := s.me.sreg o.k
    ProductIssue (.mmul o) s (newProduct s .mmul o.tile o.zone o.prod o.apitch o.bpitch all a b k) o.cons ∧
    ProductIssue (.macc o) s (newProduct s .macc o.tile o.zone o.prod o.apitch o.bpitch all a b k) o.cons ∧
    ProductIssue (.mmuls o sel) s (newProduct s .mmuls o.tile o.zone o.prod o.apitch o.bpitch sel a b k) o.cons ∧
    ProductIssue (.maccs o sel) s (newProduct s .maccs o.tile o.zone o.prod o.apitch o.bpitch sel a b k) o.cons ∧
    ProductIssue (.mstrm m) s (newProduct s (if m.acc = true then .mstrmAcc else .mstrm) m.tile m.zone m.prod m.apitch 0 all
      (s.me.sreg m.a) (s.me.sreg 0) (s.me.sreg m.k)) m.cons

/-- MZERO, MWRV, MRDV, MRDS and MWRS (R184, R186, R187, R188, R189, R180, R15). MZERO writes zero to the zone, MWRV two
rows from a vector register, and no other element of the accumulator store changes; MRDV leaves two rows pending with
latency 4 and changes no element; MRDS and MWRS start a transfer with token and flags due; consume tokens hold the
bundle back; rows past the mapped rows (log 75) trap with ILLBND. -/
def Obligations.TileAccessResult : Prop :=
  TileWriteResult ∧ TileReadResult ∧ TileTransferStarts

/-- MSEAM and MRESUME (R326, R312, R320, R321, R322, R36). MSEAM with system privilege cuts the products of its context
and starts the writing of two slots of the bias image at the base; MRESUME issues the product that has been prepared
from a slot of that base, or nothing from an empty slot, traps with IMGSHAPE on a slot that does not fit, and holds
the bundle back while the slot is read; both trap with PRIV without privilege. -/
def Obligations.SeamResumeResult : Prop :=
  SeamResult ∧ ResumeResult

/-- The instructions of the C slot (R77, R78, R79, R80, R82, R84, R85, R86, R210, R15). CPLVL, CPBASE, CPGO, CPSTRM,
CPCAN, CPSTAT, LKSEND, LKRECV, LKRED, LKTIME and TLBINV whose checks hold put their command with its operands into the
C gusset and count their token up, and nothing else changes; a full gusset holds the bundle back; TLBINV traps with
PRIV without privilege. -/
def Obligations.ChainCommandEnters : Prop :=
  CopyCommandEnters ∧ LinkCommandEnters

/-- The instructions of the Q slot (R146, R149, R150, R151, R153, R210, R260, R15, R254, R261, R262, R263). GPUSH, SACC,
SFOP, NLBIN, NLPOS, NLREQ, NLSTAT, SPAWN, TAKE, WATCH and UNWATCH whose checks hold put their command into the Q
gusset, count their token up and take an address-queue entry if they are requests; a request finds a full address
queue as QOVF, and SPAWN, TAKE, WATCH and UNWATCH whose checks fail trap with their codes in order (ACCV at the
address of log 21). GPOP and NLPOP leave the oldest data-queue entry pending and retire it, trap with QOVF on the
wrong kind or an empty address queue, and wait for data. -/
def Obligations.QueueCommandEnters : Prop :=
  GatherCommandEnters ∧ TaskCommandEnters ∧ PopResult

/-- SETFMT, GETFLG, CLRFLG, SPFLAG and ZSET (R52, R53, R217, R223, R172, R171, R216, R222). SETFMT leaves the value
pending for FMT with latency 4 or traps; GETFLG leaves FMT and FLG pending; CLRFLG clears the flags of its mask that
did not land in this cycle; SPFLAG leaves and clears SPFAULT; ZSET writes the zone whose fields are in range (the rows
that log 75 counts) and traps with ILLBND otherwise. -/
def Obligations.FormatFlagZoneResult : Prop :=
  FormatRegisterResult ∧ FlagRegisterResult ∧ ZoneRegisterResult

/-- TIME, PERF, WAITT, DRAIN, SLACK, WFE and BAR (R218, R219, R220, R221, R222, R224, R214, R216, R228). TIME and PERF
leave the time or the counter pending; WAITT and DRAIN pass when their condition holds and hold the bundle back
otherwise; SLACK declares slack; WFE passes with the conditions that hold and waits when there is none; BAR arrives at
its barrier and waits, and passes when it has been released and nothing that a trap routine has left since is in
flight (log 117). DRAIN with the system scope also reads zero bytes on each PCIe link that carried a write and waits
for their completion. -/
def Obligations.TimeWaitResult : Prop :=
  TimeAndCounterResult ∧ WaitInstructionResult

/-- YIELD, YIELD.nw, TDONE, HALT, KEYLD, KEYLD.clr and OVL (R264, R251, R252, R309, R310, R284, R36, R216). YIELD goes on
to dispatch, YIELD.nw without a record continues with s48 zero, TDONE decrements the task counter of the current
record once, HALT ends the context, KEYLD and KEYLD.clr hold the bundle back until every controller holds the content
and then write or empty their key slot (log 58), OVL maps a segment and starts its copy, each changing nothing else;
the privileged ones trap with PRIV. That HALT empties the data queue is log 24. -/
def Obligations.ControlInstructionResult : Prop :=
  TaskControlResult ∧ SystemInstructionResult ∧ OverlayResult

/-- Results land at their schedule cycle (R11, R56, R110, R111, R125, R130, R31, R141). What is due at the schedule cycle
of a context leaves the pending results; a single due result is written under its mask to its register, where s0, c0
and p0 discard it; registers that no due result names keep their value, and the bits that a result keeps stay; FLG
gains exactly the flags of what is due. -/
def Obligations.ResultLandingRule : Prop :=
  ∀ (hw : Nat) (s : State), Answers (.resultLand hw) s (fun t =>
    let c := s.ctx hw
    let d := t.ctx hw
    let due := c.pend.val.filter (fun p => decide (p.land ≤ c.run.sched))
    let dueF := c.pend.flg.filter (fun p => decide (p.land ≤ c.run.sched))
    d.pend.val = c.pend.val.filter (fun p => decide (c.run.sched < p.land)) ∧
    d.pend.flg = c.pend.flg.filter (fun p => decide (c.run.sched < p.land)) ∧
    (∀ p, due = [p] → LandsAt c d p) ∧
    (∀ n, (∀ p ∈ due, p.dest ≠ .s n) → d.sreg n = c.sreg n) ∧
    (∀ n, (∀ p ∈ due, p.dest ≠ .c n) → n < 8 → d.creg n = c.creg n) ∧
    (∀ n, (∀ p ∈ due, p.dest ≠ .v n) → d.vreg n = c.vreg n) ∧
    (∀ n, (∀ p ∈ due, p.dest ≠ .p n) → d.preg n = c.preg n) ∧
    (∀ k, d.fmt.flg.getLsbD k = true ↔ c.fmt.flg.getLsbD k = true ∨ (∃ p ∈ due, p.flags.getLsbD k = true) ∨
      (∃ f ∈ dueF, f.flags.getLsbD k = true)) ∧
    NotLanded c d ∧ (∀ k, k ≠ hw → t.ctx k = s.ctx k) ∧ RestSame s t ∧ t.mem = s.mem)

/-- Ends of waits and the choice of the primary (R205, R207, R209, R224). A blocked context becomes ready with its slack
when the wait that it blocked on no longer holds, a context in WFE when one of its conditions holds; a core without
primary chooses the first context after the last primary that may issue. -/
def Obligations.WaitEndEvents : Prop :=
  ∀ (hw core : Nat) (s : State),
    let c := s.ctx hw
    let k := s.core core
    (∀ b xs, c.run.st = .blocked → c.run.phase = 1 → c.run.await = 1000 → s.fetch (coreOf hw) c.frame.pos = .ok b →
      s.decodeBundle hw b (c.plan b) = .ok xs →
      (c.eng.cG = [] → c.eng.qG = [] →
        Turns (.contextUnblock hw) s hw { c with run := { c.run with st := .ready, slackRem := c.run.slack } }) ∧
      (c.frame.drainWait = false → c.frame.rep = 0 → fld b.hdr 13 1 = 1 → c.eng.cG ≠ [] ∨ c.eng.qG ≠ [] →
        exec (.contextUnblock hw) s = .next s)) ∧
    (c.run.st = .blocked → (s.heldBy hw).2.contains c.run.await = false → Answers (.contextUnblock hw) s (fun t =>
      let d := (s.heldBy hw).1.ctx hw
      (t.ctx hw).run = { d.run with st := .ready, slackRem := d.run.slack } ∧
      (resultWait c.run.await = true → (t.ctx hw).pend.val = [] ∧ (t.ctx hw).pend.flg = []) ∧
      (resultWait c.run.await = false → (t.ctx hw).pend = d.pend ∧ (t.ctx hw).regs = d.regs))) ∧
    (c.run.st ≠ .blocked → exec (.contextUnblock hw) s = .next s) ∧
    (∀ o, c.run.st = .waiting → c.run.stage = .wfe → s.wfeOf hw = some o →
      (s.wfeHolds hw o.mask (c.sreg o.st) ≠ 0 →
        Turns (.wfeWake hw) s hw { c with run := { c.run with st := .ready, stage := .none } }) ∧
      (s.wfeHolds hw o.mask (c.sreg o.st) = 0 → exec (.wfeWake hw) s = .next s)) ∧
    (∀ n, k.prim = none → n < 4 → MayIssue s (afterCtx core k.lastPrim n) →
      (∀ m, m < n → ¬ MayIssue s (afterCtx core k.lastPrim m)) →
      let p := afterCtx core k.lastPrim n
      Answers (.primarySwitch core) s (fun t =>
        t.core core = { k with prim := some p } ∧
        t.ctx p = { s.ctx p with perf := { (s.ctx p).perf with prim := (s.ctx p).perf.prim + 1 } } ∧
        (∀ x, x ≠ p → t.ctx x = s.ctx x) ∧ t.mem = s.mem ∧ t.mod = s.mod ∧ t.front = s.front)) ∧
    (k.prim ≠ none ∨ (∀ n, n < 4 → ¬ MayIssue s (afterCtx core k.lastPrim n)) → exec (.primarySwitch core) s = .next s)

/-- Issue of a bundle without syllables (R20, R28, R192, R193, R206, R11). A bundle in which no syllable issues advances
the schedule counter by one, moves the frame by repetition, length and branch state, lands what is due, and changes
nothing else. -/
def Obligations.BundleIssueResult : Prop :=
  ∀ (hw : Nat) (s : State) (b : Bundle), NoSyllable s hw b → Answers (.bundleIssue hw) s (fun t =>
    let c := s.ctx hw
    let d := t.ctx hw
    d.run.sched = c.run.sched + 1 ∧ d.run.st = c.run.st ∧ d.run.phase = 1 ∧ d.frame = nextFrame c.frame b ∧
    d.pend.val = c.pend.val.filter (fun p => decide (c.run.sched + 1 < p.land)) ∧
    (c.pend.val = [] → d.regs = c.regs) ∧ d.ctl = c.ctl ∧ d.eng = c.eng ∧ d.perf = c.perf ∧
    (∀ k, k ≠ hw → t.ctx k = s.ctx k) ∧ t.mem = s.mem ∧ t.mod = s.mod ∧ t.front = s.front ∧ t.clusters = s.clusters ∧
    t.cores = s.cores)

/-- Asynchronous traps, IFETCH and HEMOVR in place of a bundle (R289, R290, R291, R292, R293, R32, R212). A pending
asynchronous trap, an unmapped page of the bundle and an overdue hem point are taken as traps before the bundle, with
their causes, addresses and TINFO, and TBUNDLE naming the bundle. -/
def Obligations.AsynchronousTrapEntry : Prop :=
  ∀ (hw : Nat) (s : State),
    let c := s.ctx hw
    (∀ a, c.run.trap = false → c.dbg.trace = 0 → c.async = [a] → a.major = false → a.code < 32 →
      Answers (.trapEntry hw) s (fun t =>
        Entered { c with async := [] } (t.ctx hw) (BitVec.ofNat 64 (a.code + (if a.esc = true then 32 else 0) + 128)) a.addr
          (BitVec.ofNat 64 (a.detail % 256 * 2 ^ 24 + a.engine % 16 * 2 ^ 20 + a.level % 16 * 2 ^ 16 + c.frame.rep % 32 * 2 ^ 11 +
            a.slot % 16 * 2 ^ 4)) c.frame.pos ∧
        (∀ k, k ≠ hw → t.ctx k = s.ctx k) ∧ t.mem = s.mem)) ∧
    (∀ page, c.run.trap = false → c.dbg.trace = 0 → c.async = [] → s.bundleAt hw c.frame.pos = .trap page →
      Answers (.trapEntry hw) s (fun t =>
        Entered c (t.ctx hw) 6 (BitVec.ofNat 64 page) (syncInfo 0 c.frame.rep 15) c.frame.pos ∧
        (∀ k, k ≠ hw → t.ctx k = s.ctx k) ∧ t.mem = s.mem)) ∧
    (c.run.st = .ready → c.run.trap = false → c.dbg.trace = 0 → c.ctl.hembound ≠ 0 →
      c.run.h + c.ctl.hembound.toNat + 1 ≤ c.run.sched → ¬ HemPoint s hw → Answers (.hemovr hw) s (fun t =>
        Entered c (t.ctx hw) 14 0 (syncInfo 0 c.frame.rep 15) c.frame.pos ∧
        (∀ k, k ≠ hw → t.ctx k = s.ctx k) ∧ t.mem = s.mem)) ∧
    (c.run.trap = true ∨ c.ctl.hembound = 0 ∨ c.run.sched ≤ c.run.h + c.ctl.hembound.toNat → exec (.hemovr hw) s = .next s)

/-- Preemption and budget at a hem point, and dispatch of a record (R211, R247, R252, R253, R304, R309, R207). At a hem
point a preemption starts a save, and a budget overrun does so when the record has run past its budget; a record that
a context has found starts at its entry point with its words in s48 to s55, and a record of kind 3 ends the context.
That flags of products may be pending at a hem point is log 68, that an ended context has an empty data queue log 24. -/
def Obligations.HemRecordEvents : Prop :=
  HemPointEvents ∧ RecordDispatch

/-- Debug stops, run and step (R336, R337, R338, R339). A stop request or a set debug bit stops the context before its
bundle and holds the clock of its core; run and step release it; a step ends when its cycles are used up. Which cycles
count is log 78; without accepted firmware the debug window is shut (log 106). -/
def Obligations.DebugControl : Prop :=
  ∀ (hw : Nat) (s : State),
    let c := s.ctx hw
    (s.mod.trust.fwOk = false → exec (.dbgRun hw) s = .next s ∧ exec (.dbgStep hw) s = .next s ∧ exec (.dbgStopreq hw) s = .next s) ∧
    (s.mod.trust.fwOk = true → c.dbg.st ≠ 0 → Answers (.dbgRun hw) s (fun t => DebugGoes s t hw c.dbg.step) ∧
      Answers (.dbgStep hw) s (fun t => DebugGoes s t hw (some (c.run.sched, 0))) ∧ exec (.dbgStopreq hw) s = .next s) ∧
    (s.mod.trust.fwOk = true → c.dbg.st = 0 → Turns (.dbgStopreq hw) s hw { c with dbg := { c.dbg with stopreq := true } } ∧
      exec (.dbgRun hw) s = .next s ∧ exec (.dbgStep hw) s = .next s) ∧
    (c.dbg.trace = 0 → c.dbg.st = 0 → c.run.st = .ready →
      (c.dbg.stopreq = true → Answers (.debugBreak hw) s (fun t => DebugStops s t hw 1 1)) ∧
      (∀ hdr, c.dbg.stopreq = false → c.dbg.skip ≠ some c.frame.pos → c.dbg.bken = true → c.frame.rep = 0 →
        s.headAt hw c.frame.pos = .ok hdr → fld hdr 15 1 = 1 →
        Answers (.debugBreak hw) s (fun t => DebugStops s t hw 1 0)) ∧
      (c.dbg.stopreq = false → (c.dbg.bken = false ∨ c.dbg.skip = some c.frame.pos) → exec (.debugBreak hw) s = .next s)) ∧
    (∀ used, c.dbg.trace = 0 → c.dbg.step = some (c.run.sched, used) →
      (65536 ≤ used → Answers (.stepLimit hw) s (fun t => DebugStops s t hw 2 c.dbg.why)) ∧
      (used < 65536 → exec (.stepLimit hw) s = .next s))

/-- Commits of products, stream slices, and rows of transfers (R59, R174, R176, R178, R182, R183, R185, R188, R189). In
each array cycle exactly the cells of a product whose sum is complete are committed, of a product that a return has
restored also those that are due from before (log 51), with the INT8 sums of R59; a streamed product takes its next
slice in its cycle; MRDS and MWRS of FP32 move one row each cycle and complete their token at the last. -/
def Obligations.ArrayEvents : Prop :=
  ProductEvents ∧ TransferRowMoves

/-- The end of a segment copy, and the release of a barrier (R32, R213, R214, R283, R284). A segment copy that ends leaves
the bytes of its source in IMEM and the segment resident; a barrier with all members releases them, each with a
checkpoint before its BAR (what it keeps of the engine side is log 29) and an empty journal, and otherwise nothing
happens. -/
def Obligations.SegmentBarrierEvents : Prop :=
  SegmentCopyEnds ∧ BarrierReleaseResult

/-- Page walks, minor faults and the lining (R64, R65, R67, R68, R299, R300, R301, R302). A walk that finds a leaf fills
the TLB, and the entries that it reads are charged to the context that waits for it (log 53); a minor fault holds the
clock of its core; the lining starts with the registers of R301, runs one bundle a step, and ends the fault with its
verdict. -/
def Obligations.TranslationLiningEvents : Prop :=
  TranslationEvents ∧ LiningEvents

/-- Major faults of engines (R75, R183, R291, R293, R303, R253). A major fault of a preload and of a copy is recorded as
an asynchronous trap of its context with cause, address, engine and level, a preload of a dispatch wakes its context,
a stopped copy emits nothing, and a fault held for a streamed product is delivered when its slice is due. -/
def Obligations.MajorFaultEvents : Prop :=
  ∀ (s : State),
    (∀ hw k d va code level n, (s.ctx hw).run.st = .waiting → (s.ctx hw).run.stage = .preload k → (s.ctx hw).run.curRec = some d →
      (s.ctx hw).run.trap = false → (∀ a ∈ (s.ctx hw).async, a.engine ≠ 8) →
      s.translate (clusterOf hw) 8 (s.ctx hw).ctl.asid.toNat false 2 (fld d 384 64 + 64 * k) 64 = .error (.major va code level) →
      Answers (.engineMajorFault (.preload hw (n + 1))) s (fun t =>
        EnergyOnly { s.ctx hw with
          async := (s.ctx hw).async ++ [engineTrap code va 0 8 level]
          run := { (s.ctx hw).run with st := .ready } } (t.ctx hw) ∧
        (∀ k, k ≠ hw → EnergyOnly (s.ctx k) (t.ctx k)) ∧ RestSame s t ∧ t.mem = s.mem)) ∧
    (∀ cl n nest cmd va code level, Emits s cl n nest cmd → s.slotPieces cl n (s.slot cl n) nest cmd = .error (.major va code level) →
      (s.ctx (s.slot cl n).owner).run.st ≠ .inactive →
      Answers (.engineMajorFault (.copyRead cl n 0 0 0)) s (fun t =>
        let q := s.slot cl n
        t.slot cl n = { q with st := 2, fault := true, walk := false } ∧
        (t.ctx q.owner).async = (s.ctx q.owner).async ++ [engineTrap code va q.handle 1 level] ∧
        (t.ctx q.owner).regs = (s.ctx q.owner).regs ∧ (∀ k, k ≠ q.owner → EnergyOnly (s.ctx k) (t.ctx k)) ∧ t.mem = s.mem ∧ t.cores = s.cores) ∧
      ((s.slot cl n).walk = true → exec (.elementaryCopyEmit cl n) s = .next s)) ∧
    (∀ core p n f more rest, (s.core core).prods = [p] → p.cut = none → p.spec.kind.streams = true →
      p.issue + nextSlice p + 1 ≤ (s.core core).arr → nextSlice p < p.spec.s → (s.ctx p.hw).run.st ≠ .inactive →
      s.faultSlots p.hw = (n, s.slot (clusterOf p.hw) n) :: rest → (s.slot (clusterOf p.hw) n).ferr = f :: more →
      Answers (.streamFaultDeliver core) s (fun t =>
        (t.slot (clusterOf p.hw) n).ferr = more ∧
        ((s.ctx p.hw).run.trap = true → (s.ctx p.hw).async = [] → t.mem = s.mem ∧
          (t.ctx p.hw).async =
            [⟨f.code, BitVec.ofNat 64 f.addr, (s.slot (clusterOf p.hw) n).handle, 6, f.level, 15, true, f.esc⟩]) ∧
        ((s.ctx p.hw).run.trap = false → (s.ctx p.hw).dbg.trace = 0 → f.code < 32 →
          t.mem = s.mem ∧ (t.ctx p.hw).run.trap = true ∧
          (t.ctx p.hw).ctl.tcause = BitVec.ofNat 64 (f.code + (if f.esc = true then 32 else 0) + 64 + 128) ∧
          (t.ctx p.hw).ctl.taddr = BitVec.ofNat 64 f.addr ∧ (t.ctx p.hw).ctl.tbundle = BitVec.ofNat 64 (s.ctx p.hw).frame.pos ∧
          (t.ctx p.hw).ctl.tcycle = BitVec.ofNat 64 (s.ctx p.hw).run.sched ∧
          (t.ctx p.hw).frame.pos = (s.ctx p.hw).ctl.tvec.toNat % 2 ^ 32)))

/-- Completion of engine commands and emission of copies (R72, R73, R74, R78, R89, R152, R155, R15). An SFOP on the
cluster space replaces its operand by the new value and keeps the old one as its result; a copy within the cluster
space reads and writes 16 bytes at a time and no other byte; a CPLVL writes its level and completes; a running slot
emits its next copy with the addresses of its indices. A byte that a core port writes in the same real cycle keeps the
value of the core port (log 37). -/
def Obligations.CopyEngineEvents : Prop :=
  EngineCommandEvents ∧ CopyEmission

/-- Commands leave their gusset, and data enters the data queue (R15, R86, R146, R147, R153, R210). An engine takes the
oldest command of a gusset; a command that completes at once has its effect and counts its token down; LKTIME
completes at its tick; the oldest request with data enters the data queue in order. -/
def Obligations.CommandQueueEvents : Prop :=
  CommandTaken ∧ DataQueueArrival

/-- Watch windows, deferred stitches, and stream contexts (R105, R106, R107, R248, R256, R257, R280). A held record enters
its queue when there is room; watch counts restart at each window of 1,024 cycles; a stream context expires into the
order of eviction, leaves when its lines have moved, and is orphaned when its home fails. -/
def Obligations.WatchStreamEvents : Prop :=
  WatchEvents ∧ StreamContextEvents

/-- Link windows and received flits (R81, R82, R83, R84). A window begins at its tick, not before the tick has come, with
its tokens zero and is missed otherwise; the ticks of a receive that passed without a flit count as misses (log 55,
log 96); a flit of a begun LKRECV window is written to the cluster space at its place; an erroneous flit of it counts
as missed and writes nothing. -/
def Obligations.LinkEvents : Prop :=
  ∀ (l : Nat) (w : Window) (c : Cmd) (s : State), (s.link l).recv = [w] → (s.link l).send = [] → w.out = false →
    s.cmdOfId w.hw w.cmd = some c → (∀ k, k < 16 → ∀ x ∈ (s.link k).send, x.hw ≠ w.hw ∨ x.cmd ≠ w.cmd) →
    let now := s.mod.time.link * 25 / (16 * 6486480) % 2 ^ 64
    (now < (s.link l).pos → exec (.linkWindowStart l false) s = .next s) ∧
    (w.begun = false → w.start = (s.link l).pos → (s.link l).pos ≤ now → (s.ctx w.hw).tokensZero c.cons = true →
      Answers (.linkWindowStart l false) s (fun t =>
        t.link l = { s.link l with recv := [{ w with begun := true, miss := false }] } ∧ Begins s t w ∧ t.mem = s.mem)) ∧
    (w.begun = false → w.start < (s.link l).pos → (s.link l).pos ≤ now → (s.ctx w.hw).run.launch = none →
      Answers (.linkWindowStart l false) s (fun t =>
        t.link l = { s.link l with
          recv := [{ w with begun := true, miss := true }]
          miss := min ((s.link l).miss + (1 + lostTicks (s.link l) w)) 0xFFFFFFFF } ∧
        Begins s t w ∧ t.mem = s.mem)) ∧
    (∀ link a n tick v d, w.begun = true → w.miss = false → c.op = .lkrecv link a n tick → (s.link l).up = true →
      w.len = (n + 127) / 128 → a + n ≤ 0xC000000 → w.start ≤ (s.link l).pos → (s.link l).pos + 1 < w.start + w.len →
      (s.link l).pos ≤ now → s.mem.spad.wf = true → NoWatch s →
      0 < v →
      let k := (s.link l).pos - w.start
      Answers (.linkFlitReceive l (s.link l).pos ⟨v, d⟩ false) s (fun t =>
        EngineHas s t (clusterOf w.hw * 0xC000000 + a + 128 * k) (min v (min 128 (n - 128 * k))) d ∧
        (t.link l).pos = (s.link l).pos + 1 ∧ (∃ g, (t.link l).recv = [{ w with done := w.done + 1, trig := g }]) ∧
        (t.link l).miss = (if v < min 128 (n - 128 * k) then min ((s.link l).miss + 1) 0xFFFFFFFF else (s.link l).miss))) ∧
    (∀ v d, w.begun = true → w.miss = false → w.start ≤ (s.link l).pos → (s.link l).pos + 1 < w.start + w.len →
      (s.link l).pos ≤ now → (s.ctx w.hw).run.launch = none →
      Answers (.linkFlitReceive l (s.link l).pos ⟨v, d⟩ true) s (fun t =>
        t.link l = { s.link l with
          pos := (s.link l).pos + 1
          miss := min ((s.link l).miss + 1) 0xFFFFFFFF
          due := (s.link l).due.filter (fun f => decide ((s.link l).pos < f.1))
          heard := (s.link l).pos :: (s.link l).heard } ∧ t.mem = s.mem ∧ t.ctxs = s.ctxs))

/-- Command packets: NOP, PRED, LOOP, INDIR, FENCE, AT, EVENT and packet errors (R270, R273, R274, R275, R276, R277, R279,
R280). A packet that stands next begins, with QHEAD moved on, has its effect, posts its event record if its event bit
is set, and changes nothing else; a packet in error records its code and completes. -/
def Obligations.PacketResult : Prop :=
  PacketEffects ∧ PacketErrors

/-- SIGNAL, WAITSIG and AT packets (R275, R276, R278, R279, R285). SIGNAL writes or adds its 8-byte value at its host or
device place and no other byte changes; WAITSIG completes when its test holds on the word and records TIMEOUT at its
limit; AT reads and checks its packet ahead and completes at its time. -/
def Obligations.SignalWaitPacketResult : Prop :=
  SignalPacketResult ∧ WaitPacketResult

/-- LAUNCH and its completion (R213, R281, R282, R283, R288, R363). A LAUNCH of a free, well-formed map starts every
context of the map with its arguments, control registers, privilege and entry point, and no other context; an ended
context of a kernel that still runs whose place it takes goes on under another number (log 105); otherwise it records
PLACE (what a well-formed map is, is log 25, what a free one is, log 76). When all contexts have ended it completes
and releases what it held. -/
def Obligations.LaunchResult : Prop :=
  LaunchPacketResult ∧ LaunchCompletes

/-- TASK and STREAM packets (R104, R105, R108, R247, R248, R275, R286). TASK pushes its record with the fields of R247
set; STREAM pins, touches and evicts a stream context or records an error. -/
def Obligations.TaskStreamPacketResult : Prop :=
  TaskPacketResult ∧ StreamPacketResult

/-- Which writes QTAIL takes (R272). A write of v to QTAIL with QTAIL < v and v <= QHEAD + 2^lgsize makes it v, whatever
order valid writes arrive in the largest remains; a smaller v changes nothing; a larger v changes neither QTAIL nor
QHEAD and records queue error 11 (TAILRANGE); in a module without accepted firmware, which has no such window (R363),
a write changes nothing. -/
def Obligations.TailWriteRule : Prop :=
  ∀ (q v : Nat) (s : State),
    let u := s.queue q
    let most (u : Queue) := u.head + 2 ^ fld u.qbase.toNat 1 5
    (v ≤ u.tail ∨ s.mod.trust.fwOk = false → exec (.qtailWrite q v) s = .next s) ∧
    (s.mod.trust.fwOk = true → u.tail < v → v ≤ most u → Answers (.qtailWrite q v) s (fun t => (t.queue q).tail = v ∧
      ∀ w, u.tail < w → w ≤ most (t.queue q) → Answers (.qtailWrite q w) t (fun t' => (t'.queue q).tail = max v w))) ∧
    (s.mod.trust.fwOk = true → u.tail < v → most u < v → Answers (.qtailWrite q v) s (fun t =>
      (t.queue q).tail = u.tail ∧ (t.queue q).head = u.head ∧ (t.queue q).count = min (u.count + 1) 0xFFFF ∧
      (t.queue q).first = if u.count = 0 then 11 else u.first))

/-- Writes of queue registers and of the front-end registers (R270, R271, R272, R279, R280, R343, R356). QTAIL, QCTL.en,
QSTAT, QBASE, EVHEAD, TRHEAD, EVBASE and PWRLIM take the writes that their rules admit and nothing else changes. The
packet number of TAILRANGE is log 63, register layout and access width log 30, the treatment of values out of range
log 73, that these windows are shut without accepted firmware log 106. -/
def Obligations.QueueHostRegisterWrites : Prop :=
  QueueRegisterWrites ∧ HostRegisterWrites

/-- Host accesses to scratchpads, lining stores, the mailbox and the BARs (R101, R102, R103, R300, R345, R349, R351, R364,
R363). A host write enters the ingress buffer of an active core and an idle scratchpad at once; a host read returns
the bytes as the waiting ingress entries leave them; with no firmware that verifies the windows are shut (log 106); a
lining store takes writes when its lining rests and holds them otherwise; an attestation request answers a report or
status 2 (the leaves are log 72); an AtomicOp to a BAR is refused. -/
def Obligations.HostMemoryAccesses : Prop :=
  ∀ (off len data core bar nonce : Nat) (s : State),
    (s.mod.trust.fwOk = true → 0 < len → off % 64 + len ≤ 64 → data < 2 ^ (8 * len) → off + len ≤ 0x60000000 →
      let k := off / 0x400000
      ((∃ h, h < 4 ∧ (s.ctx (4 * k + h)).run.st ≠ .inactive) → Answers (.ingressWrite off len data) s (fun t =>
        t.core k = { s.core k with ingress := (s.core k).ingress ++
          [⟨off / 64 % 0x10000, data * 2 ^ (8 * (off % 64)), (2 ^ len - 1) * 2 ^ (off % 64)⟩] } ∧
        (∀ x, x ≠ k → t.core x = s.core x) ∧ t.ctxs = s.ctxs ∧ t.mem = s.mem)) ∧
      ((∀ h, h < 4 → (s.ctx (4 * k + h)).run.st = .inactive) → (s.core k).ingress = [] → s.mem.spad.wf = true → NoWatch s →
        Answers (.ingressWrite off len data) s (fun t =>
          SpadHas s t off len data ∧ (t.core k).ingress = [] ∧ (∀ x, (t.ctx x).regs = (s.ctx x).regs) ∧ t.mem.hbm = s.mem.hbm))) ∧
    (s.mod.trust.fwOk = true → off + len ≤ 0x60000000 → Answers (.hostScratchpadRead off len) s (fun t =>
      t.front.host.data = (List.range len).map (fun n => mergedByte s (off + n)) ∧ t.front.host.ur = false ∧ t.mem = s.mem ∧
      t.ctxs = s.ctxs ∧ t.cores = s.cores)) ∧
    (s.mod.trust.fwOk = false → exec (.ingressWrite off len data) s = .next s ∧
      exec (.liningStoreWrite core off len data) s = .next s ∧ exec (.accountingClear core) s = .next s ∧
      Answers (.hostScratchpadRead off len) s (fun t => t.front.host.data = (List.range len).map (fun _ => 0) ∧ t.mem = s.mem)) ∧
    (s.mod.trust.fwOk = true → (s.auxOf core).lining.run = false → s.mem.lining.wf = true → Answers (.liningStoreWrite core off len data) s (fun t =>
      (∀ n, n < len → t.mem.lining.read (core * 4096 + off + n) = BitVec.ofNat 8 (data / 256 ^ n)) ∧
      (∀ b, b < core * 4096 + off ∨ core * 4096 + off + len ≤ b → t.mem.lining.read b = s.mem.lining.read b) ∧
      t.ctxs = s.ctxs ∧ t.mem.hbm = s.mem.hbm ∧ t.mem.spad = s.mem.spad)) ∧
    (s.mod.trust.fwOk = true → (s.auxOf core).lining.run = true → Answers (.liningStoreWrite core off len data) s (fun t =>
      t.mem = s.mem ∧ (t.auxOf core).lining.writes = (s.auxOf core).lining.writes ++
        (List.range len).map (fun n => (core * 4096 + off + n, BitVec.ofNat 8 (data / 256 ^ n))))) ∧
    Answers (.attestRequest nonce) s (fun t =>
      t.ctxs = s.ctxs ∧ t.mem = s.mem ∧ t.cores = s.cores ∧
      ((s.mod.trust.lmsUsed < Config.lmsLeaves ∧ t.mod.trust.mbStatus = Config.mbOk ∧
          t.mod.trust.lmsUsed = s.mod.trust.lmsUsed + 1 ∧
          ∃ r, t.mod.trust.mbReport = some r ∧ r.nonce = nonce % 2 ^ 256 ∧ r.linings.length = 384) ∨
       (Config.lmsLeaves ≤ s.mod.trust.lmsUsed ∧ t.mod.trust.mbStatus = 2 ∧ t.mod.trust.mbReport = none ∧
          t.mod.trust.lmsUsed = s.mod.trust.lmsUsed))) ∧
    (s.mod.trust.fwOk = true → Answers (.accountingClear core) s (fun t =>
      t.auxOf core = { s.auxOf core with acctClear := true } ∧ (∀ n, n ≠ core → t.auxOf n = s.auxOf n) ∧ t.ctxs = s.ctxs ∧
      t.mem = s.mem)) ∧
    Answers (.hostAtomicToBar bar off) s (fun t =>
      t.front.host = ⟨[], true⟩ ∧ t.ctxs = s.ctxs ∧ t.mem = s.mem ∧ t.mod = s.mod ∧ t.cores = s.cores)

/-- Module reset, full service, time, power and errors (R4, R354, R356, R357, R358, R359, R360, R361). A module reset
returns contexts, cores, queues, launches, keys and time to their reset values; full service takes effect once and
posts its event; time follows its source; the clock level moves by one step within its range; a correctable error
counts; an uncorrectable one reaches the members of the team of its reader, rolls them back to their checkpoint, or
enters the error log; the context whose next bundle makes the read takes it after that bundle (log 31); and what is
read there is the stored bits uncorrected (log 31). What a reset keeps of host memory is log 80, the zero registers of
its contexts log 8. -/
def Obligations.ModuleErrorEvents : Prop :=
  ModuleEvents ∧ UncorrectableErrors

/-- Every well-formed syllable decodes from its own encoding (R21, R22, R24, R33, R34, R94, R117, R151, R180, R196, R216,
R259). For every well-formed instruction that a slot holds, decoding the encoded syllable with its literal or select
extension in that slot gives the instruction back, whatever its operands. -/
def Obligations.DecodeEncodeAgree : Prop :=
  ∀ (i : Instr) (sl : Slot), i.wf = true → i.slot? = some sl → decodeSyllable sl (encode i).w (encode i).x = .ok i

/-- Every step keeps the canonical form of memory (R5, R66, R88, R227). If the memory of a state is in canonical form
(rising addresses, no entry equal to what an unlisted address reads as) and a step answers a next state, then the
memory of that state is in canonical form. The form is the model's own (log 2). -/
def Obligations.StepKeepsMemory : Prop :=
  ∀ s t : State, s.mem.wf = true → step s = .next t → t.mem.wf = true

/-- Memory at reset (R66, R88). The memory of the reset state is in canonical form and every byte reads as the blank byte,
which is the model's choice (log 2). -/
def Obligations.ResetMemoryCanonical : Prop :=
  State.reset.mem.wf = true ∧ ∀ a, State.reset.mem.hbm.read a = blank ∧ State.reset.mem.host.read a = blank ∧
    State.reset.mem.spad.read a = blank ∧ State.reset.mem.imem.read a = blank ∧ State.reset.mem.lining.read a = blank

/-- The values that the spec gives for reset (R4, R52, R105, R165, R205, R222, R270, R346, R354, R356, R357). At reset
every context is inactive with FMT and FLG zero, the module is in reduced service at 8/16 of its clock with its cycles
and time at zero and no time source, PWRLIM is 1,500, every stream entry, watch entry and queue is free, the
neighbour-list grid is invalid and stale, weights are zero and nothing is launched. -/
def Obligations.ResetValues : Prop :=
  let m := State.reset.mod
  (∀ hw, (State.reset.ctx hw).run.st = .inactive ∧ (State.reset.ctx hw).fmt.fmt = 0 ∧ (State.reset.ctx hw).fmt.flg = 0) ∧
  m.full = false ∧ m.hbmFull = false ∧ m.level = 8 ∧ m.cycles = 0 ∧ m.time.now = 0 ∧ m.time.src = 0 ∧ m.trust.pwrlim = 1500 ∧
  (∀ cl e, (State.reset.sctOf cl e).st = 0) ∧ (∀ cl, (State.reset.cluster cl).watch = []) ∧
  (∀ cl, (State.reset.cluster cl).nl.valid = false ∧ (State.reset.cluster cl).nl.stale = true ∧ (State.reset.cluster cl).nl.epoch = 0) ∧
  (∀ q, (State.reset.queue q).en = false ∧ (State.reset.queue q).head = 0 ∧ (State.reset.queue q).tail = 0) ∧
  (∀ k, (State.reset.auxOf k).weights = []) ∧ State.reset.front.launches = []

/-- A step runs the decoded instruction (R8, R17, R18, R32, R33, R206, R207, R294, R373). A step runs the next event of
the agenda as exec of it, or a real cycle; an engine's access placed beside a real cycle is noted for that cycle and
has there the effect of its exec where no core port has written (log 37); within a cycle a syllable that decodes from
the bytes of the fetched bundle is among what issues, a lone syllable that waits for nothing runs as exec of it with
the cursor at its slot, and the bundle then ends its issue. The agenda and the cursor are the model's own (log 3, log
4). -/
def Obligations.StepRunsDecoded : Prop :=
  ∀ (s : State),
    (∀ i r, s.agenda = .ev i :: r → i.wf = true → ownCycle i = false →
      step s = State.indivisible { s with agenda := r } (exec i) ∧
      (s.earlies = [] → step s = exec i { s with agenda := r })) ∧
    (∀ i r, s.agenda = .within i :: r → i.wf = true → sharesCycle i = true →
      step s = .next { s with agenda := r, shared := s.shared ++ [i] }) ∧
    (∀ i t, sharesCycle i = true → s.oldBytes = [] → exec i s = .next t → s.sharedDo i = t) ∧
    (∀ t, tick s = .next t → t.oldBytes = [] ∧ t.shared = []) ∧
    (∀ r, s.agenda = .tick :: r ∨ s.agenda = [] ∧ r = [] → s.earlies = [] → step s = tick { s with agenda := r }) ∧
    (∀ i, i.slot?.isSome = true → runSyllable i s = exec i s) ∧
    (∀ hw b k w x i xs, (s.ctx hw).frame.rep = 0 → k < 10 → SMap.get? b.syls k = some (w, x) →
      decodeSyllable (slotOf k) w x = .ok i → s.decodeBundle hw b ((s.ctx hw).plan b) = .ok xs → ⟨k, i, 0⟩ ∈ xs) ∧
    (∀ hw b x s1 t, s.bundleAt hw (s.ctx hw).frame.pos = .ok b → s.decodeBundle hw b ((s.ctx hw).plan b) = .ok [x] →
      x.i.slot?.isSome = true → isPost x.i = false → s.meetWaits hw b false [x] = (s1, none) →
      s1.slotChks hw b (s1.ctx hw).frame.rep false [x] = [] → s1.bankConfs hw [] [x] = [] → (s1.ctx hw).dbg.trace = 0 →
      exec x.i (((s1.charge hw 0 1).unseat.barMarks hw [x]).seat hw b (s1.ctx hw).frame.rep false true x) = .next t → (t.ctx hw).dbg.trace = 0 →
      (s.attempt hw false [] []).out = .issued ∧
      (s.attempt hw false [] []).s = (t.endIssue hw (s1.ctx hw).frame b ((s.ctx hw).plan b) [x] false).unseat) ∧
    (∀ core p, (s.core core).sw = false → (s.core core).prim = some p → (s.ctx p).canIssue s.mod.cycles = true →
      (s.turn p false [] []).out = .window → s.issueStage core = (s.turn p false [] []).s) ∧
    (∀ hw, (s.ctx hw).asyncDue = none → ((s.ctx hw).hemLate && !s.atHem hw) = false →
      ((s.ctx hw).budgetSpent && s.atHem hw) = false → ((s.hemMark hw).stopDue hw) = none →
      s.turn hw false [] [] = (s.hemMark hw).attempt hw false [] [])

/-- Words written out from the spec's encodings decode to their instructions (R33, R21, R24, R123, R180, R151, R196,
R216). Eighteen worked syllables of the spec, of every slot, decode to the instructions that the spec gives them; the
zero syllable is ILLOP and an IDLE with another bit ILLBND. -/
def Obligations.DecodeWords : Prop :=
  decodeSyllable .b 0x145FFFFC none = .ok (.brGtz ⟨1, false, -4⟩) ∧
  decodeSyllable .b 0x21C00006 none = .ok (.brc ⟨3, true, false, 6⟩) ∧
  decodeSyllable .b 0x45002400 none = .ok (.calli ⟨4, 9, false⟩) ∧
  decodeSyllable .x 0x24051400 (some 100000) = .ok (.addi ⟨0, 5, 5, .lit 100000⟩) ∧
  decodeSyllable .y 0xA40A28E5 none = .ok (.bfx ⟨0, 10, 10, 14, 6⟩) ∧
  decodeSyllable .x 0xB00A0008 none = .ok (.mfc ⟨0, 10, 8⟩) ∧
  decodeSyllable .v 0x0100100000800120 none = .ok (.vadd ⟨0, .w, 8, 0, 4, 1⟩ false) ∧
  decodeSyllable .w 0x1710060200A00102 none = .ok (.vcmp ⟨2, .w, 3, 4, 5, 0⟩ .lt) ∧
  decodeSyllable .v 0x2928140080000508 none = .ok (.vcvt ⟨5, .f, 10, 1, 0⟩ .bf false) ∧
  decodeSyllable .l 0x0200000800000020 none = .ok (.vst ⟨0, 0, 1, 0, 32⟩) ∧
  decodeSyllable .l 0x0A00E21000040004 none = .ok (.fill ⟨0, 7, 1, 2, 32, 4⟩) ∧
  decodeSyllable .m 0x01028B3020000000 none = .ok (.mmul ⟨0, 10, 11, 12, 0, 2, 0, 0, 0, 0⟩) ∧
  decodeSyllable .m 0x1105400060000000 none = .ok (.mresume ⟨21, 6, 0⟩) ∧
  decodeSyllable .c 0x0200420C80200000 none = .ok (.cpbase ⟨0, 1, 2, 3, 1, 0, false, true⟩) ∧
  decodeSyllable .q 0x0C032122 none = .ok (.sacc ⟨0, 50, 4, .f, false, 2⟩) ∧
  decodeSyllable .q 0x100D2831 none = .ok (.sfop ⟨0, 13, 10, false, false, 3, .swap⟩) ∧
  decodeSyllable .f 0x14064040 none = .ok (.bar ⟨0, 100, 4⟩) ∧
  decodeSyllable .f 0x3C050001 none = .ok (.wfe ⟨0, 5, 0, 1⟩) ∧
  decodeSyllable .x 0 none = .error .illop ∧ decodeSyllable .v 0xFF00000000000001 none = .error .illbnd
end

