-- ==== Sys2Proof/Laws/Elements.lean ====
section
/-!
SUPPORT. The elements of vector registers: what `assemble`, `mapElems`, `elemMask` and `groupBits` hold, element by element
and bit by bit.
-/

namespace Sys2Proof.Machine

theorem assemble_lt (w : Nat) (xs : List Nat) (h : ∀ x ∈ xs, x < 2 ^ (8 * w)) : assemble w xs < 2 ^ (8 * w * xs.length) := by
  induction xs with
  | nil => simp [assemble]
  | cons x r ih =>
    have h1 := h x (by simp)
    have h2 := ih (fun y hy => h y (by simp [hy]))
    have e : 8 * w * (x :: r).length = 8 * w + 8 * w * r.length := by
      rw [List.length_cons, Nat.mul_succ, Nat.add_comm]
    rw [e, Nat.pow_add]
    show x + 2 ^ (8 * w) * assemble w r < _
    calc x + 2 ^ (8 * w) * assemble w r < 2 ^ (8 * w) + 2 ^ (8 * w) * assemble w r := by omega
      _ = 2 ^ (8 * w) * (assemble w r + 1) := by ring
      _ ≤ 2 ^ (8 * w) * 2 ^ (8 * w * r.length) := Nat.mul_le_mul_left _ h2

/-- Element `e` of assembled elements is the one at place `e`. -/
theorem elem_assemble (w : Nat) (xs : List Nat) (h : ∀ x ∈ xs, x < 2 ^ (8 * w)) (e : Nat) (he : e < xs.length) :
    elem (assemble w xs) w e = xs.getD e 0 := by
  induction xs generalizing e with
  | nil => simp at he
  | cons x r ih =>
    have h1 := h x (by simp)
    have hp : 0 < 2 ^ (8 * w) := Nat.two_pow_pos _
    cases e with
    | zero => simp [elem, assemble, Nat.mod_eq_of_lt h1]
    | succ e =>
      have := ih (fun y hy => h y (by simp [hy])) e (by simpa using he)
      unfold elem at this ⊢
      have e1 : 8 * w * (e + 1) = 8 * w + 8 * w * e := by ring
      rw [e1, Nat.pow_add, ← Nat.div_div_eq_div_mul]
      have : (x + 2 ^ (8 * w) * assemble w r) / 2 ^ (8 * w) = assemble w r := by
        rw [Nat.add_mul_div_left _ _ hp, Nat.div_eq_of_lt h1, Nat.zero_add]
      show (x + 2 ^ (8 * w) * assemble w r) / 2 ^ (8 * w) / 2 ^ (8 * w * e) % 2 ^ (8 * w) = _
      rw [this]
      simpa using ‹assemble w r / 2 ^ (8 * w * e) % 2 ^ (8 * w) = r.getD e 0›

/-- The same of a register that holds them. -/
theorem elem_ofNat_assemble (w n : Nat) (g : Nat → Nat) (hg : ∀ e, e < n → g e < 2 ^ (8 * w)) (hn : w * n ≤ 512) (e : Nat)
    (he : e < n) : elem (BitVec.ofNat 4096 (assemble w ((List.range n).map g))).toNat w e = g e := by
  have hx : ∀ x ∈ (List.range n).map g, x < 2 ^ (8 * w) := by
    intro x hx
    obtain ⟨k, hk, rfl⟩ := List.mem_map.mp hx
    exact hg k (by simpa using hk)
  have hl := assemble_lt w _ hx
  have hb : assemble w ((List.range n).map g) < 2 ^ 4096 := by
    refine lt_of_lt_of_le hl (Nat.pow_le_pow_right (by decide) ?_)
    simp only [List.length_map, List.length_range]
    have : 8 * w * n = 8 * (w * n) := by ring
    omega
  rw [BitVec.toNat_ofNat, Nat.mod_eq_of_lt hb, elem_assemble w _ hx e (by simpa using he)]
  simp [he]

/-- Element `e` of `mapElems` where it is active. -/
theorem elem_mapElems (m : PReg) (w n : Nat) (f : Nat → Nat × Flags) (hn : w * n ≤ 512)
    (hf : ∀ e, e < n → activeE m w e = true → (f e).1 < 2 ^ (8 * w)) (e : Nat) (he : e < n) (ha : activeE m w e = true) :
    elem (mapElems m w n f).1.toNat w e = (f e).1 := by
  have := elem_ofNat_assemble w n (fun e => (if activeE m w e = true then f e else (0, (0 : Flags))).1) (fun k hk => by
    by_cases h : activeE m w k = true
    · simpa [h] using hf k hk h
    · simp [h]) hn e he
  simp only [ha, if_true] at this
  rw [← this]
  simp [mapElems, Function.comp_def]

theorem foldl_or_bit (l : List Flags) (a : Flags) (k : Nat) :
    (l.foldl (fun a r => a ||| r) a).getLsbD k = true ↔ a.getLsbD k = true ∨ ∃ x ∈ l, x.getLsbD k = true := by
  induction l generalizing a with
  | nil => simp
  | cons x r ih => simp [ih, or_assoc]

/-- The flags of `mapElems`: those of the active elements. -/
theorem flags_mapElems (m : PReg) (w n : Nat) (f : Nat → Nat × Flags) (k : Nat) :
    (mapElems m w n f).2.getLsbD k = true ↔ ∃ e, e < n ∧ activeE m w e = true ∧ (f e).2.getLsbD k = true := by
  have h : (mapElems m w n f).2 = (((List.range n).map (fun e => (if activeE m w e = true then f e else (0, (0 : Flags))).2))).foldl
      (fun a r => a ||| r) 0 := by
    simp [mapElems, List.foldl_map]
  rw [h, foldl_or_bit]
  constructor
  · rintro (h | ⟨x, hx, hk⟩)
    · simp at h
    · obtain ⟨e, he, rfl⟩ := List.mem_map.mp hx
      by_cases ha : activeE m w e = true
      · exact ⟨e, by simpa using he, ha, by simpa [ha] using hk⟩
      · simp [ha] at hk
  · rintro ⟨e, he, ha, hk⟩
    exact .inr ⟨_, List.mem_map.mpr ⟨e, by simpa using he, rfl⟩, by simpa [ha] using hk⟩

/-- The sum of the groups of `w` bits at which a test holds. -/
def groupSum (w : Nat) (t : Nat → Bool) : Nat → Nat
  | 0 => 0
  | n + 1 => groupSum w t n + (if t n = true then (2 ^ w - 1) * 2 ^ (n * w) else 0)

theorem foldr_groupSum (w : Nat) (t : Nat → Bool) (n a : Nat) :
    (List.range n).foldr (fun e a => if t e = true then a + (2 ^ w - 1) * 2 ^ (e * w) else a) a = groupSum w t n + a := by
  induction n generalizing a with
  | zero => simp [groupSum]
  | succ n ih =>
    rw [List.range_succ, List.foldr_append, ih]
    simp only [List.foldr_cons, List.foldr_nil, groupSum]
    split <;> omega

theorem groupSum_lt (w : Nat) (t : Nat → Bool) (n : Nat) : groupSum w t n < 2 ^ (n * w) := by
  induction n with
  | zero => simp [groupSum]
  | succ n ih =>
    have e : 2 ^ ((n + 1) * w) = 2 ^ w * 2 ^ (n * w) := by rw [← Nat.pow_add]; congr 1; ring
    have hp : 0 < 2 ^ w := Nat.two_pow_pos _
    have hq : (2 ^ w - 1) * 2 ^ (n * w) + 2 ^ (n * w) = 2 ^ w * 2 ^ (n * w) := by
      rw [Nat.sub_mul, Nat.one_mul]
      exact Nat.sub_add_cancel (Nat.le_mul_of_pos_left _ hp)
    rw [e]
    unfold groupSum
    split <;> omega

theorem groupSum_bit (w : Nat) (hw : 0 < w) (t : Nat → Bool) (n k : Nat) :
    (groupSum w t n).testBit k = (decide (k < n * w) && t (k / w)) := by
  induction n with
  | zero => simp [groupSum]
  | succ n ih =>
    have hl := groupSum_lt w t n
    have e : groupSum w t (n + 1) = 2 ^ (n * w) * (if t n = true then 2 ^ w - 1 else 0) + groupSum w t n := by
      rw [groupSum]
      split
      · rw [Nat.mul_comm (2 ^ w - 1), Nat.add_comm]
      · rw [Nat.mul_zero, Nat.add_comm]
    rw [e, Nat.testBit_two_pow_mul_add _ hl]
    by_cases hk : k < n * w
    · have hk2 : k < (n + 1) * w := by
        have : (n + 1) * w = n * w + w := by ring
        omega
      simp [hk, hk2, ih]
    · have h2 : (n + 1) * w = n * w + w := by ring
      rw [if_neg hk]
      by_cases hk3 : k < (n + 1) * w
      · have hd : k / w = n := by
          refine Nat.div_eq_of_lt_le (by omega) (by omega)
        rw [hd]
        have : k - n * w < w := by omega
        by_cases ht : t n = true
        · simp [ht, hk3, Nat.testBit_two_pow_sub_one, this]
        · simp [ht]
      · have : ¬ (k - n * w < w) := by omega
        by_cases ht : t n = true
        · simp [ht, hk3, Nat.testBit_two_pow_sub_one, this]
        · simp [ht, hk3]

/-- Bit `k` of `groupBits`. -/
theorem groupBits_bit (w n : Nat) (hw : 0 < w) (t : Nat → Bool) (k : Nat) (hk : k < 512) :
    (groupBits w n t).getLsbD k = (decide (k < n * w) && t (k / w)) := by
  unfold groupBits
  rw [foldr_groupSum, Nat.add_zero, BitVec.getLsbD_ofNat, groupSum_bit w hw]
  simp [hk]

/-- Bit `k` of `elemMask`: the bit that governs the element of byte `k` (R126). -/
theorem elemMask_bit (m : PReg) (w : Nat) (hw : 0 < w) (hd : 512 / w * w = 512) (k : Nat) (hk : k < 512) :
    (elemMask m w).getLsbD k = m.getLsbD (k / w * w) := by
  unfold elemMask
  by_cases hm : m = BitVec.allOnes 512
  · have h1 : k / w * w < 512 := lt_of_le_of_lt (Nat.div_mul_le_self k w) hk
    rw [if_pos hm, hm, BitVec.getLsbD_allOnes, BitVec.getLsbD_allOnes, decide_eq_true hk, decide_eq_true h1]
  · rw [if_neg hm, foldr_groupSum, Nat.add_zero, BitVec.getLsbD_ofNat, groupSum_bit w hw]
    simp [hk, hd, activeE]

end Sys2Proof.Machine
end

