-- ==== Sys2Proof/Laws/Exec.lean ====
section
/-!
SUPPORT. Which meaning each instruction has: one equation for each arm of `exec`.
-/

namespace Sys2Proof.Machine

@[simp] theorem exec_brEqz (o : NBr) (s : State) : exec (.brEqz o) s = execBrEqz o s := rfl
@[simp] theorem exec_brNez (o : NBr) (s : State) : exec (.brNez o) s = execBrNez o s := rfl
@[simp] theorem exec_brLtz (o : NBr) (s : State) : exec (.brLtz o) s = execBrLtz o s := rfl
@[simp] theorem exec_brGez (o : NBr) (s : State) : exec (.brGez o) s = execBrGez o s := rfl
@[simp] theorem exec_brGtz (o : NBr) (s : State) : exec (.brGtz o) s = execBrGtz o s := rfl
@[simp] theorem exec_brLez (o : NBr) (s : State) : exec (.brLez o) s = execBrLez o s := rfl
@[simp] theorem exec_brc (o : NBc) (s : State) : exec (.brc o) s = execBrc o s := rfl
@[simp] theorem exec_brpAll (o : NBr) (s : State) : exec (.brpAll o) s = execBrpAll o s := rfl
@[simp] theorem exec_brpNone (o : NBr) (s : State) : exec (.brpNone o) s = execBrpNone o s := rfl
@[simp] theorem exec_jmp (o : NBg) (s : State) : exec (.jmp o) s = execJmp o s := rfl
@[simp] theorem exec_call (o : NBg) (s : State) : exec (.call o) s = execCall o s := rfl
@[simp] theorem exec_loopb (o : NBr) (s : State) : exec (.loopb o) s = execLoopb o s := rfl
@[simp] theorem exec_jmpi (o : NJ) (s : State) : exec (.jmpi o) s = execJmpi o s := rfl
@[simp] theorem exec_calli (o : NJ) (s : State) : exec (.calli o) s = execCalli o s := rfl
@[simp] theorem exec_ret (o : NJ) (s : State) : exec (.ret o) s = execRet o s := rfl
@[simp] theorem exec_svc (o : NCode) (s : State) : exec (.svc o) s = execSvc o s := rfl
@[simp] theorem exec_brk (o : NCode) (s : State) : exec (.brk o) s = execBrk o s := rfl
@[simp] theorem exec_eret (s : State) : exec (.eret) s = execEret s := rfl
@[simp] theorem exec_add (o : NR) (s : State) : exec (.add o) s = execAdd o s := rfl
@[simp] theorem exec_sub (o : NR) (s : State) : exec (.sub o) s = execSub o s := rfl
@[simp] theorem exec_and (o : NR) (s : State) : exec (.and o) s = execAnd o s := rfl
@[simp] theorem exec_or (o : NR) (s : State) : exec (.or o) s = execOr o s := rfl
@[simp] theorem exec_xor (o : NR) (s : State) : exec (.xor o) s = execXor o s := rfl
@[simp] theorem exec_addsh (o : NR) (sh : Nat) (s : State) : exec (.addsh o sh) s = execAddsh o sh s := rfl
@[simp] theorem exec_mov (o : N2) (s : State) : exec (.mov o) s = execMov o s := rfl
@[simp] theorem exec_addi (o : NI) (s : State) : exec (.addi o) s = execAddi o s := rfl
@[simp] theorem exec_li (o : NL) (s : State) : exec (.li o) s = execLi o s := rfl
@[simp] theorem exec_andi (o : NI) (s : State) : exec (.andi o) s = execAndi o s := rfl
@[simp] theorem exec_ori (o : NI) (s : State) : exec (.ori o) s = execOri o s := rfl
@[simp] theorem exec_xori (o : NI) (s : State) : exec (.xori o) s = execXori o s := rfl
@[simp] theorem exec_slti (o : NI) (s : State) : exec (.slti o) s = execSlti o s := rfl
@[simp] theorem exec_shl (o : NR) (s : State) : exec (.shl o) s = execShl o s := rfl
@[simp] theorem exec_shr (o : NR) (s : State) : exec (.shr o) s = execShr o s := rfl
@[simp] theorem exec_sra (o : NR) (s : State) : exec (.sra o) s = execSra o s := rfl
@[simp] theorem exec_shli (o : NI) (s : State) : exec (.shli o) s = execShli o s := rfl
@[simp] theorem exec_shri (o : NI) (s : State) : exec (.shri o) s = execShri o s := rfl
@[simp] theorem exec_srai (o : NI) (s : State) : exec (.srai o) s = execSrai o s := rfl
@[simp] theorem exec_clz (o : N2) (s : State) : exec (.clz o) s = execClz o s := rfl
@[simp] theorem exec_popc (o : N2) (s : State) : exec (.popc o) s = execPopc o s := rfl
@[simp] theorem exec_mul (o : NR) (s : State) : exec (.mul o) s = execMul o s := rfl
@[simp] theorem exec_mulh (o : NR) (s : State) : exec (.mulh o) s = execMulh o s := rfl
@[simp] theorem exec_mulhs (o : NR) (s : State) : exec (.mulhs o) s = execMulhs o s := rfl
@[simp] theorem exec_div (o : NR) (s : State) : exec (.div o) s = execDiv o s := rfl
@[simp] theorem exec_divs (o : NR) (s : State) : exec (.divs o) s = execDivs o s := rfl
@[simp] theorem exec_rem (o : NR) (s : State) : exec (.rem o) s = execRem o s := rfl
@[simp] theorem exec_rems (o : NR) (s : State) : exec (.rems o) s = execRems o s := rfl
@[simp] theorem exec_min (o : NR) (s : State) : exec (.min o) s = execMin o s := rfl
@[simp] theorem exec_max (o : NR) (s : State) : exec (.max o) s = execMax o s := rfl
@[simp] theorem exec_mins (o : NR) (s : State) : exec (.mins o) s = execMins o s := rfl
@[simp] theorem exec_maxs (o : NR) (s : State) : exec (.maxs o) s = execMaxs o s := rfl
@[simp] theorem exec_slt (o : NR) (s : State) : exec (.slt o) s = execSlt o s := rfl
@[simp] theorem exec_slts (o : NR) (s : State) : exec (.slts o) s = execSlts o s := rfl
@[simp] theorem exec_seq (o : NR) (s : State) : exec (.seq o) s = execSeq o s := rfl
@[simp] theorem exec_sel (o : NR) (c : Nat) (neg : Bool) (s : State) : exec (.sel o c neg) s = execSel o c neg s := rfl
@[simp] theorem exec_cmpc (o : NR) (cc : CCmp) (s : State) : exec (.cmpc o cc) s = execCmpc o cc s := rfl
@[simp] theorem exec_bfx (o : NBit) (s : State) : exec (.bfx o) s = execBfx o s := rfl
@[simp] theorem exec_bfi (o : NBit) (s : State) : exec (.bfi o) s = execBfi o s := rfl
@[simp] theorem exec_mfc (o : NCtl) (s : State) : exec (.mfc o) s = execMfc o s := rfl
@[simp] theorem exec_mtc (o : NCtl) (s : State) : exec (.mtc o) s = execMtc o s := rfl
@[simp] theorem exec_ldb (o : NI) (s : State) : exec (.ldb o) s = execLdb o s := rfl
@[simp] theorem exec_ldbs (o : NI) (s : State) : exec (.ldbs o) s = execLdbs o s := rfl
@[simp] theorem exec_ldh (o : NI) (s : State) : exec (.ldh o) s = execLdh o s := rfl
@[simp] theorem exec_ldhs (o : NI) (s : State) : exec (.ldhs o) s = execLdhs o s := rfl
@[simp] theorem exec_ldw (o : NI) (s : State) : exec (.ldw o) s = execLdw o s := rfl
@[simp] theorem exec_ldws (o : NI) (s : State) : exec (.ldws o) s = execLdws o s := rfl
@[simp] theorem exec_ldd (o : NI) (s : State) : exec (.ldd o) s = execLdd o s := rfl
@[simp] theorem exec_stb (o : NI) (s : State) : exec (.stb o) s = execStb o s := rfl
@[simp] theorem exec_sth (o : NI) (s : State) : exec (.sth o) s = execSth o s := rfl
@[simp] theorem exec_stw (o : NI) (s : State) : exec (.stw o) s = execStw o s := rfl
@[simp] theorem exec_std (o : NI) (s : State) : exec (.std o) s = execStd o s := rfl
@[simp] theorem exec_idleXy (s : State) : exec (.idleXy) s = execIdleXy s := rfl
@[simp] theorem exec_vadd (o : V3) (sat : Bool) (s : State) : exec (.vadd o sat) s = execVadd o sat s := rfl
@[simp] theorem exec_vsub (o : V3) (sat : Bool) (s : State) : exec (.vsub o sat) s = execVsub o sat s := rfl
@[simp] theorem exec_vmul (o : V3) (s : State) : exec (.vmul o) s = execVmul o s := rfl
@[simp] theorem exec_vmulh (o : V3) (s : State) : exec (.vmulh o) s = execVmulh o s := rfl
@[simp] theorem exec_vmac (o : V3) (s : State) : exec (.vmac o) s = execVmac o s := rfl
@[simp] theorem exec_vmacs (o : V3) (s : State) : exec (.vmacs o) s = execVmacs o s := rfl
@[simp] theorem exec_vabs (o : V2) (sat : Bool) (s : State) : exec (.vabs o sat) s = execVabs o sat s := rfl
@[simp] theorem exec_vneg (o : V2) (sat : Bool) (s : State) : exec (.vneg o sat) s = execVneg o sat s := rfl
@[simp] theorem exec_vmin (o : V3) (s : State) : exec (.vmin o) s = execVmin o s := rfl
@[simp] theorem exec_vmax (o : V3) (s : State) : exec (.vmax o) s = execVmax o s := rfl
@[simp] theorem exec_vsat (o : V2) (n : Nat) (s : State) : exec (.vsat o n) s = execVsat o n s := rfl
@[simp] theorem exec_vnrw (o : V2) (sh : Nat) (sat rnd : Bool) (s : State) : exec (.vnrw o sh sat rnd) s = execVnrw o sh sat rnd s := rfl
@[simp] theorem exec_vwid (o : V2) (s : State) : exec (.vwid o) s = execVwid o s := rfl
@[simp] theorem exec_vand (o : V3) (s : State) : exec (.vand o) s = execVand o s := rfl
@[simp] theorem exec_vor (o : V3) (s : State) : exec (.vor o) s = execVor o s := rfl
@[simp] theorem exec_vxor (o : V3) (s : State) : exec (.vxor o) s = execVxor o s := rfl
@[simp] theorem exec_vnot (o : V2) (s : State) : exec (.vnot o) s = execVnot o s := rfl
@[simp] theorem exec_vshl (o : V2) (b : Amt) (s : State) : exec (.vshl o b) s = execVshl o b s := rfl
@[simp] theorem exec_vshr (o : V2) (b : Amt) (s : State) : exec (.vshr o b) s = execVshr o b s := rfl
@[simp] theorem exec_vsra (o : V2) (b : Amt) (s : State) : exec (.vsra o b) s = execVsra o b s := rfl
@[simp] theorem exec_vcmp (o : V3) (cc : ICmp) (s : State) : exec (.vcmp o cc) s = execVcmp o cc s := rfl
@[simp] theorem exec_vsel (o : V3) (c : Nat) (s : State) : exec (.vsel o c) s = execVsel o c s := rfl
@[simp] theorem exec_vfadd (o : V3) (s : State) : exec (.vfadd o) s = execVfadd o s := rfl
@[simp] theorem exec_vfsub (o : V3) (s : State) : exec (.vfsub o) s = execVfsub o s := rfl
@[simp] theorem exec_vfmul (o : V3) (s : State) : exec (.vfmul o) s = execVfmul o s := rfl
@[simp] theorem exec_vfma (o : V3) (c : Nat) (s : State) : exec (.vfma o c) s = execVfma o c s := rfl
@[simp] theorem exec_vfms (o : V3) (c : Nat) (s : State) : exec (.vfms o c) s = execVfms o c s := rfl
@[simp] theorem exec_vfmin (o : V3) (s : State) : exec (.vfmin o) s = execVfmin o s := rfl
@[simp] theorem exec_vfmax (o : V3) (s : State) : exec (.vfmax o) s = execVfmax o s := rfl
@[simp] theorem exec_vfcmp (o : V3) (cc : FCmp) (s : State) : exec (.vfcmp o cc) s = execVfcmp o cc s := rfl
@[simp] theorem exec_vfcls (o : V2) (s : State) : exec (.vfcls o) s = execVfcls o s := rfl
@[simp] theorem exec_vcvt (o : V2) (u : ETy) (hi : Bool) (s : State) : exec (.vcvt o u hi) s = execVcvt o u hi s := rfl
@[simp] theorem exec_vrcp (o : V2) (s : State) : exec (.vrcp o) s = execVrcp o s := rfl
@[simp] theorem exec_vrsq (o : V2) (s : State) : exec (.vrsq o) s = execVrsq o s := rfl
@[simp] theorem exec_vexp (o : V2) (s : State) : exec (.vexp o) s = execVexp o s := rfl
@[simp] theorem exec_vlog (o : V2) (s : State) : exec (.vlog o) s = execVlog o s := rfl
@[simp] theorem exec_vtanh (o : V2) (s : State) : exec (.vtanh o) s = execVtanh o s := rfl
@[simp] theorem exec_vqnt (o : V2) (c q : Nat) (s : State) : exec (.vqnt o c q) s = execVqnt o c q s := rfl
@[simp] theorem exec_vdqnt (o : V2) (c q : Nat) (s : State) : exec (.vdqnt o c q) s = execVdqnt o c q s := rfl
@[simp] theorem exec_vred (o : V2) (op : RedOp) (s : State) : exec (.vred o op) s = execVred o op s := rfl
@[simp] theorem exec_vperm (o : V3) (s : State) : exec (.vperm o) s = execVperm o s := rfl
@[simp] theorem exec_vsld (o : V3) (sh : Nat) (s : State) : exec (.vsld o sh) s = execVsld o sh s := rfl
@[simp] theorem exec_vbcstScalar (o : V2) (s : State) : exec (.vbcstScalar o) s = execVbcstScalar o s := rfl
@[simp] theorem exec_vbcstElement (o : V2) (idx : Nat) (s : State) : exec (.vbcstElement o idx) s = execVbcstElement o idx s := rfl
@[simp] theorem exec_vins (o : V2) (idx : Nat) (s : State) : exec (.vins o idx) s = execVins o idx s := rfl
@[simp] theorem exec_vext (o : V2) (idx : Nat) (s : State) : exec (.vext o idx) s = execVext o idx s := rfl
@[simp] theorem exec_vmov (o : V2) (s : State) : exec (.vmov o) s = execVmov o s := rfl
@[simp] theorem exec_viota (o : V2) (s : State) : exec (.viota o) s = execViota o s := rfl
@[simp] theorem exec_pand (o : VP) (s : State) : exec (.pand o) s = execPand o s := rfl
@[simp] theorem exec_por (o : VP) (s : State) : exec (.por o) s = execPor o s := rfl
@[simp] theorem exec_pxor (o : VP) (s : State) : exec (.pxor o) s = execPxor o s := rfl
@[simp] theorem exec_pnot (o : VP2) (s : State) : exec (.pnot o) s = execPnot o s := rfl
@[simp] theorem exec_pset (o : V2) (s : State) : exec (.pset o) s = execPset o s := rfl
@[simp] theorem exec_pcnt (o : V2) (s : State) : exec (.pcnt o) s = execPcnt o s := rfl
@[simp] theorem exec_idleVw (s : State) : exec (.idleVw) s = execIdleVw s := rfl
@[simp] theorem exec_vld (o : LD) (s : State) : exec (.vld o) s = execVld o s := rfl
@[simp] theorem exec_vst (o : LD) (s : State) : exec (.vst o) s = execVst o s := rfl
@[simp] theorem exec_vlds (o : LS) (s : State) : exec (.vlds o) s = execVlds o s := rfl
@[simp] theorem exec_vsts (o : LS) (s : State) : exec (.vsts o) s = execVsts o s := rfl
@[simp] theorem exec_vldb (o : LD) (s : State) : exec (.vldb o) s = execVldb o s := rfl
@[simp] theorem exec_vldx (o : LX) (s : State) : exec (.vldx o) s = execVldx o s := rfl
@[simp] theorem exec_vstx (o : LX) (s : State) : exec (.vstx o) s = execVstx o s := rfl
@[simp] theorem exec_pld (o : LD) (s : State) : exec (.pld o) s = execPld o s := rfl
@[simp] theorem exec_pst (o : LD) (s : State) : exec (.pst o) s = execPst o s := rfl
@[simp] theorem exec_fill (o : LF) (s : State) : exec (.fill o) s = execFill o s := rfl
@[simp] theorem exec_idleL (s : State) : exec (.idleL) s = execIdleL s := rfl
@[simp] theorem exec_mmul (o : MM) (s : State) : exec (.mmul o) s = execMmul o s := rfl
@[simp] theorem exec_macc (o : MM) (s : State) : exec (.macc o) s = execMacc o s := rfl
@[simp] theorem exec_mmuls (o : MM) (sel : Nat) (s : State) : exec (.mmuls o sel) s = execMmuls o sel s := rfl
@[simp] theorem exec_maccs (o : MM) (sel : Nat) (s : State) : exec (.maccs o sel) s = execMaccs o sel s := rfl
@[simp] theorem exec_mstrm (o : MS) (s : State) : exec (.mstrm o) s = execMstrm o s := rfl
@[simp] theorem exec_mzero (o : MZ) (s : State) : exec (.mzero o) s = execMzero o s := rfl
@[simp] theorem exec_mrdv (o : MV) (s : State) : exec (.mrdv o) s = execMrdv o s := rfl
@[simp] theorem exec_mwrv (o : MV) (s : State) : exec (.mwrv o) s = execMwrv o s := rfl
@[simp] theorem exec_mrds (o : MX) (s : State) : exec (.mrds o) s = execMrds o s := rfl
@[simp] theorem exec_mwrs (o : MX) (s : State) : exec (.mwrs o) s = execMwrs o s := rfl
@[simp] theorem exec_mseam (o : MI) (s : State) : exec (.mseam o) s = execMseam o s := rfl
@[simp] theorem exec_mresume (o : MI) (s : State) : exec (.mresume o) s = execMresume o s := rfl
@[simp] theorem exec_idleM (s : State) : exec (.idleM) s = execIdleM s := rfl
@[simp] theorem exec_cplvl (o : CL) (s : State) : exec (.cplvl o) s = execCplvl o s := rfl
@[simp] theorem exec_cpbase (o : CB) (s : State) : exec (.cpbase o) s = execCpbase o s := rfl
@[simp] theorem exec_cpgo (o : CS) (s : State) : exec (.cpgo o) s = execCpgo o s := rfl
@[simp] theorem exec_cpstrm (o : CS) (s : State) : exec (.cpstrm o) s = execCpstrm o s := rfl
@[simp] theorem exec_cpstrmOff (o : CS) (s : State) : exec (.cpstrmOff o) s = execCpstrmOff o s := rfl
@[simp] theorem exec_cpcan (o : CS) (s : State) : exec (.cpcan o) s = execCpcan o s := rfl
@[simp] theorem exec_cpstat (o : CT) (s : State) : exec (.cpstat o) s = execCpstat o s := rfl
@[simp] theorem exec_lksend (o : CK) (s : State) : exec (.lksend o) s = execLksend o s := rfl
@[simp] theorem exec_lkrecv (o : CK) (s : State) : exec (.lkrecv o) s = execLkrecv o s := rfl
@[simp] theorem exec_lkred (o : CR) (s : State) : exec (.lkred o) s = execLkred o s := rfl
@[simp] theorem exec_lktime (o : CLt) (s : State) : exec (.lktime o) s = execLktime o s := rfl
@[simp] theorem exec_tlbinv (o : CI) (s : State) : exec (.tlbinv o) s = execTlbinv o s := rfl
@[simp] theorem exec_idleC (s : State) : exec (.idleC) s = execIdleC s := rfl
@[simp] theorem exec_gpush (o : QG) (s : State) : exec (.gpush o) s = execGpush o s := rfl
@[simp] theorem exec_gpop (o : G1) (s : State) : exec (.gpop o) s = execGpop o s := rfl
@[simp] theorem exec_sacc (o : QA) (s : State) : exec (.sacc o) s = execSacc o s := rfl
@[simp] theorem exec_sfop (o : QF) (s : State) : exec (.sfop o) s = execSfop o s := rfl
@[simp] theorem exec_nlbin (o : Q1) (s : State) : exec (.nlbin o) s = execNlbin o s := rfl
@[simp] theorem exec_nlpos (o : Q1) (s : State) : exec (.nlpos o) s = execNlpos o s := rfl
@[simp] theorem exec_nlreq (o : Q2) (s : State) : exec (.nlreq o) s = execNlreq o s := rfl
@[simp] theorem exec_nlpop (o : G2) (s : State) : exec (.nlpop o) s = execNlpop o s := rfl
@[simp] theorem exec_nlstat (o : Q1) (s : State) : exec (.nlstat o) s = execNlstat o s := rfl
@[simp] theorem exec_spawn (o : Q2) (s : State) : exec (.spawn o) s = execSpawn o s := rfl
@[simp] theorem exec_take (o : Q2) (s : State) : exec (.take o) s = execTake o s := rfl
@[simp] theorem exec_watch (o : Q2) (s : State) : exec (.watch o) s = execWatch o s := rfl
@[simp] theorem exec_unwatch (o : Q1) (s : State) : exec (.unwatch o) s = execUnwatch o s := rfl
@[simp] theorem exec_idleQ (s : State) : exec (.idleQ) s = execIdleQ s := rfl
@[simp] theorem exec_setfmtImm (o : G1) (s : State) : exec (.setfmtImm o) s = execSetfmtImm o s := rfl
@[simp] theorem exec_setfmtReg (o : G1) (s : State) : exec (.setfmtReg o) s = execSetfmtReg o s := rfl
@[simp] theorem exec_waitt (o : G1) (s : State) : exec (.waitt o) s = execWaitt o s := rfl
@[simp] theorem exec_slack (o : G1) (s : State) : exec (.slack o) s = execSlack o s := rfl
@[simp] theorem exec_drain (o : G1) (s : State) : exec (.drain o) s = execDrain o s := rfl
@[simp] theorem exec_bar (o : G2) (s : State) : exec (.bar o) s = execBar o s := rfl
@[simp] theorem exec_yield (g : Nat) (s : State) : exec (.yield g) s = execYield g s := rfl
@[simp] theorem exec_yieldNw (g : Nat) (s : State) : exec (.yieldNw g) s = execYieldNw g s := rfl
@[simp] theorem exec_tdone (g : Nat) (s : State) : exec (.tdone g) s = execTdone g s := rfl
@[simp] theorem exec_ovl (o : G1) (s : State) : exec (.ovl o) s = execOvl o s := rfl
@[simp] theorem exec_zset (o : G2) (s : State) : exec (.zset o) s = execZset o s := rfl
@[simp] theorem exec_time (o : G1) (s : State) : exec (.time o) s = execTime o s := rfl
@[simp] theorem exec_perf (o : G2) (s : State) : exec (.perf o) s = execPerf o s := rfl
@[simp] theorem exec_getflg (o : G1) (s : State) : exec (.getflg o) s = execGetflg o s := rfl
@[simp] theorem exec_clrflg (o : G1) (s : State) : exec (.clrflg o) s = execClrflg o s := rfl
@[simp] theorem exec_spflag (o : G1) (keep : Bool) (s : State) : exec (.spflag o keep) s = execSpflag o keep s := rfl
@[simp] theorem exec_wfe (o : FW) (s : State) : exec (.wfe o) s = execWfe o s := rfl
@[simp] theorem exec_halt (g : Nat) (s : State) : exec (.halt g) s = execHalt g s := rfl
@[simp] theorem exec_keyld (o : G2) (s : State) : exec (.keyld o) s = execKeyld o s := rfl
@[simp] theorem exec_keyldClr (o : G1) (s : State) : exec (.keyldClr o) s = execKeyldClr o s := rfl
@[simp] theorem exec_bundleIssue (hw : Nat) (s : State) : exec (.bundleIssue hw) s = execBundleIssue hw s := rfl
@[simp] theorem exec_ifetchStallEnd (hw : Nat) (s : State) : exec (.ifetchStallEnd hw) s = execIfetchStallEnd hw s := rfl
@[simp] theorem exec_resultLand (hw : Nat) (s : State) : exec (.resultLand hw) s = execResultLand hw s := rfl
@[simp] theorem exec_productCommit (core : Nat) (s : State) : exec (.productCommit core) s = execProductCommit core s := rfl
@[simp] theorem exec_streamSliceArrive (core : Nat) (s : State) : exec (.streamSliceArrive core) s = execStreamSliceArrive core s := rfl
@[simp] theorem exec_contextUnblock (hw : Nat) (s : State) : exec (.contextUnblock hw) s = execContextUnblock hw s := rfl
@[simp] theorem exec_primarySwitch (core : Nat) (s : State) : exec (.primarySwitch core) s = execPrimarySwitch core s := rfl
@[simp] theorem exec_wfeWake (hw : Nat) (s : State) : exec (.wfeWake hw) s = execWfeWake hw s := rfl
@[simp] theorem exec_preemption (hw : Nat) (s : State) : exec (.preemption hw) s = execPreemption hw s := rfl
@[simp] theorem exec_hemovr (hw : Nat) (s : State) : exec (.hemovr hw) s = execHemovr hw s := rfl
@[simp] theorem exec_budgetOverrun (hw : Nat) (s : State) : exec (.budgetOverrun hw) s = execBudgetOverrun hw s := rfl
@[simp] theorem exec_trapEntry (hw : Nat) (s : State) : exec (.trapEntry hw) s = execTrapEntry hw s := rfl
@[simp] theorem exec_minorFault (hw va : Nat) (write : Bool) (eng : Nat) (s : State) : exec (.minorFault hw va write eng) s = execMinorFault hw va write eng s := rfl
@[simp] theorem exec_liningRun (core : Nat) (s : State) : exec (.liningRun core) s = execLiningRun core s := rfl
@[simp] theorem exec_liningEnd (core : Nat) (s : State) : exec (.liningEnd core) s = execLiningEnd core s := rfl
@[simp] theorem exec_pageWalk (cl eng asid va : Nat) (write : Bool) (s : State) : exec (.pageWalk cl eng asid va write) s = execPageWalk cl eng asid va write s := rfl
@[simp] theorem exec_engineMajorFault (e : EngineAct) (s : State) : exec (.engineMajorFault e) s = execEngineMajorFault e s := rfl
@[simp] theorem exec_streamFaultDeliver (core : Nat) (s : State) : exec (.streamFaultDeliver core) s = execStreamFaultDeliver core s := rfl
@[simp] theorem exec_elementaryCopyEmit (cl slot : Nat) (s : State) : exec (.elementaryCopyEmit cl slot) s = execElementaryCopyEmit cl slot s := rfl
@[simp] theorem exec_engineCommandComplete (e : EngineAct) (s : State) : exec (.engineCommandComplete e) s = execEngineCommandComplete e s := rfl
@[simp] theorem exec_engineTakesCommand (hw id : Nat) (s : State) : exec (.engineTakesCommand hw id) s = execEngineTakesCommand hw id s := rfl
@[simp] theorem exec_dataQueueEntryArrive (hw : Nat) (s : State) : exec (.dataQueueEntryArrive hw) s = execDataQueueEntryArrive hw s := rfl
@[simp] theorem exec_stitchPushDeferred (cl entry : Nat) (s : State) : exec (.stitchPushDeferred cl entry) s = execStitchPushDeferred cl entry s := rfl
@[simp] theorem exec_watchWindowStart (cl : Nat) (s : State) : exec (.watchWindowStart cl) s = execWatchWindowStart cl s := rfl
@[simp] theorem exec_dispatch (hw : Nat) (s : State) : exec (.dispatch hw) s = execDispatch hw s := rfl
@[simp] theorem exec_barrierRelease (cl team : Nat) (s : State) : exec (.barrierRelease cl team) s = execBarrierRelease cl team s := rfl
@[simp] theorem exec_segmentCopyDone (core seg : Nat) (s : State) : exec (.segmentCopyDone core seg) s = execSegmentCopyDone core seg s := rfl
@[simp] theorem exec_linkWindowStart (link : Nat) (send : Bool) (s : State) : exec (.linkWindowStart link send) s = execLinkWindowStart link send s := rfl
@[simp] theorem exec_linkFlitReceive (link tick : Nat) (flit : FlitData) (bad : Bool) (s : State) : exec (.linkFlitReceive link tick flit bad) s = execLinkFlitReceive link tick flit bad s := rfl
@[simp] theorem exec_lktimeReached (hw id : Nat) (s : State) : exec (.lktimeReached hw id) s = execLktimeReached hw id s := rfl
@[simp] theorem exec_sctExpiry (cl entry : Nat) (s : State) : exec (.sctExpiry cl entry) s = execSctExpiry cl entry s := rfl
@[simp] theorem exec_evictionDone (cl entry : Nat) (s : State) : exec (.evictionDone cl entry) s = execEvictionDone cl entry s := rfl
@[simp] theorem exec_evictionFailed (cl entry : Nat) (s : State) : exec (.evictionFailed cl entry) s = execEvictionFailed cl entry s := rfl
@[simp] theorem exec_nop (q ahead : Nat) (s : State) : exec (.nop q ahead) s = execNop q ahead s := rfl
@[simp] theorem exec_launch (q ahead : Nat) (s : State) : exec (.launch q ahead) s = execLaunch q ahead s := rfl
@[simp] theorem exec_launchComplete (n : Nat) (s : State) : exec (.launchComplete n) s = execLaunchComplete n s := rfl
@[simp] theorem exec_task (q ahead : Nat) (s : State) : exec (.task q ahead) s = execTask q ahead s := rfl
@[simp] theorem exec_signal (q ahead : Nat) (s : State) : exec (.signal q ahead) s = execSignal q ahead s := rfl
@[simp] theorem exec_waitsig (q ahead : Nat) (s : State) : exec (.waitsig q ahead) s = execWaitsig q ahead s := rfl
@[simp] theorem exec_waitsigHolds (q : Nat) (s : State) : exec (.waitsigHolds q) s = execWaitsigHolds q s := rfl
@[simp] theorem exec_waitsigTimeout (q : Nat) (s : State) : exec (.waitsigTimeout q) s = execWaitsigTimeout q s := rfl
@[simp] theorem exec_pred (q ahead : Nat) (s : State) : exec (.pred q ahead) s = execPred q ahead s := rfl
@[simp] theorem exec_loop (q ahead : Nat) (s : State) : exec (.loop q ahead) s = execLoop q ahead s := rfl
@[simp] theorem exec_indir (q ahead : Nat) (s : State) : exec (.indir q ahead) s = execIndir q ahead s := rfl
@[simp] theorem exec_ffence (q ahead : Nat) (s : State) : exec (.ffence q ahead) s = execFfence q ahead s := rfl
@[simp] theorem exec_atPkt (q ahead : Nat) (s : State) : exec (.atPkt q ahead) s = execAtPkt q ahead s := rfl
@[simp] theorem exec_atTimeReached (q : Nat) (s : State) : exec (.atTimeReached q) s = execAtTimeReached q s := rfl
@[simp] theorem exec_streamPin (q ahead : Nat) (s : State) : exec (.streamPin q ahead) s = execStreamPin q ahead s := rfl
@[simp] theorem exec_streamTouch (q ahead : Nat) (s : State) : exec (.streamTouch q ahead) s = execStreamTouch q ahead s := rfl
@[simp] theorem exec_streamEvict (q ahead : Nat) (s : State) : exec (.streamEvict q ahead) s = execStreamEvict q ahead s := rfl
@[simp] theorem exec_event (q ahead : Nat) (s : State) : exec (.event q ahead) s = execEvent q ahead s := rfl
@[simp] theorem exec_qtailWrite (q v : Nat) (s : State) : exec (.qtailWrite q v) s = execQtailWrite q v s := rfl
@[simp] theorem exec_queueEnable (q : Nat) (s : State) : exec (.queueEnable q) s = execQueueEnable q s := rfl
@[simp] theorem exec_queueDisable (q : Nat) (s : State) : exec (.queueDisable q) s = execQueueDisable q s := rfl
@[simp] theorem exec_qstatClear (q : Nat) (s : State) : exec (.qstatClear q) s = execQstatClear q s := rfl
@[simp] theorem exec_evheadWrite (v : Nat) (s : State) : exec (.evheadWrite v) s = execEvheadWrite v s := rfl
@[simp] theorem exec_trheadWrite (cl v : Nat) (s : State) : exec (.trheadWrite cl v) s = execTrheadWrite cl v s := rfl
@[simp] theorem exec_registerWrite (off v : Nat) (s : State) : exec (.registerWrite off v) s = execRegisterWrite off v s := rfl
@[simp] theorem exec_ingressWrite (off len data : Nat) (s : State) : exec (.ingressWrite off len data) s = execIngressWrite off len data s := rfl
@[simp] theorem exec_hostScratchpadRead (off len : Nat) (s : State) : exec (.hostScratchpadRead off len) s = execHostScratchpadRead off len s := rfl
@[simp] theorem exec_liningStoreWrite (core off len data : Nat) (s : State) : exec (.liningStoreWrite core off len data) s = execLiningStoreWrite core off len data s := rfl
@[simp] theorem exec_attestRequest (nonce : Nat) (s : State) : exec (.attestRequest nonce) s = execAttestRequest nonce s := rfl
@[simp] theorem exec_dbgRun (hw : Nat) (s : State) : exec (.dbgRun hw) s = execDbgRun hw s := rfl
@[simp] theorem exec_dbgStep (hw : Nat) (s : State) : exec (.dbgStep hw) s = execDbgStep hw s := rfl
@[simp] theorem exec_dbgStopreq (hw : Nat) (s : State) : exec (.dbgStopreq hw) s = execDbgStopreq hw s := rfl
@[simp] theorem exec_debugBreak (hw : Nat) (s : State) : exec (.debugBreak hw) s = execDebugBreak hw s := rfl
@[simp] theorem exec_stepLimit (hw : Nat) (s : State) : exec (.stepLimit hw) s = execStepLimit hw s := rfl
@[simp] theorem exec_accountingClear (core : Nat) (s : State) : exec (.accountingClear core) s = execAccountingClear core s := rfl
@[simp] theorem exec_moduleReset (s : State) : exec (.moduleReset) s = execModuleReset s := rfl
@[simp] theorem exec_fullService (s : State) : exec (.fullService) s = execFullService s := rfl
@[simp] theorem exec_uncorrectableError (who : ErrReader) (addr : Nat) (unit : ErrUnit) (s : State) : exec (.uncorrectableError who addr unit) s = execUncorrectableError who addr unit s := rfl
@[simp] theorem exec_ppsEdge (s : State) : exec (.ppsEdge) s = execPpsEdge s := rfl
@[simp] theorem exec_ptmExchange (ns : Nat) (s : State) : exec (.ptmExchange ns) s = execPtmExchange ns s := rfl
@[simp] theorem exec_powerThrottleStep (avg : Nat) (s : State) : exec (.powerThrottleStep avg) s = execPowerThrottleStep avg s := rfl
@[simp] theorem exec_hostAtomicToBar (bar off : Nat) (s : State) : exec (.hostAtomicToBar bar off) s = execHostAtomicToBar bar off s := rfl
@[simp] theorem exec_mrdsMwrsRow (core : Nat) (s : State) : exec (.mrdsMwrsRow core) s = execMrdsMwrsRow core s := rfl
@[simp] theorem exec_correctableError (hbm : Bool) (n : Nat) (s : State) : exec (.correctableError hbm n) s = execCorrectableError hbm n s := rfl

end Sys2Proof.Machine
end

