-- ==== Sys2Proof/Laws/Memory.lean ====
section
/-!
SUPPORT. The laws of the containers: what a map and a memory hold after an update, and that every memory operation keeps the
canonical form.
-/

namespace Sys2Proof.Machine

/-! ## Sorted maps -/

@[simp] theorem SMap.get?_put_same {α : Type} (m : SMap α) (i : Nat) (a : α) : SMap.get? (SMap.put m i a) i = some a := by
  induction m with
  | nil => simp [SMap.put, SMap.get?]
  | cons x r ih =>
    obtain ⟨j, b⟩ := x
    simp only [SMap.put]
    split
    · simp [SMap.get?]
    · split
      · simp [SMap.get?]
      · simp [SMap.get?, *]

@[simp] theorem SMap.get?_put_other {α : Type} (m : SMap α) {i k : Nat} (a : α) (h : k ≠ i) :
    SMap.get? (SMap.put m i a) k = SMap.get? m k := by
  induction m with
  | nil =>
    simp only [SMap.put, SMap.get?, if_neg h]
    split <;> rfl
  | cons x r ih =>
    obtain ⟨j, b⟩ := x
    simp only [SMap.put]
    split
    · simp only [SMap.get?, if_neg h]
      repeat' split
      all_goals first | rfl | omega
    · split
      · subst_vars
        simp [SMap.get?, h]
      · simp [SMap.get?, ih]

@[simp] theorem SMap.getD_put_same {α : Type} (m : SMap α) (i : Nat) (a d : α) : SMap.getD (SMap.put m i a) i d = a := by
  simp [SMap.getD]

@[simp] theorem SMap.getD_put_other {α : Type} (m : SMap α) {i k : Nat} (a d : α) (h : k ≠ i) :
    SMap.getD (SMap.put m i a) k d = SMap.getD m k d := by
  simp [SMap.getD, h]

/-- Two updates of one entry are the later one. -/
@[simp] theorem SMap.put_put {α : Type} (m : SMap α) (i : Nat) (a b : α) :
    SMap.put (SMap.put m i a) i b = SMap.put m i b := by
  induction m with
  | nil => simp [SMap.put]
  | cons x r ih =>
    obtain ⟨j, c⟩ := x
    simp only [SMap.put]
    split
    · simp [SMap.put]
    · split
      · simp [SMap.put]
      · simp only [SMap.put, *, if_false]

/-! ## Memory -/

/-- The addresses of a canonical memory lie above a bound, its first included. -/
def Memory.above (i : Nat) (m : Memory) : Bool := m.all (fun x => decide (i < x.1))

theorem Memory.above_nil (i : Nat) : Memory.above i [] = true := rfl

theorem Memory.above_pair (i j : Nat) (b : Byte) (m : Memory) :
    Memory.above i ((j, b) :: m) = true ↔ i < j ∧ Memory.above i m = true := by
  simp only [Memory.above, List.all_cons, Bool.and_eq_true, decide_eq_true_eq]

theorem Memory.wf_cons {i : Nat} {b : Byte} {m : Memory} (h : Memory.wf ((i, b) :: m) = true) :
    b ≠ blank ∧ Memory.above i m = true ∧ m.wf = true := by
  induction m generalizing i b with
  | nil => simpa [Memory.wf, Memory.above] using h
  | cons x r ih =>
    obtain ⟨j, c⟩ := x
    simp only [Memory.wf, Bool.and_eq_true, decide_eq_true_eq, bne_iff_ne, ne_eq] at h
    obtain ⟨⟨hb, hij⟩, hw⟩ := h
    obtain ⟨-, ha, -⟩ := ih hw
    refine ⟨hb, (Memory.above_pair _ _ _ _).2 ⟨hij, ?_⟩, hw⟩
    simp only [Memory.above, List.all_eq_true, decide_eq_true_eq] at ha ⊢
    exact fun x hx => by have := ha x hx; omega

theorem Memory.cons_wf {i : Nat} {b : Byte} {m : Memory} (ha : Memory.above i m = true) (hw : m.wf = true) :
    (Memory.cons i b m).wf = true := by
  unfold Memory.cons
  split
  · exact hw
  · cases m with
    | nil => simpa [Memory.wf] using ‹¬b = blank›
    | cons x r =>
      obtain ⟨j, c⟩ := x
      have := ((Memory.above_pair _ _ _ _).1 ha).1
      simp only [Memory.wf, Bool.and_eq_true, decide_eq_true_eq, bne_iff_ne, ne_eq]
      exact ⟨⟨‹_›, this⟩, hw⟩

theorem Memory.above_cons {i j : Nat} {b : Byte} {m : Memory} (hj : i < j) (ha : Memory.above i m = true) :
    Memory.above i (Memory.cons j b m) = true := by
  unfold Memory.cons
  split
  · exact ha
  · exact (Memory.above_pair _ _ _ _).2 ⟨hj, ha⟩

theorem Memory.above_write {i j : Nat} {b : Byte} {m : Memory} (hj : i < j) (ha : Memory.above i m = true) :
    Memory.above i (m.write j b) = true := by
  induction m with
  | nil => exact Memory.above_cons hj ha
  | cons x r ih =>
    obtain ⟨k, c⟩ := x
    obtain ⟨hk, hr⟩ := (Memory.above_pair _ _ _ _).1 ha
    simp only [Memory.write]
    split
    · exact Memory.above_cons hj ha
    · split
      · exact Memory.above_cons hj hr
      · exact (Memory.above_pair _ _ _ _).2 ⟨hk, ih hr⟩

theorem Memory.above_mono {i j : Nat} {m : Memory} (h : i ≤ j) (ha : Memory.above j m = true) : Memory.above i m = true := by
  simp only [Memory.above, List.all_eq_true, decide_eq_true_eq] at ha ⊢
  exact fun x hx => by have := ha x hx; omega

theorem Memory.wf_of {i : Nat} {b : Byte} {m : Memory} (hb : b ≠ blank) (ha : Memory.above i m = true) (hw : m.wf = true) :
    Memory.wf ((i, b) :: m) = true := by
  have := Memory.cons_wf (b := b) ha hw
  simpa [Memory.cons, hb] using this

/-- A write keeps the canonical form. -/
theorem Memory.write_wf {m : Memory} (i : Nat) (b : Byte) (h : m.wf = true) : (m.write i b).wf = true := by
  induction m with
  | nil => exact Memory.cons_wf rfl rfl
  | cons x r ih =>
    obtain ⟨j, c⟩ := x
    obtain ⟨hc, ha, hr⟩ := Memory.wf_cons h
    simp only [Memory.write]
    split
    · refine Memory.cons_wf ?_ h
      exact (Memory.above_pair _ _ _ _).2 ⟨‹i < j›, Memory.above_mono (Nat.le_of_lt ‹i < j›) ha⟩
    · split
      · subst_vars
        exact Memory.cons_wf ha hr
      · exact Memory.wf_of hc (Memory.above_write (by omega) ha) (ih hr)

theorem Memory.read_above {i k : Nat} {m : Memory} (ha : Memory.above i m = true) (hk : k ≤ i) : m.read k = blank := by
  cases m with
  | nil => rfl
  | cons x r =>
    obtain ⟨j, c⟩ := x
    have := ((Memory.above_pair _ _ _ _).1 ha).1
    simp only [Memory.read]
    rw [if_neg (by omega), if_pos (by omega)]

theorem Memory.read_cons_same {i : Nat} {b : Byte} {m : Memory} (ha : Memory.above i m = true) :
    (Memory.cons i b m).read i = b := by
  unfold Memory.cons
  split
  · subst_vars
    exact Memory.read_above ha (Nat.le_refl i)
  · simp only [Memory.read, if_true]

theorem Memory.read_cons_other {i k : Nat} {b : Byte} {m : Memory} (ha : Memory.above i m = true) (hk : k ≠ i) :
    (Memory.cons i b m).read k = m.read k := by
  unfold Memory.cons
  split
  · rfl
  · simp only [Memory.read, if_neg hk]
    split
    · exact (Memory.read_above ha (Nat.le_of_lt ‹k < i›)).symm
    · rfl

/-- A read after a write to the same address gives the byte written. -/
theorem Memory.read_write_same {m : Memory} (i : Nat) (b : Byte) (h : m.wf = true) : (m.write i b).read i = b := by
  induction m with
  | nil => exact Memory.read_cons_same rfl
  | cons x r ih =>
    obtain ⟨j, c⟩ := x
    obtain ⟨-, ha, hr⟩ := Memory.wf_cons h
    simp only [Memory.write]
    split
    · refine Memory.read_cons_same ?_
      exact (Memory.above_pair _ _ _ _).2 ⟨‹i < j›, Memory.above_mono (Nat.le_of_lt ‹i < j›) ha⟩
    · split
      · subst_vars
        exact Memory.read_cons_same ha
      · simp [Memory.read, *]

/-- A write leaves every other address alone. -/
theorem Memory.read_write_other {m : Memory} {i k : Nat} (b : Byte) (h : m.wf = true) (hk : k ≠ i) :
    (m.write i b).read k = m.read k := by
  induction m with
  | nil => exact Memory.read_cons_other (m := []) rfl hk
  | cons x r ih =>
    obtain ⟨j, c⟩ := x
    obtain ⟨-, ha, hr⟩ := Memory.wf_cons h
    simp only [Memory.write]
    split
    · refine Memory.read_cons_other ?_ hk
      exact (Memory.above_pair _ _ _ _).2 ⟨‹i < j›, Memory.above_mono (Nat.le_of_lt ‹i < j›) ha⟩
    · split
      · subst_vars
        rw [Memory.read_cons_other ha hk]
        simp only [Memory.read, if_neg hk]
        split
        · exact Memory.read_above ha (Nat.le_of_lt ‹k < j›)
        · rfl
      · simp [Memory.read, ih hr]

/-! ## Writes of many bytes -/

theorem Memory.putAll_wf {m : Memory} (l : List (Nat × Byte)) (h : m.wf = true) : (m.putAll l).wf = true := by
  induction l generalizing m with
  | nil => exact h
  | cons x r ih => exact ih (Memory.write_wf _ _ h)

theorem Memory.writeN_wf {m : Memory} (n a v : Nat) (h : m.wf = true) : (m.writeN a v n).wf = true := by
  induction n generalizing m a v with
  | zero => exact h
  | succ n ih => exact ih _ _ (Memory.write_wf _ _ h)

theorem Memory.hostPut_wf {m : Memory} (a : Nat) (l : List Byte) (h : m.wf = true) : (hostPut m a l).wf = true := by
  induction l generalizing m a with
  | nil => exact h
  | cons b r ih => exact ih _ (Memory.write_wf _ _ h)

theorem Memory.foldl_wf {m : Memory} (l : List (Nat × Byte)) (h : m.wf = true) :
    (l.foldl (fun m c => m.write c.1 c.2) m).wf = true := by
  induction l generalizing m with
  | nil => exact h
  | cons x r ih => exact ih (Memory.write_wf _ _ h)

/-- A write of many bytes leaves the addresses that it does not name alone. -/
theorem Memory.foldl_read_other {m : Memory} {k : Nat} (l : List (Nat × Byte)) (h : m.wf = true)
    (hk : ∀ x ∈ l, x.1 ≠ k) : (l.foldl (fun m c => m.write c.1 c.2) m).read k = m.read k := by
  induction l generalizing m with
  | nil => rfl
  | cons x r ih =>
    rw [List.foldl_cons, ih (Memory.write_wf _ _ h) (fun y hy => hk y (List.mem_cons_of_mem _ hy))]
    exact Memory.read_write_other _ h (fun e => hk x (List.mem_cons_self ..) e.symm)

end Sys2Proof.Machine
end

