-- ==== Sys2Proof/Laws/State.lean ====
section
/-!
SUPPORT. What every update of the state and of a context leaves in every field, and what the accessors then answer.
-/

namespace Sys2Proof.Machine

/-! ## Updates of the state, by field -/

@[simp] theorem State.setCtx_mod (s : State) (hw : Nat) (c : Ctx) : (s.setCtx hw c).mod = s.mod := rfl
@[simp] theorem State.setCtx_front (s : State) (hw : Nat) (c : Ctx) : (s.setCtx hw c).front = s.front := rfl
@[simp] theorem State.setCtx_clusters (s : State) (hw : Nat) (c : Ctx) : (s.setCtx hw c).clusters = s.clusters := rfl
@[simp] theorem State.setCtx_cores (s : State) (hw : Nat) (c : Ctx) : (s.setCtx hw c).cores = s.cores := rfl
@[simp] theorem State.setCtx_aux (s : State) (hw : Nat) (c : Ctx) : (s.setCtx hw c).aux = s.aux := rfl
@[simp] theorem State.setCtx_ctxs (s : State) (hw : Nat) (c : Ctx) : (s.setCtx hw c).ctxs = SMap.put s.ctxs hw c := rfl
@[simp] theorem State.setCtx_mem (s : State) (hw : Nat) (c : Ctx) : (s.setCtx hw c).mem = s.mem := rfl
@[simp] theorem State.setCtx_cur (s : State) (hw : Nat) (c : Ctx) : (s.setCtx hw c).cur = s.cur := rfl
@[simp] theorem State.setCtx_agenda (s : State) (hw : Nat) (c : Ctx) : (s.setCtx hw c).agenda = s.agenda := rfl
@[simp] theorem State.setCtx_draw (s : State) (hw : Nat) (c : Ctx) : (s.setCtx hw c).draw = s.draw := rfl
@[simp] theorem State.setCtx_oldBytes (s : State) (hw : Nat) (c : Ctx) : (s.setCtx hw c).oldBytes = s.oldBytes := rfl
@[simp] theorem State.setCtx_shared (s : State) (hw : Nat) (c : Ctx) : (s.setCtx hw c).shared = s.shared := rfl

@[simp] theorem State.modCtx_mod (s : State) (hw : Nat) (f : Ctx → Ctx) : (s.modCtx hw f).mod = s.mod := rfl
@[simp] theorem State.modCtx_front (s : State) (hw : Nat) (f : Ctx → Ctx) : (s.modCtx hw f).front = s.front := rfl
@[simp] theorem State.modCtx_clusters (s : State) (hw : Nat) (f : Ctx → Ctx) : (s.modCtx hw f).clusters = s.clusters := rfl
@[simp] theorem State.modCtx_cores (s : State) (hw : Nat) (f : Ctx → Ctx) : (s.modCtx hw f).cores = s.cores := rfl
@[simp] theorem State.modCtx_aux (s : State) (hw : Nat) (f : Ctx → Ctx) : (s.modCtx hw f).aux = s.aux := rfl
@[simp] theorem State.modCtx_ctxs (s : State) (hw : Nat) (f : Ctx → Ctx) : (s.modCtx hw f).ctxs = SMap.put s.ctxs hw (f (s.ctx hw)) := rfl
@[simp] theorem State.modCtx_mem (s : State) (hw : Nat) (f : Ctx → Ctx) : (s.modCtx hw f).mem = s.mem := rfl
@[simp] theorem State.modCtx_cur (s : State) (hw : Nat) (f : Ctx → Ctx) : (s.modCtx hw f).cur = s.cur := rfl
@[simp] theorem State.modCtx_agenda (s : State) (hw : Nat) (f : Ctx → Ctx) : (s.modCtx hw f).agenda = s.agenda := rfl
@[simp] theorem State.modCtx_draw (s : State) (hw : Nat) (f : Ctx → Ctx) : (s.modCtx hw f).draw = s.draw := rfl
@[simp] theorem State.modCtx_oldBytes (s : State) (hw : Nat) (f : Ctx → Ctx) : (s.modCtx hw f).oldBytes = s.oldBytes := rfl
@[simp] theorem State.modCtx_shared (s : State) (hw : Nat) (f : Ctx → Ctx) : (s.modCtx hw f).shared = s.shared := rfl

@[simp] theorem State.setCore_mod (s : State) (n : Nat) (c : Core) : (s.setCore n c).mod = s.mod := rfl
@[simp] theorem State.setCore_front (s : State) (n : Nat) (c : Core) : (s.setCore n c).front = s.front := rfl
@[simp] theorem State.setCore_clusters (s : State) (n : Nat) (c : Core) : (s.setCore n c).clusters = s.clusters := rfl
@[simp] theorem State.setCore_cores (s : State) (n : Nat) (c : Core) : (s.setCore n c).cores = SMap.put s.cores n c := rfl
@[simp] theorem State.setCore_aux (s : State) (n : Nat) (c : Core) : (s.setCore n c).aux = s.aux := rfl
@[simp] theorem State.setCore_ctxs (s : State) (n : Nat) (c : Core) : (s.setCore n c).ctxs = s.ctxs := rfl
@[simp] theorem State.setCore_mem (s : State) (n : Nat) (c : Core) : (s.setCore n c).mem = s.mem := rfl
@[simp] theorem State.setCore_cur (s : State) (n : Nat) (c : Core) : (s.setCore n c).cur = s.cur := rfl
@[simp] theorem State.setCore_agenda (s : State) (n : Nat) (c : Core) : (s.setCore n c).agenda = s.agenda := rfl
@[simp] theorem State.setCore_draw (s : State) (n : Nat) (c : Core) : (s.setCore n c).draw = s.draw := rfl
@[simp] theorem State.setCore_oldBytes (s : State) (n : Nat) (c : Core) : (s.setCore n c).oldBytes = s.oldBytes := rfl
@[simp] theorem State.setCore_shared (s : State) (n : Nat) (c : Core) : (s.setCore n c).shared = s.shared := rfl

@[simp] theorem State.modCore_mod (s : State) (n : Nat) (f : Core → Core) : (s.modCore n f).mod = s.mod := rfl
@[simp] theorem State.modCore_front (s : State) (n : Nat) (f : Core → Core) : (s.modCore n f).front = s.front := rfl
@[simp] theorem State.modCore_clusters (s : State) (n : Nat) (f : Core → Core) : (s.modCore n f).clusters = s.clusters := rfl
@[simp] theorem State.modCore_cores (s : State) (n : Nat) (f : Core → Core) : (s.modCore n f).cores = SMap.put s.cores n (f (s.core n)) := rfl
@[simp] theorem State.modCore_aux (s : State) (n : Nat) (f : Core → Core) : (s.modCore n f).aux = s.aux := rfl
@[simp] theorem State.modCore_ctxs (s : State) (n : Nat) (f : Core → Core) : (s.modCore n f).ctxs = s.ctxs := rfl
@[simp] theorem State.modCore_mem (s : State) (n : Nat) (f : Core → Core) : (s.modCore n f).mem = s.mem := rfl
@[simp] theorem State.modCore_cur (s : State) (n : Nat) (f : Core → Core) : (s.modCore n f).cur = s.cur := rfl
@[simp] theorem State.modCore_agenda (s : State) (n : Nat) (f : Core → Core) : (s.modCore n f).agenda = s.agenda := rfl
@[simp] theorem State.modCore_draw (s : State) (n : Nat) (f : Core → Core) : (s.modCore n f).draw = s.draw := rfl
@[simp] theorem State.modCore_oldBytes (s : State) (n : Nat) (f : Core → Core) : (s.modCore n f).oldBytes = s.oldBytes := rfl
@[simp] theorem State.modCore_shared (s : State) (n : Nat) (f : Core → Core) : (s.modCore n f).shared = s.shared := rfl

@[simp] theorem State.modAux_mod (s : State) (n : Nat) (f : CoreAux → CoreAux) : (s.modAux n f).mod = s.mod := rfl
@[simp] theorem State.modAux_front (s : State) (n : Nat) (f : CoreAux → CoreAux) : (s.modAux n f).front = s.front := rfl
@[simp] theorem State.modAux_clusters (s : State) (n : Nat) (f : CoreAux → CoreAux) : (s.modAux n f).clusters = s.clusters := rfl
@[simp] theorem State.modAux_cores (s : State) (n : Nat) (f : CoreAux → CoreAux) : (s.modAux n f).cores = s.cores := rfl
@[simp] theorem State.modAux_aux (s : State) (n : Nat) (f : CoreAux → CoreAux) : (s.modAux n f).aux = SMap.put s.aux n (f (s.auxOf n)) := rfl
@[simp] theorem State.modAux_ctxs (s : State) (n : Nat) (f : CoreAux → CoreAux) : (s.modAux n f).ctxs = s.ctxs := rfl
@[simp] theorem State.modAux_mem (s : State) (n : Nat) (f : CoreAux → CoreAux) : (s.modAux n f).mem = s.mem := rfl
@[simp] theorem State.modAux_cur (s : State) (n : Nat) (f : CoreAux → CoreAux) : (s.modAux n f).cur = s.cur := rfl
@[simp] theorem State.modAux_agenda (s : State) (n : Nat) (f : CoreAux → CoreAux) : (s.modAux n f).agenda = s.agenda := rfl
@[simp] theorem State.modAux_draw (s : State) (n : Nat) (f : CoreAux → CoreAux) : (s.modAux n f).draw = s.draw := rfl
@[simp] theorem State.modAux_oldBytes (s : State) (n : Nat) (f : CoreAux → CoreAux) : (s.modAux n f).oldBytes = s.oldBytes := rfl
@[simp] theorem State.modAux_shared (s : State) (n : Nat) (f : CoreAux → CoreAux) : (s.modAux n f).shared = s.shared := rfl

@[simp] theorem State.modCl_mod (s : State) (n : Nat) (f : Cluster → Cluster) : (s.modCl n f).mod = s.mod := rfl
@[simp] theorem State.modCl_front (s : State) (n : Nat) (f : Cluster → Cluster) : (s.modCl n f).front = s.front := rfl
@[simp] theorem State.modCl_clusters (s : State) (n : Nat) (f : Cluster → Cluster) : (s.modCl n f).clusters = SMap.put s.clusters n (f (s.cluster n)) := rfl
@[simp] theorem State.modCl_cores (s : State) (n : Nat) (f : Cluster → Cluster) : (s.modCl n f).cores = s.cores := rfl
@[simp] theorem State.modCl_aux (s : State) (n : Nat) (f : Cluster → Cluster) : (s.modCl n f).aux = s.aux := rfl
@[simp] theorem State.modCl_ctxs (s : State) (n : Nat) (f : Cluster → Cluster) : (s.modCl n f).ctxs = s.ctxs := rfl
@[simp] theorem State.modCl_mem (s : State) (n : Nat) (f : Cluster → Cluster) : (s.modCl n f).mem = s.mem := rfl
@[simp] theorem State.modCl_cur (s : State) (n : Nat) (f : Cluster → Cluster) : (s.modCl n f).cur = s.cur := rfl
@[simp] theorem State.modCl_agenda (s : State) (n : Nat) (f : Cluster → Cluster) : (s.modCl n f).agenda = s.agenda := rfl
@[simp] theorem State.modCl_draw (s : State) (n : Nat) (f : Cluster → Cluster) : (s.modCl n f).draw = s.draw := rfl
@[simp] theorem State.modCl_oldBytes (s : State) (n : Nat) (f : Cluster → Cluster) : (s.modCl n f).oldBytes = s.oldBytes := rfl
@[simp] theorem State.modCl_shared (s : State) (n : Nat) (f : Cluster → Cluster) : (s.modCl n f).shared = s.shared := rfl

@[simp] theorem State.modQueue_mod (s : State) (q : Nat) (f : Queue → Queue) : (s.modQueue q f).mod = s.mod := rfl
@[simp] theorem State.modQueue_front (s : State) (q : Nat) (f : Queue → Queue) : (s.modQueue q f).front = { s.front with queues := SMap.put s.front.queues q (f (s.queue q)) } := rfl
@[simp] theorem State.modQueue_clusters (s : State) (q : Nat) (f : Queue → Queue) : (s.modQueue q f).clusters = s.clusters := rfl
@[simp] theorem State.modQueue_cores (s : State) (q : Nat) (f : Queue → Queue) : (s.modQueue q f).cores = s.cores := rfl
@[simp] theorem State.modQueue_aux (s : State) (q : Nat) (f : Queue → Queue) : (s.modQueue q f).aux = s.aux := rfl
@[simp] theorem State.modQueue_ctxs (s : State) (q : Nat) (f : Queue → Queue) : (s.modQueue q f).ctxs = s.ctxs := rfl
@[simp] theorem State.modQueue_mem (s : State) (q : Nat) (f : Queue → Queue) : (s.modQueue q f).mem = s.mem := rfl
@[simp] theorem State.modQueue_cur (s : State) (q : Nat) (f : Queue → Queue) : (s.modQueue q f).cur = s.cur := rfl
@[simp] theorem State.modQueue_agenda (s : State) (q : Nat) (f : Queue → Queue) : (s.modQueue q f).agenda = s.agenda := rfl
@[simp] theorem State.modQueue_draw (s : State) (q : Nat) (f : Queue → Queue) : (s.modQueue q f).draw = s.draw := rfl
@[simp] theorem State.modQueue_oldBytes (s : State) (q : Nat) (f : Queue → Queue) : (s.modQueue q f).oldBytes = s.oldBytes := rfl
@[simp] theorem State.modQueue_shared (s : State) (q : Nat) (f : Queue → Queue) : (s.modQueue q f).shared = s.shared := rfl

@[simp] theorem State.modLink_mod (s : State) (n : Nat) (f : Link → Link) : (s.modLink n f).mod = s.mod := rfl
@[simp] theorem State.modLink_front (s : State) (n : Nat) (f : Link → Link) : (s.modLink n f).front = { s.front with links := SMap.put s.front.links n (f (s.link n)) } := rfl
@[simp] theorem State.modLink_clusters (s : State) (n : Nat) (f : Link → Link) : (s.modLink n f).clusters = s.clusters := rfl
@[simp] theorem State.modLink_cores (s : State) (n : Nat) (f : Link → Link) : (s.modLink n f).cores = s.cores := rfl
@[simp] theorem State.modLink_aux (s : State) (n : Nat) (f : Link → Link) : (s.modLink n f).aux = s.aux := rfl
@[simp] theorem State.modLink_ctxs (s : State) (n : Nat) (f : Link → Link) : (s.modLink n f).ctxs = s.ctxs := rfl
@[simp] theorem State.modLink_mem (s : State) (n : Nat) (f : Link → Link) : (s.modLink n f).mem = s.mem := rfl
@[simp] theorem State.modLink_cur (s : State) (n : Nat) (f : Link → Link) : (s.modLink n f).cur = s.cur := rfl
@[simp] theorem State.modLink_agenda (s : State) (n : Nat) (f : Link → Link) : (s.modLink n f).agenda = s.agenda := rfl
@[simp] theorem State.modLink_draw (s : State) (n : Nat) (f : Link → Link) : (s.modLink n f).draw = s.draw := rfl
@[simp] theorem State.modLink_oldBytes (s : State) (n : Nat) (f : Link → Link) : (s.modLink n f).oldBytes = s.oldBytes := rfl
@[simp] theorem State.modLink_shared (s : State) (n : Nat) (f : Link → Link) : (s.modLink n f).shared = s.shared := rfl

@[simp] theorem State.fresh_mod (s : State) : (s.fresh.2).mod = s.mod := rfl
@[simp] theorem State.fresh_front (s : State) : (s.fresh.2).front = { s.front with nextId := s.front.nextId + 1 } := rfl
@[simp] theorem State.fresh_clusters (s : State) : (s.fresh.2).clusters = s.clusters := rfl
@[simp] theorem State.fresh_cores (s : State) : (s.fresh.2).cores = s.cores := rfl
@[simp] theorem State.fresh_aux (s : State) : (s.fresh.2).aux = s.aux := rfl
@[simp] theorem State.fresh_ctxs (s : State) : (s.fresh.2).ctxs = s.ctxs := rfl
@[simp] theorem State.fresh_mem (s : State) : (s.fresh.2).mem = s.mem := rfl
@[simp] theorem State.fresh_cur (s : State) : (s.fresh.2).cur = s.cur := rfl
@[simp] theorem State.fresh_agenda (s : State) : (s.fresh.2).agenda = s.agenda := rfl
@[simp] theorem State.fresh_draw (s : State) : (s.fresh.2).draw = s.draw := rfl
@[simp] theorem State.fresh_oldBytes (s : State) : (s.fresh.2).oldBytes = s.oldBytes := rfl
@[simp] theorem State.fresh_shared (s : State) : (s.fresh.2).shared = s.shared := rfl

@[simp] theorem State.drawn_mod (s : State) : (s.drawn.2).mod = s.mod := rfl
@[simp] theorem State.drawn_front (s : State) : (s.drawn.2).front = s.front := rfl
@[simp] theorem State.drawn_clusters (s : State) : (s.drawn.2).clusters = s.clusters := rfl
@[simp] theorem State.drawn_cores (s : State) : (s.drawn.2).cores = s.cores := rfl
@[simp] theorem State.drawn_aux (s : State) : (s.drawn.2).aux = s.aux := rfl
@[simp] theorem State.drawn_ctxs (s : State) : (s.drawn.2).ctxs = s.ctxs := rfl
@[simp] theorem State.drawn_mem (s : State) : (s.drawn.2).mem = s.mem := rfl
@[simp] theorem State.drawn_cur (s : State) : (s.drawn.2).cur = s.cur := rfl
@[simp] theorem State.drawn_agenda (s : State) : (s.drawn.2).agenda = s.agenda := rfl
@[simp] theorem State.drawn_draw (s : State) : (s.drawn.2).draw = s.draw + 1 := rfl
@[simp] theorem State.drawn_oldBytes (s : State) : (s.drawn.2).oldBytes = s.oldBytes := rfl
@[simp] theorem State.drawn_shared (s : State) : (s.drawn.2).shared = s.shared := rfl

@[simp] theorem State.met_mod (s : State) (v : Verdict) : (s.met v).mod = s.mod := rfl
@[simp] theorem State.met_front (s : State) (v : Verdict) : (s.met v).front = s.front := rfl
@[simp] theorem State.met_clusters (s : State) (v : Verdict) : (s.met v).clusters = s.clusters := rfl
@[simp] theorem State.met_cores (s : State) (v : Verdict) : (s.met v).cores = s.cores := rfl
@[simp] theorem State.met_aux (s : State) (v : Verdict) : (s.met v).aux = s.aux := rfl
@[simp] theorem State.met_ctxs (s : State) (v : Verdict) : (s.met v).ctxs = s.ctxs := rfl
@[simp] theorem State.met_mem (s : State) (v : Verdict) : (s.met v).mem = s.mem := rfl
@[simp] theorem State.met_cur (s : State) (v : Verdict) : (s.met v).cur = { s.cur with verdict := v } := rfl
@[simp] theorem State.met_agenda (s : State) (v : Verdict) : (s.met v).agenda = s.agenda := rfl
@[simp] theorem State.met_draw (s : State) (v : Verdict) : (s.met v).draw = s.draw := rfl
@[simp] theorem State.met_oldBytes (s : State) (v : Verdict) : (s.met v).oldBytes = s.oldBytes := rfl
@[simp] theorem State.met_shared (s : State) (v : Verdict) : (s.met v).shared = s.shared := rfl

@[simp] theorem State.spadRaw_mod (s : State) (l : List (Nat × Byte)) : (s.spadRaw l).mod = s.mod := rfl
@[simp] theorem State.spadRaw_front (s : State) (l : List (Nat × Byte)) : (s.spadRaw l).front = s.front := rfl
@[simp] theorem State.spadRaw_clusters (s : State) (l : List (Nat × Byte)) : (s.spadRaw l).clusters = s.clusters := rfl
@[simp] theorem State.spadRaw_cores (s : State) (l : List (Nat × Byte)) : (s.spadRaw l).cores = s.cores := rfl
@[simp] theorem State.spadRaw_aux (s : State) (l : List (Nat × Byte)) : (s.spadRaw l).aux = s.aux := rfl
@[simp] theorem State.spadRaw_ctxs (s : State) (l : List (Nat × Byte)) : (s.spadRaw l).ctxs = s.ctxs := rfl
@[simp] theorem State.spadRaw_mem (s : State) (l : List (Nat × Byte)) : (s.spadRaw l).mem = { s.mem with spad := l.foldl (fun m c => m.write c.1 c.2) s.mem.spad } := rfl
@[simp] theorem State.spadRaw_cur (s : State) (l : List (Nat × Byte)) : (s.spadRaw l).cur = s.cur := rfl
@[simp] theorem State.spadRaw_agenda (s : State) (l : List (Nat × Byte)) : (s.spadRaw l).agenda = s.agenda := rfl
@[simp] theorem State.spadRaw_draw (s : State) (l : List (Nat × Byte)) : (s.spadRaw l).draw = s.draw := rfl
@[simp] theorem State.spadRaw_oldBytes (s : State) (l : List (Nat × Byte)) : (s.spadRaw l).oldBytes = s.oldBytes := rfl
@[simp] theorem State.spadRaw_shared (s : State) (l : List (Nat × Byte)) : (s.spadRaw l).shared = s.shared := rfl

@[simp] theorem State.acsWrite_mod (s : State) (core tile r c : Nat) (v : Word32) : (s.acsWrite core tile r c v).mod = s.mod := rfl
@[simp] theorem State.acsWrite_front (s : State) (core tile r c : Nat) (v : Word32) : (s.acsWrite core tile r c v).front = s.front := rfl
@[simp] theorem State.acsWrite_clusters (s : State) (core tile r c : Nat) (v : Word32) : (s.acsWrite core tile r c v).clusters = s.clusters := rfl
@[simp] theorem State.acsWrite_cores (s : State) (core tile r c : Nat) (v : Word32) : (s.acsWrite core tile r c v).cores = s.cores := rfl
@[simp] theorem State.acsWrite_aux (s : State) (core tile r c : Nat) (v : Word32) : (s.acsWrite core tile r c v).aux = s.aux := rfl
@[simp] theorem State.acsWrite_ctxs (s : State) (core tile r c : Nat) (v : Word32) : (s.acsWrite core tile r c v).ctxs = s.ctxs := rfl
@[simp] theorem State.acsWrite_mem (s : State) (core tile r c : Nat) (v : Word32) : (s.acsWrite core tile r c v).mem = { s.mem with acs := SMap.put s.mem.acs (acsKey core tile r c) v } := rfl
@[simp] theorem State.acsWrite_cur (s : State) (core tile r c : Nat) (v : Word32) : (s.acsWrite core tile r c v).cur = s.cur := rfl
@[simp] theorem State.acsWrite_agenda (s : State) (core tile r c : Nat) (v : Word32) : (s.acsWrite core tile r c v).agenda = s.agenda := rfl
@[simp] theorem State.acsWrite_draw (s : State) (core tile r c : Nat) (v : Word32) : (s.acsWrite core tile r c v).draw = s.draw := rfl
@[simp] theorem State.acsWrite_oldBytes (s : State) (core tile r c : Nat) (v : Word32) : (s.acsWrite core tile r c v).oldBytes = s.oldBytes := rfl
@[simp] theorem State.acsWrite_shared (s : State) (core tile r c : Nat) (v : Word32) : (s.acsWrite core tile r c v).shared = s.shared := rfl

@[simp] theorem State.biasWrite_mod (s : State) (key : Nat) (v : Word32) : (s.biasWrite key v).mod = s.mod := rfl
@[simp] theorem State.biasWrite_front (s : State) (key : Nat) (v : Word32) : (s.biasWrite key v).front = s.front := rfl
@[simp] theorem State.biasWrite_clusters (s : State) (key : Nat) (v : Word32) : (s.biasWrite key v).clusters = s.clusters := rfl
@[simp] theorem State.biasWrite_cores (s : State) (key : Nat) (v : Word32) : (s.biasWrite key v).cores = s.cores := rfl
@[simp] theorem State.biasWrite_aux (s : State) (key : Nat) (v : Word32) : (s.biasWrite key v).aux = s.aux := rfl
@[simp] theorem State.biasWrite_ctxs (s : State) (key : Nat) (v : Word32) : (s.biasWrite key v).ctxs = s.ctxs := rfl
@[simp] theorem State.biasWrite_mem (s : State) (key : Nat) (v : Word32) : (s.biasWrite key v).mem = { s.mem with bias := SMap.put s.mem.bias key v } := rfl
@[simp] theorem State.biasWrite_cur (s : State) (key : Nat) (v : Word32) : (s.biasWrite key v).cur = s.cur := rfl
@[simp] theorem State.biasWrite_agenda (s : State) (key : Nat) (v : Word32) : (s.biasWrite key v).agenda = s.agenda := rfl
@[simp] theorem State.biasWrite_draw (s : State) (key : Nat) (v : Word32) : (s.biasWrite key v).draw = s.draw := rfl
@[simp] theorem State.biasWrite_oldBytes (s : State) (key : Nat) (v : Word32) : (s.biasWrite key v).oldBytes = s.oldBytes := rfl
@[simp] theorem State.biasWrite_shared (s : State) (key : Nat) (v : Word32) : (s.biasWrite key v).shared = s.shared := rfl

@[simp] theorem State.imemWrite_mod (s : State) (a : Nat) (bs : List Byte) : (s.imemWrite a bs).mod = s.mod := rfl
@[simp] theorem State.imemWrite_front (s : State) (a : Nat) (bs : List Byte) : (s.imemWrite a bs).front = s.front := rfl
@[simp] theorem State.imemWrite_clusters (s : State) (a : Nat) (bs : List Byte) : (s.imemWrite a bs).clusters = s.clusters := rfl
@[simp] theorem State.imemWrite_cores (s : State) (a : Nat) (bs : List Byte) : (s.imemWrite a bs).cores = s.cores := rfl
@[simp] theorem State.imemWrite_aux (s : State) (a : Nat) (bs : List Byte) : (s.imemWrite a bs).aux = s.aux := rfl
@[simp] theorem State.imemWrite_ctxs (s : State) (a : Nat) (bs : List Byte) : (s.imemWrite a bs).ctxs = s.ctxs := rfl
@[simp] theorem State.imemWrite_mem (s : State) (a : Nat) (bs : List Byte) : (s.imemWrite a bs).mem = { s.mem with imem := hostPut s.mem.imem a bs } := rfl
@[simp] theorem State.imemWrite_cur (s : State) (a : Nat) (bs : List Byte) : (s.imemWrite a bs).cur = s.cur := rfl
@[simp] theorem State.imemWrite_agenda (s : State) (a : Nat) (bs : List Byte) : (s.imemWrite a bs).agenda = s.agenda := rfl
@[simp] theorem State.imemWrite_draw (s : State) (a : Nat) (bs : List Byte) : (s.imemWrite a bs).draw = s.draw := rfl
@[simp] theorem State.imemWrite_oldBytes (s : State) (a : Nat) (bs : List Byte) : (s.imemWrite a bs).oldBytes = s.oldBytes := rfl
@[simp] theorem State.imemWrite_shared (s : State) (a : Nat) (bs : List Byte) : (s.imemWrite a bs).shared = s.shared := rfl

@[simp] theorem State.unseat_mod (s : State) : (s.unseat).mod = s.mod := rfl
@[simp] theorem State.unseat_front (s : State) : (s.unseat).front = s.front := rfl
@[simp] theorem State.unseat_clusters (s : State) : (s.unseat).clusters = s.clusters := rfl
@[simp] theorem State.unseat_cores (s : State) : (s.unseat).cores = s.cores := rfl
@[simp] theorem State.unseat_aux (s : State) : (s.unseat).aux = s.aux := rfl
@[simp] theorem State.unseat_ctxs (s : State) : (s.unseat).ctxs = s.ctxs := rfl
@[simp] theorem State.unseat_mem (s : State) : (s.unseat).mem = s.mem := rfl
@[simp] theorem State.unseat_cur (s : State) : (s.unseat).cur = Cursor.reset := rfl
@[simp] theorem State.unseat_agenda (s : State) : (s.unseat).agenda = s.agenda := rfl
@[simp] theorem State.unseat_draw (s : State) : (s.unseat).draw = s.draw := rfl
@[simp] theorem State.unseat_oldBytes (s : State) : (s.unseat).oldBytes = s.oldBytes := rfl
@[simp] theorem State.unseat_shared (s : State) : (s.unseat).shared = s.shared := rfl

@[simp] theorem State.asCand_mod (s : State) (cand : Bool) : (s.asCand cand).mod = s.mod := rfl
@[simp] theorem State.asCand_front (s : State) (cand : Bool) : (s.asCand cand).front = s.front := rfl
@[simp] theorem State.asCand_clusters (s : State) (cand : Bool) : (s.asCand cand).clusters = s.clusters := rfl
@[simp] theorem State.asCand_cores (s : State) (cand : Bool) : (s.asCand cand).cores = s.cores := rfl
@[simp] theorem State.asCand_aux (s : State) (cand : Bool) : (s.asCand cand).aux = s.aux := rfl
@[simp] theorem State.asCand_ctxs (s : State) (cand : Bool) : (s.asCand cand).ctxs = s.ctxs := rfl
@[simp] theorem State.asCand_mem (s : State) (cand : Bool) : (s.asCand cand).mem = s.mem := rfl
@[simp] theorem State.asCand_cur (s : State) (cand : Bool) : (s.asCand cand).cur = { Cursor.reset with cand := cand } := rfl
@[simp] theorem State.asCand_agenda (s : State) (cand : Bool) : (s.asCand cand).agenda = s.agenda := rfl
@[simp] theorem State.asCand_draw (s : State) (cand : Bool) : (s.asCand cand).draw = s.draw := rfl
@[simp] theorem State.asCand_oldBytes (s : State) (cand : Bool) : (s.asCand cand).oldBytes = s.oldBytes := rfl
@[simp] theorem State.asCand_shared (s : State) (cand : Bool) : (s.asCand cand).shared = s.shared := rfl

@[simp] theorem State.modLoads_mod (s : State) (f : List KeyLoad → List KeyLoad) : (s.modLoads f).mod = { s.mod with trust := { s.mod.trust with loads := f s.mod.trust.loads } } := rfl
@[simp] theorem State.modLoads_front (s : State) (f : List KeyLoad → List KeyLoad) : (s.modLoads f).front = s.front := rfl
@[simp] theorem State.modLoads_clusters (s : State) (f : List KeyLoad → List KeyLoad) : (s.modLoads f).clusters = s.clusters := rfl
@[simp] theorem State.modLoads_cores (s : State) (f : List KeyLoad → List KeyLoad) : (s.modLoads f).cores = s.cores := rfl
@[simp] theorem State.modLoads_aux (s : State) (f : List KeyLoad → List KeyLoad) : (s.modLoads f).aux = s.aux := rfl
@[simp] theorem State.modLoads_ctxs (s : State) (f : List KeyLoad → List KeyLoad) : (s.modLoads f).ctxs = s.ctxs := rfl
@[simp] theorem State.modLoads_mem (s : State) (f : List KeyLoad → List KeyLoad) : (s.modLoads f).mem = s.mem := rfl
@[simp] theorem State.modLoads_cur (s : State) (f : List KeyLoad → List KeyLoad) : (s.modLoads f).cur = s.cur := rfl
@[simp] theorem State.modLoads_agenda (s : State) (f : List KeyLoad → List KeyLoad) : (s.modLoads f).agenda = s.agenda := rfl
@[simp] theorem State.modLoads_draw (s : State) (f : List KeyLoad → List KeyLoad) : (s.modLoads f).draw = s.draw := rfl
@[simp] theorem State.modLoads_oldBytes (s : State) (f : List KeyLoad → List KeyLoad) : (s.modLoads f).oldBytes = s.oldBytes := rfl
@[simp] theorem State.modLoads_shared (s : State) (f : List KeyLoad → List KeyLoad) : (s.modLoads f).shared = s.shared := rfl

@[simp] theorem State.modPings_mod (s : State) (f : List (Nat × List Nat) → List (Nat × List Nat)) : (s.modPings f).mod = s.mod := rfl
@[simp] theorem State.modPings_front (s : State) (f : List (Nat × List Nat) → List (Nat × List Nat)) : (s.modPings f).front = { s.front with pings := f s.front.pings } := rfl
@[simp] theorem State.modPings_clusters (s : State) (f : List (Nat × List Nat) → List (Nat × List Nat)) : (s.modPings f).clusters = s.clusters := rfl
@[simp] theorem State.modPings_cores (s : State) (f : List (Nat × List Nat) → List (Nat × List Nat)) : (s.modPings f).cores = s.cores := rfl
@[simp] theorem State.modPings_aux (s : State) (f : List (Nat × List Nat) → List (Nat × List Nat)) : (s.modPings f).aux = s.aux := rfl
@[simp] theorem State.modPings_ctxs (s : State) (f : List (Nat × List Nat) → List (Nat × List Nat)) : (s.modPings f).ctxs = s.ctxs := rfl
@[simp] theorem State.modPings_mem (s : State) (f : List (Nat × List Nat) → List (Nat × List Nat)) : (s.modPings f).mem = s.mem := rfl
@[simp] theorem State.modPings_cur (s : State) (f : List (Nat × List Nat) → List (Nat × List Nat)) : (s.modPings f).cur = s.cur := rfl
@[simp] theorem State.modPings_agenda (s : State) (f : List (Nat × List Nat) → List (Nat × List Nat)) : (s.modPings f).agenda = s.agenda := rfl
@[simp] theorem State.modPings_draw (s : State) (f : List (Nat × List Nat) → List (Nat × List Nat)) : (s.modPings f).draw = s.draw := rfl
@[simp] theorem State.modPings_oldBytes (s : State) (f : List (Nat × List Nat) → List (Nat × List Nat)) : (s.modPings f).oldBytes = s.oldBytes := rfl
@[simp] theorem State.modPings_shared (s : State) (f : List (Nat × List Nat) → List (Nat × List Nat)) : (s.modPings f).shared = s.shared := rfl

@[simp] theorem State.modArmed_mod (s : State) (p : Watch → Bool) (f : Watch → Watch) : (s.modArmed p f).mod = s.mod := rfl
@[simp] theorem State.modArmed_front (s : State) (p : Watch → Bool) (f : Watch → Watch) : (s.modArmed p f).front = s.front := rfl
@[simp] theorem State.modArmed_clusters (s : State) (p : Watch → Bool) (f : Watch → Watch) : (s.modArmed p f).clusters = s.clusters.map (fun c => (c.1, { c.2 with watch := c.2.watch.map (fun x => if p x.2 then (x.1, f x.2) else x) })) := rfl
@[simp] theorem State.modArmed_cores (s : State) (p : Watch → Bool) (f : Watch → Watch) : (s.modArmed p f).cores = s.cores := rfl
@[simp] theorem State.modArmed_aux (s : State) (p : Watch → Bool) (f : Watch → Watch) : (s.modArmed p f).aux = s.aux := rfl
@[simp] theorem State.modArmed_ctxs (s : State) (p : Watch → Bool) (f : Watch → Watch) : (s.modArmed p f).ctxs = s.ctxs := rfl
@[simp] theorem State.modArmed_mem (s : State) (p : Watch → Bool) (f : Watch → Watch) : (s.modArmed p f).mem = s.mem := rfl
@[simp] theorem State.modArmed_cur (s : State) (p : Watch → Bool) (f : Watch → Watch) : (s.modArmed p f).cur = s.cur := rfl
@[simp] theorem State.modArmed_agenda (s : State) (p : Watch → Bool) (f : Watch → Watch) : (s.modArmed p f).agenda = s.agenda := rfl
@[simp] theorem State.modArmed_draw (s : State) (p : Watch → Bool) (f : Watch → Watch) : (s.modArmed p f).draw = s.draw := rfl
@[simp] theorem State.modArmed_oldBytes (s : State) (p : Watch → Bool) (f : Watch → Watch) : (s.modArmed p f).oldBytes = s.oldBytes := rfl
@[simp] theorem State.modArmed_shared (s : State) (p : Watch → Bool) (f : Watch → Watch) : (s.modArmed p f).shared = s.shared := rfl

/-! ## Accessors after an update -/

@[simp] theorem State.setCtx_ctx_same (s : State) (n : Nat) (c : Ctx) : (s.setCtx n c).ctx n = c := by
  simp [State.ctx]
@[simp] theorem State.setCtx_ctx_other (s : State) {n k : Nat} (c : Ctx) (h : k ≠ n) : (s.setCtx n c).ctx k = s.ctx k := by
  simp [State.ctx, h]
@[simp] theorem State.modCtx_ctx_same (s : State) (n : Nat) (f : Ctx → Ctx) : (s.modCtx n f).ctx n = f (s.ctx n) := by
  simp [State.ctx]
@[simp] theorem State.modCtx_ctx_other (s : State) {n k : Nat} (f : Ctx → Ctx) (h : k ≠ n) : (s.modCtx n f).ctx k = s.ctx k := by
  simp [State.ctx, h]
@[simp] theorem State.setCore_core_same (s : State) (n : Nat) (c : Core) : (s.setCore n c).core n = c := by
  simp [State.core]
@[simp] theorem State.setCore_core_other (s : State) {n k : Nat} (c : Core) (h : k ≠ n) : (s.setCore n c).core k = s.core k := by
  simp [State.core, h]
@[simp] theorem State.modCore_core_same (s : State) (n : Nat) (f : Core → Core) : (s.modCore n f).core n = f (s.core n) := by
  simp [State.core]
@[simp] theorem State.modCore_core_other (s : State) {n k : Nat} (f : Core → Core) (h : k ≠ n) : (s.modCore n f).core k = s.core k := by
  simp [State.core, h]
@[simp] theorem State.modAux_auxOf_same (s : State) (n : Nat) (f : CoreAux → CoreAux) : (s.modAux n f).auxOf n = f (s.auxOf n) := by
  simp [State.auxOf]
@[simp] theorem State.modAux_auxOf_other (s : State) {n k : Nat} (f : CoreAux → CoreAux) (h : k ≠ n) : (s.modAux n f).auxOf k = s.auxOf k := by
  simp [State.auxOf, h]
@[simp] theorem State.modCl_cluster_same (s : State) (n : Nat) (f : Cluster → Cluster) : (s.modCl n f).cluster n = f (s.cluster n) := by
  simp [State.cluster]
@[simp] theorem State.modCl_cluster_other (s : State) {n k : Nat} (f : Cluster → Cluster) (h : k ≠ n) : (s.modCl n f).cluster k = s.cluster k := by
  simp [State.cluster, h]

@[simp] theorem State.setCore_ctx (s : State) (k : Nat) (n : Nat) (c : Core) : (s.setCore n c).ctx k = s.ctx k := rfl
@[simp] theorem State.modCore_ctx (s : State) (k : Nat) (n : Nat) (f : Core → Core) : (s.modCore n f).ctx k = s.ctx k := rfl
@[simp] theorem State.modAux_ctx (s : State) (k : Nat) (n : Nat) (f : CoreAux → CoreAux) : (s.modAux n f).ctx k = s.ctx k := rfl
@[simp] theorem State.modCl_ctx (s : State) (k : Nat) (n : Nat) (f : Cluster → Cluster) : (s.modCl n f).ctx k = s.ctx k := rfl
@[simp] theorem State.modQueue_ctx (s : State) (k : Nat) (q : Nat) (f : Queue → Queue) : (s.modQueue q f).ctx k = s.ctx k := rfl
@[simp] theorem State.modLink_ctx (s : State) (k : Nat) (n : Nat) (f : Link → Link) : (s.modLink n f).ctx k = s.ctx k := rfl
@[simp] theorem State.fresh_ctx (s : State) (k : Nat) : (s.fresh.2).ctx k = s.ctx k := rfl
@[simp] theorem State.drawn_ctx (s : State) (k : Nat) : (s.drawn.2).ctx k = s.ctx k := rfl
@[simp] theorem State.met_ctx (s : State) (k : Nat) (v : Verdict) : (s.met v).ctx k = s.ctx k := rfl
@[simp] theorem State.spadRaw_ctx (s : State) (k : Nat) (l : List (Nat × Byte)) : (s.spadRaw l).ctx k = s.ctx k := rfl
@[simp] theorem State.acsWrite_ctx (s : State) (k : Nat) (core tile r c : Nat) (v : Word32) : (s.acsWrite core tile r c v).ctx k = s.ctx k := rfl
@[simp] theorem State.biasWrite_ctx (s : State) (k : Nat) (key : Nat) (v : Word32) : (s.biasWrite key v).ctx k = s.ctx k := rfl
@[simp] theorem State.imemWrite_ctx (s : State) (k : Nat) (a : Nat) (bs : List Byte) : (s.imemWrite a bs).ctx k = s.ctx k := rfl
@[simp] theorem State.unseat_ctx (s : State) (k : Nat) : (s.unseat).ctx k = s.ctx k := rfl
@[simp] theorem State.asCand_ctx (s : State) (k : Nat) (cand : Bool) : (s.asCand cand).ctx k = s.ctx k := rfl
@[simp] theorem State.modLoads_ctx (s : State) (k : Nat) (f : List KeyLoad → List KeyLoad) : (s.modLoads f).ctx k = s.ctx k := rfl
@[simp] theorem State.modPings_ctx (s : State) (k : Nat) (f : List (Nat × List Nat) → List (Nat × List Nat)) : (s.modPings f).ctx k = s.ctx k := rfl
@[simp] theorem State.modArmed_ctx (s : State) (k : Nat) (p : Watch → Bool) (f : Watch → Watch) : (s.modArmed p f).ctx k = s.ctx k := rfl
@[simp] theorem State.setCtx_core (s : State) (k : Nat) (hw : Nat) (c : Ctx) : (s.setCtx hw c).core k = s.core k := rfl
@[simp] theorem State.modCtx_core (s : State) (k : Nat) (hw : Nat) (f : Ctx → Ctx) : (s.modCtx hw f).core k = s.core k := rfl
@[simp] theorem State.modAux_core (s : State) (k : Nat) (n : Nat) (f : CoreAux → CoreAux) : (s.modAux n f).core k = s.core k := rfl
@[simp] theorem State.modCl_core (s : State) (k : Nat) (n : Nat) (f : Cluster → Cluster) : (s.modCl n f).core k = s.core k := rfl
@[simp] theorem State.modQueue_core (s : State) (k : Nat) (q : Nat) (f : Queue → Queue) : (s.modQueue q f).core k = s.core k := rfl
@[simp] theorem State.modLink_core (s : State) (k : Nat) (n : Nat) (f : Link → Link) : (s.modLink n f).core k = s.core k := rfl
@[simp] theorem State.fresh_core (s : State) (k : Nat) : (s.fresh.2).core k = s.core k := rfl
@[simp] theorem State.drawn_core (s : State) (k : Nat) : (s.drawn.2).core k = s.core k := rfl
@[simp] theorem State.met_core (s : State) (k : Nat) (v : Verdict) : (s.met v).core k = s.core k := rfl
@[simp] theorem State.spadRaw_core (s : State) (k : Nat) (l : List (Nat × Byte)) : (s.spadRaw l).core k = s.core k := rfl
@[simp] theorem State.acsWrite_core (s : State) (k : Nat) (core tile r c : Nat) (v : Word32) : (s.acsWrite core tile r c v).core k = s.core k := rfl
@[simp] theorem State.biasWrite_core (s : State) (k : Nat) (key : Nat) (v : Word32) : (s.biasWrite key v).core k = s.core k := rfl
@[simp] theorem State.imemWrite_core (s : State) (k : Nat) (a : Nat) (bs : List Byte) : (s.imemWrite a bs).core k = s.core k := rfl
@[simp] theorem State.unseat_core (s : State) (k : Nat) : (s.unseat).core k = s.core k := rfl
@[simp] theorem State.asCand_core (s : State) (k : Nat) (cand : Bool) : (s.asCand cand).core k = s.core k := rfl
@[simp] theorem State.modLoads_core (s : State) (k : Nat) (f : List KeyLoad → List KeyLoad) : (s.modLoads f).core k = s.core k := rfl
@[simp] theorem State.modPings_core (s : State) (k : Nat) (f : List (Nat × List Nat) → List (Nat × List Nat)) : (s.modPings f).core k = s.core k := rfl
@[simp] theorem State.modArmed_core (s : State) (k : Nat) (p : Watch → Bool) (f : Watch → Watch) : (s.modArmed p f).core k = s.core k := rfl
@[simp] theorem State.setCtx_auxOf (s : State) (k : Nat) (hw : Nat) (c : Ctx) : (s.setCtx hw c).auxOf k = s.auxOf k := rfl
@[simp] theorem State.modCtx_auxOf (s : State) (k : Nat) (hw : Nat) (f : Ctx → Ctx) : (s.modCtx hw f).auxOf k = s.auxOf k := rfl
@[simp] theorem State.setCore_auxOf (s : State) (k : Nat) (n : Nat) (c : Core) : (s.setCore n c).auxOf k = s.auxOf k := rfl
@[simp] theorem State.modCore_auxOf (s : State) (k : Nat) (n : Nat) (f : Core → Core) : (s.modCore n f).auxOf k = s.auxOf k := rfl
@[simp] theorem State.modCl_auxOf (s : State) (k : Nat) (n : Nat) (f : Cluster → Cluster) : (s.modCl n f).auxOf k = s.auxOf k := rfl
@[simp] theorem State.modQueue_auxOf (s : State) (k : Nat) (q : Nat) (f : Queue → Queue) : (s.modQueue q f).auxOf k = s.auxOf k := rfl
@[simp] theorem State.modLink_auxOf (s : State) (k : Nat) (n : Nat) (f : Link → Link) : (s.modLink n f).auxOf k = s.auxOf k := rfl
@[simp] theorem State.fresh_auxOf (s : State) (k : Nat) : (s.fresh.2).auxOf k = s.auxOf k := rfl
@[simp] theorem State.drawn_auxOf (s : State) (k : Nat) : (s.drawn.2).auxOf k = s.auxOf k := rfl
@[simp] theorem State.met_auxOf (s : State) (k : Nat) (v : Verdict) : (s.met v).auxOf k = s.auxOf k := rfl
@[simp] theorem State.spadRaw_auxOf (s : State) (k : Nat) (l : List (Nat × Byte)) : (s.spadRaw l).auxOf k = s.auxOf k := rfl
@[simp] theorem State.acsWrite_auxOf (s : State) (k : Nat) (core tile r c : Nat) (v : Word32) : (s.acsWrite core tile r c v).auxOf k = s.auxOf k := rfl
@[simp] theorem State.biasWrite_auxOf (s : State) (k : Nat) (key : Nat) (v : Word32) : (s.biasWrite key v).auxOf k = s.auxOf k := rfl
@[simp] theorem State.imemWrite_auxOf (s : State) (k : Nat) (a : Nat) (bs : List Byte) : (s.imemWrite a bs).auxOf k = s.auxOf k := rfl
@[simp] theorem State.unseat_auxOf (s : State) (k : Nat) : (s.unseat).auxOf k = s.auxOf k := rfl
@[simp] theorem State.asCand_auxOf (s : State) (k : Nat) (cand : Bool) : (s.asCand cand).auxOf k = s.auxOf k := rfl
@[simp] theorem State.modLoads_auxOf (s : State) (k : Nat) (f : List KeyLoad → List KeyLoad) : (s.modLoads f).auxOf k = s.auxOf k := rfl
@[simp] theorem State.modPings_auxOf (s : State) (k : Nat) (f : List (Nat × List Nat) → List (Nat × List Nat)) : (s.modPings f).auxOf k = s.auxOf k := rfl
@[simp] theorem State.modArmed_auxOf (s : State) (k : Nat) (p : Watch → Bool) (f : Watch → Watch) : (s.modArmed p f).auxOf k = s.auxOf k := rfl
@[simp] theorem State.setCtx_cluster (s : State) (k : Nat) (hw : Nat) (c : Ctx) : (s.setCtx hw c).cluster k = s.cluster k := rfl
@[simp] theorem State.modCtx_cluster (s : State) (k : Nat) (hw : Nat) (f : Ctx → Ctx) : (s.modCtx hw f).cluster k = s.cluster k := rfl
@[simp] theorem State.setCore_cluster (s : State) (k : Nat) (n : Nat) (c : Core) : (s.setCore n c).cluster k = s.cluster k := rfl
@[simp] theorem State.modCore_cluster (s : State) (k : Nat) (n : Nat) (f : Core → Core) : (s.modCore n f).cluster k = s.cluster k := rfl
@[simp] theorem State.modAux_cluster (s : State) (k : Nat) (n : Nat) (f : CoreAux → CoreAux) : (s.modAux n f).cluster k = s.cluster k := rfl
@[simp] theorem State.modQueue_cluster (s : State) (k : Nat) (q : Nat) (f : Queue → Queue) : (s.modQueue q f).cluster k = s.cluster k := rfl
@[simp] theorem State.modLink_cluster (s : State) (k : Nat) (n : Nat) (f : Link → Link) : (s.modLink n f).cluster k = s.cluster k := rfl
@[simp] theorem State.fresh_cluster (s : State) (k : Nat) : (s.fresh.2).cluster k = s.cluster k := rfl
@[simp] theorem State.drawn_cluster (s : State) (k : Nat) : (s.drawn.2).cluster k = s.cluster k := rfl
@[simp] theorem State.met_cluster (s : State) (k : Nat) (v : Verdict) : (s.met v).cluster k = s.cluster k := rfl
@[simp] theorem State.spadRaw_cluster (s : State) (k : Nat) (l : List (Nat × Byte)) : (s.spadRaw l).cluster k = s.cluster k := rfl
@[simp] theorem State.acsWrite_cluster (s : State) (k : Nat) (core tile r c : Nat) (v : Word32) : (s.acsWrite core tile r c v).cluster k = s.cluster k := rfl
@[simp] theorem State.biasWrite_cluster (s : State) (k : Nat) (key : Nat) (v : Word32) : (s.biasWrite key v).cluster k = s.cluster k := rfl
@[simp] theorem State.imemWrite_cluster (s : State) (k : Nat) (a : Nat) (bs : List Byte) : (s.imemWrite a bs).cluster k = s.cluster k := rfl
@[simp] theorem State.unseat_cluster (s : State) (k : Nat) : (s.unseat).cluster k = s.cluster k := rfl
@[simp] theorem State.asCand_cluster (s : State) (k : Nat) (cand : Bool) : (s.asCand cand).cluster k = s.cluster k := rfl
@[simp] theorem State.modLoads_cluster (s : State) (k : Nat) (f : List KeyLoad → List KeyLoad) : (s.modLoads f).cluster k = s.cluster k := rfl
@[simp] theorem State.modPings_cluster (s : State) (k : Nat) (f : List (Nat × List Nat) → List (Nat × List Nat)) : (s.modPings f).cluster k = s.cluster k := rfl

/-- The context at the cursor after an update of it. -/
@[simp] theorem State.modCtx_me (s : State) (f : Ctx → Ctx) : (s.modCtx s.cur.hw f).me = f s.me := by simp [State.me]
@[simp] theorem State.setCore_me (s : State) (n : Nat) (c : Core) : (s.setCore n c).me = s.me := rfl
@[simp] theorem State.modCore_me (s : State) (n : Nat) (f : Core → Core) : (s.modCore n f).me = s.me := rfl
@[simp] theorem State.modAux_me (s : State) (n : Nat) (f : CoreAux → CoreAux) : (s.modAux n f).me = s.me := rfl
@[simp] theorem State.modCl_me (s : State) (n : Nat) (f : Cluster → Cluster) : (s.modCl n f).me = s.me := rfl
@[simp] theorem State.modQueue_me (s : State) (q : Nat) (f : Queue → Queue) : (s.modQueue q f).me = s.me := rfl
@[simp] theorem State.modLink_me (s : State) (n : Nat) (f : Link → Link) : (s.modLink n f).me = s.me := rfl
@[simp] theorem State.fresh_me (s : State) : (s.fresh.2).me = s.me := rfl
@[simp] theorem State.drawn_me (s : State) : (s.drawn.2).me = s.me := rfl
@[simp] theorem State.spadRaw_me (s : State) (l : List (Nat × Byte)) : (s.spadRaw l).me = s.me := rfl
@[simp] theorem State.acsWrite_me (s : State) (core tile r c : Nat) (v : Word32) : (s.acsWrite core tile r c v).me = s.me := rfl
@[simp] theorem State.biasWrite_me (s : State) (key : Nat) (v : Word32) : (s.biasWrite key v).me = s.me := rfl
@[simp] theorem State.imemWrite_me (s : State) (a : Nat) (bs : List Byte) : (s.imemWrite a bs).me = s.me := rfl
@[simp] theorem State.modLoads_me (s : State) (f : List KeyLoad → List KeyLoad) : (s.modLoads f).me = s.me := rfl
@[simp] theorem State.modPings_me (s : State) (f : List (Nat × List Nat) → List (Nat × List Nat)) : (s.modPings f).me = s.me := rfl
@[simp] theorem State.modArmed_me (s : State) (p : Watch → Bool) (f : Watch → Watch) : (s.modArmed p f).me = s.me := rfl

/-! ## Updates of a context, by field -/

@[simp] theorem Ctx.setS_fmt (c : Ctx) (n : Nat) (v : Word) : (c.setS n v).fmt = c.fmt := by
  unfold Ctx.setS; (repeat' split) <;> rfl
@[simp] theorem Ctx.setS_ctl (c : Ctx) (n : Nat) (v : Word) : (c.setS n v).ctl = c.ctl := by
  unfold Ctx.setS; (repeat' split) <;> rfl
@[simp] theorem Ctx.setS_frame (c : Ctx) (n : Nat) (v : Word) : (c.setS n v).frame = c.frame := by
  unfold Ctx.setS; (repeat' split) <;> rfl
@[simp] theorem Ctx.setS_tframe (c : Ctx) (n : Nat) (v : Word) : (c.setS n v).tframe = c.tframe := by
  unfold Ctx.setS; (repeat' split) <;> rfl
@[simp] theorem Ctx.setS_pend (c : Ctx) (n : Nat) (v : Word) : (c.setS n v).pend = c.pend := by
  unfold Ctx.setS; (repeat' split) <;> rfl
@[simp] theorem Ctx.setS_async (c : Ctx) (n : Nat) (v : Word) : (c.setS n v).async = c.async := by
  unfold Ctx.setS; (repeat' split) <;> rfl
@[simp] theorem Ctx.setS_run (c : Ctx) (n : Nat) (v : Word) : (c.setS n v).run = c.run := by
  unfold Ctx.setS; (repeat' split) <;> rfl
@[simp] theorem Ctx.setS_perf (c : Ctx) (n : Nat) (v : Word) : (c.setS n v).perf = c.perf := by
  unfold Ctx.setS; (repeat' split) <;> rfl
@[simp] theorem Ctx.setS_eng (c : Ctx) (n : Nat) (v : Word) : (c.setS n v).eng = c.eng := by
  unfold Ctx.setS; (repeat' split) <;> rfl
@[simp] theorem Ctx.setS_ckpt (c : Ctx) (n : Nat) (v : Word) : (c.setS n v).ckpt = c.ckpt := by
  unfold Ctx.setS; (repeat' split) <;> rfl
@[simp] theorem Ctx.setS_energy (c : Ctx) (n : Nat) (v : Word) : (c.setS n v).energy = c.energy := by
  unfold Ctx.setS; (repeat' split) <;> rfl
@[simp] theorem Ctx.setS_dbg (c : Ctx) (n : Nat) (v : Word) : (c.setS n v).dbg = c.dbg := by
  unfold Ctx.setS; (repeat' split) <;> rfl

@[simp] theorem Ctx.setC_fmt (c : Ctx) (n : Nat) (b : Bool) : (c.setC n b).fmt = c.fmt := by
  unfold Ctx.setC; (repeat' split) <;> rfl
@[simp] theorem Ctx.setC_ctl (c : Ctx) (n : Nat) (b : Bool) : (c.setC n b).ctl = c.ctl := by
  unfold Ctx.setC; (repeat' split) <;> rfl
@[simp] theorem Ctx.setC_frame (c : Ctx) (n : Nat) (b : Bool) : (c.setC n b).frame = c.frame := by
  unfold Ctx.setC; (repeat' split) <;> rfl
@[simp] theorem Ctx.setC_tframe (c : Ctx) (n : Nat) (b : Bool) : (c.setC n b).tframe = c.tframe := by
  unfold Ctx.setC; (repeat' split) <;> rfl
@[simp] theorem Ctx.setC_bank (c : Ctx) (n : Nat) (b : Bool) : (c.setC n b).bank = c.bank := by
  unfold Ctx.setC; (repeat' split) <;> rfl
@[simp] theorem Ctx.setC_pend (c : Ctx) (n : Nat) (b : Bool) : (c.setC n b).pend = c.pend := by
  unfold Ctx.setC; (repeat' split) <;> rfl
@[simp] theorem Ctx.setC_async (c : Ctx) (n : Nat) (b : Bool) : (c.setC n b).async = c.async := by
  unfold Ctx.setC; (repeat' split) <;> rfl
@[simp] theorem Ctx.setC_run (c : Ctx) (n : Nat) (b : Bool) : (c.setC n b).run = c.run := by
  unfold Ctx.setC; (repeat' split) <;> rfl
@[simp] theorem Ctx.setC_perf (c : Ctx) (n : Nat) (b : Bool) : (c.setC n b).perf = c.perf := by
  unfold Ctx.setC; (repeat' split) <;> rfl
@[simp] theorem Ctx.setC_eng (c : Ctx) (n : Nat) (b : Bool) : (c.setC n b).eng = c.eng := by
  unfold Ctx.setC; (repeat' split) <;> rfl
@[simp] theorem Ctx.setC_ckpt (c : Ctx) (n : Nat) (b : Bool) : (c.setC n b).ckpt = c.ckpt := by
  unfold Ctx.setC; (repeat' split) <;> rfl
@[simp] theorem Ctx.setC_energy (c : Ctx) (n : Nat) (b : Bool) : (c.setC n b).energy = c.energy := by
  unfold Ctx.setC; (repeat' split) <;> rfl
@[simp] theorem Ctx.setC_dbg (c : Ctx) (n : Nat) (b : Bool) : (c.setC n b).dbg = c.dbg := by
  unfold Ctx.setC; (repeat' split) <;> rfl

@[simp] theorem Ctx.setV_fmt (c : Ctx) (n : Nat) (v : VReg) (m : PReg) : (c.setV n v m).fmt = c.fmt := by
  unfold Ctx.setV; (repeat' split) <;> rfl
@[simp] theorem Ctx.setV_ctl (c : Ctx) (n : Nat) (v : VReg) (m : PReg) : (c.setV n v m).ctl = c.ctl := by
  unfold Ctx.setV; (repeat' split) <;> rfl
@[simp] theorem Ctx.setV_frame (c : Ctx) (n : Nat) (v : VReg) (m : PReg) : (c.setV n v m).frame = c.frame := by
  unfold Ctx.setV; (repeat' split) <;> rfl
@[simp] theorem Ctx.setV_tframe (c : Ctx) (n : Nat) (v : VReg) (m : PReg) : (c.setV n v m).tframe = c.tframe := by
  unfold Ctx.setV; (repeat' split) <;> rfl
@[simp] theorem Ctx.setV_bank (c : Ctx) (n : Nat) (v : VReg) (m : PReg) : (c.setV n v m).bank = c.bank := by
  unfold Ctx.setV; (repeat' split) <;> rfl
@[simp] theorem Ctx.setV_pend (c : Ctx) (n : Nat) (v : VReg) (m : PReg) : (c.setV n v m).pend = c.pend := by
  unfold Ctx.setV; (repeat' split) <;> rfl
@[simp] theorem Ctx.setV_async (c : Ctx) (n : Nat) (v : VReg) (m : PReg) : (c.setV n v m).async = c.async := by
  unfold Ctx.setV; (repeat' split) <;> rfl
@[simp] theorem Ctx.setV_run (c : Ctx) (n : Nat) (v : VReg) (m : PReg) : (c.setV n v m).run = c.run := by
  unfold Ctx.setV; (repeat' split) <;> rfl
@[simp] theorem Ctx.setV_perf (c : Ctx) (n : Nat) (v : VReg) (m : PReg) : (c.setV n v m).perf = c.perf := by
  unfold Ctx.setV; (repeat' split) <;> rfl
@[simp] theorem Ctx.setV_eng (c : Ctx) (n : Nat) (v : VReg) (m : PReg) : (c.setV n v m).eng = c.eng := by
  unfold Ctx.setV; (repeat' split) <;> rfl
@[simp] theorem Ctx.setV_ckpt (c : Ctx) (n : Nat) (v : VReg) (m : PReg) : (c.setV n v m).ckpt = c.ckpt := by
  unfold Ctx.setV; (repeat' split) <;> rfl
@[simp] theorem Ctx.setV_energy (c : Ctx) (n : Nat) (v : VReg) (m : PReg) : (c.setV n v m).energy = c.energy := by
  unfold Ctx.setV; (repeat' split) <;> rfl
@[simp] theorem Ctx.setV_dbg (c : Ctx) (n : Nat) (v : VReg) (m : PReg) : (c.setV n v m).dbg = c.dbg := by
  unfold Ctx.setV; (repeat' split) <;> rfl

@[simp] theorem Ctx.setP_fmt (c : Ctx) (n : Nat) (v m : PReg) : (c.setP n v m).fmt = c.fmt := by
  unfold Ctx.setP; (repeat' split) <;> rfl
@[simp] theorem Ctx.setP_ctl (c : Ctx) (n : Nat) (v m : PReg) : (c.setP n v m).ctl = c.ctl := by
  unfold Ctx.setP; (repeat' split) <;> rfl
@[simp] theorem Ctx.setP_frame (c : Ctx) (n : Nat) (v m : PReg) : (c.setP n v m).frame = c.frame := by
  unfold Ctx.setP; (repeat' split) <;> rfl
@[simp] theorem Ctx.setP_tframe (c : Ctx) (n : Nat) (v m : PReg) : (c.setP n v m).tframe = c.tframe := by
  unfold Ctx.setP; (repeat' split) <;> rfl
@[simp] theorem Ctx.setP_bank (c : Ctx) (n : Nat) (v m : PReg) : (c.setP n v m).bank = c.bank := by
  unfold Ctx.setP; (repeat' split) <;> rfl
@[simp] theorem Ctx.setP_pend (c : Ctx) (n : Nat) (v m : PReg) : (c.setP n v m).pend = c.pend := by
  unfold Ctx.setP; (repeat' split) <;> rfl
@[simp] theorem Ctx.setP_async (c : Ctx) (n : Nat) (v m : PReg) : (c.setP n v m).async = c.async := by
  unfold Ctx.setP; (repeat' split) <;> rfl
@[simp] theorem Ctx.setP_run (c : Ctx) (n : Nat) (v m : PReg) : (c.setP n v m).run = c.run := by
  unfold Ctx.setP; (repeat' split) <;> rfl
@[simp] theorem Ctx.setP_perf (c : Ctx) (n : Nat) (v m : PReg) : (c.setP n v m).perf = c.perf := by
  unfold Ctx.setP; (repeat' split) <;> rfl
@[simp] theorem Ctx.setP_eng (c : Ctx) (n : Nat) (v m : PReg) : (c.setP n v m).eng = c.eng := by
  unfold Ctx.setP; (repeat' split) <;> rfl
@[simp] theorem Ctx.setP_ckpt (c : Ctx) (n : Nat) (v m : PReg) : (c.setP n v m).ckpt = c.ckpt := by
  unfold Ctx.setP; (repeat' split) <;> rfl
@[simp] theorem Ctx.setP_energy (c : Ctx) (n : Nat) (v m : PReg) : (c.setP n v m).energy = c.energy := by
  unfold Ctx.setP; (repeat' split) <;> rfl
@[simp] theorem Ctx.setP_dbg (c : Ctx) (n : Nat) (v m : PReg) : (c.setP n v m).dbg = c.dbg := by
  unfold Ctx.setP; (repeat' split) <;> rfl

@[simp] theorem Ctx.tokUp_regs (c : Ctx) (n : Nat) : (c.tokUp n).regs = c.regs := by
  unfold Ctx.tokUp; (repeat' split) <;> rfl
@[simp] theorem Ctx.tokUp_ctl (c : Ctx) (n : Nat) : (c.tokUp n).ctl = c.ctl := by
  unfold Ctx.tokUp; (repeat' split) <;> rfl
@[simp] theorem Ctx.tokUp_frame (c : Ctx) (n : Nat) : (c.tokUp n).frame = c.frame := by
  unfold Ctx.tokUp; (repeat' split) <;> rfl
@[simp] theorem Ctx.tokUp_tframe (c : Ctx) (n : Nat) : (c.tokUp n).tframe = c.tframe := by
  unfold Ctx.tokUp; (repeat' split) <;> rfl
@[simp] theorem Ctx.tokUp_bank (c : Ctx) (n : Nat) : (c.tokUp n).bank = c.bank := by
  unfold Ctx.tokUp; (repeat' split) <;> rfl
@[simp] theorem Ctx.tokUp_pend (c : Ctx) (n : Nat) : (c.tokUp n).pend = c.pend := by
  unfold Ctx.tokUp; (repeat' split) <;> rfl
@[simp] theorem Ctx.tokUp_async (c : Ctx) (n : Nat) : (c.tokUp n).async = c.async := by
  unfold Ctx.tokUp; (repeat' split) <;> rfl
@[simp] theorem Ctx.tokUp_run (c : Ctx) (n : Nat) : (c.tokUp n).run = c.run := by
  unfold Ctx.tokUp; (repeat' split) <;> rfl
@[simp] theorem Ctx.tokUp_perf (c : Ctx) (n : Nat) : (c.tokUp n).perf = c.perf := by
  unfold Ctx.tokUp; (repeat' split) <;> rfl
@[simp] theorem Ctx.tokUp_eng (c : Ctx) (n : Nat) : (c.tokUp n).eng = c.eng := by
  unfold Ctx.tokUp; (repeat' split) <;> rfl
@[simp] theorem Ctx.tokUp_ckpt (c : Ctx) (n : Nat) : (c.tokUp n).ckpt = c.ckpt := by
  unfold Ctx.tokUp; (repeat' split) <;> rfl
@[simp] theorem Ctx.tokUp_energy (c : Ctx) (n : Nat) : (c.tokUp n).energy = c.energy := by
  unfold Ctx.tokUp; (repeat' split) <;> rfl
@[simp] theorem Ctx.tokUp_dbg (c : Ctx) (n : Nat) : (c.tokUp n).dbg = c.dbg := by
  unfold Ctx.tokUp; (repeat' split) <;> rfl

@[simp] theorem Ctx.tokDown_regs (c : Ctx) (n : Nat) : (c.tokDown n).regs = c.regs := by
  unfold Ctx.tokDown; (repeat' split) <;> rfl
@[simp] theorem Ctx.tokDown_ctl (c : Ctx) (n : Nat) : (c.tokDown n).ctl = c.ctl := by
  unfold Ctx.tokDown; (repeat' split) <;> rfl
@[simp] theorem Ctx.tokDown_frame (c : Ctx) (n : Nat) : (c.tokDown n).frame = c.frame := by
  unfold Ctx.tokDown; (repeat' split) <;> rfl
@[simp] theorem Ctx.tokDown_tframe (c : Ctx) (n : Nat) : (c.tokDown n).tframe = c.tframe := by
  unfold Ctx.tokDown; (repeat' split) <;> rfl
@[simp] theorem Ctx.tokDown_bank (c : Ctx) (n : Nat) : (c.tokDown n).bank = c.bank := by
  unfold Ctx.tokDown; (repeat' split) <;> rfl
@[simp] theorem Ctx.tokDown_pend (c : Ctx) (n : Nat) : (c.tokDown n).pend = c.pend := by
  unfold Ctx.tokDown; (repeat' split) <;> rfl
@[simp] theorem Ctx.tokDown_async (c : Ctx) (n : Nat) : (c.tokDown n).async = c.async := by
  unfold Ctx.tokDown; (repeat' split) <;> rfl
@[simp] theorem Ctx.tokDown_run (c : Ctx) (n : Nat) : (c.tokDown n).run = c.run := by
  unfold Ctx.tokDown; (repeat' split) <;> rfl
@[simp] theorem Ctx.tokDown_perf (c : Ctx) (n : Nat) : (c.tokDown n).perf = c.perf := by
  unfold Ctx.tokDown; (repeat' split) <;> rfl
@[simp] theorem Ctx.tokDown_eng (c : Ctx) (n : Nat) : (c.tokDown n).eng = c.eng := by
  unfold Ctx.tokDown; (repeat' split) <;> rfl
@[simp] theorem Ctx.tokDown_ckpt (c : Ctx) (n : Nat) : (c.tokDown n).ckpt = c.ckpt := by
  unfold Ctx.tokDown; (repeat' split) <;> rfl
@[simp] theorem Ctx.tokDown_energy (c : Ctx) (n : Nat) : (c.tokDown n).energy = c.energy := by
  unfold Ctx.tokDown; (repeat' split) <;> rfl
@[simp] theorem Ctx.tokDown_dbg (c : Ctx) (n : Nat) : (c.tokDown n).dbg = c.dbg := by
  unfold Ctx.tokDown; (repeat' split) <;> rfl

@[simp] theorem Ctx.orFlags_regs (c : Ctx) (f : Flags) : (c.orFlags f).regs = c.regs := by
  unfold Ctx.orFlags; (repeat' split) <;> rfl
@[simp] theorem Ctx.orFlags_ctl (c : Ctx) (f : Flags) : (c.orFlags f).ctl = c.ctl := by
  unfold Ctx.orFlags; (repeat' split) <;> rfl
@[simp] theorem Ctx.orFlags_frame (c : Ctx) (f : Flags) : (c.orFlags f).frame = c.frame := by
  unfold Ctx.orFlags; (repeat' split) <;> rfl
@[simp] theorem Ctx.orFlags_tframe (c : Ctx) (f : Flags) : (c.orFlags f).tframe = c.tframe := by
  unfold Ctx.orFlags; (repeat' split) <;> rfl
@[simp] theorem Ctx.orFlags_bank (c : Ctx) (f : Flags) : (c.orFlags f).bank = c.bank := by
  unfold Ctx.orFlags; (repeat' split) <;> rfl
@[simp] theorem Ctx.orFlags_pend (c : Ctx) (f : Flags) : (c.orFlags f).pend = c.pend := by
  unfold Ctx.orFlags; (repeat' split) <;> rfl
@[simp] theorem Ctx.orFlags_async (c : Ctx) (f : Flags) : (c.orFlags f).async = c.async := by
  unfold Ctx.orFlags; (repeat' split) <;> rfl
@[simp] theorem Ctx.orFlags_run (c : Ctx) (f : Flags) : (c.orFlags f).run = c.run := by
  unfold Ctx.orFlags; (repeat' split) <;> rfl
@[simp] theorem Ctx.orFlags_perf (c : Ctx) (f : Flags) : (c.orFlags f).perf = c.perf := by
  unfold Ctx.orFlags; (repeat' split) <;> rfl
@[simp] theorem Ctx.orFlags_eng (c : Ctx) (f : Flags) : (c.orFlags f).eng = c.eng := by
  unfold Ctx.orFlags; (repeat' split) <;> rfl
@[simp] theorem Ctx.orFlags_ckpt (c : Ctx) (f : Flags) : (c.orFlags f).ckpt = c.ckpt := by
  unfold Ctx.orFlags; (repeat' split) <;> rfl
@[simp] theorem Ctx.orFlags_energy (c : Ctx) (f : Flags) : (c.orFlags f).energy = c.energy := by
  unfold Ctx.orFlags; (repeat' split) <;> rfl
@[simp] theorem Ctx.orFlags_dbg (c : Ctx) (f : Flags) : (c.orFlags f).dbg = c.dbg := by
  unfold Ctx.orFlags; (repeat' split) <;> rfl

@[simp] theorem Ctx.emptyLatch_regs (c : Ctx) (n : Nat) : (c.emptyLatch n).regs = c.regs := by
  unfold Ctx.emptyLatch; (repeat' split) <;> rfl
@[simp] theorem Ctx.emptyLatch_fmt (c : Ctx) (n : Nat) : (c.emptyLatch n).fmt = c.fmt := by
  unfold Ctx.emptyLatch; (repeat' split) <;> rfl
@[simp] theorem Ctx.emptyLatch_ctl (c : Ctx) (n : Nat) : (c.emptyLatch n).ctl = c.ctl := by
  unfold Ctx.emptyLatch; (repeat' split) <;> rfl
@[simp] theorem Ctx.emptyLatch_tframe (c : Ctx) (n : Nat) : (c.emptyLatch n).tframe = c.tframe := by
  unfold Ctx.emptyLatch; (repeat' split) <;> rfl
@[simp] theorem Ctx.emptyLatch_bank (c : Ctx) (n : Nat) : (c.emptyLatch n).bank = c.bank := by
  unfold Ctx.emptyLatch; (repeat' split) <;> rfl
@[simp] theorem Ctx.emptyLatch_pend (c : Ctx) (n : Nat) : (c.emptyLatch n).pend = c.pend := by
  unfold Ctx.emptyLatch; (repeat' split) <;> rfl
@[simp] theorem Ctx.emptyLatch_async (c : Ctx) (n : Nat) : (c.emptyLatch n).async = c.async := by
  unfold Ctx.emptyLatch; (repeat' split) <;> rfl
@[simp] theorem Ctx.emptyLatch_run (c : Ctx) (n : Nat) : (c.emptyLatch n).run = c.run := by
  unfold Ctx.emptyLatch; (repeat' split) <;> rfl
@[simp] theorem Ctx.emptyLatch_perf (c : Ctx) (n : Nat) : (c.emptyLatch n).perf = c.perf := by
  unfold Ctx.emptyLatch; (repeat' split) <;> rfl
@[simp] theorem Ctx.emptyLatch_eng (c : Ctx) (n : Nat) : (c.emptyLatch n).eng = c.eng := by
  unfold Ctx.emptyLatch; (repeat' split) <;> rfl
@[simp] theorem Ctx.emptyLatch_ckpt (c : Ctx) (n : Nat) : (c.emptyLatch n).ckpt = c.ckpt := by
  unfold Ctx.emptyLatch; (repeat' split) <;> rfl
@[simp] theorem Ctx.emptyLatch_energy (c : Ctx) (n : Nat) : (c.emptyLatch n).energy = c.energy := by
  unfold Ctx.emptyLatch; (repeat' split) <;> rfl
@[simp] theorem Ctx.emptyLatch_dbg (c : Ctx) (n : Nat) : (c.emptyLatch n).dbg = c.dbg := by
  unfold Ctx.emptyLatch; (repeat' split) <;> rfl

@[simp] theorem Ctx.ctlWrite_regs (c : Ctx) (n : Nat) (v : Word) : (c.ctlWrite n v).regs = c.regs := by
  unfold Ctx.ctlWrite; (repeat' split) <;> rfl
@[simp] theorem Ctx.ctlWrite_fmt (c : Ctx) (n : Nat) (v : Word) : (c.ctlWrite n v).fmt = c.fmt := by
  unfold Ctx.ctlWrite; (repeat' split) <;> rfl
@[simp] theorem Ctx.ctlWrite_frame (c : Ctx) (n : Nat) (v : Word) : (c.ctlWrite n v).frame = c.frame := by
  unfold Ctx.ctlWrite; (repeat' split) <;> rfl
@[simp] theorem Ctx.ctlWrite_tframe (c : Ctx) (n : Nat) (v : Word) : (c.ctlWrite n v).tframe = c.tframe := by
  unfold Ctx.ctlWrite; (repeat' split) <;> rfl
@[simp] theorem Ctx.ctlWrite_bank (c : Ctx) (n : Nat) (v : Word) : (c.ctlWrite n v).bank = c.bank := by
  unfold Ctx.ctlWrite; (repeat' split) <;> rfl
@[simp] theorem Ctx.ctlWrite_pend (c : Ctx) (n : Nat) (v : Word) : (c.ctlWrite n v).pend = c.pend := by
  unfold Ctx.ctlWrite; (repeat' split) <;> rfl
@[simp] theorem Ctx.ctlWrite_async (c : Ctx) (n : Nat) (v : Word) : (c.ctlWrite n v).async = c.async := by
  unfold Ctx.ctlWrite; (repeat' split) <;> rfl
@[simp] theorem Ctx.ctlWrite_run (c : Ctx) (n : Nat) (v : Word) : (c.ctlWrite n v).run = c.run := by
  unfold Ctx.ctlWrite; (repeat' split) <;> rfl
@[simp] theorem Ctx.ctlWrite_perf (c : Ctx) (n : Nat) (v : Word) : (c.ctlWrite n v).perf = c.perf := by
  unfold Ctx.ctlWrite; (repeat' split) <;> rfl
@[simp] theorem Ctx.ctlWrite_eng (c : Ctx) (n : Nat) (v : Word) : (c.ctlWrite n v).eng = c.eng := by
  unfold Ctx.ctlWrite; (repeat' split) <;> rfl
@[simp] theorem Ctx.ctlWrite_ckpt (c : Ctx) (n : Nat) (v : Word) : (c.ctlWrite n v).ckpt = c.ckpt := by
  unfold Ctx.ctlWrite; (repeat' split) <;> rfl
@[simp] theorem Ctx.ctlWrite_energy (c : Ctx) (n : Nat) (v : Word) : (c.ctlWrite n v).energy = c.energy := by
  unfold Ctx.ctlWrite; (repeat' split) <;> rfl
@[simp] theorem Ctx.ctlWrite_dbg (c : Ctx) (n : Nat) (v : Word) : (c.ctlWrite n v).dbg = c.dbg := by
  unfold Ctx.ctlWrite; (repeat' split) <;> rfl

/-! ## Registers after an update (R110, R111, R125) -/

/-- s0 reads zero whatever is written. -/
@[simp] theorem Ctx.sreg_zero (c : Ctx) : c.sreg 0 = 0 := rfl
@[simp] theorem Ctx.creg_zero (c : Ctx) : c.creg 0 = true := rfl
@[simp] theorem Ctx.preg_zero (c : Ctx) : c.preg 0 = BitVec.allOnes 512 := rfl

theorem Ctx.sreg_setS_same (c : Ctx) {n : Nat} (v : Word) (h : n ≠ 0) : (c.setS n v).sreg n = v := by
  unfold Ctx.setS Ctx.sreg
  simp only [if_neg h]
  split <;> simp_all

theorem Ctx.sreg_setS_other (c : Ctx) {n k : Nat} (v : Word) (h : k ≠ n) : (c.setS n v).sreg k = c.sreg k := by
  unfold Ctx.setS Ctx.sreg
  (repeat' split) <;> simp_all

theorem Ctx.vreg_setV_other (c : Ctx) {n k : Nat} (v : VReg) (m : PReg) (h : k ≠ n) : (c.setV n v m).vreg k = c.vreg k := by
  simp [Ctx.setV, Ctx.vreg, h]

theorem Ctx.vreg_setV_same (c : Ctx) (n : Nat) (v : VReg) (m : PReg) : (c.setV n v m).vreg n = mergeV (c.vreg n) v m := by
  simp [Ctx.setV, Ctx.vreg]

theorem Ctx.preg_setP_other (c : Ctx) {n k : Nat} (v m : PReg) (h : k ≠ n) : (c.setP n v m).preg k = c.preg k := by
  unfold Ctx.setP Ctx.preg
  (repeat' split) <;> simp_all

theorem Ctx.preg_setP_same (c : Ctx) {n : Nat} (v m : PReg) (h : n ≠ 0) :
    (c.setP n v m).preg n = (c.preg n &&& ~~~m) ||| (v &&& m) := by
  simp [Ctx.setP, Ctx.preg, h]

end Sys2Proof.Machine
end

