-- ==== Sys2Proof/Laws/MemOk.lean ====
section
/-!
SUPPORT. The invariant that every memory has its canonical form, and the rules by which an operation keeps it.
-/

namespace Sys2Proof.Machine

/-! ## The invariant and its rules -/

/-- Every memory of a state has its canonical form. -/
def State.MemOk (s : State) : Prop := s.mem.wf = true
/-- The same of an outcome that is a next state. -/
def Out.MemOk (o : Out) : Prop := ∀ t, o = .next t → t.MemOk

theorem Out.next_memOk {t : State} (h : t.MemOk) : Out.MemOk (.next t) := by
  intro u e
  cases e
  exact h

theorem State.mk_memOk {a : Mod} {b : Front} {c : SMap Cluster} {d : SMap Core} {e : SMap CoreAux} {f : SMap Ctx} {m : Mem}
    {g : Cursor} {i : List Act} {j : Nat} {k : SMap Byte} {l : List Instr} : (State.mk a b c d e f m g i j k l).MemOk ↔ m.wf = true := Iff.rfl

theorem State.memOk_mem {s : State} (h : s.MemOk) : s.mem.wf = true := h

theorem Mem.wf_iff {m : Mem} : m.wf = true ↔
    m.hbm.wf = true ∧ m.host.wf = true ∧ m.spad.wf = true ∧ m.imem.wf = true ∧ m.lining.wf = true := by
  simp [Mem.wf, and_assoc]

theorem Mem.mk_wf {a b c d e : Memory} {f g : SMap Word32} (ha : a.wf = true) (hb : b.wf = true) (hc : c.wf = true)
    (hd : d.wf = true) (he : e.wf = true) : (Mem.mk a b c d e f g).wf = true :=
  Mem.wf_iff.2 ⟨ha, hb, hc, hd, he⟩

theorem State.memOk_hbm {s : State} (h : s.MemOk) : s.mem.hbm.wf = true := (Mem.wf_iff.1 h).1
theorem State.memOk_host {s : State} (h : s.MemOk) : s.mem.host.wf = true := (Mem.wf_iff.1 h).2.1
theorem State.memOk_spad {s : State} (h : s.MemOk) : s.mem.spad.wf = true := (Mem.wf_iff.1 h).2.2.1
theorem State.memOk_imem {s : State} (h : s.MemOk) : s.mem.imem.wf = true := (Mem.wf_iff.1 h).2.2.2.1
theorem State.memOk_lining {s : State} (h : s.MemOk) : s.mem.lining.wf = true := (Mem.wf_iff.1 h).2.2.2.2

theorem foldl_memOk {α : Type} {l : List α} {f : State → α → State} {s : State}
    (hf : ∀ s x, s.MemOk → (f s x).MemOk) (h : s.MemOk) : (l.foldl f s).MemOk := by
  induction l generalizing s with
  | nil => exact h
  | cons x r ih => exact ih (hf _ _ h)

theorem foldl_fst_memOk {α β : Type} {l : List α} {f : State × β → α → State × β} {s : State × β}
    (hf : ∀ s x, s.1.MemOk → (f s x).1.MemOk) (h : s.1.MemOk) : (l.foldl f s).1.MemOk := by
  induction l generalizing s with
  | nil => exact h
  | cons x r ih => exact ih (hf _ _ h)

/-- What a queue operation answers when it is done satisfies a property. -/
def QRes.Has {α : Type} (p : α → Prop) (r : QRes α) : Prop := ∀ a, r = .ok a → p a

theorem QRes.has_ok {α : Type} {p : α → Prop} {a : α} (h : p a) : QRes.Has p (.ok a) := by
  intro b e
  cases e
  exact h

theorem QRes.has_empty {α : Type} {p : α → Prop} : QRes.Has p .empty := by
  intro b e
  cases e

theorem QRes.has_fault {α : Type} {p : α → Prop} {v c l : Nat} : QRes.Has p (.fault v c l) := by
  intro b e
  cases e

theorem iter_memOk {f : Nat → State → State} {k n : Nat} {s : State} (hf : ∀ k s, s.MemOk → (f k s).MemOk) (h : s.MemOk) :
    (iter f k n s).MemOk := by
  induction n generalizing k s with
  | zero => exact h
  | succ n ih => exact ih (hf _ _ h)

/-- A fold whose steps keep the canonical form. -/
theorem Memory.foldl_keeps {α : Type} {f : Memory → α → Memory} {m : Memory} {l : List α}
    (hf : ∀ m x, m.wf = true → (f m x).wf = true) (h : m.wf = true) : (l.foldl f m).wf = true := by
  induction l generalizing m with
  | nil => exact h
  | cons x r ih => exact ih (hf _ _ h)

/-- The state that a stream-context request answers has canonical memories. -/
def SctRes.MemOk (r : SctRes) : Prop := ∀ t, r = .done t ∨ r = .wait t → t.MemOk

theorem SctRes.done_memOk {t : State} (h : t.MemOk) : SctRes.MemOk (.done t) := by
  rintro u (e | e) <;> cases e
  exact h

theorem SctRes.wait_memOk {t : State} (h : t.MemOk) : SctRes.MemOk (.wait t) := by
  rintro u (e | e) <;> cases e
  exact h

theorem SctRes.err_memOk : SctRes.MemOk .err := by
  rintro u (e | e) <;> cases e

theorem reset_memOk : State.reset.MemOk := rfl

/-- A step on an answer that is a next state. -/
theorem Out.memOk_bind {o : Out} {t : State} (h : Out.MemOk o) (e : o = .next t) : t.MemOk := h t e

end Sys2Proof.Machine
end

