-- ==== Sys2Proof/Laws/MemOkSyllables.lean ====
section
/-!
SUPPORT. The operations of Access, Translate, Ops, Scalar, Vector, Local, VecFloat, Array, Control keep every memory canonical.
-/

namespace Sys2Proof.Machine

/-! ## Access -/

theorem State.setCtx_memOk {s : State} {hw : Nat} {c : Ctx} (hok : s.MemOk) :
    (State.setCtx s hw c).MemOk := by
  unfold State.setCtx
  repeat' (first | with_reducible assumption | simp only [State.mk_memOk] | with_reducible apply State.memOk_mem)

theorem State.modCtx_memOk {s : State} {hw : Nat} {f : Ctx → Ctx} (hok : s.MemOk) :
    (State.modCtx s hw f).MemOk :=
  State.setCtx_memOk hok

theorem State.setCore_memOk {s : State} {n : Nat} {c : Core} (hok : s.MemOk) :
    (State.setCore s n c).MemOk := by
  unfold State.setCore
  repeat' (first | with_reducible assumption | simp only [State.mk_memOk] | with_reducible apply State.memOk_mem)

theorem State.modCore_memOk {s : State} {n : Nat} {f : Core → Core} (hok : s.MemOk) :
    (State.modCore s n f).MemOk :=
  State.setCore_memOk hok

theorem State.modAux_memOk {s : State} {n : Nat} {f : CoreAux → CoreAux} (hok : s.MemOk) :
    (State.modAux s n f).MemOk := by
  unfold State.modAux
  repeat' (first | with_reducible assumption | simp only [State.mk_memOk] | with_reducible apply State.memOk_mem)

theorem State.modCl_memOk {s : State} {n : Nat} {f : Cluster → Cluster} (hok : s.MemOk) :
    (State.modCl s n f).MemOk := by
  unfold State.modCl
  repeat' (first | with_reducible assumption | simp only [State.mk_memOk] | with_reducible apply State.memOk_mem)

theorem State.modQueue_memOk {s : State} {q : Nat} {f : Queue → Queue} (hok : s.MemOk) :
    (State.modQueue s q f).MemOk := by
  unfold State.modQueue
  (try dsimp only)
  repeat' (first | with_reducible assumption | simp only [State.mk_memOk] | with_reducible apply State.memOk_mem)

theorem State.modLink_memOk {s : State} {n : Nat} {f : Link → Link} (hok : s.MemOk) :
    (State.modLink s n f).MemOk := by
  unfold State.modLink
  (try dsimp only)
  repeat' (first | with_reducible assumption | simp only [State.mk_memOk] | with_reducible apply State.memOk_mem)

theorem State.fresh_memOk {s : State} (h : s.MemOk) : s.fresh.2.MemOk := h

theorem State.drawn_memOk {s : State} (h : s.MemOk) : s.drawn.2.MemOk := h

theorem State.pushVal_memOk {s : State} {dest : Dest} {mask : PReg} {val : VReg} {flags : Flags} {lat : Nat} (hok : s.MemOk) :
    (State.pushVal s dest mask val flags lat).MemOk := by
  unfold State.pushVal
  (try dsimp only)
  repeat' (first | with_reducible assumption | with_reducible intro _ | with_reducible apply State.modCtx_memOk)

theorem State.pushS_memOk {s : State} {n : Nat} {v : Word} {flags : Flags} {lat : Nat} (hok : s.MemOk) :
    (State.pushS s n v flags lat).MemOk :=
  State.pushVal_memOk hok

theorem State.pushC_memOk {s : State} {n : Nat} {b : Bool} {lat : Nat} (hok : s.MemOk) :
    (State.pushC s n b lat).MemOk := by
  unfold State.pushC
  repeat' (first | with_reducible assumption | with_reducible apply State.pushVal_memOk)

theorem State.pushV_memOk {s : State} {n : Nat} {mask : PReg} {v : VReg} {flags : Flags} {lat : Nat} (hok : s.MemOk) :
    (State.pushV s n mask v flags lat).MemOk :=
  State.pushVal_memOk hok

theorem State.pushKept_memOk {s : State} {n : Nat} {mask : PReg} {kept v : VReg} {flags : Flags} {lat : Nat} (hok : s.MemOk) :
    (State.pushKept s n mask kept v flags lat).MemOk := by
  unfold State.pushKept
  (try dsimp only)
  repeat' (first | with_reducible assumption | with_reducible intro _ | with_reducible apply State.modCtx_memOk)

theorem State.pushP_memOk {s : State} {n : Nat} {mask v : PReg} {flags : Flags} {lat : Nat} (hok : s.MemOk) :
    (State.pushP s n mask v flags lat).MemOk :=
  State.pushVal_memOk hok

theorem State.charge_memOk {s : State} {hw code n : Nat} (hok : s.MemOk) :
    (State.charge s hw code n).MemOk := by
  unfold State.charge
  (try dsimp only)
  repeat' (first | with_reducible assumption | with_reducible intro _ | with_reducible apply State.modCtx_memOk
                 | simp only [State.mk_memOk] | with_reducible apply State.memOk_mem | split)

theorem State.chargeCore_memOk {s : State} {core code n : Nat} (hok : s.MemOk) :
    (State.chargeCore s core code n).MemOk := by
  unfold State.chargeCore
  (try dsimp only)
  repeat' (first | with_reducible assumption | with_reducible intro _ | with_reducible apply State.modAux_memOk
                 | simp only [State.mk_memOk] | with_reducible apply State.memOk_mem | split)

/-! ## Translate -/

theorem State.dropTlb_memOk {s : State} {cl eng asid va : Nat} (hok : s.MemOk) :
    (State.dropTlb s cl eng asid va).MemOk := by
  unfold State.dropTlb
  repeat' (first | with_reducible assumption | with_reducible intro _ | with_reducible apply State.modCl_memOk | simp only [State.mk_memOk]
                 | with_reducible apply State.memOk_mem | split)

theorem State.chargeWalk_memOk {s : State} {hw : Option Nat} {asid va : Nat} (hok : s.MemOk) :
    (State.chargeWalk s hw asid va).MemOk := by
  unfold State.chargeWalk
  repeat' (first | with_reducible assumption | with_reducible apply State.charge_memOk | simp only [State.mk_memOk]
                 | with_reducible apply State.memOk_mem | split)

theorem State.chargeFailed_memOk {s : State} {hw asid va level : Nat} (hok : s.MemOk) :
    (State.chargeFailed s hw asid va level).MemOk := by
  unfold State.chargeFailed
  repeat' (first | with_reducible assumption | with_reducible apply State.chargeWalk_memOk | split)

theorem State.remember_memOk {s : State} {cl eng asid va : Nat} (hok : s.MemOk) :
    (State.remember s cl eng asid va).MemOk := by
  unfold State.remember
  repeat' (first | with_reducible assumption | with_reducible intro _ | with_reducible apply State.modCl_memOk | simp only [State.mk_memOk]
                 | with_reducible apply State.memOk_mem | split)

theorem State.rememberAll_memOk {s : State} {hw : Option Nat} {cl eng asid : Nat} (hok : s.MemOk) (x0 : Nat) (x1 : Nat) (x2 : Nat) :
    (State.rememberAll s hw cl eng asid x0 x1 x2).MemOk := by
  induction x0 generalizing s hw cl eng asid x1 x2
  case _ =>
    unfold State.rememberAll
    repeat' (first | with_reducible assumption)
  case _ ih =>
    unfold State.rememberAll
    (try dsimp only)
    repeat' (first | with_reducible assumption | with_reducible apply ih | with_reducible apply State.chargeWalk_memOk
                   | with_reducible apply State.remember_memOk | split)

/-! ## Ops -/

theorem State.ifOpen_memOk {s : State} {f : State → State} (hok : s.MemOk) (h_f : ∀ (s : State) , s.MemOk → (f s ).MemOk) :
    (State.ifOpen s f).MemOk := by
  unfold State.ifOpen
  repeat' (first | with_reducible assumption | with_reducible apply h_f | split)

theorem State.postEvent_memOk {s : State} {kind queue detail arg code : Nat} (hok : s.MemOk) :
    (State.postEvent s kind queue detail arg code).MemOk := by
  unfold State.postEvent
  (try dsimp only)
  repeat' (first | with_reducible assumption | simp only [State.mk_memOk] | with_reducible apply State.memOk_mem
                 | with_reducible apply Mem.mk_wf | with_reducible apply State.memOk_hbm | with_reducible apply State.memOk_host
                 | with_reducible apply State.memOk_spad | with_reducible apply State.memOk_imem | with_reducible apply State.memOk_lining
                 | with_reducible apply Memory.write_wf | with_reducible apply Memory.hostPut_wf | with_reducible apply Memory.putAll_wf
                 | with_reducible apply Memory.writeN_wf | with_reducible apply Memory.foldl_wf | split)

theorem State.queueErr_memOk {s : State} {q code pkt extra : Nat} (hok : s.MemOk) :
    (State.queueErr s q code pkt extra).MemOk := by
  unfold State.queueErr
  (try dsimp only)
  repeat' (first | with_reducible assumption | with_reducible intro _ | with_reducible apply State.modQueue_memOk
                 | with_reducible apply State.postEvent_memOk)

theorem State.launchErr_memOk {s : State} {hw code extra : Nat} (hok : s.MemOk) :
    (State.launchErr s hw code extra).MemOk := by
  unfold State.launchErr
  repeat' (first | with_reducible assumption | with_reducible apply State.queueErr_memOk | simp only [State.mk_memOk]
                 | with_reducible apply State.memOk_mem | split)

theorem State.raise_memOk {s : State} {hw : Nat} {a : Async} (hok : s.MemOk) :
    (State.raise s hw a).MemOk := by
  unfold State.raise
  (try dsimp only)
  repeat' (first | with_reducible assumption | with_reducible intro _ | with_reducible apply State.modCtx_memOk
                 | simp only [State.mk_memOk] | with_reducible apply State.memOk_mem | split)

theorem journalLine_memOk {s : State} {line : Nat} (hok : s.MemOk) :
    (journalLine s line).MemOk := by
  unfold journalLine
  (try dsimp only)
  repeat' (first | with_reducible assumption | with_reducible intro _ | with_reducible apply State.modCtx_memOk
                 | with_reducible apply State.setCore_memOk | simp only [State.mk_memOk] | with_reducible apply State.memOk_mem
                 | with_reducible apply foldl_memOk | with_reducible apply foldl_fst_memOk | split)

theorem State.spadRaw_memOk {s : State} {cells : List (Nat × Byte)} (hok : s.MemOk) :
    (State.spadRaw s cells).MemOk := by
  unfold State.spadRaw
  (try dsimp only)
  repeat' (first | with_reducible assumption | with_reducible intro _ | simp only [State.mk_memOk] | with_reducible apply State.memOk_mem
                 | with_reducible apply Mem.mk_wf | with_reducible apply State.memOk_hbm | with_reducible apply State.memOk_host
                 | with_reducible apply State.memOk_spad | with_reducible apply State.memOk_imem | with_reducible apply State.memOk_lining
                 | with_reducible apply Memory.write_wf | with_reducible apply Memory.hostPut_wf | with_reducible apply Memory.putAll_wf
                 | with_reducible apply Memory.writeN_wf | with_reducible apply Memory.foldl_wf)

theorem State.writePlace_memOk {s : State} {pl : Place} {b : Byte} (hok : s.MemOk) :
    (State.writePlace s pl b).MemOk := by
  unfold State.writePlace
  (try dsimp only)
  repeat' (first | with_reducible assumption | simp only [State.mk_memOk] | with_reducible apply State.memOk_mem
                 | with_reducible apply Mem.mk_wf | with_reducible apply State.memOk_hbm | with_reducible apply State.memOk_host
                 | with_reducible apply State.memOk_spad | with_reducible apply State.memOk_imem | with_reducible apply State.memOk_lining
                 | with_reducible apply Memory.write_wf | with_reducible apply Memory.hostPut_wf | with_reducible apply Memory.putAll_wf
                 | with_reducible apply Memory.writeN_wf | with_reducible apply Memory.foldl_wf | split)

theorem State.setTaskQ_memOk {s : State} {cl qn : Nat} {q : TaskQ} (hok : s.MemOk) :
    (State.setTaskQ s cl qn q).MemOk := by
  unfold State.setTaskQ
  (try dsimp only)
  repeat' (first | with_reducible assumption | with_reducible intro _ | with_reducible apply State.modCl_memOk | simp only [State.mk_memOk]
                 | with_reducible apply State.memOk_mem | split)

theorem State.writeFar_memOk {s : State} {ps : List Piece} {bs : List Byte} (hok : s.MemOk) :
    (State.writeFar s ps bs).MemOk := by
  unfold State.writeFar
  repeat' (first | with_reducible assumption | with_reducible intro _ | with_reducible apply State.writePlace_memOk
                 | with_reducible apply foldl_memOk)

theorem State.spill_memOk {s : State} {cl : Nat} {q : TaskQ} (hok : s.MemOk) (x0 : Nat) :
    QRes.Has (fun t => t.1.MemOk) (State.spill s cl q x0) := by
  induction x0 generalizing s cl q
  case _ =>
    unfold State.spill
    repeat' (first | with_reducible assumption | with_reducible apply QRes.has_ok)
  case _ ih =>
    unfold State.spill
    repeat' (first | with_reducible assumption | with_reducible apply QRes.has_ok | with_reducible exact QRes.has_empty
                   | with_reducible exact QRes.has_fault | with_reducible apply ih | with_reducible apply State.writeFar_memOk
                   | simp only [State.mk_memOk] | with_reducible apply State.memOk_mem | split)

theorem State.pushRec_memOk {s : State} {cl qn : Nat} {r : TRec} (hok : s.MemOk) :
    QRes.Has State.MemOk (State.pushRec s cl qn r) := by
  unfold State.pushRec
  repeat' (first | with_reducible assumption | with_reducible apply QRes.has_ok | with_reducible exact QRes.has_empty
                 | with_reducible exact QRes.has_fault | with_reducible apply State.setTaskQ_memOk | with_reducible apply State.spill_memOk
                 | simp only [State.mk_memOk] | with_reducible apply State.memOk_mem | split
                 | refine State.spill_memOk ?_ _ (by assumption) | refine State.spill_memOk ?_ _ _ (by assumption))

theorem State.pushOldest_memOk {s : State} {cl qn : Nat} {r : TRec} (hok : s.MemOk) :
    QRes.Has State.MemOk (State.pushOldest s cl qn r) := by
  unfold State.pushOldest
  (try dsimp only)
  repeat' (first | with_reducible assumption | with_reducible apply QRes.has_ok | with_reducible exact QRes.has_empty
                 | with_reducible exact QRes.has_fault | with_reducible apply State.setTaskQ_memOk
                 | with_reducible apply State.writeFar_memOk | simp only [State.mk_memOk] | with_reducible apply State.memOk_mem | split)

theorem State.takeRec_memOk {s : State} {cl qn : Nat} {newest : Bool} (hok : s.MemOk) :
    QRes.Has (fun t => t.2.MemOk) (State.takeRec s cl qn newest) := by
  unfold State.takeRec
  (try dsimp only)
  repeat' (first | with_reducible assumption | with_reducible intro _ | with_reducible apply QRes.has_ok
                 | with_reducible exact QRes.has_empty | with_reducible exact QRes.has_fault | with_reducible apply State.setTaskQ_memOk
                 | simp only [State.mk_memOk] | with_reducible apply State.memOk_mem | split)

theorem State.pushInTurn_memOk {s : State} {cl qn : Nat} {r : TRec} (hok : s.MemOk) :
    QRes.Has State.MemOk (State.pushInTurn s cl qn r) := by
  unfold State.pushInTurn
  repeat' (first | with_reducible assumption | with_reducible intro _ | with_reducible apply QRes.has_ok
                 | with_reducible exact QRes.has_empty | with_reducible exact QRes.has_fault | with_reducible apply State.pushRec_memOk
                 | split)

theorem State.editRec_memOk {s : State} {cl qn id a g : Nat} (hok : s.MemOk) :
    (State.editRec s cl qn id a g).MemOk := by
  unfold State.editRec
  (try dsimp only)
  repeat' (first | with_reducible assumption | with_reducible intro _ | with_reducible apply State.setTaskQ_memOk
                 | with_reducible apply State.writeFar_memOk | simp only [State.mk_memOk] | with_reducible apply State.memOk_mem | split)

theorem State.chargeLines_memOk {s : State} {hw : Nat} {ls : List Nat} (hok : s.MemOk) :
    (State.chargeLines s hw ls).MemOk := by
  unfold State.chargeLines
  (try dsimp only)
  repeat' (first | with_reducible assumption | with_reducible intro _ | with_reducible apply State.charge_memOk
                 | with_reducible apply State.chargeCore_memOk | with_reducible apply foldl_memOk)

theorem State.chargePieces_memOk {s : State} {hw : Nat} {ps : List Piece} (hok : s.MemOk) :
    (State.chargePieces s hw ps).MemOk := by
  unfold State.chargePieces
  repeat' (first | with_reducible assumption | with_reducible apply State.charge_memOk | with_reducible apply State.chargeLines_memOk)

theorem State.chargeRing_memOk {t s : State} {cl qn hw : Nat} (hok : t.MemOk) :
    (State.chargeRing t s cl qn hw).MemOk := by
  unfold State.chargeRing
  (try dsimp only)
  repeat' (first | with_reducible assumption | with_reducible intro _ | with_reducible apply State.charge_memOk
                 | simp only [State.mk_memOk] | with_reducible apply State.memOk_mem | split)

theorem State.disarm_memOk {s : State} {cl e : Nat} {w : Watch} (hok : s.MemOk) :
    (State.disarm s cl e w).MemOk := by
  unfold State.disarm
  (try dsimp only)
  repeat' (first | with_reducible assumption | with_reducible intro _ | with_reducible apply State.modCl_memOk
                 | with_reducible apply State.queueErr_memOk | with_reducible apply State.raise_memOk | simp only [State.mk_memOk]
                 | with_reducible apply State.memOk_mem | split)

theorem State.modArmed_memOk {s : State} {p : Watch → Bool} {f : Watch → Watch} (hok : s.MemOk) :
    (State.modArmed s p f).MemOk := by
  unfold State.modArmed
  (try dsimp only)
  repeat' (first | with_reducible assumption | with_reducible intro _ | simp only [State.mk_memOk] | with_reducible apply State.memOk_mem)

theorem State.rollWatch_memOk {s : State} {cl : Nat} (hok : s.MemOk) :
    (State.rollWatch s cl).MemOk :=
  State.modCl_memOk hok

theorem countNew_memOk {again : State → List (Nat × Byte) → Nat × Nat → State} {cl e d : Nat} {s : State} (hok : s.MemOk) (h_again : ∀ (s : State) (y0 : List (Nat × Byte)) (y1 : Nat × Nat), s.MemOk → (again s y0 y1).MemOk) :
    (countNew again cl e d s).MemOk := by
  unfold countNew
  (try dsimp only)
  repeat' (first | with_reducible assumption | with_reducible intro _ | with_reducible apply h_again | split)

theorem State.raiseOnce_memOk {s : State} {hw : Nat} {a : Async} (hok : s.MemOk) :
    (State.raiseOnce s hw a).MemOk := by
  unfold State.raiseOnce
  repeat' (first | with_reducible assumption | with_reducible apply State.raise_memOk | split)

theorem State.ringFault_memOk {s : State} {cl qn va code level : Nat} (hok : s.MemOk) :
    (State.ringFault s cl qn va code level).MemOk := by
  unfold State.ringFault
  repeat' (first | with_reducible assumption | with_reducible apply State.raiseOnce_memOk | simp only [State.mk_memOk]
                 | with_reducible apply State.memOk_mem | split)

theorem pushNew_memOk {cl e d : Nat} {w : Watch} {s : State} (hok : s.MemOk) :
    (pushNew cl e d w s).MemOk := by
  unfold pushNew
  (try dsimp only)
  repeat' (first | with_reducible assumption | with_reducible intro _ | with_reducible apply State.modCl_memOk
                 | with_reducible apply State.fresh_memOk | with_reducible apply State.pushInTurn_memOk
                 | with_reducible apply State.chargeRing_memOk | with_reducible apply State.ringFault_memOk | simp only [State.mk_memOk]
                 | with_reducible apply State.memOk_mem | split | refine State.pushInTurn_memOk ?_ _ (by assumption))

theorem fireNew_memOk {again : State → List (Nat × Byte) → Nat × Nat → State} {cl e a g : Nat} {w : Watch} {s : State} (hok : s.MemOk) (h_again : ∀ (s : State) (y0 : List (Nat × Byte)) (y1 : Nat × Nat), s.MemOk → (again s y0 y1).MemOk) :
    (fireNew again cl e a g w s).MemOk := by
  unfold fireNew
  (try dsimp only)
  repeat' (first | with_reducible assumption | with_reducible intro _ | with_reducible apply State.modCl_memOk
                 | with_reducible apply countNew_memOk | with_reducible apply pushNew_memOk)

theorem fireOne_memOk {again : State → List (Nat × Byte) → Nat × Nat → State} {wr : Option Writer} {cl e a : Nat} {s0 : State} (hok : s0.MemOk) (h_again : ∀ (s : State) (y0 : List (Nat × Byte)) (y1 : Nat × Nat), s.MemOk → (again s y0 y1).MemOk) :
    (fireOne again wr cl e a s0).MemOk := by
  unfold fireOne
  (try dsimp only)
  repeat' (first | with_reducible assumption | with_reducible intro _ | with_reducible apply State.modCl_memOk
                 | with_reducible apply State.editRec_memOk | with_reducible apply State.disarm_memOk
                 | with_reducible apply State.rollWatch_memOk | with_reducible apply fireNew_memOk | with_reducible apply h_again
                 | simp only [State.mk_memOk] | with_reducible apply State.memOk_mem | split)

theorem State.spadQuiet_memOk {s : State} {cells : List (Nat × Byte)} {skip : Option (Nat × Nat)} (hok : s.MemOk) :
    (State.spadQuiet s cells skip).1.MemOk := by
  unfold State.spadQuiet
  (try dsimp only)
  repeat' (first | with_reducible assumption | with_reducible intro _ | with_reducible apply journalLine_memOk
                 | with_reducible apply State.spadRaw_memOk | with_reducible apply foldl_memOk | with_reducible apply foldl_fst_memOk
                 | split)

theorem State.spadWriteF_memOk {s : State} {cells : List (Nat × Byte)} {wr : Option Writer} {skip : Option (Nat × Nat)} (hok : s.MemOk) (x0 : Nat) :
    (State.spadWriteF s cells wr skip x0).MemOk := by
  induction x0 generalizing s cells wr skip
  case _ =>
    unfold State.spadWriteF
    repeat' (first | with_reducible assumption | with_reducible intro _ | with_reducible apply ih | with_reducible apply State.spadRaw_memOk)
  case _ ih =>
    unfold State.spadWriteF
    (try dsimp only)
    repeat' (first | with_reducible assumption | with_reducible intro _ | with_reducible apply ih | with_reducible apply State.spadRaw_memOk
                   | with_reducible apply fireOne_memOk | with_reducible apply State.spadQuiet_memOk | with_reducible apply foldl_memOk)

theorem State.fireAll_memOk {s : State} {ts : List (Nat × Nat × Nat)} {wr : Option Writer} (hok : s.MemOk) :
    (State.fireAll s ts wr).MemOk := by
  unfold State.fireAll
  repeat' (first | with_reducible assumption | with_reducible intro _ | with_reducible apply fireOne_memOk
                 | with_reducible apply State.spadWriteF_memOk | with_reducible apply foldl_memOk)

theorem State.spadWrite_memOk {s : State} {cells : List (Nat × Byte)} {wr : Option Writer} (hok : s.MemOk) :
    (State.spadWrite s cells wr).MemOk := by
  unfold State.spadWrite
  repeat' (first | with_reducible assumption | with_reducible apply State.spadWriteF_memOk | split)

theorem State.coreWrite_memOk {s : State} {cells : List (Nat × Byte)} {wr : Option Writer} (hok : s.MemOk) :
    (State.coreWrite s cells wr).MemOk := by
  unfold State.coreWrite
  repeat' (first | with_reducible assumption | with_reducible apply State.spadWrite_memOk | simp only [State.mk_memOk]
                 | with_reducible apply State.memOk_mem)

theorem State.writePieces_memOk {s : State} {ps : List Piece} {bs : List Byte} {wr : Option Writer} (hok : s.MemOk) :
    (State.writePieces s ps bs wr).MemOk := by
  unfold State.writePieces
  (try dsimp only)
  repeat' (first | with_reducible assumption | with_reducible intro _ | with_reducible apply State.writePlace_memOk
                 | with_reducible apply State.spadWrite_memOk | with_reducible apply foldl_memOk)

theorem State.writeQuiet_memOk {s : State} {ps : List Piece} {bs : List Byte} (hok : s.MemOk) :
    (State.writeQuiet s ps bs).1.MemOk := by
  unfold State.writeQuiet
  (try dsimp only)
  repeat' (first | with_reducible assumption | with_reducible intro _ | with_reducible apply State.writePlace_memOk
                 | with_reducible apply State.spadQuiet_memOk | with_reducible apply foldl_memOk)

theorem State.writeMute_memOk {s : State} {ps : List Piece} {bs : List Byte} (hok : s.MemOk) :
    (State.writeMute s ps bs).MemOk := by
  unfold State.writeMute
  repeat' (first | with_reducible assumption | with_reducible apply State.writeQuiet_memOk)

theorem State.counterAdd_memOk {s : State} {ccl off : Nat} {add : Nat} {wr : Option Writer} (hok : s.MemOk) :
    (State.counterAdd s ccl off add wr).MemOk :=
  State.spadWrite_memOk hok

theorem State.trace_memOk {s : State} {hw kind bundle rep : Nat} {cand : Bool} (hok : s.MemOk) :
    (State.trace s hw kind bundle rep cand).MemOk := by
  unfold State.trace
  (try dsimp only)
  repeat' (first | with_reducible assumption | with_reducible intro _ | with_reducible apply State.modCl_memOk
                 | with_reducible apply State.charge_memOk | with_reducible apply State.chargePieces_memOk
                 | with_reducible apply State.writeMute_memOk | simp only [State.mk_memOk] | with_reducible apply State.memOk_mem | split)

theorem State.leavePrimary_memOk {s : State} {hw : Nat} (hok : s.MemOk) :
    (State.leavePrimary s hw).MemOk := by
  unfold State.leavePrimary
  repeat' (first | with_reducible assumption | with_reducible intro _ | with_reducible apply State.modCore_memOk)

theorem State.switchNext_memOk {t s : State} {hw : Nat} (hok : t.MemOk) :
    (State.switchNext t s hw).MemOk := by
  unfold State.switchNext
  repeat' (first | with_reducible assumption | with_reducible intro _ | with_reducible apply State.modCore_memOk
                 | simp only [State.mk_memOk] | with_reducible apply State.memOk_mem | split)

theorem State.leaveBars_memOk {s : State} {hw : Nat} (hok : s.MemOk) :
    (State.leaveBars s hw).MemOk := by
  unfold State.leaveBars
  repeat' (first | with_reducible assumption | with_reducible intro _ | with_reducible apply State.modCl_memOk)

theorem State.fixedWait_memOk {s : State} {hw : Nat} {cand : Bool} (hok : s.MemOk) :
    (State.fixedWait s hw cand).MemOk := by
  unfold State.fixedWait
  repeat' (first | with_reducible assumption | with_reducible apply State.modCtx_memOk | split)

theorem State.engineWait_memOk {s : State} {hw : Nat} {cand : Bool} (hok : s.MemOk) :
    (State.engineWait s hw cand).MemOk := by
  unfold State.engineWait
  (try dsimp only)
  repeat' (first | with_reducible assumption | with_reducible intro _ | with_reducible apply State.modCtx_memOk
                 | with_reducible apply State.trace_memOk | with_reducible apply State.leavePrimary_memOk | simp only [State.mk_memOk]
                 | with_reducible apply State.memOk_mem | split)

theorem State.wfeWait_memOk {s : State} {hw : Nat} {cand : Bool} (hok : s.MemOk) :
    (State.wfeWait s hw cand).MemOk := by
  unfold State.wfeWait
  (try dsimp only)
  repeat' (first | with_reducible assumption | with_reducible intro _ | with_reducible apply State.modCtx_memOk
                 | with_reducible apply State.leavePrimary_memOk | simp only [State.mk_memOk] | with_reducible apply State.memOk_mem
                 | split)

theorem State.modLoads_memOk {s : State} {f : List KeyLoad → List KeyLoad} (hok : s.MemOk) :
    (State.modLoads s f).MemOk := by
  unfold State.modLoads
  (try dsimp only)
  repeat' (first | with_reducible assumption | simp only [State.mk_memOk] | with_reducible apply State.memOk_mem)

theorem State.dropLoad_memOk {s : State} {hw : Nat} (hok : s.MemOk) :
    (State.dropLoad s hw).MemOk :=
  State.modLoads_memOk hok

theorem State.modPings_memOk {s : State} {f : List (Nat × List Nat) → List (Nat × List Nat)} (hok : s.MemOk) :
    (State.modPings s f).MemOk := by
  unfold State.modPings
  (try dsimp only)
  repeat' (first | with_reducible assumption | simp only [State.mk_memOk] | with_reducible apply State.memOk_mem)

theorem State.dropPings_memOk {s : State} {hw : Nat} (hok : s.MemOk) :
    (State.dropPings s hw).MemOk :=
  State.modPings_memOk hok

theorem State.dropAsks_memOk {s : State} {hw : Nat} (hok : s.MemOk) :
    (State.dropAsks s hw).MemOk := by
  unfold State.dropAsks
  repeat' (first | with_reducible assumption | with_reducible apply State.dropLoad_memOk | with_reducible apply State.dropPings_memOk)

theorem State.sentHost_memOk {s : State} {hw : Nat} {ps : List Piece} (hok : s.MemOk) :
    (State.sentHost s hw ps).MemOk := by
  unfold State.sentHost
  (try dsimp only)
  repeat' (first | with_reducible assumption | with_reducible intro _ | with_reducible apply State.modCtx_memOk
                 | simp only [State.mk_memOk] | with_reducible apply State.memOk_mem | split)

theorem State.dropPushes_memOk {s : State} {hw : Nat} {ids : List Nat} (hok : s.MemOk) :
    (State.dropPushes s hw ids).MemOk := by
  unfold State.dropPushes
  (try dsimp only)
  repeat' (first | with_reducible assumption | with_reducible intro _ | with_reducible apply State.modCl_memOk | simp only [State.mk_memOk]
                 | with_reducible apply State.memOk_mem)

theorem State.endContext_memOk {s : State} {hw : Nat} (hok : s.MemOk) :
    (State.endContext s hw).MemOk := by
  unfold State.endContext
  (try dsimp only)
  repeat' (first | with_reducible assumption | with_reducible intro _ | with_reducible apply State.setCtx_memOk
                 | with_reducible apply State.modCore_memOk | with_reducible apply State.modCl_memOk
                 | with_reducible apply State.leavePrimary_memOk | with_reducible apply State.dropAsks_memOk
                 | with_reducible apply State.dropPushes_memOk | simp only [State.mk_memOk] | with_reducible apply State.memOk_mem)

theorem State.takeTrap_memOk {s : State} {hw : Nat} {t : TrapInfo} {tb : Nat} (hok : s.MemOk) :
    (State.takeTrap s hw t tb).MemOk := by
  unfold State.takeTrap
  (try dsimp only)
  repeat' (first | with_reducible assumption | with_reducible intro _ | with_reducible apply State.setCtx_memOk
                 | with_reducible apply State.modCore_memOk | with_reducible apply State.launchErr_memOk
                 | with_reducible apply State.trace_memOk | with_reducible apply State.leavePrimary_memOk
                 | with_reducible apply State.leaveBars_memOk | with_reducible apply State.dropAsks_memOk
                 | with_reducible apply State.endContext_memOk | simp only [State.mk_memOk] | with_reducible apply State.memOk_mem | split)

theorem State.met_memOk {s : State} {v : Verdict} (hok : s.MemOk) :
    (State.met s v).MemOk := by
  unfold State.met
  (try dsimp only)
  repeat' (first | with_reducible assumption | simp only [State.mk_memOk] | with_reducible apply State.memOk_mem)

theorem State.chkTrap_memOk {s : State} {k : Chk} (hok : s.MemOk) :
    (State.chkTrap s k).MemOk := by
  unfold State.chkTrap
  (try dsimp only)
  repeat' (first | with_reducible assumption | with_reducible apply State.takeTrap_memOk)

theorem State.perform_memOk {s : State} {mode : Option Chk} {on : Bool} {wait : Option Wait} {chk : Option Chk} {eff : State → State} (hok : s.MemOk) (h_eff : ∀ (s : State) , s.MemOk → (eff s ).MemOk) :
    Out.MemOk (State.perform s mode on wait chk eff) := by
  unfold State.perform
  repeat' (first | with_reducible assumption | with_reducible apply Out.next_memOk | with_reducible apply State.fixedWait_memOk
                 | with_reducible apply State.engineWait_memOk | with_reducible apply State.wfeWait_memOk
                 | with_reducible apply State.met_memOk | with_reducible apply State.chkTrap_memOk | with_reducible apply h_eff
                 | simp only [State.mk_memOk] | with_reducible apply State.memOk_mem | split)

theorem State.noteSp_memOk {s : State} {a : Word} (hok : s.MemOk) :
    (State.noteSp s a).MemOk := by
  unfold State.noteSp
  (try dsimp only)
  repeat' (first | with_reducible assumption | with_reducible intro _ | with_reducible apply State.modCtx_memOk
                 | simp only [State.mk_memOk] | with_reducible apply State.memOk_mem | split)

theorem State.ownStore_memOk {s : State} {cells : List (Nat × Byte)} (hok : s.MemOk) :
    (State.ownStore s cells).MemOk :=
  State.coreWrite_memOk hok

/-! ## Scalar -/

theorem State.xy_memOk {s : State} {g : Nat} {eff : State → State} (hok : s.MemOk) (h_eff : ∀ (s : State) , s.MemOk → (eff s ).MemOk) :
    Out.MemOk (State.xy s g eff) := by
  unfold State.xy
  repeat' (first | with_reducible assumption | with_reducible intro _ | with_reducible apply Out.next_memOk
                 | with_reducible apply State.charge_memOk | with_reducible apply State.perform_memOk | with_reducible apply h_eff)

theorem aluR_memOk {o : NR} {f : Word → Word → Word} {lat : Nat} {s : State} (hok : s.MemOk) :
    Out.MemOk (aluR o f lat s) := by
  unfold aluR
  repeat' (first | with_reducible assumption | with_reducible intro _ | with_reducible apply Out.next_memOk
                 | with_reducible apply State.pushS_memOk | with_reducible apply State.xy_memOk)

theorem aluU_memOk {o : N2} {f : Word → Word} {s : State} (hok : s.MemOk) :
    Out.MemOk (aluU o f s) := by
  unfold aluU
  repeat' (first | with_reducible assumption | with_reducible intro _ | with_reducible apply Out.next_memOk
                 | with_reducible apply State.pushS_memOk | with_reducible apply State.xy_memOk)

theorem aluI_memOk {o : NI} {f : Word → Word → Word} {s : State} (hok : s.MemOk) :
    Out.MemOk (aluI o f s) := by
  unfold aluI
  repeat' (first | with_reducible assumption | with_reducible intro _ | with_reducible apply Out.next_memOk
                 | with_reducible apply State.pushS_memOk | with_reducible apply State.xy_memOk)

theorem aluZ_memOk {o : NI} {f : Word → Word → Word} {s : State} (hok : s.MemOk) :
    Out.MemOk (aluZ o f s) := by
  unfold aluZ
  repeat' (first | with_reducible assumption | with_reducible intro _ | with_reducible apply Out.next_memOk
                 | with_reducible apply State.pushS_memOk | with_reducible apply State.xy_memOk)

theorem divR_memOk {o : NR} {f : Word → Word → Word} {s : State} (hok : s.MemOk) :
    Out.MemOk (divR o f s) := by
  unfold divR
  (try dsimp only)
  repeat' (first | with_reducible assumption | with_reducible intro _ | with_reducible apply Out.next_memOk
                 | with_reducible apply State.pushS_memOk | with_reducible apply State.xy_memOk)

theorem execAdd_memOk {o : NR} {s : State} (hok : s.MemOk) :
    Out.MemOk (execAdd o s) :=
  aluR_memOk hok

theorem execSub_memOk {o : NR} {s : State} (hok : s.MemOk) :
    Out.MemOk (execSub o s) :=
  aluR_memOk hok

theorem execAnd_memOk {o : NR} {s : State} (hok : s.MemOk) :
    Out.MemOk (execAnd o s) :=
  aluR_memOk hok

theorem execOr_memOk {o : NR} {s : State} (hok : s.MemOk) :
    Out.MemOk (execOr o s) :=
  aluR_memOk hok

theorem execXor_memOk {o : NR} {s : State} (hok : s.MemOk) :
    Out.MemOk (execXor o s) :=
  aluR_memOk hok

theorem execAddsh_memOk {o : NR} {sh : Nat} {s : State} (hok : s.MemOk) :
    Out.MemOk (execAddsh o sh s) :=
  aluR_memOk hok

theorem execMov_memOk {o : N2} {s : State} (hok : s.MemOk) :
    Out.MemOk (execMov o s) :=
  aluU_memOk hok

theorem execAddi_memOk {o : NI} {s : State} (hok : s.MemOk) :
    Out.MemOk (execAddi o s) :=
  aluI_memOk hok

theorem execLi_memOk {o : NL} {s : State} (hok : s.MemOk) :
    Out.MemOk (execLi o s) := by
  unfold execLi
  repeat' (first | with_reducible assumption | with_reducible intro _ | with_reducible apply Out.next_memOk
                 | with_reducible apply State.pushS_memOk | with_reducible apply State.xy_memOk)

theorem execAndi_memOk {o : NI} {s : State} (hok : s.MemOk) :
    Out.MemOk (execAndi o s) :=
  aluI_memOk hok

theorem execOri_memOk {o : NI} {s : State} (hok : s.MemOk) :
    Out.MemOk (execOri o s) :=
  aluZ_memOk hok

theorem execXori_memOk {o : NI} {s : State} (hok : s.MemOk) :
    Out.MemOk (execXori o s) :=
  aluZ_memOk hok

theorem execSlti_memOk {o : NI} {s : State} (hok : s.MemOk) :
    Out.MemOk (execSlti o s) :=
  aluI_memOk hok

theorem execShl_memOk {o : NR} {s : State} (hok : s.MemOk) :
    Out.MemOk (execShl o s) :=
  aluR_memOk hok

theorem execShr_memOk {o : NR} {s : State} (hok : s.MemOk) :
    Out.MemOk (execShr o s) :=
  aluR_memOk hok

theorem execSra_memOk {o : NR} {s : State} (hok : s.MemOk) :
    Out.MemOk (execSra o s) :=
  aluR_memOk hok

theorem execShli_memOk {o : NI} {s : State} (hok : s.MemOk) :
    Out.MemOk (execShli o s) :=
  aluI_memOk hok

theorem execShri_memOk {o : NI} {s : State} (hok : s.MemOk) :
    Out.MemOk (execShri o s) :=
  aluI_memOk hok

theorem execSrai_memOk {o : NI} {s : State} (hok : s.MemOk) :
    Out.MemOk (execSrai o s) :=
  aluI_memOk hok

theorem execClz_memOk {o : N2} {s : State} (hok : s.MemOk) :
    Out.MemOk (execClz o s) :=
  aluU_memOk hok

theorem execPopc_memOk {o : N2} {s : State} (hok : s.MemOk) :
    Out.MemOk (execPopc o s) :=
  aluU_memOk hok

theorem execMin_memOk {o : NR} {s : State} (hok : s.MemOk) :
    Out.MemOk (execMin o s) := by
  unfold execMin
  repeat' (first | with_reducible assumption | with_reducible intro _ | with_reducible apply Out.next_memOk
                 | with_reducible apply aluR_memOk)

theorem execMax_memOk {o : NR} {s : State} (hok : s.MemOk) :
    Out.MemOk (execMax o s) := by
  unfold execMax
  repeat' (first | with_reducible assumption | with_reducible intro _ | with_reducible apply Out.next_memOk
                 | with_reducible apply aluR_memOk)

theorem execMins_memOk {o : NR} {s : State} (hok : s.MemOk) :
    Out.MemOk (execMins o s) := by
  unfold execMins
  repeat' (first | with_reducible assumption | with_reducible intro _ | with_reducible apply Out.next_memOk
                 | with_reducible apply aluR_memOk)

theorem execMaxs_memOk {o : NR} {s : State} (hok : s.MemOk) :
    Out.MemOk (execMaxs o s) := by
  unfold execMaxs
  repeat' (first | with_reducible assumption | with_reducible intro _ | with_reducible apply Out.next_memOk
                 | with_reducible apply aluR_memOk)

theorem execSlt_memOk {o : NR} {s : State} (hok : s.MemOk) :
    Out.MemOk (execSlt o s) :=
  aluR_memOk hok

theorem execSlts_memOk {o : NR} {s : State} (hok : s.MemOk) :
    Out.MemOk (execSlts o s) :=
  aluR_memOk hok

theorem execSeq_memOk {o : NR} {s : State} (hok : s.MemOk) :
    Out.MemOk (execSeq o s) :=
  aluR_memOk hok

theorem execSel_memOk {o : NR} {c : Nat} {neg : Bool} {s : State} (hok : s.MemOk) :
    Out.MemOk (execSel o c neg s) := by
  unfold execSel
  (try dsimp only)
  repeat' (first | with_reducible assumption | with_reducible intro _ | with_reducible apply Out.next_memOk
                 | with_reducible apply aluR_memOk)

theorem execMul_memOk {o : NR} {s : State} (hok : s.MemOk) :
    Out.MemOk (execMul o s) :=
  aluR_memOk hok

theorem execMulh_memOk {o : NR} {s : State} (hok : s.MemOk) :
    Out.MemOk (execMulh o s) :=
  aluR_memOk hok

theorem execMulhs_memOk {o : NR} {s : State} (hok : s.MemOk) :
    Out.MemOk (execMulhs o s) :=
  aluR_memOk hok

theorem execDiv_memOk {o : NR} {s : State} (hok : s.MemOk) :
    Out.MemOk (execDiv o s) :=
  divR_memOk hok

theorem execDivs_memOk {o : NR} {s : State} (hok : s.MemOk) :
    Out.MemOk (execDivs o s) :=
  divR_memOk hok

theorem execRem_memOk {o : NR} {s : State} (hok : s.MemOk) :
    Out.MemOk (execRem o s) :=
  divR_memOk hok

theorem execRems_memOk {o : NR} {s : State} (hok : s.MemOk) :
    Out.MemOk (execRems o s) :=
  divR_memOk hok

theorem execCmpc_memOk {o : NR} {cc : CCmp} {s : State} (hok : s.MemOk) :
    Out.MemOk (execCmpc o cc s) := by
  unfold execCmpc
  repeat' (first | with_reducible assumption | with_reducible intro _ | with_reducible apply Out.next_memOk
                 | with_reducible apply State.pushC_memOk | with_reducible apply State.xy_memOk)

theorem execBfx_memOk {o : NBit} {s : State} (hok : s.MemOk) :
    Out.MemOk (execBfx o s) := by
  unfold execBfx
  repeat' (first | with_reducible assumption | with_reducible intro _ | with_reducible apply Out.next_memOk
                 | with_reducible apply State.pushS_memOk | with_reducible apply State.xy_memOk)

theorem execBfi_memOk {o : NBit} {s : State} (hok : s.MemOk) :
    Out.MemOk (execBfi o s) := by
  unfold execBfi
  repeat' (first | with_reducible assumption | with_reducible intro _ | with_reducible apply Out.next_memOk
                 | with_reducible apply State.pushS_memOk | with_reducible apply State.xy_memOk)

theorem execMfc_memOk {o : NCtl} {s : State} (hok : s.MemOk) :
    Out.MemOk (execMfc o s) := by
  unfold execMfc
  repeat' (first | with_reducible assumption | with_reducible intro _ | with_reducible apply Out.next_memOk
                 | with_reducible apply State.pushS_memOk | with_reducible apply State.xy_memOk)

theorem execMtc_memOk {o : NCtl} {s : State} (hok : s.MemOk) :
    Out.MemOk (execMtc o s) := by
  unfold execMtc
  repeat' (first | with_reducible assumption | with_reducible intro _ | with_reducible apply Out.next_memOk
                 | with_reducible apply State.modCtx_memOk | with_reducible apply State.charge_memOk
                 | with_reducible apply State.perform_memOk)

theorem State.chargeAccess_memOk {s : State} {a : Word} (hok : s.MemOk) :
    (State.chargeAccess s a).MemOk := by
  unfold State.chargeAccess
  repeat' (first | with_reducible assumption | with_reducible apply State.charge_memOk)

theorem loadX_memOk {o : NI} {size : Nat} {ext : Nat → Word} {s : State} (hok : s.MemOk) :
    Out.MemOk (loadX o size ext s) := by
  unfold loadX
  (try dsimp only)
  repeat' (first | with_reducible assumption | with_reducible intro _ | with_reducible apply Out.next_memOk
                 | with_reducible apply State.pushS_memOk | with_reducible apply State.perform_memOk
                 | with_reducible apply State.noteSp_memOk | with_reducible apply State.chargeAccess_memOk | split)

theorem storeX_memOk {o : NI} {size : Nat} {s : State} (hok : s.MemOk) :
    Out.MemOk (storeX o size s) := by
  unfold storeX
  (try dsimp only)
  repeat' (first | with_reducible assumption | with_reducible intro _ | with_reducible apply Out.next_memOk
                 | with_reducible apply State.perform_memOk | with_reducible apply State.noteSp_memOk
                 | with_reducible apply State.ownStore_memOk | with_reducible apply State.chargeAccess_memOk | split)

theorem execLdb_memOk {o : NI} {s : State} (hok : s.MemOk) :
    Out.MemOk (execLdb o s) :=
  loadX_memOk hok

theorem execLdbs_memOk {o : NI} {s : State} (hok : s.MemOk) :
    Out.MemOk (execLdbs o s) :=
  loadX_memOk hok

theorem execLdh_memOk {o : NI} {s : State} (hok : s.MemOk) :
    Out.MemOk (execLdh o s) :=
  loadX_memOk hok

theorem execLdhs_memOk {o : NI} {s : State} (hok : s.MemOk) :
    Out.MemOk (execLdhs o s) :=
  loadX_memOk hok

theorem execLdw_memOk {o : NI} {s : State} (hok : s.MemOk) :
    Out.MemOk (execLdw o s) :=
  loadX_memOk hok

theorem execLdws_memOk {o : NI} {s : State} (hok : s.MemOk) :
    Out.MemOk (execLdws o s) :=
  loadX_memOk hok

theorem execLdd_memOk {o : NI} {s : State} (hok : s.MemOk) :
    Out.MemOk (execLdd o s) :=
  loadX_memOk hok

theorem execStb_memOk {o : NI} {s : State} (hok : s.MemOk) :
    Out.MemOk (execStb o s) :=
  storeX_memOk hok

theorem execSth_memOk {o : NI} {s : State} (hok : s.MemOk) :
    Out.MemOk (execSth o s) :=
  storeX_memOk hok

theorem execStw_memOk {o : NI} {s : State} (hok : s.MemOk) :
    Out.MemOk (execStw o s) :=
  storeX_memOk hok

theorem execStd_memOk {o : NI} {s : State} (hok : s.MemOk) :
    Out.MemOk (execStd o s) :=
  storeX_memOk hok

theorem execIdleXy_memOk {s : State} (hok : s.MemOk) :
    Out.MemOk (execIdleXy s) :=
  Out.next_memOk (State.modCtx_memOk hok)

/-! ## Vector -/

theorem State.vw_memOk {s : State} {g w code : Nat} {eff : State → State} (hok : s.MemOk) (h_eff : ∀ (s : State) , s.MemOk → (eff s ).MemOk) :
    Out.MemOk (State.vw s g w code eff) := by
  unfold State.vw
  repeat' (first | with_reducible assumption | with_reducible intro _ | with_reducible apply Out.next_memOk
                 | with_reducible apply State.charge_memOk | with_reducible apply State.perform_memOk | with_reducible apply h_eff)

theorem State.mapV_memOk {s : State} {g : Nat} {t : ETy} {d lat code : Nat} {f : State → Nat → Nat × Flags} (hok : s.MemOk) :
    Out.MemOk (State.mapV s g t d lat code f) := by
  unfold State.mapV
  (try dsimp only)
  repeat' (first | with_reducible assumption | with_reducible intro _ | with_reducible apply Out.next_memOk
                 | with_reducible apply State.pushV_memOk | with_reducible apply State.vw_memOk)

theorem intBin_memOk {o : V3} {f : Int → Int → Nat × Flags} {s : State} (hok : s.MemOk) :
    Out.MemOk (intBin o f s) :=
  State.mapV_memOk hok

theorem intAcc_memOk {o : V3} {f : Int → Int → Int → Nat × Flags} {s : State} (hok : s.MemOk) :
    Out.MemOk (intAcc o f s) :=
  State.mapV_memOk hok

theorem intUn_memOk {o : V2} {f : Int → Nat × Flags} {s : State} (hok : s.MemOk) :
    Out.MemOk (intUn o f s) :=
  State.mapV_memOk hok

theorem bitBin_memOk {o : V3} {f : VReg → VReg → VReg} {s : State} (hok : s.MemOk) :
    Out.MemOk (bitBin o f s) := by
  unfold bitBin
  repeat' (first | with_reducible assumption | with_reducible intro _ | with_reducible apply Out.next_memOk
                 | with_reducible apply State.pushV_memOk | with_reducible apply State.vw_memOk)

theorem execVadd_memOk {o : V3} {sat : Bool} {s : State} (hok : s.MemOk) :
    Out.MemOk (execVadd o sat s) :=
  intBin_memOk hok

theorem execVsub_memOk {o : V3} {sat : Bool} {s : State} (hok : s.MemOk) :
    Out.MemOk (execVsub o sat s) :=
  intBin_memOk hok

theorem execVmul_memOk {o : V3} {s : State} (hok : s.MemOk) :
    Out.MemOk (execVmul o s) :=
  intBin_memOk hok

theorem execVmulh_memOk {o : V3} {s : State} (hok : s.MemOk) :
    Out.MemOk (execVmulh o s) :=
  intBin_memOk hok

theorem execVmac_memOk {o : V3} {s : State} (hok : s.MemOk) :
    Out.MemOk (execVmac o s) :=
  intAcc_memOk hok

theorem execVmacs_memOk {o : V3} {s : State} (hok : s.MemOk) :
    Out.MemOk (execVmacs o s) :=
  intAcc_memOk hok

theorem execVabs_memOk {o : V2} {sat : Bool} {s : State} (hok : s.MemOk) :
    Out.MemOk (execVabs o sat s) := by
  unfold execVabs
  repeat' (first | with_reducible assumption | with_reducible intro _ | with_reducible apply Out.next_memOk
                 | with_reducible apply intUn_memOk)

theorem execVneg_memOk {o : V2} {sat : Bool} {s : State} (hok : s.MemOk) :
    Out.MemOk (execVneg o sat s) :=
  intUn_memOk hok

theorem execVmin_memOk {o : V3} {s : State} (hok : s.MemOk) :
    Out.MemOk (execVmin o s) := by
  unfold execVmin
  repeat' (first | with_reducible assumption | with_reducible intro _ | with_reducible apply Out.next_memOk
                 | with_reducible apply intBin_memOk)

theorem execVmax_memOk {o : V3} {s : State} (hok : s.MemOk) :
    Out.MemOk (execVmax o s) := by
  unfold execVmax
  repeat' (first | with_reducible assumption | with_reducible intro _ | with_reducible apply Out.next_memOk
                 | with_reducible apply intBin_memOk)

theorem execVsat_memOk {o : V2} {n : Nat} {s : State} (hok : s.MemOk) :
    Out.MemOk (execVsat o n s) := by
  unfold execVsat
  (try dsimp only)
  repeat' (first | with_reducible assumption | with_reducible intro _ | with_reducible apply Out.next_memOk
                 | with_reducible apply intUn_memOk)

theorem execVnrw_memOk {o : V2} {sh : Nat} {sat rnd : Bool} {s : State} (hok : s.MemOk) :
    Out.MemOk (execVnrw o sh sat rnd s) := by
  unfold execVnrw
  (try dsimp only)
  repeat' (first | with_reducible assumption | with_reducible intro _ | with_reducible apply Out.next_memOk
                 | with_reducible apply State.pushV_memOk | with_reducible apply State.vw_memOk)

theorem execVwid_memOk {o : V2} {s : State} (hok : s.MemOk) :
    Out.MemOk (execVwid o s) := by
  unfold execVwid
  (try dsimp only)
  repeat' (first | with_reducible assumption | with_reducible intro _ | with_reducible apply Out.next_memOk
                 | with_reducible apply State.pushV_memOk | with_reducible apply State.vw_memOk)

theorem execVand_memOk {o : V3} {s : State} (hok : s.MemOk) :
    Out.MemOk (execVand o s) :=
  bitBin_memOk hok

theorem execVor_memOk {o : V3} {s : State} (hok : s.MemOk) :
    Out.MemOk (execVor o s) :=
  bitBin_memOk hok

theorem execVxor_memOk {o : V3} {s : State} (hok : s.MemOk) :
    Out.MemOk (execVxor o s) :=
  bitBin_memOk hok

theorem execVnot_memOk {o : V2} {s : State} (hok : s.MemOk) :
    Out.MemOk (execVnot o s) := by
  unfold execVnot
  repeat' (first | with_reducible assumption | with_reducible intro _ | with_reducible apply Out.next_memOk
                 | with_reducible apply State.pushV_memOk | with_reducible apply State.vw_memOk)

theorem shiftV_memOk {o : V2} {b : Amt} {f : Nat → Nat → Nat} {s : State} (hok : s.MemOk) :
    Out.MemOk (shiftV o b f s) := by
  unfold shiftV
  (try dsimp only)
  repeat' (first | with_reducible assumption | with_reducible intro _ | with_reducible apply Out.next_memOk
                 | with_reducible apply State.mapV_memOk)

theorem execVshl_memOk {o : V2} {b : Amt} {s : State} (hok : s.MemOk) :
    Out.MemOk (execVshl o b s) :=
  shiftV_memOk hok

theorem execVshr_memOk {o : V2} {b : Amt} {s : State} (hok : s.MemOk) :
    Out.MemOk (execVshr o b s) :=
  shiftV_memOk hok

theorem execVsra_memOk {o : V2} {b : Amt} {s : State} (hok : s.MemOk) :
    Out.MemOk (execVsra o b s) :=
  shiftV_memOk hok

theorem execVcmp_memOk {o : V3} {cc : ICmp} {s : State} (hok : s.MemOk) :
    Out.MemOk (execVcmp o cc s) := by
  unfold execVcmp
  repeat' (first | with_reducible assumption | with_reducible intro _ | with_reducible apply Out.next_memOk
                 | with_reducible apply State.pushP_memOk | with_reducible apply State.vw_memOk)

theorem execVsel_memOk {o : V3} {c : Nat} {s : State} (hok : s.MemOk) :
    Out.MemOk (execVsel o c s) := by
  unfold execVsel
  repeat' (first | with_reducible assumption | with_reducible intro _ | with_reducible apply Out.next_memOk
                 | with_reducible apply State.pushV_memOk | with_reducible apply State.vw_memOk)

theorem execVperm_memOk {o : V3} {s : State} (hok : s.MemOk) :
    Out.MemOk (execVperm o s) := by
  unfold execVperm
  (try dsimp only)
  repeat' (first | with_reducible assumption | with_reducible intro _ | with_reducible apply Out.next_memOk
                 | with_reducible apply State.mapV_memOk)

theorem execVsld_memOk {o : V3} {sh : Nat} {s : State} (hok : s.MemOk) :
    Out.MemOk (execVsld o sh s) := by
  unfold execVsld
  (try dsimp only)
  repeat' (first | with_reducible assumption | with_reducible intro _ | with_reducible apply Out.next_memOk
                 | with_reducible apply State.mapV_memOk)

theorem execVbcstScalar_memOk {o : V2} {s : State} (hok : s.MemOk) :
    Out.MemOk (execVbcstScalar o s) :=
  State.mapV_memOk hok

theorem execVbcstElement_memOk {o : V2} {idx : Nat} {s : State} (hok : s.MemOk) :
    Out.MemOk (execVbcstElement o idx s) :=
  State.mapV_memOk hok

theorem execVins_memOk {o : V2} {idx : Nat} {s : State} (hok : s.MemOk) :
    Out.MemOk (execVins o idx s) := by
  unfold execVins
  (try dsimp only)
  repeat' (first | with_reducible assumption | with_reducible intro _ | with_reducible apply Out.next_memOk
                 | with_reducible apply State.pushV_memOk | with_reducible apply State.vw_memOk)

theorem execVext_memOk {o : V2} {idx : Nat} {s : State} (hok : s.MemOk) :
    Out.MemOk (execVext o idx s) := by
  unfold execVext
  (try dsimp only)
  repeat' (first | with_reducible assumption | with_reducible intro _ | with_reducible apply Out.next_memOk
                 | with_reducible apply State.pushS_memOk | with_reducible apply State.vw_memOk | split)

theorem execVmov_memOk {o : V2} {s : State} (hok : s.MemOk) :
    Out.MemOk (execVmov o s) := by
  unfold execVmov
  repeat' (first | with_reducible assumption | with_reducible intro _ | with_reducible apply Out.next_memOk
                 | with_reducible apply State.pushV_memOk | with_reducible apply State.vw_memOk)

theorem execViota_memOk {o : V2} {s : State} (hok : s.MemOk) :
    Out.MemOk (execViota o s) := by
  unfold execViota
  (try dsimp only)
  repeat' (first | with_reducible assumption | with_reducible intro _ | with_reducible apply Out.next_memOk
                 | with_reducible apply State.pushV_memOk | with_reducible apply State.vw_memOk)

theorem predOp_memOk {g d : Nat} {f : Ctx → PReg} {s : State} (hok : s.MemOk) :
    Out.MemOk (predOp g d f s) := by
  unfold predOp
  repeat' (first | with_reducible assumption | with_reducible intro _ | with_reducible apply Out.next_memOk
                 | with_reducible apply State.pushP_memOk | with_reducible apply State.vw_memOk)

theorem execPand_memOk {o : VP} {s : State} (hok : s.MemOk) :
    Out.MemOk (execPand o s) :=
  predOp_memOk hok

theorem execPor_memOk {o : VP} {s : State} (hok : s.MemOk) :
    Out.MemOk (execPor o s) :=
  predOp_memOk hok

theorem execPxor_memOk {o : VP} {s : State} (hok : s.MemOk) :
    Out.MemOk (execPxor o s) :=
  predOp_memOk hok

theorem execPnot_memOk {o : VP2} {s : State} (hok : s.MemOk) :
    Out.MemOk (execPnot o s) :=
  predOp_memOk hok

theorem execPset_memOk {o : V2} {s : State} (hok : s.MemOk) :
    Out.MemOk (execPset o s) := by
  unfold execPset
  (try dsimp only)
  repeat' (first | with_reducible assumption | with_reducible intro _ | with_reducible apply Out.next_memOk
                 | with_reducible apply State.pushP_memOk | with_reducible apply State.vw_memOk)

theorem execPcnt_memOk {o : V2} {s : State} (hok : s.MemOk) :
    Out.MemOk (execPcnt o s) := by
  unfold execPcnt
  (try dsimp only)
  repeat' (first | with_reducible assumption | with_reducible intro _ | with_reducible apply Out.next_memOk
                 | with_reducible apply State.pushS_memOk | with_reducible apply State.vw_memOk)

theorem execIdleVw_memOk {s : State} (hok : s.MemOk) :
    Out.MemOk (execIdleVw s) :=
  Out.next_memOk (State.modCtx_memOk hok)

/-! ## Local -/

theorem State.accessed_memOk {s : State} {ms : Moves} (hok : s.MemOk) :
    (State.accessed s ms).MemOk := by
  unfold State.accessed
  (try dsimp only)
  repeat' (first | with_reducible assumption | with_reducible apply State.charge_memOk | with_reducible apply State.noteSp_memOk
                 | simp only [State.mk_memOk] | with_reducible apply State.memOk_mem | split)

theorem loadV_memOk {v lat : Nat} {ms : Moves} {mask : PReg} {chk : Option Chk} {s : State} (hok : s.MemOk) :
    Out.MemOk (loadV v lat ms mask chk s) := by
  unfold loadV
  repeat' (first | with_reducible assumption | with_reducible intro _ | with_reducible apply Out.next_memOk
                 | with_reducible apply State.pushV_memOk | with_reducible apply State.perform_memOk
                 | with_reducible apply State.accessed_memOk)

theorem storeV_memOk {ms : Moves} {chk : Option Chk} {byte : Nat → Byte} {s : State} (hok : s.MemOk) :
    Out.MemOk (storeV ms chk byte s) := by
  unfold storeV
  repeat' (first | with_reducible assumption | with_reducible intro _ | with_reducible apply Out.next_memOk
                 | with_reducible apply State.perform_memOk | with_reducible apply State.ownStore_memOk
                 | with_reducible apply State.accessed_memOk)

theorem execVld_memOk {o : LD} {s : State} (hok : s.MemOk) :
    Out.MemOk (execVld o s) :=
  loadV_memOk hok

theorem execVst_memOk {o : LD} {s : State} (hok : s.MemOk) :
    Out.MemOk (execVst o s) :=
  storeV_memOk hok

theorem execVlds_memOk {o : LS} {s : State} (hok : s.MemOk) :
    Out.MemOk (execVlds o s) :=
  loadV_memOk hok

theorem execVsts_memOk {o : LS} {s : State} (hok : s.MemOk) :
    Out.MemOk (execVsts o s) :=
  storeV_memOk hok

theorem execVldb_memOk {o : LD} {s : State} (hok : s.MemOk) :
    Out.MemOk (execVldb o s) :=
  loadV_memOk hok

theorem execVldx_memOk {o : LX} {s : State} (hok : s.MemOk) :
    Out.MemOk (execVldx o s) :=
  loadV_memOk hok

theorem execVstx_memOk {o : LX} {s : State} (hok : s.MemOk) :
    Out.MemOk (execVstx o s) :=
  storeV_memOk hok

theorem execPld_memOk {o : LD} {s : State} (hok : s.MemOk) :
    Out.MemOk (execPld o s) := by
  unfold execPld
  (try dsimp only)
  repeat' (first | with_reducible assumption | with_reducible intro _ | with_reducible apply Out.next_memOk
                 | with_reducible apply State.pushP_memOk | with_reducible apply State.perform_memOk
                 | with_reducible apply State.accessed_memOk)

theorem execPst_memOk {o : LD} {s : State} (hok : s.MemOk) :
    Out.MemOk (execPst o s) := by
  unfold execPst
  (try dsimp only)
  repeat' (first | with_reducible assumption | with_reducible intro _ | with_reducible apply Out.next_memOk
                 | with_reducible apply State.perform_memOk | with_reducible apply State.ownStore_memOk
                 | with_reducible apply State.accessed_memOk)

theorem execFill_memOk {o : LF} {s : State} (hok : s.MemOk) :
    Out.MemOk (execFill o s) := by
  unfold execFill
  (try dsimp only)
  repeat' (first | with_reducible assumption | with_reducible intro _ | with_reducible apply Out.next_memOk
                 | with_reducible apply storeV_memOk)

theorem execIdleL_memOk {s : State} (hok : s.MemOk) :
    Out.MemOk (execIdleL s) :=
  Out.next_memOk (State.modCtx_memOk hok)

/-! ## VecFloat -/

theorem State.roundV_memOk {s : State} {m : PReg} {t : ETy} {d lat : Nat} {lane : Nat → Nat} {f : Nat → Nat → FRes} (hok : s.MemOk) :
    (State.roundV s m t d lat lane f).MemOk := by
  unfold State.roundV
  (try dsimp only)
  repeat' (first | with_reducible assumption | with_reducible apply State.setCtx_memOk | with_reducible apply State.pushV_memOk)

theorem fltOp_memOk {g : Nat} {t : ETy} {d : Nat} {f : Ctx → Nat → Nat → FRes} {s : State} (hok : s.MemOk) :
    Out.MemOk (fltOp g t d f s) := by
  unfold fltOp
  repeat' (first | with_reducible assumption | with_reducible intro _ | with_reducible apply Out.next_memOk
                 | with_reducible apply State.vw_memOk | with_reducible apply State.roundV_memOk)

theorem execVfadd_memOk {o : V3} {s : State} (hok : s.MemOk) :
    Out.MemOk (execVfadd o s) :=
  fltOp_memOk hok

theorem execVfsub_memOk {o : V3} {s : State} (hok : s.MemOk) :
    Out.MemOk (execVfsub o s) :=
  fltOp_memOk hok

theorem execVfmul_memOk {o : V3} {s : State} (hok : s.MemOk) :
    Out.MemOk (execVfmul o s) :=
  fltOp_memOk hok

theorem execVfma_memOk {o : V3} {c : Nat} {s : State} (hok : s.MemOk) :
    Out.MemOk (execVfma o c s) :=
  fltOp_memOk hok

theorem execVfms_memOk {o : V3} {c : Nat} {s : State} (hok : s.MemOk) :
    Out.MemOk (execVfms o c s) :=
  fltOp_memOk hok

theorem fltPick_memOk {isMax : Bool} {o : V3} {s : State} (hok : s.MemOk) :
    Out.MemOk (fltPick isMax o s) :=
  State.mapV_memOk hok

theorem execVfmin_memOk {o : V3} {s : State} (hok : s.MemOk) :
    Out.MemOk (execVfmin o s) :=
  fltPick_memOk hok

theorem execVfmax_memOk {o : V3} {s : State} (hok : s.MemOk) :
    Out.MemOk (execVfmax o s) :=
  fltPick_memOk hok

theorem execVfcmp_memOk {o : V3} {cc : FCmp} {s : State} (hok : s.MemOk) :
    Out.MemOk (execVfcmp o cc s) := by
  unfold execVfcmp
  (try dsimp only)
  repeat' (first | with_reducible assumption | with_reducible intro _ | with_reducible apply Out.next_memOk
                 | with_reducible apply State.pushP_memOk | with_reducible apply State.vw_memOk)

theorem execVfcls_memOk {o : V2} {s : State} (hok : s.MemOk) :
    Out.MemOk (execVfcls o s) :=
  State.mapV_memOk hok

theorem execVcvt_memOk {o : V2} {u : ETy} {hi : Bool} {s : State} (hok : s.MemOk) :
    Out.MemOk (execVcvt o u hi s) := by
  unfold execVcvt
  (try dsimp only)
  repeat' (first | with_reducible assumption | with_reducible intro _ | with_reducible apply Out.next_memOk
                 | with_reducible apply State.vw_memOk | with_reducible apply State.roundV_memOk)

theorem transOp_memOk {which : Nat} {o : V2} {s : State} (hok : s.MemOk) :
    Out.MemOk (transOp which o s) := by
  unfold transOp
  (try dsimp only)
  repeat' (first | with_reducible assumption | with_reducible intro _ | with_reducible apply Out.next_memOk
                 | with_reducible apply State.pushV_memOk | with_reducible apply State.charge_memOk
                 | with_reducible apply State.perform_memOk)

theorem execVrcp_memOk {o : V2} {s : State} (hok : s.MemOk) :
    Out.MemOk (execVrcp o s) :=
  transOp_memOk hok

theorem execVrsq_memOk {o : V2} {s : State} (hok : s.MemOk) :
    Out.MemOk (execVrsq o s) :=
  transOp_memOk hok

theorem execVexp_memOk {o : V2} {s : State} (hok : s.MemOk) :
    Out.MemOk (execVexp o s) :=
  transOp_memOk hok

theorem execVlog_memOk {o : V2} {s : State} (hok : s.MemOk) :
    Out.MemOk (execVlog o s) :=
  transOp_memOk hok

theorem execVtanh_memOk {o : V2} {s : State} (hok : s.MemOk) :
    Out.MemOk (execVtanh o s) :=
  transOp_memOk hok

theorem execVqnt_memOk {o : V2} {c q : Nat} {s : State} (hok : s.MemOk) :
    Out.MemOk (execVqnt o c q s) := by
  unfold execVqnt
  (try dsimp only)
  repeat' (first | with_reducible assumption | with_reducible intro _ | with_reducible apply Out.next_memOk
                 | with_reducible apply State.setCtx_memOk | with_reducible apply State.pushV_memOk
                 | with_reducible apply State.pushKept_memOk | with_reducible apply State.charge_memOk
                 | with_reducible apply State.perform_memOk)

theorem execVdqnt_memOk {o : V2} {c q : Nat} {s : State} (hok : s.MemOk) :
    Out.MemOk (execVdqnt o c q s) := by
  unfold execVdqnt
  (try dsimp only)
  repeat' (first | with_reducible assumption | with_reducible intro _ | with_reducible apply Out.next_memOk
                 | with_reducible apply State.charge_memOk | with_reducible apply State.perform_memOk
                 | with_reducible apply State.roundV_memOk)

theorem execVred_memOk {o : V2} {op : RedOp} {s : State} (hok : s.MemOk) :
    Out.MemOk (execVred o op s) := by
  unfold execVred
  (try dsimp only)
  repeat' (first | with_reducible assumption | with_reducible intro _ | with_reducible apply Out.next_memOk
                 | with_reducible apply State.setCtx_memOk | with_reducible apply State.pushV_memOk | with_reducible apply State.vw_memOk
                 | simp only [State.mk_memOk] | with_reducible apply State.memOk_mem | with_reducible apply foldl_memOk
                 | with_reducible apply foldl_fst_memOk | split)

/-! ## Array -/

theorem State.acsWrite_memOk {s : State} {core tile r c : Nat} {v : Word32} (hok : s.MemOk) :
    (State.acsWrite s core tile r c v).MemOk := by
  unfold State.acsWrite
  (try dsimp only)
  repeat' (first | with_reducible assumption | simp only [State.mk_memOk] | with_reducible apply State.memOk_mem
                 | with_reducible apply Mem.mk_wf | with_reducible apply State.memOk_hbm | with_reducible apply State.memOk_host
                 | with_reducible apply State.memOk_spad | with_reducible apply State.memOk_imem | with_reducible apply State.memOk_lining)

theorem State.biasWrite_memOk {s : State} {key : Nat} {v : Word32} (hok : s.MemOk) :
    (State.biasWrite s key v).MemOk := by
  unfold State.biasWrite
  (try dsimp only)
  repeat' (first | with_reducible assumption | simp only [State.mk_memOk] | with_reducible apply State.memOk_mem
                 | with_reducible apply Mem.mk_wf | with_reducible apply State.memOk_hbm | with_reducible apply State.memOk_host
                 | with_reducible apply State.memOk_spad | with_reducible apply State.memOk_imem | with_reducible apply State.memOk_lining)

theorem State.takeSlices_memOk {s : State} {core : Nat} {p : Prod} (hok : s.MemOk) (x0 : List Nat) :
    (State.takeSlices s core p x0).1.MemOk := by
  induction x0 generalizing s core p
  case _ =>
    unfold State.takeSlices
    (try dsimp only)
    repeat' (first | with_reducible assumption)
  case _ ih =>
    unfold State.takeSlices
    (try dsimp only)
    repeat' (first | with_reducible assumption | with_reducible intro _ | with_reducible apply ih | with_reducible apply State.modCtx_memOk
                   | simp only [State.mk_memOk] | with_reducible apply State.memOk_mem | split)

theorem State.sliceStage_memOk {s : State} {core : Nat} {t : Int} (hok : s.MemOk) :
    (State.sliceStage s core t).MemOk := by
  unfold State.sliceStage
  (try dsimp only)
  repeat' (first | with_reducible assumption | with_reducible intro _ | with_reducible apply State.modCore_memOk
                 | with_reducible apply State.takeSlices_memOk | simp only [State.mk_memOk] | with_reducible apply State.memOk_mem
                 | with_reducible apply foldl_memOk | with_reducible apply foldl_fst_memOk)

theorem State.lineStage_memOk {s : State} {core : Nat} {t : Int} (hok : s.MemOk) :
    (State.lineStage s core t).MemOk := by
  unfold State.lineStage
  repeat' (first | with_reducible assumption | with_reducible intro _ | with_reducible apply State.modCore_memOk)

theorem State.commitProd_memOk {s : State} {core : Nat} {t : Int} {p : Prod} (hok : s.MemOk) :
    (State.commitProd s core t p).1.MemOk := by
  unfold State.commitProd
  (try dsimp only)
  repeat' (first | with_reducible assumption | with_reducible intro _ | with_reducible apply State.charge_memOk
                 | with_reducible apply State.acsWrite_memOk | simp only [State.mk_memOk] | with_reducible apply State.memOk_mem
                 | with_reducible apply foldl_memOk | with_reducible apply foldl_fst_memOk)

theorem State.surrenderProd_memOk {s : State} {core : Nat} {t : Int} {p : Prod} (hok : s.MemOk) :
    (State.surrenderProd s core t p).MemOk := by
  unfold State.surrenderProd
  repeat' (first | with_reducible assumption | with_reducible intro _ | with_reducible apply State.biasWrite_memOk
                 | simp only [State.mk_memOk] | with_reducible apply State.memOk_mem | with_reducible apply foldl_memOk
                 | with_reducible apply foldl_fst_memOk | split)

theorem State.commitStage_memOk {s : State} {core : Nat} {t : Int} (hok : s.MemOk) :
    (State.commitStage s core t).MemOk := by
  unfold State.commitStage
  (try dsimp only)
  repeat' (first | with_reducible assumption | with_reducible intro _ | with_reducible apply State.modCtx_memOk
                 | with_reducible apply State.modCore_memOk | with_reducible apply State.commitProd_memOk
                 | with_reducible apply State.surrenderProd_memOk | simp only [State.mk_memOk] | with_reducible apply State.memOk_mem
                 | with_reducible apply foldl_memOk | with_reducible apply foldl_fst_memOk | split)

theorem State.seedProd_memOk {s : State} {core : Nat} {t : Int} {earlier : List Prod} {p : Prod} (hok : s.MemOk) :
    (State.seedProd s core t earlier p).1.MemOk := by
  unfold State.seedProd
  (try dsimp only)
  repeat' (first | with_reducible assumption | with_reducible intro _ | with_reducible apply State.charge_memOk
                 | simp only [State.mk_memOk] | with_reducible apply State.memOk_mem | with_reducible apply foldl_memOk
                 | with_reducible apply foldl_fst_memOk | split)

theorem State.seedStage_memOk {s : State} {core : Nat} {t : Int} (hok : s.MemOk) :
    (State.seedStage s core t).MemOk := by
  unfold State.seedStage
  (try dsimp only)
  repeat' (first | with_reducible assumption | with_reducible intro _ | with_reducible apply State.modCore_memOk
                 | with_reducible apply State.seedProd_memOk | simp only [State.mk_memOk] | with_reducible apply State.memOk_mem
                 | with_reducible apply foldl_memOk | with_reducible apply foldl_fst_memOk)

theorem State.multiplyEnergy_memOk {s : State} {core : Nat} {t : Int} (hok : s.MemOk) :
    (State.multiplyEnergy s core t).MemOk := by
  unfold State.multiplyEnergy
  (try dsimp only)
  repeat' (first | with_reducible assumption | with_reducible intro _ | with_reducible apply State.charge_memOk
                 | simp only [State.mk_memOk] | with_reducible apply State.memOk_mem | with_reducible apply foldl_memOk
                 | with_reducible apply foldl_fst_memOk | split)

theorem State.retire_memOk {s : State} {core : Nat} {p : Prod} (hok : s.MemOk) :
    (State.retire s core p).MemOk := by
  unfold State.retire
  (try dsimp only)
  repeat' (first | with_reducible assumption | with_reducible intro _ | with_reducible apply State.modCore_memOk
                 | simp only [State.mk_memOk] | with_reducible apply State.memOk_mem | split)

theorem State.finishStage_memOk {s : State} {core : Nat} {t : Int} (hok : s.MemOk) :
    (State.finishStage s core t).MemOk := by
  unfold State.finishStage
  (try dsimp only)
  repeat' (first | with_reducible assumption | with_reducible intro _ | with_reducible apply State.modCtx_memOk
                 | with_reducible apply State.modCore_memOk | with_reducible apply State.retire_memOk | simp only [State.mk_memOk]
                 | with_reducible apply State.memOk_mem | with_reducible apply foldl_memOk | with_reducible apply foldl_fst_memOk | split)

theorem State.noteXfer_memOk {s : State} {x : Xfer} {ms : Moves} (hok : s.MemOk) :
    (State.noteXfer s x ms).MemOk := by
  unfold State.noteXfer
  (try dsimp only)
  repeat' (first | with_reducible assumption | with_reducible intro _ | with_reducible apply State.modCtx_memOk
                 | simp only [State.mk_memOk] | with_reducible apply State.memOk_mem | split)

theorem State.xferRow_memOk {s : State} {core : Nat} {x : Xfer} (hok : s.MemOk) :
    (State.xferRow s core x).1.MemOk := by
  unfold State.xferRow
  (try dsimp only)
  repeat' (first | with_reducible assumption | with_reducible intro _ | with_reducible apply State.setCtx_memOk
                 | with_reducible apply State.charge_memOk | with_reducible apply State.coreWrite_memOk
                 | with_reducible apply State.acsWrite_memOk | with_reducible apply State.noteXfer_memOk | simp only [State.mk_memOk]
                 | with_reducible apply State.memOk_mem | with_reducible apply foldl_memOk | with_reducible apply foldl_fst_memOk | split)

theorem State.xferStage_memOk {s : State} {core t : Nat} {write : Bool} (hok : s.MemOk) :
    (State.xferStage s core t write).MemOk := by
  unfold State.xferStage
  (try dsimp only)
  repeat' (first | with_reducible assumption | with_reducible intro _ | with_reducible apply State.modCtx_memOk
                 | with_reducible apply State.modCore_memOk | with_reducible apply State.xferRow_memOk | simp only [State.mk_memOk]
                 | with_reducible apply State.memOk_mem | with_reducible apply foldl_memOk | with_reducible apply foldl_fst_memOk | split)

theorem State.mrdvStage_memOk {s : State} {core t : Nat} (hok : s.MemOk) :
    (State.mrdvStage s core t).MemOk := by
  unfold State.mrdvStage
  (try dsimp only)
  repeat' (first | with_reducible assumption | with_reducible intro _ | with_reducible apply State.setCtx_memOk
                 | simp only [State.mk_memOk] | with_reducible apply State.memOk_mem | with_reducible apply foldl_memOk
                 | with_reducible apply foldl_fst_memOk | split)

theorem State.startProd_memOk {s : State} {p : Prod} (hok : s.MemOk) :
    (State.startProd s p).MemOk := by
  unfold State.startProd
  (try dsimp only)
  repeat' (first | with_reducible assumption | with_reducible intro _ | with_reducible apply State.modCtx_memOk
                 | with_reducible apply State.modCore_memOk | with_reducible apply State.fresh_memOk)

theorem State.product_memOk {s : State} {cons : Nat} {p : Prod} (hok : s.MemOk) :
    Out.MemOk (State.product s cons p) := by
  unfold State.product
  repeat' (first | with_reducible assumption | with_reducible intro _ | with_reducible apply Out.next_memOk
                 | with_reducible apply State.perform_memOk | with_reducible apply State.startProd_memOk)

theorem execMmul_memOk {o : MM} {s : State} (hok : s.MemOk) :
    Out.MemOk (execMmul o s) :=
  State.product_memOk hok

theorem execMacc_memOk {o : MM} {s : State} (hok : s.MemOk) :
    Out.MemOk (execMacc o s) :=
  State.product_memOk hok

theorem execMmuls_memOk {o : MM} {sel : Nat} {s : State} (hok : s.MemOk) :
    Out.MemOk (execMmuls o sel s) :=
  State.product_memOk hok

theorem execMaccs_memOk {o : MM} {sel : Nat} {s : State} (hok : s.MemOk) :
    Out.MemOk (execMaccs o sel s) :=
  State.product_memOk hok

theorem execMstrm_memOk {o : MS} {s : State} (hok : s.MemOk) :
    Out.MemOk (execMstrm o s) := by
  unfold execMstrm
  repeat' (first | with_reducible assumption | with_reducible apply Out.next_memOk | with_reducible apply State.product_memOk)

theorem State.acsZone_memOk {s : State} {tile : Nat} {z : Zone} {v : Nat → Nat → Word32} (hok : s.MemOk) :
    (State.acsZone s tile z v).MemOk := by
  unfold State.acsZone
  (try dsimp only)
  repeat' (first | with_reducible assumption | with_reducible intro _ | with_reducible apply State.modCore_memOk
                 | with_reducible apply State.charge_memOk | with_reducible apply State.acsWrite_memOk | simp only [State.mk_memOk]
                 | with_reducible apply State.memOk_mem | with_reducible apply foldl_memOk)

theorem execMzero_memOk {o : MZ} {s : State} (hok : s.MemOk) :
    Out.MemOk (execMzero o s) := by
  unfold execMzero
  repeat' (first | with_reducible assumption | with_reducible intro _ | with_reducible apply Out.next_memOk
                 | with_reducible apply State.perform_memOk | with_reducible apply State.acsZone_memOk)

theorem execMrdv_memOk {o : MV} {s : State} (hok : s.MemOk) :
    Out.MemOk (execMrdv o s) := by
  unfold execMrdv
  (try dsimp only)
  repeat' (first | with_reducible assumption | with_reducible intro _ | with_reducible apply Out.next_memOk
                 | with_reducible apply State.modCtx_memOk | with_reducible apply State.charge_memOk
                 | with_reducible apply State.perform_memOk)

theorem execMwrv_memOk {o : MV} {s : State} (hok : s.MemOk) :
    Out.MemOk (execMwrv o s) := by
  unfold execMwrv
  (try dsimp only)
  repeat' (first | with_reducible assumption | with_reducible intro _ | with_reducible apply Out.next_memOk
                 | with_reducible apply State.perform_memOk | with_reducible apply State.acsZone_memOk)

theorem State.startXfer_memOk {s : State} {x : Xfer} (hok : s.MemOk) :
    (State.startXfer s x).MemOk := by
  unfold State.startXfer
  (try dsimp only)
  repeat' (first | with_reducible assumption | with_reducible intro _ | with_reducible apply State.modCtx_memOk
                 | with_reducible apply State.modCore_memOk | with_reducible apply State.fresh_memOk)

theorem State.transfer_memOk {s : State} {write : Bool} {o : MX} (hok : s.MemOk) :
    Out.MemOk (State.transfer s write o) := by
  unfold State.transfer
  repeat' (first | with_reducible assumption | with_reducible intro _ | with_reducible apply Out.next_memOk
                 | with_reducible apply State.perform_memOk | with_reducible apply State.startXfer_memOk)

theorem execMrds_memOk {o : MX} {s : State} (hok : s.MemOk) :
    Out.MemOk (execMrds o s) :=
  State.transfer_memOk hok

theorem execMwrs_memOk {o : MX} {s : State} (hok : s.MemOk) :
    Out.MemOk (execMwrs o s) :=
  State.transfer_memOk hok

theorem execIdleM_memOk {s : State} (hok : s.MemOk) :
    Out.MemOk (execIdleM s) :=
  Out.next_memOk (State.modCtx_memOk hok)

/-! ## Control -/

theorem State.branchTo_memOk {s : State} {taken drain : Bool} {target : Nat} (hok : s.MemOk) :
    (State.branchTo s taken drain target).MemOk := by
  unfold State.branchTo
  (try dsimp only)
  repeat' (first | with_reducible assumption | with_reducible intro _ | with_reducible apply State.modCtx_memOk)

theorem brWhen_memOk {drain : Bool} {disp : Int} {t : Ctx → Bool} {s : State} (hok : s.MemOk) :
    Out.MemOk (brWhen drain disp t s) := by
  unfold brWhen
  repeat' (first | with_reducible assumption | with_reducible intro _ | with_reducible apply Out.next_memOk
                 | with_reducible apply State.perform_memOk | with_reducible apply State.branchTo_memOk)

theorem execBrEqz_memOk {o : NBr} {s : State} (hok : s.MemOk) :
    Out.MemOk (execBrEqz o s) :=
  brWhen_memOk hok

theorem execBrNez_memOk {o : NBr} {s : State} (hok : s.MemOk) :
    Out.MemOk (execBrNez o s) :=
  brWhen_memOk hok

theorem execBrLtz_memOk {o : NBr} {s : State} (hok : s.MemOk) :
    Out.MemOk (execBrLtz o s) :=
  brWhen_memOk hok

theorem execBrGez_memOk {o : NBr} {s : State} (hok : s.MemOk) :
    Out.MemOk (execBrGez o s) :=
  brWhen_memOk hok

theorem execBrGtz_memOk {o : NBr} {s : State} (hok : s.MemOk) :
    Out.MemOk (execBrGtz o s) :=
  brWhen_memOk hok

theorem execBrLez_memOk {o : NBr} {s : State} (hok : s.MemOk) :
    Out.MemOk (execBrLez o s) :=
  brWhen_memOk hok

theorem execBrc_memOk {o : NBc} {s : State} (hok : s.MemOk) :
    Out.MemOk (execBrc o s) :=
  brWhen_memOk hok

theorem brpWhen_memOk {o : NBr} {want : PReg} {s : State} (hok : s.MemOk) :
    Out.MemOk (brpWhen o want s) := by
  unfold brpWhen
  repeat' (first | with_reducible assumption | with_reducible intro _ | with_reducible apply Out.next_memOk
                 | with_reducible apply State.perform_memOk | with_reducible apply State.branchTo_memOk)

theorem execBrpAll_memOk {o : NBr} {s : State} (hok : s.MemOk) :
    Out.MemOk (execBrpAll o s) :=
  brpWhen_memOk hok

theorem execBrpNone_memOk {o : NBr} {s : State} (hok : s.MemOk) :
    Out.MemOk (execBrpNone o s) :=
  brpWhen_memOk hok

theorem execJmp_memOk {o : NBg} {s : State} (hok : s.MemOk) :
    Out.MemOk (execJmp o s) :=
  brWhen_memOk hok

theorem execCall_memOk {o : NBg} {s : State} (hok : s.MemOk) :
    Out.MemOk (execCall o s) := by
  unfold execCall
  (try dsimp only)
  repeat' (first | with_reducible assumption | with_reducible intro _ | with_reducible apply Out.next_memOk
                 | with_reducible apply State.pushS_memOk | with_reducible apply State.perform_memOk
                 | with_reducible apply State.branchTo_memOk | split)

theorem execLoopb_memOk {o : NBr} {s : State} (hok : s.MemOk) :
    Out.MemOk (execLoopb o s) := by
  unfold execLoopb
  (try dsimp only)
  repeat' (first | with_reducible assumption | with_reducible intro _ | with_reducible apply Out.next_memOk
                 | with_reducible apply State.pushS_memOk | with_reducible apply State.perform_memOk
                 | with_reducible apply State.branchTo_memOk | split)

theorem execJmpi_memOk {o : NJ} {s : State} (hok : s.MemOk) :
    Out.MemOk (execJmpi o s) := by
  unfold execJmpi
  repeat' (first | with_reducible assumption | with_reducible intro _ | with_reducible apply Out.next_memOk
                 | with_reducible apply State.perform_memOk | with_reducible apply State.branchTo_memOk)

theorem execCalli_memOk {o : NJ} {s : State} (hok : s.MemOk) :
    Out.MemOk (execCalli o s) := by
  unfold execCalli
  (try dsimp only)
  repeat' (first | with_reducible assumption | with_reducible intro _ | with_reducible apply Out.next_memOk
                 | with_reducible apply State.pushS_memOk | with_reducible apply State.perform_memOk
                 | with_reducible apply State.branchTo_memOk | split)

theorem execRet_memOk {o : NJ} {s : State} (hok : s.MemOk) :
    Out.MemOk (execRet o s) := by
  unfold execRet
  repeat' (first | with_reducible assumption | with_reducible intro _ | with_reducible apply Out.next_memOk
                 | with_reducible apply State.perform_memOk | with_reducible apply State.branchTo_memOk)

theorem State.codeEff_memOk {s : State} {hw bundle cause code : Nat} (hok : s.MemOk) :
    (State.codeEff s hw bundle cause code).MemOk :=
  State.takeTrap_memOk hok

theorem codeTrap_memOk {cause : Nat} {o : NCode} {s : State} (hok : s.MemOk) :
    Out.MemOk (codeTrap cause o s) := by
  unfold codeTrap
  repeat' (first | with_reducible assumption | with_reducible intro _ | with_reducible apply Out.next_memOk
                 | with_reducible apply State.perform_memOk | with_reducible apply State.codeEff_memOk)

theorem execSvc_memOk {o : NCode} {s : State} (hok : s.MemOk) :
    Out.MemOk (execSvc o s) :=
  codeTrap_memOk hok

theorem execBrk_memOk {o : NCode} {s : State} (hok : s.MemOk) :
    Out.MemOk (execBrk o s) :=
  codeTrap_memOk hok

end Sys2Proof.Machine
end

