-- ==== Sys2Proof/Laws/MemOkEngines.lean ====
section
/-!
SUPPORT. The operations of Seam, Commands, Copy, Tasks, FSlot, Neighbour, Queues, Links, Engines, Sct keep every memory canonical.
-/

namespace Sys2Proof.Machine

/-! ## Seam -/

theorem State.cutOne_memOk {s : State} {p : Prod} {c : Cut} {doneTok : Option Nat} {tok : Nat} (hok : s.MemOk) :
    (State.cutOne s p c doneTok tok).MemOk := by
  unfold State.cutOne
  (try dsimp only)
  repeat' (first | with_reducible assumption | with_reducible intro _ | with_reducible apply State.modCtx_memOk
                 | with_reducible apply State.modCore_memOk)

theorem State.cutProducts_memOk {s : State} {hw : Nat} {fault : Bool} {stream : Bool} {why : Nat} {base : Word} {tok grp : Nat} (hok : s.MemOk) :
    (State.cutProducts s hw fault stream why base tok grp).MemOk := by
  unfold State.cutProducts
  (try dsimp only)
  repeat' (first | with_reducible assumption | with_reducible intro _ | with_reducible apply State.cutOne_memOk
                 | with_reducible apply foldl_memOk)

theorem State.surrenderStage_memOk {s : State} {core : Nat} {t : Int} (hok : s.MemOk) :
    (State.surrenderStage s core t).MemOk := by
  unfold State.surrenderStage
  (try dsimp only)
  repeat' (first | with_reducible assumption | with_reducible intro _ | with_reducible apply State.modCore_memOk
                 | with_reducible apply State.retire_memOk | simp only [State.mk_memOk] | with_reducible apply State.memOk_mem
                 | with_reducible apply foldl_memOk | with_reducible apply foldl_fst_memOk | split)

theorem State.imageDead_memOk {s : State} {hw : Nat} (hok : s.MemOk) :
    (State.imageDead s hw).MemOk := by
  unfold State.imageDead
  (try dsimp only)
  repeat' (first | with_reducible assumption | with_reducible intro _ | with_reducible apply State.modCore_memOk
                 | with_reducible apply State.launchErr_memOk | with_reducible apply State.endContext_memOk)

theorem State.saveFail_memOk {s : State} {hw code va engine level : Nat} (hok : s.MemOk) :
    (State.saveFail s hw code va engine level).MemOk := by
  unfold State.saveFail
  (try dsimp only)
  repeat' (first | with_reducible assumption | with_reducible intro _ | with_reducible apply State.modCtx_memOk
                 | with_reducible apply State.modCore_memOk | with_reducible apply State.raise_memOk)

theorem State.modJob_memOk {s : State} {j : ImgJob} {f : ImgJob → ImgJob} (hok : s.MemOk) :
    (State.modJob s j f).MemOk := by
  unfold State.modJob
  repeat' (first | with_reducible assumption | with_reducible intro _ | with_reducible apply State.modCore_memOk)

theorem State.imageDone_memOk {s : State} {j : ImgJob} (hok : s.MemOk) :
    (State.imageDone s j).MemOk := by
  unfold State.imageDone
  (try dsimp only)
  repeat' (first | with_reducible assumption | with_reducible intro _ | with_reducible apply State.modCtx_memOk
                 | with_reducible apply State.modCore_memOk | simp only [State.mk_memOk] | with_reducible apply State.memOk_mem | split)

theorem State.imageLine_memOk {s : State} {hw : Nat} (hok : s.MemOk) :
    (State.imageLine s hw).MemOk := by
  unfold State.imageLine
  (try dsimp only)
  repeat' (first | with_reducible assumption | with_reducible intro _ | with_reducible apply State.chargeFailed_memOk
                 | with_reducible apply State.rememberAll_memOk | with_reducible apply State.raise_memOk
                 | with_reducible apply State.chargePieces_memOk | with_reducible apply State.writeMute_memOk
                 | with_reducible apply State.sentHost_memOk | with_reducible apply State.imageDead_memOk
                 | with_reducible apply State.saveFail_memOk | with_reducible apply State.modJob_memOk
                 | with_reducible apply State.imageDone_memOk | simp only [State.mk_memOk] | with_reducible apply State.memOk_mem | split)

theorem State.imageLines_memOk {s : State} {hw : Nat} (hok : s.MemOk) (x0 : Nat) :
    (State.imageLines s hw x0).MemOk := by
  induction x0 generalizing s hw
  case _ =>
    unfold State.imageLines
    repeat' (first | with_reducible assumption)
  case _ ih =>
    unfold State.imageLines
    repeat' (first | with_reducible assumption | with_reducible apply ih | with_reducible apply State.imageLine_memOk)

theorem State.emptyJobs_memOk {s : State} {hw why : Nat} {base : Word} {tok grp : Nat} (hok : s.MemOk) :
    (State.emptyJobs s hw why base tok grp).MemOk := by
  unfold State.emptyJobs
  (try dsimp only)
  repeat' (first | with_reducible assumption | with_reducible intro _ | with_reducible apply State.modCore_memOk
                 | simp only [State.mk_memOk] | with_reducible apply State.memOk_mem | with_reducible apply foldl_memOk
                 | with_reducible apply foldl_fst_memOk | split)

theorem State.mseamEff_memOk {s : State} {a : Word} {tok : Nat} (hok : s.MemOk) :
    (State.mseamEff s a tok).MemOk := by
  unfold State.mseamEff
  (try dsimp only)
  repeat' (first | with_reducible assumption | with_reducible intro _ | with_reducible apply State.modCtx_memOk
                 | with_reducible apply State.fresh_memOk | with_reducible apply State.cutProducts_memOk
                 | with_reducible apply State.emptyJobs_memOk)

theorem execMseam_memOk {o : MI} {s : State} (hok : s.MemOk) :
    Out.MemOk (execMseam o s) := by
  unfold execMseam
  repeat' (first | with_reducible assumption | with_reducible intro _ | with_reducible apply Out.next_memOk
                 | with_reducible apply State.perform_memOk | with_reducible apply State.mseamEff_memOk)

theorem State.setResume_memOk {s : State} {r : Resume} (hok : s.MemOk) :
    (State.setResume s r).MemOk := by
  unfold State.setResume
  repeat' (first | with_reducible assumption | with_reducible intro _ | with_reducible apply State.modCore_memOk)

theorem State.dropResume_memOk {s : State} {hw : Nat} (hok : s.MemOk) :
    (State.dropResume s hw).MemOk := by
  unfold State.dropResume
  repeat' (first | with_reducible assumption | with_reducible intro _ | with_reducible apply State.modCore_memOk)

theorem State.slotLine_memOk {s : State} {hw : Nat} (hok : s.MemOk) :
    (State.slotLine s hw).MemOk := by
  unfold State.slotLine
  (try dsimp only)
  repeat' (first | with_reducible assumption | with_reducible intro _ | with_reducible apply State.chargeFailed_memOk
                 | with_reducible apply State.rememberAll_memOk | with_reducible apply State.raise_memOk
                 | with_reducible apply State.chargePieces_memOk | with_reducible apply State.setResume_memOk | simp only [State.mk_memOk]
                 | with_reducible apply State.memOk_mem | split)

theorem State.slotLines_memOk {s : State} {hw : Nat} (hok : s.MemOk) (x0 : Nat) :
    (State.slotLines s hw x0).MemOk := by
  induction x0 generalizing s hw
  case _ =>
    unfold State.slotLines
    repeat' (first | with_reducible assumption)
  case _ ih =>
    unfold State.slotLines
    repeat' (first | with_reducible assumption | with_reducible apply ih | with_reducible apply State.slotLine_memOk)

theorem State.earlyDone_memOk {s : State} {core : Nat} {old new : List Resume} (hok : s.MemOk) :
    (State.earlyDone s core old new).MemOk := by
  unfold State.earlyDone
  repeat' (first | with_reducible assumption | with_reducible intro _ | with_reducible apply State.modCore_memOk)

theorem State.resumeAsk_memOk {s : State} {a : Word} (hok : s.MemOk) :
    (State.resumeAsk s a).MemOk := by
  unfold State.resumeAsk
  repeat' (first | with_reducible assumption | with_reducible apply State.setResume_memOk | simp only [State.mk_memOk]
                 | with_reducible apply State.memOk_mem | split)

theorem State.resumeEff_memOk {s : State} {tok : Nat} (hok : s.MemOk) :
    (State.resumeEff s tok).MemOk := by
  unfold State.resumeEff
  (try dsimp only)
  repeat' (first | with_reducible assumption | with_reducible intro _ | with_reducible apply State.modCtx_memOk
                 | with_reducible apply State.modCore_memOk | with_reducible apply State.fresh_memOk
                 | with_reducible apply State.dropResume_memOk | simp only [State.mk_memOk] | with_reducible apply State.memOk_mem | split)

theorem State.resumeAskIf_memOk {s : State} {o : MI} (hok : s.MemOk) :
    (State.resumeAskIf s o).MemOk := by
  unfold State.resumeAskIf
  (try dsimp only)
  repeat' (first | with_reducible assumption | with_reducible apply State.resumeAsk_memOk | split)

theorem execMresume_memOk {o : MI} {s : State} (hok : s.MemOk) :
    Out.MemOk (execMresume o s) := by
  unfold execMresume
  (try dsimp only)
  repeat' (first | with_reducible assumption | with_reducible intro _ | with_reducible apply Out.next_memOk
                 | with_reducible apply State.perform_memOk | with_reducible apply State.resumeEff_memOk
                 | with_reducible apply State.resumeAskIf_memOk)

theorem State.majorCut_memOk {s : State} {hw : Nat} {stream : Bool} (hok : s.MemOk) :
    (State.majorCut s hw stream).MemOk := by
  unfold State.majorCut
  (try dsimp only)
  repeat' (first | with_reducible assumption | with_reducible intro _ | with_reducible apply State.modCtx_memOk
                 | with_reducible apply State.fresh_memOk | with_reducible apply State.cutProducts_memOk | simp only [State.mk_memOk]
                 | with_reducible apply State.memOk_mem | with_reducible apply foldl_memOk | with_reducible apply foldl_fst_memOk | split)

theorem State.trapWith_memOk {s : State} {hw : Nat} {t : TrapInfo} {tb : Nat} (hok : s.MemOk) :
    (State.trapWith s hw t tb).MemOk := by
  unfold State.trapWith
  (try dsimp only)
  repeat' (first | with_reducible assumption | with_reducible apply State.takeTrap_memOk | with_reducible apply State.majorCut_memOk
                 | split)

theorem State.restoreProds_memOk {s : State} {hw : Nat} {t : Int} {l : List Prod} (hok : s.MemOk) :
    (State.restoreProds s hw t l).MemOk := by
  unfold State.restoreProds
  (try dsimp only)
  repeat' (first | with_reducible assumption | with_reducible intro _ | with_reducible apply State.modCtx_memOk
                 | with_reducible apply State.modCore_memOk | with_reducible apply State.fresh_memOk | simp only [State.mk_memOk]
                 | with_reducible apply State.memOk_mem | with_reducible apply foldl_memOk)

theorem State.chargeSlots_memOk {s : State} {hw : Nat} {base : Word} {l : List Nat} (hok : s.MemOk) :
    (State.chargeSlots s hw base l).MemOk := by
  unfold State.chargeSlots
  (try dsimp only)
  repeat' (first | with_reducible assumption | with_reducible intro _ | with_reducible apply State.rememberAll_memOk
                 | with_reducible apply State.chargePieces_memOk | simp only [State.mk_memOk] | with_reducible apply State.memOk_mem
                 | with_reducible apply foldl_memOk | with_reducible apply foldl_fst_memOk | split)

theorem State.releaseEngines_memOk {s : State} {hw : Nat} (hok : s.MemOk) :
    (State.releaseEngines s hw).MemOk := by
  unfold State.releaseEngines
  (try dsimp only)
  repeat' (first | with_reducible assumption | with_reducible intro _ | with_reducible apply State.setCtx_memOk
                 | with_reducible apply State.modCore_memOk | with_reducible apply State.modCl_memOk | simp only [State.mk_memOk]
                 | with_reducible apply State.memOk_mem | split)

theorem State.restoreWalk_memOk {s : State} {hw slot : Nat} {e : TrFault} (hok : s.MemOk) :
    (State.restoreWalk s hw slot e).MemOk := by
  unfold State.restoreWalk
  repeat' (first | with_reducible assumption | with_reducible apply State.trapWith_memOk | simp only [State.mk_memOk]
                 | with_reducible apply State.memOk_mem | split)

theorem State.eretEff_memOk {s : State} {hw : Nat} (hok : s.MemOk) :
    (State.eretEff s hw).MemOk := by
  unfold State.eretEff
  (try dsimp only)
  repeat' (first | with_reducible assumption | with_reducible intro _ | with_reducible apply State.modCtx_memOk
                 | with_reducible apply State.modCore_memOk | with_reducible apply State.takeTrap_memOk
                 | with_reducible apply State.restoreProds_memOk | with_reducible apply State.chargeSlots_memOk
                 | with_reducible apply State.releaseEngines_memOk | with_reducible apply State.restoreWalk_memOk
                 | simp only [State.mk_memOk] | with_reducible apply State.memOk_mem | split)

theorem execEret_memOk {s : State} (hok : s.MemOk) :
    Out.MemOk (execEret s) := by
  unfold execEret
  repeat' (first | with_reducible assumption | with_reducible intro _ | with_reducible apply Out.next_memOk
                 | with_reducible apply State.perform_memOk | with_reducible apply State.eretEff_memOk)

/-! ## Commands -/

theorem State.putC_memOk {s : State} {op : CmdOp} {prod cons : Nat} (hok : s.MemOk) :
    (State.putC s op prod cons).MemOk := by
  unfold State.putC
  (try dsimp only)
  repeat' (first | with_reducible assumption | with_reducible intro _ | with_reducible apply State.modCtx_memOk
                 | with_reducible apply State.fresh_memOk)

theorem State.putQ_memOk {s : State} {op : CmdOp} {prod : Nat} {kind : Option Bool} (hok : s.MemOk) :
    (State.putQ s op prod kind).MemOk := by
  unfold State.putQ
  (try dsimp only)
  repeat' (first | with_reducible assumption | with_reducible intro _ | with_reducible apply State.modCtx_memOk
                 | with_reducible apply State.fresh_memOk | with_reducible apply State.charge_memOk)

theorem State.cCommand_memOk {s : State} {mode chk : Option Chk} {op : CmdOp} {prod cons : Nat} (hok : s.MemOk) :
    Out.MemOk (State.cCommand s mode chk op prod cons) := by
  unfold State.cCommand
  repeat' (first | with_reducible assumption | with_reducible intro _ | with_reducible apply Out.next_memOk
                 | with_reducible apply State.perform_memOk | with_reducible apply State.putC_memOk)

theorem State.qCommand_memOk {s : State} {g : Nat} {chk : Option Chk} {op : CmdOp} {prod : Nat} {kind : Option Bool} (hok : s.MemOk) :
    Out.MemOk (State.qCommand s g chk op prod kind) := by
  unfold State.qCommand
  repeat' (first | with_reducible assumption | with_reducible intro _ | with_reducible apply Out.next_memOk
                 | with_reducible apply State.perform_memOk | with_reducible apply State.putQ_memOk)

theorem execCplvl_memOk {o : CL} {s : State} (hok : s.MemOk) :
    Out.MemOk (execCplvl o s) :=
  State.cCommand_memOk hok

theorem execCpbase_memOk {o : CB} {s : State} (hok : s.MemOk) :
    Out.MemOk (execCpbase o s) :=
  State.cCommand_memOk hok

theorem execCpgo_memOk {o : CS} {s : State} (hok : s.MemOk) :
    Out.MemOk (execCpgo o s) :=
  State.cCommand_memOk hok

theorem execCpstrm_memOk {o : CS} {s : State} (hok : s.MemOk) :
    Out.MemOk (execCpstrm o s) :=
  State.cCommand_memOk hok

theorem execCpstrmOff_memOk {o : CS} {s : State} (hok : s.MemOk) :
    Out.MemOk (execCpstrmOff o s) :=
  State.cCommand_memOk hok

theorem execCpcan_memOk {o : CS} {s : State} (hok : s.MemOk) :
    Out.MemOk (execCpcan o s) :=
  State.cCommand_memOk hok

theorem execCpstat_memOk {o : CT} {s : State} (hok : s.MemOk) :
    Out.MemOk (execCpstat o s) :=
  State.cCommand_memOk hok

theorem execLksend_memOk {o : CK} {s : State} (hok : s.MemOk) :
    Out.MemOk (execLksend o s) :=
  State.cCommand_memOk hok

theorem execLkrecv_memOk {o : CK} {s : State} (hok : s.MemOk) :
    Out.MemOk (execLkrecv o s) :=
  State.cCommand_memOk hok

theorem execLkred_memOk {o : CR} {s : State} (hok : s.MemOk) :
    Out.MemOk (execLkred o s) := by
  unfold execLkred
  (try dsimp only)
  repeat' (first | with_reducible assumption | with_reducible apply Out.next_memOk | with_reducible apply State.cCommand_memOk)

theorem execLktime_memOk {o : CLt} {s : State} (hok : s.MemOk) :
    Out.MemOk (execLktime o s) :=
  State.cCommand_memOk hok

theorem execTlbinv_memOk {o : CI} {s : State} (hok : s.MemOk) :
    Out.MemOk (execTlbinv o s) :=
  State.cCommand_memOk hok

theorem execIdleC_memOk {s : State} (hok : s.MemOk) :
    Out.MemOk (execIdleC s) :=
  Out.next_memOk (State.modCtx_memOk hok)

theorem execGpush_memOk {o : QG} {s : State} (hok : s.MemOk) :
    Out.MemOk (execGpush o s) :=
  State.qCommand_memOk hok

theorem execSacc_memOk {o : QA} {s : State} (hok : s.MemOk) :
    Out.MemOk (execSacc o s) :=
  State.qCommand_memOk hok

theorem execSfop_memOk {o : QF} {s : State} (hok : s.MemOk) :
    Out.MemOk (execSfop o s) := by
  unfold execSfop
  (try dsimp only)
  repeat' (first | with_reducible assumption | with_reducible apply Out.next_memOk | with_reducible apply State.qCommand_memOk)

theorem execNlbin_memOk {o : Q1} {s : State} (hok : s.MemOk) :
    Out.MemOk (execNlbin o s) :=
  State.qCommand_memOk hok

theorem execNlpos_memOk {o : Q1} {s : State} (hok : s.MemOk) :
    Out.MemOk (execNlpos o s) :=
  State.qCommand_memOk hok

theorem execNlreq_memOk {o : Q2} {s : State} (hok : s.MemOk) :
    Out.MemOk (execNlreq o s) :=
  State.qCommand_memOk hok

theorem execNlstat_memOk {o : Q1} {s : State} (hok : s.MemOk) :
    Out.MemOk (execNlstat o s) :=
  State.qCommand_memOk hok

theorem execGpop_memOk {o : G1} {s : State} (hok : s.MemOk) :
    Out.MemOk (execGpop o s) := by
  unfold execGpop
  repeat' (first | with_reducible assumption | with_reducible intro _ | with_reducible apply Out.next_memOk
                 | with_reducible apply State.modCtx_memOk | with_reducible apply State.pushV_memOk
                 | with_reducible apply State.perform_memOk | simp only [State.mk_memOk] | with_reducible apply State.memOk_mem | split)

theorem execNlpop_memOk {o : G2} {s : State} (hok : s.MemOk) :
    Out.MemOk (execNlpop o s) := by
  unfold execNlpop
  repeat' (first | with_reducible assumption | with_reducible intro _ | with_reducible apply Out.next_memOk
                 | with_reducible apply State.modCtx_memOk | with_reducible apply State.pushS_memOk
                 | with_reducible apply State.pushV_memOk | with_reducible apply State.perform_memOk | simp only [State.mk_memOk]
                 | with_reducible apply State.memOk_mem | split)

theorem execIdleQ_memOk {s : State} (hok : s.MemOk) :
    Out.MemOk (execIdleQ s) :=
  Out.next_memOk (State.modCtx_memOk hok)

/-! ## Copy -/

theorem State.setSlot_memOk {s : State} {cl n : Nat} {q : SeqSlot} (hok : s.MemOk) :
    (State.setSlot s cl n q).MemOk := by
  unfold State.setSlot
  repeat' (first | with_reducible assumption | with_reducible intro _ | with_reducible apply State.modCl_memOk)

theorem State.modSlot_memOk {s : State} {cl n : Nat} {f : SeqSlot → SeqSlot} (hok : s.MemOk) :
    (State.modSlot s cl n f).MemOk :=
  State.setSlot_memOk hok

theorem State.cmdDone_memOk {s : State} {hw id : Nat} (hok : s.MemOk) :
    (State.cmdDone s hw id).MemOk := by
  unfold State.cmdDone
  (try dsimp only)
  repeat' (first | with_reducible assumption | with_reducible intro _ | with_reducible apply State.modCtx_memOk
                 | simp only [State.mk_memOk] | with_reducible apply State.memOk_mem | split)

theorem State.modCmd_memOk {s : State} {hw id : Nat} {f : Cmd → Cmd} (hok : s.MemOk) :
    (State.modCmd s hw id f).MemOk := by
  unfold State.modCmd
  (try dsimp only)
  repeat' (first | with_reducible assumption | with_reducible intro _ | with_reducible apply State.modCtx_memOk)

theorem State.unbindSlot_memOk {s : State} {cl n : Nat} (hok : s.MemOk) :
    (State.unbindSlot s cl n).MemOk := by
  unfold State.unbindSlot
  (try dsimp only)
  repeat' (first | with_reducible assumption | with_reducible intro _ | with_reducible apply State.modCtx_memOk
                 | with_reducible apply State.setSlot_memOk | with_reducible apply State.cmdDone_memOk | simp only [State.mk_memOk]
                 | with_reducible apply State.memOk_mem | with_reducible apply foldl_memOk)

theorem State.startWaiting_memOk {s : State} {cl n : Nat} (hok : s.MemOk) :
    (State.startWaiting s cl n).MemOk := by
  unfold State.startWaiting
  (try dsimp only)
  repeat' (first | with_reducible assumption | with_reducible apply State.setSlot_memOk | simp only [State.mk_memOk]
                 | with_reducible apply State.memOk_mem | split)

theorem State.settleSlot_memOk {s : State} {cl n : Nat} (hok : s.MemOk) (x0 : Nat) :
    (State.settleSlot s cl n x0).MemOk := by
  induction x0 generalizing s cl n
  case _ =>
    unfold State.settleSlot
    repeat' (first | with_reducible assumption)
  case _ ih =>
    unfold State.settleSlot
    (try dsimp only)
    repeat' (first | with_reducible assumption | with_reducible intro _ | with_reducible apply ih | with_reducible apply State.modSlot_memOk
                   | with_reducible apply State.cmdDone_memOk | with_reducible apply State.unbindSlot_memOk
                   | with_reducible apply State.startWaiting_memOk | simp only [State.mk_memOk] | with_reducible apply State.memOk_mem
                   | with_reducible apply foldl_memOk | with_reducible apply foldl_fst_memOk | split)

theorem State.raiseSlot_memOk {s : State} {q : SeqSlot} {f : SFault} (hok : s.MemOk) :
    (State.raiseSlot s q f).MemOk :=
  State.raise_memOk hok

theorem State.slotFault_memOk {s : State} {cl n : Nat} {f : SFault} (hok : s.MemOk) :
    (State.slotFault s cl n f).MemOk := by
  unfold State.slotFault
  (try dsimp only)
  repeat' (first | with_reducible assumption | with_reducible intro _ | with_reducible apply State.setSlot_memOk
                 | with_reducible apply State.modSlot_memOk | with_reducible apply State.raiseSlot_memOk | simp only [State.mk_memOk]
                 | with_reducible apply State.memOk_mem | split)

theorem State.emitWalked_memOk {s : State} {cl n : Nat} (hok : s.MemOk) :
    (State.emitWalked s cl n).MemOk := by
  unfold State.emitWalked
  (try dsimp only)
  repeat' (first | with_reducible assumption | with_reducible apply State.fresh_memOk | with_reducible apply State.chargeFailed_memOk
                 | with_reducible apply State.rememberAll_memOk | with_reducible apply State.setSlot_memOk
                 | with_reducible apply State.settleSlot_memOk | with_reducible apply State.slotFault_memOk | simp only [State.mk_memOk]
                 | with_reducible apply State.memOk_mem | split)

theorem State.emitCopy_memOk {s : State} {cl n : Nat} (hok : s.MemOk) :
    (State.emitCopy s cl n).MemOk := by
  unfold State.emitCopy
  (try dsimp only)
  repeat' (first | with_reducible assumption | with_reducible apply State.setSlot_memOk | with_reducible apply State.emitWalked_memOk
                 | simp only [State.mk_memOk] | with_reducible apply State.memOk_mem | split)

theorem State.modCopy_memOk {s : State} {cl n id : Nat} {f : Copy → Copy} (hok : s.MemOk) :
    (State.modCopy s cl n id f).MemOk := by
  unfold State.modCopy
  repeat' (first | with_reducible assumption | with_reducible intro _ | with_reducible apply State.modSlot_memOk)

theorem State.copyReadWord_memOk {s : State} {cl n id k : Nat} (hok : s.MemOk) :
    (State.copyReadWord s cl n id k).MemOk := by
  unfold State.copyReadWord
  (try dsimp only)
  repeat' (first | with_reducible assumption | with_reducible intro _ | with_reducible apply State.modCopy_memOk
                 | simp only [State.mk_memOk] | with_reducible apply State.memOk_mem | with_reducible apply foldl_memOk
                 | with_reducible apply foldl_fst_memOk | split)

theorem State.copyDone_memOk {s : State} {cl n : Nat} {c : Copy} (hok : s.MemOk) :
    (State.copyDone s cl n c).MemOk := by
  unfold State.copyDone
  (try dsimp only)
  repeat' (first | with_reducible assumption | with_reducible intro _ | with_reducible apply State.charge_memOk
                 | with_reducible apply State.chargePieces_memOk | with_reducible apply State.fireAll_memOk
                 | with_reducible apply State.setSlot_memOk | with_reducible apply State.settleSlot_memOk)

theorem State.copyFeed_memOk {s : State} {cl n : Nat} {c : Copy} (hok : s.MemOk) :
    (State.copyFeed s cl n c).MemOk := by
  unfold State.copyFeed
  (try dsimp only)
  repeat' (first | with_reducible assumption | with_reducible intro _ | with_reducible apply State.modCtx_memOk
                 | with_reducible apply State.modCopy_memOk | with_reducible apply State.copyDone_memOk | simp only [State.mk_memOk]
                 | with_reducible apply State.memOk_mem | split)

theorem State.copyWriteWord_memOk {s : State} {cl n id k : Nat} (hok : s.MemOk) :
    (State.copyWriteWord s cl n id k).MemOk := by
  unfold State.copyWriteWord
  (try dsimp only)
  repeat' (first | with_reducible assumption | with_reducible intro _ | with_reducible apply State.writeQuiet_memOk
                 | with_reducible apply State.sentHost_memOk | with_reducible apply State.modCopy_memOk
                 | with_reducible apply State.copyDone_memOk | with_reducible apply State.copyFeed_memOk | simp only [State.mk_memOk]
                 | with_reducible apply State.memOk_mem | split)

theorem State.copyReads_memOk {s : State} {cl n id : Nat} (hok : s.MemOk) (x0 x1 : Nat) :
    (State.copyReads s cl n id x0 x1).MemOk := by
  induction x1 generalizing s x0 with
  | zero => exact hok
  | succ k ih => exact ih (State.copyReadWord_memOk hok) _

theorem State.copyWrites_memOk {s : State} {cl n id : Nat} (hok : s.MemOk) (x0 x1 : Nat) :
    (State.copyWrites s cl n id x0 x1).MemOk := by
  induction x1 generalizing s x0 with
  | zero => exact hok
  | succ k ih => exact ih (State.copyWriteWord_memOk hok) _

theorem State.cancel_memOk {s : State} {hw cl n id : Nat} (hok : s.MemOk) :
    (State.cancel s hw cl n id).MemOk := by
  unfold State.cancel
  (try dsimp only)
  repeat' (first | with_reducible assumption | with_reducible intro _ | with_reducible apply State.modSlot_memOk
                 | with_reducible apply State.cmdDone_memOk | with_reducible apply State.settleSlot_memOk | simp only [State.mk_memOk]
                 | with_reducible apply State.memOk_mem | split)

theorem State.cpstat_memOk {s : State} {hw cl n a : Nat} {c : Cmd} (hok : s.MemOk) :
    (State.cpstat s hw cl n a c).MemOk := by
  unfold State.cpstat
  repeat' (first | with_reducible assumption | with_reducible intro _ | with_reducible apply State.raise_memOk
                 | with_reducible apply State.chargePieces_memOk | with_reducible apply State.writeMute_memOk
                 | with_reducible apply State.cmdDone_memOk | with_reducible apply State.modCmd_memOk | simp only [State.mk_memOk]
                 | with_reducible apply State.memOk_mem | split)

theorem State.bindStream_memOk {s : State} {hw cl n : Nat} (hok : s.MemOk) :
    (State.bindStream s hw cl n).MemOk := by
  unfold State.bindStream
  (try dsimp only)
  repeat' (first | with_reducible assumption | with_reducible intro _ | with_reducible apply State.modCtx_memOk
                 | with_reducible apply State.modSlot_memOk | with_reducible apply State.unbindSlot_memOk | simp only [State.mk_memOk]
                 | with_reducible apply State.memOk_mem | split)

theorem State.tlbDrop_memOk {s : State} {hw : Nat} {c : Cmd} {mode : TlbMode} {wide : Bool} {asid start len : Nat} (hok : s.MemOk) :
    (State.tlbDrop s hw c mode wide asid start len).MemOk := by
  unfold State.tlbDrop
  (try dsimp only)
  repeat' (first | with_reducible assumption | with_reducible intro _ | with_reducible apply State.modCl_memOk
                 | with_reducible apply State.modCmd_memOk | simp only [State.mk_memOk] | with_reducible apply State.memOk_mem
                 | with_reducible apply foldl_memOk)

/-! ## Tasks -/

theorem execSpawn_memOk {o : Q2} {s : State} (hok : s.MemOk) :
    Out.MemOk (execSpawn o s) :=
  State.qCommand_memOk hok

theorem execTake_memOk {o : Q2} {s : State} (hok : s.MemOk) :
    Out.MemOk (execTake o s) := by
  unfold execTake
  (try dsimp only)
  repeat' (first | with_reducible assumption | with_reducible apply Out.next_memOk | with_reducible apply State.qCommand_memOk)

theorem execWatch_memOk {o : Q2} {s : State} (hok : s.MemOk) :
    Out.MemOk (execWatch o s) := by
  unfold execWatch
  (try dsimp only)
  repeat' (first | with_reducible assumption | with_reducible apply Out.next_memOk | with_reducible apply State.qCommand_memOk)

theorem execUnwatch_memOk {o : Q1} {s : State} (hok : s.MemOk) :
    Out.MemOk (execUnwatch o s) :=
  State.qCommand_memOk hok

theorem State.addWait_memOk {s : State} {cl qn : Nat} {w : PushWait} (hok : s.MemOk) :
    (State.addWait s cl qn w).MemOk := by
  unfold State.addWait
  (try dsimp only)
  repeat' (first | with_reducible assumption | with_reducible intro _ | with_reducible apply State.modCl_memOk | simp only [State.mk_memOk]
                 | with_reducible apply State.memOk_mem | split)

theorem State.dropWait_memOk {s : State} {cl qn id : Nat} (hok : s.MemOk) :
    (State.dropWait s cl qn id).MemOk := by
  unfold State.dropWait
  (try dsimp only)
  repeat' (first | with_reducible assumption | with_reducible intro _ | with_reducible apply State.modCl_memOk | simp only [State.mk_memOk]
                 | with_reducible apply State.memOk_mem | split)

theorem State.dropCmd_memOk {s : State} {hw id : Nat} (hok : s.MemOk) :
    (State.dropCmd s hw id).MemOk := by
  unfold State.dropCmd
  (try dsimp only)
  repeat' (first | with_reducible assumption | with_reducible intro _ | with_reducible apply State.modCtx_memOk
                 | with_reducible apply State.modCl_memOk | with_reducible apply State.dropPushes_memOk)

theorem State.spillFault_memOk {s : State} {hw id va code level : Nat} (hok : s.MemOk) :
    (State.spillFault s hw id va code level).MemOk := by
  unfold State.spillFault
  repeat' (first | with_reducible assumption | with_reducible intro _ | with_reducible apply State.raise_memOk
                 | with_reducible apply State.modCmd_memOk | with_reducible apply State.dropCmd_memOk | simp only [State.mk_memOk]
                 | with_reducible apply State.memOk_mem | split)

theorem State.retryPush_memOk {s : State} {hw qn : Nat} {w : PushWait} (hok : s.MemOk) :
    (State.retryPush s hw qn w).MemOk := by
  unfold State.retryPush
  (try dsimp only)
  repeat' (first | with_reducible assumption | with_reducible apply State.pushInTurn_memOk | with_reducible apply State.chargeRing_memOk
                 | with_reducible apply State.cmdDone_memOk | with_reducible apply State.dropWait_memOk
                 | with_reducible apply State.spillFault_memOk | simp only [State.mk_memOk] | with_reducible apply State.memOk_mem | split
                 | refine State.pushInTurn_memOk ?_ _ (by assumption))

theorem State.doSpawn_memOk {s : State} {hw : Nat} {c : Cmd} {d qn : Nat} (hok : s.MemOk) :
    (State.doSpawn s hw c d qn).MemOk := by
  unfold State.doSpawn
  (try dsimp only)
  repeat' (first | with_reducible assumption | with_reducible intro _ | with_reducible apply State.fresh_memOk
                 | with_reducible apply State.counterAdd_memOk | with_reducible apply State.modCmd_memOk
                 | with_reducible apply State.addWait_memOk | with_reducible apply State.retryPush_memOk | simp only [State.mk_memOk]
                 | with_reducible apply State.memOk_mem | split)

theorem State.doTake_memOk {s : State} {hw : Nat} {c : Cmd} {qn a : Nat} (hok : s.MemOk) :
    (State.doTake s hw c qn a).MemOk := by
  unfold State.doTake
  (try dsimp only)
  repeat' (first | with_reducible assumption | with_reducible apply State.takeRec_memOk | with_reducible apply State.chargePieces_memOk
                 | with_reducible apply State.chargeRing_memOk | with_reducible apply State.writeMute_memOk
                 | with_reducible apply State.cmdDone_memOk | with_reducible apply State.spillFault_memOk | simp only [State.mk_memOk]
                 | with_reducible apply State.memOk_mem | split | refine State.takeRec_memOk ?_ _ (by assumption))

theorem State.freeHeld_memOk {s : State} {cl e : Nat} {w : Watch} (hok : s.MemOk) :
    (State.freeHeld s cl e w).MemOk := by
  unfold State.freeHeld
  repeat' (first | with_reducible assumption | with_reducible apply State.addWait_memOk | simp only [State.mk_memOk]
                 | with_reducible apply State.memOk_mem | split)

theorem State.doWatch_memOk {s : State} {hw : Nat} {c : Cmd} {base w t : Nat} (hok : s.MemOk) :
    (State.doWatch s hw c base w t).MemOk := by
  unfold State.doWatch
  (try dsimp only)
  repeat' (first | with_reducible assumption | with_reducible intro _ | with_reducible apply State.modCl_memOk
                 | with_reducible apply State.cmdDone_memOk | with_reducible apply State.freeHeld_memOk)

theorem State.doUnwatch_memOk {s : State} {hw : Nat} {c : Cmd} {e : Nat} (hok : s.MemOk) :
    (State.doUnwatch s hw c e).MemOk := by
  unfold State.doUnwatch
  (try dsimp only)
  repeat' (first | with_reducible assumption | with_reducible intro _ | with_reducible apply State.modCl_memOk
                 | with_reducible apply State.cmdDone_memOk | with_reducible apply State.freeHeld_memOk | simp only [State.mk_memOk]
                 | with_reducible apply State.memOk_mem | split)

theorem State.pushOne_memOk {s : State} {cl e : Nat} {x : Nat × TRec} (hok : s.MemOk) :
    QRes.Has State.MemOk (State.pushOne s cl e x) := by
  unfold State.pushOne
  repeat' (first | with_reducible assumption | with_reducible intro _ | with_reducible apply QRes.has_ok
                 | with_reducible exact QRes.has_empty | with_reducible exact QRes.has_fault | with_reducible apply State.modCl_memOk
                 | with_reducible apply State.pushInTurn_memOk | with_reducible apply State.chargeRing_memOk
                 | with_reducible apply State.dropWait_memOk | simp only [State.mk_memOk] | with_reducible apply State.memOk_mem | split
                 | refine State.pushInTurn_memOk ?_ _ (by assumption))

theorem State.pushHeld_memOk {s : State} {cl e : Nat} (hok : s.MemOk) :
    (State.pushHeld s cl e).MemOk := by
  unfold State.pushHeld
  dsimp only
  split
  · rename_i t h
    obtain ⟨x, -, hx⟩ := List.exists_of_findSome?_eq_some h
    have hp := State.pushOne_memOk (cl := cl) (e := e) (x := x) hok
    split at hx
    · rename_i u hu
      cases hx
      exact hp _ hu
    · cases hx
  · split
    · exact State.ringFault_memOk hok
    · exact hok

theorem execStitchPushDeferred_memOk {cl e : Nat} {s : State} (hok : s.MemOk) :
    Out.MemOk (execStitchPushDeferred cl e s) :=
  Out.next_memOk (State.pushHeld_memOk hok)

theorem execWatchWindowStart_memOk {cl : Nat} {s : State} (hok : s.MemOk) :
    Out.MemOk (execWatchWindowStart cl s) :=
  Out.next_memOk (State.rollWatch_memOk hok)

theorem State.searchTake_memOk {s : State} {hw : Nat} (hok : s.MemOk) :
    (State.searchTake s hw).MemOk := by
  unfold State.searchTake
  (try dsimp only)
  repeat' (first | with_reducible assumption | with_reducible intro _ | with_reducible apply State.modCtx_memOk
                 | with_reducible apply State.takeRec_memOk | with_reducible apply State.chargeRing_memOk
                 | with_reducible apply State.raiseOnce_memOk | simp only [State.mk_memOk] | with_reducible apply State.memOk_mem | split
                 | refine State.takeRec_memOk ?_ _ (by assumption))

theorem State.yieldEff_memOk {s : State} {hw : Nat} (hok : s.MemOk) :
    (State.yieldEff s hw).MemOk := by
  unfold State.yieldEff
  (try dsimp only)
  repeat' (first | with_reducible assumption | with_reducible intro _ | with_reducible apply State.modCtx_memOk
                 | with_reducible apply State.leavePrimary_memOk)

theorem execYield_memOk {g : Nat} {s : State} (hok : s.MemOk) :
    Out.MemOk (execYield g s) := by
  unfold execYield
  repeat' (first | with_reducible assumption | with_reducible intro _ | with_reducible apply Out.next_memOk
                 | with_reducible apply State.perform_memOk | with_reducible apply State.yieldEff_memOk)

theorem State.yieldNwEff_memOk {s : State} {hw : Nat} (hok : s.MemOk) :
    (State.yieldNwEff s hw).MemOk := by
  unfold State.yieldNwEff
  repeat' (first | with_reducible assumption | with_reducible intro _ | with_reducible apply State.modCtx_memOk
                 | with_reducible apply State.searchTake_memOk | with_reducible apply State.yieldEff_memOk | simp only [State.mk_memOk]
                 | with_reducible apply State.memOk_mem | split)

theorem execYieldNw_memOk {g : Nat} {s : State} (hok : s.MemOk) :
    Out.MemOk (execYieldNw g s) := by
  unfold execYieldNw
  repeat' (first | with_reducible assumption | with_reducible intro _ | with_reducible apply Out.next_memOk
                 | with_reducible apply State.perform_memOk | with_reducible apply State.yieldNwEff_memOk)

theorem State.drainAsk_memOk {s : State} {on sys : Bool} (hok : s.MemOk) :
    (State.drainAsk s on sys).MemOk := by
  unfold State.drainAsk
  (try dsimp only)
  repeat' (first | with_reducible assumption | with_reducible intro _ | with_reducible apply State.modPings_memOk | split)

theorem State.linkRead_memOk {s : State} {hw link : Nat} (hok : s.MemOk) :
    (State.linkRead s hw link).MemOk := by
  unfold State.linkRead
  repeat' (first | with_reducible assumption | with_reducible intro _ | with_reducible apply State.modPings_memOk)

theorem State.tdoneEff_memOk {s : State} {hw : Nat} (hok : s.MemOk) :
    (State.tdoneEff s hw).MemOk := by
  unfold State.tdoneEff
  (try dsimp only)
  repeat' (first | with_reducible assumption | with_reducible intro _ | with_reducible apply State.modCtx_memOk
                 | with_reducible apply State.counterAdd_memOk | simp only [State.mk_memOk] | with_reducible apply State.memOk_mem | split)

theorem State.tdoneAsk_memOk {s : State} {g : Nat} (hok : s.MemOk) :
    (State.tdoneAsk s g).MemOk :=
  State.drainAsk_memOk hok

theorem execTdone_memOk {g : Nat} {s : State} (hok : s.MemOk) :
    Out.MemOk (execTdone g s) := by
  unfold execTdone
  (try dsimp only)
  repeat' (first | with_reducible assumption | with_reducible intro _ | with_reducible apply Out.next_memOk
                 | with_reducible apply State.dropPings_memOk | with_reducible apply State.perform_memOk
                 | with_reducible apply State.tdoneEff_memOk | with_reducible apply State.tdoneAsk_memOk)

theorem State.preloadLine_memOk {s : State} {hw : Nat} (hok : s.MemOk) :
    (State.preloadLine s hw).MemOk := by
  unfold State.preloadLine
  (try dsimp only)
  repeat' (first | with_reducible assumption | with_reducible intro _ | with_reducible apply State.modCtx_memOk
                 | with_reducible apply State.charge_memOk | with_reducible apply State.chargeFailed_memOk
                 | with_reducible apply State.rememberAll_memOk | with_reducible apply State.raise_memOk
                 | with_reducible apply State.chargePieces_memOk | with_reducible apply State.spadWrite_memOk | simp only [State.mk_memOk]
                 | with_reducible apply State.memOk_mem | split)

theorem State.preloadLines_memOk {s : State} {hw : Nat} (hok : s.MemOk) (x0 : Nat) :
    (State.preloadLines s hw x0).MemOk := by
  induction x0 generalizing s hw
  case _ =>
    unfold State.preloadLines
    repeat' (first | with_reducible assumption)
  case _ ih =>
    unfold State.preloadLines
    repeat' (first | with_reducible assumption | with_reducible apply ih | with_reducible apply State.preloadLine_memOk)

theorem State.dispatchTask_memOk {s : State} {hw d : Nat} (hok : s.MemOk) :
    (State.dispatchTask s hw d).MemOk := by
  unfold State.dispatchTask
  (try dsimp only)
  repeat' (first | with_reducible assumption | with_reducible intro _ | with_reducible apply State.modCtx_memOk
                 | simp only [State.mk_memOk] | with_reducible apply State.memOk_mem | split)

/-! ## FSlot -/

theorem State.pushFmt_memOk {s : State} {v : Nat} (hok : s.MemOk) :
    (State.pushFmt s v).MemOk :=
  State.pushVal_memOk hok

theorem execSetfmtImm_memOk {o : G1} {s : State} (hok : s.MemOk) :
    Out.MemOk (execSetfmtImm o s) := by
  unfold execSetfmtImm
  repeat' (first | with_reducible assumption | with_reducible intro _ | with_reducible apply Out.next_memOk
                 | with_reducible apply State.perform_memOk | with_reducible apply State.pushFmt_memOk)

theorem execSetfmtReg_memOk {o : G1} {s : State} (hok : s.MemOk) :
    Out.MemOk (execSetfmtReg o s) := by
  unfold execSetfmtReg
  (try dsimp only)
  repeat' (first | with_reducible assumption | with_reducible intro _ | with_reducible apply Out.next_memOk
                 | with_reducible apply State.perform_memOk | with_reducible apply State.pushFmt_memOk)

theorem execGetflg_memOk {o : G1} {s : State} (hok : s.MemOk) :
    Out.MemOk (execGetflg o s) := by
  unfold execGetflg
  repeat' (first | with_reducible assumption | with_reducible intro _ | with_reducible apply Out.next_memOk
                 | with_reducible apply State.pushS_memOk | with_reducible apply State.perform_memOk)

theorem execClrflg_memOk {o : G1} {s : State} (hok : s.MemOk) :
    Out.MemOk (execClrflg o s) := by
  unfold execClrflg
  repeat' (first | with_reducible assumption | with_reducible intro _ | with_reducible apply Out.next_memOk
                 | with_reducible apply State.modCtx_memOk | with_reducible apply State.perform_memOk)

theorem execSpflag_memOk {o : G1} {keep : Bool} {s : State} (hok : s.MemOk) :
    Out.MemOk (execSpflag o keep s) := by
  unfold execSpflag
  (try dsimp only)
  repeat' (first | with_reducible assumption | with_reducible intro _ | with_reducible apply Out.next_memOk
                 | with_reducible apply State.modCtx_memOk | with_reducible apply State.pushS_memOk
                 | with_reducible apply State.perform_memOk | simp only [State.mk_memOk] | with_reducible apply State.memOk_mem | split)

theorem execZset_memOk {o : G2} {s : State} (hok : s.MemOk) :
    Out.MemOk (execZset o s) := by
  unfold execZset
  (try dsimp only)
  repeat' (first | with_reducible assumption | with_reducible intro _ | with_reducible apply Out.next_memOk
                 | with_reducible apply State.modCtx_memOk | with_reducible apply State.perform_memOk)

theorem execWaitt_memOk {o : G1} {s : State} (hok : s.MemOk) :
    Out.MemOk (execWaitt o s) := by
  unfold execWaitt
  repeat' (first | with_reducible assumption | with_reducible intro _ | with_reducible apply Out.next_memOk
                 | with_reducible apply State.perform_memOk)

theorem execSlack_memOk {o : G1} {s : State} (hok : s.MemOk) :
    Out.MemOk (execSlack o s) := by
  unfold execSlack
  (try dsimp only)
  repeat' (first | with_reducible assumption | with_reducible intro _ | with_reducible apply Out.next_memOk
                 | with_reducible apply State.modCtx_memOk | with_reducible apply State.perform_memOk)

theorem State.drainAskF_memOk {s : State} {o : G1} (hok : s.MemOk) :
    (State.drainAskF s o).MemOk :=
  State.drainAsk_memOk hok

theorem execDrain_memOk {o : G1} {s : State} (hok : s.MemOk) :
    Out.MemOk (execDrain o s) := by
  unfold execDrain
  (try dsimp only)
  repeat' (first | with_reducible assumption | with_reducible intro _ | with_reducible apply Out.next_memOk
                 | with_reducible apply State.dropPings_memOk | with_reducible apply State.perform_memOk
                 | with_reducible apply State.drainAskF_memOk)

theorem execWfe_memOk {o : FW} {s : State} (hok : s.MemOk) :
    Out.MemOk (execWfe o s) := by
  unfold execWfe
  (try dsimp only)
  repeat' (first | with_reducible assumption | with_reducible intro _ | with_reducible apply Out.next_memOk
                 | with_reducible apply State.pushS_memOk | with_reducible apply State.perform_memOk)

theorem State.barArrive_memOk {s : State} {hw list : Nat} (hok : s.MemOk) :
    (State.barArrive s hw list).MemOk := by
  unfold State.barArrive
  (try dsimp only)
  repeat' (first | with_reducible assumption | with_reducible intro _ | with_reducible apply State.modCtx_memOk
                 | with_reducible apply State.modCl_memOk | simp only [State.mk_memOk] | with_reducible apply State.memOk_mem | split)

theorem State.barAsk_memOk {s : State} {o : G2} (hok : s.MemOk) :
    (State.barAsk s o).MemOk := by
  unfold State.barAsk
  repeat' (first | with_reducible assumption | with_reducible apply State.barArrive_memOk | split)

theorem execBar_memOk {o : G2} {s : State} (hok : s.MemOk) :
    Out.MemOk (execBar o s) := by
  unfold execBar
  (try dsimp only)
  repeat' (first | with_reducible assumption | with_reducible intro _ | with_reducible apply Out.next_memOk
                 | with_reducible apply State.modCtx_memOk | with_reducible apply State.perform_memOk
                 | with_reducible apply State.barAsk_memOk)

theorem State.barMark_memOk {s : State} {hw list : Nat} (hok : s.MemOk) :
    (State.barMark s hw list).MemOk := by
  unfold State.barMark
  (try dsimp only)
  repeat' (first | with_reducible assumption | with_reducible intro _ | with_reducible apply State.modCtx_memOk)

theorem State.emptyJournal_memOk {s : State} {core team : Nat} (hok : s.MemOk) :
    (State.emptyJournal s core team).MemOk := by
  unfold State.emptyJournal
  (try dsimp only)
  repeat' (first | with_reducible assumption | with_reducible intro _ | with_reducible apply State.modCtx_memOk
                 | with_reducible apply State.modCore_memOk | simp only [State.mk_memOk] | with_reducible apply State.memOk_mem
                 | with_reducible apply foldl_memOk)

theorem State.barRelease_memOk {s : State} {cl team : Nat} (hok : s.MemOk) :
    (State.barRelease s cl team).MemOk := by
  unfold State.barRelease
  (try dsimp only)
  repeat' (first | with_reducible assumption | with_reducible intro _ | with_reducible apply State.modCtx_memOk
                 | with_reducible apply State.modCl_memOk | with_reducible apply State.fresh_memOk
                 | with_reducible apply State.emptyJournal_memOk | simp only [State.mk_memOk] | with_reducible apply State.memOk_mem
                 | with_reducible apply foldl_memOk | with_reducible apply foldl_fst_memOk | split)

theorem execBarrierRelease_memOk {cl team : Nat} {s : State} (hok : s.MemOk) :
    Out.MemOk (execBarrierRelease cl team s) :=
  Out.next_memOk (State.barRelease_memOk hok)

theorem execTime_memOk {o : G1} {s : State} (hok : s.MemOk) :
    Out.MemOk (execTime o s) := by
  unfold execTime
  repeat' (first | with_reducible assumption | with_reducible intro _ | with_reducible apply Out.next_memOk
                 | with_reducible apply State.pushS_memOk | with_reducible apply State.perform_memOk)

theorem execPerf_memOk {o : G2} {s : State} (hok : s.MemOk) :
    Out.MemOk (execPerf o s) := by
  unfold execPerf
  repeat' (first | with_reducible assumption | with_reducible intro _ | with_reducible apply Out.next_memOk
                 | with_reducible apply State.pushS_memOk | with_reducible apply State.perform_memOk)

theorem State.mapSeg_memOk {s : State} {core k asid : Nat} {by_ : Option Nat} (hok : s.MemOk) :
    (State.mapSeg s core k asid by_).MemOk := by
  unfold State.mapSeg
  (try dsimp only)
  repeat' (first | with_reducible assumption | with_reducible intro _ | with_reducible apply State.modCore_memOk
                 | simp only [State.mk_memOk] | with_reducible apply State.memOk_mem | split)

theorem execOvl_memOk {o : G1} {s : State} (hok : s.MemOk) :
    Out.MemOk (execOvl o s) := by
  unfold execOvl
  repeat' (first | with_reducible assumption | with_reducible intro _ | with_reducible apply Out.next_memOk
                 | with_reducible apply State.perform_memOk | with_reducible apply State.mapSeg_memOk | simp only [State.mk_memOk]
                 | with_reducible apply State.memOk_mem | split)

theorem State.imemWrite_memOk {s : State} {a : Nat} {bs : List Byte} (hok : s.MemOk) :
    (State.imemWrite s a bs).MemOk := by
  unfold State.imemWrite
  (try dsimp only)
  repeat' (first | with_reducible assumption | simp only [State.mk_memOk] | with_reducible apply State.memOk_mem
                 | with_reducible apply Mem.mk_wf | with_reducible apply State.memOk_hbm | with_reducible apply State.memOk_host
                 | with_reducible apply State.memOk_spad | with_reducible apply State.memOk_imem | with_reducible apply State.memOk_lining
                 | with_reducible apply Memory.write_wf | with_reducible apply Memory.hostPut_wf)

theorem State.debugBit_memOk {s : State} {core a : Nat} {on : Bool} (hok : s.MemOk) :
    (State.debugBit s core a on).MemOk := by
  unfold State.debugBit
  (try dsimp only)
  repeat' (first | with_reducible assumption | with_reducible apply State.imemWrite_memOk)

theorem State.segDone_memOk {s : State} {core k : Nat} (hok : s.MemOk) :
    (State.segDone s core k).MemOk := by
  unfold State.segDone
  (try dsimp only)
  repeat' (first | with_reducible assumption | with_reducible intro _ | with_reducible apply State.modCore_memOk
                 | with_reducible apply State.chargeCore_memOk | with_reducible apply State.chargeFailed_memOk
                 | with_reducible apply State.rememberAll_memOk | with_reducible apply State.raise_memOk
                 | with_reducible apply State.chargePieces_memOk | with_reducible apply State.imemWrite_memOk | simp only [State.mk_memOk]
                 | with_reducible apply State.memOk_mem | split)

theorem execSegmentCopyDone_memOk {core k : Nat} {s : State} (hok : s.MemOk) :
    Out.MemOk (execSegmentCopyDone core k s) :=
  Out.next_memOk (State.segDone_memOk hok)

theorem execHalt_memOk {g : Nat} {s : State} (hok : s.MemOk) :
    Out.MemOk (execHalt g s) := by
  unfold execHalt
  repeat' (first | with_reducible assumption | with_reducible intro _ | with_reducible apply Out.next_memOk
                 | with_reducible apply State.endContext_memOk | with_reducible apply State.perform_memOk)

theorem State.setKey_memOk {s : State} {n : Nat} {k : Option Nat} (hok : s.MemOk) :
    (State.setKey s n k).MemOk := by
  unfold State.setKey
  (try dsimp only)
  repeat' (first | with_reducible assumption | simp only [State.mk_memOk] | with_reducible apply State.memOk_mem)

theorem State.keyAsk_memOk {s : State} {on : Bool} {chk : Option Chk} {n : Nat} {k : Option Nat} (hok : s.MemOk) :
    (State.keyAsk s on chk n k).MemOk := by
  unfold State.keyAsk
  repeat' (first | with_reducible assumption | with_reducible intro _ | with_reducible apply State.modLoads_memOk | split)

theorem State.keyHeld_memOk {s : State} {hw : Nat} (hok : s.MemOk) :
    (State.keyHeld s hw).MemOk := by
  unfold State.keyHeld
  repeat' (first | with_reducible assumption | with_reducible intro _ | with_reducible apply State.modLoads_memOk
                 | with_reducible apply State.setKey_memOk | simp only [State.mk_memOk] | with_reducible apply State.memOk_mem | split)

theorem State.keyldAsk_memOk {s : State} {o : G2} (hok : s.MemOk) :
    (State.keyldAsk s o).MemOk :=
  State.keyAsk_memOk hok

theorem State.keyldClrAsk_memOk {s : State} {o : G1} (hok : s.MemOk) :
    (State.keyldClrAsk s o).MemOk :=
  State.keyAsk_memOk hok

theorem execKeyld_memOk {o : G2} {s : State} (hok : s.MemOk) :
    Out.MemOk (execKeyld o s) := by
  unfold execKeyld
  (try dsimp only)
  repeat' (first | with_reducible assumption | with_reducible intro _ | with_reducible apply Out.next_memOk
                 | with_reducible apply State.dropLoad_memOk | with_reducible apply State.perform_memOk
                 | with_reducible apply State.keyldAsk_memOk)

theorem execKeyldClr_memOk {o : G1} {s : State} (hok : s.MemOk) :
    Out.MemOk (execKeyldClr o s) := by
  unfold execKeyldClr
  (try dsimp only)
  repeat' (first | with_reducible assumption | with_reducible intro _ | with_reducible apply Out.next_memOk
                 | with_reducible apply State.dropLoad_memOk | with_reducible apply State.perform_memOk
                 | with_reducible apply State.keyldClrAsk_memOk)

/-! ## Neighbour -/

theorem State.rememberNl_memOk {s : State} {hw cl asid : Nat} {virt : Bool} {a n : Nat} (hok : s.MemOk) :
    (State.rememberNl s hw cl asid virt a n).MemOk := by
  unfold State.rememberNl
  repeat' (first | with_reducible assumption | with_reducible apply State.rememberAll_memOk | split)

theorem State.setNl_memOk {s : State} {cl : Nat} {n : Nl} (hok : s.MemOk) :
    (State.setNl s cl n).MemOk := by
  unfold State.setNl
  repeat' (first | with_reducible assumption | with_reducible intro _ | with_reducible apply State.modCl_memOk)

theorem State.setJob_memOk {s : State} {cl : Nat} {j : Option NlJob} (hok : s.MemOk) :
    (State.setJob s cl j).MemOk := by
  unfold State.setJob
  repeat' (first | with_reducible assumption | with_reducible intro _ | with_reducible apply State.modCl_memOk)

theorem State.nlPart_memOk {s : State} {cl : Nat} {places : List (List Piece)} {k : Nat} (hok : s.MemOk) :
    (State.nlPart s cl places k).MemOk := by
  unfold State.nlPart
  (try dsimp only)
  repeat' (first | with_reducible assumption | with_reducible apply State.writeMute_memOk | with_reducible apply State.sentHost_memOk
                 | with_reducible apply State.setJob_memOk | simp only [State.mk_memOk] | with_reducible apply State.memOk_mem | split)

/-! ## Queues -/

theorem State.update_memOk {s : State} {hw : Nat} {c : Cmd} {ps : List Piece} {n : Nat} {f : Nat → Nat} (hok : s.MemOk) :
    (State.update s hw c ps n f).MemOk := by
  unfold State.update
  repeat' (first | with_reducible assumption | with_reducible apply State.chargePieces_memOk | with_reducible apply State.writePieces_memOk
                 | with_reducible apply State.sentHost_memOk)

theorem State.rememberReq_memOk {s : State} {hw : Nat} {c : Cmd} (hok : s.MemOk) :
    (State.rememberReq s hw c).MemOk := by
  unfold State.rememberReq
  repeat' (first | with_reducible assumption | with_reducible intro _ | with_reducible apply State.rememberAll_memOk
                 | with_reducible apply foldl_memOk | with_reducible apply foldl_fst_memOk | split)

theorem State.reqBegin_memOk {s : State} {hw : Nat} {c : Cmd} (hok : s.MemOk) :
    (State.reqBegin s hw c).MemOk := by
  unfold State.reqBegin
  repeat' (first | with_reducible assumption | with_reducible intro _ | with_reducible apply State.modCmd_memOk
                 | with_reducible apply State.rememberReq_memOk)

theorem State.reqPart_memOk {s : State} {hw : Nat} {c : Cmd} {k : Nat} (hok : s.MemOk) :
    (State.reqPart s hw c k).MemOk := by
  unfold State.reqPart
  (try dsimp only)
  repeat' (first | with_reducible assumption | with_reducible intro _ | with_reducible apply State.modCmd_memOk
                 | with_reducible apply State.update_memOk | simp only [State.mk_memOk] | with_reducible apply State.memOk_mem | split)

theorem State.reqParts_memOk {s : State} {hw id : Nat} (hok : s.MemOk) (x0 : List Nat) :
    (State.reqParts s hw id x0).MemOk := by
  induction x0 generalizing s hw id
  case _ =>
    unfold State.reqParts
    repeat' (first | with_reducible assumption)
  case _ ih =>
    unfold State.reqParts
    (try dsimp only)
    repeat' (first | with_reducible assumption | with_reducible apply ih | with_reducible apply State.reqPart_memOk
                   | simp only [State.mk_memOk] | with_reducible apply State.memOk_mem | split)

theorem State.reqEnd_memOk {s : State} {hw id : Nat} (hok : s.MemOk) :
    (State.reqEnd s hw id).MemOk := by
  unfold State.reqEnd
  repeat' (first | with_reducible assumption | with_reducible intro _ | with_reducible apply State.chargePieces_memOk
                 | with_reducible apply State.cmdDone_memOk | with_reducible apply State.modCmd_memOk | simp only [State.mk_memOk]
                 | with_reducible apply State.memOk_mem | split)

theorem State.reqRun_memOk {s : State} {hw : Nat} {c : Cmd} {ks : List Nat} (hok : s.MemOk) :
    (State.reqRun s hw c ks).MemOk := by
  unfold State.reqRun
  (try dsimp only)
  repeat' (first | with_reducible assumption | with_reducible apply State.reqBegin_memOk | with_reducible apply State.reqParts_memOk
                 | with_reducible apply State.reqEnd_memOk | split)

theorem State.sfopRead_memOk {s : State} {hw : Nat} {c : Cmd} (hok : s.MemOk) :
    (State.sfopRead s hw c).MemOk := by
  unfold State.sfopRead
  (try dsimp only)
  repeat' (first | with_reducible assumption | with_reducible intro _ | with_reducible apply State.modCmd_memOk
                 | with_reducible apply State.reqBegin_memOk | simp only [State.mk_memOk] | with_reducible apply State.memOk_mem | split)

theorem State.sfopWrite_memOk {s : State} {hw : Nat} {c : Cmd} (hok : s.MemOk) :
    (State.sfopWrite s hw c).MemOk := by
  unfold State.sfopWrite
  (try dsimp only)
  repeat' (first | with_reducible assumption | with_reducible intro _ | with_reducible apply State.cmdDone_memOk
                 | with_reducible apply State.modCmd_memOk | with_reducible apply State.update_memOk | simp only [State.mk_memOk]
                 | with_reducible apply State.memOk_mem | split)

theorem State.sfopRun_memOk {s : State} {hw : Nat} {c : Cmd} (hok : s.MemOk) :
    (State.sfopRun s hw c).MemOk := by
  unfold State.sfopRun
  (try dsimp only)
  repeat' (first | with_reducible assumption | with_reducible apply State.sfopRead_memOk | with_reducible apply State.sfopWrite_memOk
                 | simp only [State.mk_memOk] | with_reducible apply State.memOk_mem | split)

theorem State.jobBegin_memOk {s : State} {hw : Nat} {c : Cmd} {places : List (List Piece)} {j : NlJob} (hok : s.MemOk) :
    (State.jobBegin s hw c places j).MemOk := by
  unfold State.jobBegin
  repeat' (first | with_reducible assumption | with_reducible intro _ | with_reducible apply State.modCmd_memOk
                 | with_reducible apply State.setJob_memOk)

theorem State.nlbinBegin_memOk {s : State} {hw : Nat} {c : Cmd} {a : Nat} (hok : s.MemOk) :
    (State.nlbinBegin s hw c a).MemOk := by
  unfold State.nlbinBegin
  (try dsimp only)
  repeat' (first | with_reducible assumption | with_reducible apply State.cmdDone_memOk | with_reducible apply State.rememberNl_memOk
                 | with_reducible apply State.setNl_memOk | with_reducible apply State.jobBegin_memOk | simp only [State.mk_memOk]
                 | with_reducible apply State.memOk_mem | split)

theorem State.nlposBegin_memOk {s : State} {hw : Nat} {c : Cmd} {v : VReg} (hok : s.MemOk) :
    (State.nlposBegin s hw c v).MemOk := by
  unfold State.nlposBegin
  (try dsimp only)
  repeat' (first | with_reducible assumption | with_reducible intro _ | with_reducible apply State.cmdDone_memOk
                 | with_reducible apply State.rememberNl_memOk | with_reducible apply State.jobBegin_memOk
                 | with_reducible apply foldl_memOk | with_reducible apply foldl_fst_memOk | split)

theorem State.nlstatBegin_memOk {s : State} {hw : Nat} {c : Cmd} {a : Nat} (hok : s.MemOk) :
    (State.nlstatBegin s hw c a).MemOk :=
  State.jobBegin_memOk hok

theorem State.fenceBegin_memOk {s : State} {hw : Nat} {c : Cmd} (hok : s.MemOk) :
    (State.fenceBegin s hw c).MemOk := by
  unfold State.fenceBegin
  (try dsimp only)
  repeat' (first | with_reducible assumption | with_reducible apply State.nlbinBegin_memOk | with_reducible apply State.nlposBegin_memOk
                 | with_reducible apply State.nlstatBegin_memOk | simp only [State.mk_memOk] | with_reducible apply State.memOk_mem | split)

theorem State.nlMore_memOk {s : State} {hw : Nat} {c : Cmd} {j : NlJob} (hok : s.MemOk) :
    (State.nlMore s hw c j).MemOk := by
  unfold State.nlMore
  (try dsimp only)
  repeat' (first | with_reducible assumption | with_reducible intro _ | with_reducible apply State.modCmd_memOk
                 | with_reducible apply State.rememberNl_memOk | simp only [State.mk_memOk] | with_reducible apply State.memOk_mem | split)

theorem State.fenceEnd_memOk {s : State} {hw : Nat} {c : Cmd} {j : NlJob} (hok : s.MemOk) :
    (State.fenceEnd s hw c j).MemOk := by
  unfold State.fenceEnd
  (try dsimp only)
  repeat' (first | with_reducible assumption | with_reducible intro _ | with_reducible apply State.chargePieces_memOk
                 | with_reducible apply State.cmdDone_memOk | with_reducible apply State.setNl_memOk
                 | with_reducible apply State.setJob_memOk | simp only [State.mk_memOk] | with_reducible apply State.memOk_mem
                 | with_reducible apply foldl_memOk | with_reducible apply foldl_fst_memOk | split)

theorem State.fenceParts_memOk {s : State} {hw : Nat} {c : Cmd} {ks : List Nat} (hok : s.MemOk) :
    (State.fenceParts s hw c ks).MemOk := by
  unfold State.fenceParts
  (try dsimp only)
  repeat' (first | with_reducible assumption | with_reducible intro _ | with_reducible apply State.nlPart_memOk
                 | with_reducible apply State.nlMore_memOk | with_reducible apply State.fenceEnd_memOk | simp only [State.mk_memOk]
                 | with_reducible apply State.memOk_mem | with_reducible apply foldl_memOk | with_reducible apply foldl_fst_memOk | split)

theorem State.fenceRun_memOk {s : State} {hw : Nat} {c : Cmd} {ks : NlJob → List Nat} (hok : s.MemOk) :
    (State.fenceRun s hw c ks).MemOk := by
  unfold State.fenceRun
  (try dsimp only)
  repeat' (first | with_reducible assumption | with_reducible apply State.fenceBegin_memOk | with_reducible apply State.fenceParts_memOk
                 | simp only [State.mk_memOk] | with_reducible apply State.memOk_mem | split)

theorem State.qDo_memOk {s : State} {hw : Nat} {c : Cmd} (hok : s.MemOk) :
    (State.qDo s hw c).MemOk := by
  unfold State.qDo
  repeat' (first | with_reducible assumption | with_reducible intro _ | with_reducible apply State.doSpawn_memOk
                 | with_reducible apply State.doTake_memOk | with_reducible apply State.doWatch_memOk
                 | with_reducible apply State.doUnwatch_memOk | with_reducible apply State.reqRun_memOk
                 | with_reducible apply State.sfopRun_memOk | with_reducible apply State.fenceRun_memOk | simp only [State.mk_memOk]
                 | with_reducible apply State.memOk_mem | split)

theorem State.cmdStop_memOk {s : State} {hw id : Nat} {a : Async} (hok : s.MemOk) :
    (State.cmdStop s hw id a).MemOk := by
  unfold State.cmdStop
  repeat' (first | with_reducible assumption | with_reducible intro _ | with_reducible apply State.modCl_memOk
                 | with_reducible apply State.raise_memOk | with_reducible apply State.modCmd_memOk
                 | with_reducible apply State.dropCmd_memOk | simp only [State.mk_memOk] | with_reducible apply State.memOk_mem | split)

theorem State.cmdFault_memOk {s : State} {hw : Nat} {c : Cmd} {va code level : Nat} (hok : s.MemOk) :
    (State.cmdFault s hw c va code level).MemOk := by
  unfold State.cmdFault
  repeat' (first | with_reducible assumption | with_reducible apply State.chargeFailed_memOk | with_reducible apply State.cmdStop_memOk)

theorem State.qMove_memOk {s : State} {hw : Nat} {c : Cmd} {go : State → State} (hok : s.MemOk) (h_go : ∀ (s : State) , s.MemOk → (go s ).MemOk) :
    (State.qMove s hw c go).MemOk := by
  unfold State.qMove
  (try dsimp only)
  repeat' (first | with_reducible assumption | with_reducible apply State.cmdFault_memOk | with_reducible apply h_go
                 | simp only [State.mk_memOk] | with_reducible apply State.memOk_mem | split)

theorem State.qAct_memOk {s : State} {hw : Nat} {c : Cmd} (hok : s.MemOk) :
    (State.qAct s hw c).MemOk := by
  unfold State.qAct
  repeat' (first | with_reducible assumption | with_reducible intro _ | with_reducible apply State.qDo_memOk
                 | with_reducible apply State.qMove_memOk)

theorem State.elementsAct_memOk {s : State} {hw id first n : Nat} (hok : s.MemOk) :
    (State.elementsAct s hw id first n).MemOk := by
  unfold State.elementsAct
  repeat' (first | with_reducible assumption | with_reducible intro _ | with_reducible apply State.reqRun_memOk
                 | with_reducible apply State.fenceRun_memOk | with_reducible apply State.qMove_memOk | simp only [State.mk_memOk]
                 | with_reducible apply State.memOk_mem | split)

theorem State.earlyAct_memOk {s : State} {hw id : Nat} (hok : s.MemOk) :
    (State.earlyAct s hw id).MemOk := by
  unfold State.earlyAct
  repeat' (first | with_reducible assumption | with_reducible intro _ | with_reducible apply State.sfopRead_memOk
                 | with_reducible apply State.qMove_memOk | simp only [State.mk_memOk] | with_reducible apply State.memOk_mem | split)

theorem State.nlStart_memOk {s : State} {hw : Nat} {c : Cmd} {first : Nat} (hok : s.MemOk) :
    (State.nlStart s hw c first).MemOk := by
  unfold State.nlStart
  (try dsimp only)
  repeat' (first | with_reducible assumption | with_reducible intro _ | with_reducible apply State.modCl_memOk
                 | with_reducible apply State.modCmd_memOk | with_reducible apply State.setNl_memOk | simp only [State.mk_memOk]
                 | with_reducible apply State.memOk_mem | split)

theorem State.nlStep_memOk {s : State} {hw : Nat} {c : Cmd} {first count n : Nat} (hok : s.MemOk) :
    (State.nlStep s hw c first count n).MemOk := by
  unfold State.nlStep
  (try dsimp only)
  repeat' (first | with_reducible assumption | with_reducible intro _ | with_reducible apply State.chargePieces_memOk
                 | with_reducible apply State.modCmd_memOk | with_reducible apply State.setNl_memOk | simp only [State.mk_memOk]
                 | with_reducible apply State.memOk_mem | split)

theorem State.nlAct_memOk {s : State} {hw id n : Nat} (hok : s.MemOk) :
    (State.nlAct s hw id n).MemOk := by
  unfold State.nlAct
  (try dsimp only)
  repeat' (first | with_reducible assumption | with_reducible apply State.cmdFault_memOk | with_reducible apply State.nlStart_memOk
                 | with_reducible apply State.nlStep_memOk | simp only [State.mk_memOk] | with_reducible apply State.memOk_mem | split)

theorem State.dataArrive_memOk {s : State} {hw : Nat} (hok : s.MemOk) :
    (State.dataArrive s hw).MemOk := by
  unfold State.dataArrive
  (try dsimp only)
  repeat' (first | with_reducible assumption | with_reducible intro _ | with_reducible apply State.modCtx_memOk
                 | with_reducible apply State.modCl_memOk | with_reducible apply State.cmdDone_memOk
                 | with_reducible apply State.modCmd_memOk | simp only [State.mk_memOk] | with_reducible apply State.memOk_mem | split)

theorem State.indivisible_memOk {s : State} {run : State → Out} (hok : s.MemOk) (hr : ∀ s, s.MemOk → Out.MemOk (run s)) :
    Out.MemOk (State.indivisible s run) := by
  unfold State.indivisible
  dsimp only
  split
  · exact hr _ hok
  · split
    · rename_i e
      split
      · rw [← e]
        exact hr _ hok
      · exact hr _ (foldl_memOk (fun _ _ h => State.sfopWrite_memOk h) hok)
    · exact hr _ hok

theorem execDataQueueEntryArrive_memOk {hw : Nat} {s : State} (hok : s.MemOk) :
    Out.MemOk (execDataQueueEntryArrive hw s) :=
  Out.next_memOk (State.dataArrive_memOk hok)

/-! ## Links -/

theorem State.addWindow_memOk {s : State} {l : Nat} {send : Bool} {w : Window} (hok : s.MemOk) :
    (State.addWindow s l send w).MemOk := by
  unfold State.addWindow
  (try dsimp only)
  repeat' (first | with_reducible assumption | with_reducible intro _ | with_reducible apply State.modLink_memOk)

theorem State.linkTake_memOk {s : State} {hw : Nat} {c : Cmd} (hok : s.MemOk) :
    (State.linkTake s hw c).MemOk := by
  unfold State.linkTake
  (try dsimp only)
  repeat' (first | with_reducible assumption | with_reducible apply State.addWindow_memOk | simp only [State.mk_memOk]
                 | with_reducible apply State.memOk_mem | split)

theorem State.linkMiss_memOk {s : State} {l : Nat} {hw : Option Nat} {n : Nat} (hok : s.MemOk) :
    (State.linkMiss s l hw n).MemOk := by
  unfold State.linkMiss
  (try dsimp only)
  repeat' (first | with_reducible assumption | with_reducible intro _ | with_reducible apply State.modLink_memOk
                 | with_reducible apply State.launchErr_memOk | simp only [State.mk_memOk] | with_reducible apply State.memOk_mem
                 | with_reducible apply iter_memOk | split)

theorem State.modWindow_memOk {s : State} {l : Nat} {send : Bool} {hw id : Nat} {f : Window → Window} (hok : s.MemOk) :
    (State.modWindow s l send hw id f).MemOk := by
  unfold State.modWindow
  (try dsimp only)
  repeat' (first | with_reducible assumption | with_reducible intro _ | with_reducible apply State.modLink_memOk)

theorem State.beginWindow_memOk {s : State} {l : Nat} {send : Bool} {t : Nat} {w : Window} (hok : s.MemOk) :
    (State.beginWindow s l send t w).MemOk := by
  unfold State.beginWindow
  (try dsimp only)
  repeat' (first | with_reducible assumption | with_reducible intro _ | with_reducible apply State.modCmd_memOk
                 | with_reducible apply State.linkMiss_memOk | with_reducible apply State.modWindow_memOk | simp only [State.mk_memOk]
                 | with_reducible apply State.memOk_mem | split)

theorem State.beginWindows_memOk {s : State} {l : Nat} {send : Bool} {t : Nat} (hok : s.MemOk) :
    (State.beginWindows s l send t).MemOk := by
  unfold State.beginWindows
  (try dsimp only)
  repeat' (first | with_reducible assumption | with_reducible intro _ | with_reducible apply State.beginWindow_memOk
                 | with_reducible apply foldl_memOk)

theorem State.chargeNear_memOk {s : State} {hw a n : Nat} (hok : s.MemOk) :
    (State.chargeNear s hw a n).MemOk := by
  unfold State.chargeNear
  repeat' (first | with_reducible assumption | with_reducible apply State.chargePieces_memOk | simp only [State.mk_memOk]
                 | with_reducible apply State.memOk_mem | split)

theorem State.sendFlit_memOk {s : State} {l t : Nat} {w : Window} (hok : s.MemOk) :
    (State.sendFlit s l t w).MemOk := by
  unfold State.sendFlit
  (try dsimp only)
  repeat' (first | with_reducible assumption | with_reducible intro _ | with_reducible apply State.modLink_memOk
                 | with_reducible apply State.linkMiss_memOk | with_reducible apply State.modWindow_memOk
                 | with_reducible apply State.chargeNear_memOk | simp only [State.mk_memOk] | with_reducible apply State.memOk_mem | split)

theorem State.recvFlit_memOk {s : State} {l t : Nat} {w : Window} {v d : Nat} (hok : s.MemOk) :
    (State.recvFlit s l t w v d).MemOk := by
  unfold State.recvFlit
  (try dsimp only)
  repeat' (first | with_reducible assumption | with_reducible intro _ | with_reducible apply State.chargePieces_memOk
                 | with_reducible apply State.writeQuiet_memOk | with_reducible apply State.linkMiss_memOk
                 | with_reducible apply State.modWindow_memOk | simp only [State.mk_memOk] | with_reducible apply State.memOk_mem | split)

theorem State.recvTick_memOk {s : State} {l t : Nat} {flit : Option (Nat × Nat × Bool)} (hok : s.MemOk) :
    (State.recvTick s l t flit).MemOk := by
  unfold State.recvTick
  (try dsimp only)
  repeat' (first | with_reducible assumption | with_reducible intro _ | with_reducible apply State.linkMiss_memOk
                 | with_reducible apply State.recvFlit_memOk | simp only [State.mk_memOk] | with_reducible apply State.memOk_mem
                 | with_reducible apply foldl_memOk | with_reducible apply foldl_fst_memOk | split)

theorem State.reduce_memOk {s0 : State} {hw : Nat} {c : Cmd} {w : Window} (hok : s0.MemOk) :
    (State.reduce s0 hw c w).MemOk := by
  unfold State.reduce
  (try dsimp only)
  repeat' (first | with_reducible assumption | with_reducible intro _ | with_reducible apply State.modLink_memOk
                 | with_reducible apply State.chargePieces_memOk | with_reducible apply State.writePieces_memOk
                 | with_reducible apply State.linkMiss_memOk | with_reducible apply State.modWindow_memOk
                 | with_reducible apply State.chargeNear_memOk | simp only [State.mk_memOk] | with_reducible apply State.memOk_mem | split)

theorem State.dropWindow_memOk {s : State} {l : Nat} {send : Bool} {w : Window} (hok : s.MemOk) :
    (State.dropWindow s l send w).MemOk := by
  unfold State.dropWindow
  (try dsimp only)
  repeat' (first | with_reducible assumption | with_reducible intro _ | with_reducible apply State.modLink_memOk)

theorem State.endWindow_memOk {s : State} {l : Nat} {send : Bool} {w : Window} (hok : s.MemOk) :
    (State.endWindow s l send w).MemOk := by
  unfold State.endWindow
  (try dsimp only)
  repeat' (first | with_reducible assumption | with_reducible apply State.fireAll_memOk | with_reducible apply State.cmdDone_memOk
                 | with_reducible apply State.reduce_memOk | with_reducible apply State.dropWindow_memOk | simp only [State.mk_memOk]
                 | with_reducible apply State.memOk_mem | split)

theorem State.endWindows_memOk {s : State} {l : Nat} {send : Bool} {t : Nat} (hok : s.MemOk) :
    (State.endWindows s l send t).MemOk := by
  unfold State.endWindows
  (try dsimp only)
  repeat' (first | with_reducible assumption | with_reducible intro _ | with_reducible apply State.endWindow_memOk
                 | with_reducible apply foldl_memOk)

theorem State.linkStep_memOk {s : State} {l : Nat} {flit : Option (Nat × Nat × Bool)} (hok : s.MemOk) :
    (State.linkStep s l flit).MemOk := by
  unfold State.linkStep
  (try dsimp only)
  repeat' (first | with_reducible assumption | with_reducible intro _ | with_reducible apply State.modLink_memOk
                 | with_reducible apply State.beginWindows_memOk | with_reducible apply State.sendFlit_memOk
                 | with_reducible apply State.recvTick_memOk | with_reducible apply State.endWindows_memOk | simp only [State.mk_memOk]
                 | with_reducible apply State.memOk_mem | with_reducible apply foldl_memOk)

theorem State.linkIdle_memOk {s : State} {l t : Nat} (hok : s.MemOk) :
    (State.linkIdle s l t).MemOk := by
  unfold State.linkIdle
  (try dsimp only)
  repeat' (first | with_reducible assumption | with_reducible intro _ | with_reducible apply State.modLink_memOk
                 | with_reducible apply State.linkStep_memOk | simp only [State.mk_memOk] | with_reducible apply State.memOk_mem
                 | with_reducible apply iter_memOk | split)

theorem State.flitArrive_memOk {s : State} {l t v d : Nat} {bad : Bool} (hok : s.MemOk) :
    (State.flitArrive s l t v d bad).MemOk := by
  unfold State.flitArrive
  repeat' (first | with_reducible assumption | with_reducible intro _ | with_reducible apply State.modLink_memOk
                 | with_reducible apply State.linkStep_memOk | with_reducible apply State.linkIdle_memOk | simp only [State.mk_memOk]
                 | with_reducible apply State.memOk_mem | split)

theorem execLinkFlitReceive_memOk {l t : Nat} {f : FlitData} {bad : Bool} {s : State} (hok : s.MemOk) :
    Out.MemOk (execLinkFlitReceive l t f bad s) :=
  Out.next_memOk (State.flitArrive_memOk hok)

theorem execLinkWindowStart_memOk {l : Nat} {send : Bool} {s : State} (hok : s.MemOk) :
    Out.MemOk (execLinkWindowStart l send s) := by
  unfold execLinkWindowStart
  repeat' (first | with_reducible assumption | with_reducible apply Out.next_memOk | with_reducible apply State.beginWindows_memOk | split)

theorem State.lktime_memOk {s : State} {hw id : Nat} (hok : s.MemOk) :
    (State.lktime s hw id).MemOk := by
  unfold State.lktime
  repeat' (first | with_reducible assumption | with_reducible apply State.cmdDone_memOk | simp only [State.mk_memOk]
                 | with_reducible apply State.memOk_mem | split)

theorem execLktimeReached_memOk {hw id : Nat} {s : State} (hok : s.MemOk) :
    Out.MemOk (execLktimeReached hw id s) :=
  Out.next_memOk (State.lktime_memOk hok)

/-! ## Engines -/

theorem State.startC_memOk {s : State} {hw : Nat} {c : Cmd} (hok : s.MemOk) :
    (State.startC s hw c).MemOk := by
  unfold State.startC
  (try dsimp only)
  repeat' (first | with_reducible assumption | with_reducible intro _ | with_reducible apply State.modSlot_memOk
                 | with_reducible apply State.cmdDone_memOk | with_reducible apply State.modCmd_memOk
                 | with_reducible apply State.unbindSlot_memOk | with_reducible apply State.startWaiting_memOk
                 | with_reducible apply State.settleSlot_memOk | with_reducible apply State.cancel_memOk
                 | with_reducible apply State.cpstat_memOk | with_reducible apply State.bindStream_memOk
                 | with_reducible apply State.tlbDrop_memOk | with_reducible apply State.lktime_memOk | simp only [State.mk_memOk]
                 | with_reducible apply State.memOk_mem | split)

theorem State.takeC_memOk {s : State} {hw : Nat} {c : Cmd} (hok : s.MemOk) :
    (State.takeC s hw c).MemOk := by
  unfold State.takeC
  (try dsimp only)
  repeat' (first | with_reducible assumption | with_reducible intro _ | with_reducible apply State.modCtx_memOk
                 | with_reducible apply State.modSlot_memOk | with_reducible apply State.modCmd_memOk
                 | with_reducible apply State.cpstat_memOk | with_reducible apply State.linkTake_memOk
                 | with_reducible apply State.startC_memOk | simp only [State.mk_memOk] | with_reducible apply State.memOk_mem | split)

theorem State.takeQ_memOk {s : State} {hw : Nat} {c : Cmd} (hok : s.MemOk) :
    (State.takeQ s hw c).MemOk := by
  unfold State.takeQ
  (try dsimp only)
  repeat' (first | with_reducible assumption | with_reducible intro _ | with_reducible apply State.modCtx_memOk)

theorem State.takeCmd_memOk {s : State} {hw id : Nat} (hok : s.MemOk) :
    (State.takeCmd s hw id).MemOk := by
  unfold State.takeCmd
  repeat' (first | with_reducible assumption | with_reducible intro _ | with_reducible apply State.takeC_memOk
                 | with_reducible apply State.takeQ_memOk | simp only [State.mk_memOk] | with_reducible apply State.memOk_mem | split)

theorem execEngineTakesCommand_memOk {hw id : Nat} {s : State} (hok : s.MemOk) :
    Out.MemOk (execEngineTakesCommand hw id s) :=
  Out.next_memOk (State.takeCmd_memOk hok)

theorem State.failReq_memOk {s : State} {hw : Nat} {q : Stopped} {code : Nat} (hok : s.MemOk) :
    (State.failReq s hw q code).MemOk := by
  unfold State.failReq
  (try dsimp only)
  repeat' (first | with_reducible assumption | with_reducible intro _ | with_reducible apply State.modCtx_memOk
                 | with_reducible apply State.modCore_memOk | with_reducible apply State.raise_memOk
                 | with_reducible apply State.saveFail_memOk | with_reducible apply State.modJob_memOk
                 | with_reducible apply State.setResume_memOk | with_reducible apply State.slotFault_memOk
                 | with_reducible apply State.cmdStop_memOk | simp only [State.mk_memOk] | with_reducible apply State.memOk_mem | split)

theorem State.cmdAct_memOk {s : State} {hw id : Nat} (hok : s.MemOk) :
    (State.cmdAct s hw id).MemOk := by
  unfold State.cmdAct
  repeat' (first | with_reducible assumption | with_reducible apply State.cmdDone_memOk | with_reducible apply State.cpstat_memOk
                 | with_reducible apply State.qAct_memOk | with_reducible apply State.lktime_memOk
                 | with_reducible apply State.startC_memOk | simp only [State.mk_memOk] | with_reducible apply State.memOk_mem | split)

/-! ## Sct -/

theorem State.setSct_memOk {s : State} {cl e : Nat} {x : Sct} (hok : s.MemOk) :
    (State.setSct s cl e x).MemOk := by
  unfold State.setSct
  repeat' (first | with_reducible assumption | with_reducible intro _ | with_reducible apply State.modCl_memOk)

theorem State.pinFresh_memOk {s : State} {cl e : Nat} {r : SctReq} (hok : s.MemOk) :
    SctRes.MemOk (State.pinFresh s cl e r) := by
  unfold State.pinFresh
  (try dsimp only)
  repeat' (first | with_reducible assumption | with_reducible apply SctRes.done_memOk | with_reducible apply SctRes.wait_memOk
                 | with_reducible exact SctRes.err_memOk | with_reducible apply State.setSct_memOk | split)

theorem State.sctPin_memOk {s : State} {cl : Nat} {r : SctReq} (hok : s.MemOk) :
    SctRes.MemOk (State.sctPin s cl r) := by
  unfold State.sctPin
  (try dsimp only)
  repeat' (first | with_reducible assumption | with_reducible apply SctRes.done_memOk | with_reducible apply SctRes.wait_memOk
                 | with_reducible exact SctRes.err_memOk | with_reducible apply State.setSct_memOk
                 | with_reducible apply State.pinFresh_memOk | simp only [State.mk_memOk] | with_reducible apply State.memOk_mem | split)

theorem State.sctTouch_memOk {s : State} {cl sid : Nat} (hok : s.MemOk) :
    SctRes.MemOk (State.sctTouch s cl sid) := by
  unfold State.sctTouch
  repeat' (first | with_reducible assumption | with_reducible apply SctRes.done_memOk | with_reducible apply SctRes.wait_memOk
                 | with_reducible exact SctRes.err_memOk | with_reducible apply State.setSct_memOk | simp only [State.mk_memOk]
                 | with_reducible apply State.memOk_mem | split)

theorem State.sctStart_memOk {s : State} {cl e : Nat} {x : Sct} (hok : s.MemOk) :
    (State.sctStart s cl e x).MemOk := by
  unfold State.sctStart
  repeat' (first | with_reducible assumption | with_reducible intro _ | with_reducible apply State.modCl_memOk
                 | with_reducible apply State.setSct_memOk)

theorem State.sctEvict_memOk {s : State} {cl sid : Nat} {r : Nat × Nat} (hok : s.MemOk) :
    SctRes.MemOk (State.sctEvict s cl sid r) := by
  unfold State.sctEvict
  repeat' (first | with_reducible assumption | with_reducible apply SctRes.done_memOk | with_reducible apply SctRes.wait_memOk
                 | with_reducible exact SctRes.err_memOk | with_reducible apply State.setSct_memOk
                 | with_reducible apply State.sctStart_memOk | simp only [State.mk_memOk] | with_reducible apply State.memOk_mem | split)

theorem State.sctExpire_memOk {s : State} {cl e : Nat} (hok : s.MemOk) :
    (State.sctExpire s cl e).MemOk := by
  unfold State.sctExpire
  (try dsimp only)
  repeat' (first | with_reducible assumption | with_reducible apply State.sctStart_memOk | split)

theorem execSctExpiry_memOk {cl e : Nat} {s : State} (hok : s.MemOk) :
    Out.MemOk (execSctExpiry cl e s) :=
  Out.next_memOk (State.sctExpire_memOk hok)

theorem State.sctTick_memOk {s : State} {cl : Nat} (hok : s.MemOk) :
    (State.sctTick s cl).MemOk := by
  unfold State.sctTick
  (try dsimp only)
  repeat' (first | with_reducible assumption | with_reducible intro _ | with_reducible apply State.modCl_memOk
                 | with_reducible apply State.sctExpire_memOk | simp only [State.mk_memOk] | with_reducible apply State.memOk_mem
                 | with_reducible apply foldl_memOk)

theorem State.sctPass_memOk {s : State} {t0 t1 : Time} (hok : s.MemOk) :
    (State.sctPass s t0 t1).MemOk := by
  unfold State.sctPass
  repeat' (first | with_reducible assumption | with_reducible intro _ | with_reducible apply State.sctTick_memOk
                 | with_reducible apply foldl_memOk | with_reducible apply foldl_fst_memOk | with_reducible apply iter_memOk)

theorem State.homeWalked_memOk {s : State} {cl : Nat} {x : Sct} {k core : Nat} {ps : List Piece} (hok : s.MemOk) :
    (State.homeWalked s cl x k core ps).MemOk := by
  unfold State.homeWalked
  (try dsimp only)
  repeat' (first | with_reducible assumption | with_reducible apply State.chargeCore_memOk | with_reducible apply State.rememberAll_memOk)

theorem State.sctLine_memOk {s : State} {cl e : Nat} (hok : s.MemOk) :
    (State.sctLine s cl e).MemOk := by
  unfold State.sctLine
  (try dsimp only)
  repeat' (first | with_reducible assumption | with_reducible intro _ | with_reducible apply State.chargeCore_memOk
                 | with_reducible apply State.spadWrite_memOk | with_reducible apply State.writeMute_memOk
                 | with_reducible apply State.setSct_memOk | with_reducible apply State.homeWalked_memOk | simp only [State.mk_memOk]
                 | with_reducible apply State.memOk_mem | split)

theorem State.sctLines_memOk {s : State} {cl e : Nat} (hok : s.MemOk) (x0 : Nat) :
    (State.sctLines s cl e x0).MemOk := by
  induction x0 generalizing s cl e
  case _ =>
    unfold State.sctLines
    repeat' (first | with_reducible assumption)
  case _ ih =>
    unfold State.sctLines
    repeat' (first | with_reducible assumption | with_reducible apply ih | with_reducible apply State.sctLine_memOk)

end Sys2Proof.Machine
end

