-- ==== Sys2Proof/Laws/MemOkModule.lean ====
section
/-!
SUPPORT. The operations of Packets, Placement, Rollback, Faults, Launch, SaveImage, Syllables, Issue, Debug, Cycle, HostRegs, Module, Place, Step keep every memory canonical.
-/

namespace Sys2Proof.Machine

/-! ## Packets -/

theorem State.readPkt_memOk {s : State} {n : Nat} (hok : s.MemOk) :
    (State.readPkt s n).MemOk := by
  unfold State.readPkt
  (try dsimp only)
  repeat' (first | with_reducible assumption | with_reducible intro _ | with_reducible apply State.modQueue_memOk
                 | with_reducible apply State.fresh_memOk | simp only [State.mk_memOk] | with_reducible apply State.memOk_mem | split)

theorem State.readAhead_memOk {s : State} {n : Nat} (hok : s.MemOk) (x0 : Nat) :
    (State.readAhead s n x0).MemOk := by
  induction x0 generalizing s n
  case _ =>
    unfold State.readAhead
    repeat' (first | with_reducible assumption)
  case _ ih =>
    unfold State.readAhead
    repeat' (first | with_reducible assumption | with_reducible apply ih | with_reducible apply State.readPkt_memOk | split)

theorem State.postDone_memOk {s : State} {n : Nat} {p : Pkt} {detail : Nat} (hok : s.MemOk) :
    (State.postDone s n p detail).MemOk := by
  unfold State.postDone
  repeat' (first | with_reducible assumption | with_reducible apply State.postEvent_memOk | split)

theorem State.closeAll_memOk {s : State} {n : Nat} (hok : s.MemOk) (x0 : Nat) :
    (State.closeAll s n x0).MemOk := by
  induction x0 generalizing s n
  case _ =>
    unfold State.closeAll
    repeat' (first | with_reducible assumption)
  case _ ih =>
    unfold State.closeAll
    (try dsimp only)
    repeat' (first | with_reducible assumption | with_reducible intro _ | with_reducible apply ih | with_reducible apply State.modQueue_memOk
                   | with_reducible apply State.postDone_memOk | simp only [State.mk_memOk] | with_reducible apply State.memOk_mem | split)

theorem State.tidy_memOk {s : State} {n : Nat} (hok : s.MemOk) :
    (State.tidy s n).MemOk := by
  unfold State.tidy
  repeat' (first | with_reducible assumption | with_reducible apply State.modQueue_memOk | with_reducible apply State.closeAll_memOk)

theorem State.pktDone_memOk {s : State} {n id detail : Nat} (hok : s.MemOk) :
    (State.pktDone s n id detail).MemOk := by
  unfold State.pktDone
  (try dsimp only)
  repeat' (first | with_reducible assumption | with_reducible intro _ | with_reducible apply State.modQueue_memOk
                 | with_reducible apply State.postDone_memOk | with_reducible apply State.tidy_memOk | simp only [State.mk_memOk]
                 | with_reducible apply State.memOk_mem | split)

theorem State.pktFail_memOk {s : State} {n id code : Nat} (hok : s.MemOk) :
    (State.pktFail s n id code).MemOk := by
  unfold State.pktFail
  (try dsimp only)
  repeat' (first | with_reducible assumption | with_reducible intro _ | with_reducible apply State.modQueue_memOk
                 | with_reducible apply State.queueErr_memOk | with_reducible apply State.tidy_memOk | simp only [State.mk_memOk]
                 | with_reducible apply State.memOk_mem | split)

theorem State.popPkt_memOk {s : State} {n : Nat} {p : Pkt} (hok : s.MemOk) :
    (State.popPkt s n p).MemOk := by
  unfold State.popPkt
  (try dsimp only)
  repeat' (first | with_reducible assumption | with_reducible intro _ | with_reducible apply State.modQueue_memOk
                 | with_reducible apply State.postDone_memOk | simp only [State.mk_memOk] | with_reducible apply State.memOk_mem | split)

theorem State.nextPkt_memOk {s : State} {n : Nat} (hok : s.MemOk) :
    (State.nextPkt s n).MemOk := by
  unfold State.nextPkt
  repeat' (first | with_reducible assumption | with_reducible apply State.readPkt_memOk | split)

theorem State.settleQueue_memOk {s : State} {n : Nat} (hok : s.MemOk) (x0 : Nat) :
    (State.settleQueue s n x0).MemOk := by
  induction x0 generalizing s n
  case _ =>
    unfold State.settleQueue
    repeat' (first | with_reducible assumption)
  case _ ih =>
    unfold State.settleQueue
    (try dsimp only)
    repeat' (first | with_reducible assumption | with_reducible intro _ | with_reducible apply ih | with_reducible apply State.modQueue_memOk
                   | with_reducible apply State.queueErr_memOk | with_reducible apply State.tidy_memOk
                   | with_reducible apply State.popPkt_memOk | with_reducible apply State.nextPkt_memOk | simp only [State.mk_memOk]
                   | with_reducible apply State.memOk_mem | split)

theorem State.packetSkip_memOk {s : State} {q : Nat} (hok : s.MemOk) : (State.packetSkip s q).MemOk := by
  unfold State.packetSkip
  exact State.settleQueue_memOk hok _

theorem State.packetRead_memOk {s : State} {n k : Nat} (hok : s.MemOk) :
    (State.packetRead s n k).MemOk := by
  unfold State.packetRead
  repeat' (first | with_reducible assumption | with_reducible apply State.readAhead_memOk | split)

theorem State.begin__memOk {s : State} {n ahead type : Nat} {eff : State → Pkt → State} (hok : s.MemOk) (h_eff : ∀ (s : State) (y0 : Pkt), s.MemOk → (eff s y0).MemOk) :
    (State.begin_ s n ahead type eff).MemOk := by
  unfold State.begin_
  (try dsimp only)
  repeat' (first | with_reducible assumption | with_reducible intro _ | with_reducible apply State.modQueue_memOk
                 | with_reducible apply State.queueErr_memOk | with_reducible apply State.readAhead_memOk
                 | with_reducible apply State.tidy_memOk | with_reducible apply State.popPkt_memOk
                 | with_reducible apply State.nextPkt_memOk | with_reducible apply State.settleQueue_memOk | with_reducible apply h_eff
                 | simp only [State.mk_memOk] | with_reducible apply State.memOk_mem | split)

theorem State.goesOn_memOk {s : State} {n : Nat} {p : Pkt} {prog : Nat} (hok : s.MemOk) :
    (State.goesOn s n p prog).MemOk := by
  unfold State.goesOn
  repeat' (first | with_reducible assumption | with_reducible intro _ | with_reducible apply State.modQueue_memOk)

theorem execNop_memOk {q ahead : Nat} {s : State} (hok : s.MemOk) :
    Out.MemOk (execNop q ahead s) := by
  unfold execNop
  repeat' (first | with_reducible assumption | with_reducible intro _ | with_reducible apply Out.next_memOk
                 | with_reducible apply State.postDone_memOk | with_reducible apply State.begin__memOk)

theorem State.predEff_memOk {s : State} {q : Nat} {p : Pkt} (hok : s.MemOk) :
    (State.predEff s q p).MemOk := by
  unfold State.predEff
  repeat' (first | with_reducible assumption | with_reducible intro _ | with_reducible apply State.modQueue_memOk
                 | with_reducible apply State.queueErr_memOk | with_reducible apply State.postDone_memOk | simp only [State.mk_memOk]
                 | with_reducible apply State.memOk_mem | split)

theorem execPred_memOk {q ahead : Nat} {s : State} (hok : s.MemOk) :
    Out.MemOk (execPred q ahead s) := by
  unfold execPred
  repeat' (first | with_reducible assumption | with_reducible intro _ | with_reducible apply Out.next_memOk
                 | with_reducible apply State.begin__memOk | with_reducible apply State.predEff_memOk)

theorem State.loopEff_memOk {s : State} {q : Nat} {p : Pkt} (hok : s.MemOk) :
    (State.loopEff s q p).MemOk := by
  unfold State.loopEff
  repeat' (first | with_reducible assumption | with_reducible intro _ | with_reducible apply State.modQueue_memOk
                 | with_reducible apply State.postDone_memOk | with_reducible apply State.goesOn_memOk | simp only [State.mk_memOk]
                 | with_reducible apply State.memOk_mem | split)

theorem execLoop_memOk {q ahead : Nat} {s : State} (hok : s.MemOk) :
    Out.MemOk (execLoop q ahead s) := by
  unfold execLoop
  repeat' (first | with_reducible assumption | with_reducible intro _ | with_reducible apply Out.next_memOk
                 | with_reducible apply State.begin__memOk | with_reducible apply State.loopEff_memOk)

theorem execIndir_memOk {q ahead : Nat} {s : State} (hok : s.MemOk) :
    Out.MemOk (execIndir q ahead s) := by
  unfold execIndir
  repeat' (first | with_reducible assumption | with_reducible intro _ | with_reducible apply Out.next_memOk
                 | with_reducible apply State.begin__memOk | with_reducible apply State.goesOn_memOk)

theorem execFfence_memOk {q ahead : Nat} {s : State} (hok : s.MemOk) :
    Out.MemOk (execFfence q ahead s) := by
  unfold execFfence
  repeat' (first | with_reducible assumption | with_reducible intro _ | with_reducible apply Out.next_memOk
                 | with_reducible apply State.modQueue_memOk | with_reducible apply State.postDone_memOk
                 | with_reducible apply State.begin__memOk)

theorem execAtPkt_memOk {q ahead : Nat} {s : State} (hok : s.MemOk) :
    Out.MemOk (execAtPkt q ahead s) := by
  unfold execAtPkt
  repeat' (first | with_reducible assumption | with_reducible intro _ | with_reducible apply Out.next_memOk
                 | with_reducible apply State.begin__memOk | with_reducible apply State.goesOn_memOk)

theorem execEvent_memOk {q ahead : Nat} {s : State} (hok : s.MemOk) :
    Out.MemOk (execEvent q ahead s) := by
  unfold execEvent
  repeat' (first | with_reducible assumption | with_reducible intro _ | with_reducible apply Out.next_memOk
                 | with_reducible apply State.postEvent_memOk | with_reducible apply State.postDone_memOk
                 | with_reducible apply State.begin__memOk)

theorem State.signalEff_memOk {s : State} {q : Nat} {p : Pkt} (hok : s.MemOk) :
    (State.signalEff s q p).MemOk := by
  unfold State.signalEff
  (try dsimp only)
  repeat' (first | with_reducible assumption | with_reducible apply State.queueErr_memOk | with_reducible apply State.writeMute_memOk
                 | with_reducible apply State.postDone_memOk | simp only [State.mk_memOk] | with_reducible apply State.memOk_mem
                 | with_reducible apply Mem.mk_wf | with_reducible apply State.memOk_hbm | with_reducible apply State.memOk_host
                 | with_reducible apply State.memOk_spad | with_reducible apply State.memOk_imem | with_reducible apply State.memOk_lining
                 | with_reducible apply Memory.write_wf | with_reducible apply Memory.hostPut_wf | with_reducible apply Memory.putAll_wf
                 | with_reducible apply Memory.writeN_wf | with_reducible apply Memory.foldl_wf | split)

theorem execSignal_memOk {q ahead : Nat} {s : State} (hok : s.MemOk) :
    Out.MemOk (execSignal q ahead s) := by
  unfold execSignal
  repeat' (first | with_reducible assumption | with_reducible intro _ | with_reducible apply Out.next_memOk
                 | with_reducible apply State.begin__memOk | with_reducible apply State.signalEff_memOk)

theorem State.waitsigEff_memOk {s : State} {q : Nat} {p : Pkt} (hok : s.MemOk) :
    (State.waitsigEff s q p).MemOk := by
  unfold State.waitsigEff
  repeat' (first | with_reducible assumption | with_reducible apply State.queueErr_memOk | with_reducible apply State.goesOn_memOk
                 | simp only [State.mk_memOk] | with_reducible apply State.memOk_mem | split)

theorem execWaitsig_memOk {q ahead : Nat} {s : State} (hok : s.MemOk) :
    Out.MemOk (execWaitsig q ahead s) := by
  unfold execWaitsig
  repeat' (first | with_reducible assumption | with_reducible intro _ | with_reducible apply Out.next_memOk
                 | with_reducible apply State.begin__memOk | with_reducible apply State.waitsigEff_memOk)

theorem State.waitsigHold_memOk {s : State} {q : Nat} (hok : s.MemOk) :
    (State.waitsigHold s q).MemOk := by
  unfold State.waitsigHold
  repeat' (first | with_reducible assumption | with_reducible intro _ | with_reducible apply State.pktDone_memOk
                 | with_reducible apply State.pktFail_memOk | simp only [State.mk_memOk] | with_reducible apply State.memOk_mem | split)

theorem execWaitsigHolds_memOk {q : Nat} {s : State} (hok : s.MemOk) :
    Out.MemOk (execWaitsigHolds q s) :=
  Out.next_memOk (State.waitsigHold_memOk hok)

theorem State.waitsigLate_memOk {s : State} {q : Nat} (hok : s.MemOk) :
    (State.waitsigLate s q).MemOk := by
  unfold State.waitsigLate
  repeat' (first | with_reducible assumption | with_reducible intro _ | with_reducible apply State.queueErr_memOk
                 | with_reducible apply State.pktDone_memOk | simp only [State.mk_memOk] | with_reducible apply State.memOk_mem | split)

theorem execWaitsigTimeout_memOk {q : Nat} {s : State} (hok : s.MemOk) :
    Out.MemOk (execWaitsigTimeout q s) :=
  Out.next_memOk (State.waitsigLate_memOk hok)

theorem State.taskPush_memOk {s : State} {q : Nat} {b : Begun} (hok : s.MemOk) (x0 : Nat) :
    (State.taskPush s q b x0).MemOk := by
  induction x0 generalizing s q b
  case _ =>
    unfold State.taskPush
    repeat' (first | with_reducible assumption)
  case _ ih =>
    unfold State.taskPush
    (try dsimp only)
    repeat' (first | with_reducible assumption | with_reducible intro _ | with_reducible apply ih | with_reducible apply State.modQueue_memOk
                   | with_reducible apply State.fresh_memOk | with_reducible apply State.pushInTurn_memOk
                   | with_reducible apply State.counterAdd_memOk | with_reducible apply State.addWait_memOk
                   | with_reducible apply State.dropWait_memOk | with_reducible apply State.pktDone_memOk
                   | with_reducible apply State.pktFail_memOk | simp only [State.mk_memOk] | with_reducible apply State.memOk_mem | split
                   | refine State.pushInTurn_memOk ?_ _ (by assumption))

theorem State.taskAct_memOk {s : State} {q ahead : Nat} (hok : s.MemOk) :
    (State.taskAct s q ahead).MemOk := by
  unfold State.taskAct
  repeat' (first | with_reducible assumption | with_reducible intro _ | with_reducible apply State.begin__memOk
                 | with_reducible apply State.goesOn_memOk | with_reducible apply State.taskPush_memOk | simp only [State.mk_memOk]
                 | with_reducible apply State.memOk_mem | split)

theorem execTask_memOk {q ahead : Nat} {s : State} (hok : s.MemOk) :
    Out.MemOk (execTask q ahead s) :=
  Out.next_memOk (State.taskAct_memOk hok)

theorem State.sctEff_memOk {q : Nat} {p : Pkt} {r : State → SctRes} {s : State} (hr : ∀ s, s.MemOk → SctRes.MemOk (r s))
    (hok : s.MemOk) : (State.sctEff q p r s).MemOk := by
  unfold State.sctEff
  have k := hr _ (State.goesOn_memOk hok (s := s) (n := q) (p := p) (prog := 0))
  split
  · exact State.pktDone_memOk (k _ (.inl ‹_›))
  · exact k _ (.inr ‹_›)
  · exact State.queueErr_memOk hok

theorem State.streamBegin_memOk {s : State} {q ahead op : Nat} {r : Pkt → State → SctRes}
    (hr : ∀ p s, s.MemOk → SctRes.MemOk (r p s)) (hok : s.MemOk) : (State.streamBegin s q ahead op r).MemOk := by
  unfold State.streamBegin
  split
  · exact State.begin__memOk hok (fun s p h => State.sctEff_memOk (hr p) h)
  · exact hok

theorem execStreamPin_memOk {q ahead : Nat} {s : State} (hok : s.MemOk) : Out.MemOk (execStreamPin q ahead s) :=
  Out.next_memOk (State.streamBegin_memOk (fun _ _ h => State.sctPin_memOk h) hok)

theorem execStreamTouch_memOk {q ahead : Nat} {s : State} (hok : s.MemOk) : Out.MemOk (execStreamTouch q ahead s) :=
  Out.next_memOk (State.streamBegin_memOk (fun _ _ h => State.sctTouch_memOk h) hok)

theorem execStreamEvict_memOk {q ahead : Nat} {s : State} (hok : s.MemOk) : Out.MemOk (execStreamEvict q ahead s) :=
  Out.next_memOk (State.streamBegin_memOk (fun _ _ h => State.sctEvict_memOk h) hok)

theorem State.sctWake_memOk {s : State} {cl : Nat} {reqs : List (Nat × Nat)} {failed : Bool} (hok : s.MemOk) :
    (State.sctWake s cl reqs failed).MemOk := by
  unfold State.sctWake
  refine foldl_memOk (fun s x h => ?_) hok
  split
  · exact h
  · have k := @State.sctPin_memOk s cl
    repeat' (first | with_reducible assumption | with_reducible apply State.pktDone_memOk | with_reducible apply State.pktFail_memOk | (exact k h _ (.inl ‹_›)) | (exact k h _ (.inr ‹_›)) | split)

theorem State.evictDone_memOk {s : State} {cl e : Nat} (hok : s.MemOk) :
    (State.evictDone s cl e).MemOk := by
  unfold State.evictDone
  (try dsimp only)
  repeat' (first | with_reducible assumption | with_reducible intro _ | with_reducible apply State.modCl_memOk
                 | with_reducible apply State.postEvent_memOk | with_reducible apply State.setSct_memOk
                 | with_reducible apply State.sctWake_memOk | simp only [State.mk_memOk] | with_reducible apply State.memOk_mem | split)

theorem execEvictionDone_memOk {cl e : Nat} {s : State} (hok : s.MemOk) :
    Out.MemOk (execEvictionDone cl e s) :=
  Out.next_memOk (State.evictDone_memOk hok)

theorem State.evictFail_memOk {s : State} {cl e : Nat} (hok : s.MemOk) :
    (State.evictFail s cl e).MemOk := by
  unfold State.evictFail
  (try dsimp only)
  repeat' (first | with_reducible assumption | with_reducible intro _ | with_reducible apply State.modCl_memOk
                 | with_reducible apply State.postEvent_memOk | with_reducible apply State.setSct_memOk
                 | with_reducible apply State.sctWake_memOk | simp only [State.mk_memOk] | with_reducible apply State.memOk_mem | split)

theorem execEvictionFailed_memOk {cl e : Nat} {s : State} (hok : s.MemOk) :
    Out.MemOk (execEvictionFailed cl e s) :=
  Out.next_memOk (State.evictFail_memOk hok)

theorem State.sctAct_memOk {s : State} {cl e n : Nat} (hok : s.MemOk) :
    (State.sctAct s cl e n).MemOk := by
  unfold State.sctAct
  (try dsimp only)
  repeat' (first | with_reducible assumption | with_reducible intro _ | with_reducible apply State.setSct_memOk
                 | with_reducible apply State.sctLines_memOk | with_reducible apply State.pktDone_memOk
                 | with_reducible apply State.pktFail_memOk | simp only [State.mk_memOk] | with_reducible apply State.memOk_mem
                 | with_reducible apply foldl_memOk | with_reducible apply foldl_fst_memOk | split)

theorem State.tailWrite_memOk {s : State} {n v : Nat} (hok : s.MemOk) :
    (State.tailWrite s n v).MemOk := by
  unfold State.tailWrite
  (try dsimp only)
  repeat' (first | with_reducible assumption | with_reducible intro _ | with_reducible apply State.modQueue_memOk
                 | with_reducible apply State.queueErr_memOk | simp only [State.mk_memOk] | with_reducible apply State.memOk_mem | split)

theorem execQtailWrite_memOk {q v : Nat} {s : State} (hok : s.MemOk) :
    Out.MemOk (execQtailWrite q v s) := by
  unfold execQtailWrite
  repeat' (first | with_reducible assumption | with_reducible intro _ | with_reducible apply Out.next_memOk
                 | with_reducible apply State.ifOpen_memOk | with_reducible apply State.tailWrite_memOk)

theorem State.enable_memOk {s : State} {n : Nat} (hok : s.MemOk) :
    (State.enable s n).MemOk := by
  unfold State.enable
  (try dsimp only)
  repeat' (first | with_reducible assumption | with_reducible intro _ | with_reducible apply State.modQueue_memOk
                 | simp only [State.mk_memOk] | with_reducible apply State.memOk_mem | split)

theorem execQueueEnable_memOk {q : Nat} {s : State} (hok : s.MemOk) :
    Out.MemOk (execQueueEnable q s) := by
  unfold execQueueEnable
  repeat' (first | with_reducible assumption | with_reducible intro _ | with_reducible apply Out.next_memOk
                 | with_reducible apply State.ifOpen_memOk | with_reducible apply State.enable_memOk)

theorem State.disable_memOk {s : State} {n : Nat} (hok : s.MemOk) :
    (State.disable s n).MemOk := by
  unfold State.disable
  (try dsimp only)
  repeat' (first | with_reducible assumption | with_reducible intro _ | with_reducible apply State.modQueue_memOk
                 | with_reducible apply State.tidy_memOk | simp only [State.mk_memOk] | with_reducible apply State.memOk_mem | split)

theorem execQueueDisable_memOk {q : Nat} {s : State} (hok : s.MemOk) :
    Out.MemOk (execQueueDisable q s) := by
  unfold execQueueDisable
  repeat' (first | with_reducible assumption | with_reducible intro _ | with_reducible apply Out.next_memOk
                 | with_reducible apply State.ifOpen_memOk | with_reducible apply State.disable_memOk)

theorem execQstatClear_memOk {q : Nat} {s : State} (hok : s.MemOk) :
    Out.MemOk (execQstatClear q s) := by
  unfold execQstatClear
  repeat' (first | with_reducible assumption | with_reducible intro _ | with_reducible apply Out.next_memOk
                 | with_reducible apply State.modQueue_memOk | with_reducible apply State.ifOpen_memOk)

theorem State.evhead_memOk {s : State} {v : Nat} (hok : s.MemOk) :
    (State.evhead s v).MemOk := by
  unfold State.evhead
  (try dsimp only)
  repeat' (first | with_reducible assumption | simp only [State.mk_memOk] | with_reducible apply State.memOk_mem | split)

theorem execEvheadWrite_memOk {v : Nat} {s : State} (hok : s.MemOk) :
    Out.MemOk (execEvheadWrite v s) := by
  unfold execEvheadWrite
  repeat' (first | with_reducible assumption | with_reducible intro _ | with_reducible apply Out.next_memOk
                 | with_reducible apply State.ifOpen_memOk | with_reducible apply State.evhead_memOk)

theorem execTrheadWrite_memOk {cl v : Nat} {s : State} (hok : s.MemOk) :
    Out.MemOk (execTrheadWrite cl v s) := by
  unfold execTrheadWrite
  (try dsimp only)
  repeat' (first | with_reducible assumption | with_reducible intro _ | with_reducible apply Out.next_memOk
                 | with_reducible apply State.modCl_memOk | with_reducible apply State.ifOpen_memOk)

/-! ## Placement -/

theorem State.prepareHeld_memOk {s : State} {q : Nat} (hok : s.MemOk) :
    (State.prepareHeld s q).MemOk := by
  unfold State.prepareHeld
  (try dsimp only)
  repeat' (first | with_reducible assumption | with_reducible intro _ | with_reducible apply State.modQueue_memOk
                 | with_reducible apply State.nextPkt_memOk | simp only [State.mk_memOk] | with_reducible apply State.memOk_mem | split)

theorem State.atReached_memOk {s : State} {q : Nat} (hok : s.MemOk) :
    (State.atReached s q).MemOk := by
  unfold State.atReached
  (try dsimp only)
  repeat' (first | with_reducible assumption | with_reducible intro _ | with_reducible apply State.modQueue_memOk
                 | with_reducible apply State.prepareHeld_memOk | simp only [State.mk_memOk] | with_reducible apply State.memOk_mem | split)

theorem execAtTimeReached_memOk {q : Nat} {s : State} (hok : s.MemOk) :
    Out.MemOk (execAtTimeReached q s) :=
  Out.next_memOk (State.atReached_memOk hok)

/-! ## Rollback -/

theorem State.mapOut_memOk {s : State} (hok : s.MemOk) (x0 : ErrUnit) :
    (State.mapOut s x0).1.MemOk := by
  unfold State.mapOut
  (try dsimp only)
  repeat' (first | with_reducible assumption | with_reducible intro _ | with_reducible apply State.modAux_memOk
                 | with_reducible apply State.postEvent_memOk | simp only [State.mk_memOk] | with_reducible apply State.memOk_mem | split)

theorem State.rollBase_memOk {s : State} {ms : List Nat} {mark : Nat} (hok : s.MemOk) :
    (State.rollBase s ms mark).MemOk := by
  unfold State.rollBase
  (try dsimp only)
  repeat' (first | with_reducible assumption | with_reducible intro _ | with_reducible apply State.modCl_memOk | simp only [State.mk_memOk]
                 | with_reducible apply State.memOk_mem | with_reducible apply foldl_memOk)

theorem State.rollCore_memOk {s : State} {ms : List Nat} {team core : Nat} (hok : s.MemOk) :
    (State.rollCore s ms team core).MemOk := by
  unfold State.rollCore
  (try dsimp only)
  repeat' (first | with_reducible assumption | with_reducible apply State.setCore_memOk | with_reducible apply State.spadRaw_memOk | split)

theorem State.rollCtx_memOk {s : State} {hw : Nat} (hok : s.MemOk) :
    (State.rollCtx s hw).MemOk := by
  unfold State.rollCtx
  repeat' (first | with_reducible assumption | with_reducible apply State.setCtx_memOk | simp only [State.mk_memOk]
                 | with_reducible apply State.memOk_mem | split)

theorem State.rollback_memOk {s : State} {ms : List Nat} {cl team mark : Nat} (hok : s.MemOk) :
    (State.rollback s ms cl team mark).MemOk := by
  unfold State.rollback
  (try dsimp only)
  repeat' (first | with_reducible assumption | with_reducible intro _ | with_reducible apply State.modCl_memOk
                 | with_reducible apply State.rollBase_memOk | with_reducible apply State.rollCore_memOk
                 | with_reducible apply State.rollCtx_memOk | with_reducible apply foldl_memOk)

theorem State.rollStop_memOk {s : State} {ms : List Nat} {cl : Nat} {r : Roll} (hok : s.MemOk) :
    (State.rollStop s ms cl r).MemOk := by
  unfold State.rollStop
  (try dsimp only)
  repeat' (first | with_reducible assumption | with_reducible intro _ | with_reducible apply State.modCtx_memOk
                 | with_reducible apply State.modCore_memOk | with_reducible apply State.modCl_memOk
                 | with_reducible apply State.leavePrimary_memOk | with_reducible apply State.switchNext_memOk
                 | with_reducible apply State.dropAsks_memOk | simp only [State.mk_memOk] | with_reducible apply State.memOk_mem
                 | with_reducible apply foldl_memOk)

theorem State.rollEnd_memOk {s : State} {cl : Nat} {r : Roll} (hok : s.MemOk) :
    (State.rollEnd s cl r).MemOk := by
  unfold State.rollEnd
  repeat' (first | with_reducible assumption | with_reducible apply State.mapOut_memOk | with_reducible apply State.rollback_memOk | split)

theorem State.rollAct_memOk {s : State} {hw : Nat} (hok : s.MemOk) :
    (State.rollAct s hw).MemOk := by
  unfold State.rollAct
  repeat' (first | with_reducible assumption | with_reducible apply State.rollEnd_memOk | simp only [State.mk_memOk]
                 | with_reducible apply State.memOk_mem | split)

theorem State.eccu_memOk {s : State} {ms : List Nat} {addr : Nat} {reader : Option Nat} (hok : s.MemOk) :
    (State.eccu s ms addr reader).MemOk := by
  unfold State.eccu
  (try dsimp only)
  repeat' (first | with_reducible assumption | with_reducible intro _ | with_reducible apply State.modCtx_memOk
                 | with_reducible apply State.raise_memOk | simp only [State.mk_memOk] | with_reducible apply State.memOk_mem
                 | with_reducible apply foldl_memOk | with_reducible apply foldl_fst_memOk | split)

theorem State.stored_memOk {s : State} {hw : Option Nat} {addr : Nat} {unit : ErrUnit} (hok : s.MemOk) :
    (State.stored s hw addr unit).MemOk := by
  unfold State.stored
  (try dsimp only)
  repeat' (first | with_reducible assumption | with_reducible intro _ | with_reducible apply State.modCtx_memOk
                 | with_reducible apply State.drawn_memOk | with_reducible apply State.spadRaw_memOk
                 | with_reducible apply State.acsWrite_memOk | simp only [State.mk_memOk] | with_reducible apply State.memOk_mem
                 | with_reducible apply Mem.mk_wf | with_reducible apply State.memOk_hbm | with_reducible apply State.memOk_host
                 | with_reducible apply State.memOk_spad | with_reducible apply State.memOk_imem | with_reducible apply State.memOk_lining
                 | with_reducible apply Memory.write_wf | with_reducible apply Memory.hostPut_wf | with_reducible apply Memory.putAll_wf
                 | with_reducible apply Memory.writeN_wf | with_reducible apply Memory.foldl_wf | split)

theorem State.teamError_memOk {s : State} {hw addr : Nat} {unit : ErrUnit} {bundle : Bool} (hok : s.MemOk) :
    (State.teamError s hw addr unit bundle).MemOk := by
  unfold State.teamError
  (try dsimp only)
  repeat' (first | with_reducible assumption | with_reducible apply State.drawn_memOk | with_reducible apply State.mapOut_memOk
                 | with_reducible apply State.rollStop_memOk | with_reducible apply State.rollEnd_memOk
                 | with_reducible apply State.eccu_memOk | with_reducible apply State.stored_memOk | simp only [State.mk_memOk]
                 | with_reducible apply State.memOk_mem | split)

/-! ## Faults -/

theorem State.engineAct_memOk {s : State} (hok : s.MemOk) (x0 : EngineAct) :
    (State.engineAct s x0).MemOk := by
  unfold State.engineAct
  repeat' (first | with_reducible assumption | with_reducible intro _ | with_reducible apply State.ifOpen_memOk
                 | with_reducible apply State.imageLines_memOk | with_reducible apply State.slotLines_memOk
                 | with_reducible apply State.copyReads_memOk | with_reducible apply State.copyWrites_memOk
                 | with_reducible apply State.linkRead_memOk | with_reducible apply State.preloadLines_memOk
                 | with_reducible apply State.debugBit_memOk | with_reducible apply State.keyHeld_memOk
                 | with_reducible apply State.elementsAct_memOk | with_reducible apply State.earlyAct_memOk
                 | with_reducible apply State.nlAct_memOk | with_reducible apply State.cmdAct_memOk
                 | with_reducible apply State.sctLines_memOk | with_reducible apply State.packetSkip_memOk
                 | with_reducible apply State.packetRead_memOk | with_reducible apply State.sctAct_memOk
                 | with_reducible apply State.prepareHeld_memOk | with_reducible apply State.rollback_memOk
                 | with_reducible apply State.rollAct_memOk | split)

theorem State.engineDo_memOk {s : State} {e : EngineAct} (hok : s.MemOk) :
    (State.engineDo s e).MemOk := by
  unfold State.engineDo
  (try dsimp only)
  repeat' (first | with_reducible assumption | with_reducible apply State.engineAct_memOk | split)

theorem State.engineFault_memOk {s : State} {e : EngineAct} (hok : s.MemOk) :
    (State.engineFault s e).MemOk := by
  unfold State.engineFault
  (try dsimp only)
  repeat' (first | with_reducible assumption | with_reducible apply State.emitWalked_memOk | with_reducible apply State.engineAct_memOk
                 | simp only [State.mk_memOk] | with_reducible apply State.memOk_mem | split)

theorem State.emitNext_memOk {s : State} {cl n : Nat} (hok : s.MemOk) :
    (State.emitNext s cl n).MemOk := by
  unfold State.emitNext
  (try dsimp only)
  repeat' (first | with_reducible assumption | with_reducible apply State.emitCopy_memOk | split)

theorem execEngineCommandComplete_memOk {e : EngineAct} {s : State} (hok : s.MemOk) :
    Out.MemOk (execEngineCommandComplete e s) :=
  Out.next_memOk (State.engineDo_memOk hok)

theorem execEngineMajorFault_memOk {e : EngineAct} {s : State} (hok : s.MemOk) :
    Out.MemOk (execEngineMajorFault e s) :=
  Out.next_memOk (State.engineFault_memOk hok)

theorem execElementaryCopyEmit_memOk {cl slot : Nat} {s : State} (hok : s.MemOk) :
    Out.MemOk (execElementaryCopyEmit cl slot s) :=
  Out.next_memOk (State.emitNext_memOk hok)

theorem State.pageWalk_memOk {s : State} {cl eng asid va : Nat} {write : Bool} (hok : s.MemOk) :
    (State.pageWalk s cl eng asid va write).MemOk := by
  unfold State.pageWalk
  (try dsimp only)
  repeat' (first | with_reducible assumption | with_reducible apply State.dropTlb_memOk | with_reducible apply State.chargeWalk_memOk
                 | with_reducible apply State.remember_memOk | simp only [State.mk_memOk] | with_reducible apply State.memOk_mem | split)

theorem execPageWalk_memOk {cl eng asid va : Nat} {write : Bool} {s : State} (hok : s.MemOk) :
    Out.MemOk (execPageWalk cl eng asid va write s) :=
  Out.next_memOk (State.pageWalk_memOk hok)

theorem State.minorFault_memOk {s : State} {hw va : Nat} {write : Bool} {eng : Nat} (hok : s.MemOk) :
    (State.minorFault s hw va write eng).MemOk := by
  unfold State.minorFault
  (try dsimp only)
  repeat' (first | with_reducible assumption | with_reducible intro _ | with_reducible apply State.setCore_memOk
                 | with_reducible apply State.chargeWalk_memOk | simp only [State.mk_memOk] | with_reducible apply State.memOk_mem | split)

theorem execMinorFault_memOk {hw va : Nat} {write : Bool} {eng : Nat} {s : State} (hok : s.MemOk) :
    Out.MemOk (execMinorFault hw va write eng s) :=
  Out.next_memOk (State.minorFault_memOk hok)

theorem State.lnCommit_memOk {s : State} {core hw : Nat} {b : LnBundle} (h0 : s.MemOk) : (State.lnCommit s core hw b).MemOk := by
  have hok := State.charge_memOk (hw := seatOf hw) (code := 12) (n := b.mem) h0
  unfold State.lnCommit
  dsimp only
  apply State.modAux_memOk
  simp only [State.mk_memOk]
  refine Mem.mk_wf (Memory.foldl_keeps (fun m x h => ?_) (State.memOk_hbm hok)) (State.memOk_host hok) (State.memOk_spad hok)
    (State.memOk_imem hok) (State.memOk_lining hok)
  split
  · exact Memory.writeN_wf _ _ _ h
  · exact h

theorem State.dropHold_memOk {s : State} {core : Nat} {h : Hold} (hok : s.MemOk) :
    (State.dropHold s core h).MemOk := by
  unfold State.dropHold
  repeat' (first | with_reducible assumption | with_reducible intro _ | with_reducible apply State.modCore_memOk)

theorem State.lnStop_memOk {s : State} {core : Nat} (hok : s.MemOk) :
    (State.lnStop s core).MemOk := by
  unfold State.lnStop
  (try dsimp only)
  repeat' (first | with_reducible assumption | with_reducible intro _ | with_reducible apply State.modAux_memOk
                 | simp only [State.mk_memOk] | with_reducible apply State.memOk_mem | with_reducible apply Mem.mk_wf
                 | with_reducible apply State.memOk_hbm | with_reducible apply State.memOk_host | with_reducible apply State.memOk_spad
                 | with_reducible apply State.memOk_imem | with_reducible apply State.memOk_lining | with_reducible apply Memory.write_wf
                 | with_reducible apply Memory.hostPut_wf | with_reducible apply Memory.putAll_wf)

theorem State.escalate_memOk {s : State} {core : Nat} {h : Hold} {code : Nat} (hok : s.MemOk) :
    (State.escalate s core h code).MemOk := by
  unfold State.escalate
  (try dsimp only)
  repeat' (first | with_reducible assumption | with_reducible intro _ | with_reducible apply State.modAux_memOk
                 | with_reducible apply State.failReq_memOk | with_reducible apply State.dropHold_memOk
                 | with_reducible apply State.lnStop_memOk | simp only [State.mk_memOk] | with_reducible apply State.memOk_mem | split)

theorem State.liningRun_memOk {s : State} {core : Nat} (hok : s.MemOk) :
    (State.liningRun s core).MemOk := by
  unfold State.liningRun
  (try dsimp only)
  repeat' (first | with_reducible assumption | with_reducible intro _ | with_reducible apply State.modAux_memOk
                 | with_reducible apply State.lnCommit_memOk | with_reducible apply State.escalate_memOk | simp only [State.mk_memOk]
                 | with_reducible apply State.memOk_mem | split)

theorem execLiningRun_memOk {core : Nat} {s : State} (hok : s.MemOk) :
    Out.MemOk (execLiningRun core s) :=
  Out.next_memOk (State.liningRun_memOk hok)

theorem State.rewalk_memOk {s : State} {core : Nat} {h : Hold} (hok : s.MemOk) :
    (State.rewalk s core h).MemOk := by
  unfold State.rewalk
  repeat' (first | with_reducible assumption | with_reducible intro _ | with_reducible apply State.modCore_memOk
                 | with_reducible apply State.chargeWalk_memOk | with_reducible apply State.dropHold_memOk | simp only [State.mk_memOk]
                 | with_reducible apply State.memOk_mem | split)

theorem State.liningEnd_memOk {s : State} {core : Nat} (hok : s.MemOk) :
    (State.liningEnd s core).MemOk := by
  unfold State.liningEnd
  (try dsimp only)
  repeat' (first | with_reducible assumption | with_reducible apply State.lnCommit_memOk | with_reducible apply State.lnStop_memOk
                 | with_reducible apply State.escalate_memOk | with_reducible apply State.rewalk_memOk | simp only [State.mk_memOk]
                 | with_reducible apply State.memOk_mem | split)

theorem execLiningEnd_memOk {core : Nat} {s : State} (hok : s.MemOk) :
    Out.MemOk (execLiningEnd core s) :=
  Out.next_memOk (State.liningEnd_memOk hok)

theorem State.streamDeliver_memOk {s : State} {core : Nat} (hok : s.MemOk) :
    (State.streamDeliver s core).MemOk := by
  unfold State.streamDeliver
  (try dsimp only)
  repeat' (first | with_reducible assumption | with_reducible intro _ | with_reducible apply State.raiseOnce_memOk
                 | with_reducible apply State.trapWith_memOk | with_reducible apply State.modSlot_memOk | simp only [State.mk_memOk]
                 | with_reducible apply State.memOk_mem | with_reducible apply foldl_memOk | with_reducible apply foldl_fst_memOk | split)

theorem execStreamFaultDeliver_memOk {core : Nat} {s : State} (hok : s.MemOk) :
    Out.MemOk (execStreamFaultDeliver core s) :=
  Out.next_memOk (State.streamDeliver_memOk hok)

/-! ## Launch -/

theorem State.loadSegs_memOk {s : State} {launch asid : Nat} {gs : List (MapSeg × List Byte)} (hok : s.MemOk) :
    (State.loadSegs s launch asid gs).MemOk := by
  unfold State.loadSegs
  (try dsimp only)
  repeat' (first | with_reducible assumption | with_reducible intro _ | with_reducible apply State.modCore_memOk
                 | with_reducible apply State.imemWrite_memOk | simp only [State.mk_memOk] | with_reducible apply State.memOk_mem
                 | with_reducible apply foldl_memOk | with_reducible apply foldl_fst_memOk | split)

theorem State.setAside_memOk {s : State} {hw : Nat} (hok : s.MemOk) :
    (State.setAside s hw).MemOk := by
  unfold State.setAside
  (try dsimp only)
  repeat' (first | with_reducible assumption | with_reducible intro _ | with_reducible apply State.modCore_memOk
                 | with_reducible apply State.modCl_memOk | simp only [State.mk_memOk] | with_reducible apply State.memOk_mem | split)

theorem State.startCtx_memOk {s0 : State} {m : PlaceMap} {launch asid : Nat} {c : MapCtx} (hok : s0.MemOk) :
    (State.startCtx s0 m launch asid c).MemOk := by
  unfold State.startCtx
  (try dsimp only)
  repeat' (first | with_reducible assumption | with_reducible intro _ | with_reducible apply State.setCtx_memOk
                 | with_reducible apply State.fresh_memOk | with_reducible apply State.setSlot_memOk
                 | with_reducible apply State.setAside_memOk | simp only [State.mk_memOk] | with_reducible apply State.memOk_mem
                 | with_reducible apply foldl_memOk)

theorem State.startQueue_memOk {s : State} {m : PlaceMap} {launch : Nat} {q : MapQ} (hok : s.MemOk) :
    (State.startQueue s m launch q).MemOk := by
  unfold State.startQueue
  repeat' (first | with_reducible assumption | with_reducible apply State.setTaskQ_memOk | simp only [State.mk_memOk]
                 | with_reducible apply State.memOk_mem | split)

theorem State.launchStart_memOk {s : State} {q : Nat} {p : Pkt} {m : PlaceMap} {asid : Nat} (hok : s.MemOk) :
    (State.launchStart s q p m asid).MemOk := by
  unfold State.launchStart
  (try dsimp only)
  repeat' (first | with_reducible assumption | with_reducible intro _ | with_reducible apply State.modCl_memOk
                 | with_reducible apply State.startCtx_memOk | with_reducible apply State.startQueue_memOk | simp only [State.mk_memOk]
                 | with_reducible apply State.memOk_mem | with_reducible apply foldl_memOk)

theorem State.launchEff_memOk {s : State} {q : Nat} {r : Option Prep} {p : Pkt} (hok : s.MemOk) :
    (State.launchEff s q r p).MemOk := by
  unfold State.launchEff
  (try dsimp only)
  repeat' (first | with_reducible assumption | with_reducible apply State.queueErr_memOk | with_reducible apply State.goesOn_memOk
                 | with_reducible apply State.loadSegs_memOk | with_reducible apply State.launchStart_memOk | simp only [State.mk_memOk]
                 | with_reducible apply State.memOk_mem | split)

theorem execLaunch_memOk {q ahead : Nat} {s : State} (hok : s.MemOk) :
    Out.MemOk (execLaunch q ahead s) := by
  unfold execLaunch
  repeat' (first | with_reducible assumption | with_reducible intro _ | with_reducible apply Out.next_memOk
                 | with_reducible apply State.begin__memOk | with_reducible apply State.launchEff_memOk)

theorem State.launchFree_memOk {s : State} {l : Launch} (hok : s.MemOk) :
    (State.launchFree s l).MemOk := by
  unfold State.launchFree
  (try dsimp only)
  repeat' (first | with_reducible assumption | with_reducible intro _ | with_reducible apply State.modCtx_memOk
                 | with_reducible apply State.modCore_memOk | with_reducible apply State.modCl_memOk | simp only [State.mk_memOk]
                 | with_reducible apply State.memOk_mem | with_reducible apply foldl_memOk | with_reducible apply foldl_fst_memOk | split)

theorem State.launchDone_memOk {s : State} {n : Nat} (hok : s.MemOk) :
    (State.launchDone s n).MemOk := by
  unfold State.launchDone
  repeat' (first | with_reducible assumption | with_reducible intro _ | with_reducible apply State.pktDone_memOk
                 | with_reducible apply State.launchFree_memOk | simp only [State.mk_memOk] | with_reducible apply State.memOk_mem | split)

theorem execLaunchComplete_memOk {n : Nat} {s : State} (hok : s.MemOk) :
    Out.MemOk (execLaunchComplete n s) :=
  Out.next_memOk (State.launchDone_memOk hok)

/-! ## SaveImage -/

theorem State.saveStart_memOk {s : State} {hw : Nat} {push : Bool} (hok : s.MemOk) :
    (State.saveStart s hw push).MemOk := by
  unfold State.saveStart
  (try dsimp only)
  repeat' (first | with_reducible assumption | with_reducible intro _ | with_reducible apply State.modCtx_memOk
                 | with_reducible apply State.fresh_memOk | with_reducible apply State.leavePrimary_memOk
                 | with_reducible apply State.leaveBars_memOk | with_reducible apply State.cutProducts_memOk
                 | with_reducible apply State.saveFail_memOk | with_reducible apply State.emptyJobs_memOk
                 | with_reducible apply State.dropResume_memOk | simp only [State.mk_memOk] | with_reducible apply State.memOk_mem | split)

theorem State.saveClear_memOk {s : State} {hw : Nat} (hok : s.MemOk) :
    (State.saveClear s hw).MemOk := by
  unfold State.saveClear
  (try dsimp only)
  repeat' (first | with_reducible assumption | with_reducible intro _ | with_reducible apply State.modCtx_memOk
                 | with_reducible apply State.modCore_memOk | with_reducible apply State.modCl_memOk
                 | with_reducible apply State.fresh_memOk | with_reducible apply State.dropAsks_memOk)

theorem State.saveEnd_memOk {s : State} {hw : Nat} {push : Bool} (hok : s.MemOk) : (State.saveEnd s hw push).MemOk := by
  unfold State.saveEnd
  split
  · exact State.saveFail_memOk hok
  split
  · exact hok
  · dsimp only
    split
    · exact hok
    · exact State.saveFail_memOk hok
    · have hp : QRes.Has State.MemOk (if push then
          match (s.ctx hw).resumeQueue with
          | some qn =>
            match s.fresh.2.fresh.2.pushOldest (clusterOf hw) qn ⟨s.fresh.2.fresh.1, (s.ctx hw).resumeRec qn (clusterOf hw)⟩ with
            | .ok s3 => .ok (s3.chargeRing s.fresh.2.fresh.2 (clusterOf hw) qn hw)
            | r => r
          | none => .ok s.fresh.2
        else .ok s.fresh.2) := by
        split
        · split
          · have k := @State.pushOldest_memOk s.fresh.2.fresh.2
            split
            · exact QRes.has_ok (State.chargeRing_memOk (k hok _ ‹_›))
            · exact k hok
          · exact QRes.has_ok hok
        · exact QRes.has_ok hok
      split
      · exact hok
      · exact State.saveFail_memOk hok
      · rename_i e
        exact State.modCtx_memOk (State.saveClear_memOk (State.modArmed_memOk
          (State.chargePieces_memOk (State.writeMute_memOk (State.rememberAll_memOk (hp _ e) _ _ _)))))

theorem State.putHidden_memOk {s : State} {hw : Nat} {h : Hidden} (hok : s.MemOk) :
    (State.putHidden s hw h).MemOk := by
  unfold State.putHidden
  (try dsimp only)
  repeat' (first | with_reducible assumption | with_reducible intro _ | with_reducible apply State.modCtx_memOk
                 | with_reducible apply State.modCore_memOk | with_reducible apply State.modCl_memOk
                 | with_reducible apply State.setSlot_memOk | with_reducible apply State.cmdDone_memOk | simp only [State.mk_memOk]
                 | with_reducible apply State.memOk_mem | with_reducible apply foldl_memOk | with_reducible apply foldl_fst_memOk | split)

theorem State.againCuts_memOk {s : State} {hw : Nat} {base : Word} (hok : s.MemOk) :
    (State.againCuts s hw base).MemOk := by
  unfold State.againCuts
  (try dsimp only)
  repeat' (first | with_reducible assumption | with_reducible intro _ | with_reducible apply State.modCtx_memOk)

theorem State.restore_memOk {s : State} {hw d : Nat} (hok : s.MemOk) :
    (State.restore s hw d).MemOk := by
  unfold State.restore
  (try dsimp only)
  repeat' (first | with_reducible assumption | with_reducible intro _ | with_reducible apply State.setCtx_memOk
                 | with_reducible apply State.modCtx_memOk | with_reducible apply State.rememberAll_memOk
                 | with_reducible apply State.raise_memOk | with_reducible apply State.chargePieces_memOk
                 | with_reducible apply State.modArmed_memOk | with_reducible apply State.takeTrap_memOk
                 | with_reducible apply State.restoreProds_memOk | with_reducible apply State.chargeSlots_memOk
                 | with_reducible apply State.restoreWalk_memOk | with_reducible apply State.putHidden_memOk
                 | with_reducible apply State.againCuts_memOk | simp only [State.mk_memOk] | with_reducible apply State.memOk_mem | split)

theorem State.startRec_memOk {s : State} {hw d : Nat} (hok : s.MemOk) :
    (State.startRec s hw d).MemOk := by
  unfold State.startRec
  repeat' (first | with_reducible assumption | with_reducible apply State.endContext_memOk | with_reducible apply State.dispatchTask_memOk
                 | with_reducible apply State.restore_memOk | split)

theorem State.dispatch_memOk {s : State} {hw : Nat} (hok : s.MemOk) :
    (State.dispatch s hw).MemOk := by
  unfold State.dispatch
  (try dsimp only)
  repeat' (first | with_reducible assumption | with_reducible apply State.searchTake_memOk | with_reducible apply State.saveEnd_memOk
                 | with_reducible apply State.startRec_memOk | simp only [State.mk_memOk] | with_reducible apply State.memOk_mem | split)

theorem execDispatch_memOk {hw : Nat} {s : State} (hok : s.MemOk) :
    Out.MemOk (execDispatch hw s) :=
  Out.next_memOk (State.dispatch_memOk hok)

theorem State.preempt_memOk {s : State} {hw : Nat} (hok : s.MemOk) :
    (State.preempt s hw).MemOk := by
  unfold State.preempt
  (try dsimp only)
  repeat' (first | with_reducible assumption | with_reducible intro _ | with_reducible apply State.modCtx_memOk
                 | with_reducible apply State.switchNext_memOk | with_reducible apply State.saveStart_memOk
                 | with_reducible apply State.saveEnd_memOk | simp only [State.mk_memOk] | with_reducible apply State.memOk_mem | split)

theorem execPreemption_memOk {hw : Nat} {s : State} (hok : s.MemOk) :
    Out.MemOk (execPreemption hw s) :=
  Out.next_memOk (State.preempt_memOk hok)

theorem State.budget_memOk {s : State} {hw : Nat} (hok : s.MemOk) :
    (State.budget s hw).MemOk := by
  unfold State.budget
  (try dsimp only)
  repeat' (first | with_reducible assumption | with_reducible intro _ | with_reducible apply State.modCtx_memOk
                 | with_reducible apply State.saveStart_memOk | with_reducible apply State.saveEnd_memOk | simp only [State.mk_memOk]
                 | with_reducible apply State.memOk_mem | split)

theorem execBudgetOverrun_memOk {hw : Nat} {s : State} (hok : s.MemOk) :
    Out.MemOk (execBudgetOverrun hw s) := by
  unfold execBudgetOverrun
  repeat' (first | with_reducible assumption | with_reducible apply Out.next_memOk | with_reducible apply State.switchNext_memOk
                 | with_reducible apply State.budget_memOk)

theorem State.hemTrap_memOk {s : State} {hw : Nat} (hok : s.MemOk) :
    (State.hemTrap s hw).MemOk := by
  unfold State.hemTrap
  (try dsimp only)
  repeat' (first | with_reducible assumption | with_reducible apply State.takeTrap_memOk | split)

theorem execHemovr_memOk {hw : Nat} {s : State} (hok : s.MemOk) :
    Out.MemOk (execHemovr hw s) :=
  Out.next_memOk (State.hemTrap_memOk hok)

/-! ## Syllables -/

theorem runSyllable_memOk {i : Instr} {s : State} (hok : s.MemOk) : Out.MemOk (runSyllable i s) := by
  cases i with
  | brEqz o => exact execBrEqz_memOk hok
  | brNez o => exact execBrNez_memOk hok
  | brLtz o => exact execBrLtz_memOk hok
  | brGez o => exact execBrGez_memOk hok
  | brGtz o => exact execBrGtz_memOk hok
  | brLez o => exact execBrLez_memOk hok
  | brc o => exact execBrc_memOk hok
  | brpAll o => exact execBrpAll_memOk hok
  | brpNone o => exact execBrpNone_memOk hok
  | jmp o => exact execJmp_memOk hok
  | call o => exact execCall_memOk hok
  | loopb o => exact execLoopb_memOk hok
  | jmpi o => exact execJmpi_memOk hok
  | calli o => exact execCalli_memOk hok
  | ret o => exact execRet_memOk hok
  | svc o => exact execSvc_memOk hok
  | brk o => exact execBrk_memOk hok
  | eret => exact execEret_memOk hok
  | add o => exact execAdd_memOk hok
  | sub o => exact execSub_memOk hok
  | and o => exact execAnd_memOk hok
  | or o => exact execOr_memOk hok
  | xor o => exact execXor_memOk hok
  | addsh o sh => exact execAddsh_memOk hok
  | mov o => exact execMov_memOk hok
  | addi o => exact execAddi_memOk hok
  | li o => exact execLi_memOk hok
  | andi o => exact execAndi_memOk hok
  | ori o => exact execOri_memOk hok
  | xori o => exact execXori_memOk hok
  | slti o => exact execSlti_memOk hok
  | shl o => exact execShl_memOk hok
  | shr o => exact execShr_memOk hok
  | sra o => exact execSra_memOk hok
  | shli o => exact execShli_memOk hok
  | shri o => exact execShri_memOk hok
  | srai o => exact execSrai_memOk hok
  | clz o => exact execClz_memOk hok
  | popc o => exact execPopc_memOk hok
  | mul o => exact execMul_memOk hok
  | mulh o => exact execMulh_memOk hok
  | mulhs o => exact execMulhs_memOk hok
  | div o => exact execDiv_memOk hok
  | divs o => exact execDivs_memOk hok
  | rem o => exact execRem_memOk hok
  | rems o => exact execRems_memOk hok
  | min o => exact execMin_memOk hok
  | max o => exact execMax_memOk hok
  | mins o => exact execMins_memOk hok
  | maxs o => exact execMaxs_memOk hok
  | slt o => exact execSlt_memOk hok
  | slts o => exact execSlts_memOk hok
  | seq o => exact execSeq_memOk hok
  | sel o c neg => exact execSel_memOk hok
  | cmpc o cc => exact execCmpc_memOk hok
  | bfx o => exact execBfx_memOk hok
  | bfi o => exact execBfi_memOk hok
  | mfc o => exact execMfc_memOk hok
  | mtc o => exact execMtc_memOk hok
  | ldb o => exact execLdb_memOk hok
  | ldbs o => exact execLdbs_memOk hok
  | ldh o => exact execLdh_memOk hok
  | ldhs o => exact execLdhs_memOk hok
  | ldw o => exact execLdw_memOk hok
  | ldws o => exact execLdws_memOk hok
  | ldd o => exact execLdd_memOk hok
  | stb o => exact execStb_memOk hok
  | sth o => exact execSth_memOk hok
  | stw o => exact execStw_memOk hok
  | std o => exact execStd_memOk hok
  | idleXy => exact execIdleXy_memOk hok
  | vadd o sat => exact execVadd_memOk hok
  | vsub o sat => exact execVsub_memOk hok
  | vmul o => exact execVmul_memOk hok
  | vmulh o => exact execVmulh_memOk hok
  | vmac o => exact execVmac_memOk hok
  | vmacs o => exact execVmacs_memOk hok
  | vabs o sat => exact execVabs_memOk hok
  | vneg o sat => exact execVneg_memOk hok
  | vmin o => exact execVmin_memOk hok
  | vmax o => exact execVmax_memOk hok
  | vsat o n => exact execVsat_memOk hok
  | vnrw o sh sat rnd => exact execVnrw_memOk hok
  | vwid o => exact execVwid_memOk hok
  | vand o => exact execVand_memOk hok
  | vor o => exact execVor_memOk hok
  | vxor o => exact execVxor_memOk hok
  | vnot o => exact execVnot_memOk hok
  | vshl o b => exact execVshl_memOk hok
  | vshr o b => exact execVshr_memOk hok
  | vsra o b => exact execVsra_memOk hok
  | vcmp o cc => exact execVcmp_memOk hok
  | vsel o c => exact execVsel_memOk hok
  | vfadd o => exact execVfadd_memOk hok
  | vfsub o => exact execVfsub_memOk hok
  | vfmul o => exact execVfmul_memOk hok
  | vfma o c => exact execVfma_memOk hok
  | vfms o c => exact execVfms_memOk hok
  | vfmin o => exact execVfmin_memOk hok
  | vfmax o => exact execVfmax_memOk hok
  | vfcmp o cc => exact execVfcmp_memOk hok
  | vfcls o => exact execVfcls_memOk hok
  | vcvt o u hi => exact execVcvt_memOk hok
  | vrcp o => exact execVrcp_memOk hok
  | vrsq o => exact execVrsq_memOk hok
  | vexp o => exact execVexp_memOk hok
  | vlog o => exact execVlog_memOk hok
  | vtanh o => exact execVtanh_memOk hok
  | vqnt o c q => exact execVqnt_memOk hok
  | vdqnt o c q => exact execVdqnt_memOk hok
  | vred o op => exact execVred_memOk hok
  | vperm o => exact execVperm_memOk hok
  | vsld o sh => exact execVsld_memOk hok
  | vbcstScalar o => exact execVbcstScalar_memOk hok
  | vbcstElement o idx => exact execVbcstElement_memOk hok
  | vins o idx => exact execVins_memOk hok
  | vext o idx => exact execVext_memOk hok
  | vmov o => exact execVmov_memOk hok
  | viota o => exact execViota_memOk hok
  | pand o => exact execPand_memOk hok
  | por o => exact execPor_memOk hok
  | pxor o => exact execPxor_memOk hok
  | pnot o => exact execPnot_memOk hok
  | pset o => exact execPset_memOk hok
  | pcnt o => exact execPcnt_memOk hok
  | idleVw => exact execIdleVw_memOk hok
  | vld o => exact execVld_memOk hok
  | vst o => exact execVst_memOk hok
  | vlds o => exact execVlds_memOk hok
  | vsts o => exact execVsts_memOk hok
  | vldb o => exact execVldb_memOk hok
  | vldx o => exact execVldx_memOk hok
  | vstx o => exact execVstx_memOk hok
  | pld o => exact execPld_memOk hok
  | pst o => exact execPst_memOk hok
  | fill o => exact execFill_memOk hok
  | idleL => exact execIdleL_memOk hok
  | mmul o => exact execMmul_memOk hok
  | macc o => exact execMacc_memOk hok
  | mmuls o sel => exact execMmuls_memOk hok
  | maccs o sel => exact execMaccs_memOk hok
  | mstrm o => exact execMstrm_memOk hok
  | mzero o => exact execMzero_memOk hok
  | mrdv o => exact execMrdv_memOk hok
  | mwrv o => exact execMwrv_memOk hok
  | mrds o => exact execMrds_memOk hok
  | mwrs o => exact execMwrs_memOk hok
  | mseam o => exact execMseam_memOk hok
  | mresume o => exact execMresume_memOk hok
  | idleM => exact execIdleM_memOk hok
  | cplvl o => exact execCplvl_memOk hok
  | cpbase o => exact execCpbase_memOk hok
  | cpgo o => exact execCpgo_memOk hok
  | cpstrm o => exact execCpstrm_memOk hok
  | cpstrmOff o => exact execCpstrmOff_memOk hok
  | cpcan o => exact execCpcan_memOk hok
  | cpstat o => exact execCpstat_memOk hok
  | lksend o => exact execLksend_memOk hok
  | lkrecv o => exact execLkrecv_memOk hok
  | lkred o => exact execLkred_memOk hok
  | lktime o => exact execLktime_memOk hok
  | tlbinv o => exact execTlbinv_memOk hok
  | idleC => exact execIdleC_memOk hok
  | gpush o => exact execGpush_memOk hok
  | gpop o => exact execGpop_memOk hok
  | sacc o => exact execSacc_memOk hok
  | sfop o => exact execSfop_memOk hok
  | nlbin o => exact execNlbin_memOk hok
  | nlpos o => exact execNlpos_memOk hok
  | nlreq o => exact execNlreq_memOk hok
  | nlpop o => exact execNlpop_memOk hok
  | nlstat o => exact execNlstat_memOk hok
  | spawn o => exact execSpawn_memOk hok
  | take o => exact execTake_memOk hok
  | watch o => exact execWatch_memOk hok
  | unwatch o => exact execUnwatch_memOk hok
  | idleQ => exact execIdleQ_memOk hok
  | setfmtImm o => exact execSetfmtImm_memOk hok
  | setfmtReg o => exact execSetfmtReg_memOk hok
  | waitt o => exact execWaitt_memOk hok
  | slack o => exact execSlack_memOk hok
  | drain o => exact execDrain_memOk hok
  | bar o => exact execBar_memOk hok
  | yield g => exact execYield_memOk hok
  | yieldNw g => exact execYieldNw_memOk hok
  | tdone g => exact execTdone_memOk hok
  | ovl o => exact execOvl_memOk hok
  | zset o => exact execZset_memOk hok
  | time o => exact execTime_memOk hok
  | perf o => exact execPerf_memOk hok
  | getflg o => exact execGetflg_memOk hok
  | clrflg o => exact execClrflg_memOk hok
  | spflag o keep => exact execSpflag_memOk hok
  | wfe o => exact execWfe_memOk hok
  | halt g => exact execHalt_memOk hok
  | keyld o => exact execKeyld_memOk hok
  | keyldClr o => exact execKeyldClr_memOk hok
  | _ => exact Out.next_memOk hok

theorem State.asks_memOk {s : State} (hok : s.MemOk) (x0 : Instr) :
    (State.asks s x0).MemOk := by
  unfold State.asks
  repeat' (first | with_reducible assumption | with_reducible apply State.resumeAskIf_memOk | with_reducible apply State.tdoneAsk_memOk
                 | with_reducible apply State.drainAskF_memOk | with_reducible apply State.barAsk_memOk
                 | with_reducible apply State.keyldAsk_memOk | with_reducible apply State.keyldClrAsk_memOk | split)

/-! ## Issue -/

theorem State.seat_memOk {s : State} {hw : Nat} {b : Bundle} {rep : Nat} {cand go : Bool} {x : Issue} (hok : s.MemOk) :
    (State.seat s hw b rep cand go x).MemOk := by
  unfold State.seat
  repeat' (first | with_reducible assumption | simp only [State.mk_memOk] | with_reducible apply State.memOk_mem)

theorem State.runAt_memOk {s : State} {hw : Nat} {b : Bundle} {rep : Nat} {cand go : Bool} {x : Issue} (hok : s.MemOk) :
    (State.runAt s hw b rep cand go x).MemOk := by
  unfold State.runAt
  split
  · exact runSyllable_memOk (State.seat_memOk hok) _ ‹_›
  · exact hok

theorem State.asCand_memOk {s : State} {cand : Bool} (hok : s.MemOk) :
    (State.asCand s cand).MemOk := by
  unfold State.asCand
  (try dsimp only)
  repeat' (first | with_reducible assumption | simp only [State.mk_memOk] | with_reducible apply State.memOk_mem)

theorem State.unseat_memOk {s : State} (hok : s.MemOk) :
    (State.unseat s).MemOk := by
  unfold State.unseat
  repeat' (first | with_reducible assumption | simp only [State.mk_memOk] | with_reducible apply State.memOk_mem)

theorem State.askAll_memOk {s : State} {hw : Nat} {b : Bundle} {rep : Nat} {cand : Bool} {xs : List Issue} (hok : s.MemOk) :
    (State.askAll s hw b rep cand xs).MemOk := by
  unfold State.askAll
  repeat' (first | with_reducible assumption | with_reducible intro _ | with_reducible apply State.asks_memOk
                 | with_reducible apply State.seat_memOk | with_reducible apply foldl_memOk)

theorem State.waitOn_memOk {s : State} {hw : Nat} {cand : Bool} {id : Nat} {w : Wait} (hok : s.MemOk) :
    (State.waitOn s hw cand id w).MemOk := by
  unfold State.waitOn
  (try dsimp only)
  repeat' (first | with_reducible assumption | with_reducible intro _ | with_reducible apply State.modCtx_memOk
                 | with_reducible apply State.fixedWait_memOk | with_reducible apply State.engineWait_memOk
                 | with_reducible apply State.wfeWait_memOk | simp only [State.mk_memOk] | with_reducible apply State.memOk_mem | split)

theorem State.setPhase_memOk {s : State} {hw n : Nat} (hok : s.MemOk) :
    (State.setPhase s hw n).MemOk := by
  unfold State.setPhase
  (try dsimp only)
  repeat' (first | with_reducible assumption | with_reducible intro _ | with_reducible apply State.modCtx_memOk)

theorem State.passEntry_memOk {s : State} {hw : Nat} {b : Bundle} (hok : s.MemOk) :
    (State.passEntry s hw b).MemOk := by
  unfold State.passEntry
  (try dsimp only)
  repeat' (first | with_reducible assumption | with_reducible intro _ | with_reducible apply State.modCtx_memOk)

theorem State.applyEntry_memOk {s : State} {core : Nat} {e : Ingress} (hok : s.MemOk) :
    (State.applyEntry s core e).MemOk := by
  unfold State.applyEntry
  repeat' (first | with_reducible assumption | with_reducible intro _ | with_reducible apply State.coreWrite_memOk)

theorem State.applyIngress_memOk {s : State} {core n : Nat} (hok : s.MemOk) :
    (State.applyIngress s core n).MemOk := by
  unfold State.applyIngress
  (try dsimp only)
  repeat' (first | with_reducible assumption | with_reducible intro _ | with_reducible apply State.modCore_memOk
                 | with_reducible apply State.chargeCore_memOk | with_reducible apply State.applyEntry_memOk | simp only [State.mk_memOk]
                 | with_reducible apply State.memOk_mem | with_reducible apply foldl_memOk)

theorem State.meetWindow_memOk {s : State} {hw : Nat} {b : Bundle} {cand : Bool} (hok : s.MemOk) :
    (State.meetWindow s hw b cand).1.MemOk := by
  unfold State.meetWindow
  (try dsimp only)
  repeat' (first | with_reducible assumption | with_reducible intro _ | with_reducible apply State.modCtx_memOk
                 | with_reducible apply State.setPhase_memOk | with_reducible apply State.applyIngress_memOk | simp only [State.mk_memOk]
                 | with_reducible apply State.memOk_mem | split)

theorem State.meetWaits_memOk {s : State} {hw : Nat} {b : Bundle} {cand : Bool} {xs : List Issue} (hok : s.MemOk) :
    (State.meetWaits s hw b cand xs).1.MemOk := by
  unfold State.meetWaits
  dsimp only
  have hp : (if (s.ctx hw).run.phase = 1 then s.passEntry hw b else s).MemOk := by
    split
    · exact State.passEntry_memOk hok
    · exact hok
  have hw1 := State.meetWindow_memOk (hw := hw) (b := b) (cand := cand) hp
  generalize (if (s.ctx hw).run.phase = 1 then s.passEntry hw b else s) = u at hw1
  split
  · exact State.waitOn_memOk hok
  · split
    · rename_i e
      rw [e] at hw1
      exact hw1
    · rename_i e
      rw [e] at hw1
      have h2 := State.unseat_memOk (State.askAll_memOk (hw := hw) (b := b) (rep := (s.ctx hw).frame.rep) (cand := cand) (xs := xs) hw1)
      split
      · exact State.waitOn_memOk h2
      · split
        · exact State.waitOn_memOk h2
        · exact h2

theorem State.effects_memOk {s : State} {hw : Nat} {b : Bundle} {rep : Nat} {cand : Bool} {xs : List Issue} (hok : s.MemOk) :
    (State.effects s hw b rep cand xs).MemOk := by
  unfold State.effects
  (try dsimp only)
  repeat' (first | with_reducible assumption | with_reducible intro _ | with_reducible apply State.runAt_memOk
                 | with_reducible apply foldl_memOk)

theorem State.endIssue_memOk {s : State} {hw : Nat} {f0 : Frame} {b : Bundle} {plan : List (Nat × Latch)} {xs : List Issue} {cand : Bool} (hok : s.MemOk) :
    (State.endIssue s hw f0 b plan xs cand).MemOk := by
  unfold State.endIssue
  (try dsimp only)
  repeat' (first | with_reducible assumption | with_reducible intro _ | with_reducible apply State.modCtx_memOk)

theorem State.postEff_memOk {s : State} {hw bundle : Nat} (hok : s.MemOk) (x0 : Instr) :
    (State.postEff s hw bundle x0).MemOk := by
  unfold State.postEff
  repeat' (first | with_reducible assumption | with_reducible apply State.endContext_memOk | with_reducible apply State.codeEff_memOk
                 | with_reducible apply State.eretEff_memOk | with_reducible apply State.yieldEff_memOk
                 | with_reducible apply State.yieldNwEff_memOk | split)

theorem State.afterwards_memOk {s : State} {hw : Nat} {b : Bundle} {rep : Nat} {cand : Bool} {xs : List Issue} (hok : s.MemOk) :
    (State.afterwards s hw b rep cand xs).MemOk := by
  unfold State.afterwards
  repeat' (first | with_reducible assumption | with_reducible intro _ | with_reducible apply State.seat_memOk
                 | with_reducible apply State.postEff_memOk | with_reducible apply foldl_memOk | with_reducible apply foldl_fst_memOk
                 | split)

theorem State.barMarks_memOk {s : State} {hw : Nat} {xs : List Issue} (hok : s.MemOk) :
    (State.barMarks s hw xs).MemOk := by
  unfold State.barMarks
  repeat' (first | with_reducible assumption | with_reducible intro _ | with_reducible apply State.barMark_memOk
                 | simp only [State.mk_memOk] | with_reducible apply State.memOk_mem | with_reducible apply foldl_memOk
                 | with_reducible apply foldl_fst_memOk | split)

theorem State.commitBundle_memOk {s : State} {hw : Nat} {b : Bundle} {plan : List (Nat × Latch)} {xs : List Issue} {cand : Bool} (hok : s.MemOk) :
    (State.commitBundle s hw b plan xs cand).MemOk := by
  unfold State.commitBundle
  (try dsimp only)
  repeat' (first | with_reducible assumption | with_reducible intro _ | with_reducible apply State.charge_memOk
                 | with_reducible apply State.trace_memOk | with_reducible apply State.unseat_memOk
                 | with_reducible apply State.effects_memOk | with_reducible apply State.endIssue_memOk
                 | with_reducible apply State.afterwards_memOk | with_reducible apply State.barMarks_memOk | split)

theorem State.trapHere_memOk {s : State} {hw : Nat} {cand : Bool} {code slot : Nat} {addr : Word} {detail : Nat} (hok : s.MemOk) :
    (State.trapHere s hw cand code slot addr detail).s.MemOk := by
  unfold State.trapHere
  (try dsimp only)
  repeat' (first | with_reducible assumption | with_reducible apply State.takeTrap_memOk | with_reducible apply State.asCand_memOk
                 | with_reducible apply State.unseat_memOk)

theorem State.issueNow_memOk {s : State} {hw : Nat} {b : Bundle} {plan : List (Nat × Latch)} {xs : List Issue} {cand : Bool} {lines : List Nat} (hok : s.MemOk) :
    (State.issueNow s hw b plan xs cand lines).s.MemOk := by
  unfold State.issueNow
  (try dsimp only)
  repeat' (first | with_reducible assumption | with_reducible intro _ | with_reducible apply State.unseat_memOk
                 | with_reducible apply State.commitBundle_memOk | with_reducible apply State.trapHere_memOk | simp only [State.mk_memOk]
                 | with_reducible apply State.memOk_mem | split)

theorem State.attempt_memOk {s : State} {hw : Nat} {cand : Bool} {busy lines : List Nat} (hok : s.MemOk) :
    (State.attempt s hw cand busy lines).s.MemOk := by
  unfold State.attempt
  dsimp only
  split
  · exact State.trapHere_memOk hok
  · exact State.fixedWait_memOk hok
  · split
    · exact hok
    · split
      · exact State.trapHere_memOk hok
      · split
        · rename_i e
          have h := State.meetWaits_memOk hok (s := s) (hw := hw) (cand := cand) (b := ‹Bundle›) (xs := ‹List Issue›)
          exact State.unseat_memOk (by rw [e] at h; exact h)
        · rename_i e
          have h := State.meetWaits_memOk hok (s := s) (hw := hw) (cand := cand) (b := ‹Bundle›) (xs := ‹List Issue›)
          exact State.issueNow_memOk (by rw [e] at h; exact h)

theorem State.heldBy_memOk {s : State} {hw : Nat} (hok : s.MemOk) :
    (State.heldBy s hw).1.MemOk := by
  unfold State.heldBy
  (try dsimp only)
  repeat' (first | with_reducible assumption | with_reducible intro _ | with_reducible apply State.unseat_memOk
                 | with_reducible apply State.askAll_memOk | simp only [State.mk_memOk] | with_reducible apply State.memOk_mem | split)

/-! ## Debug -/

theorem State.takeAsync_memOk {s : State} {hw : Nat} (hok : s.MemOk) :
    (State.takeAsync s hw).MemOk := by
  unfold State.takeAsync
  repeat' (first | with_reducible assumption | with_reducible intro _ | with_reducible apply State.modCtx_memOk
                 | with_reducible apply State.trapWith_memOk | simp only [State.mk_memOk] | with_reducible apply State.memOk_mem | split)

theorem State.debugStop_memOk {s : State} {hw st why : Nat} (hok : s.MemOk) :
    (State.debugStop s hw st why).MemOk := by
  unfold State.debugStop
  (try dsimp only)
  repeat' (first | with_reducible assumption | with_reducible intro _ | with_reducible apply State.modCtx_memOk
                 | with_reducible apply State.modCore_memOk | with_reducible apply State.trace_memOk)

theorem State.debugRelease_memOk {s : State} {hw : Nat} (hok : s.MemOk) :
    (State.debugRelease s hw).MemOk := by
  unfold State.debugRelease
  repeat' (first | with_reducible assumption | with_reducible intro _ | with_reducible apply State.modCore_memOk)

theorem State.dbgRun_memOk {s : State} {hw : Nat} (hok : s.MemOk) :
    (State.dbgRun s hw).MemOk := by
  unfold State.dbgRun
  (try dsimp only)
  repeat' (first | with_reducible assumption | with_reducible intro _ | with_reducible apply State.modCtx_memOk
                 | with_reducible apply State.debugRelease_memOk | simp only [State.mk_memOk] | with_reducible apply State.memOk_mem
                 | split)

theorem State.dbgStep_memOk {s : State} {hw : Nat} (hok : s.MemOk) :
    (State.dbgStep s hw).MemOk := by
  unfold State.dbgStep
  (try dsimp only)
  repeat' (first | with_reducible assumption | with_reducible intro _ | with_reducible apply State.modCtx_memOk
                 | with_reducible apply State.debugRelease_memOk | simp only [State.mk_memOk] | with_reducible apply State.memOk_mem
                 | split)

theorem State.dbgStopreq_memOk {s : State} {hw : Nat} (hok : s.MemOk) :
    (State.dbgStopreq s hw).MemOk := by
  unfold State.dbgStopreq
  (try dsimp only)
  repeat' (first | with_reducible assumption | with_reducible intro _ | with_reducible apply State.modCtx_memOk
                 | simp only [State.mk_memOk] | with_reducible apply State.memOk_mem | split)

theorem State.stepLimit_memOk {s : State} {hw : Nat} (hok : s.MemOk) :
    (State.stepLimit s hw).MemOk := by
  unfold State.stepLimit
  repeat' (first | with_reducible assumption | with_reducible apply State.debugStop_memOk | simp only [State.mk_memOk]
                 | with_reducible apply State.memOk_mem | split)

theorem State.stepEnd_memOk {s : State} {hw : Nat} (hok : s.MemOk) :
    (State.stepEnd s hw).MemOk := by
  unfold State.stepEnd
  (try dsimp only)
  repeat' (first | with_reducible assumption | with_reducible intro _ | with_reducible apply State.modCtx_memOk
                 | with_reducible apply State.debugStop_memOk | with_reducible apply State.stepLimit_memOk | simp only [State.mk_memOk]
                 | with_reducible apply State.memOk_mem | split)

theorem execDbgRun_memOk {hw : Nat} {s : State} (hok : s.MemOk) :
    Out.MemOk (execDbgRun hw s) := by
  unfold execDbgRun
  repeat' (first | with_reducible assumption | with_reducible intro _ | with_reducible apply Out.next_memOk
                 | with_reducible apply State.ifOpen_memOk | with_reducible apply State.dbgRun_memOk)

theorem execDbgStep_memOk {hw : Nat} {s : State} (hok : s.MemOk) :
    Out.MemOk (execDbgStep hw s) := by
  unfold execDbgStep
  repeat' (first | with_reducible assumption | with_reducible intro _ | with_reducible apply Out.next_memOk
                 | with_reducible apply State.ifOpen_memOk | with_reducible apply State.dbgStep_memOk)

theorem execDbgStopreq_memOk {hw : Nat} {s : State} (hok : s.MemOk) :
    Out.MemOk (execDbgStopreq hw s) := by
  unfold execDbgStopreq
  repeat' (first | with_reducible assumption | with_reducible intro _ | with_reducible apply Out.next_memOk
                 | with_reducible apply State.ifOpen_memOk | with_reducible apply State.dbgStopreq_memOk)

theorem execStepLimit_memOk {hw : Nat} {s : State} (hok : s.MemOk) :
    Out.MemOk (execStepLimit hw s) :=
  Out.next_memOk (State.stepLimit_memOk hok)

theorem State.debugBreak_memOk {s : State} {hw : Nat} (hok : s.MemOk) :
    (State.debugBreak s hw).MemOk := by
  unfold State.debugBreak
  repeat' (first | with_reducible assumption | with_reducible apply State.debugStop_memOk | simp only [State.mk_memOk]
                 | with_reducible apply State.memOk_mem | split)

theorem execDebugBreak_memOk {hw : Nat} {s : State} (hok : s.MemOk) :
    Out.MemOk (execDebugBreak hw s) :=
  Out.next_memOk (State.debugBreak_memOk hok)

theorem State.hemMark_memOk {s : State} {hw : Nat} (hok : s.MemOk) :
    (State.hemMark s hw).MemOk := by
  unfold State.hemMark
  (try dsimp only)
  repeat' (first | with_reducible assumption | with_reducible intro _ | with_reducible apply State.modCtx_memOk
                 | simp only [State.mk_memOk] | with_reducible apply State.memOk_mem | split)

theorem State.turn_memOk {s : State} {hw : Nat} {cand : Bool} {busy lines : List Nat} (hok : s.MemOk) :
    (State.turn s hw cand busy lines).s.MemOk := by
  unfold State.turn
  (try dsimp only)
  repeat' (first | with_reducible assumption | with_reducible apply State.budget_memOk | with_reducible apply State.hemTrap_memOk
                 | with_reducible apply State.asCand_memOk | with_reducible apply State.unseat_memOk
                 | with_reducible apply State.attempt_memOk | with_reducible apply State.takeAsync_memOk
                 | with_reducible apply State.debugBreak_memOk | with_reducible apply State.hemMark_memOk | split)

/-! ## Cycle -/

theorem State.choose_memOk {s : State} {core : Nat} (hok : s.MemOk) :
    (State.choose s core).MemOk := by
  unfold State.choose
  (try dsimp only)
  repeat' (first | with_reducible assumption | with_reducible intro _ | with_reducible apply State.modCtx_memOk
                 | with_reducible apply State.setCore_memOk | simp only [State.mk_memOk] | with_reducible apply State.memOk_mem | split)

theorem execPrimarySwitch_memOk {core : Nat} {s : State} (hok : s.MemOk) :
    Out.MemOk (execPrimarySwitch core s) :=
  Out.next_memOk (State.choose_memOk hok)

theorem State.tellFault_memOk {s : State} {cl n : Nat} (hok : s.MemOk) :
    (State.tellFault s cl n).MemOk := by
  unfold State.tellFault
  (try dsimp only)
  repeat' (first | with_reducible assumption | with_reducible intro _ | with_reducible apply State.modSlot_memOk
                 | with_reducible apply State.raiseSlot_memOk | simp only [State.mk_memOk] | with_reducible apply State.memOk_mem
                 | with_reducible apply foldl_memOk | with_reducible apply foldl_fst_memOk | split)

theorem State.tellFaults_memOk {s : State} {hw : Nat} (hok : s.MemOk) :
    (State.tellFaults s hw).MemOk := by
  unfold State.tellFaults
  repeat' (first | with_reducible assumption | with_reducible intro _ | with_reducible apply State.tellFault_memOk
                 | with_reducible apply foldl_memOk)

theorem State.unblock_memOk {s : State} {hw : Nat} (hok : s.MemOk) :
    (State.unblock s hw).MemOk := by
  unfold State.unblock
  (try dsimp only)
  repeat' (first | with_reducible assumption | with_reducible intro _ | with_reducible apply State.modCtx_memOk
                 | with_reducible apply State.heldBy_memOk | simp only [State.mk_memOk] | with_reducible apply State.memOk_mem | split)

theorem execContextUnblock_memOk {hw : Nat} {s : State} (hok : s.MemOk) :
    Out.MemOk (execContextUnblock hw s) :=
  Out.next_memOk (State.unblock_memOk hok)

theorem State.wfeWake_memOk {s : State} {hw : Nat} (hok : s.MemOk) :
    (State.wfeWake s hw).MemOk := by
  unfold State.wfeWake
  (try dsimp only)
  repeat' (first | with_reducible assumption | with_reducible intro _ | with_reducible apply State.modCtx_memOk
                 | simp only [State.mk_memOk] | with_reducible apply State.memOk_mem | split)

theorem execWfeWake_memOk {hw : Nat} {s : State} (hok : s.MemOk) :
    Out.MemOk (execWfeWake hw s) :=
  Out.next_memOk (State.wfeWake_memOk hok)

theorem State.bundleIssue_memOk {s : State} {hw : Nat} (hok : s.MemOk) :
    (State.bundleIssue s hw).MemOk := by
  unfold State.bundleIssue
  (try dsimp only)
  repeat' (first | with_reducible assumption | with_reducible apply State.attempt_memOk | split)

theorem execBundleIssue_memOk {hw : Nat} {s : State} (hok : s.MemOk) :
    Out.MemOk (execBundleIssue hw s) :=
  Out.next_memOk (State.bundleIssue_memOk hok)

theorem State.fetchStallEnd_memOk {s : State} {hw : Nat} (hok : s.MemOk) :
    (State.fetchStallEnd s hw).MemOk := by
  unfold State.fetchStallEnd
  (try dsimp only)
  repeat' (first | with_reducible assumption | with_reducible intro _ | with_reducible apply State.segDone_memOk
                 | simp only [State.mk_memOk] | with_reducible apply State.memOk_mem | with_reducible apply foldl_memOk
                 | with_reducible apply foldl_fst_memOk | split)

theorem execIfetchStallEnd_memOk {hw : Nat} {s : State} (hok : s.MemOk) :
    Out.MemOk (execIfetchStallEnd hw s) :=
  Out.next_memOk (State.fetchStallEnd_memOk hok)

theorem execResultLand_memOk {hw : Nat} {s : State} (hok : s.MemOk) :
    Out.MemOk (execResultLand hw s) :=
  Out.next_memOk (State.modCtx_memOk hok)

theorem execProductCommit_memOk {core : Nat} {s : State} (hok : s.MemOk) :
    Out.MemOk (execProductCommit core s) :=
  Out.next_memOk (State.commitStage_memOk hok)

theorem execStreamSliceArrive_memOk {core : Nat} {s : State} (hok : s.MemOk) :
    Out.MemOk (execStreamSliceArrive core s) :=
  Out.next_memOk (State.sliceStage_memOk hok)

theorem State.trapEntry_memOk {s : State} {hw : Nat} (hok : s.MemOk) :
    (State.trapEntry s hw).MemOk := by
  unfold State.trapEntry
  (try dsimp only)
  repeat' (first | with_reducible assumption | with_reducible apply State.attempt_memOk | with_reducible apply State.takeAsync_memOk
                 | split)

theorem execTrapEntry_memOk {hw : Nat} {s : State} (hok : s.MemOk) :
    Out.MemOk (execTrapEntry hw s) :=
  Out.next_memOk (State.trapEntry_memOk hok)

theorem execMrdsMwrsRow_memOk {core : Nat} {s : State} (hok : s.MemOk) :
    Out.MemOk (execMrdsMwrsRow core s) := by
  unfold execMrdsMwrsRow
  (try dsimp only)
  repeat' (first | with_reducible assumption | with_reducible apply Out.next_memOk | with_reducible apply State.xferStage_memOk)

theorem State.countWaits_memOk {s : State} {core : Nat} (hok : s.MemOk) :
    (State.countWaits s core).MemOk := by
  unfold State.countWaits
  (try dsimp only)
  repeat' (first | with_reducible assumption | with_reducible intro _ | with_reducible apply State.modCtx_memOk
                 | simp only [State.mk_memOk] | with_reducible apply State.memOk_mem | with_reducible apply foldl_memOk
                 | with_reducible apply foldl_fst_memOk | split)

theorem State.heldCycle_memOk {s : State} {core : Nat} (hok : s.MemOk) :
    (State.heldCycle s core).MemOk := by
  unfold State.heldCycle
  repeat' (first | with_reducible assumption | with_reducible intro _ | with_reducible apply State.modCore_memOk
                 | with_reducible apply State.countWaits_memOk)

theorem State.candidate_memOk {s : State} {core : Nat} {prim : Option Nat} {busy lines : List Nat} (hok : s.MemOk) :
    (State.candidate s core prim busy lines).MemOk := by
  unfold State.candidate
  (try dsimp only)
  repeat' (first | with_reducible assumption | with_reducible intro _ | with_reducible apply State.setCore_memOk
                 | with_reducible apply State.turn_memOk | simp only [State.mk_memOk] | with_reducible apply State.memOk_mem | split)

theorem State.issueStage_memOk {s : State} {core : Nat} (hok : s.MemOk) :
    (State.issueStage s core).MemOk := by
  unfold State.issueStage
  (try dsimp only)
  repeat' (first | with_reducible assumption | with_reducible intro _ | with_reducible apply State.setCore_memOk
                 | with_reducible apply State.modCore_memOk | with_reducible apply State.leavePrimary_memOk
                 | with_reducible apply State.turn_memOk | with_reducible apply State.choose_memOk
                 | with_reducible apply State.candidate_memOk | simp only [State.mk_memOk] | with_reducible apply State.memOk_mem | split)

theorem State.idleIngress_memOk {s : State} {core : Nat} (hok : s.MemOk) :
    (State.idleIngress s core).MemOk := by
  unfold State.idleIngress
  repeat' (first | with_reducible assumption | with_reducible intro _ | with_reducible apply State.applyIngress_memOk | split)

theorem State.freeCycle_memOk {s : State} {core : Nat} (hok : s.MemOk) :
    (State.freeCycle s core).MemOk := by
  unfold State.freeCycle
  (try dsimp only)
  repeat' (first | with_reducible assumption | with_reducible intro _ | with_reducible apply State.modCore_memOk
                 | with_reducible apply State.modAux_memOk | with_reducible apply State.lineStage_memOk
                 | with_reducible apply State.commitStage_memOk | with_reducible apply State.seedStage_memOk
                 | with_reducible apply State.multiplyEnergy_memOk | with_reducible apply State.finishStage_memOk
                 | with_reducible apply State.xferStage_memOk | with_reducible apply State.mrdvStage_memOk
                 | with_reducible apply State.surrenderStage_memOk | with_reducible apply State.earlyDone_memOk
                 | with_reducible apply State.choose_memOk | with_reducible apply State.tellFaults_memOk
                 | with_reducible apply State.unblock_memOk | with_reducible apply State.wfeWake_memOk
                 | with_reducible apply State.countWaits_memOk | with_reducible apply State.issueStage_memOk
                 | with_reducible apply State.idleIngress_memOk | simp only [State.mk_memOk] | with_reducible apply State.memOk_mem
                 | with_reducible apply foldl_memOk | with_reducible apply foldl_fst_memOk | split)

theorem State.coreCycle_memOk {s : State} {core : Nat} (hok : s.MemOk) :
    (State.coreCycle s core).MemOk := by
  unfold State.coreCycle
  (try dsimp only)
  repeat' (first | with_reducible assumption | with_reducible intro _ | with_reducible apply State.modAux_memOk
                 | with_reducible apply State.charge_memOk | with_reducible apply State.sliceStage_memOk
                 | with_reducible apply State.streamDeliver_memOk | with_reducible apply State.stepEnd_memOk
                 | with_reducible apply State.debugBreak_memOk | with_reducible apply State.heldCycle_memOk
                 | with_reducible apply State.freeCycle_memOk | simp only [State.mk_memOk] | with_reducible apply State.memOk_mem
                 | with_reducible apply foldl_memOk | with_reducible apply foldl_fst_memOk | split)

theorem State.linkTicks_memOk {s : State} (hok : s.MemOk) :
    (State.linkTicks s).MemOk := by
  unfold State.linkTicks
  repeat' (first | with_reducible assumption | with_reducible intro _ | with_reducible apply State.linkIdle_memOk
                 | with_reducible apply foldl_memOk)

theorem State.lktimes_memOk {s : State} {hw : Nat} (hok : s.MemOk) :
    (State.lktimes s hw).MemOk := by
  unfold State.lktimes
  repeat' (first | with_reducible assumption | with_reducible intro _ | with_reducible apply State.lktime_memOk
                 | with_reducible apply foldl_memOk)

theorem State.cycleEnd_memOk {s : State} (hok : s.MemOk) :
    (State.cycleEnd s).MemOk := by
  unfold State.cycleEnd
  (try dsimp only)
  repeat' (first | with_reducible assumption | with_reducible intro _ | with_reducible apply State.sctPass_memOk
                 | with_reducible apply State.linkTicks_memOk | with_reducible apply State.lktimes_memOk | simp only [State.mk_memOk]
                 | with_reducible apply State.memOk_mem | with_reducible apply foldl_memOk)

theorem State.barStage_memOk {s : State} (hok : s.MemOk) :
    (State.barStage s).MemOk := by
  unfold State.barStage
  repeat' (first | with_reducible assumption | with_reducible intro _ | with_reducible apply State.barRelease_memOk
                 | with_reducible apply foldl_memOk)

/-! ## HostRegs -/

theorem State.qctlWrite_memOk {s : State} {n v : Nat} (hok : s.MemOk) :
    (State.qctlWrite s n v).MemOk := by
  unfold State.qctlWrite
  (try dsimp only)
  repeat' (first | with_reducible assumption | with_reducible intro _ | with_reducible apply State.modQueue_memOk
                 | with_reducible apply State.enable_memOk | with_reducible apply State.disable_memOk | simp only [State.mk_memOk]
                 | with_reducible apply State.memOk_mem | split)

theorem State.queueWrite_memOk {s : State} {n o v : Nat} (hok : s.MemOk) :
    (State.queueWrite s n o v).MemOk := by
  unfold State.queueWrite
  repeat' (first | with_reducible assumption | with_reducible intro _ | with_reducible apply State.modQueue_memOk
                 | with_reducible apply State.tailWrite_memOk | with_reducible apply State.qctlWrite_memOk | simp only [State.mk_memOk]
                 | with_reducible apply State.memOk_mem | split)

theorem State.modTime_memOk {s : State} {f : Time → Time} (hok : s.MemOk) :
    (State.modTime s f).MemOk := by
  unfold State.modTime
  (try dsimp only)
  repeat' (first | with_reducible assumption | simp only [State.mk_memOk] | with_reducible apply State.memOk_mem)

theorem State.modTrust_memOk {s : State} {f : Trust → Trust} (hok : s.MemOk) :
    (State.modTrust s f).MemOk := by
  unfold State.modTrust
  (try dsimp only)
  repeat' (first | with_reducible assumption | simp only [State.mk_memOk] | with_reducible apply State.memOk_mem)

theorem State.modEv_memOk {s : State} {f : EvRing → EvRing} (hok : s.MemOk) :
    (State.modEv s f).MemOk := by
  unfold State.modEv
  (try dsimp only)
  repeat' (first | with_reducible assumption | simp only [State.mk_memOk] | with_reducible apply State.memOk_mem)

theorem State.frontWrite_memOk {s : State} {o v : Nat} (hok : s.MemOk) :
    (State.frontWrite s o v).MemOk := by
  unfold State.frontWrite
  repeat' (first | with_reducible assumption | with_reducible intro _ | with_reducible apply State.evhead_memOk
                 | with_reducible apply State.modTime_memOk | with_reducible apply State.modTrust_memOk
                 | with_reducible apply State.modEv_memOk | simp only [State.mk_memOk] | with_reducible apply State.memOk_mem | split)

theorem State.dbgWrite_memOk {s : State} {hw v : Nat} (hok : s.MemOk) :
    (State.dbgWrite s hw v).MemOk := by
  unfold State.dbgWrite
  (try dsimp only)
  repeat' (first | with_reducible assumption | with_reducible intro _ | with_reducible apply State.modCtx_memOk
                 | with_reducible apply State.trace_memOk | with_reducible apply State.dbgRun_memOk
                 | with_reducible apply State.dbgStep_memOk | with_reducible apply State.dbgStopreq_memOk | simp only [State.mk_memOk]
                 | with_reducible apply State.memOk_mem | split)

theorem State.traceWrite_memOk {s : State} {cl o v : Nat} (hok : s.MemOk) :
    (State.traceWrite s cl o v).MemOk := by
  unfold State.traceWrite
  (try dsimp only)
  repeat' (first | with_reducible assumption | with_reducible intro _ | with_reducible apply State.modCl_memOk
                 | with_reducible apply State.trace_memOk | simp only [State.mk_memOk] | with_reducible apply State.memOk_mem | split)

theorem State.debugWrite_memOk {s : State} {o v : Nat} (hok : s.MemOk) :
    (State.debugWrite s o v).MemOk := by
  unfold State.debugWrite
  repeat' (first | with_reducible assumption | with_reducible intro _ | with_reducible apply State.modAux_memOk
                 | with_reducible apply State.dbgWrite_memOk | with_reducible apply State.traceWrite_memOk | split)

theorem State.liningWrite_memOk {s : State} {core off : Nat} {bs : List Byte} (hok : s.MemOk) :
    (State.liningWrite s core off bs).MemOk := by
  unfold State.liningWrite
  (try dsimp only)
  repeat' (first | with_reducible assumption | with_reducible intro _ | with_reducible apply State.modAux_memOk
                 | simp only [State.mk_memOk] | with_reducible apply State.memOk_mem | with_reducible apply Mem.mk_wf
                 | with_reducible apply State.memOk_hbm | with_reducible apply State.memOk_host | with_reducible apply State.memOk_spad
                 | with_reducible apply State.memOk_imem | with_reducible apply State.memOk_lining | with_reducible apply Memory.write_wf
                 | with_reducible apply Memory.hostPut_wf | with_reducible apply Memory.putAll_wf | with_reducible apply Memory.writeN_wf
                 | with_reducible apply Memory.foldl_wf | split)

theorem execLiningStoreWrite_memOk {core off len data : Nat} {s : State} (hok : s.MemOk) :
    Out.MemOk (execLiningStoreWrite core off len data s) := by
  unfold execLiningStoreWrite
  repeat' (first | with_reducible assumption | with_reducible apply Out.next_memOk | with_reducible apply State.liningWrite_memOk | split)

theorem State.regWrite_memOk {s : State} {off v : Nat} (hok : s.MemOk) :
    (State.regWrite s off v).MemOk := by
  unfold State.regWrite
  (try dsimp only)
  repeat' (first | with_reducible assumption | with_reducible apply State.queueWrite_memOk | with_reducible apply State.frontWrite_memOk
                 | with_reducible apply State.debugWrite_memOk | with_reducible apply State.liningWrite_memOk | simp only [State.mk_memOk]
                 | with_reducible apply State.memOk_mem | split)

theorem execRegisterWrite_memOk {off v : Nat} {s : State} (hok : s.MemOk) :
    Out.MemOk (execRegisterWrite off v s) :=
  Out.next_memOk (State.regWrite_memOk hok)

theorem State.ingressPut_memOk {s : State} {off len data : Nat} (hok : s.MemOk) :
    (State.ingressPut s off len data).MemOk := by
  unfold State.ingressPut
  (try dsimp only)
  repeat' (first | with_reducible assumption | with_reducible intro _ | with_reducible apply State.modCore_memOk
                 | with_reducible apply State.idleIngress_memOk | simp only [State.mk_memOk] | with_reducible apply State.memOk_mem
                 | with_reducible apply foldl_memOk | with_reducible apply foldl_fst_memOk | split)

theorem execIngressWrite_memOk {off len data : Nat} {s : State} (hok : s.MemOk) :
    Out.MemOk (execIngressWrite off len data s) :=
  Out.next_memOk (State.ingressPut_memOk hok)

theorem State.hostRead_memOk {s : State} {off len : Nat} (hok : s.MemOk) :
    (State.hostRead s off len).MemOk := by
  unfold State.hostRead
  (try dsimp only)
  repeat' (first | with_reducible assumption | with_reducible intro _ | simp only [State.mk_memOk] | with_reducible apply State.memOk_mem)

theorem execHostScratchpadRead_memOk {off len : Nat} {s : State} (hok : s.MemOk) :
    Out.MemOk (execHostScratchpadRead off len s) :=
  Out.next_memOk (State.hostRead_memOk hok)

theorem execHostAtomicToBar_memOk {_bar _off : Nat} {s : State} (hok : s.MemOk) :
    Out.MemOk (execHostAtomicToBar _bar _off s) := by
  unfold execHostAtomicToBar
  (try dsimp only)
  repeat' (first | with_reducible assumption | with_reducible apply Out.next_memOk | simp only [State.mk_memOk]
                 | with_reducible apply State.memOk_mem)

theorem execAccountingClear_memOk {core : Nat} {s : State} (hok : s.MemOk) :
    Out.MemOk (execAccountingClear core s) := by
  unfold execAccountingClear
  repeat' (first | with_reducible assumption | with_reducible intro _ | with_reducible apply Out.next_memOk
                 | with_reducible apply State.modAux_memOk | with_reducible apply State.ifOpen_memOk)

/-! ## Module -/

theorem State.timeMeets_memOk {s : State} {ns : Nat} (hok : s.MemOk) :
    (State.timeMeets s ns).MemOk := by
  unfold State.timeMeets
  (try dsimp only)
  repeat' (first | with_reducible assumption | with_reducible intro _ | with_reducible apply State.sctPass_memOk
                 | with_reducible apply State.modTime_memOk)

theorem execPpsEdge_memOk {s : State} (hok : s.MemOk) :
    Out.MemOk (execPpsEdge s) := by
  unfold execPpsEdge
  repeat' (first | with_reducible assumption | with_reducible apply Out.next_memOk | with_reducible apply State.timeMeets_memOk | split)

theorem execPtmExchange_memOk {ns : Nat} {s : State} (hok : s.MemOk) :
    Out.MemOk (execPtmExchange ns s) := by
  unfold execPtmExchange
  repeat' (first | with_reducible assumption | with_reducible apply Out.next_memOk | with_reducible apply State.timeMeets_memOk | split)

theorem execPowerThrottleStep_memOk {avg : Nat} {s : State} (hok : s.MemOk) :
    Out.MemOk (execPowerThrottleStep avg s) := by
  unfold execPowerThrottleStep
  repeat' (first | with_reducible assumption | with_reducible apply Out.next_memOk | simp only [State.mk_memOk]
                 | with_reducible apply State.memOk_mem)

theorem State.moduleReset_memOk {s : State} (hok : s.MemOk) : (State.moduleReset s).MemOk := by
  unfold State.moduleReset
  dsimp only
  repeat' split
  all_goals
    simp only [State.mk_memOk]
    exact Mem.mk_wf rfl (State.memOk_host hok) rfl rfl rfl

theorem execModuleReset_memOk {s : State} (hok : s.MemOk) :
    Out.MemOk (execModuleReset s) :=
  Out.next_memOk (State.moduleReset_memOk hok)

theorem State.fullService_memOk {s : State} (hok : s.MemOk) :
    (State.fullService s).MemOk := by
  unfold State.fullService
  (try dsimp only)
  repeat' (first | with_reducible assumption | with_reducible apply State.postEvent_memOk | simp only [State.mk_memOk]
                 | with_reducible apply State.memOk_mem | split)

theorem execFullService_memOk {s : State} (hok : s.MemOk) :
    Out.MemOk (execFullService s) :=
  Out.next_memOk (State.fullService_memOk hok)

theorem State.attest_memOk {s : State} {nonce : Nat} (hok : s.MemOk) :
    (State.attest s nonce).MemOk := by
  unfold State.attest
  (try dsimp only)
  repeat' (first | with_reducible assumption | with_reducible intro _ | with_reducible apply State.modTrust_memOk
                 | simp only [State.mk_memOk] | with_reducible apply State.memOk_mem | split)

theorem execAttestRequest_memOk {nonce : Nat} {s : State} (hok : s.MemOk) :
    Out.MemOk (execAttestRequest nonce s) :=
  Out.next_memOk (State.attest_memOk hok)

theorem execCorrectableError_memOk {hbm : Bool} {n : Nat} {s : State} (hok : s.MemOk) :
    Out.MemOk (execCorrectableError hbm n s) := by
  unfold execCorrectableError
  repeat' (first | with_reducible assumption | with_reducible intro _ | with_reducible apply Out.next_memOk
                 | with_reducible apply State.modTrust_memOk)

theorem State.uncorrectable_memOk {s : State} {who : ErrReader} {addr : Nat} {unit : ErrUnit} (hok : s.MemOk) :
    (State.uncorrectable s who addr unit).MemOk := by
  unfold State.uncorrectable
  (try dsimp only)
  repeat' (first | with_reducible assumption | with_reducible intro _ | with_reducible apply State.queueErr_memOk
                 | with_reducible apply State.mapOut_memOk | with_reducible apply State.stored_memOk
                 | with_reducible apply State.teamError_memOk | with_reducible apply State.modTrust_memOk | simp only [State.mk_memOk]
                 | with_reducible apply State.memOk_mem | split)

theorem execUncorrectableError_memOk {who : ErrReader} {addr : Nat} {unit : ErrUnit} {s : State} (hok : s.MemOk) :
    Out.MemOk (execUncorrectableError who addr unit s) :=
  Out.next_memOk (State.uncorrectable_memOk hok)

theorem State.sharedDo_memOk {s : State} {i : Instr} (hok : s.MemOk) :
    (State.sharedDo s i).MemOk := by
  have hu : (s.spadRaw s.oldBytes).MemOk := State.spadRaw_memOk hok
  unfold State.sharedDo
  dsimp only
  split
  · rename_i v h
    refine State.spadRaw_memOk ?_
    split at h
    · exact execEngineCommandComplete_memOk hu _ h
    · exact execLinkFlitReceive_memOk hu _ h
    · exact Out.next_memOk hu _ h
  · exact hok

theorem State.sharedStage_memOk {s : State} (hok : s.MemOk) :
    (State.sharedStage s).MemOk := by
  unfold State.sharedStage
  repeat' (first | with_reducible assumption | with_reducible intro _ | with_reducible apply State.sharedDo_memOk
                 | with_reducible apply foldl_memOk)

theorem tick_memOk {s : State} (hok : s.MemOk) :
    Out.MemOk (tick s) := by
  unfold tick
  repeat' (first | with_reducible assumption | with_reducible intro _ | with_reducible apply Out.next_memOk
                 | with_reducible apply State.coreCycle_memOk | with_reducible apply State.cycleEnd_memOk
                 | with_reducible apply State.barStage_memOk | with_reducible apply State.sharedStage_memOk
                 | with_reducible apply foldl_memOk)

/-! ## Place -/

theorem State.placed_memOk {s : State} {i : Instr} {w : Nat} (hok : s.MemOk) :
    (State.placed s i w).MemOk := by
  unfold State.placed
  (try dsimp only)
  repeat' (first | with_reducible assumption | with_reducible intro _ | with_reducible apply State.modCtx_memOk
                 | with_reducible apply State.modCore_memOk | with_reducible apply State.imemWrite_memOk | simp only [State.mk_memOk]
                 | with_reducible apply State.memOk_mem | split)

/-! ## Step -/

theorem State.withFetchWord_memOk {s : State} {nbits w : Nat} (hok : s.MemOk) :
    (State.withFetchWord s nbits w).MemOk := by
  unfold State.withFetchWord
  repeat' (first | with_reducible assumption | with_reducible apply State.placed_memOk | simp only [State.mk_memOk]
                 | with_reducible apply State.memOk_mem | split)

/-! ## Every instruction -/

theorem exec_memOk {i : Instr} {s : State} (hok : s.MemOk) : Out.MemOk (exec i s) := by
  cases i with
  | brEqz _ => exact execBrEqz_memOk hok
  | brNez _ => exact execBrNez_memOk hok
  | brLtz _ => exact execBrLtz_memOk hok
  | brGez _ => exact execBrGez_memOk hok
  | brGtz _ => exact execBrGtz_memOk hok
  | brLez _ => exact execBrLez_memOk hok
  | brc _ => exact execBrc_memOk hok
  | brpAll _ => exact execBrpAll_memOk hok
  | brpNone _ => exact execBrpNone_memOk hok
  | jmp _ => exact execJmp_memOk hok
  | call _ => exact execCall_memOk hok
  | loopb _ => exact execLoopb_memOk hok
  | jmpi _ => exact execJmpi_memOk hok
  | calli _ => exact execCalli_memOk hok
  | ret _ => exact execRet_memOk hok
  | svc _ => exact execSvc_memOk hok
  | brk _ => exact execBrk_memOk hok
  | eret => exact execEret_memOk hok
  | add _ => exact execAdd_memOk hok
  | sub _ => exact execSub_memOk hok
  | and _ => exact execAnd_memOk hok
  | or _ => exact execOr_memOk hok
  | xor _ => exact execXor_memOk hok
  | addsh _ _ => exact execAddsh_memOk hok
  | mov _ => exact execMov_memOk hok
  | addi _ => exact execAddi_memOk hok
  | li _ => exact execLi_memOk hok
  | andi _ => exact execAndi_memOk hok
  | ori _ => exact execOri_memOk hok
  | xori _ => exact execXori_memOk hok
  | slti _ => exact execSlti_memOk hok
  | shl _ => exact execShl_memOk hok
  | shr _ => exact execShr_memOk hok
  | sra _ => exact execSra_memOk hok
  | shli _ => exact execShli_memOk hok
  | shri _ => exact execShri_memOk hok
  | srai _ => exact execSrai_memOk hok
  | clz _ => exact execClz_memOk hok
  | popc _ => exact execPopc_memOk hok
  | mul _ => exact execMul_memOk hok
  | mulh _ => exact execMulh_memOk hok
  | mulhs _ => exact execMulhs_memOk hok
  | div _ => exact execDiv_memOk hok
  | divs _ => exact execDivs_memOk hok
  | rem _ => exact execRem_memOk hok
  | rems _ => exact execRems_memOk hok
  | min _ => exact execMin_memOk hok
  | max _ => exact execMax_memOk hok
  | mins _ => exact execMins_memOk hok
  | maxs _ => exact execMaxs_memOk hok
  | slt _ => exact execSlt_memOk hok
  | slts _ => exact execSlts_memOk hok
  | seq _ => exact execSeq_memOk hok
  | sel _ _ _ => exact execSel_memOk hok
  | cmpc _ _ => exact execCmpc_memOk hok
  | bfx _ => exact execBfx_memOk hok
  | bfi _ => exact execBfi_memOk hok
  | mfc _ => exact execMfc_memOk hok
  | mtc _ => exact execMtc_memOk hok
  | ldb _ => exact execLdb_memOk hok
  | ldbs _ => exact execLdbs_memOk hok
  | ldh _ => exact execLdh_memOk hok
  | ldhs _ => exact execLdhs_memOk hok
  | ldw _ => exact execLdw_memOk hok
  | ldws _ => exact execLdws_memOk hok
  | ldd _ => exact execLdd_memOk hok
  | stb _ => exact execStb_memOk hok
  | sth _ => exact execSth_memOk hok
  | stw _ => exact execStw_memOk hok
  | std _ => exact execStd_memOk hok
  | idleXy => exact execIdleXy_memOk hok
  | vadd _ _ => exact execVadd_memOk hok
  | vsub _ _ => exact execVsub_memOk hok
  | vmul _ => exact execVmul_memOk hok
  | vmulh _ => exact execVmulh_memOk hok
  | vmac _ => exact execVmac_memOk hok
  | vmacs _ => exact execVmacs_memOk hok
  | vabs _ _ => exact execVabs_memOk hok
  | vneg _ _ => exact execVneg_memOk hok
  | vmin _ => exact execVmin_memOk hok
  | vmax _ => exact execVmax_memOk hok
  | vsat _ _ => exact execVsat_memOk hok
  | vnrw _ _ _ _ => exact execVnrw_memOk hok
  | vwid _ => exact execVwid_memOk hok
  | vand _ => exact execVand_memOk hok
  | vor _ => exact execVor_memOk hok
  | vxor _ => exact execVxor_memOk hok
  | vnot _ => exact execVnot_memOk hok
  | vshl _ _ => exact execVshl_memOk hok
  | vshr _ _ => exact execVshr_memOk hok
  | vsra _ _ => exact execVsra_memOk hok
  | vcmp _ _ => exact execVcmp_memOk hok
  | vsel _ _ => exact execVsel_memOk hok
  | vfadd _ => exact execVfadd_memOk hok
  | vfsub _ => exact execVfsub_memOk hok
  | vfmul _ => exact execVfmul_memOk hok
  | vfma _ _ => exact execVfma_memOk hok
  | vfms _ _ => exact execVfms_memOk hok
  | vfmin _ => exact execVfmin_memOk hok
  | vfmax _ => exact execVfmax_memOk hok
  | vfcmp _ _ => exact execVfcmp_memOk hok
  | vfcls _ => exact execVfcls_memOk hok
  | vcvt _ _ _ => exact execVcvt_memOk hok
  | vrcp _ => exact execVrcp_memOk hok
  | vrsq _ => exact execVrsq_memOk hok
  | vexp _ => exact execVexp_memOk hok
  | vlog _ => exact execVlog_memOk hok
  | vtanh _ => exact execVtanh_memOk hok
  | vqnt _ _ _ => exact execVqnt_memOk hok
  | vdqnt _ _ _ => exact execVdqnt_memOk hok
  | vred _ _ => exact execVred_memOk hok
  | vperm _ => exact execVperm_memOk hok
  | vsld _ _ => exact execVsld_memOk hok
  | vbcstScalar _ => exact execVbcstScalar_memOk hok
  | vbcstElement _ _ => exact execVbcstElement_memOk hok
  | vins _ _ => exact execVins_memOk hok
  | vext _ _ => exact execVext_memOk hok
  | vmov _ => exact execVmov_memOk hok
  | viota _ => exact execViota_memOk hok
  | pand _ => exact execPand_memOk hok
  | por _ => exact execPor_memOk hok
  | pxor _ => exact execPxor_memOk hok
  | pnot _ => exact execPnot_memOk hok
  | pset _ => exact execPset_memOk hok
  | pcnt _ => exact execPcnt_memOk hok
  | idleVw => exact execIdleVw_memOk hok
  | vld _ => exact execVld_memOk hok
  | vst _ => exact execVst_memOk hok
  | vlds _ => exact execVlds_memOk hok
  | vsts _ => exact execVsts_memOk hok
  | vldb _ => exact execVldb_memOk hok
  | vldx _ => exact execVldx_memOk hok
  | vstx _ => exact execVstx_memOk hok
  | pld _ => exact execPld_memOk hok
  | pst _ => exact execPst_memOk hok
  | fill _ => exact execFill_memOk hok
  | idleL => exact execIdleL_memOk hok
  | mmul _ => exact execMmul_memOk hok
  | macc _ => exact execMacc_memOk hok
  | mmuls _ _ => exact execMmuls_memOk hok
  | maccs _ _ => exact execMaccs_memOk hok
  | mstrm _ => exact execMstrm_memOk hok
  | mzero _ => exact execMzero_memOk hok
  | mrdv _ => exact execMrdv_memOk hok
  | mwrv _ => exact execMwrv_memOk hok
  | mrds _ => exact execMrds_memOk hok
  | mwrs _ => exact execMwrs_memOk hok
  | mseam _ => exact execMseam_memOk hok
  | mresume _ => exact execMresume_memOk hok
  | idleM => exact execIdleM_memOk hok
  | cplvl _ => exact execCplvl_memOk hok
  | cpbase _ => exact execCpbase_memOk hok
  | cpgo _ => exact execCpgo_memOk hok
  | cpstrm _ => exact execCpstrm_memOk hok
  | cpstrmOff _ => exact execCpstrmOff_memOk hok
  | cpcan _ => exact execCpcan_memOk hok
  | cpstat _ => exact execCpstat_memOk hok
  | lksend _ => exact execLksend_memOk hok
  | lkrecv _ => exact execLkrecv_memOk hok
  | lkred _ => exact execLkred_memOk hok
  | lktime _ => exact execLktime_memOk hok
  | tlbinv _ => exact execTlbinv_memOk hok
  | idleC => exact execIdleC_memOk hok
  | gpush _ => exact execGpush_memOk hok
  | gpop _ => exact execGpop_memOk hok
  | sacc _ => exact execSacc_memOk hok
  | sfop _ => exact execSfop_memOk hok
  | nlbin _ => exact execNlbin_memOk hok
  | nlpos _ => exact execNlpos_memOk hok
  | nlreq _ => exact execNlreq_memOk hok
  | nlpop _ => exact execNlpop_memOk hok
  | nlstat _ => exact execNlstat_memOk hok
  | spawn _ => exact execSpawn_memOk hok
  | take _ => exact execTake_memOk hok
  | watch _ => exact execWatch_memOk hok
  | unwatch _ => exact execUnwatch_memOk hok
  | idleQ => exact execIdleQ_memOk hok
  | setfmtImm _ => exact execSetfmtImm_memOk hok
  | setfmtReg _ => exact execSetfmtReg_memOk hok
  | waitt _ => exact execWaitt_memOk hok
  | slack _ => exact execSlack_memOk hok
  | drain _ => exact execDrain_memOk hok
  | bar _ => exact execBar_memOk hok
  | yield _ => exact execYield_memOk hok
  | yieldNw _ => exact execYieldNw_memOk hok
  | tdone _ => exact execTdone_memOk hok
  | ovl _ => exact execOvl_memOk hok
  | zset _ => exact execZset_memOk hok
  | time _ => exact execTime_memOk hok
  | perf _ => exact execPerf_memOk hok
  | getflg _ => exact execGetflg_memOk hok
  | clrflg _ => exact execClrflg_memOk hok
  | spflag _ _ => exact execSpflag_memOk hok
  | wfe _ => exact execWfe_memOk hok
  | halt _ => exact execHalt_memOk hok
  | keyld _ => exact execKeyld_memOk hok
  | keyldClr _ => exact execKeyldClr_memOk hok
  | bundleIssue _ => exact execBundleIssue_memOk hok
  | ifetchStallEnd _ => exact execIfetchStallEnd_memOk hok
  | resultLand _ => exact execResultLand_memOk hok
  | productCommit _ => exact execProductCommit_memOk hok
  | streamSliceArrive _ => exact execStreamSliceArrive_memOk hok
  | contextUnblock _ => exact execContextUnblock_memOk hok
  | primarySwitch _ => exact execPrimarySwitch_memOk hok
  | wfeWake _ => exact execWfeWake_memOk hok
  | preemption _ => exact execPreemption_memOk hok
  | hemovr _ => exact execHemovr_memOk hok
  | budgetOverrun _ => exact execBudgetOverrun_memOk hok
  | trapEntry _ => exact execTrapEntry_memOk hok
  | minorFault _ _ _ _ => exact execMinorFault_memOk hok
  | liningRun _ => exact execLiningRun_memOk hok
  | liningEnd _ => exact execLiningEnd_memOk hok
  | pageWalk _ _ _ _ _ => exact execPageWalk_memOk hok
  | engineMajorFault _ => exact execEngineMajorFault_memOk hok
  | streamFaultDeliver _ => exact execStreamFaultDeliver_memOk hok
  | elementaryCopyEmit _ _ => exact execElementaryCopyEmit_memOk hok
  | engineCommandComplete _ => exact execEngineCommandComplete_memOk hok
  | engineTakesCommand _ _ => exact execEngineTakesCommand_memOk hok
  | dataQueueEntryArrive _ => exact execDataQueueEntryArrive_memOk hok
  | stitchPushDeferred _ _ => exact execStitchPushDeferred_memOk hok
  | watchWindowStart _ => exact execWatchWindowStart_memOk hok
  | dispatch _ => exact execDispatch_memOk hok
  | barrierRelease _ _ => exact execBarrierRelease_memOk hok
  | segmentCopyDone _ _ => exact execSegmentCopyDone_memOk hok
  | linkWindowStart _ _ => exact execLinkWindowStart_memOk hok
  | linkFlitReceive _ _ _ _ => exact execLinkFlitReceive_memOk hok
  | lktimeReached _ _ => exact execLktimeReached_memOk hok
  | sctExpiry _ _ => exact execSctExpiry_memOk hok
  | evictionDone _ _ => exact execEvictionDone_memOk hok
  | evictionFailed _ _ => exact execEvictionFailed_memOk hok
  | nop _ _ => exact execNop_memOk hok
  | launch _ _ => exact execLaunch_memOk hok
  | launchComplete _ => exact execLaunchComplete_memOk hok
  | task _ _ => exact execTask_memOk hok
  | signal _ _ => exact execSignal_memOk hok
  | waitsig _ _ => exact execWaitsig_memOk hok
  | waitsigHolds _ => exact execWaitsigHolds_memOk hok
  | waitsigTimeout _ => exact execWaitsigTimeout_memOk hok
  | pred _ _ => exact execPred_memOk hok
  | loop _ _ => exact execLoop_memOk hok
  | indir _ _ => exact execIndir_memOk hok
  | ffence _ _ => exact execFfence_memOk hok
  | atPkt _ _ => exact execAtPkt_memOk hok
  | atTimeReached _ => exact execAtTimeReached_memOk hok
  | streamPin _ _ => exact execStreamPin_memOk hok
  | streamTouch _ _ => exact execStreamTouch_memOk hok
  | streamEvict _ _ => exact execStreamEvict_memOk hok
  | event _ _ => exact execEvent_memOk hok
  | qtailWrite _ _ => exact execQtailWrite_memOk hok
  | queueEnable _ => exact execQueueEnable_memOk hok
  | queueDisable _ => exact execQueueDisable_memOk hok
  | qstatClear _ => exact execQstatClear_memOk hok
  | evheadWrite _ => exact execEvheadWrite_memOk hok
  | trheadWrite _ _ => exact execTrheadWrite_memOk hok
  | registerWrite _ _ => exact execRegisterWrite_memOk hok
  | ingressWrite _ _ _ => exact execIngressWrite_memOk hok
  | hostScratchpadRead _ _ => exact execHostScratchpadRead_memOk hok
  | liningStoreWrite _ _ _ _ => exact execLiningStoreWrite_memOk hok
  | attestRequest _ => exact execAttestRequest_memOk hok
  | dbgRun _ => exact execDbgRun_memOk hok
  | dbgStep _ => exact execDbgStep_memOk hok
  | dbgStopreq _ => exact execDbgStopreq_memOk hok
  | debugBreak _ => exact execDebugBreak_memOk hok
  | stepLimit _ => exact execStepLimit_memOk hok
  | accountingClear _ => exact execAccountingClear_memOk hok
  | moduleReset => exact execModuleReset_memOk hok
  | fullService => exact execFullService_memOk hok
  | uncorrectableError _ _ _ => exact execUncorrectableError_memOk hok
  | ppsEdge => exact execPpsEdge_memOk hok
  | ptmExchange _ => exact execPtmExchange_memOk hok
  | powerThrottleStep _ => exact execPowerThrottleStep_memOk hok
  | hostAtomicToBar bar off => exact @execHostAtomicToBar_memOk bar off _ hok
  | mrdsMwrsRow _ => exact execMrdsMwrsRow_memOk hok
  | correctableError _ _ => exact execCorrectableError_memOk hok

end Sys2Proof.Machine
end

