-- ==== Sys2Proof/Laws/Ops.lean ====
section
/-!
SUPPORT. What the shared operations of the syllables can do: charging energy, adding results, performing, and writing the own
scratchpad.
-/

namespace Sys2Proof.Machine

/-! ## Energy -/

theorem State.charge_cases (s : State) (hw code n : Nat) :
    s.charge hw code n = s ∧ BitVec.ofNat 64 (SMap.getD (s.auxOf (coreOf hw)).weights code 0 * n) = 0 ∨
    s.charge hw code n = s.modCtx hw (fun c => { c with
      energy := c.energy + BitVec.ofNat 64 (SMap.getD (s.auxOf (coreOf hw)).weights code 0 * n) }) := by
  by_cases h : SMap.getD (s.auxOf (coreOf hw)).weights code 0 = 0 ∨ n = 0
  · refine .inl ⟨if_pos h, ?_⟩
    rcases h with h | h <;> simp [h]
  · exact .inr (if_neg h)

@[simp] theorem State.charge_mod (s : State) (hw code n : Nat) : (s.charge hw code n).mod = s.mod := by
  rcases s.charge_cases hw code n with ⟨h, -⟩ | h <;> simp [h]
@[simp] theorem State.charge_front (s : State) (hw code n : Nat) : (s.charge hw code n).front = s.front := by
  rcases s.charge_cases hw code n with ⟨h, -⟩ | h <;> simp [h]
@[simp] theorem State.charge_clusters (s : State) (hw code n : Nat) : (s.charge hw code n).clusters = s.clusters := by
  rcases s.charge_cases hw code n with ⟨h, -⟩ | h <;> simp [h]
@[simp] theorem State.charge_cores (s : State) (hw code n : Nat) : (s.charge hw code n).cores = s.cores := by
  rcases s.charge_cases hw code n with ⟨h, -⟩ | h <;> simp [h]
@[simp] theorem State.charge_aux (s : State) (hw code n : Nat) : (s.charge hw code n).aux = s.aux := by
  rcases s.charge_cases hw code n with ⟨h, -⟩ | h <;> simp [h]
@[simp] theorem State.charge_mem (s : State) (hw code n : Nat) : (s.charge hw code n).mem = s.mem := by
  rcases s.charge_cases hw code n with ⟨h, -⟩ | h <;> simp [h]
@[simp] theorem State.charge_cur (s : State) (hw code n : Nat) : (s.charge hw code n).cur = s.cur := by
  rcases s.charge_cases hw code n with ⟨h, -⟩ | h <;> simp [h]
@[simp] theorem State.charge_agenda (s : State) (hw code n : Nat) : (s.charge hw code n).agenda = s.agenda := by
  rcases s.charge_cases hw code n with ⟨h, -⟩ | h <;> simp [h]

/-- The context that is charged: only its energy counter changes. -/
@[simp] theorem State.charge_ctx_same (s : State) (hw code n : Nat) : (s.charge hw code n).ctx hw =
    { s.ctx hw with
      energy := (s.ctx hw).energy + BitVec.ofNat 64 (SMap.getD (s.auxOf (coreOf hw)).weights code 0 * n) } := by
  rcases s.charge_cases hw code n with ⟨h, e⟩ | h
  · simp [h, e]
  · simp [h]

@[simp] theorem State.charge_ctx_other (s : State) {hw k : Nat} (code n : Nat) (h : k ≠ hw) :
    (s.charge hw code n).ctx k = s.ctx k := by
  rcases s.charge_cases hw code n with ⟨e, -⟩ | e <;> simp [e, h]

@[simp] theorem State.charge_core (s : State) (hw code n k : Nat) : (s.charge hw code n).core k = s.core k := by
  simp [State.core]
@[simp] theorem State.charge_auxOf (s : State) (hw code n k : Nat) : (s.charge hw code n).auxOf k = s.auxOf k := by
  simp [State.auxOf]
@[simp] theorem State.charge_cluster (s : State) (hw code n k : Nat) : (s.charge hw code n).cluster k = s.cluster k := by
  simp [State.cluster]
@[simp] theorem State.charge_me (s : State) (code n : Nat) : (s.charge s.cur.hw code n).me =
    { s.me with energy := s.me.energy + BitVec.ofNat 64 (SMap.getD (s.auxOf s.myCore).weights code 0 * n) } := by
  simp [State.me, State.myCore]

/-! ## Results -/

/-- The entry that a pending value result adds. -/
def State.newPend (s : State) (dest : Dest) (mask : PReg) (val : VReg) (flags : Flags) (lat : Nat) : Pend :=
  ⟨dest, mask, val, flags, s.me.run.sched + lat, (s.core s.myCore).arr + lat, s.cur.bundle, none, 0, 0⟩

@[simp] theorem State.pushVal_mod (s : State) (d : Dest) (m : PReg) (v : VReg) (f : Flags) (l : Nat) :
    (s.pushVal d m v f l).mod = s.mod := rfl
@[simp] theorem State.pushVal_front (s : State) (d : Dest) (m : PReg) (v : VReg) (f : Flags) (l : Nat) :
    (s.pushVal d m v f l).front = s.front := rfl
@[simp] theorem State.pushVal_clusters (s : State) (d : Dest) (m : PReg) (v : VReg) (f : Flags) (l : Nat) :
    (s.pushVal d m v f l).clusters = s.clusters := rfl
@[simp] theorem State.pushVal_cores (s : State) (d : Dest) (m : PReg) (v : VReg) (f : Flags) (l : Nat) :
    (s.pushVal d m v f l).cores = s.cores := rfl
@[simp] theorem State.pushVal_aux (s : State) (d : Dest) (m : PReg) (v : VReg) (f : Flags) (l : Nat) :
    (s.pushVal d m v f l).aux = s.aux := rfl
@[simp] theorem State.pushVal_mem (s : State) (d : Dest) (m : PReg) (v : VReg) (f : Flags) (l : Nat) :
    (s.pushVal d m v f l).mem = s.mem := rfl
@[simp] theorem State.pushVal_cur (s : State) (d : Dest) (m : PReg) (v : VReg) (f : Flags) (l : Nat) :
    (s.pushVal d m v f l).cur = s.cur := rfl
@[simp] theorem State.pushVal_agenda (s : State) (d : Dest) (m : PReg) (v : VReg) (f : Flags) (l : Nat) :
    (s.pushVal d m v f l).agenda = s.agenda := rfl
@[simp] theorem State.pushVal_core (s : State) (d : Dest) (m : PReg) (v : VReg) (f : Flags) (l k : Nat) :
    (s.pushVal d m v f l).core k = s.core k := rfl
@[simp] theorem State.pushVal_auxOf (s : State) (d : Dest) (m : PReg) (v : VReg) (f : Flags) (l k : Nat) :
    (s.pushVal d m v f l).auxOf k = s.auxOf k := rfl
@[simp] theorem State.pushVal_cluster (s : State) (d : Dest) (m : PReg) (v : VReg) (f : Flags) (l k : Nat) :
    (s.pushVal d m v f l).cluster k = s.cluster k := rfl
@[simp] theorem State.pushVal_myCore (s : State) (d : Dest) (m : PReg) (v : VReg) (f : Flags) (l : Nat) :
    (s.pushVal d m v f l).myCore = s.myCore := rfl

/-- The context whose bundle issues has one more pending result, and is otherwise as before. -/
@[simp] theorem State.pushVal_me (s : State) (d : Dest) (m : PReg) (v : VReg) (f : Flags) (l : Nat) :
    (s.pushVal d m v f l).ctx s.cur.hw =
      { s.me with pend := { s.me.pend with val := s.me.pend.val ++ [s.newPend d m v f l] } } := by
  simp [State.pushVal, State.newPend, State.me]

@[simp] theorem State.pushVal_ctx_other (s : State) (d : Dest) (m : PReg) (v : VReg) (f : Flags) (l : Nat) {k : Nat}
    (h : k ≠ s.cur.hw) : (s.pushVal d m v f l).ctx k = s.ctx k := by
  simp [State.pushVal, h]

/-! ## Performing -/

/-- A syllable whose guard does not hold, and which meets no decode fault, changes nothing. -/
theorem State.perform_off (s : State) (mode chk : Option Chk) (wait : Option Wait) (eff : State → State)
    (hm : mode = none ∨ s.cur.go = true) : s.perform mode false wait chk eff = .next s := by
  unfold State.perform
  rcases hm with h | h
  · subst h
    simp
  · simp [h]

/-- A syllable that meets no fault and no wait has its effect. -/
theorem State.perform_on (s : State) (mode chk : Option Chk) (wait : Option Wait) (eff : State → State)
    (h : s.cur.go = true ∨ mode = none ∧ wait = none ∧ chk = none) : s.perform mode true wait chk eff = .next (eff s) := by
  unfold State.perform
  rcases h with h | ⟨rfl, rfl, rfl⟩
  · simp [h]
  · simp

/-- A decode fault of the mode traps whatever the guard says. -/
theorem State.perform_mode (s : State) (k : Chk) (on : Bool) (chk : Option Chk) (wait : Option Wait) (eff : State → State)
    (h : s.cur.go = false) : s.perform (some k) on wait chk eff = .next ((s.met (.mode k)).chkTrap k) := by
  simp [State.perform, h]

/-- A failed issue check traps. -/
theorem State.perform_chk (s : State) (k : Chk) (eff : State → State) (h : s.cur.go = false) :
    s.perform none true none (some k) eff = .next ((s.met (.chk k)).chkTrap k) := by
  simp [State.perform, h]

end Sys2Proof.Machine
end

