-- ==== Sys2Proof/Safety.lean ====
section
/-!
DEFINITION. What a safe run is: a step that neither faults nor is refused, and stays so for a number of steps.
-/

namespace Sys2Proof

/-- An outcome that is a next state. -/
def Safe.ok {σ φ ρ : Type} : Host.Outcome σ φ ρ → Bool
  | .next _ => true
  | _ => false

/-- The machine makes `n` steps from a state without a fault or a refusal. -/
def Safe.steps : Nat → Machine.State → Bool
  | 0, _ => true
  | n + 1, s =>
    match Machine.step s with
    | .next t => Safe.steps n t
    | _ => false

end Sys2Proof
end

