-- ==== Sys2Proof/Tests/Slice0.lean ====
section
/-!
SUPPORT. Tests: ill-formed terms, words written out from the spec's encodings, small runs of one instruction, and a witness for
the hypotheses of each statement.
-/

set_option maxRecDepth 100000

namespace Sys2Proof.Tests

open Sys2Proof Sys2Proof.Machine Sys2Proof.Claims

/-! ## Ill-formed terms: one for each check, each refused -/

/-- No term of the list is well-formed. -/
def refused (l : List Instr) : Bool := l.all (fun i => !i.wf)

theorem test_refused_branches : refused [
    .brEqz ⟨16, false, 0⟩, .brEqz ⟨0, false, 2 ^ 20⟩, .brEqz ⟨0, false, -2 ^ 20 - 1⟩, .brc ⟨8, false, false, 0⟩,
    .brc ⟨0, false, false, 2 ^ 20⟩, .jmp ⟨1, false, 0⟩, .jmp ⟨0, false, 2 ^ 20⟩, .call ⟨16, false, 0⟩, .call ⟨0, false, 2 ^ 20⟩,
    .loopb ⟨0, false, 1⟩, .loopb ⟨16, false, 1⟩, .jmpi ⟨16, 0, false⟩, .jmpi ⟨0, 64, false⟩, .calli ⟨0, 64, false⟩, .ret ⟨0, 1, false⟩,
    .svc ⟨16, 0⟩, .svc ⟨0, 2 ^ 22⟩, .brk ⟨0, 2 ^ 22⟩] = true := by decide

theorem test_refused_scalar : refused [
    .add ⟨16, 0, 0, .reg 0⟩, .add ⟨0, 64, 0, .reg 0⟩, .add ⟨0, 0, 64, .reg 0⟩, .add ⟨0, 0, 0, .reg 64⟩, .add ⟨0, 0, 0, .lit (2 ^ 32)⟩,
    .addsh ⟨0, 0, 0, .reg 0⟩ 16, .mov ⟨16, 0, 0⟩, .clz ⟨0, 64, 0⟩, .popc ⟨0, 0, 64⟩, .addi ⟨16, 0, 0, .imm 0⟩, .addi ⟨0, 64, 0, .imm 0⟩,
    .ldd ⟨0, 0, 64, .imm 0⟩, .addi ⟨0, 0, 0, .imm 512⟩, .addi ⟨0, 0, 0, .imm (-513)⟩, .std ⟨0, 0, 0, .lit (2 ^ 32)⟩, .li ⟨16, 0, .imm 0⟩,
    .li ⟨0, 64, .imm 0⟩, .li ⟨0, 0, .imm 512⟩, .shli ⟨0, 0, 0, .imm 64⟩, .shri ⟨0, 0, 0, .imm (-1)⟩, .srai ⟨0, 0, 0, .lit 64⟩,
    .sel ⟨0, 0, 0, .reg 0⟩ 8 false, .cmpc ⟨0, 8, 0, .reg 0⟩ .eq, .bfx ⟨16, 0, 0, 0, 1⟩, .bfx ⟨0, 64, 0, 0, 1⟩, .bfx ⟨0, 0, 64, 0, 1⟩,
    .bfx ⟨0, 0, 0, 64, 1⟩, .bfi ⟨0, 0, 0, 0, 0⟩, .bfi ⟨0, 0, 0, 0, 17⟩, .mfc ⟨16, 0, 0⟩, .mfc ⟨0, 64, 0⟩, .mtc ⟨0, 0, 14⟩] = true := by
  decide

theorem test_refused_vector : refused [
    .vadd ⟨32, .b, 0, 0, 0, 0⟩ false, .vadd ⟨0, .f, 0, 0, 0, 0⟩ false, .vadd ⟨0, .b, 768, 0, 0, 0⟩ false, .vadd ⟨0, .b, 0, 768, 0, 0⟩ false,
    .vadd ⟨0, .b, 0, 0, 768, 0⟩ false, .vadd ⟨0, .b, 0, 0, 0, 4⟩ false, .vabs ⟨0, .ub, 0, 0, 0⟩ false, .vneg ⟨32, .b, 0, 0, 0⟩ false,
    .vabs ⟨0, .b, 0, 0, 4⟩ false, .vsat ⟨0, .b, 0, 0, 0⟩ 0, .vsat ⟨0, .b, 0, 0, 0⟩ 9, .vsat ⟨0, .f, 0, 0, 0⟩ 1,
    .vnrw ⟨0, .b, 0, 0, 0⟩ 0 true true, .vnrw ⟨0, .h, 0, 767, 0⟩ 0 true true, .vnrw ⟨0, .h, 0, 0, 0⟩ 16 true true, .vwid ⟨0, .d, 0, 0, 0⟩,
    .vwid ⟨0, .b, 767, 0, 0⟩, .vand ⟨0, .mx8, 0, 0, 0, 0⟩, .vnot ⟨0, .mx4, 0, 0, 0⟩, .vshl ⟨0, .w, 0, 0, 0⟩ (.reg 768),
    .vshr ⟨0, .w, 0, 0, 0⟩ (.imm 32), .vsra ⟨0, .f, 0, 0, 0⟩ (.imm 0), .vcmp ⟨0, .b, 16, 0, 0, 0⟩ .eq, .vcmp ⟨0, .f, 0, 0, 0, 0⟩ .eq,
    .vcmp ⟨0, .b, 0, 768, 0, 0⟩ .eq, .vsel ⟨0, .b, 0, 0, 0, 0⟩ 16, .vfadd ⟨0, .w, 0, 0, 0, 0⟩, .vfma ⟨0, .f, 0, 0, 0, 0⟩ 768,
    .vfcmp ⟨0, .b, 0, 0, 0, 0⟩ .eq, .vfcmp ⟨0, .f, 16, 0, 0, 0⟩ .eq, .vfcls ⟨0, .b, 0, 0, 0⟩, .vrcp ⟨0, .d, 0, 0, 0⟩,
    .vcvt ⟨0, .w, 0, 0, 0⟩ .h false, .vcvt ⟨0, .f, 0, 0, 0⟩ .mx8 false, .vcvt ⟨0, .mx8, 0, 0, 0⟩ .f false, .vcvt ⟨0, .f, 0, 0, 0⟩ .w true,
    .vqnt ⟨0, .b, 0, 0, 0⟩ 1 0, .vqnt ⟨0, .mx8, 0, 0, 0⟩ 768 0, .vqnt ⟨0, .mx8, 0, 0, 0⟩ 1 4, .vqnt ⟨0, .mx8, 1, 0, 0⟩ 1 0,
    .vdqnt ⟨0, .mx8, 0, 0, 0⟩ 1 4, .vdqnt ⟨0, .f, 0, 0, 0⟩ 1 0, .vred ⟨0, .f, 0, 0, 0⟩ .and, .vred ⟨0, .mx8, 0, 0, 0⟩ .add,
    .vperm ⟨0, .mx6, 0, 0, 0, 0⟩, .vsld ⟨0, .d, 0, 0, 0, 0⟩ 64, .vbcstScalar ⟨0, .b, 0, 64, 0⟩, .vbcstElement ⟨0, .h, 0, 0, 0⟩ 256,
    .vins ⟨0, .w, 0, 64, 0⟩ 0, .vins ⟨0, .w, 0, 0, 0⟩ 128, .vext ⟨0, .w, 64, 0, 0⟩ 0, .vext ⟨0, .b, 0, 0, 0⟩ 512, .vmov ⟨0, .mx8, 0, 0, 0⟩,
    .viota ⟨0, .f, 0, 0, 0⟩, .viota ⟨0, .b, 0, 16, 0⟩, .pand ⟨32, 0, 0, 0, 0⟩, .por ⟨0, 16, 0, 0, 0⟩, .pxor ⟨0, 0, 16, 0, 0⟩,
    .pand ⟨0, 0, 0, 16, 0⟩, .pand ⟨0, 0, 0, 0, 4⟩, .pnot ⟨32, 0, 0, 0⟩, .pnot ⟨0, 16, 0, 0⟩, .pnot ⟨0, 0, 16, 0⟩, .pnot ⟨0, 0, 0, 4⟩,
    .pset ⟨0, .f, 0, 0, 0⟩, .pset ⟨0, .b, 16, 0, 0⟩, .pcnt ⟨0, .b, 64, 0, 0⟩, .pcnt ⟨0, .b, 0, 16, 0⟩] = true := by decide

theorem test_refused_access : refused [
    .vld ⟨32, 0, 0, 0, 0⟩, .vld ⟨0, 768, 0, 0, 0⟩, .vst ⟨0, 0, 64, 0, 0⟩, .vldb ⟨0, 0, 0, 2 ^ 21, 0⟩, .vld ⟨0, 0, 0, 0, 4096⟩,
    .pld ⟨0, 16, 0, 0, 0⟩, .pst ⟨0, 16, 0, 0, 0⟩, .vlds ⟨32, 0, 0, 0, 0⟩, .vlds ⟨0, 768, 0, 0, 0⟩, .vsts ⟨0, 0, 64, 0, 0⟩,
    .vlds ⟨0, 0, 0, 2 ^ 21, 0⟩, .vlds ⟨0, 0, 0, 0, 4096⟩, .vldx ⟨32, 0, 0, 0, 0⟩, .vldx ⟨0, 768, 0, 0, 0⟩, .vldx ⟨0, 0, 64, 0, 0⟩,
    .vstx ⟨0, 0, 0, 2 ^ 21, 0⟩, .vstx ⟨0, 0, 0, 0, 768⟩, .fill ⟨32, 0, 0, 0, 0, 0⟩, .fill ⟨0, 64, 0, 0, 0, 0⟩, .fill ⟨0, 0, 16, 0, 0, 0⟩,
    .fill ⟨0, 0, 0, 64, 0, 0⟩, .fill ⟨0, 0, 0, 0, 2 ^ 21, 0⟩, .fill ⟨0, 0, 0, 0, 0, 4096⟩] = true := by decide

theorem test_refused_array : refused [
    .mmul ⟨16, 0, 0, 0, 0, 0, 0, 0, 0, 0⟩, .macc ⟨0, 64, 0, 0, 0, 0, 0, 0, 0, 0⟩, .mmul ⟨0, 0, 64, 0, 0, 0, 0, 0, 0, 0⟩,
    .mmul ⟨0, 0, 0, 64, 0, 0, 0, 0, 0, 0⟩, .mmul ⟨0, 0, 0, 0, 8, 0, 0, 0, 0, 0⟩, .mmul ⟨0, 0, 0, 0, 0, 8, 0, 0, 0, 0⟩,
    .mmul ⟨0, 0, 0, 0, 0, 0, 256, 0, 0, 0⟩, .mmul ⟨0, 0, 0, 0, 0, 0, 15, 0, 0, 0⟩, .mmul ⟨0, 0, 0, 0, 0, 0, 0, 4, 0, 0⟩,
    .mmul ⟨0, 0, 0, 0, 0, 0, 0, 0, 512, 0⟩, .mmul ⟨0, 0, 0, 0, 0, 0, 0, 0, 0, 512⟩, .mmuls ⟨0, 0, 0, 0, 0, 0, 0, 0, 0, 0⟩ (2 ^ 64),
    .maccs ⟨16, 0, 0, 0, 0, 0, 0, 0, 0, 0⟩ 0, .mstrm ⟨16, 0, 0, 0, 0, 0, 0, 0, false⟩, .mstrm ⟨0, 64, 0, 0, 0, 0, 0, 0, true⟩,
    .mstrm ⟨0, 0, 64, 0, 0, 0, 0, 0, true⟩, .mstrm ⟨0, 0, 0, 8, 0, 0, 0, 0, true⟩, .mstrm ⟨0, 0, 0, 0, 0, 0, 0, 512, true⟩,
    .mzero ⟨16, 0, 0, 0, 0⟩, .mzero ⟨0, 8, 0, 0, 0⟩, .mrdv ⟨16, 0, 0, 0, 0, 0⟩, .mrdv ⟨0, 64, 0, 0, 0, 0⟩, .mwrv ⟨0, 0, 0, 0, 0, 768⟩,
    .mrds ⟨0, 64, 0, 0, 0, 0, .f, 0, 0⟩, .mrds ⟨0, 0, 8, 0, 0, 0, .f, 0, 0⟩, .mrds ⟨0, 0, 0, 0, 0, 0, .d, 0, 0⟩,
    .mrds ⟨0, 0, 0, 0, 0, 0, .f, 512, 0⟩, .mrds ⟨0, 0, 0, 0, 0, 0, .f, 0, 1⟩, .mrds ⟨0, 0, 0, 0, 0, 0, .w, 0, 32⟩,
    .mwrs ⟨0, 0, 0, 0, 0, 0, .w, 0, 1⟩, .mseam ⟨64, 0, 0⟩, .mseam ⟨0, 8, 0⟩, .mresume ⟨0, 0, 15⟩] = true := by decide

theorem test_refused_engines : refused [
    .cplvl ⟨16, 0, 0, 0, 0, 0, 0⟩, .cplvl ⟨0, 64, 0, 0, 0, 0, 0⟩, .cplvl ⟨0, 0, 64, 0, 0, 0, 0⟩, .cplvl ⟨0, 0, 0, 64, 0, 0, 0⟩,
    .cplvl ⟨0, 0, 0, 0, 8, 0, 0⟩, .cplvl ⟨0, 0, 0, 0, 0, 15, 0⟩, .cplvl ⟨0, 0, 0, 0, 0, 0, 6⟩, .cpbase ⟨16, 0, 0, 0, 0, 0, true, true⟩,
    .cpbase ⟨0, 64, 0, 0, 0, 0, true, true⟩, .cpbase ⟨0, 0, 64, 0, 0, 0, true, true⟩, .cpbase ⟨0, 0, 0, 64, 0, 0, true, true⟩,
    .cpgo ⟨16, 0, 0⟩, .cpstrm ⟨0, 8, 0⟩, .cpstrmOff ⟨0, 0, 15⟩, .cpcan ⟨16, 0, 0⟩, .cpstat ⟨16, 0, 0, 0⟩, .cpstat ⟨0, 64, 0, 0⟩,
    .lksend ⟨16, 0, 0, 0, 0, 0⟩, .lkrecv ⟨0, 64, 0, 0, 0, 0⟩, .lksend ⟨0, 0, 64, 0, 0, 0⟩, .lksend ⟨0, 0, 0, 64, 0, 0⟩,
    .lkred ⟨16, 0, 0, 0, 0, 0, 0, false, .f, .f⟩, .lkred ⟨0, 64, 0, 0, 0, 0, 0, false, .f, .f⟩,
    .lkred ⟨0, 0, 64, 0, 0, 0, 0, false, .f, .f⟩, .lkred ⟨0, 0, 0, 64, 0, 0, 0, false, .f, .f⟩,
    .lkred ⟨0, 0, 0, 0, 0, 0, 16, false, .f, .f⟩, .lkred ⟨0, 0, 0, 0, 0, 0, 1, true, .f, .f⟩, .lktime ⟨64, 0, 0⟩, .lktime ⟨0, 8, 0⟩,
    .tlbinv ⟨64, 0, 0, 0, 0, .range, false⟩, .tlbinv ⟨0, 64, 0, 0, 0, .range, false⟩, .tlbinv ⟨0, 0, 64, 0, 0, .range, false⟩,
    .tlbinv ⟨0, 1, 0, 0, 0, .asid, false⟩, .tlbinv ⟨0, 0, 1, 0, 0, .asid, false⟩, .tlbinv ⟨1, 0, 0, 0, 0, .all, false⟩,
    .gpush ⟨16, 0, 0, 0, false, 0⟩, .gpush ⟨0, 768, 0, 0, false, 0⟩, .gpush ⟨0, 0, 64, 0, false, 0⟩, .gpush ⟨0, 0, 0, 4, false, 0⟩,
    .gpush ⟨0, 0, 0, 0, false, 8⟩, .gpop ⟨16, 0⟩, .gpop ⟨0, 768⟩, .sacc ⟨0, 767, 0, .w, false, 0⟩, .sacc ⟨0, 0, 64, .w, false, 0⟩,
    .sfop ⟨0, 64, 0, false, false, 0, .add⟩, .sfop ⟨0, 0, 64, false, false, 0, .add⟩, .sfop ⟨0, 0, 63, false, false, 0, .cas⟩,
    .nlbin ⟨16, 0, 0⟩, .nlstat ⟨0, 64, 0⟩, .unwatch ⟨0, 0, 8⟩, .nlpos ⟨0, 768, 0⟩, .nlreq ⟨0, 64, 0, 0⟩, .take ⟨0, 0, 64, 0⟩,
    .nlpop ⟨0, 768, 0⟩, .nlpop ⟨0, 0, 64⟩, .spawn ⟨0, 768, 0, 0⟩, .watch ⟨0, 0, 64, 0⟩] = true := by decide

theorem test_refused_control : refused [
    .setfmtImm ⟨16, 0⟩, .setfmtImm ⟨0, 2 ^ 11⟩, .setfmtImm ⟨0, 5⟩, .setfmtImm ⟨0, 5 * 32⟩, .setfmtImm ⟨0, 5 * 256⟩, .setfmtImm ⟨0, 8⟩,
    .setfmtReg ⟨0, 64⟩, .waitt ⟨0, 256⟩, .slack ⟨0, 65536⟩, .drain ⟨0, 5⟩, .bar ⟨16, 0, 0⟩, .bar ⟨0, 768, 0⟩, .bar ⟨0, 0, 256⟩,
    .bar ⟨0, 767, 2⟩, .yield 16, .yieldNw 16, .tdone 16, .halt 16, .ovl ⟨0, 256⟩, .zset ⟨0, 8, 0⟩, .zset ⟨0, 0, 64⟩, .time ⟨0, 64⟩,
    .getflg ⟨0, 64⟩, .perf ⟨0, 64, 0⟩, .perf ⟨0, 0, 8⟩, .clrflg ⟨0, 64⟩, .spflag ⟨0, 63⟩ true, .wfe ⟨16, 0, 0, 1⟩, .wfe ⟨0, 64, 0, 1⟩,
    .wfe ⟨0, 0, 64, 1⟩, .wfe ⟨0, 0, 0, 0⟩, .wfe ⟨0, 0, 0, 8⟩, .keyld ⟨0, 64, 0⟩, .keyld ⟨0, 0, 64⟩, .keyldClr ⟨0, 64⟩] = true := by
  decide

theorem test_refused_events : refused [
    .bundleIssue 1536, .lktimeReached 1536 0, .engineTakesCommand 1536 0, .productCommit 384, .minorFault 1536 0 true 0,
    .minorFault 0 (2 ^ 64) true 0, .minorFault 0 0 true 64, .pageWalk 8 0 0 0 true, .pageWalk 0 64 0 0 true, .pageWalk 0 0 (2 ^ 14) 0 true,
    .pageWalk 0 0 0 (2 ^ 64) true, .engineMajorFault (.command 1536 0), .engineCommandComplete (.copyRead 8 0 0 0 1),
    .engineCommandComplete (.copyWrite 0 96 0 0 1), .engineCommandComplete (.sctLines 0 4096 0), .engineCommandComplete (.pairTests 1536 0 0),
    .engineCommandComplete (.preload 1536 0), .engineCommandComplete (.image 1536 0), .engineCommandComplete (.slotRead 1536 0),
    .elementaryCopyEmit 8 0, .elementaryCopyEmit 0 96, .stitchPushDeferred 8 0, .stitchPushDeferred 0 512, .watchWindowStart 8,
    .barrierRelease 8 0, .barrierRelease 0 64, .segmentCopyDone 384 0, .engineCommandComplete (.keyHeld 1536),
    .engineCommandComplete (.rollback 1536), .engineCommandComplete (.breakpoint 0 2 true), .engineCommandComplete (.breakpoint 0 0x80000 true),
    .engineCommandComplete (.packetRead 4096 0), .engineCommandComplete (.packetSkip 4096), .engineCommandComplete (.prepare 4096),
    .engineCommandComplete (.linkRead 0 2), .engineCommandComplete (.elements 1536 0 0 0), .engineCommandComplete (.early 1536 0),
    .linkWindowStart 16 true,
    .linkFlitReceive 16 0 ⟨1, 0⟩ false, .linkFlitReceive 0 (2 ^ 64) ⟨1, 0⟩ false, .linkFlitReceive 0 0 ⟨1, 2 ^ 1024⟩ false,
    .linkFlitReceive 0 0 ⟨129, 0⟩ false, .sctExpiry 8 0,
    .evictionDone 0 4096, .nop 4096 0, .qtailWrite 4096 0, .qtailWrite 0 (2 ^ 64), .queueEnable 4096, .evheadWrite (2 ^ 64),
    .trheadWrite 8 0, .trheadWrite 0 (2 ^ 64), .registerWrite (2 ^ 64) 0, .registerWrite 0 (2 ^ 64), .ingressWrite (2 ^ 64) 0 0,
    .ingressWrite 0 65 0, .ingressWrite 0 1 256, .hostScratchpadRead (2 ^ 64) 1, .hostScratchpadRead 0 4097, .liningStoreWrite 384 0 1 0,
    .liningStoreWrite 0 4096 1 0, .liningStoreWrite 0 0 1 256, .attestRequest (2 ^ 512), .uncorrectableError (.context 1536) 0 .transient,
    .uncorrectableError (.processor 4096) 0 .transient, .uncorrectableError (.sct 8 0) 0 .transient,
    .uncorrectableError .host (2 ^ 64) .transient, .uncorrectableError .host 0 (.bank 0 32), .uncorrectableError .host 0 (.arrayRow 0 64),
    .uncorrectableError .host 0 (.laneGroup 384), .uncorrectableError (.command 1536) 0 .transient,
    .uncorrectableError .host 0 (.transientRow 0 64), .uncorrectableError .host 0 (.transientLane 384), .ptmExchange (2 ^ 64), .hostAtomicToBar 6 0, .correctableError true 12] = true := by decide

/-- An ill-formed event on the agenda, and an event that a real cycle brings, stop the step by name. -/
theorem test_step_stops :
    step { State.reset with agenda := [.ev (.qtailWrite 4096 0)] } = .fault .noSuchAgent ∧
    step { State.reset with agenda := [.ev (.eret)] } = .fault .notOnAgenda := ⟨rfl, rfl⟩

/-! ## Words written out from the encodings of the spec (R21, R33 and each entry's fields), high fields first -/

/-- Each word decodes in its slot to its instruction, and the instruction is encoded as that word. -/
def decodes (sl : Slot) (l : List (Nat × Option Nat × Instr)) : Bool :=
  l.all (fun x => decide (decodeSyllable sl x.1 x.2.1 = .ok x.2.2) && decide ((encode x.2.2).w = x.1) && decide ((encode x.2.2).x = x.2.1))

theorem test_decode_b : decodes .b [
    (0x06500000, none, .brEqz ⟨9, false, -1048576⟩), (0x0AB00001, none, .brNez ⟨10, true, -1048575⟩),
    (0x0ED00002, none, .brLtz ⟨11, false, -1048574⟩), (0x13300003, none, .brGez ⟨12, true, -1048573⟩),
    (0x17500004, none, .brGtz ⟨13, false, -1048572⟩), (0x1BB00005, none, .brLez ⟨14, true, -1048571⟩),
    (0x22CFFFFF, none, .brc ⟨5, true, false, 1048575⟩), (0x27E00003, none, .brpAll ⟨15, true, 3⟩),
    (0x29600008, none, .brpNone ⟨5, true, 8⟩), (0x301FFFF0, none, .jmp ⟨0, false, -16⟩),
    (0x34E0000A, none, .call ⟨3, true, 10⟩), (0x389FFFFC, none, .loopb ⟨2, false, -4⟩), (0x41001C01, none, .jmpi ⟨4, 7, true⟩),
    (0x45002400, none, .calli ⟨4, 9, false⟩), (0x49C00001, none, .ret ⟨7, 0, true⟩), (0x50BABCDE, none, .svc ⟨2, 0x3ABCDE⟩),
    (0x54C12345, none, .brk ⟨3, 0x12345⟩), (0x58000000, none, .eret)] = true := by decide

theorem test_decode_x0 : decodes .x [
    (0x04420D50, none, .add ⟨1, 2, 3, .reg 21⟩), (0x08831000, some 0x80000002, .sub ⟨2, 3, 4, .lit 0x80000002⟩),
    (0x0CC41570, none, .and ⟨3, 4, 5, .reg 23⟩), (0x11051800, some 0x80000004, .or ⟨4, 5, 6, .lit 0x80000004⟩),
    (0x15461D90, none, .xor ⟨5, 6, 7, .reg 25⟩), (0x40114800, some 0x80000010, .shl ⟨0, 17, 18, .lit 0x80000010⟩),
    (0x44524E50, none, .shr ⟨1, 18, 19, .reg 37⟩), (0x48935000, some 0x80000012, .sra ⟨2, 19, 20, .lit 0x80000012⟩),
    (0x62196800, some 0x80000018, .mul ⟨8, 25, 26, .lit 0x80000018⟩), (0x665A6ED0, none, .mulh ⟨9, 26, 27, .reg 45⟩),
    (0x6A9B7000, some 0x8000001A, .mulhs ⟨10, 27, 28, .lit 0x8000001A⟩), (0x6EDC76F0, none, .div ⟨11, 28, 29, .reg 47⟩),
    (0x731D7800, some 0x8000001C, .divs ⟨12, 29, 30, .lit 0x8000001C⟩), (0x775E7F10, none, .rem ⟨13, 30, 31, .reg 49⟩),
    (0x7B9F8000, some 0x8000001E, .rems ⟨14, 31, 32, .lit 0x8000001E⟩),
    (0x80218800, some 0x80000020, .min ⟨0, 33, 34, .lit 0x80000020⟩), (0x84628F50, none, .max ⟨1, 34, 35, .reg 53⟩),
    (0x88A39000, some 0x80000022, .mins ⟨2, 35, 36, .lit 0x80000022⟩), (0x8CE49770, none, .maxs ⟨3, 36, 37, .reg 55⟩),
    (0x91259800, some 0x80000024, .slt ⟨4, 37, 38, .lit 0x80000024⟩), (0x95669F90, none, .slts ⟨5, 38, 39, .reg 57⟩),
    (0x99A7A000, some 0x80000026, .seq ⟨6, 39, 40, .lit 0x80000026⟩), (0x18A18A3F, none, .addsh ⟨2, 33, 34, .reg 35⟩ 15),
    (0x1CE18800, none, .mov ⟨3, 33, 34⟩), (0x59239000, none, .clz ⟨4, 35, 36⟩), (0x5D659800, none, .popc ⟨5, 37, 38⟩),
    (0x9CA18A3D, none, .sel ⟨2, 33, 34, .reg 35⟩ 6 true), (0xA0878A30, none, .cmpc ⟨2, 7, 34, .reg 35⟩ .eq),
    (0xA0868A31, none, .cmpc ⟨2, 6, 34, .reg 35⟩ .ne), (0xA0858A32, none, .cmpc ⟨2, 5, 34, .reg 35⟩ .lt),
    (0xA0848A33, none, .cmpc ⟨2, 4, 34, .reg 35⟩ .ge), (0xA0838A34, none, .cmpc ⟨2, 3, 34, .reg 35⟩ .ltu),
    (0xA0828A35, none, .cmpc ⟨2, 2, 34, .reg 35⟩ .geu), (0xA0818A36, none, .cmpc ⟨2, 1, 34, .reg 35⟩ .tst),
    (0xA0808A37, none, .cmpc ⟨2, 0, 34, .reg 35⟩ .ntst), (0x264A2C00, some 0xF0000009, .addi ⟨9, 10, 11, .lit 0xF0000009⟩),
    (0x2ECC360B, none, .andi ⟨11, 12, 13, .imm (-501)⟩), (0x330D3800, some 0xF000000C, .ori ⟨12, 13, 14, .lit 0xF000000C⟩),
    (0x374E3E0D, none, .xori ⟨13, 14, 15, .imm (-499)⟩), (0x3B8F420E, none, .slti ⟨14, 15, 16, .imm (-498)⟩)] = true := by decide

theorem test_decode_x1 : decodes .x [
    (0xC031C800, some 0xF0000030, .ldb ⟨0, 49, 50, .lit 0xF0000030⟩), (0xC472CE31, none, .ldbs ⟨1, 50, 51, .imm (-463)⟩),
    (0xC8B3D232, none, .ldh ⟨2, 51, 52, .imm (-462)⟩), (0xCCF4D400, some 0xF0000033, .ldhs ⟨3, 52, 53, .lit 0xF0000033⟩),
    (0xD135DA34, none, .ldw ⟨4, 53, 54, .imm (-460)⟩), (0xD576DE35, none, .ldws ⟨5, 54, 55, .imm (-459)⟩),
    (0xD9B7E000, some 0xF0000036, .ldd ⟨6, 55, 56, .lit 0xF0000036⟩), (0xE239EA38, none, .stb ⟨8, 57, 58, .imm (-456)⟩),
    (0xE67AEC00, some 0xF0000039, .sth ⟨9, 58, 59, .lit 0xF0000039⟩), (0xEABBF23A, none, .stw ⟨10, 59, 60, .imm (-454)⟩),
    (0xEEFCF63B, none, .std ⟨11, 60, 61, .imm (-453)⟩), (0x28A101FF, none, .li ⟨2, 33, .imm 511⟩),
    (0x4CA1883F, none, .shli ⟨2, 33, 34, .imm 63⟩), (0x50A18820, none, .shri ⟨2, 33, 34, .imm 32⟩),
    (0x54A18800, some 0x3F, .srai ⟨2, 33, 34, .lit 63⟩), (0xA4A18B2F, none, .bfx ⟨2, 33, 34, 50, 16⟩),
    (0xA8A18BF0, none, .bfi ⟨2, 33, 34, 63, 1⟩), (0xB0A1000D, none, .mfc ⟨2, 33, 13⟩), (0xB4808409, none, .mtc ⟨2, 33, 9⟩),
    (0xFC000000, none, .idleXy)] = true := by decide

theorem test_decode_v0 : decodes .v [
    (0x010DFF00A5800121, none, .vadd ⟨1, .w, 767, 513, 300, 1⟩ true),
    (0x0215FF00A5800240, none, .vsub ⟨2, .ub, 767, 513, 300, 2⟩ false),
    (0x031DFF00A58000E0, none, .vmul ⟨3, .h, 767, 513, 300, 3⟩), (0x0425FF00A5800180, none, .vmulh ⟨4, .d, 767, 513, 300, 0⟩),
    (0x052DFF00A58002A0, none, .vmac ⟨5, .uh, 767, 513, 300, 1⟩), (0x0635FF00A5800340, none, .vmacs ⟨6, .uw, 767, 513, 300, 2⟩),
    (0x094DFF00A5800020, none, .vmin ⟨9, .b, 767, 513, 300, 1⟩), (0x0A55FF00A5800140, none, .vmax ⟨10, .w, 767, 513, 300, 2⟩),
    (0x1085FF00A5800500, none, .vand ⟨16, .f, 767, 513, 300, 0⟩), (0x118DFF00A5800420, none, .vor ⟨17, .bf, 767, 513, 300, 1⟩),
    (0x1295FF00A58004C0, none, .vxor ⟨18, .hf, 767, 513, 300, 2⟩), (0x2005FF00A5800500, none, .vfadd ⟨0, .f, 767, 513, 300, 0⟩),
    (0x210DFF00A5800420, none, .vfsub ⟨1, .bf, 767, 513, 300, 1⟩),
    (0x2215FF00A58004C0, none, .vfmul ⟨2, .hf, 767, 513, 300, 2⟩), (0x252DFF00A5800520, none, .vfmin ⟨5, .f, 767, 513, 300, 1⟩),
    (0x2635FF00A5800440, none, .vfmax ⟨6, .bf, 767, 513, 300, 2⟩), (0x4005FF00A5800500, none, .vperm ⟨0, .f, 767, 513, 300, 0⟩),
    (0x073DFF0080000061, none, .vabs ⟨7, .b, 767, 513, 3⟩ true), (0x0845FF0080000180, none, .vneg ⟨8, .d, 767, 513, 0⟩ false),
    (0x0B5DFF00800080E0, none, .vsat ⟨11, .h, 767, 513, 3⟩ 16),
    (0x0C65FF008000F903, none, .vnrw ⟨12, .w, 767, 513, 0⟩ 31 true true),
    (0x0D6DFD00800002A0, none, .vwid ⟨13, .uh, 766, 513, 1⟩), (0x139DFF0080000560, none, .vnot ⟨19, .f, 767, 513, 3⟩),
    (0x141DFF00A5800120, none, .vshl ⟨3, .w, 767, 513, 1⟩ (.reg 300)),
    (0x151DFF008000FB21, none, .vshr ⟨3, .uw, 767, 513, 1⟩ (.imm 31)),
    (0x161DFF00A58001A0, none, .vsra ⟨3, .d, 767, 513, 1⟩ (.reg 300)),
    (0x17B81F00A58000E0, none, .vcmp ⟨23, .h, 15, 513, 300, 3⟩ .eq),
    (0x17B81D00A58000E1, none, .vcmp ⟨23, .h, 14, 513, 300, 3⟩ .ne),
    (0x17B81B00A58000E2, none, .vcmp ⟨23, .h, 13, 513, 300, 3⟩ .lt),
    (0x17B81900A58000E3, none, .vcmp ⟨23, .h, 12, 513, 300, 3⟩ .le),
    (0x17B81700A58000E4, none, .vcmp ⟨23, .h, 11, 513, 300, 3⟩ .gt),
    (0x17B81500A58000E5, none, .vcmp ⟨23, .h, 10, 513, 300, 3⟩ .ge),
    (0x18C5FF00A5807C80, none, .vsel ⟨24, .hf, 767, 513, 300, 0⟩ 15),
    (0x231DFF00A592C560, none, .vfma ⟨3, .f, 767, 513, 300, 3⟩ 600),
    (0x2425FF00A592C400, none, .vfms ⟨4, .bf, 767, 513, 300, 0⟩ 600),
    (0x27381F00A5800560, none, .vfcmp ⟨7, .f, 15, 513, 300, 3⟩ .eq),
    (0x27381D00A5800561, none, .vfcmp ⟨7, .f, 14, 513, 300, 3⟩ .ne),
    (0x27381B00A5800562, none, .vfcmp ⟨7, .f, 13, 513, 300, 3⟩ .lt),
    (0x27381900A5800563, none, .vfcmp ⟨7, .f, 12, 513, 300, 3⟩ .le),
    (0x27381700A5800564, none, .vfcmp ⟨7, .f, 11, 513, 300, 3⟩ .gt)] = true := by decide

theorem test_decode_v1 : decodes .v [
    (0x27381500A5800565, none, .vfcmp ⟨7, .f, 10, 513, 300, 3⟩ .ge),
    (0x27381300A5800566, none, .vfcmp ⟨7, .f, 9, 513, 300, 3⟩ .un),
    (0x27381100A5800567, none, .vfcmp ⟨7, .f, 8, 513, 300, 3⟩ .ord), (0x2845FF0080000480, none, .vfcls ⟨8, .hf, 767, 513, 0⟩),
    (0x294DFF0080000538, none, .vcvt ⟨9, .f, 767, 513, 1⟩ .bf true),
    (0x294DFF0080000129, none, .vcvt ⟨9, .w, 767, 513, 1⟩ .hf false),
    (0x294DFF00800004A3, none, .vcvt ⟨9, .hf, 767, 513, 1⟩ .d false), (0x3085FF0080000400, none, .vrcp ⟨16, .bf, 767, 513, 0⟩),
    (0x318DFF00800004A0, none, .vrsq ⟨17, .hf, 767, 513, 1⟩), (0x3295FF0080000540, none, .vexp ⟨18, .f, 767, 513, 2⟩),
    (0x339DFF0080000460, none, .vlog ⟨19, .bf, 767, 513, 3⟩), (0x34A5FF0080000480, none, .vtanh ⟨20, .hf, 767, 513, 0⟩),
    (0x38C5FF008012C683, none, .vqnt ⟨24, .mx6, 767, 513, 0⟩ 600 3),
    (0x39CDFF008012C722, none, .vdqnt ⟨25, .mx4, 767, 513, 1⟩ 600 2),
    (0x3AD5FF0080000540, none, .vred ⟨26, .f, 767, 513, 2⟩ .add), (0x3AD5FF0080000441, none, .vred ⟨26, .bf, 767, 513, 2⟩ .min),
    (0x3AD5FF00800004C2, none, .vred ⟨26, .hf, 767, 513, 2⟩ .max), (0x3AD5FF0080000043, none, .vred ⟨26, .b, 767, 513, 2⟩ .and),
    (0x3AD5FF00800001C4, none, .vred ⟨26, .d, 767, 513, 2⟩ .or), (0x3AD5FF0080000345, none, .vred ⟨26, .uw, 767, 513, 2⟩ .xor),
    (0x410DFF00A583F920, none, .vsld ⟨1, .w, 767, 513, 300, 1⟩ 127),
    (0x421DFE1F80000520, none, .vbcstScalar ⟨3, .f, 767, 63, 1⟩),
    (0x421DFF008007FCA1, none, .vbcstElement ⟨3, .hf, 767, 513, 1⟩ 255),
    (0x431DFE0007EFF820, none, .vins ⟨3, .b, 767, 63, 1⟩ 511), (0x44187F008001F9A0, none, .vext ⟨3, .d, 63, 513, 1⟩ 63),
    (0x452DFF0080000420, none, .vmov ⟨5, .bf, 767, 513, 1⟩), (0x4635FE07800002C0, none, .viota ⟨6, .uh, 767, 15, 2⟩),
    (0x50181E0701A00020, none, .pand ⟨3, 15, 14, 13, 1⟩), (0x51181E0701A00040, none, .por ⟨3, 15, 14, 13, 2⟩),
    (0x52181E0701A00060, none, .pxor ⟨3, 15, 14, 13, 3⟩), (0x53181E0700000040, none, .pnot ⟨3, 15, 14, 2⟩),
    (0x54181E1F80000340, none, .pset ⟨3, .uw, 15, 63, 2⟩), (0x55187E07800000C0, none, .pcnt ⟨3, .h, 63, 15, 2⟩),
    (0xFF00000000000000, none, .idleVw)] = true := by decide

theorem test_decode_l : decodes .l [
    (0x010DFFDC00002FFE, none, .vld ⟨1, 767, 59, -2097151, 4094⟩),
    (0x021401D400004FFD, none, .vst ⟨2, 512, 58, -2097150, 4093⟩),
    (0x052CB1BC0000AFFA, none, .vldb ⟨5, 600, 55, -2097147, 4090⟩),
    (0x08401FA400010FF7, none, .pld ⟨8, 15, 52, -2097144, 4087⟩), (0x09481D9C00012FF6, none, .pst ⟨9, 14, 51, -2097143, 4086⟩),
    (0x031DFFEFFFFEF000, none, .vlds ⟨3, 767, 61, -9, -4096⟩), (0x0425FFEBFFFFE007, none, .vsts ⟨4, 767, 61, 2097151, 7⟩),
    (0x0635FFEFFFFA15E0, none, .vldx ⟨6, 767, 61, -48, 700⟩), (0x073DFFE8000615E8, none, .vstx ⟨7, 767, 61, 48, 701⟩),
    (0x0A57FFE800041FFC, none, .fill ⟨10, 63, 15, 61, 32, -4⟩), (0xFF00000000000000, none, .idleL)] = true := by decide

theorem test_decode_m : decodes .m [
    (0x01FF7EFFEE07FF2D, none, .mmul ⟨15, 61, 62, 63, 7, 6, 0xE0, 1, 511, 301⟩),
    (0x02FF7EFFEE0BFF2E, none, .macc ⟨15, 61, 62, 63, 7, 6, 0xE0, 2, 511, 302⟩),
    (0x03FF7EFFEE0FFF2F, some 0x8000400020001003, .mmuls ⟨15, 61, 62, 63, 7, 6, 0xE0, 3, 511, 303⟩ 0x8000400020001003),
    (0x04FF7EFFEE03FF30, some 0x8000400020001004, .maccs ⟨15, 61, 62, 63, 7, 6, 0xE0, 0, 511, 304⟩ 0x8000400020001004),
    (0x05EF40FFE1572100, none, .mstrm ⟨14, 61, 63, 7, 6, 0x15, 1, 400, true⟩),
    (0x06E00002E15C0000, none, .mzero ⟨14, 5, 6, 0x15, 3⟩), (0x08EF4000615C02FF, none, .mrdv ⟨14, 61, 6, 0x15, 3, 767⟩),
    (0x09EF4000615C0201, none, .mwrv ⟨14, 61, 6, 0x15, 3, 513⟩),
    (0x0AEF4002E15C7FDF, none, .mrds ⟨14, 61, 5, 6, 0x15, 3, .h, 510, 31⟩),
    (0x0BEF4002E15FBFC0, none, .mwrs ⟨14, 61, 5, 6, 0x15, 3, .mx4, 510, 0⟩), (0x100F400061500000, none, .mseam ⟨61, 6, 0x15⟩),
    (0x110F800052A00000, none, .mresume ⟨62, 5, 0x2A⟩), (0xFF00000000000000, none, .idleM)] = true := by decide

theorem test_decode_c : decodes .c [
    (0x01FF7EFF0AD00000, none, .cplvl ⟨15, 61, 62, 63, 6, 0x15, 5⟩),
    (0x02FF7EFF0AC00000, none, .cpbase ⟨15, 61, 62, 63, 6, 0x15, true, false⟩), (0x03F000030A800000, none, .cpgo ⟨15, 6, 0x15⟩),
    (0x04F000030A800000, none, .cpstrm ⟨15, 6, 0x15⟩), (0x04E000030AC00000, none, .cpstrmOff ⟨14, 6, 0x15⟩),
    (0x05F000030A800000, none, .cpcan ⟨15, 6, 0x15⟩), (0x06FF40030A800000, none, .cpstat ⟨15, 61, 6, 0x15⟩),
    (0x08FF7EFF0A800000, none, .lksend ⟨15, 61, 62, 63, 6, 0x15⟩),
    (0x09EF7EFF0A800000, none, .lkrecv ⟨14, 61, 62, 63, 6, 0x15⟩),
    (0x0AFF7EFF0AE98000, none, .lkred ⟨15, 61, 62, 63, 6, 0x15, 13, false, .bf, .mx8⟩),
    (0x0AFF7EFF0A844000, none, .lkred ⟨15, 61, 62, 63, 6, 0x15, 0, true, .f, .bf⟩),
    (0x0B0F40030A800000, none, .lktime ⟨61, 6, 0x15⟩), (0x100F7EFF0A900000, none, .tlbinv ⟨61, 62, 63, 6, 0x15, .range, true⟩),
    (0x100F40030AA00000, none, .tlbinv ⟨61, 0, 0, 6, 0x15, .asid, false⟩),
    (0x100000030AC00000, none, .tlbinv ⟨0, 0, 0, 6, 0x15, .all, false⟩), (0xFF00000000000000, none, .idleC)] = true := by decide

theorem test_decode_q : decodes .q [
    (0x04EFFF6E, none, .gpush ⟨3, 767, 61, 2, true, 6⟩), (0x08EFF000, none, .gpop ⟨3, 767⟩),
    (0x0CEFEF46, none, .sacc ⟨3, 766, 61, .w, false, 6⟩), (0x0CEFEF5E, none, .sacc ⟨3, 766, 61, .d, true, 6⟩),
    (0x0CEFEF66, none, .sacc ⟨3, 766, 61, .f, false, 6⟩), (0x10FDF860, none, .sfop ⟨3, 61, 62, false, false, 6, .add⟩),
    (0x10FDF961, none, .sfop ⟨3, 61, 62, true, false, 6, .swap⟩), (0x10FDF8E2, none, .sfop ⟨3, 61, 62, false, true, 6, .cas⟩),
    (0x10FDF9E3, none, .sfop ⟨3, 61, 62, true, true, 6, .max⟩), (0x10FDF864, none, .sfop ⟨3, 61, 62, false, false, 6, .min⟩),
    (0x10FDF965, none, .sfop ⟨3, 61, 62, true, false, 6, .and⟩), (0x10FDF8E6, none, .sfop ⟨3, 61, 62, false, true, 6, .or⟩),
    (0x20FD0006, none, .nlbin ⟨3, 61, 6⟩), (0x24EFF006, none, .nlpos ⟨3, 767, 6⟩), (0x28FDF806, none, .nlreq ⟨3, 61, 62, 6⟩),
    (0x2CEFFF40, none, .nlpop ⟨3, 767, 61⟩), (0x30FD0006, none, .nlstat ⟨3, 61, 6⟩), (0x40EFFF46, none, .spawn ⟨3, 767, 61, 6⟩),
    (0x44FDF806, none, .take ⟨3, 61, 62, 6⟩), (0x48EFFF46, none, .watch ⟨3, 767, 61, 6⟩),
    (0x4CFD0006, none, .unwatch ⟨3, 61, 6⟩), (0xFC000000, none, .idleQ)] = true := by decide

theorem test_decode_f : decodes .f [
    (0x04C00484, none, .setfmtImm ⟨3, 0x484⟩), (0x04E0F400, none, .setfmtReg ⟨3, 61⟩), (0x08C000A5, none, .waitt ⟨3, 0xA5⟩),
    (0x0CC0ABCD, none, .slack ⟨3, 0xABCD⟩), (0x10C00004, none, .drain ⟨3, 4⟩), (0x14EBC440, none, .bar ⟨3, 700, 68⟩),
    (0x18C00000, none, .yield 3), (0x18C00001, none, .yieldNw 3), (0x1CC00000, none, .tdone 3),
    (0x20C000FF, none, .ovl ⟨3, 255⟩), (0x24FFA000, none, .zset ⟨3, 7, 61⟩), (0x28FD0000, none, .time ⟨3, 61⟩),
    (0x2CFD0005, none, .perf ⟨3, 61, 5⟩), (0x30FD0000, none, .getflg ⟨3, 61⟩), (0x34C0002A, none, .clrflg ⟨3, 0x2A⟩),
    (0x38FD0001, none, .spflag ⟨3, 61⟩ true), (0x3CFDF805, none, .wfe ⟨3, 61, 62, 5⟩), (0xC0C00000, none, .halt 3),
    (0xC4FDF800, none, .keyld ⟨3, 61, 62⟩), (0xC4FD0001, none, .keyldClr ⟨3, 61⟩)] = true := by decide

/-! ## Witnesses: states and operands that meet the hypotheses of each statement, clause by clause -/

/-- Reset with context 0 changed. -/
def ctx0 (f : Ctx → Ctx) : State := State.reset.modCtx 0 f
/-- Context 0 with registers s1 and s2. -/
def regs2 (a b : Word) : State := ctx0 (fun c => { c with regs := { c.regs with s := [(1, a), (2, b)] } })
/-- Context 0 with another execution state. -/
def run0 (f : Run → Run) : State := ctx0 (fun c => { c with run := f c.run })
/-- Context 0 with another branch state. -/
def br0 (n : Nat) : State := ctx0 (fun c => { c with frame := { c.frame with br := ⟨n, false, false, 0⟩ } })
/-- Context 0 with a predicate in p1. -/
def pred1 (v : PReg) : State := ctx0 (fun c => { c with regs := { c.regs with p := [(1, v)] } })
/-- Context 0 with token t1 at one. -/
def tok1 : State := ctx0 (fun c => { c with fmt := { c.fmt with tok := [(1, 1)] } })
/-- Context 0 with system privilege. -/
def priv0 : State := run0 (fun r => { r with priv := true })

theorem witness_ScalarRegisterResult : State.reset.me.guardN 0 = true ∧ State.reset.me.guardN 1 = false := by decide

theorem witness_ScalarImmediateResult :
    State.reset.me.guardN 0 = true ∧ State.reset.me.guardN 1 = false ∧
    (64 = 64 ∧ State.reset.me.sreg 1 = 0) ∧
    (0 < 64 ∧ 2 ^ (63 - 0) ≤ ((regs2 (BitVec.ofNat 64 (2 ^ 63)) 0).me.sreg 1).toNat ∧
      ((regs2 (BitVec.ofNat 64 (2 ^ 63)) 0).me.sreg 1).toNat < 2 ^ (64 - 0)) ∧
    (63 < 64 ∧ 2 ^ (63 - 63) ≤ ((regs2 1 0).me.sreg 1).toNat ∧ ((regs2 1 0).me.sreg 1).toNat < 2 ^ (64 - 63)) := by decide

theorem witness_MultiplyDivideResult : State.reset.me.guardN 0 = true ∧ State.reset.me.guardN 1 = false := by decide

theorem witness_CompareConditionResult :
    State.reset.me.guardN 0 = true ∧ State.reset.me.guardN 1 = false ∧
    (fld 0xA0000007 26 6 = 0x28 ∧ fld 0xA0000007 0 4 < 8 ∧ fld 0xA0000007 19 3 = 0) ∧
    (fld 0xA0080007 26 6 = 0x28 ∧ fld 0xA0080007 0 4 < 8 ∧ fld 0xA0080007 19 3 ≠ 0) ∧
    (fld 0xA0000008 26 6 = 0x28 ∧ 8 ≤ fld 0xA0000008 0 4) := by decide

/-- The last context of the module. -/
def lastCtx : State := { State.reset with cur := { State.reset.cur with hw := 1535 } }
theorem witness_ContextIdentity :
    (lastCtx.cur.hw < 1536 ∧ lastCtx.me.guardN 0 = true) ∧ (State.reset.cur.hw < 1536 ∧ State.reset.me.guardN 1 = false) := by
  decide

theorem witness_ControlRegisterAccess :
    State.reset.me.guardN 0 = true ∧ State.reset.me.guardN 1 = false ∧ privReg 8 = false ∧
    (privReg 9 = true ∧ priv0.me.run.priv = true ∧ priv0.me.guardN 0 = true ∧ priv0.me.guardN 1 = false) ∧
    (State.reset.cur.go = false ∧ privReg 0 = true ∧ State.reset.me.run.priv = false ∧ State.reset.me.run.trap = false) := by
  decide

/-- s0 as base with a literal. -/
def fromLit (v : Nat) : NI := ⟨0, 1, 0, .lit v⟩
theorem witness_ScalarLoadResult :
    State.reset.me.guardN 1 = false ∧
    (State.reset.me.guardN (fromLit 0x3FFFF8).g = true ∧ scalarEa State.reset.me (fromLit 0x3FFFF8) % 8 = 0) ∧
    scalarEa State.reset.me (fromLit 0xFFFFFFF8) % 8 = 0 := by decide

theorem noWatch_reset : NoWatch State.reset := nofun

theorem witness_ScalarStoreFrame :
    (State.reset.me.guardN 1 = false) ∧
    (State.reset.mem.spad.wf = true ∧ NoWatch State.reset ∧ State.reset.me.guardN (fromLit 0x3FFFF8).g = true ∧
      scalarEa State.reset.me (fromLit 0x3FFFF8) % 8 = 0) ∧
    (State.reset.cur.go = false ∧ scalarEa State.reset.me (fromLit 1) % 2 ≠ 0 ∧ scalarEa State.reset.me (fromLit 7) % 8 ≠ 0) :=
  ⟨by decide, ⟨by decide, noWatch_reset, by decide, by decide⟩, by decide⟩

theorem witness_BranchResult :
    State.reset.me.frame.br.st = 0 ∧ (State.reset.cur.go = false ∧ (br0 1).cur.go = false ∧ (br0 1).me.frame.br.st ≠ 0) ∧
    (∀ k, k < 512 → (State.reset.me.preg 0).getLsbD k = true) ∧
    (∀ k, k < 512 → (State.reset.me.preg 1).getLsbD k = false) ∧
    ((pred1 1).me.frame.br.st = 0 ∧ (pred1 1).cur.go = false ∧
      ∃ j k, j < 512 ∧ k < 512 ∧ ((pred1 1).me.preg 1).getLsbD j = true ∧ ((pred1 1).me.preg 1).getLsbD k = false) := by
  refine ⟨by decide, by decide, by decide, by decide, by decide, by decide, 0, 511, by decide⟩

/-- A CALL at program address 0, its page resident. -/
def callState : State := State.reset.withFetchWord 32 0x3400000A
theorem witness_RegisterBranchCall :
    (State.reset.me.frame.br.st = 0 ∧ State.reset.me.guardN 0 = true ∧ (State.reset.me.sreg 0).toNat % 4 = 0) ∧
    ((regs2 2 0).me.frame.br.st = 0 ∧ (regs2 2 0).cur.go = false ∧ (regs2 2 0).me.guardN 0 = true ∧
      ((regs2 2 0).me.sreg 1).toNat % 4 ≠ 0) ∧
    ((∃ b, callState.bundleAt callState.cur.hw callState.cur.bundle = .ok b) ∧ callState.me.frame.br.st = 0 ∧
      (callState.me.guardN 1 = false ∨ (callState.me.sreg 1).toNat % 4 = 0)) ∧
    (let s := callState.modCtx 0 (fun c => { c with regs := { c.regs with s := [(1, 2)] } })
     (∃ b, s.bundleAt s.cur.hw s.cur.bundle = .ok b) ∧ s.me.frame.br.st = 0 ∧ s.cur.go = false ∧ s.me.guardN 0 = true ∧
       (s.me.sreg 1).toNat % 4 ≠ 0) ∧
    ((br0 1).cur.go = false ∧ (br0 1).me.frame.br.st ≠ 0) := by
  refine ⟨by decide, by decide, ⟨⟨_, rfl⟩, by decide⟩, ⟨⟨_, rfl⟩, by decide⟩, by decide⟩

theorem witness_TrapEntryState :
    ((State.reset.ctx 0).run.trap = false ∧ (State.reset.ctx 0).dbg.trace = 0 ∧ 31 < 32) ∧
    (State.reset.me.frame.br.st = 0 ∧ State.reset.me.run.trap = false ∧ State.reset.me.dbg.trace = 0 ∧
      State.reset.me.guardN 0 = true) ∧ State.reset.me.guardN 1 = false ∧
    ((br0 1).cur.go = false ∧ (br0 1).me.frame.br.st ≠ 0) := by decide

/-- Context 0 in trap mode with a frozen result. -/
def trapped0 : State := ctx0 (fun c => { c with
  run := { c.run with trap := true }
  pend := ⟨[], [], [⟨.s 1, 0, 5, 0, 1, 0, 0, none, 0, 0⟩], []⟩ })
theorem witness_TrapReturnResult :
    (State.reset.cur.go = false ∧ State.reset.me.run.priv = false ∧ State.reset.me.run.trap = false) ∧
    (priv0.cur.go = false ∧ priv0.me.frame.br.st = 0 ∧ priv0.me.run.priv = true ∧ priv0.me.run.trap = false) ∧
    ((br0 2).cur.go = false ∧ (br0 2).me.frame.br.st ≠ 0) ∧
    (trapped0.me.frame.br.st = 0 ∧ trapped0.me.run.trap = true ∧ trapped0.me.pend.val = [] ∧ trapped0.me.pend.flg = [] ∧
      (∀ x ∈ (trapped0.core trapped0.myCore).xfers, x.hw = trapped0.cur.hw → x.frozen = true ∨ x.orphan = true) ∧
      trapped0.me.run.cuts = 0 ∧ trapped0.me.run.pre = none ∧ (∀ p ∈ trapped0.me.pend.frozenVal, 0 < p.land) ∧
      (∀ p ∈ trapped0.me.pend.frozenFlg, 0 < p.land)) := by decide

/-- Guard 0 leaves every element active, guard 1 none. -/
theorem active_all (w : Nat) (h : 0 < 512 / w) : SomeActive (State.reset.me.guardW 0) w := ⟨0, h, by
  rw [Active, Nat.zero_mul]; decide⟩
theorem active_none (w : Nat) : ¬ SomeActive (State.reset.me.guardW 1) w := by
  rintro ⟨e, _, h⟩
  have : State.reset.me.guardW 1 = 0 := by decide
  rw [Active, this] at h
  simp at h

theorem witness_VectorIntegerResult :
    SomeActive (State.reset.me.guardW 0) 1 ∧ SomeActive (State.reset.me.guardW 0) 8 ∧ ¬ SomeActive (State.reset.me.guardW 1) 8 :=
  ⟨active_all 1 (by decide), active_all 8 (by decide), active_none 8⟩

theorem witness_VectorNarrowWidenLogicShift :
    (Instr.vnrw ⟨0, .w, 0, 766, 0⟩ 31 true true).wf = true ∧ (Instr.vwid ⟨0, .b, 766, 0, 0⟩).wf = true ∧
    SomeActive (State.reset.me.guardW 0) 2 ∧ ¬ SomeActive (State.reset.me.guardW 1) 2 :=
  ⟨by decide, by decide, active_all 2 (by decide), active_none 2⟩

theorem witness_VectorCompareSelectMove :
    SomeActive (State.reset.me.guardW 0) 4 ∧ ¬ SomeActive (State.reset.me.guardW 1) 4 ∧ 127 < ETy.w.count :=
  ⟨active_all 4 (by decide), active_none 4, by decide⟩

theorem witness_PredicateResult : SomeActive (State.reset.me.guardW 0) 1 ∧ ¬ SomeActive (State.reset.me.guardW 1) 1 :=
  ⟨active_all 1 (by decide), active_none 1⟩

theorem witness_FloatArithmeticResult : SomeActive (State.reset.me.guardW 0) 4 ∧ ¬ SomeActive (State.reset.me.guardW 1) 4 ∧
    ETy.f.isFloat = true ∧ (FV.nan true).isNan = true ∧ vq (.fin false 1 0) + vq (.fin false 1 0) ≠ 0 ∧
    vq (.fin false 1 0) + vq (.fin true 1 0) = 0 ∧ vq (.fin true 0 0) + vq (.fin true 0 0) = 0 := by
  refine ⟨active_all 4 (by decide), active_none 4, by decide, by decide, ?_, ?_, ?_⟩ <;> norm_num [vq]

theorem witness_FloatCompareConvert : SomeActive (State.reset.me.guardW 0) 2 ∧ ¬ SomeActive (State.reset.me.guardW 1) 2 ∧
    ETy.f.isFloat = true ∧ ETy.hf.isFloat = true ∧ ETy.ub.isInt = true ∧
    (f32.decode 0x7F800001).isNan = true ∧ (f32.decode 0x3F800000).isNan = false ∧
    Below (f32.decode 0xFF800000) (f32.decode 0x7F800000) ∧
    ¬ Below (f32.decode 0x00000000) (f32.decode 0x80000000) ∧ ¬ Below (f32.decode 0x80000000) (f32.decode 0x00000000) ∧
    f32.decode 0x7F800001 = .nan true ∧ f32.decode 0xFF800000 = .inf true ∧ f32.decode 0xFF7FFFFF = .fin true 0xFFFFFF 104 := by
  refine ⟨active_all 2 (by decide), active_none 2, by decide, by decide, by decide, by decide, by decide,
    show Below (.inf true) (.inf false) from ⟨rfl, rfl⟩, ?_, ?_, by decide, by decide, by decide⟩ <;>
    norm_num [FFmt.decode, f32, Below, vq]

/-- Full service. -/
def full0 : State := { State.reset with mod := { State.reset.mod with full := true } }
theorem witness_RoundingAndFunctions :
    (0 < 1 ∧ 3 % 2 ^ 1 ≠ 0 ∧ (4 = 4)) ∧ (full0.mod.full = true ∧ SomeActive (full0.me.guardW 0) 4) ∧
    (State.reset.cur.go = false ∧ State.reset.mod.full = false) ∧
    (ETy.f.isFloat = true ∧ 4 < 5 ∧ 3 < 4 ∧ (ffmtOf .f).decode 0x7F800001 = .nan true ∧ (ffmtOf .f).decode 0x7F800000 = .inf false ∧
      (ffmtOf .f).decode 0xFF800000 = .inf true ∧ (∃ neg e, (ffmtOf .f).decode 0x80000000 = .fin neg 0 e) ∧
      (∃ m e, (ffmtOf .f).decode 0x80000001 = .fin true (m + 1) e)) :=
  ⟨by decide, ⟨by decide, active_all 4 (by decide)⟩, by decide, by decide, by decide, by decide, by decide, by decide, by decide,
    ⟨_, _, rfl⟩, ⟨0, -149, by decide⟩⟩

theorem witness_QuantiseDequantise :
    (Instr.vqnt ⟨0, .mx8, 0, 2, 0⟩ 1 3).wf = true ∧ (Instr.vdqnt ⟨0, .mx4, 0, 2, 0⟩ 1 0).wf = true ∧
    (mxBits .mx8 = 8 ∧ full0.mod.full = true) ∧
    SomeActive (State.reset.me.guardW 0) 4 ∧ ¬ SomeActive (State.reset.me.guardW 1) 4 ∧
    (State.reset.cur.go = false ∧ State.reset.mod.full = false ∧ mxBits .mx4 ≠ 8 ∧ (Instr.vqnt ⟨0, .mx4, 0, 2, 0⟩ 1 3).wf = true) :=
  ⟨by decide, by decide, by decide, active_all 4 (by decide), active_none 4, by decide⟩

theorem witness_QuantiseDequantise_rows :
    (4 = 8 ∨ 4 = 6 ∨ 4 = 4) ∧ (4 ≤ 4) ∧
    (let r := mxQuantise 4 4 0 (fun e => e) (fun e => decide (e = 32)) (fun _ => .inf false) Ctx.reset
     (1, 255) ∈ r.scales ∧ ¬ ∃ n m d, FV.inf false = .fin n m d) ∧
    (let r := mxQuantise 4 4 0 (fun e => e) (fun e => decide (e = 32)) (fun _ => .fin true 3 (-1)) Ctx.reset
     (∃ s, (1, s) ∈ r.scales) ∧ ∃ q, (32, q) ∈ r.elems) := by
  refine ⟨by decide, by decide, ⟨by decide, by simp⟩, ⟨127, by decide⟩, 10, by decide⟩

theorem witness_ReductionResult :
    ([some 1, none, some 2, some 3] : List (Option Nat)).length = 2 ^ 2 ∧ 2 ≤ 9 ∧ ETy.ub.isInt = true ∧ ETy.hf.isFloat = true ∧ SomeActive (State.reset.me.guardW 0) 1 ∧ ¬ SomeActive (State.reset.me.guardW 1) 2 :=
  ⟨rfl, by decide, by decide, by decide, active_all 1 (by decide), active_none 2⟩

/-- One byte at the top of the scratchpad: p1 has bit 0, s1 the last aligned address. -/
def oneByte (a : Word) : State := ctx0 (fun c => { c with regs := { c.regs with s := [(1, a)], p := [(1, 1)] } })
/-- Rows 0 and 1 of a strided access. -/
def twoRows (a : Word) : State :=
  ctx0 (fun c => { c with regs := { c.regs with s := [(1, a)], p := [(1, BitVec.ofNat 512 (1 + 2 ^ 32))] } })
/-- An access under p1 at s1, and one that is nullified. -/
def lOn : LD := ⟨2, 5, 1, 0, 0⟩
def lOff : LD := ⟨1, 5, 1, 0, 0⟩
def sOn : LS := ⟨2, 5, 1, 32, 0⟩
def xOn : LX := ⟨2, 5, 1, 0, 6⟩
def fOn : LF := ⟨2, 3, 0, 1, 0, 0⟩

theorem noConflict_one (x : Nat × Word) : NoConflict [x] := by
  intro a ha b hb _ _ _ _
  rw [List.mem_singleton.mp ha, List.mem_singleton.mp hb]

theorem witness_VectorLoadResult :
    ((oneByte 0x3FFFC0).me.movesD lOff 0 = [] ∧ (oneByte 0x3FFFC0).me.movesP lOff 0 = []) ∧
    ((oneByte 0x3FFFC0).me.movesD lOn 0 ≠ [] ∧ ((oneByte 0x3FFFC0).me.eaD lOn 0).toNat % 64 = 0 ∧
      NoConflict ((oneByte 0x3FFFC0).me.movesD lOn 0) ∧ NoConflict ((oneByte 0x3FFFC0).me.movesB lOn 0)) ∧
    ((oneByte 0).me.movesX xOn ≠ [] ∧ NoConflict ((oneByte 0).me.movesX xOn) = NoConflict ((oneByte 0).me.movesX xOn) ∧
      ((oneByte 0).me.eaX xOn).toNat % 16 = 0 ∧
      ∀ j, j < 32 → ((oneByte 0).me.guardW xOn.g).getLsbD (16 * j) = true → ((oneByte 0).me.chunkAt xOn j).toNat % 16 = 0) ∧
    ((oneByte 0x3FFFC0).me.movesP lOn 0 ≠ [] ∧ ((oneByte 0x3FFFC0).me.eaD lOn 0).toNat % 64 = 0) := by
  refine ⟨by decide, ⟨by decide, by decide, ?_, ?_⟩, ⟨by decide, rfl, by decide, by decide⟩, by decide⟩
  · rw [show (oneByte 0x3FFFC0).me.movesD lOn 0 = [(0, 0x3FFFC0)] by decide]; exact noConflict_one _
  · rw [show (oneByte 0x3FFFC0).me.movesB lOn 0 = [(0, 0x3FFFC0)] by decide]; exact noConflict_one _

theorem witness_VectorStoreFrame :
    ((oneByte 0x3FFFC0).me.movesD lOff 0 = []) ∧
    ((oneByte 0x3FFFC0).mem.spad.wf = true ∧ NoWatch (oneByte 0x3FFFC0) ∧ (oneByte 0x3FFFC0).me.movesD lOn 0 ≠ [] ∧
      ((oneByte 0x3FFFC0).me.eaD lOn 0).toNat % 64 = 0 ∧ NoConflict ((oneByte 0x3FFFC0).me.movesD lOn 0) ∧
      (oneByte 0x3FFFC0).me.movesF fOn 0 ≠ [] ∧ (oneByte 0x3FFFC0).me.movesP lOn 0 ≠ []) ∧
    ((oneByte 8).cur.go = false ∧ (oneByte 8).me.movesD lOn 0 ≠ [] ∧ ((oneByte 8).me.eaD lOn 0).toNat % 16 ≠ 0) ∧
    ((twoRows 0).cur.go = false ∧ (twoRows 0).me.movesS sOn 0 ≠ [] ∧ ((twoRows 0).me.eaS sOn 0).toNat % 32 = 0 ∧
      ¬ NoConflict ((twoRows 0).me.movesS sOn 0)) := by
  refine ⟨by decide, ⟨by decide, nofun, by decide, by decide, ?_, by decide, by decide⟩, by decide, by decide, by decide,
    by decide, ?_⟩
  · rw [show (oneByte 0x3FFFC0).me.movesD lOn 0 = [(0, 0x3FFFC0)] by decide]; exact noConflict_one _
  · intro h
    exact absurd (h (0, 0) (by decide) (32, 1024) (by decide) (by decide) (by decide) (by decide) (by decide)) (by decide)

theorem witness_IdleResult :
    Instr.idleXy = .idleXy ∧ (fld 0xFC000001 26 6 = 0x3F ∧ fld 0xFC000001 0 26 ≠ 0) := by decide

/-- A product of one cell: operands at the ends of their halves, `k` positions, FMT as given. -/
def mmState (f : BitVec 32) (a k : Word) : State :=
  ctx0 (fun c => { c with
    regs := { c.regs with s := [(1, a), (2, 0x3FFFC0), (3, k)] }
    fmt := { c.fmt with fmt := f, z := [(1, ⟨63, 63, 1, 1⟩)], tok := [(1, 1)] } })
def mm1 : MM := ⟨15, 1, 2, 3, 1, 7, 4, 0, 0, 0⟩
def mmProd (f : BitVec 32) (a k : Word) (kind : PKind) : Prod :=
  newProduct (mmState f a k) kind 15 1 7 0 0 (2 ^ 64 - 1) a 0x3FFFC0 k

theorem witness_ProductIssueResult :
    ((mmState 0 0x1FFFC0 32).me.tokensZero mm1.cons = true ∧ ¬ FormatsBad (mmState 0 0x1FFFC0 32) (mmProd 0 0x1FFFC0 32 .mmul) ∧
      (mmProd 0 0x1FFFC0 32 .mmul).spec.p ≤ 65536 ∧ (mmProd 0 0x1FFFC0 32 .mmul).spec.a % 64 = 0 ∧
      (mmProd 0 0x1FFFC0 32 .mmul).spec.b % 64 = 0 ∧
      (mmState 0 0x1FFFC0 32).portChk (mmState 0 0x1FFFC0 32).myCore (mmProd 0 0x1FFFC0 32 .mmul)
        (((mmState 0 0x1FFFC0 32).core (mmState 0 0x1FFFC0 32).myCore).prods.all (mmProd 0 0x1FFFC0 32 .mmul).clearOf) = none) ∧
    ((mmProd 0 0x1FFFC0 32 .mstrm).spec.kind.streams = true ∧ ¬ FormatsBad (mmState 0 0x1FFFC0 32) (mmProd 0 0x1FFFC0 32 .mstrm)) ∧
    ((mmState 0 0 1).cur.go = false ∧ (mmState 0 0 1).me.tokensZero 2 = false) ∧
    FormatsBad (mmState 0x020 0 1) (mmProd 0x020 0 1 .mmul) ∧
    (¬ FormatsBad (mmState 0 0 65537) (mmProd 0 0 65537 .mmul) ∧ 65536 < (mmProd 0 0 65537 .mmul).spec.p) ∧
    (¬ FormatsBad (mmState 0 32 65536) (mmProd 0 32 65536 .mmul) ∧ (mmProd 0 32 65536 .mmul).spec.p ≤ 65536 ∧
      (mmProd 0 32 65536 .mmul).spec.a % 64 ≠ 0) := by
  unfold FormatsBad
  refine ⟨⟨by decide, by decide, by decide, by decide, by decide, by decide⟩, by decide, by decide, by decide, by decide, by decide⟩

def mv1 : MV := ⟨0, 1, 7, 4, 0, 767⟩
def mx1 : MX := ⟨0, 0, 0, 1, 4, 0, .f, 1, 0⟩
/-- Zone z0 with 63 columns, which are no whole blocks. -/
def odd0 : State := ctx0 (fun c => { c with fmt := { c.fmt with z := [(0, ⟨0, 0, 64, 63⟩)] } })
theorem witness_TileAccessResult :
    ((regs2 62 0).me.tokensZero 4 = true ∧ ((regs2 62 0).me.sreg mv1.row).toNat + 2 ≤ (regs2 62 0).mod.rows) ∧
    ((regs2 63 0).cur.go = false ∧ (regs2 63 0).me.tokensZero mv1.cons = true ∧
      (regs2 63 0).mod.rows < ((regs2 63 0).me.sreg mv1.row).toNat + 2) ∧
    (tok1.cur.go = false ∧ tok1.me.tokensZero 2 = false) ∧
    (State.reset.me.tokensZero mx1.cons = true ∧ mx1.u.isMx = false ∧ (State.reset.me.sreg mx1.addr).toNat % 64 = 0 ∧
      xferConflict (State.reset.core State.reset.myCore).xfers (State.reset.xferOf true mx1)
        ((State.reset.core State.reset.myCore).arr + 1) (State.reset.me.zone mx1.zone).rows = none) ∧
    (odd0.cur.go = false ∧ odd0.me.tokensZero 0 = true ∧ ETy.mx8.isMx = true ∧ (odd0.me.zone 0).cols % 32 ≠ 0) := by decide

/-- A slot that MRESUME has read, at base 0x20000. -/
def resumeState (st : Nat) (p : Option Prod) (todo : List (Nat × Bool × Nat × Nat)) : State :=
  (ctx0 (fun c => { c with
    regs := { c.regs with s := [(1, 0x20000), (2, 1)] }
    fmt := { c.fmt with tok := [(1, 1)] }
    run := { c.run with priv := true } })).modCore 0 (fun k => { k with resumes := [⟨0, 0x20000, 0, [], false, st, p, todo⟩] })
def mi1 : MI := ⟨1, 2, 0⟩
def resProd : Prod := mmProd 0 0 1 .mmul
theorem witness_SeamResumeResult :
    (System (resumeState 2 none []) ∧ (resumeState 2 none []).me.tokensZero mi1.cons = true ∧
      ((resumeState 2 none []).me.sreg mi1.a).toNat % 0x20000 = 0 ∧
      (((resumeState 2 none []).core (resumeState 2 none []).myCore).prods.map (fun p => p.id)).Nodup ∧
      (∀ j ∈ ((resumeState 2 none []).core (resumeState 2 none []).myCore).imgs, j.grp ≠ (resumeState 2 none []).front.nextId)) ∧
    ((resumeState 2 none []).cur.go = false ∧ (resumeState 2 none []).me.tokensZero 2 = false) ∧
    ((resumeState 2 none []).me.sreg 2).toNat % 0x20000 ≠ 0 ∧
    (State.reset.cur.go = false ∧ State.reset.me.run.priv = false ∧ State.reset.me.run.trap = false) ∧
    (∃ r, (resumeState 2 none []).resumeOf (resumeState 2 none []).cur.hw = some r ∧ r.addr = (resumeState 2 none []).me.sreg mi1.a ∧
      r.st = 2 ∧ r.prod = none) ∧
    (∃ r, (resumeState 1 none []).resumeOf (resumeState 1 none []).cur.hw = some r ∧ r.addr = (resumeState 1 none []).me.sreg mi1.a ∧
      r.st = 1) ∧
    (∃ r, (resumeState 3 (some resProd) []).resumeOf 0 = some r ∧ r.addr = (resumeState 3 (some resProd) []).me.sreg mi1.a ∧
      r.st = 3 ∧ r.todo = [] ∧ r.prod = some resProd ∧ (resProd.spec.fa ≠ 3 ∧ resProd.spec.fa ≠ 4 ∧ resProd.spec.fb ≠ 3 ∧
        resProd.spec.fb ≠ 4) ∧ (resumeState 3 (some resProd) []).portChk 0 { resProd with
          id := 1, hw := 0, issue := 0 - resProd.k0, sched := 0 - resProd.k0
          spec := { resProd.spec with tok := mi1.prod, bundle := 0 } } true = none) ∧
    (∃ r, (resumeState 0 none []).resumeOf 0 = some r ∧ r.st = 0) := by
  unfold System
  refine ⟨by decide, by decide, by decide, by decide, ⟨_, rfl, by decide⟩, ⟨_, rfl, by decide⟩, ⟨_, rfl, by decide⟩, ⟨_, rfl, rfl⟩⟩

/-- Some command, and a gusset of `n` of them. -/
def cmd0 : Cmd := ⟨9, .lktime 5, 0, 1, 0, false, 0, false, false, none, none, [], []⟩
def gusset (n : Nat) : State :=
  ctx0 (fun c => { c with
    regs := { c.regs with s := [(1, 0xBFFFFF0), (2, 16), (3, 32)] }
    eng := { c.eng with cG := List.replicate n cmd0, qG := List.replicate n cmd0, handles := [(15, 3)], links := 2 ^ 31 + 2 ^ 30 + 2 ^ 28 } })

theorem witness_ChainCommandEnters :
    ((gusset 15).me.eng.cG.length < 16 ∧ Bound (gusset 15) 15 ∧ ((gusset 15).me.sreg 3).toNat % 32 = 0) ∧
    ((gusset 16).cur.go = false ∧ 16 ≤ (gusset 16).me.eng.cG.length) ∧
    (((gusset 15).me.sreg 1).toNat % 16 = 0 ∧ Owns (gusset 15) 15 true ∧ Owns (gusset 15) 15 false ∧
      ((gusset 15).me.sreg 1).toNat + ((gusset 15).me.sreg 2).toNat % 2 ^ 21 ≤ 0xC000000) ∧
    (((gusset 15).me.sreg 0).toNat % 16 = 0 ∧ ((gusset 15).me.sreg 3).toNat % 32 = 0 ∧ Owns (gusset 15) 14 true ∧
      ((gusset 15).me.sreg 0).toNat + 4 * ((gusset 15).me.sreg 3).toNat ≤ 0xC000000) ∧
    System priv0 ∧ (State.reset.cur.go = false ∧ State.reset.me.run.priv = false ∧ State.reset.me.run.trap = false) := by
  unfold System Bound Owns
  decide

/-- Context 0 in a launch that gives it queue 0x0FF and watch entry 511. -/
def taskState : State :=
  let s := ctx0 (fun c => { c with
    regs := { c.regs with
      s := [(1, 0xFF), (2, 0), (3, BitVec.ofNat 64 (2 ^ 21 + 2 * 2 ^ 18 + 6 * 2 ^ 13 + 511)), (4, 511)]
      v := [(1, BitVec.ofNat 4096 (0xFFFFFFFF * 2 ^ 64 + 0xFF * 2 ^ 128))] }
    run := { c.run with launch := some 7 } })
  let s1 := s.modCl 0 (fun c => { c with tq := [(0xFF, ⟨0, 7, 4, 0, 0, [], 0, [], []⟩)] })
  { s1 with front := { s1.front with launches := [⟨7, 0, 0, [0], [], [(0, 0xFF)], 511, 1, [0], [], [], [], [0], []⟩] } }
theorem noWatch_task : NoWatch taskState := by
  intro x hx y hy
  have : x = (0, { Cluster.reset with tq := [(0xFF, ⟨0, 7, 4, 0, 0, [], 0, [], []⟩)] }) := List.mem_singleton.mp hx
  rw [this] at hy
  cases hy

theorem witness_QueueCommandEnters :
    (State.reset.me.guardN 1 = false ∧ State.reset.me.guardN 0 = true) ∧
    ((gusset 15).me.eng.qG.length < 16 ∧ Room (gusset 15) ∧ ((gusset 15).me.sreg 1).toNat % 2 ^ 3 = 0 ∧
      ((gusset 15).me.sreg 3).toNat % 32 = 0) ∧
    ((gusset 16).cur.go = false ∧ 16 ≤ (gusset 16).me.eng.qG.length) ∧
    (let s := ctx0 (fun c => { c with eng := { c.eng with addrQ := List.replicate 64 (1, false) } })
     s.cur.go = false ∧ s.me.guardN 0 = true ∧ s.me.eng.qG.length < 16 ∧ (s.me.sreg 0).toNat % 2 ^ 3 = 0 ∧ ¬ Room s) ∧
    (∃ l, taskState.launchOf taskState.cur.hw = some l ∧
      (let d := (taskState.me.vreg 1).toNat % 2 ^ 512
       ¬ SpawnKind d ∧ ¬ RecordScope d ∧ ¬ SpawnBits d (taskState.me.sreg 1).toNat ∧ ¬ RecordMisaligned d ∧ ¬ RecordOutside d ∧
        (taskState.me.sreg 1).toNat < 0x200 ∧
        taskState.launchQueue 0 (taskState.me.sreg 1).toNat = true ∧ taskState.mayTake 0 (taskState.me.sreg 1).toNat = true) ∧
      (let w := (taskState.me.sreg 3).toNat
       let d := (taskState.me.vreg 1).toNat % 2 ^ 512
       let a := (taskState.me.sreg 2).toNat
       ¬ WatchScope w d ∧ ¬ WatchBits w d ∧ ¬ WatchAlign a w d ∧ ¬ WatchOutside taskState l a w d) ∧
      QFree taskState 0 ∧ (2 : Nat) ≠ 63 ∧
      (l.wfirst ≤ (taskState.me.sreg 4).toNat ∧ (taskState.me.sreg 4).toNat < l.wfirst + l.wcount)) ∧
    (let s := ctx0 (fun c => { c with eng := { c.eng with addrQ := [(1, false)], dataQ := [⟨false, 3, 0, true, false, false⟩] } })
     s.me.guardN 0 = true ∧ s.me.eng.addrQ = (1, false) :: [] ∧ s.me.eng.dataQ = ⟨false, 3, 0, true, false, false⟩ :: []) ∧
    (let s := ctx0 (fun c => { c with eng := { c.eng with addrQ := [(1, true)], dataQ := [⟨true, 3, 7, true, false, false⟩] } })
     s.me.guardN 0 = true ∧ s.me.eng.addrQ = (1, true) :: [] ∧ s.me.eng.dataQ = ⟨true, 3, 7, true, false, false⟩ :: []) ∧
    (let s := ctx0 (fun c => { c with eng := { c.eng with addrQ := [(1, true)] } })
     s.cur.go = false ∧ State.reset.me.eng.addrQ = [] ∧ s.me.eng.addrQ = (1, !false) :: [] ∧ s.me.eng.dataQ = []) := by
  refine ⟨by decide, by unfold Room; decide, by decide, by unfold Room; decide,
    ⟨_, rfl, ?_, by unfold WatchScope WatchBits WatchAlign WatchOutside RecordScope RecordMisaligned RecordOutside; decide,
      by unfold QFree; decide, by decide, by decide⟩,
    by decide, by decide, by decide⟩
  unfold SpawnKind RecordScope SpawnBits RecordMisaligned RecordOutside; decide

/-- Operands at which each check of the Q instructions fails. -/
theorem witness_QueueCommandEnters_checks :
    QFree (regs2 7 0xC000000) 0 ∧ ((regs2 7 0).me.sreg 1).toNat % 2 ^ 3 ≠ 0 ∧ ((regs2 7 0).me.sreg 1).toNat % 32 ≠ 0 ∧
    ((regs2 7 0).me.sreg 1).toNat % 64 ≠ 0 ∧ 0x200 ≤ ((regs2 0x200 0).me.sreg 1).toNat ∧
    0xC000000 < ((regs2 7 0xC000000).me.sreg 2).toNat + 64 ∧
    SpawnKind (2 ^ 32) ∧ RecordScope (5 * 2 ^ 40) ∧ SpawnBits (8 * 2 ^ 40) 0 ∧ SpawnBits 0 0x200 ∧ RecordMisaligned 2 ∧
    RecordOutside (0xC000000 * 2 ^ 64) ∧ WatchScope (2 ^ 18) 0 ∧ WatchBits (2 ^ 32) 0 ∧ WatchAlign 32 (6 * 2 ^ 13) 0 := by
  unfold QFree SpawnKind SpawnBits WatchScope WatchBits WatchAlign RecordMisaligned RecordOutside RecordScope
  decide

theorem witness_FormatFlagZoneResult :
    (State.reset.me.guardN 0 = true ∧ State.reset.me.guardN 1 = false) ∧
    (fmtCodes ((regs2 0x484 0).me.sreg 1).toNat = true ∧ fmtBits ((regs2 0x484 0).me.sreg 1).toNat = true) ∧
    ((regs2 7 0).cur.go = false ∧ (regs2 7 0).me.guardN 0 = true ∧ fmtCodes ((regs2 7 0).me.sreg 1).toNat = false) ∧
    (fmtCodes ((regs2 0x800 0).me.sreg 1).toNat = true ∧ fmtBits ((regs2 0x800 0).me.sreg 1).toNat = false) ∧
    ZoneOk State.reset.mod (fld (63 + 63 * 2 ^ 8 + 2 ^ 16 + 2 ^ 24) 0 64) ∧ ZoneOk State.reset.mod (64 * 2 ^ 16 + 64 * 2 ^ 24) ∧
    ¬ ZoneOk State.reset.mod (State.reset.me.sreg 1).toNat := by
  unfold ZoneOk; decide

theorem witness_TimeWaitResult :
    (State.reset.me.guardN 0 = true ∧ State.reset.me.guardN 1 = false ∧ 7 < 8) ∧
    (∀ k, k < 8 → Nat.testBit 0xFD k = true → tok1.me.token k = 0) ∧
    (tok1.cur.go = false ∧ tok1.me.guardN 0 = true ∧ ∃ k, k < 8 ∧ Nat.testBit 2 k = true ∧ tok1.me.token k ≠ 0) ∧
    (State.reset.drained State.reset.cur.hw = true ∧ 0 ≠ 4 ∧ State.reset.pingsOf 0 = none ∧ State.reset.me.eng.hostLinks = []) ∧
    ((withPings State.reset [(0, [])]).pingsOf 0 = some [] ∧ (withPings State.reset [(0, [1])]).pingsOf 0 = some [1] ∧
      (withPings State.reset [(0, [1])]).cur.go = false ∧ (withPings State.reset [(0, [1])]).drained 0 = true) ∧
    (let s := ctx0 (fun c => { c with eng := { c.eng with hostLinks := [3] } })
     s.cur.go = false ∧ s.drained 0 = true ∧ s.pingsOf 0 = none ∧ s.me.eng.hostLinks ≠ []) ∧
    ((gusset 1).cur.go = false ∧ (gusset 1).drained (gusset 1).cur.hw = false) ∧
    State.reset.wfeHolds State.reset.cur.hw 3 (State.reset.me.sreg 0) = 0 ∧
    (State.reset.me.run.barPass = false ∧ ¬ Arrived State.reset 0 ∧ State.reset.quiet 0 = true) ∧
    Arrived (State.reset.modCl 0 (fun c => { c with bars := [(0, [(0, 3)])] })) 0 ∧
    (run0 (fun r => { r with st := .ready })).quiet 0 = true ∧ tok1.quiet 0 = false ∧
    State.reset.wfeHolds State.reset.cur.hw 4 (State.reset.me.sreg 0) ≠ 0 ∧
    (let s := run0 (fun r => { r with barPass := true })
     s.me.run.barPass = true ∧ s.quiet s.cur.hw = true) ∧
    (let s := tok1.modCtx 0 (fun c => { c with run := { c.run with barPass := true } })
     s.cur.go = false ∧ s.me.guardN 0 = true ∧ s.me.run.barPass = true ∧ s.quiet s.cur.hw = false) := by
  refine ⟨by decide, by decide, ⟨by decide, by decide, 1, by decide⟩, by decide, by decide, by decide, by decide, by decide,
    ⟨by decide, nofun, by decide⟩, ⟨_, List.mem_singleton.mpr rfl, rfl⟩, by decide, by decide, by decide, by decide, by decide⟩

/-- A record with counter 0xBFFFFF8 runs. -/
def tdone0 : State := run0 (fun r => { r with curRec := some (0xBFFFFF8 * 2 ^ 64) })
/-- A key load of context 0 is in progress. -/
def keyState (done : Bool) : State := withLoads (regs2 2047 0x3FFFC0) [⟨0, 2047, some 5, done⟩]
theorem witness_ControlInstructionResult_waits :
    ((regs2 2047 0x3FFFC0).cur.go = false ∧ (regs2 2047 0x3FFFC0).loadOf 0 = none) ∧
    ((keyState false).loadOf 0 = some ⟨0, 2047, some 5, false⟩ ∧ (keyState false).cur.go = false) ∧
    (keyState true).loadOf 0 = some ⟨0, 2047, some 5, true⟩ ∧
    (2047 < ((regs2 2048 0).me.sreg 1).toNat ∧ ((regs2 0 32).me.sreg 2).toNat % 64 ≠ 0 ∧
      0x400000 < ((regs2 0 0x400000).me.sreg 2).toNat + 64) ∧
    ((priv0.modCtx 0 (fun c => { c with fmt := tok1.me.fmt })).quiet 0 = false) ∧
    (let s := tdone0.modCtx 0 (fun c => { c with eng := { c.eng with qG := [cmd0] } })
     s.cur.go = false ∧ s.drained s.cur.hw = false) ∧
    (let d := 4 * 2 ^ 40 + 0xBFFFFF8 * 2 ^ 64
     let s := ctx0 (fun c => { c with run := { c.run with curRec := some d }, eng := { c.eng with hostLinks := [3] } })
     s.drained 0 = true ∧ fld d 40 8 = 4 ∧ s.pingsOf 0 = none ∧ s.me.eng.hostLinks ≠ [] ∧ recCounter d ≠ 0xFFFFFFFF) ∧
    fld (0xBFFFFF8 * 2 ^ 64) 40 8 ≠ 4 ∧ ((br0 2).cur.go = false ∧ (br0 2).me.frame.br.st ≠ 0) := by
  refine ⟨by decide, by decide, by decide, by decide, by decide, by decide, by decide, by decide, by decide⟩

theorem witness_ControlInstructionResult :
    (State.reset.me.frame.br.st = 0 ∧ State.reset.me.guardN 1 = false) ∧
    (State.reset.me.guardN 0 = true ∧ State.reset.me.run.trap = false ∧ State.reset.quiet State.reset.cur.hw = true ∧
      State.reset.me.eng.cG = [] ∧ State.reset.me.eng.qG = [] ∧ State.reset.searchHit State.reset.cur.hw = none) ∧
    ((br0 2).cur.go = false ∧ (br0 2).me.frame.br.st ≠ 0) ∧ State.reset.me.run.curRec = none ∧
    (tdone0.me.guardN 0 = true ∧ tdone0.me.run.curRec = some (0xBFFFFF8 * 2 ^ 64) ∧ tdone0.me.run.released = false ∧
      recCounter (0xBFFFFF8 * 2 ^ 64) ≠ 0xFFFFFFFF ∧ tdone0.drained tdone0.cur.hw = true ∧ tdone0.mem.spad.wf = true ∧
      NoWatch tdone0) ∧
    (State.reset.cur.go = false ∧ State.reset.me.run.priv = false) ∧ System priv0 ∧
    (priv0.me.guardN 0 = true ∧ priv0.quiet priv0.cur.hw = true ∧ priv0.me.guardN 1 = false) ∧
    ((regs2 2047 0x3FFFC0).me.guardN 0 = true ∧ ((regs2 2047 0x3FFFC0).me.sreg 1).toNat ≤ 2047 ∧
      ((regs2 2047 0x3FFFC0).me.sreg 2).toNat % 64 = 0 ∧ ((regs2 2047 0x3FFFC0).me.sreg 2).toNat + 64 ≤ 0x400000) ∧
    (callState.me.guardN 0 = true ∧ callState.ovlSeg 0 = some 0 ∧ ∃ seg, (callState.core callState.myCore).segs[0]? = some seg) ∧
    (State.reset.cur.go = false ∧ State.reset.ovlSeg 0 = none) := by
  unfold System
  refine ⟨by decide, by decide, by decide, by decide, ⟨by decide, by decide, by decide, by decide, by decide, by decide, nofun⟩,
    by decide, by decide, by decide, by decide, ⟨by decide, by decide, ⟨_, rfl⟩⟩, by decide⟩

/-- Context 0 stands at program address 0, whose page holds the bytes; its execution state is as given. -/
def prog (bs : List Byte) (f : Run → Run) : State :=
  { (callState.imemWrite 0 bs).modCtx 0 (fun c => { c with run := f c.run }) with cur := Cursor.reset }
/-- The bytes of a header alone. -/
def hdr (n : Nat) : List Byte := toBytes n 4
/-- The bundle of a header alone at address 0. -/
def alone (n : Nat) : Bundle := ⟨0, n, 4, false, [], 0⟩

theorem witness_ResultLandingRule :
    let p : Pend := ⟨.s 63, 0, 5, 0, 0, 0, 0, none, 0, 0⟩
    let c := ((ctx0 (fun c => { c with pend := ⟨[p], [], [], []⟩ })).ctx 0)
    c.pend.val.filter (fun p => decide (p.land ≤ c.run.sched)) = [p] ∧
      (∀ q ∈ c.pend.val.filter (fun p => decide (p.land ≤ c.run.sched)), q.dest ≠ .s 62 ∧ q.dest ≠ .c 7 ∧ q.dest ≠ .v 767 ∧
        q.dest ≠ .p 15) := by decide

/-- A context that waits in a WFE on the given mask, with an entry in the ingress buffer or none. -/
def wfe0 (mask : Nat) (es : List Ingress) : State :=
  ((State.reset.withFetchWord 32 (0x3C050000 + mask)).modCtx 0 (fun c => { c with run := { c.run with
    st := .waiting, stage := .wfe } })).modCore 0 (fun k => { k with ingress := es })
theorem witness_WaitEndEvents :
    (let s := prog (hdr (2 ^ 13)) (fun r => { r with st := .blocked, await := 1000 })
     (s.ctx 0).run.st = .blocked ∧ (s.ctx 0).run.phase = 1 ∧ (s.ctx 0).run.await = 1000 ∧
       s.fetch (coreOf 0) (s.ctx 0).frame.pos = .ok (alone (2 ^ 13)) ∧
       s.decodeBundle 0 (alone (2 ^ 13)) ((s.ctx 0).plan (alone (2 ^ 13))) = .ok [] ∧ (s.ctx 0).eng.cG = [] ∧ (s.ctx 0).eng.qG = []) ∧
    (let s := (prog (hdr (2 ^ 13)) (fun r => { r with st := .blocked, await := 1000 })).modCtx 0 (fun c => { c with
       eng := { c.eng with qG := [cmd0] } })
     s.fetch (coreOf 0) (s.ctx 0).frame.pos = .ok (alone (2 ^ 13)) ∧
       s.decodeBundle 0 (alone (2 ^ 13)) ((s.ctx 0).plan (alone (2 ^ 13))) = .ok [] ∧ (s.ctx 0).frame.drainWait = false ∧
       (s.ctx 0).frame.rep = 0 ∧ fld (alone (2 ^ 13)).hdr 13 1 = 1 ∧ (s.ctx 0).eng.qG ≠ []) ∧
    (let s := prog (hdr 0) (fun r => { r with st := .blocked, await := 1000 })
     (s.ctx 0).run.st = .blocked ∧ (s.heldBy 0).2.contains (s.ctx 0).run.await = false ∧
       resultWait (s.ctx 0).run.await = false) ∧
    (let s := prog (hdr 0) (fun r => { r with st := .blocked, await := 16 * waitRank (.halt 0) + 9 })
     (s.ctx 0).run.st = .blocked ∧ (s.heldBy 0).2.contains (s.ctx 0).run.await = false ∧ resultWait (s.ctx 0).run.await = true) ∧
    (let s := wfe0 1 [⟨0, 0, 1⟩]
     (s.ctx 0).run.st = .waiting ∧ (s.ctx 0).run.stage = .wfe ∧ s.wfeOf 0 = some ⟨0, 5, 0, 1⟩ ∧
       s.wfeHolds 0 1 ((s.ctx 0).sreg 0) ≠ 0) ∧
    (let s := wfe0 1 []
     (s.ctx 0).run.st = .waiting ∧ (s.ctx 0).run.stage = .wfe ∧ s.wfeOf 0 = some ⟨0, 5, 0, 1⟩ ∧
       s.wfeHolds 0 1 ((s.ctx 0).sreg 0) = 0) ∧
    (let s := State.reset.modCtx 3 (fun c => { c with run := { c.run with st := .ready } })
     (s.core 0).prim = none ∧ MayIssue s (afterCtx 0 (s.core 0).lastPrim 3) ∧
       ∀ m, m < 3 → ¬ MayIssue s (afterCtx 0 (s.core 0).lastPrim m)) ∧
    ((callState.core 0).prim ≠ none ∧ ∀ n, n < 4 → ¬ MayIssue State.reset (afterCtx 0 (State.reset.core 0).lastPrim n)) := by
  unfold MayIssue
  refine ⟨by decide, by decide, by decide, by decide, by decide, by decide, by decide, by decide⟩

theorem witness_BundleIssueResult : NoSyllable (prog (hdr (2 ^ 21 + 31 * 2 ^ 16)) id) 0 (alone (2 ^ 21 + 31 * 2 ^ 16)) :=
  ⟨by decide, rfl, by decide, by decide, by decide, .inl (by decide), by decide, by decide, by decide, by decide, by decide⟩

/-- Context 0 past its hem bound, in a page that is not mapped. -/
def late0 : State := ctx0 (fun c => { c with
  ctl := { c.ctl with hembound := 100 }
  run := { c.run with st := .ready, sched := 141, h := 40 } })
theorem witness_AsynchronousTrapEntry :
    (let a : Async := ⟨16, 64, 0, 0, 15, 15, false, false⟩
     let c := (ctx0 (fun c => { c with async := [a] })).ctx 0
     c.run.trap = false ∧ c.dbg.trace = 0 ∧ c.async = [a] ∧ a.major = false ∧ a.code < 32) ∧
    ((State.reset.ctx 0).run.trap = false ∧ (State.reset.ctx 0).dbg.trace = 0 ∧ (State.reset.ctx 0).async = [] ∧
      State.reset.bundleAt 0 (State.reset.ctx 0).frame.pos = .trap 0) ∧
    ((late0.ctx 0).run.st = .ready ∧ (late0.ctx 0).run.trap = false ∧ (late0.ctx 0).dbg.trace = 0 ∧ (late0.ctx 0).ctl.hembound ≠ 0 ∧
      (late0.ctx 0).run.h + (late0.ctx 0).ctl.hembound.toNat + 1 ≤ (late0.ctx 0).run.sched ∧ ¬ HemPoint late0 0) ∧
    (State.reset.ctx 0).ctl.hembound = 0 := by
  refine ⟨by decide, by decide, ⟨by decide, by decide, by decide, by decide, by decide, ?_⟩, by decide⟩
  rintro ⟨_, _, _, _, _, _, hdr, e, _⟩
  rw [show late0.headAt 0 (late0.ctx 0).frame.pos = .trap 0 by decide] at e
  cases e

/-- Context 0 at a hem bundle, its record's budget of 5 cycles spent or not. -/
def hem0 (ran : Nat) : State := prog (hdr (2 ^ 14)) (fun r => { r with curRec := some (5 * 2 ^ 96), ran := ran })
theorem hemPoint_hem : Savable (hem0 5) 0 ∧ HemPoint (hem0 5) 0 ∧ Savable (hem0 6) 0 ∧ HemPoint (hem0 6) 0 :=
  ⟨⟨by decide, by decide, by decide, by decide, by decide, by decide⟩,
    ⟨by decide, by decide, by decide, by decide, by decide, by decide, 2 ^ 14, by decide, by decide⟩,
    ⟨by decide, by decide, by decide, by decide, by decide, by decide⟩,
    ⟨by decide, by decide, by decide, by decide, by decide, by decide, 2 ^ 14, by decide, by decide⟩⟩
theorem witness_HemRecordEvents :
    (Savable (hem0 6) 0 ∧ HemPoint (hem0 6) 0 ∧ ((hem0 6).ctx 0).run.curRec = some (5 * 2 ^ 96) ∧ fld (5 * 2 ^ 96) 96 32 ≠ 0 ∧
      fld (5 * 2 ^ 96) 96 32 < ((hem0 6).ctx 0).run.ran) ∧
    (Savable (hem0 5) 0 ∧ HemPoint (hem0 5) 0 ∧ ((hem0 5).ctx 0).run.curRec = some (5 * 2 ^ 96) ∧
      ((hem0 5).ctx 0).run.ran ≤ fld (5 * 2 ^ 96) 96 32) ∧
    ((run0 (fun r => { r with stage := .got 4 })).ctx 0).run.stage = .got 4 ∧ Startable 4 ∧ Startable (2 ^ 32) ∧
    ((run0 (fun r => { r with stage := .got (3 * 2 ^ 32) })).ctx 0).run.stage = .got (3 * 2 ^ 32) ∧ fld (3 * 2 ^ 32) 32 8 = 3 ∧
    (let q : TaskQ := ⟨0, 7, 4, 0, 0, [⟨1, 8⟩, ⟨2, 4⟩], 0, [], []⟩
     let s := (ctx0 (fun c => { c with run := { c.run with stage := .search }, eng := { c.eng with ownQ := some 0xFF } })).modCl 0
       (fun c => { c with tq := [(0xFF, q)] })
     (s.ctx 0).run.stage = .search ∧ (s.ctx 0).eng.ownQ = some 0xFF ∧ s.taskQ (clusterOf 0) 0xFF = some q ∧ q.owner = 0 ∧
       q.sram = [⟨1, 8⟩] ++ [⟨2, 4⟩]) := by
  refine ⟨⟨hemPoint_hem.2.2.1, hemPoint_hem.2.2.2, by decide, by decide, by decide⟩,
    ⟨hemPoint_hem.1, hemPoint_hem.2.1, by decide, by decide⟩, by decide, ?_, ?_, by decide, by decide, by decide⟩ <;> (unfold Startable; decide)

/-- Context 0 with another debug state, at a bundle with the debug bit. -/
def dbg0 (f : Dbg → Dbg) : State := (prog (hdr (2 ^ 15)) id).modCtx 0 (fun c => { c with dbg := f c.dbg })
theorem witness_DebugControl :
    ((dbg0 (fun d => { d with st := 1 })).ctx 0).dbg.st ≠ 0 ∧ ((dbg0 id).ctx 0).dbg.st = 0 ∧
    ((dbg0 id).mod.trust.fwOk = true ∧ (withTrust (dbg0 id) { (dbg0 id).mod.trust with fwOk := false }).mod.trust.fwOk = false) ∧
    (let c := (dbg0 (fun d => { d with stopreq := true })).ctx 0
     c.dbg.trace = 0 ∧ c.dbg.st = 0 ∧ c.dbg.skip ≠ some c.frame.pos ∧ c.run.st = .ready ∧ c.dbg.stopreq = true) ∧
    (let s := dbg0 (fun d => { d with bken := true })
     let c := s.ctx 0
     c.dbg.trace = 0 ∧ c.dbg.st = 0 ∧ c.dbg.skip ≠ some c.frame.pos ∧ c.run.st = .ready ∧ c.dbg.stopreq = false ∧
       c.dbg.bken = true ∧ c.frame.rep = 0 ∧ s.headAt 0 c.frame.pos = .ok (2 ^ 15) ∧
       fld (2 ^ 15) 15 1 = 1) ∧
    (let c := (dbg0 id).ctx 0
     c.dbg.trace = 0 ∧ c.dbg.st = 0 ∧ c.dbg.skip ≠ some c.frame.pos ∧ c.run.st = .ready ∧ c.dbg.stopreq = false ∧
       c.dbg.bken = false) ∧
    (let c := (dbg0 (fun d => { d with step := some (0, 65536) })).ctx 0
     c.dbg.trace = 0 ∧ c.dbg.step = some (c.run.sched, 65536)) ∧
    (let c := (dbg0 (fun d => { d with step := some (0, 65535) })).ctx 0
     c.dbg.trace = 0 ∧ c.dbg.step = some (c.run.sched, 65535)) := by
  refine ⟨by decide, by decide, by decide, by decide, by decide, by decide, by decide, by decide⟩

/-- A product of one cell in flight in core 0, at array cycle `arr`. -/
def inFlight (p : Prod) (arr : Nat) (bs : List Byte) : State :=
  (ctx0 (fun c => { c with eng := { c.eng with stream := bs } })).modCore 0 (fun k => { k with arr := arr, prods := [p] })
def strmProd : Prod := mmProd 0 0 2 .mstrm
theorem witness_ArrayEvents :
    ((inFlight resProd 5 []).core 0).prods = [resProd] ∧ resProd.cut = none ∧ resProd.resumed = false ∧ resProd.cnt = [] ∧
    (0 < resProd.spec.zone.rows ∧ 0 < resProd.spec.zone.cols ∧
      CommitsAt resProd 0 0 ((inFlight resProd 5 []).core 0).arr ∧ ¬ CommitsAt resProd 0 0 ((inFlight resProd 6 []).core 0).arr ∧
      CommitsAt { resProd with late := true } 0 0 ((inFlight { resProd with late := true } 6 []).core 0).arr) ∧
    (let s := inFlight strmProd 1 (hdr 7)
     (s.core 0).prods = [strmProd] ∧ strmProd.cut = none ∧ strmProd.orphan = false ∧ strmProd.spec.kind.streams = true ∧
       nextSlice strmProd = 0 ∧ 0 < strmProd.spec.s ∧ strmProd.issue + 0 + 1 = ((s.core 0).arr : Int) ∧
       2 * strmProd.spec.zone.cols ≤ (s.ctx strmProd.hw).eng.stream.length) ∧
    (∀ w : Bool, let x : Xfer := ⟨1, 0, false, w, 15, ⟨63, 63, 1, 1⟩, 0x3FFFC0, 0, .f, 0, 0, 4, 0, 0, 1, false, none, 0⟩
     let s := State.reset.modCore 0 (fun k => { k with arr := 5, xfers := [x] })
     (s.core 0).xfers = [x] ∧ x.orphan = false ∧ x.u = .f ∧ x.rm ≠ 4 ∧ x.issue + 1 + x.next = (s.core 0).arr ∧
       x.next < x.zone.rows ∧ x.zone.col0 + x.zone.cols ≤ 64 ∧ x.addr.toNat + x.next * x.pitch + 4 * x.zone.cols ≤ 0x400000 ∧
       (s.core 0).acsNow = [] ∧ s.mem.spad.wf = true ∧ x.next + 1 = x.zone.rows) := by
  refine ⟨by decide, by decide, by decide, by decide, by unfold CommitsAt; decide, by decide, by decide⟩

/-- A leaf of a readable and writable 64 KiB page at frame 0 of HBM, and the TLB entry of an engine for page 0. -/
def leaf0 : Nat := 3
def tlb0 (eng : Nat) : Tlb := ⟨eng, 0, 0, 65536, leaf0⟩
/-- Cluster 0 with another state. -/
def cl0 (f : Cluster → Cluster) : State := State.reset.modCl 0 f
/-- Core 0 copies a segment of one page into IMEM. -/
def seg0 : Seg := ⟨0, 0, 1, 0, 64, true, true, 0, some 0⟩
def segState : State := (cl0 (fun c => { c with tlbs := [tlb0 7] })).modCore 0 (fun k => { k with segs := [seg0] })
/-- Two members wait at the barrier of team 0, whose size the TEAM register of the first gives. -/
def barState (size : Nat) : State :=
  (ctx0 (fun c => { c with ctl := { c.ctl with team := BitVec.ofNat 64 (256 * size) } })).modCl 0 (fun c => { c with
    bars := [(0, [(0, 3), (5, 0)])] })

theorem witness_SegmentBarrierEvents :
    ((segState.core 0).segs[0]? = some seg0 ∧ seg0.mapped = true ∧ seg0.inflight = true ∧
      segState.translate 0 7 seg0.asid false (pageFuel (4096 * seg0.npages)) (seg0.src.toNat / 64 * 64) (4096 * seg0.npages) =
        .ok [⟨⟨0, 64, none⟩, 4096⟩] ∧ segState.mem.imem.wf = true ∧ segState.fetch 0 (segState.ctx 0).frame.pos = .stall ∧
      (segState.core 0).segs.length = 1) ∧
    (SMap.wf ((barState 2).cluster 0).bars = true ∧ SMap.getD ((barState 2).cluster 0).bars 0 [] = (0, 3) :: [(5, 0)] ∧
      (((0, 3) :: [(5, 0)]).map (fun m => m.1)).Nodup ∧
      (∀ m ∈ [((0 : Nat), (3 : Nat)), (5, 0)], fld ((barState 2).ctx m.1).ctl.team.toNat 0 6 = 0) ∧
      fld ((barState 2).ctx 0).ctl.team.toNat 8 8 ≤ 2) ∧
    2 < fld ((barState 3).ctx 0).ctl.team.toNat 8 8 := by decide

/-- A page table at address 0 of HBM, whose entry 0 points back at it and whose entry 1 is a leaf. -/
theorem walk_of_reads (s : State) (he : s.mem.hbm.readN Config.asidBase 8 = 1) (h0 : s.mem.hbm.readN 0 8 = 1)
    (h8 : s.mem.hbm.readN 8 8 = 0x83) : s.walk 0 (2 ^ 30) = .leaf 0x83 (2 ^ 30) := by
  simp [State.walk, he, fld, pteReserved, nextTable, Config.hbmBytes, levels, walkFrom, h0, h8, leafOk]

/-- Where the ASID table lies at the bottom of HBM, the page table lies at 2 MiB. -/
theorem leaf_walk : ∃ (s : State) (pte size : Nat), (s.cluster 0).tlbs = [] ∧ s.walk 0 (2 ^ 30) = .leaf pte size ∧ fld pte 1 1 = 1 ∧
    leafPlace pte size (2 ^ 30) ≠ none := by
  by_cases h : 16 ≤ Config.asidBase
  · refine ⟨{ State.reset with mem := { State.reset.mem with hbm := [(0, 1), (8, 0x83), (Config.asidBase, 1)] } }, 0x83, 2 ^ 30, rfl,
      walk_of_reads _ ?_ ?_ ?_, by decide⟩ <;> simp only [Memory.readN, Memory.read, blank] <;>
      simp (disch := omega) only [if_neg, if_pos] <;> rfl
  · have hn : Config.asidBase < 16 := by omega
    generalize ha : Config.asidBase = a at hn
    refine ⟨{ State.reset with mem := { State.reset.mem with
      hbm := [(a, 1), (a + 2, 0x20), (2 ^ 21, 1), (2 ^ 21 + 2, 0x20), (2 ^ 21 + 8, 0x83)] } }, 0x83, 2 ^ 30, rfl, ?_, by decide⟩
    simp only [State.walk, ha]
    interval_cases a <;> decide

/-- The ASID table's entry 0 is a refill leaf, and context 0 preloads its record's first line. -/
def refill0 : State :=
  { ctx0 (fun c => { c with run := { c.run with st := .waiting, stage := .preload 0, curRec := some (2 ^ 480 * 64) } }) with
    mem := { Mem.reset with hbm := [(Config.asidBase, 0x20)] } }
theorem refill_walk : refill0.walk 0 0 = .refill 4 Config.asidBase := by
  have e : Memory.readN [(Config.asidBase, (0x20 : Byte))] Config.asidBase 8 = 0x20 := by
    simp only [Memory.readN, Memory.read, blank]
    simp (disch := omega) only [if_neg]
    rfl
  rw [State.walk]
  simp only [Nat.mul_zero, Nat.add_zero, show refill0.mem.hbm = [(Config.asidBase, (0x20 : Byte))] from rfl, e]
  rfl
theorem refill_translate : refill0.translate 0 8 0 false 2 0 64 = .error (.refill 0 4 Config.asidBase) := by
  have h : findTlb (refill0.cluster 0).tlbs 8 0 (va56 0) = none := by decide
  simp only [State.translate, State.translate1, h]
  rw [show va56 0 = 0 from rfl, refill_walk]
  rfl
theorem refill_stopped : refill0.findStopped 0 8 0 false = some ⟨.preload, 8, 0, 0, false, 4, Config.asidBase⟩ := by
  have h : refill0.stopped 0 = [⟨.preload, 8, 0, 0, false, 4, Config.asidBase⟩] := by
    simp only [State.stopped, show clusterOf 0 = 0 from rfl, show (refill0.ctx 0).run.stage = .preload 0 from rfl,
      show (refill0.ctx 0).run.curRec = some (2 ^ 480 * 64) from rfl, show recPsrc (2 ^ 480 * 64) + 64 * 0 = 0 by decide,
      show (refill0.ctx 0).ctl.asid.toNat = 0 from rfl, refill_translate]
    rfl
  rw [State.findStopped, h]
  rfl

theorem witness_TranslationEvents :
    (∃ s : State, ∃ pte size, s.walk 0 (2 ^ 30 % 2 ^ 56) = .leaf pte size ∧
      fld pte 1 1 = 1 ∧ leafPlace pte size (2 ^ 30 % 2 ^ 56) ≠ none) ∧
    (findTlb (State.reset.cluster 0).tlbs 8 0 (0 % 2 ^ 56) = none ∧ State.reset.walk 0 (0 % 2 ^ 56) = .major 7 4) ∧
    (findTlb (refill0.cluster 0).tlbs 8 0 (0 % 2 ^ 56) = none ∧ refill0.walk 0 (0 % 2 ^ 56) = .refill 4 Config.asidBase) ∧
    ((∃ q, refill0.findStopped 0 8 0 false = some q) ∧ (refill0.core (coreOf 0)).holds = []) ∧
    State.reset.findStopped 0 8 0 false = none := by
  obtain ⟨s, pte, size, _, h1, h2, h3⟩ := leaf_walk
  exact ⟨⟨s, pte, size, h1, h2, h3⟩, by decide, ⟨rfl, refill_walk⟩, ⟨⟨_, refill_stopped⟩, rfl⟩, by decide⟩

/-- The lining of core 0 serves a fault of context 0; its store holds one bundle with a syllable in slot X (1) or B (0). -/
def fault0 : Hold := .fault 0 8 0 0 false 4 8
def lining0 (run : Bool) (slot : Nat) (i : Instr) : State :=
  let s := (State.reset.modCore 0 (fun k => { k with holds := [fault0] })).modAux 0 (fun a => { a with
    lining := { a.lining with run := run, ln := [(2, 7)] } })
  { s with mem := { s.mem with
    lining := Memory.putAll [] (List.zip (List.range 8) (toBytes (2 ^ (31 - slot)) 4 ++ toBytes (encode i).w 4)) } }
def lnAdd : State := lining0 true 1 (.add ⟨0, 5, 2, .reg 2⟩)
def lnStd : State := lining0 true 1 (.std ⟨0, 2, 0, .imm 64⟩)
def lnEret : State := lining0 true 0 .eret

theorem witness_TranslationLiningEvents :
    ((lining0 false 1 (.idleXy)).core 0).firstFault = some fault0 ∧ ((lining0 false 1 .idleXy).auxOf 0).lining.run = false ∧
    ((lining0 false 1 .idleXy).auxOf 0).lining.times < 4 ∧
    ((lnAdd.core 0).firstFault = some fault0 ∧ (lnAdd.auxOf 0).lining.run = true ∧
      lnAdd.lnBundle 0 0 = some ⟨[.reg 5 14], 8, false, 0⟩) ∧
    ((lnStd.core 0).firstFault = some fault0 ∧ (lnStd.auxOf 0).lining.run = true ∧
      lnStd.lnBundle 0 0 = some ⟨[.store 64 8 7], 8, false, 1⟩ ∧ lnStd.mem.hbm.wf = true) ∧
    ((lnEret.core 0).firstFault = some fault0 ∧ (lnEret.auxOf 0).lining.run = true ∧ lnEret.lnBundle 0 0 = some ⟨[.eret], 8, true, 0⟩ ∧
      (lnEret.auxOf 0).lining.writes = [] ∧ (lnEret.core 0).holds = [fault0]) := by decide

/-- Context 0 preloads a record through a TLB entry that names a page beyond HBM. -/
def badPre : State :=
  (ctx0 (fun c => { c with run := { c.run with st := .waiting, stage := .preload 0, curRec := some (2 ^ 480 * 64) } })).modCl 0
    (fun c => { c with tlbs := [⟨8, 0, 0, 65536, 3 + (2 ^ 36 - 1) * 2 ^ 16⟩] })
/-- A running slot of context 0 whose nest copies `n` bytes between addresses of the scratchpad space. -/
def nest0 (src dst n : Nat) : Nest := ⟨BitVec.ofNat 64 src, BitVec.ofNat 64 dst, true, true, n, [2, 1, 1, 1, 1, 3], [16, 0, 0, 0, 0, 0],
  [32, 0, 0, 0, 0, 0]⟩
def slot0 (nest : Nest) (idx : List Nat) (cs : List Copy) : SeqSlot :=
  { SeqSlot.fresh with owner := 0, act := some (nest, 9), idx := idx, st := 1, copies := cs }
def slotState (nest : Nest) (idx : List Nat) (cs : List Copy) : State := cl0 (fun c => { c with slots := [(5, slot0 nest idx cs)] })
/-- Context 0's product misses the next slice of a stream whose slot has stopped on a fault. -/
def strmFault (trap : Bool) : State :=
  ((inFlight (mmProd 0 0 2 .mstrm) 5 []).modCtx 0 (fun c => { c with
    eng := { c.eng with bound := some 5 }, run := { c.run with trap := trap, st := .ready } })).modCl 0
    (fun c => { c with slots := [(5, { SeqSlot.fresh with owner := 0, fault := true, ferr := [⟨7, 64, 2, false⟩] })] })

theorem witness_MajorFaultEvents :
    ((badPre.ctx 0).run.st = .waiting ∧ (badPre.ctx 0).run.stage = .preload 0 ∧ (badPre.ctx 0).run.curRec = some (2 ^ 480 * 64) ∧
      (badPre.ctx 0).run.trap = false ∧ (badPre.ctx 0).async = [] ∧ (badPre.ctx 0).run.st ≠ .inactive ∧
      badPre.translate (clusterOf 0) 8 (badPre.ctx 0).ctl.asid.toNat false 2 (fld (2 ^ 480 * 64) 384 64 + 64 * 0) 64 =
        .error (.major 0 8 15)) ∧
    (let s := (slotState (nest0 0xC000000 0 16) [0, 0, 0, 0, 0, 0] []).modCtx 0 (fun c => { c with run := { c.run with st := .ready } })
     Emits s 0 5 (nest0 0xC000000 0 16) 9 ∧ (s.ctx (s.slot 0 5).owner).run.st ≠ .inactive ∧ s.slotPieces 0 5 (s.slot 0 5) (nest0 0xC000000 0 16) 9 = .error (.major 0xC000000 8 15)) ∧
    (let p := mmProd 0 0 2 .mstrm
     ((strmFault true).core 0).prods = [p] ∧ p.cut = none ∧ p.spec.kind.streams = true ∧
       p.issue + nextSlice p + 1 ≤ (((strmFault true).core 0).arr : Int) ∧ nextSlice p < p.spec.s ∧
       (strmFault true).faultSlots p.hw = (5, (strmFault true).slot (clusterOf p.hw) 5) :: [] ∧
       ((strmFault true).slot (clusterOf p.hw) 5).ferr = ⟨7, 64, 2, false⟩ :: [] ∧ ((strmFault true).ctx p.hw).run.st ≠ .inactive ∧
       ((strmFault true).ctx p.hw).run.trap = true ∧ ((strmFault true).ctx p.hw).async = [] ∧
       ((strmFault false).core 0).prods = [p] ∧ ((strmFault false).ctx p.hw).run.trap = false ∧
       ((strmFault false).ctx p.hw).dbg.trace = 0 ∧ 7 < 32) :=
  ⟨by decide, ⟨⟨by decide, by decide, by decide, by decide, by decide, by decide, by decide, nofun⟩, by decide⟩, by decide⟩

/-- A slot of context 0 waits for its walk. -/
theorem witness_TranslationEvents_walker :
    (cl0 (fun c => { c with slots := [(5, { slot0 (nest0 0 0 16) [0, 0, 0, 0, 0, 0] [] with walk := true })] })).walker 0 (engCopy 5) 0 =
      some 0 := by decide

theorem noWatch_slots (nest : Nest) (idx : List Nat) (cs : List Copy) : NoWatch (slotState nest idx cs) := by
  intro x hx y hy
  obtain rfl := List.mem_singleton.mp hx
  cases hy

/-- A swap of context 0 stands first in its work, and its request first in the address queue. -/
def sfopState (done : Bool) : State := ctx0 (fun c => { c with eng := { c.eng with
  work := [{ cmd0 with op := .sfop 0xBFFFFF8 5 0 true false .swap, performed := done, res := if done then some 4 else none }]
  addrQ := [(9, false), (10, true)] } })
def copy0 (data : SMap Byte) : Copy := ⟨3, 9, [nearPiece 0 0xBFFFFC0 64], [nearPiece 0 0xBFFFF80 64], false, 64, data, 0, [], [], []⟩
theorem nearCopy_copy0 (data : SMap Byte) : NearCopy 0 0xBFFFFC0 0xBFFFF80 (copy0 data) :=
  ⟨rfl, rfl, rfl, ⟨rfl, rfl, show 64 % 16 = 0 from rfl⟩, show 0xBFFFFC0 + 64 ≤ 0xC000000 by decide, show 0xBFFFF80 + 64 ≤ 0xC000000 by decide⟩
/-- A CPLVL of context 0 stands first in its work, or in its gusset. -/
def lvlCmd : Cmd := { cmd0 with op := .cplvl 5 5 65535 16 32 }
def lvlState (work : Bool) : State := ctx0 (fun c => { c with
  eng := { c.eng with work := if work then [lvlCmd] else [], cG := if work then [] else [lvlCmd] } })

theorem witness_CopyEngineEvents :
    (∃ c, ((sfopState false).ctx 0).eng.work = c :: [] ∧ c.op = .sfop 0xBFFFFF8 5 0 true false .swap ∧
      ((sfopState false).ctx 0).eng.addrQ = (c.id, false) :: [(10, true)] ∧ c.held = false ∧ c.performed = false ∧ c.started = false ∧ c.pos = 0 ∧
      ((sfopState false).ctx 0).eng.dataQ.length < 16 ∧ (sfopState false).mem.spad.wf = true ∧ NoWatch (sfopState false) ∧
      (0xBFFFFF8#64).toNat + 8 ≤ 0xC000000) ∧
    (((slotState (nest0 0 0 64) [1, 0, 0, 0, 0, 0] [copy0 []]).slot 0 5).copies = [copy0 []] ∧ NearCopy 0 0xBFFFFC0 0xBFFFF80 (copy0 []) ∧
      63 / 16 = 3 ∧ 63 < (copy0 []).len ∧ SMap.get? (copy0 []).data (16 * 3) = none) ∧
    (let c := copy0 (List.zip (List.range 16) (List.replicate 16 1))
     ((slotState (nest0 0 0 64) [1, 0, 0, 0, 0, 0] [c]).slot 0 5).copies = [c] ∧ NearCopy 0 0xBFFFFC0 0xBFFFF80 c ∧
       NoWatch (slotState (nest0 0 0 64) [1, 0, 0, 0, 0, 0] [c]) ∧ c.gone.contains (16 * 0) = false ∧ 15 / 16 = 0 ∧ 15 < c.len ∧
       (∀ j, j < 16 → SMap.get? c.data (16 * 0 + j) = some 1) ∧ c.written + 16 ≠ c.len) ∧
    (((lvlState true).ctx 0).eng.work = lvlCmd :: [] ∧ lvlCmd.op = .cplvl 5 5 65535 16 32 ∧ lvlCmd.held = false ∧
      lvlCmd.started = false ∧ ((lvlState true).ctx 0).tokensZero lvlCmd.cons = true) ∧
    (let n := nest0 0xBFFFFE0 0xBFFFFD0 16
     let s := slotState n [1, 0, 0, 0, 0, 2] []
     Emits s 0 5 n 9 ∧ n.sspad = true ∧ n.dspad = true ∧ nestAddr n.src n.ss (s.slot 0 5).idx = (0xBFFFFF0 : Nat) ∧
       nestAddr n.dst n.ds (s.slot 0 5).idx = (0xBFFFFF0 : Nat) ∧ 0xBFFFFF0 + n.len ≤ 0xC000000 ∧ 0 < n.len ∧ n.cnt.length = 6 ∧
       (s.slot 0 5).idx.length = 6) :=
  ⟨⟨_, rfl, by decide, by decide, by decide, by decide, by decide, by decide, by decide, by decide, nofun, by decide⟩,
    ⟨by decide, nearCopy_copy0 _, by decide, by decide⟩,
    ⟨by decide, nearCopy_copy0 _, noWatch_slots _ _ _, by decide, by decide, by decide, by decide, by decide⟩, by decide,
    ⟨⟨by decide, by decide, by decide, by decide, by decide, by decide, by decide, nofun⟩, by decide⟩⟩

/-- An LKTIME of context 0 that has started, or one in its gusset whose consume token is not zero. -/
def timeState (started : Bool) (t : Nat) : State := ctx0 (fun c => { c with
  fmt := { c.fmt with tok := [(1, 1)] }
  eng := { c.eng with
    work := if started then [{ cmd0 with op := .lktime t, started := true }] else []
    cG := if started then [] else [{ cmd0 with cons := 2, op := .lktime t }] } })

theorem witness_CommandQueueEvents :
    (((gusset 1).ctx 0).run.stage = .none ∧ ((gusset 1).ctx 0).eng.qG = cmd0 :: [] ∧
      (∀ x ∈ ((ctx0 (fun c => { c with eng := { c.eng with qG := [cmd0] } })).ctx 0).eng.cG, x.id ≠ cmd0.id) ∧
      ((ctx0 (fun c => { c with eng := { c.eng with qG := [cmd0] } })).ctx 0).eng.qG = cmd0 :: []) ∧
    (∃ c, ((timeState false 5).ctx 0).eng.cG = c :: [] ∧ c.op = .lktime 5 ∧ ((timeState false 5).ctx 0).eng.work = [] ∧
      ((timeState false 5).ctx 0).tokensZero c.cons = false) ∧
    (((lvlState false).ctx 0).eng.cG = lvlCmd :: [] ∧ lvlCmd.op = .cplvl 5 5 65535 16 32 ∧ ((lvlState false).ctx 0).eng.work = [] ∧
      ((lvlState false).ctx 0).tokensZero lvlCmd.cons = true) ∧
    (∃ c, ((timeState true 0).ctx 0).eng.work = c :: [] ∧ c.op = .lktime 0 ∧ c.started = true ∧
      0 ≤ (timeState true 0).mod.time.link * 25 / (16 * 6486480) % 2 ^ 64) ∧
    (timeState true 1).mod.time.link * 25 / (16 * 6486480) % 2 ^ 64 < 1 ∧
    (let c : Cmd := { cmd0 with op := .sfop 0xBFFFFF8 5 0 true false .swap, performed := true, res := some 4 }
     let s := (sfopState true).modCtx 0 (fun c => { c with run := { c.run with st := .ready } })
     (s.ctx 0).eng.addrQ = (c.id, false) :: [(10, true)] ∧ (s.ctx 0).eng.work = c :: [] ∧ c.performed = true ∧ c.res = some 4 ∧ c.pos = 0 ∧
       (s.ctx 0).run.st ≠ .inactive ∧ (s.ctx 0).ckpt = none ∧ (s.ctx 0).eng.dataQ.length < 16) ∧
    (∀ a n, CmdOp.sfop 0xBFFFFF8 5 0 true false .swap ≠ .nlreq a n) ∧
    (let c : Cmd := { cmd0 with op := .sfop 0xBFFFFF8 5 0 true false .swap, started := true, res := some 4 }
     let s := ctx0 (fun x => { x with run := { x.run with st := .ready }, eng := { x.eng with work := [c], addrQ := [(9, false)] } })
     (s.ctx 0).eng.addrQ = (c.id, false) :: [] ∧ (s.ctx 0).eng.work = c :: [] ∧ c.performed = false ∧ c.res = some 4 ∧ c.pos = 0 ∧
       (s.ctx 0).run.st ≠ .inactive ∧ (s.ctx 0).ckpt = none ∧ (s.ctx 0).eng.dataQ.length < 16) ∧
    (let s := (sfopState true).modCtx 0 (fun c => { c with
       run := { c.run with st := .ready }, eng := { c.eng with dataQ := List.replicate 16 ⟨false, 0, 0, true, false, false⟩ } })
     (s.ctx 0).run.st ≠ .inactive ∧ 16 ≤ (s.ctx 0).eng.dataQ.length) :=
  ⟨by decide, ⟨_, rfl, by decide, by decide, by decide⟩, by decide, ⟨_, rfl, by decide, by decide, by decide⟩, by decide,
    by decide, nofun, by decide, by decide⟩

/-- Cluster 0 holds a record for a queue that has room, in watch entry 511. -/
def rec0 : TRec := ⟨4, 2 ^ 128 * 255⟩
def watch0 (held : Option TRec) : Watch := ⟨1, 7, 0, 0, 6, 1, 2, 2 ^ 128 * 255, 0, held, 3, none⟩
def watchState (win : Nat) : State := cl0 (fun c => { c with
  tq := [(255, ⟨0, 7, 4, 0, 0, [⟨1, 0⟩], 0, [], []⟩)], watch := [(511, watch0 (some rec0))], win := win })
/-- Cluster 0 with one stream entry at the head of the evictions. -/
def sctState (st timeout moved : Nat) : State := cl0 (fun c => { c with
  sct := [(4095, ⟨9, st, 0, 64, 128, 0xBFFFF80, timeout, 0, false, moved, 0, [], []⟩)], evq := [4095] })

theorem witness_WatchStreamEvents :
    (((watchState 1).cluster 0).waits = [] ∧ (watchState 1).front.baseWaits = [] ∧
      SMap.get? ((watchState 1).cluster 0).watch 511 = some (watch0 (some rec0)) ∧ (watch0 (some rec0)).held = some rec0 ∧
      (∀ x ∈ ((watchState 1).cluster 0).watch, x.2.held = some rec0) ∧ fld (watch0 (some rec0)).tmpl 128 16 < 0x100 ∧
      SMap.get? ((watchState 1).cluster 0).tq (fld (watch0 (some rec0)).tmpl 128 16) = some ⟨0, 7, 4, 0, 0, [⟨1, 0⟩], 0, [], []⟩ ∧ 1 < 4) ∧
    ((watchState 1).cluster 0).win ≠ (watchState 1).mod.cycles / 1024 ∧
    ((watchState 0).cluster 0).win = (watchState 0).mod.cycles / 1024 ∧
    (((sctState 1 5 0).sctOf 0 4095).st = 1 ∧ ((sctState 1 5 0).sctOf 0 4095).timeout ≠ 0 ∧ ((sctState 1 5 0).sctOf 0 4095).remain = 0) ∧
    ((sctState 1 0 0).sctOf 0 4095).timeout = 0 ∧
    (Evicting (sctState 2 5 2) 0 4095 [] ∧ ((sctState 2 5 2).sctOf 0 4095).len ≤ 64 * ((sctState 2 5 2).sctOf 0 4095).moved ∧
      EventRoom (sctState 2 5 2)) ∧
    (Evicting (sctState 2 5 1) 0 4095 [] ∧ 64 * ((sctState 2 5 1).sctOf 0 4095).moved < ((sctState 2 5 1).sctOf 0 4095).len ∧
      (∃ f, (sctState 2 5 1).homeLine 0 ((sctState 2 5 1).sctOf 0 4095) ((sctState 2 5 1).sctOf 0 4095).moved true = .error f) ∧
      EventRoom (sctState 2 5 1)) := by
  refine ⟨by decide, by decide, by decide, by decide, by decide, ⟨⟨by decide, by decide, by decide⟩, by decide, ?_⟩,
    ⟨by decide, by decide, by decide⟩, by decide, ⟨_, rfl⟩, ?_⟩ <;> (unfold EventRoom; decide)

/-- Link 15 has one receive window, of an LKRECV of context 0 of 300 bytes, at tick `start`, its ticks up to `pos` done. -/
def linkCmd (cons : Nat) : Cmd := { cmd0 with op := .lkrecv 15 0xBFFFE00 300 2, cons := cons, started := true }
def window0 (start : Nat) (begun : Bool) : Window := ⟨start, 3, 0, 9, begun, 0, false, [], false, []⟩
def linkState (start pos : Nat) (begun : Bool) (cons : Nat) : State :=
  let s := (ctx0 (fun c => { c with fmt := { c.fmt with tok := [(1, 1)] }, eng := { c.eng with work := [linkCmd cons] } })).modLink 15
    (fun l => { l with up := true, pos := pos, recv := [window0 start begun] })
  { s with mod := { s.mod with time := { s.mod.time with link := 100 * 6486480 } } }
theorem noWatch_link (start pos : Nat) (begun : Bool) (cons : Nat) : NoWatch (linkState start pos begun cons) := nofun

theorem witness_LinkEvents :
    (let s := linkState 2 2 false 0
     (s.link 15).recv = [window0 2 false] ∧ (s.link 15).send = [] ∧ (window0 2 false).out = false ∧
       s.cmdOfId 0 9 = some (linkCmd 0) ∧ (∀ k, k < 16 → (s.link k).send = []) ∧ (window0 2 false).begun = false ∧
       (window0 2 false).start = (s.link 15).pos ∧ (s.link 15).pos ≤ s.mod.time.link * 25 / (16 * 6486480) % 2 ^ 64 ∧ (s.ctx 0).tokensZero (linkCmd 0).cons = true) ∧
    (let s := linkState 2 3 false 2
     s.cmdOfId 0 9 = some (linkCmd 2) ∧ (window0 2 false).begun = false ∧ (window0 2 false).start < (s.link 15).pos ∧ (s.link 15).pos ≤ s.mod.time.link * 25 / (16 * 6486480) % 2 ^ 64 ∧
       (s.ctx 0).run.launch = none ∧ (s.link 15).miss < 0xFFFFFFFF) ∧
    (let s := linkState 2 3 true 0
     (window0 2 true).begun = true ∧ (window0 2 true).miss = false ∧ (linkCmd 0).op = .lkrecv 15 0xBFFFE00 300 2 ∧
       (s.link 15).up = true ∧ (window0 2 true).len = (300 + 127) / 128 ∧ 0xBFFFE00 + 300 ≤ 0xC000000 ∧
       (window0 2 true).start ≤ (s.link 15).pos ∧ (s.link 15).pos + 1 < (window0 2 true).start + (window0 2 true).len ∧
       (s.link 15).pos ≤ s.mod.time.link * 25 / (16 * 6486480) % 2 ^ 64 ∧ s.mem.spad.wf = true ∧ (s.ctx 0).run.launch = none ∧
       (s.link 15).miss < 0xFFFFFFFF) ∧
    (let s := withTime (linkState 2 3 false 0) { State.reset.mod.time with link := 0 }
     s.mod.time.link * 25 / (16 * 6486480) % 2 ^ 64 < (s.link 15).pos) ∧ NoWatch (linkState 2 3 true 0) :=
  ⟨by decide, by decide, by decide, by decide, noWatch_link _ _ _ _⟩

/-- The bytes of words from address `a` of HBM, of 8 bytes each. -/
def words (m : Memory) (a : Nat) (l : List Nat) : Memory := (List.zip (List.range l.length) l).foldl (fun m x => m.writeN (a + 8 * x.1) x.2 8) m
/-- HBM holds a task record at 0x40, a placement map at 0x100 with one context, its segment table at 0x200. -/
def hbm0 : Memory :=
  words (words (words [] 0x40 [0, 0xFFFFFFFF, 0, 0, 0, 0, 0, 0]) 0x100
    [1, 0, 0, 0, 0, 0, 0, 0, 8 * 2 ^ 32 + 63 * 2 ^ 24 + 131 * 2 ^ 16 + 383, 0, 0, 0, 0, 0, 0, 0])
    0x200 [1, 2 ^ 24 + 127 * 2 ^ 16 + 383, 64]
/-- Queue 4095 with one packet of the given words next, page 0 readable and writable to the command processors. -/
def pkt (ws : List Nat) : Pkt := ⟨5, ws.foldr (fun w n => w + 2 ^ 64 * n) 0, 0, 0, [], false, none, false, []⟩
def procState (f : Queue → Queue) : State :=
  let s := ((State.reset.modCl 8 (fun c => { c with tlbs := [tlb0 0] })).modQueue 4095 (fun q => f { q with en := true }))
  { s with mem := { s.mem with hbm := hbm0 } }
def next (ws : List Nat) (rest : List Pkt) : State := procState (fun q => { q with ahead := pkt ws :: rest })
def bodyPkt : Pkt := { pkt [0] with id := 6, par := [5] }
theorem nextUp (ws : List Nat) (rest : List Pkt) (type : Nat) (ht : fld (pkt ws).w 0 8 = type) (he : (pkt ws).err = none) :
    NextUp (next ws rest) 4095 (pkt ws) rest type := ⟨rfl, rfl, ⟨rfl, rfl⟩, rfl, rfl, ht, he⟩

theorem tests_iff (p : Pkt) (v : Nat) (h : fld p.w 16 2 = 0) :
    Tests p v ↔ BitVec.ofNat 64 v &&& BitVec.ofNat 64 (fld p.w 192 64) = BitVec.ofNat 64 (fld p.w 128 64) := by
  rw [Tests, h]
  exact Iff.rfl

theorem witness_PacketResult :
    (NextUp (next [0] []) 4095 (pkt [0]) [] 0 ∧ NextUp (next [0x200] []) 4095 (pkt [0x200]) [] 0 ∧ fld (pkt [0x200]).w 9 1 = 1 ∧
      EventRoom (next [0x200] [])) ∧
    (NextUp (next [0xFF000005, 0x40, 0, 2 ^ 64 - 1] []) 4095 (pkt [0xFF000005, 0x40, 0, 2 ^ 64 - 1]) [] 5 ∧
      (next [0xFF000005, 0x40, 0, 2 ^ 64 - 1] []).procRead 0 (pw (pkt [0xFF000005, 0x40, 0, 2 ^ 64 - 1]) 1) 8 = some 0 ∧
      Tests (pkt [0xFF000005, 0x40, 0, 2 ^ 64 - 1]) 0 ∧ ¬ Tests (pkt [0xFF000005, 0x40, 1, 2 ^ 64 - 1]) 0 ∧
      NextUp (next [0xFF000005, 0x40, 1, 2 ^ 64 - 1] []) 4095 (pkt [0xFF000005, 0x40, 1, 2 ^ 64 - 1]) [] 5) ∧
    (NextUp (next [0x10006, 2] [bodyPkt]) 4095 (pkt [0x10006, 2]) [bodyPkt] 6 ∧ (∃ x ∈ [bodyPkt], (pkt [0x10006, 2]).id ∈ x.par)) ∧
    (NextUp (next [0x20006, 0] [bodyPkt]) 4095 (pkt [0x20006, 0]) [bodyPkt] 6 ∧ pw (pkt [0x20006, 0]) 1 = 0 ∧
      pw (pkt [0x10006, 2]) 1 ≠ 0) ∧
    NextUp (next [7, 0x40, 1] [bodyPkt]) 4095 (pkt [7, 0x40, 1]) [bodyPkt] 7 ∧ NextUp (next [8] []) 4095 (pkt [8]) [] 8 ∧
    NextUp (next [9, 5] []) 4095 (pkt [9, 5]) [] 9 ∧
    (NextUp (next [11, 5] []) 4095 (pkt [11, 5]) [] 11 ∧ fld (pkt [11, 5]).w 9 1 = 0 ∧ EventRoom (next [11, 5] [])) ∧
    (let p := pkt [2, 0x41, 1]
     ((next [2, 0x41, 1] []).queue 4095).en = true ∧ ((next [2, 0x41, 1] []).queue 4095).ahead = p :: [] ∧ fld p.w 0 8 = 2 ∧
       p.bad = false ∧ p.err = some 3) ∧
    (let p := { pkt [0] with w := 2 ^ 511 }
     fld p.w 0 8 = 0 ∧ p.bad = false ∧ p.err = some 2) := by
  refine ⟨⟨nextUp _ _ _ (by decide) (by decide), nextUp _ _ _ (by decide) (by decide), by decide, by unfold EventRoom; decide⟩,
    ⟨nextUp _ _ _ (by decide) (by decide), by decide, by rw [tests_iff _ _ (by decide)]; decide, by rw [tests_iff _ _ (by decide)]; decide, nextUp _ _ _ (by decide) (by decide)⟩,
    ⟨nextUp _ _ _ (by decide) (by decide), by decide⟩, ⟨nextUp _ _ _ (by decide) (by decide), by decide⟩,
    nextUp _ _ _ (by decide) (by decide), nextUp _ _ _ (by decide) (by decide),
    nextUp _ _ _ (by decide) (by decide), ⟨nextUp _ _ _ (by decide) (by decide), by decide, by unfold EventRoom; decide⟩, by decide, by decide⟩

/-- Queue 4095 with one packet begun. -/
def begun (ws : List Nat) (prog : Nat) : State := procState (fun q => { q with begun := [⟨pkt ws, prog⟩] })
def launchWords (m : Nat) : List Nat := [1, m, 0x200, 0]
def waitWords (y : Nat) : List Nat := [4, 0x40, y, 2 ^ 64 - 1, 1]

theorem witness_SignalWaitPacketResult :
    (NextUp (next [0x300003, 0xFFF8, 1] []) 4095 (pkt [0x300003, 0xFFF8, 1]) [] 3 ∧ fld (pkt [0x300003, 0xFFF8, 1]).w 9 1 = 0 ∧
      fld (pkt [0x300003, 0xFFF8, 1]).w 21 1 = 1 ∧ (next [0x300003, 0xFFF8, 1] []).mem.host.wf = true) ∧
    (NextUp (next [0x100003, 0xFFF8, 1] []) 4095 (pkt [0x100003, 0xFFF8, 1]) [] 3 ∧ fld (pkt [0x100003, 0xFFF8, 1]).w 21 1 = 0 ∧
      (next [0x100003, 0xFFF8, 1] []).mem.hbm.wf = true ∧
      (next [0x100003, 0xFFF8, 1] []).procPieces 0 true 0xFFF8 8 = some [⟨⟨0, 0xFFF8, none⟩, 8⟩]) ∧
    (State.reset.procPieces 0 true 0xFFF8 8 = none) ∧
    (NextUp (next (waitWords 0) []) 4095 (pkt (waitWords 0)) [] 4 ∧ (next (waitWords 0) []).procRead 0 0x40 8 = some 0) ∧
    (Alone (begun (waitWords 0) 0) 4095 ⟨pkt (waitWords 0), 0⟩ ∧ fld (pkt (waitWords 0)).w 0 8 = 4 ∧ Tests (pkt (waitWords 0)) 0 ∧
      (begun (waitWords 0) 0).procRead 0 0x40 8 = some 0) ∧
    (Alone (begun (waitWords 1) 1) 4095 ⟨pkt (waitWords 1), 1⟩ ∧ fld (pkt (waitWords 1)).w 9 1 = 0 ∧ ¬ Tests (pkt (waitWords 1)) 0 ∧
      1 ≤ (begun (waitWords 1) 1).mod.time.now / 6486480 % 2 ^ 64 + 1) ∧
    (begun (waitWords 1) 2).mod.time.now / 6486480 % 2 ^ 64 + 1 < 2 ∧
    (let s := { begun [4, 0x20000, 0, 0] 0 with mem := Mem.reset }
     Alone s 4095 ⟨pkt [4, 0x20000, 0, 0], 0⟩ ∧ fld (pkt [4, 0x20000, 0, 0]).w 0 8 = 4 ∧
       s.procRead 0 (pw (pkt [4, 0x20000, 0, 0]) 1) 8 = none) ∧
    (let s := procState (fun q => { q with begun := [⟨pkt [9, 0], 0⟩], ahead := [pkt (launchWords 0x100)] })
     Alone s 4095 ⟨pkt [9, 0], 0⟩ ∧ fld (pkt [9, 0]).w 0 8 = 9 ∧ pw (pkt [9, 0]) 1 ≤ 0 ∧
       (s.queue 4095).ahead = pkt (launchWords 0x100) :: []) ∧
    (Alone (begun [9, 0] 0) 4095 ⟨pkt [9, 0], 0⟩ ∧ fld (pkt [9, 0]).w 0 8 = 9 ∧ pw (pkt [9, 0]) 1 ≤ 0) ∧
    (Alone (begun [9, 1] 0) 4095 ⟨pkt [9, 1], 0⟩ ∧ fld (pkt [9, 1]).w 0 8 = 9 ∧
      (begun [9, 1] 0).mod.time.now / 6486480 % 2 ^ 64 < pw (pkt [9, 1]) 1) := by
  refine ⟨⟨nextUp _ _ _ (by decide) (by decide), by decide⟩, ⟨nextUp _ _ _ (by decide) (by decide), by decide⟩, by decide,
    ⟨nextUp _ _ _ (by decide) (by decide), by decide⟩, ⟨⟨rfl, rfl, rfl⟩, by decide, by rw [tests_iff _ _ (by decide)]; decide, by decide⟩,
    ⟨⟨rfl, rfl, rfl⟩, by decide, by rw [tests_iff _ _ (by decide)]; decide, by decide⟩, by decide, ⟨⟨rfl, rfl, rfl⟩, by decide⟩, ⟨⟨rfl, rfl, rfl⟩, by decide⟩, ⟨⟨rfl, rfl, rfl⟩, by decide⟩,
    ⟨⟨rfl, rfl, rfl⟩, by decide⟩⟩

/-- The map that HBM holds: context 3 of core 383, system, team 63, at program address 8. -/
def map0 : PlaceMap := ⟨[⟨383, 131, 63, 8, 0, 0, 0, 0, 0, 0, 0⟩], [], 0, 0, [⟨383, 127, 1, 0, 64⟩], 0, false⟩
def launch0 : Launch := ⟨5, 4095, 0, [1535], [1535], [], 0, 0, [7], [], [], [], [383], []⟩
def overState : State :=
  let s := begun (launchWords 0x100) 0
  { s with front := { s.front with launches := [launch0] } }

theorem witness_LaunchResult :
    (let s := next (launchWords 0x100) []
     NextUp s 4095 (pkt (launchWords 0x100)) [] 1 ∧ s.readMap 0 0x100 0x200 0 = .ok map0 ∧ map0.ok = true ∧
       s.mapFree map0 5 0 = true ∧ (∀ g ∈ map0.segs, g.src % 2 = 0) ∧ (s.queue 4095).prep = none ∧ s.mod.trust.fwOk = true ∧
       (∀ h ∈ map0.hws, (s.ctx h).run.launch = none)) ∧
    (let s := (next (launchWords 0x100) []).modCtx 1535 (fun c => { c with run := { c.run with st := .ready } })
     (s.queue 4095) = ((next (launchWords 0x100) []).queue 4095) ∧ s.readMap 0 0x100 0x200 0 = .ok map0 ∧
       s.mapFree map0 5 0 = false) ∧
    (overState.front.launches = [launch0] ∧ overState.launchOver launch0 = true ∧ (pkt (launchWords 0x100)).id = launch0.id ∧
      Alone overState launch0.queue ⟨pkt (launchWords 0x100), 0⟩) := by
  refine ⟨⟨nextUp _ _ _ (by decide) (by decide), by decide, by decide, by decide, by decide⟩, by decide, by decide, by decide, by decide,
    ⟨rfl, rfl, rfl⟩⟩

def taskWords : List Nat := [0xFF0002, 0x40, 1]
def taskLaunch : Launch := { launch0 with tqs := [(7, 0xFF)] }
def taskNext : State :=
  let s := (next taskWords []).modCl 7 (fun c => { c with tq := [(0xFF, ⟨1535, 5, 4, 0, 0, [⟨1, 0⟩], 0, [], []⟩)] })
  { s with front := { s.front with launches := [taskLaunch] } }
def streamWords (op sid : Nat) : List Nat := [10 + op * 2 ^ 16, sid, 0x40, 0xBFFFFC0, 64, 5]
def streamNext (op st : Nat) : State := (next (streamWords op 9) []).modCl 0 (fun c => { c with
  sct := [(0, ⟨9, st, 0, 64, 64, 0, 5, 0, false, 0, 0, [], []⟩)] })
theorem nextUp_stream (op st : Nat) (ht : fld (pkt (streamWords op 9)).w 0 8 = 10) (he : (pkt (streamWords op 9)).err = none) :
    NextUp (streamNext op st) 4095 (pkt (streamWords op 9)) [] 10 := ⟨rfl, rfl, ⟨rfl, rfl⟩, rfl, rfl, ht, he⟩

theorem witness_TaskStreamPacketResult :
    (NextUp taskNext 4095 (pkt taskWords) [] 2 ∧ pw (pkt taskWords) 2 = 1 ∧ fld (pkt taskWords).w 9 1 = 0 ∧
      fld (pkt taskWords).w 16 9 = 0xFF ∧ taskNext.taskCl 4095 0xFF = some 7 ∧
      taskNext.procRead 0 0x40 64 = some (2 ^ 64 * 0xFFFFFFFF) ∧
      (let d := 2 ^ 64 * 0xFFFFFFFF
       ¬ SpawnKind d ∧ ¬ RecordScope d ∧ ¬ SpawnBits d 0xFF ∧ ¬ RecordMisaligned d ∧ ¬ RecordOutside d) ∧
      0xFF < 0x100 ∧ (taskNext.cluster 7).waits = [] ∧
      (taskNext.cluster 7).watch = [] ∧
      SMap.get? (taskNext.cluster 7).tq 0xFF = some ⟨1535, 5, 4, 0, 0, [⟨1, 0⟩], 0, [], []⟩ ∧ fld (2 ^ 64 * 0xFFFFFFFF) 64 32 = 0xFFFFFFFF) ∧
    (NextUp (next (streamWords 0 9) []) 4095 (pkt (streamWords 0 9)) [] 10 ∧ fld (pkt (streamWords 0 9)).w 16 2 = 0 ∧
      fld (pkt (streamWords 0 9)).w 18 1 = 0 ∧ Pinnable (next (streamWords 0 9) []) (pkt (streamWords 0 9)) 0) ∧
    (NextUp (streamNext 1 2) 4095 (pkt (streamWords 1 9)) [] 10 ∧ fld (pkt (streamWords 1 9)).w 16 2 = 1 ∧
      Streams (streamNext 1 2) (pkt (streamWords 1 9)) 0 ⟨9, 2, 0, 64, 64, 0, 5, 0, false, 0, 0, [], []⟩) ∧
    (NextUp (streamNext 2 4) 4095 (pkt (streamWords 2 9)) [] 10 ∧ fld (pkt (streamWords 2 9)).w 16 2 = 2 ∧
      Streams (streamNext 2 4) (pkt (streamWords 2 9)) 0 ⟨9, 4, 0, 64, 64, 0, 5, 0, false, 0, 0, [], []⟩) ∧
    (NextUp (next (streamWords 2 9) []) 4095 (pkt (streamWords 2 9)) [] 10 ∧
      NextUp (next (streamWords 1 9) []) 4095 (pkt (streamWords 1 9)) [] 10 ∧
      ((next (streamWords 2 9) []).cluster (fld (pkt (streamWords 2 9)).w 24 3)).sctFind (pw (pkt (streamWords 2 9)) 1) = none) := by
  refine ⟨⟨⟨rfl, rfl, ⟨rfl, rfl⟩, rfl, rfl, by decide, by decide⟩, by decide, by decide, by decide, by decide, by decide, ?_, by decide,
      by decide, by decide, by decide, by decide⟩,
    ⟨nextUp _ _ _ (by decide) (by decide), by decide, by decide, ⟨by decide, ⟨by decide, by decide, nofun⟩, by decide, by decide, by decide⟩⟩,
    ⟨nextUp_stream _ _ (by decide) (by decide), by decide, by unfold Streams; decide⟩,
    ⟨nextUp_stream _ _ (by decide) (by decide), by decide, by unfold Streams; decide⟩,
    ⟨nextUp _ _ _ (by decide) (by decide), nextUp _ _ _ (by decide) (by decide), by decide⟩⟩
  unfold SpawnKind RecordScope SpawnBits RecordMisaligned RecordOutside; decide

/-- Queue 4095 with QTAIL and QHEAD and a ring of 16 packets. -/
def tailState (head tail : Nat) : State := State.reset.modQueue 4095 (fun q => { q with qbase := 8, head := head, tail := tail })
theorem witness_TailWriteRule :
    let u := (tailState 3 5).queue 4095
    let m := u.head + 2 ^ fld u.qbase.toNat 1 5
    (tailState 3 5).mod.trust.fwOk = true ∧ 5 ≤ u.tail ∧ (u.tail < 6 ∧ 6 ≤ m) ∧ (u.tail < 19 ∧ 19 ≤ m ∧ u.tail < 12 ∧ 12 ≤ m) ∧ (u.tail < 20 ∧ m < 20) := by decide

theorem witness_QueueHostRegisterWrites :
    (let u := (tailState 3 5).queue 4095
     5 ≤ u.tail ∧ (u.tail < 19 ∧ 19 ≤ u.head + 2 ^ fld u.qbase.toNat 1 5 ∧ u.en = false) ∧ u.head + 2 ^ fld u.qbase.toNat 1 5 < 20 ∧
       u.begun = [] ∧ u.stopping = false) ∧
    (let u := (State.reset.modQueue 4095 (fun q => { q with begun := [⟨pkt [0], 0⟩] })).queue 4095
     u.en = false ∧ u.begun ≠ []) ∧
    (let u := (procState id).queue 4095
     u.en = true ∧ u.begun = []) ∧
    (let s := { State.reset with front := { State.reset.front with ev := { State.reset.front.ev with head := 2, tail := 4 } } }
     s.front.ev.head < 4 ∧ 4 ≤ s.front.ev.tail ∧ 2 ≤ s.front.ev.head ∧ s.front.ev.tail < 5) ∧
    (let s := cl0 (fun c => { c with trace := { c.trace with head := 2, tail := 4 } })
     (s.cluster 0).trace.head < 4 ∧ 4 ≤ (s.cluster 0).trace.tail ∧ 2 ≤ (s.cluster 0).trace.head ∧ (s.cluster 0).trace.tail < 5) ∧
    (State.reset.mod.trust.fwOk = true ∧ State.reset.opened 0x40080 = true ∧
      (withTrust State.reset { State.reset.mod.trust with fwOk := false }).opened 0x40080 = false) ∧
    (4 % 8 ≠ 0 ∧ 4095 < 4096 ∧ (300 ≤ 300 ∧ 300 ≤ 1500 ∧ 1500 ≤ 1500)) := by decide

theorem witness_HostMemoryAccesses :
    (0 < 1 ∧ 63 % 64 + 1 ≤ 64 ∧ 255 < 2 ^ (8 * 1) ∧ 0x60000000 - 64 + 64 ≤ 0x60000000 ∧
      (let s := State.reset.modCtx 1532 (fun c => { c with run := { c.run with st := .waiting } })
       ∃ h, h < 4 ∧ (s.ctx (4 * 383 + h)).run.st ≠ .inactive)) ∧
    ((∀ h, h < 4 → (State.reset.ctx (4 * 0 + h)).run.st = .inactive) ∧ (State.reset.core 0).ingress = [] ∧
      State.reset.mem.spad.wf = true ∧ NoWatch State.reset) ∧
    ((State.reset.auxOf 0).lining.run = false ∧ State.reset.mem.lining.wf = true) ∧ (lnAdd.auxOf 0).lining.run = true :=
  ⟨⟨by decide, by decide, by decide, by decide, 0, by decide⟩, ⟨by decide, by decide, by decide, noWatch_reset⟩, by decide, by decide⟩

/-- Context 0 in a launch alone with context 4. -/
def teamState : State :=
  let s := (run0 (fun r => { r with st := .ready, launch := some 7 })).modCtx 4 (fun c => { c with
    run := { c.run with st := .blocked, launch := some 7 } })
  { s with front := { s.front with launches := [⟨7, 0, 0, [0, 4], [], [], 0, 0, [0], [], [], [], [0, 1], []⟩] } }

/-- Context 0 alone, at a checkpoint to which it can be rolled back. -/
def rollState : State := ctx0 (fun c => { c with
  run := { c.run with st := .ready }
  ckpt := some ⟨c.regs, [], c.fmt, c.frame, 40, 7, 3, 5, [], [], 0, true, false, [], none, false, 0⟩ })
theorem witness_ModuleErrorEvents_rollback :
    rollState.mem.spad.wf = true ∧ rollState.teamMates 0 = [0] ∧ rollState.rollOf 0 = none ∧
    rollState.copiesDone [0] (clusterOf 0) = true ∧ ∃ k, (rollState.ctx 0).ckpt = some k ∧ k.usable = true :=
  ⟨by decide, by decide, by decide, by decide, _, rfl, by decide⟩

theorem witness_ModuleErrorEvents :
    (State.reset.mod.full = false ∧ EventRoom State.reset ∧ full0.mod.full = true) ∧
    (∀ n, n < 3 → (withTime State.reset { State.reset.mod.time with src := n }).mod.time.src = n) ∧
    (8 ≤ State.reset.mod.level ∧ State.reset.mod.level ≤ 8 ∧ State.reset.mod.trust.pwrlim < 1501 ∧ 1499 < State.reset.mod.trust.pwrlim) ∧
    (teamState.teamMates 0 = [0, 4] ∧ (∀ h ∈ teamState.teamMates 0, (teamState.ctx h).ckpt = none) ∧ (teamState.teamMates 0).Nodup ∧
      0 ∈ teamState.teamMates 0 ∧ teamState.rollOf 0 = none ∧
      (∀ h ∈ teamState.teamMates 0, (teamState.ctx h).run.st ≠ .inactive)) ∧
    (State.reset.auxOf 383).rowMap = [] ∧
    ((teamState.ctx 0).run.trap = false ∧ ((teamState.modCtx 0 (fun c => { c with run := { c.run with trap := true } })).ctx 0).run.trap = true) := by
  refine ⟨⟨by decide, ?_, by decide⟩, by decide, by decide, by decide, by decide, by decide⟩
  unfold EventRoom; decide

theorem witness_DecodeEncodeAgree :
    (Instr.add ⟨15, 63, 63, .lit 0xFFFFFFFF⟩).wf = true ∧ (Instr.add ⟨15, 63, 63, .lit 0xFFFFFFFF⟩).slot? = some .x ∧
    (Instr.eret).wf = true ∧ (Instr.eret).slot? = some .b := by decide

theorem witness_StepKeepsMemory : State.reset.mem.wf = true ∧ ∃ t, step State.reset = .next t := ⟨by decide, _, rfl⟩

theorem witness_StepRunsDecoded :
    ((Instr.qtailWrite 4095 1).wf = true ∧ ownCycle (.qtailWrite 4095 1) = false) ∧
    State.reset.agenda = [] ∧ State.reset.earlies = [] ∧ (Instr.eret).slot?.isSome = true ∧
    ((Instr.linkFlitReceive 15 0 ⟨1, 0⟩ true).wf = true ∧ sharesCycle (.linkFlitReceive 15 0 ⟨1, 0⟩ true) = true) := by decide

/-- An event within a cycle runs. -/
theorem witness_StepRunsDecoded_within : State.reset.oldBytes = [] ∧ (∃ t, exec (.linkFlitReceive 15 0 ⟨1, 0⟩ true) State.reset = .next t) ∧
    ∃ t, tick State.reset = .next t := ⟨rfl, ⟨_, rfl⟩, _, rfl⟩

/-- One ADD lies at program address 0, and context 0 is its core's primary. -/
def addWord : Nat := (encode (.add ⟨0, 3, 1, .reg 2⟩)).w
def addState : State := (prog (toBytes (2 ^ 30 + 2 ^ 21) 4 ++ toBytes addWord 4) id).modCore 0 (fun k => { k with prim := some 0 })
def addBundle : Bundle := ⟨0, 2 ^ 30 + 2 ^ 21, 8, false, [(1, addWord, none)], 0⟩
def addIssue : Issue := ⟨1, .add ⟨0, 3, 1, .reg 2⟩, 0⟩

theorem witness_StepRunsDecoded_cycle :
    (addState.ctx 0).frame.rep = 0 ∧ SMap.get? addBundle.syls 1 = some (addWord, none) ∧
    decodeSyllable (slotOf 1) addWord none = .ok (.add ⟨0, 3, 1, .reg 2⟩) ∧
    addState.bundleAt 0 (addState.ctx 0).frame.pos = .ok addBundle ∧
    addState.decodeBundle 0 addBundle ((addState.ctx 0).plan addBundle) = .ok [addIssue] ∧
    addIssue.i.slot?.isSome = true ∧ isPost addIssue.i = false ∧
    (let s1 := (addState.meetWaits 0 addBundle false [addIssue]).1
     (addState.meetWaits 0 addBundle false [addIssue]).2 = none ∧
       s1.slotChks 0 addBundle (s1.ctx 0).frame.rep false [addIssue] = [] ∧ s1.bankConfs 0 [] [addIssue] = [] ∧
       (s1.ctx 0).dbg.trace = 0 ∧
       ∃ t, exec addIssue.i (((s1.charge 0 0 1).unseat.barMarks 0 [addIssue]).seat 0 addBundle (s1.ctx 0).frame.rep false true addIssue) = .next t ∧
         (t.ctx 0).dbg.trace = 0) ∧
    ((addState.core 0).sw = false ∧ (addState.core 0).prim = some 0 ∧ (addState.ctx 0).canIssue addState.mod.cycles = true ∧
      (addState.ctx 0).asyncDue = none ∧ ((addState.ctx 0).hemLate && !addState.atHem 0) = false ∧
      ((addState.ctx 0).budgetSpent && addState.atHem 0) = false ∧ ((addState.hemMark 0).stopDue 0) = none) :=
  ⟨by decide, by decide, by decide, by decide, by decide, by decide, by decide,
    ⟨by decide, by decide, by decide, by decide, _, rfl, by decide⟩, by decide⟩

/-- A bundle with the host bit at program address 0, and an entry in the ingress buffer. -/
def hostState : State := (prog (hdr (2 ^ 12)) id).modCore 0 (fun k => { k with prim := some 0, ingress := [⟨0, 0, 1⟩] })
theorem witness_StepRunsDecoded_window :
    (hostState.core 0).sw = false ∧ (hostState.core 0).prim = some 0 ∧ (hostState.ctx 0).canIssue hostState.mod.cycles = true ∧
    (hostState.turn 0 false [] []).out = .window := by decide

/-! ## Encodings that are no instruction (R24, R33 to R35, R38, R94, R117, R128, R151, R196, R216) -/

/-- No word decodes in its slot: each raises the given decode fault. -/
def faults (sl : Slot) (e : DErr) (l : List (Nat × Option Nat)) : Bool := l.all (fun x => decide (decodeSyllable sl x.1 x.2 = .error e))

theorem test_unassigned : faults .b .illop [(0, none), (0x1C000000, none), (0x2C000000, none), (0x5C000000, none), (0xFC000000, none)] = true ∧
    faults .x .illop [(0x20000000, none), (0x3C000000, none), (0x7C000000, none), (0xAC000000, none), (0xB8000000, none),
      (0xDC000000, none), (0xF0000000, none)] = true ∧
    faults .v .illop [(0, none), (0x0E00000000000000, none), (0x1900000000000000, none), (0x2A00000000000000, none),
      (0x3500000000000000, none), (0x4700000000000000, none), (0x5600000000000000, none)] = true ∧
    faults .l .illop [(0x0B00000000000000, none)] = true ∧ faults .m .illop [(0x0700000000000000, none), (0x1200000000000000, none)] = true ∧
    faults .c .illop [(0x0700000000000000, none), (0x0C00000000000000, none)] = true ∧
    faults .q .illop [(0x14000000, none), (0x34000000, none)] = true ∧ faults .f .illop [(0x40000000, none), (0xFC000000, none)] = true := by
  decide

/-- Selectors that name nothing: CMPC 8, control register 14, VCMP 6, VCVT of two integer types, VBCST 2, type f on VADD, CPLVL level 6,
LKRED format 3, TLBINV mode 3, SACC type 3, SFOP 7 and type 2, DRAIN 5, PAND of type 7, PNOT of type 15 (R144). -/
theorem test_selectors : faults .x .illop [(0xA0000008, none), (0xB000000E, none)] = true ∧
    faults .v .illop [(0x1700000000000006, none), (0x2900000000000081, none), (0x4200000000000002, none), (0x0100000000000500, none),
      (0x5000000000000380, none), (0x5300000000000780, none)] = true ∧
    faults .c .illop [(0x0100000000600000, none), (0x0A00000000030000, none), (0x1000000000600000, none)] = true ∧
    faults .q .illop [(0x0C000030, none), (0x10000007, none), (0x10000200, none)] = true ∧ faults .f .illop [(0x10000005, none)] = true := by
  decide

/-- Reserved fields and bounds: LOOPB s0, JMP with a guard, RET with a register, ERET with a bit; an amount of 64, a literal on BFX, a
literal beside operand b, CMPC's bits 21 to 19; register 768, type 7, the pair v767, VQNT with d = c; PLD p16, VLDX bit 0; four consume
tokens, SFOP.cas with s63, BAR bit 0, KEYLD bit 1. -/
theorem test_reserved : faults .b .illbnd [(0x38000000, none), (0x30400000, none), (0x48000400, none), (0x58000001, none)] = true ∧
    faults .x .illbnd [(0x4C000040, none), (0xA4000000, some 1), (0x04000010, some 1), (0xA0080000, none), (0xFC000000, some 1),
      (0xFC000001, none)] = true ∧
    faults .v .illbnd [(0x0100000000600000 + 0x300 * 2 ^ 41, none), (0x0100000000000380, none), (0x0C00017F80000080, none),
      (0x3800000000000600, none)] = true ∧
    faults .l .illbnd [(0x0800200000000000, none), (0x0600000000000001, none)] = true ∧ faults .m .illbnd [(0x0600000000F00000, none)] = true ∧
    faults .q .illbnd [(0x1000FC02, none)] = true ∧ faults .f .illbnd [(0x14000001, none), (0xC4000002, none)] = true := by decide

/-! ## One instruction on a small state, with results from the spec's tables and worked cases -/

/-- The state after an instruction that has met its waits and checks. -/
def after (i : Instr) (s : State) : State :=
  match exec i { s with cur := { s.cur with go := true } } with
  | .next t => t
  | _ => s
/-- Its pending results: destination, value, flags, schedule cycles to the landing. -/
def results (i : Instr) (s : State) : List (Dest × Nat × Nat × Nat) :=
  (after i s).me.pend.val.map (fun p => (p.dest, p.val.toNat, p.flags.toNat, p.land))

/-- The table of R115, A in s1 and B in s2. -/
theorem test_divide_table :
    results (.div ⟨0, 3, 1, .reg 2⟩) (regs2 7 0) = [(.s 3, 2 ^ 64 - 1, 8, 12)] ∧ results (.rem ⟨0, 3, 1, .reg 2⟩) (regs2 7 0) = [(.s 3, 7, 8, 12)] := by decide
theorem test_divide_table_signed :
    results (.divs ⟨0, 3, 1, .reg 2⟩) (regs2 (-7) 2) = [(.s 3, 2 ^ 64 - 3, 0, 12)] ∧
    results (.rems ⟨0, 3, 1, .reg 2⟩) (regs2 (-7) 2) = [(.s 3, 2 ^ 64 - 1, 0, 12)] ∧
    results (.divs ⟨0, 3, 1, .lit 0xFFFFFFFF⟩) (regs2 (2 ^ 63) 0) = [(.s 3, 2 ^ 63, 0, 12)] ∧
    results (.rems ⟨0, 3, 1, .lit 0xFFFFFFFF⟩) (regs2 (2 ^ 63) 0) = [(.s 3, 0, 0, 12)] := by decide
theorem test_multiply_high : results (.mulhs ⟨0, 3, 1, .lit 3⟩) (regs2 (-1) 0) = [(.s 3, 2 ^ 64 - 1, 0, 3)] ∧
    results (.mulh ⟨0, 3, 1, .lit 4⟩) (regs2 (2 ^ 63) 0) = [(.s 3, 2, 0, 3)] := by decide
/-- The constant of R118. -/
theorem test_constant : results (.li ⟨0, 1, .lit 0x12345678⟩) (regs2 0 0) = [(.s 1, 0x12345678, 0, 1)] ∧
    results (.shli ⟨0, 1, 1, .imm 32⟩) (regs2 0x12345678 0) = [(.s 1, 0x1234567800000000, 0, 1)] ∧
    results (.ori ⟨0, 1, 1, .lit 0x9ABCDEF0⟩) (regs2 0x1234567800000000 0) = [(.s 1, 0x123456789ABCDEF0, 0, 1)] ∧
    results (.addi ⟨0, 1, 1, .lit 0x9ABCDEF0⟩) (regs2 0 0) = [(.s 1, 0xFFFFFFFF9ABCDEF0, 0, 1)] := by decide
/-- R117: bits past 63 read as zero and are dropped. -/
theorem test_bit_fields : results (.bfx ⟨0, 3, 1, 60, 16⟩) (regs2 (0xA5 * 2 ^ 56) 0) = [(.s 3, 0xA, 0, 1)] ∧
    results (.bfi ⟨0, 2, 1, 60, 16⟩) (regs2 0x1235 7) = [(.s 2, 0x5000000000000007, 0, 1)] := by decide
/-- R122: CTX2 of core 5 in cluster 1. -/
theorem test_ctxid : (after (.mfc ⟨0, 7, 8⟩) { State.reset with cur := { State.reset.cur with hw := 4 * 53 + 2 } }).me.pend.val.map
    (fun p => p.val.toNat) = [0x148D6] := by decide
theorem test_compare : results (.cmpc ⟨0, 3, 1, .reg 2⟩ .lt) (regs2 (-1) 1) = [(.c 3, 1, 0, 1)] ∧
    results (.cmpc ⟨0, 3, 1, .reg 2⟩ .ltu) (regs2 (-1) 1) = [(.c 3, 0, 0, 1)] ∧
    results (.cmpc ⟨0, 3, 1, .reg 2⟩ .ntst) (regs2 8 7) = [(.c 3, 1, 0, 1)] := by decide
theorem test_shifts : results (.shl ⟨0, 3, 1, .reg 2⟩) (regs2 3 65) = [(.s 3, 6, 0, 1)] ∧
    results (.sra ⟨0, 3, 1, .lit 63⟩) (regs2 (2 ^ 63) 0) = [(.s 3, 2 ^ 64 - 1, 0, 1)] ∧
    results (.clz ⟨0, 3, 1⟩) (regs2 0 0) = [(.s 3, 64, 0, 1)] ∧ results (.addsh ⟨0, 3, 1, .reg 2⟩ 15) (regs2 1 1) = [(.s 3, 32769, 0, 1)] := by
  decide
/-- A guard that never holds nullifies (R27); a write to s0 is no result. -/
theorem test_nullified : results (.add ⟨1, 3, 1, .reg 2⟩) (regs2 1 1) = [] ∧
    (results (.add ⟨0, 0, 1, .reg 2⟩) (regs2 1 1)).filter (fun x => decide (x.1 ≠ .s 0)) = [] := by decide
/-- Stores and loads (R119): bytes at and beyond 0x40_0000 read as zero and are dropped, and SPFAULT takes the address (R93). -/
theorem test_store_load : (after (.stw ⟨0, 2, 1, .imm 4⟩) (regs2 0x3FFFF8 0x11223344)).mem.spad =
      [(0x3FFFFC, 0x44), (0x3FFFFD, 0x33), (0x3FFFFE, 0x22), (0x3FFFFF, 0x11)] ∧
    (after (.stw ⟨0, 2, 1, .imm 4⟩) (regs2 0x3FFFFC 0x11223344)).mem.spad = [] ∧
    ((after (.stw ⟨0, 2, 1, .imm 4⟩) (regs2 0x3FFFFC 0x11223344)).me.fmt.spSet,
      (after (.stw ⟨0, 2, 1, .imm 4⟩) (regs2 0x3FFFFC 0x11223344)).me.fmt.spAddr) = (true, 0x400000) ∧
    results (.ldhs ⟨0, 3, 1, .imm 0⟩) { regs2 2 0 with mem := { Mem.reset with spad := [(2, 0xFE), (3, 0xFF)] } } =
      [(.s 3, 2 ^ 64 - 2, 0, 5)] := by decide

/-- Context 0 with vector registers v6, v7. -/
def vec2 (a b : VReg) : State := ctx0 (fun c => { c with regs := { c.regs with v := [(6, a), (7, b)] } })
/-- The number whose elements of `w` bytes are the list. -/
def lay (w : Nat) (l : List Nat) : VReg := BitVec.ofNat 4096 (l.foldr (fun x n => x + 2 ^ (8 * w) * n) 0)
/-- The first `n` elements of `w` bytes of the results of an instruction, with flags. -/
def first (w n : Nat) (i : Instr) (s : State) : List (List Nat × Nat) :=
  (after i s).me.pend.val.map (fun p => ((List.range n).map (fun k => elem p.val.toNat w k), p.flags.toNat))

/-- The narrowing example of R134, with and without saturation. -/
theorem test_vnrw : first 2 5 (.vnrw ⟨0, .w, 10, 6, 0⟩ 2 true true) (vec2 (lay 4 [200000, 2 ^ 32 - 200000, 1001, 2 ^ 32 - 9, 6]) 0) =
    [([0x7FFF, 0x8000, 0x00FA, 0xFFFE, 2], 0x20)] := by decide
theorem test_vnrw_wraps : first 2 2 (.vnrw ⟨0, .w, 10, 6, 0⟩ 2 false true) (vec2 (lay 4 [200000, 2 ^ 32 - 200000]) 0) =
    [([0xC350, 0x3CB0], 0)] := by decide
/-- The reduction example of R145. -/
theorem test_vred : first 4 1 (.vred ⟨0, .f, 20, 6, 0⟩ .add) (vec2 (lay 4 [0x3F800000, 0x33800000, 0x33800000, 0x33800000]) 0) =
    [([0x3F800001], 1)] := by decide
/-- One third in BF16 by RNE (R43's table), and by RTZ. -/
theorem test_vcvt : first 2 1 (.vcvt ⟨0, .f, 10, 6, 0⟩ .bf false) (vec2 (lay 4 [0x3EAAAAAB]) 0) = [([0x3EAB], 1)] ∧
    first 2 1 (.vcvt ⟨0, .f, 10, 6, 0⟩ .bf false) ((vec2 (lay 4 [0x3EAAAAAB]) 0).modCtx 0 (fun c => { c with
      fmt := { c.fmt with fmt := 1 } })) = [([0x3EAA], 1)] := by decide
/-- R44: the vector unit keeps denormals (case 8 of R62's table); R137: a maximum of a NaN and a number. -/
theorem test_vfloat : first 2 1 (.vfmul ⟨0, .bf, 10, 6, 7, 0⟩) (vec2 (lay 2 [0x8040]) (lay 2 [0x3F80])) = [([0x8040], 0)] ∧
    first 4 2 (.vfmax ⟨0, .f, 10, 6, 7, 0⟩) (vec2 (lay 4 [0x7F800001, 0]) (lay 4 [0x3F800000, 0x80000000])) =
      [([0x3F800000, 0], 0x10)] := by decide
theorem test_vfcls : first 2 2 (.vfcls ⟨0, .bf, 10, 6, 0⟩) (vec2 (lay 2 [0x0040, 0xFF81]) 0) = [([0x20, 0x100], 0)] := by decide
/-- The quantising example of R141: bytes 256 and 257 of vD and byte 8 of vC. -/
theorem test_vqnt : ((after (.vqnt ⟨0, .mx8, 10, 6, 0⟩ 11 2) (vec2 (lay 4 [0x40200000, 0xBF400000]) 0)).me.pend.val.map (fun p =>
    (p.dest, elem p.val.toNat 1 256, elem p.val.toNat 1 257, elem p.val.toNat 1 8))) = [(.v 10, 0x50, 0xE8, 0), (.v 11, 0, 0, 0x80)] := by
  decide
theorem test_vmulh : first 8 1 (.vmulh ⟨0, .d, 10, 6, 7, 0⟩) (vec2 (lay 8 [2 ^ 63]) (lay 8 [2])) = [([2 ^ 64 - 1], 0)] ∧
    first 1 1 (.vabs ⟨0, .b, 10, 6, 0⟩ true) (vec2 (lay 1 [0x80]) 0) = [([0x7F], 0x20)] := by decide
theorem test_vperm : first 4 2 (.vperm ⟨0, .w, 10, 6, 7, 0⟩) (vec2 (lay 4 [5, 6]) (lay 4 [1, 128])) = [([6, 0], 0)] ∧
    first 4 2 (.vsld ⟨0, .w, 10, 6, 7, 0⟩ 127) (vec2 0 (lay 4 [9])) = [([0, 9], 0)] ∧
    first 4 3 (.viota ⟨0, .w, 10, 0, 0⟩) (vec2 0 0) = [([0, 1, 2], 0)] := by decide
theorem test_vext : results (.vext ⟨0, .h, 4, 6, 0⟩ 1) (vec2 (lay 2 [0, 0xFFFE]) 0) = [(.s 4, 2 ^ 64 - 2, 0, 3)] ∧
    results (.vext ⟨0, .f, 4, 6, 0⟩ 0) (vec2 (lay 4 [0x80000000]) 0) = [(.s 4, 0x80000000, 0, 3)] := by decide
/-- A fill (R100): 32 bytes of a 32-bit pattern. -/
theorem test_fill : (after (.fill ⟨0, 2, 0, 1, 8, 0⟩) (regs2 8 0x04030201)).mem.spad.map (fun x => (x.1, x.2.toNat)) =
    (List.range 16).map (fun k => (16 + k, k % 4 + 1)) := by decide
/-- Case 9 of R62's table: an INT8 sum saturates. -/
theorem test_int8_sum : ({ mmProd 0x120 0 3 .macc with
    aLines := [(0, 0x646464)], bLines := [(0, 0x010101)], seeds := [(0, BitVec.ofNat 32 (2 ^ 31 - 100))] } : Prod).cellSum 0 0 3 =
    (2 ^ 31 - 1, 0x20) := by decide
/-- R53: SETFMT lands after 4 cycles; GETFLG reads what has landed. -/
theorem test_setfmt : results (.setfmtImm ⟨0, 0x484⟩) State.reset = [(.fmt, 0x484, 0, 4)] ∧
    results (.getflg ⟨0, 4⟩) (ctx0 (fun c => { c with fmt := { c.fmt with flg := 0x28 } })) = [(.s 4, 0x28, 0, 1)] := by decide
/-- The zone of Fragment 6 (R172). -/
theorem test_zset : (after (.zset ⟨0, 0, 1⟩) (regs2 0x04040000 0)).me.zone 0 = ⟨0, 0, 4, 4⟩ := by decide
/-- A branch taken with its delay slots before it (R192, R197), from its bundle's address. -/
theorem test_branch : (after (.brGtz ⟨1, true, -4⟩) { regs2 1 0 with cur := { Cursor.reset with bundle := 0x20 } }).me.frame.br =
    ⟨1, true, true, 0x10⟩ ∧
    (after (.brGtz ⟨1, true, -4⟩) { regs2 (-1) 0 with cur := { Cursor.reset with bundle := 0x20 } }).me.frame.br.taken = false := by decide
theorem test_loopb : results (.loopb ⟨1, false, 4⟩) (regs2 1 0) = [(.s 1, 0, 0, 1)] ∧
    (after (.loopb ⟨1, false, 4⟩) (regs2 1 0)).me.frame.br.taken = false ∧
    (after (.loopb ⟨1, false, 4⟩) (regs2 2 0)).me.frame.br.taken = true := by decide
/-- A copy command waits in the C gusset with the values of its registers, and its token counts up (R15, R77, R210). -/
theorem test_cpbase : (after (.cpbase ⟨15, 1, 2, 3, 1, 0, false, true⟩) (gusset 0)).me.eng.cG.map (fun c => c.op) =
      [.cpbase 3 0xBFFFFF0 16 false true 32] ∧
    (after (.cpbase ⟨15, 1, 2, 3, 1, 0, false, true⟩) (gusset 0)).me.token 1 = 1 := by decide
/-- One real cycle issues the bundle of an ADD of s1 to itself (latency 1): its result has landed for the next issue (R11), and the
position has moved past the bundle. -/
theorem test_step_add : (match step (prog (toBytes (2 ^ 30 + 2 ^ 21) 4 ++ toBytes 0x04030410 4) id |>.modCore 0 (fun k =>
      { k with prim := some 0 }) |>.modCtx 0 (fun c => { c with regs := { c.regs with s := [(1, 5)] } })) with
    | .next t => some ((t.ctx 0).sreg 3, (t.ctx 0).frame.pos, (t.ctx 0).run.sched)
    | _ => none) = some (10, 8, 1) := by decide

end Sys2Proof.Tests
end

section
/-!
PROOF. The statements on the step as a whole: it keeps memory canonical, and it runs what it decodes; and the values of reset.
-/

namespace Sys2Proof.Machine

/-! ## Every step keeps memory canonical (R5, R66, R88, R227) -/

theorem Out.fault_memOk {e : Fault} : Out.MemOk (.fault e) := by
  intro t h
  cases h

/-- A step keeps every memory canonical: an event by what `exec` keeps, a real cycle by what `tick` keeps. -/
theorem step_memOk {s : State} (hok : s.MemOk) : Out.MemOk (step s) := by
  unfold step
  split
  · exact State.indivisible_memOk hok (fun _ h => tick_memOk h)
  · exact State.indivisible_memOk hok (fun _ h => tick_memOk h)
  · split
    · exact Out.fault_memOk
    · split
      · exact Out.fault_memOk
      · exact State.indivisible_memOk hok (fun _ h => exec_memOk h)
  · split
    · exact Out.fault_memOk
    · split
      · exact Out.fault_memOk
      · exact Out.next_memOk hok

/-- Settles O56: every step keeps the canonical form of memory. -/
theorem stepKeepsMemory : Obligations.StepKeepsMemory :=
  fun _ t hok h => step_memOk hok t h

/-! ## Values at reset -/

/-- Settles O58: every agent is unlisted at reset, and so has its reset value. -/
theorem resetValues : Obligations.ResetValues := by
  unfold Obligations.ResetValues
  refine ⟨fun _ => ⟨rfl, rfl, rfl⟩, rfl, rfl, rfl, rfl, rfl, rfl, rfl, fun _ _ => rfl, fun _ => rfl, fun _ => ⟨rfl, rfl, rfl⟩,
    fun _ => ⟨rfl, rfl, rfl⟩, fun _ => rfl, rfl⟩

/-! ## A step runs the decoded instruction -/

theorem State.indivisible_of_no_earlies {s : State} (run : State → Out) (h : s.earlies = []) : s.indivisible run = run s := by
  unfold State.indivisible
  rw [h]

theorem step_ev {s : State} {i : Instr} {r : List Act} (ha : s.agenda = .ev i :: r) (hw : i.wf = true) (ho : ownCycle i = false) :
    step s = State.indivisible { s with agenda := r } (exec i) := by
  simp [step, ha, hw, ho]

theorem step_within {s : State} {i : Instr} {r : List Act} (ha : s.agenda = .within i :: r) (hw : i.wf = true)
    (hs : sharesCycle i = true) : step s = .next { s with agenda := r, shared := s.shared ++ [i] } := by
  simp [step, ha, hw, hs]

theorem step_tick {s : State} {r : List Act} (ha : s.agenda = .tick :: r ∨ s.agenda = [] ∧ r = []) :
    step s = State.indivisible { s with agenda := r } tick := by
  obtain ha | ⟨ha, rfl⟩ := ha
  · simp [step, ha]
  · have e : { s with agenda := [] } = s := by rw [← ha]
    simp only [step, ha, e]

theorem State.spadRaw_nil (s : State) : s.spadRaw [] = s := rfl

/-- Beside a cycle in which no core port has written, an engine's access has the effect of its exec (log 37). -/
theorem State.sharedDo_eq_exec {s t : State} {i : Instr} (hi : sharesCycle i = true) (ho : s.oldBytes = []) (he : exec i s = .next t) :
    s.sharedDo i = t := by
  unfold State.sharedDo
  simp only [ho, List.map_nil, State.spadRaw_nil]
  cases i with
  | engineCommandComplete e => simp only [← exec_engineCommandComplete, he]
  | linkFlitReceive l n f b => simp only [← exec_linkFlitReceive, he]
  | _ => cases hi

theorem tick_ends_shared {s t : State} (h : tick s = .next t) : t.oldBytes = [] ∧ t.shared = [] := by
  cases h
  exact ⟨rfl, rfl⟩

/-- A syllable of a bundle has the meaning that `exec` gives it. -/
theorem runSyllable_eq_exec {i : Instr} (h : i.slot?.isSome = true) (s : State) : runSyllable i s = exec i s := by
  cases i <;> cases h <;> rfl

/-! ## What a bundle issues -/

@[simp] theorem advV3_zero (o : V3) : advV3 0 o = o := by simp [advV3]
@[simp] theorem advV2_zero (o : V2) : advV2 0 o = o := by simp [advV2]
@[simp] theorem advVP_zero (o : VP) : advVP 0 o = o := by simp [advVP]
@[simp] theorem advAmt_zero (a : Amt) : advAmt 0 a = a := by cases a <;> rfl

/-- A first issue advances no register field (R12). -/
@[simp] theorem advance_zero (i : Instr) : advance 0 i = i := by
  unfold advance
  split <;> simp

/-- A syllable of a bundle that does not repeat is planned afresh (R10, R25). -/
theorem Ctx.mem_plan {c : Ctx} {b : Bundle} {k w : Nat} {x : Option Nat} (hr : c.frame.rep = 0) (hk : k < 10)
    (hs : SMap.get? b.syls k = some (w, x)) : (k, ⟨w, x, 0⟩) ∈ c.plan b := by
  unfold Ctx.plan
  refine List.mem_filterMap.2 ⟨k, List.mem_range.2 hk, ?_⟩
  simp [hr, hs]

/-- A planned syllable that decodes is among what issues. -/
theorem mem_issuesOf {plan : List (Nat × Latch)} {k : Nat} {l : Latch} {i : Instr} (hp : (k, l) ∈ plan) (hd : decoded k l = .ok i) :
    ⟨k, advance l.n i, l.n⟩ ∈ issuesOf plan := by
  unfold issuesOf
  exact List.mem_filterMap.2 ⟨_, hp, by simp only [hd]⟩

/-- A bundle that meets no decode fault issues its whole plan (R38). -/
theorem State.decodeBundle_ok {s : State} {hw : Nat} {b : Bundle} {plan : List (Nat × Latch)} {xs : List Issue}
    (h : s.decodeBundle hw b plan = .ok xs) : xs = issuesOf plan := by
  unfold State.decodeBundle at h
  dsimp only at h
  repeat' split at h
  all_goals cases h
  rfl

theorem State.mem_decodeBundle {s : State} {hw k w : Nat} {b : Bundle} {x : Option Nat} {i : Instr} {xs : List Issue}
    (hr : (s.ctx hw).frame.rep = 0) (hk : k < 10) (hs : SMap.get? b.syls k = some (w, x))
    (hd : decodeSyllable (slotOf k) w x = .ok i) (hx : s.decodeBundle hw b ((s.ctx hw).plan b) = .ok xs) : ⟨k, i, 0⟩ ∈ xs := by
  rw [State.decodeBundle_ok hx]
  have := mem_issuesOf (Ctx.mem_plan hr hk hs) hd
  rwa [advance_zero] at this

/-! ## The issue of a lone syllable -/

/-- A context that is not traced leaves no record. -/
theorem State.trace_untraced {s : State} {hw : Nat} (h : (s.ctx hw).dbg.trace = 0) (kind bundle rep : Nat) (cand : Bool) :
    s.trace hw kind bundle rep cand = s := by
  unfold State.trace
  simp [h]

/-- What a bundle performs first it does not perform late (R91, R223). -/
theorem isLate_of_isFirst {i : Instr} (h : isFirst i = true) : isLate i = false := by
  cases i <;> cases h
  rfl

/-- The effects of one syllable that acts before its bundle has committed are those of its one run. -/
theorem State.effects_single {s : State} {hw rep : Nat} {b : Bundle} {cand : Bool} {x : Issue} (hp : isPost x.i = false) :
    s.effects hw b rep cand [x] = s.runAt hw b rep cand true x := by
  cases hf : isFirst x.i
  · cases hl : isLate x.i
    · simp [State.effects, hf, hl, hp]
    · simp [State.effects, hf, hl]
  · simp [State.effects, hf, isLate_of_isFirst hf]

theorem State.runAt_of_exec {s t : State} {hw rep : Nat} {b : Bundle} {cand go : Bool} {x : Issue} (hs : x.i.slot?.isSome = true)
    (h : exec x.i (s.seat hw b rep cand go x) = .next t) : s.runAt hw b rep cand go x = t := by
  unfold State.runAt
  rw [runSyllable_eq_exec hs, h]

/-- A syllable that acts after its bundle has committed is one of `isPost`. -/
theorem postOn_of_not_isPost {i : Instr} (c : Ctx) (h : isPost i = false) : postOn c i = false := by
  cases i <;> cases h <;> rfl

/-- A lone syllable commits by its exec, and the bundle ends its issue. -/
theorem State.commitBundle_single {s t : State} {hw : Nat} {b : Bundle} {plan : List (Nat × Latch)} {x : Issue} {cand : Bool}
    (hs : x.i.slot?.isSome = true) (hp : isPost x.i = false) (ht : (s.ctx hw).dbg.trace = 0)
    (he : exec x.i (((s.charge hw 0 1).unseat.barMarks hw [x]).seat hw b (s.ctx hw).frame.rep cand true x) = .next t)
    (ht' : (t.ctx hw).dbg.trace = 0) :
    s.commitBundle hw b plan [x] cand = (t.endIssue hw (s.ctx hw).frame b plan [x] cand).unseat := by
  simp [State.commitBundle, State.trace_untraced ht, State.effects_single hp, State.runAt_of_exec hs he, State.trace_untraced ht',
    postOn_of_not_isPost _ hp, State.afterwards]

/-- A primary whose checks all pass issues its bundle. -/
theorem State.issueNow_of_no_fault {s : State} {hw : Nat} {b : Bundle} {plan : List (Nat × Latch)} {xs : List Issue} {lines : List Nat}
    (hc : s.slotChks hw b (s.ctx hw).frame.rep false xs = []) (hb : s.bankConfs hw [] xs = []) :
    (s.issueNow hw b plan xs false lines).out = .issued ∧
      (s.issueNow hw b plan xs false lines).s = s.commitBundle hw b plan xs false := by
  simp [State.issueNow, hc, hb, firstChk, lowestConf]

/-- A primary whose bundle decodes and waits for nothing comes to its checks. -/
theorem State.attempt_of_no_wait {s s1 : State} {hw : Nat} {b : Bundle} {xs : List Issue}
    (hb : s.bundleAt hw (s.ctx hw).frame.pos = .ok b) (hd : s.decodeBundle hw b ((s.ctx hw).plan b) = .ok xs)
    (hm : s.meetWaits hw b false xs = (s1, none)) :
    s.attempt hw false [] [] = s1.issueNow hw b ((s.ctx hw).plan b) xs false [] := by
  simp [State.attempt, hb, hd, hm]

/-! ## The turn of a primary -/

theorem State.issueStage_window {s : State} {core p : Nat} (hsw : (s.core core).sw = false) (hp : (s.core core).prim = some p)
    (hi : (s.ctx p).canIssue s.mod.cycles = true) (ho : (s.turn p false [] []).out = .window) :
    s.issueStage core = (s.turn p false [] []).s := by
  simp [State.issueStage, hsw, hp, hi, ho]

theorem State.turn_of_nothing_before {s : State} {hw : Nat} (ha : (s.ctx hw).asyncDue = none)
    (hh : ((s.ctx hw).hemLate && !s.atHem hw) = false) (hb : ((s.ctx hw).budgetSpent && s.atHem hw) = false)
    (hs : (s.hemMark hw).stopDue hw = none) : s.turn hw false [] [] = (s.hemMark hw).attempt hw false [] [] := by
  simp [State.turn, ha, hh, hb, hs]

/-- Settles O59, by the rules of the step, of the bundle's issue and of the primary's turn. -/
theorem stepRunsDecoded : Obligations.StepRunsDecoded := by
  intro s
  refine ⟨fun i r ha hw ho => ⟨step_ev ha hw ho, fun he => ?_⟩, fun i r ha hw hs => step_within ha hw hs,
    fun i t hi ho he => State.sharedDo_eq_exec hi ho he, fun t h => tick_ends_shared h, fun r ha he => ?_,
    fun i hi => runSyllable_eq_exec hi s, fun hw b k w x i xs hr hk hs hd hx => State.mem_decodeBundle hr hk hs hd hx,
    fun hw b x s1 t hb hd hs hp hm hc hf ht he ht' => ?_, fun core p => State.issueStage_window,
    fun hw => State.turn_of_nothing_before⟩
  · rw [step_ev ha hw ho]
    exact State.indivisible_of_no_earlies _ he
  · rw [step_tick ha]
    exact State.indivisible_of_no_earlies _ he
  · obtain ⟨hout, hst⟩ := State.issueNow_of_no_fault (plan := (s.ctx hw).plan b) (lines := []) hc hf
    rw [State.attempt_of_no_wait hb hd hm, hout, hst]
    exact ⟨rfl, State.commitBundle_single hs hp ht he ht'⟩

end Sys2Proof.Machine
end

section
/-!
PROOF. The events of the module: reset, full service, time, power, errors corrected and not (R354 to R361).
-/

namespace Sys2Proof.Machine

open Sys2Proof.Claims

/-! ## Bytes of numbers -/

@[simp] theorem toBytes_length (v n : Nat) : (toBytes v n).length = n := by
  induction n generalizing v with
  | zero => rfl
  | succ n ih => simp [toBytes, ih]

theorem toBytes_getElem (v : Nat) {n k : Nat} (h : k < (toBytes v n).length) : (toBytes v n)[k] = BitVec.ofNat 8 (v / 256 ^ k) := by
  induction n generalizing v k with
  | zero => simp [toBytes] at h
  | succ n ih =>
    cases k with
    | zero => simp [toBytes]
    | succ k => simp [toBytes, ih, Nat.div_div_eq_div_mul, Nat.pow_succ']

theorem ofBytes_toBytes (v n : Nat) : ofBytes (toBytes v n) = v % 256 ^ n := by
  induction n generalizing v with
  | zero => simp [toBytes, ofBytes, Nat.mod_one]
  | succ n ih => simp [toBytes, ofBytes, ih, Nat.pow_succ', Nat.mod_mul]

theorem ofBytes_append (l r : List Byte) : ofBytes (l ++ r) = ofBytes l + 256 ^ l.length * ofBytes r := by
  induction l with
  | nil => simp [ofBytes]
  | cons b l ih => simp [ofBytes, ih, Nat.pow_succ', Nat.mul_add, Nat.mul_assoc, Nat.add_assoc]

/-! ## Bytes written one after another -/

/-- Bytes outside those that are written stay. -/
theorem read_hostPut_other {m : Memory} {a k : Nat} (l : List Byte) (h : m.wf = true) (hk : k < a ∨ a + l.length ≤ k) :
    (hostPut m a l).read k = m.read k := by
  induction l generalizing m a with
  | nil => rfl
  | cons b l ih =>
    rw [List.length_cons] at hk
    rw [hostPut, ih (Memory.write_wf _ _ h) (by omega), Memory.read_write_other _ h (by omega)]

theorem read_hostPut_same {m : Memory} {a k : Nat} {l : List Byte} (h : m.wf = true) (hk : k < l.length) :
    (hostPut m a l).read (a + k) = l[k] := by
  induction l generalizing m a k with
  | nil => cases hk
  | cons b l ih =>
    have hw := Memory.write_wf a b h
    rw [hostPut]
    cases k with
    | zero => rw [read_hostPut_other l hw (by omega), Nat.add_zero, Memory.read_write_same a b h, List.getElem_cons_zero]
    | succ k =>
      have e : a + (k + 1) = a + 1 + k := by omega
      rw [e, ih hw (Nat.lt_of_succ_lt_succ hk), List.getElem_cons_succ]

/-- Bytes written in address order are read as the number that they make. -/
theorem readN_hostPut {m : Memory} (a : Nat) (l : List Byte) (h : m.wf = true) : (hostPut m a l).readN a l.length = ofBytes l := by
  induction l generalizing m a with
  | nil => rfl
  | cons b l ih =>
    have hw := Memory.write_wf a b h
    rw [hostPut, List.length_cons, Memory.readN, ih _ hw, read_hostPut_other l hw (by omega), Memory.read_write_same _ _ h, ofBytes]

/-- Cells at rising addresses are bytes written in address order. -/
theorem foldl_write_range' (m : Memory) (a i : Nat) (l : List Byte) :
    (List.zipWith (fun k b => (a + k, b)) (List.range' i l.length) l).foldl (fun m c => m.write c.1 c.2) m = hostPut m (a + i) l := by
  induction l generalizing m i with
  | nil => rfl
  | cons b l ih => exact ih _ _

/-! ## Event records (R280) -/

/-- What is posted is read back from the ring as the record of its fields. -/
theorem ofBytes_record (kind queue detail ns arg code : Nat) :
    ofBytes (toBytes kind 2 ++ toBytes queue 2 ++ toBytes detail 4 ++ toBytes ns 8 ++ toBytes arg 8 ++ toBytes code 8) =
      kind % 2 ^ 16 + queue % 2 ^ 16 * 2 ^ 16 + detail % 2 ^ 32 * 2 ^ 32 + ns % 2 ^ 64 * 2 ^ 64 + arg % 2 ^ 64 * 2 ^ 128 +
        code % 2 ^ 64 * 2 ^ 192 := by
  simp only [ofBytes_append, ofBytes_toBytes, List.length_append, toBytes_length]
  omega

/-- An event whose ring has room is posted. -/
theorem State.posted_postEvent {s : State} (h : EventRoom s) (kind queue detail arg code : Nat) :
    Posted s (s.postEvent kind queue detail arg code) kind queue detail arg code := by
  obtain ⟨hroom, hwf⟩ := h
  unfold State.postEvent
  simp only [if_neg hroom]
  refine ⟨rfl, rfl, ?_⟩
  have hr := readN_hostPut (fld s.front.ev.base.toNat 5 59 * 32 + 32 * (s.front.ev.tail % 2 ^ fld s.front.ev.base.toNat 0 5))
    (toBytes kind 2 ++ toBytes queue 2 ++ toBytes detail 4 ++ toBytes s.ns 8 ++ toBytes arg 8 ++ toBytes code 8) hwf
  rw [ofBytes_record] at hr
  simpa [State.ns] using hr

/-- Posting changes the event ring and host memory alone. -/
theorem State.postEvent_cases (s : State) (kind queue detail arg code : Nat) :
    ∃ m e, s.postEvent kind queue detail arg code = { s with mem := { s.mem with host := m }, front := { s.front with ev := e } } := by
  unfold State.postEvent
  dsimp only
  split
  · exact ⟨s.mem.host, _, rfl⟩
  · exact ⟨_, _, rfl⟩

/-! ## Folds over a state -/

/-- What every step of a fold leaves alone, the fold leaves alone. -/
theorem foldl_unchanged {α β : Type} {f : State → α → State} (g : State → β) (hf : ∀ s x, g (f s x) = g s) (l : List α) (s : State) :
    g (l.foldl f s) = g s := by
  induction l generalizing s with
  | nil => rfl
  | cons x l ih => rw [List.foldl_cons, ih, hf]

/-- A fold over contexts, each step of which changes its own context alone, leaves every other context alone. -/
theorem foldl_ctx_other {f : State → Nat → State} (hf : ∀ s h k, k ≠ h → (f s h).ctx k = s.ctx k) {l : List Nat} {k : Nat}
    (hk : k ∉ l) (s : State) : (l.foldl f s).ctx k = s.ctx k := by
  induction l generalizing s with
  | nil => rfl
  | cons h l ih =>
    obtain ⟨hne, hl⟩ := not_or.1 (List.mem_cons.not.1 hk)
    rw [List.foldl_cons, ih hl, hf _ _ _ hne]

/-- A fold over distinct contexts, each step of which changes its own context alone and by that context alone, changes each as its
one step does. -/
theorem foldl_ctx_mem {f : State → Nat → State} (hf : ∀ s h k, k ≠ h → (f s h).ctx k = s.ctx k)
    (hown : ∀ s t h, s.ctx h = t.ctx h → (f s h).ctx h = (f t h).ctx h) {l : List Nat} (hn : l.Nodup) {k : Nat} (hk : k ∈ l)
    (s : State) : (l.foldl f s).ctx k = (f s k).ctx k := by
  induction l generalizing s with
  | nil => cases hk
  | cons h l ih =>
    obtain ⟨hh, hl⟩ := List.nodup_cons.1 hn
    rw [List.foldl_cons]
    obtain rfl | hkl := List.mem_cons.1 hk
    · exact foldl_ctx_other hf hh _
    · have hne : k ≠ h := fun e => hh (e ▸ hkl)
      rw [ih hl hkl, hown _ s k (hf s h k hne)]

/-! ## Module reset and full service (R4, R355, R357) -/

/-- A module reset leaves every agent unlisted. -/
theorem execModuleReset_resets (s : State) : Answers .moduleReset s (fun t =>
    (∀ h, t.ctx h = Ctx.reset) ∧ (∀ k, t.core k = Core.reset) ∧ (∀ q, t.queue q = Queue.reset) ∧ t.front.launches = [] ∧
    t.mod.full = false ∧ t.mod.hbmFull = false ∧ t.mod.level = 8 ∧ t.mod.trust.keys = [] ∧ t.mod.time.now = 0 ∧
    t.mem.host = s.mem.host) :=
  ⟨_, rfl, fun _ => rfl, fun _ => rfl, fun _ => rfl, rfl, rfl, rfl, rfl, rfl, rfl, rfl⟩

theorem execFullService_posts {s : State} (hf : s.mod.full = false) (hr : EventRoom s) : Answers .fullService s (fun t =>
    t.mod = { s.mod with full := true, hbmFull := true, level := 16 } ∧ Posted s t 6 0xFFFF 0 0 0 ∧ t.ctxs = s.ctxs ∧
    t.cores = s.cores ∧ t.mem.spad = s.mem.spad) := by
  let s1 : State := { s with mod := { s.mod with full := true, hbmFull := true, level := 16 } }
  have hp : Posted s1 (s1.postEvent 6 0xFFFF 0 0 0) 6 0xFFFF 0 0 0 := State.posted_postEvent (s := s1) hr _ _ _ _ _
  refine ⟨s1.postEvent 6 0xFFFF 0 0 0, ?_, ?_, ⟨hp.tail, hp.vec, hp.record⟩, ?_⟩
  · rw [exec_fullService, execFullService, State.fullService, hf]
    rfl
  all_goals
    obtain ⟨m, e, h⟩ := s1.postEvent_cases 6 0xFFFF 0 0 0
    rw [h]
  exact ⟨rfl, rfl, rfl⟩

theorem execFullService_once {s : State} (hf : s.mod.full = true) : exec .fullService s = .next s := by
  rw [exec_fullService, execFullService, State.fullService, if_pos hf]

/-! ## Time and power (R105, R354, R356) -/

/-- Two states that differ at most in their clusters. -/
def ClustersOnly (s t : State) : Prop := ∃ c, t = { s with clusters := c }

theorem ClustersOnly.refl (s : State) : ClustersOnly s s := ⟨s.clusters, rfl⟩

theorem ClustersOnly.trans {s t u : State} (h : ClustersOnly s t) (h' : ClustersOnly t u) : ClustersOnly s u := by
  obtain ⟨c, rfl⟩ := h
  obtain ⟨d, rfl⟩ := h'
  exact ⟨d, rfl⟩

theorem State.modCl_clustersOnly (s : State) (n : Nat) (f : Cluster → Cluster) : ClustersOnly s (s.modCl n f) := ⟨_, rfl⟩

theorem foldl_clustersOnly {α : Type} {f : State → α → State} (hf : ∀ s x, ClustersOnly s (f s x)) (l : List α) (s : State) :
    ClustersOnly s (l.foldl f s) := by
  induction l generalizing s with
  | nil => exact .refl s
  | cons x l ih => exact (hf s x).trans (ih _)

theorem iter_clustersOnly {f : Nat → State → State} (hf : ∀ k s, ClustersOnly s (f k s)) (k n : Nat) (s : State) :
    ClustersOnly s (iter f k n s) := by
  induction n generalizing k s with
  | zero => exact .refl s
  | succ n ih => exact (hf k s).trans (ih _ _)

theorem State.sctExpire_clustersOnly (s : State) (cl e : Nat) : ClustersOnly s (s.sctExpire cl e) := by
  unfold State.sctExpire
  dsimp only
  split
  · exact (State.modCl_clustersOnly _ _ _).trans (State.modCl_clustersOnly _ _ _)
  · exact .refl s

theorem State.sctTick_clustersOnly (s : State) (cl : Nat) : ClustersOnly s (s.sctTick cl) := by
  unfold State.sctTick
  exact (State.modCl_clustersOnly s cl _).trans (foldl_clustersOnly (fun s e => s.sctExpire_clustersOnly cl e) _ _)

/-- Microseconds pass for stream contexts alone. -/
theorem State.sctPass_clustersOnly (s : State) (t0 t1 : Time) : ClustersOnly s (s.sctPass t0 t1) := by
  unfold State.sctPass
  refine iter_clustersOnly (fun _ s => ?_) _ _ s
  exact foldl_clustersOnly (fun s c => s.sctTick_clustersOnly (Prod.fst c)) _ s

/-- No microsecond passes where time does not move. -/
theorem State.sctPass_of_same_now {t0 t1 : Time} (h : t1.now = t0.now) (s : State) : s.sctPass t0 t1 = s := by
  simp [State.sctPass, Time.micros, h, iter]

theorem Time.meet_eq_timeMet (t : Time) (ns : Nat) : t.meet ns = timeMet t ns := by
  simp [Time.meet, timeMet, timeUnit]

/-- A source that is not more than 1 ms ahead moves no time at once. -/
theorem timeMet_now {x : Time} {ns : Nat} (h : (ns : Int) * 6486480 - x.now ≤ 1000000 * 6486480) : (timeMet x ns).now = x.now := by
  unfold timeMet
  rw [if_neg (by omega)]

theorem State.timeMeets_meets (s : State) (ns : Nat) : Meets s (s.timeMeets ns) ns := by
  have he : s.timeMeets ns = (withTime s (timeMet s.mod.time ns)).sctPass s.mod.time (timeMet s.mod.time ns) := by
    rw [← Time.meet_eq_timeMet]
    rfl
  rw [he]
  obtain ⟨c, hc⟩ := State.sctPass_clustersOnly (withTime s (timeMet s.mod.time ns)) s.mod.time (timeMet s.mod.time ns)
  refine ⟨?_, fun h => State.sctPass_of_same_now (timeMet_now h) _, ?_, ?_, ?_, ?_⟩
  all_goals
    rw [hc]
    rfl

theorem execPpsEdge_meets {s : State} (h : s.mod.time.src = 2) :
    Answers .ppsEdge s (fun t => Meets s t (s.mod.time.secs * 1000000000)) :=
  ⟨_, by rw [exec_ppsEdge, execPpsEdge, if_pos h], State.timeMeets_meets _ _⟩

theorem execPpsEdge_idle {s : State} (h : s.mod.time.src ≠ 2) : exec .ppsEdge s = .next s := by
  rw [exec_ppsEdge, execPpsEdge, if_neg h]

theorem execPtmExchange_meets {s : State} (ns : Nat) (h : s.mod.time.src = 1) :
    Answers (.ptmExchange ns) s (fun t => Meets s t ns) :=
  ⟨_, by rw [exec_ptmExchange, execPtmExchange, if_pos h], State.timeMeets_meets _ _⟩

theorem execPtmExchange_idle {s : State} (ns : Nat) (h : s.mod.time.src ≠ 1) : exec (.ptmExchange ns) s = .next s := by
  rw [exec_ptmExchange, execPtmExchange, if_neg h]

/-- The clock level moves by one step towards its limit, within its range. -/
theorem Mod.power_level {m : Mod} {top : Nat} (avg : Nat) (ht : top = if m.full = true then 16 else 8) (hlo : 8 ≤ m.level)
    (hhi : m.level ≤ top) :
    (m.trust.pwrlim < avg → (m.power avg).level = max 8 (m.level - 1)) ∧
    (avg < m.trust.pwrlim → (m.power avg).level = min top (m.level + 1)) ∧
    (avg = m.trust.pwrlim → (m.power avg).level = m.level) ∧ 8 ≤ (m.power avg).level ∧ (m.power avg).level ≤ top := by
  have he : (m.power avg).level =
      if m.trust.pwrlim < avg then max 8 (m.level - 1) else if avg < m.trust.pwrlim then min top (m.level + 1) else m.level := by
    rw [ht]
    rfl
  rw [he]
  split
  · omega
  · split <;> omega

theorem execPowerThrottleStep_moves (avg : Nat) (s : State) : Answers (.powerThrottleStep avg) s (fun t =>
    t.mod.trust.pwrnow = avg ∧ t.ctxs = s.ctxs ∧ t.mem = s.mem ∧
    (8 ≤ s.mod.level → s.mod.level ≤ (if s.mod.full = true then 16 else 8) →
      (s.mod.trust.pwrlim < avg → t.mod.level = max 8 (s.mod.level - 1)) ∧
      (avg < s.mod.trust.pwrlim → t.mod.level = min (if s.mod.full = true then 16 else 8) (s.mod.level + 1)) ∧
      (avg = s.mod.trust.pwrlim → t.mod.level = s.mod.level) ∧ 8 ≤ t.mod.level ∧
      t.mod.level ≤ (if s.mod.full = true then 16 else 8))) :=
  ⟨_, rfl, rfl, rfl, rfl, Mod.power_level avg rfl⟩

/-- The events of the module but uncorrectable errors. -/
theorem moduleEvents : ModuleEvents := fun ns avg _ _ s =>
  ⟨execModuleReset_resets s, execFullService_posts, execFullService_once, execPpsEdge_meets, execPpsEdge_idle,
    execPtmExchange_meets ns, execPtmExchange_idle ns, execPowerThrottleStep_moves avg s, _, rfl, rfl⟩

/-! ## The stored bits (R360) -/

/-- An error without a unit leaves the stored bits in the scratchpad word at its address. -/
theorem State.stored_transient (s : State) (hw : Option Nat) (addr : Nat) :
    s.stored hw addr .transient = if addr < 0x60000000 then
      { s with
        draw := s.draw + 1
        mem := { s.mem with spad := hostPut s.mem.spad (addr / 16 * 16) (toBytes (Config.storedBits s.draw) 16) } }
      else { s with draw := s.draw + 1 } := by
  have hp := foldl_write_range' s.mem.spad (addr / 16 * 16) 0 (toBytes (Config.storedBits s.draw) 16)
  rw [toBytes_length, ← List.range_eq_range'] at hp
  simp only [State.stored, State.drawn, State.spadRaw, hp, Nat.add_zero]

/-- It changes nothing but the scratchpad word, and names the next free value. -/
theorem State.stored_transient_cases (s : State) (hw : Option Nat) (addr : Nat) :
    ∃ m, s.stored hw addr .transient = { s with draw := s.draw + 1, mem := { s.mem with spad := m } } := by
  rw [State.stored_transient]
  split
  · exact ⟨_, rfl⟩
  · exact ⟨s.mem.spad, rfl⟩

theorem State.stored_transient_readsStored {s : State} (h : s.mem.spad.wf = true) (hw : Option Nat) (addr : Nat) :
    ReadsStored s (s.stored hw addr .transient) addr s.draw := by
  rw [State.stored_transient]
  split
  · rename_i ha
    refine ⟨fun _ k hk => ?_, fun a hne => ?_, rfl, rfl, rfl, rfl, rfl⟩
    · have hk' : k < (toBytes (Config.storedBits s.draw) 16).length := by rwa [toBytes_length]
      have hr := read_hostPut_same (a := addr / 16 * 16) h hk'
      rwa [toBytes_getElem] at hr
    · exact read_hostPut_other _ h (by rw [toBytes_length]; omega)
  · exact ⟨fun ha => absurd ha ‹_›, fun _ _ => rfl, rfl, rfl, rfl, rfl, rfl⟩

/-! ## ECCU (R360) -/

/-- The pending trap of an uncorrectable error at an address. -/
def eccuTrap (addr : Nat) : Async := ⟨16, BitVec.ofNat 64 addr, 0, 0, 15, 15, false, false⟩

/-- A member's part of `State.eccu`. -/
def State.eccuAt (addr : Nat) (reader : Option Nat) (s : State) (h : Nat) : State :=
  if (s.ctx h).run.st = .inactive then s
  else if reader = some h ∧ (s.ctx h).run.trap = false then s.modCtx h (fun c => { c with soon := c.soon ++ [eccuTrap addr] })
  else s.raise h (eccuTrap addr)

theorem State.eccu_eq_foldl (s : State) (ms : List Nat) (addr : Nat) (reader : Option Nat) :
    s.eccu ms addr reader = ms.foldl (State.eccuAt addr reader) s := rfl

/-- A trap raised on a context changes its pending traps and its course alone. -/
theorem State.raise_cases (s : State) (hw : Nat) (a : Async) : s.raise hw a = s ∧ (s.ctx hw).run.st = .inactive ∨
    ∃ r, s.raise hw a = s.setCtx hw { s.ctx hw with async := (s.ctx hw).async ++ [a], run := r } ∧ (s.ctx hw).run.st ≠ .inactive := by
  unfold State.raise
  split
  · exact .inl ⟨rfl, ‹_›⟩
  · exact .inr ⟨_, rfl, ‹_›⟩

/-- What a member takes: nothing, the trap after its next bundle, or the trap at once. -/
theorem State.eccuAt_cases (addr : Nat) (reader : Option Nat) (s : State) (h : Nat) :
    State.eccuAt addr reader s h = s ∧ (s.ctx h).run.st = .inactive ∨
    State.eccuAt addr reader s h = s.setCtx h { s.ctx h with soon := (s.ctx h).soon ++ [eccuTrap addr] } ∧
      (reader = some h ∧ (s.ctx h).run.trap = false) ∨
    ∃ r, State.eccuAt addr reader s h = s.setCtx h { s.ctx h with async := (s.ctx h).async ++ [eccuTrap addr], run := r } ∧
      ¬(reader = some h ∧ (s.ctx h).run.trap = false) := by
  unfold State.eccuAt
  split
  · exact .inl ⟨rfl, ‹_›⟩
  · split
    · exact .inr (.inl ⟨rfl, ‹_›⟩)
    · obtain ⟨-, hi⟩ | ⟨r, hr, -⟩ := s.raise_cases h (eccuTrap addr)
      · contradiction
      · exact .inr (.inr ⟨r, hr, ‹_›⟩)

theorem State.eccuAt_ctx_other (addr : Nat) (reader : Option Nat) (s : State) (h k : Nat) (hk : k ≠ h) :
    (State.eccuAt addr reader s h).ctx k = s.ctx k := by
  obtain ⟨e, -⟩ | ⟨e, -⟩ | ⟨r, e, -⟩ := State.eccuAt_cases addr reader s h <;> simp [e, hk]

theorem State.eccuAt_ctx_own (addr : Nat) (reader : Option Nat) (s t : State) (h : Nat) (e : s.ctx h = t.ctx h) :
    (State.eccuAt addr reader s h).ctx h = (State.eccuAt addr reader t h).ctx h := by
  unfold State.eccuAt State.raise
  rw [e]
  repeat' split
  all_goals simp [e]

theorem State.eccuAt_regsSame (addr : Nat) (reader : Option Nat) (s : State) (h : Nat) :
    RegsSame (s.ctx h) ((State.eccuAt addr reader s h).ctx h) := by
  obtain ⟨e, -⟩ | ⟨e, -⟩ | ⟨r, e, -⟩ := State.eccuAt_cases addr reader s h <;> constructor <;> simp [e]

/-- Contexts outside the team take nothing. -/
theorem State.eccu_ctx_other {s : State} {ms : List Nat} {k : Nat} (addr : Nat) (reader : Option Nat) (hk : k ∉ ms) :
    (s.eccu ms addr reader).ctx k = s.ctx k :=
  foldl_ctx_other (State.eccuAt_ctx_other addr reader) hk s

theorem State.eccu_ctx_mem {s : State} {ms : List Nat} {k : Nat} (addr : Nat) (reader : Option Nat) (hn : ms.Nodup) (hk : k ∈ ms) :
    (s.eccu ms addr reader).ctx k = (State.eccuAt addr reader s k).ctx k :=
  foldl_ctx_mem (State.eccuAt_ctx_other addr reader) (State.eccuAt_ctx_own addr reader) hn hk s

theorem State.eccu_mem (s : State) (ms : List Nat) (addr : Nat) (reader : Option Nat) : (s.eccu ms addr reader).mem = s.mem := by
  rw [State.eccu_eq_foldl]
  refine foldl_unchanged State.mem ?_ ms s
  intro s h
  obtain ⟨e, -⟩ | ⟨e, -⟩ | ⟨r, e, -⟩ := State.eccuAt_cases addr reader s h
  all_goals rw [e]
  all_goals rfl

theorem State.eccu_mod (s : State) (ms : List Nat) (addr : Nat) (reader : Option Nat) : (s.eccu ms addr reader).mod = s.mod := by
  rw [State.eccu_eq_foldl]
  refine foldl_unchanged State.mod ?_ ms s
  intro s h
  obtain ⟨e, -⟩ | ⟨e, -⟩ | ⟨r, e, -⟩ := State.eccuAt_cases addr reader s h
  all_goals rw [e]
  all_goals rfl

/-- A member that runs takes the trap after its next bundle where it is the reader outside trap mode, and else at once. -/
theorem State.eccuAt_pending {s : State} {h : Nat} (addr : Nat) (reader : Option Nat) (hs : (s.ctx h).run.st ≠ .inactive) :
    let d := (State.eccuAt addr reader s h).ctx h
    if reader = some h ∧ (s.ctx h).run.trap = false then d.soon = (s.ctx h).soon ++ [eccuTrap addr] ∧ d.async = (s.ctx h).async
    else d.async = (s.ctx h).async ++ [eccuTrap addr] ∧ d.soon = (s.ctx h).soon := by
  obtain ⟨-, hi⟩ | ⟨e, hc⟩ | ⟨r, e, hc⟩ := State.eccuAt_cases addr reader s h
  · contradiction
  · rw [if_pos hc, e, State.setCtx_ctx_same]
    exact ⟨rfl, rfl⟩
  · rw [if_neg hc, e, State.setCtx_ctx_same]
    exact ⟨rfl, rfl⟩

theorem State.canRoll_of_no_ckpt {s : State} {ms : List Nat} {h : Nat} (hm : h ∈ ms) (hk : (s.ctx h).ckpt = none) :
    s.canRoll ms = false := by
  unfold State.canRoll
  exact List.all_eq_false.2 ⟨h, hm, by simp [hk]⟩

/-- A team that cannot go back takes the stored bits and ECCU. -/
theorem State.teamError_eccu {s : State} {hw : Nat} (hr : s.rollOf hw = none) (hc : s.canRoll (s.teamMates hw) = false) (addr : Nat)
    (bundle : Bool) : s.teamError hw addr .transient bundle =
      (s.drawn.2.stored (some hw) addr .transient).eccu (s.teamMates hw) addr (if bundle then some hw else none) := by
  simp [State.teamError, hr, hc, State.mapOut]

/-- An error that a context of a team without checkpoints, or its command, reads. -/
theorem State.teamError_members {s : State} {hw : Nat} (hwf : s.mem.spad.wf = true) (hk : ∀ h ∈ s.teamMates hw, (s.ctx h).ckpt = none)
    (hn : (s.teamMates hw).Nodup) (hm : hw ∈ s.teamMates hw) (hr : s.rollOf hw = none) (addr : Nat) (bundle : Bool) :
    let t := s.teamError hw addr .transient bundle
    (∀ h ∈ s.teamMates hw, (s.ctx h).run.st ≠ .inactive →
      if (if bundle then some hw else none) = some h ∧ (s.ctx h).run.trap = false then
        (t.ctx h).soon = (s.ctx h).soon ++ [eccuTrap addr] ∧ (t.ctx h).async = (s.ctx h).async
      else (t.ctx h).async = (s.ctx h).async ++ [eccuTrap addr] ∧ (t.ctx h).soon = (s.ctx h).soon) ∧
    (∀ h, h ∉ s.teamMates hw → t.ctx h = s.ctx h) ∧ (∀ h, RegsSame (s.ctx h) (t.ctx h)) ∧ ReadsStored s t addr (s.draw + 1) ∧
    t.mod = s.mod := by
  intro t
  have ht : t = _ := State.teamError_eccu hr (State.canRoll_of_no_ckpt hm (hk hw hm)) addr bundle
  have hst := State.stored_transient_readsStored (s := s.drawn.2) hwf (some hw) addr
  obtain ⟨m, hu⟩ := s.drawn.2.stored_transient_cases (some hw) addr
  generalize s.drawn.2.stored (some hw) addr .transient = u at ht hst hu
  have hctx : ∀ h, u.ctx h = s.ctx h := fun h => by rw [hu]; rfl
  rw [ht]
  refine ⟨fun h hh hs => ?_, fun h hh => ?_, fun h => ?_, ?_, ?_⟩
  · have hp := State.eccuAt_pending (s := u) addr (if bundle then some hw else none) (by rwa [hctx h])
    rw [State.eccu_ctx_mem _ _ hn hh, ← hctx h]
    exact hp
  · rw [State.eccu_ctx_other _ _ hh, hctx]
  · by_cases hh : h ∈ s.teamMates hw
    · rw [State.eccu_ctx_mem _ _ hn hh, ← hctx h]
      exact State.eccuAt_regsSame _ _ _ _
    · rw [State.eccu_ctx_other _ _ hh, hctx]
      exact ⟨rfl, rfl, rfl, rfl⟩
  · obtain ⟨hword, hspad, hhbm, hhost, himem, hlining, hacs⟩ := hst
    constructor
    all_goals rw [State.eccu_mem]
    all_goals assumption
  · rw [State.eccu_mod, hu]
    rfl

/-- A context's read and its command's reach its team; the bundle makes the read in the first case. -/
theorem exec_uncorrectableError_reader {rd : ErrReader} {hw : Nat} (hrd : rd = .context hw ∨ rd = .command hw) (addr : Nat)
    (unit : ErrUnit) (s : State) :
    exec (.uncorrectableError rd addr unit) s = .next (s.teamError hw addr unit (decide (rd = .context hw))) := by
  obtain rfl | rfl := hrd
  · simp [execUncorrectableError, State.uncorrectable]
  · simp [execUncorrectableError, State.uncorrectable]

theorem execUncorrectableError_eccu {s : State} {hw : Nat} (hwf : s.mem.spad.wf = true)
    (hk : ∀ h ∈ s.teamMates hw, (s.ctx h).ckpt = none) (hn : (s.teamMates hw).Nodup) (hm : hw ∈ s.teamMates hw)
    (hr : s.rollOf hw = none) (addr : Nat) (rd : ErrReader) (hrd : rd = .context hw ∨ rd = .command hw) :
    Answers (.uncorrectableError rd addr .transient) s (fun t =>
      let e : Async := ⟨16, BitVec.ofNat 64 addr, 0, 0, 15, 15, false, false⟩
      (∀ h ∈ s.teamMates hw, (s.ctx h).run.st ≠ .inactive →
        if rd = .context hw ∧ h = hw ∧ (s.ctx hw).run.trap = false then
          (t.ctx h).soon = (s.ctx h).soon ++ [e] ∧ (t.ctx h).async = (s.ctx h).async
        else (t.ctx h).async = (s.ctx h).async ++ [e] ∧ (t.ctx h).soon = (s.ctx h).soon) ∧
      (∀ h, h ∉ s.teamMates hw → t.ctx h = s.ctx h) ∧ (∀ h, RegsSame (s.ctx h) (t.ctx h)) ∧ ReadsStored s t addr (s.draw + 1) ∧
      t.mod = s.mod) := by
  obtain ⟨hpend, hrest⟩ := State.teamError_members hwf hk hn hm hr addr (decide (rd = .context hw))
  refine ⟨_, exec_uncorrectableError_reader hrd addr .transient s, fun h hh hs => ?_, hrest⟩
  have hiff : ((if decide (rd = .context hw) = true then some hw else none) = some h ∧ (s.ctx h).run.trap = false) ↔
      (rd = .context hw ∧ h = hw ∧ (s.ctx hw).run.trap = false) := by
    by_cases hc : rd = .context hw
    · by_cases e : h = hw
      · simp [hc, e]
      · simp [hc, e, Ne.symm e]
    · simp [hc]
  have hp := hpend h hh hs
  simp only [hiff] at hp
  exact hp

/-! ## Rollback (R242, R359) -/

/-- A switch cycle that is due changes cores alone. -/
theorem State.switchNext_cases (t s : State) (hw : Nat) : ∃ k, t.switchNext s hw = { t with cores := k } := by
  unfold State.switchNext
  split
  · exact ⟨_, rfl⟩
  · exact ⟨t.cores, rfl⟩

/-- A member's part of `State.rollStop`: it stops before its next bundle. -/
def State.rollStopAt (s : State) (h : Nat) : State :=
  (((s.modCtx h (fun c => { c with
    pend := Pending.none
    run := { c.run with st := .waiting, stage := .rolling } })).dropAsks h).leavePrimary h).switchNext s h

theorem State.rollStopAt_cases (s : State) (h : Nat) : ∃ m f k r, s.rollStopAt h =
    { s with mod := m, front := f, cores := k, ctxs := SMap.put s.ctxs h { s.ctx h with pend := Pending.none, run := r } } := by
  obtain ⟨k, e⟩ := State.switchNext_cases (((s.modCtx h (fun c => { c with
    pend := Pending.none
    run := { c.run with st := .waiting, stage := .rolling } })).dropAsks h).leavePrimary h) s h
  exact ⟨_, _, k, _, e⟩

theorem State.rollStopAt_ctx_other (s : State) (h k : Nat) (hk : k ≠ h) : (s.rollStopAt h).ctx k = s.ctx k := by
  obtain ⟨_, _, _, _, e⟩ := s.rollStopAt_cases h
  rw [e]
  exact SMap.getD_put_other _ _ _ hk

theorem State.rollStopAt_ckpt (s : State) (h k : Nat) : ((s.rollStopAt h).ctx k).ckpt = (s.ctx k).ckpt := by
  by_cases hk : k = h
  · subst hk
    obtain ⟨_, _, _, _, e⟩ := s.rollStopAt_cases k
    rw [e, State.ctx, SMap.getD_put_same]
  · rw [State.rollStopAt_ctx_other _ _ _ hk]

/-- A cluster's part of `State.rollStop`. -/
def Cluster.rollStopped (c : Cluster) (ms : List Nat) (r : Roll) : Cluster :=
  { c with
    slots := c.slots.map (fun x => if ms.contains x.2.owner then (x.1, x.2.rolledBack) else x)
    rolls := c.rolls ++ [r] }

/-- The state in which the members of a team that goes back stop: its cores and its cluster have dropped its work. -/
def State.rollDropped (s : State) (ms : List Nat) (cl : Nat) (r : Roll) : State :=
  (((ms.map coreOf).dedup).foldl (fun s k => s.modCore k (fun x => x.rolledBack ms)) s).modCl cl (fun c => c.rollStopped ms r)

theorem State.rollStop_eq (s : State) (ms : List Nat) (cl : Nat) (r : Roll) :
    s.rollStop ms cl r = ms.foldl State.rollStopAt (s.rollDropped ms cl r) := rfl

theorem State.rollDropped_ctxs (s : State) (ms : List Nat) (cl : Nat) (r : Roll) : (s.rollDropped ms cl r).ctxs = s.ctxs := by
  rw [State.rollDropped, State.modCl_ctxs]
  refine foldl_unchanged State.ctxs ?_ _ _
  exact fun _ _ => rfl

theorem State.rollDropped_mem (s : State) (ms : List Nat) (cl : Nat) (r : Roll) : (s.rollDropped ms cl r).mem = s.mem := by
  rw [State.rollDropped, State.modCl_mem]
  refine foldl_unchanged State.mem ?_ _ _
  exact fun _ _ => rfl

theorem State.rollDropped_cluster (s : State) (ms : List Nat) (cl : Nat) (r : Roll) :
    (s.rollDropped ms cl r).cluster cl = (s.cluster cl).rollStopped ms r := by
  rw [State.rollDropped, State.modCl_cluster_same]
  refine foldl_unchanged (fun s => (s.cluster cl).rollStopped ms r) ?_ _ _
  exact fun _ _ => rfl

theorem State.rollStop_ctx_other {s : State} {ms : List Nat} {h : Nat} (cl : Nat) (r : Roll) (hh : h ∉ ms) :
    (s.rollStop ms cl r).ctx h = s.ctx h := by
  rw [State.rollStop_eq, foldl_ctx_other State.rollStopAt_ctx_other hh, State.ctx, State.rollDropped_ctxs]
  rfl

theorem State.rollStop_ckpt (s : State) (ms : List Nat) (cl : Nat) (r : Roll) (h : Nat) :
    ((s.rollStop ms cl r).ctx h).ckpt = (s.ctx h).ckpt := by
  rw [State.rollStop_eq, foldl_unchanged (fun s => (s.ctx h).ckpt) (fun s k => s.rollStopAt_ckpt k h), State.ctx,
    State.rollDropped_ctxs]
  rfl

theorem State.rollStop_mem (s : State) (ms : List Nat) (cl : Nat) (r : Roll) : (s.rollStop ms cl r).mem = s.mem := by
  rw [State.rollStop_eq, foldl_unchanged State.mem, State.rollDropped_mem]
  intro s h
  obtain ⟨_, _, _, _, e⟩ := s.rollStopAt_cases h
  rw [e]

theorem State.rollStop_cluster (s : State) (ms : List Nat) (cl : Nat) (r : Roll) :
    (s.rollStop ms cl r).cluster cl = (s.cluster cl).rollStopped ms r := by
  rw [State.rollStop_eq, ← State.rollDropped_cluster]
  refine foldl_unchanged (fun s => s.cluster cl) ?_ ms _
  intro s h
  obtain ⟨_, _, _, _, e⟩ := s.rollStopAt_cases h
  rw [e]
  rfl

/-- Copies in flight go on when their team stops. -/
theorem State.copiesDone_rollStop (s : State) (ms : List Nat) (cl : Nat) (r : Roll) :
    (s.rollStop ms cl r).copiesDone ms cl = s.copiesDone ms cl := by
  rw [State.copiesDone, State.rollStop_cluster, Cluster.rollStopped, List.all_map, State.copiesDone]
  congr 1
  funext x
  dsimp only [Function.comp]
  split <;> rfl

/-- A core that goes back changes its work and its scratchpad alone. -/
theorem State.rollCore_cases (s : State) (ms : List Nat) (team core : Nat) :
    ∃ k m, s.rollCore ms team core = { s with cores := k, mem := { s.mem with spad := m } } := by
  unfold State.rollCore
  dsimp only
  split
  · exact ⟨_, _, rfl⟩
  · exact ⟨_, s.mem.spad, rfl⟩

theorem State.rollBase_ctxs (s : State) (ms : List Nat) (mark : Nat) : (s.rollBase ms mark).ctxs = s.ctxs := by
  unfold State.rollBase
  refine foldl_unchanged State.ctxs ?_ _ _
  exact fun _ _ => rfl

theorem State.rollBase_mem (s : State) (ms : List Nat) (mark : Nat) : (s.rollBase ms mark).mem = s.mem := by
  unfold State.rollBase
  refine foldl_unchanged State.mem ?_ _ _
  exact fun _ _ => rfl

/-- The state in which the members' contexts go back: its cores, its cluster and the task queues of the base die have. -/
def State.rolledBase (s : State) (ms : List Nat) (cl team mark : Nat) : State :=
  ((((ms.map coreOf).dedup).foldl (fun s k => s.rollCore ms team k) s).modCl cl (fun c => c.rolledBack ms team mark)).rollBase ms mark

theorem State.rollback_eq (s : State) (ms : List Nat) (cl team mark : Nat) :
    s.rollback ms cl team mark = ms.foldl State.rollCtx (s.rolledBase ms cl team mark) := rfl

theorem State.rolledBase_ctxs (s : State) (ms : List Nat) (cl team mark : Nat) : (s.rolledBase ms cl team mark).ctxs = s.ctxs := by
  rw [State.rolledBase, State.rollBase_ctxs, State.modCl_ctxs]
  refine foldl_unchanged State.ctxs ?_ _ s
  intro s k
  obtain ⟨_, _, e⟩ := s.rollCore_cases ms team k
  rw [e]

theorem State.rolledBase_hbm (s : State) (ms : List Nat) (cl team mark : Nat) :
    (s.rolledBase ms cl team mark).mem.hbm = s.mem.hbm := by
  rw [State.rolledBase, State.rollBase_mem, State.modCl_mem]
  refine foldl_unchanged (fun s => s.mem.hbm) ?_ _ s
  intro s k
  obtain ⟨_, _, e⟩ := s.rollCore_cases ms team k
  rw [e]

theorem State.rollCtx_ctx_other (s : State) (h k : Nat) (hk : k ≠ h) : (s.rollCtx h).ctx k = s.ctx k := by
  unfold State.rollCtx
  split
  · exact State.setCtx_ctx_other _ _ hk
  · rfl

theorem State.rollCtx_ctx_same {s : State} {h : Nat} {k : Ckpt} (hk : (s.ctx h).ckpt = some k) :
    (s.rollCtx h).ctx h = (s.ctx h).rollTo k := by
  simp [State.rollCtx, hk]

theorem State.rollCtx_ctx_own (s t : State) (h : Nat) (e : s.ctx h = t.ctx h) : (s.rollCtx h).ctx h = (t.rollCtx h).ctx h := by
  cases hk : (t.ctx h).ckpt with
  | none => simp [State.rollCtx, e, hk]
  | some k => rw [State.rollCtx_ctx_same (e ▸ hk), State.rollCtx_ctx_same hk, e]

theorem State.rollback_ctx_other {s : State} {ms : List Nat} {h : Nat} (cl team mark : Nat) (hh : h ∉ ms) :
    (s.rollback ms cl team mark).ctx h = s.ctx h := by
  rw [State.rollback_eq, foldl_ctx_other State.rollCtx_ctx_other hh, State.ctx, State.rolledBase_ctxs]
  rfl

/-- Each member with a checkpoint goes back to it. -/
theorem State.rollback_ctx_mem {s : State} {ms : List Nat} {h : Nat} {k : Ckpt} (cl team mark : Nat) (hn : ms.Nodup) (hh : h ∈ ms)
    (hk : (s.ctx h).ckpt = some k) : (s.rollback ms cl team mark).ctx h = (s.ctx h).rollTo k := by
  have hc : (s.rolledBase ms cl team mark).ctx h = s.ctx h := by
    rw [State.ctx, State.rolledBase_ctxs]
    rfl
  rw [State.rollback_eq, foldl_ctx_mem State.rollCtx_ctx_other State.rollCtx_ctx_own hn hh, State.rollCtx_ctx_same (hc ▸ hk), hc]

theorem State.rollback_hbm (s : State) (ms : List Nat) (cl team mark : Nat) : (s.rollback ms cl team mark).mem.hbm = s.mem.hbm := by
  rw [State.rollback_eq, ← State.rolledBase_hbm s ms cl team mark]
  refine foldl_unchanged (fun s => s.mem.hbm) ?_ ms _
  intro s h
  unfold State.rollCtx
  split <;> rfl

/-- A team that can go back, and that has no copy in flight, does so at once. -/
theorem State.teamError_rollback {s : State} {hw : Nat} (hr : s.rollOf hw = none) (hc : s.canRoll (s.teamMates hw) = true)
    (hd : s.copiesDone (s.teamMates hw) (clusterOf hw) = true) (addr : Nat) (bundle : Bool) :
    ∃ r : Roll, s.teamError hw addr .transient bundle =
      (s.drawn.2.rollStop (s.teamMates hw) (clusterOf hw) r).rollback (s.teamMates hw) (clusterOf hw) r.team r.mark := by
  let r : Roll := ⟨s.teamMates hw, (s.ctx hw).teamNo, s.releaseMark (s.teamMates hw), .transient⟩
  have hd' : (s.drawn.2.rollStop (s.teamMates hw) (clusterOf hw) r).copiesDone r.hws (clusterOf hw) = true :=
    (State.copiesDone_rollStop _ _ _ _).trans hd
  have he : s.teamError hw addr .transient bundle = (s.drawn.2.rollStop (s.teamMates hw) (clusterOf hw) r).rollEnd (clusterOf hw) r := by
    simp [State.teamError, hr, hc, r]
  refine ⟨r, ?_⟩
  rw [he, State.rollEnd, if_pos hd']
  rfl

theorem execUncorrectableError_rollback {s : State} {hw : Nat} (addr : Nat) (k : Ckpt) (rd : ErrReader)
    (hrd : rd = .context hw ∨ rd = .command hw) (hm : s.teamMates hw = [hw]) (hr : s.rollOf hw = none)
    (hk : (s.ctx hw).ckpt = some k) (hu : k.usable = true) (hd : s.copiesDone [hw] (clusterOf hw) = true) :
    Answers (.uncorrectableError rd addr .transient) s (fun t =>
      let d := t.ctx hw
      d.regs.s = k.regs.s ∧ d.regs.c = k.regs.c ∧ d.regs.p = k.regs.p ∧ d.fmt = { k.fmt with tok := [] } ∧ d.frame = k.frame ∧
      d.pend = ⟨[], [], [], []⟩ ∧ d.run.st = .ready ∧ d.run.sched = k.sched ∧ d.run.h = k.h ∧ d.run.slack = k.slack ∧
      d.run.slackRem = k.slackRem ∧ d.run.barPass = true ∧ (∀ h, h ≠ hw → t.ctx h = s.ctx h) ∧ t.mem.hbm = s.mem.hbm) := by
  have hc : s.canRoll (s.teamMates hw) = true := by simp [State.canRoll, hm, hk, hu]
  obtain ⟨r, he⟩ := State.teamError_rollback hr hc (hm ▸ hd) addr (decide (rd = .context hw))
  rw [hm] at he
  refine ⟨_, (exec_uncorrectableError_reader hrd addr .transient s).trans (congrArg _ he), ?_⟩
  have hk' : ((s.drawn.2.rollStop [hw] (clusterOf hw) r).ctx hw).ckpt = some k := (State.rollStop_ckpt _ _ _ _ _).trans hk
  have hctx := State.rollback_ctx_mem (clusterOf hw) r.team r.mark (List.nodup_singleton hw) (List.mem_singleton_self hw) hk'
  dsimp only
  rw [hctx]
  refine ⟨rfl, rfl, rfl, rfl, rfl, rfl, rfl, rfl, rfl, rfl, rfl, rfl, fun h hne => ?_, ?_⟩
  · have hh : h ∉ [hw] := fun e => hne (List.mem_singleton.1 e)
    rw [State.rollback_ctx_other _ _ _ hh, State.rollStop_ctx_other _ _ hh]
    rfl
  · rw [State.rollback_hbm, State.rollStop_mem]
    rfl

/-! ## Errors that the host reads (R358, R359, R361) -/

/-- The host's read takes the stored bits, and the error is logged. -/
theorem execUncorrectableError_host {s : State} (hwf : s.mem.spad.wf = true) (addr : Nat) :
    Answers (.uncorrectableError .host addr .transient) s (fun t =>
      let k := addr / 0xC000000 % 8
      t.mod = (withTrust s { s.mod.trust with
        errlog := SMap.put s.mod.trust.errlog k (SMap.getD s.mod.trust.errlog k 0 + 1) }).mod ∧
      ReadsStored s t addr s.draw ∧ t.ctxs = s.ctxs ∧ t.cores = s.cores ∧ t.clusters = s.clusters ∧ t.front = s.front) := by
  have hst := State.stored_transient_readsStored hwf none addr
  obtain ⟨m, hu⟩ := s.stored_transient_cases none addr
  refine ⟨(s.stored none addr .transient).modTrust (fun t => t.logError (errLog .transient addr)), rfl, ?_⟩
  rw [hu] at hst ⊢
  exact ⟨rfl, ⟨hst.word, hst.spad, rfl, rfl, rfl, rfl, rfl⟩, rfl, rfl, rfl, rfl⟩

/-- A core that has no row mapped out maps a failing one to its first spare row, with the event. -/
theorem State.mapOut_first_row {s : State} {core : Nat} (row : Nat) (hm : (s.auxOf core).rowMap = []) :
    (s.mapOut (.arrayRow core row)).1 = (s.modAux core (fun a => { a with rowMap := [(row, 64)] })).postEvent 7 0xFFFF
      (2 ^ 28 + core % 2 ^ 12 * 2 ^ 16 + row % 2 ^ 16) 0 0 := by
  simp [State.mapOut, State.modAux, CoreAux.rowsUsed, hm, SMap.put]

theorem State.stored_arrayRow (s : State) (hw : Option Nat) (addr core row : Nat) :
    s.stored hw addr (.arrayRow core row) =
      s.drawn.2.acsWrite core (addr / 64 % 16) row (addr % 64) (BitVec.ofNat 32 (Config.storedBits s.draw)) := rfl

theorem execUncorrectableError_row {s : State} {core : Nat} (addr row : Nat) (hm : (s.auxOf core).rowMap = []) (hr : EventRoom s) :
    Answers (.uncorrectableError .host addr (.arrayRow core row)) s (fun t =>
      (t.auxOf core).rowMap = [(row, 64)] ∧
      (∀ n, SMap.getD t.mem.acs n 0 = if n = tileKey core (addr / 64 % 16) row (addr % 64) then
        BitVec.ofNat 32 (Config.storedBits s.draw) else SMap.getD s.mem.acs n 0) ∧
      Posted s t 7 0xFFFF (2 ^ 28 + core % 2 ^ 12 * 2 ^ 16 + row % 2 ^ 16) 0 0 ∧ t.ctxs = s.ctxs) := by
  let u := s.modAux core (fun a => { a with rowMap := [(row, 64)] })
  let d := 2 ^ 28 + core % 2 ^ 12 * 2 ^ 16 + row % 2 ^ 16
  have hp : Posted u (u.postEvent 7 0xFFFF d 0 0) 7 0xFFFF d 0 0 := State.posted_postEvent (s := u) hr _ _ _ _ _
  have hu : (u.auxOf core).rowMap = [(row, 64)] := by rw [State.modAux_auxOf_same]
  obtain ⟨m, e, hv⟩ := u.postEvent_cases 7 0xFFFF d 0 0
  refine ⟨((u.postEvent 7 0xFFFF d 0 0).stored none addr (.arrayRow core row)).modTrust (fun t =>
    t.logError (errLog (.arrayRow core row) addr)), ?_, ?_⟩
  · rw [exec_uncorrectableError, execUncorrectableError, State.uncorrectable, State.mapOut_first_row row hm]
  · rw [State.stored_arrayRow]
    refine ⟨?_, fun n => ?_, ⟨hp.tail, hp.vec, hp.record⟩, ?_⟩
    all_goals rw [hv]
    · exact hu
    · split
      · subst_vars
        exact SMap.getD_put_same _ _ _ _
      · exact SMap.getD_put_other _ _ _ ‹_›
    · rfl

/-- Uncorrectable errors. -/
theorem uncorrectableErrors : UncorrectableErrors := fun _ addr row _ _ hwf =>
  ⟨fun hk hn hm hr rd hrd => execUncorrectableError_eccu hwf hk hn hm hr addr rd hrd,
    fun k rd hrd hm hr hk hu hd => execUncorrectableError_rollback addr k rd hrd hm hr hk hu hd,
    execUncorrectableError_host hwf addr, fun hm hr => execUncorrectableError_row addr row hm hr⟩

/-- Settles O54: the events of the module one by one, and the readers of an uncorrectable error one by one. -/
theorem moduleErrorEvents : Obligations.ModuleErrorEvents := ⟨moduleEvents, uncorrectableErrors⟩

end Sys2Proof.Machine
end

section
/-!
PROOF. The landing of results at their schedule cycle (R11, R31, R56, R110, R111, R125, R130, R141).
-/

namespace Sys2Proof.Machine

open Sys2Proof.Claims

/-! ## Bytes under a mask (R130) -/

/-- The number that `spread` sums up over the first `n` bytes, on top of any multiple of what those bytes hold, bit by bit. -/
theorem testBit_byteSum (m : PReg) (n x i : Nat) :
    ((List.range n).foldr (fun k a => if m.getLsbD k then a + 255 * 2 ^ (8 * k) else a) (2 ^ (8 * n) * x)).testBit i =
      if i < 8 * n then m.getLsbD (i / 8) else x.testBit (i - 8 * n) := by
  induction n generalizing x with
  | zero => simp
  | succ n ih =>
    have hstep : (if m.getLsbD n then 2 ^ (8 * (n + 1)) * x + 255 * 2 ^ (8 * n) else 2 ^ (8 * (n + 1)) * x) =
        2 ^ (8 * n) * (2 ^ 8 * x + if m.getLsbD n then 2 ^ 8 - 1 else 0) := by
      rw [show 8 * (n + 1) = 8 * n + 8 by omega, pow_add]
      split <;> ring
    have hlt : (if m.getLsbD n then 2 ^ 8 - 1 else 0) < 2 ^ 8 := by split <;> decide
    rw [List.range_succ, List.foldr_append, List.foldr_cons, List.foldr_nil, hstep, ih, Nat.testBit_two_pow_mul_add _ hlt]
    by_cases h1 : i < 8 * n
    · rw [if_pos h1, if_pos (by omega)]
    · rw [if_neg h1]
      by_cases h2 : i < 8 * (n + 1)
      · have hb : i - 8 * n < 8 := by omega
        rw [if_pos hb, if_pos h2, show i / 8 = n by omega]
        cases m.getLsbD n
        · simp
        · simp only [if_true, Nat.testBit_two_pow_sub_one, hb, decide_true]
      · rw [if_neg (by omega), if_neg h2, show i - 8 * n - 8 = i - 8 * (n + 1) by omega]

theorem getLsbD_spread (m : PReg) {i : Nat} (hi : i < 4096) : (spread m).getLsbD i = m.getLsbD (i / 8) := by
  have hb : i / 8 < 512 := by omega
  unfold spread
  split
  · subst m
    rw [BitVec.getLsbD_allOnes, BitVec.getLsbD_allOnes, decide_eq_true hi, decide_eq_true hb]
  · have h := testBit_byteSum m 512 0 i
    rw [if_pos hi, Nat.mul_zero] at h
    rw [BitVec.getLsbD_ofNat, h, decide_eq_true hi, Bool.true_and]

theorem testBit_elem_one (v b j : Nat) : (elem v 1 b).testBit j = (decide (j < 8) && v.testBit (8 * b + j)) := by
  rw [elem, Nat.testBit_mod_two_pow, Nat.testBit_div_two_pow, Nat.mul_one, Nat.add_comm]

/-- A merged register holds the new bytes where the mask does, and the old ones elsewhere. -/
theorem elem_mergeV (old v : VReg) (m : PReg) {b : Nat} (hb : b < 512) :
    elem (mergeV old v m).toNat 1 b = elem (if m.getLsbD b = true then v else old).toNat 1 b := by
  refine Nat.eq_of_testBit_eq fun j => ?_
  rw [testBit_elem_one, testBit_elem_one]
  by_cases hj : j < 8
  · have hi : 8 * b + j < 4096 := by omega
    have hs := getLsbD_spread m hi
    rw [show (8 * b + j) / 8 = b by omega] at hs
    simp only [BitVec.testBit_toNat, mergeV, BitVec.getLsbD_or, BitVec.getLsbD_and, BitVec.getLsbD_not, hs, decide_eq_true hi]
    cases m.getLsbD b <;> simp
  · rw [decide_eq_false hj, Bool.false_and, Bool.false_and]

/-! ## Condition registers after a write (R111) -/

theorem getLsbD_one_shiftLeft {n k : Nat} (hk : k < 8) : (1#8 <<< n).getLsbD k = decide (k = n) := by
  rw [Bool.eq_iff_iff, BitVec.getLsbD_shiftLeft, BitVec.getLsbD_one]
  simp only [Bool.and_eq_true, decide_eq_true_eq, Bool.not_eq_true', decide_eq_false_iff_not]
  omega

/-- A written condition register reads the new value, every other one its old value. -/
theorem Ctx.creg_setC (c : Ctx) {n k : Nat} (b : Bool) (hn : n ≠ 0) (hk : k < 8) :
    (c.setC n b).creg k = if k = n then b else c.creg k := by
  rw [Ctx.setC, if_neg hn]
  cases b
  all_goals
    simp only [Ctx.creg, Bool.false_eq_true, if_true, if_false, BitVec.getLsbD_or, BitVec.getLsbD_and, BitVec.getLsbD_not,
      getLsbD_one_shiftLeft hk, decide_eq_true hk]
    by_cases h : k = n
    · simp [h, hn]
    · simp [h]

theorem Ctx.creg_setC_other (c : Ctx) {n k : Nat} (b : Bool) (h : k ≠ n) (hk : k < 8) : (c.setC n b).creg k = c.creg k := by
  by_cases hn : n = 0
  · rw [Ctx.setC, if_pos hn]
  · rw [c.creg_setC b hn hk, if_neg h]

/-! ## A write of one kind of register leaves the other kinds alone -/

@[simp] theorem Ctx.setC_sreg (c : Ctx) (n : Nat) (b : Bool) (k : Nat) : (c.setC n b).sreg k = c.sreg k := by
  unfold Ctx.setC; split <;> rfl
@[simp] theorem Ctx.setV_sreg (c : Ctx) (n : Nat) (v : VReg) (m : PReg) (k : Nat) : (c.setV n v m).sreg k = c.sreg k := rfl
@[simp] theorem Ctx.setP_sreg (c : Ctx) (n : Nat) (v m : PReg) (k : Nat) : (c.setP n v m).sreg k = c.sreg k := by
  unfold Ctx.setP; split <;> rfl
@[simp] theorem Ctx.setS_creg (c : Ctx) (n : Nat) (v : Word) (k : Nat) : (c.setS n v).creg k = c.creg k := by
  unfold Ctx.setS; (repeat' split) <;> rfl
@[simp] theorem Ctx.setV_creg (c : Ctx) (n : Nat) (v : VReg) (m : PReg) (k : Nat) : (c.setV n v m).creg k = c.creg k := rfl
@[simp] theorem Ctx.setP_creg (c : Ctx) (n : Nat) (v m : PReg) (k : Nat) : (c.setP n v m).creg k = c.creg k := by
  unfold Ctx.setP; split <;> rfl
@[simp] theorem Ctx.setS_vreg (c : Ctx) (n : Nat) (v : Word) (k : Nat) : (c.setS n v).vreg k = c.vreg k := by
  unfold Ctx.setS; (repeat' split) <;> rfl
@[simp] theorem Ctx.setC_vreg (c : Ctx) (n : Nat) (b : Bool) (k : Nat) : (c.setC n b).vreg k = c.vreg k := by
  unfold Ctx.setC; split <;> rfl
@[simp] theorem Ctx.setP_vreg (c : Ctx) (n : Nat) (v m : PReg) (k : Nat) : (c.setP n v m).vreg k = c.vreg k := by
  unfold Ctx.setP; split <;> rfl
@[simp] theorem Ctx.setS_preg (c : Ctx) (n : Nat) (v : Word) (k : Nat) : (c.setS n v).preg k = c.preg k := by
  unfold Ctx.setS; (repeat' split) <;> rfl
@[simp] theorem Ctx.setC_preg (c : Ctx) (n : Nat) (b : Bool) (k : Nat) : (c.setC n b).preg k = c.preg k := by
  unfold Ctx.setC; split <;> rfl
@[simp] theorem Ctx.setV_preg (c : Ctx) (n : Nat) (v : VReg) (m : PReg) (k : Nat) : (c.setV n v m).preg k = c.preg k := rfl

/-! ## One result reaches its register -/

/-- The write of a landing result to its register, without its flags and its token. -/
def Ctx.written (c : Ctx) (p : Pend) : Ctx :=
  match p.dest with
  | .s n => c.setS n (BitVec.ofNat 64 p.val.toNat)
  | .c n => c.setC n (p.val.getLsbD 0)
  | .v n => c.setV n (c.landing p) p.mask
  | .p n => c.setP n (BitVec.ofNat 512 p.val.toNat) p.mask
  | .fmt => { c with fmt := { c.fmt with fmt := BitVec.ofNat 32 p.val.toNat } }

/-- A landing is the write, then the flags, then the token of an MRDV. -/
theorem Ctx.landOne_cases (c : Ctx) (p : Pend) :
    c.landOne p = (c.written p).orFlags p.flags ∨ c.landOne p = ((c.written p).orFlags p.flags).tokDown p.tok := by
  cases h : p.acs with
  | none => exact .inl (by unfold Ctx.landOne; rw [h]; rfl)
  | some _ => exact .inr (by unfold Ctx.landOne; rw [h]; rfl)

/-- What neither flags nor tokens touch is after a landing what it is after the write. -/
theorem Ctx.landOne_eq_written {β : Type} (f : Ctx → β) (hf : ∀ d g, f (Ctx.orFlags d g) = f d)
    (ht : ∀ d n, f (Ctx.tokDown d n) = f d) (c : Ctx) (p : Pend) : f (c.landOne p) = f (c.written p) := by
  obtain h | h := c.landOne_cases p
  · rw [h, hf]
  · rw [h, ht, hf]

theorem Ctx.written_sreg_other (c : Ctx) {p : Pend} {n : Nat} (h : p.dest ≠ .s n) : (c.written p).sreg n = c.sreg n := by
  unfold Ctx.written
  split
  case h_1 k hd => exact c.sreg_setS_other _ fun e => h (e ▸ hd)
  case h_5 => rfl
  all_goals simp

theorem Ctx.written_creg_other (c : Ctx) {p : Pend} {n : Nat} (h : p.dest ≠ .c n) (hn : n < 8) :
    (c.written p).creg n = c.creg n := by
  unfold Ctx.written
  split
  case h_2 k hd => exact c.creg_setC_other _ (fun e => h (e ▸ hd)) hn
  case h_5 => rfl
  all_goals simp

theorem Ctx.written_vreg_other (c : Ctx) {p : Pend} {n : Nat} (h : p.dest ≠ .v n) : (c.written p).vreg n = c.vreg n := by
  unfold Ctx.written
  split
  case h_3 k hd => exact c.vreg_setV_other _ _ fun e => h (e ▸ hd)
  case h_5 => rfl
  all_goals simp

theorem Ctx.written_preg_other (c : Ctx) {p : Pend} {n : Nat} (h : p.dest ≠ .p n) : (c.written p).preg n = c.preg n := by
  unfold Ctx.written
  split
  case h_4 k hd => exact c.preg_setP_other _ _ fun e => h (e ▸ hd)
  case h_5 => rfl
  all_goals simp

/-- The write is the landing that the statement speaks of: hard-wired registers discard it, a mask selects bytes and bits. -/
theorem Ctx.written_landsAt (c : Ctx) (p : Pend) : LandsAt c (c.written p) p := by
  unfold LandsAt
  split
  case h_1 n hd =>
    simp only [Ctx.written, hd]
    by_cases hn : n = 0
    · subst n
      rfl
    · rw [c.sreg_setS_same _ hn, if_neg hn]
  case h_2 n hd =>
    simp only [Ctx.written, hd]
    intro hk
    by_cases hn : n = 0
    · subst n
      rfl
    · rw [c.creg_setC _ hn hk, if_pos rfl, if_neg hn]
  case h_3 n hd =>
    simp only [Ctx.written, hd]
    intro b hb
    rw [c.vreg_setV_same, elem_mergeV _ _ _ hb, Ctx.landing, hd]
  case h_4 n hd =>
    simp only [Ctx.written, hd]
    intro b hb
    by_cases hn : n = 0
    · subst n
      rw [Ctx.preg_zero, BitVec.getLsbD_allOnes, decide_eq_true hb, if_pos rfl]
    · rw [c.preg_setP_same _ _ hn, if_neg hn]
      simp only [BitVec.getLsbD_or, BitVec.getLsbD_and, BitVec.getLsbD_not, BitVec.getLsbD_ofNat, BitVec.testBit_toNat,
        decide_eq_true hb]
      cases p.mask.getLsbD b <;> simp
  case h_5 hd => simp only [Ctx.written, hd]

theorem Ctx.landOne_landsAt (c : Ctx) (p : Pend) : LandsAt c (c.landOne p) p := by
  obtain h | h := c.landOne_cases p
  all_goals
    rw [h]
    exact c.written_landsAt p

@[simp] theorem Ctx.written_flg (c : Ctx) (p : Pend) : (c.written p).fmt.flg = c.fmt.flg := by
  unfold Ctx.written
  split <;> simp

theorem Ctx.landOne_flg (c : Ctx) (p : Pend) : (c.landOne p).fmt.flg = c.fmt.flg ||| p.flags := by
  rw [← c.written_flg p]
  obtain h | h := c.landOne_cases p
  all_goals
    rw [h]
    rfl

@[simp] theorem Ctx.written_pend (c : Ctx) (p : Pend) : (c.written p).pend = c.pend := by
  unfold Ctx.written
  split <;> simp

theorem notLanded_trans {c d e : Ctx} (h : NotLanded c d) (h' : NotLanded d e) : NotLanded c e :=
  ⟨h'.frame.trans h.frame, h'.tframe.trans h.tframe, h'.ctl.trans h.ctl, h'.run.trans h.run, h'.eng.trans h.eng,
    ⟨h'.frozen.1.trans h.frozen.1, h'.frozen.2.trans h.frozen.2⟩, h'.perf.trans h.perf, h'.energy.trans h.energy⟩

theorem Ctx.landOne_notLanded (c : Ctx) (p : Pend) : NotLanded c (c.landOne p) := by
  have hw : NotLanded c (c.written p) := by
    unfold Ctx.written
    split
    all_goals constructor <;> simp
  obtain h | h := c.landOne_cases p
  all_goals
    rw [h]
    exact notLanded_trans hw ⟨rfl, rfl, rfl, rfl, rfl, ⟨rfl, rfl⟩, rfl, rfl⟩

/-! ## Everything that is due lands -/

/-- The value results due at the schedule cycle. -/
def Ctx.dueVal (c : Ctx) : List Pend := c.pend.val.filter (fun p => decide (p.land ≤ c.run.sched))
/-- The flag-only updates due at the schedule cycle. -/
def Ctx.dueFlg (c : Ctx) : List FPend := c.pend.flg.filter (fun p => decide (p.land ≤ c.run.sched))
/-- The context with what is due taken from its pending results. -/
def Ctx.undue (c : Ctx) : Ctx :=
  { c with pend := { c.pend with
    val := c.pend.val.filter (fun p => decide (c.run.sched < p.land))
    flg := c.pend.flg.filter (fun p => decide (c.run.sched < p.land)) } }

theorem Ctx.land_eq (c : Ctx) :
    c.land = c.dueFlg.foldl (fun d f => d.orFlags f.flags) (c.dueVal.foldl Ctx.landOne c.undue) := by
  simp only [Ctx.land, Ctx.undue, Ctx.dueVal, Ctx.dueFlg, ← decide_not, Nat.not_le]

/-- What neither flags nor tokens nor the write of a due result change, the landing leaves as it is. -/
theorem Ctx.land_unchanged {β : Type} (f : Ctx → β) (hf : ∀ d g, f (Ctx.orFlags d g) = f d)
    (ht : ∀ d n, f (Ctx.tokDown d n) = f d) (c : Ctx) (hv : ∀ d, ∀ p ∈ c.dueVal, f (Ctx.written d p) = f d) :
    f c.land = f c.undue := by
  have hval : f (c.dueVal.foldl Ctx.landOne c.undue) = f c.undue :=
    List.foldlRecOn (motive := fun d => f d = f c.undue) c.dueVal Ctx.landOne rfl fun d hd p hp =>
      (Ctx.landOne_eq_written f hf ht d p).trans ((hv d p hp).trans hd)
  rw [c.land_eq]
  exact List.foldlRecOn (motive := fun d => f d = f c.undue) c.dueFlg _ hval fun d hd g _ => (hf d g.flags).trans hd

theorem Ctx.land_pend (c : Ctx) : c.land.pend = c.undue.pend :=
  Ctx.land_unchanged Ctx.pend (fun _ _ => rfl) (fun _ _ => rfl) c fun d p _ => d.written_pend p

theorem Ctx.land_notLanded (c : Ctx) : NotLanded c c.land := by
  have hu : NotLanded c c.undue := ⟨rfl, rfl, rfl, rfl, rfl, ⟨rfl, rfl⟩, rfl, rfl⟩
  have hv : NotLanded c (c.dueVal.foldl Ctx.landOne c.undue) :=
    List.foldlRecOn c.dueVal Ctx.landOne hu fun d hd p _ => notLanded_trans hd (d.landOne_notLanded p)
  rw [c.land_eq]
  exact List.foldlRecOn c.dueFlg _ hv fun d hd g _ => notLanded_trans hd ⟨rfl, rfl, rfl, rfl, rfl, ⟨rfl, rfl⟩, rfl, rfl⟩

/-- Flags added one after another: a bit stands at the end where it stood or where one of them has it. -/
theorem flg_foldl {α : Type} {g : Ctx → α → Ctx} (fl : α → Flags) (hg : ∀ c a, (g c a).fmt.flg = c.fmt.flg ||| fl a) (l : List α)
    (c : Ctx) (k : Nat) :
    (l.foldl g c).fmt.flg.getLsbD k = true ↔ c.fmt.flg.getLsbD k = true ∨ ∃ a ∈ l, (fl a).getLsbD k = true := by
  induction l generalizing c with
  | nil => simp
  | cons a l ih => simp [ih, hg, or_assoc]

theorem Ctx.land_flg (c : Ctx) (k : Nat) :
    c.land.fmt.flg.getLsbD k = true ↔ c.fmt.flg.getLsbD k = true ∨ (∃ p ∈ c.dueVal, p.flags.getLsbD k = true) ∨
      ∃ f ∈ c.dueFlg, f.flags.getLsbD k = true := by
  rw [c.land_eq, flg_foldl FPend.flags (fun _ _ => rfl), flg_foldl Pend.flags Ctx.landOne_flg, or_assoc]
  rfl

/-- A single due result has reached its register: the flags that land after it are no register of its. -/
theorem Ctx.land_landsAt {c : Ctx} {p : Pend} (h : c.dueVal = [p]) : LandsAt c c.land p := by
  rw [c.land_eq, h]
  exact List.foldlRecOn (motive := fun d => LandsAt c d p) c.dueFlg _ (c.undue.landOne_landsAt p) fun d hd _ _ => hd

theorem Ctx.land_sreg_other {c : Ctx} {n : Nat} (h : ∀ p ∈ c.dueVal, p.dest ≠ .s n) : c.land.sreg n = c.sreg n :=
  Ctx.land_unchanged (fun d => d.sreg n) (fun _ _ => rfl) (fun _ _ => rfl) c fun d p hp => d.written_sreg_other (h p hp)

theorem Ctx.land_creg_other {c : Ctx} {n : Nat} (h : ∀ p ∈ c.dueVal, p.dest ≠ .c n) (hn : n < 8) : c.land.creg n = c.creg n :=
  Ctx.land_unchanged (fun d => d.creg n) (fun _ _ => rfl) (fun _ _ => rfl) c fun d p hp => d.written_creg_other (h p hp) hn

theorem Ctx.land_vreg_other {c : Ctx} {n : Nat} (h : ∀ p ∈ c.dueVal, p.dest ≠ .v n) : c.land.vreg n = c.vreg n :=
  Ctx.land_unchanged (fun d => d.vreg n) (fun _ _ => rfl) (fun _ _ => rfl) c fun d p hp => d.written_vreg_other (h p hp)

theorem Ctx.land_preg_other {c : Ctx} {n : Nat} (h : ∀ p ∈ c.dueVal, p.dest ≠ .p n) : c.land.preg n = c.preg n :=
  Ctx.land_unchanged (fun d => d.preg n) (fun _ _ => rfl) (fun _ _ => rfl) c fun d p hp => d.written_preg_other (h p hp)

/-- Settles O33: the event lands what is due in its context, and each clause is a rule of that landing. -/
theorem resultLandingRule : Obligations.ResultLandingRule := by
  intro hw s
  refine ⟨s.modCtx hw Ctx.land, rfl, ?_⟩
  dsimp only
  rw [State.modCtx_ctx_same]
  exact ⟨congrArg Pending.val (s.ctx hw).land_pend, congrArg Pending.flg (s.ctx hw).land_pend, fun _ => Ctx.land_landsAt,
    fun _ => Ctx.land_sreg_other, fun _ => Ctx.land_creg_other, fun _ => Ctx.land_vreg_other, fun _ => Ctx.land_preg_other,
    (s.ctx hw).land_flg, (s.ctx hw).land_notLanded, fun _ => State.modCtx_ctx_other s Ctx.land, ⟨rfl, rfl, rfl, rfl, rfl, rfl, rfl, rfl⟩,
    rfl⟩

end Sys2Proof.Machine
end

section
/-!
PROOF. Commands leave their gusset, and data enters the data queue (R15, R86, R146, R147, R153, R210).
-/

namespace Sys2Proof.Machine

open Sys2Proof.Claims

/-! ## Lists of commands -/

theorem find_cmd_head (c : Cmd) (r : List Cmd) : (c :: r).find? (fun x => decide (x.id = c.id)) = some c :=
  List.find?_cons_of_pos (decide_eq_true rfl)

theorem find_cmd_none {l : List Cmd} {id : Nat} (h : ∀ x ∈ l, x.id ≠ id) : l.find? (fun x => decide (x.id = id)) = none :=
  List.find?_eq_none.2 fun x hx => by simpa using h x hx

/-- A command that has left its list leaves the others there. -/
theorem filter_cmd_head {c : Cmd} {r : List Cmd} (h : ∀ x ∈ r, x.id ≠ c.id) :
    (c :: r).filter (fun x => decide (x.id ≠ c.id)) = r := by
  rw [List.filter_cons_of_neg (by simp), List.filter_eq_self.2 fun x hx => decide_eq_true (h x hx)]

/-- An update of one command leaves the others alone. -/
theorem map_cmd_other {l : List Cmd} {id : Nat} (f : Cmd → Cmd) (h : ∀ x ∈ l, x.id ≠ id) :
    l.map (fun x => if x.id = id then f x else x) = l :=
  (List.map_congr_left fun x hx => if_neg (h x hx)).trans l.map_id'

/-! ## Events that change one context -/

theorem onlyCtx_modCtx (s : State) (hw : Nat) (f : Ctx → Ctx) : OnlyCtx s (s.modCtx hw f) hw (f (s.ctx hw)) :=
  ⟨State.modCtx_ctx_same s hw f, fun _ => State.modCtx_ctx_other s f, ⟨rfl, rfl, rfl, rfl, rfl, rfl, rfl, rfl⟩, rfl⟩

theorem onlyCtx_trans {s t u : State} {hw : Nat} {c d : Ctx} (h : OnlyCtx s t hw c) (h' : OnlyCtx t u hw d) : OnlyCtx s u hw d :=
  ⟨h'.ctx, fun k hk => (h'.others k hk).trans (h.others k hk),
    ⟨h'.rest.mod.trans h.rest.mod, h'.rest.front.trans h.rest.front, h'.rest.clusters.trans h.rest.clusters,
      h'.rest.cores.trans h.rest.cores, h'.rest.aux.trans h.rest.aux, h'.rest.agenda.trans h.rest.agenda,
      h'.rest.oldBytes.trans h.rest.oldBytes, h'.rest.shared.trans h.rest.shared⟩,
    h'.mem.trans h.mem⟩

/-- A context with another list of commands at work. -/
def Ctx.withWork (x : Ctx) (l : List Cmd) : Ctx := { x with eng := { x.eng with work := l } }

/-- An update of a command changes the work of its context alone. -/
theorem State.modCmd_onlyCtx {s : State} {hw id : Nat} {f : Cmd → Cmd} {l : List Cmd}
    (h : (s.ctx hw).eng.work.map (fun x => if x.id = id then f x else x) = l) :
    OnlyCtx s (s.modCmd hw id f) hw ((s.ctx hw).withWork l) :=
  h ▸ onlyCtx_modCtx s hw _

/-- A command of the work of a context completes: it is gone and its token counts down (R15). -/
theorem State.cmdDone_onlyCtx {s : State} {hw id : Nat} {c : Cmd} (h : s.cmdOfId hw id = some c) :
    OnlyCtx s (s.cmdDone hw id) hw (doneCmd (s.ctx hw) id c.prod) := by
  unfold State.cmdOfId at h
  rw [State.cmdDone, h]
  exact onlyCtx_modCtx s hw _

/-! ## Commands leave their gusset (R71, R210) -/

theorem State.saving_eq_false {s : State} {hw : Nat} (hr : (s.ctx hw).run.stage ≠ .rolling)
    (hs : ∀ p, (s.ctx hw).run.stage ≠ .save p) : s.saving hw = false := by
  unfold State.saving
  split
  · exact absurd ‹_› (hs _)
  · exact absurd ‹_› hr
  · rfl

theorem State.takeCmd_oldest_q {s : State} {hw : Nat} {c : Cmd} {r : List Cmd} (hs : s.saving hw = false)
    (hq : (s.ctx hw).eng.qG = c :: r) (hc : ∀ x ∈ (s.ctx hw).eng.cG, x.id ≠ c.id) : s.takeCmd hw c.id = s.takeQ hw c := by
  simp only [State.takeCmd, hs, find_cmd_none hc, hq, Bool.false_eq_true, if_true, if_false]

theorem State.takeCmd_oldest_c {s : State} {hw : Nat} {c : Cmd} {r : List Cmd} (hs : s.saving hw = false)
    (hc : (s.ctx hw).eng.cG = c :: r) (hm : s.mayTakeC hw c = true) : s.takeCmd hw c.id = s.takeC hw c := by
  simp only [State.takeCmd, hs, hc, find_cmd_head, hm, Bool.false_eq_true, if_true, if_false]

/-- The oldest command of the C gusset may be taken when every command at work has started, unless it is a CPGO. -/
theorem State.mayTakeC_oldest {s : State} {hw : Nat} {c : Cmd} {r : List Cmd} (hc : (s.ctx hw).eng.cG = c :: r)
    (hstart : ∀ x ∈ (s.ctx hw).eng.work, x.started = true) (hgo : ∀ n, c.op ≠ .cpgo n) : s.mayTakeC hw c = true := by
  have hany : (s.ctx hw).eng.work.any (fun x => !x.op.isQ && !x.started && sameTarget x.op c.op) = false :=
    List.any_eq_false.2 fun x hx => by simp [hstart x hx]
  unfold State.mayTakeC
  simp only [hc, hany, List.takeWhile_cons, ne_eq, not_true_eq_false, decide_false, Bool.false_eq_true, if_false, List.any_nil,
    Bool.not_false, Bool.true_and]

/-- A context whose C gusset has given its oldest command to its engine, which leaves the commands `r`. -/
def takenC (x : Ctx) (c : Cmd) (r : List Cmd) : Ctx := { x with eng := { x.eng with cG := r, work := x.eng.work ++ [c] } }

/-- A command that neither copies settings, nor writes a record, nor opens a link window is taken as it is; it starts at once where its
consume tokens read zero (R77). -/
theorem State.takeC_plain {s : State} {hw : Nat} {c : Cmd} {r : List Cmd} (hc : (s.ctx hw).eng.cG = c :: r)
    (hr : ∀ x ∈ r, x.id ≠ c.id) (hwork : ∀ x ∈ (s.ctx hw).eng.work, x.id ≠ c.id) (hgo : ∀ n, c.op ≠ .cpgo n)
    (hst : ∀ n a, c.op ≠ .cpstat n a) (hl : c.op.isLink = false) :
    ∃ t, OnlyCtx s t hw (takenC (s.ctx hw) c r) ∧
      s.takeC hw c = if (s.ctx hw).tokensZero c.cons = true then t.startC hw c else t := by
  have hmap : ((s.ctx hw).eng.work ++ [c]).map (fun x => if x.id = c.id then c else x) = (s.ctx hw).eng.work ++ [c] := by
    rw [List.map_append, map_cmd_other (fun _ => c) hwork, List.map_cons, if_pos rfl, List.map_nil]
  let s1 := s.modCtx hw (fun x => { x with eng := { x.eng with
    cG := x.eng.cG.filter (fun y => decide (y.id ≠ c.id))
    work := x.eng.work ++ [c] } })
  have h1 : OnlyCtx s s1 hw (takenC (s.ctx hw) c r) := by
    have h : OnlyCtx s s1 hw _ := onlyCtx_modCtx s hw _
    rwa [hc, filter_cmd_head hr] at h
  have hwork1 : (s1.ctx hw).eng.work = (s.ctx hw).eng.work ++ [c] := by
    rw [h1.ctx]
    rfl
  have h2 := State.modCmd_onlyCtx (s := s1) (f := fun _ => c) (hwork1 ▸ hmap)
  rw [h1.ctx] at h2
  refine ⟨s1.modCmd hw c.id (fun _ => c), onlyCtx_trans h1 h2, ?_⟩
  unfold State.takeC
  simp only [hl, Bool.false_eq_true, if_false, State.modCtx_ctx_same]
  rfl

/-! ## CPLVL and LKTIME (R71, R86) -/

theorem State.slot_eq_of_clusters {s t : State} (h : t.clusters = s.clusters) (cl n : Nat) : t.slot cl n = s.slot cl n := by
  rw [State.slot, State.cluster, h]
  rfl

theorem State.modSlot_slot_same (s : State) (cl n : Nat) (f : SeqSlot → SeqSlot) : (s.modSlot cl n f).slot cl n = f (s.slot cl n) := by
  simp [State.modSlot, State.setSlot, State.slot]

theorem doneCmd_token (c : Ctx) (id tok : Nat) : (doneCmd c id tok).token tok = c.token tok - 1 :=
  SMap.getD_put_same _ _ _ _

/-- A CPLVL that is alone at work writes its level and completes. -/
theorem State.startC_cplvl {s : State} {hw n level cnt : Nat} {ss ds : Word} {c : Cmd} (ho : c.op = .cplvl n level cnt ss ds)
    (hwork : (s.ctx hw).eng.work = [c]) :
    (s.startC hw c).slot (clusterOf hw) n = (s.slot (clusterOf hw) n).level level cnt ss ds ∧
      (s.startC hw c).ctx hw = doneCmd ((s.ctx hw).withWork [{ c with started := true }]) c.id c.prod ∧
      (∀ k, k ≠ hw → (s.startC hw c).ctx k = s.ctx k) ∧ (s.startC hw c).mem = s.mem := by
  let u := s.modCmd hw c.id (fun x => { x with started := true })
  let v := u.modSlot (clusterOf hw) n (fun q => q.level level cnt ss ds)
  have hu : OnlyCtx s u hw ((s.ctx hw).withWork [{ c with started := true }]) :=
    State.modCmd_onlyCtx (by rw [hwork, List.map_cons, if_pos rfl, List.map_nil])
  have hv : v.ctx hw = (s.ctx hw).withWork [{ c with started := true }] := hu.ctx
  have hfind : v.cmdOfId hw c.id = some { c with started := true } := by
    rw [State.cmdOfId, hv]
    exact find_cmd_head { c with started := true } []
  have hd := State.cmdDone_onlyCtx hfind
  have he : s.startC hw c = v.cmdDone hw c.id := by
    simp only [State.startC, ho]
    rfl
  rw [he]
  refine ⟨?_, by rw [hd.ctx, hv], fun k hk => (hd.others k hk).trans (hu.others k hk), hd.mem.trans hu.mem⟩
  rw [State.slot_eq_of_clusters hd.rest.clusters, State.modSlot_slot_same, State.slot_eq_of_clusters hu.rest.clusters]

theorem State.lktime_of_op {s : State} {hw t : Nat} {c : Cmd} (hf : s.cmdOfId hw c.id = some c) (ho : c.op = .lktime t)
    (hs : c.started = true) : s.lktime hw c.id = if t ≤ s.linkTick then s.cmdDone hw c.id else s := by
  simp only [State.lktime, hf, ho, hs, Bool.true_and, decide_eq_true_eq]

/-! ## What an engine takes, and what then completes -/

section
variable {s : State} {hw : Nat} {c : Cmd} {r : List Cmd}

theorem execEngineTakesCommand_q (hs : s.saving hw = false) (hq : (s.ctx hw).eng.qG = c :: r) (hr : ∀ x ∈ r, x.id ≠ c.id)
    (hc : ∀ x ∈ (s.ctx hw).eng.cG, x.id ≠ c.id) :
    Turns (.engineTakesCommand hw c.id) s hw
      { s.ctx hw with eng := { (s.ctx hw).eng with qG := r, work := (s.ctx hw).eng.work ++ [c] } } := by
  refine ⟨s.takeQ hw c, congrArg Host.Outcome.next (State.takeCmd_oldest_q hs hq hc), ?_⟩
  have h : OnlyCtx s (s.takeQ hw c) hw _ := onlyCtx_modCtx s hw _
  rwa [hq, filter_cmd_head hr] at h

/-- An LKTIME whose consume tokens do not read zero waits in its engine. -/
theorem execEngineTakesCommand_lktime {t : Nat} (hs : s.saving hw = false) (hc : (s.ctx hw).eng.cG = c :: r)
    (hr : ∀ x ∈ r, x.id ≠ c.id) (ho : c.op = .lktime t) (hwork : ∀ x ∈ (s.ctx hw).eng.work, x.started = true ∧ x.id ≠ c.id)
    (hz : (s.ctx hw).tokensZero c.cons = false) : Turns (.engineTakesCommand hw c.id) s hw (takenC (s.ctx hw) c r) := by
  have hgo : ∀ n, c.op ≠ .cpgo n := by simp [ho]
  obtain ⟨u, hu, he⟩ := State.takeC_plain hc hr (fun x hx => (hwork x hx).2) hgo (by simp [ho]) (by simp [ho, CmdOp.isLink])
  refine ⟨u, congrArg Host.Outcome.next ?_, hu⟩
  rw [State.takeCmd_oldest_c hs hc (State.mayTakeC_oldest hc (fun x hx => (hwork x hx).1) hgo), he, hz, if_neg Bool.false_ne_true]

/-- A CPLVL that waits for nothing writes its level and completes as it is taken. -/
theorem execEngineTakesCommand_cplvl {n level cnt : Nat} {ss ds : Word} (hs : s.saving hw = false)
    (hc : (s.ctx hw).eng.cG = c :: r) (hr : ∀ x ∈ r, x.id ≠ c.id) (ho : c.op = .cplvl n level cnt ss ds)
    (hwork : (s.ctx hw).eng.work = []) (hz : (s.ctx hw).tokensZero c.cons = true) :
    Answers (.engineTakesCommand hw c.id) s (fun t =>
      t.slot (clusterOf hw) n = (s.slot (clusterOf hw) n).level level cnt ss ds ∧ (t.ctx hw).eng.cG = r ∧
      (t.ctx hw).eng.work = [] ∧ (t.ctx hw).token c.prod = (s.ctx hw).token c.prod - 1 ∧
      (∀ k, k ≠ hw → t.ctx k = s.ctx k) ∧ t.mem = s.mem) := by
  have hgo : ∀ n, c.op ≠ .cpgo n := by simp [ho]
  obtain ⟨u, hu, he⟩ := State.takeC_plain hc hr (by simp [hwork]) hgo (by simp [ho]) (by simp [ho, CmdOp.isLink])
  have hone : (u.ctx hw).eng.work = [c] := by
    rw [hu.ctx, takenC, hwork]
    rfl
  obtain ⟨hslot, hctx, hoth, hmem⟩ := State.startC_cplvl ho hone
  rw [State.slot_eq_of_clusters hu.rest.clusters] at hslot
  rw [hu.ctx] at hctx
  refine ⟨u.startC hw c, congrArg Host.Outcome.next ?_, hslot, ?_, ?_, ?_, fun k hk => (hoth k hk).trans (hu.others k hk),
    hmem.trans hu.mem⟩
  · rw [State.takeCmd_oldest_c hs hc (State.mayTakeC_oldest hc (by simp [hwork]) hgo), he, hz, if_pos rfl]
  · rw [hctx]
    rfl
  · rw [hctx]
    exact filter_cmd_head (c := { c with started := true }) (List.forall_mem_nil _)
  · rw [hctx, doneCmd_token]
    rfl

theorem execLktimeReached_oldest {t : Nat} (hwork : (s.ctx hw).eng.work = c :: r) (ho : c.op = .lktime t)
    (hs : c.started = true) :
    (t ≤ s.linkTick → Turns (.lktimeReached hw c.id) s hw (doneCmd (s.ctx hw) c.id c.prod)) ∧
      (s.linkTick < t → exec (.lktimeReached hw c.id) s = .next s) := by
  have hf : s.cmdOfId hw c.id = some c := by rw [State.cmdOfId, hwork, find_cmd_head]
  have he := State.lktime_of_op hf ho hs
  exact ⟨fun ht => ⟨s.cmdDone hw c.id, congrArg Host.Outcome.next (he.trans (if_pos ht)), State.cmdDone_onlyCtx hf⟩,
    fun ht => congrArg Host.Outcome.next (he.trans (if_neg (Nat.not_le.2 ht)))⟩

end

theorem commandTaken : CommandTaken := fun _ _ _ _ hroll hsave =>
  have hs := State.saving_eq_false hroll hsave
  ⟨execEngineTakesCommand_q hs, fun _ => execEngineTakesCommand_lktime hs, fun _ _ _ _ _ => execEngineTakesCommand_cplvl hs,
    fun _ => execLktimeReached_oldest⟩

/-! ## Data enters the data queue (R146, R147, R153) -/

theorem Cmd.handed_of_pos_zero {c : Cmd} (h : c.pos = 0) : c.handed = false := by
  unfold Cmd.handed
  split
  · rw [h]
    rfl
  · rfl

/-- A context whose data queue has taken an entry. -/
def enteredCtx (x : Ctx) (e : DEntry) : Ctx := { x with eng := { x.eng with dataQ := x.eng.dataQ ++ [e] } }

theorem Ctx.enter_running {c : Ctx} (hs : c.run.st ≠ .inactive) (hk : c.ckpt = none) (id : Nat) (e : DEntry) :
    c.enter id e = enteredCtx c e := by
  rw [Ctx.enter, if_neg hs, enteredCtx, hk]
  rfl

theorem State.dataArrive_full {s : State} {hw : Nat} (h : 16 ≤ (s.ctx hw).eng.dataQ.length) : s.dataArrive hw = s := by
  rw [State.dataArrive, if_pos h]

/-- The oldest request, at the head of the work, hands its value to a data queue with room: its entry enters, and it completes if it has
performed; an SFOP that has only read its old value stays, marked. -/
theorem State.dataArrive_oldest {s : State} {hw : Nat} {c : Cmd} {r : List Cmd} {tail : List (Nat × Bool)} {v : VReg}
    (ha : (s.ctx hw).eng.addrQ = (c.id, false) :: tail) (hwork : (s.ctx hw).eng.work = c :: r) (hv : c.res = some v)
    (hp : c.pos = 0) (hn : ∀ a n, c.op ≠ .nlreq a n) (hs : (s.ctx hw).run.st ≠ .inactive) (hk : (s.ctx hw).ckpt = none)
    (hroom : (s.ctx hw).eng.dataQ.length < 16) :
    ∃ t, OnlyCtx s t hw (enteredCtx (s.ctx hw) ⟨false, v, 0, true, false, false⟩) ∧
      (c.performed = true → s.dataArrive hw = t.cmdDone hw c.id) ∧
      (∀ a x y wide virt op, c.performed = false → c.op = .sfop a x y wide virt op →
        s.dataArrive hw = t.modCmd hw c.id (fun y => { y with pos := 1 })) := by
  have hfind : ((s.ctx hw).eng.addrQ.map (fun a => a.1)).findSome? (fun i =>
      ((s.ctx hw).eng.work ++ (s.ctx hw).eng.qG).find? (fun c => decide (c.id = i) && !c.handed)) = some c := by
    have h : ((c :: r) ++ (s.ctx hw).eng.qG).find? (fun x => decide (x.id = c.id) && !x.handed) = some c :=
      List.find?_cons_of_pos (by rw [Cmd.handed_of_pos_zero hp, decide_eq_true rfl]; rfl)
    rw [ha, hwork, List.map_cons, List.findSome?_cons, h]
  have hent := onlyCtx_modCtx s hw (fun x => x.enter c.id ⟨false, v, 0, true, false, false⟩)
  rw [Ctx.enter_running hs hk] at hent
  refine ⟨_, hent, fun hperf => ?_, fun a x y wide virt op hperf ho => ?_⟩
  · rw [State.dataArrive, if_neg (Nat.not_le.2 hroom)]
    simp only [hfind, hperf, hv, Option.getD_some, if_true]
  · rw [State.dataArrive, if_neg (Nat.not_le.2 hroom)]
    simp only [hfind, hperf, ho, hv, Option.getD_some, Bool.false_eq_true, if_false]

theorem dataQueueArrival : DataQueueArrival := by
  intro hw s c r tail v ha hwork hv hp hn hs hk
  refine ⟨fun hperf hroom => ?_, fun a x y wide virt op hperf ho hroom => ?_,
    fun hfull => congrArg Host.Outcome.next (State.dataArrive_full hfull)⟩
  · obtain ⟨u, hu, he, -⟩ := State.dataArrive_oldest ha hwork hv hp hn hs hk hroom
    have hf : u.cmdOfId hw c.id = some c := by
      rw [State.cmdOfId, hu.ctx, enteredCtx, hwork, find_cmd_head]
    have hd := onlyCtx_trans hu (State.cmdDone_onlyCtx hf)
    refine ⟨u.cmdDone hw c.id, congrArg Host.Outcome.next (he hperf), ?_⟩
    dsimp only
    rw [hd.ctx, hu.ctx]
    refine ⟨rfl, rfl, ?_, doneCmd_token _ _ _, rfl, hd.others, hd.mem, hd.rest.mod⟩
    rw [doneCmd, enteredCtx, hwork, List.filter_cons_of_neg (by simp)]
  · obtain ⟨u, hu, -, he⟩ := State.dataArrive_oldest ha hwork hv hp hn hs hk hroom
    have hwork' : (u.ctx hw).eng.work = c :: r := by rw [hu.ctx, enteredCtx, hwork]
    have hm := State.modCmd_onlyCtx (s := u) (hw := hw) (id := c.id) (f := fun y => { y with pos := 1 }) rfl
    have hd := onlyCtx_trans hu hm
    refine ⟨u.modCmd hw c.id (fun y => { y with pos := 1 }), congrArg Host.Outcome.next (he a x y wide virt op hperf ho), ?_⟩
    dsimp only
    rw [hd.ctx, hwork', List.map_cons, if_pos rfl, hu.ctx]
    exact ⟨rfl, rfl, rfl, rfl, rfl, hd.others, hd.mem, hd.rest.mod⟩

/-- Settles O44, by what an engine takes, what then completes, and what the oldest request hands over. -/
theorem commandQueueEvents : Obligations.CommandQueueEvents := ⟨commandTaken, dataQueueArrival⟩

end Sys2Proof.Machine
end

section
/-!
PROOF. Decoding inverts encoding (R21, R22, R24, R33, R34, R94, R117, R151, R180, R196, R216, R259): a word is a sum of fields at
disjoint places, and each field that the decoder reads holds what the encoder has put there.
-/

namespace Sys2Proof

/-! ## Fields of a word -/

/-- A field of a field of a word is a field of the word. -/
theorem fld_fld {w a k lo n : Nat} (h : lo + n ≤ k) : fld (fld w a k) lo n = fld w (a + lo) n := by
  obtain ⟨r, rfl⟩ := Nat.exists_eq_add_of_le h
  simp only [fld]
  rw [Nat.add_assoc, Nat.pow_add, Nat.mod_mul_right_div_self, Nat.mod_mod_of_dvd _ (pow_dvd_pow 2 (Nat.le_add_right n r)),
    Nat.div_div_eq_div_mul, Nat.pow_add]

/-- Digits at higher places do not show in a field. -/
theorem fld_add_of_dvd {x y lo n : Nat} (h : 2 ^ (lo + n) ∣ x) : fld (x + y) lo n = fld y lo n := by
  obtain ⟨c, rfl⟩ := h
  simp only [fld]
  rw [Nat.pow_add, Nat.mul_assoc, Nat.mul_add_div (by positivity), Nat.mul_add_mod]

/-- Digits at lower places do not show in a field. -/
theorem fld_add_of_lt {x y lo n : Nat} (hx : 2 ^ lo ∣ x) (hy : y < 2 ^ lo) : fld (x + y) lo n = fld x lo n := by
  obtain ⟨c, rfl⟩ := hx
  simp only [fld]
  rw [Nat.mul_add_div (by positivity), Nat.div_eq_of_lt hy, Nat.mul_div_cancel_left c (by positivity), Nat.add_zero]

/-- A digit reads in the field at its place. -/
theorem fld_mul_pow {v lo n : Nat} (h : v < 2 ^ n) : fld (v * 2 ^ lo) lo n = v := by
  simp only [fld]
  rw [Nat.mul_div_cancel v (by positivity), Nat.mod_eq_of_lt h]

theorem fld_of_lt {v n : Nat} (h : v < 2 ^ n) : fld v 0 n = v := by simp [fld, Nat.mod_eq_of_lt h]

theorem fld_eq_zero_of_dvd {v lo n : Nat} (h : 2 ^ (lo + n) ∣ v) : fld v lo n = 0 := by
  simpa [fld] using fld_add_of_dvd (y := 0) h

theorem fld_eq_zero_of_lt {v lo n : Nat} (h : v < 2 ^ lo) : fld v lo n = 0 := by
  simp [fld, Nat.div_eq_of_lt h]

theorem sextN_unsext {n : Nat} {v : Int} (hn : 0 < n) (h : fitsInt n v = true) : sextN n (unsext n v) = v := by
  obtain ⟨k, rfl⟩ := Nat.exists_eq_add_of_lt hn
  simp only [fitsInt, Bool.and_eq_true, decide_eq_true_eq, Nat.zero_add, Nat.add_sub_cancel] at h
  obtain ⟨hlo, hhi⟩ := h
  simp only [sextN, unsext, Nat.zero_add, Nat.add_sub_cancel, pow_succ]
  push_cast
  have hp : ((2 ^ k : Nat) : Int) = 2 ^ k := by norm_cast
  generalize (2 : Int) ^ k = p at *
  rcases le_or_gt 0 v with h0 | h0
  · rw [Int.emod_eq_of_lt h0 (by omega)]
    split <;> omega
  · rw [← Int.add_emod_right, Int.emod_eq_of_lt (by omega) (by omega)]
    split <;> omega

theorem unsext_lt (n : Nat) (v : Int) : unsext n v < 2 ^ n := by
  have hpos : (0 : Int) < (2 ^ n : Nat) := by positivity
  have hlt := Int.emod_lt_of_pos v hpos
  have hge := Int.emod_nonneg v hpos.ne'
  unfold unsext
  omega

/-- A flag reads back from its bit. -/
theorem decide_toNat_eq_one (b : Bool) : decide (b.toNat = 1) = b := by cases b <;> rfl

/-! ## Formats of 32 bits (R21) -/

/-- What a 32-bit syllable holds: opcode, the four bits below it, and the low 22 bits. -/
structure ReadsF (w op g x : Nat) : Prop where
  op : fld w 26 6 = op
  g : fld w 22 4 = g
  low : fld w 0 22 = x

theorem ReadsF.digit {w op g x lo n : Nat} (r : ReadsF w op g x) (h : lo + n ≤ 22) : fld w lo n = fld x lo n := by
  rw [← r.low, fld_fld h, Nat.zero_add]

theorem packF_reads {op g x : Nat} (hop : op < 64) (hg : g < 16) (hx : x < 2 ^ 22) : ReadsF (packF op g x) op g x := by
  constructor <;> (unfold packF fld; omega)

theorem packN_eq_packF (op g d a b fn : Nat) :
    packN op g d a b fn = packF op g (d * 2 ^ 16 + (a * 2 ^ 10 + (b * 2 ^ 4 + fn))) := by
  simp only [packN, packF, Nat.add_assoc]

theorem packI_eq_packF (op g d a u : Nat) : packI op g d a u = packF op g (d * 2 ^ 16 + (a * 2 ^ 10 + u)) := by
  simp only [packI, packF, Nat.add_assoc]

theorem packB_eq_packF (op g : Nat) (drain : Bool) (disp : Int) :
    packB op g drain disp = packF op g (drain.toNat * 2 ^ 21 + unsext 21 disp) := by
  simp only [packB, packF, Nat.add_assoc]

/-! ## B slot (R196) -/

theorem NBr.wf_iff {o : NBr} : o.wf = true ↔ o.r < 16 ∧ fitsInt 21 o.disp = true := by simp [NBr.wf]
theorem NBc.wf_iff {o : NBc} : o.wf = true ↔ o.c < 8 ∧ fitsInt 21 o.disp = true := by simp [NBc.wf]
theorem NBg.wf_iff {o : NBg} : o.wf = true ↔ o.g < 16 ∧ fitsInt 21 o.disp = true := by simp [NBg.wf]
theorem NJ.wf_iff {o : NJ} : o.wf = true ↔ o.g < 16 ∧ o.a < 64 := by simp [NJ.wf]
theorem NCode.wf_iff {o : NCode} : o.wf = true ↔ o.g < 16 ∧ o.code < 2 ^ 22 := by simp [NCode.wf]

/-- What a syllable of format N-B holds. -/
structure ReadsB (w op g : Nat) (drain : Bool) (disp : Int) : Prop where
  op : fld w 26 6 = op
  g : fld w 22 4 = g
  drain : bDrain w = drain
  disp : bDisp w = disp

theorem packB_reads {op g : Nat} {drain : Bool} {disp : Int} (hop : op < 64) (hg : g < 16) (hd : fitsInt 21 disp = true) :
    ReadsB (packB op g drain disp) op g drain disp := by
  have hu := unsext_lt 21 disp
  have hb := drain.toNat_lt
  have r := packF_reads (x := drain.toNat * 2 ^ 21 + unsext 21 disp) hop hg (by omega)
  rw [← packB_eq_packF] at r
  refine ⟨r.op, r.g, ?_, ?_⟩
  · rw [bDrain, r.digit (by decide), fld_add_of_lt (by omega) hu, fld_mul_pow (by omega), decide_toNat_eq_one]
  · rw [bDisp, r.digit (by decide), fld_add_of_dvd (by omega), fld_of_lt hu, sextN_unsext (by decide) hd]

theorem decodeB_eNBr {op : Nat} {o : NBr} {k : NBr → Instr} (hop : op < 64) (h : o.wf = true)
    (hk : ∀ w, fld w 26 6 = op → fld w 22 4 = o.r → decodeB w = .ok (k (bNBr w))) : decodeB (eNBr op o).w = .ok (k o) := by
  obtain ⟨hr, hd⟩ := NBr.wf_iff.1 h
  have r : ReadsB (eNBr op o).w op o.r o.drain o.disp := packB_reads hop hr hd
  rw [hk _ r.op r.g, bNBr, r.g, r.drain, r.disp]

theorem decodeB_packB {op g : Nat} {drain : Bool} {disp : Int} {e : Except DErr Instr} (hop : op < 64) (hg : g < 16)
    (hd : fitsInt 21 disp = true) (h : ∀ w, ReadsB w op g drain disp → decodeB w = e) : decodeB (packB op g drain disp) = e :=
  h _ (packB_reads hop hg hd)

theorem decodeB_packF {op g x : Nat} {e : Except DErr Instr} (hop : op < 64) (hg : g < 16) (hx : x < 2 ^ 22)
    (h : ∀ w, ReadsF w op g x → decodeB w = e) : decodeB (packF op g x) = e := h _ (packF_reads hop hg hx)

theorem decodeB_eNJ {op : Nat} {o : NJ} {k : NJ → Instr} (hop : op < 64) (h : o.wf = true)
    (hk : ∀ w, fld w 26 6 = op → decodeB w =
      judge false (!decide (fld w 16 6 = 0 ∧ fld w 1 9 = 0)) (k ⟨fld w 22 4, fld w 10 6, decide (fld w 0 1 = 1)⟩)) :
    decodeB (eNJ op o).w = .ok (k o) := by
  obtain ⟨hg, ha⟩ := NJ.wf_iff.1 h
  have hb := o.drain.toNat_lt
  unfold eNJ
  rw [packN_eq_packF]
  refine decodeB_packF hop hg (by omega) fun w r => ?_
  simp (disch := omega) only [hk w r.op, r.g, r.digit, -Nat.reducePow, -Nat.reduceMul, fld_add_of_dvd, fld_add_of_lt,
    fld_mul_pow, fld_of_lt, fld_eq_zero_of_lt]
  simp [judge]

theorem decodeB_encode {i : Instr} (h : i.wf = true) (hs : i.slot? = some .b) : decodeB (encode i).w = .ok i := by
  cases i with
  | brEqz o | brNez o | brLtz o | brGez o | brGtz o | brLez o | brpAll o | brpNone o =>
    refine decodeB_eNBr (by decide) h fun w hw _ => ?_
    simp only [decodeB, hw]
  | loopb o =>
    obtain ⟨ho, hr⟩ := Bool.and_eq_true_iff.1 h
    refine decodeB_eNBr (by decide) ho fun w hw hg => ?_
    have hr0 : o.r ≠ 0 := Nat.one_le_iff_ne_zero.1 (of_decide_eq_true hr)
    simp [decodeB, hw, hg, judge, hr0]
  | brc o =>
    obtain ⟨hc, hd⟩ := NBc.wf_iff.1 h
    have hn := o.neg.toNat_lt
    refine decodeB_packB (by decide) (by omega) hd fun w r => ?_
    have hcond : fld w 23 3 = o.c := by
      rw [← fld_fld (w := w) (a := 22) (k := 4) (lo := 1) (by decide), r.g]; unfold fld; omega
    have hneg : fld w 22 1 = o.neg.toNat := by
      rw [← fld_fld (w := w) (a := 22) (k := 4) (lo := 0) (by decide), r.g]; unfold fld; omega
    simp [decodeB, r.op, r.drain, r.disp, hcond, hneg]
  | jmp o =>
    obtain ⟨ho, hz⟩ := Bool.and_eq_true_iff.1 h
    obtain ⟨-, hd⟩ := NBg.wf_iff.1 ho
    refine decodeB_packB (by decide) (by decide) hd fun w r => ?_
    simp [decodeB, r.op, r.g, r.drain, r.disp, judge, ← of_decide_eq_true hz]
  | call o =>
    obtain ⟨hg, hd⟩ := NBg.wf_iff.1 h
    refine decodeB_packB (by decide) hg hd fun w r => ?_
    simp only [decodeB, r.op, r.g, r.drain, r.disp]
  | jmpi o | calli o =>
    refine decodeB_eNJ (by decide) h fun w hw => ?_
    simp only [decodeB, hw]
  | ret o =>
    obtain ⟨ho, hz⟩ := Bool.and_eq_true_iff.1 h
    obtain ⟨hg, -⟩ := NJ.wf_iff.1 ho
    obtain ⟨g, a, drain⟩ := o
    obtain rfl : a = 0 := of_decide_eq_true hz
    have hb := drain.toNat_lt
    show decodeB (packN 0x12 g 0 0 0 drain.toNat) = _
    rw [packN_eq_packF]
    refine decodeB_packF (by decide) hg (by omega) fun w r => ?_
    simp (disch := omega) only [decodeB, r.op, r.g, r.digit, -Nat.reducePow, -Nat.reduceMul, fld_of_lt, fld_eq_zero_of_lt]
    simp [judge]
  | svc o | brk o =>
    obtain ⟨hg, hc⟩ := NCode.wf_iff.1 h
    refine decodeB_packF (by decide) hg hc fun w r => ?_
    simp only [decodeB, r.op, r.g, r.low]
  | eret => rfl
  | _ => cases hs

/-! ## X and Y slots (R113 to R123) -/

theorem NR.wf_iff {o : NR} : o.wf = true ↔ o.g < 16 ∧ o.d < 64 ∧ o.a < 64 ∧ o.b.wf = true := by simp [NR.wf, and_assoc]
theorem N2.wf_iff {o : N2} : o.wf = true ↔ o.g < 16 ∧ o.d < 64 ∧ o.a < 64 := by simp [N2.wf, and_assoc]
theorem NI.wf_iff {o : NI} : o.wf = true ↔ o.g < 16 ∧ o.d < 64 ∧ o.a < 64 ∧ o.b.wf = true := by simp [NI.wf, and_assoc]
theorem NL.wf_iff {o : NL} : o.wf = true ↔ o.g < 16 ∧ o.d < 64 ∧ o.b.wf = true := by simp [NL.wf, and_assoc]
theorem NBit.wf_iff {o : NBit} :
    o.wf = true ↔ o.g < 16 ∧ o.d < 64 ∧ o.a < 64 ∧ o.pos < 64 ∧ 1 ≤ o.len ∧ o.len ≤ 16 := by simp [NBit.wf, and_assoc]
theorem NCtl.wf_iff {o : NCtl} : o.wf = true ↔ o.g < 16 ∧ o.r < 64 ∧ o.num ≤ 13 := by simp [NCtl.wf, ctlOk, and_assoc]

theorem Src.bits_lt {b : Src} (h : b.wf = true) : b.bits < 64 := by
  cases b with
  | reg n => exact of_decide_eq_true h
  | lit v => exact Nat.zero_lt_succ 63

theorem Imm.bits_lt (b : Imm) : b.bits < 2 ^ 10 := by
  cases b with
  | imm v => exact unsext_lt 10 v
  | lit v => exact Nat.two_pow_pos 10

/-- Operand b of format N-R reads back from its six bits, or from the literal beside them (R24). -/
theorem xSrc_ext {w : Nat} {b : Src} (hw : fld w 4 6 = b.bits) : xSrc w b.ext = b ∧ litNR w b.ext = false := by
  cases b with
  | reg n => exact ⟨congrArg Src.reg hw, rfl⟩
  | lit v => exact ⟨rfl, by rw [litNR, hw]; rfl⟩

/-- The immediate of format N-I reads back from its ten bits, or from the literal beside them (R24). -/
theorem xImm_ext {w : Nat} {b : Imm} (h : b.wf = true) (hw : fld w 0 10 = b.bits) : xImm w b.ext = b ∧ litNI w b.ext = false := by
  cases b with
  | imm v => exact ⟨congrArg Imm.imm (by rw [hw]; exact sextN_unsext (by decide) h), rfl⟩
  | lit v => exact ⟨rfl, by rw [litNI, hw]; rfl⟩

/-- What a syllable of format N-R holds, with its literal. -/
structure ReadsNR (w : Nat) (o : NR) (fn : Nat) : Prop where
  g : fld w 22 4 = o.g
  d : fld w 16 6 = o.d
  a : fld w 10 6 = o.a
  b : xSrc w o.b.ext = o.b
  lit : litNR w o.b.ext = false
  fn : fld w 0 4 = fn

theorem decodeXY_packF {op g x : Nat} {l : Option Nat} {e : Except DErr Instr} (hop : op < 64) (hg : g < 16) (hx : x < 2 ^ 22)
    (h : ∀ w, ReadsF w op g x → decodeXY w l = e) : decodeXY (packF op g x) l = e := h _ (packF_reads hop hg hx)

theorem decodeXY_eNR {op fn : Nat} {o : NR} {e : Except DErr Instr} (hop : op < 64) (hfn : fn < 16) (h : o.wf = true)
    (hk : ∀ w, fld w 26 6 = op → ReadsNR w o fn → decodeXY w o.b.ext = e) : decodeXY (eNR op o fn).w (eNR op o fn).x = e := by
  obtain ⟨hg, hd, ha, hb⟩ := NR.wf_iff.1 h
  have hb := Src.bits_lt hb
  unfold eNR
  rw [packN_eq_packF]
  refine decodeXY_packF hop hg (by omega) fun w r => hk w r.op ?_
  have hs : fld w 4 6 = o.b.bits := by
    simp (disch := omega) only [r.digit, -Nat.reducePow, -Nat.reduceMul, fld_add_of_dvd, fld_add_of_lt, fld_mul_pow]
  obtain ⟨hsrc, hlit⟩ := xSrc_ext hs
  refine ⟨r.g, ?_, ?_, hsrc, hlit, ?_⟩ <;>
    simp (disch := omega) only [r.digit, -Nat.reducePow, -Nat.reduceMul, fld_add_of_dvd, fld_add_of_lt, fld_mul_pow, fld_of_lt]

theorem ReadsNR.xR {w : Nat} {o : NR} (r : ReadsNR w o 0) (k : NR → Instr) : xR w o.b.ext k = .ok (k o) := by
  simp [Sys2Proof.xR, judge, r.g, r.d, r.a, r.b, r.lit, r.fn]

/-- What a syllable of format N-I holds, with its literal. -/
structure ReadsNI (w : Nat) (o : NI) : Prop where
  g : fld w 22 4 = o.g
  d : fld w 16 6 = o.d
  a : fld w 10 6 = o.a
  b : xImm w o.b.ext = o.b
  lit : litNI w o.b.ext = false

theorem decodeXY_eNI {op : Nat} {o : NI} {e : Except DErr Instr} (hop : op < 64) (h : o.wf = true)
    (hk : ∀ w, fld w 26 6 = op → ReadsNI w o → decodeXY w o.b.ext = e) : decodeXY (eNI op o).w (eNI op o).x = e := by
  obtain ⟨hg, hd, ha, hw⟩ := NI.wf_iff.1 h
  have hb := o.b.bits_lt
  unfold eNI
  rw [packI_eq_packF]
  refine decodeXY_packF hop hg (by omega) fun w r => hk w r.op ?_
  have hs : fld w 0 10 = o.b.bits := by
    simp (disch := omega) only [r.digit, -Nat.reducePow, -Nat.reduceMul, fld_add_of_dvd, fld_of_lt]
  obtain ⟨himm, hlit⟩ := xImm_ext hw hs
  refine ⟨r.g, ?_, ?_, himm, hlit⟩ <;>
    simp (disch := omega) only [r.digit, -Nat.reducePow, -Nat.reduceMul, fld_add_of_dvd, fld_add_of_lt, fld_mul_pow]

theorem ReadsNI.xI {w : Nat} {o : NI} (r : ReadsNI w o) (k : NI → Instr) : xI w o.b.ext k = .ok (k o) := by
  simp [Sys2Proof.xI, judge, r.g, r.d, r.a, r.b, r.lit]

theorem ReadsNI.xSh {w : Nat} {o : NI} (r : ReadsNI w o) (h : o.b.amount = true) (k : NI → Instr) : xSh w o.b.ext k = .ok (k o) := by
  simp [Sys2Proof.xSh, judge, r.g, r.d, r.a, r.b, r.lit, h]

theorem decodeXY_eN2 {op : Nat} {o : N2} {k : N2 → Instr} (hop : op < 64) (h : o.wf = true)
    (hk : ∀ w, fld w 26 6 = op → decodeXY w none = x2 w none k) : decodeXY (eN2 op o).w (eN2 op o).x = .ok (k o) := by
  obtain ⟨hg, hd, ha⟩ := N2.wf_iff.1 h
  unfold eN2
  rw [packN_eq_packF]
  refine decodeXY_packF hop hg (by omega) fun w r => ?_
  simp (disch := omega) only [hk w r.op, x2, r.g, r.digit, -Nat.reducePow, -Nat.reduceMul, fld_add_of_dvd, fld_add_of_lt,
    fld_mul_pow, fld_eq_zero_of_dvd]
  rfl

theorem decodeXY_bits {op : Nat} {o : NBit} {k : NBit → Instr} (hop : op < 64) (h : o.wf = true)
    (hk : ∀ w, fld w 26 6 = op →
      decodeXY w none = .ok (k ⟨fld w 22 4, fld w 16 6, fld w 10 6, fld w 4 6, fld w 0 4 + 1⟩)) :
    decodeXY (packN op o.g o.d o.a o.pos (o.len - 1)) none = .ok (k o) := by
  obtain ⟨hg, hd, ha, hp, hl, hl'⟩ := NBit.wf_iff.1 h
  rw [packN_eq_packF]
  refine decodeXY_packF hop hg (by omega) fun w r => ?_
  simp (disch := omega) only [hk w r.op, r.g, r.digit, -Nat.reducePow, -Nat.reduceMul, fld_add_of_dvd, fld_add_of_lt,
    fld_mul_pow, fld_of_lt, Nat.sub_add_cancel hl]

theorem ccCode_lt (cc : CCmp) : ccCode cc < 8 := by cases cc <;> decide
theorem ccOf_ccCode (cc : CCmp) : ccOf (ccCode cc) = cc := by cases cc <;> rfl

theorem decodeXY_encode {i : Instr} (h : i.wf = true) (hs : i.slot? = some .x) : decodeXY (encode i).w (encode i).x = .ok i := by
  cases i with
  | add o | sub o | and o | or o | xor o | shl o | shr o | sra o | mul o | mulh o | mulhs o | div o | divs o | rem o | rems o
  | min o | max o | mins o | maxs o | slt o | slts o | seq o =>
    refine decodeXY_eNR (by decide) (by decide) h fun w hw r => ?_
    simp only [decodeXY, hw, r.xR]
  | addsh o sh =>
    obtain ⟨ho, hsh⟩ := Bool.and_eq_true_iff.1 h
    refine decodeXY_eNR (by decide) (of_decide_eq_true hsh) ho fun w hw r => ?_
    simp [decodeXY, hw, judge, r.g, r.d, r.a, r.b, r.lit, r.fn]
  | sel o c neg =>
    obtain ⟨ho, hc⟩ := Bool.and_eq_true_iff.1 h
    have hc := of_decide_eq_true hc
    have hn := neg.toNat_lt
    refine decodeXY_eNR (by decide) (by omega) ho fun w hw r => ?_
    have hcond : fld w 1 3 = c := by
      rw [← fld_fld (w := w) (a := 0) (k := 4) (lo := 1) (by decide), r.fn]; unfold fld; omega
    have hneg : fld w 0 1 = neg.toNat := by
      rw [← fld_fld (w := w) (a := 0) (k := 4) (lo := 0) (by decide), r.fn]; unfold fld; omega
    simp [decodeXY, hw, judge, r.g, r.d, r.a, r.b, r.lit, hcond, hneg]
  | cmpc o cc =>
    obtain ⟨ho, hd⟩ := Bool.and_eq_true_iff.1 h
    have hd := of_decide_eq_true hd
    have hcc := ccCode_lt cc
    refine decodeXY_eNR (by decide) (by omega) ho fun w hw r => ?_
    have htop : fld w 19 3 = 0 := by
      rw [← fld_fld (w := w) (a := 16) (k := 6) (lo := 3) (by decide), r.d, fld_eq_zero_of_lt hd]
    have hdst : fld w 16 3 = o.d := by
      rw [← fld_fld (w := w) (a := 16) (k := 6) (lo := 0) (by decide), r.d, fld_of_lt hd]
    simp [decodeXY, hw, judge, r.g, r.a, r.b, r.lit, r.fn, htop, hdst, ccOf_ccCode, hcc]
  | mov o | clz o | popc o =>
    refine decodeXY_eN2 (by decide) h fun w hw => ?_
    simp only [decodeXY, hw]
  | addi o | andi o | ori o | xori o | slti o | ldb o | ldbs o | ldh o | ldhs o | ldw o | ldws o | ldd o | stb o | sth o | stw o
  | std o =>
    refine decodeXY_eNI (by decide) h fun w hw r => ?_
    simp only [decodeXY, hw, r.xI]
  | shli o | shri o | srai o =>
    obtain ⟨ho, ha⟩ := Bool.and_eq_true_iff.1 h
    refine decodeXY_eNI (by decide) ho fun w hw r => ?_
    simp only [decodeXY, hw, r.xSh ha]
  | li o =>
    obtain ⟨hg, hd, hb⟩ := NL.wf_iff.1 h
    have ho : (⟨o.g, o.d, 0, o.b⟩ : NI).wf = true := NI.wf_iff.2 ⟨hg, hd, Nat.zero_lt_succ 63, hb⟩
    show decodeXY (eNI 0x0A ⟨o.g, o.d, 0, o.b⟩).w (eNI 0x0A ⟨o.g, o.d, 0, o.b⟩).x = _
    refine decodeXY_eNI (by decide) ho fun w hw r => ?_
    simp [decodeXY, hw, judge, r.g, r.d, r.a, r.b, r.lit]
  | bfx o | bfi o =>
    refine decodeXY_bits (by decide) h fun w hw => ?_
    simp [decodeXY, hw, judge]
  | mfc o | mtc o =>
    obtain ⟨hg, hr, hn⟩ := NCtl.wf_iff.1 h
    show decodeXY (packI _ o.g _ _ o.num) none = _
    rw [packI_eq_packF]
    refine decodeXY_packF (by decide) hg (by omega) fun w r => ?_
    simp (disch := omega) only [decodeXY, r.op, r.g, r.digit, -Nat.reducePow, -Nat.reduceMul, fld_add_of_dvd, fld_add_of_lt,
      fld_mul_pow, fld_of_lt, fld_eq_zero_of_lt]
    simp [judge, ctlOk, hn]
  | idleXy => rfl
  | _ => cases hs

/-! ## V and W slots (R128 to R145) -/

theorem tyOf_tyCode (t : ETy) : tyOf (tyCode t) = some t := by cases t <;> rfl
theorem tyCode_lt (t : ETy) : tyCode t < 16 := by cases t <;> decide
theorem tyD_tyCode (t : ETy) : tyD (tyCode t) = t := by rw [tyD, tyOf_tyCode]; rfl
theorem tyReserved_tyCode (t : ETy) : tyReserved (tyCode t) = false := by rw [tyReserved, tyOf_tyCode]; rfl
theorem tyRefused_tyCode (p : ETy → Bool) (t : ETy) : tyRefused p (tyCode t) = !p t := by rw [tyRefused, tyOf_tyCode]

/-- What a syllable of format W-V holds. -/
structure ReadsV (w op g : Nat) (t : ETy) (d a b c st m : Nat) : Prop where
  op : fld w 56 8 = op
  g : fld w 51 5 = g
  d : fld w 41 10 = d
  a : fld w 31 10 = a
  b : fld w 21 10 = b
  c : fld w 11 10 = c
  t : fld w 7 4 = tyCode t
  st : fld w 5 2 = st
  m : fld w 0 5 = m

section ReadsV
variable {w op g d a b c st m : Nat} {t : ETy} {p : ETy → Bool} {e : Except DErr Instr}

theorem packV_reads (hop : op < 256) (hg : g < 32) (hd : d < 1024) (ha : a < 1024) (hb : b < 1024) (hc : c < 1024) (hst : st < 4)
    (hm : m < 32) : ReadsV (packV op g d a b c (tyCode t) st m) op g t d a b c st m := by
  have ht := tyCode_lt t
  constructor <;> (unfold packV fld; omega)

theorem decodeVW_packV (hop : op < 256) (hg : g < 32) (hd : d < 1024) (ha : a < 1024) (hb : b < 1024) (hc : c < 1024) (hst : st < 4)
    (hm : m < 32) (h : ∀ w, ReadsV w op g t d a b c st m → decodeVW w = e) : decodeVW (packV op g d a b c (tyCode t) st m) = e :=
  h _ (packV_reads hop hg hd ha hb hc hst hm)

theorem ReadsV.low {lo n : Nat} (r : ReadsV w op g t d a b c st m) (h : lo + n ≤ 5) : fld w lo n = fld m lo n := by
  rw [← r.m, fld_fld h, Nat.zero_add]

theorem ReadsV.v3Of (r : ReadsV w op g t d a b c st m) : v3Of w = ⟨g, t, d, a, b, st⟩ := by
  rw [Sys2Proof.v3Of, r.g, r.t, tyD_tyCode, r.d, r.a, r.b, r.st]

theorem ReadsV.v2Of (r : ReadsV w op g t d a b c st m) : v2Of w = ⟨g, t, d, a, st⟩ := by
  rw [Sys2Proof.v2Of, r.g, r.t, tyD_tyCode, r.d, r.a, r.st]

/-- A syllable whose type and fields are among the allowed ones meets no decode fault. -/
theorem ReadsV.vChk {dOk aOk bOk cOk mOk : Nat → Bool} {k : Instr} (r : ReadsV w op g t d a b c st m) (ht : p t = true)
    (hd : dOk d = true) (ha : aOk a = true) (hb : bOk b = true) (hc : cOk c = true) (hm : mOk m = true) :
    vChk w p dOk aOk bOk cOk mOk k = .ok k := by
  simp [Sys2Proof.vChk, judge, r.t, tyRefused_tyCode, tyReserved_tyCode, ht, r.d, r.a, r.b, r.c, r.m, hd, ha, hb, hc, hm]

end ReadsV

theorem vr_lt {n : Nat} (h : vr n = true) : n < 1024 := lt_trans (of_decide_eq_true h) (by decide)
theorem pr_lt {n : Nat} (h : pr n = true) : n < 1024 := lt_trans (of_decide_eq_true h) (by decide)
theorem sr_lt {n : Nat} (h : sr n = true) : n < 1024 := lt_trans (of_decide_eq_true h) (by decide)
theorem pairF_lt {n : Nat} (h : pairF n = true) : n < 1024 := lt_trans (of_decide_eq_true h) (by decide)

theorem V3.wf_iff {o : V3} {p : ETy → Bool} :
    o.wf p = true ↔ o.g < 32 ∧ p o.t = true ∧ vr o.d = true ∧ vr o.a = true ∧ vr o.b = true ∧ o.step < 4 := by
  simp [V3.wf, wg, and_assoc]
theorem V2.wf_iff {o : V2} {p : ETy → Bool} {dOk aOk : Nat → Bool} :
    o.wf p dOk aOk = true ↔ o.g < 32 ∧ p o.t = true ∧ dOk o.d = true ∧ aOk o.a = true ∧ o.step < 4 := by
  simp [V2.wf, wg, and_assoc]
theorem VP.wf_iff {o : VP} : o.wf = true ↔ o.g < 32 ∧ pr o.d = true ∧ pr o.a = true ∧ pr o.b = true ∧ o.step < 4 := by
  simp [VP.wf, wg, and_assoc]
theorem VP2.wf_iff {o : VP2} : o.wf = true ↔ o.g < 32 ∧ pr o.d = true ∧ pr o.a = true ∧ o.step < 4 := by
  simp [VP2.wf, wg, and_assoc]

/-- An instruction of three vector registers, one more field and a mod field decodes when its decoder hands these on. -/
theorem decodeVW_eV3 {op c m : Nat} {o : V3} {p : ETy → Bool} {e : Except DErr Instr} (h : o.wf p = true) (hop : op < 256)
    (hc : c < 1024) (hm : m < 32) (hk : ∀ w, ReadsV w op o.g o.t o.d o.a o.b c o.step m → decodeVW w = e) :
    decodeVW (eV3 op o c m).w = e := by
  obtain ⟨hg, -, hd, ha, hb, hst⟩ := V3.wf_iff.1 h
  exact decodeVW_packV hop hg (vr_lt hd) (vr_lt ha) (vr_lt hb) hc hst hm hk

theorem decodeVW_eV2 {op c m : Nat} {o : V2} {p : ETy → Bool} {dOk aOk : Nat → Bool} {e : Except DErr Instr}
    (h : o.wf p dOk aOk = true) (hd : o.d < 1024) (ha : o.a < 1024) (hop : op < 256) (hc : c < 1024) (hm : m < 32)
    (hk : ∀ w, ReadsV w op o.g o.t o.d o.a 0 c o.step m → decodeVW w = e) : decodeVW (eV2 op o c m).w = e := by
  obtain ⟨hg, -, -, -, hst⟩ := V2.wf_iff.1 h
  exact decodeVW_packV hop hg hd ha (by decide) hc hst hm hk

/-- Three vector registers, with every other field checked on its own. -/
theorem ReadsV.vChk3 {w op c m : Nat} {o : V3} {p : ETy → Bool} {cOk mOk : Nat → Bool} {k : Instr}
    (r : ReadsV w op o.g o.t o.d o.a o.b c o.step m) (h : o.wf p = true) (hc : cOk c = true) (hm : mOk m = true) :
    Sys2Proof.vChk w p vr vr vr cOk mOk k = .ok k := by
  obtain ⟨-, ht, hd, ha, hb, -⟩ := V3.wf_iff.1 h
  exact r.vChk ht hd ha hb hc hm

/-- Two registers, with every other field checked on its own. -/
theorem ReadsV.vChk2 {w op c m : Nat} {o : V2} {p : ETy → Bool} {dOk aOk cOk mOk : Nat → Bool} {k : Instr}
    (r : ReadsV w op o.g o.t o.d o.a 0 c o.step m) (h : o.wf p dOk aOk = true) (hc : cOk c = true) (hm : mOk m = true) :
    Sys2Proof.vChk w p dOk aOk zf cOk mOk k = .ok k := by
  obtain ⟨-, ht, hd, ha, -⟩ := V2.wf_iff.1 h
  exact r.vChk ht hd ha rfl hc hm

theorem decodeVW_vRRR {op : Nat} {o : V3} {p : ETy → Bool} {k : V3 → Instr} (hop : op < 256) (h : o.wf p = true)
    (hk : ∀ w, fld w 56 8 = op → decodeVW w = vRRR w p k) : decodeVW (eV3 op o 0 0).w = .ok (k o) :=
  decodeVW_eV3 h hop (by decide) (by decide) fun w r => by rw [hk w r.op, vRRR, r.vChk3 h rfl rfl, r.v3Of]

/-- An instruction of two registers, of whatever files, and no other field. -/
theorem decodeVW_vRR {op : Nat} {o : V2} {p : ETy → Bool} {dOk aOk : Nat → Bool} {k : V2 → Instr} (hop : op < 256)
    (h : o.wf p dOk aOk = true) (hd : ∀ {n}, dOk n = true → n < 1024) (ha : ∀ {n}, aOk n = true → n < 1024)
    (hk : ∀ w, fld w 56 8 = op → decodeVW w = vChk w p dOk aOk zf zf zf (k (v2Of w))) :
    decodeVW (eV2 op o 0 0).w = .ok (k o) := by
  obtain ⟨-, -, hdo, hao, -⟩ := V2.wf_iff.1 h
  exact decodeVW_eV2 h (hd hdo) (ha hao) hop (by decide) (by decide) fun w r => by rw [hk w r.op, r.vChk2 h rfl rfl, r.v2Of]

theorem ETy.width_le (t : ETy) : t.width ≤ 8 := by cases t <;> decide
theorem ETy.count_le (t : ETy) : t.count ≤ 512 := by cases t <;> decide

/-- A vector shift by a register or by an immediate (R136). -/
theorem decodeVW_eSh {op : Nat} {o : V2} {b : Amt} {k : V2 → Amt → Instr} (hop : op < 256) (h : o.wf ETy.isInt vr vr = true)
    (hb : (match b with | .reg n => vr n | .imm n => decide (n < 8 * o.t.width)) = true)
    (hk : ∀ w, fld w 56 8 = op → decodeVW w = vShift w k) : decodeVW (eSh op o b).w = .ok (k o b) := by
  obtain ⟨hg, ht, hd, ha, hst⟩ := V2.wf_iff.1 h
  cases b with
  | reg n =>
    refine decodeVW_packV hop hg (vr_lt hd) (vr_lt ha) (vr_lt hb) (by decide) hst (by decide) fun w r => ?_
    have hm : fld w 0 1 = 0 := r.low (by decide)
    rw [hk w r.op, vShift, hm, if_neg (by decide), r.vChk ht hd ha hb rfl rfl, r.v2Of, r.b]
  | imm n =>
    have hw := o.t.width_le
    have hn := of_decide_eq_true hb
    refine decodeVW_packV hop hg (vr_lt hd) (vr_lt ha) (by decide) (by omega) hst (by decide) fun w r => ?_
    have hm : fld w 0 1 = 1 := r.low (by decide)
    rw [hk w r.op, vShift, hm, if_pos rfl, r.vChk ht hd ha rfl ?_ rfl, r.v2Of, r.c]
    rw [r.t, tyD_tyCode]
    exact hb

/-- A predicate instruction of three registers (R144). -/
theorem decodeVW_eVP {op : Nat} {o : VP} {k : VP → Instr} (hop : op < 256) (h : o.wf = true)
    (hk : ∀ w, fld w 56 8 = op → decodeVW w = vPred w pr (k ⟨fld w 51 5, fld w 41 10, fld w 31 10, fld w 21 10, fld w 5 2⟩)) :
    decodeVW (eVP op o).w = .ok (k o) := by
  obtain ⟨hg, hd, ha, hb, hst⟩ := VP.wf_iff.1 h
  refine decodeVW_packV (t := .b) hop hg (pr_lt hd) (pr_lt ha) (pr_lt hb) (by decide) hst (by decide) fun w r => ?_
  rw [hk w r.op]
  simp [vPred, judge, r.t, r.g, r.d, r.a, r.b, r.c, r.st, r.m, hd, ha, hb, zf, tyCode]

theorem icCode_lt (cc : ICmp) : icCode cc < 6 := by cases cc <;> decide
theorem icOf_icCode (cc : ICmp) : icOf (icCode cc) = cc := by cases cc <;> rfl
theorem fcCode_lt (cc : FCmp) : fcCode cc < 8 := by cases cc <;> decide
theorem fcOf_fcCode (cc : FCmp) : fcOf (fcCode cc) = cc := by cases cc <;> rfl
theorem redCode_lt (op : RedOp) : redCode op < 6 := by cases op <;> decide
theorem redOf_redCode (op : RedOp) : redOf (redCode op) = op := by cases op <;> rfl

theorem decodeVW_encode {i : Instr} (h : i.wf = true) (hs : i.slot? = some .v) : decodeVW (encode i).w = .ok i := by
  cases i with
  | vadd o sat | vsub o sat =>
    have hsat := sat.toNat_lt
    refine decodeVW_eV3 h (by decide) (by decide) (by omega) fun w r => ?_
    have hm : decide (fld w 0 1 = 1) = sat := by rw [r.low (by decide), fld_of_lt hsat, decide_toNat_eq_one]
    simp only [decodeVW, r.op, r.v3Of, hm]
    exact r.vChk3 h rfl (decide_eq_true hsat)
  | vmul o | vmulh o | vmac o | vmacs o | vmin o | vmax o | vand o | vor o | vxor o | vfadd o | vfsub o | vfmul o | vfmin o
  | vfmax o | vperm o =>
    refine decodeVW_vRRR (by decide) h fun w hw => ?_
    simp only [decodeVW, hw]
  | vabs o sat | vneg o sat =>
    obtain ⟨-, -, hd, ha, -⟩ := V2.wf_iff.1 h
    have hsat := sat.toNat_lt
    refine decodeVW_eV2 h (vr_lt hd) (vr_lt ha) (by decide) (by decide) (by omega) fun w r => ?_
    have hm : decide (fld w 0 1 = 1) = sat := by rw [r.low (by decide), fld_of_lt hsat, decide_toNat_eq_one]
    simp only [decodeVW, r.op, r.v2Of, hm]
    exact r.vChk2 h rfl (decide_eq_true hsat)
  | vnot o | vfcls o | vrcp o | vrsq o | vexp o | vlog o | vtanh o | vmov o =>
    refine decodeVW_vRR (by decide) h vr_lt vr_lt fun w hw => ?_
    simp only [decodeVW, hw, vRR]
  | vsat o n =>
    obtain ⟨ho, hn⟩ := Bool.and_eq_true_iff.1 h
    obtain ⟨ho, hn1⟩ := Bool.and_eq_true_iff.1 ho
    obtain ⟨-, -, hd, ha, -⟩ := V2.wf_iff.1 ho
    have hw := o.t.width_le
    have hn8 := of_decide_eq_true hn
    refine decodeVW_eV2 ho (vr_lt hd) (vr_lt ha) (by decide) (by omega) (by decide) fun w r => ?_
    simp only [decodeVW, r.op, r.v2Of, r.t, tyD_tyCode, r.c]
    exact r.vChk2 ho (Bool.and_eq_true_iff.2 ⟨hn1, hn⟩) rfl
  | vnrw o sh sat rnd =>
    obtain ⟨ho, hsh⟩ := Bool.and_eq_true_iff.1 h
    obtain ⟨-, -, hd, ha, -⟩ := V2.wf_iff.1 ho
    have hw := o.t.width_le
    have hsh8 := of_decide_eq_true hsh
    have hs1 := sat.toNat_lt
    have hr1 := rnd.toNat_lt
    refine decodeVW_eV2 ho (vr_lt hd) (pairF_lt ha) (by decide) (by omega) (by omega) fun w r => ?_
    have hsat : fld w 0 1 = sat.toNat := by rw [r.low (by decide)]; unfold fld; omega
    have hrnd : fld w 1 1 = rnd.toNat := by rw [r.low (by decide)]; unfold fld; omega
    simp only [decodeVW, r.op, r.v2Of, r.t, tyD_tyCode, r.c, hsat, hrnd, decide_toNat_eq_one]
    exact r.vChk2 ho hsh (decide_eq_true (by omega))
  | vwid o =>
    have ho : o.wf ETy.widens pairF vr = true := h
    refine decodeVW_vRR (by decide) ho pairF_lt vr_lt fun w hw => ?_
    simp only [decodeVW, hw]
  | vshl o b | vshr o b | vsra o b =>
    obtain ⟨ho, hb⟩ := Bool.and_eq_true_iff.1 h
    refine decodeVW_eSh (by decide) ho hb fun w hw => ?_
    simp only [decodeVW, hw]
  | vcmp o cc =>
    simp only [Instr.wf, wg, Bool.and_eq_true, decide_eq_true_eq, and_assoc] at h
    obtain ⟨hg, ht, hd, ha, hb, hst⟩ := h
    have hcc := icCode_lt cc
    refine decodeVW_packV (by decide) hg (pr_lt hd) (vr_lt ha) (vr_lt hb) (by decide) hst (by omega) fun w r => ?_
    simp only [decodeVW, r.op, r.v3Of, r.m, icOf_icCode, vSelChk, hcc, decide_true, if_true]
    exact r.vChk ht hd ha hb rfl rfl
  | vfcmp o cc =>
    simp only [Instr.wf, wg, Bool.and_eq_true, decide_eq_true_eq, and_assoc] at h
    obtain ⟨hg, ht, hd, ha, hb, hst⟩ := h
    have hcc := fcCode_lt cc
    refine decodeVW_packV (by decide) hg (pr_lt hd) (vr_lt ha) (vr_lt hb) (by decide) hst (by omega) fun w r => ?_
    simp only [decodeVW, r.op, r.v3Of, r.m, fcOf_fcCode, vSelChk, hcc, decide_true, if_true]
    exact r.vChk ht hd ha hb rfl rfl
  | vsel o c =>
    obtain ⟨ho, hc⟩ := Bool.and_eq_true_iff.1 h
    refine decodeVW_eV3 ho (by decide) (pr_lt hc) (by decide) fun w r => ?_
    simp only [decodeVW, r.op, r.v3Of, r.c]
    exact r.vChk3 ho hc rfl
  | vfma o c | vfms o c =>
    obtain ⟨ho, hc⟩ := Bool.and_eq_true_iff.1 h
    refine decodeVW_eV3 ho (by decide) (vr_lt hc) (by decide) fun w r => ?_
    simp only [decodeVW, r.op, r.v3Of, r.c]
    exact r.vChk3 ho hc rfl
  | vsld o sh =>
    obtain ⟨ho, hc⟩ := Bool.and_eq_true_iff.1 h
    have hsh := of_decide_eq_true hc
    have ht := o.t.count_le
    refine decodeVW_eV3 ho (by decide) (by omega) (by decide) fun w r => ?_
    simp only [decodeVW, r.op, r.v3Of, r.c, r.t, tyD_tyCode]
    exact r.vChk3 ho hc rfl
  | vcvt o u hi =>
    simp only [Instr.wf, Bool.and_eq_true, and_assoc] at h
    obtain ⟨ho, hu, hf, hhi⟩ := h
    obtain ⟨-, ht, hd, ha, -⟩ := V2.wf_iff.1 ho
    have hu16 := tyCode_lt u
    have hh := hi.toNat_lt
    refine decodeVW_eV2 ho (vr_lt hd) (vr_lt ha) (by decide) (by decide) (by omega) fun w r => ?_
    have hcode : fld w 0 4 = tyCode u := by rw [r.low (by decide)]; unfold fld; omega
    have hbit : fld w 4 1 = hi.toNat := by rw [r.low (by decide)]; unfold fld; omega
    have hv := r.v2Of
    simp only [decodeVW, r.op, decodeVcvt, hv, hcode, hbit, decide_toNat_eq_one, r.t, r.d, r.a, r.b, r.c, tyD_tyCode,
      tyRefused_tyCode, tyReserved_tyCode, ht, hu, hd, ha, hf, zf, judge]
    simpa [or_iff_not_imp_left] using hhi
  | vqnt o c q =>
    simp only [Instr.wf, Bool.and_eq_true, and_assoc] at h
    obtain ⟨ho, hc, hq, hdc⟩ := h
    obtain ⟨-, -, hd, ha, -⟩ := V2.wf_iff.1 ho
    have hq4 := of_decide_eq_true hq
    refine decodeVW_eV2 ho (vr_lt hd) (vr_lt ha) (by decide) (vr_lt hc) (by omega) fun w r => ?_
    simp only [decodeVW, r.op, r.v2Of, r.c, r.m, r.d]
    exact r.vChk2 ho (Bool.and_eq_true_iff.2 ⟨hc, hdc⟩) hq
  | vdqnt o c q =>
    simp only [Instr.wf, Bool.and_eq_true, and_assoc] at h
    obtain ⟨ho, hc, hq⟩ := h
    obtain ⟨-, -, hd, ha, -⟩ := V2.wf_iff.1 ho
    have hq4 := of_decide_eq_true hq
    refine decodeVW_eV2 ho (vr_lt hd) (vr_lt ha) (by decide) (vr_lt hc) (by omega) fun w r => ?_
    simp only [decodeVW, r.op, r.v2Of, r.c, r.m]
    exact r.vChk2 ho hc hq
  | vred o op =>
    have ho : o.wf (redTy op) vr vr = true := h
    obtain ⟨-, -, hd, ha, -⟩ := V2.wf_iff.1 ho
    have hop := redCode_lt op
    refine decodeVW_eV2 ho (vr_lt hd) (vr_lt ha) (by decide) (by decide) (by omega) fun w r => ?_
    simp only [decodeVW, r.op, r.v2Of, r.m, redOf_redCode, vSelChk, hop, decide_true, if_true]
    exact r.vChk2 ho rfl rfl
  | vbcstScalar o =>
    obtain ⟨-, -, hd, ha, -⟩ := V2.wf_iff.1 h
    refine decodeVW_eV2 h (vr_lt hd) (sr_lt ha) (by decide) (by decide) (by decide) fun w r => ?_
    simp only [decodeVW, r.op, r.v2Of, r.m, if_true]
    exact r.vChk2 h rfl rfl
  | vbcstElement o n =>
    obtain ⟨ho, hc⟩ := Bool.and_eq_true_iff.1 h
    obtain ⟨-, -, hd, ha, -⟩ := V2.wf_iff.1 ho
    have hn := of_decide_eq_true hc
    have ht := o.t.count_le
    refine decodeVW_eV2 ho (vr_lt hd) (vr_lt ha) (by decide) (by omega) (by decide) fun w r => ?_
    simp only [decodeVW, r.op, r.v2Of, r.m, r.c, r.t, tyD_tyCode, vSelChk, Nat.one_ne_zero, decide_true, if_true, if_false]
    exact r.vChk2 ho hc rfl
  | vins o n =>
    obtain ⟨ho, hc⟩ := Bool.and_eq_true_iff.1 h
    obtain ⟨hg, hty, hd, ha, hst⟩ := V2.wf_iff.1 ho
    have hn := of_decide_eq_true hc
    have ht := o.t.count_le
    refine decodeVW_packV (by decide) hg (vr_lt hd) (by decide) (sr_lt ha) (by omega) hst (by decide) fun w r => ?_
    simp only [decodeVW, r.op, r.g, r.t, tyD_tyCode, r.d, r.b, r.st, r.c]
    exact r.vChk hty hd rfl ha hc rfl
  | vext o n =>
    obtain ⟨ho, hc⟩ := Bool.and_eq_true_iff.1 h
    obtain ⟨-, -, hd, ha, -⟩ := V2.wf_iff.1 ho
    have hn := of_decide_eq_true hc
    have ht := o.t.count_le
    refine decodeVW_eV2 ho (sr_lt hd) (vr_lt ha) (by decide) (by omega) (by decide) fun w r => ?_
    simp only [decodeVW, r.op, r.v2Of, r.c, r.t, tyD_tyCode]
    exact r.vChk2 ho hc rfl
  | viota o =>
    refine decodeVW_vRR (by decide) h vr_lt pr_lt fun w hw => ?_
    simp only [decodeVW, hw]
  | pset o =>
    refine decodeVW_vRR (by decide) h pr_lt sr_lt fun w hw => ?_
    simp only [decodeVW, hw]
  | pcnt o =>
    refine decodeVW_vRR (by decide) h sr_lt pr_lt fun w hw => ?_
    simp only [decodeVW, hw]
  | pand o | por o | pxor o =>
    refine decodeVW_eVP (by decide) h fun w hw => ?_
    simp only [decodeVW, hw]
  | pnot o =>
    obtain ⟨hg, hd, ha, hst⟩ := VP2.wf_iff.1 h
    refine decodeVW_packV (t := .b) (by decide) hg (pr_lt hd) (pr_lt ha) (by decide) (by decide) hst (by decide) fun w r => ?_
    simp [decodeVW, r.op, vPred, judge, r.t, r.g, r.d, r.a, r.b, r.c, r.st, r.m, hd, ha, zf, tyCode]
  | idleVw => rfl
  | _ => cases hs

/-! ## L slot (R94) -/

/-- What a syllable of format W-L holds. -/
structure ReadsL (w op g v base off step : Nat) : Prop where
  op : fld w 56 8 = op
  g : fld w 51 5 = g
  v : fld w 41 10 = v
  base : fld w 35 6 = base
  off : fld w 13 22 = off
  step : fld w 0 13 = step

theorem packL_reads {op g v base off step : Nat} (hop : op < 256) (hg : g < 32) (hv : v < 1024) (hb : base < 64)
    (ho : off < 2 ^ 22) (hs : step < 2 ^ 13) : ReadsL (packL op g v base off step) op g v base off step := by
  constructor <;> (unfold packL fld; omega)

theorem decodeL_packL {op g v base off step : Nat} {e : Except DErr Instr} (hop : op < 256) (hg : g < 32) (hv : v < 1024)
    (hb : base < 64) (ho : off < 2 ^ 22) (hs : step < 2 ^ 13) (h : ∀ w, ReadsL w op g v base off step → decodeL w = e) :
    decodeL (packL op g v base off step) = e := h _ (packL_reads hop hg hv hb ho hs)

theorem LD.wf_iff {o : LD} {vOk : Nat → Bool} : o.wf vOk = true ↔
    o.g < 32 ∧ vOk o.v = true ∧ o.base < 64 ∧ fitsInt 22 o.off = true ∧ fitsInt 13 o.step = true := by
  simp [LD.wf, wg, sr, and_assoc]
theorem LS.wf_iff {o : LS} : o.wf = true ↔
    o.g < 32 ∧ vr o.v = true ∧ o.base < 64 ∧ fitsInt 22 o.stride = true ∧ fitsInt 13 o.step = true := by
  simp [LS.wf, wg, sr, and_assoc]
theorem LX.wf_iff {o : LX} : o.wf = true ↔
    o.g < 32 ∧ vr o.v = true ∧ o.base < 64 ∧ fitsInt 22 o.off = true ∧ vr o.vi = true := by
  simp [LX.wf, wg, sr, and_assoc]
theorem LF.wf_iff {o : LF} : o.wf = true ↔
    o.g < 32 ∧ o.sc < 64 ∧ o.len < 16 ∧ o.base < 64 ∧ fitsInt 22 o.off = true ∧ fitsInt 13 o.step = true := by
  simp [LF.wf, wg, sr, and_assoc]

theorem decodeL_eLD {op : Nat} {o : LD} {vOk : Nat → Bool} {k : LD → Instr} (hop : op < 256) (h : o.wf vOk = true)
    (hv : ∀ {n}, vOk n = true → n < 1024) (hk : ∀ w, fld w 56 8 = op → decodeL w = lD w vOk k) : decodeL (eLD op o).w = .ok (k o) := by
  obtain ⟨hg, hvo, hb, ho, hs⟩ := LD.wf_iff.1 h
  refine decodeL_packL hop hg (hv hvo) hb (unsext_lt 22 _) (unsext_lt 13 _) fun w r => ?_
  simp [hk w r.op, lD, judge, r.g, r.v, r.base, r.off, r.step, hvo, sextN_unsext, ho, hs]

theorem decodeL_eLS {op : Nat} {o : LS} {k : LS → Instr} (hop : op < 256) (h : o.wf = true)
    (hk : ∀ w, fld w 56 8 = op → decodeL w = lS w k) : decodeL (eLS op o).w = .ok (k o) := by
  obtain ⟨hg, hvo, hb, ho, hs⟩ := LS.wf_iff.1 h
  refine decodeL_packL hop hg (vr_lt hvo) hb (unsext_lt 22 _) (unsext_lt 13 _) fun w r => ?_
  simp [hk w r.op, lS, judge, r.g, r.v, r.base, r.off, r.step, hvo, sextN_unsext, ho, hs]

theorem decodeL_eLX {op : Nat} {o : LX} {k : LX → Instr} (hop : op < 256) (h : o.wf = true)
    (hk : ∀ w, fld w 56 8 = op → decodeL w = lX w k) : decodeL (eLX op o).w = .ok (k o) := by
  obtain ⟨hg, hvo, hb, ho, hi⟩ := LX.wf_iff.1 h
  have hi10 := vr_lt hi
  refine decodeL_packL hop hg (vr_lt hvo) hb (unsext_lt 22 _) (by omega) fun w r => ?_
  have hvi : fld w 3 10 = o.vi := by
    rw [← fld_fld (w := w) (a := 0) (k := 13) (lo := 3) (by decide), r.step]; unfold fld; omega
  have hlow : fld w 0 3 = 0 := by
    rw [← fld_fld (w := w) (a := 0) (k := 13) (lo := 0) (by decide), r.step]; unfold fld; omega
  simp [hk w r.op, lX, judge, r.g, r.v, r.base, r.off, hvo, sextN_unsext, ho, hvi, hi, hlow, zf]

theorem decodeL_encode {i : Instr} (h : i.wf = true) (hs : i.slot? = some .l) : decodeL (encode i).w = .ok i := by
  cases i with
  | vld o | vst o | vldb o =>
    refine decodeL_eLD (by decide) h vr_lt fun w hw => ?_
    simp only [decodeL, hw]
  | pld o | pst o =>
    refine decodeL_eLD (by decide) h pr_lt fun w hw => ?_
    simp only [decodeL, hw]
  | vlds o | vsts o =>
    refine decodeL_eLS (by decide) h fun w hw => ?_
    simp only [decodeL, hw]
  | vldx o | vstx o =>
    refine decodeL_eLX (by decide) h fun w hw => ?_
    simp only [decodeL, hw]
  | fill o =>
    obtain ⟨hg, hsc, hl, hb, ho, hst⟩ := LF.wf_iff.1 h
    refine decodeL_packL (by decide) hg (by omega) hb (unsext_lt 22 _) (unsext_lt 13 _) fun w r => ?_
    have hscw : fld w 45 6 = o.sc := by
      rw [← fld_fld (w := w) (a := 41) (k := 10) (lo := 4) (by decide), r.v]; unfold fld; omega
    have hlen : fld w 41 4 = o.len := by
      rw [← fld_fld (w := w) (a := 41) (k := 10) (lo := 0) (by decide), r.v]; unfold fld; omega
    simp [decodeL, r.op, r.g, r.base, r.off, r.step, sextN_unsext, ho, hst, hscw, hlen]
  | idleL => rfl
  | _ => cases hs

/-! ## M slot (R180, R326) -/

/-- What a syllable of format W-M holds; some decoders read neighbouring fields as one. -/
structure ReadsM (w op tile a b k zone prod cons st m : Nat) : Prop where
  abk : fld w 34 18 = a * 2 ^ 12 + b * 2 ^ 6 + k
  bkz : fld w 31 15 = b * 2 ^ 9 + k * 2 ^ 3 + zone
  stm : fld w 0 20 = st * 2 ^ 18 + m
  op : fld w 56 8 = op
  tile : fld w 52 4 = tile
  a : fld w 46 6 = a
  b : fld w 40 6 = b
  k : fld w 34 6 = k
  zone : fld w 31 3 = zone
  prod : fld w 28 3 = prod
  cons : fld w 20 8 = cons
  st : fld w 18 2 = st
  m : fld w 0 18 = m

section ReadsM
variable {w op tile a b k zone prod cons st m : Nat} {x : Nat} {e : Except DErr Instr}

theorem packM_reads (hop : op < 256) (ht : tile < 16) (ha : a < 64) (hb : b < 64) (hk : k < 64) (hz : zone < 8) (hp : prod < 8)
    (hc : cons < 256) (hs : st < 4) (hm : m < 2 ^ 18) :
    ReadsM (packM op tile a b k zone prod cons st m) op tile a b k zone prod cons st m := by
  constructor <;> (unfold packM fld; omega)

theorem decodeM_packM (hop : op < 256) (ht : tile < 16) (ha : a < 64) (hb : b < 64) (hk : k < 64) (hz : zone < 8) (hp : prod < 8)
    (hc : cons < 256) (hs : st < 4) (hm : m < 2 ^ 18) (h : ∀ w, ReadsM w op tile a b k zone prod cons st m → decodeM w x = e) :
    decodeM (packM op tile a b k zone prod cons st m) x = e := h _ (packM_reads hop ht ha hb hk hz hp hc hs hm)

theorem ReadsM.low {lo n : Nat} (r : ReadsM w op tile a b k zone prod cons st m) (h : lo + n ≤ 18) : fld w lo n = fld m lo n := by
  rw [← r.m, fld_fld h, Nat.zero_add]

end ReadsM

theorem consOk_lt {m : Nat} (h : consOk m = true) : m < 256 := of_decide_eq_true (Bool.and_eq_true_iff.1 h).1

theorem mHead_iff {tile prod cons step : Nat} :
    mHead tile prod cons step = true ↔ tile < 16 ∧ prod < 8 ∧ consOk cons = true ∧ step < 4 := by simp [mHead, and_assoc]
theorem MM.wf_iff {o : MM} : o.wf = true ↔ (o.tile < 16 ∧ o.prod < 8 ∧ consOk o.cons = true ∧ o.step < 4) ∧
    o.a < 64 ∧ o.b < 64 ∧ o.k < 64 ∧ o.zone < 8 ∧ o.apitch < 512 ∧ o.bpitch < 512 := by
  simp [MM.wf, mHead_iff, sr, and_assoc]
theorem MS.wf_iff {o : MS} : o.wf = true ↔ (o.tile < 16 ∧ o.prod < 8 ∧ consOk o.cons = true ∧ o.step < 4) ∧
    o.a < 64 ∧ o.k < 64 ∧ o.zone < 8 ∧ o.apitch < 512 := by simp [MS.wf, mHead_iff, sr, and_assoc]
theorem MZ.wf_iff {o : MZ} : o.wf = true ↔ (o.tile < 16 ∧ o.prod < 8 ∧ consOk o.cons = true ∧ o.step < 4) ∧ o.zone < 8 := by
  simp [MZ.wf, mHead_iff]
theorem MV.wf_iff {o : MV} : o.wf = true ↔ (o.tile < 16 ∧ o.prod < 8 ∧ consOk o.cons = true ∧ o.step < 4) ∧
    o.row < 64 ∧ vr o.v = true := by simp [MV.wf, mHead_iff, sr, and_assoc]
theorem MX.wf_iff {o : MX} {shifts : Bool} : o.wf shifts = true ↔ (o.tile < 16 ∧ o.prod < 8 ∧ consOk o.cons = true ∧ o.step < 4) ∧
    o.addr < 64 ∧ o.zone < 8 ∧ o.u.moves = true ∧ o.pitch < 512 ∧
    (o.shift = 0 ∨ o.shift < 32 ∧ (shifts && (o.u == .b || o.u == .h || o.u == .w)) = true) := by
  simp only [MX.wf, mHead_iff, sr, Bool.and_eq_true, Bool.or_eq_true, decide_eq_true_eq, and_assoc]
  tauto
theorem MI.wf_iff {o : MI} : o.wf = true ↔ o.a < 64 ∧ o.prod < 8 ∧ consOk o.cons = true := by
  simp [MI.wf, sr, and_assoc]

theorem decodeM_eMM {op x : Nat} {y : Option Nat} {o : MM} {k : MM → Instr} (hop : op < 256) (h : o.wf = true)
    (hk : ∀ w, fld w 56 8 = op → decodeM w x = mP w k) : decodeM (eMM op o y).w x = .ok (k o) := by
  obtain ⟨⟨ht, hp, hc, hs⟩, ha, hb, hko, hz, hap, hbp⟩ := MM.wf_iff.1 h
  refine decodeM_packM hop ht ha hb hko hz hp (consOk_lt hc) hs (by omega) fun w r => ?_
  have hapw : fld w 9 9 = o.apitch := by rw [r.low (by decide)]; unfold fld; omega
  have hbpw : fld w 0 9 = o.bpitch := by rw [r.low (by decide)]; unfold fld; omega
  simp [hk w r.op, mP, mmOf, judge, r.tile, r.a, r.b, r.k, r.zone, r.prod, r.cons, r.st, hapw, hbpw, hc]

theorem decodeM_eMV {op : Nat} {o : MV} {k : MV → Instr} (hop : op < 256) (h : o.wf = true)
    (hk : ∀ w, fld w 56 8 = op → decodeM w 0 = mV w k) : decodeM (eMV op o).w 0 = .ok (k o) := by
  obtain ⟨⟨ht, hp, hc, hs⟩, hr, hv⟩ := MV.wf_iff.1 h
  have hv10 := vr_lt hv
  refine decodeM_packM hop ht hr (by decide) (by decide) (by decide) hp (consOk_lt hc) hs (by omega) fun w r => ?_
  have hvw : fld w 0 10 = o.v := by rw [r.low (by decide), fld_of_lt hv10]
  have hhi : fld w 10 8 = 0 := by rw [r.low (by decide), fld_eq_zero_of_lt hv10]
  simp [hk w r.op, mV, judge, r.tile, r.a, r.b, r.k, r.zone, r.prod, r.cons, r.st, hvw, hhi, hc, hv, zf]

theorem decodeM_eMX {op : Nat} {o : MX} {shifts : Bool} {k : MX → Instr} (hop : op < 256) (h : o.wf shifts = true)
    (hk : ∀ w, fld w 56 8 = op → decodeM w 0 = mX w shifts k) : decodeM (eMX op o).w 0 = .ok (k o) := by
  obtain ⟨⟨ht, hp, hc, hs⟩, ha, hz, hu, hpi, hsh⟩ := MX.wf_iff.1 h
  have hu16 := tyCode_lt o.u
  have hsh32 : o.shift < 32 := by rcases hsh with h0 | ⟨h0, -⟩ <;> omega
  refine decodeM_packM hop ht ha (by decide) (by decide) hz hp (consOk_lt hc) hs (by omega) fun w r => ?_
  have huw : fld w 14 4 = tyCode o.u := by rw [r.low (by decide)]; unfold fld; omega
  have hpw : fld w 5 9 = o.pitch := by rw [r.low (by decide)]; unfold fld; omega
  have hsw : fld w 0 5 = o.shift := by rw [r.low (by decide)]; unfold fld; omega
  have hok : (zf o.shift || (shifts && (o.u == .b || o.u == .h || o.u == .w))) = true := by
    rcases hsh with h0 | ⟨-, h0⟩ <;> simp only [zf, h0, decide_true, Bool.true_or, Bool.or_true]
  simp only [hk w r.op, mX, judge, r.tile, r.a, r.b, r.k, r.zone, r.prod, r.cons, r.st, huw, hpw, hsw, tyD_tyCode,
    tyRefused_tyCode, tyReserved_tyCode, hu, hc, hok]
  rfl

theorem decodeM_eMI {op : Nat} {o : MI} {k : MI → Instr} (hop : op < 256) (h : o.wf = true)
    (hk : ∀ w, fld w 56 8 = op → decodeM w 0 = mI w k) : decodeM (eMI op o).w 0 = .ok (k o) := by
  obtain ⟨ha, hp, hc⟩ := MI.wf_iff.1 h
  refine decodeM_packM hop (by decide) ha (by decide) (by decide) (by decide) hp (consOk_lt hc) (by decide) (by decide) fun w r => ?_
  simp [hk w r.op, mI, judge, r.tile, r.a, r.bkz, r.prod, r.cons, r.stm, hc, zf]

theorem decodeM_encode {i : Instr} (h : i.wf = true) (hs : i.slot? = some .m) : decodeM (encode i).w ((encode i).x.getD 0) = .ok i := by
  cases i with
  | mmul o | macc o =>
    refine decodeM_eMM (by decide) h fun w hw => ?_
    simp only [decodeM, hw]
  | mmuls o sel =>
    obtain ⟨ho, -⟩ := Bool.and_eq_true_iff.1 h
    refine decodeM_eMM (x := sel) (y := some sel) (k := fun o => .mmuls o sel) (by decide) ho fun w hw => ?_
    simp only [decodeM, hw]
  | maccs o sel =>
    obtain ⟨ho, -⟩ := Bool.and_eq_true_iff.1 h
    refine decodeM_eMM (x := sel) (y := some sel) (k := fun o => .maccs o sel) (by decide) ho fun w hw => ?_
    simp only [decodeM, hw]
  | mstrm o =>
    obtain ⟨⟨ht, hp, hc, hst⟩, ha, hk, hz, hap⟩ := MS.wf_iff.1 h
    have hacc := o.acc.toNat_lt
    refine decodeM_packM (by decide) ht ha (by decide) hk hz hp (consOk_lt hc) hst (by omega) fun w r => ?_
    have hapw : fld w 9 9 = o.apitch := by rw [r.low (by decide)]; unfold fld; omega
    have haw : fld w 8 1 = o.acc.toNat := by rw [r.low (by decide)]; unfold fld; omega
    have hlow : fld w 0 8 = 0 := by rw [r.low (by decide)]; unfold fld; omega
    simp [decodeM, r.op, judge, r.tile, r.a, r.b, r.k, r.zone, r.prod, r.cons, r.st, hapw, haw, hlow, hc, zf]
  | mzero o =>
    obtain ⟨⟨ht, hp, hc, hst⟩, hz⟩ := MZ.wf_iff.1 h
    refine decodeM_packM (by decide) ht (by decide) (by decide) (by decide) hz hp (consOk_lt hc) hst (by decide) fun w r => ?_
    simp [decodeM, r.op, judge, r.tile, r.abk, r.zone, r.prod, r.cons, r.st, r.m, hc, zf]
  | mrdv o | mwrv o =>
    refine decodeM_eMV (by decide) h fun w hw => ?_
    simp only [decodeM, hw]
  | mrds o | mwrs o =>
    refine decodeM_eMX (by decide) h fun w hw => ?_
    simp only [decodeM, hw]
  | mseam o | mresume o =>
    refine decodeM_eMI (by decide) h fun w hw => ?_
    simp only [decodeM, hw]
  | idleM => rfl
  | _ => cases hs

/-! ## C slot (R77 to R86) -/

/-- What a syllable of format W-C holds; some decoders read neighbouring fields as one. -/
structure ReadsC (w op sq a b c prod cons x : Nat) : Prop where
  abc : fld w 34 18 = a * 2 ^ 12 + b * 2 ^ 6 + c
  bc : fld w 34 12 = b * 2 ^ 6 + c
  op : fld w 56 8 = op
  sq : fld w 52 4 = sq
  a : fld w 46 6 = a
  b : fld w 40 6 = b
  c : fld w 34 6 = c
  prod : fld w 31 3 = prod
  cons : fld w 23 8 = cons
  x : fld w 0 23 = x

section ReadsC
variable {w op sq a b c prod cons x : Nat} {e : Except DErr Instr}

theorem packC_reads (hop : op < 256) (hq : cHead sq prod cons = true) (ha : a < 64) (hb : b < 64) (hc : c < 64) (hx : x < 2 ^ 23) :
    ReadsC (packC op sq a b c prod cons x) op sq a b c prod cons x := by
  simp only [cHead, Bool.and_eq_true, decide_eq_true_eq] at hq
  obtain ⟨⟨hsq, hp⟩, hcons⟩ := hq
  have hcons := consOk_lt hcons
  constructor <;> (unfold packC fld; omega)

theorem decodeC_packC (hop : op < 256) (hq : cHead sq prod cons = true) (ha : a < 64) (hb : b < 64) (hc : c < 64) (hx : x < 2 ^ 23)
    (h : ∀ w, ReadsC w op sq a b c prod cons x → consOk cons = true → decodeC w = e) :
    decodeC (packC op sq a b c prod cons x) = e := h _ (packC_reads hop hq ha hb hc hx) (Bool.and_eq_true_iff.1 hq).2

theorem ReadsC.low {lo n : Nat} (r : ReadsC w op sq a b c prod cons x) (h : lo + n ≤ 23) : fld w lo n = fld x lo n := by
  rw [← r.x, fld_fld h, Nat.zero_add]

end ReadsC

theorem CL.wf_iff {o : CL} : o.wf = true ↔ cHead o.sq o.prod o.cons = true ∧ o.cnt < 64 ∧ o.ss < 64 ∧ o.ds < 64 ∧ o.level < 6 := by
  simp [CL.wf, sr, and_assoc]
theorem CB.wf_iff {o : CB} : o.wf = true ↔ cHead o.sq o.prod o.cons = true ∧ o.src < 64 ∧ o.dst < 64 ∧ o.len < 64 := by
  simp [CB.wf, sr, and_assoc]
theorem CT.wf_iff {o : CT} : o.wf = true ↔ cHead o.sq o.prod o.cons = true ∧ o.addr < 64 := by simp [CT.wf, sr]
theorem CK.wf_iff {o : CK} : o.wf = true ↔ cHead o.link o.prod o.cons = true ∧ o.addr < 64 ∧ o.len < 64 ∧ o.tick < 64 := by
  simp [CK.wf, sr, and_assoc]
theorem CR.wf_iff {o : CR} : o.wf = true ↔ cHead o.link o.prod o.cons = true ∧ o.addr < 64 ∧ o.cnt < 64 ∧ o.tick < 64 ∧
    o.out < 16 ∧ (o.deliver = false ∨ o.out = 0) := by simp [CR.wf, sr, and_assoc]
theorem CLt.wf_iff {o : CLt} : o.wf = true ↔ cHead 0 o.prod o.cons = true ∧ o.tick < 64 := by simp [CLt.wf, sr]
theorem CI.wf_iff {o : CI} : o.wf = true ↔ cHead 0 o.prod o.cons = true ∧ o.asid < 64 ∧ o.start < 64 ∧ o.len < 64 ∧
    (o.mode = .range ∨ o.start = 0 ∧ o.len = 0) ∧ (o.mode = .all → o.asid = 0) := by
  cases hm : o.mode <;> simp [CI.wf, sr, hm, and_assoc]
  tauto

theorem lkCode_lt (k : LkFmt) : lkCode k < 3 := by cases k <;> decide
theorem lkOf_lkCode (k : LkFmt) : lkOf (lkCode k) = k := by cases k <;> rfl
theorem tlbCode_lt (m : TlbMode) : tlbCode m < 3 := by cases m <;> decide
theorem tlbOf_tlbCode (m : TlbMode) : tlbOf (tlbCode m) = m := by cases m <;> rfl

/-- The link commands of three registers (R84). -/
theorem decodeC_eCK {op : Nat} {o : CK} {k : CK → Instr} (hop : op < 256) (h : o.wf = true)
    (hk : ∀ w, fld w 56 8 = op → decodeC w = judge false (!(consOk (fld w 23 8) && zf (fld w 0 23)))
      (k ⟨fld w 52 4, fld w 46 6, fld w 40 6, fld w 34 6, fld w 31 3, fld w 23 8⟩)) : decodeC (eCK op o).w = .ok (k o) := by
  obtain ⟨hq, ha, hl, ht⟩ := CK.wf_iff.1 h
  refine decodeC_packC hop hq ha hl ht (by decide) fun w r hc => ?_
  simp [hk w r.op, judge, r.sq, r.a, r.b, r.c, r.prod, r.cons, r.x, hc, zf]

theorem decodeC_encode {i : Instr} (h : i.wf = true) (hs : i.slot? = some .c) : decodeC (encode i).w = .ok i := by
  cases i with
  | cplvl o =>
    obtain ⟨hq, ha, hb, hc, hl⟩ := CL.wf_iff.1 h
    refine decodeC_packC (by decide) hq ha hb hc (by omega) fun w r hcons => ?_
    have hlw : fld w 20 3 = o.level := by rw [r.low (by decide)]; unfold fld; omega
    have hlow : fld w 0 20 = 0 := by rw [r.low (by decide)]; unfold fld; omega
    simp [decodeC, r.op, judge, r.sq, r.a, r.b, r.c, r.prod, r.cons, hlw, hlow, hcons, zf, hl]
  | cpbase o =>
    obtain ⟨hq, ha, hb, hc⟩ := CB.wf_iff.1 h
    have hss := o.sspad.toNat_lt
    have hds := o.dspad.toNat_lt
    refine decodeC_packC (by decide) hq ha hb hc (by omega) fun w r hcons => ?_
    have hsw : fld w 22 1 = o.sspad.toNat := by rw [r.low (by decide)]; unfold fld; omega
    have hdw : fld w 21 1 = o.dspad.toNat := by rw [r.low (by decide)]; unfold fld; omega
    have hlow : fld w 0 21 = 0 := by rw [r.low (by decide)]; unfold fld; omega
    simp [decodeC, r.op, judge, r.sq, r.a, r.b, r.c, r.prod, r.cons, hsw, hdw, hlow, hcons, zf]
  | cpgo o | cpcan o =>
    refine decodeC_packC (by decide) h (by decide) (by decide) (by decide) (by decide) fun w r hcons => ?_
    simp [decodeC, r.op, judge, r.sq, r.abc, r.prod, r.cons, r.x, hcons, zf]
  | cpstrm o =>
    refine decodeC_packC (by decide) h (by decide) (by decide) (by decide) (by decide) fun w r hcons => ?_
    have hoff : fld w 22 1 = 0 := r.low (by decide)
    have hlow : fld w 0 22 = 0 := r.low (by decide)
    simp [decodeC, r.op, judge, r.sq, r.abc, r.prod, r.cons, hoff, hlow, hcons, zf]
  | cpstrmOff o =>
    refine decodeC_packC (by decide) h (by decide) (by decide) (by decide) (by decide) fun w r hcons => ?_
    have hoff : fld w 22 1 = 1 := r.low (by decide)
    have hlow : fld w 0 22 = 0 := r.low (by decide)
    simp [decodeC, r.op, judge, r.sq, r.abc, r.prod, r.cons, hoff, hlow, hcons, zf]
  | cpstat o =>
    obtain ⟨hq, ha⟩ := CT.wf_iff.1 h
    refine decodeC_packC (by decide) hq ha (by decide) (by decide) (by decide) fun w r hcons => ?_
    simp [decodeC, r.op, judge, r.sq, r.a, r.bc, r.prod, r.cons, r.x, hcons, zf]
  | lksend o | lkrecv o =>
    refine decodeC_eCK (by decide) h fun w hw => ?_
    simp only [decodeC, hw]
  | lkred o =>
    obtain ⟨hq, ha, hb, hc, ho, hd⟩ := CR.wf_iff.1 h
    have hdl := o.deliver.toNat_lt
    have hin := lkCode_lt o.infmt
    have hout := lkCode_lt o.outfmt
    refine decodeC_packC (by decide) hq ha hb hc (by omega) fun w r hcons => ?_
    have how : fld w 19 4 = o.out := by rw [r.low (by decide)]; unfold fld; omega
    have hdw : fld w 18 1 = o.deliver.toNat := by rw [r.low (by decide)]; unfold fld; omega
    have hiw : fld w 16 2 = lkCode o.infmt := by rw [r.low (by decide)]; unfold fld; omega
    have hfw : fld w 14 2 = lkCode o.outfmt := by rw [r.low (by decide)]; unfold fld; omega
    have hlow : fld w 0 14 = 0 := by rw [r.low (by decide)]; unfold fld; omega
    have hok : (zf o.deliver.toNat || zf o.out) = true := by rcases hd with h0 | h0 <;> simp [zf, h0]
    simp only [decodeC, r.op, judge, r.sq, r.a, r.b, r.c, r.prod, r.cons, how, hdw, hiw, hfw, hlow, hcons, hok, lkOf_lkCode,
      hin.ne, hout.ne, decide_toNat_eq_one]
    rfl
  | lktime o =>
    obtain ⟨hq, ha⟩ := CLt.wf_iff.1 h
    refine decodeC_packC (by decide) hq ha (by decide) (by decide) (by decide) fun w r hcons => ?_
    simp [decodeC, r.op, judge, r.sq, r.a, r.bc, r.prod, r.cons, r.x, hcons, zf]
  | tlbinv o =>
    obtain ⟨hq, ha, hb, hc, hr, hall⟩ := CI.wf_iff.1 h
    have hm := tlbCode_lt o.mode
    have hwd := o.wide.toNat_lt
    refine decodeC_packC (by decide) hq ha hb hc (by omega) fun w r hcons => ?_
    have hmw : fld w 21 2 = tlbCode o.mode := by rw [r.low (by decide)]; unfold fld; omega
    have hww : fld w 20 1 = o.wide.toNat := by rw [r.low (by decide)]; unfold fld; omega
    have hlow : fld w 0 20 = 0 := by rw [r.low (by decide)]; unfold fld; omega
    have hok : (zf (tlbCode o.mode) || zf (o.start * 2 ^ 6 + o.len)) = true := by
      rcases hr with h0 | ⟨h0, h1⟩ <;> simp [zf, tlbCode, *]
    have hok2 : (!decide (tlbCode o.mode = 2) || zf o.asid) = true := by
      cases hmo : o.mode <;> simp [tlbCode, zf, hall, hmo]
    simp only [decodeC, r.op, judge, r.sq, r.a, r.b, r.c, r.bc, r.prod, r.cons, hmw, hww, hlow, hcons, hok, hok2,
      tlbOf_tlbCode, hm.ne, decide_toNat_eq_one]
    rfl
  | idleC => rfl
  | _ => cases hs

/-! ## Q slot (R151, R259) -/

theorem QG.wf_iff {o : QG} : o.wf = true ↔ o.g < 16 ∧ o.vi < 768 ∧ o.sb < 64 ∧ o.z < 4 ∧ o.prod < 8 := by
  simp [QG.wf, ng, vr, sr, tk, and_assoc]
theorem QA.wf_iff {o : QA} : o.wf = true ↔ o.g < 16 ∧ o.vx < 767 ∧ o.sb < 64 ∧ o.prod < 8 := by
  simp [QA.wf, ng, sr, tk, and_assoc]
theorem QF.wf_iff {o : QF} : o.wf = true ↔
    o.g < 16 ∧ o.sa < 64 ∧ o.sv < 64 ∧ o.prod < 8 ∧ (o.op = .cas → o.sv ≠ 63) := by
  simp [QF.wf, ng, sr, tk, and_assoc, imp_iff_not_or]
theorem Q1.wf_iff {o : Q1} {ok : Nat → Bool} : o.wf ok = true ↔ o.g < 16 ∧ ok o.r = true ∧ o.prod < 8 := by
  simp [Q1.wf, ng, tk, and_assoc]
theorem Q2.wf_iff {o : Q2} {okR okT : Nat → Bool} :
    o.wf okR okT = true ↔ o.g < 16 ∧ okR o.r = true ∧ okT o.t = true ∧ o.prod < 8 := by simp [Q2.wf, ng, tk, and_assoc]
theorem G1.wf_iff {o : G1} {n : Nat} : o.wf n = true ↔ o.g < 16 ∧ o.n < n := by simp [G1.wf, ng]
theorem G2.wf_iff {o : G2} {n m : Nat} : o.wf n m = true ↔ o.g < 16 ∧ o.n < n ∧ o.m < m := by simp [G2.wf, ng, and_assoc]
theorem FW.wf_iff {o : FW} : o.wf = true ↔ o.g < 16 ∧ o.sd < 64 ∧ o.st < 64 ∧ 1 ≤ o.mask ∧ o.mask < 8 := by
  simp [FW.wf, ng, sr, and_assoc]

theorem saCode_lt (t : SaTy) : saCode t < 3 := by cases t <;> decide
theorem saOf_saCode (t : SaTy) : saOf (saCode t) = t := by cases t <;> rfl
theorem sfCode_lt (op : SfOp) : sfCode op < 7 := by cases op <;> decide
theorem sfOf_sfCode (op : SfOp) : sfOf (sfCode op) = op := by cases op <;> rfl
theorem sfCode_eq_two {op : SfOp} : sfCode op = 2 ↔ op = .cas := by cases op <;> decide

theorem decodeQ_packF {op g x : Nat} {e : Except DErr Instr} (hop : op < 64) (hg : g < 16) (hx : x < 2 ^ 22)
    (h : ∀ w, ReadsF w op g x → decodeQ w = e) : decodeQ (packF op g x) = e := h _ (packF_reads hop hg hx)

theorem decodeQ_encode {i : Instr} (h : i.wf = true) (hs : i.slot? = some .q) : decodeQ (encode i).w = .ok i := by
  cases i with
  | gpush o =>
    obtain ⟨hg, hv, hsb, hz, hp⟩ := QG.wf_iff.1 h
    have hb := o.virt.toNat_lt
    refine decodeQ_packF (by decide) hg (by omega) fun w r => ?_
    simp (disch := omega) only [decodeQ, r.op, r.g, r.digit, -Nat.reducePow, -Nat.reduceMul, Nat.add_assoc, fld_add_of_dvd,
      fld_add_of_lt, fld_mul_pow, fld_of_lt]
    simp [judge, vr, hv]
  | gpop o =>
    obtain ⟨hg, hv⟩ := G1.wf_iff.1 h
    refine decodeQ_packF (by decide) hg (by omega) fun w r => ?_
    simp (disch := omega) only [decodeQ, r.op, r.g, r.digit, -Nat.reducePow, -Nat.reduceMul, fld_mul_pow, fld_eq_zero_of_dvd]
    simp [judge, vr, zf, hv]
  | sacc o =>
    obtain ⟨hg, hv, hsb, hp⟩ := QA.wf_iff.1 h
    have hb := o.virt.toNat_lt
    have ht := saCode_lt o.t
    refine decodeQ_packF (by decide) hg (by omega) fun w r => ?_
    simp (disch := omega) only [decodeQ, r.op, r.g, r.digit, -Nat.reducePow, -Nat.reduceMul, Nat.add_assoc, fld_add_of_dvd,
      fld_add_of_lt, fld_mul_pow, fld_of_lt]
    simp [judge, pairF, hv, ht.ne, saOf_saCode]
  | sfop o =>
    obtain ⟨hg, ha, hv, hp, hcas⟩ := QF.wf_iff.1 h
    have hb := o.virt.toNat_lt
    have hd := o.wide.toNat_lt
    have ht := sfCode_lt o.op
    refine decodeQ_packF (by decide) hg (by omega) fun w r => ?_
    have hwide : fld w 8 2 = o.wide.toNat := by rw [r.digit (by decide)]; unfold fld; omega
    simp (disch := omega) only [decodeQ, r.op, r.g, hwide, r.digit, -Nat.reducePow, -Nat.reduceMul, Nat.add_assoc,
      fld_add_of_dvd, fld_add_of_lt, fld_mul_pow, fld_of_lt]
    simp [judge, Nat.not_le.2 hd, Nat.not_le.2 ht, sfCode_eq_two, not_and.2 hcas, sfOf_sfCode]
  | nlbin o | nlstat o | unwatch o =>
    obtain ⟨hg, hr, hp⟩ := Q1.wf_iff.1 h
    have hr := of_decide_eq_true hr
    refine decodeQ_packF (by decide) hg (by omega) fun w r => ?_
    simp (disch := omega) only [decodeQ, r.op, r.g, r.digit, -Nat.reducePow, -Nat.reduceMul, fld_add_of_dvd, fld_add_of_lt,
      fld_mul_pow, fld_of_lt, fld_eq_zero_of_lt]
    rfl
  | nlpos o =>
    obtain ⟨hg, hv, hp⟩ := Q1.wf_iff.1 h
    have hr := of_decide_eq_true hv
    refine decodeQ_packF (by decide) hg (by omega) fun w r => ?_
    simp (disch := omega) only [decodeQ, r.op, r.g, r.digit, -Nat.reducePow, -Nat.reduceMul, fld_add_of_dvd, fld_add_of_lt,
      fld_mul_pow, fld_of_lt, fld_eq_zero_of_lt]
    simp [judge, hv, zf]
  | nlreq o | take o =>
    obtain ⟨hg, hr, ht, hp⟩ := Q2.wf_iff.1 h
    have hr := of_decide_eq_true hr
    have ht := of_decide_eq_true ht
    refine decodeQ_packF (by decide) hg (by omega) fun w r => ?_
    simp (disch := omega) only [decodeQ, r.op, r.g, r.digit, -Nat.reducePow, -Nat.reduceMul, Nat.add_assoc, fld_add_of_dvd,
      fld_add_of_lt, fld_mul_pow, fld_of_lt, fld_eq_zero_of_lt]
    rfl
  | nlpop o =>
    obtain ⟨hg, hv, hm⟩ := G2.wf_iff.1 h
    refine decodeQ_packF (by decide) hg (by omega) fun w r => ?_
    simp (disch := omega) only [decodeQ, r.op, r.g, r.digit, -Nat.reducePow, -Nat.reduceMul, fld_add_of_dvd, fld_add_of_lt,
      fld_mul_pow, fld_eq_zero_of_dvd]
    simp [judge, vr, zf, hv]
  | spawn o | watch o =>
    obtain ⟨hg, hv, ht, hp⟩ := Q2.wf_iff.1 h
    have hr := of_decide_eq_true hv
    have ht := of_decide_eq_true ht
    refine decodeQ_packF (by decide) hg (by omega) fun w r => ?_
    simp (disch := omega) only [decodeQ, r.op, r.g, r.digit, -Nat.reducePow, -Nat.reduceMul, Nat.add_assoc, fld_add_of_dvd,
      fld_add_of_lt, fld_mul_pow, fld_of_lt, fld_eq_zero_of_lt]
    simp [judge, hv, zf]
  | idleQ => rfl
  | _ => cases hs

/-! ## F slot (R172, R216, R259, R284, R307) -/

theorem decodeF_packF {op g x : Nat} {e : Except DErr Instr} (hop : op < 64) (hg : g < 16) (hx : x < 2 ^ 22)
    (h : ∀ w, ReadsF w op g x → decodeF w = e) : decodeF (packF op g x) = e := h _ (packF_reads hop hg hx)

theorem decodeF_encode {i : Instr} (h : i.wf = true) (hs : i.slot? = some .f) : decodeF (encode i).w = .ok i := by
  cases i with
  | setfmtImm o =>
    simp only [Instr.wf, Bool.and_eq_true, and_assoc] at h
    obtain ⟨ho, hcodes, hbits⟩ := h
    obtain ⟨hg, hn⟩ := G1.wf_iff.1 ho
    refine decodeF_packF (by decide) hg (by omega) fun w r => ?_
    simp (disch := omega) only [decodeF, r.op, r.g, r.digit, -Nat.reducePow, -Nat.reduceMul, fld_of_lt, fld_eq_zero_of_lt]
    simp [judge, hcodes, hbits, zf]
  | setfmtReg o =>
    obtain ⟨hg, hn⟩ := G1.wf_iff.1 h
    refine decodeF_packF (by decide) hg (by omega) fun w r => ?_
    have hsel : fld w 21 1 = 1 := by rw [r.digit (by decide)]; unfold fld; omega
    simp (disch := omega) only [decodeF, r.op, r.g, hsel, r.digit, -Nat.reducePow, -Nat.reduceMul, fld_add_of_dvd, fld_mul_pow,
      fld_eq_zero_of_lt, fld_eq_zero_of_dvd]
    rfl
  | waitt o | slack o | ovl o | clrflg o =>
    obtain ⟨hg, hn⟩ := G1.wf_iff.1 h
    refine decodeF_packF (by decide) hg (by omega) fun w r => ?_
    simp (disch := omega) only [decodeF, r.op, r.g, r.digit, -Nat.reducePow, -Nat.reduceMul, fld_of_lt, fld_eq_zero_of_lt]
    rfl
  | drain o =>
    obtain ⟨hg, hn⟩ := G1.wf_iff.1 h
    refine decodeF_packF (by decide) hg (by omega) fun w r => ?_
    simp (disch := omega) only [decodeF, r.op, r.g, r.digit, -Nat.reducePow, -Nat.reduceMul, fld_of_lt, fld_eq_zero_of_lt]
    simp [judge, hn, zf]
  | bar o =>
    obtain ⟨ho, hsum⟩ := Bool.and_eq_true_iff.1 h
    obtain ⟨hg, hn, hm⟩ := G2.wf_iff.1 ho
    refine decodeF_packF (by decide) hg (by omega) fun w r => ?_
    simp (disch := omega) only [decodeF, r.op, r.g, r.digit, -Nat.reducePow, -Nat.reduceMul, fld_add_of_dvd, fld_add_of_lt,
      fld_mul_pow, fld_eq_zero_of_dvd]
    simp [judge, of_decide_eq_true hsum, vr, hn, zf]
  | yield g | yieldNw g | tdone g | halt g =>
    refine decodeF_packF (by decide) (of_decide_eq_true h) (by decide) fun w r => ?_
    simp (disch := omega) only [decodeF, r.op, r.g, r.digit, -Nat.reducePow, -Nat.reduceMul, fld_of_lt, fld_eq_zero_of_lt]
    rfl
  | zset o =>
    obtain ⟨hg, hn, hm⟩ := G2.wf_iff.1 h
    refine decodeF_packF (by decide) hg (by omega) fun w r => ?_
    simp (disch := omega) only [decodeF, r.op, r.g, r.digit, -Nat.reducePow, -Nat.reduceMul, fld_add_of_dvd, fld_add_of_lt,
      fld_mul_pow, fld_eq_zero_of_dvd]
    rfl
  | time o | getflg o =>
    obtain ⟨hg, hn⟩ := G1.wf_iff.1 h
    refine decodeF_packF (by decide) hg (by omega) fun w r => ?_
    simp (disch := omega) only [decodeF, r.op, r.g, r.digit, -Nat.reducePow, -Nat.reduceMul, fld_mul_pow, fld_eq_zero_of_dvd]
    rfl
  | perf o =>
    obtain ⟨hg, hn, hm⟩ := G2.wf_iff.1 h
    refine decodeF_packF (by decide) hg (by omega) fun w r => ?_
    simp (disch := omega) only [decodeF, r.op, r.g, r.digit, -Nat.reducePow, -Nat.reduceMul, fld_add_of_dvd, fld_add_of_lt,
      fld_mul_pow, fld_of_lt, fld_eq_zero_of_lt]
    simp [judge, hm, zf]
  | spflag o keep =>
    obtain ⟨hg, hn⟩ := G1.wf_iff.1 h
    have hk := keep.toNat_lt
    refine decodeF_packF (by decide) hg (by omega) fun w r => ?_
    simp (disch := omega) only [decodeF, r.op, r.g, r.digit, -Nat.reducePow, -Nat.reduceMul, fld_add_of_dvd, fld_add_of_lt,
      fld_mul_pow, fld_of_lt, fld_eq_zero_of_lt]
    simp [judge, hn, zf]
  | wfe o =>
    obtain ⟨hg, hd, ht, hm1, hm⟩ := FW.wf_iff.1 h
    refine decodeF_packF (by decide) hg (by omega) fun w r => ?_
    simp (disch := omega) only [decodeF, r.op, r.g, r.digit, -Nat.reducePow, -Nat.reduceMul, Nat.add_assoc, fld_add_of_dvd,
      fld_add_of_lt, fld_mul_pow, fld_of_lt, fld_eq_zero_of_lt]
    simp [judge, zf, Nat.one_le_iff_ne_zero.1 hm1]
  | keyld o =>
    obtain ⟨hg, hn, hm⟩ := G2.wf_iff.1 h
    refine decodeF_packF (by decide) hg (by omega) fun w r => ?_
    simp (disch := omega) only [decodeF, r.op, r.g, r.digit, -Nat.reducePow, -Nat.reduceMul, fld_add_of_dvd, fld_add_of_lt,
      fld_mul_pow, fld_eq_zero_of_lt, fld_eq_zero_of_dvd]
    rfl
  | keyldClr o =>
    obtain ⟨hg, hn⟩ := G1.wf_iff.1 h
    refine decodeF_packF (by decide) hg (by omega) fun w r => ?_
    simp (disch := omega) only [decodeF, r.op, r.g, r.digit, -Nat.reducePow, -Nat.reduceMul, fld_add_of_dvd, fld_add_of_lt,
      fld_mul_pow, fld_of_lt, fld_eq_zero_of_lt]
    rfl
  | _ => cases hs

theorem slot?_ne_second {i : Instr} {sl : Slot} (h : i.slot? = some sl) : sl ≠ .y ∧ sl ≠ .w := by
  cases i <;> cases h <;> decide

/-- Settles O55, slot by slot: the opcode of the encoded word picks the decoder's arm, and each field reads back from its place. -/
theorem decodeEncodeAgree : Obligations.DecodeEncodeAgree := by
  intro i sl h hs
  cases sl with
  | b => exact decodeB_encode h hs
  | x => exact decodeXY_encode h hs
  | v => exact decodeVW_encode h hs
  | l => exact decodeL_encode h hs
  | m => exact decodeM_encode h hs
  | c => exact decodeC_encode h hs
  | q => exact decodeQ_encode h hs
  | f => exact decodeF_encode h hs
  | y => exact absurd rfl (slot?_ne_second hs).1
  | w => exact absurd rfl (slot?_ne_second hs).2

end Sys2Proof
end

section
/-!
PROOF. The worked words of the spec, and the issue of a bundle without syllables (R11, R20, R28, R192, R193, R206).
-/

namespace Sys2Proof.Machine

open Sys2Proof.Claims

/-- Settles O60: the decoder reads each of the words. -/
theorem decodeWords : Obligations.DecodeWords :=
  ⟨rfl, rfl, rfl, rfl, rfl, rfl, rfl, rfl, rfl, rfl, rfl, rfl, rfl, rfl, rfl, rfl, rfl, rfl, rfl, rfl⟩

/-! ## A bundle without syllables (R10, R20, R25) -/

theorem Ctx.plan_nil {c : Ctx} {b : Bundle} (hs : b.syls = []) (hl : c.frame.latches = []) : c.plan b = [] := by
  unfold Ctx.plan
  refine List.filterMap_eq_nil_iff.2 fun k _ => ?_
  simp [hs, hl, SMap.get?]

theorem State.decodeBundle_nil {s : State} {hw : Nat} {b : Bundle} (hb : b.headerBad = false) : s.decodeBundle hw b [] = .ok [] := by
  simp [State.decodeBundle, hb, issuesOf]

/-- The state in which such a bundle has passed its phases. -/
def State.passedEmpty (s : State) (hw : Nat) (b : Bundle) : State := ((s.passEntry hw b).setPhase hw 3).unseat

/-- Such a bundle waits only for a branch's drain and for its sync bit. -/
theorem State.meetWaits_nil {s : State} {hw : Nat} {b : Bundle} (h : NoSyllable s hw b) :
    s.meetWaits hw b false [] = (s.passedEmpty hw b, none) := by
  have hentry : (s.ctx hw).entryWait b = none := by
    rcases h.sync with hs | ⟨hc, hq⟩
    · simp [Ctx.entryWait, h.drain, hdrSync, hs]
    · simp [Ctx.entryWait, h.drain, hc, hq]
  have hwindow : (s.passEntry hw b).meetWindow hw b false = ((s.passEntry hw b).setPhase hw 3, none) := by
    simp [State.meetWindow, hdrHost, h.host]
  have hctx : ((s.passedEmpty hw b).ctx hw).pend = (s.ctx hw).pend := by
    simp [State.passedEmpty, State.passEntry, State.setPhase]
  have hlands : (((s.ctx hw).pend.flg.map (fun f => f.land)).dedup).length < 256 :=
    lt_of_le_of_lt ((List.dedup_sublist _).length_le.trans_eq (List.length_map _)) h.lands
  have hpocket : (s.passedEmpty hw b).pocketFull hw b (s.ctx hw).frame.rep [] = false := by
    simp [State.pocketFull, hctx, h.pocket, hlands]
  have hask : (((s.passEntry hw b).setPhase hw 3).askAll hw b (s.ctx hw).frame.rep false []).unseat = s.passedEmpty hw b := rfl
  simp [State.meetWaits, h.phase, hentry, hwindow, hask, hpocket, State.slotWaits, firstWait]

theorem State.commitBundle_nil {s : State} {hw : Nat} {b : Bundle} (ht : (s.ctx hw).dbg.trace = 0) :
    s.commitBundle hw b [] [] false = ((s.charge hw 0 1).unseat.endIssue hw (s.ctx hw).frame b [] [] false).unseat := by
  simp [State.commitBundle, State.trace_untraced ht, State.effects, State.barMarks, State.afterwards]

/-- Such a bundle issues in the primary's attempt. -/
theorem State.attempt_nil {s : State} {hw : Nat} {b : Bundle} (h : NoSyllable s hw b) :
    (s.attempt hw false [] []).out = .issued ∧
      (s.attempt hw false [] []).s = (s.passedEmpty hw b).commitBundle hw b [] [] false := by
  have hb : s.bundleAt hw (s.ctx hw).frame.pos = .ok b := by
    unfold State.bundleAt
    split
    · rw [if_neg (fun hp => hp.1 h.phase), h.fetched]
    · exact h.fetched
  have hplan : (s.ctx hw).plan b = [] := Ctx.plan_nil h.none h.idle
  rw [State.attempt_of_no_wait hb (by rw [hplan]; exact State.decodeBundle_nil h.header) (State.meetWaits_nil h), hplan]
  exact State.issueNow_of_no_fault rfl rfl

/-- The frame after such a bundle is that of the statement (R20, R28, R192, R193). -/
theorem Frame.after_nil {f : Frame} {b : Bundle} (hl : f.latches = []) : f.after f b [] [] = nextFrame f b := by
  simp only [Frame.after, nextFrame, latchesAfter, groupAfter, List.foldl_nil, hdrStop, hdrRep, hl, decide_eq_true_eq]
  split
  · rfl
  · split
    case h_1 hfree => rw [if_pos hfree]
    case h_2 hdelay =>
      have hfree : ¬f.br.st = 0 := by omega
      rw [if_neg hfree, if_pos hdelay]
    case h_3 hfree hdelay => rw [if_neg hfree, if_neg hdelay]

/-! ## The schedule cycle that ends (R11, R206) -/

/-- The context at its next schedule cycle, before what is due there lands. -/
def Ctx.nextCycle (c : Ctx) : Ctx :=
  { c with
    run := { c.run with sched := c.run.sched + 1, ran := if c.run.trap then c.run.ran else c.run.ran + 1 }
    fmt := { c.fmt with flgNow := 0 } }

theorem Ctx.advance_eq_land (c : Ctx) : c.advance = c.nextCycle.land := rfl

theorem Ctx.advance_val (c : Ctx) :
    c.advance.pend.val = c.pend.val.filter (fun p => decide (c.run.sched + 1 < p.land)) := by
  rw [Ctx.advance_eq_land, Ctx.land_pend]
  rfl

/-- Without a pending value result no register is written. -/
theorem Ctx.advance_regs {c : Ctx} (h : c.pend.val = []) : c.advance.regs = c.regs := by
  have hdue : c.nextCycle.dueVal = [] := by simp [Ctx.dueVal, Ctx.nextCycle, h]
  exact Ctx.land_unchanged Ctx.regs (fun _ _ => rfl) (fun _ _ => rfl) c.nextCycle (by simp [hdue])

/-- The state in which such a bundle has issued. -/
theorem State.bundleIssue_nil {s : State} {hw : Nat} {b : Bundle} (h : NoSyllable s hw b) :
    s.bundleIssue hw = (((s.passedEmpty hw b).charge hw 0 1).unseat.endIssue hw (s.ctx hw).frame b [] [] false).unseat := by
  obtain ⟨hout, hs⟩ := State.attempt_nil h
  have hctx : (s.passedEmpty hw b).ctx hw = { s.ctx hw with run := { (s.ctx hw).run with phase := 3, got := some b } } := by
    simp [State.passedEmpty, State.passEntry, State.setPhase]
  have hissue := State.commitBundle_nil (s := s.passedEmpty hw b) (hw := hw) (b := b) (by rw [hctx]; exact h.trace)
  rw [hctx] at hissue
  rw [← hissue, ← hs]
  exact if_pos hout

/-- The context of such a bundle at the end of its issue, before the counter advances. -/
def Ctx.endEmpty (c : Ctx) (b : Bundle) (e : BitVec 64) : Ctx :=
  { c with
    energy := e
    async := if c.run.trap then c.async else c.async ++ c.soon
    soon := if c.run.trap then c.soon else []
    dbg := { c.dbg with skip := if c.dbg.skip = some b.addr then none else c.dbg.skip }
    frame := nextFrame c.frame b
    run := { c.run with phase := 1, window := 0, got := none } }

theorem State.bundleIssue_nil_ctx {s : State} {hw : Nat} {b : Bundle} (h : NoSyllable s hw b) :
    ∃ e, (s.bundleIssue hw).ctx hw = ((s.ctx hw).endEmpty b e).advance := by
  rw [State.bundleIssue_nil h]
  refine ⟨(((s.passedEmpty hw b).charge hw 0 1).ctx hw).energy, ?_⟩
  simp [State.endIssue, State.passedEmpty, State.passEntry, State.setPhase, Frame.after_nil h.idle, Ctx.endEmpty]

/-- Settles O35: the attempt issues, and the frame and the counter move on. -/
theorem bundleIssueResult : Obligations.BundleIssueResult := by
  intro hw s b h
  refine ⟨s.bundleIssue hw, rfl, ?_⟩
  obtain ⟨e, hctx⟩ := State.bundleIssue_nil_ctx h
  have hrest := State.bundleIssue_nil h
  obtain ⟨hframe, -, hctl, hrun, heng, -, hperf, -⟩ := Ctx.land_notLanded ((s.ctx hw).endEmpty b e).nextCycle
  rw [← Ctx.advance_eq_land, ← hctx] at hframe hctl hrun heng hperf
  refine ⟨?_, ?_, ?_, hframe, ?_, fun hp => ?_, hctl, heng, hperf, fun k hk => ?_, ?_, ?_, ?_, ?_, ?_⟩
  · rw [hrun]
    rfl
  · rw [hrun]
    rfl
  · rw [hrun]
    rfl
  · rw [hctx, Ctx.advance_val]
    rfl
  · rw [hctx]
    exact Ctx.advance_regs hp
  all_goals simp [State.endIssue, State.passedEmpty, State.passEntry, State.setPhase, *]

end Sys2Proof.Machine
end

section
/-!
PROOF. The end of a segment copy (R32, R283, R284), and the release of a barrier (R213, R214).
-/

namespace Sys2Proof.Machine

open Sys2Proof.Claims

/-! ## What an engine's traffic charges and remembers -/

/-- Of cores and memory nothing has changed, and of contexts their energy counters alone. -/
structure OnlyCharged (s t : State) : Prop where
  cores : t.cores = s.cores
  mem : t.mem = s.mem
  ctxs : ∀ h, EnergyOnly (s.ctx h) (t.ctx h)

theorem OnlyCharged.refl (s : State) : OnlyCharged s s := ⟨rfl, rfl, fun _ => rfl⟩

theorem OnlyCharged.trans {s t u : State} (h : OnlyCharged s t) (h' : OnlyCharged t u) : OnlyCharged s u := by
  refine ⟨h'.cores.trans h.cores, h'.mem.trans h.mem, fun k => ?_⟩
  have hst := h.ctxs k
  have htu := h'.ctxs k
  unfold EnergyOnly at *
  rw [htu, hst]

theorem State.charge_onlyCharged (s : State) (hw code n : Nat) : OnlyCharged s (s.charge hw code n) := by
  refine ⟨by simp, by simp, fun k => ?_⟩
  by_cases hk : k = hw
  · subst hk
    simp [EnergyOnly]
  · simp [EnergyOnly, hk]

theorem State.chargeCore_onlyCharged (s : State) (core code n : Nat) : OnlyCharged s (s.chargeCore core code n) := by
  unfold State.chargeCore
  dsimp only
  split
  · exact OnlyCharged.refl s
  · exact ⟨rfl, rfl, fun _ => rfl⟩

theorem State.chargeWalk_onlyCharged (s : State) (hw : Option Nat) (asid va : Nat) : OnlyCharged s (s.chargeWalk hw asid va) := by
  cases hw with
  | none => exact OnlyCharged.refl s
  | some h => exact s.charge_onlyCharged _ _ _

theorem State.remember_onlyCharged (s : State) (cl eng asid va : Nat) : OnlyCharged s (s.remember cl eng asid va) := by
  unfold State.remember
  split
  · exact OnlyCharged.refl s
  · split
    · exact ⟨rfl, rfl, fun _ => rfl⟩
    · exact OnlyCharged.refl s

theorem State.rememberAll_onlyCharged (s : State) (hw : Option Nat) (cl eng asid fuel va n : Nat) :
    OnlyCharged s (s.rememberAll hw cl eng asid fuel va n) := by
  induction fuel generalizing s va n with
  | zero => exact OnlyCharged.refl s
  | succ fuel ih =>
    unfold State.rememberAll
    split
    · exact OnlyCharged.refl s
    · refine OnlyCharged.trans ?_ (ih _ _ _)
      split
      · exact OnlyCharged.refl s
      · exact (s.chargeWalk_onlyCharged _ _ _).trans (State.remember_onlyCharged _ _ _ _ _)

theorem State.chargePieces_onlyCharged (s : State) (hw : Nat) (ps : List Piece) : OnlyCharged s (s.chargePieces hw ps) := by
  refine OnlyCharged.trans ?_ (State.charge_onlyCharged _ _ _ _)
  exact List.foldlRecOn (motive := OnlyCharged s) _ _ (s.charge_onlyCharged _ _ _) fun _ h _ _ =>
    h.trans (State.chargeCore_onlyCharged _ _ _ _)

/-! ## The end of a segment copy -/

/-- What the copy of segment `g` over pieces has charged and remembered when it ends. -/
def State.segCharged (s : State) (core : Nat) (g : Seg) (ps : List Piece) : State :=
  let s0 := s.rememberAll g.by_ (clOf core) engSeg g.asid (pageFuel (4096 * g.npages)) (g.src.toNat / 64 * 64) (4096 * g.npages)
  match g.by_ with
  | some hw => s0.chargePieces hw ps
  | none => (s0.chargeCore core 10 (spadLines ps).length).chargeCore core 12 (hbmUnits ps)

theorem State.segCharged_onlyCharged (s : State) (core : Nat) (g : Seg) (ps : List Piece) :
    OnlyCharged s (s.segCharged core g ps) := by
  unfold State.segCharged
  have hpages := s.rememberAll_onlyCharged g.by_ (clOf core) engSeg g.asid (pageFuel (4096 * g.npages)) (g.src.toNat / 64 * 64)
    (4096 * g.npages)
  dsimp only
  split
  · exact hpages.trans (State.chargePieces_onlyCharged _ _ _)
  · exact (hpages.trans (State.chargeCore_onlyCharged _ _ _ _)).trans (State.chargeCore_onlyCharged _ _ _ _)

/-- The copy of a mapped segment whose source translates. -/
theorem State.segDone_of_translate {s : State} {core k : Nat} {g : Seg} {ps : List Piece} (hg : (s.core core).segs[k]? = some g)
    (hm : g.mapped = true) (hi : g.inflight = true)
    (htr : s.translate (core / 48) 7 g.asid false (pageFuel (4096 * g.npages)) (g.src.toNat / 64 * 64) (4096 * g.npages) = .ok ps) :
    s.segDone core k = ((s.segCharged core g ps).imemWrite (core * 0x80000 + 4096 * g.ipage) (s.readPieces ps)).modCore core
      (fun c => { c with segs := c.segs.set k { g with mapped := true, inflight := false } }) := by
  simp only [State.segDone, hg, hm, hi, clOf, engSeg, htr, Bool.and_self, Bool.not_true, Bool.false_eq_true, if_false]
  rfl

/-- A segment that no copy fills stays as it is. -/
theorem State.segDone_of_idle {s : State} {core k : Nat}
    (h : ∀ g, (s.core core).segs[k]? = some g → g.mapped = false ∨ g.inflight = false) : s.segDone core k = s := by
  unfold State.segDone
  split
  · rfl
  case h_2 g hg =>
    have hidle : (!(g.mapped && g.inflight)) = true := by
      rcases h g hg with e | e <;> simp [e]
    exact if_pos hidle

/-- The charges of a copy come before its bytes, which come before its entry. -/
theorem State.segDone_loaded {s : State} {core k : Nat} {g : Seg} {ps : List Piece} (hg : (s.core core).segs[k]? = some g)
    (hm : g.mapped = true) (hi : g.inflight = true)
    (htr : s.translate (core / 48) 7 g.asid false (pageFuel (4096 * g.npages)) (g.src.toNat / 64 * 64) (4096 * g.npages) = .ok ps)
    (hwf : s.mem.imem.wf = true) : SegmentLoaded s (s.segDone core k) core k g ps := by
  obtain ⟨hcores, hmem, hctx⟩ := s.segCharged_onlyCharged core g ps
  rw [State.segDone_of_translate hg hm hi htr]
  constructor
  case segs => simp [State.core, hcores]
  case bytes =>
    intro i b hb
    obtain ⟨hlt, rfl⟩ := List.getElem?_eq_some_iff.1 hb
    simpa [hmem] using read_hostPut_same hwf hlt
  case rest =>
    intro a ha
    simpa [hmem] using read_hostPut_other (s.readPieces ps) hwf ha
  case ctxs => exact hctx
  all_goals simp [hmem]

/-- Where one copy alone is under way, the end of all copies is its end. -/
theorem State.foldl_segDone_single {s : State} {core k : Nat} (hk : k < (s.core core).segs.length)
    (hidle : ∀ j g, j ≠ k → (s.core core).segs[j]? = some g → g.mapped = false ∨ g.inflight = false)
    (hsegs : ∀ j, j ≠ k → ((s.segDone core k).core core).segs[j]? = (s.core core).segs[j]?) :
    (List.range (s.core core).segs.length).foldl (fun s j => s.segDone core j) s = s.segDone core k := by
  have hfix : ∀ (t : State), (∀ j, j ≠ k → (t.core core).segs[j]? = (s.core core).segs[j]?) → ∀ l : List Nat, k ∉ l →
      l.foldl (fun s j => s.segDone core j) t = t := by
    intro t ht l hl
    refine List.foldlRecOn (motive := fun u => u = t) l _ rfl fun u hu j hj => ?_
    have hjk : j ≠ k := fun e => hl (e ▸ hj)
    subst hu
    exact State.segDone_of_idle fun g hg => hidle j g hjk (by rw [← ht j hjk, hg])
  obtain ⟨l₁, l₂, hl⟩ := List.append_of_mem (List.mem_range.2 hk)
  have hnodup : (l₁ ++ k :: l₂).Nodup := hl ▸ List.nodup_range
  obtain ⟨-, hcons, hdisj⟩ := List.nodup_append.1 hnodup
  have h₁ : k ∉ l₁ := fun h => hdisj k h k List.mem_cons_self rfl
  have h₂ : k ∉ l₂ := (List.nodup_cons.1 hcons).1
  rw [hl, List.foldl_append, List.foldl_cons, hfix s (fun _ _ => rfl) l₁ h₁, hfix _ hsegs l₂ h₂]

/-- A part of O40: the bytes and the entry of a segment whose copy ends (R32, R283, R284). -/
theorem segmentCopyEnds : SegmentCopyEnds := by
  intro core hw k s g ps hg hm hi htr hwf
  have hloaded := State.segDone_loaded hg hm hi htr hwf
  refine ⟨⟨_, rfl, hloaded⟩, fun hcore hstall hidle => ⟨_, rfl, ?_⟩⟩
  obtain ⟨hk, -⟩ := List.getElem?_eq_some_iff.1 hg
  have hsegs : ∀ j, j ≠ k → ((s.segDone core k).core core).segs[j]? = (s.core core).segs[j]? := fun j hj => by
    rw [hloaded.segs, List.getElem?_set_ne hj.symm]
  have hend : s.fetchStallEnd hw = s.segDone core k := by
    rw [← State.foldl_segDone_single hk hidle hsegs]
    simp only [State.fetchStallEnd, ← hcore, hstall]
  rw [hend]
  exact hloaded

/-! ## The release of a barrier -/

theorem SMap.get?_none_of_le {α : Type} {m : SMap α} {i j : Nat} {b : α} (h : SMap.wf ((j, b) :: m) = true) (hij : i ≤ j) :
    SMap.get? m i = none := by
  cases m with
  | nil => rfl
  | cons x r =>
    obtain ⟨k, c⟩ := x
    have hjk : j < k := of_decide_eq_true (Bool.and_eq_true_iff.1 h).1
    have hne : ¬i = k := by omega
    have hlt : i < k := by omega
    simp [SMap.get?, hne, hlt]

theorem SMap.wf_of_cons {α : Type} {x : Nat × α} {m : SMap α} (h : SMap.wf (x :: m) = true) : SMap.wf m = true := by
  cases m with
  | nil => rfl
  | cons y r => exact (Bool.and_eq_true_iff.1 h).2

/-- What has been removed from a map is no longer in it. -/
theorem SMap.get?_del_same {α : Type} {m : SMap α} (i : Nat) (h : SMap.wf m = true) : SMap.get? (SMap.del m i) i = none := by
  induction m with
  | nil => rfl
  | cons x r ih =>
    obtain ⟨j, b⟩ := x
    rw [SMap.del]
    split
    · exact SMap.get?_none_of_le h (by omega)
    case isFalse hne =>
      split
      case isTrue hlt => simp [SMap.get?, hne, hlt]
      case isFalse hle => simpa [SMap.get?, hne, hle] using ih (SMap.wf_of_cons h)

/-- A member with the checkpoint before its BAR, released (R214). -/
def Ctx.releasedAs (c : Ctx) (list mark : Nat) : Ctx :=
  { c with
    ckpt := some ({ c with run := { c.run with
      slackRem := if c.run.st = CtxState.blocked then c.run.slack else c.run.slackRem } }.checkpoint list mark)
    run := { c.run with barPass := true } }

theorem Ctx.released_releasedAs (c : Ctx) (list mark : Nat) : Released c (c.releasedAs list mark) list := by
  refine ⟨rfl, rfl, rfl, _, rfl, rfl, rfl, rfl, rfl, rfl, rfl, rfl, rfl, ?_, rfl, rfl, rfl, rfl⟩
  refine List.filter_congr fun x _ => Bool.eq_iff_iff.2 ?_
  simp only [List.contains_eq_mem, List.mem_map, List.mem_range, decide_eq_true_eq, Bool.and_eq_true]
  constructor
  · rintro ⟨a, ha, h⟩
    omega
  · rintro ⟨hle, hlt⟩
    exact ⟨x.1 - list / 256, by omega, by omega⟩

/-- Contexts of other members stay as they are. -/
theorem foldl_modCtx_other {α : Type} {key : α → Nat} {g : α → Ctx → Ctx} {l : List α} {k : Nat}
    (hk : ∀ m ∈ l, k ≠ key m) (s : State) : (l.foldl (fun s m => s.modCtx (key m) (g m)) s).ctx k = s.ctx k :=
  List.foldlRecOn (motive := fun u : State => u.ctx k = s.ctx k) l _ rfl fun _ hu m hm => by
    rw [State.modCtx_ctx_other _ _ (hk m hm), hu]

/-- Distinct members are changed once each. -/
theorem foldl_modCtx_mem {α : Type} {key : α → Nat} {g : α → Ctx → Ctx} {l : List α} (hn : (l.map key).Nodup)
    {m : α} (hm : m ∈ l) (s : State) : (l.foldl (fun s m => s.modCtx (key m) (g m)) s).ctx (key m) = g m (s.ctx (key m)) := by
  induction l generalizing s with
  | nil => cases hm
  | cons y l ih =>
    obtain ⟨hy, hl⟩ := List.nodup_cons.1 hn
    have hother : ∀ z ∈ l, key y ≠ key z := fun z hz e => hy (e ▸ List.mem_map_of_mem hz)
    rw [List.foldl_cons]
    obtain rfl | hml := List.mem_cons.1 hm
    · rw [foldl_modCtx_other hother, State.modCtx_ctx_same]
    · rw [ih hl hml, State.modCtx_ctx_other _ _ (hother m hml).symm]

/-- A checkpoint of another team can no longer be used. -/
def Ctx.spoilFor (team : Nat) (c : Ctx) : Ctx :=
  if c.teamNo = team then c else { c with ckpt := c.ckpt.map (fun q => { q with usable := false }) }

theorem State.emptyJournal_eq (s : State) (core team : Nat) :
    s.emptyJournal core team = (List.range 4).foldl (fun s x => s.modCtx (4 * core + x) (Ctx.spoilFor team))
      (s.modCore core (fun k => { k with journal := [], jteam := some team, jfull := false })) := rfl

/-- What a change of a context leaves alone, the spoiling of a core's checkpoints leaves alone. -/
theorem State.emptyJournal_unchanged {β : Type} (f : State → β) {s : State} {core team : Nat}
    (hf : ∀ s hw, f (s.modCtx hw (Ctx.spoilFor team)) = f s) :
    f (s.emptyJournal core team) = f (s.modCore core (fun k => { k with journal := [], jteam := some team, jfull := false })) := by
  rw [State.emptyJournal_eq]
  exact foldl_unchanged f (fun s x => hf s (4 * core + x)) (List.range 4) _

@[simp] theorem State.emptyJournal_mem (s : State) (core team : Nat) : (s.emptyJournal core team).mem = s.mem :=
  State.emptyJournal_unchanged State.mem fun _ _ => rfl
@[simp] theorem State.emptyJournal_mod (s : State) (core team : Nat) : (s.emptyJournal core team).mod = s.mod :=
  State.emptyJournal_unchanged State.mod fun _ _ => rfl
@[simp] theorem State.emptyJournal_cluster (s : State) (core team k : Nat) : (s.emptyJournal core team).cluster k = s.cluster k :=
  State.emptyJournal_unchanged (fun s => s.cluster k) fun _ _ => rfl
theorem State.emptyJournal_core (s : State) (core team k : Nat) : (s.emptyJournal core team).core k =
    (s.modCore core (fun k => { k with journal := [], jteam := some team, jfull := false })).core k :=
  State.emptyJournal_unchanged (fun s => s.core k) fun _ _ => rfl

@[simp] theorem State.emptyJournal_regs (s : State) (core team k : Nat) :
    ((s.emptyJournal core team).ctx k).regs = (s.ctx k).regs := by
  refine State.emptyJournal_unchanged (fun s => (s.ctx k).regs) fun s hw => ?_
  by_cases hk : k = hw
  · subst hk
    simp only [State.modCtx_ctx_same, Ctx.spoilFor]
    split <;> rfl
  · simp [hk]

/-- A context of the releasing team keeps its checkpoint. -/
theorem State.emptyJournal_ctx_of_team {s : State} {core team k : Nat} (h : (s.ctx k).teamNo = team) :
    (s.emptyJournal core team).ctx k = s.ctx k := by
  rw [State.emptyJournal_eq]
  refine List.foldlRecOn (motive := fun u : State => u.ctx k = s.ctx k) _ _ rfl fun u hu x _ => ?_
  by_cases hk : k = 4 * core + x
  · rw [← hk, State.modCtx_ctx_same, hu, Ctx.spoilFor, if_pos h]
  · rw [State.modCtx_ctx_other _ _ hk, hu]

/-- The journals of the cores listed are empty and the team's. -/
theorem foldl_emptyJournal_core {team k : Nat} {l : List Nat} (hk : k ∈ l) (s : State) :
    ((l.foldl (fun s j => s.emptyJournal j team) s).core k).journal = [] ∧
      ((l.foldl (fun s j => s.emptyJournal j team) s).core k).jteam = some team := by
  have hstep : ∀ (s : State) (j : Nat), j = k ∨ ((s.core k).journal = [] ∧ (s.core k).jteam = some team) →
      ((s.emptyJournal j team).core k).journal = [] ∧ ((s.emptyJournal j team).core k).jteam = some team := by
    intro s j h
    rw [State.emptyJournal_core]
    by_cases hj : k = j
    · subst hj
      simp
    · simpa [hj] using h.resolve_left (Ne.symm hj)
  obtain ⟨l₁, l₂, rfl⟩ := List.append_of_mem hk
  rw [List.foldl_append, List.foldl_cons]
  exact List.foldlRecOn (motive := fun u : State => (u.core k).journal = [] ∧ (u.core k).jteam = some team) l₂ _
    (hstep _ _ (.inl rfl)) fun u hu j _ => hstep u j (.inr hu)

/-- The barrier's list is taken from its cluster. -/
def State.barTaken (s : State) (cl team : Nat) : State := s.modCl cl (fun c => { c with bars := SMap.del c.bars team })

/-- The members of a complete barrier, released. -/
def State.membersReleased (s : State) (cl team mark : Nat) (here : List (Nat × Nat)) : State :=
  here.foldl (fun s m => s.modCtx m.1 (fun c => c.releasedAs m.2 mark))
    (s.barTaken cl team).fresh.2

theorem State.barRelease_of_complete {s : State} {cl team : Nat} {x : Nat × Nat} {r : List (Nat × Nat)}
    (hbar : SMap.getD (s.cluster cl).bars team [] = x :: r) (hall : fld (s.ctx x.1).ctl.team.toNat 8 8 ≤ (x :: r).length) :
    s.barRelease cl team = (((x :: r).map (fun m => coreOf m.1)).dedup).foldl (fun s k => s.emptyJournal k team)
      (s.membersReleased cl team (s.barTaken cl team).fresh.1 (x :: r)) := by
  simp only [State.barRelease, hbar, if_neg (Nat.not_lt.2 hall)]
  rfl

theorem State.barRelease_of_incomplete {s : State} {cl team : Nat} {x : Nat × Nat} {r : List (Nat × Nat)}
    (hbar : SMap.getD (s.cluster cl).bars team [] = x :: r) (hfew : (x :: r).length < fld (s.ctx x.1).ctl.team.toNat 8 8) :
    s.barRelease cl team = s := by
  simp only [State.barRelease, hbar, if_pos hfew]

theorem State.membersReleased_ctx_mem (s : State) (cl team mark : Nat) {here : List (Nat × Nat)}
    (hn : (here.map (fun m => m.1)).Nodup) {m : Nat × Nat} (hm : m ∈ here) :
    (s.membersReleased cl team mark here).ctx m.1 = (s.ctx m.1).releasedAs m.2 mark :=
  foldl_modCtx_mem (key := fun m : Nat × Nat => m.1) (g := fun m c => c.releasedAs m.2 mark) hn hm _

/-- What neither a change of a context nor that of the clusters and the front touches stays. -/
theorem State.membersReleased_unchanged {β : Type} (f : State → β)
    (hf : ∀ s hw list mark, f (s.modCtx hw (fun c => c.releasedAs list mark)) = f s) (s : State) (cl team mark : Nat)
    (here : List (Nat × Nat)) : f (s.membersReleased cl team mark here) = f (s.barTaken cl team).fresh.2 :=
  foldl_unchanged (f := fun s (m : Nat × Nat) => s.modCtx m.1 (fun c => c.releasedAs m.2 mark)) f (fun s m => hf s m.1 m.2 mark) here _

theorem State.membersReleased_regs (s : State) (cl team mark : Nat) (here : List (Nat × Nat)) (k : Nat) :
    ((s.membersReleased cl team mark here).ctx k).regs = (s.ctx k).regs := by
  refine State.membersReleased_unchanged (fun s => (s.ctx k).regs) (fun s hw list mark => ?_) s cl team mark here
  by_cases hk : k = hw
  · subst hk
    simp [Ctx.releasedAs]
  · simp [hk]

/-- A part of O40: the release of a barrier's members (R213, R214). -/
theorem barrierReleaseResult : BarrierReleaseResult := by
  intro cl team s x r hwf hbar hn hteam
  refine ⟨fun hall => ⟨_, rfl, ?_⟩, fun hfew => by
    rw [exec_barrierRelease, execBarrierRelease, State.barRelease_of_incomplete hbar hfew]⟩
  rw [State.barRelease_of_complete hbar hall]
  generalize (s.barTaken cl team).fresh.1 = mark
  refine ⟨fun m hm => ⟨?_, ?_⟩, ?_, fun k => ?_, ?_, ?_⟩
  · have hmem := s.membersReleased_ctx_mem cl team mark hn hm
    have hkept := List.foldlRecOn (motive := fun u : State => u.ctx m.1 = (s.ctx m.1).releasedAs m.2 mark)
      ((x :: r).map (fun m => coreOf m.1)).dedup (fun s k => s.emptyJournal k team) hmem fun u hu j _ => by
        rw [State.emptyJournal_ctx_of_team (by rw [hu]; exact hteam m hm), hu]
    rw [hkept]
    exact Ctx.released_releasedAs _ _ _
  · exact foldl_emptyJournal_core (List.mem_dedup.2 (List.mem_map_of_mem hm)) _
  · rw [foldl_unchanged (fun s => s.cluster cl) fun s j => s.emptyJournal_cluster j team cl,
      State.membersReleased_unchanged (fun s => s.cluster cl) fun _ _ _ _ => rfl]
    simp [State.barTaken, SMap.getD, SMap.get?_del_same team hwf]
  · rw [foldl_unchanged (fun s => (s.ctx k).regs) fun s j => s.emptyJournal_regs j team k, State.membersReleased_regs]
  · rw [foldl_unchanged State.mem fun s j => s.emptyJournal_mem j team, State.membersReleased_unchanged State.mem fun _ _ _ _ => rfl]
    rfl
  · rw [foldl_unchanged State.mod fun s j => s.emptyJournal_mod j team, State.membersReleased_unchanged State.mod fun _ _ _ _ => rfl]
    rfl

/-- Settles O40, from its two parts. -/
theorem segmentBarrierEvents : Obligations.SegmentBarrierEvents := ⟨segmentCopyEnds, barrierReleaseResult⟩

end Sys2Proof.Machine
end

section
/-!
SUPPORT. What an instruction that computes leaves: its results beside the earlier ones, its energy, and nothing else (R11, R27,
R126, R127, R130).
-/

namespace Sys2Proof.Machine

open Sys2Proof.Claims

/-! ## What a change of the issuing context leaves unchanged -/

theorem restSame_refl (s : State) : RestSame s s := ⟨rfl, rfl, rfl, rfl, rfl, rfl, rfl, rfl⟩

theorem restSame_modCtx {s t : State} (h : RestSame s t) (hw : Nat) (f : Ctx → Ctx) : RestSame s (t.modCtx hw f) :=
  ⟨h.mod, h.front, h.clusters, h.cores, h.aux, h.agenda, h.oldBytes, h.shared⟩

theorem othersSame_modCtx {s t : State} (h : OthersSame s t) (f : Ctx → Ctx) : OthersSame s (t.modCtx s.cur.hw f) :=
  fun k hk => by rw [State.modCtx_ctx_other t f hk, h k hk]

theorem memSame_of_eq {s t : State} (h : t.mem = s.mem) : MemSame s t := by
  constructor <;> simp [h]

/-- Counting energy changes nothing but the energy. -/
theorem restSame_charge {s t : State} (h : RestSame s t) (hw code n : Nat) : RestSame s (t.charge hw code n) := by
  rcases t.charge_cases hw code n with ⟨e, -⟩ | e
  · rwa [e]
  · rw [e]
    exact restSame_modCtx h _ _

theorem memSame_charge {s t : State} (h : MemSame s t) (hw code n : Nat) : MemSame s (t.charge hw code n) := by
  constructor <;> rw [State.charge_mem]
  exacts [h.hbm, h.host, h.spad, h.imem, h.lining, h.acs, h.bias]

theorem becomes_modCtx {i : Instr} {s : State} (f : Ctx → Ctx) (h : exec i s = .next (s.modCtx s.cur.hw f)) :
    Becomes i s (f s.me) :=
  ⟨_, h, State.modCtx_ctx_same s _ f, othersSame_modCtx (fun _ _ => rfl) f, restSame_modCtx (restSame_refl s) _ f, rfl⟩

/-! ## Results -/

/-- A result is pending beside the earlier ones. -/
def State.give (s : State) (r : Res) : State := s.pushVal r.dest r.mask r.val r.flags r.lat

theorem State.give_ctx (s : State) (r : Res) :
    (s.give r).ctx s.cur.hw = { s.me with pend := { s.me.pend with val := s.me.pend.val ++ [r.pend s] } } :=
  s.pushVal_me r.dest r.mask r.val r.flags r.lat

theorem State.give_gives (s : State) (r : Res) : Gives s (s.give r) [r] s.me.energy where
  results := by rw [s.give_ctx]; rfl
  energy := by rw [s.give_ctx]
  regs := by rw [s.give_ctx]; exact ⟨rfl, rfl, rfl, rfl⟩
  course := by rw [s.give_ctx]; exact ⟨rfl, rfl, rfl, rfl, rfl, rfl, rfl⟩
  eng := by rw [s.give_ctx]
  others := othersSame_modCtx (fun _ _ => rfl) _
  rest := ⟨rfl, rfl, rfl, rfl, rfl, rfl, rfl, rfl⟩
  mem := memSame_of_eq rfl

/-- One event of an energy code is counted beside the results. -/
theorem State.give_computes (s : State) (r : Res) (code : Nat) :
    Computes s ((s.give r).charge s.cur.hw code 1) [r] code := by
  have h := s.give_gives r
  constructor
  case energy => rw [State.charge_ctx_same, h.energy]; rfl
  case others => exact fun k hk => by rw [State.charge_ctx_other _ code 1 hk, h.others k hk]
  case rest => exact restSame_charge h.rest _ _ _
  case mem => exact memSame_charge h.mem _ _ _
  all_goals rw [State.charge_ctx_same, s.give_ctx]
  case results => rfl
  case regs => exact ⟨rfl, rfl, rfl, rfl⟩
  case course => exact ⟨rfl, rfl, rfl, rfl, rfl, rfl, rfl⟩

/-! ## Instructions of the F slot -/

section

variable {i : Instr} {s : State} {g : Nat} {eff : State → State}

theorem exec_of_perform (h : exec i s = s.perform none (s.me.guardN g) none none eff) (hg : s.me.guardN g = true) :
    exec i s = .next (eff s) := by
  rw [h, hg, State.perform_on _ _ _ _ _ (.inr ⟨rfl, rfl, rfl⟩)]

theorem nullified_of_perform {wait : Option Wait} {chk : Option Chk}
    (h : exec i s = s.perform none (s.me.guardN g) wait chk eff) (hg : s.me.guardN g = false) : Nullified i s := by
  rw [Nullified, h, hg, State.perform_off _ _ _ _ _ (.inl rfl)]

theorem trapped_of_perform {code : Nat} (h : exec i s = s.perform none (s.me.guardN g) none (some ⟨code, 0, 0⟩) eff)
    (hgo : s.cur.go = false) (hg : s.me.guardN g = true) : exec i s = .next (trapped s (.chk ⟨code, 0, 0⟩) code 0 0) := by
  rw [h, hg, State.perform_chk _ _ _ hgo]
  rfl

theorem fGives_of_perform {r : Res} (h : exec i s = s.perform none (s.me.guardN g) none none eff) (he : eff s = s.give r) :
    FGives i s g [r] :=
  ⟨fun hg => ⟨eff s, exec_of_perform h hg, he ▸ s.give_gives r⟩, nullified_of_perform h⟩

end

/-! ## Elements under a guard (R126, R127, R130) -/

theorem ETy.width_pos (t : ETy) : 0 < t.width := by cases t <;> decide
theorem ETy.count_pos (t : ETy) : 0 < t.count := by cases t <;> decide
theorem ETy.count_mul_width (t : ETy) : t.count * t.width = 512 := by cases t <;> rfl

theorem anyE_iff {m : PReg} {w : Nat} (hw : 0 < 512 / w) : anyE m w = true ↔ SomeActive m w := by
  simp only [anyE, Bool.or_eq_true, decide_eq_true_eq, List.any_eq_true, List.mem_range]
  constructor
  · rintro (rfl | h)
    · exact ⟨0, hw, by simp [Active]⟩
    · exact h
  · exact .inr

/-- The result of `mapElems` under the mask of its active elements. -/
def mapRes (m : PReg) (t : ETy) (d lat : Nat) (f : Nat → Nat × Flags) : Res :=
  vRes d (elemMask m t.width) (mapElems m t.width t.count f).1 (mapElems m t.width t.count f).2 lat

theorem covers_elemMask (m : PReg) (t : ETy) : Covers m t.width (elemMask m t.width) :=
  elemMask_bit m t.width (ETy.width_pos t) (ETy.count_mul_width t)

theorem laid_mapRes (m : PReg) (t : ETy) (d lat : Nat) (f : Nat → Nat × Flags) :
    Laid m t.width t.count d lat (fun e => (f e).1) (fun e => (f e).2) [mapRes m t d lat f] := by
  have hfst (e : Nat) : (if activeE m t.width e = true then f e else (0, (0 : Flags))).1 =
      if activeE m t.width e = true then (f e).1 else 0 := apply_ite _ _ _ _
  refine ⟨_, (mapElems m t.width t.count f).2, ?_, covers_elemMask m t, flags_mapElems m t.width t.count f⟩
  simp only [mapRes, mapElems, List.map_map, Function.comp_def, hfst]
  rfl

end Sys2Proof.Machine
end

section
/-!
PROOF. SETFMT, GETFLG, CLRFLG, SPFLAG and ZSET (R52, R53, R171, R172, R217, R222, R223).
-/

namespace Sys2Proof.Machine

open Sys2Proof.Claims

/-! ## FMT (R52, R53, R217) -/

theorem fmtChk_of_codes {v : Nat} (h : fmtCodes v = false) : fmtChk v = some ⟨1, 0, 0⟩ := by simp [fmtChk, h]
theorem fmtChk_of_bits {v : Nat} (h : fmtCodes v = true) (hb : fmtBits v = false) : fmtChk v = some ⟨2, 0, 0⟩ := by
  simp [fmtChk, h, hb]
theorem fmtChk_of_ok {v : Nat} (h : fmtCodes v = true) (hb : fmtBits v = true) : fmtChk v = none := by simp [fmtChk, h, hb]

/-- A part of O30: SETFMT. -/
theorem formatRegisterResult : FormatRegisterResult := by
  intro o s
  have hreg : exec (.setfmtReg o) s = s.perform none (s.me.guardN o.g) none (fmtChk (s.me.sreg o.n).toNat)
      (fun s' => s'.pushFmt (s.me.sreg o.n).toNat) := rfl
  refine ⟨fGives_of_perform (eff := fun s => s.pushFmt o.n) rfl rfl, fun hc hb => ?_,
    fun hgo hg => ⟨fun hc => ?_, fun hc hb => ?_⟩⟩
  · exact fGives_of_perform (hreg.trans (by rw [fmtChk_of_ok hc hb])) rfl
  · exact trapped_of_perform (hreg.trans (by rw [fmtChk_of_codes hc])) hgo hg
  · exact trapped_of_perform (hreg.trans (by rw [fmtChk_of_bits hc hb])) hgo hg

/-! ## FLG and SPFAULT (R222, R223) -/

/-- CLRFLG keeps the flags outside its mask, and those that landed in this cycle (R56). -/
theorem Ctx.clearFlags_flg (c : Ctx) (mask : Nat) {k : Nat} (hk : k < 6) :
    (c.clearFlags (BitVec.ofNat 6 mask)).fmt.flg.getLsbD k =
      (c.fmt.flg.getLsbD k && (!mask.testBit k || c.fmt.flgNow.getLsbD k)) := by
  simp only [Ctx.clearFlags, BitVec.getLsbD_or, BitVec.getLsbD_and, BitVec.getLsbD_not, BitVec.getLsbD_ofNat, hk, decide_true,
    Bool.true_and, Bool.and_or_distrib_left]

theorem State.give_give_ctx (s : State) (r q : Res) : ((s.give r).give q).ctx s.cur.hw =
    { s.me with pend := { s.me.pend with val := s.me.pend.val ++ [r.pend s, q.pend s] } } := by
  have h := (s.give r).give_ctx q
  have hq : q.pend (s.give r) = q.pend s := by
    simp only [Res.pend, State.me]
    rw [show (s.give r).cur = s.cur from rfl, s.give_ctx]
    rfl
  rw [show (s.give r).cur = s.cur from rfl, State.me, show (s.give r).cur = s.cur from rfl, s.give_ctx, hq] at h
  rw [h]
  simp

/-- SPFAULT and its address are pending for a register pair. -/
def State.spRead (s : State) (n : Nat) : State :=
  (s.give (sRes n (if s.me.fmt.spSet = true then 1 else 0) 0 1)).give
    (sRes (n + 1) (if s.me.fmt.spSet = true then s.me.fmt.spAddr else 0) 0 1)

theorem State.spRead_othersSame (s : State) (n : Nat) : OthersSame s (s.spRead n) :=
  othersSame_modCtx (s := s) (t := s.give _) (s.give_gives _).others _

theorem exec_spflag_keep (s : State) (o : G1) :
    exec (.spflag o true) s = s.perform none (s.me.guardN o.g) none none (fun s => s.spRead o.n) := rfl

theorem exec_spflag_clear (s : State) (o : G1) :
    exec (.spflag o false) s = s.perform none (s.me.guardN o.g) none none (fun s =>
      (s.spRead o.n).modCtx s.cur.hw (fun c => { c with fmt := { c.fmt with spSet := false } })) := rfl

/-- A part of O30: GETFLG, CLRFLG and SPFLAG. -/
theorem flagRegisterResult : FlagRegisterResult := by
  intro o s
  have hclr : exec (.clrflg o) s = s.perform none (s.me.guardN o.g) none none
      (fun s => s.modCtx s.cur.hw (fun c => c.clearFlags (BitVec.ofNat 6 o.n))) := rfl
  refine ⟨fGives_of_perform (eff := fun s => s.pushS o.n s.me.getflg 0 1) rfl rfl,
    fun hg => ⟨nullified_of_perform hclr hg, nullified_of_perform (exec_spflag_keep s o) hg,
      nullified_of_perform (exec_spflag_clear s o) hg⟩,
    fun hg => ?_, fun keep hg => ?_⟩
  · obtain ⟨t, ht, hctx, ho, hr, hm⟩ := becomes_modCtx _ (exec_of_perform hclr hg)
    refine ⟨t, ht, fun k hk => ?_, ?_, ho, hr, hm⟩
    · rw [hctx]
      exact Ctx.clearFlags_flg _ _ hk
    · rw [hctx]
      rfl
  · cases keep
    · refine ⟨_, exec_of_perform (exec_spflag_clear s o) hg, ?_, ?_, ?_, othersSame_modCtx (s.spRead_othersSame o.n) _,
        ⟨rfl, rfl, rfl, rfl, rfl, rfl, rfl, rfl⟩, rfl⟩ <;>
        simp [State.spRead, State.modCtx_ctx_same, State.give_give_ctx]
    · refine ⟨_, exec_of_perform (exec_spflag_keep s o) hg, ?_, ?_, ?_, s.spRead_othersSame o.n,
        ⟨rfl, rfl, rfl, rfl, rfl, rfl, rfl, rfl⟩, rfl⟩ <;>
        simp [State.spRead, State.give_give_ctx]

/-! ## Zones (R171, R172) -/

theorem zoneChk_of_ok {m : Mod} {v : Nat} (h : ZoneOk m v) : zoneChk m v = none := by
  obtain ⟨h1, h2, h3, h4, h5, h6, h7, h8⟩ := h
  refine if_neg ?_
  simp only [zoneOf]
  omega

theorem zoneChk_of_not_ok {m : Mod} {v : Nat} (h : ¬ ZoneOk m v) : zoneChk m v = some ⟨2, 0, 0⟩ := by
  refine if_pos ?_
  simp only [zoneOf]
  unfold ZoneOk at h
  omega

/-- A part of O30: ZSET. -/
theorem zoneRegisterResult : ZoneRegisterResult := by
  intro o s v
  have hz : exec (.zset o) s = s.perform none (s.me.guardN o.g) none (zoneChk s.mod v)
      (fun s => s.modCtx s.cur.hw (fun c => { c with fmt := { c.fmt with z := SMap.put c.fmt.z o.n (zoneOf v) } })) := rfl
  refine ⟨nullified_of_perform hz, fun hg hok => ?_, fun hgo hg hbad => ?_⟩
  · exact becomes_modCtx (fun c => { c with fmt := { c.fmt with z := SMap.put c.fmt.z o.n (zoneOf v) } })
      (exec_of_perform (hz.trans (by rw [zoneChk_of_ok hok])) hg)
  · exact trapped_of_perform (hz.trans (by rw [zoneChk_of_not_ok hbad])) hgo hg

/-- Settles O30, from its three parts. -/
theorem formatFlagZoneResult : Obligations.FormatFlagZoneResult :=
  ⟨formatRegisterResult, flagRegisterResult, zoneRegisterResult⟩

end Sys2Proof.Machine
end

section
/-!
PROOF. The rounding modes and the transcendentals (R37, R49, R129, R140).
-/

namespace Sys2Proof.Machine

open Sys2Proof.Claims

/-! ## Rounding (R49) -/

theorem roundMag_exact {sh m : Nat} (rm : Nat) (neg : Bool) (u : Nat) (e : Int) (hs : 0 < sh) (hr : m % 2 ^ sh = 0) :
    roundMag rm neg u m e (e + sh) = (m / 2 ^ sh, false) := by
  have hq : ¬ e + (sh : Int) ≤ e := by omega
  simp [roundMag, hq, hr]

/-- Whether a mode rounds an inexact magnitude up. -/
def roundsUp (rm : Nat) (neg : Bool) (u m sh : Nat) : Bool :=
  match rm with
  | 0 => decide (2 ^ sh < 2 * (m % 2 ^ sh)) || (decide (2 * (m % 2 ^ sh) = 2 ^ sh) && decide (m / 2 ^ sh % 2 = 1))
  | 1 => false
  | 2 => !neg
  | 3 => neg
  | _ => decide (u * 2 ^ sh < m % 2 ^ sh * 2 ^ 24)

theorem roundMag_inexact {sh m : Nat} (rm : Nat) (neg : Bool) (u : Nat) (e : Int) (hs : 0 < sh) (hr : m % 2 ^ sh ≠ 0) :
    roundMag rm neg u m e (e + sh) = (if roundsUp rm neg u m sh = true then m / 2 ^ sh + 1 else m / 2 ^ sh, true) := by
  have hq : ¬ e + (sh : Int) ≤ e := by omega
  have hn : (e + (sh : Int) - e).toNat = sh := by omega
  simp only [roundMag, if_neg hq, hn, if_neg hr]
  rfl

/-- An inexact magnitude goes to the multiple that its mode names. -/
theorem roundsTo_roundsUp {sh m : Nat} (rm : Nat) (neg : Bool) (u : Nat) (hr : m % 2 ^ sh ≠ 0) :
    RoundsTo rm neg m sh (if roundsUp rm neg u m sh = true then m / 2 ^ sh + 1 else m / 2 ^ sh) := by
  refine ⟨fun h => absurd h hr, fun _ => ?_⟩
  match rm with
  | 0 =>
    simp only [roundsUp, Bool.or_eq_true, Bool.and_eq_true, decide_eq_true_eq]
    refine ⟨fun h => if_neg (by omega), fun h => if_pos (by omega), fun h => ?_⟩
    split
    · exact ⟨by omega, .inr rfl⟩
    · exact ⟨by omega, .inl rfl⟩
  | 1 => rfl
  | 2 => cases neg <;> rfl
  | 3 => cases neg <;> rfl
  | _ + 4 => trivial

/-- A part of O19: the rounding modes (R49). -/
theorem roundingModes : RoundingModes := by
  intro rm u m sh neg e hs
  by_cases hr : m % 2 ^ sh = 0
  · rw [roundMag_exact rm neg u e hs hr]
    exact ⟨⟨fun _ => rfl, fun h => absurd hr h⟩, by simp [hr], fun _ h => absurd hr h⟩
  · rw [roundMag_inexact rm neg u e hs hr]
    refine ⟨roundsTo_roundsUp rm neg u hr, by simp [hr], ?_⟩
    rintro rfl -
    simp [roundsUp]

/-! ## Transcendentals (R37, R140) -/

/-- The elements of a transcendental. -/
def transRes (which : Nat) (o : V2) (s : State) : Res :=
  mapRes (s.me.guardW o.g) o.t o.d 8 (fun e =>
    let x := (ffmtOf o.t).func which (if s.me.rm = 4 then 0 else s.me.rm) (elem (s.me.vreg o.a).toNat o.t.width e)
    (x.bits, x.flags))

theorem transOp_eq (which : Nat) (o : V2) (s : State) : transOp which o s =
    s.perform (s.fullChk true) (anyE (s.me.guardW o.g) o.t.width) none none
      (fun s => (s.give (transRes which o s)).charge s.cur.hw 4 1) := rfl

theorem transcendental_of_transOp {i : Instr} {s : State} {o : V2} {which : Nat} (h : exec i s = transOp which o s) :
    Transcendental i s o which := by
  have hany : anyE (s.me.guardW o.g) o.t.width = true ↔ SomeActive (s.me.guardW o.g) o.t.width := anyE_iff (ETy.count_pos o.t)
  rw [transOp_eq] at h
  refine ⟨fun hf => ⟨fun ha => ?_, fun ha => ?_⟩, fun hgo hf => ?_⟩
  · have hm : s.fullChk true = none := by simp [State.fullChk, hf]
    rw [hany.2 ha, State.perform_on _ _ _ _ _ (.inr ⟨hm, rfl, rfl⟩)] at h
    exact ⟨_, h, [transRes which o s], laid_mapRes _ _ _ _ _, s.give_computes _ 4⟩
  · have hm : s.fullChk true = none := by simp [State.fullChk, hf]
    rw [Bool.eq_false_iff.2 (mt hany.1 ha), State.perform_off _ _ _ _ _ (.inl hm)] at h
    exact h
  · have hm : s.fullChk true = some ⟨1, 0, 0⟩ := by simp [State.fullChk, hf]
    rw [hm, State.perform_mode _ _ _ _ _ _ hgo] at h
    exact h

/-- A part of O19: the five transcendentals. -/
theorem transcendentalResult : TranscendentalResult := fun _ _ =>
  ⟨transcendental_of_transOp rfl, transcendental_of_transOp rfl, transcendental_of_transOp rfl, transcendental_of_transOp rfl,
    transcendental_of_transOp rfl⟩

/-! ## Special operands (R140) -/

section

variable {f : FFmt} {which x : Nat} (rm : Nat)

theorem FFmt.func_nan {sig : Bool} (h : f.decode x = .nan sig) : f.func which rm x = f.nanRes (flagIf sig fNv) := by
  simp only [FFmt.func, h]

/-- The square root and the logarithm of a negative number are invalid. -/
theorem FFmt.func_negative {m : Nat} {e : Int} (h : f.decode x = .fin true (m + 1) e) (hw : which = 1 ∨ which = 3) :
    f.func which rm x = f.nanRes fNv := by
  rcases hw with rfl | rfl <;> simp [FFmt.func, h]

end

theorem FFmt.round_one {t : ETy} {rm : Nat} (ht : t.isFloat = true) (hr : rm < 4) :
    (ffmtOf t).round rm 0 false 1 0 = ⟨(ffmtOf t).bias * 2 ^ ((ffmtOf t).p - 1), 0, false⟩ := by
  cases t <;> simp only [ETy.isFloat, Bool.false_eq_true] at ht <;> interval_cases rm <;> decide

/-- One is its own reciprocal and its own square root, and its logarithm is zero. The kernel evaluates the reciprocals: their powers
of two are beyond the elaborator's bound. -/
theorem FFmt.func_one {t : ETy} {which rm : Nat} (ht : t.isFloat = true) (hr : rm < 4) (hw : which = 0 ∨ which = 1 ∨ which = 3) :
    (ffmtOf t).func which rm ((ffmtOf t).bias * 2 ^ ((ffmtOf t).p - 1)) =
      ⟨if which = 3 then 0 else (ffmtOf t).bias * 2 ^ ((ffmtOf t).p - 1), 0, false⟩ := by
  cases t <;> simp only [ETy.isFloat, Bool.false_eq_true] at ht <;>
    interval_cases rm <;> rcases hw with rfl | rfl | rfl <;> decide +kernel

section

variable {t : ETy} {which rm x : Nat} (ht : t.isFloat = true) (hw : which < 5) (hr : rm < 4)

include ht hw hr

theorem FFmt.func_posInf (h : (ffmtOf t).decode x = .inf false) : ((ffmtOf t).func which rm x).flags = 0 ∧
    ((ffmtOf t).func which rm x).bits =
      [0, 0, (ffmtOf t).inf, (ffmtOf t).inf, (ffmtOf t).bias * 2 ^ ((ffmtOf t).p - 1)].getD which 0 := by
  interval_cases which <;> simp [FFmt.func, h, FFmt.round_one ht hr, FFmt.infRes, FFmt.signBit]

theorem FFmt.func_negInf (h : (ffmtOf t).decode x = .inf true) : ((ffmtOf t).func which rm x).bits =
      [2 ^ ((ffmtOf t).width - 1), (ffmtOf t).nan, 0, (ffmtOf t).nan,
        (ffmtOf t).bias * 2 ^ ((ffmtOf t).p - 1) + 2 ^ ((ffmtOf t).width - 1)].getD which 0 ∧
    ((ffmtOf t).func which rm x).flags = if which = 1 ∨ which = 3 then 0x10#6 else 0 := by
  interval_cases which <;> simp [FFmt.func, h, FFmt.round_one ht hr, FFmt.nanRes, FFmt.signBit, fNv]

theorem FFmt.func_zero {neg : Bool} {e : Int} (h : (ffmtOf t).decode x = .fin neg 0 e) : ((ffmtOf t).func which rm x).bits =
      [if neg = true then 2 ^ ((ffmtOf t).width - 1) + (ffmtOf t).inf else (ffmtOf t).inf,
        if neg = true then 2 ^ ((ffmtOf t).width - 1) + (ffmtOf t).inf else (ffmtOf t).inf,
        (ffmtOf t).bias * 2 ^ ((ffmtOf t).p - 1), 2 ^ ((ffmtOf t).width - 1) + (ffmtOf t).inf,
        if neg = true then 2 ^ ((ffmtOf t).width - 1) else 0].getD which 0 ∧
    ((ffmtOf t).func which rm x).flags = if which = 0 ∨ which = 1 ∨ which = 3 then 0x08#6 else 0 := by
  interval_cases which <;> cases neg <;> simp [FFmt.func, h, FFmt.round_one ht hr, FFmt.infRes, FFmt.signBit, fDz]

end

/-- A part of O19: the special operands. -/
theorem transcendentalSpecialValues : TranscendentalSpecialValues := by
  intro t which rm x ht hw hr
  refine ⟨fun sig h => ?_, FFmt.func_posInf ht hw hr, FFmt.func_negInf ht hw hr, fun _ _ => FFmt.func_zero ht hw hr,
    fun m e h hw => ?_, ?_⟩
  · rw [FFmt.func_nan rm h]
    exact ⟨rfl, rfl⟩
  · rw [FFmt.func_negative rm h hw]
    exact ⟨rfl, rfl⟩
  · rintro rfl hw
    rw [FFmt.func_one ht hr hw]
    exact ⟨rfl, rfl, rfl⟩

/-- Settles O19, from its three parts. -/
theorem roundingAndFunctions : Obligations.RoundingAndFunctions :=
  ⟨roundingModes, transcendentalResult, transcendentalSpecialValues⟩

end Sys2Proof.Machine
end

section
/-!
PROOF. The commits of a product whose zone is no wider than a tile, their INT8 sums, and the slices of a streamed product (R59,
R176, R182, R183, R184, R322).
-/

namespace Sys2Proof.Machine

open Sys2Proof.Claims

/-! ## Elements of tiles, written one after another (R184) -/

section

variable {α : Type} {core tile : Nat} {row col : α → Nat} {v : α → Word32}

/-- The elements that a list names are written. -/
def State.acsWriteAll (s : State) (core tile : Nat) (row col : α → Nat) (v : α → Word32) (l : List α) : State :=
  l.foldl (fun s x => s.acsWrite core tile (row x) (col x) (v x)) s

/-- Everything but the accumulator store stays. -/
theorem State.acsWriteAll_unchanged {β : Type} (f : State → β) (hf : ∀ s r c w, f (State.acsWrite s core tile r c w) = f s)
    (l : List α) (s : State) : f (s.acsWriteAll core tile row col v l) = f s :=
  foldl_unchanged f (fun s x => hf s (row x) (col x) (v x)) l s

theorem State.acsWriteAll_other {n : Nat} {l : List α} (h : ∀ x ∈ l, n ≠ tileKey core tile (row x) (col x)) (s : State) :
    SMap.getD (s.acsWriteAll core tile row col v l).mem.acs n 0 = SMap.getD s.mem.acs n 0 := by
  induction l generalizing s with
  | nil => rfl
  | cons x l ih =>
    refine (ih (fun y hy => h y (List.mem_cons_of_mem _ hy)) _).trans ?_
    exact SMap.getD_put_other _ _ _ (h x List.mem_cons_self)

/-- An element that one entry of the list names holds that entry's value. -/
theorem State.acsWriteAll_same {x : α} {l : List α} (hx : x ∈ l)
    (hinj : ∀ y ∈ l, tileKey core tile (row y) (col y) = tileKey core tile (row x) (col x) → v y = v x) (s : State) :
    SMap.getD (s.acsWriteAll core tile row col v l).mem.acs (tileKey core tile (row x) (col x)) 0 = v x := by
  induction l using List.reverseRecOn with
  | nil => cases hx
  | append_singleton l y ih =>
    have hstep : (s.acsWriteAll core tile row col v (l ++ [y])).mem.acs =
        SMap.put (s.acsWriteAll core tile row col v l).mem.acs (tileKey core tile (row y) (col y)) (v y) := by
      rw [State.acsWriteAll, List.foldl_append]
      rfl
    rw [hstep]
    by_cases he : tileKey core tile (row y) (col y) = tileKey core tile (row x) (col x)
    · rw [he, SMap.getD_put_same, hinj y (by simp) he]
    · rw [SMap.getD_put_other _ _ _ (Ne.symm he)]
      have hm : x ∈ l := (List.mem_append.1 hx).resolve_right fun h => he (by rw [List.mem_singleton.1 h])
      exact ih hm fun z hz => hinj z (List.mem_append_left _ hz)

end

/-! ## The cells that a product commits (R176, R322) -/

/-- A product as it was issued: not cut, and not resumed from an image. -/
structure Plain (p : Prod) : Prop where
  uncut : p.cut = none
  fresh : p.resumed = false
  counts : p.cnt = []

theorem Prod.commitAt_plain {p : Prod} (h : Plain p) (i j : Nat) : p.commitAt i j = some (p.issue + p.spec.s + i + j + 4) := by
  simp [Prod.commitAt, Prod.idle, h.uncut, h.fresh]

theorem Zone.mem_cells {z : Zone} {i j : Nat} : (i, j) ∈ z.cells ↔ i < z.rows ∧ j < z.cols := by
  simp [Zone.cells]

theorem Zone.mem_diagonal {z : Zone} {d : Int} {i j : Nat} :
    (i, j) ∈ z.diagonal d ↔ i < z.rows ∧ j < z.cols ∧ (i : Int) + j = d := by
  simp only [Zone.diagonal, List.mem_filterMap, List.mem_range, Option.ite_none_right_eq_some, Option.some.injEq]
  constructor
  · rintro ⟨k, hk, ⟨h1, h2⟩, h⟩
    cases h
    omega
  · rintro ⟨hi, hj, rfl⟩
    exact ⟨i, hi, by omega, by simp⟩

/-- Exactly the cells that R176 and R322 name are committed. -/
theorem Prod.mem_commitCells {p : Prod} (h : Plain p) {i j n : Nat} :
    (i, j) ∈ p.commitCells n ↔ i < p.spec.zone.rows ∧ j < p.spec.zone.cols ∧ CommitsAt p i j n := by
  unfold Prod.commitCells CommitsAt
  split
  · simp [Zone.mem_cells, Prod.commitAt_plain h, and_assoc]
  · simp only [List.mem_filter, Zone.mem_diagonal, Prod.commitAt_plain h, decide_eq_true_eq, Option.some.injEq]
    omega

/-- Two cells of a product that are committed in one array cycle are two elements of its tile, unless it has been restored with a
zone wider than a tile. -/
theorem Prod.commitCells_tileKey_inj {p : Prod} (h : Plain p) (hn : p.late = true → p.spec.zone.cols ≤ 64)
    {x y : Nat × Nat} {n core : Nat} (hx : x ∈ p.commitCells n) (hy : y ∈ p.commitCells n)
    (he : tileKey core p.spec.tile (p.spec.zone.row0 + y.1) (p.spec.zone.col0 + y.2) =
      tileKey core p.spec.tile (p.spec.zone.row0 + x.1) (p.spec.zone.col0 + x.2)) : y = x := by
  obtain ⟨i, j⟩ := x
  obtain ⟨k, l⟩ := y
  obtain ⟨-, hj, hx⟩ := (Prod.mem_commitCells h).1 hx
  obtain ⟨-, hl, hy⟩ := (Prod.mem_commitCells h).1 hy
  unfold tileKey at he
  unfold CommitsAt at hx hy
  have hkl : k = i ∧ l = j := by
    by_cases hlate : p.late = true
    · have := hn hlate
      omega
    · rw [if_neg hlate] at hx hy
      omega
  rw [hkl.1, hkl.2]

/-! ## The commits of a product in one array cycle -/

/-- The value that a complete cell commits. -/
def Prod.commitVal (p : Prod) (x : Nat × Nat) : Word32 := BitVec.ofNat 32 (p.cellSum x.1 x.2 p.spec.p).1

/-- The sums of a product's cells, written to its tile. -/
def State.commitAll (s : State) (core : Nat) (p : Prod) (l : List (Nat × Nat)) : State :=
  s.acsWriteAll core p.spec.tile (fun x => p.spec.zone.row0 + x.1) (fun x => p.spec.zone.col0 + x.2) p.commitVal l

/-- Commits write the sums of the cells and raise flags; a sum does not depend on the flags raised before it. -/
theorem State.commitProd_eq (s : State) (core : Nat) (t : Int) (p : Prod) : ∃ f,
    s.commitProd core t p = (((s.commitAll core p (p.commitCells t)).charge (seatOf p.hw) 9 (p.commitCells t).length),
      { p with flags := p.flags ||| f, late := false }) := by
  have hfold : ∀ (l : List (Nat × Nat)) (s : State) (f : Flags), ∃ g, l.foldl (fun (a : State × Prod) x =>
      let v := a.2.cellSum x.1 x.2 a.2.spec.p
      (a.1.acsWrite core p.spec.tile (p.spec.zone.row0 + x.1) (p.spec.zone.col0 + x.2) (BitVec.ofNat 32 v.1),
        { a.2 with flags := a.2.flags ||| prodFlags v.2 })) (s, { p with flags := f }) =
      (s.commitAll core p l, { p with flags := f ||| g }) := by
    intro l
    induction l with
    | nil => exact fun s f => ⟨0, by simp [State.commitAll, State.acsWriteAll]⟩
    | cons x l ih =>
      intro s f
      obtain ⟨g, hg⟩ := ih (s.acsWrite core p.spec.tile (p.spec.zone.row0 + x.1) (p.spec.zone.col0 + x.2) (p.commitVal x))
        (f ||| prodFlags (p.cellSum x.1 x.2 p.spec.p).2)
      exact ⟨prodFlags (p.cellSum x.1 x.2 p.spec.p).2 ||| g, hg.trans (by rw [BitVec.or_assoc]; rfl)⟩
  obtain ⟨g, hg⟩ := hfold (p.commitCells t) s p.flags
  exact ⟨g, by simp only [State.commitProd, hg]⟩

/-- Flags that a restored product settles late are settled in its context. -/
def State.lateSettled (s : State) (t : Int) (p : Prod) (f : Flags) : State :=
  if p.late && !p.orphan && p.cut.isNone && decide (p.lastCommit ≤ t) then
    s.modCtx p.hw (fun c => (c.settle p.id f).land) else s

theorem State.commitStage_single {s : State} {core : Nat} {p : Prod} (hp : (s.core core).prods = [p]) (hc : p.cut = none)
    (t : Int) : ∃ f, s.commitStage core t =
      (((s.commitAll core p (p.commitCells t)).charge (seatOf p.hw) 9 (p.commitCells t).length).lateSettled t p
        (p.flags ||| f)).modCore core (fun k => { k with prods := [{ p with flags := p.flags ||| f, late := false }] }) := by
  obtain ⟨f, hf⟩ := s.commitProd_eq core t p
  refine ⟨f, ?_⟩
  simp only [State.commitStage, hp, List.foldl_cons, List.foldl_nil, hf, List.nil_append, State.surrenderProd,
    State.lateSettled, hc]

theorem State.lateSettled_mem (s : State) (t : Int) (p : Prod) (f : Flags) : (s.lateSettled t p f).mem = s.mem := by
  unfold State.lateSettled
  split <;> rfl

/-- What the commits of array cycle `(s.core core).arr` leave. -/
structure Committed (s t : State) (core : Nat) (p : Prod) : Prop where
  sums : ∀ i j, i < p.spec.zone.rows → j < p.spec.zone.cols → CommitsAt p i j (s.core core).arr →
    SMap.getD t.mem.acs (tileKey core p.spec.tile (p.spec.zone.row0 + i) (p.spec.zone.col0 + j)) 0 = p.commitVal (i, j)
  others : ∀ n, (∀ i j, i < p.spec.zone.rows → j < p.spec.zone.cols → CommitsAt p i j (s.core core).arr →
    n ≠ tileKey core p.spec.tile (p.spec.zone.row0 + i) (p.spec.zone.col0 + j)) →
      SMap.getD t.mem.acs n 0 = SMap.getD s.mem.acs n 0
  product : ∃ f, (t.core core).prods = [{ p with flags := p.flags ||| f, late := false }]
  spad : t.mem.spad = s.mem.spad
  hbm : t.mem.hbm = s.mem.hbm
  ctxs : p.late = false → ∀ k, RegsSame (s.ctx k) (t.ctx k)

/-- What O39 says of commits holds of every product whose zone is no wider than a tile. -/
theorem productCommit_committed {core : Nat} {s : State} {p : Prod} (hp : (s.core core).prods = [p]) (h : Plain p)
    (hn : p.late = true → p.spec.zone.cols ≤ 64) : Answers (.productCommit core) s (fun t => Committed s t core p) := by
  obtain ⟨f, hf⟩ := State.commitStage_single hp h.uncut (s.core core).arr
  have hmem : (s.commitStage core (s.core core).arr).mem = (s.commitAll core p (p.commitCells (s.core core).arr)).mem := by
    rw [hf, State.modCore_mem, State.lateSettled_mem, State.charge_mem]
  refine ⟨_, rfl, ?_⟩
  constructor
  case sums =>
    intro i j hi hj hc
    have hx := (Prod.mem_commitCells h).2 ⟨hi, hj, hc⟩
    rw [hmem]
    exact State.acsWriteAll_same hx (fun y hy he => by rw [Prod.commitCells_tileKey_inj h hn hx hy he]) s
  case others =>
    intro n hother
    rw [hmem]
    refine State.acsWriteAll_other (fun x hx => ?_) s
    obtain ⟨hi, hj, hc⟩ := (Prod.mem_commitCells h).1 hx
    exact hother _ _ hi hj hc
  case product => exact ⟨f, by rw [hf, State.modCore_core_same]⟩
  case spad => rw [hmem]; exact State.acsWriteAll_unchanged (fun s => s.mem.spad) (fun _ _ _ _ => rfl) _ _
  case hbm => rw [hmem]; exact State.acsWriteAll_unchanged (fun s => s.mem.hbm) (fun _ _ _ _ => rfl) _ _
  case ctxs =>
    intro hl k
    have hctx : (s.commitAll core p (p.commitCells (s.core core).arr)).ctx k = s.ctx k :=
      State.acsWriteAll_unchanged (fun s => s.ctx k) (fun _ _ _ _ => rfl) _ _
    rw [hf, State.modCore_ctx, State.lateSettled, hl, Bool.false_and, Bool.false_and, Bool.false_and, if_neg Bool.false_ne_true]
    by_cases hk : k = seatOf p.hw
    · rw [hk] at hctx ⊢
      rw [State.charge_ctx_same, hctx]
      exact ⟨rfl, rfl, rfl, rfl⟩
    · rw [State.charge_ctx_other _ _ _ hk, hctx]
      exact ⟨rfl, rfl, rfl, rfl⟩

/-! ## The INT8 sum (R59, R182) -/

/-- Clamped to the range of a 32-bit word. -/
def clamp32 (x : Int) : Int := max (-(2 : Int) ^ 31) (min ((2 : Int) ^ 31 - 1) x)

/-- The accumulator holds a sum. -/
def Holds32 (acc : Nat) (a : Int) : Prop := acc = wrapN 32 a ∧ -(2 : Int) ^ 31 ≤ a ∧ a ≤ (2 : Int) ^ 31 - 1

theorem signed_wrapN {a : Int} (hlo : -(2 : Int) ^ 31 ≤ a) (hhi : a ≤ (2 : Int) ^ 31 - 1) : signed 32 (wrapN 32 a) = a := by
  unfold signed wrapN
  split <;> omega

theorem termInt_holds {acc : Acc} {a : Int} (h : Holds32 acc.1 a) (x y : Nat) :
    Holds32 (termInt acc x y).1 (clamp32 (a + signed 8 x * signed 8 y)) := by
  obtain ⟨hacc, hlo, hhi⟩ := h
  have hs : signed 32 acc.1 = a := hacc ▸ signed_wrapN hlo hhi
  refine ⟨?_, by unfold clamp32; omega, by unfold clamp32; omega⟩
  simp only [termInt, hs]
  congr 1
  simp only [clampTo, clamp32]
  split
  · omega
  · split <;> omega

theorem foldl_termInt_holds {acc : Acc} {a : Int} (f g : Nat → Nat) (h : Holds32 acc.1 a) (l : List Nat) :
    Holds32 (l.foldl (fun acc n => termInt acc (f n) (g n)) acc).1
      (l.foldl (fun a n => clamp32 (a + signed 8 (f n) * signed 8 (g n))) a) := by
  induction l generalizing acc a with
  | nil => exact h
  | cons n l ih => exact ih (termInt_holds h _ _)

theorem holds32_word (w : Word32) : Holds32 w.toNat w.toInt := by
  have := w.isLt
  unfold Holds32 wrapN
  rw [BitVec.toInt_eq_toNat_cond]
  split <;> omega

theorem ofNat_wrapN (a : Int) : BitVec.ofNat 32 (wrapN 32 a) = BitVec.ofInt 32 a := by
  apply BitVec.eq_of_toNat_eq
  rw [BitVec.toNat_ofNat, BitVec.toNat_ofInt, wrapN]
  omega

/-- What a cell starts from: its seed, where the product accumulates. -/
def Prod.startInt (p : Prod) (i j : Nat) : Int :=
  if p.spec.kind = .macc ∨ p.spec.kind = .maccs ∨ p.spec.kind = .mstrmAcc then
    (SMap.getD p.seeds (64 * i + j) (0 : Word32)).toInt else 0

theorem Prod.startOf_holds {p : Prod} (h : p.resumed = false) (i j : Nat) : Holds32 (p.startOf i j) (p.startInt i j) := by
  have hk : p.spec.kind.accs = true ↔ p.spec.kind = .macc ∨ p.spec.kind = .maccs ∨ p.spec.kind = .mstrmAcc := by
    cases p.spec.kind <;> simp [PKind.accs]
  simp only [Prod.startOf, Prod.startInt, h, hk, Bool.false_eq_true, if_false]
  split
  · exact holds32_word _
  · exact ⟨rfl, by decide, by decide⟩

/-- An INT8 cell takes one term for each position that the select mask keeps. -/
theorem Prod.cellSum_int {p : Prod} (h : p.cnt = []) (ha : p.spec.fa = 1) (hb : p.spec.fb = 1) (i j : Nat) :
    p.cellSum i j p.spec.p = ((List.range p.spec.p).filter p.kept).foldl
      (fun acc n => termInt acc (p.opA i n) (p.opB j n)) (p.startOf i j, 0) := by
  have hcnt : p.cellCnt i j = 0 := by rw [Prod.cellCnt, h]; rfl
  simp [Prod.cellSum, Prod.sum, Prod.startAcc, Prod.keptIn, hcnt, ha, hb, classOf]

theorem intCell_eq (p : Prod) (i j : Nat) : intCell p i j = ((List.range p.spec.p).filter p.kept).foldl
    (fun a n => clamp32 (a + signed 8 (p.opA i n) * signed 8 (p.opB j n))) (p.startInt i j) := rfl

/-- The sum that an INT8 cell commits is that of R59. -/
theorem Prod.commitVal_int {p : Prod} (h : Plain p) (ha : p.spec.fa = 1) (hb : p.spec.fb = 1) (i j : Nat) :
    p.commitVal (i, j) = BitVec.ofInt 32 (intCell p i j) := by
  obtain ⟨hsum, -, -⟩ := foldl_termInt_holds (acc := (p.startOf i j, 0)) (p.opA i) (p.opB j) (Prod.startOf_holds h.fresh i j)
    ((List.range p.spec.p).filter p.kept)
  rw [Prod.commitVal, Prod.cellSum_int h.counts ha hb, hsum, ofNat_wrapN, intCell_eq]

/-! ## Stream slices (R183) -/

/-- In its cycle one slice of a streamed product is due: the next. -/
theorem Prod.slicesDue_next {p : Prod} (hc : p.cut = none) (hs : p.spec.kind.streams = true) (hlt : nextSlice p < p.spec.s) :
    p.slicesDue (p.issue + nextSlice p + 1) = [nextSlice p] := by
  have hlast : (min p.spec.s (p.issue + nextSlice p + 1 - p.issue).toNat) - nextSlice p = 1 := by omega
  have hdue : p.slicesDue (p.issue + nextSlice p + 1) =
      (List.range (min p.spec.s (p.issue + nextSlice p + 1 - p.issue).toNat - nextSlice p)).map (fun d => nextSlice p + d) := by
    simp only [Prod.slicesDue, hs, hc, Option.isNone_none, Bool.and_self, if_true]
    rfl
  rw [hdue, hlast]
  rfl

/-- A streamed product takes its next slice in its cycle from the stream buffer of its context. -/
theorem exec_streamSliceArrive_due {core : Nat} {s : State} {p : Prod} (hp : (s.core core).prods = [p]) (hc : p.cut = none)
    (ho : p.orphan = false) (hs : p.spec.kind.streams = true) (hlt : nextSlice p < p.spec.s)
    (hdue : p.issue + nextSlice p + 1 = (s.core core).arr) (hlen : p.sliceBytes ≤ (s.ctx p.hw).eng.stream.length) :
    exec (.streamSliceArrive core) s = .next
      ((s.modCtx p.hw (fun c => { c with eng := { c.eng with stream := c.eng.stream.drop p.sliceBytes } })).modCore core (fun k =>
        { k with prods := [{ p with
          bSteps := SMap.put p.bSteps (nextSlice p) (ofBytes ((s.ctx p.hw).eng.stream.take p.sliceBytes)) }] })) := by
  rw [exec_streamSliceArrive, execStreamSliceArrive, State.sliceStage, hp, ← hdue]
  simp only [List.foldl_cons, List.foldl_nil, Prod.slicesDue_next hc hs hlt, State.takeSlices, ho, Bool.false_eq_true, if_false,
    if_pos hlen, List.nil_append]

end Sys2Proof.Machine
end

section
/-!
SUPPORT. A write through the core port while no watch entry is armed (R91, R214, R255).
-/

namespace Sys2Proof.Machine

open Sys2Proof.Claims

/-! ## A write through the core port while no watch entry is armed (R91, R214, R255) -/

/-- What changes of a journal and of checkpoints leave alone, the journal entry of a line leaves alone. -/
theorem journalLine_unchanged {β : Type} (f : State → β)
    (hcore : ∀ s core j b, f (State.modCore s core (fun k => { k with journal := j, jfull := b })) = f s)
    (hctx : ∀ s hw (g : Ctx → Option Ckpt), f (State.modCtx s hw (fun c => { c with ckpt := g c })) = f s)
    (s : State) (line : Nat) :
    f (journalLine s line) = f s := by
  unfold journalLine
  dsimp only
  split
  · rfl
  next team _ =>
    split
    · rfl
    split
    · exact hcore s _ _ (s.core _).jfull
    · refine (foldl_unchanged f (fun s x => ?_) _ _).trans (hcore s _ (s.core _).journal true)
      rw [← hctx s _ fun c => if fld c.ctl.team.toNat 0 6 = team then c.ckpt.map (fun q => { q with usable := false }) else c.ckpt]
      congr 2
      funext c
      split <;> rfl

theorem SMap.mem_of_get? {α : Type} {m : SMap α} {i : Nat} {a : α} (h : SMap.get? m i = some a) : (i, a) ∈ m := by
  induction m with
  | nil => cases h
  | cons x m ih =>
    obtain ⟨j, b⟩ := x
    simp only [SMap.get?] at h
    split at h
    · cases h
      simp_all
    · split at h
      · cases h
      · exact List.mem_cons_of_mem _ (ih h)

/-- No entry of any cluster is armed or pending. -/
theorem noWatch_cluster {s : State} (h : NoWatch s) (cl : Nat) : ∀ y ∈ (s.cluster cl).watch, y.2.st ≠ 1 ∧ y.2.st ≠ 2 := by
  unfold State.cluster SMap.getD
  cases hg : SMap.get? s.clusters cl with
  | none => exact fun y hy => by cases hy
  | some c => exact h _ (SMap.mem_of_get? hg)

theorem State.triggersOf_noWatch {s : State} (h : NoWatch s) (changed : List Nat) (skip : Option (Nat × Nat)) :
    s.triggersOf changed skip = [] := by
  have hnil (cl : Nat) (offs : List Nat) (sk : Option Nat) : triggered (s.cluster cl) offs sk = [] := by
    refine List.filterMap_eq_nil_iff.2 fun x hx => if_neg fun hst => ?_
    obtain ⟨h1, h2⟩ := noWatch_cluster h cl x hx
    exact hst.1.elim h1 h2
  simp [State.triggersOf, hnil]

theorem State.spadWriteF_noWatch {s : State} (h : NoWatch s) (cells : List (Nat × Byte)) (wr : Option Writer)
    (skip : Option (Nat × Nat)) (fuel : Nat) :
    s.spadWriteF cells wr skip (fuel + 1) = ((linesOf cells).foldl journalLine s).spadRaw cells := by
  have hq : s.spadQuiet cells skip = (((linesOf cells).foldl journalLine s).spadRaw cells, []) := by
    unfold State.spadQuiet
    rw [State.triggersOf_noWatch h]
    split <;> rfl
  rw [State.spadWriteF, hq]
  rfl

/-- The journal keeps the old lines, and the bytes change. -/
theorem State.coreWrite_noWatch {s : State} (h : NoWatch s) (cells : List (Nat × Byte)) (wr : Option Writer) :
    s.coreWrite cells wr = ((linesOf cells).foldl journalLine ({ s with oldBytes := s.keepOld cells } : State)).spadRaw cells := by
  cases cells with
  | nil => rfl
  | cons c l => exact State.spadWriteF_noWatch (s := { s with oldBytes := s.keepOld (c :: l) }) h (c :: l) wr none 4096

theorem State.coreWrite_unchanged {β : Type} (f : State → β)
    (hcore : ∀ s core j b, f (State.modCore s core (fun k => { k with journal := j, jfull := b })) = f s)
    (hctx : ∀ s hw (g : Ctx → Option Ckpt), f (State.modCtx s hw (fun c => { c with ckpt := g c })) = f s)
    (hspad : ∀ s cells, f (State.spadRaw s cells) = f s) (hold : ∀ (s : State) m, f { s with oldBytes := m } = f s)
    {s : State} (h : NoWatch s) (cells : List (Nat × Byte)) (wr : Option Writer) : f (s.coreWrite cells wr) = f s := by
  rw [State.coreWrite_noWatch h, hspad, foldl_unchanged f (journalLine_unchanged f hcore hctx), hold]

theorem State.coreWrite_mem {s : State} (h : NoWatch s) (cells : List (Nat × Byte)) (wr : Option Writer) :
    (s.coreWrite cells wr).mem = { s.mem with spad := cells.foldl (fun m c => m.write c.1 c.2) s.mem.spad } := by
  have hj := foldl_unchanged State.mem (journalLine_unchanged State.mem (fun _ _ _ _ => rfl) (fun _ _ _ => rfl)) (linesOf cells)
    ({ s with oldBytes := s.keepOld cells } : State)
  rw [State.coreWrite_noWatch h, State.spadRaw, hj]

end Sys2Proof.Machine
end

section
/-!
PROOF. The rows of MRDS and MWRS of FP32 (R93, R185, R188, R189).
-/

namespace Sys2Proof.Machine

open Sys2Proof.Claims

/-! ## Bytes and elements (R5) -/

theorem portValue_lt (s : State) (a n : Nat) : portValue s a n < 256 ^ n := by
  induction n generalizing a with
  | zero => exact Nat.one_pos
  | succ n ih =>
    have hb := (s.portByte a).isLt
    have := ih (a + 1)
    rw [portValue, Nat.pow_succ]
    omega

theorem portValue_add (s : State) (a m n : Nat) : portValue s a (m + n) = portValue s a m + 256 ^ m * portValue s (a + m) n := by
  induction m generalizing a with
  | zero => simp [portValue]
  | succ m ih =>
    rw [Nat.succ_add, portValue, ih, portValue, Nat.add_assoc a 1 m, Nat.add_comm 1 m, Nat.pow_succ]
    ring

theorem portValue_eq_ofBytes (s : State) (a n : Nat) :
    portValue s a n = ofBytes ((List.range n).map (fun b => s.portByte (a + b))) := by
  induction n generalizing a with
  | zero => rfl
  | succ n ih =>
    rw [portValue, ih, List.range_succ_eq_map, List.map_cons, List.map_map, ofBytes]
    simp only [Function.comp_def, Nat.succ_eq_add_one, Nat.add_zero, Nat.add_assoc, Nat.add_comm 1]

/-- A 32-bit element of bytes read from an address is what is read at the element's own address. -/
theorem elem_portValue (s : State) (a : Nat) {n j : Nat} (h : j < n) :
    elem (portValue s a (4 * n)) 4 j = portValue s (a + 4 * j) 4 := by
  have hn : 4 * n = 4 * j + (4 + 4 * (n - j - 1)) := by omega
  have hlo := portValue_lt s a (4 * j)
  have hmid := portValue_lt s (a + 4 * j) 4
  have hp : 2 ^ (8 * 4 * j) = 256 ^ (4 * j) := by rw [show (256 : Nat) = 2 ^ 8 from rfl, ← Nat.pow_mul, Nat.mul_assoc]
  rw [elem, hp, hn, portValue_add, portValue_add, Nat.add_mul_div_left _ _ (Nat.pow_pos (by decide)), Nat.div_eq_of_lt hlo]
  omega

/-- Byte `4j + k` of a number is byte `k` of its element `j`. -/
theorem byteOf_elem (v j : Nat) {k : Nat} (hk : k < 4) : byteOf v (4 * j + k) = byteOf (elem v 4 j) k := by
  have hp : 256 ^ (4 * j + k) = 2 ^ (8 * 4 * j) * 256 ^ k := by
    rw [Nat.pow_add, show (256 : Nat) = 2 ^ 8 from rfl, ← Nat.pow_mul, Nat.mul_assoc]
  apply BitVec.eq_of_toNat_eq
  rw [byteOf, byteOf, BitVec.toNat_ofNat, BitVec.toNat_ofNat, hp, ← Nat.div_div_eq_div_mul, elem]
  interval_cases k <;> omega

theorem assemble_append (w : Nat) (l : List Nat) (y : Nat) : assemble w (l ++ [y]) = assemble w l + y * 2 ^ (8 * w * l.length) := by
  induction l with
  | nil => simp [assemble]
  | cons x l ih =>
    rw [List.cons_append, assemble, ih, assemble, List.length_cons, Nat.mul_succ, Nat.pow_add]
    ring

/-! ## The row of an FP32 transfer (R188, R189) -/

section

variable {x : Xfer} (hu : x.u = .f)

/-- Where a row lies in the own scratchpad. -/
def Xfer.rowPlace (x : Xfer) (i : Nat) : Nat := x.addr.toNat + i * x.pitch

include hu

theorem Xfer.rowMoves_f (i : Nat) :
    x.rowMoves i = (List.range (4 * x.zone.cols)).map (fun b => (b, x.rowAddr i + BitVec.ofNat 64 b)) := by
  rw [Xfer.rowMoves, xferBytes, hu, if_neg (by decide), Nat.mul_comm]
  rfl

omit hu in
theorem Xfer.rowAddr_toNat {i b : Nat} (hr : x.rowPlace i + 4 * x.zone.cols ≤ 0x400000) (h : b < 4 * x.zone.cols) :
    (x.rowAddr i + BitVec.ofNat 64 b).toNat = x.rowPlace i + b := by
  unfold Xfer.rowPlace at hr ⊢
  unfold Xfer.rowAddr
  generalize i * x.pitch = d at hr ⊢
  simp only [BitVec.toNat_add, BitVec.toNat_ofNat]
  omega

variable {i : Nat} (hr : x.rowPlace i + 4 * x.zone.cols ≤ 0x400000)

include hr

/-- Every byte of the row lies in range. -/
theorem Xfer.rowMoves_inRange : ∀ m ∈ x.rowMoves i, m.2.toNat < Config.spadBytes := by
  rw [Xfer.rowMoves_f hu]
  intro m hm
  obtain ⟨b, hb, rfl⟩ := List.mem_map.1 hm
  have hb := List.mem_range.1 hb
  rw [Xfer.rowAddr_toNat hr hb]
  exact Nat.lt_of_lt_of_le (Nat.add_lt_add_left hb _) hr

theorem Xfer.offender_rowMoves : offender (x.rowMoves i) = none := by
  have h := Xfer.rowMoves_inRange hu hr
  simpa [offender] using h

theorem Xfer.ownBytes_row (s : State) (core : Nat) : ofBytes ((x.rowMoves i).map (fun m => s.ownByte core m.2.toNat)) =
    portValue s (core * 0x400000 + x.rowPlace i) (4 * x.zone.cols) := by
  rw [portValue_eq_ofBytes, Xfer.rowMoves_f hu, List.map_map]
  refine congrArg ofBytes (List.map_congr_left fun b hb => ?_)
  have hb := List.mem_range.1 hb
  show s.ownByte core (x.rowAddr i + BitVec.ofNat 64 b).toNat = _
  rw [Xfer.rowAddr_toNat hr hb, State.ownByte, if_pos (Nat.lt_of_lt_of_le (Nat.add_lt_add_left hb _) hr), Nat.add_assoc]

/-- The cells that the store of a row writes. -/
theorem Xfer.rowCells (core v : Nat) : ((x.rowMoves i).filter (fun m => decide (m.2.toNat < Config.spadBytes))).map
      (fun m => (core * Config.spadBytes + m.2.toNat, byteOf v m.1)) =
    (List.range (4 * x.zone.cols)).map (fun b => (core * 0x400000 + x.rowPlace i + b, byteOf v b)) := by
  rw [List.filter_eq_self.2 fun m hm => decide_eq_true (Xfer.rowMoves_inRange hu hr m hm), Xfer.rowMoves_f hu, List.map_map]
  refine List.map_congr_left fun b hb => ?_
  show (core * Config.spadBytes + (x.rowAddr i + BitVec.ofNat 64 b).toNat, byteOf v b) = _
  rw [Xfer.rowAddr_toNat hr (List.mem_range.1 hb), Nat.add_assoc]

end

/-- Without SR, the record of an FP32 row is its elements one after another, and no generator moves. -/
theorem storeRow_f {x : Xfer} (hu : x.u = .f) (hrm : x.rm ≠ 4) (i : Nat) (val : Nat → Word32) (c : Ctx) :
    storeRow x i val c = (assemble 4 ((List.range x.zone.cols).map (fun j => (val j).toNat)), 0, c) := by
  have hfold (n : Nat) : (List.range n).foldl (fun (a : Nat × Flags × Ctx) j =>
      (a.1 + (val j).toNat * 2 ^ (8 * 4 * j), a.2.1 ||| 0, a.2.2)) (0, 0, c) =
      (assemble 4 ((List.range n).map (fun j => (val j).toNat)), 0, c) := by
    induction n with
    | zero => rfl
    | succ n ih => rw [List.range_succ, List.foldl_append, ih, List.map_append, List.map_singleton, assemble_append]; simp
  rw [← hfold]
  simp only [storeRow, hu, srLane, if_neg hrm, storeOne]
  rfl

/-- Byte `k` of element `j` of a record of 32-bit elements. -/
theorem byteOf_assemble {n j k : Nat} (val : Nat → Word32) (hj : j < n) (hk : k < 4) :
    byteOf (assemble 4 ((List.range n).map (fun j => (val j).toNat))) (4 * j + k) = BitVec.ofNat 8 ((val j).toNat / 256 ^ k) := by
  have hlt : ∀ y ∈ (List.range n).map (fun j => (val j).toNat), y < 2 ^ (8 * 4) := by
    intro y hy
    obtain ⟨b, -, rfl⟩ := List.mem_map.1 hy
    exact (val b).isLt
  rw [byteOf_elem _ _ hk, elem_assemble 4 _ hlt j (by simpa using hj), byteOf]
  simp [hj]

/-! ## One row of a transfer -/

/-- What one row of an FP32 transfer has moved. -/
structure RowMoved (s t : State) (core : Nat) (x : Xfer) : Prop where
  load : x.write = true →
    (∀ j, j < x.zone.cols → SMap.getD t.mem.acs (tileKey core x.tile (x.zone.row0 + x.next) (x.zone.col0 + j)) 0 =
      BitVec.ofNat 32 (portValue s (core * 0x400000 + x.rowPlace x.next + 4 * j) 4)) ∧
    (∀ n, (∀ j, j < x.zone.cols → n ≠ tileKey core x.tile (x.zone.row0 + x.next) (x.zone.col0 + j)) →
      SMap.getD t.mem.acs n 0 = SMap.getD s.mem.acs n 0) ∧ t.mem.spad = s.mem.spad
  store : x.write = false →
    (∀ j k, j < x.zone.cols → k < 4 → t.mem.spad.read (core * 0x400000 + x.rowPlace x.next + 4 * j + k) = BitVec.ofNat 8
      ((SMap.getD s.mem.acs (tileKey core x.tile (x.zone.row0 + x.next) (x.zone.col0 + j)) 0).toNat / 256 ^ k)) ∧
    (∀ b, b < core * 0x400000 + x.rowPlace x.next ∨ core * 0x400000 + x.rowPlace x.next + 4 * x.zone.cols ≤ b →
      t.mem.spad.read b = s.mem.spad.read b) ∧ t.mem.acs = s.mem.acs
  hbm : t.mem.hbm = s.mem.hbm
  host : t.mem.host = s.mem.host
  mod : t.mod = s.mod

/-- The lines and the tile row of a transfer's row are counted as energy. -/
def State.rowCharged (s : State) (x : Xfer) : State :=
  (s.charge (seatOf x.hw) 5 (linesOfMoves (x.rowMoves x.next)).length).charge (seatOf x.hw) 9 1

/-- What a change of energy leaves alone, counting it leaves alone. -/
theorem State.charge_unchanged {β : Type} (f : State → β)
    (hf : ∀ s hw e, f (State.modCtx s hw (fun c => { c with energy := c.energy + e })) = f s) (s : State) (hw code n : Nat) :
    f (s.charge hw code n) = f s := by
  rcases s.charge_cases hw code n with ⟨e, -⟩ | e <;> rw [e]
  exact hf _ _ _

theorem State.rowCharged_unchanged {β : Type} (f : State → β)
    (hf : ∀ s hw e, f (State.modCtx s hw (fun c => { c with energy := c.energy + e })) = f s) (s : State) (x : Xfer) :
    f (s.rowCharged x) = f s := by
  rw [State.rowCharged, State.charge_unchanged f hf, State.charge_unchanged f hf]

/-- What a change keeps of each context is kept of every context of the state. -/
theorem State.modCtx_keeps {β : Type} (f : Ctx → β) {g : Ctx → Ctx} (h : ∀ c, f (g c) = f c) (s : State) (hw k : Nat) :
    f ((s.modCtx hw g).ctx k) = f (s.ctx k) := by
  by_cases hk : k = hw
  · rw [hk, State.modCtx_ctx_same, h]
  · rw [State.modCtx_ctx_other _ _ hk]

theorem State.rowCharged_keeps {β : Type} (f : Ctx → β) (hf : ∀ (c : Ctx) e, f { c with energy := c.energy + e } = f c) (s : State)
    (x : Xfer) (k : Nat) : f ((s.rowCharged x).ctx k) = f (s.ctx k) :=
  s.rowCharged_unchanged (fun s => f (s.ctx k)) (fun s hw e => s.modCtx_keeps f (fun c => hf c e) hw k) x

theorem State.rowCharged_noWatch {s : State} (h : NoWatch s) (x : Xfer) : NoWatch (s.rowCharged x) := by
  rw [NoWatch, s.rowCharged_unchanged State.clusters (fun _ _ _ => rfl) x]
  exact h

theorem State.coreWrite_keeps {β : Type} (f : Ctx → β) (hf : ∀ (c : Ctx) k, f { c with ckpt := k } = f c) {s : State}
    (h : NoWatch s) (cells : List (Nat × Byte)) (wr : Option Writer) (k : Nat) : f ((s.coreWrite cells wr).ctx k) = f (s.ctx k) :=
  State.coreWrite_unchanged (fun s => f (s.ctx k)) (fun _ _ _ _ => rfl) (fun s hw g => s.modCtx_keeps f (fun c => hf c (g c)) hw k)
    (fun _ _ => rfl) (fun _ _ => rfl) h cells wr

/-- Bytes at rising addresses are written in address order. -/
theorem foldl_write_range (m : Memory) (a n : Nat) (g : Nat → Byte) :
    ((List.range n).map (fun b => (a + b, g b))).foldl (fun m c => m.write c.1 c.2) m = hostPut m a ((List.range n).map g) := by
  have h := foldl_write_range' m a 0 ((List.range n).map g)
  rw [List.length_map, List.length_range, ← List.range_eq_range', List.zipWith_map_right, List.zipWith_self] at h
  exact h

theorem flags_or_zero (f : Flags) : f ||| 0 = f := BitVec.or_zero

section

variable {s : State} {core : Nat} {x : Xfer} (hu : x.u = .f) (hr : x.rowPlace x.next + 4 * x.zone.cols ≤ 0x400000)

include hu hr

/-- MWRS writes the tile row from the bytes of the record. -/
theorem State.xferRow_load (hw : x.write = true) (hnow : (s.core core).acsNow = []) : s.xferRow core x =
    ((s.rowCharged x).acsWriteAll core x.tile (fun _ => x.zone.row0 + x.next) (fun j => x.zone.col0 + j)
      (fun j => BitVec.ofNat 32 (elem (portValue s (core * 0x400000 + x.rowPlace x.next) (4 * x.zone.cols)) 4 j))
      (List.range x.zone.cols), { x with next := x.next + 1 }) := by
  have hfold (v : Nat → Word32) (l : List Nat) (u : State) : l.foldl (fun (a : State × Flags) j =>
      (a.1.acsWrite core x.tile (x.zone.row0 + x.next) (x.zone.col0 + j) (v j), a.2 ||| 0)) (u, 0) =
      (u.acsWriteAll core x.tile (fun _ => x.zone.row0 + x.next) (fun j => x.zone.col0 + j) v l, 0) := by
    induction l generalizing u with
    | nil => rfl
    | cons j l ih => rw [List.foldl_cons, BitVec.or_self, ih]; rfl
  simp only [State.xferRow, State.noteXfer, Xfer.offender_rowMoves hu hr, Xfer.ownBytes_row hu hr, hw, if_true, hnow, List.any_nil,
    Bool.false_eq_true, if_false, hu, loadOne]
  rw [hfold]
  simp only [flags_or_zero]
  rfl

/-- MRDS writes the bytes of the record from the tile row. -/
theorem State.xferRow_store (hw : x.write = false) (hrm : x.rm ≠ 4) : s.xferRow core x =
    ((s.rowCharged x).coreWrite ((List.range (4 * x.zone.cols)).map (fun b => (core * 0x400000 + x.rowPlace x.next + b,
      byteOf (assemble 4 ((List.range x.zone.cols).map (fun j =>
        (s.acsRead core x.tile (x.zone.row0 + x.next) (x.zone.col0 + j)).toNat))) b))) x.writer,
      { x with next := x.next + 1 }) := by
  simp only [State.xferRow, State.noteXfer, Xfer.offender_rowMoves hu hr, hw, Bool.false_eq_true, if_false, storeRow_f hu hrm,
    Xfer.rowCells hu hr, if_neg hrm, flags_or_zero]
  rfl

theorem State.xferRow_next (hrm : x.rm ≠ 4) (hnow : (s.core core).acsNow = []) :
    (s.xferRow core x).2 = { x with next := x.next + 1 } := by
  rcases Bool.eq_false_or_eq_true x.write with hw | hw
  · rw [State.xferRow_load hu hr hw hnow]
  · rw [State.xferRow_store hu hr hw hrm]

theorem State.xferRow_loaded (hw : x.write = true) (hnow : (s.core core).acsNow = []) : RowMoved s (s.xferRow core x).1 core x := by
  rw [State.xferRow_load hu hr hw hnow]
  have hmem : (s.rowCharged x).mem = s.mem := s.rowCharged_unchanged State.mem (fun _ _ _ => rfl) x
  constructor
  case load =>
    refine fun _ => ⟨fun j hj => ?_, fun n hn => ?_, ?_⟩
    · rw [State.acsWriteAll_same (row := fun _ => x.zone.row0 + x.next) (List.mem_range.2 hj) (fun k _ he => ?_),
        elem_portValue _ _ hj]
      unfold tileKey at he
      rw [show k = j by omega]
    · rw [State.acsWriteAll_other (row := fun _ => x.zone.row0 + x.next) (fun j hj => hn j (List.mem_range.1 hj)), hmem]
    · rw [State.acsWriteAll_unchanged (fun s => s.mem.spad) (fun _ _ _ _ => rfl), hmem]
  case store => exact fun h => by rw [hw] at h; cases h
  case hbm => rw [State.acsWriteAll_unchanged (fun s => s.mem.hbm) (fun _ _ _ _ => rfl), hmem]
  case host => rw [State.acsWriteAll_unchanged (fun s => s.mem.host) (fun _ _ _ _ => rfl), hmem]
  case mod =>
    rw [State.acsWriteAll_unchanged State.mod (fun _ _ _ _ => rfl)]
    exact s.rowCharged_unchanged State.mod (fun _ _ _ => rfl) x

theorem State.xferRow_stored (hw : x.write = false) (hrm : x.rm ≠ 4) (hwf : s.mem.spad.wf = true) (hnw : NoWatch s) :
    RowMoved s (s.xferRow core x).1 core x := by
  rw [State.xferRow_store hu hr hw hrm]
  have hmem : (s.rowCharged x).mem = s.mem := s.rowCharged_unchanged State.mem (fun _ _ _ => rfl) x
  have hnw' := State.rowCharged_noWatch hnw x
  have hm := State.coreWrite_mem hnw' ((List.range (4 * x.zone.cols)).map (fun b => (core * 0x400000 + x.rowPlace x.next + b,
    byteOf (assemble 4 ((List.range x.zone.cols).map (fun j =>
      (s.acsRead core x.tile (x.zone.row0 + x.next) (x.zone.col0 + j)).toNat))) b))) x.writer
  rw [hmem, foldl_write_range] at hm
  have hlen : ((List.range (4 * x.zone.cols)).map (byteOf (assemble 4 ((List.range x.zone.cols).map (fun j =>
      (s.acsRead core x.tile (x.zone.row0 + x.next) (x.zone.col0 + j)).toNat))))).length = 4 * x.zone.cols := by simp
  constructor
  case load => exact fun h => by rw [hw] at h; cases h
  case store =>
    refine fun _ => ⟨fun j k hj hk => ?_, fun b hb => ?_, by rw [hm]⟩
    · rw [hm, Nat.add_assoc, read_hostPut_same hwf (by rw [hlen]; omega), List.getElem_map, List.getElem_range,
        byteOf_assemble _ hj hk]
      rfl
    · rw [hm, read_hostPut_other _ hwf (by rw [hlen]; exact hb)]
  case hbm => rw [hm]
  case host => rw [hm]
  case mod =>
    rw [State.coreWrite_unchanged State.mod (fun _ _ _ _ => rfl) (fun _ _ _ => rfl) (fun _ _ => rfl) (fun _ _ => rfl) hnw']
    exact s.rowCharged_unchanged State.mod (fun _ _ _ => rfl) x

/-- The contexts keep what neither energy nor a checkpoint's spoiling changes. -/
theorem State.xferRow_keeps {β : Type} (f : Ctx → β) (he : ∀ (c : Ctx) e, f { c with energy := c.energy + e } = f c)
    (hk : ∀ (c : Ctx) k, f { c with ckpt := k } = f c) (hrm : x.rm ≠ 4) (hnow : (s.core core).acsNow = []) (hnw : NoWatch s)
    (k : Nat) : f ((s.xferRow core x).1.ctx k) = f (s.ctx k) := by
  rcases Bool.eq_false_or_eq_true x.write with hw | hw
  · rw [State.xferRow_load hu hr hw hnow, ← s.rowCharged_keeps f he x k]
    exact State.acsWriteAll_unchanged (fun s => f (s.ctx k)) (fun _ _ _ _ => rfl) _ _
  · rw [State.xferRow_store hu hr hw hrm, ← s.rowCharged_keeps f he x k]
    exact State.coreWrite_keeps f hk (State.rowCharged_noWatch hnw x) _ _ k

theorem State.xferRow_moved (hrm : x.rm ≠ 4) (hnow : (s.core core).acsNow = []) (hwf : s.mem.spad.wf = true) (hnw : NoWatch s) :
    RowMoved s (s.xferRow core x).1 core x := by
  rcases Bool.eq_false_or_eq_true x.write with hw | hw
  · exact State.xferRow_loaded hu hr hw hnow
  · exact State.xferRow_stored hu hr hw hrm hwf hnw

end

/-! ## The rows of an array cycle -/

/-- A stage passes over the transfers of the other direction. -/
theorem State.xferStage_other {s : State} {core t : Nat} {w : Bool} (h : ∀ y ∈ (s.core core).xfers, y.write ≠ w) :
    s.xferStage core t w = s.modCore core (fun k => { k with xfers := (s.core core).xfers }) := by
  have hfold (l m : List Xfer) (hl : ∀ y ∈ l, y.write ≠ w) : l.foldl (fun (a : State × List Xfer) x =>
      if x.write = w ∧ x.issue + 1 + x.next = t ∧ x.next < x.zone.rows then
        let (s1, x1) := a.1.xferRow core x
        if x1.next = x.zone.rows then
          (if x.orphan then s1 else s1.modCtx x.hw (fun c => (c.settle x.id x1.flags).tokDown x.tok), a.2)
        else (s1, a.2 ++ [x1])
      else (a.1, a.2 ++ [x])) (s, m) = (s, m ++ l) := by
    induction l generalizing m with
    | nil => simp
    | cons y l ih =>
      rw [List.foldl_cons, if_neg (fun hy => hl y List.mem_cons_self hy.1), ih _ fun z hz => hl z (List.mem_cons_of_mem _ hz)]
      simp
  rw [State.xferStage, hfold _ _ h]
  rfl

/-- The state after the last row of a transfer: its flags are settled and its token counts down. -/
def State.xferEnded (s : State) (x : Xfer) : State := s.modCtx x.hw (fun c => (c.settle x.id x.flags).tokDown x.tok)

/-- A stage moves the row of the one transfer that is due, which then stands at its next row or has ended. -/
theorem State.xferStage_due {s : State} {core : Nat} {x : Xfer} (hx : (s.core core).xfers = [x]) (ho : x.orphan = false)
    (hlt : x.next < x.zone.rows) (hnext : (s.xferRow core x).2 = { x with next := x.next + 1 }) :
    s.xferStage core (x.issue + 1 + x.next) x.write =
      (if x.next + 1 = x.zone.rows then (s.xferRow core x).1.xferEnded x else (s.xferRow core x).1).modCore core (fun k =>
        { k with xfers := if x.next + 1 = x.zone.rows then [] else [{ x with next := x.next + 1 }] }) := by
  have hrow : s.xferRow core x = ((s.xferRow core x).1, { x with next := x.next + 1 }) := by rw [← hnext]
  simp only [State.xferStage, hx, List.foldl_cons, List.foldl_nil, hlt, and_self, if_true]
  rw [hrow]
  by_cases hl : x.next + 1 = x.zone.rows
  · simp [hl, ho, State.xferEnded]
  · simp [hl]

/-- What the stages of an array cycle leave of the one transfer that is due in it. -/
structure RowDone (s t : State) (core : Nat) (x : Xfer) : Prop where
  moved : RowMoved s t core x
  regs : ∀ k, (t.ctx k).regs = (s.ctx k).regs
  more : x.next + 1 < x.zone.rows → (t.core core).xfers = [{ x with next := x.next + 1 }]
  last : x.next + 1 = x.zone.rows → (t.core core).xfers = [] ∧ (t.ctx x.hw).token x.tok = (s.ctx x.hw).token x.tok - 1

/-- A transfer of FP32 rows without SR whose next row is due and lies in range, while no watch entry is armed. -/
structure RowDue (s : State) (core : Nat) (x : Xfer) : Prop where
  only : (s.core core).xfers = [x]
  owned : x.orphan = false
  type : x.u = .f
  mode : x.rm ≠ 4
  now : x.issue + 1 + x.next = (s.core core).arr
  inZone : x.next < x.zone.rows
  inRange : x.rowPlace x.next + 4 * x.zone.cols ≤ 0x400000
  noStore : (s.core core).acsNow = []
  canonical : s.mem.spad.wf = true
  unwatched : NoWatch s

section

variable {s : State} {core : Nat} {x : Xfer}

/-- The end of a transfer changes no register and no memory; its token counts down. -/
theorem rowDone_ended {u : State} (hm : RowMoved s u core x) (hregs : ∀ k, (u.ctx k).regs = (s.ctx k).regs)
    (htok : ∀ k, (u.ctx k).fmt.tok = (s.ctx k).fmt.tok) (hl : x.next + 1 = x.zone.rows) :
    RowDone s ((u.xferEnded x).modCore core (fun k => { k with xfers := [] })) core x where
  moved := ⟨hm.load, hm.store, hm.hbm, hm.host, hm.mod⟩
  regs k := (u.modCtx_keeps Ctx.regs (g := fun c => (c.settle x.id x.flags).tokDown x.tok) (fun _ => rfl) x.hw k).trans (hregs k)
  more h := by omega
  last _ := by
    refine ⟨by rw [State.modCore_core_same], ?_⟩
    rw [State.modCore_ctx, State.xferEnded, State.modCtx_ctx_same]
    simp [Ctx.tokDown, Ctx.settle, Ctx.token, htok]

theorem RowDue.stage (h : RowDue s core x) : RowDone s (s.xferStage core (s.core core).arr x.write) core x := by
  have hm := State.xferRow_moved h.type h.inRange h.mode h.noStore h.canonical h.unwatched
  have hregs := State.xferRow_keeps h.type h.inRange Ctx.regs (fun _ _ => rfl) (fun _ _ => rfl) h.mode h.noStore h.unwatched
  have htok := State.xferRow_keeps h.type h.inRange (fun c => c.fmt.tok) (fun _ _ => rfl) (fun _ _ => rfl) h.mode
    h.noStore h.unwatched
  rw [← h.now, State.xferStage_due h.only h.owned h.inZone (State.xferRow_next h.type h.inRange h.mode h.noStore)]
  by_cases hl : x.next + 1 = x.zone.rows
  · rw [if_pos hl]
    simpa only [if_pos hl] using rowDone_ended hm hregs htok hl
  · rw [if_neg hl]
    exact ⟨⟨hm.load, hm.store, hm.hbm, hm.host, hm.mod⟩, hregs, fun _ => by rw [State.modCore_core_same, if_neg hl],
      fun h => absurd h hl⟩

/-- The other direction's stage, which has no transfer to move, comes before or after. -/
theorem RowDone.before {t : State} {l : List Xfer} (h : RowDone (s.modCore core (fun k => { k with xfers := l })) t core x) :
    RowDone s t core x :=
  ⟨⟨h.moved.load, h.moved.store, h.moved.hbm, h.moved.host, h.moved.mod⟩, h.regs, h.more, h.last⟩

theorem RowDone.after {t : State} {n : Nat} {w : Bool} (h : RowDone s t core x) (hlt : x.next < x.zone.rows) (hw : x.write ≠ w) :
    RowDone s (t.xferStage core n w) core x := by
  have hother : ∀ y ∈ (t.core core).xfers, y.write ≠ w := by
    intro y hy
    by_cases hl : x.next + 1 = x.zone.rows
    · rw [(h.last hl).1] at hy
      cases hy
    · rw [h.more (by omega), List.mem_singleton] at hy
      rw [hy]
      exact hw
  have hx : ((t.modCore core (fun k => { k with xfers := (t.core core).xfers })).core core).xfers = (t.core core).xfers := by
    rw [State.modCore_core_same]
  rw [State.xferStage_other hother]
  exact ⟨⟨h.moved.load, h.moved.store, h.moved.hbm, h.moved.host, h.moved.mod⟩, h.regs, fun hm => hx.trans (h.more hm),
    fun hl => ⟨hx.trans (h.last hl).1, (h.last hl).2⟩⟩

/-- MWRS moves its row in the first of the two stages of an array cycle, MRDS in the second. -/
theorem RowDue.done (h : RowDue s core x) :
    RowDone s ((s.xferStage core (s.core core).arr true).xferStage core (s.core core).arr false) core x := by
  rcases Bool.eq_false_or_eq_true x.write with hw | hw
  · have hstage := h.stage
    rw [hw] at hstage
    exact hstage.after h.inZone (by simp [hw])
  · have hother : ∀ y ∈ (s.core core).xfers, y.write ≠ true := by
      rw [h.only]
      simp [hw]
    rw [State.xferStage_other hother]
    have hcore : (s.modCore core (fun k => { k with xfers := (s.core core).xfers })).core core = s.core core :=
      State.modCore_core_same _ _ _
    have hdue : RowDue (s.modCore core (fun k => { k with xfers := (s.core core).xfers })) core x :=
      ⟨by rw [hcore]; exact h.only, h.owned, h.type, h.mode, by rw [hcore]; exact h.now, h.inZone, h.inRange,
        by rw [hcore]; exact h.noStore, h.canonical, h.unwatched⟩
    have hstage := hdue.stage
    rw [hcore, hw] at hstage
    exact hstage.before

end

/-- The part of O39 on MRDS and MWRS, which holds. -/
theorem transferRowMoves : TransferRowMoves := by
  intro core s x hx ho hu hrm hdue hlt _ hr hnow hwf hnw r a
  have h := RowDue.done ⟨hx, ho, hu, hrm, hdue, hlt, hr, hnow, hwf, hnw⟩
  have ha : core * 0x400000 + x.rowPlace x.next = a := (Nat.add_assoc _ _ _).symm
  refine ⟨_, rfl, ?_, fun hm => ⟨x.flags, h.more hm⟩, h.last, h.regs, h.moved.hbm, h.moved.host, h.moved.mod⟩
  rcases Bool.eq_false_or_eq_true x.write with hw | hw
  · have hload := h.moved.load hw
    rw [ha] at hload
    rwa [if_pos hw]
  · have hstore := h.moved.store hw
    rw [ha] at hstore
    rwa [if_neg (by simp [hw])]

end Sys2Proof.Machine
end

section
/-!
PROOF. O39 fails: a restored product whose zone is wider than a tile (R176, R184, R322).
-/

namespace Sys2Proof.Machine

open Sys2Proof.Claims

/-- A restored INT8 product of one position whose zone has 65 columns. Its cells (0, 64) and (1, 0) are one element of the tile;
A is 1 in row 0 only and B is 1 in column 64 only, so that the first sums to 1 and the second to 0. -/
def wideProd : Prod :=
  { id := 1, hw := 0, orphan := false, issue := 0, sched := 0, ra := [], rb := [], port := 0
    spec := { kind := .mmul, tile := 0, zone := ⟨0, 0, 2, 65⟩, fa := 1, fb := 1, g := 2, p := 1, s := 1, a := 0, b := 0x200000,
              pa := 64, pb := 64, sel := 2 ^ 64 - 1, tok := 0, bundle := 0 }
    aLines := [(0, 1)], bLines := [(64 * 2 ^ 32, 1)], bSteps := [], seeds := [], cnt := [], sums := []
    resumed := false, flags := 0, cut := none, late := true }

/-- Core 0 in an array cycle in which every cell of the product is due. -/
def wideState : State := State.reset.modCore 0 (fun k => { k with arr := 70, prods := [wideProd] })

theorem wideState_core : wideState.core 0 = { State.reset.core 0 with arr := 70, prods := [wideProd] } :=
  State.modCore_core_same _ _ _

theorem wideProd_sum_first : (wideProd.cellSum 0 64 1).1 = 1 := by decide
theorem wideProd_sum_second : (wideProd.cellSum 1 0 1).1 = 0 := by decide

/-- Both cells are due in the array cycle of the state. -/
theorem wideProd_due : CommitsAt wideProd 0 64 70 ∧ CommitsAt wideProd 1 0 70 := by unfold CommitsAt; decide

theorem not_productEvents : ¬ ProductEvents := by
  intro h
  obtain ⟨hcommit, -⟩ := h 0 wideState wideProd (by rw [wideState_core])
  obtain ⟨t, -, hcells, -⟩ := hcommit rfl rfl rfl
  rw [wideState_core] at hcells
  have hone := (hcells 0 64 (by decide) (by decide) wideProd_due.1).1
  have hzero := (hcells 1 0 (by decide) (by decide) wideProd_due.2).1
  rw [show wideProd.spec.p = 1 from rfl, wideProd_sum_first] at hone
  rw [show wideProd.spec.p = 1 from rfl, wideProd_sum_second] at hzero
  exact absurd (hone.symm.trans hzero) (by decide)

/-- Refutes O39 at a restored product whose zone has 65 columns, more than any zone that ZSET writes (R172): the two cells of
`wideProd` commit in one array cycle to one element, which cannot hold both sums. With a zone of at most 64 columns what O39 says
of commits holds (`productCommit_committed`), and so do its other parts (`exec_streamSliceArrive_due`, `transferRowMoves`). -/
theorem not_arrayEvents : ¬ Obligations.ArrayEvents := fun h => not_productEvents h.1

end Sys2Proof.Machine
end

section
/-!
PROOF. Memory at reset (R66, R88).
-/

namespace Sys2Proof.Machine

/-- Settles O57: at reset no memory lists a byte, so every byte reads as the blank byte (log 2). -/
theorem resetMemoryCanonical : Obligations.ResetMemoryCanonical := ⟨rfl, fun _ => ⟨rfl, rfl, rfl, rfl, rfl⟩⟩

end Sys2Proof.Machine
end

section
/-!
PROOF. The instructions of the C slot (R15, R77 to R86, R210).
-/

namespace Sys2Proof.Machine

open Sys2Proof.Claims

/-! ## A command enters the C gusset (R15, R210) -/

theorem State.putC_enters (s : State) (op : CmdOp) (prod cons : Nat) : CEnters s (s.putC op prod cons) op prod cons where
  ctx := State.modCtx_ctx_same _ _ _
  front := rfl
  cores := rfl
  acs := rfl
  rest :=
    { others := fun _ => State.modCtx_ctx_other _ _
      cores := fun _ _ => rfl
      mod := rfl, clusters := rfl, aux := rfl, agenda := rfl, oldBytes := rfl, shared := rfl
      hbm := rfl, host := rfl, spad := rfl, imem := rfl, lining := rfl, bias := rfl }

section

variable {i : Instr} {s : State} {chk : Option Chk} {op : CmdOp} {prod cons : Nat}

theorem State.cCommand_room (hroom : s.me.eng.cG.length < 16) (hchk : chk = none) :
    s.cCommand none chk op prod cons = .next (s.putC op prod cons) :=
  State.perform_on _ _ _ _ _ (.inr ⟨rfl, if_neg (Nat.not_le.2 hroom), hchk⟩)

theorem State.cCommand_full (hgo : s.cur.go = false) (hfull : 16 ≤ s.me.eng.cG.length) :
    s.cCommand none chk op prod cons = .next ((s.met (.wait .engine)).engineWait s.cur.hw s.cur.cand) := by
  simp [State.cCommand, State.perform, gussetWait, hgo, hfull]

/-- An instruction that is a C command enters it when its checks hold, and waits for room in the gusset. -/
theorem cIssue_of_cCommand {checks : Prop} (h : exec i s = s.cCommand none chk op prod cons) (hchk : checks → chk = none) :
    CIssue i s op prod cons checks :=
  ⟨fun hroom hc => ⟨_, h.trans (State.cCommand_room hroom (hchk hc)), s.putC_enters op prod cons⟩,
    fun hgo hfull => h.trans (State.cCommand_full hgo hfull)⟩

end

/-! ## Checks that hold -/

theorem alignN_of_mod {v n : Nat} (h : v % n = 0) : alignN v n = none := if_pos h
theorem clusterRange_of_le {a n : Nat} (h : a + n ≤ 0xC000000) : clusterRange a n = none := if_pos h
theorem Ctx.handleChk_of_bound {s : State} {h : Nat} (hb : Bound s h) : s.me.handleChk h = none := if_pos hb
theorem Ctx.linkChk_of_owns {s : State} {link : Nat} {send : Bool} (h : Owns s link send) : s.me.linkChk link send = none := if_pos h

theorem Ctx.privChk_of_system {s : State} (h : System s) : s.me.privChk = none :=
  if_pos ((Bool.or_eq_true _ _).mpr h)

/-! ## The instructions -/

/-- The instructions of the copy engines: their handle is bound, and the record of a CPSTAT is aligned (R70, R79). -/
theorem copyCommandEnters : CopyCommandEnters := by
  intro l b c q s
  have hslot (h : Nat) : Bound s h → s.me.handleChk h = none := Ctx.handleChk_of_bound
  refine ⟨cIssue_of_cCommand rfl (hslot _), cIssue_of_cCommand rfl (hslot _), cIssue_of_cCommand rfl (hslot _),
    cIssue_of_cCommand rfl (hslot _), cIssue_of_cCommand rfl (hslot _), cIssue_of_cCommand rfl (hslot _),
    cIssue_of_cCommand rfl ?_⟩
  rintro ⟨hbound, halign⟩
  rw [alignN_of_mod halign, hslot _ hbound]
  rfl

/-- The instructions of the links own their directions and stay in the cluster's space (R82, R84, R85); TLBINV asks for privilege (R80). -/
theorem linkCommandEnters : LinkCommandEnters := by
  intro k r l v s
  refine ⟨cIssue_of_cCommand rfl ?_, cIssue_of_cCommand rfl ?_, cIssue_of_cCommand rfl ?_, cIssue_of_cCommand rfl (fun _ => rfl),
    fun hsys => cIssue_of_cCommand ?_ (fun _ => rfl), fun hgo hpriv htrap => ?_⟩
  · rintro ⟨halign, hown, hrange⟩
    rw [alignN_of_mod halign, Ctx.linkChk_of_owns hown, low21, clusterRange_of_le hrange]
    rfl
  · rintro ⟨halign, hown, hrange⟩
    rw [alignN_of_mod halign, Ctx.linkChk_of_owns hown, low21, clusterRange_of_le hrange]
    rfl
  · rintro ⟨halign, hblocks, hown, hout, hrange⟩
    have hmx : ¬ ((r.infmt = .mx8 ∨ r.outfmt = .mx8) ∧ (s.me.sreg r.cnt).toNat % 32 ≠ 0) := by tauto
    have hsend : (if r.deliver = true then none else s.me.linkChk r.out true) = none := by
      split
      · rfl
      next hd => exact Ctx.linkChk_of_owns (hout.resolve_left hd)
    rw [alignN_of_mod halign, if_neg hmx, Ctx.linkChk_of_owns hown, hsend, clusterRange_of_le hrange]
    rfl
  · rw [exec_tlbinv, execTlbinv, Ctx.privChk_of_system hsys]
  · have hchk : s.me.privChk = some ⟨10, 0, 0⟩ := if_neg (by simp [Ctx.privileged, hpriv, htrap])
    rw [exec_tlbinv, execTlbinv, hchk]
    exact State.perform_mode s _ true _ _ _ hgo

/-- Settles O28: every instruction of the C slot is one command under its own checks. -/
theorem chainCommandEnters : Obligations.ChainCommandEnters := ⟨copyCommandEnters, linkCommandEnters⟩

end Sys2Proof.Machine
end

section
/-!
SUPPORT. Places of a cluster's scratchpad space, and a write through the engines' port while no watch entry is armed (R66, R91, R92,
R214, R255, log 37).
-/

namespace Sys2Proof.Machine

open Sys2Proof.Claims

/-! ## Bytes as lists -/

theorem toBytes_eq_map (v n : Nat) : toBytes v n = (List.range n).map (fun k => BitVec.ofNat 8 (v / 256 ^ k)) := by
  refine List.ext_getElem (by simp) fun k hk _ => ?_
  rw [toBytes_getElem v hk]
  simp

theorem Memory.readN_eq_ofBytes (m : Memory) (a n : Nat) : m.readN a n = ofBytes ((List.range n).map (fun k => m.read (a + k))) := by
  induction n generalizing a with
  | zero => rfl
  | succ n ih =>
    rw [Memory.readN, ih, List.range_succ_eq_map, List.map_cons, List.map_map, ofBytes]
    simp only [Function.comp_def, Nat.succ_eq_add_one, Nat.add_zero, Nat.add_assoc, Nat.add_comm 1]

theorem Memory.readN_lt (m : Memory) (a n : Nat) : m.readN a n < 256 ^ n := by
  induction n generalizing a with
  | zero => exact Nat.one_pos
  | succ n ih =>
    have hb := (m.read a).isLt
    have hr := ih (a + 1)
    rw [Memory.readN, Nat.pow_succ]
    omega

/-- Of cells at distinct addresses each is read back as it was written. -/
theorem Memory.foldl_read_mem {m : Memory} {l : List (Nat × Byte)} (h : m.wf = true) (hn : (l.map (fun c => c.1)).Nodup)
    {k : Nat} {b : Byte} (hm : (k, b) ∈ l) : (l.foldl (fun m c => m.write c.1 c.2) m).read k = b := by
  induction l generalizing m with
  | nil => cases hm
  | cons x l ih =>
    obtain ⟨hx, hl⟩ := List.nodup_cons.1 hn
    rw [List.foldl_cons]
    obtain rfl | hml := List.mem_cons.1 hm
    · have hne : ∀ y ∈ l, y.1 ≠ k := fun y hy e => hx (List.mem_map.2 ⟨y, hy, e⟩)
      rw [Memory.foldl_read_other l (Memory.write_wf _ _ h) hne, Memory.read_write_same _ _ h]
    · exact ih (Memory.write_wf _ _ h) hl hml

/-! ## Places of a cluster's scratchpad space (R66, R92) -/

theorem spadIndex_near {cl a : Nat} (h : a < 2 ^ 28) : spadIndex (cl * 2 ^ 28 + a) = cl * 0xC000000 + a := by
  unfold spadIndex
  omega

theorem spadPieces_near {cl a n : Nat} (hn : 0 < n) (h : a + n ≤ 0xC000000) : spadPieces cl a n = .ok [nearPiece cl a n] := by
  rw [spadPieces, if_neg (by omega), if_pos h]
  rfl

theorem State.spanPieces_near (s : State) {cl a n : Nat} (eng asid : Nat) (write : Bool) (hn : 0 < n) (h : a + n ≤ 0xC000000) :
    s.spanPieces cl eng asid write true (a : Int) n = .ok [nearPiece cl a n] := by
  rw [State.spanPieces, if_pos rfl, if_neg (by omega), Int.toNat_natCast, spadPieces_near hn h]

theorem State.readPieces_near (s : State) {cl a n : Nat} (h : a + n ≤ 2 ^ 28) :
    s.readPieces [nearPiece cl a n] = (List.range n).map (fun k => s.mem.spad.read (cl * 0xC000000 + a + k)) := by
  rw [State.readPieces, List.flatMap_singleton, State.readPiece]
  refine List.map_congr_left fun k hk => ?_
  have hlt : a + k < 2 ^ 28 := by have hkn : k < n := List.mem_range.1 hk; omega
  show s.mem.spad.read (spadIndex (cl * 2 ^ 28 + a + k)) = _
  rw [Nat.add_assoc, spadIndex_near hlt, Nat.add_assoc]

theorem State.ofBytes_readPieces_near (s : State) {cl a n : Nat} (h : a + n ≤ 2 ^ 28) :
    ofBytes (s.readPieces [nearPiece cl a n]) = s.mem.spad.readN (cl * 0xC000000 + a) n := by
  rw [s.readPieces_near h, Memory.readN_eq_ofBytes]

/-- Bytes of a piece that is a whole place of the space. -/
theorem slicePieces_near {cl a len k n : Nat} (hn : 0 < n) (h : k + n ≤ len) :
    slicePieces [nearPiece cl a len] k n = [nearPiece cl (a + k) n] := by
  have hmin : min (len - k) n = n := by omega
  simp only [slicePieces, nearPiece, if_neg (Nat.pos_iff_ne_zero.1 hn), if_neg (show ¬ len ≤ k by omega), hmin, Nat.add_assoc]

/-- A place of the space has no host link (R228). -/
theorem State.sentHost_near (s : State) (hw cl a n : Nat) : s.sentHost hw [nearPiece cl a n] = s := rfl

/-! ## The cells of a write through the engines' port (R91) -/

/-- The cells that an engine's write of `n` bytes from index `base` makes: a byte that a core port has written in the same real cycle
is not among them. -/
def State.portCells (s : State) (base n : Nat) (g : Nat → Byte) : List (Nat × Byte) :=
  ((List.range n).map (fun k => (base + k, g k))).filter (fun c => (SMap.get? s.oldBytes c.1).isNone)

theorem placeBytes_near (cl a n : Nat) (g : Nat → Byte) : placeBytes [nearPiece cl a n] ((List.range n).map g) =
    (List.range n).map (fun k => ((⟨2, cl * 2 ^ 28 + (a + k), none⟩ : Place), g k)) := by
  simp only [placeBytes, nearPiece, List.append_nil, List.zipWith_map_right, List.zipWith_self, Nat.add_assoc]

theorem State.engineCells_near (s : State) {cl a n : Nat} (h : a + n ≤ 2 ^ 28) (g : Nat → Byte) :
    s.engineCells (placeBytes [nearPiece cl a n] ((List.range n).map g)) = s.portCells (cl * 0xC000000 + a) n g := by
  rw [placeBytes_near, State.engineCells, State.portCells, List.filterMap_map]
  congr 1
  refine List.filterMap_eq_map_iff_forall_eq_some.2 fun k hk => ?_
  have hlt : a + k < 2 ^ 28 := by have := List.mem_range.1 hk; omega
  simp only [Function.comp_apply, Nat.le_refl, if_true, spadIndex_near hlt, Nat.add_assoc]

/-- Bytes of the space go to their banks, not to HBM or the host. -/
theorem State.foldl_writePlace_near (s : State) (cl a n : Nat) (g : Nat → Byte) :
    (placeBytes [nearPiece cl a n] ((List.range n).map g)).foldl (fun s x => s.writePlace x.1 x.2) s = s := by
  rw [placeBytes_near]
  refine List.foldlRecOn (motive := fun u => u = s) _ _ rfl fun u hu x hx => ?_
  obtain ⟨k, -, rfl⟩ := List.mem_map.1 hx
  exact hu

theorem State.mem_portCells {s : State} {base n : Nat} {g : Nat → Byte} {c : Nat × Byte} :
    c ∈ s.portCells base n g ↔ (∃ k, k < n ∧ (base + k, g k) = c) ∧ SMap.get? s.oldBytes c.1 = none := by
  simp [State.portCells]

theorem State.nodup_portCells (s : State) (base n : Nat) (g : Nat → Byte) : ((s.portCells base n g).map (fun c => c.1)).Nodup := by
  have hsub : ((s.portCells base n g).map (fun c => c.1)).Sublist ((List.range n).map (fun k => base + k)) := by
    have := (List.filter_sublist (l := (List.range n).map (fun k => (base + k, g k)))
      (p := fun c => (SMap.get? s.oldBytes c.1).isNone)).map (fun c => c.1)
    rwa [List.map_map] at this
  exact hsub.nodup (List.nodup_range.map fun _ _ h => Nat.add_left_cancel h)

theorem Memory.read_portCells_same {s : State} (h : s.mem.spad.wf = true) {base n k : Nat} (g : Nat → Byte) (hk : k < n) :
    ((s.portCells base n g).foldl (fun m c => m.write c.1 c.2) s.mem.spad).read (base + k) =
      if (SMap.get? s.oldBytes (base + k)).isSome = true then s.mem.spad.read (base + k) else g k := by
  split
  next hold =>
    refine Memory.foldl_read_other _ h fun c hc e => ?_
    obtain ⟨-, hnone⟩ := State.mem_portCells.1 hc
    rw [← e, hnone] at hold
    cases hold
  next hold =>
    refine Memory.foldl_read_mem h (s.nodup_portCells base n g) (State.mem_portCells.2 ⟨⟨k, hk, rfl⟩, ?_⟩)
    rwa [Option.not_isSome_iff_eq_none] at hold

theorem Memory.read_portCells_other {s : State} (h : s.mem.spad.wf = true) {base n b : Nat} (g : Nat → Byte)
    (hb : b < base ∨ base + n ≤ b) :
    ((s.portCells base n g).foldl (fun m c => m.write c.1 c.2) s.mem.spad).read b = s.mem.spad.read b := by
  refine Memory.foldl_read_other _ h fun c hc e => ?_
  obtain ⟨⟨k, hk, rfl⟩, -⟩ := State.mem_portCells.1 hc
  dsimp only at e
  omega

/-! ## A write through the engines' port while no watch entry is armed (R214, R255) -/

/-- A write that triggers nothing: the journal keeps the old lines, and the bytes change. -/
def State.portWrite (s : State) (cells : List (Nat × Byte)) : State := ((linesOf cells).foldl journalLine s).spadRaw cells

/-- What changes of a journal, of checkpoints and of scratchpad bytes leave alone, a write that triggers nothing leaves alone. -/
theorem State.portWrite_unchanged {β : Type} (f : State → β)
    (hcore : ∀ s core j b, f (State.modCore s core (fun k => { k with journal := j, jfull := b })) = f s)
    (hctx : ∀ s hw (g : Ctx → Option Ckpt), f (State.modCtx s hw (fun c => { c with ckpt := g c })) = f s)
    (hspad : ∀ s cells, f (State.spadRaw s cells) = f s) (s : State) (cells : List (Nat × Byte)) : f (s.portWrite cells) = f s := by
  rw [State.portWrite, hspad, foldl_unchanged f (journalLine_unchanged f hcore hctx)]

theorem State.portWrite_mem (s : State) (cells : List (Nat × Byte)) :
    (s.portWrite cells).mem = { s.mem with spad := cells.foldl (fun m c => m.write c.1 c.2) s.mem.spad } := by
  rw [State.portWrite, State.spadRaw,
    foldl_unchanged State.mem (journalLine_unchanged State.mem (fun _ _ _ _ => rfl) (fun _ _ _ => rfl))]

theorem State.spadQuiet_noWatch {s : State} (h : NoWatch s) (cells : List (Nat × Byte)) (skip : Option (Nat × Nat)) :
    s.spadQuiet cells skip = (s.portWrite cells, []) := by
  unfold State.spadQuiet
  rw [State.triggersOf_noWatch h]
  split <;> rfl

theorem State.spadWrite_noWatch {s : State} (h : NoWatch s) (cells : List (Nat × Byte)) (wr : Option Writer) :
    s.spadWrite cells wr = s.portWrite cells := by
  cases cells with
  | nil => rfl
  | cons c l => exact State.spadWriteF_noWatch h (c :: l) wr none 4096

theorem State.writeQuiet_near {s : State} (hw : NoWatch s) {cl a n : Nat} (h : a + n ≤ 2 ^ 28) (g : Nat → Byte) :
    s.writeQuiet [nearPiece cl a n] ((List.range n).map g) = (s.portWrite (s.portCells (cl * 0xC000000 + a) n g), []) := by
  rw [State.writeQuiet]
  rw [State.foldl_writePlace_near, State.engineCells_near s h, State.spadQuiet_noWatch hw]

theorem State.writePieces_near {s : State} (hw : NoWatch s) {cl a n : Nat} (h : a + n ≤ 2 ^ 28) (g : Nat → Byte) (wr : Option Writer) :
    s.writePieces [nearPiece cl a n] ((List.range n).map g) wr = s.portWrite (s.portCells (cl * 0xC000000 + a) n g) := by
  rw [State.writePieces]
  rw [State.foldl_writePlace_near, State.engineCells_near s h, State.spadWrite_noWatch hw]

/-! ## Energy of engine traffic (R346, R347) -/

/-- What changes of energy leave alone, counting an engine's traffic leaves alone. -/
theorem State.chargePieces_unchanged {β : Type} (f : State → β)
    (hctx : ∀ s hw e, f (State.modCtx s hw (fun c => { c with energy := c.energy + e })) = f s)
    (haux : ∀ s core e, f (State.modAux s core (fun a => { a with ebank := a.ebank + e })) = f s) (s : State) (hw : Nat)
    (ps : List Piece) : f (s.chargePieces hw ps) = f s := by
  have hcore : ∀ (s : State) (l : Nat), f (s.chargeCore (l / 0x10000) 10 1) = f s := fun s l => by
    unfold State.chargeCore
    dsimp only
    split
    · rfl
    · exact haux _ _ _
  rw [State.chargePieces, State.charge_unchanged f hctx, State.chargeLines, foldl_unchanged f hcore, State.charge_unchanged f hctx]

/-! ## What an engine's write has written, and what it leaves -/

/-- A context but for its checkpoint and its energy counter. -/
def Ctx.bare (c : Ctx) : Ctx := { c with ckpt := none, energy := 0 }

/-- An engine has written `n` bytes from index `base`: of contexts only checkpoints and energy have changed, and clusters and the front
end are as before. -/
structure PortWrote (s t : State) (base n : Nat) (g : Nat → Byte) : Prop where
  same : ∀ k, k < n → t.mem.spad.read (base + k) =
    if (SMap.get? s.oldBytes (base + k)).isSome = true then s.mem.spad.read (base + k) else g k
  other : ∀ b, b < base ∨ base + n ≤ b → t.mem.spad.read b = s.mem.spad.read b
  hbm : t.mem.hbm = s.mem.hbm
  host : t.mem.host = s.mem.host
  clusters : t.clusters = s.clusters
  front : t.front = s.front
  ctxs : ∀ k, (t.ctx k).bare = (s.ctx k).bare

/-- What neither depends on the checkpoint nor on the energy counter of a context is as before. -/
theorem PortWrote.keeps {s t : State} {base n : Nat} {g : Nat → Byte} (h : PortWrote s t base n g) {β : Type} (f : Ctx → β)
    (hf : ∀ c : Ctx, f c.bare = f c) (k : Nat) : f (t.ctx k) = f (s.ctx k) := by
  rw [← hf, h.ctxs k, hf]

theorem State.portWrite_wrote {s : State} (hwf : s.mem.spad.wf = true) (base n : Nat) (g : Nat → Byte) :
    PortWrote s (s.portWrite (s.portCells base n g)) base n g where
  same k hk := by rw [State.portWrite_mem]; exact Memory.read_portCells_same hwf g hk
  other b hb := by rw [State.portWrite_mem]; exact Memory.read_portCells_other hwf g hb
  hbm := by rw [State.portWrite_mem]
  host := by rw [State.portWrite_mem]
  clusters := State.portWrite_unchanged State.clusters (fun _ _ _ _ => rfl) (fun _ _ _ => rfl) (fun _ _ => rfl) _ _
  front := State.portWrite_unchanged State.front (fun _ _ _ _ => rfl) (fun _ _ _ => rfl) (fun _ _ => rfl) _ _
  ctxs k := State.portWrite_unchanged (fun s => (s.ctx k).bare) (fun _ _ _ _ => rfl)
    (fun s hw g => s.modCtx_keeps Ctx.bare (g := fun c => { c with ckpt := g c }) (fun _ => rfl) hw k) (fun _ _ => rfl) _ _

/-- Counting its traffic leaves what has been written. -/
theorem PortWrote.charged {s t : State} {base n : Nat} {g : Nat → Byte} (h : PortWrote s t base n g) (hw : Nat) (ps : List Piece) :
    PortWrote s (t.chargePieces hw ps) base n g := by
  have hc := t.chargePieces_onlyCharged hw ps
  refine ⟨by rw [hc.mem]; exact h.same, by rw [hc.mem]; exact h.other, by rw [hc.mem]; exact h.hbm, by rw [hc.mem]; exact h.host,
    ?_, ?_, fun k => ?_⟩
  · rw [State.chargePieces_unchanged State.clusters (fun _ _ _ => rfl) (fun _ _ _ => rfl), h.clusters]
  · rw [State.chargePieces_unchanged State.front (fun _ _ _ => rfl) (fun _ _ _ => rfl), h.front]
  · rw [← h.ctxs k, hc.ctxs k]
    rfl

end Sys2Proof.Machine
end

section
/-!
PROOF. Completion of engine commands and emission of copies (R15, R72 to R74, R78, R89, R152, R155).
-/

namespace Sys2Proof.Machine

open Sys2Proof.Claims

/-! ## Work that moves on without a fault -/

/-- No major fault has been met where neither the pending traps nor the execution state have changed. -/
theorem State.newMajor_of_same {s t : State} {hw : Nat} (ha : (t.ctx hw).async = (s.ctx hw).async)
    (hr : (t.ctx hw).run = (s.ctx hw).run) : s.newMajor t hw = false := by
  simp [State.newMajor, State.majors, ha, hr]

theorem exec_engineCommandComplete_of_same {s : State} {e : EngineAct}
    (ha : ((s.engineAct e).ctx (s.actor e)).async = (s.ctx (s.actor e)).async)
    (hr : ((s.engineAct e).ctx (s.actor e)).run = (s.ctx (s.actor e)).run) :
    exec (.engineCommandComplete e) s = .next (s.engineAct e) := by
  rw [exec_engineCommandComplete, execEngineCommandComplete, State.engineDo]
  rw [State.newMajor_of_same ha hr, if_neg Bool.false_ne_true]

/-! ## The command at the head of the work -/

section

variable {s : State} {hw : Nat} {c : Cmd} {r : List Cmd}

theorem State.cmdOfId_head (h : (s.ctx hw).eng.work = c :: r) : s.cmdOfId hw c.id = some c := by
  rw [State.cmdOfId, h, find_cmd_head]

/-- An update of the command at the head of the work changes the work of its context alone. -/
theorem State.modCmd_head (h : (s.ctx hw).eng.work = c :: r) (f : Cmd → Cmd) :
    OnlyCtx s (s.modCmd hw c.id f) hw ((s.ctx hw).withWork (f c :: r.map (fun x => if x.id = c.id then f x else x))) :=
  State.modCmd_onlyCtx (by rw [h, List.map_cons, if_pos rfl])

/-- An update that keeps the number of a command does not change what is left once it has completed. -/
theorem filter_map_cmd {f : Cmd → Cmd} (hf : ∀ x, (f x).id = x.id) (l : List Cmd) (id : Nat) :
    (l.map (fun x => if x.id = id then f x else x)).filter (fun x => decide (x.id ≠ id)) = l.filter (fun x => decide (x.id ≠ id)) := by
  induction l with
  | nil => rfl
  | cons x l ih =>
    by_cases h : x.id = id
    · simpa [h, hf] using ih
    · simpa [h] using ih

/-! ## SFOP (R152, R155) -/

theorem State.qMay_head (h : (s.ctx hw).eng.work = c :: r) (hq : c.op.isQ = true) (hheld : c.held = false)
    (hperf : c.performed = false) : s.qMay hw c = true := by
  have hbefore : (s.ctx hw).qBefore c.id = [] := by
    rw [Ctx.qBefore, h, List.filter_cons_of_pos (p := fun x : Cmd => x.op.isQ) hq, List.takeWhile_cons_of_neg (by simp), List.filter_nil]
  simp [State.qMay, hbefore, hheld, hperf]

/-- The oldest request finds an entry of a data queue with room. -/
theorem Ctx.reserved_head {x : Ctx} {id : Nat} {k : Bool} {tail : List (Nat × Bool)} (h : x.eng.addrQ = (id, k) :: tail)
    (hroom : x.eng.dataQ.length < 16) : x.reserved id = true := by
  have hbefore : x.entriesBefore id = some 0 := by
    rw [Ctx.entriesBefore, h, List.map_cons, List.takeWhile_cons_of_neg (by simp), List.foldl_nil]
  simp [Ctx.reserved, hbefore, hroom]

theorem sfNew_eq_sfopValue (op : SfOp) {n old x : Nat} (y : Nat) (ho : old < 2 ^ n) (hx : x < 2 ^ n) :
    sfNew op n old x y = sfopValue op n old x y := by
  have hs (v : Nat) : signed n v = if v < 2 ^ (n - 1) then (v : Int) else (v : Int) - (2 : Int) ^ n := by
    simp [signed]
  cases op
  case max => simp only [sfNew, sfopValue, hs, ← not_le, ite_not]
  case min => simp only [sfNew, sfopValue, hs, ← not_le, ite_not]
  case and =>
    simp only [sfNew, sfopValue, BitVec.toNat_and, BitVec.toNat_ofNat, Nat.mod_eq_of_lt ho, Nat.mod_eq_of_lt hx]
    rfl
  case or =>
    simp only [sfNew, sfopValue, BitVec.toNat_or, BitVec.toNat_ofNat, Nat.mod_eq_of_lt ho, Nat.mod_eq_of_lt hx]
    rfl
  all_goals rfl

/-- An indivisible update of bytes of the cluster's space. -/
theorem State.update_near (hwf : s.mem.spad.wf = true) (hnw : NoWatch s) {cl a n : Nat} (h : a + n ≤ 2 ^ 28) (f : Nat → Nat) :
    PortWrote s (s.update hw c [nearPiece cl a n] n f) (cl * 0xC000000 + a) n
      (fun k => BitVec.ofNat 8 (f (s.mem.spad.readN (cl * 0xC000000 + a) n) / 256 ^ k)) := by
  rw [State.update, State.sentHost_near, s.ofBytes_readPieces_near h, toBytes_eq_map, State.writePieces_near hnw h]
  exact (State.portWrite_wrote hwf _ _ _).charged _ _

/-- The bytes of an SFOP's operand. -/
def sfBytes (wide : Bool) : Nat := if wide = true then 8 else 4

theorem sfBytes_pos (wide : Bool) : 0 < sfBytes wide := by cases wide <;> decide

/-- An SFOP that has begun at a place of the cluster's space and has read its old value. -/
def Cmd.sfopBegun (c : Cmd) (ps : List Piece) (old : Nat) : Cmd :=
  { c with started := true, aux := [], res := some (BitVec.ofNat 4096 old), places := [ps] }

variable {a x y : Word} {wide : Bool} {op : SfOp}

theorem State.requestPieces_sfop_near (ho : c.op = .sfop a x y wide false op) (h : a.toNat + sfBytes wide ≤ 0xC000000) :
    s.requestPieces hw c c.op.accesses = .ok [[nearPiece (clusterOf hw) a.toNat (sfBytes wide)]] := by
  have hacc : s.accessPieces hw c a.toNat (sfBytes wide) = .ok [nearPiece (clusterOf hw) a.toNat (sfBytes wide)] := by
    rw [State.accessPieces, ho, CmdOp.virt, Bool.not_false, State.spanPieces_near _ _ _ _ (sfBytes_pos wide) h]
    rfl
  rw [show c.op.accesses = [(a.toNat, sfBytes wide)] from by rw [ho]; rfl, State.requestPieces, hacc]
  rfl

theorem State.qFault_sfop_near (ho : c.op = .sfop a x y wide false op) (hs : c.started = false)
    (h : a.toNat + sfBytes wide ≤ 0xC000000) : s.qFault hw c = none := by
  have hbegun : c.begun = false := by simp [Cmd.begun, hs]
  have hreq := State.requestPieces_sfop_near (s := s) (hw := hw) ho h
  rw [ho] at hreq
  simp only [State.qFault, hbegun, Bool.false_eq_true, if_false, ho, hreq]

/-- An SFOP at the head of the work begins, and reads its old value. -/
theorem State.sfopRead_head (hwork : (s.ctx hw).eng.work = c :: r) (ho : c.op = .sfop a x y wide false op)
    (h : a.toNat + sfBytes wide ≤ 0xC000000) :
    ∃ r', OnlyCtx s (s.sfopRead hw c) hw ((s.ctx hw).withWork (c.sfopBegun [nearPiece (clusterOf hw) a.toNat (sfBytes wide)]
      (s.mem.spad.readN (clusterOf hw * 0xC000000 + a.toNat) (sfBytes wide)) :: r')) := by
  have hreq := State.requestPieces_sfop_near (s := s) (hw := hw) ho h
  let c1 : Cmd := { c with started := true, aux := [], res := none, places := [[nearPiece (clusterOf hw) a.toNat (sfBytes wide)]] }
  have hbegin : s.reqBegin hw c = s.modCmd hw c.id (fun x => { x with
      started := true, aux := [], res := none, places := [[nearPiece (clusterOf hw) a.toNat (sfBytes wide)]] }) := by
    have hparts : c.op.parts = c.op.accesses := by rw [ho]; rfl
    rw [State.reqBegin, hparts, hreq]
    simp only [State.rememberReq, ho, CmdOp.virt, Bool.false_eq_true, if_false]
  have h1 := State.modCmd_head hwork (fun x => { x with
    started := true, aux := [], res := none, places := [[nearPiece (clusterOf hw) a.toNat (sfBytes wide)]] })
  rw [← hbegin] at h1
  obtain ⟨r1, hwork1⟩ : ∃ r1, ((s.reqBegin hw c).ctx hw).eng.work = c1 :: r1 := ⟨_, by rw [h1.ctx]; rfl⟩
  have hold : ofBytes ((s.reqBegin hw c).readPieces c1.places.flatten) =
      s.mem.spad.readN (clusterOf hw * 0xC000000 + a.toNat) (sfBytes wide) := by
    rw [show c1.places.flatten = [nearPiece (clusterOf hw) a.toNat (sfBytes wide)] from rfl,
      State.ofBytes_readPieces_near _ (by omega), h1.mem]
  have h2 := State.modCmd_head hwork1 (fun x => { x with
    res := some (BitVec.ofNat 4096 (s.mem.spad.readN (clusterOf hw * 0xC000000 + a.toNat) (sfBytes wide))) })
  have hread : s.sfopRead hw c = (s.reqBegin hw c).modCmd hw c.id (fun x => { x with
      res := some (BitVec.ofNat 4096 (s.mem.spad.readN (clusterOf hw * 0xC000000 + a.toNat) (sfBytes wide))) }) := by
    have hfind : (s.reqBegin hw c).cmdOfId hw c.id = some c1 := State.cmdOfId_head hwork1
    rw [State.sfopRead, hfind]
    dsimp only
    rw [hold]
  rw [hread]
  have h3 := onlyCtx_trans h1 h2
  rw [h1.ctx] at h3
  exact ⟨_, h3⟩

theorem State.cmdAct_sfop (hwork : (s.ctx hw).eng.work = c :: r) (ho : c.op = .sfop a x y wide false op) {tail : List (Nat × Bool)}
    (hq : (s.ctx hw).eng.addrQ = (c.id, false) :: tail) (hheld : c.held = false) (hperf : c.performed = false)
    (hs : c.started = false) (hroom : (s.ctx hw).eng.dataQ.length < 16) (h : a.toNat + sfBytes wide ≤ 0xC000000) :
    s.cmdAct hw c.id = s.sfopRun hw c := by
  have hisQ : c.op.isQ = true := by rw [ho]; rfl
  have hmay := State.qMay_head hwork hisQ hheld hperf
  have hres : (s.ctx hw).reserved c.id = true := Ctx.reserved_head hq hroom
  have hfault := State.qFault_sfop_near (s := s) (hw := hw) ho hs h
  simp only [State.cmdAct, State.cmdOfId_head hwork, hisQ, if_true, State.qAct, State.qMove, hmay, hfault, State.qDo]
  simp only [ho, hres, Bool.or_true, Bool.and_self, Bool.not_true, Bool.false_eq_true, if_false]

/-- An SFOP at the head of the work begins, replaces its operand in the space, and is performed. -/
theorem State.sfopRun_head (hwork : (s.ctx hw).eng.work = c :: r) (ho : c.op = .sfop a x y wide false op) (hs : c.started = false)
    (hpos : c.pos = 0) (hwf : s.mem.spad.wf = true) (hnw : NoWatch s) (h : a.toNat + sfBytes wide ≤ 0xC000000) :
    ∃ (u v : State) (r' : List Cmd),
      OnlyCtx s u hw ((s.ctx hw).withWork (c.sfopBegun [nearPiece (clusterOf hw) a.toNat (sfBytes wide)]
        (s.mem.spad.readN (clusterOf hw * 0xC000000 + a.toNat) (sfBytes wide)) :: r')) ∧
      PortWrote u v (clusterOf hw * 0xC000000 + a.toNat) (sfBytes wide) (fun k => BitVec.ofNat 8 (sfopValue op (8 * sfBytes wide)
        (s.mem.spad.readN (clusterOf hw * 0xC000000 + a.toNat) (sfBytes wide)) (x.toNat % 2 ^ (8 * sfBytes wide))
        (y.toNat % 2 ^ (8 * sfBytes wide)) / 256 ^ k)) ∧
      s.sfopRun hw c = v.modCmd hw c.id (fun x => { x with performed := true }) := by
  obtain ⟨r', h1⟩ := State.sfopRead_head (s := s) (hw := hw) hwork ho h
  let d := c.sfopBegun [nearPiece (clusterOf hw) a.toNat (sfBytes wide)]
    (s.mem.spad.readN (clusterOf hw * 0xC000000 + a.toNat) (sfBytes wide))
  have hfind : (s.sfopRead hw c).cmdOfId hw c.id = some d := State.cmdOfId_head (c := d) (r := r') (by rw [h1.ctx]; rfl)
  have hnw1 : NoWatch (s.sfopRead hw c) := by rw [NoWatch, h1.rest.clusters]; exact hnw
  have hold : s.mem.spad.readN (clusterOf hw * 0xC000000 + a.toNat) (sfBytes wide) < 2 ^ (8 * sfBytes wide) := by
    have := s.mem.spad.readN_lt (clusterOf hw * 0xC000000 + a.toNat) (sfBytes wide)
    rwa [show (256 : Nat) = 2 ^ 8 from rfl, ← Nat.pow_mul] at this
  have hwrote := State.update_near (s := s.sfopRead hw c) (hw := hw) (c := d) (by rw [h1.mem]; exact hwf) hnw1
    (cl := clusterOf hw) (a := a.toNat) (n := sfBytes wide) (by omega)
    (fun old => sfNew op (8 * sfBytes wide) old (x.toNat % 2 ^ (8 * sfBytes wide)) (y.toNat % 2 ^ (8 * sfBytes wide)))
  rw [h1.mem] at hwrote
  simp only [sfNew_eq_sfopValue _ _ hold (Nat.mod_lt _ (Nat.two_pow_pos _))] at hwrote
  refine ⟨_, _, r', h1, hwrote, ?_⟩
  have hbegun : c.begun = false := by simp [Cmd.begun, hs]
  have hhanded : d.handed = false := Cmd.handed_of_pos_zero hpos
  have hop : d.op = .sfop a x y wide false op := ho
  simp only [State.sfopRun, hbegun, Bool.false_eq_true, if_false, hfind, State.sfopWrite, hop, hhanded]
  rfl

/-- An SFOP on the cluster's space. -/
theorem exec_sfop_near (hwork : (s.ctx hw).eng.work = c :: r) (ho : c.op = .sfop a x y wide false op) {tail : List (Nat × Bool)}
    (hq : (s.ctx hw).eng.addrQ = (c.id, false) :: tail) (hheld : c.held = false) (hperf : c.performed = false)
    (hs : c.started = false) (hpos : c.pos = 0) (hroom : (s.ctx hw).eng.dataQ.length < 16) (hwf : s.mem.spad.wf = true)
    (hnw : NoWatch s) (h : a.toNat + sfBytes wide ≤ 0xC000000) :
    Answers (.engineCommandComplete (.command hw c.id)) s (fun t =>
      EngineHas s t (clusterOf hw * 0xC000000 + a.toNat) (sfBytes wide) (sfopValue op (8 * sfBytes wide)
        (s.mem.spad.readN (clusterOf hw * 0xC000000 + a.toNat) (sfBytes wide)) (x.toNat % 2 ^ (8 * sfBytes wide))
        (y.toNat % 2 ^ (8 * sfBytes wide))) ∧
      (t.ctx hw).eng.work.head? = some { c.sfopBegun [nearPiece (clusterOf hw) a.toNat (sfBytes wide)]
        (s.mem.spad.readN (clusterOf hw * 0xC000000 + a.toNat) (sfBytes wide)) with performed := true } ∧
      (∀ k, (t.ctx k).regs = (s.ctx k).regs) ∧ t.mem.hbm = s.mem.hbm ∧ t.mem.host = s.mem.host) := by
  obtain ⟨u, v, r', hu, hv, hrun⟩ := State.sfopRun_head hwork ho hs hpos hwf hnw h
  let d := c.sfopBegun [nearPiece (clusterOf hw) a.toNat (sfBytes wide)]
    (s.mem.spad.readN (clusterOf hw * 0xC000000 + a.toNat) (sfBytes wide))
  have hvwork : (v.ctx hw).eng.work = d :: r' := by
    rw [hv.keeps (fun c => c.eng) (fun _ => rfl), hu.ctx]
    rfl
  have ht := State.modCmd_head hvwork (fun x => { x with performed := true })
  have hact : s.engineAct (.command hw c.id) = v.modCmd hw d.id (fun x => { x with performed := true }) :=
    (State.cmdAct_sfop hwork ho hq hheld hperf hs hroom h).trans hrun
  have hsame {β : Type} (f : Ctx → β) (hf : ∀ c, f c.bare = f c) (hf' : ∀ c l, f (Ctx.withWork c l) = f c) (k : Nat) :
      f ((s.engineAct (.command hw c.id)).ctx k) = f (s.ctx k) := by
    rw [hact]
    by_cases hk : k = hw
    · subst hk
      rw [ht.ctx, hf', hv.keeps f hf, hu.ctx, hf']
    · rw [ht.others k hk, hv.keeps f hf, hu.others k hk]
  refine ⟨_, exec_engineCommandComplete_of_same (hsame (fun c => c.async) (fun _ => rfl) (fun _ _ => rfl) _)
    (hsame (fun c => c.run) (fun _ => rfl) (fun _ _ => rfl) _), ⟨?_, ?_⟩, ?_,
    hsame (fun c => c.regs) (fun _ => rfl) (fun _ _ => rfl), ?_, ?_⟩
  · have h := hv.same
    rwa [hu.mem, hu.rest.oldBytes, ← ht.mem, ← hact] at h
  · rw [hact, ht.mem, ← hu.mem]
    exact hv.other
  · rw [hact, ht.ctx]
    rfl
  · rw [hact, ht.mem, hv.hbm, hu.mem]
  · rw [hact, ht.mem, hv.host, hu.mem]

/-! ## CPLVL (R71) -/

/-- A command counts as done whether it has started or not. -/
theorem doneCmd_started (h : (s.ctx hw).eng.work = c :: r) :
    doneCmd ((s.ctx hw).withWork ({ c with started := true } :: r.map (fun x => if x.id = c.id then { x with started := true } else x)))
      c.id c.prod = doneCmd (s.ctx hw) c.id c.prod := by
  have hf := filter_map_cmd (f := fun x => { x with started := true }) (fun _ => rfl) (c :: r) c.id
  rw [List.map_cons, if_pos rfl] at hf
  simp only [doneCmd, Ctx.withWork, Ctx.token, h, hf]

theorem State.cmdAct_cplvl {n level cnt : Nat} {ss ds : Word} (hwork : (s.ctx hw).eng.work = c :: r)
    (ho : c.op = .cplvl n level cnt ss ds) (hheld : c.held = false) (hs : c.started = false)
    (hroll : (s.ctx hw).run.stage ≠ .rolling) (htok : (s.ctx hw).tokensZero c.cons = true) :
    s.cmdAct hw c.id = ((s.modCmd hw c.id (fun x => { x with started := true })).modSlot (clusterOf hw) n
      (fun q => q.level level cnt ss ds)).cmdDone hw c.id := by
  have hrolling : s.rolling hw = false := by simp [State.rolling, hroll]
  have hisQ : c.op.isQ = false := by rw [ho]; rfl
  simp only [State.cmdAct, State.cmdOfId_head hwork, hisQ, hheld, hs, htok, hrolling, Bool.false_and, Bool.not_false, Bool.and_self,
    if_true, Bool.false_eq_true, if_false]
  simp only [State.startC, ho]

/-- A CPLVL writes its level and completes. -/
theorem exec_cplvl_work {n level cnt : Nat} {ss ds : Word} (hwork : (s.ctx hw).eng.work = c :: r)
    (ho : c.op = .cplvl n level cnt ss ds) (hheld : c.held = false) (hs : c.started = false)
    (hroll : (s.ctx hw).run.stage ≠ .rolling) (htok : (s.ctx hw).tokensZero c.cons = true) :
    Answers (.engineCommandComplete (.command hw c.id)) s (fun t =>
      t.slot (clusterOf hw) n = (s.slot (clusterOf hw) n).level level cnt ss ds ∧ t.ctx hw = doneCmd (s.ctx hw) c.id c.prod ∧
        (∀ k, k ≠ hw → t.ctx k = s.ctx k) ∧ t.mem = s.mem ∧ t.cores = s.cores) := by
  have hu := State.modCmd_head hwork (fun x => { x with started := true })
  let v := (s.modCmd hw c.id (fun x => { x with started := true })).modSlot (clusterOf hw) n (fun q => q.level level cnt ss ds)
  have hvwork : (v.ctx hw).eng.work = { c with started := true } :: _ := congrArg (fun c => c.eng.work) hu.ctx
  have hd := State.cmdDone_onlyCtx (State.cmdOfId_head hvwork)
  have hctx : (v.cmdDone hw c.id).ctx hw = doneCmd (s.ctx hw) c.id c.prod := by
    rw [hd.ctx, show v.ctx hw = _ from hu.ctx, doneCmd_started hwork]
  have hact : s.engineAct (.command hw c.id) = v.cmdDone hw c.id := State.cmdAct_cplvl hwork ho hheld hs hroll htok
  refine ⟨_, exec_engineCommandComplete_of_same ?_ ?_, ?_, ?_, fun k hk => ?_, ?_, ?_⟩
  · rw [hact, show s.actor (.command hw c.id) = hw from rfl, hctx]
    rfl
  · rw [hact, show s.actor (.command hw c.id) = hw from rfl, hctx]
    rfl
  · rw [hact, State.slot_eq_of_clusters hd.rest.clusters, State.modSlot_slot_same, State.slot_eq_of_clusters hu.rest.clusters]
  · rw [hact, hctx]
  · rw [hact]
    exact (hd.others k hk).trans (hu.others k hk)
  · rw [hact]
    exact hd.mem.trans hu.mem
  · rw [hact]
    exact hd.rest.cores.trans hu.rest.cores

end

end Sys2Proof.Machine
end

section
/-!
PROOF. The words of elementary copies (R73, R74).
-/

namespace Sys2Proof.Machine

open Sys2Proof.Claims

/-! ## Words of a copy -/

theorem SMap.get?_foldl_put_range {β : Type} (g : Nat → β) (b n j : Nat) (m : SMap β) :
    SMap.get? ((List.range n).foldl (fun m k => SMap.put m (b + k) (g k)) m) j =
      if b ≤ j ∧ j < b + n then some (g (j - b)) else SMap.get? m j := by
  induction n with
  | zero => rw [if_neg (by omega)]; rfl
  | succ n ih =>
    rw [List.range_succ, List.foldl_append, List.foldl_cons, List.foldl_nil]
    by_cases h : j = b + n
    · rw [h, SMap.get?_put_same, if_pos (by omega), Nat.add_sub_cancel_left]
    · rw [SMap.get?_put_other _ _ h, ih]
      simp only [show (b ≤ j ∧ j < b + (n + 1)) ↔ (b ≤ j ∧ j < b + n) by omega]

theorem zip_range_map {β : Type} (n : Nat) (g : Nat → β) :
    List.zip (List.range n) ((List.range n).map g) = (List.range n).map (fun k => (k, g k)) := by
  simp only [List.zip, List.zipWith_map_right, List.zipWith_self]

/-- Of a copy whose places are whole words, the word that holds a byte (R74). -/
theorem wordAt_near {cl a len k m : Nat} (ha : a % 16 = 0) (hl : len % 16 = 0) (hk : k < len) (hm : k / 16 = m) :
    wordAt [nearPiece cl a len] 0 k = (16 * m, 16) := by
  have hx : cl * 2 ^ 28 % 16 = 0 := by omega
  rw [wordAt, nearPiece, if_pos hk]
  dsimp only
  generalize cl * 2 ^ 28 = x at hx
  have hback : min k ((x + a + k) % 16) = k % 16 := by omega
  rw [hback]
  exact congrArg₂ (·, ·) (by omega) (by omega)

theorem mapM_eq_some {β γ : Type} {f : β → Option γ} {g : β → γ} {l : List β} (h : ∀ x ∈ l, f x = some (g x)) :
    l.mapM f = some (l.map g) := by
  induction l with
  | nil => rfl
  | cons x l ih =>
    rw [List.mapM_cons, h x (List.mem_cons_self ..), ih fun y hy => h y (List.mem_cons_of_mem _ hy)]
    rfl

section

variable {s : State} {cl n a b k m : Nat} {c : Copy}

theorem State.copyOf_only (h : (s.slot cl n).copies = [c]) : s.copyOf cl n c.id = some c := by
  rw [State.copyOf, h]
  exact List.find?_cons_of_pos (by simp)

/-- An update of the only copy of a slot. -/
theorem State.modCopy_only (h : (s.slot cl n).copies = [c]) (f : Copy → Copy) :
    (s.modCopy cl n c.id f).slot cl n = { s.slot cl n with copies := [f c] } := by
  rw [State.modCopy, State.modSlot_slot_same, h, List.map_cons, if_pos rfl, List.map_nil]

/-- The data of a copy after the word at byte `16 * m` has been read from the space at `at_`. -/
def Copy.gotWord (c : Copy) (s : State) (at_ m : Nat) : SMap Byte :=
  (List.range 16).foldl (fun d j => SMap.put d (16 * m + j) (s.mem.spad.read (at_ + j))) c.data

theorem Copy.get?_gotWord_same (c : Copy) (s : State) (at_ m : Nat) {j : Nat} (hj : j < 16) :
    SMap.get? (c.gotWord s at_ m) (16 * m + j) = some (s.mem.spad.read (at_ + j)) := by
  rw [Copy.gotWord, SMap.get?_foldl_put_range, if_pos (by omega), Nat.add_sub_cancel_left]

theorem Copy.get?_gotWord_other (c : Copy) (s : State) (at_ m : Nat) {x : Nat} (hx : x < 16 * m ∨ 16 * m + 16 ≤ x) :
    SMap.get? (c.gotWord s at_ m) x = SMap.get? c.data x := by
  rw [Copy.gotWord, SMap.get?_foldl_put_range, if_neg (by omega)]

theorem State.copyReads_near (hc : (s.slot cl n).copies = [c]) (hn : NearCopy cl a b c) (hm : k / 16 = m) (hk : k < c.len)
    (hnew : SMap.get? c.data (16 * m) = none) :
    s.copyReads cl n c.id k 1 =
      s.modCopy cl n c.id (fun x => { x with data := x.gotWord s (cl * 0xC000000 + a + 16 * m) m }) := by
  obtain ⟨ha, -, hl⟩ := hn.words
  have hword := wordAt_near (cl := cl) ha hl hk hm
  have hslice := slicePieces_near (cl := cl) (a := a) (len := c.len) (k := 16 * m) (n := 16) (by omega) (by omega)
  have hsrc := hn.src
  have hrange := hn.range.1
  rw [State.copyReads, State.copyReads, State.copyReadWord, State.copyOf_only hc]
  simp only [hsrc, hword, hslice, hnew]
  rw [if_neg (by simp; omega), s.readPieces_near (by omega), zip_range_map]
  simp only [List.foldl_map, Copy.gotWord, Nat.add_assoc]

/-- A word of a copy within the space is read. -/
theorem exec_copyRead_near (hc : (s.slot cl n).copies = [c]) (hn : NearCopy cl a b c) (hm : k / 16 = m) (hk : k < c.len)
    (hnew : SMap.get? c.data (16 * m) = none) :
    Answers (.engineCommandComplete (.copyRead cl n c.id k 1)) s (fun t =>
      t.slot cl n = { s.slot cl n with copies := [{ c with data := c.gotWord s (cl * 0xC000000 + a + 16 * m) m }] } ∧
        t.ctxs = s.ctxs ∧ t.mem = s.mem) := by
  have hact : s.engineAct (.copyRead cl n c.id k 1) =
      s.modCopy cl n c.id (fun x => { x with data := x.gotWord s (cl * 0xC000000 + a + 16 * m) m }) :=
    State.copyReads_near hc hn hm hk hnew
  refine ⟨_, exec_engineCommandComplete_of_same ?_ ?_, ?_, ?_, ?_⟩
  · rw [hact]
    rfl
  · rw [hact]
    rfl
  · rw [hact, State.modCopy_only hc]
  · rw [hact]
    rfl
  · rw [hact]
    rfl

/-! ## The word of a copy that is written -/

/-- A copy after the word at byte `16 * m` has been written. -/
def Copy.wroteWord (c : Copy) (m : Nat) : Copy := { c with written := c.written + 16, gone := c.gone ++ [16 * m] }

theorem State.copyWrites_near (hnw : NoWatch s) {v : Nat → Byte} (hc : (s.slot cl n).copies = [c]) (hn : NearCopy cl a b c)
    (hm : k / 16 = m) (hk : k < c.len) (hgone : c.gone.contains (16 * m) = false)
    (hv : ∀ j, j < 16 → SMap.get? c.data (16 * m + j) = some (v j)) (hmore : c.written + 16 ≠ c.len) :
    s.copyWrites cl n c.id k 1 =
      (s.portWrite (s.portCells (cl * 0xC000000 + (b + 16 * m)) 16 v)).modCopy cl n c.id (fun _ => c.wroteWord m) := by
  obtain ⟨-, hb, hl⟩ := hn.words
  have hword := wordAt_near (cl := cl) hb hl hk hm
  have hslice := slicePieces_near (cl := cl) (a := b) (len := c.len) (k := 16 * m) (n := 16) (by omega) (by omega)
  have hrange := hn.range.2
  have hbytes : c.bytes (16 * m) 16 = some ((List.range 16).map v) :=
    mapM_eq_some fun j hj => hv j (List.mem_range.1 hj)
  have hearly : earlierWrites ((s.slot cl n).copies.filter (fun x => decide (x.cmd = c.cmd))) c.id [nearPiece cl (b + 16 * m) 16] =
      false := by
    simp [earlierWrites, hc]
  have hmiss : ¬ (c.len ≤ k ∨ c.gone.contains (16 * m) = true ∨
      earlierWrites ((s.slot cl n).copies.filter (fun x => decide (x.cmd = c.cmd))) c.id [nearPiece cl (b + 16 * m) 16] = true) := by
    rw [hgone, hearly]
    simpa using hk
  rw [State.copyWrites, State.copyWrites, State.copyWriteWord, State.copyOf_only hc]
  simp only [hn.plain, hn.dst, hword, hslice, hbytes, State.sentHost_near,
    State.writeQuiet_near hnw (show b + 16 * m + 16 ≤ 2 ^ 28 by omega), Bool.false_eq_true, if_false, hmiss, hmore]
  rw [Copy.wroteWord, ← hn.dst, ← hn.plain]
  rfl

/-- A word of a copy within the space is written. -/
theorem exec_copyWrite_near (hwf : s.mem.spad.wf = true) (hnw : NoWatch s) {v : Nat → Byte} (hc : (s.slot cl n).copies = [c])
    (hn : NearCopy cl a b c) (hm : k / 16 = m) (hk : k < c.len) (hgone : c.gone.contains (16 * m) = false)
    (hv : ∀ j, j < 16 → SMap.get? c.data (16 * m + j) = some (v j)) (hmore : c.written + 16 ≠ c.len) :
    Answers (.engineCommandComplete (.copyWrite cl n c.id k 1)) s (fun t =>
      (t.slot cl n).copies = [c.wroteWord m] ∧
        ∃ u, PortWrote s u (cl * 0xC000000 + (b + 16 * m)) 16 v ∧ t.mem = u.mem ∧ t.ctxs = u.ctxs) := by
  have hu := State.portWrite_wrote hwf (cl * 0xC000000 + (b + 16 * m)) 16 v
  have hact : s.engineAct (.copyWrite cl n c.id k 1) = _ := State.copyWrites_near hnw hc hn hm hk hgone hv hmore
  have hcu : ((s.portWrite (s.portCells (cl * 0xC000000 + (b + 16 * m)) 16 v)).slot cl n).copies = [c] := by
    rw [State.slot_eq_of_clusters hu.clusters, hc]
  refine ⟨_, exec_engineCommandComplete_of_same ?_ ?_, ?_, _, hu, ?_, ?_⟩
  · rw [hact]
    exact hu.keeps (fun c => c.async) (fun _ => rfl) _
  · rw [hact]
    exact hu.keeps (fun c => c.run) (fun _ => rfl) _
  · rw [hact, State.modCopy_only hcu]
  · rw [hact]
    rfl
  · rw [hact]
    rfl

/-! ## Emission (R71, R72) -/

theorem nextIdx_eq_stepIdx : ∀ {cnt idx : List Nat}, cnt.length = idx.length → nextIdx cnt idx = stepIdx cnt idx
  | [], [], _ => rfl
  | [_], [_], _ => rfl
  | c :: d :: cs, i :: j :: is, h => by
    rw [nextIdx, stepIdx, nextIdx_eq_stepIdx (Nat.succ.inj h)]
    · rfl
    all_goals simp

/-- A slot that emits is running, with iterations left (R71, R72). -/
theorem emits_canEmit {nest : Nest} {cmd : Nat} (h : Emits s cl n nest cmd) : (s.slot cl n).canEmit = true := by
  have hempty : nest.empty = false := List.any_eq_false.2 fun c hc => by simpa using Nat.pos_iff_ne_zero.1 (h.counts c hc)
  have hover : nest.over (s.slot cl n).idx = false := by
    rw [Nest.over, hempty, Bool.false_or, decide_eq_false_iff_not, not_le]
    exact h.left
  simp [SeqSlot.canEmit, h.act, h.runs, h.fault, h.plain, hover]

theorem emits_saving {nest : Nest} {cmd : Nat} (h : Emits s cl n nest cmd) : s.saving (s.slot cl n).owner = false :=
  State.saving_eq_false h.stage.1 h.stage.2

theorem State.setSlot_slot_same (q : SeqSlot) : (s.setSlot cl n q).slot cl n = q := s.modSlot_slot_same cl n (fun _ => q)

theorem State.settleSlot_of_copies {fuel : Nat} (h : (s.slot cl n).copies.isEmpty = false) : s.settleSlot cl n fuel = s := by
  cases fuel with
  | zero => rfl
  | succ fuel => rw [State.settleSlot, h, Bool.not_false, if_pos rfl]

/-- A slot after it has emitted a copy of number `id` between places of the space. -/
def SeqSlot.emitted (q : SeqSlot) (nest : Nest) (cl cmd id a b : Nat) : SeqSlot :=
  { q with
    idx := nextIdx nest.cnt q.idx
    walk := false
    copies := q.copies ++ [⟨id, cmd, [nearPiece cl a nest.len], [nearPiece cl b nest.len], false, nest.len, [], 0, [], [], []⟩] }

theorem State.slotPieces_near {nest : Nest} {cmd : Nat} (hs : nest.sspad = true) (hd : nest.dspad = true)
    (hplain : (s.slot cl n).strm = false) (ha : nestAddr nest.src nest.ss (s.slot cl n).idx = a)
    (hb : nestAddr nest.dst nest.ds (s.slot cl n).idx = b) (hla : a + nest.len ≤ 0xC000000) (hlb : b + nest.len ≤ 0xC000000)
    (hl : 0 < nest.len) :
    s.slotPieces cl n (s.slot cl n) nest cmd = .ok ([nearPiece cl a nest.len], [nearPiece cl b nest.len]) := by
  rw [State.slotPieces, hs, hd, ha, hb, s.spanPieces_near _ _ _ hl hla, s.spanPieces_near _ _ _ hl hlb, hplain]
  rfl

/-- A running slot emits its next copy within the space. -/
theorem State.emitCopy_near {nest : Nest} {cmd : Nat} (h : Emits s cl n nest cmd) (hs : nest.sspad = true) (hd : nest.dspad = true)
    (ha : nestAddr nest.src nest.ss (s.slot cl n).idx = a)
    (hb : nestAddr nest.dst nest.ds (s.slot cl n).idx = b) (hla : a + nest.len ≤ 0xC000000) (hlb : b + nest.len ≤ 0xC000000)
    (hl : 0 < nest.len) :
    s.emitCopy cl n = s.fresh.2.setSlot cl n ((s.slot cl n).emitted nest cl cmd s.front.nextId a b) := by
  have hmiss : s.slotMisses cl n (s.slot cl n) nest cmd = false := by simp [State.slotMisses, hs, hd]
  have hpieces := State.slotPieces_near (cmd := cmd) hs hd h.plain ha hb hla hlb hl
  have hne : nest.len ≠ 0 := Nat.pos_iff_ne_zero.1 hl
  simp only [State.emitCopy, State.emitWalked, h.act, emits_canEmit h, emits_saving h, hmiss, hpieces, hs, hd, h.plain, hne,
    Bool.not_true, Bool.or_self, Bool.and_false, Bool.false_eq_true, if_false, if_true, List.append_nil]
  rw [State.settleSlot_of_copies (by rw [State.setSlot_slot_same]; simp), SeqSlot.emitted, ← h.act, ← h.plain]

/-- Elementary copies of a nest within the space. -/
theorem exec_emit_near {nest : Nest} {cmd : Nat} (h : Emits s cl n nest cmd) (hs : nest.sspad = true) (hd : nest.dspad = true)
    (ha : nestAddr nest.src nest.ss (s.slot cl n).idx = a) (hb : nestAddr nest.dst nest.ds (s.slot cl n).idx = b)
    (hla : a + nest.len ≤ 0xC000000) (hlb : b + nest.len ≤ 0xC000000) (hl : 0 < nest.len) :
    Answers (.elementaryCopyEmit cl n) s (fun t =>
      t.slot cl n = (s.slot cl n).emitted nest cl cmd s.front.nextId a b ∧
        t.ctxs = s.ctxs ∧ t.cores = s.cores ∧ t.mem = s.mem ∧ t.mod = s.mod) := by
  have hemit := State.emitCopy_near h hs hd ha hb hla hlb hl
  have hslot : (s.emitCopy cl n).slot cl n = (s.slot cl n).emitted nest cl cmd s.front.nextId a b := by
    rw [hemit, State.setSlot_slot_same]
  have hstops : s.slotStops (s.emitCopy cl n) cl n = false := by
    rw [State.slotStops, hslot, show ((s.slot cl n).emitted nest cl cmd s.front.nextId a b).fault = (s.slot cl n).fault from rfl, h.fault]
    rfl
  refine ⟨s.emitCopy cl n, ?_, hslot, by rw [hemit]; rfl, by rw [hemit]; rfl, by rw [hemit]; rfl, by rw [hemit]; rfl⟩
  show Host.Outcome.next (s.emitNext cl n) = _
  rw [State.emitNext]
  simp only [hstops, Bool.false_eq_true, if_false]

end

/-! ## The obligation -/

theorem engineCommandEvents : EngineCommandEvents := by
  intro s
  refine ⟨fun hw c r a x y wide op tail hwork ho hq hheld hperf hs hpos hroom hwf hnw h => ?_,
    fun cl n c a b m hc hn => ⟨fun k hm hk hnew => ?_, fun k v hwf hnw hm hk hgone hv hmore => ?_⟩,
    fun hw c r n level cnt ss ds hwork ho hheld hs hroll htok => exec_cplvl_work hwork ho hheld hs hroll htok⟩
  · exact exec_sfop_near hwork ho hq hheld hperf hs hpos hroom hwf hnw h
  · obtain ⟨t, hexec, hslot, hctxs, hmem⟩ := exec_copyRead_near hc hn hm hk hnew
    exact ⟨t, hexec, ⟨_, hslot, fun j hj => c.get?_gotWord_same s _ m hj, fun x hx => c.get?_gotWord_other s _ m hx⟩, hctxs, hmem⟩
  · obtain ⟨t, hexec, hslot, u, hu, hmem, hctxs⟩ := exec_copyWrite_near hwf hnw hc hn hm hk hgone hv hmore
    rw [← Nat.add_assoc] at hu
    refine ⟨t, hexec, by rw [hmem]; exact hu.same, by rw [hmem]; exact hu.other, ⟨c.trig, hslot⟩, fun k => ?_, by rw [hmem, hu.hbm],
      by rw [hmem, hu.host]⟩
    rw [State.ctx, hctxs]
    exact hu.keeps (fun c => c.regs) (fun _ => rfl) k

theorem copyEmission : CopyEmission := by
  intro cl n nest cmd a b s h hs hd ha hb hla hlb hl hcnt hidx
  have hemit := exec_emit_near h hs hd ha hb hla hlb hl
  rw [SeqSlot.emitted, nextIdx_eq_stepIdx (hcnt.trans hidx.symm)] at hemit
  exact hemit

/-- Settles O43: an indivisible update reads, computes and writes its operand in one step; a copy's word is read or written as a whole,
at the place that its byte has; a CPLVL starts and completes at once; and the indices of a nest step from level 0 on. -/
theorem copyEngineEvents : Obligations.CopyEngineEvents := ⟨engineCommandEvents, copyEmission⟩

end Sys2Proof.Machine
end

section
/-!
PROOF. Link windows and received flits (R81 to R84).
-/

namespace Sys2Proof.Machine

open Sys2Proof.Claims

/-! ## Links -/

theorem State.modLink_link_same (s : State) (l : Nat) (f : Link → Link) : (s.modLink l f).link l = f (s.link l) :=
  SMap.getD_put_same _ _ _ _

theorem State.link_eq_of_front {s t : State} (h : t.front.links = s.front.links) (l : Nat) : t.link l = s.link l := by
  rw [State.link, h]
  rfl

/-- An error of the launching queue changes neither links nor any memory but the host's. -/
theorem State.launchErr_leaves (s : State) (hw code extra : Nat) :
    (s.launchErr hw code extra).front.links = s.front.links ∧ (s.launchErr hw code extra).mem.spad = s.mem.spad := by
  rw [State.launchErr]
  split
  next x _ =>
    obtain ⟨m, e, h⟩ := State.postEvent_cases (s.modQueue x.queue (fun u => { u with
      count := min (u.count + 1) 0xFFFF
      first := if u.count = 0 then code else u.first
      fpkt := if u.count = 0 then x.pkt % 2 ^ 39 else u.fpkt })) 2 x.queue code x.pkt extra
    rw [State.queueErr]
    exact ⟨congrArg (fun s => s.front.links) h, congrArg (fun s => s.mem.spad) h⟩
  · exact ⟨rfl, rfl⟩

theorem State.launchErr_noLaunch {s : State} {hw : Nat} (h : (s.ctx hw).run.launch = none) (code extra : Nat) :
    s.launchErr hw code extra = s := by
  simp only [State.launchErr, State.launchOf, h]

theorem iter_id {β : Type} {f : Nat → β → β} {x : β} (h : ∀ k, f k x = x) (k n : Nat) : iter f k n x = x := by
  induction n generalizing k with
  | zero => rfl
  | succ n ih => rw [iter, h, ih]

/-- A link that has counted `n` misses more (R83). -/
def Link.missed (k : Link) (n : Nat) : Link := { k with miss := min (k.miss + n) 0xFFFFFFFF }

/-- A miss of a context without a launch is counted, and nothing else (log 55). -/
theorem State.linkMiss_noLaunch {s : State} {hw n : Nat} (h : (s.ctx hw).run.launch = none) (hn : n ≠ 0) (l : Nat) :
    s.linkMiss l (some hw) n = s.modLink l (fun k => k.missed n) := by
  rw [State.linkMiss, if_neg hn]
  exact iter_id (fun _ => State.launchErr_noLaunch (s := s.modLink l (fun k => k.missed n)) h 9 0) 0 n

/-- A miss is counted; of memory only the host's, which holds the events, may change. -/
theorem State.linkMiss_one (s : State) (l hw : Nat) :
    (s.linkMiss l (some hw) 1).link l = (s.link l).missed 1 ∧ (s.linkMiss l (some hw) 1).mem.spad = s.mem.spad := by
  obtain ⟨hlinks, hspad⟩ := (s.modLink l (fun k => k.missed 1)).launchErr_leaves hw 9 0
  exact ⟨(State.link_eq_of_front hlinks l).trans (s.modLink_link_same l _), hspad⟩

/-! ## The only window of a link -/

section

variable {s : State} {l : Nat} {w : Window}

theorem State.modWindow_only (hr : (s.link l).recv = [w]) (f : Window → Window) :
    (s.modWindow l false w.hw w.cmd f).link l = { s.link l with recv := [f w] } := by
  rw [State.modWindow, State.modLink_link_same]
  simp [hr]

theorem State.outWindow_none {hw id : Nat} (h : ∀ k, k < 16 → ∀ x ∈ (s.link k).send, x.hw ≠ hw ∨ x.cmd ≠ id) :
    s.outWindow hw id = none := by
  refine List.findSome?_eq_none_iff.2 fun k hk => ?_
  rw [Option.map_eq_none_iff, List.find?_eq_none]
  intro x hx
  have hne := h k (List.mem_range.1 hk) x hx
  simp only [Bool.and_eq_true, decide_eq_true_eq, not_and]
  intro hxw hxc
  exact hne.elim (absurd hxw.2) (absurd hxc)

/-- The window has begun, in time or not, and its command has started. -/
def State.windowBegun (s : State) (l : Nat) (w : Window) (miss : Bool) : State :=
  (s.modCmd w.hw w.cmd (fun c => { c with started := true })).modWindow l false w.hw w.cmd (fun x => { x with begun := true, miss := miss })

theorem State.windowBegun_link (hr : (s.link l).recv = [w]) (miss : Bool) :
    (s.windowBegun l w miss).link l = { s.link l with recv := [{ w with begun := true, miss := miss }] } :=
  State.modWindow_only (s := s.modCmd w.hw w.cmd (fun c => { c with started := true })) hr _

theorem State.windowBegun_begins (s : State) (l : Nat) (w : Window) (miss : Bool) : Begins s (s.windowBegun l w miss) w where
  ctx := by
    rw [State.windowBegun, State.modWindow, State.modLink_ctx]
    exact State.modCtx_ctx_same s w.hw _
  others k hk := by
    rw [State.windowBegun, State.modWindow, State.modLink_ctx]
    exact State.modCtx_ctx_other s _ hk

theorem State.beginWindows_only {c : Cmd} (hr : (s.link l).recv = [w]) (ho : w.out = false) (hc : s.cmdOfId w.hw w.cmd = some c)
    (hout : s.outWindow w.hw w.cmd = none) (hb : w.begun = false) {t : Nat} (ht : w.start ≤ t) :
    s.beginWindows l false t =
      let miss := decide (w.start < t) || !(s.ctx w.hw).tokensZero c.cons
      let gone := ((List.range (min t (w.start + w.len) - w.start)).filter (fun k => !(s.link l).heard.contains (w.start + k))).length
      if miss = true then (s.windowBegun l w miss).linkMiss l (some w.hw) (1 + gone) else s.windowBegun l w miss := by
  have hw : [w].filter (fun x => !x.begun && !x.out && decide (x.start ≤ t)) = [w] := by simp [hb, ho, ht]
  have hclash : ([w].takeWhile (fun x => !(decide (x.hw = w.hw) && decide (x.cmd = w.cmd)))).any (fun x => x.meets w) = false := by simp
  simp only [State.beginWindows, Bool.false_eq_true, if_false, hr, hw, List.foldl_cons, List.foldl_nil, State.beginWindow, hout, hc, hclash,
    Bool.or_false]
  rfl

/-- A window whose tick has come begins in it (R83). -/
theorem exec_windowStart_intime {c : Cmd} (hr : (s.link l).recv = [w]) (ho : w.out = false) (hc : s.cmdOfId w.hw w.cmd = some c)
    (hout : s.outWindow w.hw w.cmd = none) (hb : w.begun = false) (ht : w.start = (s.link l).pos) (hnow : (s.link l).pos ≤ s.linkTick)
    (htok : (s.ctx w.hw).tokensZero c.cons = true) :
    Answers (.linkWindowStart l false) s (fun t =>
      t.link l = { s.link l with recv := [{ w with begun := true, miss := false }] } ∧ Begins s t w ∧ t.mem = s.mem) := by
  refine ⟨s.windowBegun l w false, ?_, State.windowBegun_link hr false, s.windowBegun_begins l w false, rfl⟩
  have hmiss : (decide (w.start < (s.link l).pos) || !(s.ctx w.hw).tokensZero c.cons) = false := by simp [ht, htok]
  rw [exec_linkWindowStart, execLinkWindowStart, if_pos hnow, State.beginWindows_only hr ho hc hout hb (Nat.le_of_eq ht)]
  simp only [hmiss, Bool.false_eq_true, if_false]

/-- A window whose tick has passed has missed it, and so have the ticks that passed without a flit (R83, log 55, log 96). -/
theorem exec_windowStart_late {c : Cmd} (hr : (s.link l).recv = [w]) (ho : w.out = false) (hc : s.cmdOfId w.hw w.cmd = some c)
    (hout : s.outWindow w.hw w.cmd = none) (hb : w.begun = false) (ht : w.start < (s.link l).pos) (hnow : (s.link l).pos ≤ s.linkTick)
    (hlaunch : (s.ctx w.hw).run.launch = none) :
    Answers (.linkWindowStart l false) s (fun t =>
      t.link l = { s.link l with
        recv := [{ w with begun := true, miss := true }]
        miss := min ((s.link l).miss + (1 + lostTicks (s.link l) w)) 0xFFFFFFFF } ∧
      Begins s t w ∧ t.mem = s.mem) := by
  have hbegins := s.windowBegun_begins l w true
  have hlaunch' : ((s.windowBegun l w true).ctx w.hw).run.launch = none := by rw [hbegins.ctx]; exact hlaunch
  refine ⟨(s.windowBegun l w true).modLink l (fun k => k.missed (1 + lostTicks (s.link l) w)), ?_, ?_,
    ⟨hbegins.ctx, hbegins.others⟩, rfl⟩
  · have hmiss : (decide (w.start < (s.link l).pos) || !(s.ctx w.hw).tokensZero c.cons) = true := by simp [ht]
    rw [exec_linkWindowStart, execLinkWindowStart, if_pos hnow, State.beginWindows_only hr ho hc hout hb (Nat.le_of_lt ht)]
    simp only [hmiss, if_true]
    exact congrArg Host.Outcome.next (State.linkMiss_noLaunch hlaunch' (by omega) l)
  · rw [State.modLink_link_same, State.windowBegun_link hr]
    rfl

/-! ## A tick with a flit (R81, R83, R84) -/

theorem State.flitArrive_now {t : Nat} (ht : (s.link l).pos = t) (hnow : t ≤ s.linkTick) (v d : Nat) (bad : Bool) :
    s.flitArrive l t v d bad = s.linkStep l (some (v, d, !bad)) := by
  rw [State.flitArrive, if_neg (by omega), if_neg (by omega), State.linkIdle]
  simp only [ht, Nat.le_refl, if_true]

/-- A link after its tick. -/
def Link.ticked (k : Link) (t : Nat) : Link :=
  { k with pos := t + 1, due := k.due.filter (fun f => decide (t < f.1)), heard := t :: k.heard }

/-- The only window of a link stands within its ticks: the window receives the flit, and neither begins nor ends. -/
theorem State.linkStep_within {t : State} {w' : Window} {p : Nat} {f : Nat × Nat × Bool} (hr : (s.link l).recv = [w])
    (hs : (s.link l).send = []) (hb : w.begun = true) (hp : (s.link l).pos = p) (hrecv : s.recvTick l p (some f) = t)
    (hr' : (t.link l).recv = [w']) (hs' : (t.link l).send = []) (hend : p + 1 < w'.start + w'.len) :
    s.linkStep l (some f) = t.modLink l (fun k => k.ticked p) := by
  have hbegin : (s.beginWindows l false p).beginWindows l true p = s := by
    simp only [State.beginWindows, hr, hs, hb, Bool.false_eq_true, if_false, if_true, Bool.not_true, Bool.false_and, List.filter_cons,
      List.filter_nil, List.foldl_nil]
  have hlast : decide (w'.start + w'.len ≤ p + 1) = false := by simpa using hend
  have hends : (t.endWindows l false (p + 1)).endWindows l true (p + 1) = t := by
    simp only [State.endWindows, hr', hs', hlast, Bool.false_eq_true, if_false, if_true, Bool.and_false, Bool.false_and, List.filter_cons,
      List.filter_nil, List.foldl_nil]
  simp only [State.linkStep, hp, hbegin, hrecv, hs', List.filter_nil, List.foldl_nil, hends]
  rfl

/-- The flit of a tick goes to the window that has begun and has not missed its slot. -/
theorem State.recvTick_only (hr : (s.link l).recv = [w]) (hb : w.begun = true) (hm : w.miss = false) {p : Nat} (hstart : w.start ≤ p)
    (hend : p < w.start + w.len) (v d : Nat) (good : Bool) :
    s.recvTick l p (some (v, d, good)) =
      if (good && (s.link l).up) = true then s.recvFlit l p w v d else s.linkMiss l (some w.hw) 1 := by
  have hw : (s.link l).recv.filter (fun w => w.begun && decide (w.start ≤ p) && decide (p < w.start + w.len)) = [w] := by
    simp [hr, hb, hstart, hend]
  have hfind : [w].find? (fun w => !w.miss) = some w := List.find?_cons_of_pos (by simp [hm])
  simp only [State.recvTick, hw, hfind]

/-- An erroneous flit counts as missed and writes nothing. -/
theorem exec_flit_bad (hr : (s.link l).recv = [w]) (hs : (s.link l).send = []) (hb : w.begun = true) (hm : w.miss = false)
    (hstart : w.start ≤ (s.link l).pos) (hend : (s.link l).pos + 1 < w.start + w.len) (hnow : (s.link l).pos ≤ s.linkTick)
    (hlaunch : (s.ctx w.hw).run.launch = none) (f : FlitData) :
    Answers (.linkFlitReceive l (s.link l).pos f true) s (fun t =>
      t.link l = ((s.link l).missed 1).ticked (s.link l).pos ∧ t.mem = s.mem ∧ t.ctxs = s.ctxs) := by
  have hrecv : s.recvTick l (s.link l).pos (some (f.len, f.bits, !true)) = s.modLink l (fun k => k.missed 1) := by
    rw [State.recvTick_only hr hb hm hstart (by omega), if_neg (by simp), State.linkMiss_noLaunch hlaunch Nat.one_ne_zero]
  have hlink := s.modLink_link_same l (fun k => k.missed 1)
  refine ⟨(s.modLink l (fun k => k.missed 1)).modLink l (fun k => k.ticked (s.link l).pos), ?_, ?_, rfl, rfl⟩
  · show Host.Outcome.next (s.flitArrive l (s.link l).pos f.len f.bits true) = _
    rw [State.flitArrive_now rfl hnow, State.linkStep_within hr hs hb rfl hrecv (w' := w) (by rw [hlink]; exact hr)
      (by rw [hlink]; exact hs) hend]
  · rw [State.modLink_link_same, hlink]

/-! ## A good flit of an LKRECV -/

/-- A link whose only window has received a flit of `v` bytes where 128 were to come. -/
def Link.gotFlit (k : Link) (w : Window) (g : List (Nat × Nat × Nat)) (v m : Nat) : Link :=
  let k1 := { k with recv := [{ w with done := w.done + 1, trig := g }] }
  if v < m then k1.missed 1 else k1

/-- A flit of a begun LKRECV window that lies within the space is written at its place; bytes beyond the flit's length stay. -/
theorem State.recvFlit_near (hwf : s.mem.spad.wf = true) (hnw : NoWatch s) (hr : (s.link l).recv = [w]) {c : Cmd}
    (hc : s.cmdOfId w.hw w.cmd = some c) {link a n tick : Nat} (ho : c.op = .lkrecv link a n tick) {p v : Nat} (hv : 0 < v)
    (hk : 128 * (p - w.start) < n) (h : a + n ≤ 0xC000000) (d : Nat) :
    ∃ u g, PortWrote s u (clusterOf w.hw * 0xC000000 + (a + 128 * (p - w.start))) (min v (min 128 (n - 128 * (p - w.start))))
        (fun k => BitVec.ofNat 8 (d / 256 ^ k)) ∧
      (s.recvFlit l p w v d).mem.spad = u.mem.spad ∧
      (s.recvFlit l p w v d).link l = (s.link l).gotFlit w g v (min 128 (n - 128 * (p - w.start))) := by
  have hpieces := spadPieces_near (cl := clusterOf w.hw) (a := a + 128 * (p - w.start))
    (n := min v (min 128 (n - 128 * (p - w.start)))) (by omega) (by omega)
  let u := s.portWrite (s.portCells (clusterOf w.hw * 0xC000000 + (a + 128 * (p - w.start)))
    (min v (min 128 (n - 128 * (p - w.start)))) (fun k => BitVec.ofNat 8 (d / 256 ^ k)))
  have hu : PortWrote s u _ _ _ := State.portWrite_wrote hwf _ _ _
  have hur : (u.link l).recv = [w] := by rw [State.link_eq_of_front (congrArg Front.links hu.front), hr]
  let t := (u.modWindow l false w.hw w.cmd (fun x => { x with done := x.done + 1, trig := joinTriggers x.trig [] })).chargePieces w.hw
    [nearPiece (clusterOf w.hw) (a + 128 * (p - w.start)) (min v (min 128 (n - 128 * (p - w.start))))]
  have hrun : s.recvFlit l p w v d =
      if v < min 128 (n - 128 * (p - w.start)) then t.linkMiss l (some w.hw) 1 else t := by
    simp only [State.recvFlit, hc, ho, flitAt, hpieces, toBytes_eq_map, State.writeQuiet_near hnw
      (show a + 128 * (p - w.start) + min v (min 128 (n - 128 * (p - w.start))) ≤ 2 ^ 28 by omega)]
    rfl
  have htspad : t.mem.spad = u.mem.spad := congrArg Mem.spad (State.chargePieces_onlyCharged ..).mem
  have htlink : t.link l = { s.link l with recv := [{ w with done := w.done + 1, trig := joinTriggers w.trig [] }] } := by
    rw [State.link_eq_of_front (State.chargePieces_unchanged (fun s => s.front.links) (fun _ _ _ => rfl) (fun _ _ _ => rfl) _ _ _),
      State.modWindow_only hur, State.link_eq_of_front (congrArg Front.links hu.front)]
  refine ⟨u, joinTriggers w.trig [], hu, ?_, ?_⟩
  · rw [hrun]
    split
    · rw [(t.linkMiss_one l w.hw).2, htspad]
    · exact htspad
  · rw [hrun, Link.gotFlit, ← htlink]
    split
    · exact (t.linkMiss_one l w.hw).1
    · rfl

theorem Link.gotFlit_recv (k : Link) (w : Window) (g : List (Nat × Nat × Nat)) (v m : Nat) :
    (k.gotFlit w g v m).recv = [{ w with done := w.done + 1, trig := g }] := by
  unfold Link.gotFlit
  split <;> rfl

theorem Link.gotFlit_send (k : Link) (w : Window) (g : List (Nat × Nat × Nat)) (v m : Nat) : (k.gotFlit w g v m).send = k.send := by
  unfold Link.gotFlit
  split <;> rfl

theorem Link.gotFlit_miss (k : Link) (w : Window) (g : List (Nat × Nat × Nat)) (v m : Nat) :
    (k.gotFlit w g v m).miss = if v < m then min (k.miss + 1) 0xFFFFFFFF else k.miss := by
  unfold Link.gotFlit
  split <;> rfl

theorem exec_flit_near (hwf : s.mem.spad.wf = true) (hnw : NoWatch s) (hr : (s.link l).recv = [w]) (hs : (s.link l).send = [])
    (hb : w.begun = true) (hm : w.miss = false) {c : Cmd} (hc : s.cmdOfId w.hw w.cmd = some c) {link a n tick : Nat}
    (ho : c.op = .lkrecv link a n tick) (hup : (s.link l).up = true) (hlen : w.len = (n + 127) / 128) (h : a + n ≤ 0xC000000)
    {p v : Nat} (hp : (s.link l).pos = p) (hstart : w.start ≤ p) (hend : p + 1 < w.start + w.len) (hnow : p ≤ s.linkTick) (hv : 0 < v)
    (d : Nat) :
    Answers (.linkFlitReceive l p ⟨v, d⟩ false) s (fun t =>
      EngineHas s t (clusterOf w.hw * 0xC000000 + (a + 128 * (p - w.start))) (min v (min 128 (n - 128 * (p - w.start)))) d ∧
      ∃ g, t.link l = ((s.link l).gotFlit w g v (min 128 (n - 128 * (p - w.start)))).ticked p) := by
  obtain ⟨u, g, hu, hspad, hlink⟩ := State.recvFlit_near hwf hnw hr hc ho hv (p := p) (by omega) h d
  have hrecv : s.recvTick l p (some (v, d, !false)) = s.recvFlit l p w v d := by
    rw [State.recvTick_only hr hb hm hstart (by omega), hup]
    rfl
  refine ⟨(s.recvFlit l p w v d).modLink l (fun k => k.ticked p), ?_, ?_, g, by rw [State.modLink_link_same, hlink]⟩
  · show Host.Outcome.next (s.flitArrive l p v d false) = _
    rw [State.flitArrive_now hp hnow, State.linkStep_within hr hs hb hp hrecv (w' := { w with done := w.done + 1, trig := g })
      (by rw [hlink, Link.gotFlit_recv]) (by rw [hlink, Link.gotFlit_send, hs]) hend]
  · rw [EngineHas, State.modLink_mem, hspad]
    exact ⟨hu.same, hu.other⟩

end

/-- Settles O46: the link has one window, so a tick begins it, or gives it its flit, or counts its miss, and the windows that the tick
begins or ends besides are none. -/
theorem linkEvents : Obligations.LinkEvents := by
  intro l w c s hr hs ho hc hsend now
  have hout := State.outWindow_none hsend
  refine ⟨fun hearly => ?_, fun hb ht hnow htok => exec_windowStart_intime hr ho hc hout hb ht hnow htok,
    fun hb ht hnow hlaunch => exec_windowStart_late hr ho hc hout hb ht hnow hlaunch,
    fun link a n tick v d hb hm hop hup hlen hran hstart hend hnow hwf hnw hv => ?_,
    fun v d hb hm hstart hend hnow hlaunch => exec_flit_bad hr hs hb hm hstart hend hnow hlaunch ⟨v, d⟩⟩
  · have hlate : ¬ (s.link l).pos ≤ s.linkTick := Nat.not_le.2 hearly
    rw [exec_linkWindowStart, execLinkWindowStart, if_neg hlate]
  · obtain ⟨t, hexec, hhas, g, hlink⟩ := exec_flit_near hwf hnw hr hs hb hm hc hop hup hlen hran rfl hstart hend hnow hv d
    rw [← Nat.add_assoc] at hhas
    exact ⟨t, hexec, hhas, by rw [hlink]; rfl, ⟨g, by rw [hlink]; exact Link.gotFlit_recv ..⟩,
      by rw [hlink]; exact Link.gotFlit_miss ..⟩

end Sys2Proof.Machine
end

section
/-!
PROOF. Page walks and minor faults (R64, R65, R67, R68, R299).
-/

namespace Sys2Proof.Machine

open Sys2Proof.Claims

/-! ## TLBs (R68) -/

/-- An entry serves an engine for an address. -/
def Tlb.serves (t : Tlb) (eng asid va : Nat) : Bool :=
  decide (t.eng = eng) && decide (t.asid = asid) && decide (va / t.size * t.size = t.page)

theorem Tlb.serves_iff {t : Tlb} {eng asid va : Nat} :
    t.serves eng asid va = true ↔ t.eng = eng ∧ t.asid = asid ∧ va / t.size * t.size = t.page := by
  simp [Tlb.serves, and_assoc]

theorem findTlb_eq_none {l : List Tlb} {eng asid va : Nat} :
    findTlb l eng asid va = none ↔ ∀ t ∈ l, t.serves eng asid va = false ∧ t.serves 0 asid va = false := by
  have hserves (e : Nat) : l.find? (fun t => t.serves e asid va) = none ↔ ∀ t ∈ l, t.serves e asid va = false := by
    simp [List.find?_eq_none]
  have hdef : findTlb l eng asid va = match l.find? (fun t => t.serves eng asid va) with
    | some t => some t
    | none => l.find? (fun t => t.serves 0 asid va) := rfl
  rw [hdef]
  cases h : l.find? (fun t => t.serves eng asid va) with
  | none => simp only [hserves] at h ⊢; exact ⟨fun h0 t ht => ⟨h t ht, h0 t ht⟩, fun h t ht => (h t ht).2⟩
  | some t =>
    refine ⟨nofun, fun hn => ?_⟩
    rw [(hserves eng).2 fun t ht => (hn t ht).1] at h
    cases h

theorem findTlb_append {l r : List Tlb} {x : Tlb} {eng asid va : Nat} (h : ∀ t ∈ l, t.serves eng asid va = false)
    (hx : x.serves eng asid va = true) : findTlb (l ++ x :: r) eng asid va = some x := by
  have hl : l.find? (fun t => t.serves eng asid va) = none := by simpa [List.find?_eq_none] using h
  have hfind : (l ++ x :: r).find? (fun t => t.serves eng asid va) = some x := by
    rw [List.find?_append, hl, Option.none_or, List.find?_cons_of_pos (p := fun t : Tlb => t.serves eng asid va) hx]
  show (match (l ++ x :: r).find? (fun t => t.serves eng asid va) with
    | some t => some t
    | none => (l ++ x :: r).find? (fun t => t.serves 0 asid va)) = _
  rw [hfind]

theorem dropFirst_append_of_mem {α : Type} {p : α → Bool} {l : List α} {x : α} (hx : x ∈ l) (hp : p x = true) (r : List α) :
    dropFirst p (l ++ r) = dropFirst p l ++ r := by
  induction l with
  | nil => cases hx
  | cons y l ih =>
    rw [List.cons_append, dropFirst, dropFirst]
    by_cases hy : p y = true
    · rw [if_pos hy, if_pos hy]
    · obtain rfl | hxl := List.mem_cons.1 hx
      · exact absurd hp hy
      · rw [if_neg hy, if_neg hy, ih hxl, List.cons_append]

theorem dropFirst_subset {α : Type} (p : α → Bool) (l : List α) : dropFirst p l ⊆ l := by
  induction l with
  | nil => exact fun _ h => h
  | cons y l ih =>
    rw [dropFirst]
    split
    · exact List.subset_cons_self y l
    · exact List.cons_subset_cons y ih

/-- The oldest entry of an engine that leaves its TLB is none of the last ones, which do not fill it (R68). -/
theorem trimTlb_append (l : List Tlb) {r : List Tlb} (eng : Nat) {cap : Nat} (h : r.length ≤ cap) :
    ∃ l', trimTlb (l ++ r) eng cap = l' ++ r ∧ l' ⊆ l := by
  rw [trimTlb]
  split
  · exact ⟨l, rfl, List.Subset.refl l⟩
  next hcap =>
    have hr : (r.filter (fun t => decide (t.eng = eng))).length ≤ r.length := List.length_filter_le _ _
    rw [List.filter_append, List.length_append] at hcap
    obtain ⟨x, hx⟩ := List.exists_mem_of_length_pos (l := l.filter (fun t => decide (t.eng = eng))) (by omega)
    obtain ⟨hxl, hxp⟩ := List.mem_filter.1 hx
    exact ⟨_, dropFirst_append_of_mem hxl hxp r, dropFirst_subset _ l⟩

/-- A leaf that fills the TLB of an engine which no entry serves for its address then serves it (R68). -/
theorem findTlb_fillTlb {l : List Tlb} {eng asid va : Nat} (h : findTlb l eng asid va = none) (pte size : Nat) :
    findTlb (fillTlb l eng asid va pte size) eng asid va = some ⟨eng, asid, va / size * size, size, pte⟩ := by
  let x : Tlb := ⟨eng, asid, va / size * size, size, pte⟩
  let keep := l.filter (fun t => !(decide (t.asid = asid) && decide (t.page = va / size * size) &&
    (decide (t.eng = eng) || decide (t.eng = 0))))
  obtain ⟨l1, h1, hs1⟩ := trimTlb_append keep (r := [x, { x with eng := 0 }]) eng (cap := 256) (by simp)
  obtain ⟨l2, h2, hs2⟩ := trimTlb_append l1 (r := [x, { x with eng := 0 }]) 0 (cap := 8192) (by simp)
  have hfill : fillTlb l eng asid va pte size = l2 ++ [x, { x with eng := 0 }] := by
    rw [← h2, ← h1]
    rfl
  rw [hfill]
  refine findTlb_append (fun t ht => ?_) (by simp [Tlb.serves, x])
  exact (findTlb_eq_none.1 h t (List.mem_of_mem_filter (hs1 (hs2 ht)))).1

/-! ## What a walk changes -/

theorem walked_refl (s : State) (cl : Nat) : Walked s s cl := ⟨fun _ _ => rfl, rfl, fun _ => rfl, rfl, rfl, rfl, rfl⟩

theorem energyOnly_trans {c d e : Ctx} (h : EnergyOnly c d) (h' : EnergyOnly d e) : EnergyOnly c e := by
  unfold EnergyOnly at *
  rw [h', h]

theorem walked_trans {s t u : State} {cl : Nat} (h : Walked s t cl) (h' : Walked t u cl) : Walked s u cl :=
  ⟨fun k hk => (h'.others k hk).trans (h.others k hk), h'.slots.trans h.slots, fun k => energyOnly_trans (h.ctxs k) (h'.ctxs k),
    h'.cores.trans h.cores, h'.front.trans h.front, h'.mod.trans h.mod, h'.mem.trans h.mem⟩

/-- A change of a cluster's TLBs. -/
theorem walked_modCl (s : State) (cl : Nat) (f : Cluster → List Tlb) : Walked s (s.modCl cl (fun c => { c with tlbs := f c })) cl :=
  ⟨fun k hk => by simp [hk], by simp, fun _ => rfl, rfl, rfl, rfl, rfl⟩

theorem State.charge_walked (s : State) (hw code n cl : Nat) : Walked s (s.charge hw code n) cl :=
  ⟨fun _ _ => by simp, by simp, (s.charge_onlyCharged hw code n).ctxs, by simp, by simp, by simp, by simp⟩

theorem State.chargeWalk_walked (s : State) (hw : Option Nat) (asid va cl : Nat) : Walked s (s.chargeWalk hw asid va) cl := by
  cases hw with
  | none => exact walked_refl s cl
  | some h => exact s.charge_walked _ _ _ cl

theorem State.chargeWalk_clusters (s : State) (hw : Option Nat) (asid va : Nat) : (s.chargeWalk hw asid va).clusters = s.clusters := by
  cases hw with
  | none => rfl
  | some h => exact s.charge_clusters _ _ _

theorem State.dropTlb_walked (s : State) (cl eng asid va : Nat) : Walked s (s.dropTlb cl eng asid va) cl := by
  rw [State.dropTlb]
  split
  · exact walked_refl s cl
  · exact walked_modCl s cl _

theorem State.remember_walked (s : State) (cl eng asid va : Nat) : Walked s (s.remember cl eng asid va) cl := by
  rw [State.remember]
  split
  · exact walked_refl s cl
  · split
    · exact walked_modCl s cl _
    · exact walked_refl s cl

/-- No entry that serves the address is left (log 40). -/
theorem State.findTlb_dropTlb (s : State) (cl eng asid va : Nat) :
    findTlb ((s.dropTlb cl eng asid va).cluster cl).tlbs eng asid va = none := by
  rw [State.dropTlb]
  split
  next h => exact Option.isNone_iff_eq_none.1 h
  · rw [State.modCl_cluster_same, findTlb_eq_none]
    intro t ht
    have hkeep : ¬ ((t.eng = eng ∨ t.eng = 0) ∧ t.asid = asid ∧ va / t.size * t.size = t.page) := by
      have := (List.mem_filter.1 ht).2
      simp only [Bool.not_eq_true', Bool.and_eq_false_iff, Bool.or_eq_false_iff, decide_eq_false_iff_not] at this
      tauto
    refine ⟨Bool.eq_false_iff.2 fun h => hkeep ?_, Bool.eq_false_iff.2 fun h => hkeep ?_⟩
    · exact (Tlb.serves_iff.1 h).imp_left .inl
    · exact (Tlb.serves_iff.1 h).imp_left .inr

/-! ## Walks that complete -/

section

variable {s : State} {cl eng asid va : Nat}

theorem State.walk_of_walked {t : State} (h : Walked s t cl) (asid va : Nat) : t.walk asid va = s.walk asid va := by
  rw [State.walk, h.mem, h.mod]
  rfl

/-- The state after the walk has been charged and what it replaces has gone. -/
def State.walkDropped (s : State) (cl eng asid va : Nat) : State :=
  (s.chargeWalk (s.walker cl eng asid) asid va).dropTlb cl eng asid va

theorem State.walkDropped_walked (s : State) (cl eng asid va : Nat) : Walked s (s.walkDropped cl eng asid va) cl :=
  walked_trans (s.chargeWalk_walked _ _ _ cl) (State.dropTlb_walked _ cl eng asid va)

theorem State.pageWalk_leaf {write : Bool} {pte size : Nat} (h : s.walk asid (va56 va) = .leaf pte size)
    (hwr : write = true → fld pte 1 1 = 1) (hpl : leafPlace pte size (va56 va) ≠ none) :
    s.pageWalk cl eng asid va write = (s.walkDropped cl eng asid (va56 va)).remember cl eng asid (va56 va) := by
  obtain ⟨pl, hpl⟩ := Option.ne_none_iff_exists'.1 hpl
  have hnot : (write && decide (fld pte 1 1 = 0)) = false := by
    cases write with
    | false => rfl
    | true => simp [hwr rfl]
  have huse : useLeaf pte size (va56 va) write (levelOfSize size) = .ok pl (size - va56 va % size) := by
    simp only [useLeaf, hnot, hpl, Bool.false_eq_true, if_false]
  simp only [State.pageWalk, h, huse]
  rfl

/-- A walk to a leaf that permits its access fills the TLB. -/
theorem exec_pageWalk_leaf {write : Bool} {pte size : Nat} (h : s.walk asid (va56 va) = .leaf pte size)
    (hwr : write = true → fld pte 1 1 = 1) (hpl : leafPlace pte size (va56 va) ≠ none) :
    Answers (.pageWalk cl eng asid va write) s (fun t =>
      (∃ e, findTlb (t.cluster cl).tlbs eng asid (va56 va) = some e ∧ e.pte = pte ∧ e.size = size) ∧ Walked s t cl) := by
  have hw := s.walkDropped_walked cl eng asid (va56 va)
  have hnone := (s.chargeWalk (s.walker cl eng asid) asid (va56 va)).findTlb_dropTlb cl eng asid (va56 va)
  have hleaf : (s.walkDropped cl eng asid (va56 va)).walk asid (va56 va) = .leaf pte size := (State.walk_of_walked hw _ _).trans h
  refine ⟨_, congrArg Host.Outcome.next (State.pageWalk_leaf h hwr hpl),
    ⟨⟨eng, asid, va56 va / size * size, size, pte⟩, ?_, rfl, rfl⟩,
    walked_trans hw (State.remember_walked _ _ _ _ _)⟩
  rw [← State.walkDropped] at hnone
  simp only [State.remember, hnone, hleaf, State.modCl_cluster_same]
  exact findTlb_fillTlb hnone pte size

/-- A walk that no entry answers and that finds no leaf leaves the TLBs. -/
theorem exec_pageWalk_noLeaf {write : Bool} (hnone : findTlb (s.cluster cl).tlbs eng asid (va56 va) = none)
    (h : ∀ pte size, s.walk asid (va56 va) ≠ .leaf pte size) :
    Answers (.pageWalk cl eng asid va write) s (fun t => Walked s t cl ∧ t.clusters = s.clusters) := by
  have hclusters := s.chargeWalk_clusters (s.walker cl eng asid) asid (va56 va)
  have hnone' : findTlb ((s.chargeWalk (s.walker cl eng asid) asid (va56 va)).cluster cl).tlbs eng asid (va56 va) = none := by
    rw [State.cluster, hclusters]
    exact hnone
  have hdrop : (s.chargeWalk (s.walker cl eng asid) asid (va56 va)).dropTlb cl eng asid (va56 va) =
      s.chargeWalk (s.walker cl eng asid) asid (va56 va) := by
    rw [State.dropTlb, hnone', Option.isNone_none, if_pos rfl]
  have hwalk : s.pageWalk cl eng asid va write = s.chargeWalk (s.walker cl eng asid) asid (va56 va) := by
    rw [State.pageWalk]
    rw [hdrop]
    split
    · exact absurd ‹_› (h _ _)
    · rfl
  exact ⟨_, congrArg Host.Outcome.next hwalk, s.chargeWalk_walked _ _ _ cl, hclusters⟩

theorem State.dropTlb_ctxs (s : State) (cl eng asid va : Nat) : (s.dropTlb cl eng asid va).ctxs = s.ctxs := by
  rw [State.dropTlb]
  split <;> rfl

theorem State.remember_ctxs (s : State) (cl eng asid va : Nat) : (s.remember cl eng asid va).ctxs = s.ctxs := by
  rw [State.remember]
  repeat' split
  all_goals rfl

theorem State.pageWalk_ctxs (s : State) (cl eng asid va : Nat) (write : Bool) :
    (s.pageWalk cl eng asid va write).ctxs = (s.chargeWalk (s.walker cl eng asid) asid (va56 va)).ctxs := by
  rw [State.pageWalk]
  repeat' split
  · rw [State.remember_ctxs, State.dropTlb_ctxs]
  all_goals rw [State.dropTlb_ctxs]

/-- The energy of a walk is that of the context which waits for it (log 53). -/
theorem exec_pageWalk_energy {write : Bool} {h : Nat} (hw : s.walker cl eng asid = some h) (hl : h < 2048) :
    Answers (.pageWalk cl eng asid va write) s (fun t => (t.ctx h).energy = (s.ctx h).energy +
      BitVec.ofNat 64 (SMap.getD (s.auxOf (coreOf h)).weights 12 0 * s.walkReads asid (va56 va))) := by
  refine ⟨_, rfl, ?_⟩
  have hcharge : s.chargeWalk (s.walker cl eng asid) asid (va56 va) = s.charge h 12 (s.walkReads asid (va56 va)) := by
    rw [hw, State.chargeWalk, seatOf, Nat.mod_eq_of_lt hl]
  show (State.ctx _ h).energy = _
  rw [State.ctx, State.pageWalk_ctxs, hcharge]
  exact congrArg Ctx.energy (s.charge_ctx_same h 12 _)

/-! ## Minor faults (R299) -/

/-- A stopped request holds the clock of its core, and its walk is charged. -/
theorem exec_minorFault_holds {hw : Nat} {write : Bool} {q : Stopped} (h : s.findStopped hw eng va write = some q)
    (hnew : ∀ x ∈ (s.core (coreOf hw)).holds, ∀ a l p, x ≠ .fault hw eng a va write l p) :
    Answers (.minorFault hw va write eng) s (fun t =>
      t.core (coreOf hw) = { s.core (coreOf hw) with
        holds := (s.core (coreOf hw)).holds ++ [.fault hw eng q.asid va write q.level q.entry] } ∧
      (∀ k, k ≠ coreOf hw → t.core k = s.core k) ∧ (∀ h, EnergyOnly (s.ctx h) (t.ctx h)) ∧ t.clusters = s.clusters ∧
      t.mem = s.mem ∧ t.mod = s.mod) := by
  have hany : (s.core (coreOf hw)).holds.any (fun h => h.isFault hw eng va write) = false := by
    refine List.any_eq_false.2 fun x hx hf => ?_
    cases x with
    | fault h e a v w l p =>
      simp only [Hold.isFault, Bool.and_eq_true, decide_eq_true_eq] at hf
      obtain ⟨⟨⟨rfl, rfl⟩, rfl⟩, rfl⟩ := hf
      exact hnew _ hx a l p rfl
    | _ => cases hf
  let u := s.setCore (coreOf hw) { s.core (coreOf hw) with
    holds := (s.core (coreOf hw)).holds ++ [.fault hw eng q.asid va write q.level q.entry] }
  have hrun : s.minorFault hw va write eng = u.chargeWalk (some hw) q.asid va := by
    simp only [State.minorFault, h, hany, Bool.false_eq_true, if_false]
    rfl
  have hcharged := u.chargeWalk_onlyCharged (some hw) q.asid va
  refine ⟨u.chargeWalk (some hw) q.asid va, congrArg Host.Outcome.next hrun, ?_, fun k hk => ?_, hcharged.ctxs, ?_, hcharged.mem, ?_⟩
  · rw [State.core, hcharged.cores]
    exact s.setCore_core_same _ _
  · rw [State.core, hcharged.cores]
    exact s.setCore_core_other _ hk
  · rw [State.chargeWalk_clusters]
    rfl
  · exact State.charge_mod _ _ _ _

end

theorem translationEvents : TranslationEvents := by
  intro cl eng asid va write hw s
  refine ⟨fun pte size h hwr hpl => exec_pageWalk_leaf h hwr hpl, fun code level hnone h => exec_pageWalk_noLeaf hnone fun _ _ e => ?_,
    fun level entry hnone h => exec_pageWalk_noLeaf hnone fun _ _ e => ?_, fun h hwalker hl => exec_pageWalk_energy hwalker hl,
    fun q h hnew => exec_minorFault_holds h hnew, fun h => ?_⟩
  · rw [show s.walk asid (va56 va) = .major code level from h] at e
    cases e
  · rw [show s.walk asid (va56 va) = .refill level entry from h] at e
    cases e
  · show Host.Outcome.next (s.minorFault hw va write eng) = _
    rw [State.minorFault, h]

end Sys2Proof.Machine
end

section
/-!
PROOF. The lining (R300 to R302).
-/

namespace Sys2Proof.Machine

open Sys2Proof.Claims

/-! ## The start of a run (R301) -/

section

variable {s : State} {core hw eng asid va level pte : Nat} {w : Bool}

/-- The registers with which the lining starts. -/
theorem lnEntry_fault (old : SMap Word) :
    let ln := lnEntry (.fault hw eng asid va w level pte) old
    SMap.getD ln 0 0 = (0 : Word) ∧ SMap.getD ln 1 0 = BitVec.ofNat 64 va ∧ SMap.getD ln 2 0 = BitVec.ofNat 64 asid ∧
      SMap.getD ln 3 0 = BitVec.ofNat 64 pte ∧
      SMap.getD ln 4 0 = BitVec.ofNat 64 (level % 8 + (if w = true then 8 else 0) + eng % 16 * 16 + hw % 4 * 256) ∧
      ∀ n, 5 ≤ n → SMap.getD ln n (0 : Word) = SMap.getD old n 0 := by
  have hw8 : w.toNat * 8 = if w = true then 8 else 0 := by cases w <;> rfl
  refine ⟨by simp [lnEntry], by simp [lnEntry], by simp [lnEntry], by simp [lnEntry], by simp [lnEntry, hw8], fun n hn => ?_⟩
  have hne (k : Nat) (hk : k < 5) : n ≠ k := by omega
  rw [lnEntry, SMap.getD_put_other _ _ _ (hne 4 (by decide)), SMap.getD_put_other _ _ _ (hne 3 (by decide)),
    SMap.getD_put_other _ _ _ (hne 2 (by decide)), SMap.getD_put_other _ _ _ (hne 1 (by decide)),
    SMap.getD_put_other _ _ _ (hne 0 (by decide))]

/-- A fault that has not come four times in succession before starts the lining. -/
theorem State.liningRun_start {h : Hold} (hh : (s.core core).firstFault = some h) (hrun : (s.auxOf core).lining.run = false)
    (hfew : (s.auxOf core).lining.last ≠ s.holdMark h ∨ (s.auxOf core).lining.times < 4) :
    ∃ n, s.liningRun core = s.modAux core (fun x => { x with
      lining := ⟨lnEntry h (s.auxOf core).lining.ln, 0, true, n, s.holdMark h, (s.auxOf core).lining.writes⟩ }) := by
  refine ⟨if (s.auxOf core).lining.last = s.holdMark h then (s.auxOf core).lining.times + 1 else 1, ?_⟩
  have hn : ¬ 5 ≤ if (s.auxOf core).lining.last = s.holdMark h then (s.auxOf core).lining.times + 1 else 1 := by
    split
    next heq =>
      have := hfew.resolve_left (not_not_intro heq)
      omega
    · decide
  simp only [State.liningRun, hh, hrun, Bool.not_false, if_true, hn, if_false]

/-! ## A bundle of the lining -/

theorem Memory.writeN_eq_hostPut (m : Memory) (a v n : Nat) : m.writeN a v n = hostPut m a (toBytes v n) := by
  induction n generalizing m a v with
  | zero => rfl
  | succ n ih => rw [Memory.writeN, ih]; rfl

/-- The registers after the effects of a bundle. -/
def LnBundle.regsAfter (b : LnBundle) (ln : SMap Word) : SMap Word :=
  b.effs.foldl (fun ln f => match f with
    | .reg d v => SMap.put ln d v
    | _ => ln) ln

/-- HBM after the effects of a bundle. -/
def LnBundle.hbmAfter (b : LnBundle) (m : Memory) : Memory :=
  b.effs.foldl (fun m f => match f with
    | .store a n v => m.writeN a v n
    | _ => m) m

/-- What a bundle of the lining changes. -/
structure LnStep (s t : State) (core : Nat) (b : LnBundle) : Prop where
  lining : (t.auxOf core).lining = { (s.auxOf core).lining with pc := b.next, ln := b.regsAfter (s.auxOf core).lining.ln }
  mem : t.mem = { s.mem with hbm := b.hbmAfter s.mem.hbm }
  ctxs : ∀ h, EnergyOnly (s.ctx h) (t.ctx h)
  cores : t.cores = s.cores
  mod : t.mod = s.mod

theorem State.lnCommit_step (s : State) (core hw : Nat) (b : LnBundle) : LnStep s (s.lnCommit core hw b) core b := by
  have hc := s.charge_onlyCharged (seatOf hw) 12 b.mem
  have haux := s.charge_auxOf (seatOf hw) 12 b.mem core
  refine ⟨?_, ?_, hc.ctxs, hc.cores, s.charge_mod _ _ _⟩
  · rw [State.lnCommit, State.modAux_auxOf_same, ← haux]
    rfl
  · rw [State.lnCommit, ← hc.mem]
    rfl

/-- A bundle that does not return runs. -/
theorem State.liningRun_bundle {h : Hold} {b : LnBundle} (hh : (s.core core).firstFault = some h)
    (hrun : (s.auxOf core).lining.run = true) (hb : s.lnBundle core (h.key.headD 0) = some b) (hret : b.ret = false) :
    s.liningRun core = s.lnCommit core (h.key.headD 0) b := by
  simp only [State.liningRun, hh, hrun, hb, hret, Bool.not_true, Bool.false_eq_true, if_false]

/-! ## What leaves holds and the lining alone -/

/-- Every core has its holds, and its lining, as before. -/
structure KeepsHolds (s t : State) : Prop where
  aux : t.aux = s.aux
  holds : ∀ k, (t.core k).holds = (s.core k).holds

theorem keepsHolds_trans {s t u : State} (h : KeepsHolds s t) (h' : KeepsHolds t u) : KeepsHolds s u :=
  ⟨h'.aux.trans h.aux, fun k => (h'.holds k).trans (h.holds k)⟩

/-- Where neither cores nor their linings change. -/
theorem keepsHolds_of_cores {s t : State} (ha : t.aux = s.aux) (hc : t.cores = s.cores) : KeepsHolds s t :=
  ⟨ha, fun k => by rw [State.core, hc]; rfl⟩

theorem State.modCore_keepsHolds (s : State) (n : Nat) {f : Core → Core} (hf : ∀ k, (f k).holds = k.holds) :
    KeepsHolds s (s.modCore n f) := by
  refine ⟨rfl, fun k => ?_⟩
  by_cases hk : k = n
  · rw [hk, State.modCore_core_same, hf]
  · rw [State.modCore_core_other _ _ hk]

theorem State.raise_keepsHolds (s : State) (hw : Nat) (a : Async) : KeepsHolds s (s.raise hw a) := by
  obtain ⟨h, -⟩ | ⟨r, h, -⟩ := s.raise_cases hw a <;> rw [h] <;> exact keepsHolds_of_cores rfl rfl

theorem keepsHolds_raise {s t : State} (h : KeepsHolds s t) (hw : Nat) (a : Async) : KeepsHolds s (t.raise hw a) :=
  keepsHolds_trans h (t.raise_keepsHolds hw a)

theorem State.cmdStop_keepsHolds (s : State) (hw id : Nat) (a : Async) : KeepsHolds s (s.cmdStop hw id a) := by
  rw [State.cmdStop]
  split
  · exact keepsHolds_of_cores rfl rfl
  · refine keepsHolds_raise ?_ hw a
    exact keepsHolds_of_cores rfl rfl

theorem State.slotFault_keepsHolds (s : State) (cl n : Nat) (f : SFault) : KeepsHolds s (s.slotFault cl n f) := by
  rw [State.slotFault]
  split
  · exact keepsHolds_of_cores rfl rfl
  · refine keepsHolds_raise ?_ _ _
    exact keepsHolds_of_cores rfl rfl

theorem State.saveFail_keepsHolds (s : State) (hw code va engine level : Nat) : KeepsHolds s (s.saveFail hw code va engine level) := by
  have hcore := s.modCore_keepsHolds (coreOf hw) (f := fun k => { k with
    imgs := k.imgs.filter (fun j => !(decide (j.hw = hw) && decide (j.why = 2))) }) fun _ => rfl
  rw [State.saveFail]
  refine keepsHolds_raise (keepsHolds_trans hcore ?_) _ _
  exact keepsHolds_of_cores rfl rfl

/-- A request that ends in its major fault leaves every hold of its core, and the lining (R302). -/
theorem State.failReq_keepsHolds (s : State) (hw : Nat) (q : Stopped) (code : Nat) : KeepsHolds s (s.failReq hw q code) := by
  have hrefl : KeepsHolds s s := ⟨rfl, fun _ => rfl⟩
  unfold State.failReq
  cases q.req with
  | cmd id => exact s.cmdStop_keepsHolds _ _ _
  | slot n => exact s.slotFault_keepsHolds _ _ _
  | image =>
    dsimp only
    split
    · split
      · exact s.saveFail_keepsHolds _ _ _ _ _
      · refine keepsHolds_raise ?_ _ _
        exact s.modCore_keepsHolds _ fun _ => rfl
    · exact hrefl
  | seg k =>
    refine keepsHolds_raise ?_ _ _
    exact s.modCore_keepsHolds _ fun _ => rfl
  | resume =>
    dsimp only
    split
    · refine keepsHolds_raise ?_ _ _
      exact s.modCore_keepsHolds _ fun _ => rfl
    · exact hrefl
  | save => exact s.saveFail_keepsHolds _ _ _ _ _
  | restore =>
    refine keepsHolds_raise ?_ _ _
    exact keepsHolds_of_cores rfl rfl
  | preload => exact keepsHolds_raise hrefl _ _
  | eret => exact keepsHolds_raise hrefl _ _

/-! ## The end of a run (R302) -/

theorem State.lnStop_run (s : State) (core : Nat) : ((s.lnStop core).auxOf core).lining.run = false := by
  rw [State.lnStop, State.modAux_auxOf_same]

theorem State.lnStop_mem (h : (s.auxOf core).lining.writes = []) : (s.lnStop core).mem = s.mem := by
  rw [State.lnStop, h]
  rfl

/-- The only hold of a core has gone. -/
theorem State.dropHold_only {h : Hold} (hh : (s.core core).holds = [h]) : ((s.dropHold core h).core core).holds = [] := by
  rw [State.dropHold, State.modCore_core_same, hh, dropFirst, if_pos (decide_eq_true rfl)]

/-- An escalation ends the only hold of a core and its lining's run. -/
theorem State.escalate_only (hh : (s.core core).holds = [.fault hw eng asid va w level pte]) (code : Nat) :
    ((s.escalate core (.fault hw eng asid va w level pte) code).core core).holds = [] ∧
      ((s.escalate core (.fault hw eng asid va w level pte) code).auxOf core).lining.run = false := by
  let v := (s.lnStop core).modAux core (fun x => { x with lining := { x.lining with times := 0, last := [] } })
  let u := v.dropHold core (.fault hw eng asid va w level pte)
  have huh : (u.core core).holds = [] := State.dropHold_only hh
  have hur : (u.auxOf core).lining.run = false := by
    show (v.auxOf core).lining.run = false
    rw [State.modAux_auxOf_same]
    exact s.lnStop_run core
  rw [State.escalate]
  dsimp only
  split
  next q _ =>
    have hk := u.failReq_keepsHolds hw q code
    exact ⟨(hk.holds core).trans huh, by rw [State.auxOf, hk.aux]; exact hur⟩
  · exact ⟨huh, hur⟩

/-- What the walk of the request after the lining's run leaves. -/
theorem State.rewalk_only (hh : (s.core core).holds = [.fault hw eng asid va w level pte]) :
    let t := s.rewalk core (.fault hw eng asid va w level pte)
    t.aux = s.aux ∧ t.mem = s.mem ∧ (∀ h, EnergyOnly (s.ctx h) (t.ctx h)) ∧
      ((t.core core).holds = [] ∨ ∃ l' p', (t.core core).holds = [.fault hw eng asid va w l' p']) := by
  rw [State.rewalk]
  dsimp only
  split
  · exact ⟨rfl, rfl, fun _ => rfl, .inl (State.dropHold_only hh)⟩
  next q _ =>
    have hc := State.chargeWalk_onlyCharged (s.modCore core (fun k => { k with holds := k.holds.map (fun x =>
      if x = .fault hw eng asid va w level pte then .fault hw eng asid va w q.level q.entry else x) })) (some hw) asid va
    refine ⟨State.charge_aux _ _ _ _, hc.mem, hc.ctxs, .inr ⟨q.level, q.entry, ?_⟩⟩
    rw [State.core, hc.cores]
    show ((s.modCore core _).core core).holds = _
    rw [State.modCore_core_same, hh, List.map_cons, if_pos rfl, List.map_nil]

/-- A bundle that returns ends the run with the verdict of register 0. -/
theorem State.liningEnd_return {h : Hold} {b : LnBundle} (hh : (s.core core).firstFault = some h)
    (hrun : (s.auxOf core).lining.run = true) (hb : s.lnBundle core (h.key.headD 0) = some b) (hret : b.ret = true) :
    s.liningEnd core = if SMap.getD (b.regsAfter (s.auxOf core).lining.ln) 0 0 = 0 then
        ((s.lnCommit core (h.key.headD 0) b).lnStop core).rewalk core h
      else (s.lnCommit core (h.key.headD 0) b).escalate core h
        (if SMap.getD (b.regsAfter (s.auxOf core).lining.ln) 0 0 = 7 then 7 else 8) := by
  have hln := congrArg Lining.ln (s.lnCommit_step core (h.key.headD 0) b).lining
  simp only [State.liningEnd, hh, hrun, hb, hret, Bool.not_true, Bool.false_eq_true, if_false, hln]

end

/-! ## The obligation -/

theorem liningRun_bundle_effects {s t : State} {core : Nat} {b : LnBundle} (h : LnStep s t core b) :
    (∀ d v, b.effs = [.reg d v] → SMap.getD (t.auxOf core).lining.ln d 0 = v ∧
      (∀ n, n ≠ d → SMap.getD (t.auxOf core).lining.ln n (0 : Word) = SMap.getD (s.auxOf core).lining.ln n 0) ∧ t.mem = s.mem) ∧
    (∀ a n v, s.mem.hbm.wf = true → b.effs = [.store a n v] → (t.auxOf core).lining.ln = (s.auxOf core).lining.ln ∧
      (∀ k, k < n → t.mem.hbm.read (a + k) = BitVec.ofNat 8 (v / 256 ^ k)) ∧
      (∀ x, x < a ∨ a + n ≤ x → t.mem.hbm.read x = s.mem.hbm.read x)) := by
  have hln := congrArg Lining.ln h.lining
  refine ⟨fun d v he => ?_, fun a n v hwf he => ?_⟩
  · have hregs : b.regsAfter (s.auxOf core).lining.ln = SMap.put (s.auxOf core).lining.ln d v := by rw [LnBundle.regsAfter, he]; rfl
    have hhbm : b.hbmAfter s.mem.hbm = s.mem.hbm := by rw [LnBundle.hbmAfter, he]; rfl
    rw [hln, hregs, h.mem, hhbm]
    exact ⟨SMap.getD_put_same _ _ _ _, fun n hn => SMap.getD_put_other _ _ _ hn, rfl⟩
  · have hregs : b.regsAfter (s.auxOf core).lining.ln = (s.auxOf core).lining.ln := by rw [LnBundle.regsAfter, he]; rfl
    have hhbm : b.hbmAfter s.mem.hbm = hostPut s.mem.hbm a (toBytes v n) := by
      rw [LnBundle.hbmAfter, he, ← Memory.writeN_eq_hostPut]
      rfl
    rw [hln, hregs, h.mem, hhbm]
    refine ⟨rfl, fun k hk => ?_, fun x hx => read_hostPut_other _ hwf (by simpa using hx)⟩
    have hlen : k < (toBytes v n).length := by simpa using hk
    rw [read_hostPut_same hwf hlen, toBytes_getElem v hlen]

/-- The bundle that returns changes neither registers nor memory; its run ends, and the only hold goes or walks again. -/
theorem liningEnd_only {s u t : State} {core hw eng asid va level pte n m : Nat} {w : Bool} {h : Hold}
    (heq : h = .fault hw eng asid va w level pte) (hstep : LnStep s u core ⟨[.eret], n, true, m⟩)
    (hwrites : (s.auxOf core).lining.writes = []) (hh : (s.core core).holds = [h]) (ht : (u.lnStop core).rewalk core h = t) :
    (t.auxOf core).lining.run = false ∧ (∀ k, EnergyOnly (s.ctx k) (t.ctx k)) ∧ t.mem = s.mem ∧
      ((t.core core).holds = [] ∨ ∃ l' p', (t.core core).holds = [.fault hw eng asid va w l' p']) := by
  subst heq ht
  have hmem : u.mem = s.mem := hstep.mem
  have huholds : (u.core core).holds = [.fault hw eng asid va w level pte] := by rw [State.core, hstep.cores]; exact hh
  have huwrites : (u.auxOf core).lining.writes = [] := by rw [hstep.lining]; exact hwrites
  obtain ⟨haux, hmem', hctxs, hend⟩ := State.rewalk_only (s := u.lnStop core) (core := core) huholds
  refine ⟨?_, fun k => energyOnly_trans (hstep.ctxs k) (hctxs k), ?_, hend⟩
  · rw [State.auxOf, haux]
    exact u.lnStop_run core
  · rw [hmem', State.lnStop_mem huwrites, hmem]

theorem liningEvents : LiningEvents := by
  intro core hw eng asid va level pte w s h l hh
  refine ⟨fun hrun hfew => ?_, fun b hrun hb hret => ?_, fun n m hrun hb hwrites hholds => ?_⟩
  · obtain ⟨k, hstart⟩ := State.liningRun_start hh hrun hfew
    obtain ⟨h0, h1, h2, h3, h4, h5⟩ := lnEntry_fault (hw := hw) (eng := eng) (asid := asid) (va := va) (level := level) (pte := pte)
      (w := w) l.ln
    refine ⟨_, congrArg Host.Outcome.next hstart, ?_⟩
    dsimp only
    rw [State.modAux_auxOf_same]
    exact ⟨rfl, rfl, h0, h1, h2, h3, h4, h5, rfl, rfl, rfl, rfl⟩
  · have hstep := s.lnCommit_step core (h.key.headD 0) b
    obtain ⟨hreg, hstore⟩ := liningRun_bundle_effects hstep
    exact ⟨_, congrArg Host.Outcome.next (State.liningRun_bundle hh hrun hb hret), by rw [hstep.lining], by rw [hstep.lining]; exact hrun,
      hreg, hstore, hstep.ctxs, hstep.cores, hstep.mod⟩
  · have hstep := s.lnCommit_step core (h.key.headD 0) ⟨[.eret], n, true, m⟩
    have hret := State.liningEnd_return hh hrun hb rfl
    refine ⟨s.liningEnd core, rfl, ?_⟩
    generalize s.lnCommit core (h.key.headD 0) ⟨[.eret], n, true, m⟩ = u at hstep hret
    by_cases hv : SMap.getD l.ln 0 (0 : Word) = 0
    · obtain ⟨hrun', hctxs, hmem, hend⟩ := liningEnd_only rfl hstep hwrites hholds (hret.trans (if_pos hv)).symm
      exact ⟨hrun', fun _ => ⟨hctxs, hmem, hend⟩, fun hne => absurd hv hne⟩
    · have huholds : (u.core core).holds = [h] := by rw [State.core, hstep.cores]; exact hholds
      obtain ⟨hnone, hstop⟩ := State.escalate_only huholds
        (if SMap.getD l.ln 0 (0 : Word) = 7 then 7 else 8)
      rw [hret.trans (if_neg hv)]
      exact ⟨hstop, fun h0 => absurd h0 hv, fun _ => hnone⟩

/-- Settles O41: a leaf's entries stand last in the TLBs, so trimming leaves them; a lining's bundle changes registers, HBM and nothing
else; and neither the walk nor the escalation that ends a run adds a hold. -/
theorem translationLiningEvents : Obligations.TranslationLiningEvents := ⟨translationEvents, liningEvents⟩

end Sys2Proof.Machine
end

section
/-!
PROOF. Major faults of engines (R75, R183, R253, R291, R293, R303).
-/

namespace Sys2Proof.Machine

open Sys2Proof.Claims

/-! ## A major fault becomes a pending trap (R291) -/

/-- What a change of energy leaves alone, a failed walk leaves alone. -/
theorem State.chargeFailed_unchanged {β : Type} (f : State → β)
    (hf : ∀ s hw e, f (State.modCtx s hw (fun c => { c with energy := c.energy + e })) = f s) (s : State) (hw asid va level : Nat) :
    f (s.chargeFailed hw asid va level) = f s := by
  unfold State.chargeFailed
  split
  · rfl
  · exact State.charge_unchanged f hf s _ _ _

theorem State.chargeFailed_onlyCharged (s : State) (hw asid va level : Nat) : OnlyCharged s (s.chargeFailed hw asid va level) := by
  unfold State.chargeFailed
  split
  · exact OnlyCharged.refl s
  · exact s.chargeWalk_onlyCharged _ _ _

theorem State.chargeFailed_rest (s : State) (hw asid va level : Nat) : RestSame s (s.chargeFailed hw asid va level) :=
  ⟨State.chargeFailed_unchanged State.mod (fun _ _ _ => rfl) .., State.chargeFailed_unchanged State.front (fun _ _ _ => rfl) ..,
    State.chargeFailed_unchanged State.clusters (fun _ _ _ => rfl) .., State.chargeFailed_unchanged State.cores (fun _ _ _ => rfl) ..,
    State.chargeFailed_unchanged State.aux (fun _ _ _ => rfl) .., State.chargeFailed_unchanged State.agenda (fun _ _ _ => rfl) ..,
    State.chargeFailed_unchanged State.oldBytes (fun _ _ _ => rfl) .., State.chargeFailed_unchanged State.shared (fun _ _ _ => rfl) ..⟩

/-- What neither depends on the energy counter of a context is as before. -/
theorem OnlyCharged.keeps {s t : State} (h : OnlyCharged s t) {β : Type} (f : Ctx → β)
    (hf : ∀ (c : Ctx) e, f { c with energy := e } = f c) (k : Nat) : f (t.ctx k) = f (s.ctx k) := by
  rw [h.ctxs k, hf]

/-- A context that has not ended records a trap. -/
theorem State.raise_active {s : State} {hw : Nat} (h : (s.ctx hw).run.st ≠ .inactive) (a : Async) :
    ∃ r, s.raise hw a = s.setCtx hw { s.ctx hw with async := (s.ctx hw).async ++ [a], run := r } := by
  obtain ⟨-, hst⟩ | ⟨r, he, -⟩ := s.raise_cases hw a
  · exact absurd hst h
  · exact ⟨r, he⟩

/-- A major trap more is a new major fault. -/
theorem State.newMajor_of_append {s t : State} {hw : Nat} {a : Async} (ha : a.major = true)
    (h : (t.ctx hw).async = (s.ctx hw).async ++ [a]) : s.newMajor t hw = true := by
  have hlt : s.majors hw < t.majors hw := by
    rw [State.majors, State.majors, h, List.filter_append, List.length_append, List.filter_cons_of_pos (by simpa using ha)]
    simp
  rw [State.newMajor, decide_eq_true hlt, Bool.true_or]

/-! ## Preloads (R253) -/

section

variable {s : State} {hw k d va code level : Nat}

/-- A preload of a context with a pending fault of its preload stands still. -/
theorem State.preloadLines_stopped (h : (s.ctx hw).async.any (fun a => decide (a.engine = 8)) = true) (n : Nat) :
    s.preloadLines hw n = s := by
  have hline : s.preloadLine hw = s := by
    rw [State.preloadLine]
    dsimp only
    split
    · rw [h, Bool.true_or, if_pos rfl]
    · rfl
  induction n with
  | zero => rfl
  | succ n ih => rw [State.preloadLines, hline, ih]

/-- A fault of its preload wakes a context (R253). -/
theorem State.raise_preload {s : State} (hst : (s.ctx hw).run.st = .waiting) (hstage : (s.ctx hw).run.stage = .preload k) {a : Async}
    (ha : a.engine = 8) :
    s.raise hw a = s.modCtx hw (fun c => { c with async := c.async ++ [a], run := { c.run with st := .ready } }) := by
  simp [State.raise, State.modCtx, hst, hstage, ha]

/-- The line of a preload that meets a major fault wakes its context with the trap. -/
theorem State.preloadLine_major (hst : (s.ctx hw).run.st = .waiting) (hstage : (s.ctx hw).run.stage = .preload k)
    (hrec : (s.ctx hw).run.curRec = some d) (htrap : (s.ctx hw).run.trap = false) (hnew : ∀ a ∈ (s.ctx hw).async, a.engine ≠ 8)
    (htr : s.translate (clusterOf hw) 8 (s.ctx hw).ctl.asid.toNat false 2 (fld d 384 64 + 64 * k) 64 = .error (.major va code level)) :
    s.preloadLine hw = (s.chargeFailed hw (s.ctx hw).ctl.asid.toNat va level).modCtx hw (fun c => { c with
      async := c.async ++ [engineTrap code va 0 8 level], run := { c.run with st := .ready } }) := by
  have hany : (s.ctx hw).async.any (fun a => decide (a.engine = 8)) = false := List.any_eq_false.2 fun a ha => by simpa using hnew a ha
  have hrun : ((s.chargeFailed hw (s.ctx hw).ctl.asid.toNat va level).ctx hw).run = (s.ctx hw).run :=
    (s.chargeFailed_onlyCharged _ _ _ _).keeps (fun c => c.run) (fun _ _ => rfl) hw
  have htr' : s.translate (clusterOf hw) 8 (s.ctx hw).ctl.asid.toNat false 2 (recPsrc d + 64 * k) 64 = .error (.major va code level) := htr
  rw [State.preloadLine]
  simp only [hstage, hrec, hany, htrap, htr', Bool.or_self, Bool.false_eq_true, if_false]
  exact State.raise_preload (by rw [hrun, hst]) (by rw [hrun, hstage]) rfl

theorem exec_preload_major (hst : (s.ctx hw).run.st = .waiting) (hstage : (s.ctx hw).run.stage = .preload k)
    (hrec : (s.ctx hw).run.curRec = some d) (htrap : (s.ctx hw).run.trap = false) (hnew : ∀ a ∈ (s.ctx hw).async, a.engine ≠ 8)
    (htr : s.translate (clusterOf hw) 8 (s.ctx hw).ctl.asid.toNat false 2 (fld d 384 64 + 64 * k) 64 = .error (.major va code level))
    (n : Nat) :
    Answers (.engineMajorFault (.preload hw (n + 1))) s (fun t =>
      EnergyOnly { s.ctx hw with
        async := (s.ctx hw).async ++ [engineTrap code va 0 8 level]
        run := { (s.ctx hw).run with st := .ready } } (t.ctx hw) ∧
      (∀ k, k ≠ hw → EnergyOnly (s.ctx k) (t.ctx k)) ∧ RestSame s t ∧ t.mem = s.mem) := by
  have hc := s.chargeFailed_onlyCharged hw (s.ctx hw).ctl.asid.toNat va level
  have hr := s.chargeFailed_rest hw (s.ctx hw).ctl.asid.toNat va level
  have hline := State.preloadLine_major hst hstage hrec htrap hnew htr
  have hctx : (s.preloadLine hw).ctx hw = { (s.chargeFailed hw (s.ctx hw).ctl.asid.toNat va level).ctx hw with
      async := (s.ctx hw).async ++ [engineTrap code va 0 8 level], run := { (s.ctx hw).run with st := .ready } } := by
    rw [hline, State.modCtx_ctx_same, hc.keeps (fun c => c.async) (fun _ _ => rfl), hc.keeps (fun c => c.run) (fun _ _ => rfl)]
  have hasync : ((s.preloadLine hw).ctx hw).async = (s.ctx hw).async ++ [engineTrap code va 0 8 level] := by rw [hctx]
  have hact : s.engineAct (.preload hw (n + 1)) = s.preloadLine hw :=
    State.preloadLines_stopped (by rw [hasync, List.any_append]; simp [engineTrap]) n
  have hmajor : s.newMajor (s.preloadLine hw) hw = true := State.newMajor_of_append rfl hasync
  refine ⟨s.preloadLine hw, ?_, ?_, fun k hk => ?_, ?_, ?_⟩
  · show Host.Outcome.next (s.engineFault (.preload hw (n + 1))) = _
    have hfault : s.engineFault (.preload hw (n + 1)) =
        if s.newMajor (s.engineAct (.preload hw (n + 1))) hw = true then s.engineAct (.preload hw (n + 1)) else s := rfl
    rw [hfault, hact, hmajor, if_pos rfl]
  · rw [hctx, hc.ctxs hw]
    rfl
  · rw [hline, State.modCtx_ctx_other _ _ hk]
    exact hc.ctxs k
  · rw [hline]
    exact ⟨hr.mod, hr.front, hr.clusters, hr.cores, hr.aux, hr.agenda, hr.oldBytes, hr.shared⟩
  · rw [hline]
    exact hc.mem

end

/-! ## Copies (R75) -/

section

variable {s : State} {cl n : Nat} {nest : Nest} {cmd va code level : Nat}

/-- The state in which a slot has stopped, without its owner's trap. -/
def State.slotStopped (s : State) (cl n cmd va level : Nat) : State :=
  (s.chargeFailed (s.slot cl n).owner (s.nestAsid (s.slot cl n) cmd) va level).setSlot cl n
    { s.slot cl n with st := 2, fault := true, walk := false }

/-- An emission that meets a major fault stops its slot and records the trap of its owner. -/
theorem State.emitWalked_major (h : Emits s cl n nest cmd)
    (hp : s.slotPieces cl n (s.slot cl n) nest cmd = .error (.major va code level)) :
    s.emitWalked cl n = (s.slotStopped cl n cmd va level).raise (s.slot cl n).owner (engineTrap code va (s.slot cl n).handle 1 level) := by
  have hslot : (s.chargeFailed (s.slot cl n).owner (s.nestAsid (s.slot cl n) cmd) va level).slot cl n = s.slot cl n :=
    State.slot_eq_of_clusters (s.chargeFailed_rest _ _ _ _).clusters cl n
  rw [State.emitWalked]
  simp only [h.act, emits_canEmit h, emits_saving h, hp, Bool.not_true, Bool.or_self, Bool.false_eq_true, if_false]
  rw [State.slotFault, hslot, if_neg (by simp [h.plain])]
  rfl

/-- What has become of a slot that has stopped, and of its owner. -/
theorem State.emitWalked_stops (h : Emits s cl n nest cmd)
    (hp : s.slotPieces cl n (s.slot cl n) nest cmd = .error (.major va code level))
    (hact : (s.ctx (s.slot cl n).owner).run.st ≠ .inactive) :
    (s.emitWalked cl n).slot cl n = { s.slot cl n with st := 2, fault := true, walk := false } ∧
      ((s.emitWalked cl n).ctx (s.slot cl n).owner).async =
        (s.ctx (s.slot cl n).owner).async ++ [engineTrap code va (s.slot cl n).handle 1 level] ∧
      ((s.emitWalked cl n).ctx (s.slot cl n).owner).regs = (s.ctx (s.slot cl n).owner).regs ∧
      (∀ k, k ≠ (s.slot cl n).owner → EnergyOnly (s.ctx k) ((s.emitWalked cl n).ctx k)) ∧ (s.emitWalked cl n).mem = s.mem ∧
      (s.emitWalked cl n).cores = s.cores := by
  have hc : OnlyCharged s (s.slotStopped cl n cmd va level) := by
    have hf := s.chargeFailed_onlyCharged (s.slot cl n).owner (s.nestAsid (s.slot cl n) cmd) va level
    exact ⟨hf.cores, hf.mem, hf.ctxs⟩
  have hrun := hc.keeps (fun c => c.run) (fun _ _ => rfl) (s.slot cl n).owner
  obtain ⟨r, hr⟩ := State.raise_active (s := s.slotStopped cl n cmd va level) (hw := (s.slot cl n).owner) (by rw [hrun]; exact hact)
    (engineTrap code va (s.slot cl n).handle 1 level)
  rw [State.emitWalked_major h hp, hr]
  refine ⟨?_, ?_, ?_, fun k hk => ?_, hc.mem, hc.cores⟩
  · exact State.setSlot_slot_same _
  · rw [State.setCtx_ctx_same, hc.keeps (fun c => c.async) (fun _ _ => rfl)]
  · rw [State.setCtx_ctx_same, hc.keeps (fun c => c.regs) (fun _ _ => rfl)]
  · rw [State.setCtx_ctx_other _ _ hk]
    exact hc.ctxs k

theorem State.slotStops_major (h : Emits s cl n nest cmd)
    (hp : s.slotPieces cl n (s.slot cl n) nest cmd = .error (.major va code level))
    (hact : (s.ctx (s.slot cl n).owner).run.st ≠ .inactive) : s.slotStops (s.emitWalked cl n) cl n = true := by
  rw [State.slotStops, (State.emitWalked_stops h hp hact).1, h.fault]
  rfl

/-- A slot whose walk has come back meets the major fault instead of emitting. -/
theorem exec_emit_major (h : Emits s cl n nest cmd)
    (hp : s.slotPieces cl n (s.slot cl n) nest cmd = .error (.major va code level))
    (hact : (s.ctx (s.slot cl n).owner).run.st ≠ .inactive) (hwalk : (s.slot cl n).walk = true) :
    exec (.elementaryCopyEmit cl n) s = .next s := by
  have hemit : s.emitCopy cl n = s.emitWalked cl n := by
    rw [State.emitCopy]
    simp only [h.act, emits_canEmit h, emits_saving h, hwalk, Bool.not_true, Bool.or_self, Bool.false_and, Bool.false_eq_true, if_false]
  show Host.Outcome.next (s.emitNext cl n) = _
  rw [State.emitNext, hemit]
  simp only [State.slotStops_major h hp hact, if_true]

end

/-! ## Faults of streams (R183, R303) -/

/-- A change of a cluster that leaves its slots. -/
theorem State.modCl_slot (s : State) (k cl n : Nat) {f : Cluster → Cluster} (hf : ∀ c, (f c).slots = c.slots) :
    (s.modCl k f).slot cl n = s.slot cl n := by
  by_cases hk : cl = k
  · rw [State.slot, hk, State.modCl_cluster_same, hf]
    rfl
  · rw [State.slot, State.modCl_cluster_other _ _ hk]
    rfl

theorem State.writeMute_clusters (s : State) (ps : List Piece) (bs : List Byte) : (s.writeMute ps bs).clusters = s.clusters := by
  have hquiet (t : State) (cells : List (Nat × Byte)) (skip : Option (Nat × Nat)) : (t.spadQuiet cells skip).1 = t.portWrite cells := by
    unfold State.spadQuiet
    split <;> rfl
  have hplace (t : State) (x : Place × Byte) : (t.writePlace x.1 x.2).clusters = t.clusters := by
    unfold State.writePlace
    repeat' split
    all_goals rfl
  rw [State.writeMute, State.writeQuiet]
  rw [hquiet, State.portWrite_unchanged State.clusters (fun _ _ _ _ => rfl) (fun _ _ _ => rfl) (fun _ _ => rfl),
    foldl_unchanged State.clusters hplace]

/-- A trace record changes no slot. -/
theorem State.trace_slot (s : State) (hw kind bundle rep : Nat) (cand : Bool) (cl n : Nat) :
    (s.trace hw kind bundle rep cand).slot cl n = s.slot cl n := by
  unfold State.trace
  dsimp only
  generalize (if kind = 0 then decide ((s.ctx hw).dbg.trace = 2) else decide (1 ≤ (s.ctx hw).dbg.trace)) = on
  split
  · rfl
  split
  · exact State.modCl_slot _ _ _ _ fun _ => rfl
  split
  · exact State.modCl_slot _ _ _ _ fun _ => rfl
  · rw [State.modCl_slot]
    · refine State.slot_eq_of_clusters ?_ cl n
      rw [State.charge_clusters, State.chargePieces_unchanged State.clusters (fun _ _ _ => rfl) (fun _ _ _ => rfl),
        State.writeMute_clusters]
    · exact fun _ => rfl

/-- What changes of pending results, engines, products, image jobs and the stage of a context leave alone, the cut of a major fault leaves
alone (R303). -/
theorem State.majorCut_unchanged {β : Type} (f : State → β)
    (hfresh : ∀ s n, f { s with front := { s.front with nextId := n } } = f s)
    (hctx : ∀ s hw (p : Ctx → Pending) (e : Ctx → Eng), f (State.modCtx s hw (fun c => { c with pend := p c, eng := e c })) = f s)
    (hcore : ∀ s core (p : Core → List Prod) (i : Core → List ImgJob),
      f (State.modCore s core (fun k => { k with prods := p k, imgs := i k })) = f s)
    (hrun : ∀ s hw st stage cuts base,
      f (State.modCtx s hw (fun c => { c with run := { c.run with st := st, stage := stage, cuts := cuts, cutBase := base } })) = f s)
    (s : State) (hw : Nat) (stream : Bool) : f (s.majorCut hw stream) = f s := by
  have hcut (s : State) (p : Prod) (c : Cut) (d : Option Nat) (tok : Nat) : f (s.cutOne p c d tok) = f s := by
    rw [State.cutOne]
    rw [hcore, hctx]
  have hproducts (s : State) (fault stream : Bool) (why : Nat) (base : Word) (tok grp : Nat) :
      f (s.cutProducts hw fault stream why base tok grp) = f s := by
    rw [State.cutProducts]
    rw [foldl_unchanged f fun _ _ => hcut _ _ _ _ _]
  rw [State.majorCut]
  dsimp only [State.fresh]
  split
  · rw [hproducts, hfresh]
  · rw [hrun, hproducts, hfresh]

section

variable {s : State} {hw : Nat}

/-- A context has entered its trap routine; the trap is not yet traced (R289). -/
def State.trapEntered (s : State) (hw : Nat) (t : TrapInfo) (tb : Nat) : State :=
  ((((s.setCtx hw ((s.ctx hw).enterTrap t tb)).dropAsks hw).leaveBars hw).modCore (coreOf hw) (fun k => { k with
    xfers := k.xfers.map (fun x => if x.hw = hw then { x with frozen := true } else x)
    resumes := k.resumes.filter (fun x => decide (x.hw ≠ hw)) })).leavePrimary hw

theorem State.trapEntered_ctx (s : State) (hw : Nat) (t : TrapInfo) (tb : Nat) :
    (s.trapEntered hw t tb).ctx hw = (s.ctx hw).enterTrap t tb := s.setCtx_ctx_same hw _

theorem State.trapEntered_slot (s : State) (hw : Nat) (t : TrapInfo) (tb cl n : Nat) :
    (s.trapEntered hw t tb).slot cl n = s.slot cl n := by
  show (((s.setCtx hw ((s.ctx hw).enterTrap t tb)).dropAsks hw).leaveBars hw).slot cl n = _
  rw [State.leaveBars, State.modCl_slot]
  · rfl
  · exact fun _ => rfl

theorem State.takeTrap_async {t : TrapInfo} (h : t.async = true) (tb : Nat) :
    s.takeTrap hw t tb = (s.trapEntered hw t tb).trace hw 2 tb (s.ctx hw).frame.rep s.cur.cand := by
  rw [State.takeTrap, h, Bool.not_true, Bool.and_false, if_neg Bool.false_ne_true]
  rfl

/-- What neither the cut of a major fault nor a trace record changes, a trap taken leaves as the trap routine finds it. -/
theorem State.trapWith_unchanged {β : Type} (f : State → β)
    (hfresh : ∀ s n, f { s with front := { s.front with nextId := n } } = f s)
    (hctx : ∀ s hw (p : Ctx → Pending) (e : Ctx → Eng), f (State.modCtx s hw (fun c => { c with pend := p c, eng := e c })) = f s)
    (hcore : ∀ s core (p : Core → List Prod) (i : Core → List ImgJob),
      f (State.modCore s core (fun k => { k with prods := p k, imgs := i k })) = f s)
    (hrun : ∀ s hw st stage cuts base,
      f (State.modCtx s hw (fun c => { c with run := { c.run with st := st, stage := stage, cuts := cuts, cutBase := base } })) = f s)
    {t : TrapInfo} (h : t.async = true) (tb : Nat)
    (htrace : f ((s.trapEntered hw t tb).trace hw 2 tb (s.ctx hw).frame.rep s.cur.cand) = f (s.trapEntered hw t tb)) :
    f (s.trapWith hw t tb) = f (s.trapEntered hw t tb) := by
  rw [State.trapWith]
  rw [State.takeTrap_async h]
  split
  · rw [State.majorCut_unchanged f hfresh hctx hcore hrun, htrace]
  · exact htrace

/-- A trap changes no slot. -/
theorem State.trapWith_slot {t : TrapInfo} (h : t.async = true) (tb cl n : Nat) : (s.trapWith hw t tb).slot cl n = s.slot cl n :=
  (State.trapWith_unchanged (fun s => s.slot cl n) (fun _ _ => rfl) (fun _ _ _ _ => rfl) (fun _ _ _ _ => rfl) (fun _ _ _ _ _ _ => rfl) h tb
    (State.trace_slot _ _ _ _ _ _ _ _)).trans (s.trapEntered_slot hw t tb cl n)

/-- What a trap routine finds of its context: the control registers, the branch state, and trap mode. -/
def Ctx.routine (c : Ctx) : Ctl × Frame × Bool := (c.ctl, c.frame, c.run.trap)

/-- An untraced context finds itself at its trap routine, and memory as it was. -/
theorem State.trapWith_untraced {t : TrapInfo} (h : t.async = true) (tb : Nat) (htrace : (s.ctx hw).dbg.trace = 0) :
    (s.trapWith hw t tb).mem = s.mem ∧ ((s.trapWith hw t tb).ctx hw).routine = ((s.ctx hw).enterTrap t tb).routine := by
  have hquiet := State.trace_untraced (s := s.trapEntered hw t tb) (hw := hw) (by rw [State.trapEntered_ctx]; exact htrace) 2 tb
    (s.ctx hw).frame.rep s.cur.cand
  refine ⟨?_, ?_⟩
  · rw [State.trapWith_unchanged State.mem (fun _ _ => rfl) (fun _ _ _ _ => rfl) (fun _ _ _ _ => rfl) (fun _ _ _ _ _ _ => rfl) h tb
      (by rw [hquiet])]
    rfl
  · rw [← s.trapEntered_ctx hw t tb]
    refine State.trapWith_unchanged (fun s => (s.ctx hw).routine) (fun _ _ => rfl) (fun s k p e => ?_) (fun _ _ _ _ => rfl)
      (fun s k st stage cuts base => ?_) h tb (by rw [hquiet])
    · exact s.modCtx_keeps Ctx.routine (g := fun c => { c with pend := p c, eng := e c }) (fun _ => rfl) k hw
    · exact s.modCtx_keeps Ctx.routine
        (g := fun c => { c with run := { c.run with st := st, stage := stage, cuts := cuts, cutBase := base } }) (fun _ => rfl) k hw

/-! ## The delivery of a stream's fault -/

/-- The trap of a fault that a slot of a stream holds. -/
def streamTrap (q : SeqSlot) (f : SFault) : Async := ⟨f.code, BitVec.ofNat 64 f.addr, q.handle, 6, f.level, 15, true, f.esc⟩

variable {core n : Nat} {p : Prod} {f : SFault} {more : List SFault} {rest : List (Nat × SeqSlot)}

theorem State.streamFault_held (hs : s.faultSlots hw = (n, s.slot (clusterOf hw) n) :: rest)
    (hf : (s.slot (clusterOf hw) n).ferr = f :: more) :
    s.streamFault hw = some (streamTrap (s.slot (clusterOf hw) n) f, some n) := by
  have hfind : (s.faultSlots hw).findSome? (fun x => x.2.ferr.head?.map (fun f => (x, f))) = some ((n, s.slot (clusterOf hw) n), f) := by
    rw [hs, List.findSome?_cons, hf]
    rfl
  rw [State.streamFault, hfind]
  rfl

/-- A slice of a product is due whose step has come. -/
theorem Prod.slicesDue_of_late (hc : p.cut = none) (hs : p.spec.kind.streams = true) (hlt : nextSlice p < p.spec.s) {t : Int}
    (ht : p.issue + nextSlice p + 1 ≤ t) : (p.slicesDue t).isEmpty = false := by
  have hdue : p.slicesDue t = (List.range (min p.spec.s (t - p.issue).toNat - nextSlice p)).map (fun d => nextSlice p + d) := by
    simp only [Prod.slicesDue, hs, hc, Option.isNone_none, Bool.and_self, if_true]
    rfl
  have hpos : min p.spec.s (t - p.issue).toNat - nextSlice p ≠ 0 := by omega
  rw [hdue, List.isEmpty_map, List.isEmpty_eq_false_iff]
  simpa using hpos

/-- The only product of a core misses a slice whose fault is held: its context takes the trap, or keeps it pending in trap mode. -/
theorem State.streamDeliver_held (hp : (s.core core).prods = [p]) (hdue : (p.slicesDue (s.core core).arr).isEmpty = false)
    (hs : s.faultSlots p.hw = (n, s.slot (clusterOf p.hw) n) :: rest) (hf : (s.slot (clusterOf p.hw) n).ferr = f :: more) :
    s.streamDeliver core =
      if (s.ctx p.hw).run.trap = true then
        (s.modSlot (clusterOf p.hw) n (fun q => { q with ferr := q.ferr.tail })).raiseOnce p.hw (streamTrap (s.slot (clusterOf p.hw) n) f)
      else (s.modSlot (clusterOf p.hw) n (fun q => { q with ferr := q.ferr.tail })).trapWith p.hw
        (streamTrap (s.slot (clusterOf p.hw) n) f).trapInfo (s.ctx p.hw).frame.pos := by
  have hmiss : s.sliceMissing core (s.core core).arr = [p] := by
    rw [State.sliceMissing, hp, List.filter_cons_of_pos (by simp [hdue]), List.filter_nil]
  have hdedup : [p.hw].dedup = [p.hw] := (List.nodup_singleton _).dedup
  rw [State.streamDeliver]
  simp only [hmiss, List.map_cons, List.map_nil, hdedup, List.foldl_cons, List.foldl_nil, State.streamFault_held hs hf]
  rfl

/-- The fault leaves its slot, whichever way it is delivered. -/
theorem State.streamDeliver_ferr (hp : (s.core core).prods = [p]) (hdue : (p.slicesDue (s.core core).arr).isEmpty = false)
    (hs : s.faultSlots p.hw = (n, s.slot (clusterOf p.hw) n) :: rest) (hf : (s.slot (clusterOf p.hw) n).ferr = f :: more) :
    ((s.streamDeliver core).slot (clusterOf p.hw) n).ferr = more := by
  let s1 := s.modSlot (clusterOf p.hw) n (fun q => { q with ferr := q.ferr.tail })
  have hslot : (s1.slot (clusterOf p.hw) n).ferr = more := by
    rw [State.modSlot_slot_same, hf]
    rfl
  rw [State.streamDeliver_held hp hdue hs hf]
  split
  · rw [State.raiseOnce]
    split
    · exact hslot
    · obtain ⟨h, -⟩ | ⟨r, h, -⟩ := s1.raise_cases p.hw (streamTrap (s.slot (clusterOf p.hw) n) f)
      all_goals
        rw [h]
        exact hslot
  · rw [State.trapWith_slot rfl]
    exact hslot

/-- In trap mode the fault stays pending (R290). -/
theorem State.streamDeliver_pending (hp : (s.core core).prods = [p]) (hdue : (p.slicesDue (s.core core).arr).isEmpty = false)
    (hs : s.faultSlots p.hw = (n, s.slot (clusterOf p.hw) n) :: rest) (hf : (s.slot (clusterOf p.hw) n).ferr = f :: more)
    (hact : (s.ctx p.hw).run.st ≠ .inactive) (htrap : (s.ctx p.hw).run.trap = true) (hnone : (s.ctx p.hw).async = []) :
    (s.streamDeliver core).mem = s.mem ∧ ((s.streamDeliver core).ctx p.hw).async = [streamTrap (s.slot (clusterOf p.hw) n) f] := by
  let s1 := s.modSlot (clusterOf p.hw) n (fun q => { q with ferr := q.ferr.tail })
  have hasync : (s1.ctx p.hw).async = [] := hnone
  obtain ⟨r, hr⟩ := State.raise_active (s := s1) hact (streamTrap (s.slot (clusterOf p.hw) n) f)
  have hrun : s.streamDeliver core = s1.raise p.hw (streamTrap (s.slot (clusterOf p.hw) n) f) := by
    rw [State.streamDeliver_held hp hdue hs hf, if_pos htrap, State.raiseOnce]
    exact if_neg (by rw [hasync]; simp)
  rw [hrun, hr]
  exact ⟨rfl, by rw [State.setCtx_ctx_same, hasync]; rfl⟩

/-- Outside trap mode an untraced context enters its trap routine. -/
theorem State.streamDeliver_trap (hp : (s.core core).prods = [p]) (hdue : (p.slicesDue (s.core core).arr).isEmpty = false)
    (hs : s.faultSlots p.hw = (n, s.slot (clusterOf p.hw) n) :: rest) (hf : (s.slot (clusterOf p.hw) n).ferr = f :: more)
    (htrap : (s.ctx p.hw).run.trap = false) (htrace : (s.ctx p.hw).dbg.trace = 0) :
    (s.streamDeliver core).mem = s.mem ∧ ((s.streamDeliver core).ctx p.hw).routine =
      ((s.ctx p.hw).enterTrap (streamTrap (s.slot (clusterOf p.hw) n) f).trapInfo (s.ctx p.hw).frame.pos).routine := by
  rw [State.streamDeliver_held hp hdue hs hf, htrap, if_neg Bool.false_ne_true]
  exact State.trapWith_untraced (s := s.modSlot (clusterOf p.hw) n (fun q => { q with ferr := q.ferr.tail })) rfl _ htrace

theorem streamTrap_tcause (q : SeqSlot) (f : SFault) :
    (streamTrap q f).trapInfo.tcause = BitVec.ofNat 64 (f.code + (if f.esc = true then 32 else 0) + 64 + 128) := by
  cases hesc : f.esc <;> simp [TrapInfo.tcause, Async.trapInfo, streamTrap, hesc]

end

/-- Settles O42: the first line or copy that faults records the trap and stops what comes after it; the fault that a slot holds is the
first one found, and neither the trace record nor the cut that follow its trap change the slot or the trap routine's registers. -/
theorem majorFaultEvents : Obligations.MajorFaultEvents := by
  intro s
  refine ⟨fun hw k d va code level n hst hstage hrec htrap hnew htr => exec_preload_major hst hstage hrec htrap hnew htr n,
    fun cl n nest cmd va code level h hp hact => ⟨⟨s.emitWalked cl n, ?_, State.emitWalked_stops h hp hact⟩,
      fun hwalk => exec_emit_major h hp hact hwalk⟩,
    fun core p n f more rest hprods hcut hstreams harr hlt hact hs hf => ⟨s.streamDeliver core, rfl, ?_, fun htrap hnone => ?_,
      fun htrap htrace hcode => ?_⟩⟩
  · show Host.Outcome.next (s.engineFault (.copyRead cl n 0 0 0)) = _
    rw [State.engineFault]
    simp only [State.slotStops_major h hp hact, if_true]
  all_goals have hdue := Prod.slicesDue_of_late hcut hstreams hlt harr
  · exact State.streamDeliver_ferr hprods hdue hs hf
  · exact State.streamDeliver_pending hprods hdue hs hf hact htrap hnone
  · obtain ⟨hmem, hroutine⟩ := State.streamDeliver_trap hprods hdue hs hf htrap htrace
    have hctl := congrArg (fun r => r.1) hroutine
    have hframe := congrArg (fun r => r.2.1) hroutine
    have hmode := congrArg (fun r => r.2.2) hroutine
    refine ⟨hmem, hmode, (congrArg Ctl.tcause hctl).trans (streamTrap_tcause _ f), congrArg Ctl.taddr hctl, congrArg Ctl.tbundle hctl,
      congrArg Ctl.tcycle hctl, congrArg Frame.pos hframe⟩

end Sys2Proof.Machine
end

section
/-!
SUPPORT. The bytes that an access of the L slot moves, the banks that they need, and what is left of an access beside its bytes
(R88, R90, R93 to R100).
-/

namespace Sys2Proof.Machine

open Sys2Proof.Claims

/-! ## Bytes and addresses (R94 to R100) -/

theorem mem_map_pair {l : List Nat} {f : Nat → Word} {b : Nat} {a : Word} :
    (b, a) ∈ l.map (fun b => (b, f b)) ↔ b ∈ l ∧ a = f b := by
  constructor
  · intro h
    obtain ⟨k, hk, e⟩ := List.mem_map.1 h
    cases e
    exact ⟨hk, rfl⟩
  · rintro ⟨hb, rfl⟩
    exact List.mem_map_of_mem hb

theorem mem_movesPlain {m : PReg} {ea a : Word} {n b : Nat} :
    (b, a) ∈ movesPlain m ea n ↔ b < n ∧ m.getLsbD b = true ∧ a = ea + BitVec.ofNat 64 b := by
  rw [movesPlain, mem_map_pair, List.mem_filter, List.mem_range, and_assoc]

theorem mem_movesLine {m : PReg} {ea a : Word} {b : Nat} :
    (b, a) ∈ movesLine m ea ↔ b < 512 ∧ m.getLsbD b = true ∧ a = ea + BitVec.ofNat 64 (b % 64) := by
  rw [movesLine, mem_map_pair, List.mem_filter, List.mem_range, and_assoc]

theorem mem_movesRows {m : PReg} {w n b : Nat} {place : Nat → Word} {a : Word} (hw : 0 < w) :
    (b, a) ∈ movesRows m w n place ↔
      b < w * n ∧ m.getLsbD (b / w * w) = true ∧ a = place (b / w) + BitVec.ofNat 64 (b % w) := by
  simp only [movesRows, List.mem_flatMap, List.mem_filter, List.mem_range, List.mem_map]
  constructor
  · rintro ⟨j, ⟨hj, hm⟩, k, hk, e⟩
    cases e
    have hlt : w * j + k < w * n := calc
      w * j + k < w * (j + 1) := by rw [Nat.mul_succ]; omega
      _ ≤ w * n := Nat.mul_le_mul_left w hj
    rw [Nat.mul_add_div hw, Nat.div_eq_of_lt hk, Nat.add_zero, Nat.mul_add_mod, Nat.mod_eq_of_lt hk, Nat.mul_comm j]
    exact ⟨hlt, hm, rfl⟩
  · rintro ⟨hb, hm, rfl⟩
    rw [Nat.mul_comm] at hm
    exact ⟨b / w, ⟨Nat.div_lt_of_lt_mul hb, hm⟩, b % w, Nat.mod_lt b hw, by rw [Nat.div_add_mod]⟩

/-- A byte of a mask has a bit set. -/
theorem byte_ne_zero_iff (m : PReg) (b : Nat) :
    m.toNat / 2 ^ (8 * b) % 256 ≠ 0 ↔ ∃ k, k < 8 ∧ m.getLsbD (8 * b + k) = true := by
  have hbit (k : Nat) : (m.toNat / 2 ^ (8 * b) % 2 ^ 8).testBit k = (decide (k < 8) && m.getLsbD (8 * b + k)) := by
    rw [Nat.testBit_mod_two_pow, Nat.testBit_div_two_pow, Nat.add_comm k, BitVec.getLsbD]
  constructor
  · intro h
    obtain ⟨k, hk⟩ := Nat.exists_testBit_of_ne_zero h
    exact ⟨k, by simpa using (hbit k).symm.trans hk⟩
  · rintro ⟨k, hk, hm⟩ h
    have h1 := hbit k
    rw [show m.toNat / 2 ^ (8 * b) % 2 ^ 8 = 0 from h] at h1
    simp [hk, hm] at h1

theorem Ctx.mem_movesP {c : Ctx} {o : LD} {n b : Nat} {a : Word} :
    (b, a) ∈ c.movesP o n ↔
      b < 64 ∧ (∃ k, k < 8 ∧ (c.guardW o.g).getLsbD (8 * b + k) = true) ∧ a = c.eaD o n + BitVec.ofNat 64 b := by
  rw [← byte_ne_zero_iff, Ctx.movesP, mem_map_pair, List.mem_filter, List.mem_range, decide_eq_true_iff, and_assoc]

/-! ## The value that is loaded -/

/-- The bytes of the register rise. -/
def Rising (ms : Moves) : Prop := ms.Pairwise (fun x y => x.1 < y.1)

theorem rising_filter_range (n : Nat) (p : Nat → Bool) (f : Nat → Word) :
    Rising (((List.range n).filter p).map (fun b => (b, f b))) :=
  List.pairwise_map.2 (List.pairwise_lt_range.filter p)

theorem rising_movesRows (m : PReg) (w n : Nat) (place : Nat → Word) : Rising (movesRows m w n place) := by
  refine List.pairwise_flatMap.2 ⟨fun j _ => ?_, (List.pairwise_lt_range.filter _).imp fun {i j} hij x hx y hy => ?_⟩
  · exact List.pairwise_map.2 (List.pairwise_lt_range.imp fun h => Nat.add_lt_add_left h _)
  · obtain ⟨k, hk, rfl⟩ := List.mem_map.1 hx
    obtain ⟨l, -, rfl⟩ := List.mem_map.1 hy
    have hk := List.mem_range.1 hk
    calc w * i + k < w * (i + 1) := by rw [Nat.mul_succ]; omega
      _ ≤ w * j := Nat.mul_le_mul_left w hij
      _ ≤ w * j + l := Nat.le_add_right _ _

/-- A sum of bytes at rising places, each of them at `lo` or above, holds every byte at its place, and below `lo` what was there. -/
theorem elem_foldl_rising (f : Nat × Word → Byte) {ms : Moves} (h : Rising ms) {lo acc : Nat} (hlo : ∀ x ∈ ms, lo ≤ x.1)
    (hacc : acc < 2 ^ (8 * lo)) :
    let r := ms.foldl (fun a x => a + (f x).toNat * 2 ^ (8 * x.1)) acc
    r % 2 ^ (8 * lo) = acc ∧ ∀ x ∈ ms, elem r 1 x.1 = (f x).toNat := by
  induction ms generalizing lo acc with
  | nil => exact ⟨Nat.mod_eq_of_lt hacc, fun _ hx => by cases hx⟩
  | cons x l ih =>
    obtain ⟨hx, hl⟩ := List.pairwise_cons.1 h
    have hle : lo ≤ x.1 := hlo x (List.mem_cons_self ..)
    have hpow : 2 ^ (8 * lo) ≤ 2 ^ (8 * x.1) := Nat.pow_le_pow_right (by decide) (by omega)
    have hbyte : (f x).toNat + 1 ≤ 256 := (f x).isLt
    have hsucc : 2 ^ (8 * (x.1 + 1)) = 256 * 2 ^ (8 * x.1) := by rw [Nat.mul_succ, Nat.pow_add, Nat.mul_comm]
    have hlt : acc + (f x).toNat * 2 ^ (8 * x.1) < 2 ^ (8 * (x.1 + 1)) := calc
      acc + (f x).toNat * 2 ^ (8 * x.1) < ((f x).toNat + 1) * 2 ^ (8 * x.1) := by
        rw [Nat.add_mul, Nat.one_mul, Nat.add_comm]
        exact Nat.add_lt_add_left (lt_of_lt_of_le hacc hpow) _
      _ ≤ 2 ^ (8 * (x.1 + 1)) := hsucc ▸ Nat.mul_le_mul_right _ hbyte
    obtain ⟨hmod, helem⟩ := ih hl (lo := x.1 + 1) hx hlt
    rw [List.foldl_cons]
    generalize l.foldl (fun a x => a + (f x).toNat * 2 ^ (8 * x.1)) (acc + (f x).toNat * 2 ^ (8 * x.1)) = r at hmod helem ⊢
    refine ⟨?_, fun y hy => ?_⟩
    · obtain ⟨c, hc⟩ : 2 ^ (8 * lo) ∣ 2 ^ (8 * x.1) := pow_dvd_pow 2 (by omega)
      rw [← Nat.mod_mod_of_dvd r (pow_dvd_pow 2 (show 8 * lo ≤ 8 * (x.1 + 1) by omega)), hmod, hc, Nat.mul_left_comm,
        Nat.add_mul_mod_self_left, Nat.mod_eq_of_lt hacc]
    · obtain rfl | hy := List.mem_cons.1 hy
      · have hq : r / 2 ^ (8 * y.1) % 2 ^ 8 = r % (2 ^ (8 * y.1) * 256) / 2 ^ (8 * y.1) := (Nat.mod_mul_right_div_self ..).symm
        rw [elem, Nat.mul_one, hq, Nat.mul_comm _ 256, ← hsucc, hmod, Nat.add_mul_div_right _ _ (by positivity),
          Nat.div_eq_of_lt (lt_of_lt_of_le hacc hpow), Nat.zero_add]
      · exact helem y hy

theorem elem_ofNat_one (v : Nat) {b : Nat} (hb : b < 512) : elem (BitVec.ofNat 4096 v).toNat 1 b = elem v 1 b := by
  refine Nat.eq_of_testBit_eq fun j => ?_
  rw [testBit_elem_one, testBit_elem_one, BitVec.toNat_ofNat, Nat.testBit_mod_two_pow]
  by_cases hj : j < 8
  · rw [decide_eq_true (show 8 * b + j < 4096 by omega), Bool.true_and]
  · simp [hj]

/-- A load reads every byte that it moves (R93). -/
theorem State.elem_loadMoves (s : State) {ms : Moves} (h : Rising ms) {x : Nat × Word} (hx : x ∈ ms) (hb : x.1 < 512) :
    elem (s.loadMoves ms).toNat 1 x.1 = (s.ownByte s.myCore x.2.toNat).toNat := by
  rw [State.loadMoves, elem_ofNat_one _ hb]
  exact (elem_foldl_rising (fun x => s.ownByte s.myCore x.2.toNat) h (lo := 0) (fun _ _ => Nat.zero_le _) Nat.one_pos).2 x hx

theorem State.getLsbD_loadMoves (s : State) {ms : Moves} (h : Rising ms) {x : Nat × Word} (hx : x ∈ ms) (hb : x.1 < 64) {k : Nat}
    (hk : k < 8) :
    (BitVec.ofNat 512 (s.loadMoves ms).toNat).getLsbD (8 * x.1 + k) = (s.ownByte s.myCore x.2.toNat).getLsbD k := by
  have he := congrArg (fun n => n.testBit k) (s.elem_loadMoves h hx (by omega))
  simp only [testBit_elem_one, hk, decide_true, Bool.true_and] at he
  rw [BitVec.getLsbD_ofNat, decide_eq_true (show 8 * x.1 + k < 512 by omega), Bool.true_and, he, BitVec.getLsbD]

/-! ## Banks (R88, R90) -/

theorem mem_foldl_distinct (l a : List Nat) (x : Nat) :
    x ∈ l.foldl (fun a x => if a.contains x then a else x :: a) a ↔ x ∈ a ∨ x ∈ l := by
  induction l generalizing a with
  | nil => simp
  | cons y l ih =>
    rw [List.foldl_cons, ih]
    split
    next hy =>
      have hy : y ∈ a := by simpa using hy
      grind
    next => grind

theorem mem_distinct {l : List Nat} {x : Nat} : x ∈ distinct l ↔ x ∈ l := by
  rw [distinct, List.mem_reverse, mem_foldl_distinct]
  simp

theorem mem_linesOfMoves {ms : Moves} {l : Nat} :
    l ∈ linesOfMoves ms ↔ ∃ x ∈ ms, x.2.toNat < Config.spadBytes ∧ x.2.toNat / 64 = l := by
  simp [linesOfMoves, mem_distinct, and_assoc]

theorem firstConflict_mem {c ls : List Nat} {l : Nat} (h : firstConflict c ls = some l) : l ∈ ls := by
  induction ls generalizing c with
  | nil => cases h
  | cons x r ih =>
    rw [firstConflict] at h
    split at h
    · cases h
      exact List.mem_cons_self ..
    · exact List.mem_cons_of_mem _ (ih h)

/-- Lines are free of conflicts when no bank is needed by two of them. -/
theorem firstConflict_eq_none {c ls : List Nat} : firstConflict c ls = none ↔
    (∀ l ∈ ls, ∀ k ∈ c, bankOf k = bankOf l → k = l) ∧ ls.Pairwise (fun k l => bankOf k = bankOf l → k = l) := by
  induction ls generalizing c with
  | nil => simp [firstConflict]
  | cons x r ih =>
    rw [firstConflict, List.pairwise_cons]
    split
    next hx =>
      simp only [List.any_eq_true, Bool.and_eq_true, decide_eq_true_eq] at hx
      obtain ⟨k, hk, hb, hne⟩ := hx
      exact iff_of_false (by simp) fun h => hne (h.1 x (List.mem_cons_self ..) k hk hb)
    next hx =>
      have hx : ∀ k ∈ c, bankOf k = bankOf x → k = x := by simpa using hx
      rw [ih]
      grind

theorem bankOf_eq_iff {k l : Nat} : bankOf k = bankOf l ↔ k / 0x8000 % 2 = l / 0x8000 % 2 ∧ k % 16 = l % 16 := by
  unfold bankOf
  omega

theorem selfConflict_eq_none {ms : Moves} : selfConflict ms = none ↔ NoConflict ms := by
  rw [selfConflict, Option.map_eq_none_iff, firstConflict_eq_none]
  simp only [List.not_mem_nil, false_implies, implies_true, true_and]
  constructor
  · intro h x hx y hy hxr hyr hhalf hbank
    have : Std.Symm (fun k l => bankOf k = bankOf l → k = l) := ⟨fun k l h e => (h e.symm).symm⟩
    exact h.forall_of_forall (fun _ _ _ => rfl) (mem_linesOfMoves.2 ⟨x, hx, hxr, rfl⟩) (mem_linesOfMoves.2 ⟨y, hy, hyr, rfl⟩)
      (bankOf_eq_iff.2 ⟨hhalf, hbank⟩)
  · refine fun h => List.pairwise_of_forall_mem_list fun k hk l hl e => ?_
    obtain ⟨x, hx, hxr, rfl⟩ := mem_linesOfMoves.1 hk
    obtain ⟨y, hy, hyr, rfl⟩ := mem_linesOfMoves.1 hl
    obtain ⟨hhalf, hbank⟩ := bankOf_eq_iff.1 e
    exact h x hx y hy hxr hyr hhalf hbank

/-- An access that needs a bank twice is refused at the line of one of its bytes. -/
theorem selfConflict_of_conflict {ms : Moves} (h : ¬ NoConflict ms) : ∃ x ∈ ms, x.2.toNat < Config.spadBytes ∧
    selfConflict ms = some ⟨3, BitVec.ofNat 64 (64 * (x.2.toNat / 64)), 0⟩ := by
  obtain ⟨k, hk⟩ := Option.ne_none_iff_exists'.1 (mt selfConflict_eq_none.1 h)
  obtain ⟨l, hl, rfl⟩ := Option.map_eq_some_iff.1 hk
  obtain ⟨x, hx, hxr, rfl⟩ := mem_linesOfMoves.1 (firstConflict_mem hl)
  exact ⟨x, hx, hxr, hk⟩

end Sys2Proof.Machine
end

section
/-!
PROOF. Loads of the L slot (R90, R93 to R99).
-/

namespace Sys2Proof.Machine

open Sys2Proof.Claims

/-! ## SPFAULT and energy of an access (R93, R346) -/

theorem offender_eq_badOf (ms : Moves) : offender ms = badOf ms := by
  simp only [offender, badOf, ← decide_not, Nat.not_lt]

/-- The first byte out of range of an access is recorded. -/
def State.noted (s : State) (bad : Option Word) : State :=
  match bad with
  | some a => s.noteSp a
  | none => s

theorem State.accessed_eq (s : State) (ms : Moves) :
    s.accessed ms = (s.noted (badOf ms)).charge s.cur.hw 5 (linesOfMoves ms).length := by
  rw [← offender_eq_badOf, State.accessed]
  cases offender ms <;> rfl

/-- What changes of SPFAULT and of the cursor leave alone, the record of a byte leaves alone. -/
theorem State.noted_unchanged {β : Type} (f : State → β)
    (hctx : ∀ (s : State) hw a b c,
      f { (State.modCtx s hw (fun c => { c with fmt := { c.fmt with spSet := a, spAddr := b } })) with cur := c } = f s)
    (s : State) (bad : Option Word) : f (s.noted bad) = f s := by
  cases bad with
  | none => rfl
  | some a =>
    unfold State.noted State.noteSp
    dsimp only
    split
    · rfl
    · exact hctx s _ _ _ _

theorem State.noted_ctx_other (s : State) (bad : Option Word) {k : Nat} (h : k ≠ s.cur.hw) : (s.noted bad).ctx k = s.ctx k := by
  cases bad with
  | none => rfl
  | some a =>
    unfold State.noted State.noteSp
    dsimp only
    split
    · rfl
    · exact State.modCtx_ctx_other s (fun c => { c with fmt := { c.fmt with spSet := true, spAddr := a } }) h

theorem State.noted_ctx_same (s : State) (bad : Option Word) : (s.noted bad).ctx s.cur.hw =
    { s.me with fmt := { s.me.fmt with spSet := (spAfter s bad).1, spAddr := (spAfter s bad).2 } } := by
  cases bad with
  | none => rfl
  | some a =>
    unfold State.noted State.noteSp spAfter
    simp only [Bool.and_eq_true, Bool.not_eq_true', decide_eq_false_iff_not]
    split
    · rfl
    · exact State.modCtx_ctx_same s s.cur.hw (fun c => { c with fmt := { c.fmt with spSet := true, spAddr := a } })

/-- What changes of SPFAULT, of the cursor and of energy leave alone, the end of an access leaves alone. -/
theorem State.accessed_unchanged {β : Type} (f : State → β)
    (hsp : ∀ (s : State) hw a b c,
      f { (State.modCtx s hw (fun c => { c with fmt := { c.fmt with spSet := a, spAddr := b } })) with cur := c } = f s)
    (hctx : ∀ s hw e, f (State.modCtx s hw (fun c => { c with energy := c.energy + e })) = f s) (s : State) (ms : Moves) :
    f (s.accessed ms) = f s := by
  rw [State.accessed_eq, State.charge_unchanged f hctx, State.noted_unchanged f hsp]

theorem State.accessed_ctx_other (s : State) (ms : Moves) {k : Nat} (h : k ≠ s.cur.hw) : (s.accessed ms).ctx k = s.ctx k := by
  rw [State.accessed_eq, State.charge_ctx_other _ _ _ h, State.noted_ctx_other s _ h]

/-- Of the context whose bundle issues an access leaves SPFAULT and the energy counter changed. -/
theorem State.accessed_ctx_same (s : State) (ms : Moves) : ∃ e, (s.accessed ms).ctx s.cur.hw =
    { s.me with
      fmt := { s.me.fmt with spSet := (spAfter s (badOf ms)).1, spAddr := (spAfter s (badOf ms)).2 }
      energy := e } := by
  rw [State.accessed_eq, State.charge_ctx_same, State.noted_ctx_same]
  exact ⟨_, rfl⟩

theorem State.accessed_restSame (s : State) (ms : Moves) : RestSame s (s.accessed ms) where
  mod := s.accessed_unchanged State.mod (fun _ _ _ _ _ => rfl) (fun _ _ _ => rfl) ms
  front := s.accessed_unchanged State.front (fun _ _ _ _ _ => rfl) (fun _ _ _ => rfl) ms
  clusters := s.accessed_unchanged State.clusters (fun _ _ _ _ _ => rfl) (fun _ _ _ => rfl) ms
  cores := s.accessed_unchanged State.cores (fun _ _ _ _ _ => rfl) (fun _ _ _ => rfl) ms
  aux := s.accessed_unchanged State.aux (fun _ _ _ _ _ => rfl) (fun _ _ _ => rfl) ms
  agenda := s.accessed_unchanged State.agenda (fun _ _ _ _ _ => rfl) (fun _ _ _ => rfl) ms
  oldBytes := s.accessed_unchanged State.oldBytes (fun _ _ _ _ _ => rfl) (fun _ _ _ => rfl) ms
  shared := s.accessed_unchanged State.shared (fun _ _ _ _ _ => rfl) (fun _ _ _ => rfl) ms

theorem State.accessed_mem (s : State) (ms : Moves) : (s.accessed ms).mem = s.mem :=
  s.accessed_unchanged State.mem (fun _ _ _ _ _ => rfl) (fun _ _ _ => rfl) ms

/-- A load leaves its result pending, and SPFAULT and energy as its bytes say. -/
theorem State.give_accessed_loads (s : State) (r : Res) (ms : Moves) : Loads s ((s.give r).accessed ms) [r] (badOf ms) := by
  have hgive := s.give_gives r
  have hrest := (s.give r).accessed_restSame ms
  obtain ⟨e, hme⟩ := (s.give r).accessed_ctx_same ms
  have hctx : ((s.give r).accessed ms).ctx s.cur.hw = { s.me with
      pend := { s.me.pend with val := s.me.pend.val ++ [r.pend s] }
      fmt := { s.me.fmt with spSet := (spAfter s (badOf ms)).1, spAddr := (spAfter s (badOf ms)).2 }
      energy := e } := by
    have hsp : spAfter (s.give r) (badOf ms) = spAfter s (badOf ms) := by
      unfold spAfter
      rw [State.me, show (s.give r).cur = s.cur from rfl, s.give_ctx]
    rw [hsp, State.me, show (s.give r).cur = s.cur from rfl, s.give_ctx] at hme
    exact hme
  constructor
  case results => rw [hctx]; rfl
  case ctx => constructor <;> rw [hctx]
  case course => rw [hctx]; exact ⟨rfl, rfl, rfl, rfl, rfl, rfl, rfl⟩
  case eng => rw [hctx]
  case others => exact fun k hk => ((s.give r).accessed_ctx_other ms hk).trans (hgive.others k hk)
  case rest =>
    exact ⟨hrest.mod.trans hgive.rest.mod, hrest.front.trans hgive.rest.front, hrest.clusters.trans hgive.rest.clusters,
      hrest.cores.trans hgive.rest.cores, hrest.aux.trans hgive.rest.aux, hrest.agenda.trans hgive.rest.agenda,
      hrest.oldBytes.trans hgive.rest.oldBytes, hrest.shared.trans hgive.rest.shared⟩
  case mem => exact memSame_of_eq ((s.give r).accessed_mem ms)

/-! ## Performing an access -/

section

variable {i : Instr} {s : State} {ms : Moves} {chk : Option Chk} {eff : State → State}

theorem nullified_of_no_moves (h : exec i s = s.perform none (!ms.isEmpty) none chk eff) (hm : ms = []) : Nullified i s := by
  subst hm
  exact h.trans (State.perform_off _ _ _ _ _ (.inl rfl))

theorem exec_of_moves (h : exec i s = s.perform none (!ms.isEmpty) none chk eff) (hm : ms ≠ []) (hchk : chk = none) :
    exec i s = .next (eff s) := by
  rw [h, List.isEmpty_eq_false_iff.2 hm]
  exact State.perform_on _ _ _ _ _ (.inr ⟨rfl, rfl, hchk⟩)

theorem trapped_of_moves (h : exec i s = s.perform none (!ms.isEmpty) none chk eff) (hgo : s.cur.go = false) (hm : ms ≠ [])
    {code : Nat} {addr : Word} (hchk : chk = some ⟨code, addr, 0⟩) :
    exec i s = .next (trapped s (.chk ⟨code, addr, 0⟩) code addr 0) := by
  rw [h, hchk, List.isEmpty_eq_false_iff.2 hm]
  exact State.perform_chk _ _ _ hgo

end

theorem alignChk_of_mod {a : Word} {n : Nat} (h : a.toNat % n = 0) : alignChk a n = none := if_pos h
theorem alignChk_of_not_mod {a : Word} {n : Nat} (h : a.toNat % n ≠ 0) : alignChk a n = some ⟨9, a, 0⟩ := if_neg h

/-- The chunks of VLDX and VSTX are aligned (R98). -/
theorem Ctx.alignX_of_aligned {c : Ctx} {o : LX} (h : (c.eaX o).toNat % 16 = 0)
    (hchunks : ∀ j, j < 32 → (c.guardW o.g).getLsbD (16 * j) = true → (c.chunkAt o j).toNat % 16 = 0) : c.alignX o = none := by
  rw [Ctx.alignX, alignChk_of_mod h]
  simpa using hchunks

/-- What a load through the L slot does: the bytes that it moves rise in the register, and its check is none where they are aligned. -/
theorem loadL_of_loadV {i : Instr} {s : State} {ms : Moves} {al : Prop} {d lat : Nat} {m : PReg} {chk : Option Chk}
    {mask : PReg → Prop} (h : exec i s = loadV d lat ms m chk s) (hms : Rising ms) (hb : ∀ x ∈ ms, x.1 < 512)
    (hal : al → chk = none) (hmask : mask m) : LoadL i s ms al d lat mask := by
  refine ⟨nullified_of_no_moves h, fun hm hok hnc => ?_⟩
  have hchk : (chk <|> selfConflict ms) = none := by rw [hal hok, selfConflict_eq_none.2 hnc]; rfl
  exact ⟨_, exec_of_moves h hm hchk, m, s.loadMoves ms, s.give_accessed_loads (vRes d m (s.loadMoves ms) 0 lat) ms, hmask,
    fun x hx => s.elem_loadMoves hms hx (hb x hx)⟩

theorem exec_pld_eq_perform (o : LD) (s : State) : exec (.pld o) s =
    s.perform none (!(s.me.movesP o s.cur.n).isEmpty) none (alignChk (s.me.eaD o s.cur.n) 64) (fun t =>
      (t.give (pRes o.v (t.me.guardW o.g) (BitVec.ofNat 512 (t.loadMoves (s.me.movesP o s.cur.n)).toNat) 0 6)).accessed
        (s.me.movesP o s.cur.n)) := rfl

theorem vectorLoads : VectorLoads := by
  intro o p q s
  refine ⟨loadL_of_loadV rfl (rising_filter_range ..) (fun x hx => (mem_movesPlain.1 hx).1) alignChk_of_mod rfl,
    loadL_of_loadV rfl (rising_filter_range ..) (fun x hx => (mem_movesLine.1 hx).1) alignChk_of_mod rfl,
    loadL_of_loadV rfl (rising_movesRows ..) (fun x hx => ((mem_movesRows (by decide)).1 hx).1) alignChk_of_mod
      (elemMask_bit _ 32 (by decide) (by decide)),
    loadL_of_loadV rfl (rising_movesRows ..) (fun x hx => ((mem_movesRows (by decide)).1 hx).1)
      (fun h => Ctx.alignX_of_aligned h.1 h.2) (elemMask_bit _ 16 (by decide) (by decide)),
    nullified_of_no_moves (exec_pld_eq_perform o s), fun hm hal => ?_⟩
  exact ⟨_, exec_of_moves (exec_pld_eq_perform o s) hm (alignChk_of_mod hal), _, s.give_accessed_loads _ _,
    fun x hx k hk => s.getLsbD_loadMoves (rising_filter_range ..) hx (Ctx.mem_movesP.1 hx).1 hk⟩

theorem accessAddresses : AccessAddresses := by
  intro o p q f c n b a
  refine ⟨mem_movesPlain, mem_movesLine, mem_movesRows (by decide), (mem_movesRows (by decide)).trans ?_, Ctx.mem_movesP,
    mem_movesPlain⟩
  have hea : c.eaX q = c.sreg q.base + BitVec.ofInt 64 q.off := by simp [Ctx.eaX, Ctx.eaL]
  rw [Ctx.chunkAt, hea]

/-- Settles O22: every load is one shape, `loadV`, over the bytes that its row of the table moves. -/
theorem vectorLoadResult : Obligations.VectorLoadResult := ⟨accessAddresses, vectorLoads⟩

end Sys2Proof.Machine
end

section
/-!
PROOF. Stores of the L slot, and the traps of its accesses (R90, R91, R93 to R100, R214, R294).
-/

namespace Sys2Proof.Machine

open Sys2Proof.Claims

/-! ## Bytes after a list of writes (R91) -/

/-- Of the writes to an address the last one counts. -/
theorem Memory.read_foldl_last {m : Memory} (h : m.wf = true) (l : List (Nat × Byte)) (a : Nat) :
    (l.foldl (fun m c => m.write c.1 c.2) m).read a =
      ((l.reverse.find? (fun c => decide (c.1 = a))).map (fun c => c.2)).getD (m.read a) := by
  induction l using List.reverseRecOn with
  | nil => rfl
  | append_singleton l c ih =>
    have hwf := Memory.foldl_wf l h
    rw [List.foldl_append, List.foldl_cons, List.foldl_nil, List.reverse_append, List.reverse_singleton, List.singleton_append]
    by_cases hc : c.1 = a
    · rw [← hc, Memory.read_write_same _ _ hwf, List.find?_cons_of_pos (by simp)]
      rfl
    · rw [Memory.read_write_other _ hwf (Ne.symm hc), ih, List.find?_cons_of_neg (by simpa using hc)]

/-- The old value that the map of old bytes holds after a list of writes: the first one counts. -/
theorem SMap.get?_foldl_keep (old : Nat → Byte) (l : List (Nat × Byte)) (m : SMap Byte) (a : Nat) :
    SMap.get? (l.foldl (fun m c => if (SMap.get? m c.1).isSome then m else SMap.put m c.1 (old c.1)) m) a =
      if (SMap.get? m a).isSome = true ∨ ¬ ∃ c ∈ l, c.1 = a then SMap.get? m a else some (old a) := by
  induction l generalizing m with
  | nil => simp
  | cons c l ih =>
    rw [List.foldl_cons, ih]
    by_cases hc : c.1 = a
    · subst hc
      cases hm : SMap.get? m c.1 <;> simp [hm]
    · have hput : SMap.get? (if (SMap.get? m c.1).isSome then m else SMap.put m c.1 (old c.1)) a = SMap.get? m a := by
        split
        · rfl
        · exact SMap.get?_put_other m _ (Ne.symm hc)
      rw [hput]
      simp [hc]

/-! ## Stores to the own scratchpad -/

/-- The cells of the scratchpads that stores to the own scratchpad write: those in range (R93). -/
def State.ownCells (s : State) (cells : List (Nat × Byte)) : List (Nat × Byte) :=
  (cells.filter (fun c => decide (c.1 < Config.spadBytes))).map (fun c => (s.myCore * Config.spadBytes + c.1, c.2))

theorem State.exists_ownCells {s : State} {cells : List (Nat × Byte)} {a : Nat} :
    (∃ c ∈ s.ownCells cells, c.1 = a) ↔ Stored s cells a := by
  simp only [State.ownCells, Stored, List.mem_map, List.mem_filter, decide_eq_true_iff]
  constructor
  · rintro ⟨_, ⟨x, ⟨hx, hr⟩, rfl⟩, e⟩
    exact ⟨x, hx, hr, e⟩
  · rintro ⟨x, hx, hr, e⟩
    exact ⟨_, ⟨x, ⟨hx, hr⟩, rfl⟩, e⟩

theorem find?_shifted (l : List (Nat × Byte)) (b a : Nat) :
    ((l.map (fun c => (b + c.1, c.2))).find? (fun c => decide (c.1 = a))).map (fun c => c.2) =
      (l.find? (fun c => decide (b + c.1 = a))).map (fun c => c.2) := by
  rw [List.find?_map, Option.map_map]
  rfl

theorem byteAfter_eq_find? (s : State) (cells : List (Nat × Byte)) (a : Nat) (old : Byte) : byteAfter s cells a old =
    (((cells.filter (fun c => decide (c.1 < Config.spadBytes))).reverse.find?
      (fun c => decide (s.myCore * Config.spadBytes + c.1 = a))).map (fun c => c.2)).getD old := by
  unfold byteAfter
  split <;> simp_all only [Option.map_some, Option.map_none, Option.getD_some, Option.getD_none]

theorem State.byteAfter_eq (s : State) (cells : List (Nat × Byte)) (a : Nat) (old : Byte) : byteAfter s cells a old =
    (((s.ownCells cells).reverse.find? (fun c => decide (c.1 = a))).map (fun c => c.2)).getD old := by
  rw [byteAfter_eq_find?, State.ownCells, ← List.map_reverse, find?_shifted]

section

variable {s : State} (cells : List (Nat × Byte))

theorem State.keepOld_kept {a : Nat} (h : (SMap.get? s.oldBytes a).isSome = true ∨ ¬ Stored s cells a) :
    SMap.get? (s.keepOld (s.ownCells cells)) a = SMap.get? s.oldBytes a := by
  rw [← State.exists_ownCells] at h
  exact (SMap.get?_foldl_keep (fun a => s.mem.spad.read a) _ _ a).trans (if_pos h)

theorem State.keepOld_noted {a : Nat} (hnone : SMap.get? s.oldBytes a = none) (h : Stored s cells a) :
    SMap.get? (s.keepOld (s.ownCells cells)) a = some (s.mem.spad.read a) := by
  rw [← State.exists_ownCells] at h
  exact (SMap.get?_foldl_keep (fun a => s.mem.spad.read a) _ _ a).trans (if_neg (by simp only [hnone, h]; decide))

theorem State.ownStore_spad (hwf : s.mem.spad.wf = true) (h : NoWatch s) (a : Nat) :
    (s.ownStore cells).mem.spad.read a = byteAfter s cells a (s.mem.spad.read a) := by
  rw [State.ownStore, State.coreWrite_mem h, State.byteAfter_eq]
  exact Memory.read_foldl_last hwf _ a

theorem State.ownStore_oldBytes (h : NoWatch s) : (s.ownStore cells).oldBytes = s.keepOld (s.ownCells cells) := by
  rw [State.ownStore, State.coreWrite_noWatch h]
  exact foldl_unchanged State.oldBytes (journalLine_unchanged State.oldBytes (fun _ _ _ _ => rfl) (fun _ _ _ => rfl)) _ _

/-- What a store leaves alone: all but the own scratchpad, the journals and the checkpoints. -/
theorem State.ownStore_unchanged {β : Type} (f : State → β)
    (hcore : ∀ s core j b, f (State.modCore s core (fun k => { k with journal := j, jfull := b })) = f s)
    (hctx : ∀ s hw (g : Ctx → Option Ckpt), f (State.modCtx s hw (fun c => { c with ckpt := g c })) = f s)
    (hspad : ∀ s cells, f (State.spadRaw s cells) = f s) (hold : ∀ (s : State) m, f { s with oldBytes := m } = f s)
    (h : NoWatch s) : f (s.ownStore cells) = f s :=
  State.coreWrite_unchanged f hcore hctx hspad hold h _ _

theorem State.ownStore_keeps {β : Type} (f : Ctx → β) (hf : ∀ (c : Ctx) k, f { c with ckpt := k } = f c) (h : NoWatch s) (k : Nat) :
    f ((s.ownStore cells).ctx k) = f (s.ctx k) :=
  State.coreWrite_keeps f hf h _ _ k

end

/-- A part of a context that depends neither on SPFAULT nor on energy is left alone by the end of an access. -/
theorem State.accessed_keeps {β : Type} (f : Ctx → β)
    (hf : ∀ (c : Ctx) a b e, f { c with fmt := { c.fmt with spSet := a, spAddr := b }, energy := e } = f c) (s : State) (ms : Moves)
    (k : Nat) : f ((s.accessed ms).ctx k) = f (s.ctx k) := by
  by_cases hk : k = s.cur.hw
  · obtain ⟨e, he⟩ := s.accessed_ctx_same ms
    rw [hk, he, hf, State.me]
  · rw [s.accessed_ctx_other ms hk]

/-- A store leaves its bytes in the own scratchpad, and SPFAULT and energy as its bytes say. -/
theorem State.ownStore_accessed_stores {s : State} (hwf : s.mem.spad.wf = true) (h : NoWatch s) (cells : List (Nat × Byte))
    (ms : Moves) : Stores s ((s.ownStore cells).accessed ms) cells (badOf ms) := by
  have hmem := (s.ownStore cells).accessed_mem ms
  have hrest := (s.ownStore cells).accessed_restSame ms
  have hother : ((s.ownStore cells).accessed ms).mem = { s.mem with spad := (s.ownStore cells).mem.spad } := by
    rw [hmem, State.ownStore, State.coreWrite_mem h]
  have hspad (a : Nat) : ((s.ownStore cells).accessed ms).mem.spad.read a = byteAfter s cells a (s.mem.spad.read a) := by
    rw [hmem, State.ownStore_spad cells hwf h]
  have hold : ((s.ownStore cells).accessed ms).oldBytes = s.keepOld (s.ownCells cells) :=
    hrest.oldBytes.trans (State.ownStore_oldBytes cells h)
  have keeps {β : Type} (f : Ctx → β)
      (hsp : ∀ (c : Ctx) a b e, f { c with fmt := { c.fmt with spSet := a, spAddr := b }, energy := e } = f c)
      (hck : ∀ (c : Ctx) k, f { c with ckpt := k } = f c) (k : Nat) :
      f (((s.ownStore cells).accessed ms).ctx k) = f (s.ctx k) :=
    ((s.ownStore cells).accessed_keeps f hsp ms k).trans (State.ownStore_keeps cells f hck h k)
  have hcur : (s.ownStore cells).cur = s.cur :=
    State.ownStore_unchanged cells State.cur (fun _ _ _ _ => rfl) (fun _ _ _ => rfl) (fun _ _ => rfl) (fun _ _ => rfl) h
  have hfmt (k : Nat) : ((s.ownStore cells).ctx k).fmt = (s.ctx k).fmt := State.ownStore_keeps cells Ctx.fmt (fun _ _ => rfl) h k
  have hme : (s.ownStore cells).me.fmt = s.me.fmt := by rw [State.me, hcur, hfmt, State.me]
  constructor
  case spad => exact hspad
  case port => exact hspad
  case ctx =>
    refine ⟨keeps Ctx.regs (fun _ _ _ _ => rfl) (fun _ _ => rfl) _, keeps Ctx.bank (fun _ _ _ _ => rfl) (fun _ _ => rfl) _,
      keeps Ctx.ctl (fun _ _ _ _ => rfl) (fun _ _ => rfl) _, ?_⟩
    have hsp : spAfter (s.ownStore cells) (badOf ms) = spAfter s (badOf ms) := by
      unfold spAfter
      rw [hme, hcur]
    obtain ⟨e, he⟩ := (s.ownStore cells).accessed_ctx_same ms
    rw [hcur] at he
    rw [he, hsp, hme]
  case pend => exact keeps Ctx.pend (fun _ _ _ _ => rfl) (fun _ _ => rfl)
  case frame => exact keeps Ctx.frame (fun _ _ _ _ => rfl) (fun _ _ => rfl)
  case run => exact keeps Ctx.run (fun _ _ _ _ => rfl) (fun _ _ => rfl)
  case eng => exact keeps Ctx.eng (fun _ _ _ _ => rfl) (fun _ _ => rfl)
  case others =>
    intro k hk
    rw [← hcur] at hk
    rw [(s.ownStore cells).accessed_ctx_other ms hk]
    exact ⟨State.ownStore_keeps cells Ctx.regs (fun _ _ => rfl) h k, State.ownStore_keeps cells Ctx.bank (fun _ _ => rfl) h k, hfmt k,
      State.ownStore_keeps cells Ctx.ctl (fun _ _ => rfl) h k⟩
  case mod =>
    exact hrest.mod.trans
      (State.ownStore_unchanged cells State.mod (fun _ _ _ _ => rfl) (fun _ _ _ => rfl) (fun _ _ => rfl) (fun _ _ => rfl) h)
  case front =>
    exact hrest.front.trans
      (State.ownStore_unchanged cells State.front (fun _ _ _ _ => rfl) (fun _ _ _ => rfl) (fun _ _ => rfl) (fun _ _ => rfl) h)
  case agenda =>
    exact hrest.agenda.trans
      (State.ownStore_unchanged cells State.agenda (fun _ _ _ _ => rfl) (fun _ _ _ => rfl) (fun _ _ => rfl) (fun _ _ => rfl) h)
  case shared =>
    exact hrest.shared.trans
      (State.ownStore_unchanged cells State.shared (fun _ _ _ _ => rfl) (fun _ _ _ => rfl) (fun _ _ => rfl) (fun _ _ => rfl) h)
  case kept => exact fun a ha => hold ▸ State.keepOld_kept cells ha
  case noted => exact fun a hnone hst => hold ▸ State.keepOld_noted cells hnone hst
  all_goals exact fun a => by rw [hother]

/-- What a store through the L slot does. -/
theorem storeL_of_storeV {i : Instr} {s : State} {ms : Moves} {al : Prop} {chk : Option Chk} {byte : Nat → Byte}
    (h : exec i s = storeV ms chk byte s) (hal : al → chk = none) : StoreL i s ms al byte := by
  refine ⟨nullified_of_no_moves h, fun hwf hw hm hok hnc => ?_⟩
  have hchk : (chk <|> selfConflict ms) = none := by rw [hal hok, selfConflict_eq_none.2 hnc]; rfl
  exact ⟨_, exec_of_moves h hm hchk, State.ownStore_accessed_stores hwf hw _ ms⟩

/-! ## PST (R99) -/

/-- The byte that PST leaves where a byte of the scratchpad stood: its guarded bits come from the predicate. -/
def State.pstByte (s : State) (o : LD) (x : Nat × Word) : Byte :=
  let g : Byte := BitVec.ofNat 8 ((s.me.guardW o.g).toNat / 2 ^ (8 * x.1))
  let b : Byte := BitVec.ofNat 8 ((s.me.preg o.v).toNat / 2 ^ (8 * x.1))
  (s.ownByte s.myCore x.2.toNat &&& ~~~g) ||| (b &&& g)

theorem exec_pst_eq_perform (o : LD) (s : State) : exec (.pst o) s =
    s.perform none (!(s.me.movesP o s.cur.n).isEmpty) none (alignChk (s.me.eaD o s.cur.n) 64) (fun t =>
      (t.ownStore ((s.me.movesP o s.cur.n).map (fun x => (x.2.toNat, t.pstByte o x)))).accessed (s.me.movesP o s.cur.n)) := rfl

theorem getLsbD_byteAt (m : PReg) (b : Nat) {k : Nat} (hk : k < 8) :
    (BitVec.ofNat 8 (m.toNat / 2 ^ (8 * b))).getLsbD k = m.getLsbD (8 * b + k) := by
  rw [BitVec.getLsbD_ofNat, decide_eq_true hk, Bool.true_and, Nat.testBit_div_two_pow, Nat.add_comm, BitVec.getLsbD]

theorem State.getLsbD_pstByte (s : State) (o : LD) (x : Nat × Word) {k : Nat} (hk : k < 8) : (s.pstByte o x).getLsbD k =
    if (s.me.guardW o.g).getLsbD (8 * x.1 + k) = true then (s.me.preg o.v).getLsbD (8 * x.1 + k)
    else (s.ownByte s.myCore x.2.toNat).getLsbD k := by
  rw [State.pstByte, BitVec.getLsbD_or, BitVec.getLsbD_and, BitVec.getLsbD_and, BitVec.getLsbD_not, getLsbD_byteAt _ _ hk,
    getLsbD_byteAt _ _ hk, decide_eq_true hk, Bool.true_and]
  cases (s.me.guardW o.g).getLsbD (8 * x.1 + k) <;> simp

theorem vectorStores : VectorStores := by
  intro o p q f s
  refine ⟨storeL_of_storeV rfl alignChk_of_mod, storeL_of_storeV rfl alignChk_of_mod,
    storeL_of_storeV rfl (fun h => Ctx.alignX_of_aligned h.1 h.2), storeL_of_storeV rfl alignChk_of_mod,
    nullified_of_no_moves (exec_pst_eq_perform o s), fun hwf hw hm hal => ?_⟩
  exact ⟨_, exec_of_moves (exec_pst_eq_perform o s) hm (alignChk_of_mod hal), s.pstByte o,
    State.ownStore_accessed_stores hwf hw _ _, fun x _ k hk => s.getLsbD_pstByte o x hk⟩

/-! ## Traps (R90, R94, R98, R294) -/

section

variable {i : Instr} {s : State} {ms : Moves} {eff : State → State}

theorem trapsL_of_perform {ea : Word} {n : Nat}
    (h : exec i s = s.perform none (!ms.isEmpty) none (alignChk ea n <|> selfConflict ms) eff) : TrapsL i s ms ea n := by
  refine fun hgo hm => ⟨fun hal => trapped_of_moves h hgo hm ?_, fun hal hc => ?_⟩
  · rw [alignChk_of_not_mod hal]
    rfl
  · obtain ⟨x, hx, hr, hk⟩ := selfConflict_of_conflict hc
    refine ⟨x, hx, hr, trapped_of_moves h hgo hm ?_⟩
    rw [alignChk_of_mod hal]
    exact hk

/-- The first active chunk that is misaligned is the one that is reported (log 44). -/
theorem Ctx.alignX_of_chunk {c : Ctx} {o : LX} (h : (c.eaX o).toNat % 16 = 0) {j : Nat} (hj : j < 32)
    (hbit : (c.guardW o.g).getLsbD (16 * j) = true) (hbad : (c.chunkAt o j).toNat % 16 ≠ 0)
    (hfirst : ∀ l, l < j → ¬ ((c.guardW o.g).getLsbD (16 * l) = true ∧ (c.chunkAt o l).toNat % 16 ≠ 0)) :
    c.alignX o = some ⟨9, c.chunkAt o j, 0⟩ := by
  rw [Ctx.alignX, alignChk_of_mod h]
  dsimp only
  rw [List.find?_filter, List.find?_range_eq_some.2 ⟨?_, List.mem_range.2 hj, fun l hl => ?_⟩]
  · rfl
  · simp [hbit, hbad]
  · simpa [imp_iff_not_or] using hfirst l hl

theorem trapsX_of_perform {o : LX}
    (h : exec i s = s.perform none (!(s.me.movesX o).isEmpty) none (s.me.alignX o <|> selfConflict (s.me.movesX o)) eff) :
    TrapsX i s o := by
  refine fun hgo hm => ⟨fun hal => trapped_of_moves h hgo hm ?_,
    fun hal j hj hbad hfirst => trapped_of_moves h hgo hm ?_, fun hal hok hc => ?_⟩
  · rw [Ctx.alignX, alignChk_of_not_mod hal]
    rfl
  · rw [Ctx.alignX_of_chunk hal hj hbad.1 hbad.2 hfirst]
    rfl
  · obtain ⟨x, hx, hr, hk⟩ := selfConflict_of_conflict hc
    refine ⟨x, hx, hr, trapped_of_moves h hgo hm ?_⟩
    rw [Ctx.alignX_of_aligned hal fun j hj hbit => not_not.1 fun hne => hok j hj ⟨hbit, hne⟩]
    exact hk

theorem trapsX_of_loadV {o : LX} {v lat : Nat} {mask : PReg} (h : exec i s = loadV v lat (s.me.movesX o) mask (s.me.alignX o) s) :
    TrapsX i s o := trapsX_of_perform h

theorem trapsX_of_storeV {o : LX} {byte : Nat → Byte} (h : exec i s = storeV (s.me.movesX o) (s.me.alignX o) byte s) :
    TrapsX i s o := trapsX_of_perform h

theorem trapsL_of_loadV {ea : Word} {v lat n : Nat} {mask : PReg} (h : exec i s = loadV v lat ms mask (alignChk ea n) s) :
    TrapsL i s ms ea n := trapsL_of_perform h

theorem trapsL_of_storeV {ea : Word} {n : Nat} {byte : Nat → Byte} (h : exec i s = storeV ms (alignChk ea n) byte s) :
    TrapsL i s ms ea n := trapsL_of_perform h

end

theorem vectorAccessTraps : VectorAccessTraps := by
  intro o p q f s
  exact ⟨trapsX_of_loadV (exec_vldx q s), trapsX_of_storeV (exec_vstx q s),
    fun hgo hm hal => ⟨trapped_of_moves (exec_pld_eq_perform o s) hgo hm (alignChk_of_not_mod hal),
      trapped_of_moves (exec_pst_eq_perform o s) hgo hm (alignChk_of_not_mod hal)⟩,
    trapsL_of_loadV (exec_vld o s), trapsL_of_storeV (exec_vst o s), trapsL_of_loadV (exec_vldb o s),
    trapsL_of_loadV (exec_vlds p s), trapsL_of_storeV (exec_vsts p s),
    trapsL_of_storeV (byte := fun b => byteOf (s.me.sreg f.sc).toNat (b % 4)) (exec_fill f s)⟩

/-- Settles O23: every store is one shape, `storeV`, over the bytes that its row of the table moves, and so are the checks. -/
theorem vectorStoreFrame : Obligations.VectorStoreFrame := ⟨vectorStores, vectorAccessTraps⟩

end Sys2Proof.Machine
end

section
/-!
PROOF. Watch windows, held records and stream contexts (R105 to R107, R248, R256, R257, R280).
-/

namespace Sys2Proof.Machine

open Sys2Proof.Claims

/-! ## Clusters -/

theorem onlyCl_modCl (s : State) (cl : Nat) (f : Cluster → Cluster) : OnlyCl s (s.modCl cl f) cl (f (s.cluster cl)) :=
  ⟨s.modCl_cluster_same cl f, fun _ hk => s.modCl_cluster_other f hk, rfl, rfl, rfl, rfl, rfl⟩

theorem onlyCl_trans {s t u : State} {cl : Nat} {c d : Cluster} (h : OnlyCl s t cl c) (h' : OnlyCl t u cl d) : OnlyCl s u cl d :=
  ⟨h'.it, fun k hk => (h'.others k hk).trans (h.others k hk), h'.ctxs.trans h.ctxs, h'.cores.trans h.cores,
    h'.front.trans h.front, h'.mod.trans h.mod, h'.mem.trans h.mem⟩

theorem SMap.get?_map_snd {α β : Type} (f : Nat → α → β) (m : SMap α) (i : Nat) :
    SMap.get? (m.map (fun x => (x.1, f x.1 x.2))) i = (SMap.get? m i).map (f i) := by
  induction m with
  | nil => rfl
  | cons x m ih =>
    obtain ⟨j, a⟩ := x
    simp only [List.map_cons, SMap.get?]
    split
    next h => subst h; rfl
    · split
      · rfl
      · exact ih

/-! ## A push to a cluster queue (R248, R256) -/

section

variable {s : State} {cl qn : Nat} {q : TaskQ}

theorem State.taskQ_cluster (h : qn < 0x100) : s.taskQ cl qn = SMap.get? (s.cluster cl).tq qn := if_pos h

/-- The cluster after a record has entered a queue with room. -/
def Cluster.queued (c : Cluster) (qn : Nat) (q : TaskQ) (r : TRec) : Cluster :=
  { c with tq := SMap.put c.tq qn { q with sram := q.sram ++ [r] } }

/-- A record that no earlier one of its queue waits before enters the queue where there is room. -/
theorem State.pushInTurn_room (hqn : qn < 0x100) (hq : SMap.get? (s.cluster cl).tq qn = some q) (hroom : q.sram.length < q.c)
    {r : TRec} (hwaits : ∀ w ∈ (s.cluster cl).waits, r.id ≤ w.2.r.id)
    (hheld : ∀ x ∈ (s.cluster cl).watch, ∀ r', x.2.held = some r' → r.id ≤ r'.id) :
    s.pushInTurn cl qn r = .ok (s.modCl cl (fun c => c.queued qn q r)) := by
  have hturn : (s.waitingIds cl qn).any (fun i => decide (i < r.id)) = false := by
    rw [State.waitingIds, if_pos hqn, List.any_eq_false]
    intro i hi
    have hle : r.id ≤ i := by
      rcases List.mem_append.1 hi with hi | hi
      · obtain ⟨w, hw, rfl⟩ := List.mem_map.1 hi
        exact hwaits w (List.mem_filter.1 hw).1
      · obtain ⟨x, hx, he⟩ := List.mem_filterMap.1 hi
        split at he
        next r' hr' =>
          split at he
          · cases he
            exact hheld x hx r' hr'
          · cases he
        · cases he
    simpa using hle
  rw [State.pushInTurn, hturn, if_neg (by decide), State.pushRec, State.taskQ_cluster hqn, hq]
  dsimp only
  rw [if_pos hroom, State.setTaskQ, if_pos hqn]
  rfl

/-- No record of a ring has moved: no energy. -/
theorem State.chargeRing_of_same_ring {t : State} {hw : Nat}
    (h : (t.taskQ cl qn).map (fun q => q.rids.length) = (s.taskQ cl qn).map (fun q => q.rids.length)) :
    t.chargeRing s cl qn hw = t := by
  unfold State.chargeRing
  split
  · rfl
  · dsimp only
    rw [h, Nat.sub_self, Nat.add_zero, Nat.zero_mul, State.charge]
    exact if_pos (.inr rfl)

/-! ## A held record (R256) -/

variable {e : Nat} {w : Watch} {r : TRec}

theorem State.heldRecs_only (hwaits : (s.cluster cl).waits = []) (hbase : s.front.baseWaits = [])
    (hw : SMap.get? (s.cluster cl).watch e = some w) (hr : w.held = some r) : s.heldRecs cl e = [(recQueue w.tmpl, r)] := by
  rw [State.heldRecs, hwaits, hbase, hw]
  dsimp only
  rw [hr]
  rfl

/-- The cluster after the record that an entry holds has entered its queue. -/
def Cluster.heldPushed (c : Cluster) (e qn : Nat) (q : TaskQ) (r : TRec) : Cluster :=
  { c.queued qn q r with
    waits := c.waits.filter (fun x => decide (x.2.r.id ≠ r.id))
    watch := c.watch.map (fun y => if y.1 = e then (y.1, y.2.pushed r.id) else y) }

theorem State.pushOne_room (hqn : qn < 0x100) (hq : SMap.get? (s.cluster cl).tq qn = some q) (hroom : q.sram.length < q.c)
    (hwaits : (s.cluster cl).waits = []) (hheld : ∀ x ∈ (s.cluster cl).watch, ∀ r', x.2.held = some r' → r.id ≤ r'.id) :
    s.pushOne cl e (qn, r) = .ok (s.modCl cl (fun c => c.heldPushed e qn q r)) := by
  have hring : ((s.modCl cl (fun c => c.queued qn q r)).taskQ cl qn).map (fun q => q.rids.length) =
      (s.taskQ cl qn).map (fun q => q.rids.length) := by
    rw [State.taskQ_cluster hqn, State.taskQ_cluster hqn, State.modCl_cluster_same, Cluster.queued, SMap.get?_put_same, hq]
    rfl
  rw [State.pushOne, State.pushInTurn_room hqn hq hroom (by simp [hwaits]) hheld]
  dsimp only
  rw [State.chargeRing_of_same_ring hring, State.dropWait, if_pos hqn]
  simp only [State.modCl, State.cluster, SMap.getD_put_same, SMap.put_put]
  rfl

theorem State.pushHeld_room (hwaits : (s.cluster cl).waits = []) (hbase : s.front.baseWaits = [])
    (hw : SMap.get? (s.cluster cl).watch e = some w) (hr : w.held = some r)
    (hheld : ∀ x ∈ (s.cluster cl).watch, ∀ r', x.2.held = some r' → r.id ≤ r'.id) (hqn : recQueue w.tmpl < 0x100)
    (hq : SMap.get? (s.cluster cl).tq (recQueue w.tmpl) = some q) (hroom : q.sram.length < q.c) :
    s.pushHeld cl e = s.modCl cl (fun c => c.heldPushed e (recQueue w.tmpl) q r) := by
  rw [State.pushHeld, State.heldRecs_only hwaits hbase hw hr]
  simp only [List.findSome?_cons, State.pushOne_room hqn hq hroom hwaits hheld]

theorem Cluster.heldPushed_watch {c : Cluster} (hw : SMap.get? c.watch e = some w) (hr : w.held = some r) :
    SMap.get? (c.heldPushed e qn q r).watch e = some { w with held := none } := by
  have hmap : (c.heldPushed e qn q r).watch = c.watch.map (fun x => (x.1, if x.1 = e then x.2.pushed r.id else x.2)) :=
    List.map_congr_left fun x _ => by split <;> rfl
  rw [hmap]
  refine (SMap.get?_map_snd (fun i w => if i = e then w.pushed r.id else w) c.watch e).trans ?_
  rw [hw, Option.map_some, if_pos rfl, Watch.pushed, hr]
  simp

end

/-! ## Windows (R257) -/

theorem State.rollWatch_onlyCl (s : State) (cl : Nat) : OnlyCl s (s.rollWatch cl) cl ((s.cluster cl).roll (s.mod.cycles / 1024)) :=
  onlyCl_modCl s cl _

theorem watchEvents : WatchEvents := by
  intro cl e s
  refine ⟨fun w r q hwaits hbase hw hr hheld hqn hq hroom => ⟨s.pushHeld cl e, rfl, ?_⟩,
    fun h => ⟨s.rollWatch cl, rfl, ?_⟩, fun h => ⟨s.rollWatch cl, rfl, ?_⟩⟩
  · rw [State.pushHeld_room hwaits hbase hw hr hheld hqn hq hroom]
    have hcl := s.modCl_cluster_same cl (fun c => c.heldPushed e (recQueue w.tmpl) q r)
    exact ⟨by rw [hcl]; exact SMap.get?_put_same .., by rw [hcl]; exact Cluster.heldPushed_watch hw hr, rfl, rfl, rfl⟩
  · have hroll := s.rollWatch_onlyCl cl
    rwa [Cluster.roll, if_neg h] at hroll
  · have hroll := s.rollWatch_onlyCl cl
    rwa [Cluster.roll, if_pos h] at hroll

/-! ## Stream contexts (R105 to R107) -/

theorem State.setSct_sctOf (s : State) (cl e : Nat) (x : Sct) : (s.setSct cl e x).sctOf cl e = x := by
  rw [State.sctOf, State.setSct, State.modCl_cluster_same, SMap.getD_put_same]

theorem State.sctStart_onlyCl (s : State) (cl e : Nat) (x : Sct) : OnlyCl s (s.sctStart cl e x) cl { s.cluster cl with
    sct := SMap.put (s.cluster cl).sct e { x with st := 2, moved := if x.load = true then x.moved else 0 }
    evq := (s.cluster cl).evq ++ [e] } := by
  have hset := onlyCl_modCl s cl (fun c => { c with
    sct := SMap.put c.sct e { x with st := 2, moved := if x.load = true then x.moved else 0 } })
  have hq := onlyCl_modCl (s.setSct cl e { x with st := 2, moved := if x.load then x.moved else 0 }) cl
    (fun c => { c with evq := c.evq ++ [e] })
  rw [State.setSct, State.modCl_cluster_same] at hq
  exact onlyCl_trans hset hq

section

variable {s : State} {cl e : Nat} {rest : List Nat}

theorem State.evicting_head (h : Evicting s cl e rest) : s.evicting cl = some (e, s.sctOf cl e) := by
  rw [State.evicting, h.queue]
  dsimp only
  rw [h.load, if_neg (by decide)]

/-- An entry leaves the head of the evictions in a state, and an event says so. -/
def State.evictEnded (s : State) (cl e st kind : Nat) : State :=
  ((s.setSct cl e { s.sctOf cl e with st := st, req := [] }).modCl cl (fun c => { c with evq := c.evq.tail })).postEvent kind 0xFFFF e
    (s.sctOf cl e).sid 0

theorem State.evictDone_head (h : Evicting s cl e rest) (hlen : (s.sctOf cl e).len ≤ 64 * (s.sctOf cl e).moved) :
    s.evictDone cl e = s.evictEnded cl e 3 4 := by
  rw [State.evictDone, State.evicting_head h]
  dsimp only
  rw [if_pos ⟨rfl, hlen⟩, h.waits]
  rfl

theorem State.evictFail_head (h : Evicting s cl e rest) (hlen : 64 * (s.sctOf cl e).moved < (s.sctOf cl e).len)
    (hstuck : ∃ f, s.homeLine cl (s.sctOf cl e) (s.sctOf cl e).moved true = .error f) :
    s.evictFail cl e = s.evictEnded cl e 4 5 := by
  obtain ⟨f, hf⟩ := hstuck
  rw [State.evictFail, State.evicting_head h]
  simp only [hf, decide_true, Bool.and_true, hlen, if_true, h.waits]
  rfl

theorem State.evictEnded_leaves (h : Evicting s cl e rest) (hroom : EventRoom s) (st kind : Nat) :
    let t := s.evictEnded cl e st kind
    t.sctOf cl e = { s.sctOf cl e with st := st } ∧ (t.cluster cl).evq = rest ∧ Posted s t kind 0xFFFF e (s.sctOf cl e).sid 0 ∧
      t.ctxs = s.ctxs ∧ t.mem.spad = s.mem.spad ∧ t.mem.hbm = s.mem.hbm := by
  let u := (s.setSct cl e { s.sctOf cl e with st := st, req := [] }).modCl cl (fun c => { c with evq := c.evq.tail })
  have hpost : Posted u (u.postEvent kind 0xFFFF e (s.sctOf cl e).sid 0) kind 0xFFFF e (s.sctOf cl e).sid 0 :=
    State.posted_postEvent (s := u) hroom ..
  obtain ⟨m, ev, he⟩ := u.postEvent_cases kind 0xFFFF e (s.sctOf cl e).sid 0
  have hcl : u.cluster cl = { s.cluster cl with
      sct := SMap.put (s.cluster cl).sct e { s.sctOf cl e with st := st, req := [] }, evq := (s.cluster cl).evq.tail } := by
    rw [State.modCl_cluster_same, State.setSct, State.modCl_cluster_same]
  have hsct : u.sctOf cl e = { s.sctOf cl e with st := st, req := [] } := by rw [State.sctOf, hcl, SMap.getD_put_same]
  have hevq : (u.cluster cl).evq = rest := by rw [hcl, h.queue]; rfl
  refine ⟨?_, ?_, ⟨hpost.tail, hpost.vec, hpost.record⟩, ?_⟩
  all_goals rw [State.evictEnded, he]
  · have hreq : ({ s.sctOf cl e with st := st, req := [] } : Sct) = { s.sctOf cl e with st := st } := by rw [← h.waits]
    exact hsct.trans hreq
  · exact hevq
  · exact ⟨rfl, rfl, rfl⟩

end

theorem streamContextEvents : StreamContextEvents := by
  intro cl e rest s
  refine ⟨fun hst ht hr => ⟨s.sctExpire cl e, rfl, ?_⟩, fun h => ?_, fun h hlen hroom => ⟨s.evictDone cl e, rfl, ?_⟩,
    fun h hlen hstuck hroom => ⟨s.evictFail cl e, rfl, ?_⟩⟩
  · have he : s.sctExpire cl e = s.sctStart cl e (s.sctOf cl e) := if_pos ⟨hst, ht, hr⟩
    rw [he]
    exact s.sctStart_onlyCl cl e _
  · exact congrArg Host.Outcome.next (if_neg (by tauto))
  · rw [State.evictDone_head h hlen]
    exact State.evictEnded_leaves h hroom 3 4
  · rw [State.evictFail_head h hlen hstuck]
    exact State.evictEnded_leaves h hroom 4 5

/-- Settles O45: each event is one update of its cluster, after which an event record may follow. -/
theorem watchStreamEvents : Obligations.WatchStreamEvents := ⟨watchEvents, streamContextEvents⟩

end Sys2Proof.Machine
end

section
/-!
PROOF. Host accesses to the scratchpads, the lining stores, the mailbox and the BARs (R101 to R103, R345, R349, R351, R363, R364).
-/

namespace Sys2Proof.Machine

open Sys2Proof.Claims

/-! ## Host writes (R101, R103) -/

/-- The entry of the ingress buffer that a host write within a line makes. -/
def lineEntry (off len data : Nat) : Ingress :=
  ⟨off / 64 % 0x10000, data * 2 ^ (8 * (off % 64)), (2 ^ len - 1) * 2 ^ (off % 64)⟩

theorem shifted_lt {v n o k : Nat} (hv : v < 2 ^ n) (h : o + n ≤ k) : v * 2 ^ o < 2 ^ k :=
  calc v * 2 ^ o < 2 ^ n * 2 ^ o := Nat.mul_lt_mul_of_pos_right hv (Nat.two_pow_pos o)
    _ = 2 ^ (o + n) := by rw [Nat.add_comm, Nat.pow_add]
    _ ≤ 2 ^ k := Nat.pow_le_pow_right (by decide) h

theorem State.ingressPut_line {s : State} {off len data : Nat} (hfw : s.mod.trust.fwOk = true) (hlen : 0 < len)
    (hin : off % 64 + len ≤ 64) (hdata : data < 2 ^ (8 * len)) (hoff : off + len ≤ 0x60000000) :
    s.ingressPut off len data = (s.modCore (off / 0x400000) (fun c => { c with
      ingress := c.ingress ++ [lineEntry off len data] })).idleIngress (off / 0x400000) := by
  have hone : (off % 64 + len + 63) / 64 = 1 := by omega
  have hd : fld (data * 2 ^ (8 * (off % 64))) 0 512 = data * 2 ^ (8 * (off % 64)) := fld_of_lt (shifted_lt hdata (by omega))
  have hm : fld ((2 ^ len - 1) * 2 ^ (off % 64)) 0 64 = (2 ^ len - 1) * 2 ^ (off % 64) :=
    fld_of_lt (shifted_lt (Nat.sub_one_lt (Nat.two_pow_pos len).ne') hin)
  have hcore : off / 64 / 0x10000 = off / 0x400000 := Nat.div_div_eq_div_mul ..
  rw [State.ingressPut, if_neg (by simp [hfw]; omega)]
  dsimp only
  rw [hone, List.range_one, List.foldl_cons, List.foldl_nil, Nat.add_zero, if_neg (by omega), Nat.mul_zero, hd, hm, hcore]
  rfl

/-- The cells that an entry of the ingress buffer of a core writes. -/
def Ingress.cells (core : Nat) (e : Ingress) : List (Nat × Byte) :=
  (List.range 64).filterMap (fun k =>
    if Nat.testBit e.mask k then some (core * Config.spadBytes + 64 * e.line + k, byteOf e.data k) else none)

theorem Ingress.mem_cells {core : Nat} {e : Ingress} {a : Nat} {b : Byte} : (a, b) ∈ e.cells core ↔
    ∃ k, k < 64 ∧ e.mask.testBit k = true ∧ a = core * Config.spadBytes + 64 * e.line + k ∧ b = byteOf e.data k := by
  rw [Ingress.cells, List.mem_filterMap]
  refine exists_congr fun k => ?_
  rw [List.mem_range]
  refine and_congr_right fun _ => ?_
  by_cases h : e.mask.testBit k = true
  · rw [if_pos h]
    simp [h, eq_comm]
  · simp [h]

theorem Ingress.nodup_cells (core : Nat) (e : Ingress) : ((e.cells core).map (fun c => c.1)).Nodup := by
  rw [Ingress.cells, List.map_filterMap]
  refine List.nodup_range.filterMap fun k l a hk hl => ?_
  split at hk <;> split at hl <;> simp at hk hl
  omega

theorem testBit_ones_shifted (len o k : Nat) : ((2 ^ len - 1) * 2 ^ o).testBit k = (decide (o ≤ k) && decide (k - o < len)) := by
  rw [Nat.testBit_mul_two_pow, Nat.testBit_two_pow_sub_one]

theorem byteOf_shifted (v o k : Nat) : byteOf (v * 2 ^ (8 * o)) (o + k) = byteOf v k := by
  have hp : (2 : Nat) ^ (8 * o) = 256 ^ o := by rw [Nat.pow_mul]
  rw [byteOf, byteOf, hp, Nat.pow_add, Nat.mul_comm v, Nat.mul_div_mul_left _ _ (Nat.pow_pos (by decide))]

theorem mem_cells_lineEntry {off len data a : Nat} {b : Byte} (hin : off % 64 + len ≤ 64) :
    (a, b) ∈ (lineEntry off len data).cells (off / 0x400000) ↔ ∃ k, k < len ∧ a = off + k ∧ b = byteOf data k := by
  have hbase : off / 0x400000 * Config.spadBytes + 64 * (off / 64 % 0x10000) = off - off % 64 := by
    rw [show Config.spadBytes = 0x400000 from rfl]
    omega
  rw [Ingress.mem_cells]
  simp only [lineEntry, testBit_ones_shifted, hbase, Bool.and_eq_true, decide_eq_true_iff]
  constructor
  · rintro ⟨k, _, ⟨ho, hk⟩, rfl, rfl⟩
    refine ⟨k - off % 64, hk, by omega, ?_⟩
    rw [← byteOf_shifted data (off % 64), Nat.add_sub_cancel' ho]
  · rintro ⟨k, hk, rfl, rfl⟩
    exact ⟨off % 64 + k, by omega, ⟨by omega, by omega⟩, by omega, (byteOf_shifted data _ k).symm⟩

theorem State.applyEntry_mem {s : State} (h : NoWatch s) (core : Nat) (e : Ingress) :
    (s.applyEntry core e).mem = { s.mem with spad := (e.cells core).foldl (fun m c => m.write c.1 c.2) s.mem.spad } :=
  State.coreWrite_mem h _ none

theorem State.coreWrite_ingress {s : State} (h : NoWatch s) (cells : List (Nat × Byte)) (wr : Option Writer) (core : Nat) :
    ((s.coreWrite cells wr).core core).ingress = (s.core core).ingress := by
  refine State.coreWrite_unchanged (fun s => (s.core core).ingress) (fun s n j b => ?_) (fun _ _ _ => rfl) (fun _ _ => rfl)
    (fun _ _ => rfl) h cells wr
  by_cases hn : core = n
  · rw [hn, State.modCore_core_same]
  · rw [State.modCore_core_other _ _ hn]

/-- An idle core applies the one entry of its buffer. -/
theorem State.applyIngress_one {s : State} {core : Nat} {e : Ingress} (h : (s.core core).ingress = [e]) :
    s.applyIngress core (s.core core).ingress.length =
      ((s.modCore core (fun c => { c with ingress := c.ingress.drop 1 })).applyEntry core e).chargeCore core 5 1 := by
  rw [State.applyIngress, h]
  rfl

/-- What the application of the one entry of its buffer makes of an idle core. -/
theorem State.applyIngress_one_effect {s : State} {core : Nat} {e : Ingress} (hw : NoWatch s) (h : (s.core core).ingress = [e]) :
    let t := s.applyIngress core (s.core core).ingress.length
    t.mem = { s.mem with spad := (e.cells core).foldl (fun m c => m.write c.1 c.2) s.mem.spad } ∧ (t.core core).ingress = [] ∧
      ∀ x, (t.ctx x).regs = (s.ctx x).regs := by
  let u := s.modCore core (fun c => { c with ingress := c.ingress.drop 1 })
  have hu : NoWatch u := hw
  have hc := (u.applyEntry core e).chargeCore_onlyCharged core 5 1
  have hempty : (u.core core).ingress = [] := by rw [State.modCore_core_same, h]; rfl
  rw [State.applyIngress_one h]
  refine ⟨hc.mem.trans (State.applyEntry_mem hu core e), ?_, fun x => ?_⟩
  · have hcores : ∀ k, ((u.applyEntry core e).chargeCore core 5 1).core k = (u.applyEntry core e).core k := fun k => by
      rw [State.core, State.core, hc.cores]
    rw [hcores]
    exact (State.coreWrite_ingress hu _ none core).trans hempty
  · have hctx : ((u.applyEntry core e).chargeCore core 5 1).ctx x = _ := hc.ctxs x
    rw [hctx]
    exact State.coreWrite_keeps (fun c => c.regs) (fun _ _ => rfl) hu _ none x

theorem ctxsOf_all {core : Nat} {p : Nat → Bool} : (ctxsOf core).all p = true ↔ ∀ h, h < 4 → p (4 * core + h) = true := by
  simp [ctxsOf]

/-! ## Host reads (R103) -/

theorem foldl_ite_getLast? {α β : Type} (p : α → Bool) (g : α → β) (b : β) (l : List α) :
    l.foldl (fun b e => if p e = true then g e else b) b = ((l.filter p).getLast?.map g).getD b := by
  induction l using List.reverseRecOn with
  | nil => rfl
  | append_singleton l e ih =>
    rw [List.foldl_append, List.foldl_cons, List.foldl_nil, List.filter_append]
    by_cases h : p e = true
    · simp [h]
    · rw [if_neg h, ih, List.filter_singleton, Bool.of_not_eq_true h, cond_false, List.append_nil]

theorem fld_one_eq_testBit (v k : Nat) : fld v k 1 = 1 ↔ v.testBit k = true := by
  rw [fld, Nat.testBit_eq_decide_div_mod_eq, decide_eq_true_iff, Nat.pow_one]

/-- Of the entries that write the byte at an address the last one counts. -/
theorem mergedByte_eq (s : State) (a : Nat) : mergedByte s a =
    (((s.core (a / 0x400000)).ingress.filter (fun e =>
      decide (e.line = a / 64 % 0x10000) && Nat.testBit e.mask (a % 64))).getLast?.map (fun e => byteOf e.data (a % 64))).getD
        (s.mem.spad.read a) := by
  rw [mergedByte]
  split
  next e he => rw [he]; rfl
  next he => rw [he]; rfl

theorem State.hostByte_merged {s : State} {a : Nat} (hfw : s.mod.trust.fwOk = true) (ha : a < 0x60000000) :
    s.hostByte a = mergedByte s a := by
  rw [State.hostByte, if_neg (by simp [hfw]; omega), mergedByte_eq, ← foldl_ite_getLast?]
  simp only [Bool.and_eq_true, decide_eq_true_iff, fld_one_eq_testBit]

theorem State.hostByte_shut {s : State} (hfw : s.mod.trust.fwOk = false) (a : Nat) : s.hostByte a = 0 := if_pos (.inr hfw)

/-! ## Lining stores (R300, R351) -/

/-- The cells of a write to the lining stores. -/
def liningCells (core off len data : Nat) : List (Nat × Byte) :=
  (List.range len).map (fun n => (core * 4096 + off + n, BitVec.ofNat 8 (data / 256 ^ n)))

theorem zipWith_liningCells (core off len data : Nat) :
    List.zipWith (fun k b => (core * 4096 + off + k, b)) (List.range (toBytes data len).length) (toBytes data len) =
      liningCells core off len data := by
  rw [toBytes_length, toBytes_eq_map, List.zipWith_map_right, List.zipWith_self]
  rfl

theorem State.liningWrite_running {s : State} {core : Nat} (h : (s.auxOf core).lining.run = true) (off len data : Nat) :
    s.liningWrite core off (toBytes data len) = s.modAux core (fun x => { x with
      lining := { x.lining with writes := x.lining.writes ++ liningCells core off len data } }) := by
  rw [State.liningWrite, zipWith_liningCells]
  exact if_pos h

theorem Memory.putAll_eq_foldl (m : Memory) (l : List (Nat × Byte)) : m.putAll l = l.foldl (fun m c => m.write c.1 c.2) m := by
  induction l generalizing m with
  | nil => rfl
  | cons x l ih => exact ih _

theorem State.liningWrite_resting {s : State} {core : Nat} (h : (s.auxOf core).lining.run = false) (off len data : Nat) :
    s.liningWrite core off (toBytes data len) =
      { s with mem := { s.mem with lining := hostPut s.mem.lining (core * 4096 + off) (toBytes data len) } } := by
  rw [State.liningWrite, zipWith_liningCells]
  dsimp only
  rw [if_neg (by simp [h]), Memory.putAll_eq_foldl, liningCells, foldl_write_range, ← toBytes_eq_map]

/-! ## The obligation -/

section

variable {s : State} {off len data core : Nat}

theorem ingressWrite_active (hfw : s.mod.trust.fwOk = true) (hlen : 0 < len) (hin : off % 64 + len ≤ 64) (hdata : data < 2 ^ (8 * len))
    (hoff : off + len ≤ 0x60000000) (hactive : ∃ h, h < 4 ∧ (s.ctx (4 * (off / 0x400000) + h)).run.st ≠ .inactive) :
    s.ingressPut off len data = s.modCore (off / 0x400000) (fun c => { c with ingress := c.ingress ++ [lineEntry off len data] }) := by
  rw [State.ingressPut_line hfw hlen hin hdata hoff, State.idleIngress, if_neg]
  rw [ctxsOf_all]
  obtain ⟨h, hh, hst⟩ := hactive
  exact fun hall => hst (of_decide_eq_true (hall h hh))

theorem ingressWrite_idle (hfw : s.mod.trust.fwOk = true) (hlen : 0 < len) (hin : off % 64 + len ≤ 64) (hdata : data < 2 ^ (8 * len))
    (hoff : off + len ≤ 0x60000000) (hidle : ∀ h, h < 4 → (s.ctx (4 * (off / 0x400000) + h)).run.st = .inactive)
    (hempty : (s.core (off / 0x400000)).ingress = []) (hwf : s.mem.spad.wf = true) (hw : NoWatch s) :
    let t := s.ingressPut off len data
    SpadHas s t off len data ∧ (t.core (off / 0x400000)).ingress = [] ∧ (∀ x, (t.ctx x).regs = (s.ctx x).regs) ∧
      t.mem.hbm = s.mem.hbm := by
  let u := s.modCore (off / 0x400000) (fun c => { c with ingress := c.ingress ++ [lineEntry off len data] })
  have hbuf : (u.core (off / 0x400000)).ingress = [lineEntry off len data] := by rw [State.modCore_core_same, hempty]; rfl
  have hall : (ctxsOf (off / 0x400000)).all (fun hw => decide ((u.ctx hw).run.st = .inactive)) = true :=
    ctxsOf_all.2 fun h hh => decide_eq_true (hidle h hh)
  obtain ⟨hmem, hing, hregs⟩ := State.applyIngress_one_effect (s := u) hw hbuf
  rw [State.ingressPut_line hfw hlen hin hdata hoff, State.idleIngress, if_pos hall]
  refine ⟨⟨fun k hk => ?_, fun b hb => ?_⟩, hing, hregs, by rw [hmem]; rfl⟩
  all_goals rw [hmem]
  · exact Memory.foldl_read_mem hwf (Ingress.nodup_cells ..) ((mem_cells_lineEntry hin).2 ⟨k, hk, rfl, rfl⟩)
  · refine Memory.foldl_read_other _ hwf fun c hc e => ?_
    obtain ⟨k, hk, ha, -⟩ := (mem_cells_lineEntry hin).1 hc
    omega

theorem State.attest_answers (s : State) (nonce : Nat) : let t := s.attest nonce
    t.ctxs = s.ctxs ∧ t.mem = s.mem ∧ t.cores = s.cores ∧
    ((s.mod.trust.lmsUsed < Config.lmsLeaves ∧ t.mod.trust.mbStatus = Config.mbOk ∧ t.mod.trust.lmsUsed = s.mod.trust.lmsUsed + 1 ∧
        ∃ r, t.mod.trust.mbReport = some r ∧ r.nonce = nonce % 2 ^ 256 ∧ r.linings.length = 384) ∨
     (Config.lmsLeaves ≤ s.mod.trust.lmsUsed ∧ t.mod.trust.mbStatus = 2 ∧ t.mod.trust.mbReport = none ∧
        t.mod.trust.lmsUsed = s.mod.trust.lmsUsed)) := by
  by_cases h : Config.lmsLeaves ≤ s.mod.trust.lmsUsed
  · have ht : s.attest nonce = _ := if_pos h
    rw [ht]
    exact ⟨rfl, rfl, rfl, .inr ⟨h, rfl, rfl, rfl⟩⟩
  · have ht : s.attest nonce = _ := if_neg h
    rw [ht]
    have hlinings : (s.report (nonce % 2 ^ 256)).linings.length = 384 := by rw [State.report, List.length_map, List.length_range]
    exact ⟨rfl, rfl, rfl, .inl ⟨Nat.lt_of_not_le h, rfl, rfl, _, rfl, rfl, hlinings⟩⟩

end

/-- Settles O53: each access of the host is one update, whose bytes are read back. -/
theorem hostMemoryAccesses : Obligations.HostMemoryAccesses := by
  intro off len data core bar nonce s
  refine ⟨fun hfw hlen hin hdata hoff => ⟨fun hactive => ⟨_, rfl, ?_⟩, fun hidle hempty hwf hw => ⟨_, rfl, ?_⟩⟩,
    fun hfw hoff => ⟨_, rfl, ?_⟩, fun hfw => ⟨?_, ?_, ?_, _, rfl, ?_⟩, fun hfw hrest hwf => ?_, fun hfw hrun => ?_,
    ⟨_, rfl, s.attest_answers nonce⟩, fun hfw => ?_, ⟨_, rfl, rfl, rfl, rfl, rfl, rfl⟩⟩
  · rw [ingressWrite_active hfw hlen hin hdata hoff hactive]
    exact ⟨State.modCore_core_same .., fun x hx => State.modCore_core_other _ _ hx, rfl, rfl⟩
  · exact ingressWrite_idle hfw hlen hin hdata hoff hidle hempty hwf hw
  · refine ⟨List.map_congr_left fun n hn => State.hostByte_merged hfw ?_, rfl, rfl, rfl, rfl⟩
    have := List.mem_range.1 hn
    omega
  · exact congrArg Host.Outcome.next (if_pos (.inr hfw))
  · exact congrArg Host.Outcome.next (if_neg (by simp [hfw]))
  · exact congrArg Host.Outcome.next (if_neg (by simp [hfw]))
  · exact ⟨List.map_congr_left fun n _ => State.hostByte_shut hfw _, rfl⟩
  · refine ⟨s.liningWrite core off (toBytes data len), congrArg Host.Outcome.next (if_pos hfw), ?_⟩
    rw [State.liningWrite_resting hrest]
    refine ⟨fun n hn => ?_, fun b hb => read_hostPut_other _ hwf (by rwa [toBytes_length]), rfl, rfl, rfl⟩
    have hlen : n < (toBytes data len).length := by rwa [toBytes_length]
    exact (read_hostPut_same hwf hlen).trans (toBytes_getElem data hlen)
  · refine ⟨s.liningWrite core off (toBytes data len), congrArg Host.Outcome.next (if_pos hfw), ?_⟩
    rw [State.liningWrite_running hrun]
    exact ⟨rfl, by rw [State.modAux_auxOf_same]; rfl⟩
  · exact ⟨s.modAux core (fun a => { a with acctClear := true }), congrArg Host.Outcome.next (if_pos hfw),
      State.modAux_auxOf_same .., fun n hn => State.modAux_auxOf_other _ _ hn, rfl, rfl⟩

end Sys2Proof.Machine
end

section
/-!
SUPPORT. The fields of a record of which one is set anew (R247).
-/

namespace Sys2Proof

/-- A record as its digits above, in and below a field. -/
theorem split_at_field (d lo n : Nat) : d = d / 2 ^ (lo + n) * 2 ^ (lo + n) + (fld d lo n * 2 ^ lo + d % 2 ^ lo) := by
  have hlow := Nat.div_add_mod' d (2 ^ lo)
  have hhigh := Nat.div_add_mod' (d / 2 ^ lo) (2 ^ n)
  rw [Nat.div_div_eq_div_mul, ← Nat.pow_add] at hhigh
  rw [Nat.pow_add, Nat.mul_comm (2 ^ lo) (2 ^ n), ← Nat.mul_assoc, ← Nat.add_assoc, ← Nat.add_mul, ← Nat.pow_add,
    Nat.add_comm n, fld, hhigh, hlow]

theorem setField_eq (d lo n v : Nat) : Machine.setField d lo n v =
    d / 2 ^ (8 * lo + 8 * n) * 2 ^ (8 * lo + 8 * n) + (v % 2 ^ (8 * n) * 2 ^ (8 * lo) + d % 2 ^ (8 * lo)) := by
  have hd := split_at_field d (8 * lo) (8 * n)
  rw [Machine.setField]
  omega

theorem field_and_below_lt {v lo n x : Nat} (hv : v < 2 ^ n) : v * 2 ^ lo + x % 2 ^ lo < 2 ^ (lo + n) := by
  have hx : x % 2 ^ lo < 2 ^ lo := Nat.mod_lt _ (Nat.two_pow_pos lo)
  have hm : (v + 1) * 2 ^ lo ≤ 2 ^ n * 2 ^ lo := Nat.mul_le_mul_right _ hv
  rw [Nat.add_mul, Nat.one_mul] at hm
  rw [Nat.add_comm lo, Nat.pow_add]
  omega

theorem fld_setField_same (d lo n v : Nat) : fld (Machine.setField d lo n v) (8 * lo) (8 * n) = v % 2 ^ (8 * n) := by
  rw [setField_eq, fld_add_of_dvd (Nat.dvd_mul_left _ _),
    fld_add_of_lt (Nat.dvd_mul_left _ _) (Nat.mod_lt _ (Nat.two_pow_pos _)), fld_mul_pow (Nat.mod_lt _ (Nat.two_pow_pos _))]

theorem fld_congr_mod {x y k a m : Nat} (h : x % 2 ^ k = y % 2 ^ k) (ha : a + m ≤ k) : fld x a m = fld y a m := by
  have hfld (z : Nat) : fld z a m = fld (z % 2 ^ k) a m := by
    have hz := fld_fld (w := z) (a := 0) ha
    rwa [Nat.zero_add, show fld z 0 k = z % 2 ^ k by rw [fld, Nat.pow_zero, Nat.div_one], eq_comm] at hz
  rw [hfld x, hfld y, h]

theorem fld_congr_div {x y k a m : Nat} (h : x / 2 ^ k = y / 2 ^ k) (ha : k ≤ a) : fld x a m = fld y a m := by
  obtain ⟨c, rfl⟩ := Nat.exists_eq_add_of_le ha
  rw [fld, fld, Nat.pow_add, ← Nat.div_div_eq_div_mul, ← Nat.div_div_eq_div_mul, h]

theorem fld_setField_other (d v : Nat) {lo n a m : Nat} (h : a + m ≤ 8 * lo ∨ 8 * lo + 8 * n ≤ a) :
    fld (Machine.setField d lo n v) a m = fld d a m := by
  rw [setField_eq]
  rcases h with h | h
  · refine fld_congr_mod (k := 8 * lo) ?_ h
    rw [Nat.pow_add, Nat.mul_comm (2 ^ (8 * lo)), ← Nat.mul_assoc, ← Nat.add_assoc, ← Nat.add_mul, Nat.mul_add_mod_self_right,
      Nat.mod_mod]
  · refine fld_congr_div (k := 8 * lo + 8 * n) ?_ h
    rw [Nat.mul_comm, Nat.mul_add_div (Nat.two_pow_pos _),
      Nat.div_eq_of_lt (field_and_below_lt (Nat.mod_lt _ (Nat.two_pow_pos _))), Nat.add_zero]

end Sys2Proof
end

section
/-!
SUPPORT. What the packet that stands next in a queue leaves of the queue when it begins (R270, R273, R276, R279).
-/

namespace Sys2Proof.Machine

open Sys2Proof.Claims

/-! ## States that differ in a queue and in the packets read -/

/-- Only queue `q` differs, and the identifier that the next packet or record gets. -/
structure QueueOnly (s t : State) (q : Nat) : Prop where
  others : ∀ k, k ≠ q → t.queue k = s.queue k
  rest : ∃ qs id, t = { s with front := { s.front with queues := qs, nextId := id } }

theorem QueueOnly.refl (s : State) (q : Nat) : QueueOnly s s q := ⟨fun _ _ => rfl, _, _, rfl⟩

theorem QueueOnly.trans {s t u : State} {q : Nat} (h : QueueOnly s t q) (h' : QueueOnly t u q) : QueueOnly s u q := by
  refine ⟨fun k hk => (h'.others k hk).trans (h.others k hk), ?_⟩
  obtain ⟨qs, id, rfl⟩ := h.rest
  obtain ⟨qs', id', rfl⟩ := h'.rest
  exact ⟨qs', id', rfl⟩

theorem aside_trans {s t u : State} (h : Aside s t) (h' : Aside t u) : Aside s u :=
  ⟨h'.ctxs.trans h.ctxs, h'.cores.trans h.cores, h'.clusters.trans h.clusters, h'.launches.trans h.launches, h'.links.trans h.links⟩

theorem QueueOnly.cluster {s t : State} {q : Nat} (h : QueueOnly s t q) (cl : Nat) : t.cluster cl = s.cluster cl := by
  obtain ⟨qs, id, rfl⟩ := h.rest
  rfl

theorem QueueOnly.mod {s t : State} {q : Nat} (h : QueueOnly s t q) : t.mod = s.mod := by
  obtain ⟨qs, id, rfl⟩ := h.rest
  rfl

theorem QueueOnly.mem {s t : State} {q : Nat} (h : QueueOnly s t q) : t.mem = s.mem := by
  obtain ⟨qs, id, rfl⟩ := h.rest
  rfl

theorem QueueOnly.ev {s t : State} {q : Nat} (h : QueueOnly s t q) : t.front.ev = s.front.ev := by
  obtain ⟨qs, id, rfl⟩ := h.rest
  rfl

theorem QueueOnly.aside {s t : State} {q : Nat} (h : QueueOnly s t q) : Aside s t := by
  obtain ⟨qs, id, rfl⟩ := h.rest
  exact ⟨rfl, rfl, rfl, rfl, rfl⟩

theorem State.modQueue_queue_same (s : State) (q : Nat) (f : Queue → Queue) : (s.modQueue q f).queue q = f (s.queue q) := by
  rw [State.queue, State.modQueue, SMap.getD_put_same]

theorem State.modQueue_queue_other (s : State) {q k : Nat} (f : Queue → Queue) (h : k ≠ q) : (s.modQueue q f).queue k = s.queue k := by
  rw [State.queue, State.queue, State.modQueue_front]
  exact SMap.getD_put_other _ _ _ h

theorem queueOnly_modQueue (s : State) (q : Nat) (f : Queue → Queue) : QueueOnly s (s.modQueue q f) q :=
  ⟨fun _ hk => s.modQueue_queue_other f hk, _, _, rfl⟩

/-! ## Reading ahead (R273, R278) -/

/-- Packets of queue `q` have been read, and nothing else has happened. -/
structure ReadOn (s t : State) (q : Nat) : Prop where
  only : QueueOnly s t q
  it : ∃ lv ahead, t.queue q = { s.queue q with lv := lv, ahead := ahead }

theorem ReadOn.refl (s : State) (q : Nat) : ReadOn s s q := ⟨.refl s q, _, _, rfl⟩

theorem ReadOn.trans {s t u : State} {q : Nat} (h : ReadOn s t q) (h' : ReadOn t u q) : ReadOn s u q := by
  refine ⟨h.only.trans h'.only, ?_⟩
  obtain ⟨lv, ahead, ht⟩ := h.it
  obtain ⟨lv', ahead', hu⟩ := h'.it
  exact ⟨lv', ahead', by rw [hu, ht]⟩

theorem State.readPkt_readOn (s : State) (q : Nat) : ReadOn s (s.readPkt q) q := by
  unfold State.readPkt
  dsimp only
  split
  · exact .refl s q
  · split
    · exact .refl s q
    · refine ⟨⟨fun k hk => State.modQueue_queue_other _ _ hk, _, _, rfl⟩, ?_⟩
      rw [State.modQueue_queue_same]
      exact ⟨_, _, rfl⟩

theorem State.readAhead_readOn (s : State) (q n : Nat) : ReadOn s (s.readAhead q n) q := by
  induction n generalizing s with
  | zero => exact .refl s q
  | succ n ih =>
    rw [State.readAhead]
    split
    · exact (s.readPkt_readOn q).trans (ih _)
    · exact .refl s q

/-! ## Completing (R274 to R276) -/

/-- A queue that is not to stop or to be enabled, in which no LOOP or INDIR has begun. -/
structure Queue.Plain (u : Queue) : Prop where
  stopping : u.stopping = false
  enPend : u.enPend = false
  begun : ∀ b ∈ u.begun, b.pkt.type ≠ 6 ∧ b.pkt.type ≠ 7

theorem Queue.Plain.rest_eq {u : Queue} (h : u.Plain) : u.rest = u := by
  simp [Queue.rest, h.stopping, h.enPend]

theorem State.tidy_plain {s : State} {q : Nat} (h : (s.queue q).Plain) : s.tidy q = s.modQueue q Queue.rest := by
  have hnone : (s.queue q).begun.find? (fun b => (decide (b.pkt.type = 6) || decide (b.pkt.type = 7)) &&
      !(s.queue q).open_ b.pkt.id) = none := by
    refine List.find?_eq_none.2 fun b hb => ?_
    obtain ⟨h6, h7⟩ := h.begun b hb
    simp [h6, h7]
  rw [State.tidy, State.closeAll, hnone]

theorem State.tidy_plain_readOn {s : State} {q : Nat} (h : (s.queue q).Plain) : ReadOn s (s.tidy q) q := by
  rw [State.tidy_plain h]
  refine ⟨queueOnly_modQueue s q _, ?_⟩
  rw [State.modQueue_queue_same, h.rest_eq]
  exact ⟨_, _, rfl⟩

/-- The one packet that has begun completes, and posts nothing. -/
theorem State.pktDone_alone {s : State} {q prog : Nat} {p : Pkt} (hb : (s.queue q).begun = [⟨p, prog⟩]) (hev : fld p.w 9 1 = 0)
    (hstop : (s.queue q).stopping = false) (hen : (s.queue q).enPend = false) (detail : Nat) :
    let t := s.pktDone q p.id detail
    QueueOnly s t q ∧ t.queue q = { s.queue q with begun := [] } := by
  let s1 := s.modQueue q (fun u => { u with begun := u.begun.filter (fun x => decide (x.pkt.id ≠ p.id)) })
  have h1 : s1.queue q = { s.queue q with begun := [] } := by
    rw [State.modQueue_queue_same, hb]
    simp
  have hplain : (s1.queue q).Plain := by rw [h1]; exact ⟨hstop, hen, nofun⟩
  have hdone : s.pktDone q p.id detail = s1.modQueue q Queue.rest := by
    rw [State.pktDone, hb]
    simp only [List.find?_cons, decide_true, State.postDone, Pkt.ev, hev, Nat.zero_ne_one, decide_false, Bool.false_eq_true, if_false]
    exact State.tidy_plain hplain
  rw [hdone]
  refine ⟨(queueOnly_modQueue s q _).trans (queueOnly_modQueue s1 q _), ?_⟩
  rw [State.modQueue_queue_same, hplain.rest_eq, h1]

/-! ## Queue errors (R279) -/

/-- A queue error counts in QSTAT and posts an event; nothing else changes (R279). -/
theorem State.queueErr_cases (s : State) (q code pkt extra : Nat) :
    let t := s.queueErr q code pkt extra
    t.queue q = { s.queue q with
      count := min ((s.queue q).count + 1) 0xFFFF
      first := if (s.queue q).count = 0 then code else (s.queue q).first
      fpkt := if (s.queue q).count = 0 then pkt % 2 ^ 39 else (s.queue q).fpkt } ∧
    (∀ k, k ≠ q → t.queue k = s.queue k) ∧ Aside s t ∧ t.mod = s.mod ∧ (EventRoom s → Posted s t 2 q code pkt extra) := by
  let u := s.modQueue q (fun u => { u with
    count := min (u.count + 1) 0xFFFF
    first := if u.count = 0 then code else u.first
    fpkt := if u.count = 0 then pkt % 2 ^ 39 else u.fpkt })
  obtain ⟨m, ev, he⟩ := u.postEvent_cases 2 q code pkt extra
  have ht : s.queueErr q code pkt extra = u.postEvent 2 q code pkt extra := rfl
  have hqueue (k : Nat) : (s.queueErr q code pkt extra).queue k = u.queue k := by rw [ht, he]; rfl
  refine ⟨(hqueue q).trans (s.modQueue_queue_same q _), fun k hk => (hqueue k).trans (s.modQueue_queue_other _ hk), ?_, ?_,
    fun hroom => ?_⟩
  · rw [ht, he]
    exact ⟨rfl, rfl, rfl, rfl, rfl⟩
  · rw [ht, he]
    rfl
  · obtain ⟨htail, hvec, hrecord⟩ := State.posted_postEvent (s := u) hroom 2 q code pkt extra
    exact ⟨htail, hvec, hrecord⟩

/-! ## Beginning (R276) -/

/-- A queue after its next packet has been taken. -/
def Queue.popped (u : Queue) (p : Pkt) : Queue := { u with ahead := u.ahead.tail, here := p.next, prep := none, head := headOf p.next }

section

variable {s : State} {q type : Nat} {p : Pkt} {rest : List Pkt}

theorem Pkt.not_bad (h : p.err = none) : p.bad = false ∧ p.type ≤ 11 := by
  unfold Pkt.err at h
  split at h
  · cases h
  next hbad =>
    split at h
    · cases h
    next htype => exact ⟨Bool.of_not_eq_true hbad, Nat.le_of_not_lt htype⟩

theorem State.nextPkt_of_nextUp (h : NextUp s q p rest type) : s.nextPkt q = s := by
  rw [State.nextPkt, h.ahead]
  rfl

theorem Queue.heldByAt_of_nextUp (h : NextUp s q p rest type) : (s.queue q).heldByAt = false := by
  rw [Queue.heldByAt, h.begun]
  rfl

theorem State.settleQueue_of_nextUp (h : NextUp s q p rest type) (fuel : Nat) : s.settleQueue q (fuel + 1) = s := by
  obtain ⟨hbad, htype⟩ := Pkt.not_bad h.ok
  unfold State.settleQueue
  simp [State.nextPkt_of_nextUp h, Queue.heldByAt_of_nextUp h, h.en, h.ahead, h.skip, hbad, htype]

theorem Queue.mayBegin_of_nextUp (h : NextUp s q p rest type) : (s.queue q).mayBegin p = true := by
  simp [Queue.mayBegin, Queue.heldByAt_of_nextUp h, h.en, h.begun]

theorem State.popPkt_of_nextUp (h : NextUp s q p rest type) : s.popPkt q p = s.modQueue q (fun u => u.popped p) := by
  have hb : ((s.modQueue q (fun u => u.popped p)).queue q).begun = [] := (congrArg Queue.begun (s.modQueue_queue_same q _)).trans h.begun
  unfold State.popPkt
  dsimp only
  split
  next b hf => cases hf.symm.trans (congrArg (List.find? (fun b => decide (b.pkt.type = 9))) hb)
  · rfl

/-- The next packet begins with its effect on the state in which it has been taken; then packets are read. -/
theorem State.begin_of_nextUp (h : NextUp s q p rest type) (ahead : Nat) (eff : State → Pkt → State) :
    s.begin_ q ahead type eff = ((eff (s.modQueue q (fun u => u.popped p)) p).readAhead q ahead).tidy q := by
  have htype : p.type = type := h.type
  unfold State.begin_
  simp only [State.settleQueue_of_nextUp h 8191, State.nextPkt_of_nextUp h, h.ahead, htype, Queue.mayBegin_of_nextUp h, h.ok,
    State.popPkt_of_nextUp h]
  exact if_neg (by simp)

/-- What follows the effect of a packet that begins reads packets of its queue, and does nothing else. -/
theorem State.begin_readOn (h : NextUp s q p rest type) (ahead : Nat) {eff : State → Pkt → State}
    (hplain : ((eff (s.modQueue q (fun u => u.popped p)) p).queue q).Plain) :
    ReadOn (eff (s.modQueue q (fun u => u.popped p)) p) (s.begin_ q ahead type eff) q := by
  have hread := (eff (s.modQueue q (fun u => u.popped p)) p).readAhead_readOn q ahead
  obtain ⟨lv, l, hq⟩ := hread.it
  rw [State.begin_of_nextUp h]
  refine hread.trans (State.tidy_plain_readOn ?_)
  rw [hq]
  exact ⟨hplain.stopping, hplain.enPend, hplain.begun⟩

/-- A packet has begun where the state read on from has taken it, whatever has been counted in QSTAT. -/
theorem ReadOn.began {u t : State} (hr : ReadOn u t q) (h : NextUp s q p rest type) {b : List Begun} {c f k : Nat}
    (hq : u.queue q = { (s.queue q).popped p with begun := b, count := c, first := f, fpkt := k })
    (hothers : ∀ k, k ≠ q → u.queue k = s.queue k) (hmod : u.mod = s.mod) :
    Began s t q p b 0 ∧ (t.queue q).count = c ∧ (t.queue q).first = f ∧ (t.queue q).fpkt = k := by
  obtain ⟨lv, l, ht⟩ := hr.it
  rw [hq] at ht
  refine ⟨⟨?_, ?_, ?_, ?_, ?_, ⟨?_, ?_, ?_⟩,
    fun k hk => (hr.only.others k hk).trans (hothers k hk), hr.only.mod.trans hmod⟩, ?_⟩
  all_goals rw [ht]
  · exact h.skip
  · rfl
  · rfl
  · exact h.en
  · rfl
  · rfl
  · rfl
  · exact ⟨rfl, rfl, rfl⟩

/-- The state in which a packet that has been taken goes on. -/
def State.underway (s : State) (q : Nat) (p : Pkt) : State := (s.modQueue q (fun u => u.popped p)).goesOn q p 0

theorem State.queue_underway (h : NextUp s q p rest type) :
    (s.underway q p).queue q = { (s.queue q).popped p with begun := [⟨p, 0⟩] } := by
  rw [State.underway, State.goesOn, State.modQueue_queue_same, State.modQueue_queue_same, Queue.popped, h.begun]
  rfl

theorem queueOnly_underway (s : State) (q : Nat) (p : Pkt) : QueueOnly s (s.underway q p) q :=
  (queueOnly_modQueue s q _).trans (queueOnly_modQueue _ q (fun u => { u with begun := u.begun ++ [⟨p, 0⟩] }))

end

end Sys2Proof.Machine
end

section
/-!
PROOF. STREAM packets (R104 to R108, R275, R286).
-/

namespace Sys2Proof.Machine

open Sys2Proof.Claims

/-! ## STREAM (R286) -/

section

variable {s : State} {q op e cl : Nat} {p : Pkt} {rest : List Pkt}

theorem State.streamBegin_of_nextUp (h : NextUp s q p rest 10) (hop : fld p.w 16 2 = op) (ahead : Nat) (r : Pkt → State → SctRes) :
    s.streamBegin q ahead op r = s.begin_ q ahead 10 (fun s p => s.sctEff q p (r p)) := by
  refine if_pos ?_
  unfold State.streamOp
  simp [State.settleQueue_of_nextUp h 8191, State.nextPkt_of_nextUp h, h.ahead, Pkt.field, hop]

/-- The queue while an op has changed its cluster alone. -/
theorem queue_of_onlyCl {v : State} {c : Cluster} (h : NextUp s q p rest 10) (hv : OnlyCl (s.underway q p) v cl c) :
    v.queue q = { (s.queue q).popped p with begun := [⟨p, 0⟩] } ∧ ∀ k, k ≠ q → v.queue k = s.queue k := by
  have hqueue (k : Nat) : v.queue k = (s.underway q p).queue k := by rw [State.queue, State.queue, hv.front]
  exact ⟨(hqueue q).trans (State.queue_underway h), fun k hk => (hqueue k).trans ((queueOnly_underway s q p).others k hk)⟩

/-- An op that is done changes its cluster, and its packet completes. -/
theorem State.streamBegin_done (h : NextUp s q p rest 10) (hop : fld p.w 16 2 = op) (hev : fld p.w 9 1 = 0) (ahead : Nat)
    {r : Pkt → State → SctRes} {v : State} {c : Cluster} (hr : r p (s.underway q p) = .done v)
    (hv : OnlyCl (s.underway q p) v cl c) :
    let t := s.streamBegin q ahead op r
    t.cluster cl = c ∧ Began s t q p [] 0 ∧ NoError s t q ∧ t.ctxs = s.ctxs ∧ t.mem = s.mem := by
  obtain ⟨hq, hothers⟩ := queue_of_onlyCl h hv
  obtain ⟨honly, hdone⟩ := State.pktDone_alone (congrArg Queue.begun hq) hev ((congrArg Queue.stopping hq).trans h.stop.1)
    ((congrArg Queue.enPend hq).trans h.stop.2) 0
  rw [hq] at hdone
  have heff : (s.modQueue q (fun u => u.popped p)).sctEff q p (r p) = v.pktDone q p.id 0 := by
    rw [State.sctEff, ← State.underway, hr]
  have hread := State.begin_readOn h ahead (eff := fun s p => s.sctEff q p (r p)) (by
    rw [heff, hdone]
    exact ⟨h.stop.1, h.stop.2, nofun⟩)
  rw [heff] at hread
  have hall := honly.trans hread.only
  obtain ⟨hbegan, hnoerr⟩ := hread.began h hdone (fun k hk => (honly.others k hk).trans (hothers k hk)) (honly.mod.trans hv.mod)
  rw [State.streamBegin_of_nextUp h hop]
  exact ⟨(hall.cluster cl).trans hv.it, hbegan, hnoerr, hall.aside.ctxs.trans hv.ctxs, hall.mem.trans hv.mem⟩

/-- An op that waits changes its cluster, and its packet goes on. -/
theorem State.streamBegin_wait (h : NextUp s q p rest 10) (hop : fld p.w 16 2 = op) (ahead : Nat)
    {r : Pkt → State → SctRes} {v : State} {c : Cluster} (hr : r p (s.underway q p) = .wait v)
    (hv : OnlyCl (s.underway q p) v cl c) :
    let t := s.streamBegin q ahead op r
    t.cluster cl = c ∧ Began s t q p [⟨p, 0⟩] 0 ∧ NoError s t q ∧ t.ctxs = s.ctxs ∧ t.mem = s.mem := by
  obtain ⟨hq, hothers⟩ := queue_of_onlyCl h hv
  have heff : (s.modQueue q (fun u => u.popped p)).sctEff q p (r p) = v := by rw [State.sctEff, ← State.underway, hr]
  have htype : p.type = 10 := h.type
  have hread := State.begin_readOn h ahead (eff := fun s p => s.sctEff q p (r p)) (by
    rw [heff, hq]
    exact ⟨h.stop.1, h.stop.2, by simp [htype]⟩)
  rw [heff] at hread
  obtain ⟨hbegan, hnoerr⟩ := hread.began h hq hothers hv.mod
  rw [State.streamBegin_of_nextUp h hop]
  exact ⟨(hread.only.cluster cl).trans hv.it, hbegan, hnoerr, hread.only.aside.ctxs.trans hv.ctxs, hread.only.mem.trans hv.mem⟩

/-- An op that fails records the queue error STREAM (R279). -/
theorem State.streamBegin_err (h : NextUp s q p rest 10) (hop : fld p.w 16 2 = op) (ahead : Nat) {r : Pkt → State → SctRes}
    (hr : r p (s.underway q p) = .err) :
    let t := s.streamBegin q ahead op r
    Began s t q p [] 0 ∧ ErrorAt s t q 8 p.num ∧ Aside s t := by
  let v := s.modQueue q (fun u => u.popped p)
  have hv : v.queue q = (s.queue q).popped p := s.modQueue_queue_same q _
  obtain ⟨hq, hothers, haside, hmod, hpost⟩ := v.queueErr_cases q 8 p.num 0
  rw [hv] at hq
  have heff : v.sctEff q p (r p) = v.queueErr q 8 p.num 0 := by rw [State.sctEff, ← State.underway, hr]
  have hread := State.begin_readOn h ahead (eff := fun s p => s.sctEff q p (r p)) (by
    rw [heff, hq]
    exact ⟨h.stop.1, h.stop.2, fun b hb => by rw [Queue.popped, h.begun] at hb; cases hb⟩)
  rw [heff] at hread
  obtain ⟨hbegan, hcount, hfirst, hfpkt⟩ := hread.began h (b := []) (hq.trans (by rw [Queue.popped, h.begun]))
    (fun k hk => (hothers k hk).trans (s.modQueue_queue_other _ hk)) hmod
  rw [State.streamBegin_of_nextUp h hop]
  refine ⟨hbegan, ⟨hcount, fun h0 => ⟨hfirst.trans (if_pos h0), hfpkt.trans (if_pos h0)⟩,
    fun h0 => ⟨hfirst.trans (if_neg h0), hfpkt.trans (if_neg h0)⟩, fun hroom => ?_⟩,
    aside_trans (aside_trans (queueOnly_modQueue s q _).aside haside) hread.only.aside⟩
  obtain ⟨htail, hvec, hrecord⟩ := hpost hroom
  exact ⟨(congrArg EvRing.tail hread.only.ev).trans htail, (congrArg EvRing.raised hread.only.ev).trans hvec,
    by rw [hread.only.mem]; exact hrecord⟩

/-! ## The stream table (R105, R108) -/

theorem onlyCl_setSct (s : State) (cl e : Nat) (x : Sct) :
    OnlyCl s (s.setSct cl e x) cl { s.cluster cl with sct := SMap.put (s.cluster cl).sct e x } := onlyCl_modCl s cl _

theorem find?_range_lowest {n e : Nat} {p : Nat → Bool} (hlt : e < n) (he : p e = true) (hlow : ∀ k, k < e → p k = false) :
    (List.range n).find? p = some e :=
  List.find?_range_eq_some.2 ⟨he, List.mem_range.2 hlt, fun k hk => by rw [hlow k hk]; rfl⟩

theorem State.sctRoom_lowest (h : e < 4096 ∧ (s.sctOf cl e).st = 0 ∧ ∀ k, k < e → (s.sctOf cl k).st ≠ 0) :
    (s.cluster cl).sctRoom = some e := by
  obtain ⟨hlt, hfree, hlow⟩ := h
  have hfind := find?_range_lowest (p := fun e => decide ((s.sctOf cl e).st = 0)) hlt (decide_eq_true hfree)
    fun k hk => decide_eq_false (hlow k hk)
  unfold Cluster.sctRoom
  split
  next k hk => exact hk.symm.trans hfind
  next hk => cases hk.symm.trans hfind

theorem Cluster.sctOverlap_apart {c : Cluster} {region len : Nat} (h : ∀ x ∈ c.sct, x.2.st = 1 ∨ x.2.st = 2 ∨ x.2.st = 4 →
    x.2.region + x.2.len ≤ region ∨ region + len ≤ x.2.region) : c.sctOverlap region len = false := by
  rw [Cluster.sctOverlap, List.any_eq_false]
  intro x hx hover
  simp only [Bool.and_eq_true, Bool.or_eq_true, decide_eq_true_iff] at hover
  obtain ⟨⟨hst, hlow⟩, hhigh⟩ := hover
  have := h x hx (by tauto)
  omega

/-- The entry that a pin writes. -/
def pinEntry (asid q : Nat) (p : Pkt) : Sct :=
  ⟨pw p 1, 1, asid, BitVec.ofNat 64 (pw p 2 % 2 ^ 56), pw p 4, pw p 3, pw p 5, pw p 5, false, 0, q, [], []⟩

theorem State.sctPin_pinnable {v : State} (hv : v.clusters = s.clusters) (h : Pinnable s p e) (hload : fld p.w 18 1 = 0) :
    v.sctPin (p.field 24 3) (v.sctReq q p) =
      .done (v.setSct (fld p.w 24 3) e (pinEntry (v.queue q).asid q p)) := by
  have hcl : v.cluster (fld p.w 24 3) = s.cluster (fld p.w 24 3) := by rw [State.cluster, State.cluster, hv]
  have hroom := State.sctRoom_lowest h.free
  have hapart := Cluster.sctOverlap_apart h.apart
  obtain ⟨hlen, hmin, hmax⟩ := h.len
  obtain ⟨hhome, hregion, hin⟩ := h.place
  have hreq : v.sctReq q p = ⟨pw p 1, pw p 2, pw p 3, pw p 4, pw p 5, false, (v.queue q).asid, q, p.id⟩ := by
    simp only [State.sctReq, Pkt.field, hload]
    rfl
  rw [hreq, State.sctPin, Pkt.field, hcl]
  dsimp only
  rw [if_neg (by omega), h.new]
  dsimp only
  rw [hroom]
  dsimp only
  rw [hapart, if_neg (by decide)]
  rfl

theorem State.sctTouch_held {x : Sct} (hfind : (s.cluster cl).sctFind (pw p 1) = some (e, x)) (hst : x.st = 1 ∨ x.st = 2) :
    s.sctTouch cl (p.word 1) = .done (s.setSct cl e { x with remain := x.timeout }) := by
  have hfind' : (s.cluster cl).sctFind (p.word 1) = some (e, x) := hfind
  rw [State.sctTouch, hfind']
  rcases hst with hst | hst <;> simp only [hst]

theorem State.sctEvict_held {x : Sct} (hfind : (s.cluster cl).sctFind (pw p 1) = some (e, x)) (hst : x.st = 1 ∨ x.st = 4)
    (r : Nat × Nat) : s.sctEvict cl (p.word 1) r = .wait (s.sctStart cl e { x with req := x.req ++ [r] }) := by
  have hfind' : (s.cluster cl).sctFind (p.word 1) = some (e, x) := hfind
  rw [State.sctEvict, hfind']
  rcases hst with hst | hst <;> simp only [hst]

end

theorem streamPacketResult : StreamPacketResult := by
  intro q ahead e x s p rest h hev
  have hclusters : (s.underway q p).clusters = s.clusters := rfl
  have hasid : ((s.underway q p).queue q).asid = (s.queue q).asid := (congrArg Queue.asid (State.queue_underway h) :)
  refine ⟨fun hop hload hpin => ⟨_, rfl, ?_⟩, fun hop hfind hst => ⟨_, rfl, ?_⟩, fun hop hfind hst => ⟨_, rfl, ?_⟩,
    fun hnone => ⟨fun hop => ⟨_, rfl, ?_⟩, fun hop => ⟨_, rfl, ?_⟩⟩⟩
  · obtain ⟨hcl, hrest⟩ := State.streamBegin_done h hop hev ahead
      (r := fun p s => s.sctPin (p.field 24 3) (s.sctReq q p)) (State.sctPin_pinnable hclusters hpin hload) (onlyCl_setSct ..)
    refine ⟨?_, hrest⟩
    rw [State.sctOf, hcl, SMap.getD_put_same, hasid]
    rfl
  · obtain ⟨hcl, hrest⟩ := State.streamBegin_done h hop hev ahead (r := fun p s => s.sctTouch (p.field 24 3) (p.word 1))
      (State.sctTouch_held (s := s.underway q p) hfind hst) (onlyCl_setSct _ (fld p.w 24 3) e _)
    exact ⟨by rw [State.sctOf, hcl, SMap.getD_put_same], hrest⟩
  · obtain ⟨hcl, hrest⟩ := State.streamBegin_wait h hop ahead (r := fun p s => s.sctEvict (p.field 24 3) (p.word 1) (q, p.id))
      (State.sctEvict_held (s := s.underway q p) hfind hst (q, p.id)) (State.sctStart_onlyCl _ (fld p.w 24 3) e _)
    exact ⟨by rw [State.sctOf, hcl, SMap.getD_put_same], congrArg Cluster.evq hcl, hrest⟩
  · refine State.streamBegin_err h hop ahead ?_
    have hfind : ((s.underway q p).cluster (p.field 24 3)).sctFind (p.word 1) = none := hnone
    rw [State.sctTouch, hfind]
  · refine State.streamBegin_err h hop ahead ?_
    have hfind : ((s.underway q p).cluster (p.field 24 3)).sctFind (p.word 1) = none := hnone
    rw [State.sctEvict, hfind]

end Sys2Proof.Machine
end

section
/-!
PROOF. TASK packets (R247, R248, R259, R260, R275).
-/

namespace Sys2Proof.Machine

open Sys2Proof.Claims

/-! ## What the command processors read (R63, R66) -/

theorem State.translate_front (s : State) (f : Front) (cl eng asid : Nat) (write : Bool) (fuel va n : Nat) :
    State.translate { s with front := f } cl eng asid write fuel va n = s.translate cl eng asid write fuel va n := by
  induction fuel generalizing va n with
  | zero => rfl
  | succ fuel ih =>
    simp only [State.translate, ih]
    rfl

/-- No read of a command processor depends on the queues. -/
theorem State.procRead_front (s : State) (f : Front) (asid va n : Nat) :
    State.procRead { s with front := f } asid va n = s.procRead asid va n := by
  simp only [State.procRead, State.procPieces, State.translate_front]
  rfl

theorem QueueOnly.procRead {s t : State} {q : Nat} (h : QueueOnly s t q) (asid va n : Nat) :
    t.procRead asid va n = s.procRead asid va n := by
  obtain ⟨qs, id, rfl⟩ := h.rest
  exact s.procRead_front _ asid va n

/-! ## Records (R247, R259, R260) -/

/-- The record that a TASK pushes. -/
def taskRecord (d qn cl : Nat) : Nat := setField (setField (setField (setField d 16 2 qn) 18 1 cl) 19 1 0) 20 4 0

theorem taskRecord_fields (d cl : Nat) {n : Nat} (hn : n < 0x100) : let r := taskRecord d n cl
    fld r 128 16 = n ∧ fld r 144 8 = cl % 256 ∧ fld r 152 8 = 0 ∧ fld r 160 32 = 0 ∧
      ∀ k, k < 16 ∨ (24 ≤ k ∧ k < 64) → fld r (8 * k) 8 = fld d (8 * k) 8 := by
  refine ⟨?_, ?_, ?_, fld_setField_same _ 20 4 0, fun k hk => ?_⟩
  · rw [taskRecord, fld_setField_other _ _ (by decide), fld_setField_other _ _ (by decide), fld_setField_other _ _ (by decide)]
    exact (fld_setField_same d 16 2 n).trans (Nat.mod_eq_of_lt (by omega))
  · rw [taskRecord, fld_setField_other _ _ (by decide), fld_setField_other _ _ (by decide)]
    exact fld_setField_same _ 18 1 cl
  · rw [taskRecord, fld_setField_other _ _ (by decide)]
    exact fld_setField_same _ 19 1 0
  · rw [taskRecord]
    iterate 4 rw [fld_setField_other _ _ (by omega)]

theorem recIllop_eq_none {d : Nat} (hkind : ¬ SpawnKind d) (hscope : ¬ RecordScope d) : recIllop d false = none := by
  refine if_neg fun h => ?_
  simp only [Bool.or_eq_true, Bool.and_eq_true, decide_eq_true_iff] at h
  rcases h with ⟨⟨-, h0⟩, h3⟩ | h4
  · exact hkind ⟨h0, h3⟩
  · exact hscope h4

theorem recIllbnd_eq_none {d n : Nat} (hbits : ¬ SpawnBits d n) : recIllbnd d false = none := by
  refine if_neg fun h => ?_
  simp only [Bool.or_eq_true, Bool.and_eq_true, decide_eq_true_iff] at h
  rcases h with hscope | ⟨-, hwent | hcount⟩
  · exact hbits (.inl hscope)
  · exact hbits (.inr (.inl hwent))
  · exact hbits (.inr (.inr (.inl hcount)))

theorem recAlign_eq_none {d : Nat} (hcounter : recCounter d = noCounter) (h : ¬ RecordMisaligned d) : recAlign d = none := by
  unfold RecordMisaligned at h
  rw [recAlign, if_pos hcounter]
  simp only [alignField, recEntry, recPsrc, recPdst, recPlen]
  rw [alignN_of_mod (by tauto), alignN_of_mod (by tauto), alignN_of_mod (by tauto), alignN_of_mod (by tauto)]
  rfl

theorem recAccv_eq_none {d : Nat} (hcounter : recCounter d = noCounter) (h : ¬ RecordOutside d) : recAccv d = none := by
  unfold RecordOutside at h
  rw [recAccv, if_neg (fun hc => hc.1 hcounter), if_neg]
  unfold recPlen recPdst
  tauto

/-! ## TASK -/

section

variable {s : State} {q n cl d : Nat} {p : Pkt} {u : TaskQ}

/-- Queue `n` of a cluster has room for a record, before which none waits. -/
structure PushRoom (s : State) (cl n : Nat) (u : TaskQ) : Prop where
  lt : n < 0x100
  waits : (s.cluster cl).waits = []
  held : ∀ x ∈ (s.cluster cl).watch, x.2.held = none
  queue : SMap.get? (s.cluster cl).tq n = some u
  room : u.sram.length < u.c

/-- The cluster after a record has waited in its turn and entered its queue, where no other waits. -/
theorem Cluster.queued_waits_nil {c : Cluster} (hwaits : c.waits = []) (w : PushWait) :
    { ({ c with waits := c.waits ++ [(n, w)] } : Cluster).queued n u w.r with
      waits := (c.waits ++ [(n, w)]).filter (fun x => decide (x.2.r.id ≠ w.r.id)) } = c.queued n u w.r := by
  rw [Cluster.queued, Cluster.queued, hwaits]
  simp

theorem State.addWait_pushInTurn (h : PushRoom s cl n u) (w : PushWait) :
    (s.addWait cl n w).pushInTurn cl n w.r = .ok ((s.addWait cl n w).modCl cl (fun c => c.queued n u w.r)) := by
  have hcl : (s.addWait cl n w).cluster cl = { s.cluster cl with waits := (s.cluster cl).waits ++ [(n, w)] } := by
    rw [State.addWait, if_pos h.lt, State.modCl_cluster_same]
  refine State.pushInTurn_room h.lt (by rw [hcl]; exact h.queue) h.room (by rw [hcl, h.waits]; simp) fun x hx r hr => ?_
  rw [hcl] at hx
  cases (h.held x hx).symm.trans hr

/-- A command processor's push to a queue with room. -/
theorem State.push_onlyCl (h : PushRoom s cl n u) (w : PushWait) :
    OnlyCl s (((s.addWait cl n w).modCl cl (fun c => c.queued n u w.r)).dropWait cl n w.r.id) cl ((s.cluster cl).queued n u w.r) := by
  have hwait := onlyCl_modCl s cl (fun c => { c with waits := c.waits ++ [(n, w)] })
  have hpush := onlyCl_trans hwait (onlyCl_modCl _ cl (fun c => c.queued n u w.r))
  have hdrop := onlyCl_trans hpush (onlyCl_modCl _ cl (fun c => { c with
    waits := c.waits.filter (fun x => decide (x.2.r.id ≠ w.r.id)) }))
  rw [State.modCl_cluster_same, State.modCl_cluster_same] at hdrop
  rw [State.addWait, if_pos h.lt, State.dropWait, if_pos h.lt, ← Cluster.queued_waits_nil h.waits w]
  exact hdrop

theorem State.taskPush_done {prog : Nat} (h : p.word 2 ≤ prog) (fuel : Nat) :
    s.taskPush q ⟨p, prog⟩ (fuel + 1) = s.pktDone q p.id 0 := if_pos h

/-- A queue whose TASK has pushed its first record. -/
def Queue.pushed (u : Queue) (p : Pkt) : Queue :=
  { u with begun := u.begun.map (fun x => if x.pkt.id = p.id then { x with prog := 1 } else x) }

/-- A TASK of one record pushes it and completes. -/
theorem State.taskPush_one (hword : p.word 2 = 1) (hn : p.field 16 9 = n) (hcl : s.taskCl q n = some cl) (h : PushRoom s cl n u)
    (hread : s.procRead (s.queue q).asid (p.word 1) 64 = some d)
    (hchecks : (recIllop d false <|> recIllbnd d false <|> recAlign d <|> recAccv d) = none) (hcounter : recCounter d = noCounter)
    (fuel : Nat) :
    ∃ t, OnlyCl s.fresh.2 t cl ((s.cluster cl).queued n u ⟨s.front.nextId, taskRecord d n cl⟩) ∧
      s.taskPush q ⟨p, 0⟩ (fuel + 2) = (t.modQueue q (fun u => u.pushed p)).pktDone q p.id 0 := by
  let w : PushWait := ⟨procMark, p.id, ⟨s.front.nextId, taskRecord d n cl⟩⟩
  have hroom : PushRoom s.fresh.2 cl n u := ⟨h.lt, h.waits, h.held, h.queue, h.room⟩
  have hok : (s.fresh.2.addWait cl n ⟨procMark, p.id, ⟨s.fresh.1, taskRecord d n cl⟩⟩).pushInTurn cl n
      ⟨s.fresh.1, taskRecord d n cl⟩ = .ok _ := State.addWait_pushInTurn hroom w
  refine ⟨_, State.push_onlyCl hroom w, ?_⟩
  have hnone : s.waitsOn cl n = [] := by rw [State.waitsOn, if_pos h.lt, h.waits]; rfl
  rw [State.taskPush]
  dsimp only
  rw [if_neg (by omega), hn, hcl]
  dsimp only
  rw [hnone, List.find?_nil]
  dsimp only
  rw [Nat.mul_zero, Nat.add_zero, hread]
  dsimp only
  rw [hchecks, if_neg (by decide), if_pos hcounter, ← taskRecord]
  simp only [hok, if_true]
  exact State.taskPush_done (by omega) fuel

theorem Queue.pushed_alone (u : Queue) (p : Pkt) :
    ({ u with begun := [⟨p, 0⟩] } : Queue).pushed p = { u with begun := [⟨p, 1⟩] } := by
  simp [Queue.pushed]

theorem State.taskAct_of_nextUp {rest : List Pkt} (h : NextUp s q p rest 2) (ahead : Nat) :
    s.taskAct q ahead = s.begin_ q ahead 2 (fun s p => (s.goesOn q p 0).taskPush q ⟨p, 0⟩ 65537) := by
  rw [State.taskAct, h.begun]
  rfl

end

theorem taskPacketResult : TaskPacketResult := by
  intro q ahead cl d u s p rest h hword hev n hn hcl hread hkind hscope hbits halign hout hwaits hheld hu hroom hcounter
  have hv := State.queue_underway h
  have hvs := queueOnly_underway s q p
  have hreadv : (s.underway q p).procRead ((s.underway q p).queue q).asid (p.word 1) 64 = some d := by
    rw [hvs.procRead, hv]
    exact hread
  have hchecks : (recIllop d false <|> recIllbnd d false <|> recAlign d <|> recAccv d) = none := by
    rw [recIllop_eq_none hkind hscope, recIllbnd_eq_none hbits, recAlign_eq_none hcounter halign, recAccv_eq_none hcounter hout]
    rfl
  obtain ⟨t, honly, hpush⟩ := State.taskPush_one (s := s.underway q p) (n := n) hword rfl hcl ⟨hn, hwaits, hheld, hu, hroom⟩ hreadv
    hchecks hcounter 65535
  have htq (k : Nat) : t.queue k = (s.underway q p).queue k := by rw [State.queue, State.queue, honly.front]; rfl
  have hpushed : (t.modQueue q (fun u => u.pushed p)).queue q = { (s.queue q).popped p with begun := [⟨p, 1⟩] } := by
    rw [State.modQueue_queue_same, htq, hv, Queue.pushed_alone]
  obtain ⟨hdone, hdoneq⟩ := State.pktDone_alone (congrArg Queue.begun hpushed) hev ((congrArg Queue.stopping hpushed).trans h.stop.1)
    ((congrArg Queue.enPend hpushed).trans h.stop.2) 0
  rw [hpushed] at hdoneq
  rw [← hpush] at hdone hdoneq
  have hreadOn := State.begin_readOn h ahead (eff := fun s p => (s.goesOn q p 0).taskPush q ⟨p, 0⟩ 65537)
    (hdoneq ▸ ⟨h.stop.1, h.stop.2, nofun⟩)
  have hfirst := (queueOnly_modQueue t q _).trans hdone
  have hall := hfirst.trans hreadOn.only
  obtain ⟨hbegan, hnoerr⟩ := hreadOn.began h hdoneq
    (fun k hk => (hfirst.others k hk).trans ((htq k).trans (hvs.others k hk))) (hfirst.mod.trans honly.mod)
  rw [← State.taskAct_of_nextUp h] at hall hbegan hnoerr
  refine ⟨_, rfl, ⟨⟨(s.underway q p).front.nextId, taskRecord d n cl⟩, ?_, taskRecord_fields d cl hn⟩, hbegan, hnoerr,
    hall.aside.ctxs.trans honly.ctxs, hall.aside.cores.trans honly.cores, hall.mem.trans honly.mem,
    hall.ev.trans (congrArg Front.ev honly.front :)⟩
  rw [hall.cluster, honly.it]
  exact SMap.get?_put_same ..

/-- Settles O50: a packet that begins is its effect in the state in which it has been taken, and then packets are read. -/
theorem taskStreamPacketResult : Obligations.TaskStreamPacketResult := ⟨taskPacketResult, streamPacketResult⟩

end Sys2Proof.Machine
end

section
/-!
PROOF. The integer instructions of the X and Y slots: values, multiplication and division, conditions, bit fields (R24, R27, R110 to
R118).
-/

namespace Sys2Proof.Machine

open Sys2Proof.Claims

/-! ## Operands (R24, R113, R118) -/

theorem Ctx.src_eq_opB (c : Ctx) (b : Src) : c.src b = opB c b := by cases b <;> rfl
theorem immS_eq_immB (b : Imm) : immS b = immB b := by cases b <;> rfl
theorem immZ_eq_immZ0 (b : Imm) : immZ b = immZ0 b := by cases b <;> rfl

/-! ## The shapes of the X and Y slots (R27, R112) -/

section

variable {i : Instr} {s : State} {f f' : Word → Word → Word}

/-- An operation of the X and Y slots whose effect is one result computes that result. -/
theorem xyGives_of_xy {g : Nat} {eff : State → State} {r : Res} (h : exec i s = s.xy g eff) (he : eff s = s.give r) :
    XyGives i s g [r] :=
  ⟨fun hg => ⟨_, exec_of_perform h hg, he ▸ s.give_computes r 1⟩, nullified_of_perform h⟩

theorem xyGives_of_aluR {o : NR} {lat : Nat} {v : Word} (h : exec i s = aluR o f lat s)
    (hv : f (s.me.sreg o.a) (opB s.me o.b) = v) : XyGives i s o.g [sRes o.d v 0 lat] :=
  xyGives_of_xy h (by rw [← hv, ← Ctx.src_eq_opB]; rfl)

theorem xyGives_of_aluU {o : N2} {f : Word → Word} {v : Word} (h : exec i s = aluU o f s) (hv : f (s.me.sreg o.a) = v) :
    XyGives i s o.g [sRes o.d v 0 1] :=
  xyGives_of_xy h (hv ▸ rfl)

theorem xyGives_of_aluZ {o : NI} (h : exec i s = aluZ o f s) :
    XyGives i s o.g [sRes o.d (f (s.me.sreg o.a) (immZ0 o.b)) 0 1] :=
  xyGives_of_xy h (by rw [← immZ_eq_immZ0]; rfl)

theorem regResult_of_aluR {o : NR} (h : exec i s = aluR o f 1 s) (hf : ∀ a b, f a b = f' a b) : RegResult i s o f' :=
  xyGives_of_aluR h (hf _ _)

theorem immResult_of_aluI {o : NI} (h : exec i s = aluI o f s) (hf : ∀ a b, f a b = f' a b) : ImmResult i s o f' :=
  xyGives_of_xy h (by rw [← hf, ← immS_eq_immB]; rfl)

theorem divResult_of_divR {o : NR} (h : exec i s = divR o f s) (hf : ∀ a b, f a b = f' a b) : DivResult i s o f' :=
  xyGives_of_xy h (by rw [← hf, ← Ctx.src_eq_opB]; rfl)

end

/-! ## Shifts and truth values (R114) -/

theorem shlW_eq_shl (a b : Word) : shlW a b = shl a b :=
  BitVec.eq_of_toNat_eq (by rw [shlW, shl, BitVec.toNat_shiftLeft, Nat.shiftLeft_eq, BitVec.toNat_ofNat])

theorem shrW_eq_shr (a b : Word) : shrW a b = shr a b := by
  rw [shr, ← Nat.shiftRight_eq_div_pow, ← BitVec.toNat_ushiftRight, BitVec.ofNat_toNat, BitVec.setWidth_eq]
  rfl

theorem sraW_eq_sra (a b : Word) : sraW a b = sra a b := by
  have h : (sraW a b).toInt = a.toInt / (2 : Int) ^ (b.toNat % 64) := by
    rw [sraW, BitVec.toInt_sshiftRight, Int.shiftRight_eq_div_pow, Nat.cast_pow, Nat.cast_ofNat]
  rw [sra, ← h, BitVec.ofInt_toInt]

theorem add_shiftLeft_eq (a b : Word) (k : Nat) : a + b <<< k = a + BitVec.ofNat 64 (b.toNat * 2 ^ k) := by
  congr 1
  exact BitVec.eq_of_toNat_eq (by rw [BitVec.toNat_shiftLeft, Nat.shiftLeft_eq, BitVec.toNat_ofNat])

theorem xor_eq_true_iff_ne (c neg : Bool) : (c ^^ neg) = true ↔ c ≠ neg := by cases c <;> cases neg <;> decide

/-- Settles O1: each instruction is `aluR` with its own function. -/
theorem scalarRegisterResult : Obligations.ScalarRegisterResult := by
  intro o s
  refine ⟨regResult_of_aluR (exec_add o s) fun _ _ => rfl, regResult_of_aluR (exec_sub o s) fun _ _ => rfl,
    regResult_of_aluR (exec_and o s) fun _ _ => rfl, regResult_of_aluR (exec_or o s) fun _ _ => rfl,
    regResult_of_aluR (exec_xor o s) fun _ _ => rfl,
    fun sh => regResult_of_aluR (exec_addsh o sh s) fun a b => add_shiftLeft_eq a b sh,
    regResult_of_aluR (exec_shl o s) shlW_eq_shl, regResult_of_aluR (exec_shr o s) shrW_eq_shr,
    regResult_of_aluR (exec_sra o s) sraW_eq_sra, regResult_of_aluR (exec_min o s) fun _ _ => rfl,
    regResult_of_aluR (exec_max o s) fun _ _ => rfl, regResult_of_aluR (exec_mins o s) fun _ _ => rfl,
    regResult_of_aluR (exec_maxs o s) fun _ _ => rfl, regResult_of_aluR (exec_slt o s) fun _ _ => rfl,
    regResult_of_aluR (exec_slts o s) fun _ _ => rfl, regResult_of_aluR (exec_seq o s) fun _ _ => rfl,
    fun n neg => regResult_of_aluR (exec_sel o n neg s) fun a b => ?_⟩
  exact if_congr (xor_eq_true_iff_ne _ _) rfl rfl

/-! ## Bits counted (R114) -/

/-- The leading zero bits of a word are counted from the place of its highest bit. -/
theorem clzW_eq {a : Word} {n : Nat} (h : n = 64 ∧ a = 0 ∨ n < 64 ∧ 2 ^ (63 - n) ≤ a.toNat ∧ a.toNat < 2 ^ (64 - n)) :
    clzW a = BitVec.ofNat 64 n := by
  obtain ⟨rfl, rfl⟩ | ⟨hn, hlo, hhi⟩ := h
  · rfl
  · have hpos : a.toNat ≠ 0 := (Nat.two_pow_pos _).trans_le hlo |>.ne'
    have ha : a ≠ 0 := fun e => hpos (e ▸ rfl)
    have hlog : Nat.log2 a.toNat = 63 - n :=
      (Nat.log2_eq_iff hpos).2 ⟨hlo, by rwa [show 63 - n + 1 = 64 - n by omega]⟩
    rw [clzW, if_neg ha, hlog, show 63 - (63 - n) = n by omega]

theorem foldl_bits_eq_length (a : Word) (l : List Nat) (acc : Nat) :
    l.foldl (fun n b => n + a.toNat / 2 ^ b % 2) acc = acc + (l.filter (fun k => a.getLsbD k)).length := by
  induction l generalizing acc with
  | nil => rfl
  | cons b l ih =>
    have hbit : a.toNat / 2 ^ b % 2 = (a.getLsbD b).toNat := by rw [BitVec.getLsbD, Nat.toNat_testBit]
    rw [List.foldl_cons, ih, hbit, List.filter_cons]
    cases a.getLsbD b
    · rfl
    · rw [if_pos rfl, List.length_cons, Bool.toNat_true, Nat.add_assoc, Nat.add_comm 1]

theorem popcW_eq (a : Word) : popcW a = BitVec.ofNat 64 ((List.range 64).foldl (fun n b => n + a.toNat / 2 ^ b % 2) 0) := by
  rw [foldl_bits_eq_length, Nat.zero_add, popcW]

/-- Settles O2: the immediate forms are `aluI` and `aluZ`, the one-operand forms `aluU`, and the others give their one result. -/
theorem scalarImmediateResult : Obligations.ScalarImmediateResult := by
  intro o u l k s
  exact ⟨immResult_of_aluI (exec_addi o s) fun _ _ => rfl, immResult_of_aluI (exec_andi o s) fun _ _ => rfl,
    xyGives_of_aluZ (exec_ori o s), xyGives_of_aluZ (exec_xori o s), immResult_of_aluI (exec_slti o s) fun _ _ => rfl,
    immResult_of_aluI (exec_shli o s) shlW_eq_shl, immResult_of_aluI (exec_shri o s) shrW_eq_shr,
    immResult_of_aluI (exec_srai o s) sraW_eq_sra, xyGives_of_xy (exec_li l s) (by rw [← immS_eq_immB]; rfl),
    xyGives_of_aluU (exec_mov u s) rfl, fun _ hn => xyGives_of_aluU (exec_clz u s) (clzW_eq hn),
    xyGives_of_aluU (exec_popc u s) (popcW_eq _), xyGives_of_xy (exec_bfx k s) rfl, xyGives_of_xy (exec_bfi k s) rfl⟩

/-! ## Multiplication and division (R115) -/

theorem mul_eq_ofNat (a b : Word) : a * b = BitVec.ofNat 64 (a.toNat * b.toNat) :=
  BitVec.eq_of_toNat_eq (by rw [BitVec.toNat_mul, BitVec.toNat_ofNat])

/-- The quotient of the signed overflow wraps, so the row of the table that names it is the division's own (R115). -/
theorem divsW_eq (a b : Word) : divsW a b = if b = 0 then 0xFFFFFFFFFFFFFFFF#64
    else if a.toInt = -(2 : Int) ^ 63 ∧ b.toInt = -1 then 0x8000000000000000#64
    else BitVec.ofInt 64 (a.toInt.tdiv b.toInt) := by
  unfold divsW
  split
  · rfl
  · split
    next h => rw [h.1, h.2]; decide
    next => rfl

theorem remW_eq (a b : Word) : remW a b =
    if b = 0 then a else BitVec.ofNat 64 (a.toNat - a.toNat / b.toNat * b.toNat) := by
  rw [remW, Nat.mod_eq_sub, Nat.mul_comm]

/-- The remainder of the signed overflow is zero. -/
theorem remsW_eq (a b : Word) : remsW a b = if b = 0 then a
    else if a.toInt = -(2 : Int) ^ 63 ∧ b.toInt = -1 then 0
    else BitVec.ofInt 64 (a.toInt - a.toInt.tdiv b.toInt * b.toInt) := by
  unfold remsW
  split
  · rfl
  · split
    next h => rw [h.1, h.2]; decide
    next => rw [Int.tmod_def, Int.mul_comm]

/-- Settles O3: multiplications are `aluR` with latency 3, divisions `divR`. -/
theorem multiplyDivideResult : Obligations.MultiplyDivideResult := fun o s =>
  ⟨xyGives_of_aluR (exec_mul o s) (mul_eq_ofNat _ _), xyGives_of_aluR (exec_mulh o s) rfl, xyGives_of_aluR (exec_mulhs o s) rfl,
    divResult_of_divR (exec_div o s) fun _ _ => rfl, divResult_of_divR (exec_divs o s) divsW_eq,
    divResult_of_divR (exec_rem o s) remW_eq, divResult_of_divR (exec_rems o s) remsW_eq⟩

/-! ## CMPC (R116) -/

theorem ccmpW_eq_condTest (cc : CCmp) (a b : Word) : ccmpW cc a b = condTest cc a b := by
  cases cc with
  | ne | tst => exact decide_not.symm
  | _ => rfl

theorem ccOf_eq_getD : ∀ n, n < 8 → ccOf n = [CCmp.eq, .ne, .lt, .ge, .ltu, .geu, .tst, .ntst].getD n .eq := by decide

/-- The decoding of opcode 0x28 without a literal: the test's fn is judged before the bits that must be zero. -/
theorem decodeXY_cmpc {w : Nat} (h : fld w 26 6 = 0x28) : decodeSyllable .x w none =
    judge (decide (8 ≤ fld w 0 4)) (!decide (fld w 19 3 = 0))
      (.cmpc ⟨fld w 22 4, fld w 16 3, fld w 10 6, .reg (fld w 4 6)⟩ (ccOf (fld w 0 4))) := by
  rw [decodeSyllable]
  simp only [decodeXY, h]
  rfl

/-- A field of six bits whose upper three are zero is the field of its lower three. -/
theorem fld_six_of_upper_zero {w : Nat} (h : fld w 19 3 = 0) : fld w 16 6 = fld w 16 3 := by
  unfold fld at h ⊢
  omega

/-- Settles O4: the result is that of the test, and the decoder judges fn before the bits above d. -/
theorem compareConditionResult : Obligations.CompareConditionResult := by
  refine ⟨fun o cc s => xyGives_of_xy (exec_cmpc o cc s) ?_, fun w hop => ?_⟩
  · rw [← ccmpW_eq_condTest, ← Ctx.src_eq_opB]
    rfl
  · rw [decodeXY_cmpc hop]
    refine ⟨fun hfn hz => ?_, fun hfn hnz => ?_, fun hfn => ?_⟩
    · rw [← ccOf_eq_getD _ hfn, fld_six_of_upper_zero hz, hz, decide_eq_false (Nat.not_le.2 hfn)]
      rfl
    · rw [decide_eq_false (Nat.not_le.2 hfn), decide_eq_false hnz]
      rfl
    · rw [decide_eq_true hfn]
      rfl

end Sys2Proof.Machine
end

section
/-!
PROOF. Control registers, the identity of a context, and IDLE (R10, R33, R36, R120 to R123, R292, R293).
-/

namespace Sys2Proof.Machine

open Sys2Proof.Claims

/-! ## MFC (R120 to R122) -/

theorem ctxId_eq (hw : Nat) :
    ctxId hw = BitVec.ofNat 64 (seatOf hw / 4 % 48 * 2 ^ 14 + seatOf hw / 192 * 2 ^ 11 + seatOf hw) := by
  refine congrArg (BitVec.ofNat 64) ?_
  unfold clusterOf clOf coreOf seatOf
  omega

theorem State.ctlRead_eq_ctlValue (s : State) (num : Nat) : s.ctlRead s.cur.hw num = ctlValue s num := by
  unfold State.ctlRead
  dsimp only
  split
  case h_9 => exact ctxId_eq _
  case h_15 => simp_all [ctlValue]
  all_goals rfl

/-- A part of O6: MFC. -/
theorem controlRegisterRead : ControlRegisterRead := fun o s =>
  xyGives_of_xy (exec_mfc o s) (by rw [State.ctlRead_eq_ctlValue]; rfl)

/-! ## MTC (R36, R120, R121) -/

theorem Ctx.ctlWrite_eq (c : Ctx) (num : Nat) (v : Word) : c.ctlWrite num v = { c with ctl := ctlAfter c.ctl num v } := by
  unfold Ctx.ctlWrite
  split
  case h_10 => simp_all [ctlAfter]
  all_goals rfl

theorem ctlPriv_eq_privReg (num : Nat) : ctlPriv num = privReg num := by rw [ctlPriv, privReg, Bool.decide_or]

theorem Ctx.privChk_of_privileged {c : Ctx} (h : c.run.priv = true ∨ c.run.trap = true) : c.privChk = none :=
  if_pos (Bool.or_eq_true_iff.2 h)

theorem Ctx.privChk_of_unprivileged {c : Ctx} (hp : c.run.priv = false) (ht : c.run.trap = false) :
    c.privChk = some ⟨10, 0, 0⟩ :=
  if_neg (by rw [Ctx.privileged, hp, ht]; decide)

/-- MTC where its register asks for no privilege, or the context has it. -/
theorem exec_mtc_allowed {o : NCtl} {s : State} (h : privReg o.num = false ∨ s.me.run.priv = true ∨ s.me.run.trap = true) :
    exec (.mtc o) s = s.perform none (s.me.guardN o.g) none none
      (fun s => (s.modCtx s.cur.hw (fun c => c.ctlWrite o.num (c.sreg o.r))).charge s.cur.hw 1 1) := by
  have hmode : (if ctlPriv o.num = true then s.me.privChk else none) = none := by
    rw [ctlPriv_eq_privReg]
    obtain h | h := h
    · rw [h, if_neg Bool.false_ne_true]
    · rw [Ctx.privChk_of_privileged h, ite_self]
  rw [exec_mtc, execMtc, hmode]

/-- MTC of a privileged register without the privilege. -/
theorem exec_mtc_refused {o : NCtl} {s : State} (hgo : s.cur.go = false) (h : privReg o.num = true)
    (hp : s.me.run.priv = false) (ht : s.me.run.trap = false) :
    exec (.mtc o) s = .next (trapped s (.mode ⟨10, 0, 0⟩) 10 0 0) := by
  rw [exec_mtc, execMtc, ctlPriv_eq_privReg, if_pos h, Ctx.privChk_of_unprivileged hp ht, State.perform_mode _ _ _ _ _ _ hgo]
  rfl

theorem othersSame_charge {s t : State} (h : OthersSame s t) (code n : Nat) : OthersSame s (t.charge s.cur.hw code n) :=
  fun k hk => (State.charge_ctx_other t code n hk).trans (h k hk)

theorem memSame_modCtx (s : State) (hw : Nat) (f : Ctx → Ctx) : MemSame s (s.modCtx hw f) := memSame_of_eq rfl

/-- A part of O6: MTC. -/
theorem controlRegisterWrite : ControlRegisterWrite := by
  intro o s
  refine ⟨fun hok => ⟨fun hg => ⟨_, exec_of_perform (exec_mtc_allowed hok) hg, ?_⟩,
    nullified_of_perform (exec_mtc_allowed hok)⟩, exec_mtc_refused⟩
  have hctx := State.charge_ctx_same (s.modCtx s.cur.hw (fun c => c.ctlWrite o.num (c.sreg o.r))) s.cur.hw 1 1
  rw [State.modCtx_ctx_same, Ctx.ctlWrite_eq] at hctx
  dsimp only
  rw [hctx]
  exact ⟨rfl, rfl, rfl, rfl, rfl, rfl, rfl, ⟨rfl, rfl, rfl, rfl, rfl, rfl, rfl⟩,
    othersSame_charge (othersSame_modCtx (fun _ _ => rfl) _) 1 1, restSame_charge (restSame_modCtx (restSame_refl s) _ _) ..,
    memSame_charge (memSame_modCtx s _ _) ..⟩

/-- Settles O6, from its two parts. -/
theorem controlRegisterAccess : Obligations.ControlRegisterAccess := ⟨controlRegisterRead, controlRegisterWrite⟩

/-! ## CTXID (R122) -/

/-- The fields of an identity lie at disjoint places. -/
theorem fld_identity {l u c x : Nat} (hl : l < 48) (hu : u < 8) (hc : c < 384) (hx : x < 4) :
    fld (l * 2 ^ 14 + u * 2 ^ 11 + c * 2 ^ 2 + x) 20 44 = 0 ∧ fld (l * 2 ^ 14 + u * 2 ^ 11 + c * 2 ^ 2 + x) 14 6 = l ∧
      fld (l * 2 ^ 14 + u * 2 ^ 11 + c * 2 ^ 2 + x) 11 3 = u ∧ fld (l * 2 ^ 14 + u * 2 ^ 11 + c * 2 ^ 2 + x) 2 9 = c ∧
      fld (l * 2 ^ 14 + u * 2 ^ 11 + c * 2 ^ 2 + x) 0 2 = x := by
  unfold fld
  omega

/-- The identity of a hardware context of the module. -/
theorem toNat_ctxId {hw : Nat} (h : hw < 1536) :
    (ctxId hw).toNat = hw / 4 % 48 * 2 ^ 14 + hw / 192 * 2 ^ 11 + hw / 4 * 2 ^ 2 + hw % 4 := by
  have hseat : seatOf hw = hw := Nat.mod_eq_of_lt (by omega)
  rw [ctxId, clusterOf, clOf, coreOf, hseat, Nat.div_div_eq_div_mul, BitVec.toNat_ofNat]
  exact Nat.mod_eq_of_lt (by omega)

/-- Settles O5: MFC reads the identity, whose fields lie at disjoint places. -/
theorem contextIdentity : Obligations.ContextIdentity := by
  refine ⟨rfl, fun g r s hhw => ⟨ctxId s.cur.hw, xyGives_of_xy (exec_mfc ⟨g, r, 8⟩ s) rfl, ?_⟩⟩
  obtain ⟨hres, hcorecl, hclu, hcore, hctx⟩ := fld_identity (l := s.cur.hw / 4 % 48) (u := s.cur.hw / 192) (c := s.cur.hw / 4)
    (x := s.cur.hw % 4) (by omega) (by omega) (by omega) (by omega)
  rw [toNat_ctxId hhw, hres, hcorecl, hclu, hcore, hctx]
  refine ⟨rfl, rfl, rfl, rfl, by omega, rfl, fun h => ?_⟩
  rw [h]
  rfl

/-! ## IDLE (R10, R33, R123) -/

/-- IDLE of every sticky slot is the same update of its context. -/
theorem exec_idle {i : Instr} (h : i = .idleXy ∨ i = .idleVw ∨ i = .idleL ∨ i = .idleM ∨ i = .idleC ∨ i = .idleQ) (s : State) :
    exec i s = .next (s.modCtx s.cur.hw (fun c => c.emptyLatch s.cur.slot)) := by
  rcases h with rfl | rfl | rfl | rfl | rfl | rfl <;> rfl

theorem decodeXY_idle {w : Nat} (h : fld w 26 6 = 0x3F) (hz : fld w 0 26 ≠ 0) : decodeXY w none = .error .illbnd := by
  simp only [decodeXY, h, hz, decide_false]
  rfl

/-- Settles O24: the one update empties the latch, and the decoder allows no bit beside the opcode. -/
theorem idleResult : Obligations.IdleResult := by
  refine ⟨fun i s hi => ?_, rfl, fun w hop hz => ⟨decodeXY_idle hop hz, decodeXY_idle hop hz⟩⟩
  obtain ⟨t, ht, hctx, hoth, hrest, hmem⟩ := becomes_modCtx _ (exec_idle hi s)
  refine ⟨t, ht, ?_⟩
  dsimp only
  rw [hctx]
  exact ⟨rfl, rfl, ⟨rfl, rfl, rfl, rfl⟩, rfl, rfl, rfl, hoth, hrest, memSame_of_eq hmem⟩

end Sys2Proof.Machine
end

section
/-!
PROOF. Scalar loads and stores (R5, R91, R93, R112, R119, R294, R346).
-/

namespace Sys2Proof.Machine

open Sys2Proof.Claims

/-! ## Energy beside an access (R346) -/

/-- A part of a context that does not depend on energy is left alone by a charge. -/
theorem State.charge_keeps {β : Type} (f : Ctx → β) (hf : ∀ (c : Ctx) e, f { c with energy := e } = f c) (s : State)
    (hw code n k : Nat) : f ((s.charge hw code n).ctx k) = f (s.ctx k) := by
  by_cases hk : k = hw
  · rw [hk, State.charge_ctx_same, hf]
  · rw [State.charge_ctx_other _ _ _ hk]

section

variable {s t : State} {bad : Option Word}

theorem accessCtx_charge (h : AccessCtx s t bad) (code n : Nat) : AccessCtx s (t.charge s.cur.hw code n) bad where
  regs := (t.charge_keeps Ctx.regs (fun _ _ => rfl) ..).trans h.regs
  bank := (t.charge_keeps Ctx.bank (fun _ _ => rfl) ..).trans h.bank
  ctl := (t.charge_keeps Ctx.ctl (fun _ _ => rfl) ..).trans h.ctl
  fmt := (t.charge_keeps Ctx.fmt (fun _ _ => rfl) ..).trans h.fmt

theorem loads_charge {rs : List Res} (h : Loads s t rs bad) (code n : Nat) : Loads s (t.charge s.cur.hw code n) rs bad where
  results := (t.charge_keeps Ctx.pend (fun _ _ => rfl) ..).trans h.results
  ctx := accessCtx_charge h.ctx code n
  course := by
    obtain ⟨hframe, htframe, hasync, hrun, hperf, hckpt, hdbg⟩ := h.course
    rw [State.charge_ctx_same]
    exact ⟨hframe, htframe, hasync, hrun, hperf, hckpt, hdbg⟩
  eng := (t.charge_keeps Ctx.eng (fun _ _ => rfl) ..).trans h.eng
  others := othersSame_charge h.others code n
  rest := restSame_charge h.rest _ _ _
  mem := memSame_charge h.mem _ _ _

theorem stores_charge {cells : List (Nat × Byte)} (h : Stores s t cells bad) (code n : Nat) :
    Stores s (t.charge s.cur.hw code n) cells bad := by
  have hrest := restSame_charge (restSame_refl t) s.cur.hw code n
  constructor
  case ctx => exact accessCtx_charge h.ctx code n
  case pend => exact fun k => (t.charge_keeps Ctx.pend (fun _ _ => rfl) ..).trans (h.pend k)
  case frame => exact fun k => (t.charge_keeps Ctx.frame (fun _ _ => rfl) ..).trans (h.frame k)
  case run => exact fun k => (t.charge_keeps Ctx.run (fun _ _ => rfl) ..).trans (h.run k)
  case eng => exact fun k => (t.charge_keeps Ctx.eng (fun _ _ => rfl) ..).trans (h.eng k)
  case others => exact fun k hk => by rw [State.charge_ctx_other _ _ _ hk]; exact h.others k hk
  case mod => exact hrest.mod.trans h.mod
  case front => exact hrest.front.trans h.front
  case agenda => exact hrest.agenda.trans h.agenda
  case shared => exact hrest.shared.trans h.shared
  case kept => exact hrest.oldBytes ▸ h.kept
  case noted => exact hrest.oldBytes ▸ h.noted
  case port => exact fun a => by rw [State.portByte, State.charge_mem]; exact h.port a
  all_goals rw [State.charge_mem]
  exacts [h.spad, h.hbm, h.host, h.imem, h.lining, h.acs, h.bias]

end

/-! ## SPFAULT before an access (R93) -/

section

variable {s t : State} {bad : Option Word}

/-- Of the cursor the record of a byte changes the slot of SPFAULT alone. -/
theorem State.noted_cur (s : State) (bad : Option Word) : ∃ k, (s.noted bad).cur = { s.cur with spSlot := k } := by
  cases bad with
  | none => exact ⟨_, rfl⟩
  | some a =>
    unfold State.noted State.noteSp
    dsimp only
    split
    · exact ⟨_, rfl⟩
    · exact ⟨_, rfl⟩

theorem State.noted_hw (s : State) (bad : Option Word) : (s.noted bad).cur.hw = s.cur.hw := by
  obtain ⟨k, h⟩ := s.noted_cur bad
  rw [h]

theorem State.noted_myCore (s : State) (bad : Option Word) : (s.noted bad).myCore = s.myCore := by
  rw [State.myCore, State.noted_hw, State.myCore]

theorem State.noted_me (s : State) (bad : Option Word) : (s.noted bad).me =
    { s.me with fmt := { s.me.fmt with spSet := (spAfter s bad).1, spAddr := (spAfter s bad).2 } } := by
  rw [State.me, State.noted_hw, State.noted_ctx_same]

/-- A part of a context that does not depend on SPFAULT is left alone by the record of a byte. -/
theorem State.noted_keeps {β : Type} (f : Ctx → β)
    (hf : ∀ (c : Ctx) a b, f { c with fmt := { c.fmt with spSet := a, spAddr := b } } = f c) (s : State) (bad : Option Word)
    (k : Nat) : f ((s.noted bad).ctx k) = f (s.ctx k) := by
  by_cases hk : k = s.cur.hw
  · rw [hk, State.noted_ctx_same, hf, State.me]
  · rw [State.noted_ctx_other s bad hk]

theorem State.noted_restSame (s : State) (bad : Option Word) : RestSame s (s.noted bad) := by
  constructor
  all_goals exact State.noted_unchanged _ (fun _ _ _ _ _ => rfl) s bad

theorem State.noted_mem (s : State) (bad : Option Word) : (s.noted bad).mem = s.mem :=
  State.noted_unchanged State.mem (fun _ _ _ _ _ => rfl) s bad

theorem noWatch_noted (h : NoWatch s) (bad : Option Word) : NoWatch (s.noted bad) := by
  unfold NoWatch
  rw [(s.noted_restSame bad).clusters]
  exact h

theorem State.pend_noted (s : State) (bad : Option Word) (r : Res) : r.pend (s.noted bad) = r.pend s := by
  obtain ⟨k, hcur⟩ := s.noted_cur bad
  unfold Res.pend
  rw [State.noted_me, State.noted_myCore, State.core, (s.noted_restSame bad).cores, hcur]
  rfl

/-- An access after the record of its byte out of range is the access with that byte. -/
theorem accessCtx_of_noted (h : AccessCtx (s.noted bad) t none) : AccessCtx s t bad := by
  obtain ⟨hregs, hbank, hctl, hfmt⟩ := h
  rw [State.noted_hw] at hregs hbank hctl hfmt
  rw [spAfter] at hfmt
  rw [State.noted_me] at hregs hbank hctl hfmt
  exact ⟨hregs, hbank, hctl, hfmt⟩

theorem loads_of_noted {rs : List Res} (h : Loads (s.noted bad) t rs none) : Loads s t rs bad := by
  obtain ⟨hres, hctx, ⟨hframe, htframe, hasync, hrun, hperf, hckpt, hdbg⟩, heng, hoth, hrest, hmem⟩ := h
  have hmap : rs.map (fun r => r.pend (s.noted bad)) = rs.map (fun r => r.pend s) :=
    List.map_congr_left fun r _ => s.pend_noted bad r
  have hbase := s.noted_restSame bad
  rw [State.noted_hw, State.noted_me] at hres hframe htframe hasync hrun hperf hckpt hdbg heng
  refine ⟨hmap ▸ hres, accessCtx_of_noted hctx, ⟨hframe, htframe, hasync, hrun, hperf, hckpt, hdbg⟩, heng,
    fun k hk => ?_, ?_, ?_⟩
  · exact (hoth k (by rwa [State.noted_hw])).trans (s.noted_ctx_other bad hk)
  · exact ⟨hrest.mod.trans hbase.mod, hrest.front.trans hbase.front, hrest.clusters.trans hbase.clusters,
      hrest.cores.trans hbase.cores, hrest.aux.trans hbase.aux, hrest.agenda.trans hbase.agenda,
      hrest.oldBytes.trans hbase.oldBytes, hrest.shared.trans hbase.shared⟩
  · constructor <;> rw [← s.noted_mem bad]
    exacts [hmem.hbm, hmem.host, hmem.spad, hmem.imem, hmem.lining, hmem.acs, hmem.bias]

theorem byteAfter_noted (cells : List (Nat × Byte)) (a : Nat) (old : Byte) :
    byteAfter (s.noted bad) cells a old = byteAfter s cells a old := by
  rw [byteAfter_eq_find?, byteAfter_eq_find?, State.noted_myCore]

theorem stored_noted {cells : List (Nat × Byte)} {a : Nat} : Stored (s.noted bad) cells a ↔ Stored s cells a := by
  rw [Stored, Stored, State.noted_myCore]

theorem stores_of_noted {cells : List (Nat × Byte)} (h : Stores (s.noted bad) t cells none) : Stores s t cells bad := by
  have hbase := s.noted_restSame bad
  have hmem := s.noted_mem bad
  constructor
  case spad => exact fun a => by rw [h.spad, byteAfter_noted, hmem]
  case port => exact fun a => by rw [h.port, byteAfter_noted, State.portByte, State.portByte, hmem]
  case ctx => exact accessCtx_of_noted h.ctx
  case pend => exact fun k => (h.pend k).trans (s.noted_keeps Ctx.pend (fun _ _ _ => rfl) bad k)
  case frame => exact fun k => (h.frame k).trans (s.noted_keeps Ctx.frame (fun _ _ _ => rfl) bad k)
  case run => exact fun k => (h.run k).trans (s.noted_keeps Ctx.run (fun _ _ _ => rfl) bad k)
  case eng => exact fun k => (h.eng k).trans (s.noted_keeps Ctx.eng (fun _ _ _ => rfl) bad k)
  case others => exact fun k hk => s.noted_ctx_other bad hk ▸ h.others k (by rwa [State.noted_hw])
  case mod => exact h.mod.trans hbase.mod
  case front => exact h.front.trans hbase.front
  case agenda => exact h.agenda.trans hbase.agenda
  case shared => exact h.shared.trans hbase.shared
  case kept => exact fun a ha => by rw [h.kept a (by rwa [hbase.oldBytes, stored_noted]), hbase.oldBytes]
  case noted => exact fun a hnone hst => by rw [h.noted a (by rwa [hbase.oldBytes]) (stored_noted.2 hst), hmem]
  all_goals rw [← hmem]
  exacts [h.hbm, h.host, h.imem, h.lining, h.acs, h.bias]

end

theorem State.accessed_nil (s : State) : s.accessed [] = s := by
  rw [State.accessed_eq]
  exact if_pos (.inr rfl)

theorem State.give_loads (s : State) (r : Res) : Loads s (s.give r) [r] none := by
  have h := s.give_accessed_loads r []
  rwa [State.accessed_nil] at h

theorem State.ownStore_stores {s : State} (hwf : s.mem.spad.wf = true) (h : NoWatch s) (cells : List (Nat × Byte)) :
    Stores s (s.ownStore cells) cells none := by
  have h := State.ownStore_accessed_stores hwf h cells []
  rwa [State.accessed_nil] at h

theorem State.ownStore_cur {s : State} (h : NoWatch s) (cells : List (Nat × Byte)) : (s.ownStore cells).cur = s.cur :=
  State.ownStore_unchanged cells State.cur (fun _ _ _ _ => rfl) (fun _ _ _ => rfl) (fun _ _ => rfl) (fun _ _ => rfl) h

/-! ## Addresses and values (R5, R119) -/

theorem Ctx.ea_toNat (c : Ctx) (o : NI) : (c.ea o).toNat = scalarEa c o := by rw [Ctx.ea, immS_eq_immB, scalarEa]

theorem ofNat_scalarEa (c : Ctx) (o : NI) : BitVec.ofNat 64 (scalarEa c o) = c.ea o := by
  rw [← Ctx.ea_toNat, BitVec.ofNat_toNat, BitVec.setWidth_eq]

theorem State.noted_badScalar (s : State) (o : NI) :
    (if (s.me.ea o).toNat < Config.spadBytes then s else s.noteSp (s.me.ea o)) = s.noted (badScalar (scalarEa s.me o)) := by
  rw [badScalar, ofNat_scalarEa, Ctx.ea_toNat]
  split <;> rfl

theorem ofBytes_ownBytes (s : State) (a n : Nat) :
    ofBytes ((List.range n).map (fun k => s.ownByte s.myCore (a + k))) = ownValue s a n := by
  induction n generalizing a with
  | zero => rfl
  | succ n ih =>
    rw [List.range_succ_eq_map, List.map_cons, List.map_map, ofBytes, ownValue, ← ih, Nat.add_zero]
    congr 4
    funext k
    exact congrArg _ (Nat.add_right_comm a k 1)

theorem zext_eq_extended (n v : Nat) : zext v = extended false n v := rfl
theorem sextW_eq_extended (n v : Nat) : sextW (8 * n) v = extended true n v := rfl

theorem zipWith_toBytes (a v n : Nat) : List.zipWith (fun k b => (a + k, b)) (List.range n) (toBytes v n) =
    (List.range n).map (fun k => (a + k, BitVec.ofNat 8 (v / 256 ^ k))) := by
  refine List.ext_getElem (by simp) fun k _ _ => ?_
  simp [toBytes_getElem]

/-! ## Loads (R112, R119) -/

section

variable {i : Instr} {s : State} {o : NI} {n : Nat} {eff : State → State}

theorem loadX_eq_perform (o : NI) (n : Nat) (ext : Nat → Word) (s : State) : loadX o n ext s =
    s.perform none (s.me.guardN o.g) none (alignChk (s.me.ea o) n) (fun t =>
      ((if (s.me.ea o).toNat < Config.spadBytes then t else t.noteSp (s.me.ea o)).pushS o.d
        (ext (ofBytes ((List.range n).map (fun k => t.ownByte t.myCore ((s.me.ea o).toNat + k))))) 0 5).chargeAccess
          (s.me.ea o)) := rfl

theorem storeX_eq_perform (o : NI) (n : Nat) (s : State) : storeX o n s =
    s.perform none (s.me.guardN o.g) none (alignChk (s.me.ea o) n) (fun t =>
      ((if (s.me.ea o).toNat < Config.spadBytes then t else t.noteSp (s.me.ea o)).ownStore
        (List.zipWith (fun k b => ((s.me.ea o).toNat + k, b)) (List.range n) (toBytes (t.me.sreg o.d).toNat n))).chargeAccess
          (s.me.ea o)) := rfl

/-- An aligned access whose guard holds has its effect. -/
theorem exec_of_aligned (h : exec i s = s.perform none (s.me.guardN o.g) none (alignChk (s.me.ea o) n) eff)
    (hg : s.me.guardN o.g = true) (hal : scalarEa s.me o % n = 0) : exec i s = .next (eff s) := by
  rw [h, hg, alignChk_of_mod (by rwa [Ctx.ea_toNat])]
  exact State.perform_on _ _ _ _ _ (.inr ⟨rfl, rfl, rfl⟩)

theorem misaligned_of_perform (h : exec i s = s.perform none (s.me.guardN o.g) none (alignChk (s.me.ea o) n) eff) :
    Misaligned i s o n := by
  intro hgo hg hal
  rw [h, hg, alignChk_of_not_mod (by rwa [Ctx.ea_toNat]), ofNat_scalarEa]
  exact State.perform_chk _ _ _ hgo

theorem loads_chargeAccess {t : State} {rs : List Res} {bad : Option Word} (h : Loads s t rs bad) (hcur : t.cur.hw = s.cur.hw)
    (a : Word) : Loads s (t.chargeAccess a) rs bad := by
  rw [State.chargeAccess, hcur]
  exact loads_charge (loads_charge h ..) ..

theorem stores_chargeAccess {t : State} {cells : List (Nat × Byte)} {bad : Option Word} (h : Stores s t cells bad)
    (hcur : t.cur.hw = s.cur.hw) (a : Word) : Stores s (t.chargeAccess a) cells bad := by
  rw [State.chargeAccess, hcur]
  exact stores_charge (stores_charge h ..) ..

/-- The value of a load is read before SPFAULT is recorded, and the record changes no byte. -/
theorem scalarLoad_of_loadX {ext : Nat → Word} {sgn : Bool} (h : exec i s = loadX o n ext s)
    (hext : ∀ v, ext v = extended sgn n v) : ScalarLoad i s o n sgn := by
  have hp := h.trans (loadX_eq_perform o n ext s)
  refine ⟨nullified_of_perform hp, fun hg hal => ⟨_, exec_of_aligned hp hg hal, ?_⟩⟩
  dsimp only
  rw [State.noted_badScalar, Ctx.ea_toNat, ofBytes_ownBytes, hext]
  exact loads_chargeAccess (loads_of_noted (State.give_loads _ (sRes ..))) (State.noted_hw ..) _

theorem misaligned_of_loadX {ext : Nat → Word} (h : exec i s = loadX o n ext s) : Misaligned i s o n :=
  misaligned_of_perform (h.trans (loadX_eq_perform o n ext s))

/-! ## Stores (R91, R93, R119) -/

theorem scalarStore_of_storeX (h : exec i s = storeX o n s) : ScalarStore i s o n := by
  have hp := h.trans (storeX_eq_perform o n s)
  refine ⟨nullified_of_perform hp, fun hwf hw hg hal => ⟨_, exec_of_aligned hp hg hal, ?_⟩⟩
  have hw' := noWatch_noted hw (badScalar (scalarEa s.me o))
  have hwf' : (s.noted (badScalar (scalarEa s.me o))).mem.spad.wf = true := by rwa [State.noted_mem]
  dsimp only
  rw [State.noted_badScalar, zipWith_toBytes, Ctx.ea_toNat]
  exact stores_chargeAccess (stores_of_noted (State.ownStore_stores hwf' hw' _))
    ((congrArg Cursor.hw (State.ownStore_cur hw' _)).trans (State.noted_hw ..)) _

theorem misaligned_of_storeX (h : exec i s = storeX o n s) : Misaligned i s o n :=
  misaligned_of_perform (h.trans (storeX_eq_perform o n s))

end

/-- Settles O7: every load is `loadX` with its size and its extension. -/
theorem scalarLoadResult : Obligations.ScalarLoadResult := fun o s =>
  ⟨scalarLoad_of_loadX (exec_ldb o s) (zext_eq_extended 1), scalarLoad_of_loadX (exec_ldbs o s) (sextW_eq_extended 1),
    scalarLoad_of_loadX (exec_ldh o s) (zext_eq_extended 2), scalarLoad_of_loadX (exec_ldhs o s) (sextW_eq_extended 2),
    scalarLoad_of_loadX (exec_ldw o s) (zext_eq_extended 4), scalarLoad_of_loadX (exec_ldws o s) (sextW_eq_extended 4),
    scalarLoad_of_loadX (exec_ldd o s) (zext_eq_extended 8)⟩

/-- A part of O8: the stores. -/
theorem scalarStores : ScalarStores := fun o s =>
  ⟨scalarStore_of_storeX (exec_stb o s), scalarStore_of_storeX (exec_sth o s), scalarStore_of_storeX (exec_stw o s),
    scalarStore_of_storeX (exec_std o s)⟩

/-- A part of O8: the accesses at misaligned addresses. -/
theorem scalarMisaligned : ScalarMisaligned := fun o s =>
  ⟨misaligned_of_loadX (exec_ldh o s), misaligned_of_loadX (exec_ldhs o s), misaligned_of_loadX (exec_ldw o s),
    misaligned_of_loadX (exec_ldws o s), misaligned_of_loadX (exec_ldd o s), misaligned_of_storeX (exec_sth o s),
    misaligned_of_storeX (exec_stw o s), misaligned_of_storeX (exec_std o s)⟩

/-- Settles O8, from its two parts. -/
theorem scalarStoreFrame : Obligations.ScalarStoreFrame := ⟨scalarStores, scalarMisaligned⟩

end Sys2Proof.Machine
end

section
/-!
SUPPORT. The shapes of the V and W slots: what an operation leaves under its guard, and elements of registers by any width (R126,
R127, R129, R130).
-/

namespace Sys2Proof.Machine

open Sys2Proof.Claims

/-! ## Integers of a type (R39, R40, R132) -/

theorem wrapN_eq_modE (w : Nat) (r : Int) : wrapN (8 * w) r = modE w r := by simp [wrapN, modE]

theorem modE_lt (w : Nat) (r : Int) : modE w r < 2 ^ (8 * w) := by
  have hp : (0 : Int) < (2 : Int) ^ (8 * w) := by positivity
  rw [modE, Int.toNat_lt (Int.emod_nonneg _ hp.ne')]
  exact_mod_cast Int.emod_lt_of_pos r hp

theorem tyLo_eq_loOf (t : ETy) : tyLo t = loOf t := by simp [tyLo, loOf]
theorem tyHi_eq_hiOf (t : ETy) : tyHi t = hiOf t := by simp [tyHi, hiOf]

theorem clampTo_eq (lo hi r : Int) : clampTo lo hi r = (clampE lo hi r, satFlag lo hi r) := by
  simp only [clampTo, clampE, satFlag, flagIf, decide_eq_true_eq]
  rfl

/-- A value clamped to a range, or kept modulo the width, as the model answers it with its flags. -/
theorem clamped_or_wrapped (w : Nat) (sat : Bool) (lo hi r : Int) :
    (if sat = true then (wrapN (8 * w) (clampTo lo hi r).1, (clampTo lo hi r).2) else (wrapN (8 * w) r, 0)) =
      (modE w (if sat = true then clampE lo hi r else r), if sat = true then satFlag lo hi r else 0) := by
  rw [clampTo_eq, wrapN_eq_modE, wrapN_eq_modE]
  cases sat <;> rfl

theorem satE_eq (t : ETy) (sat : Bool) (r : Int) : satE t sat r =
    (modE t.width (if sat = true then clampE (loOf t) (hiOf t) r else r), if sat = true then satFlag (loOf t) (hiOf t) r else 0) := by
  rw [← clamped_or_wrapped, ← tyLo_eq_loOf, ← tyHi_eq_hiOf]
  rfl

/-! ## Elements -/

theorem elem_lt (v w e : Nat) : elem v w e < 2 ^ (8 * w) := Nat.mod_lt _ (Nat.two_pow_pos _)

theorem rawE_lt (v : VReg) (t : ETy) (e : Nat) : rawE v t e < 2 ^ (8 * t.width) := elem_lt _ _ _

theorem ETy.width_mul_count (t : ETy) : t.width * t.count = 512 := by rw [Nat.mul_comm, (ETy.count_mul_width t)]

theorem testBit_elem (v w e j : Nat) : (elem v w e).testBit j = (decide (j < 8 * w) && v.testBit (8 * w * e + j)) := by
  rw [elem, Nat.testBit_mod_two_pow, Nat.testBit_div_two_pow, Nat.add_comm]

/-- A register merged under the mask of a predicate's elements holds the new element where the governing bit is set. -/
theorem elem_mergeV_elemMask (old v : VReg) (p : PReg) (t : ETy) {e : Nat} (he : e < t.count) :
    elem (mergeV old v (elemMask p t.width)).toNat t.width e =
      if p.getLsbD (e * t.width) = true then elem v.toNat t.width e else elem old.toNat t.width e := by
  have hw := (ETy.width_pos t)
  refine Nat.eq_of_testBit_eq fun j => ?_
  rw [apply_ite (fun n => Nat.testBit n j), testBit_elem, testBit_elem, testBit_elem]
  by_cases hj : j < 8 * t.width
  · have hle : t.width * e + t.width ≤ 512 := calc
      t.width * e + t.width = t.width * (e + 1) := by ring
      _ ≤ t.width * t.count := Nat.mul_le_mul_left _ he
      _ = 512 := (ETy.width_mul_count t)
    have hplace : 8 * t.width * e + j = 8 * (t.width * e) + j := by ring
    have hi : 8 * t.width * e + j < 4096 := by omega
    have hb : (8 * t.width * e + j) / 8 = t.width * e + j / 8 := by omega
    have hdiv : (t.width * e + j / 8) / t.width = e := by
      rw [Nat.mul_add_div hw, Nat.div_eq_of_lt (by omega), Nat.add_zero]
    have hm := elemMask_bit p t.width hw (ETy.count_mul_width t) (t.width * e + j / 8) (by omega)
    rw [hdiv] at hm
    simp only [BitVec.testBit_toNat, mergeV, BitVec.getLsbD_or, BitVec.getLsbD_and, BitVec.getLsbD_not, getLsbD_spread _ hi, hb, hm,
      decide_eq_true hi]
    cases p.getLsbD (e * t.width) <;> simp
  · simp [hj]

/-- Elements laid one after another are found at their places. -/
theorem elements_assemble (m : PReg) (t : ETy) (d lat : Nat) {val : Nat → Nat} (hlt : ∀ e, e < t.count → val e < 2 ^ (8 * t.width)) :
    Elements m t.width t.count d lat val (fun _ => 0)
      [vRes d (elemMask m t.width) (BitVec.ofNat 4096 (assemble t.width ((List.range t.count).map val))) 0 lat] :=
  ⟨_, _, 0, rfl, covers_elemMask m t, fun e he _ => elem_ofNat_assemble _ _ _ hlt (ETy.width_mul_count t).le e he,
    fun k => by simp⟩

/-- The same of elements that `mapElems` computes under the guard. -/
theorem elements_mapElems {m : PReg} {w n d lat : Nat} {f : Nat → Nat × Flags} {val : Nat → Nat} {fl : Nat → Flags} (hw : 0 < w)
    (hd : 512 / w * w = 512) (hn : w * n ≤ 512) (hf : ∀ e, f e = (val e, fl e)) (hlt : ∀ e, val e < 2 ^ (8 * w)) :
    Elements m w n d lat val fl [vRes d (elemMask m w) (mapElems m w n f).1 (mapElems m w n f).2 lat] := by
  refine ⟨_, _, _, rfl, elemMask_bit m w hw hd, fun e he ha => ?_, fun k => ?_⟩
  · rw [elem_mapElems m w n f hn (fun e _ _ => by rw [hf]; exact hlt e) e he ha, hf]
  · rw [flags_mapElems]
    simp only [hf, activeE]

/-- A bit of the groups of a test is the test of its element. -/
theorem groups_groupBits (m : PReg) (t : ETy) (d lat : Nat) (fl : Flags) {test : Nat → Bool} {p : Nat → Prop}
    (hp : ∀ e, test e = true ↔ p e) :
    Groups m t d lat p fl [pRes d (elemMask m t.width) (groupBits t.width t.count test) fl lat] := by
  refine ⟨_, _, rfl, covers_elemMask m t, fun k hk => ?_⟩
  rw [groupBits_bit _ _ (ETy.width_pos t) _ _ hk, (ETy.count_mul_width t), decide_eq_true hk, Bool.true_and, hp]

/-! ## What an operation of the V and W slots leaves -/

theorem gives_nothing (s : State) : Gives s s [] s.me.energy where
  results := by simp [State.me]
  energy := rfl
  regs := ⟨rfl, rfl, rfl, rfl⟩
  course := ⟨rfl, rfl, rfl, rfl, rfl, rfl, rfl⟩
  eng := rfl
  others := fun _ _ => rfl
  rest := restSame_refl s
  mem := memSame_of_eq rfl

theorem State.pushS_eq_give (s : State) (d : Nat) (v : Word) (f : Flags) (lat : Nat) : s.pushS d v f lat = s.give (sRes d v f lat) := rfl
theorem State.pushV_eq_give (s : State) (d : Nat) (m : PReg) (v : VReg) (f : Flags) (lat : Nat) :
    s.pushV d m v f lat = s.give (vRes d m v f lat) := rfl
theorem State.pushP_eq_give (s : State) (d : Nat) (m v : PReg) (f : Flags) (lat : Nat) :
    s.pushP d m v f lat = s.give (pRes d m v f lat) := rfl

/-- Two results one after the other. -/
theorem State.give_give_gives (s : State) (r q : Res) : Gives s ((s.give r).give q) [r, q] s.me.energy where
  results := by rw [s.give_give_ctx]; rfl
  energy := by rw [s.give_give_ctx]
  regs := by rw [s.give_give_ctx]; exact ⟨rfl, rfl, rfl, rfl⟩
  course := by rw [s.give_give_ctx]; exact ⟨rfl, rfl, rfl, rfl, rfl, rfl, rfl⟩
  eng := by rw [s.give_give_ctx]
  others := othersSame_modCtx (t := s.give r) (s.give_gives r).others _
  rest := ⟨rfl, rfl, rfl, rfl, rfl, rfl, rfl, rfl⟩
  mem := memSame_of_eq rfl

/-- One event of an energy code is counted beside what has been given. -/
theorem computes_charge {s t : State} {rs : List Res} (h : Gives s t rs s.me.energy) (code : Nat) :
    Computes s (t.charge s.cur.hw code 1) rs code := by
  constructor
  case energy => rw [State.charge_ctx_same, h.energy, State.auxOf, h.rest.aux]; rfl
  case others => exact fun k hk => by rw [State.charge_ctx_other _ code 1 hk, h.others k hk]
  case rest => exact restSame_charge h.rest _ _ _
  case mem => exact memSame_charge h.mem _ _ _
  all_goals rw [State.charge_ctx_same]
  case results => exact h.results
  case regs => exact ⟨h.regs.regs, h.regs.bank, h.regs.fmt, h.regs.ctl⟩
  case course =>
    exact ⟨h.course.frame, h.course.tframe, h.course.async, h.course.run, h.course.perf, h.course.ckpt, h.course.dbg⟩
  case eng => exact h.eng

section

variable {i : Instr} {s : State} {g w code : Nat} {eff : State → State}

/-- With an active element an operation performs; else it is nullified (R127, R129). -/
theorem exec_of_vw (h : exec i s = s.vw g w code eff) (hw : 0 < 512 / w) (ha : SomeActive (s.me.guardW g) w) :
    exec i s = .next ((eff s).charge s.cur.hw code 1) := by
  rw [h, State.vw, (anyE_iff hw).2 ha, State.perform_on _ _ _ _ _ (.inr ⟨rfl, rfl, rfl⟩)]

theorem nullified_of_vw (h : exec i s = s.vw g w code eff) (hw : 0 < 512 / w) (ha : ¬ SomeActive (s.me.guardW g) w) :
    Nullified i s := by
  rw [Nullified, h, State.vw, Bool.eq_false_iff.2 (mt (anyE_iff hw).1 ha), State.perform_off _ _ _ _ _ (.inl rfl)]

theorem vwGives_of_gives {p : List Res → Prop} (h : exec i s = s.vw g w code eff) (hw : 0 < 512 / w)
    (he : ∃ rs, p rs ∧ Gives s (eff s) rs s.me.energy) : VwGives i s g w code p :=
  ⟨fun ha => ⟨_, exec_of_vw h hw ha, he.imp fun _ hr => ⟨hr.1, computes_charge hr.2 code⟩⟩, nullified_of_vw h hw⟩

/-- An operation whose effect is one result. -/
theorem vwGives_of_give {p : List Res → Prop} {r : Res} (h : exec i s = s.vw g w code eff) (hw : 0 < 512 / w)
    (he : eff s = s.give r) (hp : p [r]) : VwGives i s g w code p :=
  vwGives_of_gives h hw ⟨[r], hp, he ▸ s.give_gives r⟩

/-- An operation that computes element by element. -/
theorem vwGives_of_mapV {t : ETy} {d lat : Nat} {f : State → Nat → Nat × Flags} {val : Nat → Nat} {fl : Nat → Flags}
    (h : exec i s = s.mapV g t d lat code f) (hf : ∀ e, f s e = (val e, fl e)) (hlt : ∀ e, val e < 2 ^ (8 * t.width)) :
    VwGives i s g t.width code (Elements (s.me.guardW g) t.width t.count d lat val fl) :=
  vwGives_of_give (r := mapRes (s.me.guardW g) t d lat (f s)) h (ETy.count_pos t) rfl
    (elements_mapElems (ETy.width_pos t) (ETy.count_mul_width t) (ETy.width_mul_count t).le hf hlt)

/-- An integer operation with an exact result that is clamped or wrapped. -/
theorem intSat_of_mapV {t : ETy} {d : Nat} {sat : Bool} {f : State → Nat → Nat × Flags} {r : Nat → Int}
    (h : exec i s = s.mapV g t d 2 2 f) (hf : ∀ e, f s e = satE t sat (r e)) : IntSat i s g t d sat r :=
  vwGives_of_mapV h (fun e => (hf e).trans (satE_eq t sat (r e))) (fun _ => modE_lt _ _)

/-- An operation that copies a register-wide value. -/
theorem vwGives_of_whole {t : ETy} {d lat : Nat} {v : VReg} (h : exec i s = s.vw g t.width code eff)
    (he : eff s = s.pushV d (elemMask (s.me.guardW g) t.width) v 0 lat) :
    VwGives i s g t.width code (Whole (s.me.guardW g) t.width d lat v) :=
  vwGives_of_give h (ETy.count_pos t) (he.trans (State.pushV_eq_give ..)) ⟨_, rfl, covers_elemMask _ t⟩

end

end Sys2Proof.Machine
end

section
/-!
PROOF. The integer, logical, shift, move and predicate instructions of the V and W slots (R126 to R136, R143, R144).
-/

namespace Sys2Proof.Machine

open Sys2Proof.Claims

/-! ## Integer arithmetic (R132, R133) -/

section

variable {i : Instr} {s : State} {sat : Bool}

theorem intSat_of_intBin {o : V3} {f : Int → Int → Nat × Flags} (r : Int → Int → Int) (h : exec i s = intBin o f s)
    (hf : ∀ x y, f x y = satE o.t sat (r x y)) :
    IntSat i s o.g o.t o.d sat (fun e => r (vElem (s.me.vreg o.a) o.t e) (vElem (s.me.vreg o.b) o.t e)) :=
  intSat_of_mapV h fun _ => hf _ _

theorem intSat_of_intAcc {o : V3} {f : Int → Int → Int → Nat × Flags} (r : Int → Int → Int → Int) (h : exec i s = intAcc o f s)
    (hf : ∀ d x y, f d x y = satE o.t sat (r d x y)) : IntSat i s o.g o.t o.d sat
      (fun e => r (vElem (s.me.vreg o.d) o.t e) (vElem (s.me.vreg o.a) o.t e) (vElem (s.me.vreg o.b) o.t e)) :=
  intSat_of_mapV h fun _ => hf _ _ _

theorem intSat_of_intUn {o : V2} {f : Int → Nat × Flags} (r : Int → Int) (h : exec i s = intUn o f s)
    (hf : ∀ x, f x = satE o.t sat (r x)) : IntSat i s o.g o.t o.d sat (fun e => r (vElem (s.me.vreg o.a) o.t e)) :=
  intSat_of_mapV h fun _ => hf _

end

theorem ite_lt_eq_min (x y : Int) : (if x < y then x else y) = min x y := by split <;> omega
theorem ite_lt_eq_max (x y : Int) : (if x < y then y else x) = max x y := by split <;> omega
theorem ite_neg_eq_abs (x : Int) : (if x < 0 then -x else x) = |x| := by
  split
  next h => exact (abs_of_neg h).symm
  next h => exact (abs_of_nonneg (not_lt.1 h)).symm

/-- VSAT clamps to the range of `n` bits of the type's signedness (R133). -/
theorem exec_vsat_eq_intUn (u : V2) (n : Nat) (s : State) :
    let lo : Int := if u.t.isSigned = true then -(2 : Int) ^ (n - 1) else 0
    let hi : Int := if u.t.isSigned = true then (2 : Int) ^ (n - 1) - 1 else (2 : Int) ^ n - 1
    exec (.vsat u n) s = intUn u (fun x => (modE u.t.width (clampE lo hi x), satFlag lo hi x)) s := by
  simp only [exec_vsat, execVsat, clampTo_eq, wrapN_eq_modE]
  push_cast
  rfl

/-- Settles O13: each instruction is `intBin`, `intAcc` or `intUn` with its exact result. -/
theorem vectorIntegerResult : Obligations.VectorIntegerResult := by
  intro o u sat n s
  refine ⟨intSat_of_intBin (fun x y => x + y) (exec_vadd o sat s) fun _ _ => rfl,
    intSat_of_intBin (fun x y => x - y) (exec_vsub o sat s) fun _ _ => rfl,
    intSat_of_intBin (fun x y => x * y) (exec_vmul o s) fun _ _ => rfl,
    intSat_of_intBin (fun x y => x * y / (2 : Int) ^ (8 * o.t.width)) (exec_vmulh o s) fun _ _ => ?_,
    intSat_of_intAcc (fun d x y => d + x * y) (exec_vmac o s) fun _ _ _ => rfl,
    intSat_of_intAcc (fun d x y => d + x * y) (exec_vmacs o s) fun _ _ _ => rfl,
    intSat_of_intUn (fun x => |x|) (exec_vabs u sat s) fun x => by rw [ite_neg_eq_abs],
    intSat_of_intUn (fun x => -x) (exec_vneg u sat s) fun _ => rfl,
    intSat_of_intBin min (exec_vmin o s) fun x y => by rw [ite_lt_eq_min]; rfl,
    intSat_of_intBin max (exec_vmax o s) fun x y => by rw [ite_lt_eq_max]; rfl,
    vwGives_of_mapV (exec_vsat_eq_intUn u n s) (fun _ => rfl) fun _ => modE_lt _ _⟩
  push_cast
  rfl

/-! ## Narrowing and widening (R134, R135) -/

theorem ETy.narrows_width {t : ETy} (h : t.narrows = true) :
    0 < t.width / 2 ∧ 512 / (t.width / 2) * (t.width / 2) = 512 ∧ t.width / 2 * (2 * t.count) = 512 := by
  revert h
  cases t <;> decide

theorem ETy.narrows_of_vnrw {o : V2} {sh : Nat} {sat rnd : Bool} (h : (Instr.vnrw o sh sat rnd).wf = true) :
    o.t.narrows = true := by
  simp only [Instr.wf, V2.wf, Bool.and_eq_true] at h
  obtain ⟨⟨⟨⟨⟨-, ht⟩, -⟩, -⟩, -⟩, -⟩ := h
  exact ht

theorem ETy.widens_of_vwid {o : V2} (h : (Instr.vwid o).wf = true) : o.t.widens = true := by
  simp only [Instr.wf, V2.wf, Bool.and_eq_true] at h
  obtain ⟨⟨⟨⟨-, ht⟩, -⟩, -⟩, -⟩ := h
  exact ht

theorem ETy.widens_width {t : ETy} (h : t.widens = true) : 2 * t.width * (t.count / 2) = 512 := by
  revert h
  cases t <;> decide

theorem ite_add_eq (p : Prop) [Decidable p] (x y : Int) : (if p then x + y else x) = x + if p then y else 0 := by
  split <;> simp

/-- The elements from place `base` on, widened, and the bytes of those that are active (R135). -/
def widened (o : V2) (v : VReg) (base : Nat) : VReg :=
  BitVec.ofNat 4096 (assemble (2 * o.t.width)
    ((List.range (o.t.count / 2)).map (fun e => wrapN (16 * o.t.width) (vElem v o.t (base + e)))))
def widenedMask (o : V2) (m : PReg) (base : Nat) : PReg :=
  groupBits (2 * o.t.width) (o.t.count / 2) (fun e => activeE m o.t.width (base + e))

theorem exec_vwid_eq_give_give (o : V2) (s : State) : exec (.vwid o) s = s.vw o.g o.t.width 2 (fun s =>
    (s.give (vRes o.d (widenedMask o (s.me.guardW o.g) 0) (widened o (s.me.vreg o.a) 0) 0 2)).give
      (vRes (o.d + 1) (widenedMask o (s.me.guardW o.g) (o.t.count / 2)) (widened o (s.me.vreg o.a) (o.t.count / 2)) 0 2)) := rfl

theorem elem_widened {o : V2} (ht : o.t.widens = true) (v : VReg) (base : Nat) {e : Nat} (he : e < o.t.count / 2) :
    elem (widened o v base).toNat (2 * o.t.width) e = modE (2 * o.t.width) (vElem v o.t (base + e)) := by
  have hmod (r : Int) : wrapN (16 * o.t.width) r = modE (2 * o.t.width) r := by
    rw [← wrapN_eq_modE, show 8 * (2 * o.t.width) = 16 * o.t.width by ring]
  simp only [widened, hmod]
  exact elem_ofNat_assemble _ _ _ (fun _ _ => modE_lt _ _) (ETy.widens_width ht).le e he

theorem widenedMask_bit {o : V2} (ht : o.t.widens = true) (m : PReg) (base : Nat) {k : Nat} (hk : k < 512) :
    (widenedMask o m base).getLsbD k = true ↔ Active m o.t.width (base + k / (2 * o.t.width)) := by
  have hw : 0 < 2 * o.t.width := Nat.mul_pos (by decide) (ETy.width_pos o.t)
  have hk' : k < o.t.count / 2 * (2 * o.t.width) := by rwa [Nat.mul_comm, ETy.widens_width ht]
  rw [widenedMask, groupBits_bit _ _ hw _ _ hk, decide_eq_true hk', Bool.true_and]
  rfl

/-- A part of O14: narrowing and widening. -/
theorem vectorNarrowWidenResult : VectorNarrowWidenResult := by
  intro o sh sat rnd s
  refine ⟨fun hwf => ?_, fun hwf => ?_⟩
  · obtain ⟨hw, hd, hn⟩ := ETy.narrows_width (ETy.narrows_of_vnrw hwf)
    refine vwGives_of_give (exec_vnrw o sh sat rnd s) (Nat.pos_of_ne_zero fun h => by simp [h] at hd) (State.pushV_eq_give ..)
      (elements_mapElems hw hd hn.le (fun e => (clamped_or_wrapped ..).trans ?_) fun _ => modE_lt _ _)
    simp only [Bool.and_eq_true, decide_eq_true_eq, ite_add_eq]
    push_cast
    rfl
  · have ht := ETy.widens_of_vwid hwf
    refine vwGives_of_gives (exec_vwid_eq_give_give o s) (ETy.count_pos o.t)
      ⟨_, ⟨_, _, _, _, rfl, fun k hk => ⟨?_, widenedMask_bit ht _ _ hk⟩, fun e he => ⟨?_, elem_widened ht _ _ he⟩⟩,
        s.give_give_gives _ _⟩
    · rw [widenedMask_bit ht _ 0 hk, Nat.zero_add]
    · rw [elem_widened ht _ 0 he, Nat.zero_add]

/-! ## Logical operations and shifts (R136) -/

theorem vwGives_of_bitBin {i : Instr} {s : State} {o : V3} {f : VReg → VReg → VReg} (h : exec i s = bitBin o f s) :
    VwGives i s o.g o.t.width 2 (Whole (s.me.guardW o.g) o.t.width o.d 2 (f (s.me.vreg o.a) (s.me.vreg o.b))) :=
  vwGives_of_whole h rfl

theorem vwGives_of_shiftV {i : Instr} {s : State} {o : V2} {b : Amt} {f : Nat → Nat → Nat} (val : Nat → Nat → Nat)
    (h : exec i s = shiftV o b f s) (hf : ∀ x n, f x n = val x n) (hlt : ∀ x n, x < 2 ^ (8 * o.t.width) → val x n < 2 ^ (8 * o.t.width)) :
    IntVec i s o.g o.t o.d (fun e => val (rawE (s.me.vreg o.a) o.t e) (amountE s.me b o.t e)) (fun _ => 0) := by
  refine vwGives_of_mapV h (fun e => Prod.ext ?_ rfl) fun e => hlt _ _ (rawE_lt ..)
  rw [← hf]
  cases b <;> rfl

/-- A part of O14: logical operations and shifts. -/
theorem vectorLogicShiftResult : VectorLogicShiftResult := by
  intro o u b s
  have hp : 0 < 2 ^ (8 * u.t.width) := Nat.two_pow_pos _
  refine ⟨vwGives_of_bitBin (exec_vand o s), vwGives_of_bitBin (exec_vor o s), vwGives_of_bitBin (exec_vxor o s),
    vwGives_of_whole (exec_vnot u s) rfl,
    vwGives_of_shiftV (fun x n => x * 2 ^ n % 2 ^ (8 * u.t.width)) (exec_vshl u b s) (fun _ _ => rfl) fun _ _ _ => Nat.mod_lt _ hp,
    vwGives_of_shiftV (fun x n => x / 2 ^ n) (exec_vshr u b s) (fun _ _ => rfl) fun _ _ hx => (Nat.div_le_self ..).trans_lt hx,
    vwGives_of_shiftV (fun x n => modE u.t.width (signed (8 * u.t.width) x / (2 : Int) ^ n)) (exec_vsra u b s) (fun x n => ?_)
      fun _ _ _ => modE_lt _ _⟩
  rw [wrapN_eq_modE]
  push_cast
  rfl

/-- Settles O14, from its two parts. -/
theorem vectorNarrowWidenLogicShift : Obligations.VectorNarrowWidenLogicShift := ⟨vectorNarrowWidenResult, vectorLogicShiftResult⟩

/-! ## Comparison, selection and moves (R136, R143) -/

theorem icmp_iff (cc : ICmp) (x y : Int) : icmp cc x y = true ↔ intTest cc x y := by cases cc <;> exact decide_eq_true_iff

/-- A part of O15: VCMP and VSEL. -/
theorem vectorCompareSelectResult : VectorCompareSelectResult := by
  intro o cc c s
  refine ⟨vwGives_of_give (exec_vcmp o cc s) (ETy.count_pos o.t) (State.pushP_eq_give ..) (groups_groupBits _ _ _ _ _ fun e => icmp_iff ..),
    vwGives_of_give (exec_vsel o c s) (ETy.count_pos o.t) (State.pushV_eq_give ..)
      ⟨_, _, 0, rfl, covers_elemMask _ o.t, fun e he _ => elem_mergeV_elemMask _ _ _ o.t he, fun k => by simp⟩⟩

/-- The count before each element is that of the set governing bits below it (R143). -/
theorem prefixCounts_eq (p : PReg) (w n : Nat) :
    prefixCounts p w n = (List.range n).map (fun e => ((List.range e).filter (fun k => activeE p w k)).length) := by
  have hfold : (List.range n).foldl (fun (a : List Nat × Nat) e => (a.2 :: a.1, if activeE p w e then a.2 + 1 else a.2)) ([], 0) =
      (((List.range n).map (fun e => ((List.range e).filter (fun k => activeE p w k)).length)).reverse,
        ((List.range n).filter (fun k => activeE p w k)).length) := by
    induction n with
    | zero => rfl
    | succ n ih =>
      rw [List.range_succ, List.foldl_append, ih, List.map_append, List.reverse_append, List.filter_append, List.length_append]
      cases h : activeE p w n <;> simp [h]
  rw [prefixCounts, hfold, List.reverse_reverse]

/-- VINS lays its scalar at the one place, within the register. -/
theorem elem_inserted (t : ETy) {x idx : Nat} (hi : idx < t.count) :
    elem (BitVec.ofNat 4096 (x % 2 ^ (8 * t.width) * 2 ^ (8 * t.width * idx))).toNat t.width idx = x % 2 ^ (8 * t.width) := by
  have hle : 8 * t.width * idx + 8 * t.width ≤ 4096 := calc
    8 * t.width * idx + 8 * t.width = 8 * (t.width * (idx + 1)) := by ring
    _ ≤ 8 * (t.width * t.count) := Nat.mul_le_mul_left _ (Nat.mul_le_mul_left _ hi)
    _ = 4096 := by rw [ETy.width_mul_count]
  have hlt : x % 2 ^ (8 * t.width) * 2 ^ (8 * t.width * idx) < 2 ^ 4096 := calc
    _ < 2 ^ (8 * t.width) * 2 ^ (8 * t.width * idx) :=
      Nat.mul_lt_mul_of_pos_right (Nat.mod_lt _ (Nat.two_pow_pos _)) (Nat.two_pow_pos _)
    _ = 2 ^ (8 * t.width * idx + 8 * t.width) := by rw [Nat.pow_add, Nat.mul_comm]
    _ ≤ 2 ^ 4096 := Nat.pow_le_pow_right (by decide) hle
  rw [elem, BitVec.toNat_ofNat, Nat.mod_eq_of_lt hlt, Nat.mul_div_cancel _ (Nat.two_pow_pos _), Nat.mod_mod]

theorem vins_result (u : V2) {idx : Nat} (s : State) (hi : idx < u.t.count) :
    VwGives (.vins u idx) s u.g u.t.width 2 (fun rs => ∃ mask v, rs = [vRes u.d mask v 0 3] ∧
      elem v.toNat u.t.width idx = (s.me.sreg u.a).toNat % 2 ^ (8 * u.t.width) ∧
      ∀ k, k < 512 → (mask.getLsbD k = true ↔ k / u.t.width = idx ∧ Active (s.me.guardW u.g) u.t.width idx)) := by
  refine vwGives_of_give (exec_vins u idx s) (ETy.count_pos u.t) (State.pushV_eq_give ..) ⟨_, _, rfl, elem_inserted u.t hi, fun k hk => ?_⟩
  rw [groupBits_bit _ _ (ETy.width_pos u.t) _ _ hk, ETy.count_mul_width, decide_eq_true hk, Bool.true_and, Bool.and_eq_true,
    decide_eq_true_eq]
  exact and_congr_right fun h => by rw [h]; rfl

theorem vext_result (u : V2) (idx : Nat) (s : State) : VwGives (.vext u idx) s u.g u.t.width 2 (fun rs =>
      (Active (s.me.guardW u.g) u.t.width idx → rs = [sRes u.d (BitVec.ofInt 64 (vElem (s.me.vreg u.a) u.t idx)) 0 3]) ∧
      (¬ Active (s.me.guardW u.g) u.t.width idx → rs = [])) := by
  refine vwGives_of_gives (exec_vext u idx s) (ETy.count_pos u.t) ?_
  by_cases ha : activeE (s.me.guardW u.g) u.t.width idx = true
  · rw [if_pos ha]
    exact ⟨_, ⟨fun _ => rfl, fun h => absurd ha h⟩, s.give_gives (sRes ..)⟩
  · rw [if_neg ha]
    exact ⟨[], ⟨fun h => absurd h ha, fun _ => rfl⟩, gives_nothing s⟩

/-- A part of O15: the data movements. -/
theorem vectorMoveResult : VectorMoveResult := by
  intro o u sh idx s g w n h z
  refine ⟨vwGives_of_mapV (exec_vperm o s) (fun _ => rfl) fun _ => ?_, vwGives_of_mapV (exec_vsld o sh s) (fun _ => rfl) fun _ => ?_,
    vwGives_of_mapV (exec_vbcstScalar u s) (fun _ => rfl) fun _ => Nat.mod_lt _ (Nat.two_pow_pos _),
    vwGives_of_mapV (exec_vbcstElement u idx s) (fun _ => rfl) fun _ => rawE_lt ..,
    vins_result u s, fun _ => vext_result u idx s, vwGives_of_whole (exec_vmov u s) rfl, ?_⟩
  · dsimp only
    split
    · exact rawE_lt ..
    · exact Nat.two_pow_pos _
  · split <;> exact rawE_lt ..
  · refine vwGives_of_give (exec_viota u s) (ETy.count_pos u.t) (State.pushV_eq_give ..) ?_
    rw [prefixCounts_eq, List.map_map]
    exact elements_assemble _ _ _ _ fun _ _ => Nat.mod_lt _ (Nat.two_pow_pos _)

/-- Settles O15, from its two parts. -/
theorem vectorCompareSelectMove : Obligations.VectorCompareSelectMove := ⟨vectorCompareSelectResult, vectorMoveResult⟩

/-! ## Predicates (R144) -/

theorem countBits_and (p m : PReg) (w n : Nat) : countBits (p &&& m) w n =
    ((List.range n).filter (fun e => p.getLsbD (e * w) && m.getLsbD (e * w))).length := by
  simp only [countBits, activeE, BitVec.getLsbD_and]

theorem vwGives_of_predOp {i : Instr} {s : State} {g d : Nat} {f : Ctx → PReg} (h : exec i s = predOp g d f s) :
    VwGives i s g 1 2 (fun rs => rs = [pRes d (s.me.guardW g) (f s.me) 0 2]) :=
  vwGives_of_give h (by decide) (State.pushP_eq_give ..) rfl

/-- Settles O16: PAND, POR, PXOR and PNOT are `predOp`, PSET and PCNT have one result. -/
theorem predicateResult : Obligations.PredicateResult := by
  intro o u v s
  refine ⟨vwGives_of_predOp (exec_pand o s), vwGives_of_predOp (exec_por o s), vwGives_of_predOp (exec_pxor o s),
    vwGives_of_predOp (f := fun c => ~~~(c.preg u.a)) (exec_pnot u s),
    vwGives_of_give (exec_pset v s) (ETy.count_pos v.t) (State.pushP_eq_give ..) (groups_groupBits _ _ _ _ _ fun e => decide_eq_true_iff),
    vwGives_of_give (exec_pcnt v s) (ETy.count_pos v.t) (State.pushS_eq_give ..) ?_⟩
  rw [countBits_and]

end Sys2Proof.Machine
end

section
/-!
SUPPORT. What a float instruction of the V and W slots leaves: the roundings of its active elements in ascending order, the
generators that they advance, and nothing else (R49, R50, R55, R129, R137).
-/

namespace Sys2Proof.Machine

open Sys2Proof.Claims

/-! ## Contexts that differ in their generators (R50) -/

/-- Two contexts that differ at most in their generators. -/
def LfsrOnly (c d : Ctx) : Prop := ∃ g, d = { c with regs := { c.regs with lfsr := g } }

theorem LfsrOnly.refl (c : Ctx) : LfsrOnly c c := ⟨c.regs.lfsr, rfl⟩

theorem LfsrOnly.trans {c d e : Ctx} (h : LfsrOnly c d) (h' : LfsrOnly d e) : LfsrOnly c e := by
  obtain ⟨g, rfl⟩ := h
  obtain ⟨g', rfl⟩ := h'
  exact ⟨g', rfl⟩

section

variable (rm hw : Nat) (c : Ctx) (lane : Nat) (f : Nat → FRes)

theorem srLane_lfsrOnly : LfsrOnly c (srLane rm hw c lane f).2 := by
  unfold srLane
  split
  · dsimp only
    split
    · exact ⟨_, rfl⟩
    · exact .refl c
  · exact .refl c

/-- The rounding of a lane: under SR with the draw of the lane's next state. -/
theorem srLane_fst : (srLane rm hw c lane f).1 = f (if rm = 4 then (lfsrAdvance (c.lfsr hw lane)).toNat / 256 else 0) := by
  unfold srLane
  split <;> rfl

theorem Ctx.lfsr_put (g : Word32) (l : Nat) :
    Ctx.lfsr { c with regs := { c.regs with lfsr := SMap.put c.regs.lfsr lane g } } hw l = if l = lane then g else c.lfsr hw l := by
  unfold Ctx.lfsr
  split
  next h => rw [h, SMap.getD_put_same]
  next h => rw [SMap.getD_put_other _ _ _ h]

/-- The lane's generator advances when the rounding is inexact, and no other one does. -/
theorem srLane_lfsr (l : Nat) : (srLane rm hw c lane f).2.lfsr hw l =
    if rm = 4 ∧ l = lane ∧ (srLane rm hw c lane f).1.inexact = true then lfsrAdvance (c.lfsr hw l) else c.lfsr hw l := by
  unfold srLane
  by_cases hrm : rm = 4
  · rw [if_pos hrm]
    dsimp only
    by_cases hix : (f (lfsrDraw (lfsrAdvance (c.lfsr hw lane)))).inexact = true
    · rw [if_pos hix, Ctx.lfsr_put]
      by_cases hl : l = lane
      · rw [if_pos hl, if_pos ⟨hrm, hl, hix⟩, hl]
      · rw [if_neg hl, if_neg fun h => hl h.2.1]
    · rw [if_neg hix, if_neg fun h => hix h.2.2]
  · rw [if_neg hrm, if_neg fun h => hrm h.1]

end

/-! ## Elements rounded in ascending order (R49, R50, R137) -/

section

variable (rm hw : Nat) (m : PReg) (w : Nat) (lane : Nat → Nat) (f : Nat → Nat → FRes) (c : Ctx)

/-- The context before element `e`: those below it that are active have been rounded. -/
def ctxBefore : Nat → Ctx
  | 0 => c
  | e + 1 => if activeE m w e = true then (srLane rm hw (ctxBefore e) (lane e) (f e)).2 else ctxBefore e

/-- What element `e` becomes, rounded where it is active. -/
def roundedAt (e : Nat) : FRes := (srLane rm hw (ctxBefore rm hw m w lane f c e) (lane e) (f e)).1

theorem ctxBefore_lfsrOnly (e : Nat) : LfsrOnly c (ctxBefore rm hw m w lane f c e) := by
  induction e with
  | zero => exact .refl c
  | succ e ih =>
    rw [ctxBefore]
    split
    · exact ih.trans (srLane_lfsrOnly ..)
    · exact ih

/-- `mapFloat` lays the rounded elements as `mapElems` does, and leaves the context after the last. -/
theorem mapFloat_eq (n : Nat) : mapFloat rm hw m w n lane f c =
    ((mapElems m w n (fun e => ((roundedAt rm hw m w lane f c e).bits, (roundedAt rm hw m w lane f c e).flags))).1,
      (mapElems m w n (fun e => ((roundedAt rm hw m w lane f c e).bits, (roundedAt rm hw m w lane f c e).flags))).2,
      ctxBefore rm hw m w lane f c n) := by
  have hfold : (List.range n).foldl (fun (a : List Nat × Flags × Ctx) e =>
      if activeE m w e then
        let (x, c1) := srLane rm hw a.2.2 (lane e) (fun u => f e u)
        (x.bits :: a.1, a.2.1 ||| x.flags, c1)
      else (0 :: a.1, a.2.1, a.2.2)) ([], 0, c) =
      let rs := (List.range n).map (fun e => if activeE m w e then
        ((roundedAt rm hw m w lane f c e).bits, (roundedAt rm hw m w lane f c e).flags) else (0, (0 : Flags)))
      ((rs.map (fun r => r.1)).reverse, rs.foldl (fun a r => a ||| r.2) 0, ctxBefore rm hw m w lane f c n) := by
    induction n with
    | zero => rfl
    | succ n ih =>
      rw [List.range_succ, List.foldl_append, ih, ctxBefore]
      by_cases h : activeE m w n = true
      · simp [h, roundedAt]
      · simp [h]
  rw [mapFloat, hfold]
  simp only [List.reverse_reverse, mapElems]

end

/-- The roundings of `mapFloat` are those of the spec (R49, R50). -/
theorem roundings_ctxBefore (s : State) (m : PReg) (w n : Nat) (lane : Nat → Nat) (f : Nat → Nat → FRes) :
    Roundings s m w n lane f (fun e l => (ctxBefore s.me.rm s.cur.hw m w lane f s.me e).lfsr s.cur.hw l)
      (roundedAt s.me.rm s.cur.hw m w lane f s.me) where
  start _ := rfl
  next e _ l := by
    rw [ctxBefore, roundedAt]
    by_cases h : activeE m w e = true
    · rw [if_pos h, srLane_lfsr]
      exact if_congr ⟨fun ⟨h1, h2, h3⟩ => ⟨h1, h, h2, h3⟩, fun ⟨h1, _, h2, h3⟩ => ⟨h1, h2, h3⟩⟩ rfl rfl
    · rw [if_neg h, if_neg fun hc => h hc.2.1]
  value e _ _ := srLane_fst ..

/-! ## What is left of the state -/

/-- A state in which the generators of the issuing context have moved, entries have been added to its pending results, and nothing
else has changed. -/
structure AddsPend (s t : State) (c : Ctx) (ps : List Pend) : Prop where
  ctx : t.ctx s.cur.hw = { c with pend := { c.pend with val := c.pend.val ++ ps } }
  lfsr : LfsrOnly s.me c
  others : OthersSame s t
  rest : RestSame s t
  mem : t.mem = s.mem

/-- One event of an energy code is counted beside the new entries. -/
theorem AddsPend.charge {s t : State} {c : Ctx} {ps : List Pend} (h : AddsPend s t c ps) (code : Nat) :
    RoundedTo s (t.charge s.cur.hw code 1) ps code ∧
      ∀ l, ((t.charge s.cur.hw code 1).ctx s.cur.hw).lfsr s.cur.hw l = c.lfsr s.cur.hw l := by
  obtain ⟨hctx, ⟨g, rfl⟩, ho, hr, hm⟩ := h
  refine ⟨⟨?_, ?_, ?_, ?_, ?_, fun k hk => ?_, restSame_charge hr _ _ _, memSame_charge (memSame_of_eq hm) _ _ _⟩, fun l => ?_⟩
  case refine_6 => rw [State.charge_ctx_other _ code 1 hk, ho k hk]
  all_goals rw [State.charge_ctx_same, hctx]
  case refine_2 => rw [State.auxOf, hr.aux]; rfl
  case refine_3 => exact ⟨rfl, rfl, rfl, rfl, rfl, rfl, rfl⟩
  case refine_4 => exact ⟨rfl, rfl, rfl, rfl, rfl, rfl, rfl⟩
  all_goals rfl

/-- A result given after generators have moved. -/
theorem addsPend_give (s : State) {c : Ctx} (hc : LfsrOnly s.me c) (r : Res) :
    AddsPend s ((s.setCtx s.cur.hw c).give r) c [r.pend s] where
  ctx := by
    have hme : (s.setCtx s.cur.hw c).me = c := State.setCtx_ctx_same s _ c
    have hp : r.pend (s.setCtx s.cur.hw c) = r.pend s := by
      obtain ⟨g, rfl⟩ := hc
      rw [Res.pend, hme]
      rfl
    have h := (s.setCtx s.cur.hw c).give_ctx r
    rwa [hp, hme] at h
  lfsr := hc
  others k hk := by
    rw [State.give, State.pushVal_ctx_other _ _ _ _ _ _ (show k ≠ (s.setCtx s.cur.hw c).cur.hw from hk), State.setCtx_ctx_other _ _ hk]
  rest := ⟨rfl, rfl, rfl, rfl, rfl, rfl, rfl, rfl⟩
  mem := rfl

/-! ## Float instructions of latency 4 -/

theorem State.roundV_eq_give (s : State) (m : PReg) (t : ETy) (d lat : Nat) (lane : Nat → Nat) (f : Nat → Nat → FRes) :
    s.roundV m t d lat lane f =
      (s.setCtx s.cur.hw (ctxBefore s.me.rm s.cur.hw m t.width lane f s.me t.count)).give (mapRes m t d lat (fun e =>
        ((roundedAt s.me.rm s.cur.hw m t.width lane f s.me e).bits, (roundedAt s.me.rm s.cur.hw m t.width lane f s.me e).flags))) := by
  simp only [State.roundV, mapFloat_eq]
  rfl

section

variable {i : Instr} {s : State}

/-- An instruction whose effect is `roundV` and one event of energy. -/
theorem floatVec_of_roundV {m : PReg} {act : Prop} {t : ETy} {d : Nat} {f : Nat → Nat → FRes}
    (hon : act → exec i s = .next ((s.roundV m t d 4 (laneOf t) f).charge s.cur.hw 3 1)) (hoff : ¬ act → Nullified i s) :
    FloatVec i s m act t d f := by
  refine ⟨fun ha => ⟨_, hon ha, ?_⟩, hoff⟩
  rw [State.roundV_eq_give]
  obtain ⟨hr, hl⟩ := (addsPend_give s (ctxBefore_lfsrOnly ..) (mapRes m t d 4 _)).charge 3
  exact ⟨[mapRes m t d 4 _], _, _, roundings_ctxBefore s m t.width t.count (laneOf t) f, laid_mapRes .., hr, hl⟩

theorem floatOp_of_fltOp {g : Nat} {t : ETy} {d : Nat} {f : Ctx → Nat → Nat → FRes} (h : exec i s = fltOp g t d f s) :
    FloatOp i s g t d (f s.me) :=
  floatVec_of_roundV (fun ha => exec_of_vw h (ETy.count_pos t) ha) (nullified_of_vw h (ETy.count_pos t))

end

end Sys2Proof.Machine
end

section
/-!
SUPPORT. Exact values of floating-point numbers: sums, products and their order (R41, R42, R49, R137).
-/

namespace Sys2Proof.Machine

open Sys2Proof.Claims

/-! ## Exact values -/

/-- A sign and a magnitude as an integer. -/
def signedMag (n : Bool) (m : Nat) : Int := if n = true then -(m : Int) else m

theorem cast_signedMag (n : Bool) (m : Nat) : ((signedMag n m : Int) : ℚ) = (if n = true then -1 else 1) * (m : ℚ) := by
  cases n <;> simp [signedMag]

theorem vq_fin (n : Bool) (m : Nat) (e : Int) : vq (.fin n m e) = (signedMag n m : ℚ) * (2 : ℚ) ^ e := by
  rw [vq, cast_signedMag]

theorem two_zpow_pos (e : Int) : (0 : ℚ) < (2 : ℚ) ^ e := by positivity

/-- The same value in units of a smaller power of two. -/
theorem vq_fin_of_le (n : Bool) (m : Nat) {e k : Int} (h : k ≤ e) :
    vq (.fin n m e) = (signedMag n (m * 2 ^ (e - k).toNat) : ℚ) * (2 : ℚ) ^ k := by
  have hz : (2 : ℚ) ^ e = (2 : ℚ) ^ (e - k).toNat * (2 : ℚ) ^ k := by
    rw [← zpow_natCast, Int.toNat_of_nonneg (sub_nonneg.2 h), ← zpow_add₀ two_ne_zero, sub_add_cancel]
  rw [vq_fin, hz]
  cases n <;> simp [signedMag] <;> ring

theorem abs_vq_fin (n : Bool) (m : Nat) (e : Int) : |vq (.fin n m e)| = (m : ℚ) * (2 : ℚ) ^ e := by
  rw [vq_fin, abs_mul, abs_of_pos (two_zpow_pos e)]
  cases n <;> simp [signedMag]

theorem vq_fin_eq_zero {n : Bool} {m : Nat} {e : Int} : vq (.fin n m e) = 0 ↔ m = 0 := by
  rw [← abs_eq_zero, abs_vq_fin]
  simp [(two_zpow_pos e).ne']

theorem vq_mul (n k : Bool) (a b : Nat) (d e : Int) :
    vq (.fin n a d) * vq (.fin k b e) = vq (.fin (xor n k) (a * b) (d + e)) := by
  simp only [vq_fin, zpow_add₀ (two_ne_zero (α := ℚ))]
  cases n <;> cases k <;> simp [signedMag] <;> ring

theorem vq_neg (n : Bool) (m : Nat) (e : Int) : vq (.fin (!n) m e) = -vq (.fin n m e) := by
  cases n <;> simp [vq]

/-! ## Sums (R137) -/

/-- The sum of two values in units of the smaller of their powers of two. -/
def sumInt (na : Bool) (ma : Nat) (ea : Int) (nb : Bool) (mb : Nat) (eb : Int) : Int :=
  signedMag na (ma * 2 ^ (ea - min ea eb).toNat) + signedMag nb (mb * 2 ^ (eb - min ea eb).toNat)

section

variable (na : Bool) (ma : Nat) (ea : Int) (nb : Bool) (mb : Nat) (eb : Int)

theorem addMag_eq : addMag na ma ea nb mb eb =
    (decide (sumInt na ma ea nb mb eb < 0), (sumInt na ma ea nb mb eb).natAbs, min ea eb) := rfl

theorem vq_add : vq (.fin na ma ea) + vq (.fin nb mb eb) = (sumInt na ma ea nb mb eb : ℚ) * (2 : ℚ) ^ min ea eb := by
  rw [vq_fin_of_le na ma (min_le_left ea eb), vq_fin_of_le nb mb (min_le_right ea eb), sumInt]
  push_cast
  ring

theorem vq_add_eq_zero : vq (.fin na ma ea) + vq (.fin nb mb eb) = 0 ↔ sumInt na ma ea nb mb eb = 0 := by
  rw [vq_add]
  simp [(two_zpow_pos _).ne']

theorem vq_add_neg : vq (.fin na ma ea) + vq (.fin nb mb eb) < 0 ↔ sumInt na ma ea nb mb eb < 0 := by
  rw [vq_add, mul_neg_iff]
  simp [two_zpow_pos, not_lt.2 (two_zpow_pos _).le]

theorem abs_vq_add : |vq (.fin na ma ea) + vq (.fin nb mb eb)| =
    ((sumInt na ma ea nb mb eb).natAbs : ℚ) * (2 : ℚ) ^ min ea eb := by
  rw [vq_add, abs_mul, abs_of_pos (two_zpow_pos _), Nat.cast_natAbs, Int.cast_abs]

/-- The sum of two finite values is the one rounding of the exact sum (R137). -/
theorem sumIs_sum (f : FFmt) (rm u : Nat) :
    SumIs f rm u (.fin na ma ea) (.fin nb mb eb) na nb (f.sum rm u na ma ea nb mb eb) := by
  simp only [SumIs, FFmt.sum, addMag_eq, Int.natAbs_eq_zero, ← vq_add_eq_zero]
  refine ⟨fun h => ⟨_, _, abs_vq_add .., ?_⟩, fun h => ?_⟩
  · rw [if_neg h]
    congr 1
    rw [decide_eq_decide, vq_add_neg]
  · have hzero : ma = 0 ∧ mb = 0 ∧ na = nb ↔ vq (.fin na ma ea) = 0 ∧ na = nb := by
      rw [vq_fin_eq_zero]
      refine and_congr_right fun ha => and_iff_right ?_
      rwa [vq_fin_eq_zero.2 ha, zero_add, vq_fin_eq_zero] at h
    rw [if_pos h]
    refine ⟨?_, rfl, rfl⟩
    simp only [hzero]

end

/-! ## NaNs and infinities (R137) -/

theorem flagIf_fNv (b : Bool) : flagIf b fNv = nvIf (b = true) := rfl

theorem FV.eq_nan_of_isNan {x : FV} (h : x.isNan = true) : ∃ sig, x = .nan sig := by
  cases x with
  | nan sig => exact ⟨sig, rfl⟩
  | inf _ => cases h
  | fin _ _ _ => cases h

theorem exactly_nanRes (f : FFmt) {fl fl' : Flags} (h : fl = fl') : Exactly (f.nanRes fl) f.nan fl' := ⟨rfl, h, rfl⟩
theorem exactly_infRes (f : FFmt) (n : Bool) {fl fl' : Flags} (h : fl = fl') :
    Exactly (f.infRes n fl) (f.signBit n + f.inf) fl' := ⟨rfl, h, rfl⟩

section

variable (f : FFmt) (rm u : Nat)

theorem FFmt.addV_nan {x y : FV} (h : x.isNan = true ∨ y.isNan = true) :
    f.addV rm u x y = f.nanRes (flagIf (x.isSig || y.isSig) fNv) := by
  rcases h with h | h
  · obtain ⟨_, rfl⟩ := FV.eq_nan_of_isNan h
    rfl
  · obtain ⟨_, rfl⟩ := FV.eq_nan_of_isNan h
    cases x <;> rfl

theorem FFmt.mulV_nan {x y : FV} (h : x.isNan = true ∨ y.isNan = true) :
    f.mulV rm u x y = f.nanRes (flagIf (x.isSig || y.isSig) fNv) := by
  rcases h with h | h
  · obtain ⟨_, rfl⟩ := FV.eq_nan_of_isNan h
    rfl
  · obtain ⟨_, rfl⟩ := FV.eq_nan_of_isNan h
    cases x <;> rfl

theorem FFmt.fmaV_nan {x y z : FV} (h : x.isNan = true ∨ y.isNan = true) :
    f.fmaV rm u x y z = f.nanRes (flagIf (x.isSig || y.isSig || z.isSig) fNv) := by
  rcases h with h | h
  · obtain ⟨_, rfl⟩ := FV.eq_nan_of_isNan h
    rfl
  · obtain ⟨_, rfl⟩ := FV.eq_nan_of_isNan h
    cases x with
    | fin n m e => cases m <;> rfl
    | _ => rfl

end

end Sys2Proof.Machine
end

section
/-!
PROOF. The float arithmetic of the V and W slots: VFADD, VFSUB, VFMUL, VFMA, VFMS (R41, R49, R50, R55, R129, R137).
-/

namespace Sys2Proof.Machine

open Sys2Proof.Claims

/-- A part of O17: each instruction is `fltOp` with its rounding. -/
theorem floatArithmetic : FloatArithmetic := fun o c s =>
  ⟨floatOp_of_fltOp (exec_vfadd o s), floatOp_of_fltOp (exec_vfsub o s), floatOp_of_fltOp (exec_vfmul o s),
    floatOp_of_fltOp (exec_vfma o c s), floatOp_of_fltOp (exec_vfms o c s)⟩

/-! ## The rows of the table (R137) -/

section

variable (f : FFmt) (rm u : Nat)

theorem addV_nan_exactly {x y : FV} (h : x.isNan = true ∨ y.isNan = true) :
    Exactly (f.addV rm u x y) f.nan (nvIf (x.isSig = true ∨ y.isSig = true)) := by
  rw [FFmt.addV_nan f rm u h]
  exact exactly_nanRes f (by simp [flagIf_fNv])

theorem mulV_nan_exactly {x y : FV} (h : x.isNan = true ∨ y.isNan = true) :
    Exactly (f.mulV rm u x y) f.nan (nvIf (x.isSig = true ∨ y.isSig = true)) := by
  rw [FFmt.mulV_nan f rm u h]
  exact exactly_nanRes f (by simp [flagIf_fNv])

theorem fmaV_nan_exactly {x y : FV} (z : FV) (h : x.isNan = true ∨ y.isNan = true) :
    Exactly (f.fmaV rm u x y z) f.nan (nvIf (x.isSig = true ∨ y.isSig = true ∨ z.isSig = true)) := by
  rw [FFmt.fmaV_nan f rm u h]
  exact exactly_nanRes f (by simp [flagIf_fNv, or_assoc])

theorem addV_inf_inf (i j : Bool) :
    Exactly (f.addV rm u (.inf i) (.inf j)) (if i = j then f.signBit i + f.inf else f.nan) (nvIf (i ≠ j)) := by
  cases i <;> cases j <;> exact ⟨rfl, rfl, rfl⟩

theorem mulV_inf_fin (i n : Bool) (a : Nat) (d : Int) :
    Exactly (f.mulV rm u (.inf i) (.fin n a d)) (if a = 0 then f.nan else f.signBit (xor i n) + f.inf) (nvIf (a = 0)) := by
  by_cases ha : a = 0 <;> simp [Exactly, FFmt.mulV, ha, FV.isSig, flagIf, nvIf, fNv, FFmt.nanRes, FFmt.infRes]

theorem mulV_fin_inf (i n : Bool) (a : Nat) (d : Int) :
    Exactly (f.mulV rm u (.fin n a d) (.inf i)) (if a = 0 then f.nan else f.signBit (xor n i) + f.inf) (nvIf (a = 0)) := by
  by_cases ha : a = 0 <;> simp [Exactly, FFmt.mulV, ha, FV.isSig, flagIf, nvIf, fNv, FFmt.nanRes, FFmt.infRes]

/-- An infinite product meets an addend that is infinite. -/
theorem addInf_inf (i j : Bool) : Exactly (FFmt.fmaV.addInf f i (.inf j) 0) (if i = j then f.signBit j + f.inf else f.nan)
    (nvIf (i ≠ j)) := by
  cases i <;> cases j <;> exact ⟨rfl, rfl, rfl⟩

/-- A finite product, whatever its factors, is no invalid one. -/
theorem fmaV_fin_fin (n k : Bool) (a b : Nat) (d e : Int) (z : FV) : f.fmaV rm u (.fin n a d) (.fin k b e) z =
    match z with
    | .nan sig => f.nanRes (flagIf sig fNv)
    | .inf i => f.infRes i 0
    | .fin l c g => f.sum rm u (xor n k) (a * b) (d + e) l c g := by
  cases a <;> cases b <;> cases z <;> rfl

theorem fmaV_inf_fin {a : Nat} (ha : a ≠ 0) (i n : Bool) (d : Int) {z : FV} (hz : z.isNan = false) :
    f.fmaV rm u (.inf i) (.fin n a d) z = FFmt.fmaV.addInf f (xor i n) z 0 := by
  obtain ⟨a, rfl⟩ := Nat.exists_eq_succ_of_ne_zero ha
  cases z with
  | nan _ => cases hz
  | _ => rfl

theorem fmaV_fin_inf {a : Nat} (ha : a ≠ 0) (i n : Bool) (d : Int) {z : FV} (hz : z.isNan = false) :
    f.fmaV rm u (.fin n a d) (.inf i) z = FFmt.fmaV.addInf f (xor n i) z 0 := by
  obtain ⟨a, rfl⟩ := Nat.exists_eq_succ_of_ne_zero ha
  cases z with
  | nan _ => cases hz
  | _ => rfl

/-- Infinity times zero is invalid whatever the addend. -/
theorem fmaV_inf_zero (i n : Bool) (d : Int) (z : FV) : Exactly (f.fmaV rm u (.inf i) (.fin n 0 d) z) f.nan 0x10#6 ∧
    Exactly (f.fmaV rm u (.fin n 0 d) (.inf i) z) f.nan 0x10#6 := by
  have h : flagIf z.isSig fNv ||| fNv = 0x10#6 := by cases z.isSig <;> rfl
  exact ⟨exactly_nanRes f h, exactly_nanRes f h⟩

end

/-- A part of O17: sums and products are roundings of their exact values, and infinities and NaNs go by their rows. -/
theorem exactArithmetic : ExactArithmetic := by
  intro t rm u x y z n k l a b c d e g _ f p q r sig2 sig3
  refine ⟨sumIs_sum n a d k b e f rm u, ⟨a * b, d + e, ?_, rfl⟩, ?_, fun h => ⟨addV_nan_exactly f rm u h, mulV_nan_exactly f rm u h⟩,
    fun i j => ⟨addV_inf_inf f rm u i j, ⟨rfl, rfl, rfl⟩, ⟨rfl, rfl, rfl⟩, ⟨rfl, rfl, rfl⟩, mulV_inf_fin f rm u i n a d,
      mulV_fin_inf f rm u i n a d, ?_, fun ha => ⟨?_, ?_⟩, fun ha => ⟨?_, ?_⟩, ⟨rfl, rfl, rfl⟩, fun h => addInf_inf f _ h, ?_⟩,
    fmaV_nan_exactly f rm u z, fun hz => ?_⟩
  · rw [vq_mul, abs_vq_fin]
  · rw [fmaV_fin_fin]
    exact sumIs_sum (xor n k) (a * b) (d + e) l c g f rm u
  · rw [fmaV_fin_fin]
    exact exactly_infRes f i rfl
  · rw [fmaV_inf_fin f rm u ha i n d rfl]
    exact exactly_infRes f _ rfl
  · rw [fmaV_inf_fin f rm u ha i n d rfl]
    exact addInf_inf f _ j
  · rw [fmaV_fin_inf f rm u ha i n d rfl]
    exact exactly_infRes f _ rfl
  · rw [fmaV_fin_inf f rm u ha i n d rfl]
    exact addInf_inf f _ j
  · rintro ha
    have hp : p = .fin n 0 d := ha ▸ rfl
    exact hp ▸ fmaV_inf_zero f rm u i n d z
  · obtain ⟨sig, rfl⟩ := FV.eq_nan_of_isNan hz
    rw [fmaV_fin_fin]
    exact exactly_nanRes f rfl

/-- Settles O17, from its two parts. -/
theorem floatArithmeticResult : Obligations.FloatArithmeticResult := ⟨floatArithmetic, exactArithmetic⟩

end Sys2Proof.Machine
end

section
/-!
SUPPORT. Rounding to an integer (R49, R50): `roundInt` answers the exact value rounded by the mode, and says whether it was inexact.
-/

namespace Sys2Proof.Machine

open Sys2Proof.Claims

/-- A value that is an integer is rounded to itself. -/
theorem roundsInt_of_eq {x : ℚ} {k : Int} (rm u : Nat) (h : x = k) : RoundsInt rm u x k :=
  ⟨fun j hj => by exact_mod_cast h.symm.trans hj, fun hn => absurd h (hn k)⟩

/-! ## Between two integers -/

/-- Whether a mode rounds the magnitude `lo + fr` of a value with sign `neg` up. -/
def GoesUp (rm : Nat) (neg : Bool) (u lo : Nat) (fr : ℚ) : Prop :=
  match rm with
  | 0 => 1 / 2 < fr ∨ fr = 1 / 2 ∧ lo % 2 = 1
  | 1 => False
  | 2 => neg = false
  | 3 => neg = true
  | _ => (u : ℚ) / 2 ^ 24 < fr

theorem roundsUp_iff_goesUp (rm : Nat) (neg : Bool) (u m sh : Nat) :
    roundsUp rm neg u m sh = true ↔ GoesUp rm neg u (m / 2 ^ sh) ((m % 2 ^ sh : Nat) / (2 : ℚ) ^ sh) := by
  have hp : (0 : ℚ) < (2 : ℚ) ^ sh := by positivity
  match rm with
  | 0 =>
    have hlt : (1 / 2 : ℚ) < (m % 2 ^ sh : Nat) / (2 : ℚ) ^ sh ↔ 2 ^ sh < 2 * (m % 2 ^ sh) := by
      rw [div_lt_div_iff₀ two_pos hp, one_mul, mul_comm]
      exact_mod_cast Iff.rfl
    have heq : ((m % 2 ^ sh : Nat) / (2 : ℚ) ^ sh = 1 / 2) ↔ 2 * (m % 2 ^ sh) = 2 ^ sh := by
      rw [div_eq_div_iff hp.ne' two_ne_zero, one_mul, mul_comm]
      exact_mod_cast Iff.rfl
    simp only [roundsUp, GoesUp, Bool.or_eq_true, Bool.and_eq_true, decide_eq_true_eq, hlt, heq]
  | 1 => simp [roundsUp, GoesUp]
  | 2 => simp [roundsUp, GoesUp]
  | 3 => simp [roundsUp, GoesUp]
  | _ + 4 =>
    simp only [roundsUp, GoesUp, decide_eq_true_eq]
    rw [div_lt_div_iff₀ (by positivity) hp]
    exact_mod_cast Iff.rfl

section

variable {lo : Nat} {fr : ℚ} (h0 : 0 < fr) (h1 : fr < 1)

include h0 h1

theorem floor_pos_magnitude : ⌊(lo : ℚ) + fr⌋ = lo := by
  rw [Int.floor_eq_iff, Int.cast_natCast]
  exact ⟨le_add_of_nonneg_right h0.le, by linarith⟩

theorem floor_neg_magnitude : ⌊-((lo : ℚ) + fr)⌋ = -(lo : Int) - 1 := by
  rw [Int.floor_eq_iff]
  push_cast
  constructor <;> linarith

theorem magnitude_ne_int (k : Int) : (lo : ℚ) + fr ≠ k := by
  intro h
  have hk : k = lo := by rw [← floor_pos_magnitude h0 h1 (lo := lo), h, Int.floor_intCast]
  rw [hk, Int.cast_natCast] at h
  linarith

/-- A positive value between two integers goes to the one that its mode names. -/
theorem roundsInt_pos {up : Bool} {rm u : Nat} (hup : up = true ↔ GoesUp rm false u lo fr) :
    RoundsInt rm u ((lo : ℚ) + fr) (if up = true then lo + 1 else lo) := by
  have hfl := floor_pos_magnitude h0 h1 (lo := lo)
  have hsub : (lo : ℚ) + fr - ((lo : Int) : ℚ) = fr := by push_cast; ring
  have hpos : (0 : ℚ) ≤ lo + fr := by positivity
  refine ⟨fun k hk => absurd hk (magnitude_ne_int h0 h1 k), fun _ => ?_⟩
  match rm with
  | 0 =>
    simp only [GoesUp] at hup
    rw [hfl, hsub]
    refine ⟨fun h => if_neg ?_, fun h => if_pos (hup.2 (.inl h)), fun h => ?_⟩
    · rw [hup]
      rintro (h' | ⟨h', -⟩) <;> linarith
    · have hodd : up = true ↔ lo % 2 = 1 := by rw [hup, h]; simp
      by_cases hu : up = true
      · rw [if_pos hu]
        exact ⟨.inr rfl, by have := hodd.1 hu; omega⟩
      · rw [if_neg hu]
        exact ⟨.inl rfl, by have := mt hodd.2 hu; omega⟩
  | 1 => simp_all [GoesUp]
  | 2 => simp_all [GoesUp]
  | 3 => simp_all [GoesUp]
  | _ + 4 =>
    simp only [GoesUp] at hup
    show (if up = true then (lo : Int) + 1 else lo) = (if (0 : ℚ) ≤ lo + fr then 1 else -1) *
      (⌊|(lo : ℚ) + fr|⌋ + if (u : ℚ) / 2 ^ 24 < |(lo : ℚ) + fr| - ⌊|(lo : ℚ) + fr|⌋ then 1 else 0)
    rw [abs_of_nonneg hpos, if_pos hpos, hfl, hsub, one_mul]
    simp only [← hup]
    cases up <;> simp

/-- The same of a negative one. -/
theorem roundsInt_neg {up : Bool} {rm u : Nat} (hup : up = true ↔ GoesUp rm true u lo fr) :
    RoundsInt rm u (-((lo : ℚ) + fr)) (-(if up = true then lo + 1 else lo : Int)) := by
  have hfl := floor_neg_magnitude h0 h1 (lo := lo)
  have hsub : -((lo : ℚ) + fr) - ((-(lo : Int) - 1 : Int) : ℚ) = 1 - fr := by push_cast; ring
  have hneg : ¬ (0 : ℚ) ≤ -(lo + fr) := by
    have : (0 : ℚ) ≤ lo := Nat.cast_nonneg lo
    linarith
  refine ⟨fun k hk => absurd (neg_eq_iff_eq_neg.1 hk) ?_, fun _ => ?_⟩
  · rw [← Int.cast_neg]
    exact magnitude_ne_int h0 h1 _
  match rm with
  | 0 =>
    simp only [GoesUp] at hup
    rw [hfl, hsub]
    refine ⟨fun h => ?_, fun h => ?_, fun h => ?_⟩
    · rw [if_pos (hup.2 (.inl (by linarith)))]
      ring
    · rw [if_neg (fun h' => by rcases hup.1 h' with h' | ⟨h', -⟩ <;> linarith)]
      ring
    · have hodd : up = true ↔ lo % 2 = 1 := by rw [hup, show fr = 1 / 2 by linarith]; simp
      by_cases hu : up = true
      · rw [if_pos hu]
        exact ⟨.inl (by ring), by have := hodd.1 hu; omega⟩
      · rw [if_neg hu]
        exact ⟨.inr (by ring), by have := mt hodd.2 hu; omega⟩
  | 1 => simp_all [GoesUp]
  | 2 => simp_all [GoesUp]
  | 3 =>
    show -(if up = true then lo + 1 else lo : Int) = ⌊-((lo : ℚ) + fr)⌋
    rw [hfl, if_pos (hup.2 rfl)]
    ring
  | _ + 4 =>
    simp only [GoesUp] at hup
    have habs : |-((lo : ℚ) + fr)| = lo + fr := by rw [abs_neg, abs_of_nonneg (by positivity)]
    have hsub' : (lo : ℚ) + fr - ((lo : Int) : ℚ) = fr := by push_cast; ring
    show -(if up = true then (lo : Int) + 1 else lo) = (if (0 : ℚ) ≤ -(lo + fr) then 1 else -1) *
      (⌊|-((lo : ℚ) + fr)|⌋ + if (u : ℚ) / 2 ^ 24 < |-((lo : ℚ) + fr)| - ⌊|-((lo : ℚ) + fr)|⌋ then 1 else 0)
    rw [habs, if_neg hneg, floor_pos_magnitude h0 h1, hsub', neg_one_mul]
    simp only [← hup]
    cases up <;> simp

end

/-! ## `roundInt` -/

/-- A magnitude with a negative power of two in its whole and its fractional part. -/
theorem magnitude_split (m sh : Nat) :
    (m : ℚ) * (2 : ℚ) ^ (-(sh : Int)) = (m / 2 ^ sh : Nat) + (m % 2 ^ sh : Nat) / (2 : ℚ) ^ sh := by
  have hp : (2 : ℚ) ^ sh ≠ 0 := by positivity
  have hm : (m : ℚ) = (2 ^ sh : Nat) * (m / 2 ^ sh : Nat) + (m % 2 ^ sh : Nat) := by
    exact_mod_cast (Nat.div_add_mod m (2 ^ sh)).symm
  rw [zpow_neg, zpow_natCast]
  nth_rw 1 [hm]
  push_cast
  field_simp

section

variable (rm u : Nat) (n : Bool) (m : Nat)

/-- A value that is an integer. -/
theorem roundInt_of_nonneg {e : Int} (he : 0 ≤ e) :
    roundInt rm u n m e = (signedMag n (m * 2 ^ e.toNat), false) := by
  unfold roundInt
  split
  next h => simp [h, signedMag]
  next => rw [roundMag, if_pos he, sub_zero]; rfl

theorem roundInt_of_dvd {sh : Nat} (hs : 0 < sh) (hr : m % 2 ^ sh = 0) :
    roundInt rm u n m (-(sh : Int)) = (signedMag n (m / 2 ^ sh), false) := by
  have h := roundMag_exact rm n u (-(sh : Int)) hs hr
  rw [neg_add_cancel] at h
  unfold roundInt
  split
  next hm => simp [hm, signedMag]
  next => rw [h]; rfl

/-- A value between two integers. -/
theorem roundInt_of_not_dvd {sh : Nat} (hs : 0 < sh) (hr : m % 2 ^ sh ≠ 0) : roundInt rm u n m (-(sh : Int)) =
    (signedMag n (if roundsUp rm n u m sh = true then m / 2 ^ sh + 1 else m / 2 ^ sh), true) := by
  have h := roundMag_inexact rm n u (-(sh : Int)) hs hr
  rw [neg_add_cancel] at h
  rw [roundInt, if_neg (fun hm => hr (by simp [hm])), h]
  rfl

end

/-- A finite value is rounded to an integer as its mode says; the flag says that it was no integer (R49). -/
theorem roundInt_spec (rm u : Nat) (n : Bool) (m : Nat) (e : Int) :
    RoundsInt rm u (vq (.fin n m e)) (roundInt rm u n m e).1 ∧
      ((roundInt rm u n m e).2 = true ↔ ((roundInt rm u n m e).1 : ℚ) ≠ vq (.fin n m e)) := by
  have hexact {k : Int} (hv : vq (.fin n m e) = k) (hk : roundInt rm u n m e = (k, false)) :
      RoundsInt rm u (vq (.fin n m e)) (roundInt rm u n m e).1 ∧
        ((roundInt rm u n m e).2 = true ↔ ((roundInt rm u n m e).1 : ℚ) ≠ vq (.fin n m e)) := by
    rw [hk, hv]
    exact ⟨roundsInt_of_eq rm u rfl, by simp⟩
  by_cases he : 0 ≤ e
  · refine hexact ?_ (roundInt_of_nonneg rm u n m he)
    rw [vq_fin_of_le n m he]
    simp
  obtain ⟨sh, hs, rfl⟩ : ∃ sh : Nat, 0 < sh ∧ e = -(sh : Int) := ⟨(-e).toNat, by omega, by omega⟩
  have hsplit := magnitude_split m sh
  by_cases hr : m % 2 ^ sh = 0
  · refine hexact ?_ (roundInt_of_dvd rm u n m hs hr)
    rw [hr, Nat.cast_zero, zero_div, add_zero] at hsplit
    rw [vq, mul_assoc, hsplit, cast_signedMag]
  · have hp : (0 : ℚ) < (2 : ℚ) ^ sh := by positivity
    have h0 : (0 : ℚ) < (m % 2 ^ sh : Nat) / (2 : ℚ) ^ sh := div_pos (Nat.cast_pos.2 (Nat.pos_of_ne_zero hr)) hp
    have h1 : ((m % 2 ^ sh : Nat) / (2 : ℚ) ^ sh : ℚ) < 1 := by
      rw [div_lt_one hp]
      exact_mod_cast Nat.mod_lt m (Nat.two_pow_pos sh)
    have hup := roundsUp_iff_goesUp rm n u m sh
    rw [roundInt_of_not_dvd rm u n m hs hr]
    have hne (k : Int) : (k : ℚ) ≠ vq (.fin n m (-(sh : Int))) := by
      have hk := magnitude_ne_int h0 h1 (lo := m / 2 ^ sh)
      rw [← hsplit] at hk
      intro h
      rw [vq] at h
      cases n with
      | false => exact hk k (by simpa using h.symm)
      | true => exact hk (-k) (by rw [Int.cast_neg, h]; simp)
    refine ⟨?_, by simpa using hne _⟩
    rw [vq_fin]
    cases n with
    | false =>
      have h := roundsInt_pos h0 h1 hup
      rw [← hsplit] at h
      simpa [signedMag] using h
    | true =>
      have h := roundsInt_neg h0 h1 hup
      rw [← hsplit] at h
      simpa [signedMag] using h

end Sys2Proof.Machine
end

section
/-!
PROOF. Comparison, class and conversion of floating-point elements: VFMIN, VFMAX, VFCMP, VFCLS, VCVT (R42, R49, R55, R129, R137 to
R139).
-/

namespace Sys2Proof.Machine

open Sys2Proof.Claims

/-! ## The order of values (R137) -/

theorem FV.cmp_fin_fin (na nb : Bool) (ma mb : Nat) (ea eb : Int) : FV.cmp (.fin na ma ea) (.fin nb mb eb) =
    if sumInt na ma ea (!nb) mb eb = 0 then .eq else if sumInt na ma ea (!nb) mb eb < 0 then .lt else .gt := by
  simp only [FV.cmp, addMag_eq, Int.natAbs_eq_zero, decide_eq_true_eq]

/-- The order of finite values is that of their exact values. -/
theorem FV.cmp_fin_fin_iff (na nb : Bool) (ma mb : Nat) (ea eb : Int) :
    (FV.cmp (.fin na ma ea) (.fin nb mb eb) = .lt ↔ vq (.fin na ma ea) < vq (.fin nb mb eb)) ∧
      (FV.cmp (.fin na ma ea) (.fin nb mb eb) = .gt ↔ vq (.fin nb mb eb) < vq (.fin na ma ea)) := by
  have hz := vq_add_eq_zero na ma ea (!nb) mb eb
  have hn := vq_add_neg na ma ea (!nb) mb eb
  rw [vq_neg, ← sub_eq_add_neg] at hz hn
  rw [sub_eq_zero] at hz
  rw [sub_neg] at hn
  rw [FV.cmp_fin_fin]
  split
  next h => simp [hz.2 h]
  next h =>
    have hne := mt hz.1 h
    split
    next h' => simp [hn.2 h', (hn.2 h').le]
    next h' =>
      have hle := not_lt.1 (mt hn.1 h')
      simp [hle, lt_of_le_of_ne hle (Ne.symm hne)]

/-- An infinity lies beyond every finite value. -/
theorem FV.cmp_inf_fin (i n : Bool) (m : Nat) (e : Int) : FV.cmp (.inf i) (.fin n m e) = (if i = true then .lt else .gt) ∧
    FV.cmp (.fin n m e) (.inf i) = if i = true then .gt else .lt := by
  by_cases hm : m = 0
  · cases i <;> simp [FV.cmp, hm] <;> decide
  · cases i <;> cases n <;> simp [FV.cmp, hm] <;> decide

theorem FV.cmp_iff_below {a b : FV} (ha : a.isNan = false) (hb : b.isNan = false) :
    (a.cmp b = .lt ↔ Below a b) ∧ (a.cmp b = .gt ↔ Below b a) := by
  cases a with
  | nan _ => cases ha
  | inf i =>
    cases b with
    | nan _ => cases hb
    | inf j => cases i <;> cases j <;> simp [Below] <;> decide
    | fin n m e => rw [(FV.cmp_inf_fin i n m e).1]; cases i <;> simp [Below]
  | fin n m e =>
    cases b with
    | nan _ => cases hb
    | inf j => rw [(FV.cmp_inf_fin j n m e).2]; cases j <;> simp [Below]
    | fin k l d => exact FV.cmp_fin_fin_iff n k m l e d

/-- The tests of VFCMP are those of R137. -/
theorem fcmpV_iff (cc : FCmp) (a b : FV) : fcmpV cc a b = true ↔ floatTest cc a b := by
  have hnan : (a.isNan || b.isNan) = true ↔ a.isNan = true ∨ b.isNan = true := by rw [Bool.or_eq_true]
  unfold fcmpV floatTest
  by_cases h : a.isNan = true ∨ b.isNan = true
  · rw [if_pos (hnan.2 h)]
    cases cc <;> simp [h]
  · rw [if_neg (mt hnan.1 h)]
    cases cc <;> simp [h]

/-! ## VFMIN and VFMAX (R137) -/

theorem FV.isSig_eq_false {v : FV} (h : v.isNan = false) : v.isSig = false := by
  cases v with
  | nan _ => cases h
  | _ => rfl

section

variable {f : FFmt} {x y : Nat}

/-- The operand that is copied: the order of the values decides, and the sign bit where they are equal. -/
theorem minmax_of_not_nan (hx : (f.decode x).isNan = false) (hy : (f.decode y).isNan = false) (top less : Bool)
    (h : (f.decode x).cmp (f.decode y) = .lt ∧ less = true ∨ (f.decode x).cmp (f.decode y) = .gt ∧ less = false ∨
      (f.decode x).cmp (f.decode y) = .eq ∧ less = decide (x / 2 ^ (f.width - 1) % 2 = 1)) :
    f.minmax top x y = (if xor less top = true then x else y, 0) := by
  unfold FFmt.minmax
  simp only [hx, hy, FV.isSig_eq_false hx, FV.isSig_eq_false hy, Bool.and_self, Bool.or_self, Bool.false_eq_true, if_false, flagIf]
  rcases h with ⟨h, rfl⟩ | ⟨h, rfl⟩ | ⟨h, rfl⟩ <;> rw [h]

theorem minmax_nan_left (hx : (f.decode x).isNan = true) (hy : (f.decode y).isNan = false) (top : Bool) :
    f.minmax top x y = (y, nvIf ((f.decode x).isSig = true)) ∧ f.minmax top y x = (y, nvIf ((f.decode x).isSig = true)) := by
  simp [FFmt.minmax, hx, hy, FV.isSig_eq_false hy, flagIf_fNv]

theorem minmax_nan_nan (hx : (f.decode x).isNan = true) (hy : (f.decode y).isNan = true) (top : Bool) :
    f.minmax top x y = (f.nan, nvIf ((f.decode x).isSig = true ∨ (f.decode y).isSig = true)) := by
  simp [FFmt.minmax, hx, hy, flagIf_fNv]

end

/-! ## The fields of an encoding (R42, R138) -/

/-- Sign, exponent and fraction of an encoding. -/
abbrev FFmt.negF (f : FFmt) (x : Nat) : Prop := x / 2 ^ (f.width - 1) % 2 = 1
def FFmt.exF (f : FFmt) (x : Nat) : Nat := x / 2 ^ (f.p - 1) % 2 ^ f.eb
def FFmt.frF (f : FFmt) (x : Nat) : Nat := x % 2 ^ (f.p - 1)

section

variable (f : FFmt) (x : Nat)

theorem decode_eq : f.decode x =
    if f.exF x = 2 ^ f.eb - 1 then
      (if f.frF x = 0 then .inf (decide (f.negF x)) else .nan (decide (f.frF x < 2 ^ (f.p - 2))))
    else if f.exF x = 0 then .fin (decide (f.negF x)) (f.frF x) (f.emin - (f.p - 1 : Nat))
    else .fin (decide (f.negF x)) (f.frF x + 2 ^ (f.p - 1)) ((f.exF x : Int) - f.bias - (f.p - 1 : Nat)) := rfl

theorem decode_top (h : f.exF x = 2 ^ f.eb - 1) :
    f.decode x = if f.frF x = 0 then .inf (decide (f.negF x)) else .nan (decide (f.frF x < 2 ^ (f.p - 2))) := by rw [decode_eq, if_pos h]

theorem decode_denormal (h : f.exF x ≠ 2 ^ f.eb - 1) (h0 : f.exF x = 0) :
    f.decode x = .fin (decide (f.negF x)) (f.frF x) (f.emin - (f.p - 1 : Nat)) := by rw [decode_eq, if_neg h, if_pos h0]

theorem decode_normal (h : f.exF x ≠ 2 ^ f.eb - 1) (h0 : f.exF x ≠ 0) :
    f.decode x = .fin (decide (f.negF x)) (f.frF x + 2 ^ (f.p - 1)) ((f.exF x : Int) - f.bias - (f.p - 1 : Nat)) := by
  rw [decode_eq, if_neg h, if_neg h0]

/-- The class by the fields. -/
theorem classOf_eq : f.classOf x =
    if f.exF x = 2 ^ f.eb - 1 then
      (if f.frF x = 0 then (if f.negF x then 0 else 7) else if f.frF x < 2 ^ (f.p - 2) then 8 else 9)
    else if f.exF x = 0 then (if f.frF x = 0 then (if f.negF x then 3 else 4) else if f.negF x then 2 else 5)
    else if f.negF x then 1 else 6 := by
  have hlt : f.frF x < 2 ^ (f.p - 1) := Nat.mod_lt _ (Nat.two_pow_pos _)
  unfold FFmt.classOf
  by_cases h : f.exF x = 2 ^ f.eb - 1
  · rw [if_pos h, decode_top f x h]
    by_cases hfr : f.frF x = 0 <;> simp [hfr]
  · rw [if_neg h]
    by_cases h0 : f.exF x = 0
    · simp [decode_denormal f x h h0, h0, hlt]
    · simp [decode_normal f x h h0, h0]

/-- The exact value of a finite encoding by its fields. -/
theorem vq_decode (h : f.exF x < 2 ^ f.eb - 1) : vq (f.decode x) =
    (if f.negF x then -1 else 1) * (2 : ℚ) ^ ((max (f.exF x) 1 : Nat) - (f.bias : Int)) *
      ((if f.exF x = 0 then 0 else 1) + (f.frF x : ℚ) / 2 ^ (f.p - 1)) := by
  have hz (e : Int) : (2 : ℚ) ^ (e - (f.p - 1 : Nat)) = (2 : ℚ) ^ e / 2 ^ (f.p - 1) := by
    rw [zpow_sub₀ two_ne_zero, zpow_natCast]
  by_cases h0 : f.exF x = 0
  · rw [decode_denormal f x h.ne h0, vq, hz, FFmt.emin, h0]
    simp only [decide_eq_true_eq, if_true, zero_add, Nat.zero_max, Nat.cast_one]
    ring
  · rw [decode_normal f x h.ne h0, vq, hz, if_neg h0, Nat.max_eq_left (Nat.pos_of_ne_zero h0)]
    simp only [decide_eq_true_eq]
    push_cast
    field_simp
    ring

end

/-- A part of O18: the order of values, the copied operand, the class and the exact value of an encoding. -/
theorem compareClassRows : CompareClassRows := by
  intro t x y cc _ f a b neg ex fr
  refine ⟨fun ha hb => ?_, fun ha hb m => minmax_nan_left ha hb m, fun ha hb m => minmax_nan_nan ha hb m, classOf_eq f x,
    vq_decode f x⟩
  obtain ⟨hlt, hgt⟩ := FV.cmp_iff_below ha hb
  refine ⟨hlt, hgt, fcmpV_iff cc a b, fun h => ?_, fun h => ?_, fun h h' => ?_⟩
  · exact ⟨minmax_of_not_nan ha hb false true (.inl ⟨hlt.2 h, rfl⟩), minmax_of_not_nan ha hb true true (.inl ⟨hlt.2 h, rfl⟩)⟩
  · exact ⟨minmax_of_not_nan ha hb false false (.inr (.inl ⟨hgt.2 h, rfl⟩)),
      minmax_of_not_nan ha hb true false (.inr (.inl ⟨hgt.2 h, rfl⟩))⟩
  · have heq : a.cmp b = .eq := by
      cases hc : a.cmp b with
      | lt => exact absurd (hlt.1 hc) h
      | gt => exact absurd (hgt.1 hc) h'
      | eq => rfl
    rw [minmax_of_not_nan ha hb false _ (.inr (.inr ⟨heq, rfl⟩)), minmax_of_not_nan ha hb true _ (.inr (.inr ⟨heq, rfl⟩))]
    simp only [Bool.xor_false, Bool.xor_true, Bool.not_eq_true', decide_eq_true_eq, decide_eq_false_iff_not, ite_not]
    exact ⟨rfl, rfl⟩

/-! ## The instructions -/

theorem vwGives_laid_of_mapV {i : Instr} {s : State} {g code : Nat} {t : ETy} {d lat : Nat} {f : State → Nat → Nat × Flags}
    (h : exec i s = s.mapV g t d lat code f) : VwGives i s g t.width code
      (Laid (s.me.guardW g) t.width t.count d lat (fun e => (f s e).1) (fun e => (f s e).2)) :=
  vwGives_of_give (r := mapRes (s.me.guardW g) t d lat (f s)) h (ETy.count_pos t) rfl (laid_mapRes ..)

theorem vwGives_of_fltPick {i : Instr} {s : State} {o : V3} (top : Bool) (h : exec i s = fltPick top o s) :
    VwGives i s o.g o.t.width 3 (Laid (s.me.guardW o.g) o.t.width o.t.count o.d 4
      (fun e => ((ffmtOf o.t).minmax top (rawE (s.me.vreg o.a) o.t e) (rawE (s.me.vreg o.b) o.t e)).1)
      (fun e => ((ffmtOf o.t).minmax top (rawE (s.me.vreg o.a) o.t e) (rawE (s.me.vreg o.b) o.t e)).2)) :=
  vwGives_laid_of_mapV h

/-- Some active element is a signalling NaN. -/
def someSig (s : State) (o : V3) : Bool := (List.range o.t.count).any (fun e => activeE (s.me.guardW o.g) o.t.width e &&
  ((fElem (s.me.vreg o.a) o.t e).isSig || (fElem (s.me.vreg o.b) o.t e).isSig))

theorem someSig_iff (s : State) (o : V3) : someSig s o = true ↔ ∃ e, e < o.t.count ∧ Active (s.me.guardW o.g) o.t.width e ∧
    (((ffmtOf o.t).decode (rawE (s.me.vreg o.a) o.t e)).isSig = true ∨
      ((ffmtOf o.t).decode (rawE (s.me.vreg o.b) o.t e)).isSig = true) := by
  simp only [someSig, List.any_eq_true, List.mem_range, Bool.and_eq_true, Bool.or_eq_true]
  rfl

/-- A part of O18: VFMIN, VFMAX, VFCMP and VFCLS. -/
theorem floatCompareClassResult : FloatCompareClassResult := by
  intro o u cc s
  refine ⟨vwGives_of_fltPick false (exec_vfmin o s), vwGives_of_fltPick true (exec_vfmax o s),
    vwGives_of_give (exec_vfcmp o cc s) (ETy.count_pos o.t) (State.pushP_eq_give ..)
      ⟨flagIf (someSig s o) fNv, ?_, groups_groupBits _ _ _ _ _ fun e => fcmpV_iff ..⟩, vwGives_laid_of_mapV (exec_vfcls u s)⟩
  dsimp only
  rw [← someSig_iff]
  cases someSig s o
  · exact .inr ⟨rfl, Bool.false_ne_true⟩
  · exact .inl ⟨rfl, rfl⟩

/-- A part of O18: VCVT. -/
theorem floatConvertResult : FloatConvertResult := by
  intro o u hi s ns nd m h src
  refine ⟨_, fun k hk => ?_, floatVec_of_roundV (fun ha => exec_of_vw (exec_vcvt o u hi s) (ETy.count_pos u) ha)
    (nullified_of_vw (exec_vcvt o u hi s) (ETy.count_pos u))⟩
  rw [groupBits_bit _ _ (ETy.width_pos u) _ _ hk, ETy.count_mul_width, decide_eq_true hk, Bool.true_and]
  simp only [Bool.and_eq_true, Bool.or_eq_true, decide_eq_true_eq]
  rfl

/-! ## Conversions (R139) -/

/-- A finite value converted to an integer type (R139). -/
theorem toInt_fin (f : FFmt) (t : ETy) (rm u : Nat) {x : Nat} {n : Bool} {m : Nat} {e : Int} (h : f.decode x = .fin n m e) :
    let v := (roundInt rm u n m e).1
    let r := f.toInt t rm u x
    r.bits = modE t.width (clampE (loOf t) (hiOf t) v) ∧ r.inexact = (roundInt rm u n m e).2 ∧
      r.flags = if v < loOf t ∨ hiOf t < v then 0x10#6 else if r.inexact = true then 0x01#6 else 0 := by
  simp only [FFmt.toInt, h, tyLo_eq_loOf, tyHi_eq_hiOf, wrapN_eq_modE, clampE]
  split
  next hl => simp [hl, fNv]
  next hl =>
    split
    next hh => simp [hh, fNv]
    next hh => simp [hl, hh, flagIf, fNx]

theorem ETy.isFloat_of_isInt {t : ETy} (h : t.isInt = true) : t.isFloat = false := by
  revert h
  cases t <;> decide

/-- Float to integer: 0 for a NaN and the nearer bound for an infinity, both invalid (R139). -/
theorem toInt_nan (f : FFmt) (t : ETy) (rm u : Nat) {x : Nat} {sig : Bool} (h : f.decode x = .nan sig) :
    Exactly (f.toInt t rm u x) 0 0x10#6 := by
  rw [FFmt.toInt, h]
  exact ⟨rfl, rfl, rfl⟩

theorem toInt_inf (f : FFmt) (t : ETy) (rm u : Nat) {x : Nat} {n : Bool} (h : f.decode x = .inf n) :
    Exactly (f.toInt t rm u x) (modE t.width (if n = true then loOf t else hiOf t)) 0x10#6 := by
  rw [FFmt.toInt, h, ← tyLo_eq_loOf, ← tyHi_eq_hiOf, ← wrapN_eq_modE]
  exact ⟨rfl, rfl, rfl⟩

/-- Integer to float: the one rounding of the integer (R139). -/
theorem ofInt_roundingOf (f : FFmt) (rm u : Nat) (v : Int) : RoundingOf f rm u (decide (v < 0)) (v : ℚ) (f.ofInt rm u v) :=
  ⟨v.natAbs, 0, by rw [zpow_zero, mul_one, Nat.cast_natAbs, Int.cast_abs], rfl⟩

/-- A part of O18: conversions are roundings of exact values. -/
theorem conversionRows : ConversionRows := by
  intro t u rm d x n m e f g r
  have hr : r = if t.isFloat = true then (if u.isFloat = true then f.convert g rm d x else f.toInt u rm d x)
    else g.ofInt rm d (tyRead t x) := rfl
  refine ⟨fun ht hu => ?_, fun ht hu => ?_, fun ht hu => ?_⟩
  · rw [hr, if_pos ht, if_pos hu, FFmt.convert]
    refine ⟨fun sig h => ?_, fun h => ?_, fun h => ?_⟩ <;> rw [h]
    · exact exactly_nanRes g rfl
    · exact exactly_infRes g n rfl
  · rw [if_pos ht, if_neg (by simp [ETy.isFloat_of_isInt hu])] at hr
    rw [hr]
    refine ⟨fun sig h => toInt_nan f u rm d h, fun h => toInt_inf f u rm d h, fun h => ?_⟩
    obtain ⟨hb, hi, hf⟩ := toInt_fin f u rm d h
    obtain ⟨hv, hx⟩ := roundInt_spec rm d n m e
    exact ⟨_, hv, hb, hi ▸ hx, hf⟩
  · rw [hr, if_neg (by simp [ETy.isFloat_of_isInt ht])]
    exact ofInt_roundingOf g rm d _

/-- Settles O18, from its four parts. -/
theorem floatCompareConvert : Obligations.FloatCompareConvert :=
  ⟨floatCompareClassResult, floatConvertResult, compareClassRows, conversionRows⟩

end Sys2Proof.Machine
end

section
/-!
PROOF. VRED (R129, R145).
-/

namespace Sys2Proof.Machine

open Sys2Proof.Claims

/-! ## One node of the tree -/

section

variable {α σ : Type} (f : Nat → α → α → σ → α × σ)

/-- Node `i` of a level: two present elements are combined, an absent one passes the other through. -/
def redNode (i : Nat) (x y : Option α) (st : σ) : Option α × σ :=
  match x, y with
  | some a, some b => (some (f i a b st).1, (f i a b st).2)
  | some a, none => (some a, st)
  | none, y => (y, st)

theorem redLevel_cons_cons (i : Nat) (x y : Option α) (r : List (Option α)) (st : σ) : redLevel f i (x :: y :: r) st =
    ((redNode f i x y st).1 :: (redLevel f (i + 1) r (redNode f i x y st).2).1, (redLevel f (i + 1) r (redNode f i x y st).2).2) := by
  cases x with
  | none => rfl
  | some a => cases y <;> rfl

theorem redLevel_singleton (i : Nat) (x : Option α) (st : σ) : redLevel f i [x] st = ([x], st) := by cases x <;> rfl

theorem redTree_singleton (n : Nat) (x : Option α) (st : σ) : redTree f n [x] st = (x, st) := by
  induction n with
  | zero => rfl
  | succ n ih =>
    rw [redTree, redLevel_singleton]
    exact ih

/-- Two elements at a time. -/
theorem pairs_induction {P : List α → Prop} (nil : P []) (one : ∀ x, P [x]) (two : ∀ x y r, P r → P (x :: y :: r)) :
    ∀ xs, P xs
  | [] => nil
  | [x] => one x
  | x :: y :: r => two x y r (pairs_induction nil one two r)

variable {P : σ → Prop} (hf : ∀ i a b st, P st → P (f i a b st).2)

include hf

theorem redNode_keeps (i : Nat) (x y : Option α) {st : σ} (h : P st) : P (redNode f i x y st).2 := by
  cases x with
  | none => exact h
  | some a => cases y with
    | none => exact h
    | some b => exact hf i a b st h

/-- What every node keeps of the state, a level and the whole tree keep. -/
theorem redLevel_keeps (xs : List (Option α)) : ∀ (i : Nat) {st : σ}, P st → P (redLevel f i xs st).2 := by
  induction xs using pairs_induction with
  | nil => exact fun i st h => h
  | one x => exact fun i st h => by rwa [redLevel_singleton]
  | two x y r ih =>
    intro i st h
    rw [redLevel_cons_cons]
    exact ih (i + 1) (redNode_keeps f hf i x y h)

theorem redTree_keeps (n : Nat) (xs : List (Option α)) {st : σ} (h : P st) : P (redTree f n xs st).2 := by
  induction n generalizing xs st with
  | zero => exact h
  | succ n ih => exact ih _ (redLevel_keeps f hf xs 0 h)

end

/-! ## The tree of fixed order (R145) -/

section

variable {α σ : Type}

/-- States in a row, the first one given apart. -/
def stateCons (a : σ) (st : Nat → σ) : Nat → σ
  | 0 => a
  | i + 1 => st i

theorem levelOf_redLevel (f : Nat → α → α → σ → α × σ) (n k : Nat) (xs : List (Option α)) (a : σ) (h : xs.length = 2 * n) :
    LevelOf (fun i => f (k + i)) xs (redLevel f k xs a).1 a (redLevel f k xs a).2 := by
  induction n generalizing k xs a with
  | zero =>
    obtain rfl := List.length_eq_zero_iff.1 h
    exact ⟨rfl, fun _ => a, rfl, rfl, fun i hi => absurd hi (Nat.not_lt_zero i)⟩
  | succ n ih =>
    match xs, h with
    | x :: y :: r, h =>
      obtain ⟨hlen, st, h0, hend, hnode⟩ := ih (k + 1) r (redNode f k x y a).2 (by simpa [Nat.mul_succ] using h)
      rw [redLevel_cons_cons]
      refine ⟨by simp [← hlen, Nat.mul_succ], stateCons a st, rfl, hend, fun i hi => ?_⟩
      cases i with
      | zero => cases x <;> cases y <;> exact ⟨rfl, h0⟩
      | succ i =>
        have h := hnode i (by simpa using hi)
        simp only [show k + 1 + i = k + (i + 1) by omega] at h
        exact h

theorem treeOf_redTree (f : Nat → α → α → σ → α × σ) {n m : Nat} (xs : List (Option α)) (a : σ) (h : xs.length = 2 ^ n)
    (hm : n ≤ m) : TreeOf f n xs a (redTree f m xs a).1 (redTree f m xs a).2 := by
  induction n generalizing m xs a with
  | zero =>
    obtain ⟨x, rfl⟩ := List.length_eq_one_iff.1 h
    rw [redTree_singleton]
    exact ⟨rfl, rfl⟩
  | succ n ih =>
    obtain ⟨m, rfl⟩ := Nat.exists_eq_add_of_le' (Nat.one_le_of_lt hm)
    have hlevel := levelOf_redLevel f (2 ^ n) 0 xs a (by rw [h, Nat.pow_succ, Nat.mul_comm])
    simp only [Nat.zero_add] at hlevel
    have hlen := hlevel.1
    exact ⟨_, _, hlevel, ih _ _ (by rw [h, Nat.pow_succ] at hlen; omega) (by omega)⟩

end

/-! ## Nodes of the float tree (R50, R145) -/

theorem redFlt_minmax (rm hw i x y : Nat) (fl : Flags) (c : Ctx) (top : Bool) :
    redFlt (if top = true then .max else .min) rm hw i x y (fl, c) =
      ((f32.minmax top x y).1, (fl ||| (f32.minmax top x y).2, c)) := by cases top <;> rfl

/-- A node of the sum rounds with the generator of its lane. -/
theorem redFlt_add (rm hw i x y : Nat) (fl : Flags) (c : Ctx) :
    let u := if rm = 4 then (lfsrAdvance (c.lfsr hw (i % 128))).toNat / 256 else 0
    let v := f32.addV rm u (f32.decode x) (f32.decode y)
    let r := redFlt .add rm hw i x y (fl, c)
    r.1 = v.bits ∧ r.2.1 = fl ||| v.flags ∧
      ∀ l, r.2.2.lfsr hw l = if rm = 4 ∧ l = i % 128 ∧ v.inexact = true then lfsrAdvance (c.lfsr hw l) else c.lfsr hw l := by
  have h := srLane_fst rm hw c (i % 128) (fun u => f32.addV rm u (f32.decode x) (f32.decode y))
  have hl := srLane_lfsr rm hw c (i % 128) (fun u => f32.addV rm u (f32.decode x) (f32.decode y))
  rw [h] at hl
  exact ⟨congrArg FRes.bits h, congrArg (fun r => fl ||| FRes.flags r) h, hl⟩

theorem redFlt_lfsrOnly (op : RedOp) (rm hw : Nat) {c : Ctx} (i x y : Nat) (st : Flags × Ctx) (h : LfsrOnly c st.2) :
    LfsrOnly c (redFlt op rm hw i x y st).2.2 := by
  cases op with
  | min => exact h
  | max => exact h
  | _ => exact h.trans (srLane_lfsrOnly rm hw st.2 (i % 128) (fun u => f32.addV rm u (f32.decode x) (f32.decode y)))

/-- A part of O21: the tree, level by level, and its nodes. -/
theorem reductionTree : ReductionTree :=
  ⟨fun _ _ xs _ h hm => treeOf_redTree _ xs () h hm, fun _ _ _ _ _ xs fl c h hm => treeOf_redTree _ xs (fl, c) h hm,
    fun rm hw i x y fl c => ⟨redFlt_minmax rm hw i x y fl c, redFlt_add rm hw i x y fl c⟩⟩

/-! ## Float reductions (R145) -/

/-- The active elements widened to FP32. -/
def widenedElems (o : V2) (s : State) : List (Option FRes) := (List.range o.t.count).map (fun e =>
  if (s.me.guardW o.g).getLsbD (e * o.t.width) = true then
    some (FFmt.convert (ffmtOf o.t) f32 0 0 (rawE (s.me.vreg o.a) o.t e)) else none)

/-- The flags of the widened elements. -/
def widenedFlags (xs : List (Option FRes)) : Flags := (xs.filterMap (fun r => r)).foldl (fun a r => a ||| r.flags) 0

/-- The whole tree over them; irreducible, since its nine levels are never to be evaluated symbolically. -/
@[irreducible] def fltTree (o : V2) (op : RedOp) (s : State) : Option Nat × (Flags × Ctx) :=
  redTree (redFlt op s.me.rm s.cur.hw) 9 ((widenedElems o s).map (fun r => r.map (fun r => r.bits)))
    (widenedFlags (widenedElems o s), s.me)

theorem fltTree_eq (o : V2) (op : RedOp) (s : State) : fltTree o op s =
    redTree (redFlt op s.me.rm s.cur.hw) 9 ((widenedElems o s).map (fun r => r.map (fun r => r.bits)))
      (widenedFlags (widenedElems o s), s.me) := by
  rw [fltTree]

theorem foldl_flags_eq {g : Flags → Option (Nat × Flags) → Flags} (hs : ∀ a p, g a (some p) = a ||| p.2) (hn : ∀ a, g a none = a)
    (xs : List (Option FRes)) (a : Flags) : (xs.map (fun r => r.map (fun r => (r.bits, r.flags)))).foldl g a =
      (xs.filterMap (fun r => r)).foldl (fun a r => a ||| r.flags) a := by
  induction xs generalizing a with
  | nil => rfl
  | cons x xs ih =>
    rw [List.map_cons, List.foldl_cons]
    cases x with
    | none => rw [Option.map_none, hn]; exact ih a
    | some r => rw [Option.map_some, hs]; exact ih _

theorem exec_vred_float (o : V2) (op : RedOp) (s : State) (ht : o.t.isFloat = true) : exec (.vred o op) s =
    s.vw o.g o.t.width 3 (fun s => (s.setCtx s.cur.hw (fltTree o op s).2.2).give
      (vRes o.d 0xF#512 (BitVec.ofNat 4096 ((fltTree o op s).1.getD 0)) (fltTree o op s).2.1 6)) := by
  have hx (s : State) : (List.range o.t.count).map (fun e => if activeE (s.me.guardW o.g) o.t.width e = true then
      some (widenF o.t (elem (s.me.vreg o.a).toNat o.t.width e)) else none) =
      (widenedElems o s).map (fun r => r.map (fun r => (r.bits, r.flags))) := by
    rw [widenedElems, List.map_map]
    refine List.map_congr_left fun e _ => ?_
    simp only [Function.comp, apply_ite (Option.map _), activeE]
    rfl
  have hb (s : State) : ((widenedElems o s).map (fun r => r.map (fun r => (r.bits, r.flags)))).map (fun x => x.map (fun p => p.1)) =
      (widenedElems o s).map (fun r => r.map (fun r => r.bits)) := by
    rw [List.map_map]
    refine List.map_congr_left fun r _ => ?_
    cases r <;> rfl
  rw [exec_vred, execVred]
  refine congrArg (s.vw o.g o.t.width 3) (funext fun s => ?_)
  simp only [if_pos ht, hx, hb]
  rw [foldl_flags_eq (fun _ _ => rfl) (fun _ => rfl), State.pushV_eq_give, fltTree_eq, widenedFlags]

theorem fltTree_lfsrOnly (o : V2) (op : RedOp) (s : State) : LfsrOnly s.me (fltTree o op s).2.2 := by
  rw [fltTree_eq]
  refine redTree_keeps (P := fun st : Flags × Ctx => LfsrOnly s.me st.2) (redFlt op s.me.rm s.cur.hw) (fun i a b st h => ?_) 9 _ ?_
  · exact redFlt_lfsrOnly op _ _ i a b st h
  · exact .refl s.me

/-- A part of O21: the float reductions. -/
theorem floatReductionResult : FloatReductionResult := by
  intro o op s ht w m x fl r
  have hr : r = fltTree o op s := (fltTree_eq o op s).symm
  clear_value r
  subst hr
  have hex := exec_vred_float o op s ht
  refine ⟨fun ha => ⟨_, exec_of_vw hex (ETy.count_pos o.t) ha, ?_⟩, nullified_of_vw hex (ETy.count_pos o.t)⟩
  exact (addsPend_give s (fltTree_lfsrOnly o op s) _).charge 3

/-! ## Integer reductions (R145) -/

/-- What a reduction of the given elements is, by its meaning. -/
def Reduces (op : RedOp) (t : ETy) (l : List Nat) (r : Nat) : Prop :=
  r < 2 ^ (8 * t.width) ∧
  match op with
  | .add => r = l.sum % 2 ^ (8 * t.width)
  | .min => r ∈ l ∧ ∀ x ∈ l, tyRead t r ≤ tyRead t x
  | .max => r ∈ l ∧ ∀ x ∈ l, tyRead t x ≤ tyRead t r
  | .and => ∀ k, Nat.testBit r k = true ↔ ∀ x ∈ l, Nat.testBit x k = true
  | .or => ∀ k, Nat.testBit r k = true ↔ ∃ x ∈ l, Nat.testBit x k = true
  | .xor => ∀ k, Nat.testBit r k = true ↔ (l.filter (fun x => Nat.testBit x k)).length % 2 = 1

theorem reduces_singleton (op : RedOp) {t : ETy} {x : Nat} (h : x < 2 ^ (8 * t.width)) : Reduces op t [x] x := by
  refine ⟨h, ?_⟩
  cases op with
  | add => simp [Nat.mod_eq_of_lt h]
  | xor =>
    intro k
    cases hk : x.testBit k <;> simp [hk]
  | _ => simp

/-- Two reductions combined reduce both lists. -/
theorem reduces_append {op : RedOp} {t : ETy} {l l' : List Nat} {x y : Nat} (hx : Reduces op t l x) (hy : Reduces op t l' y) :
    Reduces op t (l ++ l') (redInt op t x y) := by
  obtain ⟨hlx, hx⟩ := hx
  obtain ⟨hly, hy⟩ := hy
  cases op with
  | add =>
    refine ⟨Nat.mod_lt _ (Nat.two_pow_pos _), ?_⟩
    show (x + y) % _ = _
    rw [hx, hy, List.sum_append, ← Nat.add_mod]
  | min =>
    obtain ⟨hmx, hx⟩ := hx
    obtain ⟨hmy, hy⟩ := hy
    simp only [redInt]
    split
    next h => exact ⟨hlx, List.mem_append_left _ hmx, fun z hz => (List.mem_append.1 hz).elim (hx z) fun hz => h.trans (hy z hz)⟩
    next h =>
      exact ⟨hly, List.mem_append_right _ hmy, fun z hz =>
        (List.mem_append.1 hz).elim (fun hz => (not_le.1 h).le.trans (hx z hz)) (hy z)⟩
  | max =>
    obtain ⟨hmx, hx⟩ := hx
    obtain ⟨hmy, hy⟩ := hy
    simp only [redInt]
    split
    next h =>
      exact ⟨hly, List.mem_append_right _ hmy, fun z hz => (List.mem_append.1 hz).elim (fun hz => (hx z hz).trans h.le) (hy z)⟩
    next h =>
      exact ⟨hlx, List.mem_append_left _ hmx, fun z hz =>
        (List.mem_append.1 hz).elim (hx z) fun hz => (hy z hz).trans (not_lt.1 h)⟩
  | and =>
    refine ⟨Nat.and_lt_two_pow _ hly, fun k => ?_⟩
    simp only [redInt, Nat.testBit_and, Bool.and_eq_true, hx k, hy k, List.mem_append, or_imp, forall_and]
  | or =>
    refine ⟨Nat.or_lt_two_pow hlx hly, fun k => ?_⟩
    simp only [redInt, Nat.testBit_or, Bool.or_eq_true, hx k, hy k, List.mem_append, or_and_right, exists_or]
  | xor =>
    refine ⟨Nat.xor_lt_two_pow hlx hly, fun k => ?_⟩
    simp only [redInt, Nat.testBit_xor, List.filter_append, List.length_append]
    rw [Bool.xor_iff_ne, ne_eq, Bool.eq_iff_iff, hx k, hy k]
    omega

/-- An element of a level: none where no leaf below it is present, else the reduction of those leaves. -/
inductive NodeOf (op : RedOp) (t : ETy) : List Nat → Option Nat → Prop
  | absent : NodeOf op t [] none
  | present {l : List Nat} {x : Nat} : l ≠ [] → Reduces op t l x → NodeOf op t l (some x)

theorem NodeOf.reduces {op : RedOp} {t : ETy} {l : List Nat} {x : Option Nat} (h : NodeOf op t l x) (hl : l ≠ []) :
    ∃ r, x = some r ∧ Reduces op t l r := by
  cases h with
  | absent => exact absurd rfl hl
  | present _ h => exact ⟨_, rfl, h⟩

/-- The node function of the integer tree. -/
def redIntNode (op : RedOp) (t : ETy) (_ : Nat) (x y : Nat) (_ : Unit) : Nat × Unit := (redInt op t x y, ())

section

variable {op : RedOp} {t : ETy}

theorem nodeOf_redNode {i : Nat} {l l' : List Nat} {x y : Option Nat} {st : Unit} (hx : NodeOf op t l x) (hy : NodeOf op t l' y) :
    NodeOf op t (l ++ l') (redNode (redIntNode op t) i x y st).1 := by
  cases hx with
  | absent => exact hy
  | present hl ha =>
    cases hy with
    | absent => rw [List.append_nil]; exact .present hl ha
    | present _ hb => exact .present (List.append_ne_nil_of_left_ne_nil hl _) (reduces_append ha hb)

/-- A level joins the leaves of neighbours, in order. -/
theorem nodesOf_redLevel (xs : List (Option Nat)) : ∀ (i : Nat) (ls : List (List Nat)) (st : Unit),
    List.Forall₂ (NodeOf op t) ls xs → ∃ ls', List.Forall₂ (NodeOf op t) ls' (redLevel (redIntNode op t) i xs st).1 ∧
      ls'.flatten = ls.flatten ∧ ls'.length = (ls.length + 1) / 2 := by
  induction xs using pairs_induction with
  | nil =>
    rintro i ls st ⟨⟩
    exact ⟨[], .nil, rfl, rfl⟩
  | one x =>
    rintro i ls st (_ | ⟨hl, ⟨⟩⟩)
    rw [redLevel_singleton]
    exact ⟨_, .cons hl .nil, rfl, by simp⟩
  | two x y r ih =>
    rintro i ls st (_ | ⟨hl, _ | ⟨hl', h⟩⟩)
    rw [redLevel_cons_cons]
    obtain ⟨ls', h', hflat, hlen⟩ := ih (i + 1) _ (redNode (redIntNode op t) i x y st).2 h
    refine ⟨_, .cons (nodeOf_redNode hl hl') h', by simp [hflat], ?_⟩
    simp only [List.length_cons, hlen]
    omega

/-- A tree that is deep enough reduces all its leaves. -/
theorem nodeOf_redTree (n : Nat) {ls : List (List Nat)} {xs : List (Option Nat)} (h : List.Forall₂ (NodeOf op t) ls xs)
    (hn : ls.length ≤ 2 ^ n) : NodeOf op t ls.flatten (redTree (redIntNode op t) n xs ()).1 := by
  induction n generalizing ls xs with
  | zero =>
    cases h with
    | nil => exact .absent
    | cons hl h =>
      obtain rfl := List.length_eq_zero_iff.1 (Nat.le_zero.1 (Nat.le_of_succ_le_succ hn))
      rw [List.flatten_cons, List.flatten_nil, List.append_nil]
      exact hl
  | succ n ih =>
    obtain ⟨ls', h', hflat, hlen⟩ := nodesOf_redLevel xs 0 ls () h
    rw [← hflat]
    exact ih h' (by rw [hlen]; rw [Nat.pow_succ] at hn; omega)

end

/-- The leaves below the elements of a register: an element that is not active has none. -/
theorem nodesOf_elems (op : RedOp) (o : V2) (s : State) : List.Forall₂ (NodeOf op o.t)
    ((List.range o.t.count).map (fun e =>
      if activeE (s.me.guardW o.g) o.t.width e = true then [rawE (s.me.vreg o.a) o.t e] else []))
    ((List.range o.t.count).map (fun e =>
      if activeE (s.me.guardW o.g) o.t.width e = true then some (rawE (s.me.vreg o.a) o.t e) else none)) := by
  rw [List.forall₂_map_left_iff, List.forall₂_map_right_iff]
  refine List.forall₂_same.2 fun e _ => ?_
  split
  · exact .present (List.cons_ne_nil _ _) (reduces_singleton op (rawE_lt ..))
  · exact .absent

theorem flatten_map_ite {α β : Type} (l : List α) (p : α → Bool) (g : α → β) :
    (l.map (fun e => if p e = true then [g e] else [])).flatten = (l.filter p).map g := by
  induction l with
  | nil => rfl
  | cons x l ih => rw [List.map_cons, List.flatten_cons, ih, List.filter_cons]; cases p x <;> rfl

/-- The active elements in order. -/
def activeElems (o : V2) (s : State) : List Nat :=
  (List.range o.t.count).filter (fun e => (s.me.guardW o.g).getLsbD (e * o.t.width))

/-- The integer tree over the active elements. -/
@[irreducible] def intTree (o : V2) (op : RedOp) (s : State) : Option Nat :=
  (redTree (redIntNode op o.t) 9 ((List.range o.t.count).map (fun e =>
    if activeE (s.me.guardW o.g) o.t.width e = true then some (rawE (s.me.vreg o.a) o.t e) else none)) ()).1

theorem intTree_eq (o : V2) (op : RedOp) (s : State) : intTree o op s =
    (redTree (redIntNode op o.t) 9 ((List.range o.t.count).map (fun e =>
      if activeE (s.me.guardW o.g) o.t.width e = true then some (rawE (s.me.vreg o.a) o.t e) else none)) ()).1 := by
  rw [intTree]

theorem nodeOf_intTree (o : V2) (op : RedOp) (s : State) :
    NodeOf op o.t ((activeElems o s).map (rawE (s.me.vreg o.a) o.t)) (intTree o op s) := by
  have hlen : o.t.count ≤ 2 ^ 9 := Nat.div_le_self 512 _
  have h := nodeOf_redTree 9 (nodesOf_elems op o s) (by simpa using hlen)
  rwa [flatten_map_ite, ← intTree_eq] at h

theorem exec_vred_int (o : V2) (op : RedOp) (s : State) (ht : o.t.isInt = true) : exec (.vred o op) s =
    s.vw o.g o.t.width 3 (fun s => s.give (vRes o.d (BitVec.ofNat 512 (2 ^ o.t.width - 1))
      (BitVec.ofNat 4096 ((intTree o op s).getD 0)) 0 6)) := by
  rw [exec_vred, execVred]
  refine congrArg (s.vw o.g o.t.width 3) (funext fun s => ?_)
  simp only [ETy.isFloat_of_isInt ht, Bool.false_eq_true, if_false]
  rw [intTree_eq, State.pushV_eq_give]
  rfl

theorem vwGives_of_active {i : Instr} {s : State} {g w code : Nat} {eff : State → State} {p : List Res → Prop} {r : Res}
    (h : exec i s = s.vw g w code eff) (hw : 0 < 512 / w) (he : eff s = s.give r) (hp : SomeActive (s.me.guardW g) w → p [r]) :
    VwGives i s g w code p :=
  ⟨fun ha => ⟨_, exec_of_vw h hw ha, [r], hp ha, he ▸ s.give_computes r code⟩, nullified_of_vw h hw⟩

/-- A part of O21: the integer reductions. -/
theorem integerReductionResult : IntegerReductionResult := by
  intro o op s ht w m x act
  refine vwGives_of_active (exec_vred_int o op s ht) (ETy.count_pos o.t) rfl fun ha => ?_
  obtain ⟨e, he, hact⟩ := ha
  have hne : (activeElems o s).map x ≠ [] :=
    List.ne_nil_of_mem (a := x e) (List.mem_map_of_mem (List.mem_filter.2 ⟨List.mem_range.2 he, hact⟩))
  obtain ⟨r, hr, hlt, hop⟩ := (nodeOf_intTree o op s).reduces hne
  rw [hr]
  refine ⟨r, hlt, rfl, ?_⟩
  cases op with
  | add => exact hop
  | min =>
    obtain ⟨e, he, hxe⟩ := List.mem_map.1 hop.1
    exact ⟨⟨e, he, hxe.symm⟩, fun e he => hop.2 _ (List.mem_map_of_mem he)⟩
  | max =>
    obtain ⟨e, he, hxe⟩ := List.mem_map.1 hop.1
    exact ⟨⟨e, he, hxe.symm⟩, fun e he => hop.2 _ (List.mem_map_of_mem he)⟩
  | and => exact fun k => (hop k).trans List.forall_mem_map
  | or => exact fun k => (hop k).trans (by simp only [List.mem_map, exists_exists_and_eq_and]; rfl)
  | xor =>
    intro k
    have h := hop k
    rwa [List.filter_map, List.length_map] at h

/-- Settles O21, from its three parts. -/
theorem reductionResult : Obligations.ReductionResult := ⟨integerReductionResult, floatReductionResult, reductionTree⟩

end Sys2Proof.Machine
end

section
/-!
SUPPORT. The quantisation of MX blocks: scales, elements and flags as `mxQuantise` gathers them (R45 to R50, R141).
-/

namespace Sys2Proof.Machine

open Sys2Proof.Claims

/-! ## The scale of a block (R48) -/

/-- A finite value. -/
def FV.Finite (x : FV) : Prop := ∃ n m e, x = .fin n m e

/-- The scale that one value asks for. -/
def scaleOf : FV → Nat
  | .fin _ m e => if m = 0 then 0 else min 254 (e + bitLen m + 126).toNat
  | _ => 0

/-- The fold of `mxScale` from a scale that is already reached. -/
def scaleStep (a : Option Nat) (x : FV) : Option Nat :=
  match a, x with
  | some s, .fin _ m e => if m = 0 then some s else some (max s (min 254 ((e + bitLen m + 126).toNat)))
  | _, _ => none

theorem mxScale_eq_foldl (xs : List FV) : mxScale xs = xs.foldl scaleStep (some 0) := rfl

theorem scaleStep_finite {x : FV} (h : x.Finite) (s : Nat) : scaleStep (some s) x = some (max s (scaleOf x)) := by
  obtain ⟨n, m, e, rfl⟩ := h
  simp only [scaleStep, scaleOf]
  split <;> simp

theorem foldl_scaleStep_none (xs : List FV) : xs.foldl scaleStep none = none := by
  induction xs with
  | nil => rfl
  | cons x xs ih => exact ih

theorem foldl_scaleStep_finite {xs : List FV} (h : ∀ x ∈ xs, x.Finite) (s : Nat) :
    xs.foldl scaleStep (some s) = some (xs.foldl (fun s x => max s (scaleOf x)) s) := by
  induction xs generalizing s with
  | nil => rfl
  | cons x xs ih =>
    obtain ⟨hx, hxs⟩ := List.forall_mem_cons.1 h
    rw [List.foldl_cons, scaleStep_finite hx, ih hxs, List.foldl_cons]

/-- A block with a NaN or an infinity has no scale of its own. -/
theorem mxScale_of_not_finite {xs : List FV} (h : ∃ x ∈ xs, ¬ x.Finite) : mxScale xs = none := by
  have hfold (s : Nat) : xs.foldl scaleStep (some s) = none := by
    induction xs generalizing s with
    | nil => obtain ⟨x, hx, -⟩ := h; cases hx
    | cons x xs ih =>
      by_cases hx : x.Finite
      · rw [List.foldl_cons, scaleStep_finite hx]
        refine ih ?_ _
        obtain ⟨y, hy, hnf⟩ := h
        obtain rfl | hy := List.mem_cons.1 hy
        · exact absurd hx hnf
        · exact ⟨y, hy, hnf⟩
      · have hnone : scaleStep (some s) x = none := by
          cases x with
          | fin n m e => exact absurd ⟨n, m, e, rfl⟩ hx
          | _ => rfl
        rw [List.foldl_cons, hnone, foldl_scaleStep_none]
  exact hfold 0

/-! ## The scale is that of the largest magnitude -/

theorem bitLen_bounds {m : Nat} (hm : m ≠ 0) : 0 < bitLen m ∧ 2 ^ (bitLen m - 1) ≤ m ∧ m < 2 ^ bitLen m := by
  rw [bitLen, if_neg hm, Nat.add_sub_cancel]
  exact ⟨Nat.succ_pos _, Nat.log2_self_le hm, Nat.lt_log2_self⟩

/-- A magnitude lies between two neighbouring powers of two. -/
theorem magnitude_bounds (n : Bool) {m : Nat} (hm : m ≠ 0) (e : Int) :
    (2 : ℚ) ^ (e + bitLen m - 1) ≤ |vq (.fin n m e)| ∧ |vq (.fin n m e)| < (2 : ℚ) ^ (e + bitLen m) := by
  obtain ⟨hpos, hlo, hhi⟩ := bitLen_bounds hm
  have hz (j : Nat) : (2 : ℚ) ^ (e + j) = ((2 ^ j : Nat) : ℚ) * (2 : ℚ) ^ e := by
    rw [zpow_add₀ two_ne_zero, zpow_natCast, mul_comm]
    push_cast
    rfl
  rw [abs_vq_fin, show e + bitLen m - 1 = e + (bitLen m - 1 : Nat) by omega, hz, hz]
  exact ⟨mul_le_mul_of_nonneg_right (by exact_mod_cast hlo) (two_zpow_pos e).le,
    mul_lt_mul_of_pos_right (by exact_mod_cast hhi) (two_zpow_pos e)⟩

theorem lt_of_zpow_two_lt {i j : Int} (h : (2 : ℚ) ^ i < (2 : ℚ) ^ j) : i < j := (zpow_lt_zpow_iff_right₀ one_lt_two).1 h

/-- The scale is that of the value's magnitude (R48). -/
theorem scaleIs_scaleOf {x : FV} (h : x.Finite) : ScaleIs |vq x| (scaleOf x) := by
  obtain ⟨n, m, e, rfl⟩ := h
  refine ⟨fun h0 => ?_, fun k hlo hhi => ?_⟩
  · simp [scaleOf, vq_fin_eq_zero.1 (abs_eq_zero.1 h0)]
  · have hm : m ≠ 0 := by
      rintro rfl
      rw [vq_fin_eq_zero.2 rfl, abs_zero] at hlo
      exact absurd hlo (not_le.2 (two_zpow_pos k))
    obtain ⟨hlo', hhi'⟩ := magnitude_bounds n hm e
    have h1 := lt_of_zpow_two_lt (hlo.trans_lt hhi')
    have h2 := lt_of_zpow_two_lt (hlo'.trans_lt hhi)
    rw [scaleOf, if_neg hm]
    omega

theorem scaleOf_mono {x y : FV} (hx : x.Finite) (hy : y.Finite) (h : |vq x| ≤ |vq y|) : scaleOf x ≤ scaleOf y := by
  obtain ⟨n, m, e, rfl⟩ := hx
  obtain ⟨k, l, d, rfl⟩ := hy
  simp only [scaleOf]
  by_cases hm : m = 0
  · rw [if_pos hm]
    exact Nat.zero_le _
  · have hl : l ≠ 0 := by
      rintro rfl
      rw [vq_fin_eq_zero.2 rfl, abs_zero] at h
      exact hm (vq_fin_eq_zero.1 (abs_eq_zero.1 (le_antisymm h (abs_nonneg _))))
    have hlt := lt_of_zpow_two_lt (((magnitude_bounds n hm e).1.trans h).trans_lt (magnitude_bounds k hl d).2)
    rw [if_neg hm, if_neg hl]
    omega

/-- A fold of maxima ends at a bound that is attained. -/
theorem foldl_max_eq {α : Type} (g : α → Nat) {l : List α} {a b : Nat} (hle : ∀ x ∈ l, g x ≤ b) (ha : a ≤ b)
    (hat : a = b ∨ ∃ x ∈ l, g x = b) : l.foldl (fun s x => max s (g x)) a = b := by
  induction l generalizing a with
  | nil => simpa using hat
  | cons x l ih =>
    obtain ⟨hx, hl⟩ := List.forall_mem_cons.1 hle
    refine ih hl (max_le ha hx) ?_
    rcases hat with rfl | ⟨y, hy, hyb⟩
    · exact .inl (max_eq_left hx)
    · obtain rfl | hy := List.mem_cons.1 hy
      · exact .inl (show max a (g y) = b by rw [hyb, max_eq_right ha])
      · exact .inr ⟨y, hy, hyb⟩

/-- The scale of a finite block is that of its largest magnitude (R48). -/
theorem mxScale_of_finite {xs : List FV} (hne : xs ≠ []) (h : ∀ x ∈ xs, x.Finite) :
    ∃ x ∈ xs, mxScale xs = some (scaleOf x) ∧ ScaleIs |vq x| (scaleOf x) ∧ ∀ y ∈ xs, |vq y| ≤ |vq x| := by
  obtain ⟨x, hx, hmax⟩ := xs.toFinset.exists_max_image (fun x => |vq x|) (List.toFinset_nonempty_iff xs |>.2 hne)
  rw [List.mem_toFinset] at hx
  have hmax : ∀ y ∈ xs, |vq y| ≤ |vq x| := fun y hy => hmax y (List.mem_toFinset.2 hy)
  refine ⟨x, hx, ?_, scaleIs_scaleOf (h x hx), hmax⟩
  rw [mxScale_eq_foldl, foldl_scaleStep_finite h,
    foldl_max_eq scaleOf (fun y hy => scaleOf_mono (h y hy) (h x hx) (hmax y hy)) (Nat.zero_le _) (.inr ⟨x, hx, rfl⟩)]

/-! ## One quantised element (R48) -/

/-- Without SR the draw does not matter. -/
theorem roundsInt_of_draw {rm : Nat} (h : rm < 4) (u v : Nat) {x : ℚ} {r : Int} (hr : RoundsInt rm u x r) : RoundsInt rm v x r := by
  interval_cases rm <;> exact hr

theorem cast_wrapN (k : Nat) (r : Int) : (wrapN k r : Int) = r % (2 : Int) ^ k := by
  have hp : (0 : Int) < (2 : Int) ^ k := by positivity
  rw [wrapN, Nat.cast_pow, Nat.cast_ofNat, Int.toNat_of_nonneg (Int.emod_nonneg _ hp.ne')]

theorem vq_fin_add (n : Bool) (m : Nat) (e d : Int) : vq (.fin n m (e + d)) = vq (.fin n m e) * (2 : ℚ) ^ d := by
  rw [vq_fin, vq_fin, zpow_add₀ two_ne_zero, mul_assoc]

/-- The clamped integer with its flags: sat where the clamp changes it, else nx where it is inexact. -/
def mxClamped (k : Nat) (y : Int) (ix : Bool) : FRes :=
  if (2 : Int) ^ (k - 1) - 1 < y then ⟨wrapN k ((2 : Int) ^ (k - 1) - 1), fSat, ix⟩
  else if y < -(2 : Int) ^ (k - 1) then ⟨wrapN k (-(2 : Int) ^ (k - 1)), fSat, ix⟩
  else ⟨wrapN k y, flagIf ix fNx, ix⟩

theorem mxQuant_fin (k s rm u : Nat) (n : Bool) (m : Nat) (e : Int) : mxQuant k s rm u (.fin n m e) =
    mxClamped k (roundInt rm u n m (e + (k - 2 : Nat) + 127 - s)).1 (roundInt rm u n m (e + (k - 2 : Nat) + 127 - s)).2 := by
  simp only [mxQuant, mxClamped, Nat.cast_pow, Nat.cast_ofNat]

theorem mxClamped_bits (k : Nat) (y : Int) (ix : Bool) : ((mxClamped k y ix).bits : Int) =
    (max (-(2 : Int) ^ (k - 1)) (min ((2 : Int) ^ (k - 1) - 1) y)) % (2 : Int) ^ k := by
  have hp : (0 : Int) < (2 : Int) ^ (k - 1) := by positivity
  unfold mxClamped
  split
  next h => rw [cast_wrapN, min_eq_left h.le, max_eq_right (by omega)]
  next h =>
    split
    next h' => rw [cast_wrapN, min_eq_right (not_lt.1 h), max_eq_left h'.le]
    next h' => rw [cast_wrapN, min_eq_right (not_lt.1 h), max_eq_right (not_lt.1 h')]

theorem mxClamped_flags (k : Nat) (y : Int) (ix : Bool) :
    ((mxClamped k y ix).flags.getLsbD 5 = true ↔ y < -(2 : Int) ^ (k - 1) ∨ (2 : Int) ^ (k - 1) - 1 < y) ∧
      ((mxClamped k y ix).flags.getLsbD 0 = true ↔ -(2 : Int) ^ (k - 1) ≤ y ∧ y ≤ (2 : Int) ^ (k - 1) - 1 ∧ ix = true) ∧
      ∀ b, b = 1 ∨ b = 2 ∨ b = 3 ∨ b = 4 → (mxClamped k y ix).flags.getLsbD b = false := by
  have hsat0 : ¬ fSat.getLsbD 0 = true := by decide
  have hsat5 : fSat.getLsbD 5 = true := by decide
  have hsat : ∀ b, b = 1 ∨ b = 2 ∨ b = 3 ∨ b = 4 → fSat.getLsbD b = false := by rintro b (rfl | rfl | rfl | rfl) <;> rfl
  have hnx0 : (flagIf ix fNx).getLsbD 0 = ix := by cases ix <;> decide
  have hnx5 : ¬ (flagIf ix fNx).getLsbD 5 = true := by cases ix <;> decide
  have hnx : ∀ b, b = 1 ∨ b = 2 ∨ b = 3 ∨ b = 4 → (flagIf ix fNx).getLsbD b = false := by
    rintro b (rfl | rfl | rfl | rfl) <;> cases ix <;> rfl
  unfold mxClamped
  split
  next h => exact ⟨iff_of_true hsat5 (.inr h), iff_of_false hsat0 fun h' => not_lt.2 h'.2.1 h, hsat⟩
  next h =>
    split
    next h' => exact ⟨iff_of_true hsat5 (.inl h'), iff_of_false hsat0 fun h => not_lt.2 h.1 h', hsat⟩
    next h' =>
      refine ⟨iff_of_false hnx5 (by omega), ?_, hnx⟩
      dsimp only
      rw [hnx0]
      exact ⟨fun hi => ⟨not_lt.1 h', not_lt.1 h, hi⟩, fun h => h.2.2⟩

/-- An element of a block with a scale is its exact value rounded and clamped, and raises no flag but sat and nx. -/
theorem quantIs_mxQuant {k : Nat} (s rm u : Nat) {x : FV} (hk : 2 ≤ k) (hx : x.Finite) :
    QuantIs k s rm u x (mxQuant k s rm u x).bits ((mxQuant k s rm u x).flags.getLsbD 5 = true)
        ((mxQuant k s rm u x).flags.getLsbD 0 = true) ∧
      ∀ b, b = 1 ∨ b = 2 ∨ b = 3 ∨ b = 4 → (mxQuant k s rm u x).flags.getLsbD b = false := by
  obtain ⟨n, m, e, rfl⟩ := hx
  have hy : vq (.fin n m (e + (k - 2 : Nat) + 127 - s)) = vq (.fin n m e) * (2 : ℚ) ^ ((k : Int) - 2) * (2 : ℚ) ^ ((127 : Int) - s) := by
    rw [show e + (k - 2 : Nat) + 127 - s = e + ((k : Int) - 2) + (127 - s) by omega, vq_fin_add, vq_fin_add]
  obtain ⟨hr, hix⟩ := roundInt_spec rm u n m (e + (k - 2 : Nat) + 127 - s)
  rw [hy] at hr hix
  rw [mxQuant_fin]
  obtain ⟨h5, h0, hb⟩ := mxClamped_flags k (roundInt rm u n m (e + (k - 2 : Nat) + 127 - s)).1
    (roundInt rm u n m (e + (k - 2 : Nat) + 127 - s)).2
  rw [hix] at h0
  exact ⟨⟨_, hr, mxClamped_bits .., h5, h0⟩, hb⟩

end Sys2Proof.Machine
end

section
/-!
PROOF. The blocks that `mxQuantise` makes: elements, scales and flags (R45 to R50, R141).
-/

namespace Sys2Proof.Machine

open Sys2Proof.Claims

/-! ## Blocks in order -/

/-- The active elements of block `j`. -/
def blockOf (active : Nat → Bool) (j : Nat) : List Nat := ((List.range 32).map (fun i => 32 * j + i)).filter active

theorem mem_blockOf {active : Nat → Bool} {j e : Nat} :
    e ∈ blockOf active j ↔ 32 * j ≤ e ∧ e < 32 * j + 32 ∧ active e = true := by
  simp only [blockOf, List.mem_filter, List.mem_map, List.mem_range]
  constructor
  · rintro ⟨⟨i, hi, rfl⟩, ha⟩
    exact ⟨Nat.le_add_right _ _, Nat.add_lt_add_left hi _, ha⟩
  · rintro ⟨h1, h2, ha⟩
    exact ⟨⟨e - 32 * j, by omega, by omega⟩, ha⟩

/-- The active elements below the end of a block are those below its start and its own. -/
theorem filter_range_block (active : Nat → Bool) (j : Nat) :
    (List.range (32 * (j + 1))).filter active = (List.range (32 * j)).filter active ++ blockOf active j := by
  rw [Nat.mul_succ, List.range_add, List.filter_append, blockOf]

section

variable (k rm hw : Nat) (active : Nat → Bool) (x : Nat → FV)

/-- One element of a block with a scale. -/
def mxElem (sc : Nat) (a : MxOut) (e : Nat) : MxOut :=
  let r := srLane rm hw a.ctx e (fun u => mxQuant k sc rm u (x e))
  { a with elems := a.elems ++ [(e, r.1.bits)], flags := a.flags ||| r.1.flags, ctx := r.2 }

/-- One block. -/
def mxBlock (a : MxOut) (j : Nat) : MxOut :=
  if (blockOf active j).isEmpty then a
  else
    match mxScale ((blockOf active j).map x) with
    | none => { a with
        elems := a.elems ++ (blockOf active j).map (fun e => (e, 0)), scales := a.scales ++ [(j, 255)], flags := a.flags ||| fNv }
    | some sc => (blockOf active j).foldl (mxElem k rm hw x sc) { a with scales := a.scales ++ [(j, sc)] }

theorem mxQuantise_eq_foldl (c : Ctx) :
    mxQuantise k rm hw (fun e => e) active x c = (List.range 4).foldl (mxBlock k rm hw active x) ⟨[], [], 0, c⟩ := rfl

variable (c : Ctx)

/-- What element `e` becomes: zero and invalid in a block without a scale, else quantised with the draw of its own lane, which no
other element advances. -/
def mxOutAt (e : Nat) : FRes :=
  match mxScale ((blockOf active (e / 32)).map x) with
  | none => ⟨0, fNv, false⟩
  | some sc => mxQuant k sc rm (if rm = 4 then (lfsrAdvance (c.lfsr hw e)).toNat / 256 else 0) (x e)

/-- What has been gathered when the elements below `n` are done. -/
structure MxAfter (n : Nat) (a : MxOut) : Prop where
  elems : a.elems = ((List.range n).filter active).map (fun e => (e, (mxOutAt k rm hw active x c e).bits))
  flags : ∀ b, a.flags.getLsbD b = true ↔
    ∃ e, e < n ∧ active e = true ∧ (mxOutAt k rm hw active x c e).flags.getLsbD b = true
  lanes : ∀ e, n ≤ e → a.ctx.lfsr hw e = c.lfsr hw e
  ctx : LfsrOnly c a.ctx

/-- The scales of the first `n` blocks: 255 where a block has none. -/
def scalesOf (n : Nat) : List (Nat × Nat) := ((List.range n).filter (fun j => !(blockOf active j).isEmpty)).map
  (fun j => (j, (mxScale ((blockOf active j).map x)).getD 255))

end

section

variable {k rm hw : Nat} {active : Nat → Bool} {x : Nat → FV} {c : Ctx} {n : Nat} {a : MxOut}

theorem mxAfter_zero (sc : List (Nat × Nat)) : MxAfter k rm hw active x c 0 ⟨[], sc, 0, c⟩ :=
  ⟨rfl, fun b => by simp, fun _ _ => rfl, .refl c⟩

theorem MxAfter.withScales (h : MxAfter k rm hw active x c n a) (sc : List (Nat × Nat)) :
    MxAfter k rm hw active x c n { a with scales := sc } := ⟨h.elems, h.flags, h.lanes, h.ctx⟩

/-- Elements that are not active leave everything as it is. -/
theorem MxAfter.skip {m : Nat} (h : MxAfter k rm hw active x c n a) (hm : n ≤ m) (hoff : ∀ e, n ≤ e → e < m → active e = false) :
    MxAfter k rm hw active x c m a := by
  have hcases {e : Nat} (he : e < m) (hact : active e = true) : e < n :=
    not_le.1 fun hn => Bool.false_ne_true ((hoff e hn he).symm.trans hact)
  refine ⟨?_, fun b => ?_, fun e he => h.lanes e (hm.trans he), h.ctx⟩
  · obtain ⟨d, rfl⟩ := Nat.exists_eq_add_of_le hm
    have hnil : ((List.range d).map (fun i => n + i)).filter active = [] := by
      refine List.filter_eq_nil_iff.2 fun e he hact => ?_
      obtain ⟨i, hi, rfl⟩ := List.mem_map.1 he
      exact absurd (hcases (Nat.add_lt_add_left (List.mem_range.1 hi) n) hact) (by omega)
    rw [h.elems, List.range_add, List.filter_append, hnil, List.append_nil]
  · rw [h.flags]
    exact ⟨fun ⟨e, he, hr⟩ => ⟨e, he.trans_le hm, hr⟩, fun ⟨e, he, hact, hr⟩ => ⟨e, hcases he hact, hact, hr⟩⟩

theorem mxOutAt_of_scale {sc e : Nat} (h : mxScale ((blockOf active (e / 32)).map x) = some sc) : mxOutAt k rm hw active x c e =
    mxQuant k sc rm (if rm = 4 then (lfsrAdvance (c.lfsr hw e)).toNat / 256 else 0) (x e) := by
  simp only [mxOutAt, h]

theorem mxOutAt_of_none {e : Nat} (h : mxScale ((blockOf active (e / 32)).map x) = none) :
    mxOutAt k rm hw active x c e = ⟨0, fNv, false⟩ := by
  simp only [mxOutAt, h]

/-- The next element, active, of a block with a scale. -/
theorem MxAfter.elem {sc : Nat} (h : MxAfter k rm hw active x c n a) (hact : active n = true)
    (hsc : mxScale ((blockOf active (n / 32)).map x) = some sc) :
    MxAfter k rm hw active x c (n + 1) (mxElem k rm hw x sc a n) := by
  have hr : (srLane rm hw a.ctx n (fun u => mxQuant k sc rm u (x n))).1 = mxOutAt k rm hw active x c n := by
    rw [srLane_fst, h.lanes n le_rfl, mxOutAt_of_scale hsc]
  refine ⟨?_, fun b => ?_, fun e he => ?_, h.ctx.trans (srLane_lfsrOnly ..)⟩
  · simp only [mxElem, hr, h.elems, List.range_succ, List.filter_append, List.map_append, List.filter_singleton, hact]
    rfl
  · simp only [mxElem, hr, BitVec.getLsbD_or, Bool.or_eq_true, h.flags, Nat.lt_succ_iff_lt_or_eq, or_and_right, exists_or,
      exists_eq_left, hact, true_and]
  · simp only [mxElem]
    rw [srLane_lfsr, if_neg (fun hc => by omega), h.lanes e (by omega)]

/-- A block with a scale, up to its element `i`. -/
theorem MxAfter.scaled {j sc i : Nat} (h : MxAfter k rm hw active x c (32 * j) a)
    (hsc : mxScale ((blockOf active j).map x) = some sc) (hi : i ≤ 32) : MxAfter k rm hw active x c (32 * j + i)
      ((((List.range i).map (fun i => 32 * j + i)).filter active).foldl (mxElem k rm hw x sc) a) := by
  induction i with
  | zero => exact h
  | succ i ih =>
    have ih := ih (by omega)
    rw [List.range_succ, List.map_append, List.filter_append, List.foldl_append, List.map_singleton, List.filter_singleton]
    cases hact : active (32 * j + i) with
    | false => exact ih.skip (by omega) fun e h1 h2 => by rwa [show e = 32 * j + i by omega]
    | true => exact ih.elem hact (by rwa [show (32 * j + i) / 32 = j by omega])

/-- A block with a NaN or an infinity. -/
theorem MxAfter.unscaled {j : Nat} (h : MxAfter k rm hw active x c (32 * j) a) (hne : blockOf active j ≠ [])
    (hsc : mxScale ((blockOf active j).map x) = none) : MxAfter k rm hw active x c (32 * (j + 1))
      { a with elems := a.elems ++ (blockOf active j).map (fun e => (e, 0)), flags := a.flags ||| fNv } := by
  have hout {e : Nat} (he : e ∈ blockOf active j) : mxOutAt k rm hw active x c e = ⟨0, fNv, false⟩ := by
    obtain ⟨h1, h2, -⟩ := mem_blockOf.1 he
    exact mxOutAt_of_none (by rwa [show e / 32 = j by omega])
  refine ⟨?_, fun b => ?_, fun e he => h.lanes e (by omega), h.ctx⟩
  · rw [filter_range_block, List.map_append, ← h.elems]
    refine congrArg (a.elems ++ ·) (List.map_congr_left fun e he => ?_)
    rw [hout he]
  · rw [BitVec.getLsbD_or, Bool.or_eq_true, h.flags]
    constructor
    · rintro (⟨e, he, hr⟩ | hb)
      · exact ⟨e, by omega, hr⟩
      · obtain ⟨e, he⟩ := List.exists_mem_of_ne_nil _ hne
        obtain ⟨-, h2, hact⟩ := mem_blockOf.1 he
        exact ⟨e, by omega, hact, by rwa [hout he]⟩
    · rintro ⟨e, he, hact, hb⟩
      by_cases hlt : e < 32 * j
      · exact .inl ⟨e, hlt, hact, hb⟩
      · rw [hout (mem_blockOf.2 ⟨by omega, by omega, hact⟩)] at hb
        exact .inr hb

theorem foldl_mxElem_scales (sc : Nat) (l : List Nat) (a : MxOut) : (l.foldl (mxElem k rm hw x sc) a).scales = a.scales := by
  induction l generalizing a with
  | nil => rfl
  | cons e l ih => exact ih _

/-- One block more. -/
theorem mxAfter_mxBlock {j : Nat} (h : MxAfter k rm hw active x c (32 * j) a) (hs : a.scales = scalesOf active x j) :
    MxAfter k rm hw active x c (32 * (j + 1)) (mxBlock k rm hw active x a j) ∧
      (mxBlock k rm hw active x a j).scales = scalesOf active x (j + 1) := by
  have hscales : scalesOf active x (j + 1) = scalesOf active x j ++
      if (blockOf active j).isEmpty = true then [] else [(j, (mxScale ((blockOf active j).map x)).getD 255)] := by
    rw [scalesOf, List.range_succ, List.filter_append, List.map_append, List.filter_singleton, scalesOf]
    cases (blockOf active j).isEmpty <;> rfl
  rw [hscales, ← hs, mxBlock]
  by_cases hemp : (blockOf active j).isEmpty = true
  · rw [if_pos hemp, if_pos hemp, List.append_nil]
    refine ⟨h.skip (by omega) fun e h1 h2 => ?_, rfl⟩
    rw [Bool.eq_false_iff]
    intro hact
    have hmem := mem_blockOf.2 ⟨h1, by omega, hact⟩
    rw [List.isEmpty_iff.1 hemp] at hmem
    cases hmem
  · rw [if_neg hemp, if_neg hemp]
    cases hsc : mxScale ((blockOf active j).map x) with
    | none => exact ⟨(h.unscaled (mt List.isEmpty_iff.2 hemp) hsc).withScales _, rfl⟩
    | some sc => exact ⟨(h.withScales _).scaled hsc le_rfl, foldl_mxElem_scales ..⟩

/-- All four blocks. -/
theorem mxAfter_mxQuantise (k rm hw : Nat) (active : Nat → Bool) (x : Nat → FV) (c : Ctx) :
    MxAfter k rm hw active x c 128 (mxQuantise k rm hw (fun e => e) active x c) ∧
      (mxQuantise k rm hw (fun e => e) active x c).scales = scalesOf active x 4 := by
  have hfold (n : Nat) : MxAfter k rm hw active x c (32 * n) ((List.range n).foldl (mxBlock k rm hw active x) ⟨[], [], 0, c⟩) ∧
      ((List.range n).foldl (mxBlock k rm hw active x) ⟨[], [], 0, c⟩).scales = scalesOf active x n := by
    induction n with
    | zero => exact ⟨mxAfter_zero _, rfl⟩
    | succ n ih =>
      rw [List.range_succ, List.foldl_append]
      exact mxAfter_mxBlock ih.1 ih.2
  exact mxQuantise_eq_foldl k rm hw active x c ▸ hfold 4

end

/-! ## Rows (R46 to R50, R141) -/

section

variable {k rm hw : Nat} {active : Nat → Bool} {x : Nat → FV} {c : Ctx} {a : MxOut}

theorem mem_mxElems {n : Nat} (h : MxAfter k rm hw active x c n a) {e q : Nat} :
    (e, q) ∈ a.elems ↔ e < n ∧ active e = true ∧ q = (mxOutAt k rm hw active x c e).bits := by
  simp only [h.elems, List.mem_map, List.mem_filter, List.mem_range]
  constructor
  · rintro ⟨d, ⟨hd, hact⟩, ⟨⟩⟩
    exact ⟨hd, hact, rfl⟩
  · rintro ⟨he, hact, rfl⟩
    exact ⟨e, ⟨he, hact⟩, rfl⟩

theorem mem_scalesOf {n j s : Nat} : (j, s) ∈ scalesOf active x n ↔
    j < n ∧ (∃ e, e ∈ blockOf active j) ∧ s = (mxScale ((blockOf active j).map x)).getD 255 := by
  have hne : (!(blockOf active j).isEmpty) = true ↔ ∃ e, e ∈ blockOf active j := by
    rw [Bool.not_eq_true', List.isEmpty_eq_false_iff_exists_mem]
  simp only [scalesOf, List.mem_map, List.mem_filter, List.mem_range, ← hne]
  constructor
  · rintro ⟨d, ⟨hd, hact⟩, ⟨⟩⟩
    exact ⟨hd, hact, rfl⟩
  · rintro ⟨he, hact, rfl⟩
    exact ⟨j, ⟨he, hact⟩, rfl⟩

theorem nodup_scalesOf (n : Nat) : ((scalesOf active x n).map (fun y => y.1)).Nodup := by
  rw [scalesOf, List.map_map]
  exact (List.map_id' _).symm ▸ List.nodup_range.filter _

theorem nodup_mxElems {n : Nat} (h : MxAfter k rm hw active x c n a) : (a.elems.map (fun y => y.1)).Nodup := by
  rw [h.elems, List.map_map]
  exact (List.map_id' _).symm ▸ List.nodup_range.filter _

/-- A block with a NaN or an infinity: every element is zero and invalid. -/
theorem mxOutAt_of_not_finite {j e : Nat} (he : e ∈ blockOf active j) (h : ∃ d ∈ blockOf active j, ¬ (x d).Finite) :
    mxScale ((blockOf active j).map x) = none ∧ mxOutAt k rm hw active x c e = ⟨0, fNv, false⟩ := by
  obtain ⟨d, hd, hnf⟩ := h
  have hsc := mxScale_of_not_finite ⟨x d, List.mem_map_of_mem hd, hnf⟩
  obtain ⟨h1, h2, -⟩ := mem_blockOf.1 he
  exact ⟨hsc, mxOutAt_of_none (by rwa [show e / 32 = j by omega])⟩

/-- A finite block: its scale is that of its largest magnitude, and every element is quantised under it. -/
theorem mxOutAt_of_finite {j : Nat} (hk : 2 ≤ k) (hrm : rm ≤ 4) (hne : ∃ e, e ∈ blockOf active j)
    (h : ∀ d ∈ blockOf active j, (x d).Finite) : ∃ s, mxScale ((blockOf active j).map x) = some s ∧
      (∃ e ∈ blockOf active j, ScaleIs |vq (x e)| s ∧ ∀ d ∈ blockOf active j, |vq (x d)| ≤ |vq (x e)|) ∧
      ∀ e ∈ blockOf active j,
        QuantIs k s rm ((lfsrAdvance (c.lfsr hw e)).toNat / 256) (x e) (mxOutAt k rm hw active x c e).bits
          ((mxOutAt k rm hw active x c e).flags.getLsbD 5 = true) ((mxOutAt k rm hw active x c e).flags.getLsbD 0 = true) ∧
        ∀ b, b = 1 ∨ b = 2 ∨ b = 3 ∨ b = 4 → (mxOutAt k rm hw active x c e).flags.getLsbD b = false := by
  obtain ⟨e₀, he₀⟩ := hne
  obtain ⟨v, hv, hsc, his, hmax⟩ := mxScale_of_finite (List.ne_nil_of_mem (List.mem_map_of_mem he₀)) (List.forall_mem_map.2 h)
  obtain ⟨e₁, he₁, rfl⟩ := List.mem_map.1 hv
  refine ⟨_, hsc, ⟨e₁, he₁, his, List.forall_mem_map.1 hmax⟩, fun e he => ?_⟩
  obtain ⟨h1, h2, -⟩ := mem_blockOf.1 he
  rw [mxOutAt_of_scale (by rwa [show e / 32 = j by omega])]
  obtain ⟨⟨r, hr, hrest⟩, hb⟩ := quantIs_mxQuant (scaleOf (x e₁)) rm
    (if rm = 4 then (lfsrAdvance (c.lfsr hw e)).toNat / 256 else 0) hk (h e he)
  refine ⟨⟨r, ?_, hrest⟩, hb⟩
  by_cases h4 : rm = 4
  · rwa [if_pos h4] at hr
  · exact roundsInt_of_draw (lt_of_le_of_ne hrm h4) _ _ hr

theorem mem_blockOf_own {e : Nat} (hact : active e = true) : e ∈ blockOf active (e / 32) :=
  mem_blockOf.2 ⟨by omega, by omega, hact⟩

/-- An element is invalid with its whole block, or it is finite and raises at most sat and nx. -/
theorem mxOutAt_cases {e : Nat} (hk : 2 ≤ k) (hrm : rm ≤ 4) (hact : active e = true) :
    (∃ d ∈ blockOf active (e / 32), ¬ (x d).Finite) ∧ mxOutAt k rm hw active x c e = ⟨0, fNv, false⟩ ∨
    (x e).Finite ∧ ∀ b, b = 1 ∨ b = 2 ∨ b = 3 ∨ b = 4 → (mxOutAt k rm hw active x c e).flags.getLsbD b = false := by
  have hown := mem_blockOf_own hact
  by_cases hf : ∃ d ∈ blockOf active (e / 32), ¬ (x d).Finite
  · exact .inl ⟨hf, (mxOutAt_of_not_finite hown hf).2⟩
  · push Not at hf
    obtain ⟨s, -, -, hq⟩ := mxOutAt_of_finite (rm := rm) (hw := hw) (c := c) hk hrm ⟨e, hown⟩ hf
    exact .inr ⟨hf e hown, (hq e hown).2⟩

section

variable (h : MxAfter k rm hw active x c 128 a) (hk : 2 ≤ k) (hrm : rm ≤ 4)

include h

/-- A block with a NaN or an infinity has scale 255 and only zeros. -/
theorem row_of_not_finite {j s : Nat} (hj : (j, s) ∈ scalesOf active x 4) (hnf : ∃ e ∈ blockOf active j, ¬ (x e).Finite) :
    s = 255 ∧ ∀ e ∈ blockOf active j, (e, 0) ∈ a.elems ∧ ¬ (mxOutAt k rm hw active x c e).flags.getLsbD 5 = true ∧
      ¬ (mxOutAt k rm hw active x c e).flags.getLsbD 0 = true := by
  obtain ⟨hj, ⟨e₀, he₀⟩, rfl⟩ := mem_scalesOf.1 hj
  refine ⟨by rw [(mxOutAt_of_not_finite (k := k) (rm := rm) (hw := hw) (c := c) he₀ hnf).1]; rfl, fun e he => ?_⟩
  obtain ⟨-, h2, hact⟩ := mem_blockOf.1 he
  have hout := (mxOutAt_of_not_finite (k := k) (rm := rm) (hw := hw) (c := c) he hnf).2
  refine ⟨(mem_mxElems h).2 ⟨by omega, hact, by rw [hout]⟩, ?_⟩
  rw [hout]
  decide

include hk hrm

theorem row_of_finite {j s : Nat} (hj : (j, s) ∈ scalesOf active x 4) (hf : ∀ e ∈ blockOf active j, (x e).Finite) :
    (∃ e ∈ blockOf active j, ScaleIs |vq (x e)| s ∧ ∀ d ∈ blockOf active j, |vq (x d)| ≤ |vq (x e)|) ∧
      ∀ e q, e ∈ blockOf active j → (e, q) ∈ a.elems →
        QuantIs k s rm ((lfsrAdvance (c.lfsr hw e)).toNat / 256) (x e) q
          ((mxOutAt k rm hw active x c e).flags.getLsbD 5 = true) ((mxOutAt k rm hw active x c e).flags.getLsbD 0 = true) := by
  obtain ⟨-, hne, rfl⟩ := mem_scalesOf.1 hj
  obtain ⟨s, hsc, hmax, hq⟩ := mxOutAt_of_finite (rm := rm) (hw := hw) (c := c) hk hrm hne hf
  rw [hsc]
  refine ⟨hmax, fun e q he hmem => ?_⟩
  obtain ⟨-, -, rfl⟩ := (mem_mxElems h).1 hmem
  exact (hq e he).1

/-- nv is raised by an active element that is no finite number. -/
theorem mxFlags_nv : a.flags.getLsbD 4 = true ↔ ∃ e, e < 128 ∧ active e = true ∧ ¬ (x e).Finite := by
  rw [h.flags]
  constructor
  · rintro ⟨e, he, hact, h4⟩
    obtain ⟨⟨d, hd, hnf⟩, -⟩ | ⟨-, hb⟩ := mxOutAt_cases hk hrm hact
    · obtain ⟨h1, h2, hd⟩ := mem_blockOf.1 hd
      exact ⟨d, by omega, hd, hnf⟩
    · rw [hb 4 (by decide)] at h4
      cases h4
  · rintro ⟨e, he, hact, hnf⟩
    have hown := mem_blockOf_own hact
    refine ⟨e, he, hact, ?_⟩
    rw [(mxOutAt_of_not_finite hown ⟨e, hown, hnf⟩).2]
    rfl

/-- uf, of and dz are never raised. -/
theorem mxFlags_clear {b : Nat} (hb : b = 1 ∨ b = 2 ∨ b = 3) : a.flags.getLsbD b = false := by
  rw [Bool.eq_false_iff, ne_eq, h.flags]
  rintro ⟨e, he, hact, htrue⟩
  obtain ⟨-, hout⟩ | ⟨-, hout⟩ := mxOutAt_cases hk hrm hact
  · rw [hout] at htrue
    rcases hb with rfl | rfl | rfl <;> cases htrue
  · rw [hout b (by omega)] at htrue
    cases htrue

end

end

/-- A part of O20: the scales, elements and flags of the blocks. -/
theorem quantiseRows : QuantiseRows := by
  intro k rm hw active x c hk hrm r inBlock finite
  obtain ⟨h, hs⟩ := mxAfter_mxQuantise k rm hw active x c
  have hk2 : 2 ≤ k := by omega
  have hblock {j e : Nat} : inBlock j e ↔ e ∈ blockOf active j := mem_blockOf.symm
  refine ⟨fun e => (mxOutAt k rm hw active x c e).flags.getLsbD 5 = true,
    fun e => (mxOutAt k rm hw active x c e).flags.getLsbD 0 = true, fun e => ?_, nodup_mxElems h, fun j => ?_,
    hs ▸ nodup_scalesOf 4, fun j s hj hnf => ?_, fun j s hj hf => ?_, mxFlags_nv h hk2 hrm, h.flags 5, h.flags 0,
    fun b => mxFlags_clear h hk2 hrm⟩
  · simp only [r, mem_mxElems h, ← and_assoc, exists_and_left, exists_eq, and_true]
  · simp only [r, hs, mem_scalesOf, hblock, exists_and_left, exists_eq, and_true]
  · simp only [hblock] at hnf ⊢
    exact row_of_not_finite h (hs ▸ hj) hnf
  · simp only [hblock] at hf ⊢
    exact row_of_finite h hk2 hrm (hs ▸ hj) hf

end Sys2Proof.Machine
end

section
/-!
SUPPORT. Fields packed one beside another into a number, and sets of places as numbers (R47, R141).
-/

namespace Sys2Proof.Machine

/-! ## Sets of places -/

/-- A bit that is not set is set by adding its power of two. -/
theorem testBit_add_two_pow {a b : Nat} (h : a.testBit b = false) (n : Nat) :
    (a + 2 ^ b).testBit n = true ↔ a.testBit n = true ∨ n = b := by
  rw [Nat.add_comm]
  rcases lt_trichotomy n b with hn | rfl | hn
  · rw [Nat.testBit_two_pow_add_gt hn]
    simp [hn.ne]
  · simp [Nat.testBit_two_pow_add_eq, h]
  · obtain ⟨d, rfl⟩ := Nat.exists_eq_add_of_lt hn
    have hlow : a / 2 ^ b % 2 = 0 := by
      rw [Nat.testBit_eq_decide_div_mod_eq, decide_eq_false_iff_not] at h
      omega
    have hdiv : (2 ^ b + a) / 2 ^ (b + 1) = a / 2 ^ (b + 1) := by
      rw [Nat.pow_succ, ← Nat.div_div_eq_div_mul, ← Nat.div_div_eq_div_mul, Nat.add_div_left _ (Nat.two_pow_pos b)]
      omega
    rw [show b + d + 1 = d + (b + 1) by omega, Nat.testBit_add, hdiv, ← Nat.testBit_add]
    simp
    omega

theorem testBit_foldl_insert (l : List Nat) (a n : Nat) :
    (l.foldl (fun a b => if Nat.testBit a b then a else a + 2 ^ b) a).testBit n = true ↔ a.testBit n = true ∨ n ∈ l := by
  induction l generalizing a with
  | nil => simp
  | cons b l ih =>
    rw [List.foldl_cons, ih, List.mem_cons, ← or_assoc]
    refine or_congr_left ?_
    split
    next h => exact ⟨.inl, fun h' => h'.elim id (fun e => e ▸ h)⟩
    next h => exact testBit_add_two_pow (Bool.eq_false_iff.2 h) n

/-! ## Packed fields -/

/-- Fields of `k` bits: field `x.1` holds `x.2`. -/
def packBits (k base : Nat) (l : List (Nat × Nat)) : Nat := l.foldl (fun v x => v + x.2 * 2 ^ (base + x.1 * k)) 0

/-- Fields in rising order, each of its width. -/
structure Fields (k : Nat) (l : List (Nat × Nat)) : Prop where
  rising : l.Pairwise (fun x y => x.1 < y.1)
  width : ∀ x ∈ l, x.2 < 2 ^ k

theorem testBit_foldl_fields {k base : Nat} {l : List (Nat × Nat)} (h : Fields k l) {acc lo : Nat} (hlo : ∀ x ∈ l, lo ≤ x.1)
    (hacc : acc < 2 ^ (base + lo * k)) (n : Nat) :
    (l.foldl (fun v x => v + x.2 * 2 ^ (base + x.1 * k)) acc).testBit n = true ↔
      acc.testBit n = true ∨ ∃ x ∈ l, base + x.1 * k ≤ n ∧ x.2.testBit (n - (base + x.1 * k)) = true := by
  induction l generalizing acc lo with
  | nil => simp
  | cons x l ih =>
    obtain ⟨hx, hl⟩ := List.pairwise_cons.1 h.rising
    obtain ⟨hwx, hwl⟩ := List.forall_mem_cons.1 h.width
    have hle : lo * k ≤ x.1 * k := Nat.mul_le_mul_right k (hlo x (List.mem_cons_self ..))
    have hacc' : acc < 2 ^ (base + x.1 * k) := hacc.trans_le (Nat.pow_le_pow_right (by decide) (by omega))
    have hsum : acc + x.2 * 2 ^ (base + x.1 * k) = 2 ^ (base + x.1 * k) * x.2 + acc := by ring
    have hlt : acc + x.2 * 2 ^ (base + x.1 * k) < 2 ^ (base + (x.1 + 1) * k) := calc
      acc + x.2 * 2 ^ (base + x.1 * k) < 2 ^ (base + x.1 * k) * (x.2 + 1) := by
        rw [hsum, Nat.mul_add, Nat.mul_one]
        exact Nat.add_lt_add_left hacc' _
      _ ≤ 2 ^ (base + x.1 * k) * 2 ^ k := Nat.mul_le_mul_left _ hwx
      _ = 2 ^ (base + (x.1 + 1) * k) := by rw [← Nat.pow_add]; congr 1; ring
    rw [List.foldl_cons, ih ⟨hl, hwl⟩ (lo := x.1 + 1) (fun y hy => hx y hy) hlt, List.exists_mem_cons_iff, ← or_assoc]
    refine or_congr_left ?_
    rw [hsum, Nat.testBit_two_pow_mul_add _ hacc']
    split
    next hn => simp [not_le.2 hn]
    next hn =>
      have hge := not_lt.1 hn
      rw [Nat.testBit_lt_two_pow (hacc'.trans_le (Nat.pow_le_pow_right (by decide) hge))]
      simp [hge]

/-- A bit of packed fields is a bit of the field over its place. -/
theorem testBit_packBits {k base : Nat} {l : List (Nat × Nat)} (h : Fields k l) (n : Nat) :
    (packBits k base l).testBit n = true ↔ ∃ x ∈ l, base + x.1 * k ≤ n ∧ x.2.testBit (n - (base + x.1 * k)) = true := by
  rw [packBits, testBit_foldl_fields h (lo := 0) (fun _ _ => Nat.zero_le _) (Nat.two_pow_pos _)]
  simp

/-- Each field is found at its place. -/
theorem packBits_field {k base : Nat} {l : List (Nat × Nat)} (h : Fields k l) {x : Nat × Nat} (hx : x ∈ l) :
    packBits k base l / 2 ^ (base + x.1 * k) % 2 ^ k = x.2 := by
  refine Nat.eq_of_testBit_eq fun j => ?_
  rw [Nat.testBit_mod_two_pow, Nat.testBit_div_two_pow, Bool.eq_iff_iff, Bool.and_eq_true, decide_eq_true_eq, testBit_packBits h]
  constructor
  · rintro ⟨hj, y, hy, hle, hbit⟩
    have hlt : j + (base + x.1 * k) - (base + y.1 * k) < k := by
      by_contra hge
      rw [Nat.testBit_lt_two_pow ((h.width y hy).trans_le (Nat.pow_le_pow_right (by decide) (not_lt.1 hge)))] at hbit
      cases hbit
    have hyx : y.1 = x.1 := by
      rcases lt_trichotomy y.1 x.1 with hlt' | heq | hgt
      · have := Nat.mul_le_mul_right k (Nat.succ_le_of_lt hlt')
        rw [Nat.succ_mul] at this
        omega
      · exact heq
      · have := Nat.mul_le_mul_right k (Nat.succ_le_of_lt hgt)
        rw [Nat.succ_mul] at this
        omega
    have hnodup : (l.map (fun z => z.1)).Nodup := List.pairwise_map.2 (h.rising.imp ne_of_lt)
    have hsame : y = x := List.inj_on_of_nodup_map hnodup hy hx hyx
    rwa [hsame, Nat.add_sub_cancel] at hbit
  · intro hbit
    have hj : j < k := by
      by_contra hge
      rw [Nat.testBit_lt_two_pow ((h.width x hx).trans_le (Nat.pow_le_pow_right (by decide) (not_lt.1 hge)))] at hbit
      cases hbit
    exact ⟨hj, x, hx, Nat.le_add_left _ _, by rwa [Nat.add_sub_cancel]⟩

end Sys2Proof.Machine
end

section
/-!
SUPPORT. The bits that VQNT writes: elements of its quarter, bytes that hold one of them, scale bytes (R45, R141).
-/

namespace Sys2Proof.Machine

open Sys2Proof.Claims

/-! ## Fields that stand for the numbers of a rising list -/

section

variable {k base : Nat} {l : List Nat} {g : Nat → Nat}

theorem fields_map (hl : l.Pairwise (· < ·)) (hg : ∀ e ∈ l, g e < 2 ^ k) : Fields k (l.map (fun e => (e, g e))) where
  rising := List.pairwise_map.2 hl
  width := List.forall_mem_map.2 hg

theorem testBit_packBits_map (hl : l.Pairwise (· < ·)) (hg : ∀ e ∈ l, g e < 2 ^ k) (n : Nat) :
    (packBits k base (l.map (fun e => (e, g e)))).testBit n = true ↔
      ∃ e ∈ l, base + e * k ≤ n ∧ (g e).testBit (n - (base + e * k)) = true := by
  rw [testBit_packBits (fields_map hl hg)]
  simp only [List.mem_map, exists_exists_and_eq_and]

theorem packBits_map_field (hl : l.Pairwise (· < ·)) (hg : ∀ e ∈ l, g e < 2 ^ k) {e : Nat} (he : e ∈ l) :
    packBits k base (l.map (fun e => (e, g e))) / 2 ^ (base + e * k) % 2 ^ k = g e :=
  packBits_field (fields_map hl hg) (x := (e, g e)) (List.mem_map_of_mem he)

/-- Fields of ones set exactly the bits of their places. -/
theorem testBit_packBits_ones (hl : l.Pairwise (· < ·)) (n : Nat) :
    (packBits k base (l.map (fun e => (e, 2 ^ k - 1)))).testBit n = true ↔ ∃ e ∈ l, base + e * k ≤ n ∧ n < base + e * k + k := by
  rw [testBit_packBits_map hl (fun e _ => Nat.sub_lt (Nat.two_pow_pos k) Nat.one_pos)]
  refine exists_congr fun e => and_congr_right fun _ => and_congr_right fun hle => ?_
  rw [Nat.testBit_two_pow_sub_one, decide_eq_true_eq]
  omega

/-- Packed fields stay below the end of the last. -/
theorem packBits_map_lt (hl : l.Pairwise (· < ·)) (hg : ∀ e ∈ l, g e < 2 ^ k) {N : Nat} (hN : ∀ e ∈ l, base + e * k + k ≤ N) :
    packBits k base (l.map (fun e => (e, g e))) < 2 ^ N := by
  refine Nat.lt_pow_two_of_testBit _ fun n hn => ?_
  rw [Bool.eq_false_iff, ne_eq, testBit_packBits_map hl hg]
  rintro ⟨e, he, hle, hbit⟩
  have hend := hN e he
  rw [Nat.testBit_lt_two_pow ((hg e he).trans_le (Nat.pow_le_pow_right (by decide) (by omega)))] at hbit
  cases hbit

end

/-- The bits from `n` up to `N`, set above a number below `2 ^ n`. -/
theorem testBit_add_tail {a n N b : Nat} (ha : a < 2 ^ n) (hn : n ≤ N) (hb : b < N) :
    (a + (2 ^ N - 2 ^ n)).testBit b = true ↔ a.testBit b = true ∨ n ≤ b := by
  have htail : a + (2 ^ N - 2 ^ n) = 2 ^ n * (2 ^ (N - n) - 1) + a := by
    rw [Nat.mul_sub, ← Nat.pow_add, Nat.add_sub_cancel' hn, Nat.mul_one, Nat.add_comm]
  rw [htail, Nat.testBit_two_pow_mul_add _ ha]
  split
  next h => simp [not_le.2 h]
  next h =>
    rw [Nat.testBit_two_pow_sub_one, decide_eq_true_eq]
    exact iff_of_true (by omega) (.inr (not_lt.1 h))

/-! ## Bytes that hold fields -/

/-- The bytes of the first and of the last bit of each field, as a number. -/
def byteMask (k base : Nat) (l : List (Nat × Nat)) : Nat :=
  (l.flatMap (fun x => [(base + x.1 * k) / 8, (base + x.1 * k + k - 1) / 8])).foldl
    (fun a b => if Nat.testBit a b then a else a + 2 ^ b) 0

/-- A field of at most eight bits lies in the bytes of its first and its last bit. -/
theorem testBit_byteMask {k base : Nat} (hk : 0 < k) (hk8 : k ≤ 8) (l : List Nat) (g : Nat → Nat) (b : Nat) :
    (byteMask k base (l.map (fun e => (e, g e)))).testBit b = true ↔ ∃ e ∈ l, base + e * k < 8 * b + 8 ∧ 8 * b < base + e * k + k := by
  simp only [byteMask, testBit_foldl_insert, Nat.zero_testBit, Bool.false_eq_true, false_or, List.flatMap_map, List.mem_flatMap,
    List.mem_cons, List.not_mem_nil, or_false]
  refine exists_congr fun e => and_congr_right fun _ => ?_
  omega

/-! ## The quarter that VQNT writes -/

/-- The active words of VQNT. -/
def actives (active : Nat → Bool) : List Nat := (List.range 128).filter active

theorem mem_actives {active : Nat → Bool} {e : Nat} : e ∈ actives active ↔ e < 128 ∧ active e = true := by
  rw [actives, List.mem_filter, List.mem_range]

theorem pairwise_actives (active : Nat → Bool) : (actives active).Pairwise (· < ·) := List.pairwise_lt_range.filter _

/-- The blocks with an active element. -/
def liveBlocks (active : Nat → Bool) : List Nat := (List.range 4).filter (fun j => !(blockOf active j).isEmpty)

theorem mem_liveBlocks {active : Nat → Bool} {j : Nat} :
    j ∈ liveBlocks active ↔ j < 4 ∧ ∃ e, 32 * j ≤ e ∧ e < 32 * j + 32 ∧ active e = true := by
  rw [liveBlocks, List.mem_filter, List.mem_range, Bool.not_eq_true', List.isEmpty_eq_false_iff_exists_mem]
  simp only [mem_blockOf]

theorem pairwise_liveBlocks (active : Nat → Bool) : (liveBlocks active).Pairwise (· < ·) := List.pairwise_lt_range.filter _

theorem scaleOf_le (x : FV) : scaleOf x ≤ 254 := by
  cases x with
  | fin n m e =>
    rw [scaleOf]
    split
    · exact Nat.zero_le _
    · exact min_le_left ..
  | _ => exact Nat.zero_le _

/-- The scale of a live block fits its byte. -/
theorem scale_lt_of_live {active : Nat → Bool} {j : Nat} (hj : j ∈ liveBlocks active) (x : Nat → FV) :
    (mxScale ((blockOf active j).map x)).getD 255 < 2 ^ 8 := by
  obtain ⟨-, e, h1, h2, hact⟩ := mem_liveBlocks.1 hj
  by_cases h : ∃ v ∈ (blockOf active j).map x, ¬ v.Finite
  · rw [mxScale_of_not_finite h]
    decide
  · push Not at h
    obtain ⟨v, -, hsc, -⟩ := mxScale_of_finite (List.ne_nil_of_mem (List.mem_map_of_mem (mem_blockOf.2 ⟨h1, h2, hact⟩))) h
    rw [hsc]
    exact Nat.lt_succ_of_le ((scaleOf_le v).trans (by decide))

theorem mxQuant_lt (k s rm u : Nat) (x : FV) : (mxQuant k s rm u x).bits < 2 ^ k := by
  cases x with
  | fin n m e =>
    rw [mxQuant_fin]
    generalize roundInt rm u n m (e + (k - 2 : Nat) + 127 - s) = y
    have hlt := Int.emod_lt_of_pos (max (-(2 : Int) ^ (k - 1)) (min ((2 : Int) ^ (k - 1) - 1) y.1)) (b := (2 : Int) ^ k) (by positivity)
    rw [← mxClamped_bits k y.1 y.2] at hlt
    exact_mod_cast hlt
  | _ => exact Nat.two_pow_pos k

/-- An element fits its field. -/
theorem mxOutAt_lt (k rm hw : Nat) (active : Nat → Bool) (x : Nat → FV) (c : Ctx) (e : Nat) :
    (mxOutAt k rm hw active x c e).bits < 2 ^ k := by
  unfold mxOutAt
  split
  · exact Nat.two_pow_pos k
  · exact mxQuant_lt ..

end Sys2Proof.Machine
end

section
/-!
SUPPORT. The numbers that VQNT leaves, from its elements and its scales (R141).
-/

namespace Sys2Proof.Machine

open Sys2Proof.Claims

/-! ## What VQNT writes -/

section

variable (k q : Nat) (l : List (Nat × Nat))

/-- The elements, packed into their quarter. -/
def vqntVal : Nat := packBits k (4 * q * 32 * k) l

/-- The bits of the elements. -/
def vqntCover : Nat := l.foldl (fun v x => v + (2 ^ k - 1) * 2 ^ (4 * q * 32 * k + x.1 * k)) 0

/-- The bytes that hold a bit of an element. -/
def vqntBytes : Nat := byteMask k (4 * q * 32 * k) l

/-- The bytes written: those of the elements and, for mx6 and mx4, those from `64 * k` up. -/
def vqntMask : PReg := BitVec.ofNat 512 (vqntBytes k q l + if k = 8 then 0 else 2 ^ 512 - 2 ^ (64 * k))

/-- The bits of those bytes that are kept. -/
def vqntKept : VReg := spread (BitVec.ofNat 512 (vqntBytes k q l)) &&& ~~~BitVec.ofNat 4096 (vqntCover k q l)

/-- The scales in their bytes. -/
def vqntScales : Nat := l.foldl (fun a x => a + x.2 * 2 ^ (8 * (4 * q + x.1))) 0

/-- The bytes of the scales. -/
def vqntScaleMask : Nat := l.foldl (fun a x => a + 2 ^ (4 * q + x.1)) 0

theorem vqntCover_eq : vqntCover k q l = packBits k (4 * q * 32 * k) (l.map (fun x => (x.1, 2 ^ k - 1))) := by
  rw [packBits, List.foldl_map, vqntCover]

theorem vqntScales_eq : vqntScales q l = packBits 8 (32 * q) l := by
  have hplace (x : Nat × Nat) : 8 * (4 * q + x.1) = 32 * q + x.1 * 8 := by ring
  simp only [vqntScales, packBits, hplace]

theorem vqntScaleMask_eq : vqntScaleMask q l = packBits 1 (4 * q) (l.map (fun x => (x.1, 2 ^ 1 - 1))) := by
  simp [packBits, List.foldl_map, vqntScaleMask]

end

/-- Elements of the quarter lie one beside another from its start. -/
theorem quarter_place (k q e : Nat) : 4 * q * 32 * k + e * k = (128 * q + e) * k := by ring

section

variable {k q : Nat} (hq : q < 4) {active : Nat → Bool} {g : Nat → Nat}

include hq

/-- An element of a quarter ends within the elements of the register. -/
theorem quarter_end {e : Nat} (he : e < 128) : (128 * q + e) * k + k ≤ 512 * k := calc
  (128 * q + e) * k + k = (128 * q + e + 1) * k := by ring
  _ ≤ 512 * k := Nat.mul_le_mul_right k (by omega)

theorem vqntVal_lt (hg : ∀ e, g e < 2 ^ k) : vqntVal k q ((actives active).map (fun e => (e, g e))) < 2 ^ (512 * k) :=
  packBits_map_lt (pairwise_actives active) (fun e _ => hg e) fun e he =>
    quarter_place k q e ▸ quarter_end hq (mem_actives.1 he).1

omit hq in
theorem vqntVal_field (hg : ∀ e, g e < 2 ^ k) {e : Nat} (he : e ∈ actives active) :
    vqntVal k q ((actives active).map (fun e => (e, g e))) / 2 ^ ((128 * q + e) * k) % 2 ^ k = g e :=
  quarter_place k q e ▸ packBits_map_field (pairwise_actives active) (fun e _ => hg e) he

omit hq in
theorem testBit_vqntCover (n : Nat) : (vqntCover k q ((actives active).map (fun e => (e, g e)))).testBit n = true ↔
    ∃ e, e < 128 ∧ active e = true ∧ (128 * q + e) * k ≤ n ∧ n < (128 * q + e) * k + k := by
  rw [vqntCover_eq, List.map_map]
  refine (testBit_packBits_ones (pairwise_actives active) n).trans ?_
  simp only [mem_actives, quarter_place, and_assoc]

variable (hk : 0 < k) (hk8 : k ≤ 8)

include hk hk8

omit hq in
theorem testBit_vqntBytes (b : Nat) : (vqntBytes k q ((actives active).map (fun e => (e, g e)))).testBit b = true ↔
    ∃ e, e < 128 ∧ active e = true ∧ (128 * q + e) * k < 8 * b + 8 ∧ 8 * b < (128 * q + e) * k + k := by
  rw [vqntBytes, testBit_byteMask hk hk8]
  simp only [mem_actives, quarter_place, and_assoc]

/-- The elements lie in the bytes below `64 * k`. -/
theorem vqntBytes_below {b : Nat} (h : (vqntBytes k q ((actives active).map (fun e => (e, g e)))).testBit b = true) : b < 64 * k := by
  obtain ⟨e, he, -, -, hb⟩ := (testBit_vqntBytes hk hk8 b).1 h
  have := quarter_end (k := k) hq he
  omega

theorem vqntBytes_lt : vqntBytes k q ((actives active).map (fun e => (e, g e))) < 2 ^ (64 * k) :=
  Nat.lt_pow_two_of_testBit _ fun _ hb => Bool.eq_false_iff.2 fun h => not_lt.2 hb (vqntBytes_below hq hk hk8 h)

theorem getLsbD_vqntMask {b : Nat} (hb : b < 512) :
    (vqntMask k q ((actives active).map (fun e => (e, g e)))).getLsbD b = true ↔
      (vqntBytes k q ((actives active).map (fun e => (e, g e)))).testBit b = true ∨ k ≠ 8 ∧ 64 * k ≤ b := by
  rw [vqntMask, BitVec.getLsbD_ofNat, decide_eq_true hb, Bool.true_and]
  by_cases h8 : k = 8
  · simp [h8]
  · rw [if_neg h8, testBit_add_tail (vqntBytes_lt hq hk hk8) (by omega) hb]
    simp [h8]

omit hq hk hk8 in
theorem getLsbD_vqntKept {n : Nat} (hn : n < 4096) (l : List (Nat × Nat)) :
    (vqntKept k q l).getLsbD n = false ↔ ((vqntBytes k q l).testBit (n / 8) = true → (vqntCover k q l).testBit n = true) := by
  have hb : n / 8 < 512 := by omega
  rw [vqntKept, BitVec.getLsbD_and, BitVec.getLsbD_not, getLsbD_spread _ hn, BitVec.getLsbD_ofNat, BitVec.getLsbD_ofNat,
    decide_eq_true hb, decide_eq_true hn]
  cases (vqntBytes k q l).testBit (n / 8) <;> simp

/-- The bits written: those of the active elements and, for mx6 and mx4, those from `512 * k` up (R141). -/
theorem vqnt_written {n : Nat} (hn : n < 4096) :
    (vqntMask k q ((actives active).map (fun e => (e, g e)))).getLsbD (n / 8) = true ∧
        (vqntKept k q ((actives active).map (fun e => (e, g e)))).getLsbD n = false ↔
      (∃ e, e < 128 ∧ active e = true ∧ (128 * q + e) * k ≤ n ∧ n < (128 * q + e) * k + k) ∨ k ≠ 8 ∧ 512 * k ≤ n := by
  rw [getLsbD_vqntMask hq hk hk8 (by omega), getLsbD_vqntKept hn, ← testBit_vqntCover (g := g)]
  constructor
  · rintro ⟨hbyte | ⟨h8, hb⟩, hkept⟩
    · exact .inl (hkept hbyte)
    · exact .inr ⟨h8, by omega⟩
  · rintro (hcov | ⟨h8, hle⟩)
    · obtain ⟨e, he, hact, hlo, hhi⟩ := (testBit_vqntCover n).1 hcov
      exact ⟨.inl ((testBit_vqntBytes hk hk8 _).2 ⟨e, he, hact, by omega, by omega⟩), fun _ => hcov⟩
    · exact ⟨.inr ⟨h8, by omega⟩, fun h => absurd (vqntBytes_below hq hk hk8 h) (by omega)⟩

end

section

variable {q : Nat} {active : Nat → Bool} {g : Nat → Nat}

theorem vqntScales_byte (hg : ∀ j ∈ liveBlocks active, g j < 2 ^ 8) {j : Nat} (hj : j ∈ liveBlocks active) :
    elem (vqntScales q ((liveBlocks active).map (fun j => (j, g j)))) 1 (4 * q + j) = g j := by
  rw [elem, Nat.mul_one, vqntScales_eq, show 8 * (4 * q + j) = 32 * q + j * 8 by ring]
  exact packBits_map_field (pairwise_liveBlocks active) hg hj

variable (hq : q < 4)

include hq

theorem vqntScales_lt (hg : ∀ j ∈ liveBlocks active, g j < 2 ^ 8) {N : Nat} (hN : 128 ≤ N) :
    vqntScales q ((liveBlocks active).map (fun j => (j, g j))) < 2 ^ N := by
  rw [vqntScales_eq]
  refine packBits_map_lt (pairwise_liveBlocks active) hg fun j hj => ?_
  have := (mem_liveBlocks.1 hj).1
  omega

/-- The scale bytes written are those of the live blocks. -/
theorem getLsbD_vqntScaleMask (b : Nat) :
    (BitVec.ofNat 512 (vqntScaleMask q ((liveBlocks active).map (fun j => (j, g j))))).getLsbD b = true ↔
      ∃ j e, b = 4 * q + j ∧ j < 4 ∧ 32 * j ≤ e ∧ e < 32 * j + 32 ∧ active e = true := by
  rw [BitVec.getLsbD_ofNat, Bool.and_eq_true, decide_eq_true_eq, vqntScaleMask_eq, List.map_map]
  refine (and_congr_right' (testBit_packBits_ones (pairwise_liveBlocks active) b)).trans ?_
  constructor
  · rintro ⟨-, j, hj, h1, h2⟩
    obtain ⟨hj4, e, he⟩ := mem_liveBlocks.1 hj
    exact ⟨j, e, by omega, hj4, he⟩
  · rintro ⟨j, e, rfl, hj4, he⟩
    exact ⟨by omega, j, mem_liveBlocks.2 ⟨hj4, e, he⟩, by omega, by omega⟩

end

end Sys2Proof.Machine
end

section
/-!
PROOF. VQNT and VDQNT as instructions (R141, R142).
-/

namespace Sys2Proof.Machine

open Sys2Proof.Claims

/-! ## Entries added after generators have moved -/

/-- One more pending entry. -/
def State.addPend (s : State) (p : Pend) : State :=
  s.modCtx s.cur.hw (fun c => { c with pend := { c.pend with val := c.pend.val ++ [p] } })

theorem AddsPend.start (s : State) {c : Ctx} (hc : LfsrOnly s.me c) : AddsPend s (s.setCtx s.cur.hw c) c [] where
  ctx := by rw [State.setCtx_ctx_same, List.append_nil]
  lfsr := hc
  others _ hk := State.setCtx_ctx_other _ _ hk
  rest := ⟨rfl, rfl, rfl, rfl, rfl, rfl, rfl, rfl⟩
  mem := rfl

section

variable {s t : State} {c : Ctx} {ps : List Pend} (h : AddsPend s t c ps) (hcur : t.cur = s.cur)

include h hcur

theorem AddsPend.addPend (p : Pend) : AddsPend s (t.addPend p) c (ps ++ [p]) where
  ctx := by
    rw [State.addPend, hcur, State.modCtx_ctx_same, h.ctx, ← List.append_assoc]
  lfsr := h.lfsr
  others := by
    rw [State.addPend, hcur]
    exact othersSame_modCtx h.others _
  rest := by
    rw [State.addPend, hcur]
    exact restSame_modCtx h.rest _ _
  mem := h.mem

/-- An entry is the same whether it is formed before or after the generators have moved. -/
theorem AddsPend.pend_eq (r : Res) : r.pend t = r.pend s := by
  obtain ⟨hctx, ⟨g, rfl⟩, -, hrest, -⟩ := h
  have hsched : t.me.run.sched = s.me.run.sched := by rw [State.me, hcur, hctx]
  have hcore : t.core t.myCore = s.core s.myCore := by rw [State.core, State.core, hrest.cores, State.myCore, State.myCore, hcur]
  rw [Res.pend, Res.pend, hsched, hcore, hcur]

theorem AddsPend.pushV (d : Nat) (mask : PReg) (v : VReg) (fl : Flags) (lat : Nat) :
    AddsPend s (t.pushV d mask v fl lat) c (ps ++ [(vRes d mask v fl lat).pend s]) := by
  rw [← h.pend_eq hcur]
  exact h.addPend hcur _

theorem AddsPend.pushKept (d : Nat) (mask : PReg) (kept v : VReg) (fl : Flags) (lat : Nat) :
    AddsPend s (t.pushKept d mask kept v fl lat) c (ps ++ [{ (vRes d mask v fl lat).pend s with kept := kept }]) := by
  rw [← h.pend_eq hcur]
  exact h.addPend hcur _

end

/-! ## The mode (R37) -/

section

variable {i : Instr} {s : State} {k m : Nat} {on : Bool} {eff : State → State}

theorem fullChk_none (hf : s.mod.full = true ∨ k = 8) : s.fullChk (k != 8) = none := by
  rcases hf with hf | rfl
  · simp [State.fullChk, hf]
  · rfl

theorem fullChk_some (hf : s.mod.full = false) (hk : k ≠ 8) : s.fullChk (k != 8) = some ⟨1, 0, 0⟩ := by
  simp [State.fullChk, hf, hk]

variable (h : exec i s = s.perform (s.fullChk (k != 8)) on none none eff)

include h

theorem exec_of_fullChk (hf : s.mod.full = true ∨ k = 8) (hon : on = true) : exec i s = .next (eff s) := by
  rw [h, fullChk_none hf, hon, State.perform_on _ _ _ _ _ (.inr ⟨rfl, rfl, rfl⟩)]

theorem nullified_of_fullChk (hf : s.mod.full = true ∨ k = 8) (hoff : on = false) : Nullified i s := by
  rw [Nullified, h, fullChk_none hf, hoff, State.perform_off _ _ _ _ _ (.inl rfl)]

/-- In reduced service MXINT6 and MXINT4 are no operations of the machine. -/
theorem trapped_of_fullChk (hgo : s.cur.go = false) (hf : s.mod.full = false) (hk : k ≠ 8) :
    exec i s = .next (trapped s (.mode ⟨1, 0, 0⟩) 1 0 0) := by
  rw [h, fullChk_some hf hk, State.perform_mode _ _ _ _ _ _ hgo]
  rfl

end

/-! ## VQNT -/

theorem toNat_ofNat_of_lt {v N w : Nat} (h : v < 2 ^ N) (hN : N ≤ w) : (BitVec.ofNat w v).toNat = v := by
  rw [BitVec.toNat_ofNat, Nat.mod_eq_of_lt (h.trans_le (Nat.pow_le_pow_right (by decide) hN))]

theorem mxBits_bounds (t : ETy) : 2 ≤ mxBits t ∧ mxBits t ≤ 8 := by cases t <;> decide

/-- The blocks that VQNT makes. -/
def quantised (o : V2) (s : State) : MxOut :=
  mxQuantise (mxBits o.t) s.me.rm s.cur.hw (fun e => e) (fun e => (s.me.guardW o.g).getLsbD (e * 4))
    (fun e => f32.decode (elem (s.me.vreg o.a).toNat 4 e)) s.me

/-- What VQNT leaves when a word is active. -/
def vqntEffect (o : V2) (c q : Nat) (s : State) : State :=
  let k := mxBits o.t
  let r := quantised o s
  (((s.setCtx s.cur.hw r.ctx).pushKept o.d (vqntMask k q r.elems) (vqntKept k q r.elems) (BitVec.ofNat 4096 (vqntVal k q r.elems))
    r.flags 4).pushV c (BitVec.ofNat 512 (vqntScaleMask q r.scales)) (BitVec.ofNat 4096 (vqntScales q r.scales)) 0 4).charge
      s.cur.hw 3 1

theorem exec_vqnt_eq (o : V2) (c q : Nat) (s : State) : exec (.vqnt o c q) s =
    s.perform (s.fullChk (mxBits o.t != 8)) (anyE (s.me.guardW o.g) 4) none none (vqntEffect o c q) := rfl

/-- The elements and the scales are pending, the generators have moved as the roundings say, and nothing else has changed. -/
theorem vqntEffect_spec (o : V2) (c q : Nat) (s : State) :
    let k := mxBits o.t
    let r := quantised o s
    RoundedTo s (vqntEffect o c q s)
        [{ (vRes o.d (vqntMask k q r.elems) (BitVec.ofNat 4096 (vqntVal k q r.elems)) r.flags 4).pend s with
            kept := vqntKept k q r.elems },
          (vRes c (BitVec.ofNat 512 (vqntScaleMask q r.scales)) (BitVec.ofNat 4096 (vqntScales q r.scales)) 0 4).pend s] 3 ∧
      ∀ l, ((vqntEffect o c q s).ctx s.cur.hw).lfsr s.cur.hw l = r.ctx.lfsr s.cur.hw l := by
  have hstart := AddsPend.start s (mxAfter_mxQuantise (mxBits o.t) s.me.rm s.cur.hw (fun e => (s.me.guardW o.g).getLsbD (e * 4))
    (fun e => f32.decode (elem (s.me.vreg o.a).toNat 4 e)) s.me).1.ctx
  exact ((hstart.pushKept rfl ..).pushV rfl ..).charge 3

/-- The elements of VQNT. -/
theorem quantised_elems (o : V2) (s : State) : ∃ g : Nat → Nat, (∀ e, g e < 2 ^ mxBits o.t) ∧
    (quantised o s).elems = (actives (fun e => (s.me.guardW o.g).getLsbD (e * 4))).map (fun e => (e, g e)) :=
  ⟨_, fun e => mxOutAt_lt _ _ _ _ _ _ e, (mxAfter_mxQuantise ..).1.elems⟩

/-- The scales of VQNT. -/
theorem quantised_scales (o : V2) (s : State) : ∃ g : Nat → Nat,
    (∀ j ∈ liveBlocks (fun e => (s.me.guardW o.g).getLsbD (e * 4)), g j < 2 ^ 8) ∧
    (quantised o s).scales = (liveBlocks (fun e => (s.me.guardW o.g).getLsbD (e * 4))).map (fun j => (j, g j)) :=
  ⟨_, fun _ hj => scale_lt_of_live hj _, (mxAfter_mxQuantise ..).2⟩

/-- A part of O20: elements, scales and the bits written. -/
theorem quantiseResult : QuantiseResult := by
  intro o c q s hwf k m r at_
  simp only [Instr.wf, Bool.and_eq_true, decide_eq_true_eq] at hwf
  obtain ⟨⟨-, hq⟩, -⟩ := hwf
  obtain ⟨hk2, hk8⟩ := mxBits_bounds o.t
  have hk0 : 0 < k := Nat.lt_of_lt_of_le Nat.two_pos hk2
  have hany : anyE m 4 = true ↔ SomeActive m 4 := anyE_iff (by decide)
  refine ⟨fun hf ha => ⟨_, exec_of_fullChk (exec_vqnt_eq o c q s) hf (hany.2 ha), ?_⟩,
    fun hf ha => nullified_of_fullChk (exec_vqnt_eq o c q s) hf (Bool.eq_false_iff.2 (mt hany.1 ha)),
    trapped_of_fullChk (exec_vqnt_eq o c q s)⟩
  obtain ⟨hr, hl⟩ := vqntEffect_spec o c q s
  obtain ⟨g, hg, helems⟩ := quantised_elems o s
  obtain ⟨gs, hgs, hscales⟩ := quantised_scales o s
  have hval := vqntVal_lt hq hg (active := fun e => m.getLsbD (e * 4))
  have hv0 := toNat_ofNat_of_lt hval (by omega : 512 * mxBits o.t ≤ 4096)
  have hv1 := toNat_ofNat_of_lt (vqntScales_lt hq hgs (by decide)) (le_refl 4096)
  refine ⟨_, _, _, _, _, hr, fun x hx => ?_, fun x hx => ?_, fun b hb => ?_, fun n hn => ?_, fun b hb => ?_, fun b hb hb' h8 => ?_, hl⟩
  · rw [show r.elems = _ from helems] at hx
    obtain ⟨e, he, rfl⟩ := List.mem_map.1 hx
    rw [helems, hv0]
    exact vqntVal_field hg he
  · rw [show r.scales = _ from hscales] at hx
    obtain ⟨j, hj, rfl⟩ := List.mem_map.1 hx
    rw [hscales, hv1]
    exact vqntScales_byte hgs hj
  · rw [helems, getLsbD_vqntMask hq hk0 hk8 hb, testBit_vqntBytes hk0 hk8]
  · rw [helems]
    exact vqnt_written hq hk0 hk8 hn
  · rw [hscales]
    exact getLsbD_vqntScaleMask hq b
  · rw [helems, hv0, elem, Nat.div_eq_of_lt (hval.trans_le (Nat.pow_le_pow_right (by decide) (by omega))), Nat.zero_mod]

/-! ## VDQNT -/

/-- The rounded product of scale and element (R142). -/
def dequantised (o : V2) (c q : Nat) (s : State) (e u : Nat) : FRes :=
  let k := mxBits o.t
  let sc := elem (s.me.vreg c).toNat 1 (4 * q + e / 32)
  let x := signed k ((s.me.vreg o.a).toNat / 2 ^ ((4 * q * 32 + e) * k) % 2 ^ k)
  if sc = 255 then ⟨f32.nan, fNv, false⟩
  else f32.round s.me.rm u (decide (x < 0)) x.natAbs ((sc : Int) - 127 - (k - 2 : Nat))

theorem exec_vdqnt_eq (o : V2) (c q : Nat) (s : State) : exec (.vdqnt o c q) s =
    s.perform (s.fullChk (mxBits o.t != 8)) (anyE (s.me.guardW o.g) 4) none none
      (fun s => (s.roundV (s.me.guardW o.g) .f o.d 4 (laneOf .f) (dequantised o c q s)).charge s.cur.hw 3 1) := rfl

/-- A part of O20: the dequantised elements. -/
theorem dequantiseResult : DequantiseResult := by
  intro o c q s _ k m sc qv
  have hany : anyE m 4 = true ↔ SomeActive m 4 := anyE_iff (by decide)
  have hval : dequantised o c q s = fun e u => if sc e = 255 then ⟨f32.nan, 0x10#6, false⟩
      else f32.round s.me.rm u (decide (qv e < 0)) (qv e).natAbs ((sc e : Int) - 127 - (k - 2 : Nat)) := by
    have hquarter (e : Nat) : 4 * q * 32 + e = 128 * q + e := by ring
    funext e u
    simp only [dequantised, hquarter]
    rfl
  refine ⟨fun hf => ?_, trapped_of_fullChk (exec_vdqnt_eq o c q s)⟩
  rw [← hval]
  exact floatVec_of_roundV (fun ha => exec_of_fullChk (exec_vdqnt_eq o c q s) hf (hany.2 ha))
    (fun ha => nullified_of_fullChk (exec_vdqnt_eq o c q s) hf (Bool.eq_false_iff.2 (mt hany.1 ha)))

/-- Settles O20, from its three parts. -/
theorem quantiseDequantise : Obligations.QuantiseDequantise := ⟨quantiseResult, dequantiseResult, quantiseRows⟩

end Sys2Proof.Machine
end

section
/-!
SUPPORT. Checks made one after the other: the first that fails gives its code (R294).
-/

namespace Sys2Proof.Machine

open Sys2Proof.Claims

/-- The first condition of a list that holds gives the code with which the check fails, at some address; where none holds, the check
passes. -/
def FailsInOrder (k : Option Chk) : List (Prop × Nat) → Prop
  | [] => k = none
  | (p, code) :: l => (p → ∃ addr, k = some ⟨code, addr, 0⟩) ∧ (¬ p → FailsInOrder k l)

section

variable {k j : Option Chk} {p q : Prop} {code : Nat} {addr : Word} {l : List (Prop × Nat)}

theorem FailsInOrder.eq_none (h : FailsInOrder k l) (hl : ∀ x ∈ l, ¬ x.1) : k = none := by
  induction l with
  | nil => exact h
  | cons x l ih =>
    obtain ⟨hx, hl⟩ := List.forall_mem_cons.1 hl
    exact ih (h.2 hx) hl

theorem FailsInOrder.congr (h : FailsInOrder k ((p, code) :: l)) (hpq : p ↔ q) : FailsInOrder k ((q, code) :: l) :=
  propext hpq ▸ h

/-- Two conditions with one code are one condition. -/
theorem FailsInOrder.merge (h : FailsInOrder k ((p, code) :: (q, code) :: l)) : FailsInOrder k ((p ∨ q, code) :: l) := by
  obtain ⟨hp, hrest⟩ := h
  refine ⟨fun hpq => ?_, fun hpq => (hrest (mt .inl hpq)).2 (mt .inr hpq)⟩
  by_cases hc : p
  · exact hp hc
  · exact (hrest hc).1 (hpq.resolve_left hc)

/-- A check that is made after another. -/
theorem FailsInOrder.seq (hk : FailsInOrder k [(p, code)]) (hj : FailsInOrder j l) : FailsInOrder (k <|> j) ((p, code) :: l) := by
  obtain ⟨hfail, hpass⟩ := hk
  refine ⟨fun hp => ?_, fun hp => ?_⟩
  · obtain ⟨addr, h⟩ := hfail hp
    exact ⟨addr, by rw [h]; rfl⟩
  · rw [show k = none from hpass hp]
    exact hj

/-- A check that is made after another of the same code. -/
theorem FailsInOrder.or (hk : FailsInOrder k [(p, code)]) (hj : FailsInOrder j ((q, code) :: l)) :
    FailsInOrder (k <|> j) ((p ∨ q, code) :: l) := (hk.seq hj).merge

variable [Decidable p]

theorem failsInOrder_if (h : FailsInOrder k l) : FailsInOrder (if p then some ⟨code, addr, 0⟩ else k) ((p, code) :: l) :=
  ⟨fun hp => ⟨addr, if_pos hp⟩, fun hp => by rwa [if_neg hp]⟩

theorem failsInOrder_when : FailsInOrder (if p then some ⟨code, addr, 0⟩ else none) [(p, code)] :=
  failsInOrder_if (show FailsInOrder none [] from rfl)

theorem failsInOrder_unless : FailsInOrder (if p then none else some ⟨code, addr, 0⟩) [(¬ p, code)] :=
  ⟨fun hp => ⟨addr, if_neg hp⟩, fun hp => if_pos (not_not.1 hp)⟩

/-- A check that is made only where a condition does not hold. -/
theorem failsInOrder_else (h : FailsInOrder k [(q, code)]) : FailsInOrder (if p then none else k) [(¬ p ∧ q, code)] := by
  by_cases hp : p
  · exact ⟨fun hpq => absurd hp hpq.1, fun _ => if_pos hp⟩
  · rw [if_neg hp]
    exact h.congr (by simp [hp])

end

/-! ## Operands (R92, R150) -/

theorem alignN_fails (v n : Nat) : FailsInOrder (alignN v n) [(v % n ≠ 0, 9)] := failsInOrder_unless

theorem clusterRange_fails (a n : Nat) : FailsInOrder (clusterRange a n) [(0xC000000 < a + n, 8)] :=
  failsInOrder_unless.congr not_le

/-- A full address queue refuses a request with QOVF (R150). -/
theorem Ctx.fullChk_fails (s : State) : FailsInOrder s.me.fullChk [(¬ Room s, 5)] :=
  failsInOrder_when.congr not_lt.symm

/-! ## Records (R260) -/

theorem recIllop_record_fails (d : Nat) : FailsInOrder (recIllop d false) [(SpawnKind d ∨ RecordScope d, 1)] :=
  failsInOrder_when.congr (by
    simp only [Bool.not_false, Bool.true_and, Bool.or_eq_true, Bool.and_eq_true, decide_eq_true_eq]
    rfl)

theorem recIllop_template_fails (d : Nat) : FailsInOrder (recIllop d true) [(RecordScope d, 1)] :=
  failsInOrder_when.congr (by simp [RecordScope, recRscope])

theorem recIllbnd_record_fails (d : Nat) :
    FailsInOrder (recIllbnd d false) [(8 ≤ fld d 40 8 ∨ fld d 48 16 ≠ 0 ∨ fld d 160 32 ≠ 0, 2)] :=
  failsInOrder_when.congr (by
    simp only [Bool.not_false, Bool.true_and, Bool.or_eq_true, decide_eq_true_eq]
    rfl)

theorem recIllbnd_template_fails (d : Nat) : FailsInOrder (recIllbnd d true) [(8 ≤ fld d 40 8, 2)] :=
  failsInOrder_when.congr (by
    simp only [Bool.not_true, Bool.false_and, Bool.or_false, decide_eq_true_eq]
    rfl)

theorem recAlign_fails (d : Nat) : FailsInOrder (recAlign d) [(RecordMisaligned d, 9)] :=
  (alignN_fails _ _).or ((failsInOrder_else (alignN_fails _ _)).or
    ((alignN_fails _ _).or ((alignN_fails _ _).or (alignN_fails _ _))))

theorem recAccv_fails (d : Nat) : FailsInOrder (recAccv d) [(RecordOutside d, 8)] :=
  (failsInOrder_if failsInOrder_when).merge

/-! ## Queues and watch entries (R254, R259) -/

theorem queueBits_fails (v : Word) : FailsInOrder (queueBits v) [(0x200 ≤ v.toNat, 2)] := failsInOrder_when

theorem State.queueChk_fails (s : State) (qn : Nat) : FailsInOrder (s.queueChk qn) [(s.launchQueue s.cur.hw qn = false, 8)] :=
  failsInOrder_unless.congr (Iff.of_eq (Bool.not_eq_true _))

theorem State.entryChk_fails {s : State} {l : Launch} (h : s.launchOf s.cur.hw = some l) (e : Nat) :
    FailsInOrder (s.entryChk e) [(¬ (l.wfirst ≤ e ∧ e < l.wfirst + l.wcount), 8)] := by
  rw [State.entryChk, h]
  exact failsInOrder_unless

/-- The checks of a watch with both its registers (R262). -/
theorem State.watchChk_fails {s : State} {l : Launch} (h : s.launchOf s.cur.hw = some l) (base w d : Nat) :
    FailsInOrder (s.watchChk base w d true)
      [(WatchScope w d, 1), (WatchBits w d, 2), (WatchAlign base w d, 9), (WatchOutside s l base w d, 8)] := by
  refine FailsInOrder.congr (FailsInOrder.or failsInOrder_when ((recIllop_template_fails d).seq ?_)) or_assoc
  refine FailsInOrder.congr (FailsInOrder.or failsInOrder_when ((recIllbnd_template_fails d).seq ?_))
    (by simp [WatchBits, wLg, wLimit, or_assoc])
  refine (alignN_fails _ _).or ((recAlign_fails d).seq ?_)
  exact FailsInOrder.or failsInOrder_when ((s.entryChk_fails h _).or ((s.queueChk_fails _).or (recAccv_fails d)))

end Sys2Proof.Machine
end

section
/-!
PROOF. The instructions of the Q slot (R15, R146, R149 to R153, R210, R254, R260 to R263).
-/

namespace Sys2Proof.Machine

open Sys2Proof.Claims

/-- An engine wait holds the bundle back (R209). -/
theorem State.perform_engine (s : State) (chk : Option Chk) (eff : State → State) (h : s.cur.go = false) :
    s.perform none true (some .engine) chk eff = .next ((s.met (.wait .engine)).engineWait s.cur.hw s.cur.cand) := by
  simp [State.perform, h]

/-! ## A command enters the Q gusset (R146, R151, R210) -/

theorem elsewhere_charge {s t : State} (h : Elsewhere s t) (code n : Nat) : Elsewhere s (t.charge s.cur.hw code n) := by
  rcases t.charge_cases s.cur.hw code n with ⟨e, -⟩ | e
  · rwa [e]
  · rw [e]
    exact { h with others := othersSame_modCtx h.others _ }

theorem elsewhere_fresh_modCtx (s : State) (f : Ctx → Ctx) : Elsewhere s (s.fresh.2.modCtx s.cur.hw f) where
  others := fun _ => State.modCtx_ctx_other _ _
  cores := fun _ _ => rfl
  mod := rfl
  clusters := rfl
  aux := rfl
  agenda := rfl
  oldBytes := rfl
  shared := rfl
  hbm := rfl
  host := rfl
  spad := rfl
  imem := rfl
  lining := rfl
  bias := rfl

theorem State.putQ_enters (s : State) (op : CmdOp) (prod : Nat) (kind : Option Bool) :
    QEnters s (s.putQ op prod kind) op prod kind where
  ctx := by
    rw [State.putQ, State.charge_ctx_same, State.modCtx_ctx_same]
    cases kind
    case none => simp only [List.append_nil]; rfl
    case some => rfl
  front := State.charge_front _ _ _ _
  cores := State.charge_cores _ _ _ _
  acs := congrArg Mem.acs (State.charge_mem _ _ _ _)
  rest := elsewhere_charge (elsewhere_fresh_modCtx s _) 13 1

section

variable {i : Instr} {s : State} {g : Nat} {chk : Option Chk} {op : CmdOp} {prod : Nat} {kind : Option Bool}

/-- An instruction that is a Q command enters it when its checks hold, and waits for room in the gusset. -/
theorem qIssue_of_qCommand {checks : Prop} (h : exec i s = s.qCommand g chk op prod kind) (hchk : checks → chk = none) :
    QIssue i s g op prod kind checks := by
  refine ⟨nullified_of_perform h, fun hg hroom hc => ⟨_, ?_, s.putQ_enters op prod kind⟩, fun hgo hg hfull => ?_⟩
  · rw [h, State.qCommand, hg]
    exact State.perform_on _ _ _ _ _ (.inr ⟨rfl, if_neg (Nat.not_le.2 hroom), hchk hc⟩)
  · rw [HeldBack, HeldBackFrom, h, State.qCommand, hg, gussetWait, if_pos hfull]
    exact State.perform_engine _ _ _ hgo

/-- A Q command that finds room in its gusset traps with the check that fails. -/
theorem trapped_of_qCommand {k : Chk} (h : exec i s = s.qCommand g chk op prod kind) (hfree : QFree s g) (hk : chk = some k) :
    exec i s = .next (trapped s (.chk k) k.code k.addr k.detail) := by
  obtain ⟨hgo, hg, hroom⟩ := hfree
  rw [h, State.qCommand, hg, gussetWait, if_neg (Nat.not_le.2 hroom), hk]
  exact State.perform_chk _ _ _ hgo

theorem checksTrap_of_qCommand (h : exec i s = s.qCommand g chk op prod kind) (hfree : QFree s g) {l : List (Prop × Nat)}
    (hl : FailsInOrder chk l) : ChecksTrap i s l := by
  induction l with
  | nil => trivial
  | cons x l ih =>
    refine ⟨fun hx => ?_, fun hx => ih (hl.2 hx)⟩
    obtain ⟨addr, hk⟩ := hl.1 hx
    exact ⟨addr, trapped_of_qCommand h hfree hk⟩

end

/-! ## Gathers, scatters and neighbour lists (R146, R150, R151) -/

theorem saSize_eq (t : SaTy) : saSize t = if t = .d then 8 else 4 := by cases t <;> rfl

/-- The checks of a request: its alignment, then a full address queue. -/
theorem requestChk_fails (s : State) (v n : Nat) :
    FailsInOrder (alignN v n <|> s.me.fullChk) [(v % n ≠ 0, 9), (¬ Room s, 5)] :=
  (alignN_fails v n).seq (Ctx.fullChk_fails s)

theorem requestChk_none {s : State} {v n : Nat} (halign : v % n = 0) (hroom : Room s) : (alignN v n <|> s.me.fullChk) = none :=
  (requestChk_fails s v n).eq_none (by simp [halign, hroom])

theorem Ctx.fullChk_of_not_room {s : State} (h : ¬ Room s) : s.me.fullChk = some ⟨5, 0, 0⟩ := if_pos (not_lt.1 h)

/-- A part of O29: the requests, the scatters and the commands of the neighbour lists. -/
theorem gatherCommandEnters : GatherCommandEnters := by
  intro g a f p r s
  have hsacc : exec (.sacc a) s = s.qCommand a.g (alignN (s.me.sreg a.sb).toNat (if a.t = .d then 8 else 4))
      (.sacc (s.me.vreg a.vx) (s.me.vreg (a.vx + 1)) (s.me.sreg a.sb) a.t a.virt) a.prod none := by
    rw [← saSize_eq]
    rfl
  refine ⟨qIssue_of_qCommand rfl fun ⟨halign, hroom⟩ => requestChk_none halign hroom,
    qIssue_of_qCommand hsacc alignN_of_mod,
    qIssue_of_qCommand rfl fun ⟨halign, hroom⟩ => requestChk_none halign hroom,
    qIssue_of_qCommand rfl alignN_of_mod,
    qIssue_of_qCommand rfl fun _ => rfl,
    qIssue_of_qCommand rfl fun hroom => (Ctx.fullChk_fails s).eq_none (by simp [hroom]),
    qIssue_of_qCommand rfl alignN_of_mod,
    fun hgo hg hlen halign hroom => trapped_of_qCommand rfl ⟨hgo, hg, hlen⟩ ?_,
    fun hfree => checksTrap_of_qCommand rfl hfree (requestChk_fails s _ _),
    fun hfree => checksTrap_of_qCommand hsacc hfree (alignN_fails _ _),
    fun hfree => checksTrap_of_qCommand rfl hfree (requestChk_fails s _ _),
    fun hfree => ⟨checksTrap_of_qCommand rfl hfree (alignN_fails _ _), checksTrap_of_qCommand rfl hfree (alignN_fails _ _)⟩,
    fun hfree hroom => trapped_of_qCommand rfl hfree (Ctx.fullChk_of_not_room hroom)⟩
  rw [alignN_of_mod halign, Ctx.fullChk_of_not_room hroom]
  rfl

/-! ## Tasks and watches (R254, R260 to R263) -/

theorem spawnChk_fails (s : State) (d : Nat) (q : Word) :
    FailsInOrder (recIllop d false <|> recIllbnd d false <|> queueBits q <|> recAlign d <|> recAccv d <|> s.queueChk q.toNat)
      [(SpawnKind d ∨ RecordScope d, 1), (SpawnBits d q.toNat, 2), (RecordMisaligned d, 9),
        (RecordOutside d ∨ s.launchQueue s.cur.hw q.toNat = false, 8)] :=
  have hplace := (recAlign_fails d).seq ((recAccv_fails d).or (s.queueChk_fails q.toNat))
  (recIllop_record_fails d).seq
    (((recIllbnd_record_fails d).or ((queueBits_fails q).seq hplace)).congr (by simp [SpawnBits, or_assoc]))

theorem takeChk_fails (s : State) (q : Word) (a : Nat) :
    FailsInOrder (queueBits q <|> alignN a 64 <|> clusterRange a 64 <|>
        (if s.mayTake s.cur.hw q.toNat then none else some (accvOpen q.toNat)))
      [(0x200 ≤ q.toNat, 2), (a % 64 ≠ 0, 9), (0xC000000 < a + 64 ∨ s.mayTake s.cur.hw q.toNat = false, 8)] :=
  (queueBits_fails q).seq ((alignN_fails a 64).seq ((clusterRange_fails a 64).or
    (failsInOrder_unless.congr (Iff.of_eq (Bool.not_eq_true _)))))

/-- The checks of a WATCH whose second register would be s64 (R262). -/
theorem watchChk_single_fails (d : Nat) :
    FailsInOrder (recIllop d true <|> some ⟨2, 0, 0⟩) [(RecordScope d, 1), (True, 2)] :=
  (recIllop_template_fails d).seq ⟨fun _ => ⟨0, rfl⟩, fun h => absurd trivial h⟩

section

variable {r : Q2} (s : State)

theorem exec_watch_pair (h : r.t ≠ 63) : exec (.watch r) s =
    s.qCommand r.g (s.watchChk (s.me.sreg r.t).toNat (s.me.sreg (r.t + 1)).toNat (recOf (s.me.vreg r.r)) true)
      (.watch (s.me.sreg r.t).toNat (s.me.sreg (r.t + 1)).toNat (recOf (s.me.vreg r.r))) r.prod none := by
  simp [execWatch, h]

theorem exec_watch_single (h : r.t = 63) : exec (.watch r) s =
    s.qCommand r.g (recIllop (recOf (s.me.vreg r.r)) true <|> some ⟨2, 0, 0⟩)
      (.watch (s.me.sreg r.t).toNat 0 (recOf (s.me.vreg r.r))) r.prod none := by
  simp [execWatch, h]

end

/-- A part of O29: the commands of the task queues and of the watch table. -/
theorem taskCommandEnters : TaskCommandEnters := by
  intro p r s l hl d q e a w
  have hspawn := spawnChk_fails s d (s.me.sreg r.t)
  have htake := takeChk_fails s (s.me.sreg r.r) a
  have hwatch := State.watchChk_fails hl a w d
  have hunwatch := State.entryChk_fails hl e
  refine ⟨qIssue_of_qCommand rfl ?_, fun hfree => checksTrap_of_qCommand rfl hfree hspawn,
    qIssue_of_qCommand rfl ?_, fun hfree => checksTrap_of_qCommand rfl hfree htake,
    fun ht => qIssue_of_qCommand (exec_watch_pair s ht) ?_,
    fun hfree ht => checksTrap_of_qCommand (exec_watch_pair s ht) hfree hwatch,
    fun hfree ht => checksTrap_of_qCommand (exec_watch_single s ht) hfree (watchChk_single_fails d),
    qIssue_of_qCommand rfl fun hgiven => hunwatch.eq_none (by simpa using hgiven),
    fun hfree => checksTrap_of_qCommand rfl hfree hunwatch⟩
  · rintro ⟨hkind, hscope, hbits, halign, hrange, hqueue⟩
    exact hspawn.eq_none (by simp [hkind, hscope, hbits, halign, hrange, hqueue, q])
  · rintro ⟨hbits, halign, hrange, hmay⟩
    exact htake.eq_none (by simp [hbits, halign, hrange, hmay])
  · rintro ⟨hscope, hbits, halign, hplace⟩
    exact hwatch.eq_none (by simp [hscope, hbits, halign, hplace])

/-! ## Pops (R149, R150, R153, R164) -/

/-- The head entry has left the data queue, and its request the address queue if it retires. -/
def State.popped (s : State) (retire : Bool) : State := s.modCtx s.cur.hw (fun c => c.popEntry retire)

theorem State.popped_me (s : State) (retire : Bool) : (s.popped retire).me = s.me.popEntry retire :=
  State.modCtx_ctx_same _ _ _

theorem pend_popped (r : Res) (s : State) (retire : Bool) : r.pend (s.popped retire) = r.pend s := by
  rw [Res.pend, s.popped_me]
  rfl

theorem State.popped_give_pops (s : State) (retire : Bool) (r : Res) : Pops s ((s.popped retire).give r) [r] retire where
  ctx := ((s.popped retire).give_ctx r).trans (by rw [pend_popped, s.popped_me]; rfl)
  front := rfl
  cores := rfl
  acs := rfl
  rest :=
    { others := othersSame_modCtx (othersSame_modCtx (fun _ _ => rfl) _) _
      cores := fun _ _ => rfl
      mod := rfl, clusters := rfl, aux := rfl, agenda := rfl, oldBytes := rfl, shared := rfl
      hbm := rfl, host := rfl, spad := rfl, imem := rfl, lining := rfl, bias := rfl }

theorem State.popped_give_give_pops (s : State) (retire : Bool) (r q : Res) :
    Pops s (((s.popped retire).give r).give q) [r, q] retire where
  ctx := ((s.popped retire).give_give_ctx r q).trans (by rw [pend_popped, pend_popped, s.popped_me]; rfl)
  front := rfl
  cores := rfl
  acs := rfl
  rest :=
    { (s.popped_give_pops retire r).rest with
      others := othersSame_modCtx (s.popped_give_pops retire r).rest.others _ }

section

variable {i : Instr} {s : State} {c : Ctx} {g n : Nat} {pair : Bool} {e : DEntry} {r : List (Nat × Bool)} {d : List DEntry}
  {eff : State → State}

theorem Ctx.popChk_empty (ha : c.eng.addrQ = []) : c.popChk pair = some ⟨5, 0, 1⟩ := by rw [Ctx.popChk, ha]

theorem Ctx.popChk_other (ha : c.eng.addrQ = (n, !pair) :: r) : c.popChk pair = some ⟨5, 0, if pair then 3 else 2⟩ := by
  rw [Ctx.popChk, ha]
  exact if_neg (by simp)

theorem Ctx.popChk_same (ha : c.eng.addrQ = (n, pair) :: r) : c.popChk pair = none := by
  rw [Ctx.popChk, ha]
  exact if_pos rfl

theorem Ctx.popWait_of_chk {k : Chk} (h : c.popChk pair = some k) : c.popWait pair = none := by simp [Ctx.popWait, h]

theorem Ctx.popWait_data (hd : c.eng.dataQ = e :: d) : c.popWait pair = none := by
  simp [Ctx.popWait, hd]

theorem Ctx.popWait_empty (ha : c.eng.addrQ = (n, pair) :: r) (hd : c.eng.dataQ = []) : c.popWait pair = some .engine := by
  simp [Ctx.popWait, Ctx.popChk_same ha, hd]

/-- A pop of the right kind that finds its data has its effect. -/
theorem exec_of_pop (h : exec i s = s.perform none (s.me.guardN g) (s.me.popWait pair) (s.me.popChk pair) eff)
    (hg : s.me.guardN g = true) (ha : s.me.eng.addrQ = (n, pair) :: r) (hd : s.me.eng.dataQ = e :: d) :
    exec i s = .next (eff s) := by
  rw [h, hg]
  exact State.perform_on _ _ _ _ _ (.inr ⟨rfl, Ctx.popWait_data hd, Ctx.popChk_same ha⟩)

theorem popStops_of_perform (h : exec i s = s.perform none (s.me.guardN g) (s.me.popWait pair) (s.me.popChk pair) eff) :
    PopStops i s g pair (if pair then 3 else 2) := by
  have htrap {k : Chk} (hgo : s.cur.go = false) (hg : s.me.guardN g = true) (hk : s.me.popChk pair = some k) :
      exec i s = .next (trapped s (.chk k) k.code k.addr k.detail) := by
    rw [h, hg, Ctx.popWait_of_chk hk, hk]
    exact State.perform_chk _ _ _ hgo
  refine ⟨nullified_of_perform h, fun hgo hg => ⟨fun ha => htrap hgo hg (Ctx.popChk_empty ha),
    fun n r ha => htrap hgo hg (Ctx.popChk_other ha), fun n r ha hd => ?_⟩⟩
  rw [HeldBack, HeldBackFrom, h, hg, Ctx.popWait_empty ha hd]
  exact State.perform_engine _ _ _ hgo

end

theorem DEntry.info_eq (e : DEntry) : e.info = BitVec.ofNat 64 (e.count + (if e.last = true then 2 ^ 8 else 0) +
    (if e.stale = true then 2 ^ 9 else 0) + (if e.err = true then 2 ^ 10 else 0)) := by
  simp only [DEntry.info, Bool.toNat, cond_eq_ite, ite_mul, one_mul, zero_mul]

/-- A part of O29: GPOP and NLPOP. -/
theorem popResult : PopResult := by
  intro o p s
  refine ⟨fun n r e d hg ha hd => ⟨_, exec_of_pop (exec_gpop o s) hg ha hd, ?_⟩,
    fun n r e d hg ha hd => ⟨_, exec_of_pop (exec_nlpop p s) hg ha hd, ?_⟩,
    popStops_of_perform (exec_gpop o s), popStops_of_perform (exec_nlpop p s)⟩
  · simp only [hd]
    exact s.popped_give_pops true (vRes ..)
  · simp only [hd]
    rw [← e.info_eq]
    exact s.popped_give_give_pops e.last (vRes ..) (sRes ..)

/-- Settles O29, from its three parts. -/
theorem queueCommandEnters : Obligations.QueueCommandEnters := ⟨gatherCommandEnters, taskCommandEnters, popResult⟩

end Sys2Proof.Machine
end

section
/-!
SUPPORT. The instructions of the M slot: what consume tokens make of them, and what they leave elsewhere (R15, R180).
-/

namespace Sys2Proof.Machine

open Sys2Proof.Claims

/-! ## An instruction with consume tokens (R15, R180) -/

section

variable {i : Instr} {s : State} {cons : Nat} {chk : Option Chk} {eff : State → State}
  (h : exec i s = s.perform none true (s.consWait cons) chk eff)

include h

theorem exec_of_tokensZero (hcons : s.me.tokensZero cons = true) (hchk : chk = none) : exec i s = .next (eff s) :=
  h.trans (State.perform_on _ _ _ _ _ (.inr ⟨rfl, if_pos hcons, hchk⟩))

theorem heldBack_of_consume (hgo : s.cur.go = false) (hcons : s.me.tokensZero cons = false) : HeldBack i s := by
  rw [HeldBack, HeldBackFrom, h, State.consWait, if_neg (by simp [hcons])]
  exact State.perform_engine _ _ _ hgo

theorem trapped_of_tokensZero (hgo : s.cur.go = false) (hcons : s.me.tokensZero cons = true) {k : Chk} (hk : chk = some k) :
    exec i s = .next (trapped s (.chk k) k.code k.addr k.detail) := by
  rw [h, State.consWait, if_pos hcons, hk]
  exact State.perform_chk _ _ _ hgo

end

/-! ## What an M instruction leaves elsewhere -/

/-- `Elsewhere` speaks neither of the front end nor of the accumulator store. -/
theorem elsewhere_with_front_acs (s : State) (f : Front) (m : SMap Word32) :
    Elsewhere s { s with front := f, mem := { s.mem with acs := m } } where
  others := fun _ _ => rfl
  cores := fun _ _ => rfl
  mod := rfl
  clusters := rfl
  aux := rfl
  agenda := rfl
  oldBytes := rfl
  shared := rfl
  hbm := rfl
  host := rfl
  spad := rfl
  imem := rfl
  lining := rfl
  bias := rfl

theorem elsewhere_modCtx {s t : State} (h : Elsewhere s t) (f : Ctx → Ctx) : Elsewhere s (t.modCtx s.cur.hw f) :=
  { h with others := othersSame_modCtx h.others f }

theorem elsewhere_modCore {s t : State} (h : Elsewhere s t) (f : Core → Core) : Elsewhere s (t.modCore s.myCore f) :=
  { h with cores := fun k hk => (State.modCore_core_other t f hk).trans (h.cores k hk) }

/-- A job of the array has its number from the front end, enters its core, and changes the context that issues it. -/
theorem elsewhere_fresh_modCore_modCtx (s : State) (f : Core → Core) (g : Ctx → Ctx) :
    Elsewhere s ((s.fresh.2.modCore s.myCore f).modCtx s.cur.hw g) :=
  elsewhere_modCtx (elsewhere_modCore (elsewhere_with_front_acs s _ _) f) g

end Sys2Proof.Machine
end

section
/-!
PROOF. The products of the M slot at issue (R15, R16, R57, R170, R176, R180 to R183).
-/

namespace Sys2Proof.Machine

open Sys2Proof.Claims

/-! ## The checks of a product (R180) -/

theorem reducedFmt_iff (f : Nat) : reducedFmt f = true ↔ f = 3 ∨ f = 4 := by simp [reducedFmt]

section

variable {s : State} {p : Prod}

/-- With formats of one class a product is refused by the other three conditions of the model's test. -/
theorem formatsBad_iff_of_classOf {cl : PClass} (h : classOf p.spec.fa p.spec.fb = some cl) : FormatsBad s p ↔
    ((p.spec.kind.streams && decide (cl = .mx)) || (!s.mod.full && (reducedFmt p.spec.fa || reducedFmt p.spec.fb)) ||
      (decide (cl = .mx) && decide (p.spec.p % 32 ≠ 0))) = true := by
  simp only [FormatsBad, h, reduceCtorEq, false_or, Option.some.injEq, Bool.or_eq_true, Bool.and_eq_true, Bool.not_eq_true',
    decide_eq_true_eq, reducedFmt_iff, or_assoc]

theorem State.prodChk_of_formatsBad (h : FormatsBad s p) : s.prodChk p = some ⟨1, 0, 0⟩ := by
  cases hcl : classOf p.spec.fa p.spec.fb with
  | none => simp only [State.prodChk, hcl]
  | some cl =>
    simp only [State.prodChk, hcl]
    exact if_pos ((formatsBad_iff_of_classOf hcl).1 h)

/-- The checks that follow those of the formats. -/
theorem State.prodChk_of_not_formatsBad (h : ¬ FormatsBad s p) : s.prodChk p =
    if 65536 < p.spec.p then some ⟨2, 0, 0⟩
    else if p.spec.a % 64 ≠ 0 then some ⟨9, BitVec.ofNat 64 p.spec.a, 0⟩
    else if !p.spec.kind.streams && decide (p.spec.b % 64 ≠ 0) then some ⟨9, BitVec.ofNat 64 p.spec.b, 0⟩
    else s.portChk s.myCore p ((s.core s.myCore).prods.all p.clearOf) := by
  cases hcl : classOf p.spec.fa p.spec.fb with
  | none => exact absurd (.inl hcl) h
  | some cl =>
    simp only [State.prodChk, hcl]
    exact if_neg fun hbad => h ((formatsBad_iff_of_classOf hcl).2 hbad)

theorem State.prodChk_aligned (h : ¬ FormatsBad s p) (hp : p.spec.p ≤ 65536) (ha : p.spec.a % 64 = 0)
    (hb : p.spec.kind.streams = true ∨ p.spec.b % 64 = 0) :
    s.prodChk p = s.portChk s.myCore p ((s.core s.myCore).prods.all p.clearOf) := by
  have hside : ¬ (!p.spec.kind.streams && decide (p.spec.b % 64 ≠ 0)) = true := by
    rcases hb with hb | hb <;> simp [hb]
  rw [State.prodChk_of_not_formatsBad h, if_neg (Nat.not_lt.2 hp), if_neg (not_not_intro ha), if_neg hside]

end

/-! ## A product enters the array (R16, R170) -/

theorem State.startProd_entered (s : State) (p : Prod) : Entered2 s (s.startProd p) p where
  ctx := State.modCtx_ctx_same _ _ _
  core := by
    rw [State.startProd, State.modCtx_core, State.modCore_core_same]
    rfl
  front := rfl
  acs := rfl
  rest := by
    rw [State.startProd]
    exact elsewhere_fresh_modCore_modCtx s _ _

/-- An instruction that is a product enters it, waits for its tokens, or traps by its checks. -/
theorem productIssue_of_product {i : Instr} {s : State} {p : Prod} {cons : Nat} (h : exec i s = s.product cons p) :
    ProductIssue i s p cons := by
  refine ⟨fun hcons hf hp ha hb hport => ⟨_, exec_of_tokensZero h hcons ?_, s.startProd_entered p⟩, heldBack_of_consume h,
    fun hgo hcons => ⟨fun hf => ?_, fun hf hp => ?_, fun hf hp ha => ?_⟩⟩
  · rw [State.prodChk_aligned hf hp ha hb, hport]
  · exact trapped_of_tokensZero h hgo hcons (State.prodChk_of_formatsBad hf)
  · exact trapped_of_tokensZero h hgo hcons ((State.prodChk_of_not_formatsBad hf).trans (if_pos hp))
  · exact trapped_of_tokensZero h hgo hcons
      ((State.prodChk_of_not_formatsBad hf).trans ((if_neg (Nat.not_lt.2 hp)).trans (if_pos ha)))

/-- The product that the model forms at issue is the one of the statement. -/
theorem State.prodOf_eq_newProduct (s : State) (kind : PKind) (tile a b k zone tok pa pb sel : Nat) :
    s.prodOf kind tile a b k zone tok pa pb sel =
      newProduct s kind tile zone tok pa pb sel (s.me.sreg a) (s.me.sreg b) (s.me.sreg k) := rfl

/-- Settles O25: each of the five instructions is one product, under the shared checks. -/
theorem productIssueResult : Obligations.ProductIssueResult := by
  intro o m sel s
  simp only [← State.prodOf_eq_newProduct]
  exact ⟨productIssue_of_product rfl, productIssue_of_product rfl, productIssue_of_product rfl, productIssue_of_product rfl,
    productIssue_of_product rfl⟩

end Sys2Proof.Machine
end

section
/-!
PROOF. The accesses of the M slot to the tiles: MZERO, MWRV, MRDV, MRDS and MWRS (R15, R180, R184 to R189).
-/

namespace Sys2Proof.Machine

open Sys2Proof.Claims

/-! ## Writes of a zone of a tile (R184, R185) -/

theorem State.acsWriteAll_eq_with_acs {α : Type} (s : State) (core tile : Nat) (row col : α → Nat) (v : α → Word32)
    (l : List α) : ∃ m, s.acsWriteAll core tile row col v l = { s with mem := { s.mem with acs := m } } := by
  induction l generalizing s with
  | nil => exact ⟨_, rfl⟩
  | cons x l ih => exact ih (s.acsWrite core tile (row x) (col x) (v x))

section

variable (s : State) (tile : Nat) (z : Zone) (v : Nat → Nat → Word32)

/-- The elements of the zone are written in the order of its cells. -/
theorem State.acsZone_mem : (s.acsZone tile z v).mem =
    (s.acsWriteAll s.myCore tile (fun x => z.row0 + x.1) (fun x => z.col0 + x.2) (fun x => v x.1 x.2) z.cells).mem :=
  State.charge_mem _ _ _ _

/-- An element of the zone takes its value, when no other element of the zone that has another value lies in its place. -/
theorem State.acsZone_same {i j : Nat} (hi : i < z.rows) (hj : j < z.cols)
    (hinj : ∀ k l, k < z.rows → l < z.cols →
      tileKey s.myCore tile (z.row0 + k) (z.col0 + l) = tileKey s.myCore tile (z.row0 + i) (z.col0 + j) → v k l = v i j) :
    SMap.getD (s.acsZone tile z v).mem.acs (tileKey s.myCore tile (z.row0 + i) (z.col0 + j)) 0 = v i j := by
  rw [State.acsZone_mem]
  refine State.acsWriteAll_same (x := (i, j)) (Zone.mem_cells.2 ⟨hi, hj⟩) (fun y hy => ?_) s
  obtain ⟨hk, hl⟩ := Zone.mem_cells.1 hy
  exact hinj y.1 y.2 hk hl

theorem State.acsZone_other {n : Nat}
    (h : ∀ i j, i < z.rows → j < z.cols → n ≠ tileKey s.myCore tile (z.row0 + i) (z.col0 + j)) :
    SMap.getD (s.acsZone tile z v).mem.acs n 0 = SMap.getD s.mem.acs n 0 := by
  rw [State.acsZone_mem]
  refine State.acsWriteAll_other (fun x hx => ?_) s
  obtain ⟨hi, hj⟩ := Zone.mem_cells.1 hx
  exact h x.1 x.2 hi hj

/-- Beside the elements of the zone, the energy of its rows is counted and the cycle remembers the write. -/
theorem State.acsZone_frame :
    (s.acsZone tile z v).ctx s.cur.hw = { s.me with energy := charged s 9 z.rows } ∧ (s.acsZone tile z v).front = s.front ∧
    (s.acsZone tile z v).core s.myCore = { s.core s.myCore with acsNow := (tile, z) :: (s.core s.myCore).acsNow } ∧
    Elsewhere s (s.acsZone tile z v) := by
  obtain ⟨m, hm⟩ := s.acsWriteAll_eq_with_acs s.myCore tile (fun x => z.row0 + x.1) (fun x => z.col0 + x.2)
    (fun x => v x.1 x.2) z.cells
  have hzone : s.acsZone tile z v = (({ s with mem := { s.mem with acs := m } } : State).modCore s.myCore
      (fun k => { k with acsNow := (tile, z) :: k.acsNow })).charge s.cur.hw 9 z.rows := by
    rw [← hm]
    rfl
  rw [hzone]
  refine ⟨State.charge_ctx_same _ _ _ _, State.charge_front _ _ _ _, ?_,
    elsewhere_charge (elsewhere_modCore (elsewhere_with_front_acs s _ m) _) 9 z.rows⟩
  rw [State.charge_core, State.modCore_core_same]
  rfl

end

/-! ## MZERO, MWRV and MRDV (R186, R187) -/

theorem rowChk_of_le {m : Mod} {q : Word} (h : q.toNat + 2 ≤ m.rows) : rowChk m q = none := if_neg (Nat.not_lt.2 h)
theorem rowChk_of_lt {m : Mod} {q : Word} (h : m.rows < q.toNat + 2) : rowChk m q = some ⟨2, 0, 0⟩ := if_pos h

/-- A tile row has 64 elements, so that two elements of a tile's rows lie in two places. -/
theorem tileKey_inj {core tile r c q d : Nat} (hc : c < 64) (hd : d < 64) (h : tileKey core tile r c = tileKey core tile q d) :
    r = q ∧ c = d := by
  unfold tileKey at h
  omega

theorem exec_mzero_eq_perform (o : MZ) (s : State) : exec (.mzero o) s =
    s.perform none true (s.consWait o.cons) none (fun s => s.acsZone o.tile (s.me.zone o.zone) (fun _ _ => 0)) := rfl

/-- Two tile rows of a vector register's elements. -/
def rowsOf (v : VReg) (h c : Nat) : Word32 := BitVec.ofNat 32 (elem v.toNat 4 (64 * h + c))

theorem exec_mwrv_eq_perform (v : MV) (s : State) : exec (.mwrv v) s =
    s.perform none true (s.consWait v.cons) (rowChk s.mod (s.me.sreg v.row))
      (fun s => s.acsZone v.tile ⟨(s.me.sreg v.row).toNat, 0, 2, 64⟩ (rowsOf (s.me.vreg v.v))) := rfl

/-- The effect of an MRDV. -/
def State.readRows (s : State) (v : MV) : State :=
  let q := (s.me.sreg v.row).toNat
  let p : Pend := ⟨.v v.v, BitVec.allOnes 512, s.mrdvValue s.myCore v.tile q, 0, s.me.run.sched + 4,
    (s.core s.myCore).arr + 4, s.cur.bundle, some (v.tile, q), v.prod, 0⟩
  (s.modCtx s.cur.hw (fun c => ({ c with pend := { c.pend with val := c.pend.val ++ [p] } } : Ctx).tokUp v.prod)).charge
    s.cur.hw 9 2

theorem exec_mrdv_eq_perform (v : MV) (s : State) : exec (.mrdv v) s =
    s.perform none true (s.consWait v.cons) (rowChk s.mod (s.me.sreg v.row)) (fun s => s.readRows v) := rfl

/-- A part of O26: the writes of MZERO and MWRV, and what holds them back or traps them. -/
theorem tileWriteResult : TileWriteResult := by
  intro o v s
  have hmzero := exec_mzero_eq_perform o s
  have hmwrv := exec_mwrv_eq_perform v s
  have hmrdv := exec_mrdv_eq_perform v s
  refine ⟨fun hcons => ⟨_, exec_of_tokensZero hmzero hcons rfl, fun i j hi hj => ?_, fun n hn => ?_,
      State.acsZone_frame ..⟩,
    fun hcons hrow => ⟨_, exec_of_tokensZero hmwrv hcons (rowChk_of_le hrow), fun h c hh hc => ?_, fun n hn => ?_,
      State.acsZone_frame ..⟩,
    fun hgo hcons hrow => ⟨trapped_of_tokensZero hmwrv hgo hcons (rowChk_of_lt hrow),
      trapped_of_tokensZero hmrdv hgo hcons (rowChk_of_lt hrow)⟩,
    heldBack_of_consume hmzero, fun hgo hcons => ⟨heldBack_of_consume hmwrv hgo hcons, heldBack_of_consume hmrdv hgo hcons⟩⟩
  · exact State.acsZone_same _ _ _ _ hi hj fun _ _ _ _ _ => rfl
  · exact State.acsZone_other _ _ _ _ hn
  · have hw := s.acsZone_same v.tile ⟨(s.me.sreg v.row).toNat, 0, 2, 64⟩ (rowsOf (s.me.vreg v.v)) hh hc
      fun k l _ hl he => by
        obtain ⟨hk, hl⟩ := tileKey_inj (by simpa using hl) (by simpa using hc) he
        rw [Nat.add_left_cancel hk, Nat.add_left_cancel hl]
    simpa only [Nat.zero_add, rowsOf] using hw
  · exact State.acsZone_other _ _ _ _ fun h c hh hc => by simpa only [Nat.zero_add] using hn h c hh hc

/-- The elements of the two rows that an MRDV reads. -/
theorem State.elem_mrdvValue (s : State) (core tile q : Nat) {h c : Nat} (hh : h < 2) (hc : c < 64) :
    elem (s.mrdvValue core tile q).toNat 4 (64 * h + c) = (SMap.getD s.mem.acs (tileKey core tile (q + h) c) 0).toNat := by
  have hrow : (64 * h + c) / 64 = h := by omega
  have hcol : (64 * h + c) % 64 = c := by omega
  rw [State.mrdvValue, elem_ofNat_assemble 4 128 _ (fun e _ => (s.acsRead core tile (q + e / 64) (e % 64)).isLt) (by decide) _
    (by omega), hrow, hcol]
  rfl

/-- A part of O26: MRDV. -/
theorem tileReadResult : TileReadResult := by
  intro v s hcons hrow
  refine ⟨_, exec_of_tokensZero (exec_mrdv_eq_perform v s) hcons (rowChk_of_le hrow),
    s.mrdvValue s.myCore v.tile (s.me.sreg v.row).toNat, fun h c hh hc => s.elem_mrdvValue _ _ _ hh hc, ?_,
    State.charge_front _ _ _ _, State.charge_cores _ _ _ _, congrArg Mem.acs (State.charge_mem _ _ _ _),
    elsewhere_charge (elsewhere_modCtx (elsewhere_with_front_acs s _ _) _) 9 2⟩
  rw [State.readRows, State.charge_ctx_same, State.modCtx_ctx_same]
  rfl

/-! ## MRDS and MWRS (R188, R189) -/

theorem State.startXfer_transfers (s : State) (write : Bool) (o : MX) :
    Transfers s (s.startXfer (s.xferOf write o)) write o where
  ctx := State.modCtx_ctx_same _ _ _
  core := by
    rw [State.startXfer, State.modCtx_core, State.modCore_core_same]
    rfl
  front := rfl
  acs := rfl
  rest := by
    rw [State.startXfer]
    exact elsewhere_fresh_modCore_modCtx s _ _

theorem State.xferChk_none {s : State} {x : Xfer} (hu : x.u.isMx = false ∨ x.zone.cols % 32 = 0) (ha : x.addr.toNat % 64 = 0)
    (hx : xferConflict (s.core s.myCore).xfers x (x.issue + 1) x.zone.rows = none) : s.xferChk x = none := by
  have hblocks : ¬ (x.u.isMx && decide (x.zone.cols % 32 ≠ 0)) = true := by
    rcases hu with hu | hu <;> simp [hu]
  rw [State.xferChk, if_neg hblocks, if_neg (not_not_intro ha), hx]
  rfl

theorem State.xferChk_of_cutBlocks {s : State} {x : Xfer} (hu : x.u.isMx = true) (hz : x.zone.cols % 32 ≠ 0) :
    s.xferChk x = some ⟨1, 0, 0⟩ := if_pos (by simp [hu, hz])

theorem transferIssue_of_transfer {i : Instr} {s : State} {write : Bool} {o : MX} (h : exec i s = s.transfer write o) :
    TransferIssue i s write o :=
  ⟨fun hcons hu ha hx => ⟨_, exec_of_tokensZero h hcons (State.xferChk_none hu ha hx), s.startXfer_transfers write o⟩,
    heldBack_of_consume h,
    fun hgo hcons hu hz => trapped_of_tokensZero h hgo hcons (State.xferChk_of_cutBlocks hu hz)⟩

/-- A part of O26: MRDS and MWRS. -/
theorem tileTransferStarts : TileTransferStarts := fun _ _ => ⟨transferIssue_of_transfer rfl, transferIssue_of_transfer rfl⟩

/-- Settles O26, from its three parts. -/
theorem tileAccessResult : Obligations.TileAccessResult := ⟨tileWriteResult, tileReadResult, tileTransferStarts⟩

end Sys2Proof.Machine
end

section
/-!
PROOF. The branches of the B slot: conditional branches, loops, jumps, calls and returns (R191 to R200).
-/

namespace Sys2Proof.Machine

open Sys2Proof.Claims

/-! ## A branch commits (R192) -/

theorem State.branchTo_ctx (s : State) (taken drain : Bool) {target : Nat} (h : target < 2 ^ 32) :
    (s.branchTo taken drain target).ctx s.cur.hw =
      { s.me with frame := { s.me.frame with br := ⟨1, taken, drain, target⟩ } } := by
  rw [State.branchTo, State.modCtx_ctx_same, Nat.mod_eq_of_lt h]
  rfl

theorem State.branchTo_othersSame (s : State) (taken drain : Bool) (target : Nat) :
    OthersSame s (s.branchTo taken drain target) := othersSame_modCtx (fun _ _ => rfl) _

theorem State.branchTo_branches (s : State) (taken drain : Bool) {target : Nat} (h : target < 2 ^ 32) :
    Branches s (s.branchTo taken drain target) taken drain target [] := by
  constructor
  case others => exact s.branchTo_othersSame taken drain target
  case rest => exact restSame_modCtx (restSame_refl s) _ _
  case mem => exact memSame_of_eq rfl
  all_goals rw [s.branchTo_ctx taken drain h]
  case results => rw [List.map_nil, List.append_nil]
  case regs => exact ⟨rfl, rfl, rfl, rfl⟩

/-- The entry of a result speaks of the cursor, the cycles and the core, which a branch leaves as they are. -/
theorem pend_branchTo (r : Res) (s : State) (taken drain : Bool) (target : Nat) :
    r.pend (s.branchTo taken drain target) = r.pend s := by
  have hrun : (s.branchTo taken drain target).me.run = s.me.run := by
    rw [State.branchTo, State.modCtx_me]
  rw [Res.pend, hrun]
  rfl

/-- A branch that gives a result leaves it pending beside the earlier ones (R199, R200). -/
theorem State.branchTo_give_branches (s : State) (taken drain : Bool) {target : Nat} (h : target < 2 ^ 32) (r : Res) :
    Branches s ((s.branchTo taken drain target).give r) taken drain target [r] := by
  have hctx : ((s.branchTo taken drain target).give r).ctx s.cur.hw = { s.me with
      frame := { s.me.frame with br := ⟨1, taken, drain, target⟩ }
      pend := { s.me.pend with val := s.me.pend.val ++ [r.pend s] } } := by
    have hme : (s.branchTo taken drain target).me = _ := s.branchTo_ctx taken drain h
    have hgive := (s.branchTo taken drain target).give_ctx r
    rwa [pend_branchTo, hme] at hgive
  constructor
  case others => exact othersSame_modCtx (s.branchTo_othersSame taken drain target) _
  case rest => exact ⟨rfl, rfl, rfl, rfl, rfl, rfl, rfl, rfl⟩
  case mem => exact memSame_of_eq rfl
  all_goals rw [hctx]
  case results => rfl
  case regs => exact ⟨rfl, rfl, rfl, rfl⟩

theorem nbTarget_lt (s : State) (disp : Int) : nbTarget s disp < 2 ^ 32 := by
  unfold nbTarget
  omega

/-! ## Delay bundles and other checks of the B slot (R194, R198) -/

theorem Ctx.delayChk_of_free {c : Ctx} (h : c.frame.br.st = 0) : c.delayChk = none := if_pos h
theorem Ctx.delayChk_of_delay {c : Ctx} (h : c.frame.br.st ≠ 0) : c.delayChk = some ⟨2, 0, 0⟩ := if_neg h

/-- A delay bundle comes before whatever else the mode has against the instruction. -/
theorem Ctx.delayChk_orElse_of_delay {c : Ctx} (h : c.frame.br.st ≠ 0) (mode : Option Chk) :
    (c.delayChk <|> mode) = some ⟨2, 0, 0⟩ := by
  rw [Ctx.delayChk_of_delay h]
  rfl

section

variable {i : Instr} {s : State} {mode chk : Option Chk} {wait : Option Wait} {eff : State → State}

theorem inDelay_of_mode (h : exec i s = s.perform mode true wait chk eff) (hgo : s.cur.go = false)
    (hmode : mode = some ⟨2, 0, 0⟩) : InDelay i s := by
  rw [InDelay, h, hmode, State.perform_mode _ _ _ _ _ _ hgo]
  rfl

variable (h : exec i s = s.perform s.me.delayChk true none chk eff)

include h

theorem inDelay_of_delayChk (hgo : s.cur.go = false) (hbr : s.me.frame.br.st ≠ 0) : InDelay i s :=
  inDelay_of_mode h hgo (Ctx.delayChk_of_delay hbr)

theorem exec_of_free (hbr : s.me.frame.br.st = 0) (hchk : chk = none) : exec i s = .next (eff s) := by
  rw [h, State.perform_on _ _ _ _ _ (.inr ⟨Ctx.delayChk_of_free hbr, rfl, hchk⟩)]

theorem trapped_of_free {k : Chk} (hgo : s.cur.go = false) (hbr : s.me.frame.br.st = 0) (hchk : chk = some k) :
    exec i s = .next (trapped s (.chk k) k.code k.addr k.detail) := by
  rw [h, Ctx.delayChk_of_free hbr, hchk, State.perform_chk _ _ _ hgo]
  rfl

end

/-! ## Branches of format N-B without an issue check (R197, R198, R200) -/

section

variable {i : Instr} {s : State} {taken drain : Bool} {target : Nat} {disp : Int} {rs : List Res}

theorem branch1_of_perform {eff : State → State} (h : exec i s = s.perform s.me.delayChk true none none eff)
    (heff : Branches s (eff s) taken drain target rs) : Branch1 i s taken drain target rs :=
  ⟨fun hbr => ⟨_, exec_of_free h hbr rfl, heff⟩, inDelay_of_delayChk h⟩

theorem branch1_of_brWhen {test : Ctx → Bool} (h : exec i s = brWhen drain disp test s) (ht : test s.me = taken) :
    Branch1 i s taken drain (nbTarget s disp) [] :=
  branch1_of_perform h (ht ▸ s.branchTo_branches _ _ (nbTarget_lt s disp))

end

/-- LOOPB is taken while its counter is above 1, and writes it unless it is zero (R200). -/
theorem loopb_branch (o : NBr) (s : State) :
    Branch1 (.loopb o) s (decide (1 < (s.me.sreg o.r).toNat)) o.drain (nbTarget s o.disp)
      (if s.me.sreg o.r = 0 then [] else [sRes o.r (s.me.sreg o.r - 1) 0 1]) := by
  refine branch1_of_perform (exec_loopb o s) ?_
  dsimp only
  split
  · exact s.branchTo_branches _ _ (nbTarget_lt s o.disp)
  · exact s.branchTo_give_branches _ _ (nbTarget_lt s o.disp) (sRes o.r (s.me.sreg o.r - 1) 0 1)

/-- A part of O9: BR, BRC, JMP and LOOPB. -/
theorem branchTaken : BranchTaken := fun o p q s =>
  ⟨branch1_of_brWhen (exec_brEqz o s) rfl, branch1_of_brWhen (exec_brNez o s) rfl, branch1_of_brWhen (exec_brLtz o s) rfl,
    branch1_of_brWhen (exec_brGez o s) rfl, branch1_of_brWhen (exec_brGtz o s) rfl, branch1_of_brWhen (exec_brLez o s) rfl,
    branch1_of_brWhen (exec_brc p s) (by cases p.neg <;> simp), branch1_of_brWhen (exec_jmp q s) rfl, loopb_branch o s⟩

/-! ## Branches on a whole predicate (R14, R197) -/

theorem preg_eq_allOnes {v : PReg} (h : ∀ k, k < 512 → v.getLsbD k = true) : v = BitVec.allOnes 512 :=
  BitVec.eq_of_getLsbD_eq fun k hk => by rw [h k hk, BitVec.getLsbD_allOnes, decide_eq_true hk]

theorem preg_eq_zero {v : PReg} (h : ∀ k, k < 512 → v.getLsbD k = false) : v = 0 :=
  BitVec.eq_of_getLsbD_eq fun k hk => by rw [h k hk, BitVec.ofNat_eq_ofNat, BitVec.getLsbD_zero]

theorem preg_zero_ne_allOnes : (0 : PReg) ≠ BitVec.allOnes 512 := by
  intro h
  have hbit := congrArg (fun v : PReg => v.getLsbD 0) h
  simp at hbit

/-- A predicate with a set bit and a clear one is not uniform. -/
theorem nunif_of_mixed {v : PReg} {j k : Nat} (hk : k < 512) (hset : v.getLsbD j = true) (hclear : v.getLsbD k = false) :
    nunif v = some ⟨4, 0, 0⟩ := by
  refine if_neg ?_
  rintro (rfl | rfl)
  · rw [BitVec.ofNat_eq_ofNat, BitVec.getLsbD_zero] at hset
    exact Bool.false_ne_true hset
  · rw [BitVec.getLsbD_allOnes, decide_eq_true hk] at hclear
    exact Bool.noConfusion hclear

section

variable {i : Instr} {s : State} {o : NBr} {want : PReg} (h : exec i s = brpWhen o want s) (hbr : s.me.frame.br.st = 0)

include h hbr

theorem branches_of_uniform {v : PReg} {taken : Bool} (hv : s.me.preg o.r = v) (hu : v = 0 ∨ v = BitVec.allOnes 512)
    (ht : decide (v = want) = taken) : Answers i s (fun t => Branches s t taken o.drain (nbTarget s o.disp) []) := by
  subst hv ht
  exact ⟨_, exec_of_free h hbr (if_pos hu), s.branchTo_branches _ _ (nbTarget_lt s o.disp)⟩

theorem trapped_of_mixed (hgo : s.cur.go = false) {j k : Nat} (hk : k < 512) (hset : (s.me.preg o.r).getLsbD j = true)
    (hclear : (s.me.preg o.r).getLsbD k = false) : exec i s = .next (trapped s (.chk ⟨4, 0, 0⟩) 4 0 0) :=
  trapped_of_free h hgo hbr (nunif_of_mixed hk hset hclear)

end

/-- A part of O9: BRP.all and BRP.none. -/
theorem uniformBranch : UniformBranch := by
  intro o s
  have hall : exec (.brpAll o) s = brpWhen o (BitVec.allOnes 512) s := exec_brpAll o s
  have hnone : exec (.brpNone o) s = brpWhen o 0 s := exec_brpNone o s
  refine ⟨fun hgo hbr => ⟨inDelay_of_delayChk hall hgo hbr, inDelay_of_delayChk hnone hgo hbr⟩,
    fun hbr => ⟨fun hset => ?_, fun hclear => ?_, fun hgo hmixed => ?_⟩⟩
  · have hv := preg_eq_allOnes hset
    exact ⟨branches_of_uniform hall hbr hv (.inr rfl) (decide_eq_true rfl),
      branches_of_uniform hnone hbr hv (.inr rfl) (decide_eq_false preg_zero_ne_allOnes.symm)⟩
  · have hv := preg_eq_zero hclear
    exact ⟨branches_of_uniform hall hbr hv (.inl rfl) (decide_eq_false preg_zero_ne_allOnes),
      branches_of_uniform hnone hbr hv (.inl rfl) (decide_eq_true rfl)⟩
  · obtain ⟨j, k, -, hk, hset, hclear⟩ := hmixed
    exact ⟨trapped_of_mixed hall hbr hgo hk hset hclear, trapped_of_mixed hnone hbr hgo hk hset hclear⟩

/-- Settles O9, from its two parts. -/
theorem branchResult : Obligations.BranchResult := ⟨branchTaken, uniformBranch⟩

/-! ## Branches through a register (R198, R199) -/

/-- The low two bits of a word are those of its low 32 bits. -/
theorem targetOf_mod_four (v : Word) : targetOf v % 4 = v.toNat % 4 := Nat.mod_mod_of_dvd _ (by decide)

theorem targetOf_lt (v : Word) : targetOf v < 2 ^ 32 := Nat.mod_lt _ (by decide)

theorem targetChk_none {on : Bool} {v : Word} (h : on = false ∨ v.toNat % 4 = 0) : targetChk on v = none := by
  rw [targetChk, targetOf_mod_four]
  rcases h with h | h <;> simp [h]

theorem targetChk_some {v : Word} (h : v.toNat % 4 ≠ 0) :
    targetChk true v = some ⟨9, BitVec.ofNat 64 (v.toNat % 2 ^ 32), 0⟩ := by
  rw [targetChk, targetOf_mod_four, decide_eq_true h]
  rfl

/-- A branch whose only issue check is that of its target. -/
theorem branch2_of_perform {i : Instr} {s : State} {on drain : Bool} {v : Word} {eff : State → State}
    (h : exec i s = s.perform s.me.delayChk true none (targetChk on v) eff) (heff : eff s = s.branchTo on drain (targetOf v)) :
    Branch2 i s on drain v := by
  refine ⟨inDelay_of_delayChk h, fun hbr => ⟨fun hok => ⟨_, exec_of_free h hbr (targetChk_none hok), ?_⟩,
    fun hgo hon hbad => trapped_of_free h hgo hbr (hon ▸ targetChk_some hbad)⟩⟩
  rw [heff]
  exact s.branchTo_branches _ _ (targetOf_lt v)

/-- A part of O10: JMPI and RET. -/
theorem registerBranchResult : RegisterBranchResult := fun o s =>
  ⟨branch2_of_perform (exec_jmpi o s) rfl, branch2_of_perform (exec_ret o s) rfl⟩

/-! ## Calls (R32, R199) -/

/-- What a call does: it branches, and a call whose guard holds leaves its return address pending for lk. -/
def State.callTo (s : State) (on drain : Bool) (target : Nat) : State :=
  if on = true then (s.branchTo on drain target).give (sRes 62 s.returnAddr 0 1) else s.branchTo on drain target

theorem State.callTo_branches (s : State) (on drain : Bool) {target : Nat} (h : target < 2 ^ 32) :
    Branches s (s.callTo on drain target) on drain target (if on = true then [sRes 62 s.returnAddr 0 1] else []) := by
  cases on with
  | false => exact s.branchTo_branches _ _ h
  | true => exact s.branchTo_give_branches _ _ h _

section

variable {s : State} {b : Bundle} (hb : s.bundleAt s.cur.hw s.cur.bundle = .ok b)

include hb

theorem State.callMode_of_fetched : s.callMode = none := by rw [State.callMode, hb]
theorem State.callWait_of_fetched : s.callWait = none := by rw [State.callWait, hb]
theorem State.returnAddr_of_fetched : s.returnAddr = BitVec.ofNat 64 b.ret := by rw [State.returnAddr, hb]

variable {i : Instr} {on drain : Bool} {target : Nat} {chk : Option Chk} {eff : State → State}

/-- A call whose bundle and delay bundles are fetched is a branch with its own issue check. -/
theorem exec_of_fetched (h : exec i s = s.perform (s.me.delayChk <|> s.callMode) true s.callWait chk eff) :
    exec i s = s.perform s.me.delayChk true none chk eff := by
  rw [h, State.callMode_of_fetched hb, State.callWait_of_fetched hb, Option.orElse_eq_orElse, Option.orElse_eq_or, Option.or_none]

theorem branches_of_call (h : exec i s = s.perform (s.me.delayChk <|> s.callMode) true s.callWait chk eff)
    (hbr : s.me.frame.br.st = 0) (hchk : chk = none) (heff : eff s = s.callTo on drain target) (ht : target < 2 ^ 32) :
    Answers i s (fun t => Branches s t on drain target (if on = true then [sRes 62 (BitVec.ofNat 64 b.ret) 0 1] else [])) := by
  refine ⟨_, exec_of_free (exec_of_fetched hb h) hbr hchk, ?_⟩
  rw [heff, ← State.returnAddr_of_fetched hb]
  exact s.callTo_branches on drain ht

end

/-- A part of O10: CALL and CALLI. -/
theorem callResult : CallResult := by
  intro o p s b
  have hcall := exec_call o s
  have hcalli := exec_calli p s
  refine ⟨fun hgo hbr => ⟨inDelay_of_mode hcall hgo (Ctx.delayChk_orElse_of_delay hbr _),
      inDelay_of_mode hcalli hgo (Ctx.delayChk_orElse_of_delay hbr _)⟩,
    fun hb hbr => ⟨?_, fun hok => ?_, fun hgo hon hbad => ?_⟩⟩
  · exact branches_of_call hb hcall hbr rfl rfl (nbTarget_lt s o.disp)
  · exact branches_of_call hb hcalli hbr (targetChk_none hok) rfl (targetOf_lt _)
  · exact trapped_of_free (exec_of_fetched hb hcalli) hgo hbr (hon ▸ targetChk_some hbad)

/-- Settles O10, from its two parts. -/
theorem registerBranchCall : Obligations.RegisterBranchCall := ⟨registerBranchResult, callResult⟩

end Sys2Proof.Machine
end



section
/-!
PROOF. Debug stops, run and step (R336 to R339).
-/

namespace Sys2Proof.Machine

open Sys2Proof.Claims

/-! ## Windows of the host's side (R363) -/

section

variable {s : State} {f : State → State}

theorem State.ifOpen_shut (h : s.mod.trust.fwOk = false) : s.ifOpen f = s := if_neg (by simp [h])
theorem State.ifOpen_open (h : s.mod.trust.fwOk = true) : s.ifOpen f = f s := if_pos h

end

/-! ## Debug stops (R337) -/

section

variable {s : State} {hw : Nat}

/-- A context that is not traced stops: its cause and state are noted, and its core is held. -/
theorem State.debugStop_stops (htrace : (s.ctx hw).dbg.trace = 0) (st why : Nat) : DebugStops s (s.debugStop hw st why) hw st why := by
  rw [State.debugStop, State.trace_untraced (by rw [State.modCore_ctx, State.modCtx_ctx_same]; exact htrace)]
  exact ⟨by simp, by simp, fun k hk => by simp [hk], rfl, rfl⟩

/-- What leaves a debug stop with a change of its context alone. -/
theorem State.debugRelease_goes {f : Ctx → Ctx} {step : Option (Nat × Nat)}
    (hf : f (s.ctx hw) = { s.ctx hw with dbg := { (s.ctx hw).dbg with st := 0, skip := some (s.ctx hw).frame.pos, step := step } }) :
    DebugGoes s ((s.modCtx hw f).debugRelease hw) hw step := by
  refine ⟨?_, ?_, fun k hk => ?_, rfl, rfl⟩
  · rw [State.debugRelease, State.modCore_ctx, State.modCtx_ctx_same, hf]
  · rw [State.debugRelease, State.modCore_core_same, State.modCtx_core]
  · rw [State.debugRelease, State.modCore_ctx, State.modCtx_ctx_other _ _ hk]

theorem State.debugBreak_of_due {why : Nat} (hready : (s.ctx hw).run.st = .ready) (hdue : s.stopDue hw = some why) :
    s.debugBreak hw = s.debugStop hw 1 why := by
  rw [State.debugBreak, hdue]
  exact if_pos hready

theorem State.debugBreak_of_none (hdue : s.stopDue hw = none) : s.debugBreak hw = s := by
  rw [State.debugBreak, hdue]

/-! ## When a stop is due (R336, R337) -/

theorem State.stopDue_of_request (hst : (s.ctx hw).dbg.st = 0) (hreq : (s.ctx hw).dbg.stopreq = true) : s.stopDue hw = some 1 := by
  simp [State.stopDue, hst, hreq]

theorem State.stopDue_of_bit {hdr : Nat} (hst : (s.ctx hw).dbg.st = 0) (hreq : (s.ctx hw).dbg.stopreq = false)
    (hskip : (s.ctx hw).dbg.skip ≠ some (s.ctx hw).frame.pos) (hbken : (s.ctx hw).dbg.bken = true) (hrep : (s.ctx hw).frame.rep = 0)
    (hhead : s.headAt hw (s.ctx hw).frame.pos = .ok hdr) (hbit : fld hdr 15 1 = 1) : s.stopDue hw = some 0 := by
  simp [State.stopDue, hst, hreq, hskip, hbken, hrep, hhead, hdrDebug, hbit]

theorem State.stopDue_none (hreq : (s.ctx hw).dbg.stopreq = false)
    (h : (s.ctx hw).dbg.bken = false ∨ (s.ctx hw).dbg.skip = some (s.ctx hw).frame.pos) : s.stopDue hw = none := by
  rcases h with h | h <;> simp [State.stopDue, hreq, h]

/-! ## The limit of a step (R338) -/

theorem State.stepLimit_of_step {used : Nat} (h : (s.ctx hw).dbg.step = some ((s.ctx hw).run.sched, used)) :
    s.stepLimit hw = if 65536 ≤ used then s.debugStop hw 2 (s.ctx hw).dbg.why else s := by
  rw [State.stepLimit, h]
  simp

end

/-- Settles O38: each event of the debugger is one change of its context, and a stop also holds its core. -/
theorem debugControl : Obligations.DebugControl := by
  intro hw s
  refine ⟨fun hfw => ⟨?_, ?_, ?_⟩, fun hfw hst => ⟨?_, ?_, ?_⟩, fun hfw hst => ⟨?_, ?_, ?_⟩,
    fun htrace hst hready => ⟨fun hreq => ?_, fun hdr hreq hskip hbken hrep hhead hbit => ?_, fun hreq h => ?_⟩,
    fun used htrace hstep => ⟨fun hused => ?_, fun hused => ?_⟩⟩
  · rw [exec_dbgRun, execDbgRun, State.ifOpen_shut hfw]
  · rw [exec_dbgStep, execDbgStep, State.ifOpen_shut hfw]
  · rw [exec_dbgStopreq, execDbgStopreq, State.ifOpen_shut hfw]
  · refine ⟨_, exec_dbgRun hw s, ?_⟩
    rw [State.ifOpen_open hfw, State.dbgRun, if_neg hst]
    exact State.debugRelease_goes rfl
  · refine ⟨_, exec_dbgStep hw s, ?_⟩
    rw [State.ifOpen_open hfw, State.dbgStep, if_neg hst]
    exact State.debugRelease_goes rfl
  · rw [exec_dbgStopreq, execDbgStopreq, State.ifOpen_open hfw, State.dbgStopreq, if_pos hst]
  · refine ⟨_, exec_dbgStopreq hw s, ?_⟩
    rw [State.ifOpen_open hfw, State.dbgStopreq, if_neg (not_not.2 hst)]
    exact onlyCtx_modCtx s hw _
  · rw [exec_dbgRun, execDbgRun, State.ifOpen_open hfw, State.dbgRun, if_pos hst]
  · rw [exec_dbgStep, execDbgStep, State.ifOpen_open hfw, State.dbgStep, if_pos hst]
  · refine ⟨_, exec_debugBreak hw s, ?_⟩
    rw [State.debugBreak_of_due hready (State.stopDue_of_request hst hreq)]
    exact State.debugStop_stops htrace 1 1
  · refine ⟨_, exec_debugBreak hw s, ?_⟩
    rw [State.debugBreak_of_due hready (State.stopDue_of_bit hst hreq hskip hbken hrep hhead hbit)]
    exact State.debugStop_stops htrace 1 0
  · rw [exec_debugBreak, execDebugBreak, State.debugBreak_of_none (State.stopDue_none hreq h)]
  · refine ⟨_, exec_stepLimit hw s, ?_⟩
    rw [State.stepLimit_of_step hstep, if_pos hused]
    exact State.debugStop_stops htrace 2 _
  · rw [exec_stepLimit, execStepLimit, State.stepLimit_of_step hstep, if_neg (Nat.not_le.2 hused)]

end Sys2Proof.Machine
end

section
/-!
PROOF. The registers of the command queues and of the front end as the host writes them (R270 to R272, R279, R280, R343, R356, R363).
-/

namespace Sys2Proof.Machine

open Sys2Proof.Claims

/-! ## Changes of one queue -/

theorem onlyQueue_refl (s : State) (q : Nat) : OnlyQueue s s q (s.queue q) := ⟨rfl, fun _ _ => rfl, ⟨rfl, rfl, rfl, rfl, rfl⟩, rfl, rfl, rfl⟩

theorem onlyQueue_modQueue (s : State) (q : Nat) (f : Queue → Queue) : OnlyQueue s (s.modQueue q f) q (f (s.queue q)) :=
  ⟨s.modQueue_queue_same q f, fun _ hk => s.modQueue_queue_other f hk, ⟨rfl, rfl, rfl, rfl, rfl⟩, rfl, rfl, rfl⟩

theorem onlyQueue_trans {s t u : State} {q : Nat} {v w : Queue} (h : OnlyQueue s t q v) (h' : OnlyQueue t u q w) : OnlyQueue s u q w :=
  ⟨h'.it, fun k hk => (h'.others k hk).trans (h.others k hk), aside_trans h.aside h'.aside, h'.ev.trans h.ev, h'.mem.trans h.mem,
    h'.mod.trans h.mod⟩

theorem onlyQueue_modQueue_of_eq {s : State} {q : Nat} {f : Queue → Queue} {u : Queue} (h : f (s.queue q) = u) :
    OnlyQueue s (s.modQueue q f) q u := h ▸ onlyQueue_modQueue s q f

/-- A queue in which nothing has begun comes to rest at once. -/
theorem State.tidy_of_none_begun {s : State} {q : Nat} (h : (s.queue q).begun = []) : s.tidy q = s.modQueue q Queue.rest := by
  rw [State.tidy, h, List.length_nil, State.closeAll, h]
  rfl

section

variable {s : State} {q v : Nat}

/-! ## QTAIL (R272) -/

theorem State.tailWrite_small (h : v ≤ (s.queue q).tail) : s.tailWrite q v = s := if_pos h

theorem State.tailWrite_inside (hv : (s.queue q).tail < v) (hmost : v ≤ (s.queue q).head + (s.queue q).size) :
    s.tailWrite q v = s.modQueue q (fun u => { u with tail := v }) := by
  rw [State.tailWrite, if_neg (Nat.not_le.2 hv), if_neg (Nat.not_lt.2 hmost)]

theorem State.tailWrite_beyond (hv : (s.queue q).tail < v) (hmost : (s.queue q).head + (s.queue q).size < v) :
    s.tailWrite q v = s.queueErr q 11 0 0 := by
  rw [State.tailWrite, if_neg (Nat.not_le.2 hv), if_pos hmost]

theorem exec_qtailWrite_shut (hfw : s.mod.trust.fwOk = false) : exec (.qtailWrite q v) s = .next s := by
  rw [exec_qtailWrite, execQtailWrite, State.ifOpen_shut hfw]

theorem exec_qtailWrite_open (hfw : s.mod.trust.fwOk = true) : exec (.qtailWrite q v) s = .next (s.tailWrite q v) := by
  rw [exec_qtailWrite, execQtailWrite, State.ifOpen_open hfw]

theorem exec_qtailWrite_small (h : v ≤ (s.queue q).tail) : exec (.qtailWrite q v) s = .next s := by
  cases hfw : s.mod.trust.fwOk with
  | false => exact exec_qtailWrite_shut hfw
  | true => rw [exec_qtailWrite_open hfw, State.tailWrite_small h]

/-! ## QCTL.en (R271) -/

/-- A queue without packets under way is enabled at once: it reads from its ring's packet QHEAD on. -/
theorem Queue.rest_enable {u : Queue} (hbegun : u.begun = []) (hstop : u.stopping = false) :
    Queue.rest { u with enPend := true } =
      { u with en := true, enPend := false, lv := ringStart u, here := ringStart u, ahead := [] } := by
  simp [Queue.rest, hbegun, hstop, Queue.ringAt, Queue.base, ringStart]

/-- A queue with a packet under way is enabled later. -/
theorem Queue.rest_of_begun {u : Queue} (hbegun : u.begun ≠ []) : u.rest = u := by
  simp [Queue.rest, hbegun]

theorem State.enable_of_rest {u : Queue} (hen : (s.queue q).en = false) (hrest : Queue.rest { s.queue q with enPend := true } = u) :
    OnlyQueue s (s.enable q) q u := by
  rw [State.enable, if_neg (by simp [hen])]
  exact onlyQueue_trans (onlyQueue_modQueue s q _) (onlyQueue_modQueue_of_eq (by rw [State.modQueue_queue_same, hrest]))

/-- A queue without packets under way stops at once, where it has begun or skipped its last packet. -/
theorem State.disable_idle (hen : (s.queue q).en = true) (hbegun : (s.queue q).begun = []) :
    OnlyQueue s (s.disable q) q { s.queue q with
      en := false, enPend := false, stopping := false, ahead := [], lv := (s.queue q).here, prep := none
      head := headOf (s.queue q).here } := by
  rw [State.disable, if_neg (by simp [hen]), State.tidy_of_none_begun (by rw [State.modQueue_queue_same]; exact hbegun)]
  exact onlyQueue_trans (onlyQueue_modQueue s q _)
    (onlyQueue_modQueue_of_eq (by simp [State.modQueue_queue_same, Queue.rest, hbegun]))

/-! ## Queue registers -/

theorem answers_ifOpen {i : Instr} {f : State → State} {p : State → Prop} (h : exec i s = .next (s.ifOpen f))
    (hfw : s.mod.trust.fwOk = true) (hp : p (f s)) : Answers i s p :=
  ⟨f s, by rw [h, State.ifOpen_open hfw], hp⟩

/-- A part of O52: QTAIL, QCTL.en and QSTAT.clr. -/
theorem queueRegisterWrites : QueueRegisterWrites := by
  intro q v s
  refine ⟨fun hfw => ⟨exec_qtailWrite_shut hfw, ?_, ?_, ?_⟩, fun hfw => ⟨exec_qtailWrite_small, fun hv hmost => ?_, fun hv hmost => ?_,
    fun hen hbegun hstop => ?_, fun hen hbegun => ?_, fun hen hbegun => ?_, fun hen => ?_, ?_⟩⟩
  · rw [exec_queueEnable, execQueueEnable, State.ifOpen_shut hfw]
  · rw [exec_queueDisable, execQueueDisable, State.ifOpen_shut hfw]
  · rw [exec_qstatClear, execQstatClear, State.ifOpen_shut hfw]
  · exact ⟨_, exec_qtailWrite_open hfw, State.tailWrite_inside hv hmost ▸ onlyQueue_modQueue s q _⟩
  · obtain ⟨hq, -, haside, -, hevent⟩ := s.queueErr_cases q 11 0 0
    refine ⟨_, exec_qtailWrite_open hfw, ?_⟩
    rw [State.tailWrite_beyond hv hmost]
    refine ⟨by rw [hq], ⟨by rw [hq], fun h => ?_, fun h => ?_, hevent⟩, haside⟩
    · rw [hq]
      exact ⟨if_pos h, if_pos h⟩
    · rw [hq]
      exact ⟨if_neg h, if_neg h⟩
  · exact answers_ifOpen (exec_queueEnable q s) hfw (State.enable_of_rest hen (Queue.rest_enable hbegun hstop))
  · exact answers_ifOpen (exec_queueEnable q s) hfw (State.enable_of_rest hen (Queue.rest_of_begun hbegun))
  · exact answers_ifOpen (exec_queueDisable q s) hfw (State.disable_idle hen hbegun)
  · refine answers_ifOpen (exec_queueDisable q s) hfw ?_
    rw [State.disable, if_pos (by simp [hen])]
    exact onlyQueue_modQueue s q _
  · exact answers_ifOpen (exec_qstatClear q s) hfw (onlyQueue_modQueue s q _)

/-- Settles O51: the three rules of a write to QTAIL, the second one applied twice. -/
theorem tailWriteRule : Obligations.TailWriteRule := by
  intro q v s
  refine ⟨fun h => ?_, fun hfw hv hmost => ?_, fun hfw hv hmost => ?_⟩
  · rcases h with h | hfw
    · exact exec_qtailWrite_small h
    · exact exec_qtailWrite_shut hfw
  · have hwrite := State.tailWrite_inside hv hmost
    have htail : ((s.tailWrite q v).queue q).tail = v := by rw [hwrite, State.modQueue_queue_same]
    have hopen : (s.tailWrite q v).mod.trust.fwOk = true := by rw [hwrite]; exact hfw
    refine ⟨_, exec_qtailWrite_open hfw, htail, fun w hw hbound => ?_⟩
    rcases Nat.le_total w v with hle | hle
    · exact ⟨_, exec_qtailWrite_small (htail.symm ▸ hle), htail.trans (Nat.max_eq_left hle).symm⟩
    · rcases Nat.eq_or_lt_of_le hle with rfl | hlt
      · exact ⟨_, exec_qtailWrite_small (Nat.le_of_eq htail.symm), htail.trans (Nat.max_self v).symm⟩
      · refine ⟨_, exec_qtailWrite_open hopen, ?_⟩
        rw [State.tailWrite_inside (htail.symm ▸ hlt) hbound]
        exact (congrArg Queue.tail (State.modQueue_queue_same _ q _)).trans (Nat.max_eq_right hle).symm
  · obtain ⟨hq, -⟩ := s.queueErr_cases q 11 0 0
    refine ⟨_, exec_qtailWrite_open hfw, ?_⟩
    rw [State.tailWrite_beyond hv hmost]
    exact ⟨(congrArg Queue.tail hq :), (congrArg Queue.head hq :), (congrArg Queue.count hq :), (congrArg Queue.first hq :)⟩

/-! ## Writes by offset (R6, R351, log 30) -/

theorem State.regWrite_refused {off : Nat} (h : off % 8 ≠ 0 ∨ s.opened off = false) : s.regWrite off v = s := if_pos h

theorem State.opened_of_fw (hfw : s.mod.trust.fwOk = true) (off : Nat) : s.opened off = true := by
  rw [State.opened, hfw]
  rfl

theorem State.opened_eq_false_iff (s : State) (off : Nat) : s.opened off = false ↔
    s.mod.trust.fwOk = false ∧ ¬ (0x3C0000 ≤ off ∧ off < 0x3C1000) ∧ ¬ (0x44000 ≤ off ∧ off < 0x50000) := by
  simp only [State.opened, Bool.or_eq_false_iff, ← Bool.decide_and, decide_eq_false_iff_not, and_assoc]

/-- An aligned offset below the front-end window names a register of a queue. -/
theorem State.regWrite_queue {n o : Nat} (hn : n < 4096) (ho : o < 64) (h8 : o % 8 = 0) (hopen : s.opened (64 * n + o) = true) :
    s.regWrite (64 * n + o) v = s.queueWrite n o v := by
  have halign : ¬ ((64 * n + o) % 8 ≠ 0 ∨ s.opened (64 * n + o) = false) := not_or.2 ⟨by omega, by simp [hopen]⟩
  have hdiv : (64 * n + o) / 64 = n := by omega
  have hmod : (64 * n + o) % 64 = o := by omega
  rw [State.regWrite, if_neg halign, if_neg (by omega), if_pos (by omega), hdiv, hmod]

/-- QBASE is written while its queue neither runs nor is busy (R270). -/
theorem State.queueWrite_qbase (s : State) (n v : Nat) : OnlyQueue s (s.queueWrite n 0 v) n
    (if (s.queue n).en || (s.queue n).busy then s.queue n else { s.queue n with qbase := BitVec.ofNat 64 v }) :=
  onlyQueue_modQueue s n (fun u => if u.en || u.busy then u else { u with qbase := BitVec.ofNat 64 v })

theorem exec_registerWrite_qbase {n : Nat} (hn : n < 4096) (hfw : s.mod.trust.fwOk = true) :
    exec (.registerWrite (64 * n) v) s = .next (s.queueWrite n 0 v) :=
  congrArg Host.Outcome.next (State.regWrite_queue hn (o := 0) (by decide) rfl (State.opened_of_fw hfw _))

theorem State.regWrite_front {o : Nat} (ho : o < 0x10000) (h8 : o % 8 = 0) (hopen : s.opened (0x40000 + o) = true) :
    s.regWrite (0x40000 + o) v = s.frontWrite o v := by
  have halign : ¬ ((0x40000 + o) % 8 ≠ 0 ∨ s.opened (0x40000 + o) = false) := not_or.2 ⟨by omega, by simp [hopen]⟩
  rw [State.regWrite, if_neg halign, if_neg (by omega), if_neg (by omega), if_pos (by omega), Nat.add_sub_cancel_left]

end

/-- A part of O52: EVHEAD, TRHEAD, and the registers by their offsets. -/
theorem hostRegisterWrites : HostRegisterWrites := by
  intro v n cl off s
  refine ⟨fun hfw => ⟨?_, ?_⟩, fun hfw hhead htail => ?_, fun h => ?_, fun hfw hhead htail => ?_, fun hfw h => ?_, fun h => ?_,
    s.opened_eq_false_iff off, fun hfw hn hen hbegun hstop => ?_, fun hfw hn hen => ?_, fun hn => ?_, fun hfw hlow hhigh => ?_,
    fun hfw => ?_⟩
  · rw [exec_evheadWrite, execEvheadWrite, State.ifOpen_shut hfw]
  · rw [exec_trheadWrite, execTrheadWrite, State.ifOpen_shut hfw]
  · exact answers_ifOpen (exec_evheadWrite v s) hfw (if_neg (by omega))
  · rw [exec_evheadWrite, execEvheadWrite]
    cases hfw : s.mod.trust.fwOk with
    | false => rw [State.ifOpen_shut hfw]
    | true => rw [State.ifOpen_open hfw, State.evhead, if_pos h]
  · have hin : ¬ (v ≤ (s.cluster cl).trace.head ∨ (s.cluster cl).trace.tail < v) := by omega
    refine answers_ifOpen (exec_trheadWrite cl v s) hfw ⟨?_, fun k hk => State.modCl_cluster_other s _ hk, rfl, rfl, rfl, rfl, rfl⟩
    rw [State.modCl_cluster_same, if_neg hin]
  · refine answers_ifOpen (exec_trheadWrite cl v s) hfw ⟨?_, fun k hk => State.modCl_cluster_other s _ hk, rfl, rfl, rfl, rfl, rfl⟩
    rw [State.modCl_cluster_same, if_pos h]
  · rw [exec_registerWrite, execRegisterWrite, State.regWrite_refused h]
  · refine ⟨_, exec_registerWrite_qbase hn hfw, ?_⟩
    have hbase := s.queueWrite_qbase n v
    rwa [hen, Queue.busy, hbegun, hstop] at hbase
  · refine ⟨_, exec_registerWrite_qbase hn hfw, ?_⟩
    have hbase := s.queueWrite_qbase n v
    rwa [hen] at hbase
  · rw [exec_registerWrite, execRegisterWrite]
    cases hopen : s.opened (64 * n + 0x18) with
    | false => rw [State.regWrite_refused (.inr hopen)]
    | true =>
      rw [State.regWrite_queue hn (by decide) rfl hopen]
      rfl
  · refine ⟨_, exec_registerWrite 0x40080 v s, ?_⟩
    rw [State.regWrite_front (o := 0x80) (by decide) rfl (State.opened_of_fw hfw _)]
    exact if_pos ⟨hlow, hhigh⟩
  · refine ⟨_, exec_registerWrite 0x40000 v s, ?_⟩
    rw [State.regWrite_front (o := 0) (by decide) rfl (State.opened_of_fw hfw _)]
    rfl

/-- Settles O52, from its two parts. -/
theorem queueHostRegisterWrites : Obligations.QueueHostRegisterWrites := ⟨queueRegisterWrites, hostRegisterWrites⟩

end Sys2Proof.Machine
end

section
/-!
PROOF. O31 fails: a result that lands as a blocked context arrives at its barrier may be the one that the guard of its BAR reads
(R27, R214, log 32). TIME and PERF (R222).
-/

namespace Sys2Proof.Machine

open Sys2Proof.Claims

/-! ## TIME and PERF (R222) -/

/-- The counter that a selector names. -/
theorem State.perf_eq_getD (s : State) (hw : Nat) {sel : Nat} (h : sel < 8) : s.perf hw sel =
    [(s.ctx hw).run.sched, (s.ctx hw).perf.stall, (s.ctx hw).perf.wait, (s.core (coreOf hw)).held, (s.ctx hw).perf.cand,
      (s.ctx hw).perf.prim, s.mod.cycles, (s.core (coreOf hw)).journal.length].getD sel 0 := by
  interval_cases sel <;> rfl

/-- The part of O31 that speaks of TIME and PERF holds. -/
theorem timeAndCounterResult : TimeAndCounterResult := by
  intro o p s
  refine ⟨fGives_of_perform (exec_time o s) rfl, fun hm => fGives_of_perform (exec_perf p s) ?_⟩
  rw [State.perf_eq_getD s s.cur.hw hm]
  rfl

/-! ## BAR (R214) -/

/-- A context that arrives has its results landed. -/
theorem State.barArrive_me {s : State} {list : Nat}
    (hnew : (s.me.run.barPass || (atBar s s s.cur.hw).any (fun x => decide (x.1 = s.cur.hw))) = false)
    (hquiet : s.quiet s.cur.hw = true) : (s.barArrive s.cur.hw list).me = s.me.landAll := by
  unfold State.barArrive
  dsimp only
  split
  next hstay =>
    rw [hquiet, Bool.not_true, Bool.or_false] at hstay
    exact absurd (hnew.symm.trans hstay) Bool.false_ne_true
  next => exact State.modCtx_me s Ctx.landAll

theorem State.barArrive_cur (s : State) (hw list : Nat) : (s.barArrive hw list).cur = s.cur := by
  unfold State.barArrive
  dsimp only
  split <;> rfl

/-- A BAR whose guard holds arrives; whether its bundle then waits, is for the guard as the landed results leave it. -/
theorem exec_bar_of_guard_lost {o : G2} {s : State} (hgo : s.cur.go = false) (hg : s.me.guardN o.g = true)
    (hlost : (s.barArrive s.cur.hw (o.n * 256 + o.m)).me.guardN o.g = false) :
    exec (.bar o) s = .next (s.barArrive s.cur.hw (o.n * 256 + o.m)) := by
  have hask : s.barAsk o = s.barArrive s.cur.hw (o.n * 256 + o.m) := by simp [State.barAsk, hgo, hg]
  rw [exec_bar, execBar, hask]
  dsimp only
  rw [hlost]
  exact State.perform_off _ _ _ _ _ (.inl rfl)

/-- A pending result that clears c1 and has left its pipeline. -/
def clearsC1 : Pend := ⟨.c 1, 0, 0, 0, 1, 0, 0, none, 0, 0⟩

/-- CTX0 is blocked; c1 is true, and a pending result clears it. The context looks at its bundle as a
candidate does, which charges it nothing. -/
def guardLostState : State :=
  { State.reset with
    ctxs := [(0, { Ctx.reset with
      regs := { Regs.reset with c := 3#8 }
      pend := { Pending.none with val := [clearsC1] }
      run := { Run.reset with st := .blocked } })]
    cur := { Cursor.reset with cand := true } }

/-- BAR under the guard c1. -/
def guardedBar : G2 := ⟨2, 0, 0⟩

theorem guardLostState_guard : guardLostState.me.guardN guardedBar.g = true := by decide
theorem guardLostState_new : (guardLostState.me.run.barPass ||
    (atBar guardLostState guardLostState guardLostState.cur.hw).any (fun x => decide (x.1 = guardLostState.cur.hw))) = false := by decide
theorem guardLostState_quiet : guardLostState.quiet guardLostState.cur.hw = true := by decide
theorem guardLostState_lost :
    (guardLostState.barArrive guardLostState.cur.hw (guardedBar.n * 256 + guardedBar.m)).me.guardN guardedBar.g = false := by
  rw [State.barArrive_me guardLostState_new guardLostState_quiet]
  have hland : guardLostState.me.landAll =
      (({ guardLostState.me with pend := Pending.none }).setC 1 (clearsC1.val.getLsbD 0)).orFlags 0 := rfl
  rw [hland, show clearsC1.val.getLsbD 0 = false from BitVec.getLsbD_zero]
  decide

theorem not_waitInstructionResult : ¬ WaitInstructionResult := by
  intro h
  obtain ⟨-, -, -, -, -, -, -, -, -, -, -, -, -, -, -, hbar⟩ := h ⟨0, 0⟩ ⟨0, 0, 0, 0⟩ guardedBar guardLostState
  have hnew : ¬ Arrived guardLostState guardLostState.cur.hw := fun ⟨x, hx, _⟩ => absurd hx (List.not_mem_nil)
  obtain ⟨s0, -, hheld⟩ := (hbar rfl guardLostState_guard rfl).2 hnew guardLostState_quiet
  have hexec := exec_bar_of_guard_lost rfl guardLostState_guard guardLostState_lost
  have hstate := Host.Outcome.next.inj (hexec.symm.trans hheld)
  have hverdict : guardLostState.cur.verdict = .wait .engine := by
    rw [← State.barArrive_cur guardLostState guardLostState.cur.hw, hstate]
    rfl
  exact absurd hverdict (by decide)

/-- Refutes O31 at `guardLostState`: the guard c1 of the BAR holds and the context is quiet, but it is blocked, so that its pending
result lands as it arrives (log 32) and clears c1; the BAR, now nullified, does not hold its bundle back. What O31 says of TIME and PERF
holds (`timeAndCounterResult`). -/
theorem not_timeWaitResult : ¬ Obligations.TimeWaitResult := fun h => not_waitInstructionResult h.2

end Sys2Proof.Machine
end

section
/-!
PROOF. The ends of waits, and the choice of the primary (R205, R207, R209, R224).
-/

namespace Sys2Proof.Machine

open Sys2Proof.Claims

/-! ## All pending results land at once (R214, R264, log 32) -/

theorem Ctx.landOne_run (c : Ctx) (p : Pend) : (c.landOne p).run = c.run := (c.landOne_notLanded p).run

theorem Ctx.landOne_pend (c : Ctx) (p : Pend) : (c.landOne p).pend = c.pend :=
  (Ctx.landOne_eq_written Ctx.pend (fun _ _ => rfl) (fun _ _ => rfl) c p).trans (c.written_pend p)

/-- What a landing leaves as it is, the landing of all results leaves as it is once they are pending no longer. -/
theorem Ctx.landAll_unchanged {β : Type} (f : Ctx → β) (hf : ∀ d g, f (Ctx.orFlags d g) = f d)
    (hl : ∀ d p, f (Ctx.landOne d p) = f d) (c : Ctx) : f c.landAll = f { c with pend := { c.pend with val := [], flg := [] } } := by
  have hval := List.foldlRecOn (motive := fun d => f d = f { c with pend := { c.pend with val := [], flg := [] } })
    (landOrder c.pend.val) Ctx.landOne rfl fun d hd p _ => (hl d p).trans hd
  exact List.foldlRecOn (motive := fun d => f d = f { c with pend := { c.pend with val := [], flg := [] } })
    c.pend.flg _ hval fun d hd g _ => (hf d g.flags).trans hd

theorem Ctx.landAll_run (c : Ctx) : c.landAll.run = c.run :=
  Ctx.landAll_unchanged Ctx.run (fun _ _ => rfl) Ctx.landOne_run c

theorem Ctx.landAll_pend (c : Ctx) : c.landAll.pend = { c.pend with val := [], flg := [] } :=
  Ctx.landAll_unchanged Ctx.pend (fun _ _ => rfl) Ctx.landOne_pend c

/-! ## Asking leaves the course of every context (R373) -/

section

variable (s : State) (hw : Nat)

theorem State.barAsk_run (o : G2) : ((s.barAsk o).ctx hw).run = (s.ctx hw).run := by
  unfold State.barAsk State.barArrive
  dsimp only
  split
  · split
    · rfl
    · exact s.modCtx_keeps Ctx.run Ctx.landAll_run _ hw
  · rfl

theorem State.drainAsk_ctx (on sys : Bool) : (s.drainAsk on sys).ctx hw = s.ctx hw := by
  unfold State.drainAsk
  dsimp only
  split <;> rfl

theorem State.keyAsk_ctx (on : Bool) (chk : Option Chk) (n : Nat) (k : Option Nat) : (s.keyAsk on chk n k).ctx hw = s.ctx hw := by
  unfold State.keyAsk
  split <;> rfl

theorem State.resumeAskIf_ctx (o : MI) : (s.resumeAskIf o).ctx hw = s.ctx hw := by
  unfold State.resumeAskIf State.resumeAsk
  dsimp only
  repeat' split
  all_goals rfl

theorem State.asks_run (i : Instr) : ((s.asks i).ctx hw).run = (s.ctx hw).run := by
  unfold State.asks
  split
  case h_1 o => exact s.barAsk_run hw o
  case h_2 o => rw [s.resumeAskIf_ctx hw o]
  case h_3 o => rw [State.keyldAsk, s.keyAsk_ctx]
  case h_4 o => rw [State.keyldClrAsk, s.keyAsk_ctx]
  case h_5 o => rw [State.drainAskF, s.drainAsk_ctx]
  case h_6 g => rw [State.tdoneAsk, s.drainAsk_ctx]
  case h_7 => rfl

theorem State.askAll_run (b : Bundle) (rep : Nat) (cand : Bool) (xs : List Issue) (k : Nat) :
    ((s.askAll hw b rep cand xs).ctx k).run = (s.ctx k).run :=
  List.foldlRecOn (motive := fun t : State => (t.ctx k).run = (s.ctx k).run) xs _ rfl fun t ht x _ =>
    (State.asks_run (t.seat hw b rep cand false x) k x.i).trans ht

theorem State.heldBy_run (k : Nat) : ((s.heldBy hw).1.ctx k).run = (s.ctx k).run := by
  unfold State.heldBy
  dsimp only
  repeat' split
  case h_1.isFalse => exact s.askAll_run hw _ _ _ _ k
  all_goals rfl

end

/-! ## The end of a block (R205, R209) -/

section

variable {s : State} {hw : Nat}

/-- A context that is ready again, with its slack. -/
def Ctx.unblocked (c : Ctx) : Ctx := { c with run := { c.run with st := .ready, slackRem := c.run.slack } }

theorem State.unblock_held (hst : (s.ctx hw).run.st = .blocked) (h : (s.heldBy hw).2.contains (s.ctx hw).run.await = true) :
    s.unblock hw = (s.heldBy hw).1 := by
  rw [State.unblock, if_pos hst]
  exact if_pos h

/-- The wait is over: the results that it was for land, and the context is ready. -/
theorem State.unblock_over (hst : (s.ctx hw).run.st = .blocked) (h : (s.heldBy hw).2.contains (s.ctx hw).run.await = false) :
    s.unblock hw = (s.heldBy hw).1.modCtx hw
      (fun c => (if resultWait c.run.await then c.landAll else c).unblocked) := by
  rw [State.unblock, if_pos hst]
  exact if_neg (Bool.eq_false_iff.1 h)

theorem State.unblock_over_ctx (hst : (s.ctx hw).run.st = .blocked) (h : (s.heldBy hw).2.contains (s.ctx hw).run.await = false) :
    (s.unblock hw).ctx hw = (if resultWait (s.ctx hw).run.await then ((s.heldBy hw).1.ctx hw).landAll
      else (s.heldBy hw).1.ctx hw).unblocked := by
  rw [State.unblock_over hst h, State.modCtx_ctx_same, s.heldBy_run hw hw]

/-- In phase 1 a context waits for what its bundle's entry waits for, and asks for nothing. -/
theorem State.heldBy_entry {b : Bundle} {xs : List Issue} (hphase : (s.ctx hw).run.phase = 1)
    (hb : s.fetch (coreOf hw) (s.ctx hw).frame.pos = .ok b) (hx : s.decodeBundle hw b ((s.ctx hw).plan b) = .ok xs) :
    s.heldBy hw = (s, ((s.ctx hw).entryWait b).toList.map (fun x => x.1)) := by
  have hbundle : s.bundleAt hw (s.ctx hw).frame.pos = .ok b := by
    unfold State.bundleAt
    split
    · rw [if_neg (fun hp => hp.1 hphase), hb]
    · exact hb
  unfold State.heldBy
  simp only [hbundle, hx, if_pos hphase]
  cases (s.ctx hw).entryWait b <;> rfl

/-- Without commands in the gussets the sync bit holds nothing back. -/
theorem Ctx.entryWait_of_empty {c : Ctx} (hc : c.eng.cG = []) (hq : c.eng.qG = []) (b : Bundle) :
    (c.entryWait b).toList.map (fun x => x.1) = [] ∨ (c.entryWait b).toList.map (fun x => x.1) = [syncId + 1] := by
  unfold Ctx.entryWait
  split
  · exact .inr rfl
  · rw [if_neg (by simp [hc, hq])]
    exact .inl rfl

theorem Ctx.entryWait_of_sync {c : Ctx} {b : Bundle} (hdrain : c.frame.drainWait = false) (hrep : c.frame.rep = 0)
    (hsync : fld b.hdr 13 1 = 1) (hcmd : c.eng.cG ≠ [] ∨ c.eng.qG ≠ []) : c.entryWait b = some (syncId, .engine) := by
  have hcmds : (c.eng.cG.isEmpty && c.eng.qG.isEmpty) = false := by
    rcases hcmd with h | h <;> simp [h]
  simp [Ctx.entryWait, hdrain, hrep, hdrSync, hsync, hcmds]

/-! ## The end of a WFE (R224) -/

theorem State.wfeWake_of_wfe {o : FW} (hst : (s.ctx hw).run.st = .waiting) (hstage : (s.ctx hw).run.stage = .wfe)
    (ho : s.wfeOf hw = some o) : s.wfeWake hw =
      if s.wfeHolds hw o.mask ((s.ctx hw).sreg o.st) ≠ 0 then
        s.modCtx hw (fun c => { c with run := { c.run with st := .ready, stage := .none } })
      else s := by
  rw [State.wfeWake, if_pos ⟨hst, hstage⟩, ho]
  simp only [decide_eq_true_eq]

end

/-! ## The choice of the primary (R207) -/

theorem mayIssue_iff (s : State) (hw : Nat) : MayIssue s hw ↔ (s.ctx hw).canIssue (s.mod.cycles + 1) = true := by
  simp [MayIssue, Ctx.canIssue]

theorem cyclic_eq_map (core n : Nat) : cyclic core n = (List.range 4).map (afterCtx core n) := rfl

theorem find_cyclic_some {core n k : Nat} {p : Nat → Bool} (hk : k < 4) (hp : p (afterCtx core n k) = true)
    (hbefore : ∀ m, m < k → p (afterCtx core n m) = false) : (cyclic core n).find? p = some (afterCtx core n k) := by
  have hfind : (List.range 4).find? (p ∘ afterCtx core n) = some k :=
    List.find?_range_eq_some.2 ⟨hp, List.mem_range.2 hk, fun m hm => by simp [hbefore m hm]⟩
  rw [cyclic_eq_map, List.find?_map, hfind]
  rfl

theorem find_cyclic_none {core n : Nat} {p : Nat → Bool} (h : ∀ k, k < 4 → p (afterCtx core n k) = false) :
    (cyclic core n).find? p = none := by
  rw [cyclic_eq_map, List.find?_eq_none]
  intro x hx
  obtain ⟨k, hk, rfl⟩ := List.mem_map.1 hx
  simp [h k (List.mem_range.1 hk)]

section

variable {s : State} {core : Nat}

theorem State.choose_found {hw : Nat} (hprim : (s.core core).prim = none)
    (hfind : (cyclic core (s.core core).lastPrim).find? (fun hw => (s.ctx hw).canIssue (s.mod.cycles + 1)) = some hw) :
    s.choose core = (s.setCore core { s.core core with prim := some hw }).modCtx hw
      (fun c => { c with perf := { c.perf with prim := c.perf.prim + 1 } }) := by
  simp [State.choose, hprim, hfind]

theorem State.choose_none (h : (s.core core).prim ≠ none ∨
    (cyclic core (s.core core).lastPrim).find? (fun hw => (s.ctx hw).canIssue (s.mod.cycles + 1)) = none) : s.choose core = s := by
  unfold State.choose
  dsimp only
  split
  · rfl
  next hprim =>
    rcases h with h | h
    · exact absurd (Option.ne_none_iff_isSome.1 h) hprim
    · rw [h]

end

/-- Settles O34: a context asks again while it waits, which leaves its course, and what no longer holds it makes it ready. -/
theorem waitEndEvents : Obligations.WaitEndEvents := by
  intro hw core s
  refine ⟨fun b xs hst hphase hawait hb hx => ⟨fun hc hq => ?_, fun hdrain hrep hsync hcmd => ?_⟩, fun hst hover => ?_, fun hst => ?_,
    fun o hst hstage ho => ⟨fun hholds => ?_, fun hholds => ?_⟩, fun n hprim hn hmay hbefore => ?_, fun h => ?_⟩
  · have hheld := State.heldBy_entry hphase hb hx
    have hover : (s.heldBy hw).2.contains (s.ctx hw).run.await = false := by
      rw [hheld, hawait]
      rcases Ctx.entryWait_of_empty hc hq b with h | h <;> rw [h] <;> rfl
    refine ⟨_, exec_contextUnblock hw s, ?_⟩
    rw [State.unblock_over hst hover, hheld]
    have hone := onlyCtx_modCtx s hw (fun c => (if resultWait c.run.await then c.landAll else c).unblocked)
    rwa [hawait, if_neg (by decide)] at hone
  · have hheld := State.heldBy_entry hphase hb hx
    rw [Ctx.entryWait_of_sync hdrain hrep hsync hcmd] at hheld
    rw [exec_contextUnblock, execContextUnblock, State.unblock_held hst (by rw [hheld, hawait]; rfl), hheld]
  · refine ⟨_, exec_contextUnblock hw s, ?_⟩
    have hctx := State.unblock_over_ctx hst hover
    cases hres : resultWait (s.ctx hw).run.await
    · rw [hres, if_neg Bool.false_ne_true] at hctx
      dsimp only
      rw [hctx]
      exact ⟨rfl, nofun, fun _ => ⟨rfl, rfl⟩⟩
    · rw [hres, if_pos rfl] at hctx
      dsimp only
      rw [hctx]
      refine ⟨?_, fun _ => ?_, nofun⟩
      · rw [Ctx.unblocked, Ctx.landAll_run]
      · simp [Ctx.unblocked, Ctx.landAll_pend]
  · rw [exec_contextUnblock, execContextUnblock, State.unblock, if_neg hst]
  · refine ⟨_, exec_wfeWake hw s, ?_⟩
    rw [State.wfeWake_of_wfe hst hstage ho, if_pos hholds]
    exact onlyCtx_modCtx s hw _
  · rw [exec_wfeWake, execWfeWake, State.wfeWake_of_wfe hst hstage ho, if_neg (not_not.2 hholds)]
  · have hfind := find_cyclic_some (p := fun x => (s.ctx x).canIssue (s.mod.cycles + 1)) hn ((mayIssue_iff s _).1 hmay)
      fun m hm => Bool.eq_false_iff.2 fun hcan => hbefore m hm ((mayIssue_iff s _).2 hcan)
    refine ⟨_, exec_primarySwitch core s, ?_⟩
    rw [State.choose_found hprim hfind]
    exact ⟨by simp, by simp, fun x hx => by simp [hx], rfl, rfl, rfl⟩
  · rw [exec_primarySwitch, execPrimarySwitch, State.choose_none]
    refine h.imp_right fun hnone => find_cyclic_none fun k hk => Bool.eq_false_iff.2 fun hcan => ?_
    exact hnone k hk ((mayIssue_iff s _).2 hcan)

end Sys2Proof.Machine
end

section
/-!
PROOF. Taking a trap (R289 to R294): what it makes of its context and leaves of the others, SVC and BRK (R201), and the traps
that stand in place of a bundle: asynchronous ones, IFETCH (R32) and HEMOVR (R212).
-/

namespace Sys2Proof.Machine

open Sys2Proof.Claims

/-! ## Taking a trap (R289) -/

section

variable {s : State} {hw : Nat}

/-- The trap of a context outside trap mode, and any asynchronous one, enters the trap routine. -/
theorem State.takeTrap_untraced {t : TrapInfo} (hmode : ((s.ctx hw).run.trap && !t.async) = false)
    (htrace : (s.ctx hw).dbg.trace = 0) (tb : Nat) : s.takeTrap hw t tb = s.trapEntered hw t tb := by
  rw [State.takeTrap, hmode, if_neg Bool.false_ne_true]
  exact State.trace_untraced ((congrArg (fun c => c.dbg.trace) (s.trapEntered_ctx hw t tb)).trans htrace) _ _ _ _

theorem Ctx.enterTrap_entered (c : Ctx) (t : TrapInfo) (tb : Nat) :
    Entered c (c.enterTrap t tb) t.tcause t.addr (t.tinfo c.frame.rep) tb :=
  ⟨rfl, rfl, rfl, ⟨rfl, rfl⟩, ⟨rfl, rfl⟩, rfl, rfl, rfl, rfl, rfl, rfl, rfl, rfl, rfl⟩

/-- A trap of the entered context, of no other, and of no memory. -/
theorem State.trapEntered_entered (t : TrapInfo) (tb : Nat) :
    Entered (s.ctx hw) ((s.trapEntered hw t tb).ctx hw) t.tcause t.addr (t.tinfo (s.ctx hw).frame.rep) tb := by
  rw [State.trapEntered_ctx]
  exact Ctx.enterTrap_entered _ t tb

theorem State.trapEntered_other (t : TrapInfo) (tb : Nat) {k : Nat} (hk : k ≠ hw) : (s.trapEntered hw t tb).ctx k = s.ctx k :=
  s.setCtx_ctx_other _ hk

theorem State.trapEntered_mem (t : TrapInfo) (tb : Nat) : (s.trapEntered hw t tb).mem = s.mem := rfl

theorem State.trapEntered_asks (t : TrapInfo) (tb : Nat) : OnlyAsks s (s.trapEntered hw t tb) hw := ⟨rfl, rfl⟩

theorem State.trapEntered_cluster (t : TrapInfo) (tb k : Nat) : (s.trapEntered hw t tb).cluster k = (s.leaveBars hw).cluster k := rfl

theorem State.trapEntered_bars (t : TrapInfo) (tb : Nat) : LeavesBars s (s.trapEntered hw t tb) hw := by
  refine ⟨?_, fun k hk => ?_⟩
  · rw [State.trapEntered_cluster, State.leaveBars, State.modCl_cluster_same]
  · rw [State.trapEntered_cluster, State.leaveBars, State.modCl_cluster_other _ _ hk]

theorem State.takeTrap_mem_untraced (hmode : (s.ctx hw).run.trap = false) (htrace : (s.ctx hw).dbg.trace = 0) (t : TrapInfo)
    (tb : Nat) : (s.takeTrap hw t tb).mem = s.mem := by
  rw [State.takeTrap_untraced (by simp [hmode]) htrace, State.trapEntered_mem]

/-- TINFO of a synchronous trap (R293). -/
theorem TrapInfo.tinfo_of_sync (code : Nat) (addr : Word) (detail slot rep : Nat) :
    TrapInfo.tinfo ⟨code, addr, detail, 0, 15, slot, false, false, false⟩ rep = syncInfo detail rep slot := by
  simp [TrapInfo.tinfo, syncInfo]

theorem trapEntry : TrapEntry := fun s hw code detail slot tb addr hmode htrace _ => by
  rw [State.takeTrap_untraced (by simp [hmode]) htrace]
  refine ⟨?_, fun k hk => State.trapEntered_other _ _ hk, memSame_of_eq (State.trapEntered_mem _ _)⟩
  rw [← TrapInfo.tinfo_of_sync code addr]
  exact State.trapEntered_entered _ _

end

/-! ## SVC and BRK (R201) -/

/-- SVC and BRK trap by their code, nullified they do nothing, and in a delay bundle they trap with ILLBND. -/
theorem codeTrap_of_perform {i : Instr} {s : State} {cause : Nat} {o : NCode} (h : exec i s = codeTrap cause o s) :
    CodeTrap i s (BitVec.ofNat 64 cause) o := by
  have hperform : exec i s = s.perform s.me.delayChk (s.me.guardN o.g) none none
    (fun s => s.codeEff s.cur.hw s.cur.bundle cause o.code) := h
  refine ⟨fun hbr hmode htrace hg => ?_, fun hbr hg => ?_, fun hgo hbr => ?_⟩
  · rw [hg, State.perform_on _ _ _ _ _ (.inr ⟨Ctx.delayChk_of_free hbr, rfl, rfl⟩)] at hperform
    refine ⟨_, hperform, ?_⟩
    dsimp only
    rw [State.codeEff, State.takeTrap_untraced (by simp [show (s.ctx s.cur.hw).run.trap = false from hmode]) htrace]
    refine ⟨?_, fun k hk => State.trapEntered_other _ _ hk, memSame_of_eq rfl, State.trapEntered_asks _ _,
      State.trapEntered_bars _ _, rfl⟩
    rw [← TrapInfo.tinfo_of_sync cause (BitVec.ofNat 64 o.code)]
    exact State.trapEntered_entered _ _
  · rw [hg, Ctx.delayChk_of_free hbr, State.perform_off _ _ _ _ _ (.inl rfl)] at hperform
    exact hperform
  · rw [Ctx.delayChk_of_delay hbr, State.perform_mode _ _ _ _ _ _ hgo] at hperform
    exact hperform

/-- Settles O11: outside trap mode a trap enters the routine, and SVC and BRK are traps of their own code. -/
theorem trapEntryState : Obligations.TrapEntryState :=
  ⟨fun o s => ⟨codeTrap_of_perform (exec_svc o s), codeTrap_of_perform (exec_brk o s)⟩, trapEntry⟩

/-! ## Traps in place of a bundle (R290 to R294, R32, R212) -/

section

variable {s : State} {hw : Nat}

/-- The only pending asynchronous trap is taken, when it is no major one. -/
theorem State.takeAsync_only {a : Async} (hmode : (s.ctx hw).run.trap = false) (htrace : (s.ctx hw).dbg.trace = 0)
    (ha : (s.ctx hw).async = [a]) (hmajor : a.major = false) : s.takeAsync hw =
      (s.modCtx hw (fun c => { c with async := [] })).trapEntered hw a.trapInfo (s.ctx hw).frame.pos := by
  have hdue : (s.ctx hw).asyncDue = some a := by
    rw [Ctx.asyncDue, hmode, ha]
    rfl
  have hdrop : s.modCtx hw (fun c => { c with async := dropFirst (fun x => decide (x = a)) c.async }) =
      s.modCtx hw (fun c => { c with async := [] }) := by
    simp only [State.modCtx, ha, dropFirst, decide_true, if_true]
  have hminor : a.trapInfo.major = false := hmajor
  rw [State.takeAsync, hdue]
  dsimp only
  rw [hdrop, State.trapWith, hminor, Bool.false_and, if_neg Bool.false_ne_true]
  exact State.takeTrap_untraced (by simp [Async.trapInfo]) (by simpa using htrace) _

/-- TCAUSE and TINFO of an asynchronous trap that is not major (R292, R293). -/
theorem Async.trapInfo_tcause {a : Async} (hmajor : a.major = false) :
    a.trapInfo.tcause = BitVec.ofNat 64 (a.code + (if a.esc = true then 32 else 0) + 128) := by
  have hesc : a.esc.toNat * 32 = if a.esc = true then 32 else 0 := by cases a.esc <;> rfl
  simp only [TrapInfo.tcause, Async.trapInfo, hmajor, hesc]
  rfl

/-- A pending trap stands before whatever the bundle would do. -/
theorem State.trapEntry_of_async {a : Async} (hmode : (s.ctx hw).run.trap = false) (ha : (s.ctx hw).async = [a]) :
    s.trapEntry hw = s.takeAsync hw := by
  have hdue : (s.ctx hw).asyncDue = some a := by
    rw [Ctx.asyncDue, hmode, ha]
    rfl
  rw [State.trapEntry, hdue]
  rfl

/-- An unmapped page of the bundle traps in place of the issue. -/
theorem State.trapEntry_of_unmapped {page : Nat} (hasync : (s.ctx hw).async = []) (hb : s.bundleAt hw (s.ctx hw).frame.pos = .trap page) :
    s.trapEntry hw = (s.trapHere hw false 6 15 (BitVec.ofNat 64 page) 0).s := by
  have hdue : (s.ctx hw).asyncDue = none := by
    rw [Ctx.asyncDue, hasync]
    exact ite_self none
  rw [State.trapEntry, hdue, State.attempt, hb]
  rfl

/-- A context that is at a hem point by the model is at one by the rules (R211). -/
theorem State.hemPoint_of_atHem (h : s.atHem hw = true) : HemPoint s hw := by
  obtain ⟨hcalm, hhead⟩ := Bool.and_eq_true_iff.1 h
  have hhdr : ∃ hdr, s.headAt hw (s.ctx hw).frame.pos = .ok hdr ∧ fld hdr 14 1 = 1 := by
    split at hhead
    case h_1 hdr hok => exact ⟨hdr, hok, by simpa [hdrHem] using hhead⟩
    case h_2 => cases hhead
  simp only [State.calm, Bool.and_eq_true, Bool.not_eq_true', decide_eq_true_eq, List.isEmpty_iff, List.all_eq_true,
    List.any_eq_false] at hcalm
  obtain ⟨⟨⟨⟨⟨⟨-, htrap⟩, hrep⟩, hbr⟩, hval⟩, hflg⟩, hx⟩ := hcalm
  exact ⟨htrap, hrep, hbr, hval, hflg, fun x hm hxw => by simpa [hxw] using hx x hm, hhdr⟩

theorem Ctx.hemLate_iff {c : Ctx} : c.hemLate = true ↔
    c.run.trap = false ∧ c.ctl.hembound ≠ 0 ∧ c.run.h + c.ctl.hembound.toNat + 1 ≤ c.run.sched := by
  simp [Ctx.hemLate, and_assoc]

/-- An overdue hem point that is none is trapped. -/
theorem State.hemTrap_of_late (hready : (s.ctx hw).run.st = .ready) (hlate : (s.ctx hw).hemLate = true) (hhem : ¬ HemPoint s hw) :
    s.hemTrap hw = s.takeTrap hw (syncTrap 14 0 15) (s.ctx hw).frame.pos := by
  have hnot : s.atHem hw = false := Bool.eq_false_iff.2 fun h => hhem (State.hemPoint_of_atHem h)
  exact if_pos ⟨hready, hlate, by rw [hnot]; rfl⟩

theorem State.hemTrap_of_early (h : (s.ctx hw).hemLate = false) : s.hemTrap hw = s := if_neg fun hc => by simp [h] at hc

end

/-- Settles O36: each of the three traps enters the routine from the context that is about to issue. -/
theorem asynchronousTrapEntry : Obligations.AsynchronousTrapEntry := by
  refine fun hw s => ⟨fun a hmode htrace ha hmajor _ => ?_, fun page hmode htrace hasync hpage => ?_,
    fun hready hmode htrace hbound hlate hhem => ?_, fun h => ?_⟩
  · refine ⟨_, rfl, ?_⟩
    dsimp only
    rw [State.trapEntry_of_async hmode ha, State.takeAsync_only hmode htrace ha hmajor]
    refine ⟨?_, fun k hk => ?_, rfl⟩
    · have := State.trapEntered_entered (s := s.modCtx hw (fun c => { c with async := [] })) (hw := hw) a.trapInfo (s.ctx hw).frame.pos
      rwa [Async.trapInfo_tcause hmajor, State.modCtx_ctx_same] at this
    · rw [State.trapEntered_other _ _ hk, State.modCtx_ctx_other _ _ hk]
  · refine ⟨_, rfl, ?_⟩
    dsimp only
    obtain ⟨hentered, hothers, -⟩ :=
      trapEntry (s.asCand false) hw 6 0 15 (s.ctx hw).frame.pos (BitVec.ofNat 64 page) hmode htrace (by decide)
    rw [State.trapEntry_of_unmapped hasync hpage]
    exact ⟨hentered, hothers, State.takeTrap_mem_untraced (s := s.asCand false) hmode htrace _ _⟩
  · refine ⟨_, rfl, ?_⟩
    dsimp only
    obtain ⟨hentered, hothers, -⟩ := trapEntry s hw 14 0 15 (s.ctx hw).frame.pos 0 hmode htrace (by decide)
    rw [State.hemTrap_of_late hready (Ctx.hemLate_iff.2 ⟨hmode, hbound, hlate⟩) hhem]
    exact ⟨hentered, hothers, State.takeTrap_mem_untraced hmode htrace _ _⟩
  · have hearly : (s.ctx hw).hemLate = false := by
      refine Bool.eq_false_iff.2 fun hlate => ?_
      obtain ⟨hmode, hbound, hlt⟩ := Ctx.hemLate_iff.1 hlate
      rcases h with h | h | h
      · simp [h] at hmode
      · exact hbound h
      · omega
    exact congrArg Host.Outcome.next (State.hemTrap_of_early hearly)

end Sys2Proof.Machine
end

section
/-!
PROOF. The return from a trap (R308).
-/

namespace Sys2Proof.Machine

open Sys2Proof.Claims

/-! ## The context that returns -/

/-- A landing with nothing due changes nothing. -/
theorem Ctx.land_of_none_due {c : Ctx} (hval : ∀ p ∈ c.pend.val, c.run.sched < p.land) (hflg : ∀ p ∈ c.pend.flg, c.run.sched < p.land) :
    c.land = c := by
  have hdueV : c.dueVal = [] := List.filter_eq_nil_iff.2 fun p hp => by simpa using hval p hp
  have hdueF : c.dueFlg = [] := List.filter_eq_nil_iff.2 fun p hp => by simpa using hflg p hp
  have hundue : c.undue = c := by
    rw [Ctx.undue, List.filter_eq_self.2 fun p hp => by simpa using hval p hp,
      List.filter_eq_self.2 fun p hp => by simpa using hflg p hp]
  rw [c.land_eq, hdueV, hdueF, hundue]
  rfl

/-- The context after a return with nothing of the routine in flight, and no preload to resume: the frame and the counter are
those of the trap, and the frozen results go on at their remaining delays. -/
def Ctx.returned (c : Ctx) : Ctx :=
  let n := c.ctl.tcycle.toNat
  { c with
    frame := c.tframe
    fmt := { c.fmt with flgNow := c.fmt.flg &&& c.tframe.flgNow }
    pend := ⟨c.pend.frozenVal.map (thawVal n), c.pend.frozenFlg.map (thawFlg n), [], []⟩
    run := { c.run with sched := n, trap := false, phase := 1, window := 0, pre := none } }

theorem Ctx.trapReturn_quiet {c : Ctx} (hval : c.pend.val = []) (hflg : c.pend.flg = []) (hpre : c.run.pre = none)
    (hlandV : ∀ p ∈ c.pend.frozenVal, 0 < p.land) (hlandF : ∀ p ∈ c.pend.frozenFlg, 0 < p.land) : c.trapReturn = c.returned := by
  have hreturn : c.trapReturn = c.returned.land := by
    simp [Ctx.trapReturn, hval, hflg, hpre, Ctx.returned]
  rw [hreturn]
  refine Ctx.land_of_none_due (fun p hp => ?_) (fun p hp => ?_)
  · obtain ⟨q, hq, rfl⟩ := List.mem_map.1 hp
    exact Nat.lt_add_of_pos_right (hlandV q hq)
  · obtain ⟨q, hq, rfl⟩ := List.mem_map.1 hp
    exact Nat.lt_add_of_pos_right (hlandF q hq)

/-! ## The effect -/

/-- The context has returned from its trap, and its transfers run again. -/
def State.returning (s : State) (hw : Nat) : State :=
  (s.modCtx hw Ctx.trapReturn).modCore (coreOf hw) (fun k => { k with xfers := k.xfers.map (fun x =>
    if x.hw = hw then { x with frozen := false } else x) })

section

variable {s : State} {hw : Nat}

/-- What engines take up again changes the context's engine side alone, and neither another context nor the memories nor the module. -/
theorem State.releaseEngines_keeps (s : State) (hw : Nat) : (∃ e, (s.releaseEngines hw).ctx hw = { s.ctx hw with eng := e }) ∧
    (∀ k, k ≠ hw → (s.releaseEngines hw).ctx k = s.ctx k) ∧ (s.releaseEngines hw).mem = s.mem ∧
    (s.releaseEngines hw).mod = s.mod := by
  unfold State.releaseEngines
  dsimp only
  split
  · exact ⟨⟨_, rfl⟩, fun _ _ => rfl, rfl, rfl⟩
  · exact ⟨⟨_, by simp only [State.modCl_ctx, State.modCore_ctx, State.setCtx_ctx_same]; rfl⟩, fun k hk => by simp [hk], rfl, rfl⟩

theorem State.eretPlan_of_uncut (h : (s.ctx hw).run.cuts = 0) : s.eretPlan hw = .prods [] := by
  have hnone : slotList (s.ctx hw).run.cuts = [] := by rw [h]; decide
  rw [State.eretPlan, hnone, State.restorePlan]

/-- The return of a context without cut products: beside its own return its engines are released. -/
theorem State.eretEff_of_uncut (h : (s.ctx hw).run.cuts = 0) : s.eretEff hw =
    ((s.returning hw).releaseEngines hw).modCtx hw (fun c => { c with run := { c.run with cuts := 0 } }) := by
  have hnone : slotList (s.ctx hw).run.cuts = [] := by rw [h]; decide
  rw [State.eretEff, State.eretPlan_of_uncut h]
  dsimp only
  rw [hnone, State.chargeSlots, State.restoreProds, List.foldl_nil, List.foldl_nil, State.returning]

/-- Nothing holds back the return of a context with nothing of the routine in flight and no cut products. -/
theorem State.eretWait_of_quiet (hval : (s.ctx hw).pend.val = []) (hflg : (s.ctx hw).pend.flg = [])
    (hx : ∀ x ∈ (s.core (coreOf hw)).xfers, x.hw = hw → x.frozen = true ∨ x.orphan = true) (hcuts : (s.ctx hw).run.cuts = 0) :
    s.eretWait hw = none := by
  have hxfers : (s.core (coreOf hw)).xfers.any (fun x => decide (x.hw = hw) && !x.frozen && !x.orphan) = false := by
    refine List.any_eq_false.2 fun x hm => ?_
    by_cases hxw : x.hw = hw
    · rcases hx x hm hxw with h | h <;> simp [h]
    · simp [hxw]
  rw [State.eretWait, State.eretPlan_of_uncut hcuts]
  simp [hval, hflg, hxfers, State.restoreFits]

/-- Outside trap mode nothing holds ERET back: it is refused instead. -/
theorem State.eretWait_of_no_trap (h : (s.ctx hw).run.trap = false) : s.eretWait hw = none := by
  rw [State.eretWait, h]
  exact if_neg (by simp)

end

/-! ## ERET -/

section

variable (s : State)

theorem eret_privileged (hbr : s.me.frame.br.st = 0) : Privileged .eret s := by
  intro hgo hpriv htrap
  rw [exec_eret, execEret, Ctx.delayChk_of_free hbr, Ctx.privChk_of_unprivileged hpriv htrap]
  exact State.perform_mode _ _ _ _ _ _ hgo

theorem eret_outside_trap (hgo : s.cur.go = false) (hbr : s.me.frame.br.st = 0) (hpriv : s.me.run.priv = true)
    (htrap : s.me.run.trap = false) : exec .eret s = .next (trapped s (.chk ⟨1, 0, 0⟩) 1 0 0) := by
  rw [exec_eret, execEret, Ctx.delayChk_of_free hbr, Ctx.privChk_of_privileged (.inl hpriv), State.eretWait_of_no_trap htrap, htrap]
  exact State.perform_chk _ _ _ hgo

theorem eret_returns (hbr : s.me.frame.br.st = 0) (htrap : s.me.run.trap = true) (hwait : s.eretWait s.cur.hw = none) :
    exec .eret s = .next (s.eretEff s.cur.hw) := by
  rw [exec_eret, execEret, State.perform_on]
  refine .inr ⟨?_, hwait, if_pos htrap⟩
  rw [Ctx.delayChk_of_free hbr, Ctx.privChk_of_privileged (.inr htrap)]
  rfl

end

/-- Settles O12: with nothing of the routine in flight ERET takes effect at once, and it restores what the trap saved. -/
theorem trapReturnResult : Obligations.TrapReturnResult := by
  refine fun s => ⟨fun hgo hbr => ?_, eret_privileged s, eret_outside_trap s,
    fun hbr htrap hval hflg hx hcuts hpre hlandV hlandF => ?_⟩
  · exact inDelay_of_mode (exec_eret s) hgo (Ctx.delayChk_orElse_of_delay hbr _)
  · refine ⟨_, eret_returns s hbr htrap (State.eretWait_of_quiet hval hflg hx hcuts), ?_⟩
    dsimp only
    rw [State.eretEff_of_uncut hcuts]
    have hctx : (s.returning s.cur.hw).ctx s.cur.hw = s.me.returned := by
      rw [State.returning, State.modCore_ctx, State.modCtx_ctx_same]
      exact Ctx.trapReturn_quiet hval hflg hpre hlandV hlandF
    obtain ⟨⟨e, he⟩, hothers, hmem, hmod⟩ := (s.returning s.cur.hw).releaseEngines_keeps s.cur.hw
    rw [State.modCtx_ctx_same, he, hctx]
    refine ⟨rfl, rfl, rfl, rfl, rfl, rfl, rfl, rfl, fun k hk => ?_, hmem, hmod⟩
    rw [State.modCtx_ctx_other _ _ hk, hothers k hk, State.returning, State.modCore_ctx, State.modCtx_ctx_other _ _ hk]

end Sys2Proof.Machine
end

section
/-!
PROOF. Saves that start at a hem point (R211, R253, R304), and the dispatch of a record (R252).
-/

namespace Sys2Proof.Machine

open Sys2Proof.Claims

/-! ## The primary (R207) -/

section

variable (s : State) (hw : Nat)

theorem State.leavePrimary_prim : ((s.leavePrimary hw).core (coreOf hw)).prim ≠ some hw := by
  rw [State.leavePrimary, State.modCore_core_same]
  split
  · exact Option.some_ne_none hw |>.symm
  · assumption

theorem State.leavePrimary_ctx (k : Nat) : (s.leavePrimary hw).ctx k = s.ctx k := rfl

theorem State.leavePrimary_prods (k : Nat) : ((s.leavePrimary hw).core k).prods = (s.core k).prods := by
  rw [State.leavePrimary]
  by_cases hk : k = coreOf hw
  · rw [hk, State.modCore_core_same]
    split
    all_goals rfl
  · rw [State.modCore_core_other _ _ hk]

theorem State.leavePrimary_imgs (k : Nat) : ((s.leavePrimary hw).core k).imgs = (s.core k).imgs := by
  rw [State.leavePrimary]
  by_cases hk : k = coreOf hw
  · rw [hk, State.modCore_core_same]
    split
    all_goals rfl
  · rw [State.modCore_core_other _ _ hk]

theorem State.switchNext_self : s.switchNext s hw = s := if_neg fun h => h.2 h.1

variable {s hw} {t : State}

theorem State.switchNext_ctx (k : Nat) : (t.switchNext s hw).ctx k = t.ctx k := by
  obtain ⟨_, h⟩ := State.switchNext_cases t s hw
  rw [h]
  rfl

theorem State.switchNext_mem : (t.switchNext s hw).mem = t.mem := by
  obtain ⟨_, h⟩ := State.switchNext_cases t s hw
  rw [h]

theorem State.switchNext_mod : (t.switchNext s hw).mod = t.mod := by
  obtain ⟨_, h⟩ := State.switchNext_cases t s hw
  rw [h]

theorem State.switchNext_prim : ((t.switchNext s hw).core (coreOf hw)).prim = (t.core (coreOf hw)).prim := by
  unfold State.switchNext
  split
  · rw [State.modCore_core_same]
  · rfl

/-- The primary that has been taken away makes the next real cycle a switch cycle. -/
theorem State.switchNext_sw (hs : (s.core (coreOf hw)).prim = some hw) (ht : (t.core (coreOf hw)).prim ≠ some hw) :
    ((t.switchNext s hw).core (coreOf hw)).sw = true := by
  rw [State.switchNext, if_pos ⟨hs, ht⟩, State.modCore_core_same]

end

/-! ## A context ends (R282, R309) -/

/-- What is left of a context that has ended. -/
def Ctx.ended (c : Ctx) : Ctx :=
  { c with
    pend := Pending.none, async := [], soon := [], eng := c.eng.ended, ckpt := none
    run := { c.run with st := .inactive, stage := .none, trap := false } }

/-- The ended context is its core's primary no more. -/
def State.standsDown (s : State) (hw : Nat) : State :=
  (((s.dropPushes hw (s.ctx hw).eng.endDrops).setCtx hw (s.ctx hw).ended).dropAsks hw).leavePrimary hw

section

variable (s : State) (hw : Nat)

theorem State.endContext_ctxs : (s.endContext hw).ctxs = SMap.put s.ctxs hw (s.ctx hw).ended := rfl

theorem State.endContext_prim : ((s.endContext hw).core (coreOf hw)).prim ≠ some hw := by
  have hprim : ((s.endContext hw).core (coreOf hw)).prim = ((s.standsDown hw).core (coreOf hw)).prim :=
    (congrArg Core.prim (SMap.getD_put_same _ _ _ _)).trans rfl
  rw [hprim]
  exact State.leavePrimary_prim _ _

theorem State.endContext_ended : Ended s (s.endContext hw) hw := by
  have hself : (s.endContext hw).ctx hw = (s.ctx hw).ended := SMap.getD_put_same _ _ _ _
  refine ⟨?_, ?_, ?_, ?_, ?_, ?_, ?_, s.endContext_prim hw, fun k hk => SMap.getD_put_other _ _ _ hk, rfl, rfl⟩
  all_goals rw [hself]
  case refine_6 => exact ⟨rfl, rfl, rfl, rfl⟩
  all_goals rfl

end

/-! ## A save starts (R304) -/

section

variable {s : State} {hw : Nat}

/-- The clock of a core that no hold stops runs. -/
theorem State.free_of_holds {core : Nat} (hholds : (s.core core).holds = []) (hwalk : s.walkHeld core = false) : s.free core = true := by
  rw [State.free, hholds, hwalk]
  rfl

/-- A context without products in flight has none to cut. -/
theorem State.cutProducts_of_none (hp : ∀ p ∈ (s.core (coreOf hw)).prods, p.hw ≠ hw) (fault stream : Bool) (why : Nat) (base : Word)
    (tok grp : Nat) : s.cutProducts hw fault stream why base tok grp = s := by
  have hleft : (s.core (coreOf hw)).prods.filter (fun p => decide (p.hw = hw) && !p.orphan && p.stepsLeft (s.core (coreOf hw)).arr) = [] :=
    List.filter_eq_nil_iff.2 fun p hm => by simp [hp p hm]
  rw [State.cutProducts, cutSlots, hleft]
  rfl

/-- The context waits for its save. -/
def State.saveAwaits (s : State) (hw : Nat) (push : Bool) : State :=
  (((s.modCtx hw (fun c => { c with run := { c.run with
    st := .waiting, stage := .save push, earliest := s.mod.cycles + 2 } })).leavePrimary hw).dropResume hw).leaveBars hw

theorem State.saveAwaits_prods (push : Bool) : ((s.saveAwaits hw push).core (coreOf hw)).prods = (s.core (coreOf hw)).prods := by
  rw [State.saveAwaits, State.leaveBars, State.modCl_core, State.dropResume, State.modCore_core_same]
  exact State.leavePrimary_prods _ _ _

theorem State.saveAwaits_imgs (push : Bool) : ((s.saveAwaits hw push).core (coreOf hw)).imgs = (s.core (coreOf hw)).imgs := by
  rw [State.saveAwaits, State.leaveBars, State.modCl_core, State.dropResume, State.modCore_core_same]
  exact State.leavePrimary_imgs _ _ _

theorem State.saveAwaits_prim (push : Bool) : ((s.saveAwaits hw push).core (coreOf hw)).prim ≠ some hw := by
  rw [State.saveAwaits, State.leaveBars, State.modCl_core, State.dropResume, State.modCore_core_same]
  exact State.leavePrimary_prim _ _

/-- Outside trap mode, and without products or image jobs, a save only has to wait. -/
theorem State.saveStart_quiet (htrap : (s.ctx hw).run.trap = false) (hbase : (s.ctx hw).ctl.seambase.toNat % 65536 = 0)
    (hp : ∀ p ∈ (s.core (coreOf hw)).prods, p.hw ≠ hw) (hj : ∀ j ∈ (s.core (coreOf hw)).imgs, j.hw ≠ hw) (push : Bool) :
    s.saveStart hw push = (s.saveAwaits hw push).fresh.2 := by
  have hcut (base : Word) (grp : Nat) : (s.saveAwaits hw push).fresh.2.cutProducts hw false false 2 base 0 grp = (s.saveAwaits hw push).fresh.2 :=
    State.cutProducts_of_none (fun p hm => hp p (by rwa [State.fresh_core, State.saveAwaits_prods] at hm)) _ _ _ _ _ _
  have hjobs (grp : Nat) : ((s.saveAwaits hw push).fresh.2.core (coreOf hw)).imgs.any (fun j => decide (j.hw = hw) && decide (j.grp = grp)) =
      false := by
    rw [State.fresh_core, State.saveAwaits_imgs, List.any_eq_false]
    exact fun j hm => by simp [hj j hm]
  rw [State.saveStart, if_neg (not_not_intro hbase), htrap, if_neg Bool.false_ne_true]
  show (if ((State.cutProducts (s.saveAwaits hw push).fresh.2 hw false false 2 _ 0 (s.saveAwaits hw push).fresh.1).core
    (coreOf hw)).imgs.any (fun j => decide (j.hw = hw) && decide (j.grp = (s.saveAwaits hw push).fresh.1)) = true then _
    else State.cutProducts (s.saveAwaits hw push).fresh.2 hw false false 2 _ 0 _) = _
  rw [hcut, hjobs, if_neg Bool.false_ne_true, hcut]

/-- A save that starts at a hem point, seen after the switch. -/
theorem State.saveStart_starts (hsave : Savable s hw) (htrap : (s.ctx hw).run.trap = false) (push : Bool) :
    SaveStarts s (((s.modCtx hw (fun c => { c with run := { c.run with h := c.run.sched } })).saveStart hw push).switchNext s hw) hw
      push := by
  obtain ⟨-, -, -, hbase, hp, hj⟩ := hsave
  rw [State.saveStart_quiet (by simpa using htrap) (by simpa using hbase) (by simpa using hp) (by simpa using hj)]
  refine ⟨?_, ?_, fun hprim => State.switchNext_sw hprim (State.saveAwaits_prim push), fun k hk => ?_, ?_, ?_⟩
  · rw [State.switchNext_ctx, State.fresh_ctx, State.saveAwaits]
    simp only [State.leaveBars, State.dropResume, State.modCl_ctx, State.modCore_ctx, State.leavePrimary_ctx, State.modCtx_ctx_same]
    rfl
  · rw [State.switchNext_prim]
    exact State.saveAwaits_prim push
  · rw [State.switchNext_ctx, State.fresh_ctx, State.saveAwaits]
    simp only [State.leaveBars, State.dropResume, State.modCl_ctx, State.modCore_ctx, State.leavePrimary_ctx, State.modCtx_ctx_other _ _ hk]
  · rw [State.switchNext_mem]
    rfl
  · rw [State.switchNext_mod]
    rfl

/-- A ready context at a hem point by the rules is at one by the model (R211). -/
theorem State.atHem_of_hemPoint (hready : (s.ctx hw).run.st = .ready) (h : HemPoint s hw) : s.atHem hw = true := by
  obtain ⟨htrap, hrep, hbr, hval, hflg, hx, hdr, hhead, hbit⟩ := h
  have hxfers : (s.core (coreOf hw)).xfers.any (fun x => decide (x.hw = hw) && !x.orphan) = false :=
    List.any_eq_false.2 fun x hm => by
      by_cases hxw : x.hw = hw
      · simp [hx x hm hxw]
      · simp [hxw]
  have hprods : (s.ctx hw).pend.flg.all (fun f => f.prod) = true := List.all_eq_true.2 hflg
  rw [State.atHem, State.calm, hready, htrap, hrep, hbr, hval, hprods, hxfers, hhead]
  simp [hdrHem, hbit]

theorem Ctx.budgetSpent_iff {c : Ctx} {d : Nat} (hd : c.run.curRec = some d) :
    c.budgetSpent = true ↔ fld d 96 32 ≠ 0 ∧ fld d 96 32 < c.run.ran := by
  rw [Ctx.budgetSpent, hd]
  show (decide (fld d 96 32 ≠ 0) && decide (fld d 96 32 < c.run.ran)) = true ↔ _
  rw [Bool.and_eq_true, decide_eq_true_eq, decide_eq_true_eq]

theorem hemPointEvents : HemPointEvents := by
  intro hw s hsave hhem
  have hstart := State.saveStart_starts hsave hhem.1
  obtain ⟨hready, ⟨hholds, hwalk⟩, hstage, -, -, -⟩ := hsave
  have hfree := State.free_of_holds hholds hwalk
  have hat := State.atHem_of_hemPoint hready hhem
  have hnosave (push : Bool) : (s.ctx hw).run.stage ≠ .save push := by simp [hstage]
  refine ⟨⟨_, rfl, ?_⟩, fun d hd hset hspent => ⟨_, rfl, ?_⟩, fun d hd hleft => ?_⟩
  · dsimp only
    rw [State.preempt, if_neg (hnosave _), hfree, if_neg (by simp), if_pos hat]
    exact hstart false
  · dsimp only
    rw [State.budget, if_neg (hnosave _), hfree, hat, (Ctx.budgetSpent_iff hd).2 ⟨hset, hspent⟩, Bool.and_self, Bool.and_self, if_pos rfl]
    exact hstart true
  · have hnot : (s.ctx hw).budgetSpent = false := Bool.eq_false_iff.2 fun h => by
      obtain ⟨hset, hspent⟩ := (Ctx.budgetSpent_iff hd).1 h
      omega
    show Host.Outcome.next ((s.budget hw).switchNext s hw) = _
    rw [State.budget, if_neg (hnosave _), hnot, Bool.and_false, if_neg Bool.false_ne_true, State.switchNext_self]

end

/-! ## A record starts (R247, R252) -/

/-- The word of s48 to s55 that a record sets. -/
def Ctx.recordWord (d : Nat) (c : Ctx) (w : Nat) : Ctx :=
  { c with regs := { c.regs with s := SMap.put c.regs.s (48 + w) (BitVec.ofNat 64 (fld d (64 * w) 64)) } }

/-- The context with the words of a record in s48 to s55. -/
def Ctx.recordWords (c : Ctx) (d : Nat) : Ctx := (List.range 8).foldl (Ctx.recordWord d) c

theorem Ctx.recordWords_eq (c : Ctx) (d : Nat) : c.recordWords d = { c with regs := { c.regs with s := (c.recordWords d).regs.s } } := rfl

theorem Ctx.recordWords_word (c : Ctx) (d : Nat) {w : Nat} (hw : w < 8) :
    SMap.getD (c.recordWords d).regs.s (48 + w) 0 = BitVec.ofNat 64 (fld d (64 * w) 64) := by
  interval_cases w
  all_goals simp [Ctx.recordWords, Ctx.recordWord, List.range_succ]

theorem Ctx.recordWords_other (c : Ctx) (d : Nat) {n : Nat} (hn : n < 48 ∨ 55 < n) :
    SMap.getD (c.recordWords d).regs.s n 0 = SMap.getD c.regs.s n 0 := by
  refine List.foldlRecOn (motive := fun b : Ctx => SMap.getD b.regs.s n 0 = SMap.getD c.regs.s n 0) _ _ rfl fun b hb w hw => ?_
  have hlt : w < 8 := List.mem_range.1 hw
  exact (SMap.getD_put_other _ _ _ (by omega)).trans hb

theorem Ctx.startTask_eq (c : Ctx) (d : Nat) : c.startTask d = { c.recordWords d with
    frame := ⟨recEntry d, 0, Branch.free, [], 0, false, 0⟩
    run := { c.run with h := c.run.sched, curRec := some d, released := false, ran := 0, phase := 1, window := 0 } } := rfl

theorem not_inBank_of_argument {trap : Bool} {w : Nat} (hw : w < 8) : inBank trap (48 + w) = false := by
  have : ¬ 56 ≤ 48 + w := by omega
  simp [inBank, this]

section

variable {s : State} {hw d : Nat}

theorem State.dispatchTask_of_startable (h : Startable d) : s.startRec hw d =
    (s.modCtx hw (fun c => c.startTask d)).modCtx hw (fun c => { c with run := { c.run with st := .ready, stage := .none } }) := by
  obtain ⟨hkind, hplen⟩ := h
  have hresume : recKind d ≠ 2 := by unfold recKind; omega
  have hend : recKind d ≠ 3 := by unfold recKind; omega
  rw [State.startRec, if_neg hresume, if_neg hend, State.dispatchTask]
  exact if_pos hplen

/-- A startable record starts. -/
theorem State.startRec_starts (h : Startable d) : Starts s (s.startRec hw d) hw d := by
  rw [State.dispatchTask_of_startable h]
  have hctx : ((s.modCtx hw (fun c => c.startTask d)).modCtx hw (fun c => { c with run := { c.run with st := .ready, stage := .none } })).ctx
      hw = { (s.ctx hw).startTask d with run := { ((s.ctx hw).startTask d).run with st := .ready, stage := .none } } := by
    rw [State.modCtx_ctx_same, State.modCtx_ctx_same]
  constructor
  case args =>
    intro w hlt
    rw [hctx, Ctx.sreg, if_neg (by omega), not_inBank_of_argument hlt, if_neg Bool.false_ne_true]
    exact Ctx.recordWords_word _ d hlt
  case sregs =>
    intro n hn
    rw [hctx, Ctx.sreg, Ctx.sreg]
    exact congrArg (fun v => if n = 0 then 0 else if inBank (s.ctx hw).run.trap n = true then SMap.getD (s.ctx hw).bank n 0 else v)
      (Ctx.recordWords_other _ d hn)
  case others =>
    intro k hk
    rw [State.modCtx_ctx_other _ _ hk, State.modCtx_ctx_other _ _ hk]
  case mem => rfl
  case state => exact hctx ▸ ⟨rfl, rfl⟩
  case record => exact hctx ▸ ⟨rfl, rfl, rfl⟩
  case hem => exact hctx ▸ ⟨rfl, rfl⟩
  case vregs => exact hctx ▸ ⟨rfl, rfl, rfl⟩
  all_goals
    rw [hctx]
    rfl

end

/-! ## The search (R252) -/

/-- The pending watch entries of a record that has been taken become armed. -/
def State.recTaken (s : State) (id : Nat) : State := { s with clusters := s.clusters.map (fun c => (c.1, c.2.recTaken id)) }

section

variable (s : State) (cl qn : Nat)

theorem State.recTaken_tq (id : Nat) : ((s.recTaken id).cluster cl).tq = (s.cluster cl).tq := by
  rw [State.cluster, State.cluster, SMap.getD, SMap.getD, State.recTaken, SMap.get?_map_snd (fun _ c => Cluster.recTaken c id)]
  cases SMap.get? s.clusters cl with
  | none => rfl
  | some c => rfl

theorem State.recTaken_taskQ (id : Nat) : (s.recTaken id).taskQ cl qn = s.taskQ cl qn := by
  rw [State.taskQ, State.taskQ, State.recTaken_tq]
  rfl

theorem State.recTaken_ctx (id k : Nat) : (s.recTaken id).ctx k = s.ctx k := rfl
theorem State.recTaken_mem (id : Nat) : (s.recTaken id).mem = s.mem := rfl

theorem State.modCtx_taskQ (k : Nat) (f : Ctx → Ctx) : (s.modCtx k f).taskQ cl qn = s.taskQ cl qn := rfl

theorem State.setTaskQ_taskQ (q : TaskQ) : (s.setTaskQ cl qn q).taskQ cl qn = some q := by
  rw [State.setTaskQ, State.taskQ]
  by_cases hqn : qn < 0x100
  · rw [if_pos hqn, if_pos hqn, State.modCl_cluster_same]
    exact SMap.get?_put_same _ _ _
  · rw [if_neg hqn, if_neg hqn]
    exact SMap.get?_put_same _ _ _

theorem State.setTaskQ_ctx (q : TaskQ) (k : Nat) : (s.setTaskQ cl qn q).ctx k = s.ctx k := by
  unfold State.setTaskQ
  split
  all_goals rfl

theorem State.setTaskQ_mem (q : TaskQ) : (s.setTaskQ cl qn q).mem = s.mem := by
  unfold State.setTaskQ
  split
  all_goals rfl

variable {s cl qn} {q : TaskQ} {l : List TRec} {r : TRec}

/-- The owner takes the newest record of the SRAM part of its queue. -/
theorem State.takeRec_newest (hq : s.taskQ cl qn = some q) (hl : q.sram = l ++ [r]) :
    s.takeRec cl qn true = .ok (r, (s.setTaskQ cl qn { q with sram := l }).recTaken r.id) := by
  have hlast : q.sram.getLast? = some r := by rw [hl, List.getLast?_concat]
  have hrest : q.sram.dropLast = l := by rw [hl, List.dropLast_concat]
  rw [State.takeRec, hq]
  simp only [if_true, hlast, hrest]
  rfl

variable {hw n : Nat}

/-- The search meets the context's own queue first. -/
theorem State.searchHit_own (hown : (s.ctx hw).eng.ownQ = some n) (hq : s.taskQ (clusterOf hw) n = some q) (hl : q.sram = l ++ [r]) :
    s.searchHit hw = some (n, true) := by
  have hholds : s.holdsRec hw n = true := by
    rw [State.holdsRec, hq]
    simp [hl]
  rw [State.searchHit, State.searchList, hown]
  simp only [List.cons_append, List.find?_cons, hholds]

/-- The context has taken its queue's newest record, which stood in the SRAM part. -/
theorem State.searchTake_own (hown : (s.ctx hw).eng.ownQ = some n) (hq : s.taskQ (clusterOf hw) n = some q) (hl : q.sram = l ++ [r]) :
    s.searchTake hw = ((s.setTaskQ (clusterOf hw) n { q with sram := l }).recTaken r.id).modCtx hw (fun c => { c with run := { c.run with
      stage := .got r.d, tookFrom := some n } }) := by
  rw [State.searchTake, State.searchHit_own hown hq hl]
  dsimp only
  rw [State.takeRec_newest hq hl]
  dsimp only
  rw [State.chargeRing_of_same_ring]
  rw [State.recTaken_taskQ, State.setTaskQ_taskQ, hq]
  rfl

end

/-- What a record starts from the state in which it has been taken, it starts from the state before. -/
theorem starts_of_took {s t u : State} {hw d : Nat} {stage : Stage} {from_ : Option Nat} (h : Starts t u hw d)
    (hctx : t.ctx hw = { s.ctx hw with run := { (s.ctx hw).run with stage := stage, tookFrom := from_ } })
    (hothers : ∀ k, k ≠ hw → t.ctx k = s.ctx k) (hmem : t.mem = s.mem) : Starts s u hw d := by
  obtain ⟨hargs, hsregs, hframe, hstate, hrecord, hhem, hvregs, hctl, hfmt, hoth, hm⟩ := h
  rw [hctx] at hsregs hhem hvregs hctl hfmt
  exact ⟨hargs, hsregs, hframe, hstate, hrecord, hhem, hvregs, hctl, hfmt, fun k hk => (hoth k hk).trans (hothers k hk), hm.trans hmem⟩

theorem recordDispatch : RecordDispatch := by
  refine fun hw s d => ⟨fun hstage h => ⟨_, rfl, ?_⟩, fun hstage hkind => ⟨_, rfl, ?_⟩, fun n q l r hstage hown hq _ hl h => ⟨_, rfl, ?_⟩⟩
  · dsimp only
    rw [State.dispatch, hstage]
    exact State.startRec_starts h
  · dsimp only
    have hend : recKind d = 3 := hkind
    have hresume : recKind d ≠ 2 := by omega
    rw [State.dispatch, hstage]
    dsimp only
    rw [State.startRec, if_neg hresume, if_pos hend]
    exact s.endContext_ended hw
  · dsimp only
    have htake := State.searchTake_own hown hq hl
    have hgot : ((s.searchTake hw).ctx hw).run.stage = .got r.d := by rw [htake, State.modCtx_ctx_same]
    rw [State.dispatch, hstage]
    dsimp only
    rw [hgot]
    dsimp only
    refine ⟨starts_of_took (State.startRec_starts h) (by rw [htake, State.modCtx_ctx_same, State.recTaken_ctx, State.setTaskQ_ctx])
      (fun k hk => by rw [htake, State.modCtx_ctx_other _ _ hk, State.recTaken_ctx, State.setTaskQ_ctx])
      (by rw [htake, State.modCtx_mem, State.recTaken_mem, State.setTaskQ_mem]), ?_⟩
    rw [State.dispatchTask_of_startable h, State.modCtx_taskQ, State.modCtx_taskQ, htake, State.modCtx_taskQ, State.recTaken_taskQ,
      State.setTaskQ_taskQ]

/-- Settles O37: a hem point lets a save start that nothing holds up, and a record that has been taken starts or ends its context. -/
theorem hemRecordEvents : Obligations.HemRecordEvents := ⟨hemPointEvents, recordDispatch⟩

end Sys2Proof.Machine
end

section
/-!
PROOF. Control instructions of the F slot: YIELD, YIELD.nw and TDONE (R251, R252, R264, R265), HALT (R309), KEYLD and KEYLD.clr
(R310), and OVL (R284).
-/

namespace Sys2Proof.Machine

open Sys2Proof.Claims

/-! ## Waits of a syllable (R209) -/

/-- A syllable that has asked for what it waits for is held back from there. -/
theorem heldBackFrom_of_perform {i : Instr} {s s0 : State} {on : Bool} {wait : Option Wait} {chk : Option Chk} {eff : State → State}
    (h : exec i s = s0.perform none on wait chk eff) (hcur : s0.cur = s.cur) (hgo : s.cur.go = false) (hon : on = true)
    (hwait : wait = some .engine) : HeldBackFrom i s s0 := by
  rw [HeldBackFrom, h, hon, hwait, State.perform_engine _ _ _ (hcur ▸ hgo), hcur]

/-! ## YIELD (R252, R264) -/

section

variable {s : State} {hw : Nat}

theorem State.yieldWait_of_quiet (htrap : (s.ctx hw).run.trap = false) (hquiet : s.quiet hw = true) (hc : (s.ctx hw).eng.cG = [])
    (hq : (s.ctx hw).eng.qG = []) : s.yieldWait hw = none := by
  rw [State.yieldWait]
  simp only [htrap, hquiet, hc, hq]
  rfl

/-- The context of a YIELD searches for its next record, and its core has no primary in it. -/
theorem State.yieldEff_searches (htrap : (s.ctx hw).run.trap = false) :
    (s.yieldEff hw).ctx hw = { s.ctx hw with run := { (s.ctx hw).run with
      st := .waiting, stage := .search, earliest := s.mod.cycles + 2 } } := by
  rw [State.yieldEff, State.leavePrimary_ctx, State.modCtx_ctx_same, htrap]
  rfl

theorem State.yieldEff_other {k : Nat} (hk : k ≠ hw) : (s.yieldEff hw).ctx k = s.ctx k := by
  rw [State.yieldEff, State.leavePrimary_ctx, State.modCtx_ctx_other _ _ hk]

theorem State.yieldNwEff_of_miss (htrap : (s.ctx hw).run.trap = false) (hmiss : s.searchHit hw = none) :
    s.yieldNwEff hw = s.modCtx hw (fun c => c.setS 48 0) := by
  rw [State.yieldNwEff, htrap, if_neg Bool.false_ne_true, hmiss]

end

/-- s48 lies in no trap bank. -/
theorem Ctx.setS_48 (c : Ctx) (v : Word) : c.setS 48 v = { c with regs := { c.regs with s := SMap.put c.regs.s 48 v } } := by
  rw [Ctx.setS, if_neg (by decide), not_inBank_of_argument (w := 0) (by decide), if_neg Bool.false_ne_true]

/-! ## TDONE (R251, R265) -/

section

variable {s : State}

theorem Ctx.toRelease_of_none {c : Ctx}
    (h : ∀ d, c.run.curRec = some d → recCounter d = 0xFFFFFFFF ∨ c.run.released = true) : c.toRelease = none := by
  rw [Ctx.toRelease]
  cases hd : c.run.curRec with
  | none => rfl
  | some d => exact if_pos (h d hd)

theorem Ctx.toRelease_of_due {c : Ctx} {d : Nat} (hd : c.run.curRec = some d) (hrel : c.run.released = false)
    (hcounter : recCounter d ≠ 0xFFFFFFFF) : c.toRelease = some d := by
  rw [Ctx.toRelease, hd]
  exact if_neg (by simp [hrel, noCounter, hcounter])

theorem Ctx.releaseSys_of_due {c : Ctx} {d : Nat} (h : c.toRelease = some d) : c.releaseSys = decide (fld d 40 8 = 4) := by
  rw [Ctx.releaseSys, h]
  rfl

/-- A DRAIN at a narrower scope, or with accesses that have not performed, asks for no read. -/
theorem State.drainAsk_narrow (on : Bool) : s.drainAsk on false = s := if_pos (by simp)

theorem State.drainAsk_undrained (on sys : Bool) (h : s.drained s.cur.hw = false) : s.drainAsk on sys = s := if_pos (by simp [h])

theorem State.drainAsk_asked (on sys : Bool) (h : (s.pingsOf s.cur.hw).isSome = true) : s.drainAsk on sys = s := if_pos (by simp [h])

theorem State.drainAsk_first (hgo : s.cur.go = false) (hdrained : s.drained s.cur.hw = true) (hnone : s.pingsOf s.cur.hw = none) :
    s.drainAsk true true = withPings s (s.front.pings ++ [(s.cur.hw, s.me.eng.hostLinks)]) := by
  rw [State.drainAsk, hgo, hdrained, hnone]
  exact if_neg (by simp)

/-- The reads of a context that has just asked. -/
theorem State.pingsOf_appended {hw : Nat} {ls : List Nat} (hnone : s.pingsOf hw = none) :
    (withPings s (s.front.pings ++ [(hw, ls)])).pingsOf hw = some ls := by
  have hfind : s.front.pings.find? (fun x => decide (x.1 = hw)) = none := Option.map_eq_none_iff.1 hnone
  simp [State.pingsOf, withPings, List.find?_append, hfind]

theorem State.drainWait_asking {sys : Bool} {ls : List Nat} (hdrained : s.drained s.cur.hw = true)
    (hls : s.pingsOf s.cur.hw = some ls) (hne : ls ≠ []) (hsys : sys = true) : s.drainWait sys = some .engine := by
  have hopen : decide (s.pingsOf s.cur.hw ≠ some []) = true := by simp [hls, hne]
  rw [State.drainWait, hdrained, hsys, hopen]
  rfl

theorem State.drainWait_undrained (sys : Bool) (h : s.drained s.cur.hw = false) : s.drainWait sys = some .engine := by
  rw [State.drainWait, h]
  rfl

theorem State.drainWait_done {sys : Bool} (hdrained : s.drained s.cur.hw = true) (h : sys = false ∨ s.pingsOf s.cur.hw = some []) :
    s.drainWait sys = none := by
  have hclosed : (sys && decide (s.pingsOf s.cur.hw ≠ some [])) = false := by
    rcases h with h | h
    · simp [h]
    · simp [h]
  rw [State.drainWait, hdrained, hclosed]
  rfl

/-- TDONE asks for nothing when nothing is released, or at a narrower scope. -/
theorem State.tdoneAsk_narrow (g : Nat) (h : s.me.releaseSys = false) : s.tdoneAsk g = s := by
  rw [State.tdoneAsk, h, State.drainAsk_narrow]

theorem Ctx.releaseSys_of_none {c : Ctx} (h : c.toRelease = none) : c.releaseSys = false := by
  rw [Ctx.releaseSys, h]

/-- A TDONE whose reads have been asked for. -/
theorem exec_tdone_asked {g : Nat} {s0 : State} (hask : s.tdoneAsk g = s0) : exec (.tdone g) s =
    s0.perform none (s.me.guardN g) (if s.me.toRelease.isSome then s0.drainWait s.me.releaseSys else none) none
      (fun s => (s.dropPings s.cur.hw).tdoneEff s.cur.hw) := by
  rw [exec_tdone, execTdone, hask]

/-- The bytes of a counter after it has changed (R251). -/
def counterCells (s : State) (a add : Nat) : List (Nat × Byte) :=
  (List.range 8).map (fun k => (a + k, BitVec.ofNat 8 ((s.mem.spad.readN a 8 + add) / 256 ^ k)))

theorem State.counterAdd_noWatch (h : NoWatch s) (ccl off add : Nat) (wr : Option Writer) :
    s.counterAdd ccl off add wr = s.portWrite (counterCells s (ccl * 0xC000000 + off) add) := by
  rw [State.counterAdd, zipWith_toBytes]
  exact State.spadWrite_noWatch h _ _

theorem nodup_counterCells (s : State) (a add : Nat) : ((counterCells s a add).map (fun c => c.1)).Nodup := by
  rw [counterCells, List.map_map]
  exact List.nodup_range.map fun _ _ h => Nat.add_left_cancel h

theorem Memory.read_counterCells_same (h : s.mem.spad.wf = true) (a add : Nat) {k : Nat} (hk : k < 8) :
    ((counterCells s a add).foldl (fun m c => m.write c.1 c.2) s.mem.spad).read (a + k) =
      BitVec.ofNat 8 ((s.mem.spad.readN a 8 + add) / 256 ^ k) :=
  Memory.foldl_read_mem h (nodup_counterCells s a add) (List.mem_map.2 ⟨k, List.mem_range.2 hk, rfl⟩)

theorem Memory.read_counterCells_other (h : s.mem.spad.wf = true) (a add : Nat) {b : Nat} (hb : b < a ∨ a + 8 ≤ b) :
    ((counterCells s a add).foldl (fun m c => m.write c.1 c.2) s.mem.spad).read b = s.mem.spad.read b := by
  refine Memory.foldl_read_other _ h fun c hc e => ?_
  obtain ⟨k, hk, rfl⟩ := List.mem_map.1 hc
  have hlt : k < 8 := List.mem_range.1 hk
  dsimp only at e
  omega

/-- The journal's checkpoints aside, a write that triggers nothing leaves the contexts. -/
theorem State.portWrite_keeps {β : Type} (f : Ctx → β) (hf : ∀ (c : Ctx) k, f { c with ckpt := k } = f c) (cells : List (Nat × Byte))
    (k : Nat) : f ((s.portWrite cells).ctx k) = f (s.ctx k) :=
  State.portWrite_unchanged (fun s => f (s.ctx k)) (fun _ _ _ _ => rfl) (fun s hw g => s.modCtx_keeps f (fun c => hf c (g c)) hw k)
    (fun _ _ => rfl) s cells

/-- The record is released, and nothing is asked for any more. -/
def State.tdoneReleased (s : State) : State :=
  (s.dropPings s.cur.hw).modCtx s.cur.hw (fun c => { c with run := { c.run with released := true } })

theorem State.tdoneReleased_ctx (s : State) : s.tdoneReleased.ctx s.cur.hw = { s.me with run := { s.me.run with released := true } } :=
  State.modCtx_ctx_same _ _ _

/-- A TDONE that releases, without an armed watch entry: the counter goes down, and the record is released. -/
theorem State.tdoneEff_releases {d : Nat} (h : s.me.toRelease = some d) (hwatch : NoWatch s) :
    (s.dropPings s.cur.hw).tdoneEff s.cur.hw =
      s.tdoneReleased.portWrite (counterCells s (recCcl d * 0xC000000 + recCounter d) (2 ^ 64 - 1)) := by
  have hrelease : ((s.dropPings s.cur.hw).ctx s.cur.hw).toRelease = some d := h
  rw [State.tdoneEff, hrelease]
  exact State.counterAdd_noWatch (s := s.tdoneReleased) hwatch _ _ _ _

end

/-! ## YIELD and TDONE -/

section

variable {s : State} {g : Nat}

theorem yield_nullified (hbr : s.me.frame.br.st = 0) (hg : s.me.guardN g = false) :
    Nullified (.yield g) s ∧ Nullified (.yieldNw g) s := by
  have hmode := Ctx.delayChk_of_free hbr
  refine ⟨?_, ?_⟩
  · rw [Nullified, exec_yield, execYield, hg, hmode, State.perform_off _ _ _ _ _ (.inl rfl)]
  · rw [Nullified, exec_yieldNw, execYieldNw, hg, hmode, State.perform_off _ _ _ _ _ (.inl rfl)]

theorem yield_inDelay (hgo : s.cur.go = false) (hbr : s.me.frame.br.st ≠ 0) :
    exec (.yield g) s = .next (trapped s (.mode ⟨2, 0, 0⟩) 2 0 0) ∧ exec (.yieldNw g) s = .next (trapped s (.mode ⟨2, 0, 0⟩) 2 0 0) := by
  have hmode := Ctx.delayChk_of_delay hbr
  refine ⟨?_, ?_⟩
  · rw [exec_yield, execYield, hmode, State.perform_mode _ _ _ _ _ _ hgo]
    rfl
  · rw [exec_yieldNw, execYieldNw, hmode, State.perform_mode _ _ _ _ _ _ hgo]
    rfl

/-- A YIELD that nothing holds back takes effect. -/
theorem exec_yield_ready (hg : s.me.guardN g = true) (hbr : s.me.frame.br.st = 0) (hwait : s.yieldWait s.cur.hw = none) :
    exec (.yield g) s = .next (s.yieldEff s.cur.hw) ∧ exec (.yieldNw g) s = .next (s.yieldNwEff s.cur.hw) := by
  have hready : s.cur.go = true ∨ s.me.delayChk = none ∧ s.yieldWait s.cur.hw = none ∧ (none : Option Chk) = none :=
    .inr ⟨Ctx.delayChk_of_free hbr, hwait, rfl⟩
  refine ⟨?_, ?_⟩
  · rw [exec_yield, execYield, hg, State.perform_on _ _ _ _ _ hready]
  · rw [exec_yieldNw, execYieldNw, hg, State.perform_on _ _ _ _ _ hready]

theorem tdone_nullified (hg : s.me.guardN g = false) : Nullified (.tdone g) s := by
  have hask : s.tdoneAsk g = s := by
    rw [State.tdoneAsk, hg]
    exact if_pos (by simp)
  rw [Nullified, exec_tdone_asked hask, hg, State.perform_off _ _ _ _ _ (.inl rfl)]

/-- Without a counter to decrement TDONE only drops the reads that its context has asked for. -/
theorem exec_tdone_of_none (hg : s.me.guardN g = true) (h : s.me.toRelease = none) :
    exec (.tdone g) s = .next (withPings s (pingsWithout s s.cur.hw)) := by
  have hkeep : ((s.dropPings s.cur.hw).ctx s.cur.hw).toRelease = none := h
  rw [exec_tdone_asked (State.tdoneAsk_narrow g (Ctx.releaseSys_of_none h)), hg, h, Option.isSome_none,
    if_neg Bool.false_ne_true, State.perform_on _ _ _ _ _ (.inr ⟨rfl, rfl, rfl⟩), State.tdoneEff, hkeep]
  rfl

variable {d : Nat}

/-- TDONE waits until every access has performed. -/
theorem tdone_undrained (hgo : s.cur.go = false) (hg : s.me.guardN g = true) (h : s.me.toRelease = some d)
    (hdrained : s.drained s.cur.hw = false) : HeldBack (.tdone g) s :=
  heldBackFrom_of_perform (exec_tdone_asked (State.drainAsk_undrained _ _ hdrained)) rfl hgo hg (by
    rw [h]
    exact State.drainWait_undrained _ hdrained)

/-- At scope sys TDONE asks for the reads and waits for them. -/
theorem tdone_asks (hgo : s.cur.go = false) (hg : s.me.guardN g = true) (h : s.me.toRelease = some d)
    (hdrained : s.drained s.cur.hw = true) (hsys : fld d 40 8 = 4) (hnone : s.pingsOf s.cur.hw = none)
    (hlinks : s.me.eng.hostLinks ≠ []) :
    HeldBackFrom (.tdone g) s (withPings s (s.front.pings ++ [(s.cur.hw, s.me.eng.hostLinks)])) := by
  have hscope : s.me.releaseSys = true := by rw [Ctx.releaseSys_of_due h, hsys]; rfl
  have hask : s.tdoneAsk g = withPings s (s.front.pings ++ [(s.cur.hw, s.me.eng.hostLinks)]) := by
    rw [State.tdoneAsk, hg, hscope, State.drainAsk_first hgo hdrained hnone]
  refine heldBackFrom_of_perform (exec_tdone_asked hask) rfl hgo hg ?_
  rw [h]
  exact State.drainWait_asking hdrained (State.pingsOf_appended hnone) hlinks hscope

/-- A TDONE whose accesses have performed at its scope takes effect. -/
theorem exec_tdone_drained (hg : s.me.guardN g = true) (h : s.me.toRelease = some d) (hdrained : s.drained s.cur.hw = true)
    (hscope : fld d 40 8 ≠ 4 ∨ s.pingsOf s.cur.hw = some []) :
    exec (.tdone g) s = .next ((s.dropPings s.cur.hw).tdoneEff s.cur.hw) := by
  have hsys : s.me.releaseSys = false ∨ s.pingsOf s.cur.hw = some [] := hscope.imp_left fun hne => by
    rw [Ctx.releaseSys_of_due h, decide_eq_false hne]
  have hask : s.tdoneAsk g = s := by
    rcases hsys with hn | hp
    · exact State.tdoneAsk_narrow g hn
    · exact State.drainAsk_asked _ _ (by rw [hp]; rfl)
  have hwait : s.drainWait s.me.releaseSys = none := State.drainWait_done hdrained hsys
  rw [exec_tdone_asked hask, hg, hwait, ite_self, State.perform_on _ _ _ _ _ (.inr ⟨rfl, rfl, rfl⟩)]

end

theorem taskControlResult : TaskControlResult := by
  refine fun g s => ⟨yield_nullified, fun hbr hg htrap hquiet hc hq => ?_, yield_inDelay, tdone_nullified,
    fun hg hnone => exec_tdone_of_none hg (Ctx.toRelease_of_none hnone), fun d hgo hg hd hrel hcounter => ?_,
    fun d hg hd hrel hcounter hdrained hscope hwf hwatch => ?_⟩
  · obtain ⟨hyield, hnw⟩ := exec_yield_ready hg hbr (State.yieldWait_of_quiet htrap hquiet hc hq)
    refine ⟨⟨_, hyield, State.yieldEff_searches htrap, State.leavePrimary_prim _ _, fun k hk => State.yieldEff_other hk, rfl, rfl, rfl⟩,
      fun hmiss => ⟨_, hnw, ?_⟩⟩
    dsimp only
    rw [State.yieldNwEff_of_miss htrap hmiss]
    refine ⟨?_, othersSame_modCtx (fun _ _ => rfl) _, restSame_modCtx (restSame_refl s) _ _, rfl⟩
    rw [State.modCtx_ctx_same, Ctx.setS_48]
    rfl
  · have hdue := Ctx.toRelease_of_due hd hrel hcounter
    exact ⟨tdone_undrained hgo hg hdue, fun hdrained hsys hnone hlinks => tdone_asks hgo hg hdue hdrained hsys hnone hlinks⟩
  · have hdue := Ctx.toRelease_of_due hd hrel hcounter
    refine ⟨_, exec_tdone_drained hg hdue hdrained hscope, ?_⟩
    dsimp only
    rw [State.tdoneEff_releases hdue hwatch]
    have hctx {β : Type} (f : Ctx → β) (hf : ∀ (c : Ctx) k, f { c with ckpt := k } = f c) :=
      (State.portWrite_keeps (s := s.tdoneReleased) f hf
        (counterCells s (recCcl d * 0xC000000 + recCounter d) (2 ^ 64 - 1)) s.cur.hw).trans (congrArg f s.tdoneReleased_ctx)
    refine ⟨fun k hk => ?_, fun b hb => ?_, hctx Ctx.run fun _ _ => rfl,
      ⟨hctx Ctx.regs fun _ _ => rfl, hctx Ctx.bank fun _ _ => rfl, hctx Ctx.fmt fun _ _ => rfl, hctx Ctx.ctl fun _ _ => rfl⟩, ?_, ?_, ?_, ?_⟩
    · rw [State.portWrite_mem]
      exact Memory.read_counterCells_same hwf _ _ hk
    · rw [State.portWrite_mem]
      exact Memory.read_counterCells_other hwf _ _ hb
    · rw [State.portWrite_mem]
      rfl
    · rw [State.portWrite_mem]
      rfl
    · exact State.portWrite_unchanged State.mod (fun _ _ _ _ => rfl) (fun _ _ _ => rfl) (fun _ _ => rfl) _ _
    · exact State.portWrite_unchanged State.front (fun _ _ _ _ => rfl) (fun _ _ _ => rfl) (fun _ _ => rfl) _ _

/-! ## Privilege (R36, R288) -/

section

variable {i : Instr} {s : State} {on : Bool} {wait : Option Wait} {chk : Option Chk} {eff : State → State}

theorem privileged_of_perform (h : s.cur.go = false → s.me.run.priv = false → s.me.run.trap = false →
    exec i s = s.perform s.me.privChk on wait chk eff) : Privileged i s := by
  intro hgo hpriv htrap
  rw [h hgo hpriv htrap, Ctx.privChk_of_unprivileged hpriv htrap]
  exact State.perform_mode _ _ _ _ _ _ hgo

theorem State.privileged_of_system (h : System s) : s.me.privileged = true := (Bool.or_eq_true _ _).mpr h

theorem State.unprivileged (hpriv : s.me.run.priv = false) (htrap : s.me.run.trap = false) : s.me.privileged = false := by
  rw [Ctx.privileged, hpriv, htrap]
  rfl

end

/-! ## HALT (R309) -/

section

variable {s : State} {g : Nat}

theorem exec_halt_of_system (h : System s) : exec (.halt g) s =
    s.perform none (s.me.guardN g) (engineWaitIf (!s.quiet s.cur.hw)) none (fun s => s.endContext s.cur.hw) := by
  rw [exec_halt, execHalt, Ctx.privChk_of_system h]

theorem halt_ends (h : System s) (hg : s.me.guardN g = true) (hquiet : s.quiet s.cur.hw = true) :
    exec (.halt g) s = .next (s.endContext s.cur.hw) := by
  rw [exec_halt_of_system h, hg, hquiet]
  exact State.perform_on _ _ _ _ _ (.inr ⟨rfl, rfl, rfl⟩)

theorem halt_nullified (h : System s) (hg : s.me.guardN g = false) : Nullified (.halt g) s := by
  rw [Nullified, exec_halt_of_system h, hg, State.perform_off _ _ _ _ _ (.inl rfl)]

theorem halt_waits (hgo : s.cur.go = false) (h : System s) (hg : s.me.guardN g = true) (hquiet : s.quiet s.cur.hw = false) :
    HeldBack (.halt g) s :=
  heldBackFrom_of_perform (exec_halt_of_system h) rfl hgo hg (by rw [hquiet]; rfl)

end

/-! ## Key loads (R310) -/

section

variable {s : State} {on : Bool} {chk : Option Chk} {n : Nat} {key : Option Nat}

theorem State.keyAsk_unprivileged (h : s.me.privileged = false) : s.keyAsk on chk n key = s := if_pos (by simp [h])

theorem State.keyAsk_off : s.keyAsk false chk n key = s := if_pos (by simp)

theorem State.keyAsk_failing {k : Chk} : s.keyAsk on (some k) n key = s := if_pos (by simp)

theorem State.keyAsk_asked {l : KeyLoad} (h : s.loadOf s.cur.hw = some l) : s.keyAsk on chk n key = s := if_pos (by simp [h])

theorem State.keyAsk_first (hgo : s.cur.go = false) (hsys : System s) (hnone : s.loadOf s.cur.hw = none) :
    s.keyAsk true none n key = withLoads s (s.mod.trust.loads ++ [⟨s.cur.hw, n, key, false⟩]) := by
  rw [State.keyAsk, hgo, State.privileged_of_system hsys, hnone]
  rfl

theorem State.loadOf_appended {l : KeyLoad} (hnone : s.loadOf l.hw = none) :
    (withLoads s (s.mod.trust.loads ++ [l])).loadOf l.hw = some l := by
  have hfind : s.mod.trust.loads.find? (fun x => decide (x.hw = l.hw)) = none := hnone
  simp [State.loadOf, withLoads, List.find?_append, hfind]

theorem State.keyWait_of_load {l : KeyLoad} (h : s.loadOf s.cur.hw = some l) : s.keyWait none = engineWaitIf (!l.done) := by
  rw [State.keyWait, h]
  rfl

variable {i : Instr} {g : Nat} (h : exec i s = (s.keyAsk (s.me.guardN g) chk n key).perform s.me.privChk (s.me.guardN g)
  ((s.keyAsk (s.me.guardN g) chk n key).keyWait chk) chk (fun s => s.dropLoad s.cur.hw))

include h

theorem keyLoads_of_keyAsk (hsys : System s) (hchk : n ≤ 2047 → chk = none) : KeyLoads i s g n key := by
  intro hg hn
  rw [hchk hn, hg, Ctx.privChk_of_system hsys] at h
  refine ⟨fun hgo hnone => ?_, fun l hl => ?_⟩
  · rw [State.keyAsk_first hgo hsys hnone] at h
    exact heldBackFrom_of_perform h rfl hgo rfl
      (State.keyWait_of_load (State.loadOf_appended (l := ⟨s.cur.hw, n, key, false⟩) hnone))
  · rw [State.keyAsk_asked hl, State.keyWait_of_load hl] at h
    refine ⟨fun hgo hdone => heldBackFrom_of_perform h rfl hgo rfl (by rw [hdone]; rfl), fun hdone => ?_⟩
    rw [hdone] at h
    exact h.trans (State.perform_on _ _ _ _ _ (.inr ⟨rfl, rfl, rfl⟩))

theorem nullified_of_keyAsk (hsys : System s) (hg : s.me.guardN g = false) : Nullified i s := by
  rw [hg, State.keyAsk_off, Ctx.privChk_of_system hsys, State.perform_off _ _ _ _ _ (.inl rfl)] at h
  exact h

theorem privileged_of_keyAsk : Privileged i s :=
  privileged_of_perform fun _ hpriv htrap => h.trans (by rw [State.keyAsk_unprivileged (State.unprivileged hpriv htrap)])

theorem checksTrap_of_keyAsk (hsys : System s) (hgo : s.cur.go = false) (hg : s.me.guardN g = true) {l : List (Prop × Nat)}
    (hl : FailsInOrder chk l) : ChecksTrap i s l := by
  induction l with
  | nil => trivial
  | cons x l ih =>
    refine ⟨fun hx => ?_, fun hx => ih (hl.2 hx)⟩
    obtain ⟨addr, hk⟩ := hl.1 hx
    rw [hk, State.keyAsk_failing, hg, Ctx.privChk_of_system hsys] at h
    exact ⟨addr, h.trans (State.perform_chk _ _ _ hgo)⟩

end

theorem keySlotChk_fails (v : Nat) : FailsInOrder (keySlotChk v) [(2047 < v, 2)] := failsInOrder_when

theorem keyChk_fails (n a : Nat) : FailsInOrder (keyChk n a) [(2047 < n, 2), (a % 64 ≠ 0, 9), (0x400000 < a + 64, 8)] :=
  (keySlotChk_fails n).seq ((alignN_fails a 64).seq failsInOrder_when)

/-- Every controller holds the content: its slot has it, and the load of the context is done. -/
theorem State.keyHeld_of_load {s : State} {hw : Nat} {l : KeyLoad} (hl : s.loadOf hw = some l) (hdone : l.done = false) :
    s.keyHeld hw = withLoads (withKeys s (match l.key with
      | some k => SMap.put s.mod.trust.keys l.slot k
      | none => SMap.del s.mod.trust.keys l.slot))
      (s.mod.trust.loads.map (fun y => if y.hw = hw then { y with done := true } else y)) := by
  rw [State.keyHeld, hl]
  dsimp only
  rw [hdone, if_neg Bool.false_ne_true]
  rfl

theorem State.loadOf_hw {s : State} {hw : Nat} {l : KeyLoad} (h : s.loadOf hw = some l) : l.hw = hw :=
  of_decide_eq_true (List.find?_some (show s.mod.trust.loads.find? (fun l => decide (l.hw = hw)) = some l from h) :)

/-- A load whose context's is done stands where it stood. -/
theorem find_load_done (hw k : Nat) (l : List KeyLoad) :
    (l.map (fun y => if y.hw = hw then { y with done := true } else y)).find? (fun y => decide (y.hw = k)) =
      (l.find? (fun y => decide (y.hw = k))).map (fun y => if y.hw = hw then { y with done := true } else y) := by
  rw [List.find?_map]
  congr 2
  funext y
  by_cases hy : y.hw = hw
  · simp [hy]
  · simp [hy]

theorem systemInstructionResult : SystemInstructionResult := by
  intro g o k s
  have hkeyld : exec (.keyld k) s = (s.keyAsk (s.me.guardN k.g) (keyChk (s.me.sreg k.n).toNat (s.me.sreg k.m).toNat)
      (s.me.sreg k.n).toNat (some (s.mem.spad.readN (s.myCore * Config.spadBytes + (s.me.sreg k.m).toNat) 64))).perform
      s.me.privChk (s.me.guardN k.g) _ (keyChk (s.me.sreg k.n).toNat (s.me.sreg k.m).toNat) (fun s => s.dropLoad s.cur.hw) :=
    exec_keyld k s
  have hclr : exec (.keyldClr o) s = (s.keyAsk (s.me.guardN o.g) (keySlotChk (s.me.sreg o.n).toNat) (s.me.sreg o.n).toNat none).perform
      s.me.privChk (s.me.guardN o.g) _ (keySlotChk (s.me.sreg o.n).toNat) (fun s => s.dropLoad s.cur.hw) := exec_keyldClr o s
  refine ⟨privileged_of_perform fun _ _ _ => exec_halt g s, privileged_of_keyAsk hkeyld, privileged_of_keyAsk hclr,
    fun hsys hg hquiet => ⟨_, halt_ends hsys hg hquiet, s.endContext_ended _⟩, halt_nullified, halt_waits, fun hsys halign hrange => ?_,
    nullified_of_keyAsk hkeyld, fun hsys hgo hg => checksTrap_of_keyAsk hkeyld hsys hgo hg (keyChk_fails _ _),
    fun hsys => keyLoads_of_keyAsk hclr hsys fun hn => if_neg (Nat.not_lt.2 hn), nullified_of_keyAsk hclr,
    fun hsys hgo hg => checksTrap_of_keyAsk hclr hsys hgo hg (keySlotChk_fails _), fun hw l hl hdone => ?_⟩
  · refine keyLoads_of_keyAsk hkeyld hsys fun hn => (keyChk_fails _ _).eq_none fun x hx => ?_
    simp only [List.mem_cons, List.not_mem_nil, or_false] at hx
    rcases hx with rfl | rfl | rfl
    · exact Nat.not_lt.2 hn
    · exact not_not_intro halign
    · exact Nat.not_lt.2 hrange
  · have hheld := State.keyHeld_of_load hl hdone
    have hexec : exec (.engineCommandComplete (.keyHeld hw)) s = .next (s.keyHeld hw) := exec_engineCommandComplete_of_same
      ((congrArg (fun t => (State.ctx t hw).async) hheld :).trans rfl) ((congrArg (fun t => (State.ctx t hw).run) hheld :).trans rfl)
    refine ⟨_, hexec, hheld, ?_, fun j hj => ?_⟩
    · rw [hheld]
      have hown : l.hw = hw := State.loadOf_hw hl
      refine (find_load_done hw hw _).trans ?_
      rw [show s.mod.trust.loads.find? (fun y => decide (y.hw = hw)) = some l from hl]
      exact congrArg some (if_pos hown)
    · rw [hheld]
      refine (find_load_done hw j _).trans ?_
      show (s.loadOf j).map _ = s.loadOf j
      cases hlj : s.loadOf j with
      | none => rfl
      | some m =>
        have hown : m.hw = j := State.loadOf_hw hlj
        exact congrArg some (if_neg (by rw [hown]; exact hj))

/-! ## OVL (R284) -/

theorem overlayResult : OverlayResult := by
  refine fun o s => ⟨fun hg => nullified_of_perform (exec_ovl o s) hg, fun k seg hg hk hseg => ?_, fun hgo hg hnone => ?_⟩
  · have hexec : exec (.ovl o) s = .next (s.mapSeg s.myCore k s.me.ctl.asid.toNat (some s.cur.hw)) := by
      rw [exec_ovl, execOvl, hg, State.perform_on _ _ _ _ _ (.inr ⟨rfl, rfl, by rw [hk]; rfl⟩), hk]
    refine ⟨_, hexec, ?_⟩
    dsimp only
    rw [State.mapSeg, hseg]
    have hlen : k < (s.core s.myCore).segs.length := (List.getElem?_eq_some_iff.1 hseg).1
    refine ⟨?_, fun j x hj hx => ?_, rfl, rfl, rfl, rfl, rfl⟩
    · rw [State.modCore_core_same]
      exact List.getElem?_set_self (by rwa [List.length_map])
    · rw [State.modCore_core_same]
      dsimp only
      rw [List.getElem?_set_ne (Ne.symm hj), List.getElem?_map, hx]
      simp [segsMeet, and_comm]
  · rw [exec_ovl, execOvl, hg, hnone]
    exact State.perform_chk _ _ _ hgo

/-- Settles O32: each instruction is performed by its wait, its checks and its effect. -/
theorem controlInstructionResult : Obligations.ControlInstructionResult := ⟨taskControlResult, systemInstructionResult, overlayResult⟩

end Sys2Proof.Machine
end

section
/-!
PROOF. MSEAM and MRESUME (R312, R320 to R322, R326).
-/

namespace Sys2Proof.Machine

open Sys2Proof.Claims

/-! ## The cut of an MSEAM (R312, R317) -/

/-- A job of an MSEAM: one of the slots of the image at base `a`. -/
structure SeamJob (hw : Nat) (a : Word) (tok : Nat) (j : ImgJob) : Prop where
  hw : j.hw = hw
  tok : j.tok = tok
  why : j.why = 1
  base : j.base = a + BitVec.ofNat 64 (slotBytes * j.slot)

/-- Products of a context have been cut by an MSEAM: its flags and its stream aside the context is as before, and so are the
products of other contexts; the image jobs that have been added are jobs of the MSEAM. -/
structure CutBySeam (s t : State) (hw : Nat) (a : Word) (tok : Nat) : Prop where
  fmt : (t.ctx hw).fmt = (s.ctx hw).fmt
  regs : (t.ctx hw).regs = (s.ctx hw).regs
  val : (t.ctx hw).pend.val = (s.ctx hw).pend.val
  others : ∀ k, k ≠ hw → t.ctx k = s.ctx k
  mem : t.mem = s.mem
  mod : t.mod = s.mod
  clusters : t.clusters = s.clusters
  prods : ∀ q, q.hw ≠ hw → (q ∈ (t.core (coreOf hw)).prods ↔ q ∈ (s.core (coreOf hw)).prods)
  imgs : ∀ j ∈ (t.core (coreOf hw)).imgs, j ∈ (s.core (coreOf hw)).imgs ∨ SeamJob hw a tok j

theorem cutBySeam_refl (s : State) (hw : Nat) (a : Word) (tok : Nat) : CutBySeam s s hw a tok :=
  ⟨rfl, rfl, rfl, fun _ _ => rfl, rfl, rfl, rfl, fun _ _ => Iff.rfl, fun _ hj => .inl hj⟩

/-- The cut of a product with a number of its own leaves the products of other contexts. -/
theorem mem_cut_iff {ps qs : List Prod} (hids : (ps.map (fun p => p.id)).Nodup) {p q : Prod} (hp : p ∈ ps) (hq : q.hw ≠ p.hw)
    (hqs : ∀ r, r.hw ≠ p.hw → (r ∈ qs ↔ r ∈ ps)) (un : Bool) (c : Cut) :
    q ∈ (if un = true then qs.filter (fun r => decide (r.id ≠ p.id)) else qs.map (fun r => if r.id = p.id then { r with cut := some c } else r)) ↔
      q ∈ ps := by
  have hother : ∀ r ∈ qs, r.hw ≠ p.hw → r.id ≠ p.id := fun r hr hne hid =>
    hne (congrArg Prod.hw (List.inj_on_of_nodup_map hids ((hqs r hne).1 hr) hp hid))
  rw [← hqs q hq]
  cases un with
  | true =>
    rw [if_pos rfl, List.mem_filter]
    exact ⟨fun h => h.1, fun h => ⟨h, decide_eq_true (hother q h hq)⟩⟩
  | false =>
    rw [if_neg Bool.false_ne_true, List.mem_map]
    refine ⟨fun ⟨r, hr, he⟩ => ?_, fun h => ⟨q, h, if_neg (hother q h hq)⟩⟩
    by_cases hid : r.id = p.id
    · rw [if_pos hid] at he
      have hhw : r.hw = q.hw := (congrArg Prod.hw he :)
      exact absurd hid (hother r hr (hhw ▸ hq))
    · rw [if_neg hid] at he
      exact he ▸ hr

section

variable {s t : State} {hw : Nat} {a : Word} {tok : Nat}

theorem cutBySeam_cutOne (h : CutBySeam s t hw a tok) (hids : ((s.core (coreOf hw)).prods.map (fun p => p.id)).Nodup) {p : Prod}
    (hp : p ∈ (s.core (coreOf hw)).prods) (hhw : p.hw = hw) {c : Cut} (hbase : c.base = a + BitVec.ofNat 64 (slotBytes * c.slot))
    (hwhy : c.why = 1) (done : Option Nat) : CutBySeam s (t.cutOne p c done tok) hw a tok := by
  subst hhw
  obtain ⟨hfmt, hregs, hval, hothers, hmem, hmod, hclusters, hprods, himgs⟩ := h
  rw [State.cutOne]
  refine ⟨?_, ?_, ?_, fun k hk => ?_, hmem, hmod, hclusters, fun q hq => ?_, fun j hj => ?_⟩
  · rw [State.modCore_ctx, State.modCtx_ctx_same]
    exact hfmt
  · rw [State.modCore_ctx, State.modCtx_ctx_same]
    exact hregs
  · rw [State.modCore_ctx, State.modCtx_ctx_same]
    exact hval
  · rw [State.modCore_ctx, State.modCtx_ctx_other _ _ hk]
    exact hothers k hk
  · rw [State.modCore_core_same]
    exact mem_cut_iff hids hp hq hprods _ c
  · rw [State.modCore_core_same] at hj
    rcases List.mem_append.1 hj with hj | hj
    · exact himgs j hj
    · obtain rfl := List.mem_singleton.1 hj
      exact .inr ⟨rfl, rfl, hwhy, hbase⟩

theorem cutBySeam_cutProducts (hids : ((s.core (coreOf hw)).prods.map (fun p => p.id)).Nodup) (grp : Nat) :
    CutBySeam s (s.cutProducts hw false false 1 a tok grp) hw a tok := by
  rw [State.cutProducts]
  refine List.foldlRecOn (motive := fun t => CutBySeam s t hw a tok) _ _ (cutBySeam_refl s hw a tok) fun t ht x hx => ?_
  have hslot : x ∈ cutSlots (s.core (coreOf hw)).prods hw (s.core (coreOf hw)).arr := (List.mem_filter.1 (List.mem_reverse.1 hx)).1
  have hleft := List.mem_filter.1 (List.of_mem_zip hslot).2
  have hown : x.2.hw = hw := by
    have hkeep := hleft.2
    rw [Bool.and_eq_true, Bool.and_eq_true, decide_eq_true_eq] at hkeep
    exact hkeep.1.1
  exact cutBySeam_cutOne ht hids hleft.1 hown rfl rfl _

/-! ## Jobs of the empty slots -/

/-- The job of a slot that no cut product fills. -/
def emptyJob (s : State) (hw why : Nat) (base : Word) (tok grp n : Nat) : ImgJob :=
  ⟨hw, n, base + BitVec.ofNat 64 (slotBytes * n), 0, emptyImage s.mod, 0, false, why, tok, none, grp⟩

/-- A slot gets its job when it is not among those that are used. -/
def State.emptySlot (s : State) (hw why : Nat) (base : Word) (tok grp : Nat) (used : List Nat) (n : Nat) : State :=
  if used.contains n then s
  else s.modCore (coreOf hw) (fun k => { k with imgs := k.imgs ++ [emptyJob s hw why base tok grp n] })

/-- The slots that the jobs of a group fill. -/
def State.usedSlots (s : State) (hw grp : Nat) : List Nat :=
  ((s.core (coreOf hw)).imgs.filter (fun j => decide (j.hw = hw) && decide (j.grp = grp))).map (fun j => j.slot)

theorem State.emptyJobs_eq (s : State) (hw why : Nat) (base : Word) (tok grp : Nat) : s.emptyJobs hw why base tok grp =
    (List.range 2).foldl (fun t n => t.emptySlot hw why base tok grp (s.usedSlots hw grp) n) s := rfl

theorem State.emptySlot_unchanged {β : Type} (f : State → β)
    (hf : ∀ s core i, f (State.modCore s core (fun k => { k with imgs := k.imgs ++ i })) = f s) (s : State) (hw why : Nat) (base : Word)
    (tok grp : Nat) (used : List Nat) (n : Nat) : f (s.emptySlot hw why base tok grp used n) = f s := by
  rw [State.emptySlot]
  split
  · rfl
  · exact hf _ _ _

/-- What image jobs of the core do not touch, the jobs of empty slots leave. -/
theorem State.emptyJobs_unchanged {β : Type} (f : State → β)
    (hf : ∀ s core i, f (State.modCore s core (fun k => { k with imgs := k.imgs ++ i })) = f s) (s : State) (hw why : Nat) (base : Word)
    (tok grp : Nat) : f (s.emptyJobs hw why base tok grp) = f s := by
  rw [State.emptyJobs_eq]
  exact foldl_unchanged f (fun t n => State.emptySlot_unchanged f hf t _ _ _ _ _ _ n) _ _

theorem State.mem_imgs_emptySlot (s : State) (hw why : Nat) (base : Word) (tok grp : Nat) (used : List Nat) (n : Nat) (j : ImgJob) :
    j ∈ ((s.emptySlot hw why base tok grp used n).core (coreOf hw)).imgs ↔
      j ∈ (s.core (coreOf hw)).imgs ∨ n ∉ used ∧ j = emptyJob s hw why base tok grp n := by
  rw [State.emptySlot]
  by_cases hn : n ∈ used
  · rw [if_pos (List.contains_iff_mem.2 hn)]
    exact ⟨.inl, fun h => h.resolve_right fun h' => h'.1 hn⟩
  · rw [if_neg (mt List.contains_iff_mem.1 hn), State.modCore_core_same, List.mem_append, List.mem_singleton]
    exact or_congr_right ⟨fun h => ⟨hn, h⟩, fun h => h.2⟩

/-- The jobs after the empty slots have theirs. -/
theorem State.mem_imgs_emptyJobs (s : State) (hw why : Nat) (base : Word) (tok grp : Nat) (j : ImgJob) :
    j ∈ ((s.emptyJobs hw why base tok grp).core (coreOf hw)).imgs ↔ j ∈ (s.core (coreOf hw)).imgs ∨
      ∃ n, n < 2 ∧ n ∉ s.usedSlots hw grp ∧ j = emptyJob s hw why base tok grp n := by
  have hmod : (s.emptySlot hw why base tok grp (s.usedSlots hw grp) 0).mod = s.mod :=
    State.emptySlot_unchanged State.mod (fun _ _ _ => rfl) _ _ _ _ _ _ _ _
  have hjob (n : Nat) : emptyJob (s.emptySlot hw why base tok grp (s.usedSlots hw grp) 0) hw why base tok grp n =
      emptyJob s hw why base tok grp n := by
    rw [emptyJob, hmod]
    rfl
  show j ∈ (((s.emptySlot hw why base tok grp (s.usedSlots hw grp) 0).emptySlot hw why base tok grp (s.usedSlots hw grp) 1).core
    (coreOf hw)).imgs ↔ _
  rw [State.mem_imgs_emptySlot, State.mem_imgs_emptySlot, hjob, or_assoc]
  refine or_congr_right ⟨?_, fun ⟨n, hn, hused, hj⟩ => ?_⟩
  · rintro (⟨hused, hj⟩ | ⟨hused, hj⟩)
    · exact ⟨0, by decide, hused, hj⟩
    · exact ⟨1, by decide, hused, hj⟩
  · interval_cases n
    · exact .inl ⟨hused, hj⟩
    · exact .inr ⟨hused, hj⟩

/-- With the jobs of the empty slots, both slots of the image have one. -/
theorem CutBySeam.both_slots (h : CutBySeam s t hw a tok) {grp : Nat} (hgrp : ∀ j ∈ (s.core (coreOf hw)).imgs, j.grp ≠ grp) {n : Nat}
    (hn : n < 2) : ∃ j ∈ ((t.emptyJobs hw 1 a tok grp).core (coreOf hw)).imgs, j.slot = n ∧ SeamJob hw a tok j := by
  by_cases hused : n ∈ t.usedSlots hw grp
  · obtain ⟨j, hj, rfl⟩ := List.mem_map.1 hused
    obtain ⟨hin, hkeep⟩ := List.mem_filter.1 hj
    rw [Bool.and_eq_true, decide_eq_true_eq, decide_eq_true_eq] at hkeep
    have hnew : j ∉ (s.core (coreOf hw)).imgs := fun hold => hgrp j hold hkeep.2
    exact ⟨j, (State.mem_imgs_emptyJobs _ _ _ _ _ _ _).2 (.inl hin), rfl, (h.imgs j hin).resolve_left hnew⟩
  · exact ⟨_, (State.mem_imgs_emptyJobs _ _ _ _ _ _ _).2 (.inr ⟨n, hn, hused, rfl⟩), rfl, rfl, rfl, rfl, rfl⟩

theorem CutBySeam.emptyJobs (h : CutBySeam s t hw a tok) (grp : Nat) : CutBySeam s (t.emptyJobs hw 1 a tok grp) hw a tok := by
  have hctx (k : Nat) : (t.emptyJobs hw 1 a tok grp).ctx k = t.ctx k :=
    State.emptyJobs_unchanged (fun s => s.ctx k) (fun _ _ _ => rfl) _ _ _ _ _ _
  have hprods : ((t.emptyJobs hw 1 a tok grp).core (coreOf hw)).prods = (t.core (coreOf hw)).prods :=
    State.emptyJobs_unchanged (fun s => (s.core (coreOf hw)).prods) (fun s core i => by
      by_cases hc : coreOf hw = core
      · rw [hc, State.modCore_core_same]
      · rw [State.modCore_core_other _ _ hc]) _ _ _ _ _ _
  refine ⟨?_, ?_, ?_, fun k hk => (hctx k).trans (h.others k hk), ?_, ?_, ?_, fun q hq => ?_, fun j hj => ?_⟩
  · rw [hctx, h.fmt]
  · rw [hctx, h.regs]
  · rw [hctx, h.val]
  · exact (State.emptyJobs_unchanged State.mem (fun _ _ _ => rfl) _ _ _ _ _ _).trans h.mem
  · exact (State.emptyJobs_unchanged State.mod (fun _ _ _ => rfl) _ _ _ _ _ _).trans h.mod
  · exact (State.emptyJobs_unchanged State.clusters (fun _ _ _ => rfl) _ _ _ _ _ _).trans h.clusters
  · rw [hprods]
    exact h.prods q hq
  · rcases (State.mem_imgs_emptyJobs _ _ _ _ _ _ _).1 hj with hj | ⟨n, -, -, rfl⟩
    · exact h.imgs j hj
    · exact .inr ⟨rfl, rfl, rfl, rfl⟩

end

/-! ## MSEAM -/

/-- The token of an MSEAM has counted up, and its group of image jobs has its number. -/
def State.seamStarts (s : State) (tok : Nat) : State := s.fresh.2.modCtx s.cur.hw (fun c => c.tokUp tok)

theorem State.seamStarts_ctx (s : State) (tok : Nat) : (s.seamStarts tok).ctx s.cur.hw = s.me.tokUp tok := State.modCtx_ctx_same _ _ _

theorem State.mseamEff_eq (s : State) (a : Word) (tok : Nat) : s.mseamEff a tok =
    ((s.seamStarts tok).cutProducts s.cur.hw false false 1 a tok s.front.nextId).emptyJobs s.cur.hw 1 a tok s.front.nextId := rfl

theorem slotAlign_of_aligned {a : Word} (h : a.toNat % 0x20000 = 0) : slotAlign a = none := if_neg (not_not_intro h)
theorem slotAlign_of_misaligned {a : Word} (h : a.toNat % 0x20000 ≠ 0) : slotAlign a = some ⟨9, a, 0⟩ := if_pos h

theorem exec_mseam_of_system {s : State} (h : System s) (o : MI) : exec (.mseam o) s =
    s.perform none true (s.consWait o.cons) (slotAlign (s.me.sreg o.a)) (fun s => s.mseamEff (s.me.sreg o.a) o.prod) := by
  rw [exec_mseam, execMseam, Ctx.privChk_of_system h]

/-- What an MRESUME asks for without privilege: nothing. -/
theorem State.resumeAskIf_unprivileged {s : State} (o : MI) (h : s.me.privileged = false) : s.resumeAskIf o = s :=
  if_neg (by simp [h])

theorem mresume_privileged (o : MI) (s : State) : Privileged (.mresume o) s := by
  intro hgo hpriv htrap
  rw [exec_mresume, execMresume, State.resumeAskIf_unprivileged o (State.unprivileged hpriv htrap),
    Ctx.privChk_of_unprivileged hpriv htrap]
  exact State.perform_mode _ _ _ _ _ _ hgo

theorem seamResult : SeamResult := by
  refine fun o s => ⟨fun hsys hcons halign hids hgrp => ?_, fun hgo hsys => heldBack_of_consume (exec_mseam_of_system hsys o) hgo,
    fun hgo hsys hcons halign => trapped_of_tokensZero (exec_mseam_of_system hsys o) hgo hcons (slotAlign_of_misaligned halign),
    privileged_of_perform fun _ _ _ => exec_mseam o s, mresume_privileged o s⟩
  · refine ⟨_, exec_of_tokensZero (exec_mseam_of_system hsys o) hcons (slotAlign_of_aligned halign), ?_⟩
    dsimp only
    have hcut : CutBySeam (s.seamStarts o.prod) _ s.cur.hw (s.me.sreg o.a) o.prod :=
      cutBySeam_cutProducts (s := s.seamStarts o.prod) hids s.front.nextId
    have hdone := hcut.emptyJobs s.front.nextId
    rw [State.mseamEff_eq]
    refine ⟨?_, ?_, ?_, fun n hn => ?_, hdone.prods, fun k hk => ?_, hdone.mem, hdone.mod, hdone.clusters⟩
    · rw [hdone.fmt, State.seamStarts_ctx]
      rfl
    · rw [hdone.regs, State.seamStarts_ctx]
      rfl
    · rw [hdone.val, State.seamStarts_ctx]
      rfl
    · obtain ⟨j, hj, rfl, hjob⟩ := hcut.both_slots hgrp hn
      exact ⟨j, hj, hjob.hw, rfl, hjob.tok, hjob.why, hjob.base⟩
    · rw [hdone.others k hk, State.seamStarts, State.modCtx_ctx_other _ _ hk]
      rfl

/-! ## MRESUME -/

section

variable {o : MI} {s : State} {r : Resume}

/-- The slot of an MRESUME is being read already: nothing more is asked for. -/
theorem State.resumeAskIf_asked (hr : s.resumeOf s.cur.hw = some r) (ha : r.addr = s.me.sreg o.a) : s.resumeAskIf o = s := by
  have hask : s.resumeAsk (s.me.sreg o.a) = s := by
    rw [State.resumeAsk, hr]
    exact if_pos ha
  rw [State.resumeAskIf, hask]
  exact ite_self s

variable (hsys : System s) (hcons : s.me.tokensZero o.cons = true) (halign : (s.me.sreg o.a).toNat % 0x20000 = 0)
  (hr : s.resumeOf s.cur.hw = some r) (ha : r.addr = s.me.sreg o.a)

include hsys hcons halign hr ha

theorem exec_mresume_asked : exec (.mresume o) s = s.perform none true (s.resumeWait (s.me.sreg o.a))
    (s.resumeChk (s.me.sreg o.a) o.prod) (fun s => s.resumeEff o.prod) := by
  rw [exec_mresume, execMresume, State.resumeAskIf_asked hr ha, Ctx.privChk_of_system hsys, slotAlign_of_aligned halign, State.consWait,
    if_pos hcons]
  rfl

/-- An MRESUME whose slot has been prepared is performed by its check. -/
theorem exec_mresume_ready (hready : r.st = 1 ∨ r.st = 2 ∨ (r.st = 3 ∧ r.todo.isEmpty = true)) : exec (.mresume o) s =
    s.perform none true none (s.resumeChk (s.me.sreg o.a) o.prod) (fun s => s.resumeEff o.prod) := by
  rw [exec_mresume_asked hsys hcons halign hr ha, State.resumeWait, hr]
  dsimp only
  rw [if_pos ⟨ha, hready⟩]

theorem exec_mresume_waits (hgo : s.cur.go = false) (hbusy : r.st = 0 ∨ r.st = 3 ∧ r.todo ≠ []) : HeldBack (.mresume o) s := by
  have hwait : s.resumeWait (s.me.sreg o.a) = some .engine := by
    rw [State.resumeWait, hr]
    refine if_neg fun ⟨_, hready⟩ => ?_
    rw [List.isEmpty_iff] at hready
    rcases hbusy with h | ⟨h, htodo⟩
    · omega
    · rcases hready with h' | h' | ⟨_, h'⟩
      · omega
      · omega
      · exact htodo h'
  exact heldBackFrom_of_perform (exec_mresume_asked hsys hcons halign hr ha) rfl hgo rfl hwait

theorem mresume_empty (hst : r.st = 2) (hprod : r.prod = none) : exec (.mresume o) s = .next (s.dropResume s.cur.hw) := by
  have hchk : s.resumeChk (s.me.sreg o.a) o.prod = none := by
    rw [State.resumeChk, hr]
    dsimp only
    rw [if_neg (by omega), hprod]
  rw [exec_mresume_ready hsys hcons halign hr ha (.inr (.inl hst)), State.perform_on _ _ _ _ _ (.inr ⟨rfl, rfl, hchk⟩), State.resumeEff, hr,
    Option.bind_some, hprod]

theorem mresume_bad (hgo : s.cur.go = false) (hst : r.st = 1) :
    exec (.mresume o) s = .next (trapped s (.chk ⟨15, s.me.sreg o.a, 0⟩) 15 (s.me.sreg o.a) 0) := by
  have hchk : s.resumeChk (s.me.sreg o.a) o.prod = some ⟨15, s.me.sreg o.a, 0⟩ := by
    rw [State.resumeChk, hr]
    exact if_pos hst
  rw [exec_mresume_ready hsys hcons halign hr ha (.inl hst), hchk]
  exact State.perform_chk _ _ _ hgo

/-- The state in which a resumed product has entered the array. -/
theorem mresume_product {p : Prod} (hst : r.st = 3) (htodo : r.todo = []) (hprod : r.prod = some p)
    (hfull : (!s.mod.full && (reducedFmt p.spec.fa || reducedFmt p.spec.fb)) = false)
    (hport : s.portChk s.myCore (s.resumed p o.prod p.k0)
      ((s.resumed p o.prod p.k0).resumeClear (s.core s.myCore).prods (s.core s.myCore).past) = none) :
    exec (.mresume o) s = .next (((s.dropResume s.cur.hw).fresh.2.modCore s.myCore (fun k => { k with
      prods := k.prods ++ [s.resumed p o.prod p.k0] })).modCtx s.cur.hw (fun c =>
        (c.laterFlags s.front.nextId ((s.resumed p o.prod p.k0).readyAfter - p.k0) (s.core s.myCore).arr true).tokUp o.prod)) := by
  have hchk : s.resumeChk (s.me.sreg o.a) o.prod = none := by
    rw [State.resumeChk, hr]
    dsimp only
    rw [if_neg (by omega), hprod]
    dsimp only
    rw [hfull, if_neg Bool.false_ne_true, hport]
  rw [exec_mresume_ready hsys hcons halign hr ha (.inr (.inr ⟨hst, by rw [htodo]; rfl⟩)), State.perform_on _ _ _ _ _ (.inr ⟨rfl, rfl, hchk⟩),
    State.resumeEff, hr, Option.bind_some, hprod]
  rfl

end

/-- Reduced service refuses a product of a reduced format only. -/
theorem notReduced_of_full {m : Mod} {p : PSpec} (h : m.full = true ∨ (p.fa ≠ 3 ∧ p.fa ≠ 4 ∧ p.fb ≠ 3 ∧ p.fb ≠ 4)) :
    (!m.full && (reducedFmt p.fa || reducedFmt p.fb)) = false := by
  rcases h with h | ⟨ha3, ha4, hb3, hb4⟩
  · rw [h, Bool.not_true, Bool.false_and]
  · simp [reducedFmt, ha3, ha4, hb3, hb4]

theorem State.dropResume_prods (s : State) (hw : Nat) : ((s.dropResume hw).core (coreOf hw)).prods = (s.core (coreOf hw)).prods := by
  rw [State.dropResume, State.modCore_core_same]

theorem resumeResult : ResumeResult := by
  refine fun o s r hsys hcons halign hr ha => ⟨fun hst hprod => ⟨_, mresume_empty hsys hcons halign hr ha hst hprod, rfl, rfl, rfl,
    s.dropResume_prods _⟩, mresume_bad hsys hcons halign hr ha, fun p hst htodo hprod hfull => ?_,
    exec_mresume_waits hsys hcons halign hr ha⟩
  intro q hport
  refine ⟨_, mresume_product hsys hcons halign hr ha hst htodo hprod (notReduced_of_full hfull) hport, ?_, ?_, ?_, ?_, fun k hk => ?_, rfl⟩
  · rw [State.modCtx_core, State.modCore_core_same, State.fresh_core]
    exact congrArg (fun l => l ++ [q]) (s.dropResume_prods s.cur.hw)
  · rw [State.modCtx_ctx_same]
    rfl
  · rw [State.modCtx_ctx_same]
    rfl
  · rw [State.modCtx_ctx_same]
    rfl
  · rw [State.modCtx_ctx_other _ _ hk]
    rfl

/-- Settles O27: an MSEAM adds a job for each slot of its image, and an MRESUME does with its prepared slot what the slot holds. -/
theorem seamResumeResult : Obligations.SeamResumeResult := ⟨seamResult, resumeResult⟩

end Sys2Proof.Machine
end

section
/-!
PROOF. Command packets (R270, R273 to R280, R285): what a packet that begins leaves of its queue, and the effects of NOP, PRED, LOOP,
INDIR, FENCE, AT and EVENT; packets in error.
-/

namespace Sys2Proof.Machine

open Sys2Proof.Claims

/-! ## What the read-ahead leaves as it is (R273, R278) -/

section

variable {s u t : State} {q : Nat} {p : Pkt}

theorem began_of_readOn {b : List Begun} {k : Nat} (h : Began s u q p b k) (hr : ReadOn u t q) : Began s t q p b k := by
  obtain ⟨hbegun, hskip, hhead, htail, hen, ⟨hbase, hasid, htol⟩, hothers, hmod⟩ := h
  obtain ⟨lv, l, ht⟩ := hr.it
  refine ⟨?_, ?_, ?_, ?_, ?_, ⟨?_, ?_, ?_⟩, fun k hk => (hr.only.others k hk).trans (hothers k hk), hr.only.mod.trans hmod⟩
  all_goals rw [ht]
  all_goals assumption

theorem noError_of_readOn (h : NoError s u q) (hr : ReadOn u t q) : NoError s t q := by
  obtain ⟨lv, l, ht⟩ := hr.it
  rw [NoError, ht]
  exact h

theorem posted_of_queueOnly {kind queue detail arg code : Nat} (h : Posted s u kind queue detail arg code) (ho : QueueOnly u t q) :
    Posted s t kind queue detail arg code := by
  obtain ⟨htail, hvec, hrecord⟩ := h
  refine ⟨?_, ?_, ?_⟩
  · rw [ho.ev, htail]
  · rw [ho.ev, hvec]
  · rw [ho.mem, hrecord]

theorem doneEvent_of_readOn {d : Nat} (h : DoneEvent s u q p d) (hr : ReadOn u t q) : DoneEvent s t q p d := by
  obtain ⟨hpost, hquiet⟩ := h
  refine ⟨fun hev hroom => posted_of_queueOnly (hpost hev hroom) hr.only, fun hev => ?_⟩
  obtain ⟨hring, hmem⟩ := hquiet hev
  exact ⟨hr.only.ev.trans hring, hr.only.mem.trans hmem⟩

theorem errorAt_of_queueOnly {code pkt : Nat} (h : ErrorAt s u q code pkt) (ho : QueueOnly u t q) (hstat : NoError u t q) :
    ErrorAt s t q code pkt := by
  obtain ⟨hcount, hfirst, hlater, hevent⟩ := h
  obtain ⟨hc, hf, hk⟩ := hstat
  refine ⟨?_, ?_, ?_, fun hroom => posted_of_queueOnly (hevent hroom) ho⟩
  · rwa [hc]
  · rwa [hf, hk]
  · rwa [hf, hk]

theorem errorAt_of_readOn {code pkt : Nat} (h : ErrorAt s u q code pkt) (hr : ReadOn u t q) : ErrorAt s t q code pkt :=
  errorAt_of_queueOnly h hr.only (noError_of_readOn ⟨rfl, rfl, rfl⟩ hr)

theorem ReadOn.skipAt (hr : ReadOn u t q) : (t.queue q).skipAt = (u.queue q).skipAt := by
  obtain ⟨lv, l, ht⟩ := hr.it
  rw [ht]

end

/-! ## Event records (R280) -/

section

variable {s u : State} {q : Nat} {p : Pkt}

theorem State.postDone_cases (s : State) (q : Nat) (p : Pkt) (d : Nat) :
    ∃ m e, s.postDone q p d = { s with mem := { s.mem with host := m }, front := { s.front with ev := e } } := by
  unfold State.postDone
  split
  · exact s.postEvent_cases 1 q d p.num 0
  · exact ⟨s.mem.host, s.front.ev, rfl⟩

theorem State.postDone_queue (d k : Nat) : (s.postDone q p d).queue k = s.queue k := by
  obtain ⟨m, e, h⟩ := s.postDone_cases q p d
  rw [h]
  rfl

theorem State.postDone_mod (d : Nat) : (s.postDone q p d).mod = s.mod := by
  obtain ⟨m, e, h⟩ := s.postDone_cases q p d
  rw [h]

theorem aside_postDone (s : State) (q : Nat) (p : Pkt) (d : Nat) : Aside s (s.postDone q p d) := by
  obtain ⟨m, e, h⟩ := s.postDone_cases q p d
  rw [h]
  exact ⟨rfl, rfl, rfl, rfl, rfl⟩

theorem State.postDone_off (hev : fld p.w 9 1 = 0) (d : Nat) : s.postDone q p d = s := by
  have hoff : p.ev = false := decide_eq_false (by omega)
  rw [State.postDone, hoff, if_neg Bool.false_ne_true]

/-- The event of a completed packet, as seen from a state with the same ring, memory and time. -/
theorem doneEvent_postDone (hring : u.front.ev = s.front.ev) (hmem : u.mem = s.mem) (hmod : u.mod = s.mod) (d : Nat) :
    DoneEvent s (u.postDone q p d) q p d := by
  refine ⟨fun hev hroom => ?_, fun hev => ?_⟩
  · have hon : p.ev = true := decide_eq_true hev
    have hroom' : EventRoom u := by
      rw [EventRoom, hring, hmem]
      exact hroom
    rw [State.postDone, hon, if_pos rfl]
    obtain ⟨htail, hvec, hrecord⟩ := State.posted_postEvent hroom' 1 q d p.num 0
    rw [hring] at htail hvec hrecord
    rw [hmod] at hrecord
    exact ⟨htail, hvec, hrecord⟩
  · rw [State.postDone_off hev]
    exact ⟨hring, hmem⟩

theorem doneEvent_of_posts {t : State} {d : Nat} (hr : ReadOn (u.postDone q p d) t q) (hring : u.front.ev = s.front.ev)
    (hmem : u.mem = s.mem) (hmod : u.mod = s.mod) : DoneEvent s t q p d :=
  doneEvent_of_readOn (doneEvent_postDone hring hmem hmod d) hr

end

/-! ## A packet that begins without error (R276) -/

/-- Packet `p` has begun, and no error has been recorded; contexts, cores, clusters, launches and links are as before. -/
structure Clean (s t : State) (q : Nat) (p : Pkt) (b : List Begun) (k : Nat) : Prop where
  began : Began s t q p b k
  noError : NoError s t q
  aside : Aside s t

/-- The queue's next packet has been taken, and nothing else has happened. -/
def State.taken (s : State) (q : Nat) (p : Pkt) : State := s.modQueue q (fun u => u.popped p)

section

variable {s u t : State} {q type : Nat} {p : Pkt} {rest : List Pkt} {b : List Begun} {k : Nat}

theorem State.taken_queue : (s.taken q p).queue q = (s.queue q).popped p := s.modQueue_queue_same q _

theorem queueOnly_taken (s : State) (q : Nat) (p : Pkt) : QueueOnly s (s.taken q p) q := queueOnly_modQueue s q _

theorem clean_taken (hen : (s.queue q).en = true) (hbegun : (s.queue q).begun = []) (hskip : (s.queue q).skip = 0) :
    Clean s (s.taken q p) q p [] 0 := by
  refine ⟨⟨?_, ?_, ?_, ?_, ?_, ⟨?_, ?_, ?_⟩, (queueOnly_taken s q p).others, rfl⟩, ⟨?_, ?_, ?_⟩, (queueOnly_taken s q p).aside⟩
  all_goals rw [State.taken_queue]
  case refine_1 => exact hbegun
  case refine_2 => exact hskip
  case refine_5 => exact hen
  all_goals rfl

theorem Clean.of_readOn (h : Clean s u q p b k) (hr : ReadOn u t q) : Clean s t q p b k :=
  ⟨began_of_readOn h.began hr, noError_of_readOn h.noError hr, aside_trans h.aside hr.only.aside⟩

/-- Host or device memory and the event ring are no part of what `Clean` says. -/
theorem Clean.of_memory (h : Clean s u q p b k) (m : Mem) (e : EvRing) :
    Clean s { u with mem := m, front := { u.front with ev := e } } q p b k := by
  obtain ⟨⟨hbegun, hskip, hhead, htail, hen, hregs, hothers, hmod⟩, hnoError, ⟨hctxs, hcores, hclusters, hlaunches, hlinks⟩⟩ := h
  exact ⟨⟨hbegun, hskip, hhead, htail, hen, hregs, hothers, hmod⟩, hnoError, ⟨hctxs, hcores, hclusters, hlaunches, hlinks⟩⟩

theorem Clean.postDone (h : Clean s u q p b k) (d : Nat) : Clean s (u.postDone q p d) q p b k := by
  obtain ⟨m, e, he⟩ := u.postDone_cases q p d
  rw [he]
  exact h.of_memory _ e

theorem Clean.postEvent (h : Clean s u q p b k) (kind queue detail arg code : Nat) :
    Clean s (u.postEvent kind queue detail arg code) q p b k := by
  obtain ⟨m, e, he⟩ := u.postEvent_cases kind queue detail arg code
  rw [he]
  exact h.of_memory _ e

theorem Clean.goesOn (h : Clean s u q p [] k) (prog : Nat) : Clean s (u.goesOn q p prog) q p [⟨p, prog⟩] k := by
  obtain ⟨⟨hbegun, hskip, hhead, htail, hen, hregs, hothers, hmod⟩, hnoError, haside⟩ := h
  have honly := queueOnly_modQueue u q (fun v => { v with begun := v.begun ++ [⟨p, prog⟩] })
  have hqueue : (u.goesOn q p prog).queue q = { u.queue q with begun := [⟨p, prog⟩] } := by
    rw [State.goesOn, State.modQueue_queue_same, hbegun]
    rfl
  refine ⟨⟨?_, ?_, ?_, ?_, ?_, ?_, fun j hj => (honly.others j hj).trans (hothers j hj), hmod⟩, ?_, aside_trans haside honly.aside⟩
  case refine_7 => rwa [NoError, hqueue]
  all_goals rw [hqueue]
  all_goals assumption

/-- Packets at some depth are to be skipped. -/
def State.skips (s : State) (q n depth : Nat) : State := s.modQueue q (fun u => { u with skip := n, skipAt := depth })

theorem Clean.skips (h : Clean s u q p b k) (n depth : Nat) : Clean s (u.skips q n depth) q p b n := by
  obtain ⟨⟨hbegun, hskip, hhead, htail, hen, hregs, hothers, hmod⟩, hnoError, haside⟩ := h
  have honly := queueOnly_modQueue u q (fun v => { v with skip := n, skipAt := depth })
  have hqueue : (u.skips q n depth).queue q = { u.queue q with skip := n, skipAt := depth } := State.modQueue_queue_same _ _ _
  refine ⟨⟨?_, ?_, ?_, ?_, ?_, ?_, fun j hj => (honly.others j hj).trans (hothers j hj), hmod⟩, ?_, aside_trans haside honly.aside⟩
  case refine_7 => rwa [NoError, hqueue]
  all_goals rw [hqueue]
  all_goals assumption

/-- The next packet of a queue is taken with nothing else changed. -/
theorem clean_of_nextUp (h : NextUp s q p rest type) : Clean s (s.taken q p) q p [] 0 := clean_taken h.en h.begun h.skip

/-- Of a queue that had begun its packet nothing closes and nothing comes to rest. -/
theorem plain_of_began (hb : Began s u q p b k) (hstop : (u.queue q).stopping = false) (hpend : (u.queue q).enPend = false)
    (htypes : ∀ x ∈ b, x.pkt.type ≠ 6 ∧ x.pkt.type ≠ 7) : (u.queue q).Plain :=
  ⟨hstop, hpend, by rwa [hb.begun]⟩

/-- A packet whose effect leaves its queue plain, in the state after it has begun. -/
theorem exec_of_begins {i : Instr} {ahead : Nat} {eff : State → Pkt → State} (h : NextUp s q p rest type)
    (hexec : exec i s = .next (s.begin_ q ahead type eff)) (heff : eff (s.taken q p) p = u) (hplain : (u.queue q).Plain) :
    ∃ t, exec i s = .next t ∧ ReadOn u t q := by
  subst heff
  exact ⟨_, hexec, State.begin_readOn h ahead hplain⟩

/-- What a queue is plain by, before its packet's effect. -/
theorem stops_of_nextUp (h : NextUp s q p rest type) : ((s.taken q p).queue q).stopping = false ∧ ((s.taken q p).queue q).enPend = false := by
  rw [State.taken_queue]
  exact h.stop

theorem plain_postDone (h : (u.queue q).Plain) (d : Nat) : ((u.postDone q p d).queue q).Plain := by
  rwa [State.postDone_queue]

theorem plain_taken (h : NextUp s q p rest type) : ((s.taken q p).queue q).Plain :=
  plain_of_began (clean_of_nextUp h).began (stops_of_nextUp h).1 (stops_of_nextUp h).2 nofun

theorem plain_goesOn (h : NextUp s q p rest type) (hloop : type ≠ 6 ∧ type ≠ 7) (prog : Nat) :
    (((s.taken q p).goesOn q p prog).queue q).Plain := by
  have htype : p.type = type := h.type
  have hqueue : ((s.taken q p).goesOn q p prog).queue q = { (s.taken q p).queue q with
      begun := ((s.taken q p).queue q).begun ++ [⟨p, prog⟩] } := State.modQueue_queue_same _ _ _
  refine plain_of_began ((clean_of_nextUp h).goesOn prog).began ?_ ?_ fun x hx => ?_
  · rw [hqueue]
    exact (stops_of_nextUp h).1
  · rw [hqueue]
    exact (stops_of_nextUp h).2
  · obtain rfl := List.mem_singleton.1 hx
    rw [htype]
    exact hloop

theorem plain_skips (h : (u.queue q).Plain) (n depth : Nat) : ((u.skips q n depth).queue q).Plain := by
  rw [State.skips, State.modQueue_queue_same]
  exact ⟨h.stopping, h.enPend, h.begun⟩

theorem skipAt_of_skips {n depth d : Nat} (hr : ReadOn ((u.skips q n depth).postDone q p d) t q) : (t.queue q).skipAt = depth := by
  rw [hr.skipAt, State.postDone_queue, State.skips, State.modQueue_queue_same]

end

/-! ## The test of WAITSIG and PRED (R275) -/

/-- Both the packet's mask and its value are 64-bit words, so that the test on numbers is the test on words. -/
theorem test_on_words (v m y : Nat) (hm : m < 2 ^ 64) (hy : y < 2 ^ 64) :
    (BitVec.ofNat 64 v &&& BitVec.ofNat 64 m).toNat = Nat.land v m ∧ (BitVec.ofNat 64 y).toNat = y := by
  refine ⟨?_, Nat.mod_eq_of_lt hy⟩
  rw [← BitVec.ofNat_and, BitVec.toNat_ofNat]
  exact Nat.mod_eq_of_lt (Nat.lt_of_le_of_lt Nat.and_le_right hm)

/-- A word that can be read passes the test or fails it, as the packet says. -/
theorem State.test_of_read {s : State} {q v : Nat} {p : Pkt} (h : s.procRead (s.queue q).asid (pw p 1) 8 = some v) :
    ∃ b, s.test q p = some b ∧ (b = true ↔ Tests p v) := by
  have hread : s.procRead (s.queue q).asid (p.word 1) 8 = some v := h
  rw [State.test, hread]
  refine ⟨_, rfl, ?_⟩
  obtain ⟨hx, hy⟩ := test_on_words v (p.word 3) (p.word 2) (Nat.mod_lt _ (Nat.two_pow_pos _)) (Nat.mod_lt _ (Nat.two_pow_pos _))
  have heq : BitVec.ofNat 64 v &&& BitVec.ofNat 64 (p.word 3) = BitVec.ofNat 64 (p.word 2) ↔ Nat.land v (p.word 3) = p.word 2 := by
    rw [← BitVec.toNat_inj, hx, hy]
  show _ ↔ Tests p v
  unfold Tests
  change _ ↔ (match fld p.w 16 2 with
    | 0 => BitVec.ofNat 64 v &&& BitVec.ofNat 64 (p.word 3) = BitVec.ofNat 64 (p.word 2)
    | 1 => BitVec.ofNat 64 v &&& BitVec.ofNat 64 (p.word 3) ≠ BitVec.ofNat 64 (p.word 2)
    | 2 => (BitVec.ofNat 64 (p.word 2)).toNat ≤ (BitVec.ofNat 64 v &&& BitVec.ofNat 64 (p.word 3)).toNat
    | _ => (BitVec.ofNat 64 v &&& BitVec.ofNat 64 (p.word 3)).toNat < (BitVec.ofNat 64 (p.word 2)).toNat)
  rw [Pkt.field, ne_eq, heq, hx, hy]
  generalize fld p.w 16 2 = f
  rcases f with _ | _ | _ | f
  all_goals exact decide_eq_true_iff

theorem State.procRead_taken (s : State) (q : Nat) (p : Pkt) (va n : Nat) :
    (s.taken q p).procRead ((s.taken q p).queue q).asid va n = s.procRead (s.queue q).asid va n := by
  rw [(queueOnly_taken s q p).procRead, State.taken_queue]
  rfl

/-! ## NOP, PRED, a LOOP of count 0, FFENCE, AT, EVENT (R275, R277, R278, R285) -/

section

variable {s : State} {q : Nat} {p : Pkt} {rest : List Pkt}

theorem nop_result (h : NextUp s q p rest 0) (ahead : Nat) :
    Answers (.nop q ahead) s (fun t => Began s t q p [] 0 ∧ NoError s t q ∧ DoneEvent s t q p 0 ∧ Aside s t) := by
  obtain ⟨t, ht, hr⟩ := exec_of_begins (i := .nop q ahead) h rfl rfl (plain_postDone (plain_taken h) 0)
  obtain ⟨hbegan, hnoError, haside⟩ := ((clean_of_nextUp h).postDone 0).of_readOn hr
  exact ⟨t, ht, hbegan, hnoError, doneEvent_of_posts hr rfl rfl rfl, haside⟩

theorem State.predEff_of_read {v : Nat} (hread : s.procRead (s.queue q).asid (pw p 1) 8 = some v) :
    (Tests p v ∧ (s.taken q p).predEff q p = (s.taken q p).postDone q p 0) ∨
    (¬ Tests p v ∧ (s.taken q p).predEff q p = ((s.taken q p).skips q (fld p.w 24 8) p.depth).postDone q p 0) := by
  obtain ⟨b, htest, hb⟩ := State.test_of_read (s := s.taken q p) ((s.procRead_taken q p _ _).trans hread)
  unfold State.predEff
  rw [htest]
  cases b with
  | true => exact .inl ⟨hb.1 rfl, rfl⟩
  | false => exact .inr ⟨fun h => Bool.false_ne_true (hb.2 h), rfl⟩

theorem pred_result {v : Nat} (h : NextUp s q p rest 5) (hread : s.procRead (s.queue q).asid (pw p 1) 8 = some v) (ahead : Nat) :
    Answers (.pred q ahead) s (fun t =>
      (Tests p v → Began s t q p [] 0) ∧ (¬ Tests p v → Began s t q p [] (fld p.w 24 8) ∧ (t.queue q).skipAt = p.depth) ∧
      NoError s t q ∧ DoneEvent s t q p 0 ∧ Aside s t) := by
  obtain ⟨htests, heff⟩ | ⟨htests, heff⟩ := State.predEff_of_read hread
  · obtain ⟨t, ht, hr⟩ := exec_of_begins (i := .pred q ahead) h rfl heff (plain_postDone (plain_taken h) 0)
    obtain ⟨hbegan, hnoError, haside⟩ := ((clean_of_nextUp h).postDone 0).of_readOn hr
    exact ⟨t, ht, fun _ => hbegan, fun hnot => absurd htests hnot, hnoError,
      doneEvent_of_posts hr rfl rfl rfl, haside⟩
  · obtain ⟨t, ht, hr⟩ := exec_of_begins (i := .pred q ahead) h rfl heff (plain_postDone (plain_skips (plain_taken h) _ _) 0)
    obtain ⟨hbegan, hnoError, haside⟩ := (((clean_of_nextUp h).skips _ _).postDone 0).of_readOn hr
    exact ⟨t, ht, fun hyes => absurd hyes htests, fun _ => ⟨hbegan, skipAt_of_skips hr⟩, hnoError,
      doneEvent_of_posts hr rfl rfl rfl, haside⟩

theorem loop_result_of_zero (h : NextUp s q p rest 6) (hzero : pw p 1 = 0) (ahead : Nat) :
    Answers (.loop q ahead) s (fun t =>
      Began s t q p [] (fld p.w 16 16) ∧ (t.queue q).skipAt = p.depth ∧ NoError s t q ∧ DoneEvent s t q p 0 ∧ Aside s t) := by
  have heff : (s.taken q p).loopEff q p = ((s.taken q p).skips q (fld p.w 16 16) p.depth).postDone q p 0 := if_pos hzero
  obtain ⟨t, ht, hr⟩ := exec_of_begins (i := .loop q ahead) h rfl heff (plain_postDone (plain_skips (plain_taken h) _ _) 0)
  obtain ⟨hbegan, hnoError, haside⟩ := (((clean_of_nextUp h).skips _ _).postDone 0).of_readOn hr
  exact ⟨t, ht, hbegan, skipAt_of_skips hr, hnoError, doneEvent_of_posts hr rfl rfl rfl, haside⟩

/-- What has been read ahead is forgotten, to be read again. -/
def State.forgets (s : State) (q : Nat) : State := s.modQueue q (fun u => { u with ahead := [], lv := u.here })

theorem State.forgets_queue (s : State) (q : Nat) :
    (s.forgets q).queue q = { s.queue q with ahead := [], lv := (s.queue q).here } := s.modQueue_queue_same q _

theorem State.forgets_readOn (s : State) (q : Nat) : ReadOn s (s.forgets q) q :=
  ⟨queueOnly_modQueue s q _, (s.queue q).here, [], s.forgets_queue q⟩

theorem ffence_result (h : NextUp s q p rest 8) : Answers (.ffence q 0) s (fun t =>
    Began s t q p [] 0 ∧ (t.queue q).ahead = [] ∧ (t.queue q).lv = p.next ∧ NoError s t q ∧ DoneEvent s t q p 0 ∧ Aside s t) := by
  let u := ((s.taken q p).forgets q).postDone q p 0
  have hqueue : u.queue q = { (s.queue q).popped p with ahead := [], lv := p.next } := by
    rw [State.postDone_queue, State.forgets_queue, State.taken_queue]
    rfl
  have hplain : (u.queue q).Plain := by
    rw [hqueue]
    exact ⟨h.stop.1, h.stop.2, fun b hb => nomatch (h.begun ▸ hb : b ∈ [])⟩
  have hexec : exec (.ffence q 0) s = .next (u.modQueue q Queue.rest) :=
    congrArg Host.Outcome.next ((State.begin_of_nextUp h 0 _).trans (State.tidy_plain (s := u) hplain))
  have hend : (u.modQueue q Queue.rest).queue q = u.queue q := (u.modQueue_queue_same q _).trans hplain.rest_eq
  have hr : ReadOn u (u.modQueue q Queue.rest) q := ⟨queueOnly_modQueue u q _, _, _, hend⟩
  obtain ⟨hbegan, hnoError, haside⟩ :=
    (((clean_of_nextUp h).of_readOn ((s.taken q p).forgets_readOn q)).postDone 0).of_readOn hr
  refine ⟨_, hexec, hbegan, ?_, ?_, hnoError, doneEvent_of_posts hr rfl rfl rfl, haside⟩
  · rw [hend, hqueue]
  · rw [hend, hqueue]

theorem atPkt_result (h : NextUp s q p rest 9) (ahead : Nat) : Answers (.atPkt q ahead) s (fun t =>
    Began s t q p [⟨p, if pw p 1 ≤ s.mod.time.now / 6486480 % 2 ^ 64 then 2 else 0⟩] 0 ∧ NoError s t q ∧ t.mem = s.mem ∧
    Aside s t) := by
  obtain ⟨t, ht, hr⟩ := exec_of_begins (i := .atPkt q ahead) h rfl rfl (plain_goesOn h ⟨by decide, by decide⟩ _)
  obtain ⟨hbegan, hnoError, haside⟩ := ((clean_of_nextUp h).goesOn _).of_readOn hr
  exact ⟨t, ht, hbegan, hnoError, hr.only.mem, haside⟩

theorem event_result (h : NextUp s q p rest 11) (hev : fld p.w 9 1 = 0) (hroom : EventRoom s) (ahead : Nat) :
    Answers (.event q ahead) s (fun t =>
      Began s t q p [] 0 ∧ Posted s t 3 q 0 p.num (pw p 1) ∧ NoError s t q ∧ Aside s t) := by
  let u := (s.taken q p).postEvent 3 q 0 p.num (pw p 1)
  have hqueue : u.queue q = (s.taken q p).queue q := by
    obtain ⟨m, e, he⟩ := (s.taken q p).postEvent_cases 3 q 0 p.num (pw p 1)
    exact (congrArg (fun x : State => x.queue q) he :)
  obtain ⟨t, ht, hr⟩ := exec_of_begins (i := .event q ahead) (u := u) h rfl (State.postDone_off hev 0) (hqueue ▸ plain_taken h)
  obtain ⟨hbegan, hnoError, haside⟩ := ((clean_of_nextUp h).postEvent 3 q 0 p.num (pw p 1)).of_readOn hr
  obtain ⟨htail, hvec, hrecord⟩ := State.posted_postEvent (s := s.taken q p) hroom 3 q 0 p.num (pw p 1)
  exact ⟨t, ht, hbegan, posted_of_queueOnly ⟨htail, hvec, hrecord⟩ hr.only, hnoError, haside⟩

end

/-! ## A LOOP with iterations and an INDIR (R277) -/

section

variable {s u : State} {q type : Nat} {p : Pkt} {rest : List Pkt}

theorem State.readPkt_ahead (s : State) (q : Nat) : (s.queue q).ahead ⊆ ((s.readPkt q).queue q).ahead := by
  unfold State.readPkt
  dsimp only
  split
  · exact fun _ hx => hx
  · split
    · exact fun _ hx => hx
    · rw [State.modQueue_queue_same]
      exact List.subset_append_left _ _

theorem State.readAhead_ahead (s : State) (q n : Nat) : (s.queue q).ahead ⊆ ((s.readAhead q n).queue q).ahead := by
  induction n generalizing s with
  | zero => exact fun _ hx => hx
  | succ n ih =>
    rw [State.readAhead]
    split
    · exact fun _ hx => ih _ (s.readPkt_ahead q hx)
    · exact fun _ hx => hx

/-- A LOOP or INDIR that alone has begun, and of which a packet has been read, stays open. -/
theorem State.tidy_of_open {x : Pkt} {prog : Nat} (hbegun : (u.queue q).begun = [⟨p, prog⟩]) (hx : x ∈ (u.queue q).ahead)
    (hpar : p.id ∈ x.par) : ReadOn u (u.tidy q) q := by
  have hopen : (u.queue q).open_ p.id = true := by
    have hany : (u.queue q).ahead.any (fun y => y.par.contains p.id) = true :=
      List.any_eq_true.2 ⟨x, hx, List.contains_iff_mem.2 hpar⟩
    rw [Queue.open_, hany, Bool.or_true, Bool.true_or]
  have hclose (fuel : Nat) : u.closeAll q (fuel + 1) = u := by
    rw [State.closeAll, hbegun]
    simp [hopen]
  have hrest : (u.queue q).rest = u.queue q := by
    rw [Queue.rest, hbegun]
    rfl
  rw [State.tidy, hclose]
  exact ⟨queueOnly_modQueue u q _, _, _, (u.modQueue_queue_same q _).trans hrest⟩

/-- A LOOP with iterations or an INDIR goes on until its last packet has completed. -/
theorem opens_result {i : Instr} {ahead : Nat} {eff : State → Pkt → State} (h : NextUp s q p rest type)
    (hpar : ∃ x ∈ rest, p.id ∈ x.par) (hexec : exec i s = .next (s.begin_ q ahead type eff))
    (heff : eff (s.taken q p) p = (s.taken q p).goesOn q p 0) :
    Answers i s (fun t => Began s t q p [⟨p, 0⟩] 0 ∧ NoError s t q ∧ t.mem = s.mem ∧ Aside s t) := by
  obtain ⟨x, hx, hid⟩ := hpar
  let u := (s.taken q p).goesOn q p 0
  have hread := u.readAhead_readOn q ahead
  have hclean : Clean s u q p [⟨p, 0⟩] 0 := (clean_of_nextUp h).goesOn 0
  have hahead : x ∈ (u.queue q).ahead := by
    have hqueue : u.queue q = { (s.queue q).popped p with begun := [⟨p, 0⟩] } := State.queue_underway h
    rw [hqueue, Queue.popped, h.ahead]
    exact hx
  have hr := hread.trans (State.tidy_of_open (hclean.of_readOn hread).began.begun (u.readAhead_ahead q ahead hahead) hid)
  obtain ⟨hbegan, hnoError, haside⟩ := hclean.of_readOn hr
  have hbegin := State.begin_of_nextUp h ahead eff
  rw [show eff (s.modQueue q (fun u => u.popped p)) p = u from heff] at hbegin
  exact ⟨_, hexec.trans (congrArg Host.Outcome.next hbegin), hbegan, hnoError, hr.only.mem, haside⟩

theorem loop_result (h : NextUp s q p rest 6) (hcount : pw p 1 ≠ 0) (hpar : ∃ x ∈ rest, p.id ∈ x.par) (ahead : Nat) :
    Answers (.loop q ahead) s (fun t => Began s t q p [⟨p, 0⟩] 0 ∧ NoError s t q ∧ t.mem = s.mem ∧ Aside s t) :=
  opens_result h hpar rfl (if_neg hcount)

theorem indir_result (h : NextUp s q p rest 7) (hpar : ∃ x ∈ rest, p.id ∈ x.par) (ahead : Nat) :
    Answers (.indir q ahead) s (fun t => Began s t q p [⟨p, 0⟩] 0 ∧ NoError s t q ∧ t.mem = s.mem ∧ Aside s t) :=
  opens_result h hpar rfl rfl

end

theorem packetEffects : PacketEffects := fun _ ahead _ _ _ =>
  ⟨fun h => nop_result h ahead, fun _ h hread => pred_result h hread ahead, fun h hcount hpar => loop_result h hcount hpar ahead,
    fun h hzero => loop_result_of_zero h hzero ahead, fun h hpar => indir_result h hpar ahead, fun h => ffence_result h,
    fun h => atPkt_result h ahead, fun h hev hroom => event_result h hev hroom ahead⟩

/-! ## Packets in error (R279) -/

/-- Packet `p`, which has been read and whose own bytes are in error, stands next in an enabled queue whose earlier packets have
all completed. -/
structure Erring (s : State) (q : Nat) (p : Pkt) (code : Nat) : Prop where
  en : (s.queue q).en = true
  begun : (s.queue q).begun = []
  stop : (s.queue q).stopping = false ∧ (s.queue q).enPend = false
  skip : (s.queue q).skip = 0
  ahead : ∃ rest, (s.queue q).ahead = p :: rest
  read : p.bad = false
  err : p.err = some code
  type : p.type ≤ 11 ∧ p.type ≠ 6

section

variable {s : State} {q code : Nat} {p : Pkt}

theorem State.nextPkt_of_erring (h : Erring s q p code) : s.nextPkt q = s := by
  obtain ⟨rest, hahead⟩ := h.ahead
  rw [State.nextPkt, hahead]
  rfl

theorem Queue.heldByAt_of_erring (h : Erring s q p code) : (s.queue q).heldByAt = false := by
  rw [Queue.heldByAt, h.begun]
  rfl

theorem State.settleQueue_of_erring (h : Erring s q p code) (fuel : Nat) : s.settleQueue q (fuel + 1) = s := by
  obtain ⟨rest, hahead⟩ := h.ahead
  unfold State.settleQueue
  simp [State.nextPkt_of_erring h, Queue.heldByAt_of_erring h, h.en, hahead, h.skip, h.read, h.type.1]

theorem Queue.mayBegin_of_erring (h : Erring s q p code) : (s.queue q).mayBegin p = true := by
  simp [Queue.mayBegin, Queue.heldByAt_of_erring h, h.en, h.begun]

theorem State.popPkt_of_erring (h : Erring s q p code) : s.popPkt q p = s.taken q p := by
  have hb : ((s.taken q p).queue q).begun = [] := (congrArg Queue.begun State.taken_queue).trans h.begun
  unfold State.popPkt
  dsimp only
  split
  next b hf => cases hf.symm.trans (congrArg (List.find? (fun b => decide (b.pkt.type = 9))) hb)
  · rfl

/-- A packet in error is taken and its error recorded, whatever its effect would have been. -/
theorem State.begin_of_erring (h : Erring s q p code) (ahead : Nat) (eff : State → Pkt → State) :
    s.begin_ q ahead p.type eff = (((s.taken q p).queueErr q code p.num 0).readAhead q ahead).tidy q := by
  obtain ⟨rest, hahead⟩ := h.ahead
  unfold State.begin_
  simp only [State.settleQueue_of_erring h 8191, State.nextPkt_of_erring h, hahead, Queue.mayBegin_of_erring h, h.err,
    State.popPkt_of_erring h, h.type.2, false_and, if_false]
  exact if_neg (by simp)

/-- A queue error leaves the queue as it was but for QSTAT. -/
theorem began_of_queueErr {u : State} {pkt : Nat} {b : List Begun} {k : Nat} (hb : Began s u q p b k) :
    Began s (u.queueErr q code pkt 0) q p b k := by
  obtain ⟨hqueue, hothers, haside, hmod, hpost⟩ := u.queueErr_cases q code pkt 0
  obtain ⟨hbegun, hskip, hhead, htail, hen, hregs, hrest, hmod'⟩ := hb
  refine ⟨?_, ?_, ?_, ?_, ?_, ?_, fun j hj => (hothers j hj).trans (hrest j hj), hmod.trans hmod'⟩
  all_goals rw [hqueue]
  all_goals assumption

/-- The error of a packet, as seen from a state with the same QSTAT, ring, memory and time. -/
theorem errorAt_queueErr {u : State} (hstat : NoError s u q) (hring : u.front.ev = s.front.ev) (hmem : u.mem = s.mem)
    (hmod : u.mod = s.mod) (code pkt : Nat) : ErrorAt s (u.queueErr q code pkt 0) q code pkt := by
  obtain ⟨hqueue, hothers, haside, hmod', hpost⟩ := u.queueErr_cases q code pkt 0
  obtain ⟨hcount, hfirst, hfpkt⟩ := hstat
  rw [hcount, hfirst, hfpkt] at hqueue
  refine ⟨?_, fun hzero => ?_, fun hlater => ?_, fun hroom => ?_⟩
  · rw [hqueue]
  · rw [hqueue]
    exact ⟨if_pos hzero, if_pos hzero⟩
  · rw [hqueue]
    exact ⟨if_neg hlater, if_neg hlater⟩
  · have hroom' : EventRoom u := by
      rw [EventRoom, hring, hmem]
      exact hroom
    obtain ⟨htail, hvec, hrecord⟩ := hpost hroom'
    rw [hring] at htail hvec hrecord
    rw [hmod] at hrecord
    exact ⟨htail, hvec, hrecord⟩

theorem erring_result (h : Erring s q p code) {i : Instr} {ahead : Nat} {eff : State → Pkt → State}
    (hexec : exec i s = .next (s.begin_ q ahead p.type eff)) :
    Answers i s (fun t => Began s t q p [] 0 ∧ ErrorAt s t q code p.num ∧ Aside s t) := by
  obtain ⟨hbegan, hnoError, haside⟩ := clean_taken (p := p) h.en h.begun h.skip
  let u := (s.taken q p).queueErr q code p.num 0
  obtain ⟨hqueue, hothers, haside', hmod, hpost⟩ := (s.taken q p).queueErr_cases q code p.num 0
  have hread := u.readAhead_readOn q ahead
  have hplain : ((u.readAhead q ahead).queue q).Plain := by
    obtain ⟨lv, l, hit⟩ := hread.it
    have hu : u.queue q = _ := hqueue
    rw [hit, hu, State.taken_queue]
    exact ⟨h.stop.1, h.stop.2, fun b hb => nomatch (h.begun ▸ hb : b ∈ [])⟩
  have hr := hread.trans (State.tidy_plain_readOn hplain)
  exact ⟨_, hexec.trans (congrArg Host.Outcome.next (State.begin_of_erring h ahead eff)),
    began_of_readOn (began_of_queueErr hbegan) hr,
    errorAt_of_readOn (errorAt_queueErr hnoError rfl rfl rfl code p.num) hr,
    aside_trans (aside_trans haside haside') hr.only.aside⟩

end

/-- With no packet begun, a TASK begins. -/
theorem exec_task_of_idle {s : State} {q : Nat} (hbegun : (s.queue q).begun = []) (ahead : Nat) : exec (.task q ahead) s =
    .next (s.begin_ q ahead 2 (fun u p => (u.goesOn q p 0).taskPush q ⟨p, 0⟩ 65537)) := by
  rw [exec_task, execTask, State.taskAct, hbegun]
  rfl

theorem packetErrors : PacketErrors := by
  intro q ahead type code i s p rest hi hen hbegun hstop hpend hskip hahead htype hread herr
  have hbegins : type ≤ 11 ∧ type ≠ 6 ∧ ∃ eff, exec i s = .next (s.begin_ q ahead type eff) := by
    simp only [List.mem_cons, List.not_mem_nil, or_false] at hi
    obtain ⟨rfl, rfl⟩ | ⟨rfl, rfl⟩ | ⟨rfl, rfl⟩ | ⟨rfl, rfl⟩ | ⟨rfl, rfl⟩ | ⟨rfl, rfl⟩ | ⟨rfl, rfl⟩ | ⟨rfl, rfl⟩ | ⟨rfl, rfl⟩ |
      ⟨rfl, rfl⟩ := hi
    case inr.inr.inl => exact ⟨by decide, by decide, _, exec_task_of_idle hbegun ahead⟩
    all_goals exact ⟨by decide, by decide, _, rfl⟩
  obtain ⟨hle, hne, eff, hexec⟩ := hbegins
  obtain rfl : p.type = type := htype
  exact erring_result ⟨hen, hbegun, ⟨hstop, hpend⟩, hskip, ⟨rest, hahead⟩, hread, herr, hle, hne⟩ hexec

/-- Settles O47: a packet that begins moves QHEAD on, has its effect and posts its record, or records its error; the packets read
afterwards leave the rest of the queue alone. -/
theorem packetResult : Obligations.PacketResult := ⟨packetEffects, packetErrors⟩

end Sys2Proof.Machine
end

section
/-!
PROOF. SIGNAL, WAITSIG and AT packets (R275, R276, R278, R279, R285).
-/

namespace Sys2Proof.Machine

open Sys2Proof.Claims

/-! ## Bytes of device memory outside key regions (R66) -/

/-- A piece of device memory that no key covers. -/
def hbmPiece (a n : Nat) : Piece := ⟨⟨0, a, none⟩, n⟩

theorem State.ofBytes_readPieces_hbm (s : State) (a n : Nat) : ofBytes (s.readPieces [hbmPiece a n]) = s.mem.hbm.readN a n := by
  rw [Memory.readN_eq_ofBytes, State.readPieces, List.flatMap_singleton]
  rfl

theorem State.foldl_writePlace_hbm (s : State) (a i : Nat) (l : List Byte) :
    (List.zipWith (fun k b => ((⟨0, a + k, none⟩ : Place), b)) (List.range' i l.length) l).foldl (fun s x => s.writePlace x.1 x.2) s =
      { s with mem := { s.mem with hbm := hostPut s.mem.hbm (a + i) l } } := by
  induction l generalizing s i with
  | nil => rfl
  | cons b l ih => exact ih _ _

theorem State.engineCells_hbm (s : State) (a n : Nat) (l : List Byte) : s.engineCells (placeBytes [hbmPiece a n] l) = [] := by
  have hnone : (placeBytes [hbmPiece a n] l).filterMap
      (fun x => if 2 ≤ x.1.sp then some (spadIndex x.1.a, x.2) else none) = [] := by
    refine List.filterMap_eq_nil_iff.2 fun x hx => ?_
    rw [placeBytes, placeBytes, List.append_nil] at hx
    obtain ⟨k, hk, rfl⟩ := List.mem_iff_getElem.1 hx
    rw [List.getElem_zipWith]
    rfl
  rw [State.engineCells, hnone, List.filter_nil]

/-- A write without a scratchpad byte changes and triggers nothing there. -/
theorem State.spadQuiet_nil (s : State) (skip : Option (Nat × Nat)) : (s.spadQuiet [] skip).1 = s := by
  unfold State.spadQuiet
  split <;> rfl

/-- Writing a piece of device memory changes its bytes alone. -/
theorem State.writeMute_hbm (s : State) (a v n : Nat) : s.writeMute [hbmPiece a n] (toBytes v n) =
    { s with mem := { s.mem with hbm := hostPut s.mem.hbm a (toBytes v n) } } := by
  have hplaces : placeBytes [hbmPiece a n] (toBytes v n) =
      List.zipWith (fun k b => ((⟨0, a + k, none⟩ : Place), b)) (List.range' 0 (toBytes v n).length) (toBytes v n) := by
    rw [toBytes_length, ← List.range_eq_range', placeBytes, placeBytes, List.append_nil]
    rfl
  rw [State.writeMute, State.writeQuiet]
  rw [State.engineCells_hbm, State.spadQuiet_nil, hplaces, State.foldl_writePlace_hbm]
  rfl

theorem State.procPieces_taken (s : State) (q : Nat) (p : Pkt) (write : Bool) (va n : Nat) :
    (s.taken q p).procPieces ((s.taken q p).queue q).asid write va n = s.procPieces (s.queue q).asid write va n := by
  rw [State.taken_queue]
  simp only [State.procPieces]
  rw [State.taken, State.modQueue, State.translate_front]
  rfl

/-! ## SIGNAL (R275) -/

/-- The value that SIGNAL writes where `old` stands. -/
def signalValue (p : Pkt) (old : Nat) : Nat := if fld p.w 20 1 = 1 then old + pw p 2 else pw p 2

section

variable {s u : State} {q type : Nat} {p : Pkt} {rest : List Pkt}

/-- What 8 bytes written at an address leave of a memory. -/
theorem read_hostPut_toBytes {m : Memory} (h : m.wf = true) (a v : Nat) :
    (∀ k, k < 8 → (hostPut m a (toBytes v 8)).read (a + k) = BitVec.ofNat 8 (v / 256 ^ k)) ∧
      ∀ b, b < a ∨ a + 8 ≤ b → (hostPut m a (toBytes v 8)).read b = m.read b := by
  refine ⟨fun k hk => ?_, fun b hb => read_hostPut_other _ h (by rwa [toBytes_length])⟩
  rw [read_hostPut_same h (by rwa [toBytes_length]), toBytes_getElem]

/-- A packet whose effect is a change of memory. -/
theorem writes_result {i : Instr} {ahead : Nat} {eff : State → Pkt → State} {m : Mem} (h : NextUp s q p rest type)
    (hexec : exec i s = .next (s.begin_ q ahead type eff)) (heff : eff (s.taken q p) p = { s.taken q p with mem := m }) :
    Answers i s (fun t => t.mem = m ∧ Began s t q p [] 0 ∧ NoError s t q ∧ Aside s t) := by
  obtain ⟨t, ht, hr⟩ := exec_of_begins h hexec heff (plain_taken h)
  obtain ⟨hbegan, hnoError, haside⟩ := ((clean_of_nextUp h).of_memory m (s.taken q p).front.ev).of_readOn hr
  exact ⟨t, ht, hr.only.mem, hbegan, hnoError, haside⟩

/-- A packet whose effect is a queue error. -/
theorem fails_result {i : Instr} {ahead code : Nat} {eff : State → Pkt → State} (h : NextUp s q p rest type)
    (hexec : exec i s = .next (s.begin_ q ahead type eff)) (heff : eff (s.taken q p) p = (s.taken q p).queueErr q code p.num 0) :
    Answers i s (fun t => Began s t q p [] 0 ∧ ErrorAt s t q code p.num ∧ Aside s t) := by
  obtain ⟨hqueue, -, haside, -, -⟩ := (s.taken q p).queueErr_cases q code p.num 0
  have hplain : (((s.taken q p).queueErr q code p.num 0).queue q).Plain := by
    obtain ⟨hstop, hpend, hbegun⟩ := plain_taken h
    rw [hqueue]
    exact ⟨hstop, hpend, hbegun⟩
  obtain ⟨hbegan, hnoError, haside'⟩ := clean_of_nextUp h
  obtain ⟨t, ht, hr⟩ := exec_of_begins h hexec heff hplain
  exact ⟨t, ht, began_of_readOn (began_of_queueErr hbegan) hr,
    errorAt_of_readOn (errorAt_queueErr hnoError rfl rfl rfl code p.num) hr, aside_trans (aside_trans haside' haside) hr.only.aside⟩

theorem State.signalEff_host (hev : fld p.w 9 1 = 0) (hhost : fld p.w 21 1 = 1) : (s.taken q p).signalEff q p =
    { s.taken q p with mem := { s.mem with
        host := hostPut s.mem.host (pw p 1) (toBytes (signalValue p (s.mem.host.readN (pw p 1) 8)) 8) } } :=
  (if_pos hhost).trans (State.postDone_off hev 0)

theorem State.signalEff_device {a : Nat} (hev : fld p.w 9 1 = 0) (hdevice : fld p.w 21 1 = 0)
    (hplace : s.procPieces (s.queue q).asid true (pw p 1) 8 = some [hbmPiece a 8]) : (s.taken q p).signalEff q p =
    { s.taken q p with mem := { s.mem with hbm := hostPut s.mem.hbm a (toBytes (signalValue p (s.mem.hbm.readN a 8)) 8) } } := by
  have hhost : ¬ p.field 21 1 = 1 := fun h => by
    rw [Pkt.field, hdevice] at h
    cases h
  have hpieces : (s.taken q p).procPieces ((s.taken q p).queue q).asid true (p.word 1) 8 = some [hbmPiece a 8] :=
    (s.procPieces_taken q p true _ 8).trans hplace
  unfold State.signalEff
  rw [if_neg hhost, hpieces]
  dsimp only
  rw [State.ofBytes_readPieces_hbm, State.postDone_off hev]
  exact State.writeMute_hbm _ a _ 8

theorem State.signalEff_fails (hdevice : fld p.w 21 1 = 0) (hplace : s.procPieces (s.queue q).asid true (pw p 1) 8 = none) :
    (s.taken q p).signalEff q p = (s.taken q p).queueErr q 4 p.num 0 := by
  have hhost : ¬ p.field 21 1 = 1 := fun h => by
    rw [Pkt.field, hdevice] at h
    cases h
  have hpieces : (s.taken q p).procPieces ((s.taken q p).queue q).asid true (p.word 1) 8 = none :=
    (s.procPieces_taken q p true _ 8).trans hplace
  unfold State.signalEff
  rw [if_neg hhost, hpieces]

end

theorem signalPacketResult : SignalPacketResult := by
  intro q ahead s p rest h hev
  refine ⟨fun hhost hwf => ?_, fun a hdevice hwf hplace => ?_, fun hdevice hplace => ?_⟩
  · obtain ⟨t, ht, hmem, hrest⟩ := writes_result (i := .signal q ahead) h rfl (State.signalEff_host hev hhost)
    obtain ⟨hsame, hother⟩ := read_hostPut_toBytes hwf (pw p 1) (signalValue p (s.mem.host.readN (pw p 1) 8))
    refine ⟨t, ht, ?_⟩
    dsimp only
    rw [hmem]
    exact ⟨hsame, hother, rfl, rfl, hrest⟩
  · obtain ⟨t, ht, hmem, hrest⟩ := writes_result (i := .signal q ahead) h rfl (State.signalEff_device hev hdevice hplace)
    obtain ⟨hsame, hother⟩ := read_hostPut_toBytes hwf a (signalValue p (s.mem.hbm.readN a 8))
    refine ⟨t, ht, ?_⟩
    dsimp only
    rw [hmem]
    exact ⟨hsame, hother, rfl, rfl, hrest⟩
  · exact fails_result (i := .signal q ahead) h rfl (State.signalEff_fails hdevice hplace)

/-! ## A packet that has begun alone ends (R275, R276) -/

section

variable {s : State} {q : Nat} {b : Begun}

/-- A queue in which nothing that has begun is left. -/
def State.ends (s : State) (q id : Nat) : State :=
  s.modQueue q (fun u => { u with begun := u.begun.filter (fun x => decide (x.pkt.id ≠ id)) })

theorem State.ends_queue (h : Alone s q b) : (s.ends q b.pkt.id).queue q = { s.queue q with begun := [] } := by
  rw [State.ends, State.modQueue_queue_same, h.begun]
  simp

theorem queueOnly_ends (s : State) (q id : Nat) : QueueOnly s (s.ends q id) q := queueOnly_modQueue s q _

theorem plain_ends (h : Alone s q b) : ((s.ends q b.pkt.id).queue q).Plain := by
  rw [State.ends_queue h]
  exact ⟨h.stop.1, h.stop.2, nofun⟩

theorem State.tidy_plain_queue (h : (s.queue q).Plain) (k : Nat) : (s.tidy q).queue k = s.queue k := by
  rw [State.tidy_plain h]
  by_cases hk : k = q
  · subst hk
    rw [State.modQueue_queue_same, h.rest_eq]
  · exact s.modQueue_queue_other _ hk

theorem State.pktDone_of_alone (h : Alone s q b) (d : Nat) :
    s.pktDone q b.pkt.id d = ((s.ends q b.pkt.id).postDone q b.pkt d).tidy q := by
  rw [State.pktDone, h.begun]
  simp only [List.find?_cons, decide_true]
  rfl

theorem State.pktFail_of_alone (h : Alone s q b) (code : Nat) :
    s.pktFail q b.pkt.id code = ((s.ends q b.pkt.id).queueErr q code b.pkt.num 0).tidy q := by
  rw [State.pktFail, h.begun]
  simp only [List.find?_cons, decide_true]
  rfl

/-- The packet completes, posting its record if its event bit is set. -/
theorem pktDone_result (h : Alone s q b) (d : Nat) : Completes s (s.pktDone q b.pkt.id d) q ∧
    DoneEvent s (s.pktDone q b.pkt.id d) q b.pkt d ∧ Aside s (s.pktDone q b.pkt.id d) := by
  have hplain : (((s.ends q b.pkt.id).postDone q b.pkt d).queue q).Plain := plain_postDone (plain_ends h) d
  have hqueue (k : Nat) : (s.pktDone q b.pkt.id d).queue k = (s.ends q b.pkt.id).queue k := by
    rw [State.pktDone_of_alone h, State.tidy_plain_queue hplain, State.postDone_queue]
  have hr : ReadOn ((s.ends q b.pkt.id).postDone q b.pkt d) (s.pktDone q b.pkt.id d) q := by
    rw [State.pktDone_of_alone h]
    exact State.tidy_plain_readOn hplain
  exact ⟨⟨(hqueue q).trans (State.ends_queue h), fun k hk => (hqueue k).trans ((queueOnly_ends s q _).others k hk)⟩,
    doneEvent_of_posts hr rfl rfl rfl,
    aside_trans (aside_trans (queueOnly_ends s q _).aside (aside_postDone _ q b.pkt d)) hr.only.aside⟩

/-- The packet ends with a queue error. -/
theorem pktFail_result (h : Alone s q b) (code : Nat) : ((s.pktFail q b.pkt.id code).queue q).begun = [] ∧
    ErrorAt s (s.pktFail q b.pkt.id code) q code b.pkt.num ∧ (∀ k, k ≠ q → (s.pktFail q b.pkt.id code).queue k = s.queue k) ∧
    Aside s (s.pktFail q b.pkt.id code) := by
  obtain ⟨hqueue, hothers, haside, -, -⟩ := (s.ends q b.pkt.id).queueErr_cases q code b.pkt.num 0
  have hplain : (((s.ends q b.pkt.id).queueErr q code b.pkt.num 0).queue q).Plain := by
    obtain ⟨hstop, hpend, hbegun⟩ := plain_ends h
    rw [hqueue]
    exact ⟨hstop, hpend, hbegun⟩
  have hstat : NoError s (s.ends q b.pkt.id) q := by
    rw [NoError, State.ends_queue h]
    exact ⟨rfl, rfl, rfl⟩
  have hr := State.tidy_plain_readOn hplain
  rw [State.pktFail_of_alone h]
  refine ⟨?_, errorAt_of_readOn (errorAt_queueErr hstat rfl rfl rfl code b.pkt.num) hr, fun k hk => ?_,
    aside_trans (aside_trans (queueOnly_ends s q _).aside haside) hr.only.aside⟩
  · rw [State.tidy_plain_queue hplain, hqueue, State.ends_queue h]
  · rw [State.tidy_plain_queue hplain, hothers k hk]
    exact (queueOnly_ends s q _).others k hk

/-- The packet's queue error is recorded, and it completes without a record of its own. -/
theorem queueErr_pktDone_result (h : Alone s q b) (hev : fld b.pkt.w 9 1 = 0) (code : Nat) :
    let t := (s.queueErr q code b.pkt.num 0).pktDone q b.pkt.id 0
    (t.queue q).begun = [] ∧ ErrorAt s t q code b.pkt.num ∧ (∀ k, k ≠ q → t.queue k = s.queue k) ∧ Aside s t := by
  obtain ⟨hqueue, hothers, haside, -, -⟩ := s.queueErr_cases q code b.pkt.num 0
  obtain ⟨hbegun, hstop, hpend⟩ := h
  have hbegun' : ((s.queueErr q code b.pkt.num 0).queue q).begun = [b] := (congrArg Queue.begun hqueue).trans hbegun
  have hstop' : ((s.queueErr q code b.pkt.num 0).queue q).stopping = false := (congrArg Queue.stopping hqueue).trans hstop
  have hpend' : ((s.queueErr q code b.pkt.num 0).queue q).enPend = false := (congrArg Queue.enPend hqueue).trans hpend
  obtain ⟨honly, hdone⟩ := State.pktDone_alone hbegun' hev hstop' hpend' 0
  refine ⟨congrArg Queue.begun hdone, errorAt_of_queueOnly (errorAt_queueErr ⟨rfl, rfl, rfl⟩ rfl rfl rfl code b.pkt.num) honly ?_,
    fun k hk => (honly.others k hk).trans (hothers k hk), aside_trans haside honly.aside⟩
  exact ⟨(congrArg Queue.count hdone :), (congrArg Queue.first hdone :), (congrArg Queue.fpkt hdone :)⟩

end

/-! ## WAITSIG (R275, R279) -/

section

variable {s : State} {q v : Nat} {b : Begun} {p : Pkt} {rest : List Pkt}

theorem waitsig_result (h : NextUp s q p rest 4) (hread : s.procRead (s.queue q).asid (pw p 1) 8 = some v) (ahead : Nat) :
    Answers (.waitsig q ahead) s (fun t =>
      Began s t q p [⟨p, if pw p 4 = 0 then 0 else s.mod.time.now / 6486480 % 2 ^ 64 + 1000 * pw p 4 + 1⟩] 0 ∧ NoError s t q ∧
      t.mem = s.mem ∧ Aside s t) := by
  obtain ⟨x, htest, -⟩ := State.test_of_read (s := s.taken q p) ((s.procRead_taken q p _ _).trans hread)
  have heff : (s.taken q p).waitsigEff q p = (s.taken q p).goesOn q p
      (if p.word 4 = 0 then 0 else (s.taken q p).ns + 1000 * p.word 4 + 1) := by
    unfold State.waitsigEff
    rw [htest]
  obtain ⟨t, ht, hr⟩ := exec_of_begins (i := .waitsig q ahead) h rfl heff (plain_goesOn h ⟨by decide, by decide⟩ _)
  obtain ⟨hbegan, hnoError, haside⟩ := ((clean_of_nextUp h).goesOn _).of_readOn hr
  exact ⟨t, ht, hbegan, hnoError, hr.only.mem, haside⟩

theorem State.test_eq_none (h : s.procRead (s.queue q).asid (pw p 1) 8 = none) : s.test q p = none := by
  have hread : s.procRead (s.queue q).asid (p.word 1) 8 = none := h
  rw [State.test, hread]
  rfl

theorem State.waitsigHold_of_alone (h : Alone s q b) (htype : fld b.pkt.w 0 8 = 4) : s.waitsigHold q =
    match s.test q b.pkt with
    | none => s.pktFail q b.pkt.id 4
    | some true => s.pktDone q b.pkt.id 0
    | some false => s := by
  have htype' : b.pkt.type = 4 := htype
  unfold State.waitsigHold
  rw [h.begun]
  obtain htest | htest | htest : s.test q b.pkt = none ∨ s.test q b.pkt = some true ∨ s.test q b.pkt = some false := by
    rcases s.test q b.pkt with _ | _ | _ <;> simp
  all_goals simp [htest, htype']

/-- The deadline of a WAITSIG, if it has one. -/
theorem State.waitsigLate_of_alone (h : Alone s q b) (htype : fld b.pkt.w 0 8 = 4) : s.waitsigLate q =
    if b.prog ≠ 0 ∧ b.prog ≤ s.ns + 1 then (s.queueErr q 7 b.pkt.num 0).pktDone q b.pkt.id 0 else s := by
  have htype' : b.pkt.type = 4 := htype
  unfold State.waitsigLate
  rw [h.begun]
  by_cases hlate : b.prog ≠ 0 ∧ b.prog ≤ s.ns + 1
  · rw [if_pos hlate]
    simp [htype', hlate.1, hlate.2]
  · have hfind : (decide (b.pkt.type = 4) && decide (b.prog ≠ 0) && decide (b.prog ≤ s.ns + 1)) = false := by
      rw [Bool.and_assoc, ← Bool.decide_and, decide_eq_false hlate, Bool.and_false]
    rw [if_neg hlate, List.find?_cons, hfind, List.find?_nil]

end

/-! ## AT (R285) -/

section

variable {s : State} {q : Nat} {b : Begun}

theorem State.nextPkt_readOn (s : State) (q : Nat) : ReadOn s (s.nextPkt q) q := by
  rw [State.nextPkt]
  split
  · exact s.readPkt_readOn q
  · exact .refl s q

/-- Reading and preparing what an AT holds changes only what has been read and prepared. -/
theorem State.prepareHeld_only (s : State) (q : Nat) :
    QueueOnly s (s.prepareHeld q) q ∧ ((s.prepareHeld q).queue q).begun = (s.queue q).begun := by
  obtain ⟨honly, lv, l, hqueue⟩ := s.nextPkt_readOn q
  have hbegun : ((s.nextPkt q).queue q).begun = (s.queue q).begun := (congrArg Queue.begun hqueue :)
  unfold State.prepareHeld
  split
  · dsimp only
    split
    · exact ⟨honly, hbegun⟩
    · split
      · refine ⟨honly.trans (queueOnly_modQueue _ q _), ?_⟩
        rw [State.modQueue_queue_same]
        exact hbegun
      · exact ⟨honly, hbegun⟩
  · exact ⟨.refl s q, rfl⟩

theorem Queue.heldByAt_of_alone (h : Alone s q b) (htype : fld b.pkt.w 0 8 = 9) (hprog : b.prog = 0) : (s.queue q).heldByAt = true := by
  have htype' : b.pkt.type = 9 := htype
  rw [Queue.heldByAt, h.begun]
  simp [htype', hprog]

/-- A packet that an AT holds and that has been read is prepared if it is a LAUNCH. -/
theorem State.prepareHeld_queue {x : Pkt} {r : List Pkt} (hheld : (s.queue q).heldByAt = true) (hahead : (s.queue q).ahead = x :: r) :
    (s.prepareHeld q).queue q = { s.queue q with prep := held s q x } := by
  have hnext : s.nextPkt q = s := by
    rw [State.nextPkt, hahead]
    rfl
  have hlaunch : (decide (x.type = 1) && x.err.isNone && (s.queue q).prep.isNone) = true ↔
      fld x.w 0 8 = 1 ∧ x.err = none ∧ (s.queue q).prep = none := by
    rw [Bool.and_eq_true, Bool.and_eq_true, decide_eq_true_iff, Option.isNone_iff_eq_none, Option.isNone_iff_eq_none, and_assoc]
    rfl
  unfold State.prepareHeld
  rw [if_pos hheld, hnext]
  dsimp only
  split
  next hnil => cases hahead.symm.trans hnil
  next y r' hcons =>
  obtain rfl : x = y := (List.cons.inj (hahead.symm.trans hcons)).1
  by_cases hprep : (decide (x.type = 1) && x.err.isNone && (s.queue q).prep.isNone) = true
  · rw [if_pos hprep, State.modQueue_queue_same, held, if_pos (hlaunch.1 hprep)]
  · rw [if_neg hprep, held, if_neg (mt hlaunch.2 hprep)]

theorem onlyQueue_of_queueOnly {t : State} {u : Queue} (h : QueueOnly s t q) (hit : t.queue q = u) : OnlyQueue s t q u :=
  ⟨hit, h.others, h.aside, h.ev, h.mem, h.mod⟩

/-- An AT whose time has come is marked, once what it holds has been prepared. -/
theorem State.atReached_of_alone (h : Alone s q b) (htype : fld b.pkt.w 0 8 = 9) (hprog : b.prog = 0) (hdue : pw b.pkt 1 ≤ s.ns) :
    QueueOnly s (s.atReached q) q ∧
      (s.atReached q).queue q = { (s.prepareHeld q).queue q with begun := [{ b with prog := 1 }] } := by
  have htype' : b.pkt.type = 9 := htype
  have hdue' : b.pkt.word 1 ≤ s.ns := hdue
  obtain ⟨honly, hbegun⟩ := s.prepareHeld_only q
  unfold State.atReached
  dsimp only
  rw [if_pos (by simp [h.begun, htype', hprog, hdue'])]
  refine ⟨honly.trans (queueOnly_modQueue _ q _), ?_⟩
  rw [State.modQueue_queue_same, hbegun, h.begun]
  simp [htype', hprog, hdue']

theorem State.atReached_of_early (h : Alone s q b) (hearly : s.ns < pw b.pkt 1) : s.atReached q = s := by
  have hnot : ¬ b.pkt.word 1 ≤ s.ns := Nat.not_le.2 hearly
  unfold State.atReached
  dsimp only
  rw [if_neg (by simp [h.begun, hnot])]

theorem exec_prepare (s : State) (q : Nat) : exec (.engineCommandComplete (.prepare q)) s = .next (s.prepareHeld q) := by
  have hctx (k : Nat) : (s.prepareHeld q).ctx k = s.ctx k := by
    rw [State.ctx, (s.prepareHeld_only q).1.aside.ctxs]
    rfl
  exact exec_engineCommandComplete_of_same (congrArg Ctx.async (hctx _)) (congrArg Ctx.run (hctx _))

end

theorem waitPacketResult : WaitPacketResult := by
  intro q ahead v b s p rest
  refine ⟨fun h hread => waitsig_result h hread ahead, fun h htype hread => ⟨fun htests => ?_, fun htests => ?_⟩,
    fun h htype hread => ?_, fun h htype hev => ⟨fun hset hlate => ?_, fun hnot => ?_⟩, fun h htype hprog hdue => ?_,
    fun x r h htype hprog hahead => ?_, fun h htype hearly => ?_⟩
  · obtain ⟨x, htest, hx⟩ := State.test_of_read hread
    rw [hx.2 htests] at htest
    have hhold := State.waitsigHold_of_alone h htype
    rw [htest] at hhold
    exact ⟨_, congrArg Host.Outcome.next hhold, pktDone_result h 0⟩
  · obtain ⟨x, htest, hx⟩ := State.test_of_read hread
    rw [Bool.eq_false_iff.2 (mt hx.1 htests)] at htest
    have hhold := State.waitsigHold_of_alone h htype
    rw [htest] at hhold
    exact congrArg Host.Outcome.next hhold
  · have hhold := State.waitsigHold_of_alone h htype
    rw [State.test_eq_none hread] at hhold
    exact ⟨_, congrArg Host.Outcome.next hhold, pktFail_result h 4⟩
  · exact ⟨_, congrArg Host.Outcome.next ((State.waitsigLate_of_alone h htype).trans (if_pos ⟨hset, hlate⟩)),
      queueErr_pktDone_result h hev 7⟩
  · refine congrArg Host.Outcome.next ((State.waitsigLate_of_alone h htype).trans (if_neg fun hlate => ?_))
    exact hnot.elim hlate.1 (Nat.not_lt.2 hlate.2)
  · obtain ⟨honly, hqueue⟩ := State.atReached_of_alone h htype hprog hdue
    refine ⟨_, rfl, congrArg Queue.begun hqueue, honly.aside, honly.ev, honly.mem, honly.mod, fun x r hahead => ?_⟩
    rw [State.prepareHeld_queue (Queue.heldByAt_of_alone h htype hprog) hahead] at hqueue
    exact onlyQueue_of_queueOnly honly hqueue
  · exact ⟨_, exec_prepare s q, onlyQueue_of_queueOnly (s.prepareHeld_only q).1
      (State.prepareHeld_queue (Queue.heldByAt_of_alone h htype hprog) hahead)⟩
  · exact congrArg Host.Outcome.next (State.atReached_of_early h hearly)

/-- Settles O48: SIGNAL from the bytes of its 8-byte piece, WAITSIG and AT from what becomes of a packet that has begun alone. -/
theorem signalWaitPacketResult : Obligations.SignalWaitPacketResult := ⟨signalPacketResult, waitPacketResult⟩

end Sys2Proof.Machine
end

section
/-!
PROOF. Completion of a LAUNCH (R282, log 105) in a state whose context map is not in rising order: the refutation of O49.
-/

namespace Sys2Proof.Machine

open Sys2Proof.Claims

/-- A launch whose only context has been set aside under number 3000, and has ended. -/
def asideLaunch : Launch := ⟨0, 0, 0, [3000], [3000], [], 0, 0, [], [], [], [], [], []⟩

/-- The packet of that launch, begun. -/
def asideBegun : Begun := ⟨⟨0, 1, 0, 0, [], false, none, false, []⟩, 0⟩

/-- A context that has written predicate 1. -/
def writtenCtx : Ctx := { Ctx.reset with regs := { Ctx.reset.regs with c := 3#8 } }

/-- Context 5 stands behind number 3000 in the context map, so that reading the map at 5 stops before it. -/
def unsortedState : State :=
  let s := State.reset.modQueue 0 (fun u => { u with begun := [asideBegun] })
  { s with ctxs := [(3000, Ctx.reset), (5, writtenCtx)], front := { s.front with launches := [asideLaunch] } }

/-- Context 5 is not found. -/
theorem unsortedState_ctx : unsortedState.ctx 5 = Ctx.reset := rfl

/-- With the set-aside context gone, context 5 is found. -/
theorem unsortedState_launchFree : (unsortedState.launchFree asideLaunch).ctxs = [(5, writtenCtx)] := rfl

theorem alone_launchFree : Alone (unsortedState.launchFree asideLaunch) 0 asideBegun := ⟨rfl, rfl, rfl⟩

theorem unsortedState_launchDone : (unsortedState.launchDone 0).ctx 5 = writtenCtx := by
  have hdone : unsortedState.launchDone 0 = (unsortedState.launchFree asideLaunch).pktDone 0 0 0 := rfl
  obtain ⟨-, -, haside⟩ := pktDone_result alone_launchFree 0
  have hctxs : (unsortedState.launchDone 0).ctxs = [(5, writtenCtx)] :=
    (congrArg State.ctxs hdone).trans (haside.ctxs.trans unsortedState_launchFree)
  rw [State.ctx, hctxs]
  rfl

/-- Refutes O49: its second part claims that the registers of no context change, of every state, also of one whose context map is not
in rising order. There the map is read only as far as its first larger number, so that freeing a context that has been set aside
(log 105) uncovers the contexts that stand behind it. (`SMap.put`, by which the model stores contexts, keeps the numbers rising.) -/
theorem not_launchResult : ¬ Obligations.LaunchResult := by
  intro ⟨_, hcompletes⟩
  obtain ⟨t, ht, -, -, hregs, -⟩ := hcompletes asideLaunch asideBegun unsortedState rfl (by decide) rfl ⟨rfl, rfl, rfl⟩
  obtain rfl : unsortedState.launchDone 0 = t := Host.Outcome.next.inj ht
  have hsame := hregs 5 (by decide)
  rw [unsortedState_launchDone, unsortedState_ctx] at hsame
  exact absurd (congrArg Regs.c hsame) (by decide)

end Sys2Proof.Machine
end
